-- ==== Sys2Proof/Word.lean ====
section
/-! DEFINITION. The word types of the G4 and the names of its threads. -/

namespace Sys2Proof

/-- A uniform register, a doubleword (R6). -/
abbrev W64 := BitVec 64
/-- A lane register, an instruction word (R24, R129). -/
abbrev W32 := BitVec 32
/-- One byte of memory. -/
abbrev Byte := BitVec 8
/-- A program counter or a virtual address below 2^48 (R6). -/
abbrev Addr := BitVec 48

/-- A thread of R195: a spine thread (one per cluster), a gang of a group, a service thread (one per partition), and
the root monitor's thread. -/
inductive ThreadId where
  | spine (cluster : Nat)
  | gang (group gang : Nat)
  | service (part : Nat)
  | monitor
  deriving DecidableEq, Repr

end Sys2Proof
end

