-- ==== Sys2Proof/Syntax.lean ====
section
/-! DEFINITION. The syntax of Mbaraell: one constructor per row of the opcode table.
The first 160 constructors are instruction words and carry the raw fields of the word (R25 to R28).
The other 66 have no encoding: they are the device's own steps (timed events, engine turns, the effects
of a register write, host and link events) and carry the data that names which unit the step is of. -/

namespace Sys2Proof

/-- An offset in a window of its owner: a partition's export to the peers (R370), a function's BAR0 (R368). -/
structure WindowOffset where
  owner : Nat
  offset : Nat
  deriving DecidableEq, Repr

/-- R226, R370: the words of an incoming peer access: its value, and the swap value that a cas brings with it. -/
structure PeerOperands where
  v : W64
  c : W64
  deriving DecidableEq, Repr

inductive Instr where
  /-- R131. Lane integer add, optionally with signed saturation. -/
  | add (t : Bool) (d : BitVec 7) (a : BitVec 7) (b : BitVec 7) (bs : BitVec 2) (m : Bool)
  /-- R131. Lane integer subtract, optionally with signed saturation. -/
  | sub (t : Bool) (d : BitVec 7) (a : BitVec 7) (b : BitVec 7) (bs : BitVec 2) (m : Bool)
  /-- R131. Lane low 32-bit product. -/
  | mul (t : Bool) (d : BitVec 7) (a : BitVec 7) (b : BitVec 7) (bs : BitVec 2)
  /-- R131. Lane high 32 bits of the signed or unsigned product. -/
  | mulhi (t : Bool) (d : BitVec 7) (a : BitVec 7) (b : BitVec 7) (bs : BitVec 2) (m : Bool)
  /-- R131. Lane multiply-add a times b plus d, modulo 2^32. -/
  | imad (t : Bool) (d : BitVec 7) (a : BitVec 7) (b : BitVec 7) (bs : BitVec 2)
  /-- R131. Lane bitwise and. -/
  | and (t : Bool) (d : BitVec 7) (a : BitVec 7) (b : BitVec 7) (bs : BitVec 2)
  /-- R131. Lane bitwise or. -/
  | or (t : Bool) (d : BitVec 7) (a : BitVec 7) (b : BitVec 7) (bs : BitVec 2)
  /-- R131. Lane bitwise exclusive or. -/
  | xor (t : Bool) (d : BitVec 7) (a : BitVec 7) (b : BitVec 7) (bs : BitVec 2)
  /-- R131. Lane shift left by b[4:0]. -/
  | shl (t : Bool) (d : BitVec 7) (a : BitVec 7) (b : BitVec 7) (bs : BitVec 2)
  /-- R131. Lane shift right, logical or arithmetic. -/
  | shr (t : Bool) (d : BitVec 7) (a : BitVec 7) (b : BitVec 7) (bs : BitVec 2) (m : Bool)
  /-- R131. Lane signed or unsigned minimum. -/
  | min (t : Bool) (d : BitVec 7) (a : BitVec 7) (b : BitVec 7) (bs : BitVec 2) (m : Bool)
  /-- R131. Lane signed or unsigned maximum. -/
  | max (t : Bool) (d : BitVec 7) (a : BitVec 7) (b : BitVec 7) (bs : BitVec 2) (m : Bool)
  /-- R132. Lane integer compare writing a lane predicate. -/
  | icmp (t : Bool) (c : BitVec 4) (p : BitVec 3) (a : BitVec 7) (b : BitVec 7) (bs : BitVec 2)
  /-- R132. Lane select between two v registers on a predicate. -/
  | sel (t : Bool) (d : BitVec 7) (a : BitVec 7) (b : BitVec 7) (p : BitVec 3)
  /-- R133. Lane bit-field extract. -/
  | bfx (t : Bool) (d : BitVec 7) (a : BitVec 7) (b : BitVec 7) (bs : BitVec 2)
  /-- R133. Lane bit-field deposit into a clear word. -/
  | bfi (t : Bool) (d : BitVec 7) (a : BitVec 7) (b : BitVec 7) (bs : BitVec 2)
  /-- R134. Lane unary integer function selected by function code. -/
  | iun (t : Bool) (d : BitVec 7) (a : BitVec 7) (f : BitVec 7) (m : Bool)
  /-- R135. Lane add immediate. -/
  | addi (t : Bool) (d : BitVec 7) (a : BitVec 7) (imm : BitVec 10)
  /-- R135. Lane and immediate. -/
  | andi (t : Bool) (d : BitVec 7) (a : BitVec 7) (imm : BitVec 10)
  /-- R135. Lane or immediate. -/
  | ori (t : Bool) (d : BitVec 7) (a : BitVec 7) (imm : BitVec 10)
  /-- R135. Lane xor immediate. -/
  | xori (t : Bool) (d : BitVec 7) (a : BitVec 7) (imm : BitVec 10)
  /-- R135. Lane shift left by immediate. -/
  | shli (t : Bool) (d : BitVec 7) (a : BitVec 7) (imm : BitVec 5)
  /-- R135. Lane shift right by immediate, logical or arithmetic. -/
  | shri (t : Bool) (d : BitVec 7) (a : BitVec 7) (x : Bool) (imm : BitVec 5)
  /-- R135. Lane move of a signed 17-bit immediate. -/
  | movi (t : Bool) (d : BitVec 7) (imm : BitVec 17)
  /-- R132. Lane integer compare with immediate writing a predicate. -/
  | icmpi (t : Bool) (c : BitVec 4) (p : BitVec 3) (a : BitVec 7) (imm : BitVec 10)
  /-- R136. Lane FP32 add in the dynamic mode. -/
  | fadd (t : Bool) (d : BitVec 7) (a : BitVec 7) (b : BitVec 7) (bs : BitVec 2)
  /-- R136. Lane FP32 subtract. -/
  | fsub (t : Bool) (d : BitVec 7) (a : BitVec 7) (b : BitVec 7) (bs : BitVec 2)
  /-- R136. Lane FP32 multiply. -/
  | fmul (t : Bool) (d : BitVec 7) (a : BitVec 7) (b : BitVec 7) (bs : BitVec 2)
  /-- R136. Lane FP32 fused multiply-add reading D. -/
  | ffma (t : Bool) (d : BitVec 7) (a : BitVec 7) (b : BitVec 7) (bs : BitVec 2)
  /-- R136. Lane FP32 minimumNumber. -/
  | fmin (t : Bool) (d : BitVec 7) (a : BitVec 7) (b : BitVec 7) (bs : BitVec 2)
  /-- R136. Lane FP32 maximumNumber. -/
  | fmax (t : Bool) (d : BitVec 7) (a : BitVec 7) (b : BitVec 7) (bs : BitVec 2)
  /-- R136. Lane FP32 compare writing a predicate. -/
  | fcmp (t : Bool) (c : BitVec 4) (p : BitVec 3) (a : BitVec 7) (b : BitVec 7) (bs : BitVec 2)
  /-- R137. Lane FP32 special function selected by function code. -/
  | sfu (t : Bool) (d : BitVec 7) (a : BitVec 7) (f : BitVec 7)
  /-- R138. Lane format conversion with rounding and optional saturation. -/
  | cvt (t : Bool) (d : BitVec 7) (a : BitVec 7) (k : BitVec 4) (r : BitVec 3) (m : Bool)
  /-- R139. Lane packed FP16 or BF16 add. -/
  | hadd2 (t : Bool) (d : BitVec 7) (a : BitVec 7) (b : BitVec 7) (bs : BitVec 2) (m : Bool)
  /-- R139. Lane packed FP16 or BF16 multiply. -/
  | hmul2 (t : Bool) (d : BitVec 7) (a : BitVec 7) (b : BitVec 7) (bs : BitVec 2) (m : Bool)
  /-- R139. Lane packed FP16 or BF16 fused multiply-add. -/
  | hfma2 (t : Bool) (d : BitVec 7) (a : BitVec 7) (b : BitVec 7) (bs : BitVec 2) (m : Bool)
  /-- R141. Cross-lane move from a selected lane. -/
  | shflPick (t : Bool) (d : BitVec 7) (a : BitVec 7) (b : BitVec 7) (bs : BitVec 2)
  /-- R141. Cross-lane move from lane l xor mask. -/
  | shflSwap (t : Bool) (d : BitVec 7) (a : BitVec 7) (b : BitVec 7) (bs : BitVec 2)
  /-- R141. Cross-lane move from lane l minus distance. -/
  | shflBack (t : Bool) (d : BitVec 7) (a : BitVec 7) (b : BitVec 7) (bs : BitVec 2)
  /-- R141. Cross-lane move from lane l plus distance. -/
  | shflFwd (t : Bool) (d : BitVec 7) (a : BitVec 7) (b : BitVec 7) (bs : BitVec 2)
  /-- R142. Gathers a predicate or test over participants into a w register. -/
  | vote (t : Bool) (d : BitVec 6) (a : BitVec 7) (f : BitVec 7) (m : Bool)
  /-- R143. Folds v[A] of participants by a fixed tree into a w register. -/
  | redux (t : Bool) (d : BitVec 6) (a : BitVec 7) (f : BitVec 7)
  /-- R122. redux with a jetty destination, combining its result into an Armed jetty register. -/
  | contribution (t : Bool) (j : BitVec 6) (a : BitVec 7) (f : BitVec 7)
  /-- R144. Inclusive or exclusive prefix over lane order. -/
  | scan (t : Bool) (d : BitVec 7) (a : BitVec 7) (f : BitVec 7) (m : Bool)
  /-- R145. One bitonic compare-exchange stage on key and payload. -/
  | cmpx (t : Bool) (d : BitVec 7) (a : BitVec 7) (k : BitVec 3) (j : BitVec 3) (m : Bool)
  /-- R147. Sets the reconvergence address of each slice of the gang. -/
  | jpt (o : BitVec 21)
  /-- R148. Divergent lane branch, pushing reconvergence entries or splitting gangs. -/
  | brd (p : BitVec 3) (n : Bool) (o : BitVec 21)
  /-- R98. Slice waits until all non-exited slices reach the same regang, then they merge into one gang. -/
  | regang (t : Bool) (imm : BitVec 10)
  /-- R150. Lanes whose condition holds exit; a slice with no lanes left retires. -/
  | exit (p : BitVec 3) (n : Bool)
  /-- R153. Barrier board, hold or cross by a group of a party. -/
  | bar (t : Bool) (y : BitVec 2) (k : BitVec 2) (n : BitVec 4)
  /-- R221. Lane load from virtual memory, plain or acquire. -/
  | ld (t : Bool) (d : BitVec 7) (a : BitVec 7) (w : BitVec 6) (z : BitVec 2) (o : BitVec 2)
  /-- R221. Lane store to virtual memory, plain or release. -/
  | st (t : Bool) (d : BitVec 7) (a : BitVec 7) (w : BitVec 6) (z : BitVec 2) (o : BitVec 2)
  /-- R223. Lane load from scratchpad space. -/
  | lds (t : Bool) (d : BitVec 7) (a : BitVec 7) (w : BitVec 6) (z : BitVec 2)
  /-- R223. Lane store to scratchpad space. -/
  | sts (t : Bool) (d : BitVec 7) (a : BitVec 7) (w : BitVec 6) (z : BitVec 2)
  /-- R224. Lane load from the group's private window. -/
  | ldp (t : Bool) (d : BitVec 7) (a : BitVec 7) (w : BitVec 6) (z : BitVec 2)
  /-- R224. Lane store to the group's private window. -/
  | stp (t : Bool) (d : BitVec 7) (a : BitVec 7) (w : BitVec 6) (z : BitVec 2)
  /-- R225. Lane atomic at the home slice returning the old value. -/
  | atom (t : Bool) (d : BitVec 7) (a : BitVec 7) (w : BitVec 6) (c : BitVec 4)
  /-- R225. Lane atomic at the home slice with no result. -/
  | red (t : Bool) (d : BitVec 7) (a : BitVec 7) (w : BitVec 6) (c : BitVec 4)
  /-- R230. Exchange store of lane bytes into a target team's far bank. -/
  | xst (t : Bool) (d : BitVec 7) (a : BitVec 7) (w : BitVec 6) (z : BitVec 2)
  /-- R306. Per-lane service call; the group parks until the reply. -/
  | svc (t : Bool) (imm : BitVec 10)
  /-- R73. Uniform add with wrap or saturation. -/
  | uadd (t : Bool) (d : BitVec 6) (a : BitVec 6) (b : BitVec 6) (bs : BitVec 2) (w : Bool) (f : BitVec 3)
  /-- R73. Uniform subtract with wrap or saturation. -/
  | usub (t : Bool) (d : BitVec 6) (a : BitVec 6) (b : BitVec 6) (bs : BitVec 2) (w : Bool) (f : BitVec 3)
  /-- R72. Uniform low product. -/
  | umul (t : Bool) (d : BitVec 6) (a : BitVec 6) (b : BitVec 6) (bs : BitVec 2) (w : Bool)
  /-- R72. Uniform high half of the product. -/
  | umulh (t : Bool) (d : BitVec 6) (a : BitVec 6) (b : BitVec 6) (bs : BitVec 2) (w : Bool) (u : Bool)
  /-- R74. Uniform integer division. -/
  | udiv (t : Bool) (d : BitVec 6) (a : BitVec 6) (b : BitVec 6) (bs : BitVec 2) (w : Bool) (u : Bool)
  /-- R74. Uniform integer remainder. -/
  | urem (t : Bool) (d : BitVec 6) (a : BitVec 6) (b : BitVec 6) (bs : BitVec 2) (w : Bool) (u : Bool)
  /-- R72. Uniform bitwise and. -/
  | uand (t : Bool) (d : BitVec 6) (a : BitVec 6) (b : BitVec 6) (bs : BitVec 2)
  /-- R72. Uniform bitwise or. -/
  | uor (t : Bool) (d : BitVec 6) (a : BitVec 6) (b : BitVec 6) (bs : BitVec 2)
  /-- R72. Uniform bitwise xor. -/
  | uxor (t : Bool) (d : BitVec 6) (a : BitVec 6) (b : BitVec 6) (bs : BitVec 2)
  /-- R75. Uniform shift left. -/
  | ushl (t : Bool) (d : BitVec 6) (a : BitVec 6) (b : BitVec 6) (bs : BitVec 2) (w : Bool)
  /-- R75. Uniform shift right, logical or arithmetic. -/
  | ushr (t : Bool) (d : BitVec 6) (a : BitVec 6) (b : BitVec 6) (bs : BitVec 2) (w : Bool) (u : Bool)
  /-- R72. Uniform signed or unsigned minimum. -/
  | umin (t : Bool) (d : BitVec 6) (a : BitVec 6) (b : BitVec 6) (bs : BitVec 2) (u : Bool)
  /-- R72. Uniform signed or unsigned maximum. -/
  | umax (t : Bool) (d : BitVec 6) (a : BitVec 6) (b : BitVec 6) (bs : BitVec 2) (u : Bool)
  /-- R76. Uniform integer compare writing a k predicate. -/
  | ucmp (t : Bool) (k : BitVec 3) (a : BitVec 6) (b : BitVec 6) (bs : BitVec 2) (c : BitVec 4)
  /-- R72. Uniform select on a k predicate. -/
  | usel (t : Bool) (d : BitVec 6) (a : BitVec 6) (b : BitVec 6) (bs : BitVec 2) (k : BitVec 3)
  /-- R77. Uniform unary integer function selected by function code. -/
  | uun (t : Bool) (d : BitVec 6) (a : BitVec 6) (f : BitVec 6) (w : Bool)
  /-- R78. Uniform add immediate. -/
  | uaddi (t : Bool) (d : BitVec 6) (a : BitVec 6) (imm : BitVec 12)
  /-- R78. Uniform and immediate. -/
  | uandi (t : Bool) (d : BitVec 6) (a : BitVec 6) (imm : BitVec 12)
  /-- R78. Uniform or immediate. -/
  | uori (t : Bool) (d : BitVec 6) (a : BitVec 6) (imm : BitVec 12)
  /-- R78. Uniform xor immediate. -/
  | uxori (t : Bool) (d : BitVec 6) (a : BitVec 6) (imm : BitVec 12)
  /-- R78. Uniform shift left by immediate. -/
  | ushli (t : Bool) (d : BitVec 6) (a : BitVec 6) (imm : BitVec 6)
  /-- R78. Uniform shift right by immediate, logical or arithmetic. -/
  | ushri (t : Bool) (d : BitVec 6) (a : BitVec 6) (x : Bool) (imm : BitVec 6)
  /-- R78. Uniform move of a signed 18-bit immediate. -/
  | umovi (t : Bool) (d : BitVec 6) (imm : BitVec 18)
  /-- R78. Uniform compare with immediate writing a k predicate. -/
  | ucmpi (t : Bool) (k : BitVec 3) (a : BitVec 6) (c : BitVec 4) (imm : BitVec 8)
  /-- R80. Uniform FP32 or FP64 add. -/
  | ufadd (t : Bool) (d : BitVec 6) (a : BitVec 6) (b : BitVec 6) (bs : BitVec 2) (p : Bool) (r : BitVec 3)
  /-- R80. Uniform FP32 or FP64 subtract. -/
  | ufsub (t : Bool) (d : BitVec 6) (a : BitVec 6) (b : BitVec 6) (bs : BitVec 2) (p : Bool) (r : BitVec 3)
  /-- R80. Uniform FP32 or FP64 multiply. -/
  | ufmul (t : Bool) (d : BitVec 6) (a : BitVec 6) (b : BitVec 6) (bs : BitVec 2) (p : Bool) (r : BitVec 3)
  /-- R80. Uniform fused multiply-add reading D. -/
  | uffma (t : Bool) (d : BitVec 6) (a : BitVec 6) (b : BitVec 6) (bs : BitVec 2) (p : Bool) (r : BitVec 3)
  /-- R80. Uniform correctly rounded division. -/
  | ufdiv (t : Bool) (d : BitVec 6) (a : BitVec 6) (b : BitVec 6) (bs : BitVec 2) (p : Bool) (r : BitVec 3)
  /-- R81. Uniform floating unary function selected by function code. -/
  | ufun (t : Bool) (d : BitVec 6) (a : BitVec 6) (f : BitVec 6) (p : Bool) (r : BitVec 3)
  /-- R82. Uniform floating compare writing a k predicate. -/
  | ufcmp (t : Bool) (k : BitVec 3) (a : BitVec 6) (b : BitVec 6) (bs : BitVec 2) (p : Bool) (c : BitVec 3)
  /-- R83. Uniform floating and integer conversion. -/
  | ufcvt (t : Bool) (d : BitVec 6) (a : BitVec 6) (f : BitVec 6) (r : BitVec 3)
  /-- R84. Uniform load, plain or acquire. -/
  | uld (t : Bool) (d : BitVec 6) (a : BitVec 6) (o : BitVec 8) (z : BitVec 2) (q : BitVec 2)
  /-- R84. Uniform store, plain or release. -/
  | ust (t : Bool) (d : BitVec 6) (a : BitVec 6) (o : BitVec 8) (z : BitVec 2) (q : BitVec 2)
  /-- R227. Uniform 64-bit atomic, plain or ordered. -/
  | uamo (t : Bool) (d : BitVec 6) (a : BitVec 6) (b : BitVec 6) (c : BitVec 4) (q : BitVec 2)
  /-- R228. Acquire, release or full fence at a scope, optionally async. -/
  | fence (t : Bool) (y : Bool) (sc : BitVec 3) (k : BitVec 2)
  /-- R229. Prefetch, write-back, invalidate or zero of one line. -/
  | cache (t : Bool) (a : BitVec 6) (f : BitVec 6)
  /-- R119. Spine publishes or arms a jetty register, waiting until it is free. -/
  | jwr (t : Bool) (d : BitVec 6) (a : BitVec 6) (m : BitVec 4) (c : BitVec 8)
  /-- R124. Spine takes a reduced jetty value and leaves the register Idle. -/
  | jrd (t : Bool) (d : BitVec 6) (a : BitVec 6)
  /-- R121. Group releases one read of a Published jetty register. -/
  | jrel (t : Bool) (a : BitVec 6)
  /-- R87. Direct branch, unconditional or on a k predicate. -/
  | bra (k : BitVec 3) (n : Bool) (o : BitVec 21)
  /-- R87. Direct call writing w63. -/
  | call (o : BitVec 21)
  /-- R90. Indirect branch through a register, checked against a pad label or unchecked. -/
  | jmpr (t : Bool) (a : BitVec 6) (l : BitVec 12)
  /-- R91. Bounded jump through the table following the word. -/
  | jmpt (t : Bool) (a : BitVec 6) (n : BitVec 12)
  /-- R89. Landing pad; only advances the PC. -/
  | lpad (t : Bool) (l : BitVec 12)
  /-- R104. Checks a spawn record and places a grid on the launch queue. -/
  | spawn (t : Bool) (d : BitVec 6) (a : BitVec 6) (imm : Bool) (g : Bool) (c : Bool) (v : Bool)
  /-- R113. Waits until a counter reaches a target and returns it with acquire. -/
  | join (t : Bool) (d : BitVec 6) (a : BitVec 6) (b : BitVec 6)
  /-- R18. Moves a value between a uniform register and a system register. -/
  | sr (t : Bool) (d : BitVec 6) (a : BitVec 6) (n : BitVec 12)
  /-- R244. Issues a team collective copy slice into the open batch. -/
  | cpy (t : Bool) (a : BitVec 6) (y : BitVec 2) (x : BitVec 2)
  /-- R245. Issues a row gather by index list. -/
  | gather (t : Bool) (a : BitVec 6) (y : BitVec 2) (x : Bool)
  /-- R246. Issues a scatter of tokens into bins. -/
  | binscat (t : Bool) (a : BitVec 6) (x : BitVec 2)
  /-- R241. Closes the open batch and empties its status register. -/
  | bclose (t : Bool) (d : BitVec 6)
  /-- R251. Issues the group's part of a quad weight load. -/
  | mwld (t : Bool) (d : BitVec 6) (a : BitVec 6) (l : BitVec 2) (sf : Bool) (f : BitVec 4)
  /-- R256. Issues a stream-by-weights multiply into a tile. -/
  | mma (t : Bool) (d : BitVec 6) (a : BitVec 6) (r : BitVec 6) (z : Bool) (sf : Bool) (f : BitVec 4)
  /-- R258. Issues zeroing of a tile. -/
  | maccZero (t : Bool) (d : BitVec 6)
  /-- R258. Issues load of a tile from scratchpad. -/
  | maccLoad (t : Bool) (d : BitVec 6) (a : BitVec 6)
  /-- R259. Issues converting store of a tile to scratchpad. -/
  | maccStore (t : Bool) (d : BitVec 6) (a : BitVec 6) (c : BitVec 3)
  /-- R258. Issues elementwise FP32 add of one tile into another. -/
  | maccAdd (t : Bool) (d : BitVec 6) (b : BitVec 6)
  /-- R258. Issues scaling of a tile by an FP32 factor. -/
  | maccScale (t : Bool) (d : BitVec 6) (a : BitVec 6)
  /-- R258. Issues copy of one tile row into a lane register. -/
  | maccRow (t : Bool) (d : BitVec 6) (a : BitVec 6)
  /-- R261. Clears the halted state of the matrix queue. -/
  | maccClear (t : Bool)
  /-- R255. Waits until pending fills and scratchpad stores complete for matrix and stream commands. -/
  | mopfence (t : Bool)
  /-- R254. Issues a load of 1 KiB into a codebook slot. -/
  | cbload (t : Bool) (d : BitVec 6) (a : BitVec 6)
  /-- R267. Issues sending of a tile to a landing. -/
  | meet (t : Bool) (d : BitVec 6) (a : BitVec 6) (b : BitVec 6) (c : BitVec 2) (v : Bool) (o : BitVec 2)
  /-- R266. Allocates a landing tag to the caller's owner. -/
  | ltagAlloc (t : Bool) (d : BitVec 6)
  /-- R266. Frees a landing tag, discarding any waiting entry. -/
  | ltagFree (t : Bool) (a : BitVec 6)
  /-- R281. Issues opening of a stream on team tiles. -/
  | strmOpen (t : Bool) (d : BitVec 6) (a : BitVec 6)
  /-- R283. Issues one step of a stream. -/
  | strmStep (t : Bool) (d : BitVec 6) (a : BitVec 6)
  /-- R284. Issues a chunk of L stream steps. -/
  | strmScan (t : Bool) (d : BitVec 6) (a : BitVec 6)
  /-- R287. Issues writing of a stream's state record, optionally holding it. -/
  | strmSave (t : Bool) (d : BitVec 6) (a : BitVec 6) (h : Bool)
  /-- R287. Issues loading of a state record into a stream. -/
  | strmLoad (t : Bool) (d : BitVec 6) (a : BitVec 6)
  /-- R288. Issues closing of a stream. -/
  | strmClose (t : Bool) (d : BitVec 6) (a : BitVec 6)
  /-- R288. Issues a query of a stream's steps or status. -/
  | strmQuery (t : Bool) (d : BitVec 6) (a : BitVec 6) (q : Bool)
  /-- R232. Adds a share to the team's exchange counter. -/
  | xexp (t : Bool) (a : BitVec 6)
  /-- R233. Team barrier with swap of near and far exchange banks. -/
  | xbar (t : Bool)
  /-- R235. Snapshot of the team's exchange state. -/
  | xstat (t : Bool) (d : BitVec 6)
  /-- R321. Sends a hail to a context of this or a peer package. -/
  | hailSend (t : Bool) (d : BitVec 6) (a : BitVec 6)
  /-- R327. Sets and clears hail vector masks atomically. -/
  | hailMask (t : Bool) (d : BitVec 6) (a : BitVec 6)
  /-- R325. Waits for a deliverable vector and enters its handler with the payload. -/
  | hailTake (t : Bool) (d : BitVec 6) (a : BitVec 6)
  /-- R326. Ends service of a vector and reruns the take. -/
  | hailRet (t : Bool)
  /-- R328. Reads a vector's hail state or DROPS without delivering. -/
  | hailPend (t : Bool) (d : BitVec 6) (a : BitVec 6)
  /-- R329. Reads or writes a permission entry or a vector policy. -/
  | hailPerm (t : Bool) (d : BitVec 6) (a : BitVec 6)
  /-- R312. Completes, then takes the Requested trap and halts its unit. -/
  | sysTrap (t : Bool) (n : BitVec 6)
  /-- R305. Service call to the service core or root monitor. -/
  | sysSvc (t : Bool) (n : BitVec 6)
  /-- R307. Replies to a service call and resumes the caller. -/
  | sysEret (t : Bool) (a : BitVec 6)
  /-- R312. Completes, then takes the Breakpoint trap. -/
  | sysBkpt (t : Bool) (n : BitVec 6)
  /-- R332. Stops the thread under a pre-emption request until restore. -/
  | sysYield (t : Bool)
  /-- R313. Waits for a deliverable hail or a timebase value. -/
  | sysWaiti (t : Bool) (d : BitVec 6) (a : BitVec 6)
  /-- R314. Halts, resumes or aborts units of a grid. -/
  | sysHalt (t : Bool) (d : BitVec 6) (a : BitVec 6)
  /-- R360. Returns the distance between two virtual dies. -/
  | sysVdist (t : Bool) (d : BitVec 6) (a : BitVec 6) (b : BitVec 6)
  /-- R360. Returns the binding status of a virtual die. -/
  | sysVdie (t : Bool) (d : BitVec 6) (a : BitVec 6)
  /-- R303. Handler maps a delegated faulting page and resolves its record. -/
  | sysFmap (t : Bool) (d : BitVec 6) (a : BitVec 6)
  /-- R303. Resolves a fault record by replaying its accesses. -/
  | sysFretry (t : Bool) (d : BitVec 6) (a : BitVec 6)
  /-- R303. Resolves a fault record by emulating the opening word. -/
  | sysFskip (t : Bool) (d : BitVec 6) (a : BitVec 6)
  /-- R303. Resolves a fault record by trapping the opening word. -/
  | sysFabort (t : Bool) (d : BitVec 6) (a : BitVec 6)
  /-- R339. Saves one context and restores another. -/
  | sysCtxsw (t : Bool) (d : BitVec 6) (a : BitVec 6)
  /-- R339. Restores a context. -/
  | sysCtxld (t : Bool) (d : BitVec 6) (a : BitVec 6)
  /-- R14. Makes instruction fetch observe earlier stores to code. -/
  | sysCodefence (t : Bool)
  /-- R32. Prefix widening the immediate of the next word. -/
  | immx (imm : BitVec 25)
  /-- R62. Write of sr.FPCTL with RESEED reloads every lane's generator of the group. -/
  | fpctlReseed (v : W64)
  /-- R182. Write of sr.TLBINV removing translations of one page of an ASID. -/
  | tlbinvPage (part : Nat) (vpn : BitVec 36) (asid : BitVec 16)
  /-- R182. Write of sr.TLBINV with ALLPAGES removing every translation of an ASID. -/
  | tlbinvAllpages (part : Nat) (asid : BitVec 16)
  /-- R182. Write of sr.TLBINV with ALLASID removing every translation of the partition. -/
  | tlbinvAllasid (part : Nat)
  /-- R337. Write of sr.CTXREQ raising a pre-emption request against a context. -/
  | ctxreqRequest (part ctx : Nat)
  /-- R337. Write of sr.CTXREQ with NOW forcing the save at once. -/
  | ctxreqNow (part ctx : Nat)
  /-- R337. Write of sr.CTXREQ with DESTROY discarding a SAVED context and all it holds. -/
  | ctxreqDestroy (part ctx : Nat)
  /-- R338. Read of sr.NOTICE pops one notice from the service core's queue. -/
  | noticePop (part : Nat) (d : BitVec 6)
  /-- R381. Write of sr.PWRCTL POINT requesting a new operating point. -/
  | pwrctlPoint (point : BitVec 3)
  /-- R382. Write of sr.PWRCTL GATE requesting gating or ungating of compute dies. -/
  | pwrctlGate (gate : BitVec 16)
  /-- R20. Write of any system register that has no row of its own. -/
  | registerWrite (n : BitVec 12) (v : W64)
  /-- R157. Gate counter is re-tested within 2,000 ns after a write to its line; passing moves the grid to PASSED. -/
  | gateTest (grid : Nat)
  /-- R161. Distributor places queued teams by priority and preference, at least once per 64 cycles. -/
  | placementStep (part : Nat)
  /-- R111. Group retires once its last slice has retired and its commands have completed. -/
  | groupRetire (group : Nat)
  /-- R112. When all teams retire and spine instances end, release and increment the join counter. -/
  | gridEnd (grid : Nat)
  /-- R220. Returning load or atomic data fills the destination register. -/
  | loadReply (req : Nat)
  /-- R190. Slice arithmetic unit performs an atomic in the location's total order. -/
  | sliceAtomic (req : Nat)
  /-- R201. Dirty SHARED sector is written back within 8,000 ns of becoming dirty. -/
  | dirtyWriteback (cpt sector : Nat)
  /-- R176. A write-combining line is written to its slice when complete, evicted or 1,000 ns old. -/
  | streamBufferFlush (cluster line : Nat)
  /-- R206. Accumulator halves rotate at each multiple of LEASE. -/
  | accumulatorRotate (cpt : Nat)
  /-- R231. Delivered xst bytes land in the far bank and lower the exchange counter. -/
  | xstoreDelivery (src dst : Nat)
  /-- R244. Once every non-retired group has supplied its slice, the collective copies. -/
  | cpyCollectiveStart (team : Nat)
  /-- R245. Engine fetches indexed rows, skipping faulting rows. -/
  | gatherRun (cmd : Nat)
  /-- R246. Engine bumps bin counters and writes tokens in order. -/
  | binscatRun (cmd : Nat)
  /-- R241. When every command of a closed batch completes, its status register fills. -/
  | batchComplete (group batch : Nat)
  /-- R253. When all four mwld reach their queue heads, the B tile is written into the quad's weight sets. -/
  | weightLoad (team quad : Nat)
  /-- R257. At its queue turn, mma accumulates products block by block into the tile. -/
  | mmaTurn (group : Nat)
  /-- R258. At its queue turn, a macc function acts on its tile. -/
  | maccTurn (group : Nat)
  /-- R254. After its waits, cbload copies 1 KiB into the slot and marks it loaded. -/
  | cbloadTurn (group : Nat)
  /-- R268. At its turn, meet releases and sends its tile to the tag's home slice. -/
  | meetTurn (group : Nat)
  /-- R271. Home slice matches and combines an arriving tile and returns its status. -/
  | landingArrival (part index : Nat)
  /-- R274. Entry's running count reaches its class duration; forward INCOMPLETE and orphan the tag. -/
  | landingTimeout (part index : Nat)
  /-- R279. A stream command runs at its turn in the stream queue. -/
  | strmTurn (cmd : Nat)
  /-- R319. Hail unit accepts, drops or coalesces an arriving hail. -/
  | hailAccept (part ctx : Nat)
  /-- R322. Host writes a 16-byte message to a function's hail window. -/
  | hostHailMessage (func : Nat) (size : Nat) (msg : BitVec 128)
  /-- R304. A parked group returns to a free slot of its scheduler after its reply. -/
  | unpark (group : Nat)
  /-- R332. DEADLINE cycles after a request reach a core; the save is forced. -/
  | preemptDeadline (part ctx : Nat)
  /-- R333. Save of a quiescent context in order, ending with a SAVED notice. -/
  | contextSave (part ctx : Nat)
  /-- R334. Saved units are restored as room allows, then issue resumes. -/
  | contextRestore (part ctx : Nat)
  /-- R340. Hypervisor switches the partition to another virtual function. -/
  | functionSwitch (part func : Nat)
  /-- R344. Root monitor loads a new service image for a partition. -/
  | serviceImageLoad (part : Nat) (entry : BitVec 48)
  /-- R343. Root monitor changes a partition's borders in order. -/
  | borderChange (part base logk deadline : Nat) (pagesMigrated : Bool)
  /-- R343. Border deadline expires and remaining cluster shares are saved and replaced. -/
  | borderDeadline (part : Nat)
  /-- R166. At each accounting window end, the controller may move clusters to a short partition. -/
  | partitionWindowEnd (short rich base logk : Nat)
  /-- R346. Sensor alarm erases keys and halts affected partitions. -/
  | securityAlarm (die : Nat) (tamper : Bool)
  /-- R362. Receiver accepts an in-order good flit or discards it and NAKs. -/
  | flitReceive (link : Nat) (hdr ack : BitVec 16) (payload : BitVec 1984) (crc : BitVec 32)
  /-- R362. No ACK progress for 1,000 ns; sender resends from the oldest unacknowledged flit. -/
  | replayTimeout (link : Nat)
  /-- R363. After 16 resends without progress the module retrains. -/
  | linkRetrain (link : Nat) (lowHalf highHalf : Bool)
  /-- R364. No reply after 100,000 ns; the request is resent with the same identifier. -/
  | requestResend (port num : Nat)
  /-- R370. An incoming peer access, with its request number and the partition and offset it names, is performed at the home
  slice or refused. -/
  | peerAccess (port num : Nat) (place : WindowOffset) (kind size : Nat) (v : PeerOperands)
  /-- R367. Host snoop of a host line held by a slice. -/
  | hostSnoop (line : Nat) (inval : Bool)
  /-- R367. Host CXL.mem access to device HBM at the home controller. -/
  | hostMemAccess (addr size : Nat) (write : Bool) (v : W64)
  /-- R381. Operating point change completes and issue resumes. -/
  | pointChangeDone
  /-- R382. A drained gated die writes back its L1s and powers off. -/
  | diePowerOff (die : Nat)
  /-- R382. An ungated die returns with empty cores. -/
  | ungateDone (die : Nat)
  /-- R384. Above 100 degrees, CURPOINT steps down each 1,000,000 ns until cool. -/
  | thermalStep (tj : BitVec 8)
  /-- R384. At 115 degrees every partition halts and the host is notified. -/
  | thermalTrip (tj : BitVec 8)
  /-- R383. Boot ROM measures and verifies the monitor image and starts training. -/
  | powerUp (digest : BitVec 384) (verified : Bool)
  /-- R383. A die completes training; reduced service begins or ends. -/
  | dieTrained (base : Bool) (die : Nat) (ok : Bool)
  /-- R385. Management message over I3C acting as a root-monitor access. -/
  | mctpMessage (kind : Nat) (v : W64)
  /-- R313. The timebase reaches the value in w[A] while a thread waits in sys.waiti, which then writes 0 and completes. -/
  | waitiTimeReached (th : ThreadId)
  /-- R369. A package-link port trains with its peer, exchanging package identifiers and setting or clearing UP and NARROW in sr.PLSTAT. -/
  | packagePortTraining (port : Nat) (up narrow : Bool) (peer : BitVec 16)
  /-- R366. A CXL port trains, or trains down in rate or width, with the host. -/
  | cxlPortTraining (port rate width : Nat)
  /-- R367. The host answers a back-invalidation snoop, and the home controller completes the waiting slice fill of HDM-DB memory. -/
  | backInvalidationResponse (line : Nat)
  /-- R385. The host writes a management register through BAR0 over CXL.io, taking effect as a root-monitor write in the order received. -/
  | bar0RegisterWrite (place : WindowOffset) (v : W64)
  /-- R345. The root monitor creates a partition, or creates it anew after a security alarm, and draws its HBM key from the random source. -/
  | partitionCreation (part base logk : Nat) (key : BitVec 512)
  deriving DecidableEq, Repr

end Sys2Proof
end

