-- ==== Sys2Proof/Decode.lean ====
section
/-! DEFINITION. The decoder of R24 to R35 (word to instruction, total, refusing by name), and after it the encoder
written from the same encoding tables. A field is read and placed with Nat division and remainder, so that the
round trip is linear arithmetic. Reserved function codes and limits inside a field are decode check 2 of R49; they are
`Instr.wf` (WellFormed.lean), which `issue` (Machine/Issue.lean) checks when the word is executed. -/

namespace Sys2Proof

/-- Why a word is no instruction of the opcode map: each is an Illegal Instruction trap under R49. -/
inductive Reject where
  /-- R34: lane opcodes 0x39 to 0x3F are reserved. -/
  | laneOpcode (op : Nat)
  /-- R49: a field marked must-be-zero is not zero, or a function code has no row, in a word of this opcode. -/
  | reservedField (op : Nat)
  /-- Fewer than the four bytes of a word (R24). -/
  | short
  deriving DecidableEq, Repr

/-- Bits [lo + len - 1 : lo] of a word. -/
def fld (w lo len : Nat) : Nat := w / 2 ^ lo % 2 ^ len

/-- A one-bit field. -/
def flag (w lo : Nat) : Bool := w / 2 ^ lo % 2 == 1

/-- An n-bit field as a bit vector. -/
def bits (n w lo : Nat) : BitVec n := BitVec.ofNat n (w / 2 ^ lo % 2 ^ n)

/-- The rows whose bits [31:25] lie in 0 to 63. -/
def decodeLane (w : Nat) : Except Reject Instr :=
  match w / 2 ^ 25 with
  | 0 => .ok (.add (flag w 24) (bits 7 w 17) (bits 7 w 10) (bits 7 w 3) (bits 2 w 1) (flag w 0))
  | 1 => .ok (.sub (flag w 24) (bits 7 w 17) (bits 7 w 10) (bits 7 w 3) (bits 2 w 1) (flag w 0))
  | 2 =>
    if fld w 0 1 = 0 then .ok (.mul (flag w 24) (bits 7 w 17) (bits 7 w 10) (bits 7 w 3) (bits 2 w 1)) else .error (.reservedField 2)
  | 3 => .ok (.mulhi (flag w 24) (bits 7 w 17) (bits 7 w 10) (bits 7 w 3) (bits 2 w 1) (flag w 0))
  | 4 =>
    if fld w 0 1 = 0 then .ok (.imad (flag w 24) (bits 7 w 17) (bits 7 w 10) (bits 7 w 3) (bits 2 w 1)) else .error (.reservedField 4)
  | 5 =>
    if fld w 0 1 = 0 then .ok (.and (flag w 24) (bits 7 w 17) (bits 7 w 10) (bits 7 w 3) (bits 2 w 1)) else .error (.reservedField 5)
  | 6 =>
    if fld w 0 1 = 0 then .ok (.or (flag w 24) (bits 7 w 17) (bits 7 w 10) (bits 7 w 3) (bits 2 w 1)) else .error (.reservedField 6)
  | 7 =>
    if fld w 0 1 = 0 then .ok (.xor (flag w 24) (bits 7 w 17) (bits 7 w 10) (bits 7 w 3) (bits 2 w 1)) else .error (.reservedField 7)
  | 8 =>
    if fld w 0 1 = 0 then .ok (.shl (flag w 24) (bits 7 w 17) (bits 7 w 10) (bits 7 w 3) (bits 2 w 1)) else .error (.reservedField 8)
  | 9 => .ok (.shr (flag w 24) (bits 7 w 17) (bits 7 w 10) (bits 7 w 3) (bits 2 w 1) (flag w 0))
  | 10 => .ok (.min (flag w 24) (bits 7 w 17) (bits 7 w 10) (bits 7 w 3) (bits 2 w 1) (flag w 0))
  | 11 => .ok (.max (flag w 24) (bits 7 w 17) (bits 7 w 10) (bits 7 w 3) (bits 2 w 1) (flag w 0))
  | 12 =>
    if fld w 0 1 = 0 then .ok (.icmp (flag w 24) (bits 4 w 20) (bits 3 w 17) (bits 7 w 10) (bits 7 w 3) (bits 2 w 1)) else .error (.reservedField 12)
  | 13 => .ok (.sel (flag w 24) (bits 7 w 17) (bits 7 w 10) (bits 7 w 3) (bits 3 w 0))
  | 14 =>
    if fld w 0 1 = 0 then .ok (.bfx (flag w 24) (bits 7 w 17) (bits 7 w 10) (bits 7 w 3) (bits 2 w 1)) else
    if fld w 0 1 = 1 then .ok (.bfi (flag w 24) (bits 7 w 17) (bits 7 w 10) (bits 7 w 3) (bits 2 w 1)) else .error (.reservedField 14)
  | 15 =>
    if fld w 1 2 = 0 then .ok (.iun (flag w 24) (bits 7 w 17) (bits 7 w 10) (bits 7 w 3) (flag w 0)) else .error (.reservedField 15)
  | 16 => .ok (.addi (flag w 24) (bits 7 w 17) (bits 7 w 10) (bits 10 w 0))
  | 17 => .ok (.andi (flag w 24) (bits 7 w 17) (bits 7 w 10) (bits 10 w 0))
  | 18 => .ok (.ori (flag w 24) (bits 7 w 17) (bits 7 w 10) (bits 10 w 0))
  | 19 => .ok (.xori (flag w 24) (bits 7 w 17) (bits 7 w 10) (bits 10 w 0))
  | 20 =>
    if fld w 5 5 = 0 then .ok (.shli (flag w 24) (bits 7 w 17) (bits 7 w 10) (bits 5 w 0)) else .error (.reservedField 20)
  | 21 =>
    if fld w 5 4 = 0 then .ok (.shri (flag w 24) (bits 7 w 17) (bits 7 w 10) (flag w 9) (bits 5 w 0)) else .error (.reservedField 21)
  | 22 => .ok (.movi (flag w 24) (bits 7 w 17) (bits 17 w 0))
  | 23 => .ok (.icmpi (flag w 24) (bits 4 w 20) (bits 3 w 17) (bits 7 w 10) (bits 10 w 0))
  | 24 =>
    if fld w 0 1 = 0 then .ok (.fadd (flag w 24) (bits 7 w 17) (bits 7 w 10) (bits 7 w 3) (bits 2 w 1)) else .error (.reservedField 24)
  | 25 =>
    if fld w 0 1 = 0 then .ok (.fsub (flag w 24) (bits 7 w 17) (bits 7 w 10) (bits 7 w 3) (bits 2 w 1)) else .error (.reservedField 25)
  | 26 =>
    if fld w 0 1 = 0 then .ok (.fmul (flag w 24) (bits 7 w 17) (bits 7 w 10) (bits 7 w 3) (bits 2 w 1)) else .error (.reservedField 26)
  | 27 =>
    if fld w 0 1 = 0 then .ok (.ffma (flag w 24) (bits 7 w 17) (bits 7 w 10) (bits 7 w 3) (bits 2 w 1)) else .error (.reservedField 27)
  | 28 =>
    if fld w 0 1 = 0 then .ok (.fmin (flag w 24) (bits 7 w 17) (bits 7 w 10) (bits 7 w 3) (bits 2 w 1)) else .error (.reservedField 28)
  | 29 =>
    if fld w 0 1 = 0 then .ok (.fmax (flag w 24) (bits 7 w 17) (bits 7 w 10) (bits 7 w 3) (bits 2 w 1)) else .error (.reservedField 29)
  | 30 =>
    if fld w 0 1 = 0 then .ok (.fcmp (flag w 24) (bits 4 w 20) (bits 3 w 17) (bits 7 w 10) (bits 7 w 3) (bits 2 w 1)) else .error (.reservedField 30)
  | 31 =>
    if fld w 0 3 = 0 then .ok (.sfu (flag w 24) (bits 7 w 17) (bits 7 w 10) (bits 7 w 3)) else .error (.reservedField 31)
  | 32 =>
    if fld w 1 2 = 0 then .ok (.cvt (flag w 24) (bits 7 w 17) (bits 7 w 10) (bits 4 w 6) (bits 3 w 3) (flag w 0)) else .error (.reservedField 32)
  | 33 => .ok (.hadd2 (flag w 24) (bits 7 w 17) (bits 7 w 10) (bits 7 w 3) (bits 2 w 1) (flag w 0))
  | 34 => .ok (.hmul2 (flag w 24) (bits 7 w 17) (bits 7 w 10) (bits 7 w 3) (bits 2 w 1) (flag w 0))
  | 35 => .ok (.hfma2 (flag w 24) (bits 7 w 17) (bits 7 w 10) (bits 7 w 3) (bits 2 w 1) (flag w 0))
  | 36 =>
    if fld w 0 1 = 0 then .ok (.shflPick (flag w 24) (bits 7 w 17) (bits 7 w 10) (bits 7 w 3) (bits 2 w 1)) else
    if fld w 0 1 = 1 then .ok (.shflSwap (flag w 24) (bits 7 w 17) (bits 7 w 10) (bits 7 w 3) (bits 2 w 1)) else .error (.reservedField 36)
  | 37 =>
    if fld w 0 1 = 0 then .ok (.shflBack (flag w 24) (bits 7 w 17) (bits 7 w 10) (bits 7 w 3) (bits 2 w 1)) else
    if fld w 0 1 = 1 then .ok (.shflFwd (flag w 24) (bits 7 w 17) (bits 7 w 10) (bits 7 w 3) (bits 2 w 1)) else .error (.reservedField 37)
  | 38 =>
    if fld w 1 2 = 0 ∧ fld w 23 1 = 0 then .ok (.vote (flag w 24) (bits 6 w 17) (bits 7 w 10) (bits 7 w 3) (flag w 0)) else .error (.reservedField 38)
  | 39 =>
    if fld w 0 3 = 0 ∧ fld w 23 1 = 0 then .ok (.redux (flag w 24) (bits 6 w 17) (bits 7 w 10) (bits 7 w 3)) else
    if fld w 0 3 = 0 ∧ fld w 23 1 = 1 then .ok (.contribution (flag w 24) (bits 6 w 17) (bits 7 w 10) (bits 7 w 3)) else .error (.reservedField 39)
  | 40 =>
    if fld w 1 2 = 0 then .ok (.scan (flag w 24) (bits 7 w 17) (bits 7 w 10) (bits 7 w 3) (flag w 0)) else .error (.reservedField 40)
  | 41 =>
    if fld w 1 2 = 3 ∧ fld w 9 1 = 0 then .ok (.cmpx (flag w 24) (bits 7 w 17) (bits 7 w 10) (bits 3 w 6) (bits 3 w 3) (flag w 0)) else .error (.reservedField 41)
  | 42 =>
    if fld w 21 4 = 14 then .ok (.jpt (bits 21 w 0)) else .error (.reservedField 42)
  | 43 => .ok (.brd (bits 3 w 22) (flag w 21) (bits 21 w 0))
  | 44 =>
    if fld w 10 14 = 0 then .ok (.regang (flag w 24) (bits 10 w 0)) else .error (.reservedField 44)
  | 45 =>
    if fld w 0 21 = 0 then .ok (.exit (bits 3 w 22) (flag w 21)) else .error (.reservedField 45)
  | 46 =>
    if fld w 8 16 = 0 then .ok (.bar (flag w 24) (bits 2 w 6) (bits 2 w 4) (bits 4 w 0)) else .error (.reservedField 46)
  | 47 => .ok (.ld (flag w 24) (bits 7 w 17) (bits 7 w 10) (bits 6 w 4) (bits 2 w 2) (bits 2 w 0))
  | 48 => .ok (.st (flag w 24) (bits 7 w 17) (bits 7 w 10) (bits 6 w 4) (bits 2 w 2) (bits 2 w 0))
  | 49 =>
    if fld w 0 2 = 0 then .ok (.lds (flag w 24) (bits 7 w 17) (bits 7 w 10) (bits 6 w 4) (bits 2 w 2)) else .error (.reservedField 49)
  | 50 =>
    if fld w 0 2 = 0 then .ok (.sts (flag w 24) (bits 7 w 17) (bits 7 w 10) (bits 6 w 4) (bits 2 w 2)) else .error (.reservedField 50)
  | 51 =>
    if fld w 0 2 = 0 then .ok (.ldp (flag w 24) (bits 7 w 17) (bits 7 w 10) (bits 6 w 4) (bits 2 w 2)) else .error (.reservedField 51)
  | 52 =>
    if fld w 0 2 = 0 then .ok (.stp (flag w 24) (bits 7 w 17) (bits 7 w 10) (bits 6 w 4) (bits 2 w 2)) else .error (.reservedField 52)
  | 53 => .ok (.atom (flag w 24) (bits 7 w 17) (bits 7 w 10) (bits 6 w 4) (bits 4 w 0))
  | 54 => .ok (.red (flag w 24) (bits 7 w 17) (bits 7 w 10) (bits 6 w 4) (bits 4 w 0))
  | 55 =>
    if fld w 0 2 = 0 then .ok (.xst (flag w 24) (bits 7 w 17) (bits 7 w 10) (bits 6 w 4) (bits 2 w 2)) else .error (.reservedField 55)
  | 56 =>
    if fld w 10 14 = 0 then .ok (.svc (flag w 24) (bits 10 w 0)) else .error (.reservedField 56)
  | n => .error (.laneOpcode n)

/-- The rows whose bits [31:25] lie in 64 to 127. -/
def decodeUniform (w : Nat) : Except Reject Instr :=
  match w / 2 ^ 25 with
  | 64 => .ok (.uadd (flag w 24) (bits 6 w 18) (bits 6 w 12) (bits 6 w 6) (bits 2 w 4) (flag w 3) (bits 3 w 0))
  | 65 => .ok (.usub (flag w 24) (bits 6 w 18) (bits 6 w 12) (bits 6 w 6) (bits 2 w 4) (flag w 3) (bits 3 w 0))
  | 66 =>
    if fld w 0 3 = 0 then .ok (.umul (flag w 24) (bits 6 w 18) (bits 6 w 12) (bits 6 w 6) (bits 2 w 4) (flag w 3)) else .error (.reservedField 66)
  | 67 =>
    if fld w 1 2 = 0 then .ok (.umulh (flag w 24) (bits 6 w 18) (bits 6 w 12) (bits 6 w 6) (bits 2 w 4) (flag w 3) (flag w 0)) else .error (.reservedField 67)
  | 68 =>
    if fld w 1 2 = 0 then .ok (.udiv (flag w 24) (bits 6 w 18) (bits 6 w 12) (bits 6 w 6) (bits 2 w 4) (flag w 3) (flag w 0)) else .error (.reservedField 68)
  | 69 =>
    if fld w 1 2 = 0 then .ok (.urem (flag w 24) (bits 6 w 18) (bits 6 w 12) (bits 6 w 6) (bits 2 w 4) (flag w 3) (flag w 0)) else .error (.reservedField 69)
  | 70 =>
    if fld w 0 4 = 0 then .ok (.uand (flag w 24) (bits 6 w 18) (bits 6 w 12) (bits 6 w 6) (bits 2 w 4)) else .error (.reservedField 70)
  | 71 =>
    if fld w 0 4 = 0 then .ok (.uor (flag w 24) (bits 6 w 18) (bits 6 w 12) (bits 6 w 6) (bits 2 w 4)) else .error (.reservedField 71)
  | 72 =>
    if fld w 0 4 = 0 then .ok (.uxor (flag w 24) (bits 6 w 18) (bits 6 w 12) (bits 6 w 6) (bits 2 w 4)) else .error (.reservedField 72)
  | 73 =>
    if fld w 0 3 = 0 then .ok (.ushl (flag w 24) (bits 6 w 18) (bits 6 w 12) (bits 6 w 6) (bits 2 w 4) (flag w 3)) else .error (.reservedField 73)
  | 74 =>
    if fld w 1 2 = 0 then .ok (.ushr (flag w 24) (bits 6 w 18) (bits 6 w 12) (bits 6 w 6) (bits 2 w 4) (flag w 3) (flag w 0)) else .error (.reservedField 74)
  | 75 =>
    if fld w 1 3 = 0 then .ok (.umin (flag w 24) (bits 6 w 18) (bits 6 w 12) (bits 6 w 6) (bits 2 w 4) (flag w 0)) else .error (.reservedField 75)
  | 76 =>
    if fld w 1 3 = 0 then .ok (.umax (flag w 24) (bits 6 w 18) (bits 6 w 12) (bits 6 w 6) (bits 2 w 4) (flag w 0)) else .error (.reservedField 76)
  | 77 =>
    if fld w 21 3 = 0 then .ok (.ucmp (flag w 24) (bits 3 w 18) (bits 6 w 12) (bits 6 w 6) (bits 2 w 4) (bits 4 w 0)) else .error (.reservedField 77)
  | 78 =>
    if fld w 3 1 = 0 then .ok (.usel (flag w 24) (bits 6 w 18) (bits 6 w 12) (bits 6 w 6) (bits 2 w 4) (bits 3 w 0)) else .error (.reservedField 78)
  | 79 =>
    if fld w 0 3 = 0 ∧ fld w 4 2 = 0 then .ok (.uun (flag w 24) (bits 6 w 18) (bits 6 w 12) (bits 6 w 6) (flag w 3)) else .error (.reservedField 79)
  | 80 => .ok (.uaddi (flag w 24) (bits 6 w 18) (bits 6 w 12) (bits 12 w 0))
  | 81 => .ok (.uandi (flag w 24) (bits 6 w 18) (bits 6 w 12) (bits 12 w 0))
  | 82 => .ok (.uori (flag w 24) (bits 6 w 18) (bits 6 w 12) (bits 12 w 0))
  | 83 => .ok (.uxori (flag w 24) (bits 6 w 18) (bits 6 w 12) (bits 12 w 0))
  | 84 =>
    if fld w 6 6 = 0 then .ok (.ushli (flag w 24) (bits 6 w 18) (bits 6 w 12) (bits 6 w 0)) else .error (.reservedField 84)
  | 85 =>
    if fld w 7 5 = 0 then .ok (.ushri (flag w 24) (bits 6 w 18) (bits 6 w 12) (flag w 6) (bits 6 w 0)) else .error (.reservedField 85)
  | 86 => .ok (.umovi (flag w 24) (bits 6 w 18) (bits 18 w 0))
  | 87 =>
    if fld w 21 3 = 0 then .ok (.ucmpi (flag w 24) (bits 3 w 18) (bits 6 w 12) (bits 4 w 8) (bits 8 w 0)) else .error (.reservedField 87)
  | 88 => .ok (.ufadd (flag w 24) (bits 6 w 18) (bits 6 w 12) (bits 6 w 6) (bits 2 w 4) (flag w 3) (bits 3 w 0))
  | 89 => .ok (.ufsub (flag w 24) (bits 6 w 18) (bits 6 w 12) (bits 6 w 6) (bits 2 w 4) (flag w 3) (bits 3 w 0))
  | 90 => .ok (.ufmul (flag w 24) (bits 6 w 18) (bits 6 w 12) (bits 6 w 6) (bits 2 w 4) (flag w 3) (bits 3 w 0))
  | 91 => .ok (.uffma (flag w 24) (bits 6 w 18) (bits 6 w 12) (bits 6 w 6) (bits 2 w 4) (flag w 3) (bits 3 w 0))
  | 92 => .ok (.ufdiv (flag w 24) (bits 6 w 18) (bits 6 w 12) (bits 6 w 6) (bits 2 w 4) (flag w 3) (bits 3 w 0))
  | 93 =>
    if fld w 4 2 = 0 then .ok (.ufun (flag w 24) (bits 6 w 18) (bits 6 w 12) (bits 6 w 6) (flag w 3) (bits 3 w 0)) else .error (.reservedField 93)
  | 94 =>
    if fld w 21 3 = 0 then .ok (.ufcmp (flag w 24) (bits 3 w 18) (bits 6 w 12) (bits 6 w 6) (bits 2 w 4) (flag w 3) (bits 3 w 0)) else .error (.reservedField 94)
  | 95 =>
    if fld w 3 3 = 0 then .ok (.ufcvt (flag w 24) (bits 6 w 18) (bits 6 w 12) (bits 6 w 6) (bits 3 w 0)) else .error (.reservedField 95)
  | 96 => .ok (.uld (flag w 24) (bits 6 w 18) (bits 6 w 12) (bits 8 w 4) (bits 2 w 2) (bits 2 w 0))
  | 97 => .ok (.ust (flag w 24) (bits 6 w 18) (bits 6 w 12) (bits 8 w 4) (bits 2 w 2) (bits 2 w 0))
  | 98 => .ok (.uamo (flag w 24) (bits 6 w 18) (bits 6 w 12) (bits 6 w 6) (bits 4 w 2) (bits 2 w 0))
  | 99 =>
    if fld w 6 18 = 0 then .ok (.fence (flag w 24) (flag w 5) (bits 3 w 2) (bits 2 w 0)) else .error (.reservedField 99)
  | 100 =>
    if fld w 6 6 = 0 ∧ fld w 18 6 = 0 then .ok (.cache (flag w 24) (bits 6 w 12) (bits 6 w 0)) else .error (.reservedField 100)
  | 101 => .ok (.jwr (flag w 24) (bits 6 w 18) (bits 6 w 12) (bits 4 w 8) (bits 8 w 0))
  | 102 =>
    if fld w 0 12 = 0 then .ok (.jrd (flag w 24) (bits 6 w 18) (bits 6 w 12)) else .error (.reservedField 102)
  | 103 =>
    if fld w 0 12 = 0 ∧ fld w 18 6 = 0 then .ok (.jrel (flag w 24) (bits 6 w 12)) else .error (.reservedField 103)
  | 104 => .ok (.bra (bits 3 w 22) (flag w 21) (bits 21 w 0))
  | 105 =>
    if fld w 21 4 = 14 then .ok (.call (bits 21 w 0)) else .error (.reservedField 105)
  | 106 =>
    if fld w 18 6 = 0 then .ok (.jmpr (flag w 24) (bits 6 w 12) (bits 12 w 0)) else .error (.reservedField 106)
  | 107 =>
    if fld w 18 6 = 0 then .ok (.jmpt (flag w 24) (bits 6 w 12) (bits 12 w 0)) else .error (.reservedField 107)
  | 108 =>
    if fld w 12 12 = 0 then .ok (.lpad (flag w 24) (bits 12 w 0)) else .error (.reservedField 108)
  | 109 =>
    if fld w 4 8 = 0 then .ok (.spawn (flag w 24) (bits 6 w 18) (bits 6 w 12) (flag w 3) (flag w 2) (flag w 1) (flag w 0)) else .error (.reservedField 109)
  | 110 =>
    if fld w 0 6 = 0 then .ok (.join (flag w 24) (bits 6 w 18) (bits 6 w 12) (bits 6 w 6)) else .error (.reservedField 110)
  | 111 => .ok (.sr (flag w 24) (bits 6 w 18) (bits 6 w 12) (bits 12 w 0))
  | 112 =>
    if fld w 4 8 = 0 ∧ fld w 18 6 = 0 then .ok (.cpy (flag w 24) (bits 6 w 12) (bits 2 w 2) (bits 2 w 0)) else .error (.reservedField 112)
  | 113 =>
    if fld w 1 1 = 0 ∧ fld w 4 8 = 0 ∧ fld w 18 6 = 0 then .ok (.gather (flag w 24) (bits 6 w 12) (bits 2 w 2) (flag w 0)) else .error (.reservedField 113)
  | 114 =>
    if fld w 2 10 = 0 ∧ fld w 18 6 = 0 then .ok (.binscat (flag w 24) (bits 6 w 12) (bits 2 w 0)) else .error (.reservedField 114)
  | 115 =>
    if fld w 0 18 = 0 then .ok (.bclose (flag w 24) (bits 6 w 18)) else .error (.reservedField 115)
  | 116 =>
    if fld w 5 1 = 0 ∧ fld w 8 4 = 0 then .ok (.mwld (flag w 24) (bits 6 w 18) (bits 6 w 12) (bits 2 w 6) (flag w 4) (bits 4 w 0)) else .error (.reservedField 116)
  | 117 => .ok (.mma (flag w 24) (bits 6 w 18) (bits 6 w 12) (bits 6 w 6) (flag w 5) (flag w 4) (bits 4 w 0))
  | 118 =>
    if fld w 0 18 = 0 then .ok (.maccZero (flag w 24) (bits 6 w 18)) else
    if fld w 0 12 = 1 then .ok (.maccLoad (flag w 24) (bits 6 w 18) (bits 6 w 12)) else
    if fld w 0 6 = 2 ∧ fld w 9 3 = 0 then .ok (.maccStore (flag w 24) (bits 6 w 18) (bits 6 w 12) (bits 3 w 6)) else
    if fld w 0 6 = 3 ∧ fld w 12 6 = 0 then .ok (.maccAdd (flag w 24) (bits 6 w 18) (bits 6 w 6)) else
    if fld w 0 12 = 4 then .ok (.maccScale (flag w 24) (bits 6 w 18) (bits 6 w 12)) else
    if fld w 0 12 = 5 then .ok (.maccRow (flag w 24) (bits 6 w 18) (bits 6 w 12)) else
    if fld w 0 24 = 6 then .ok (.maccClear (flag w 24)) else .error (.reservedField 118)
  | 119 =>
    if fld w 0 24 = 0 then .ok (.mopfence (flag w 24)) else .error (.reservedField 119)
  | 120 =>
    if fld w 0 12 = 0 then .ok (.cbload (flag w 24) (bits 6 w 18) (bits 6 w 12)) else .error (.reservedField 120)
  | 121 =>
    if fld w 5 1 = 0 then .ok (.meet (flag w 24) (bits 6 w 18) (bits 6 w 12) (bits 6 w 6) (bits 2 w 3) (flag w 2) (bits 2 w 0)) else .error (.reservedField 121)
  | 122 =>
    if fld w 0 18 = 0 then .ok (.ltagAlloc (flag w 24) (bits 6 w 18)) else
    if fld w 0 12 = 1 ∧ fld w 18 6 = 0 then .ok (.ltagFree (flag w 24) (bits 6 w 12)) else .error (.reservedField 122)
  | 123 =>
    if fld w 0 12 = 0 then .ok (.strmOpen (flag w 24) (bits 6 w 18) (bits 6 w 12)) else
    if fld w 0 12 = 1 then .ok (.strmStep (flag w 24) (bits 6 w 18) (bits 6 w 12)) else
    if fld w 0 12 = 2 then .ok (.strmScan (flag w 24) (bits 6 w 18) (bits 6 w 12)) else
    if fld w 0 6 = 3 ∧ fld w 7 5 = 0 then .ok (.strmSave (flag w 24) (bits 6 w 18) (bits 6 w 12) (flag w 6)) else
    if fld w 0 12 = 4 then .ok (.strmLoad (flag w 24) (bits 6 w 18) (bits 6 w 12)) else
    if fld w 0 12 = 5 then .ok (.strmClose (flag w 24) (bits 6 w 18) (bits 6 w 12)) else
    if fld w 0 6 = 6 ∧ fld w 7 5 = 0 then .ok (.strmQuery (flag w 24) (bits 6 w 18) (bits 6 w 12) (flag w 6)) else .error (.reservedField 123)
  | 124 =>
    if fld w 0 12 = 0 ∧ fld w 18 6 = 0 then .ok (.xexp (flag w 24) (bits 6 w 12)) else
    if fld w 0 24 = 1 then .ok (.xbar (flag w 24)) else
    if fld w 0 18 = 2 then .ok (.xstat (flag w 24) (bits 6 w 18)) else .error (.reservedField 124)
  | 125 =>
    if fld w 0 12 = 0 then .ok (.hailSend (flag w 24) (bits 6 w 18) (bits 6 w 12)) else
    if fld w 0 12 = 1 then .ok (.hailMask (flag w 24) (bits 6 w 18) (bits 6 w 12)) else
    if fld w 0 12 = 2 then .ok (.hailTake (flag w 24) (bits 6 w 18) (bits 6 w 12)) else
    if fld w 0 24 = 3 then .ok (.hailRet (flag w 24)) else
    if fld w 0 12 = 4 then .ok (.hailPend (flag w 24) (bits 6 w 18) (bits 6 w 12)) else
    if fld w 0 12 = 5 then .ok (.hailPerm (flag w 24) (bits 6 w 18) (bits 6 w 12)) else .error (.reservedField 125)
  | 126 =>
    if fld w 0 6 = 0 ∧ fld w 12 12 = 0 then .ok (.sysTrap (flag w 24) (bits 6 w 6)) else
    if fld w 0 6 = 1 ∧ fld w 12 12 = 0 then .ok (.sysSvc (flag w 24) (bits 6 w 6)) else
    if fld w 0 12 = 2 ∧ fld w 18 6 = 0 then .ok (.sysEret (flag w 24) (bits 6 w 12)) else
    if fld w 0 6 = 3 ∧ fld w 12 12 = 0 then .ok (.sysBkpt (flag w 24) (bits 6 w 6)) else
    if fld w 0 24 = 4 then .ok (.sysYield (flag w 24)) else
    if fld w 0 12 = 5 then .ok (.sysWaiti (flag w 24) (bits 6 w 18) (bits 6 w 12)) else
    if fld w 0 12 = 6 then .ok (.sysHalt (flag w 24) (bits 6 w 18) (bits 6 w 12)) else
    if fld w 0 6 = 7 then .ok (.sysVdist (flag w 24) (bits 6 w 18) (bits 6 w 12) (bits 6 w 6)) else
    if fld w 0 12 = 8 then .ok (.sysVdie (flag w 24) (bits 6 w 18) (bits 6 w 12)) else
    if fld w 0 12 = 9 then .ok (.sysFmap (flag w 24) (bits 6 w 18) (bits 6 w 12)) else
    if fld w 0 12 = 10 then .ok (.sysFretry (flag w 24) (bits 6 w 18) (bits 6 w 12)) else
    if fld w 0 12 = 11 then .ok (.sysFskip (flag w 24) (bits 6 w 18) (bits 6 w 12)) else
    if fld w 0 12 = 12 then .ok (.sysFabort (flag w 24) (bits 6 w 18) (bits 6 w 12)) else
    if fld w 0 12 = 13 then .ok (.sysCtxsw (flag w 24) (bits 6 w 18) (bits 6 w 12)) else
    if fld w 0 12 = 14 then .ok (.sysCtxld (flag w 24) (bits 6 w 18) (bits 6 w 12)) else
    if fld w 0 24 = 15 then .ok (.sysCodefence (flag w 24)) else .error (.reservedField 126)
  | 127 => .ok (.immx (bits 25 w 0))
  | n => .error (.reservedField n)

/-- The instruction of a 32-bit word (R24: bit 31 selects the set). -/
def decode (w : W32) : Except Reject Instr :=
  if w.toNat < 2 ^ 31 then decodeLane w.toNat else decodeUniform w.toNat

/-- Decoding a byte stream: one little-endian word (R8, R24) and the rest. -/
def decodeBytes : List Byte → Except Reject (Instr × List Byte)
  | b0 :: b1 :: b2 :: b3 :: rest =>
    (decode (BitVec.ofNat 32 (b0.toNat + 256 * b1.toNat + 65536 * b2.toNat + 16777216 * b3.toNat))).map (·, rest)
  | _ => .error .short

/-- The decoder's answer for a word given as the opcode table numbers its bits. A word of this hardware has 32 bits; a
shorter row's upper bits are zero. -/
def decodeTableWord (nbits w : Nat) : Option Instr :=
  if nbits ≤ 32 ∧ w < 2 ^ 32 then (decode (BitVec.ofNat 32 w)).toOption else none

/-- One bit as a number. -/
def bitOf (b : Bool) : Nat := b.toNat

/-- The number whose 32 bits are the word of an instruction (R25, R27, R34, R35), zero for a step that has no word. -/
def encodeNat : Instr → Nat
  | .add t d a b bs m => 0 + bitOf t * 16777216 + d.toNat * 131072 + a.toNat * 1024 + b.toNat * 8 + bs.toNat * 2 + bitOf m
  | .sub t d a b bs m => 33554432 + bitOf t * 16777216 + d.toNat * 131072 + a.toNat * 1024 + b.toNat * 8 + bs.toNat * 2 + bitOf m
  | .mul t d a b bs => 67108864 + bitOf t * 16777216 + d.toNat * 131072 + a.toNat * 1024 + b.toNat * 8 + bs.toNat * 2
  | .mulhi t d a b bs m => 100663296 + bitOf t * 16777216 + d.toNat * 131072 + a.toNat * 1024 + b.toNat * 8 + bs.toNat * 2 + bitOf m
  | .imad t d a b bs => 134217728 + bitOf t * 16777216 + d.toNat * 131072 + a.toNat * 1024 + b.toNat * 8 + bs.toNat * 2
  | .and t d a b bs => 167772160 + bitOf t * 16777216 + d.toNat * 131072 + a.toNat * 1024 + b.toNat * 8 + bs.toNat * 2
  | .or t d a b bs => 201326592 + bitOf t * 16777216 + d.toNat * 131072 + a.toNat * 1024 + b.toNat * 8 + bs.toNat * 2
  | .xor t d a b bs => 234881024 + bitOf t * 16777216 + d.toNat * 131072 + a.toNat * 1024 + b.toNat * 8 + bs.toNat * 2
  | .shl t d a b bs => 268435456 + bitOf t * 16777216 + d.toNat * 131072 + a.toNat * 1024 + b.toNat * 8 + bs.toNat * 2
  | .shr t d a b bs m => 301989888 + bitOf t * 16777216 + d.toNat * 131072 + a.toNat * 1024 + b.toNat * 8 + bs.toNat * 2 + bitOf m
  | .min t d a b bs m => 335544320 + bitOf t * 16777216 + d.toNat * 131072 + a.toNat * 1024 + b.toNat * 8 + bs.toNat * 2 + bitOf m
  | .max t d a b bs m => 369098752 + bitOf t * 16777216 + d.toNat * 131072 + a.toNat * 1024 + b.toNat * 8 + bs.toNat * 2 + bitOf m
  | .icmp t c p a b bs => 402653184 + bitOf t * 16777216 + c.toNat * 1048576 + p.toNat * 131072 + a.toNat * 1024 + b.toNat * 8 + bs.toNat * 2
  | .sel t d a b p => 436207616 + bitOf t * 16777216 + d.toNat * 131072 + a.toNat * 1024 + b.toNat * 8 + p.toNat
  | .bfx t d a b bs => 469762048 + bitOf t * 16777216 + d.toNat * 131072 + a.toNat * 1024 + b.toNat * 8 + bs.toNat * 2
  | .bfi t d a b bs => 469762049 + bitOf t * 16777216 + d.toNat * 131072 + a.toNat * 1024 + b.toNat * 8 + bs.toNat * 2
  | .iun t d a f m => 503316480 + bitOf t * 16777216 + d.toNat * 131072 + a.toNat * 1024 + f.toNat * 8 + bitOf m
  | .addi t d a imm => 536870912 + bitOf t * 16777216 + d.toNat * 131072 + a.toNat * 1024 + imm.toNat
  | .andi t d a imm => 570425344 + bitOf t * 16777216 + d.toNat * 131072 + a.toNat * 1024 + imm.toNat
  | .ori t d a imm => 603979776 + bitOf t * 16777216 + d.toNat * 131072 + a.toNat * 1024 + imm.toNat
  | .xori t d a imm => 637534208 + bitOf t * 16777216 + d.toNat * 131072 + a.toNat * 1024 + imm.toNat
  | .shli t d a imm => 671088640 + bitOf t * 16777216 + d.toNat * 131072 + a.toNat * 1024 + imm.toNat
  | .shri t d a x imm => 704643072 + bitOf t * 16777216 + d.toNat * 131072 + a.toNat * 1024 + bitOf x * 512 + imm.toNat
  | .movi t d imm => 738197504 + bitOf t * 16777216 + d.toNat * 131072 + imm.toNat
  | .icmpi t c p a imm => 771751936 + bitOf t * 16777216 + c.toNat * 1048576 + p.toNat * 131072 + a.toNat * 1024 + imm.toNat
  | .fadd t d a b bs => 805306368 + bitOf t * 16777216 + d.toNat * 131072 + a.toNat * 1024 + b.toNat * 8 + bs.toNat * 2
  | .fsub t d a b bs => 838860800 + bitOf t * 16777216 + d.toNat * 131072 + a.toNat * 1024 + b.toNat * 8 + bs.toNat * 2
  | .fmul t d a b bs => 872415232 + bitOf t * 16777216 + d.toNat * 131072 + a.toNat * 1024 + b.toNat * 8 + bs.toNat * 2
  | .ffma t d a b bs => 905969664 + bitOf t * 16777216 + d.toNat * 131072 + a.toNat * 1024 + b.toNat * 8 + bs.toNat * 2
  | .fmin t d a b bs => 939524096 + bitOf t * 16777216 + d.toNat * 131072 + a.toNat * 1024 + b.toNat * 8 + bs.toNat * 2
  | .fmax t d a b bs => 973078528 + bitOf t * 16777216 + d.toNat * 131072 + a.toNat * 1024 + b.toNat * 8 + bs.toNat * 2
  | .fcmp t c p a b bs => 1006632960 + bitOf t * 16777216 + c.toNat * 1048576 + p.toNat * 131072 + a.toNat * 1024 + b.toNat * 8 + bs.toNat * 2
  | .sfu t d a f => 1040187392 + bitOf t * 16777216 + d.toNat * 131072 + a.toNat * 1024 + f.toNat * 8
  | .cvt t d a k r m => 1073741824 + bitOf t * 16777216 + d.toNat * 131072 + a.toNat * 1024 + k.toNat * 64 + r.toNat * 8 + bitOf m
  | .hadd2 t d a b bs m => 1107296256 + bitOf t * 16777216 + d.toNat * 131072 + a.toNat * 1024 + b.toNat * 8 + bs.toNat * 2 + bitOf m
  | .hmul2 t d a b bs m => 1140850688 + bitOf t * 16777216 + d.toNat * 131072 + a.toNat * 1024 + b.toNat * 8 + bs.toNat * 2 + bitOf m
  | .hfma2 t d a b bs m => 1174405120 + bitOf t * 16777216 + d.toNat * 131072 + a.toNat * 1024 + b.toNat * 8 + bs.toNat * 2 + bitOf m
  | .shflPick t d a b bs => 1207959552 + bitOf t * 16777216 + d.toNat * 131072 + a.toNat * 1024 + b.toNat * 8 + bs.toNat * 2
  | .shflSwap t d a b bs => 1207959553 + bitOf t * 16777216 + d.toNat * 131072 + a.toNat * 1024 + b.toNat * 8 + bs.toNat * 2
  | .shflBack t d a b bs => 1241513984 + bitOf t * 16777216 + d.toNat * 131072 + a.toNat * 1024 + b.toNat * 8 + bs.toNat * 2
  | .shflFwd t d a b bs => 1241513985 + bitOf t * 16777216 + d.toNat * 131072 + a.toNat * 1024 + b.toNat * 8 + bs.toNat * 2
  | .vote t d a f m => 1275068416 + bitOf t * 16777216 + d.toNat * 131072 + a.toNat * 1024 + f.toNat * 8 + bitOf m
  | .redux t d a f => 1308622848 + bitOf t * 16777216 + d.toNat * 131072 + a.toNat * 1024 + f.toNat * 8
  | .contribution t j a f => 1317011456 + bitOf t * 16777216 + j.toNat * 131072 + a.toNat * 1024 + f.toNat * 8
  | .scan t d a f m => 1342177280 + bitOf t * 16777216 + d.toNat * 131072 + a.toNat * 1024 + f.toNat * 8 + bitOf m
  | .cmpx t d a k j m => 1375731718 + bitOf t * 16777216 + d.toNat * 131072 + a.toNat * 1024 + k.toNat * 64 + j.toNat * 8 + bitOf m
  | .jpt o => 1438646272 + o.toNat
  | .brd p n o => 1442840576 + p.toNat * 4194304 + bitOf n * 2097152 + o.toNat
  | .regang t imm => 1476395008 + bitOf t * 16777216 + imm.toNat
  | .exit p n => 1509949440 + p.toNat * 4194304 + bitOf n * 2097152
  | .bar t y k n => 1543503872 + bitOf t * 16777216 + y.toNat * 64 + k.toNat * 16 + n.toNat
  | .ld t d a w z o => 1577058304 + bitOf t * 16777216 + d.toNat * 131072 + a.toNat * 1024 + w.toNat * 16 + z.toNat * 4 + o.toNat
  | .st t d a w z o => 1610612736 + bitOf t * 16777216 + d.toNat * 131072 + a.toNat * 1024 + w.toNat * 16 + z.toNat * 4 + o.toNat
  | .lds t d a w z => 1644167168 + bitOf t * 16777216 + d.toNat * 131072 + a.toNat * 1024 + w.toNat * 16 + z.toNat * 4
  | .sts t d a w z => 1677721600 + bitOf t * 16777216 + d.toNat * 131072 + a.toNat * 1024 + w.toNat * 16 + z.toNat * 4
  | .ldp t d a w z => 1711276032 + bitOf t * 16777216 + d.toNat * 131072 + a.toNat * 1024 + w.toNat * 16 + z.toNat * 4
  | .stp t d a w z => 1744830464 + bitOf t * 16777216 + d.toNat * 131072 + a.toNat * 1024 + w.toNat * 16 + z.toNat * 4
  | .atom t d a w c => 1778384896 + bitOf t * 16777216 + d.toNat * 131072 + a.toNat * 1024 + w.toNat * 16 + c.toNat
  | .red t d a w c => 1811939328 + bitOf t * 16777216 + d.toNat * 131072 + a.toNat * 1024 + w.toNat * 16 + c.toNat
  | .xst t d a w z => 1845493760 + bitOf t * 16777216 + d.toNat * 131072 + a.toNat * 1024 + w.toNat * 16 + z.toNat * 4
  | .svc t imm => 1879048192 + bitOf t * 16777216 + imm.toNat
  | .uadd t d a b bs w f => 2147483648 + bitOf t * 16777216 + d.toNat * 262144 + a.toNat * 4096 + b.toNat * 64 + bs.toNat * 16 + bitOf w * 8 + f.toNat
  | .usub t d a b bs w f => 2181038080 + bitOf t * 16777216 + d.toNat * 262144 + a.toNat * 4096 + b.toNat * 64 + bs.toNat * 16 + bitOf w * 8 + f.toNat
  | .umul t d a b bs w => 2214592512 + bitOf t * 16777216 + d.toNat * 262144 + a.toNat * 4096 + b.toNat * 64 + bs.toNat * 16 + bitOf w * 8
  | .umulh t d a b bs w u => 2248146944 + bitOf t * 16777216 + d.toNat * 262144 + a.toNat * 4096 + b.toNat * 64 + bs.toNat * 16 + bitOf w * 8 + bitOf u
  | .udiv t d a b bs w u => 2281701376 + bitOf t * 16777216 + d.toNat * 262144 + a.toNat * 4096 + b.toNat * 64 + bs.toNat * 16 + bitOf w * 8 + bitOf u
  | .urem t d a b bs w u => 2315255808 + bitOf t * 16777216 + d.toNat * 262144 + a.toNat * 4096 + b.toNat * 64 + bs.toNat * 16 + bitOf w * 8 + bitOf u
  | .uand t d a b bs => 2348810240 + bitOf t * 16777216 + d.toNat * 262144 + a.toNat * 4096 + b.toNat * 64 + bs.toNat * 16
  | .uor t d a b bs => 2382364672 + bitOf t * 16777216 + d.toNat * 262144 + a.toNat * 4096 + b.toNat * 64 + bs.toNat * 16
  | .uxor t d a b bs => 2415919104 + bitOf t * 16777216 + d.toNat * 262144 + a.toNat * 4096 + b.toNat * 64 + bs.toNat * 16
  | .ushl t d a b bs w => 2449473536 + bitOf t * 16777216 + d.toNat * 262144 + a.toNat * 4096 + b.toNat * 64 + bs.toNat * 16 + bitOf w * 8
  | .ushr t d a b bs w u => 2483027968 + bitOf t * 16777216 + d.toNat * 262144 + a.toNat * 4096 + b.toNat * 64 + bs.toNat * 16 + bitOf w * 8 + bitOf u
  | .umin t d a b bs u => 2516582400 + bitOf t * 16777216 + d.toNat * 262144 + a.toNat * 4096 + b.toNat * 64 + bs.toNat * 16 + bitOf u
  | .umax t d a b bs u => 2550136832 + bitOf t * 16777216 + d.toNat * 262144 + a.toNat * 4096 + b.toNat * 64 + bs.toNat * 16 + bitOf u
  | .ucmp t k a b bs c => 2583691264 + bitOf t * 16777216 + k.toNat * 262144 + a.toNat * 4096 + b.toNat * 64 + bs.toNat * 16 + c.toNat
  | .usel t d a b bs k => 2617245696 + bitOf t * 16777216 + d.toNat * 262144 + a.toNat * 4096 + b.toNat * 64 + bs.toNat * 16 + k.toNat
  | .uun t d a f w => 2650800128 + bitOf t * 16777216 + d.toNat * 262144 + a.toNat * 4096 + f.toNat * 64 + bitOf w * 8
  | .uaddi t d a imm => 2684354560 + bitOf t * 16777216 + d.toNat * 262144 + a.toNat * 4096 + imm.toNat
  | .uandi t d a imm => 2717908992 + bitOf t * 16777216 + d.toNat * 262144 + a.toNat * 4096 + imm.toNat
  | .uori t d a imm => 2751463424 + bitOf t * 16777216 + d.toNat * 262144 + a.toNat * 4096 + imm.toNat
  | .uxori t d a imm => 2785017856 + bitOf t * 16777216 + d.toNat * 262144 + a.toNat * 4096 + imm.toNat
  | .ushli t d a imm => 2818572288 + bitOf t * 16777216 + d.toNat * 262144 + a.toNat * 4096 + imm.toNat
  | .ushri t d a x imm => 2852126720 + bitOf t * 16777216 + d.toNat * 262144 + a.toNat * 4096 + bitOf x * 64 + imm.toNat
  | .umovi t d imm => 2885681152 + bitOf t * 16777216 + d.toNat * 262144 + imm.toNat
  | .ucmpi t k a c imm => 2919235584 + bitOf t * 16777216 + k.toNat * 262144 + a.toNat * 4096 + c.toNat * 256 + imm.toNat
  | .ufadd t d a b bs p r => 2952790016 + bitOf t * 16777216 + d.toNat * 262144 + a.toNat * 4096 + b.toNat * 64 + bs.toNat * 16 + bitOf p * 8 + r.toNat
  | .ufsub t d a b bs p r => 2986344448 + bitOf t * 16777216 + d.toNat * 262144 + a.toNat * 4096 + b.toNat * 64 + bs.toNat * 16 + bitOf p * 8 + r.toNat
  | .ufmul t d a b bs p r => 3019898880 + bitOf t * 16777216 + d.toNat * 262144 + a.toNat * 4096 + b.toNat * 64 + bs.toNat * 16 + bitOf p * 8 + r.toNat
  | .uffma t d a b bs p r => 3053453312 + bitOf t * 16777216 + d.toNat * 262144 + a.toNat * 4096 + b.toNat * 64 + bs.toNat * 16 + bitOf p * 8 + r.toNat
  | .ufdiv t d a b bs p r => 3087007744 + bitOf t * 16777216 + d.toNat * 262144 + a.toNat * 4096 + b.toNat * 64 + bs.toNat * 16 + bitOf p * 8 + r.toNat
  | .ufun t d a f p r => 3120562176 + bitOf t * 16777216 + d.toNat * 262144 + a.toNat * 4096 + f.toNat * 64 + bitOf p * 8 + r.toNat
  | .ufcmp t k a b bs p c => 3154116608 + bitOf t * 16777216 + k.toNat * 262144 + a.toNat * 4096 + b.toNat * 64 + bs.toNat * 16 + bitOf p * 8 + c.toNat
  | .ufcvt t d a f r => 3187671040 + bitOf t * 16777216 + d.toNat * 262144 + a.toNat * 4096 + f.toNat * 64 + r.toNat
  | .uld t d a o z q => 3221225472 + bitOf t * 16777216 + d.toNat * 262144 + a.toNat * 4096 + o.toNat * 16 + z.toNat * 4 + q.toNat
  | .ust t d a o z q => 3254779904 + bitOf t * 16777216 + d.toNat * 262144 + a.toNat * 4096 + o.toNat * 16 + z.toNat * 4 + q.toNat
  | .uamo t d a b c q => 3288334336 + bitOf t * 16777216 + d.toNat * 262144 + a.toNat * 4096 + b.toNat * 64 + c.toNat * 4 + q.toNat
  | .fence t y sc k => 3321888768 + bitOf t * 16777216 + bitOf y * 32 + sc.toNat * 4 + k.toNat
  | .cache t a f => 3355443200 + bitOf t * 16777216 + a.toNat * 4096 + f.toNat
  | .jwr t d a m c => 3388997632 + bitOf t * 16777216 + d.toNat * 262144 + a.toNat * 4096 + m.toNat * 256 + c.toNat
  | .jrd t d a => 3422552064 + bitOf t * 16777216 + d.toNat * 262144 + a.toNat * 4096
  | .jrel t a => 3456106496 + bitOf t * 16777216 + a.toNat * 4096
  | .bra k n o => 3489660928 + k.toNat * 4194304 + bitOf n * 2097152 + o.toNat
  | .call o => 3552575488 + o.toNat
  | .jmpr t a l => 3556769792 + bitOf t * 16777216 + a.toNat * 4096 + l.toNat
  | .jmpt t a n => 3590324224 + bitOf t * 16777216 + a.toNat * 4096 + n.toNat
  | .lpad t l => 3623878656 + bitOf t * 16777216 + l.toNat
  | .spawn t d a imm g c v => 3657433088 + bitOf t * 16777216 + d.toNat * 262144 + a.toNat * 4096 + bitOf imm * 8 + bitOf g * 4 + bitOf c * 2 + bitOf v
  | .join t d a b => 3690987520 + bitOf t * 16777216 + d.toNat * 262144 + a.toNat * 4096 + b.toNat * 64
  | .sr t d a n => 3724541952 + bitOf t * 16777216 + d.toNat * 262144 + a.toNat * 4096 + n.toNat
  | .cpy t a y x => 3758096384 + bitOf t * 16777216 + a.toNat * 4096 + y.toNat * 4 + x.toNat
  | .gather t a y x => 3791650816 + bitOf t * 16777216 + a.toNat * 4096 + y.toNat * 4 + bitOf x
  | .binscat t a x => 3825205248 + bitOf t * 16777216 + a.toNat * 4096 + x.toNat
  | .bclose t d => 3858759680 + bitOf t * 16777216 + d.toNat * 262144
  | .mwld t d a l sf f => 3892314112 + bitOf t * 16777216 + d.toNat * 262144 + a.toNat * 4096 + l.toNat * 64 + bitOf sf * 16 + f.toNat
  | .mma t d a r z sf f => 3925868544 + bitOf t * 16777216 + d.toNat * 262144 + a.toNat * 4096 + r.toNat * 64 + bitOf z * 32 + bitOf sf * 16 + f.toNat
  | .maccZero t d => 3959422976 + bitOf t * 16777216 + d.toNat * 262144
  | .maccLoad t d a => 3959422977 + bitOf t * 16777216 + d.toNat * 262144 + a.toNat * 4096
  | .maccStore t d a c => 3959422978 + bitOf t * 16777216 + d.toNat * 262144 + a.toNat * 4096 + c.toNat * 64
  | .maccAdd t d b => 3959422979 + bitOf t * 16777216 + d.toNat * 262144 + b.toNat * 64
  | .maccScale t d a => 3959422980 + bitOf t * 16777216 + d.toNat * 262144 + a.toNat * 4096
  | .maccRow t d a => 3959422981 + bitOf t * 16777216 + d.toNat * 262144 + a.toNat * 4096
  | .maccClear t => 3959422982 + bitOf t * 16777216
  | .mopfence t => 3992977408 + bitOf t * 16777216
  | .cbload t d a => 4026531840 + bitOf t * 16777216 + d.toNat * 262144 + a.toNat * 4096
  | .meet t d a b c v o => 4060086272 + bitOf t * 16777216 + d.toNat * 262144 + a.toNat * 4096 + b.toNat * 64 + c.toNat * 8 + bitOf v * 4 + o.toNat
  | .ltagAlloc t d => 4093640704 + bitOf t * 16777216 + d.toNat * 262144
  | .ltagFree t a => 4093640705 + bitOf t * 16777216 + a.toNat * 4096
  | .strmOpen t d a => 4127195136 + bitOf t * 16777216 + d.toNat * 262144 + a.toNat * 4096
  | .strmStep t d a => 4127195137 + bitOf t * 16777216 + d.toNat * 262144 + a.toNat * 4096
  | .strmScan t d a => 4127195138 + bitOf t * 16777216 + d.toNat * 262144 + a.toNat * 4096
  | .strmSave t d a h => 4127195139 + bitOf t * 16777216 + d.toNat * 262144 + a.toNat * 4096 + bitOf h * 64
  | .strmLoad t d a => 4127195140 + bitOf t * 16777216 + d.toNat * 262144 + a.toNat * 4096
  | .strmClose t d a => 4127195141 + bitOf t * 16777216 + d.toNat * 262144 + a.toNat * 4096
  | .strmQuery t d a q => 4127195142 + bitOf t * 16777216 + d.toNat * 262144 + a.toNat * 4096 + bitOf q * 64
  | .xexp t a => 4160749568 + bitOf t * 16777216 + a.toNat * 4096
  | .xbar t => 4160749569 + bitOf t * 16777216
  | .xstat t d => 4160749570 + bitOf t * 16777216 + d.toNat * 262144
  | .hailSend t d a => 4194304000 + bitOf t * 16777216 + d.toNat * 262144 + a.toNat * 4096
  | .hailMask t d a => 4194304001 + bitOf t * 16777216 + d.toNat * 262144 + a.toNat * 4096
  | .hailTake t d a => 4194304002 + bitOf t * 16777216 + d.toNat * 262144 + a.toNat * 4096
  | .hailRet t => 4194304003 + bitOf t * 16777216
  | .hailPend t d a => 4194304004 + bitOf t * 16777216 + d.toNat * 262144 + a.toNat * 4096
  | .hailPerm t d a => 4194304005 + bitOf t * 16777216 + d.toNat * 262144 + a.toNat * 4096
  | .sysTrap t n => 4227858432 + bitOf t * 16777216 + n.toNat * 64
  | .sysSvc t n => 4227858433 + bitOf t * 16777216 + n.toNat * 64
  | .sysEret t a => 4227858434 + bitOf t * 16777216 + a.toNat * 4096
  | .sysBkpt t n => 4227858435 + bitOf t * 16777216 + n.toNat * 64
  | .sysYield t => 4227858436 + bitOf t * 16777216
  | .sysWaiti t d a => 4227858437 + bitOf t * 16777216 + d.toNat * 262144 + a.toNat * 4096
  | .sysHalt t d a => 4227858438 + bitOf t * 16777216 + d.toNat * 262144 + a.toNat * 4096
  | .sysVdist t d a b => 4227858439 + bitOf t * 16777216 + d.toNat * 262144 + a.toNat * 4096 + b.toNat * 64
  | .sysVdie t d a => 4227858440 + bitOf t * 16777216 + d.toNat * 262144 + a.toNat * 4096
  | .sysFmap t d a => 4227858441 + bitOf t * 16777216 + d.toNat * 262144 + a.toNat * 4096
  | .sysFretry t d a => 4227858442 + bitOf t * 16777216 + d.toNat * 262144 + a.toNat * 4096
  | .sysFskip t d a => 4227858443 + bitOf t * 16777216 + d.toNat * 262144 + a.toNat * 4096
  | .sysFabort t d a => 4227858444 + bitOf t * 16777216 + d.toNat * 262144 + a.toNat * 4096
  | .sysCtxsw t d a => 4227858445 + bitOf t * 16777216 + d.toNat * 262144 + a.toNat * 4096
  | .sysCtxld t d a => 4227858446 + bitOf t * 16777216 + d.toNat * 262144 + a.toNat * 4096
  | .sysCodefence t => 4227858447 + bitOf t * 16777216
  | .immx imm => 4261412864 + imm.toNat
  | .fpctlReseed _ => 0
  | .tlbinvPage _ _ _ => 0
  | .tlbinvAllpages _ _ => 0
  | .tlbinvAllasid _ => 0
  | .ctxreqRequest _ _ => 0
  | .ctxreqNow _ _ => 0
  | .ctxreqDestroy _ _ => 0
  | .noticePop _ _ => 0
  | .pwrctlPoint _ => 0
  | .pwrctlGate _ => 0
  | .registerWrite _ _ => 0
  | .gateTest _ => 0
  | .placementStep _ => 0
  | .groupRetire _ => 0
  | .gridEnd _ => 0
  | .loadReply _ => 0
  | .sliceAtomic _ => 0
  | .dirtyWriteback _ _ => 0
  | .streamBufferFlush _ _ => 0
  | .accumulatorRotate _ => 0
  | .xstoreDelivery _ _ => 0
  | .cpyCollectiveStart _ => 0
  | .gatherRun _ => 0
  | .binscatRun _ => 0
  | .batchComplete _ _ => 0
  | .weightLoad _ _ => 0
  | .mmaTurn _ => 0
  | .maccTurn _ => 0
  | .cbloadTurn _ => 0
  | .meetTurn _ => 0
  | .landingArrival _ _ => 0
  | .landingTimeout _ _ => 0
  | .strmTurn _ => 0
  | .hailAccept _ _ => 0
  | .hostHailMessage _ _ _ => 0
  | .unpark _ => 0
  | .preemptDeadline _ _ => 0
  | .contextSave _ _ => 0
  | .contextRestore _ _ => 0
  | .functionSwitch _ _ => 0
  | .serviceImageLoad _ _ => 0
  | .borderChange _ _ _ _ _ => 0
  | .borderDeadline _ => 0
  | .partitionWindowEnd _ _ _ _ => 0
  | .securityAlarm _ _ => 0
  | .flitReceive _ _ _ _ _ => 0
  | .replayTimeout _ => 0
  | .linkRetrain _ _ _ => 0
  | .requestResend _ _ => 0
  | .peerAccess _ _ _ _ _ _ => 0
  | .hostSnoop _ _ => 0
  | .hostMemAccess _ _ _ _ => 0
  | .pointChangeDone => 0
  | .diePowerOff _ => 0
  | .ungateDone _ => 0
  | .thermalStep _ => 0
  | .thermalTrip _ => 0
  | .powerUp _ _ => 0
  | .dieTrained _ _ _ => 0
  | .mctpMessage _ _ => 0
  | .waitiTimeReached _ => 0
  | .packagePortTraining _ _ _ _ => 0
  | .cxlPortTraining _ _ _ => 0
  | .backInvalidationResponse _ => 0
  | .bar0RegisterWrite _ _ => 0
  | .partitionCreation _ _ _ _ => 0

/-- The word of an instruction. -/
def encode (i : Instr) : W32 := BitVec.ofNat 32 (encodeNat i)

/-- The four bytes of an instruction as memory holds them (R8, R24). -/
def encodeBytes (i : Instr) : List Byte :=
  (List.range 4).map fun k => BitVec.ofNat 8 (encodeNat i / 256 ^ k)

/-- The instruction has a word of its own; the other constructors are steps of the device. -/
def Instr.hasWord : Instr → Bool
  | .fpctlReseed _ => false
  | .tlbinvPage _ _ _ => false
  | .tlbinvAllpages _ _ => false
  | .tlbinvAllasid _ => false
  | .ctxreqRequest _ _ => false
  | .ctxreqNow _ _ => false
  | .ctxreqDestroy _ _ => false
  | .noticePop _ _ => false
  | .pwrctlPoint _ => false
  | .pwrctlGate _ => false
  | .registerWrite _ _ => false
  | .gateTest _ => false
  | .placementStep _ => false
  | .groupRetire _ => false
  | .gridEnd _ => false
  | .loadReply _ => false
  | .sliceAtomic _ => false
  | .dirtyWriteback _ _ => false
  | .streamBufferFlush _ _ => false
  | .accumulatorRotate _ => false
  | .xstoreDelivery _ _ => false
  | .cpyCollectiveStart _ => false
  | .gatherRun _ => false
  | .binscatRun _ => false
  | .batchComplete _ _ => false
  | .weightLoad _ _ => false
  | .mmaTurn _ => false
  | .maccTurn _ => false
  | .cbloadTurn _ => false
  | .meetTurn _ => false
  | .landingArrival _ _ => false
  | .landingTimeout _ _ => false
  | .strmTurn _ => false
  | .hailAccept _ _ => false
  | .hostHailMessage _ _ _ => false
  | .unpark _ => false
  | .preemptDeadline _ _ => false
  | .contextSave _ _ => false
  | .contextRestore _ _ => false
  | .functionSwitch _ _ => false
  | .serviceImageLoad _ _ => false
  | .borderChange _ _ _ _ _ => false
  | .borderDeadline _ => false
  | .partitionWindowEnd _ _ _ _ => false
  | .securityAlarm _ _ => false
  | .flitReceive _ _ _ _ _ => false
  | .replayTimeout _ => false
  | .linkRetrain _ _ _ => false
  | .requestResend _ _ => false
  | .peerAccess _ _ _ _ _ _ => false
  | .hostSnoop _ _ => false
  | .hostMemAccess _ _ _ _ => false
  | .pointChangeDone => false
  | .diePowerOff _ => false
  | .ungateDone _ => false
  | .thermalStep _ => false
  | .thermalTrip _ => false
  | .powerUp _ _ => false
  | .dieTrained _ _ _ => false
  | .mctpMessage _ _ => false
  | .waitiTimeReached _ => false
  | .packagePortTraining _ _ _ _ => false
  | .cxlPortTraining _ _ _ => false
  | .backInvalidationResponse _ => false
  | .bar0RegisterWrite _ _ => false
  | .partitionCreation _ _ _ _ => false
  | _ => true

end Sys2Proof
end

