-- ==== Sys2Proof/Config.lean ====
section
/-! DEFINITION. What one implementation fixes and the manual does not: free values. An opaque constant has no body, so
nothing can be proved of what it answers; a claim that holds, holds for every value. -/

namespace Sys2Proof

/-- R137: the value an `sfu` approximation delivers for a function code, an operand and a mode, before the bound of the
row is applied. Free: assumption 3. -/
opaque Config.sfuValue : Nat → W32 → Nat → W32

/-- R109: a byte of scratchpad or of an exchange bank that nothing has written since placement, by team, bank and offset.
Free: assumption 4. -/
opaque Config.poolByte : Nat → Nat → Nat → Byte

/-- A value the manual leaves open at one event, by a counter of the state (assumption 5): the skid of a halt
(R299), the stream generation (R281), the tag index that `ltag.alloc` takes (R266), a value read before an engine has
filled it (R214), a register of an undescribed device (R173). -/
opaque Config.freeWord : Nat → W64

/-- R23, R109: the address of the instance end point and of the group end point, by the thread's number. Free within the
rule's limits: word aligned and below 2^48 (`Machine.endPoint`). Assumption 6. -/
opaque Config.endPointWord : Nat → BitVec 46

/-- R164: the places of a core's L1 request queue, less one; the manual gives no size. Assumption 76. -/
opaque Config.l1Places : Nat

/-- R184: the set index of a line in its bank of the L1. Not architectural. Assumption 44. -/
opaque Config.lineHash : Nat → Nat

/-- R189, R270: the hash that chooses the home slice of a line or of a tag index among n slices. Not architectural.
Assumption 7. -/
opaque Config.sliceHash : Nat → Nat

/-- R284: the value of a chunk scan's array before its bound is applied, by a counter of the state and the element.
Assumption 8. -/
opaque Config.scanValue : Nat → Nat → W32

end Sys2Proof
end

