-- ==== Sys2Proof/Machine/Float.lean ====
section
/-! DEFINITION. Number formats and the arithmetic of R53 to R66: a pattern is unpacked to an exact value, the operation
is done exactly on a natural number times a power of two, and `roundTo` delivers the result with its flags. -/

namespace Sys2Proof.Machine

/-- Exception flags in the places of `sr.FPSTAT` (R70): NV 0, DZ 1, OF 2, UF 3, NX 4, SAT 5. -/
abbrev Flags := BitVec 6

/-- No flag. -/
def Flags.none : Flags := 0
/-- Invalid (R66). -/
def Flags.nv : Flags := 1
/-- Divide by zero (R66). -/
def Flags.dz : Flags := 2
/-- Overflow and Inexact, which overflow raises in every case (R61). -/
def Flags.ofnx : Flags := 20
/-- Underflow and Inexact (R64). -/
def Flags.ufnx : Flags := 24
/-- Inexact (R66). -/
def Flags.nx : Flags := 16
/-- A saturating operation clamped its result (R53, R61). -/
def Flags.sat : Flags := 32

/-- Rounding modes (R60). -/
inductive Rm where
  | rne
  | rtz
  | rdn
  | rup
  deriving DecidableEq, Repr

/-- What lies beyond the largest finite value of a format (R55). -/
inductive Beyond where
  /-- infinities, then NaNs -/
  | ieee
  /-- E4M3: no infinity, one NaN pattern per sign -/
  | nanOnly
  /-- E2M1: neither -/
  | nothing
  deriving DecidableEq, Repr

/-- A floating-point format (R55): exponent bits, fraction bits, bias, what lies beyond, and whether FTZ applies (R64). -/
structure Fmt where
  ebits : Nat
  fbits : Nat
  bias : Nat
  beyond : Beyond
  ftz : Bool
  deriving DecidableEq, Repr

def fp64 : Fmt := ⟨11, 52, 1023, .ieee, false⟩
def fp32 : Fmt := ⟨8, 23, 127, .ieee, true⟩
def fp16 : Fmt := ⟨5, 10, 15, .ieee, true⟩
def bf16 : Fmt := ⟨8, 7, 127, .ieee, true⟩
def e5m2 : Fmt := ⟨5, 2, 15, .ieee, false⟩
def e4m3 : Fmt := ⟨4, 3, 7, .nanOnly, false⟩
def e2m1 : Fmt := ⟨2, 1, 1, .nothing, false⟩

/-- An exact value: a NaN, an infinity, or a sign with m × 2^e. -/
inductive FVal where
  | nan (signalling : Bool)
  | inf (neg : Bool)
  | fin (neg : Bool) (m : Nat) (e : Int)
  deriving DecidableEq, Repr

/-- The sign bit's weight in a format. -/
def Fmt.signWeight (f : Fmt) : Nat := 2 ^ (f.ebits + f.fbits)

/-- The exponent of the least significant fraction bit of a subnormal. -/
def Fmt.minExp (f : Fmt) : Int := 1 - (f.bias : Int) - f.fbits

/-- The magnitude code of the largest finite value (R55). -/
def Fmt.maxCode (f : Fmt) : Nat :=
  match f.beyond with
  | .ieee => (2 ^ f.ebits - 1) * 2 ^ f.fbits - 1
  | .nanOnly => 2 ^ (f.ebits + f.fbits) - 2
  | .nothing => 2 ^ (f.ebits + f.fbits) - 1

/-- The canonical NaN of a format, sign 0 (R57); E2M1 has none and delivers +0 (R65). -/
def Fmt.canonNaN (f : Fmt) : Nat :=
  match f.beyond with
  | .ieee => (2 ^ f.ebits - 1) * 2 ^ f.fbits + 2 ^ (f.fbits - 1)
  | .nanOnly => 2 ^ (f.ebits + f.fbits) - 1
  | .nothing => 0

/-- A sign and a magnitude code as a pattern. -/
def Fmt.pack (f : Fmt) (neg : Bool) (code : Nat) : Nat := (if neg then f.signWeight else 0) + code

/-- The pattern of an infinity; E4M3 takes the NaN with the sign (R61), E2M1 the largest finite value. -/
def Fmt.infCode (f : Fmt) : Nat :=
  match f.beyond with
  | .ieee => (2 ^ f.ebits - 1) * 2 ^ f.fbits
  | .nanOnly => 2 ^ (f.ebits + f.fbits) - 1
  | .nothing => f.maxCode

/-- The exact value of a pattern (R55, R57). -/
def Fmt.unpack (f : Fmt) (x : Nat) : FVal :=
  let neg := x / f.signWeight % 2 == 1
  let e := x / 2 ^ f.fbits % 2 ^ f.ebits
  let m := x % 2 ^ f.fbits
  if f.beyond = .ieee ∧ e = 2 ^ f.ebits - 1 then
    if m = 0 then .inf neg else .nan (m < 2 ^ (f.fbits - 1))
  else if f.beyond = .nanOnly ∧ x % f.signWeight = f.signWeight - 1 then .nan false
  else if e = 0 then .fin neg m f.minExp
  else .fin neg (m + 2 ^ f.fbits) (f.minExp + e - 1)

/-- R64: under FTZ a subnormal operand is read as zero of the same sign. -/
def Fmt.read (f : Fmt) (ftz : Bool) (x : Nat) : FVal :=
  match f.unpack x with
  | .fin neg m e => if ftz && f.ftz && decide (m < 2 ^ f.fbits) then .fin neg 0 f.minExp else .fin neg m e
  | v => v

/-- m × 2^k for a k that may be negative, when the division is exact or its remainder does not matter. -/
def scale (m : Nat) (k : Int) : Nat := if 0 ≤ k then m * 2 ^ k.toNat else m / 2 ^ (-k).toNat

/-- The remainder that `scale` drops is not zero. -/
def scaleLost (m : Nat) (k : Int) : Bool := if 0 ≤ k then false else decide (m % 2 ^ (-k).toNat ≠ 0)

/-- m × 2^k rounded to an integer in a mode: the integer and whether it is inexact (R60). -/
def roundInt (rm : Rm) (neg : Bool) (m : Nat) (k : Int) : Nat × Bool :=
  if 0 ≤ k then (m * 2 ^ k.toNat, false)
  else
    let d := 2 ^ (-k).toNat
    let q := m / d
    let r := m % d
    let up := match rm with
      | .rne => decide (d < 2 * r) || (decide (2 * r = d) && q % 2 == 1)
      | .rtz => false
      | .rdn => neg && decide (r ≠ 0)
      | .rup => !neg && decide (r ≠ 0)
    (if up then q + 1 else q, decide (r ≠ 0))

/-- R61: the overflow table, with saturation requested. -/
def Fmt.overflow (f : Fmt) (rm : Rm) (neg sat : Bool) : Nat × Flags :=
  let toMax := match rm with
    | .rne => false
    | .rtz => true
    | .rdn => !neg
    | .rup => neg
  if sat || f.beyond == .nothing then (f.pack neg f.maxCode, Flags.ofnx ||| Flags.sat)
  else if toMax then (f.pack neg f.maxCode, Flags.ofnx)
  else (f.pack neg f.infCode, Flags.ofnx)

/-- `RoundTo(fmt, mode)` of the exact nonzero value (−1)^neg × m × 2^e, with the flags it raises (R60, R61, R64). A zero m
gives a zero of the sign. -/
def Fmt.roundTo (f : Fmt) (rm : Rm) (ftz sat neg : Bool) (m : Nat) (e : Int) : Nat × Flags :=
  if m = 0 then (f.pack neg 0, Flags.none)
  else
    let top : Int := (Nat.log2 m : Int) + e
    let free := top - f.fbits
    let lsb := max free f.minExp
    let (q, inexact) := roundInt rm neg m (e - lsb)
    let (qf, _) := roundInt rm neg m (e - free)
    let tiny := decide (free < f.minExp) && decide (scale qf (free - f.minExp) < 2 ^ f.fbits)
    let code := (lsb - f.minExp).toNat * 2 ^ f.fbits + q
    if f.maxCode < code then f.overflow rm neg sat
    else if tiny && ftz && f.ftz then (f.pack neg 0, Flags.ufnx)
    else (f.pack neg code,
      (if inexact then Flags.nx else Flags.none) ||| (if tiny && inexact then Flags.ufnx else Flags.none))

/-- The canonical NaN with Invalid. -/
def Fmt.invalid (f : Fmt) : Nat × Flags := (f.canonNaN, Flags.nv)

/-- A NaN result: Invalid only for a signalling operand (R66). -/
def Fmt.quiet (f : Fmt) (sig : Bool) : Nat × Flags := (f.canonNaN, if sig then Flags.nv else Flags.none)

/-- A signed integer times a power of two. -/
def signedMant (neg : Bool) (m : Nat) : Int := if neg then -(m : Int) else m

/-- The exact sum of two finite values: sign, magnitude and exponent; the sign of a zero follows R60. -/
def exactSum (rm : Rm) (na : Bool) (ma : Nat) (ea : Int) (nb : Bool) (mb : Nat) (eb : Int) : Bool × Nat × Int :=
  let e := min ea eb
  let s := signedMant na (ma * 2 ^ (ea - e).toNat) + signedMant nb (mb * 2 ^ (eb - e).toNat)
  if s = 0 then (if na = nb then na else decide (rm = .rdn), 0, e)
  else (decide (s < 0), s.natAbs, e)

def FVal.isSnan : FVal → Bool
  | .nan s => s
  | _ => false

def FVal.isNan : FVal → Bool
  | .nan _ => true
  | _ => false

def FVal.negate : FVal → FVal
  | .nan s => .nan s
  | .inf n => .inf !n
  | .fin n m e => .fin (!n) m e

/-- a + b of two exact values, rounded (R60, R66). -/
def Fmt.addVal (f : Fmt) (rm : Rm) (ftz : Bool) (a b : FVal) : Nat × Flags :=
  match a, b with
  | .nan s, y => f.quiet (s || y.isSnan)
  | x, .nan s => f.quiet (s || x.isSnan)
  | .inf n, .inf k => if n = k then (f.pack n f.infCode, Flags.none) else f.invalid
  | .inf n, .fin .. => (f.pack n f.infCode, Flags.none)
  | .fin .., .inf n => (f.pack n f.infCode, Flags.none)
  | .fin na ma ea, .fin nb mb eb =>
    let (n, m, e) := exactSum rm na ma ea nb mb eb
    f.roundTo rm ftz false n m e

/-- a × b as an exact value, with whether it is the Invalid 0 × ∞ (R66). -/
def FVal.mul : FVal → FVal → FVal × Bool
  | .nan s, y => (.nan (s || y.isSnan), false)
  | x, .nan s => (.nan (s || x.isSnan), false)
  | .inf n, .inf k => (.inf (n != k), false)
  | .inf n, .fin k m _ => if m = 0 then (.nan false, true) else (.inf (n != k), false)
  | .fin k m _, .inf n => if m = 0 then (.nan false, true) else (.inf (n != k), false)
  | .fin n m e, .fin k p g => (.fin (n != k) (m * p) (e + g), false)

def Fmt.addF (f : Fmt) (rm : Rm) (ftz : Bool) (a b : Nat) : Nat × Flags :=
  f.addVal rm ftz (f.read ftz a) (f.read ftz b)

def Fmt.subF (f : Fmt) (rm : Rm) (ftz : Bool) (a b : Nat) : Nat × Flags :=
  f.addVal rm ftz (f.read ftz a) (f.read ftz b).negate

def Fmt.mulF (f : Fmt) (rm : Rm) (ftz : Bool) (a b : Nat) : Nat × Flags :=
  match (f.read ftz a).mul (f.read ftz b) with
  | (_, true) => f.invalid
  | (.nan s, _) => f.quiet s
  | (.inf n, _) => (f.pack n f.infCode, Flags.none)
  | (.fin n m e, _) => f.roundTo rm ftz false n m e

/-- a × b + d with one rounding; 0 × ∞ is Invalid even when d is a quiet NaN (R80). -/
def Fmt.fmaF (f : Fmt) (rm : Rm) (ftz : Bool) (a b d : Nat) : Nat × Flags :=
  let z := f.read ftz d
  match (f.read ftz a).mul (f.read ftz b) with
  | (_, true) => f.invalid
  | (p, false) => f.addVal rm ftz p z

/-- Extra quotient bits below the rounding position, with the sticky bit as the last bit. -/
def stickyDiv (num den : Nat) : Nat := 2 * (num / den) + (if num % den = 0 then 0 else 1)

/-- a ÷ b, correctly rounded (R80). -/
def Fmt.divF (f : Fmt) (rm : Rm) (ftz : Bool) (a b : Nat) : Nat × Flags :=
  match f.read ftz a, f.read ftz b with
  | .nan s, y => f.quiet (s || y.isSnan)
  | x, .nan s => f.quiet (s || x.isSnan)
  | .inf _, .inf _ => f.invalid
  | .inf n, .fin k _ _ => (f.pack (n != k) f.infCode, Flags.none)
  | .fin n _ _, .inf k => (f.pack (n != k) 0, Flags.none)
  | .fin n m e, .fin k p g =>
    if p = 0 then if m = 0 then f.invalid else (f.pack (n != k) f.infCode, Flags.dz)
    else if m = 0 then (f.pack (n != k) 0, Flags.none)
    else
      let s := f.fbits + 4 + Nat.log2 p
      f.roundTo rm ftz false (n != k) (stickyDiv (m * 2 ^ s) p) (e - g - s - 1)

/-- The integer square root of n below 2^(2k). -/
def isqrt (n : Nat) : Nat → Nat
  | 0 => 0
  | k + 1 =>
    let r := isqrt (n / 4) k
    if (2 * r + 1) * (2 * r + 1) ≤ n then 2 * r + 1 else 2 * r

/-- √a, correctly rounded; √−0 is −0, below −0 is Invalid (R81, R137). -/
def Fmt.sqrtF (f : Fmt) (rm : Rm) (ftz : Bool) (a : Nat) : Nat × Flags :=
  match f.read ftz a with
  | .nan s => f.quiet s
  | .inf n => if n then f.invalid else (f.pack false f.infCode, Flags.none)
  | .fin n m e =>
    if m = 0 then (f.pack n 0, Flags.none)
    else if n then f.invalid
    else
      let s := 2 * (f.fbits + 4) + (e % 2).toNat
      let x := m * 2 ^ s
      let r := isqrt x (Nat.log2 x / 2 + 1)
      f.roundTo rm ftz false false (2 * r + (if r * r = x then 0 else 1)) ((e - s) / 2 - 1)

/-- Rounding directions of the integral functions (R81, R137). -/
inductive Integral where
  | floor
  | ceil
  | trunc
  | rint (rm : Rm)
  deriving DecidableEq, Repr

/-- `floor`, `ceil`, `trunc` and `rint` in a format: the sign of a zero is kept, only `rint` raises Inexact. R81's table and its
text differ on the floor of -0.5; DEDUCED: -1, the table's largest integral value (assumption 59). -/
def Fmt.integral (f : Fmt) (op : Integral) (ftz : Bool) (a : Nat) : Nat × Flags :=
  match f.read ftz a with
  | .nan s => f.quiet s
  | .inf n => (f.pack n f.infCode, Flags.none)
  | .fin n m e =>
    let rm := match op with
      | .floor => Rm.rdn
      | .ceil => .rup
      | .trunc => .rtz
      | .rint r => r
    let (q, ix) := roundInt rm n m e
    let isRint := match op with
      | .rint _ => true
      | _ => false
    ((f.roundTo .rne false false n q 0).1, if ix && isRint then Flags.nx else Flags.none)

/-- The comparison of two values: none when unordered. -/
def FVal.cmp : FVal → FVal → Option Ordering
  | .nan _, _ => none
  | _, .nan _ => none
  | .inf n, .inf k => some (if n = k then .eq else if n then .lt else .gt)
  | .inf n, .fin .. => some (if n then .lt else .gt)
  | .fin .., .inf n => some (if n then .gt else .lt)
  | .fin na ma ea, .fin nb mb eb =>
    let e := min ea eb
    some (compare (signedMant na (ma * 2 ^ (ea - e).toNat)) (signedMant nb (mb * 2 ^ (eb - e).toNat)))

/-- A floating-point condition code (R36): its truth and whether Invalid is raised. Codes above 7 are not conditions. -/
def Fmt.cond (f : Fmt) (ftz : Bool) (c : Nat) (a b : Nat) : Bool × Flags :=
  let x := f.read ftz a
  let y := f.read ftz b
  let un := x.isNan || y.isNan
  let r := x.cmp y
  let v := match c with
    | 0 => r == some .eq
    | 1 => r != some .eq
    | 2 => r == some .lt
    | 3 => r == some .lt || r == some .eq
    | 4 => r == some .gt
    | 5 => r == some .gt || r == some .eq
    | 6 => un
    | _ => !un
  let ordered := decide (2 ≤ c ∧ c ≤ 5)
  (v, if (ordered && un) || x.isSnan || y.isSnan then Flags.nv else Flags.none)

/-- minimumNumber and maximumNumber (R66): a single NaN operand yields the other, −0 orders below +0. -/
def Fmt.minMax (f : Fmt) (isMax ftz : Bool) (a b : Nat) : Nat × Flags :=
  let x := f.read ftz a
  let y := f.read ftz b
  let fl := if x.isSnan || y.isSnan then Flags.nv else Flags.none
  let repr := fun (v : FVal) (raw : Nat) => match v with
    | .fin n 0 _ => f.pack n 0
    | _ => raw
  match x, y with
  | .nan _, .nan _ => (f.canonNaN, fl)
  | .nan _, v => (repr v b, fl)
  | v, .nan _ => (repr v a, fl)
  | v, w =>
    let isLt := match v.cmp w with
      | some .lt => true
      | some .eq => decide (f.signWeight ≤ a % (2 * f.signWeight)) && !decide (f.signWeight ≤ b % (2 * f.signWeight))
      | _ => false
    (if isLt != isMax then repr v a else repr w b, fl)

/-- Clamp an integer. -/
def clampInt (lo hi x : Int) : Int := if x < lo then lo else if hi < x then hi else x

/-- A floating-point value to an integer in a range: rounded, clamped with Invalid, NaN to 0 with Invalid (R65). -/
def toInt (rm : Rm) (lo hi : Int) (v : FVal) : Int × Flags :=
  match v with
  | .nan _ => (0, Flags.nv)
  | .inf n => (if n then lo else hi, Flags.nv)
  | .fin n m e =>
    let (q, ix) := roundInt rm n m e
    let x := signedMant n q
    if x < lo then (lo, Flags.nv) else if hi < x then (hi, Flags.nv)
    else (x, if ix then Flags.nx else Flags.none)

/-- An integer to a floating-point format (R65). -/
def Fmt.ofInt (f : Fmt) (rm : Rm) (ftz : Bool) (x : Int) : Nat × Flags :=
  f.roundTo rm ftz false (decide (x < 0)) x.natAbs 0

/-- A value to a floating-point format (R65): RoundTo, with saturation when `sat`. -/
def Fmt.convert (f : Fmt) (rm : Rm) (ftz sat : Bool) (v : FVal) : Nat × Flags :=
  match v with
  | .nan s =>
    match f.beyond with
    | .nothing => (0, Flags.nv)
    | _ => f.quiet s
  | .inf n =>
    match f.beyond with
    | .ieee => if sat then (f.pack n f.maxCode, Flags.sat) else (f.pack n f.infCode, Flags.none)
    | .nanOnly => if sat then (f.pack n f.maxCode, Flags.sat) else (f.pack n f.infCode, Flags.none)
    | .nothing => (f.pack n f.maxCode, Flags.sat)
  | .fin n m e => f.roundTo rm ftz sat n m e

/-- R62: one step of a lane's generator. -/
def genStep (x : W32) : W32 :=
  let a := x ^^^ (x <<< 13)
  let b := a ^^^ (a >>> 17)
  b ^^^ (b <<< 5)

/-- R62: the generator state of lane l after RESEED with a seed. -/
def genSeed (seed : W32) (l : Nat) : W32 :=
  let x := seed ^^^ BitVec.ofNat 32 (l * 0x9E3779B9)
  if x = 0 then 1 else x

/-- R63: a stochastic conversion with random bits r. -/
def Fmt.stochastic (f : Fmt) (ftz sat : Bool) (r : Nat) (v : FVal) : Nat × Flags :=
  match v with
  | .fin n m e =>
    if m = 0 then (f.pack n 0, Flags.none)
    else
      let lsb := max ((Nat.log2 m : Int) + e - f.fbits) f.minExp
      let q := scale m (e - lsb)
      let d := scale m (e - lsb + 16) % 65536
      let inexact := scaleLost m (e - lsb)
      let up := decide (65536 ≤ d + r)
      let base := (lsb - f.minExp).toNat * 2 ^ f.fbits
      let t := base + q
      let code := if up then t + 1 else t
      if f.maxCode < t then
        if sat then (f.pack n f.maxCode, Flags.ofnx ||| Flags.sat) else f.overflow .rne n false
      else if f.maxCode < code then
        (f.pack n f.maxCode, Flags.ofnx ||| (if sat then Flags.sat else Flags.none))
      else
        let tiny := decide (code < 2 ^ f.fbits)
        if tiny && ftz && f.ftz then (f.pack n 0, Flags.ufnx)
        else (f.pack n code,
          (if inexact then Flags.nx else Flags.none) ||| (if tiny && inexact then Flags.ufnx else Flags.none))
  | _ => f.convert .rne ftz sat v

/-- The IEEE class of a pattern as encoded, one bit of ten (R81). -/
def Fmt.classify (f : Fmt) (x : Nat) : Nat :=
  match f.unpack x with
  | .nan s => if s then 1 else 2
  | .inf n => if n then 4 else 512
  | .fin n m _ =>
    if m = 0 then if n then 32 else 64
    else if m < 2 ^ f.fbits then if n then 16 else 128
    else if n then 8 else 256

end Sys2Proof.Machine
end

