-- ==== Sys2Proof/Machine/Table.lean ====
section
/-! DEFINITION. Sparse tables: lists of (key, value) pairs in strictly rising key order. One home for registers,
memory and the tables of units. The laws of `find?` after `insert` and `erase` need no hypothesis on the list. -/

namespace Sys2Proof.Machine

/-- A sparse table by a number. -/
abbrev Tbl (α : Type) := List (Nat × α)

/-- The entry of a key, if any. -/
def Tbl.find? {α : Type} : Tbl α → Nat → Option α
  | [], _ => none
  | (a, x) :: t, k => if a = k then some x else Tbl.find? t k

/-- The table without a key. -/
def Tbl.erase {α : Type} : Tbl α → Nat → Tbl α
  | [], _ => []
  | (a, x) :: t, k => if a = k then Tbl.erase t k else (a, x) :: Tbl.erase t k

/-- A new entry at its place in the key order. -/
def Tbl.place {α : Type} : Tbl α → Nat → α → Tbl α
  | [], k, v => [(k, v)]
  | (a, x) :: t, k, v => if k < a then (k, v) :: (a, x) :: t else (a, x) :: Tbl.place t k v

/-- The table with a key bound to a value. -/
def Tbl.insert {α : Type} (m : Tbl α) (k : Nat) (v : α) : Tbl α := Tbl.place (Tbl.erase m k) k v

/-- Reading with a default for the keys that are not listed. -/
def Tbl.get {α : Type} (d : α) (m : Tbl α) (k : Nat) : α := (Tbl.find? m k).getD d

/-- Writing with a default: the default is not listed. -/
def Tbl.put {α : Type} [DecidableEq α] (d : α) (m : Tbl α) (k : Nat) (v : α) : Tbl α :=
  if v = d then Tbl.erase m k else Tbl.insert m k v

/-- Change the entry of a key when there is one. -/
def Tbl.modify {α : Type} (m : Tbl α) (k : Nat) (f : α → α) : Tbl α :=
  match Tbl.find? m k with
  | some x => Tbl.insert m k (f x)
  | none => m

/-- The canonical form: keys strictly rising. -/
def Tbl.sorted {α : Type} : Tbl α → Bool
  | [] => true
  | [_] => true
  | (a, _) :: (b, y) :: t => decide (a < b) && Tbl.sorted ((b, y) :: t)

/-- The canonical form of a table with a default: keys strictly rising and no entry equal to the default. -/
def Tbl.wf {α : Type} [DecidableEq α] (d : α) (m : Tbl α) : Bool :=
  Tbl.sorted m && m.all fun e => decide (e.2 ≠ d)

/-- The least number at or above `n` that is no key, looked for in `fuel` places. -/
def Tbl.fresh {α : Type} (m : Tbl α) (n fuel : Nat) : Nat :=
  match fuel with
  | 0 => n
  | fuel + 1 => if (Tbl.find? m n).isSome then Tbl.fresh m (n + 1) fuel else n

end Sys2Proof.Machine
end

