-- ==== Sys2Proof/Machine/Cipher.lean ====
section
/-! DEFINITION. AES-XTS-256, under which HBM is encrypted (R345): the block cipher of FIPS 197 with a 256-bit key and the XTS mode
of IEEE 1619, both taken from outside the manual (PRESUMED, assumption 45). Bytes are numbers below 256, a block is its sixteen
bytes in order. -/

namespace Sys2Proof.Machine

/-- A byte times x in the field of FIPS 197. -/
def gfDouble (a : Nat) : Nat := if a < 128 then 2 * a else (2 * a - 256) ^^^ 0x1B

/-- The product of two bytes. -/
def gfMul (a b : Nat) : Nat :=
  ((List.range 8).foldl (fun (x : Nat × Nat) i => (if b.testBit i then x.1 ^^^ x.2 else x.1, gfDouble x.2)) (0, a)).1

/-- The inverse of a byte, 0 of 0: its power 254. -/
def gfInv (a : Nat) : Nat :=
  ((List.range 7).foldl (fun (x : Nat × Nat) _ => let q := gfMul x.2 x.2; (gfMul x.1 q, q)) (1, a)).1

/-- A byte rotated left. -/
def rotByte (a n : Nat) : Nat := a * 2 ^ n % 256 + a / 2 ^ (8 - n)

/-- The S-box. -/
def aesSub (a : Nat) : Nat :=
  let b := gfInv a
  b ^^^ rotByte b 1 ^^^ rotByte b 2 ^^^ rotByte b 3 ^^^ rotByte b 4 ^^^ 0x63

/-- The inverse S-box. -/
def aesUnsub (a : Nat) : Nat := gfInv (rotByte a 1 ^^^ rotByte a 3 ^^^ rotByte a 6 ^^^ 0x05)

/-- Two lists of bytes, xored. -/
def xorBytes (a b : List Nat) : List Nat := a.zipWith (· ^^^ ·) b

/-- The sixteen bytes of a block. -/
def bytesOf (n len : Nat) : List Nat := (List.range len).map fun i => n / 256 ^ i % 256

/-- The number of a list of bytes, the first lowest. -/
def ofBytes (bs : List Nat) : Nat := bs.foldr (fun b a => b + 256 * a) 0

/-- The sixty words of the key schedule. -/
def aesSchedule (key : List Nat) : List (List Nat) :=
  (List.range 52).foldl (fun w j =>
    let i := j + 8
    let t := w.getD (i - 1) []
    let u := if i % 8 = 0 then xorBytes ((t.drop 1 ++ t.take 1).map aesSub) [2 ^ (i / 8 - 1), 0, 0, 0]
      else if i % 8 = 4 then t.map aesSub else t
    w ++ [xorBytes (w.getD (i - 8) []) u]) ((List.range 8).map fun i => (key.drop (4 * i)).take 4)

/-- The key of a round. -/
def roundKey (w : List (List Nat)) (r : Nat) : List Nat := ((w.drop (4 * r)).take 4).flatten

/-- The rows of a block shifted left, row r by n·r columns. -/
def shiftRows (n : Nat) (s : List Nat) : List Nat :=
  (List.range 16).map fun i => s.getD (4 * ((i / 4 + n * (i % 4)) % 4) + i % 4) 0

/-- The columns of a block times the circulant matrix with a first row. -/
def mixColumns (m : List Nat) (s : List Nat) : List Nat :=
  (List.range 16).map fun i =>
    (List.range 4).foldl (fun a k => a ^^^ gfMul (s.getD (i / 4 * 4 + k) 0) (m.getD ((k + 4 - i % 4) % 4) 0)) 0

/-- A block encrypted under 32 bytes of key. -/
def aesEncrypt (key s : List Nat) : List Nat :=
  let w := aesSchedule key
  let r := (List.range 13).foldl (fun x i =>
    xorBytes (mixColumns [2, 3, 1, 1] (shiftRows 1 (x.map aesSub))) (roundKey w (i + 1))) (xorBytes s (roundKey w 0))
  xorBytes (shiftRows 1 (r.map aesSub)) (roundKey w 14)

/-- A block decrypted. -/
def aesDecrypt (key s : List Nat) : List Nat :=
  let w := aesSchedule key
  let r := (List.range 13).foldl (fun x i =>
    mixColumns [14, 11, 13, 9] (xorBytes ((shiftRows 3 x).map aesUnsub) (roundKey w (13 - i)))) (xorBytes s (roundKey w 14))
  xorBytes ((shiftRows 3 r).map aesUnsub) (roundKey w 0)

/-- A tweak times x in the field of XTS. -/
def tweakDouble (t : Nat) : Nat := if t < 2 ^ 127 then 2 * t else (2 * t - 2 ^ 128) ^^^ 0x87

/-- The tweak of block j of a data unit. -/
def xtsTweak (key2 : List Nat) (unit j : Nat) : Nat :=
  (List.range j).foldl (fun t _ => tweakDouble t) (ofBytes (aesEncrypt key2 (bytesOf unit 16)))

/-- Block j of a data unit, encrypted or decrypted under a key: its first 32 bytes are the data key, the others the tweak key. -/
def xtsBlock (dec : Bool) (key : BitVec 512) (unit j n : Nat) : Nat :=
  let k := bytesOf key.toNat 64
  let t := xtsTweak (k.drop 32) unit j
  let x := bytesOf (n ^^^ t) 16
  ofBytes (if dec then aesDecrypt (k.take 32) x else aesEncrypt (k.take 32) x) ^^^ t

end Sys2Proof.Machine
end

