-- ==== Sys2Proof/Machine/State.lean ====
section
/-! DEFINITION. The state of one Gwynarning G4 package: every agent's registers, the memories and caches whose contents a
program can observe, the queues between agents, and the device's own registers. All of it is plain data. -/

namespace Sys2Proof.Machine

/-- Reasons a step stops the model. None is taken by an instruction word. -/
inductive Fault where
  /-- Raised by `hostMemAccess` for an address that is no HBM of the package (R173, R367). Safe: the model stops where the
  manual names no memory. -/
  | noSuchMemory (addr : Nat)
  deriving DecidableEq, Repr

/-- Reasons a step has no meaning in the model. -/
inductive Refusal where
  /-- Raised by an arm of `exec` whose instruction has no meaning yet. Safe. -/
  | notModelled (mnemonic : String)
  deriving DecidableEq, Repr

/-- A release signature of R204. -/
abbrev Sig := BitVec 512

/-- Memory types of R174. -/
inductive MemTy where
  | shared
  | priv
  | strict
  | stream
  | peer
  deriving DecidableEq, Repr

/-- Why a group holds no slot (R304): a service call's request, a `hail.take`, or its reply has come and it waits for a
slot. -/
inductive Park where
  | call (req : Nat)
  /-- the destination and source registers of the take, and its place in the order of waiting (R325) -/
  | take (d a since : Nat)
  | ready
  deriving DecidableEq, Repr

/-- Whether a thread issues words. -/
inductive Mode where
  /-- no thread is there (a spine core with no instance, a core that has not booted) -/
  | idle
  | run
  /-- `frozen`: a halt has reached the parked group (R315) -/
  | parked (why : Park) (frozen : Bool)
  /-- R305: a spine or service thread waiting in place for the reply to a call -/
  | calling (req : Nat)
  /-- R325: a spine thread waiting in place in `hail.take` -/
  | taking (d a since : Nat)
  /-- R299: a halt broadcast has reached the group, which may issue `left` more words and has issued `skid` -/
  | halting (left skid : Nat)
  | halted
  deriving DecidableEq, Repr

/-- The uniform registers of a thread or a group (R6, R94). A register not listed holds zero. -/
structure Uni where
  w : Tbl W64 := []
  /-- bit r set: `w[r]` is empty (R11) -/
  empty : BitVec 64 := 0
  /-- bit r set: `w[r]` is poisoned (R310) -/
  poison : BitVec 64 := 0
  k : BitVec 8 := 0
  fpctl : W64 := 1
  fpstat : W64 := 0
  /-- registers filled while the thread's context is SAVED: they stand so when its restore has loaded the others (R106, R334) -/
  late : Tbl W64 := []
  deriving DecidableEq, Repr

/-- A spine thread, a service thread or the root monitor's thread. -/
structure Scalar where
  pc : Addr := 0
  uni : Uni := {}
  mode : Mode := .idle
  /-- the last turn found the thread's word waiting, so not begun (R13) -/
  waiting : Bool := false
  part : Nat := 0
  /-- 0: the thread belongs to no context -/
  ctx : Nat := 0
  grid : Nat := 0
  vdie : Nat := 0
  /-- R326: the vector in service and the address of its take -/
  serving : Option Nat := none
  retpc : Addr := 0
  /-- the instance end point (R23) -/
  endpt : Addr := 0
  /-- R332: stopped by `sys.yield` until the restore -/
  yielded : Bool := false
  /-- R342, R371: the address of the first dropped or refused store not yet reported -/
  dropped : Option W64 := none
  refused : Option W64 := none
  deriving DecidableEq, Repr

/-- A jetty register (R115). -/
structure Jetty where
  value : W64 := 0
  full : Bool := false
  reduce : Bool := false
  op : BitVec 4 := 0
  rc : BitVec 8 := 0
  exp : BitVec 8 := 0
  arr : BitVec 8 := 0
  deriving DecidableEq, Repr

/-- A spine core's instance with the cluster's jetty registers: a cluster share (R128, R334). -/
structure Spine where
  th : Scalar := {}
  jetty : Tbl Jetty := []
  /-- the 16-byte piece of the save area at which its section begins (R336) -/
  savedAt : Nat := 0
  deriving DecidableEq, Repr

/-- An entry of a reconvergence stack (R146). -/
structure Reconv where
  rpc : Addr
  saved : BitVec 4
  dpc : Addr
  dmask : BitVec 4
  deriving DecidableEq, Repr

/-- A slice (R146). `live` are the lanes that have not exited; `gang` numbers the gang the slice belongs to (R97);
`regang` is the address, the number and the T bit of the word at which the slice waits (R98). -/
structure Slice where
  pc : Addr
  act : BitVec 4
  live : BitVec 4
  jp : Option Addr := none
  stack : List Reconv := []
  gang : Nat := 0
  regang : Option (Addr × BitVec 10 × Bool) := none
  waiting : Bool := false
  /-- R332: the slice's gang has executed `sys.yield` under a request -/
  yielded : Bool := false
  /-- the number of the turn in which the slice last issued (R163), 0 for never -/
  lastTurn : Nat := 0
  /-- R342, R371: the address of the first dropped or refused store of the slice's gang (R195) not yet reported; the lowest slice
  of the gang holds it -/
  dropped : Option W64 := none
  refused : Option W64 := none
  deriving DecidableEq, Repr

/-- A weight set (R248): K × 32 weights as exact values in units of 2^-8 and their scales, with the format and S. -/
structure WeightSet where
  fmt : Nat
  scaled : Bool
  /-- row-major pattern codes, or for LQ2 the decoded eighths (R59) with sign, by 32 k + n -/
  elem : Tbl W32
  /-- E8M0 codes by 32 h + n -/
  scale : Tbl Byte
  /-- it was loaded from poisoned data (R310) -/
  poison : Bool := false
  deriving DecidableEq, Repr

/-- A closed batch that has not completed (R241). -/
structure Batch where
  num : BitVec 16
  cmds : List Nat
  /-- the status register, 0 for none -/
  dst : Nat
  deriving DecidableEq, Repr

/-- A group (R94, R109). Lane registers are keyed 32 r + l; a register not listed holds zero. -/
structure Group where
  team : Nat
  num : Nat
  budget : Nat
  sched : Nat := 0
  /-- the slot on its scheduler; none when parked, saved or not placed -/
  slot : Option Nat := none
  /-- the record index of the slot it last held (R300) -/
  lastRec : Nat := 0
  /-- the address of its park record, while it is parked (R304) -/
  parkAt : Nat := 0
  /-- a `hail.take` that waits for its commands before it parks: its registers and its place in the order of waiting (R325) -/
  takeAt : Option (Nat × Nat × Nat) := none
  window : Option Nat := none
  uni : Uni := {}
  slices : List Slice
  v : Tbl W32 := []
  /-- the elements written since the group's last `mopfence`, as they were before (R214) -/
  vOld : Tbl W32 := []
  vEmpty : BitVec 128 := 0
  /-- bit 32 r + l (R310) -/
  vPoison : BitVec 4096 := 0
  /-- bit 32 p + l -/
  p : BitVec 256 := 0
  /-- R62, by lane -/
  gens : List W32
  mode : Mode := .run
  barHold : Option Nat := none
  xbarHold : Bool := false
  /-- R308 -/
  step : Bool := false
  serving : Option Nat := none
  retpc : Addr := 0
  /-- the group end point (R109) -/
  endpt : Addr := 0
  mstat : W64 := 0
  batchNo : BitVec 16 := 0
  /-- registers that hold the status of a batch, with its number (R212, R290) -/
  statusOf : Tbl Nat := []
  /-- R263: elements of operand registers that lane words have written under a pending `mwld`: the values its load may read -/
  opVals : Tbl (List W32) := []
  /-- the piece of the save area at which its section begins (R336) -/
  savedAt : Nat := 0
  openBatch : List Nat := []
  closed : List Batch := []
  /-- the matrix queue: commands, oldest first (R249) -/
  mq : List Nat := []
  wset : Option WeightSet := none
  lastMwld : Option (Nat × Bool) := none
  mwlds : Nat := 0
  cpys : Nat := 0
  /-- the number of the turn at which the group was last served (R163), 0 for never -/
  lastTurn : Nat := 0
  deriving DecidableEq, Repr

/-- A barrier (R152). -/
structure Barrier where
  arrived : BitVec 16 := 0
  isOpen : Bool := false
  party : BitVec 2 := 0
  phase : W32 := 0
  deriving DecidableEq, Repr

/-- An accumulator tile, 64 × 32, keyed 32 i + n (R96, R257). -/
structure Tile where
  valid : Bool := false
  poison : Bool := false
  el : Tbl W32 := []
  deriving DecidableEq, Repr

/-- A store of a lane or of an engine to a word of scratchpad space, as long as some group's engines may read what was
there before (R212, R214): the word before, the groups it precedes (R200), the barriers whose open phase carries it, those
with a phase that has ended with it, and the groups whose fence has covered it. -/
structure Note where
  old : W32
  seen : BitVec 16 := 0
  pub : BitVec 16 := 0
  ended : BitVec 16 := 0
  fenced : BitVec 16 := 0
  /-- of a store by a copy command: its group's number and its batch, whose status the group must have read first (R212, R290) -/
  via : Option (Nat × Nat) := none
  deriving DecidableEq, Repr

/-- A team (R94). Its pool bytes are keyed by offset; the two banks keep their identity across swaps in `nearId`. -/
structure Team where
  grid : Nat
  num : Nat
  part : Nat
  ctx : Nat
  cluster : Nat := 0
  core : Nat := 0
  vdie : Nat := 0
  placed : Bool := true
  /-- the saved share that the team belongs to while it is not placed (R334) -/
  share : Nat := 0
  /-- the order of its last placement (R163) -/
  seated : Nat := 0
  /-- the piece of the save area at which its section begins (R336) -/
  savedAt : Nat := 0
  s0 : Nat := 0
  tileBase : Nat := 0
  spad : Tbl Byte := []
  near : Tbl Byte := []
  far : Tbl Byte := []
  nearId : Nat := 1
  xcount : Int := 0
  xarrived : BitVec 16 := 0
  xstat : W64 := 0
  bars : Tbl Barrier := []
  tiles : Tbl Tile := []
  /-- tiles held by streams or by opens that have issued (R278) -/
  heldTiles : List Nat := []
  /-- loaded codebook slots (R254), each a table of 256 words -/
  books : Tbl (Tbl W32) := []
  /-- codebook slots loaded from poisoned data -/
  bookPoison : BitVec 4 := 0
  /-- R214: the stores to words of scratchpad space, by offset / 4, that some group's `mopfence` has not covered, in order -/
  unfenced : Tbl (List Note) := []
  /-- R228: the same for the copy engine and `fence.async` -/
  unasync : Tbl (List Note) := []
  /-- poisoned 64-byte pieces of scratchpad space (R310), by offset / 64: the bytes not written since -/
  spadPoison : Tbl (BitVec 64) := []
  /-- collectives that have started (R244) -/
  cpyStarted : Nat := 0
  /-- record index of the record that began a halt whose notice has not been posted (R299) -/
  haltFrom : Option Nat := none
  deriving DecidableEq, Repr

/-- A kernel descriptor (R100) with its address. -/
structure Desc where
  base : Nat := 0
  nvar : Nat := 0
  flags : BitVec 8 := 0
  ngroups : Nat := 1
  nprod : Nat := 0
  pregs : Nat := 0
  cregs : Nat := 1
  pool : Nat := 0
  mtiles : Nat := 0
  exch : Nat := 0
  gentry : Nat := 0
  sentry : Nat := 0
  sstack : Nat := 0
  hvec : Nat := 0
  nhvec : Nat := 0
  /-- the entries of the hail vector table (R324) -/
  hails : List Nat := []
  deriving DecidableEq, Repr

/-- The states of a grid (R156). -/
inductive GridPhase where
  | gated
  | passed
  | placing
  | resident
  | ended
  deriving DecidableEq, Repr

/-- A grid (R94, R103, R156). Counters are named by physical address. -/
structure Grid where
  part : Nat
  ctx : Nat
  num : W32
  desc : Desc
  args : List W64
  count : Nat := 0
  prio : Nat := 0
  books : Nat := 0
  mask : BitVec 16 := 0
  join : Option Nat := none
  gate : Option (Nat × W64) := none
  icnt : Option Nat := none
  co : Bool := false
  /-- register still to be filled with the status (R106) -/
  status : Option (ThreadId × Nat) := none
  phase : GridPhase := .passed
  /-- place in the order of R157 within its priority -/
  order : Nat := 0
  placed : Nat := 0
  retired : Nat := 0
  /-- clusters on which a spine instance has started, and those still running -/
  spines : List Nat := []
  live : List Nat := []
  /-- R302: the fault record this handler grid serves -/
  handler : Option Nat := none
  aborted : Bool := false
  /-- R314: teams to be halted at their placement -/
  haltTeams : List Nat := []
  haltAll : Bool := false
  sig : Sig := 0
  /-- vectors whose IS bit a retired group of the grid holds (R326) -/
  held : List Nat := []
  deriving DecidableEq, Repr

/-- A decoded context record (R335). -/
structure CtxRec where
  root : Nat := 0
  pid : Nat := 0
  asid : Nat := 0
  fprm : Nat := 1
  ftz : Bool := false
  handler : Nat := 0
  privbase : Nat := 0
  plim : Nat := 0
  wmax : Nat := 0
  traparea : Nat := 0
  parkarea : Nat := 0
  savearea : Nat := 0
  launch : Nat := 0
  /-- sixteen bytes (R358) -/
  vdtab : List Byte := []
  sslot : Nat := 0
  savelen : Nat := 0
  deriving DecidableEq, Repr

/-- A hail vector (R316). -/
structure HVec where
  pend : Bool := false
  count : BitVec 16 := 0
  sat : Bool := false
  payload : W64 := 0
  sender : W32 := 0
  policy : BitVec 2 := 1
  wake : Bool := false
  isv : Bool := false
  mask : Bool := false
  /-- R216: the signatures of the sends coalesced into the pending hail -/
  sig : Sig := 0
  deriving DecidableEq, Repr

/-- The states of a context (R338). -/
inductive CtxPhase where
  | none
  | saved
  | resident
  | saving
  deriving DecidableEq, Repr

/-- An open fault record (R183, R302). -/
structure FaultRec where
  recid : W32
  page : Nat
  cause : Nat
  addr : W64
  /-- the access that opened the record; none for a command of a group -/
  opener : ThreadId
  command : Bool
  instr : Instr
  /-- the prefix of the opening word (R32) -/
  pfx : Option (BitVec 25) := none
  lanes : W32 := 0
  /-- the threads whose accesses joined the record (R183) -/
  joined : List ThreadId := []
  deriving DecidableEq, Repr

/-- A context (R316, R335, R338). -/
structure Ctx where
  phase : CtxPhase := .none
  info : CtxRec := {}
  vecs : Tbl HVec := []
  perm : Tbl W64 := []
  drops : W32 := 0
  /-- WHY of a standing pre-emption request (R331) and the time it arrived -/
  preq : Option (BitVec 2) := none
  /-- thousandths of ACLK cycles counted up to `preqAt` since the request arrived (R331, R381) -/
  preqRan : Nat := 0
  preqAt : Nat := 0
  /-- the save is forced: no further word is issued (R332) -/
  forced : Bool := false
  faults : List FaultRec := []
  /-- vector of a WAKE hail accepted while saving (R323) -/
  wakeDue : Option Nat := none
  /-- virtual function the context belongs to (R340), and whether it was resident at the switch -/
  func : Nat := 0
  resume : Bool := false
  /-- the piece of the save area at which its hail section begins (R336) -/
  hailAt : Nat := 0
  deriving DecidableEq, Repr

/-- A notice (R338). -/
structure Notice where
  kind : Byte
  ctx : Byte
  arg : W32
  deriving DecidableEq, Repr

/-- An open service call (R305 to R307). -/
structure Call where
  caller : ThreadId
  lane : Bool
  number : Nat
  /-- `w1` to `w8`, or for a lane call the number, the active mask and the park record's address (R305, R306) -/
  payload : List W64 := []
  deriving DecidableEq, Repr

/-- A landing tag (R264, R276). -/
structure Tag where
  gen : BitVec 15 := 0
  /-- none: unallocated; some 0: the partition's service core; some k: context k -/
  owner : Option Nat := none
  /-- the virtual function of the owner: the pool is the partition's, contexts are the function's (R264, R340) -/
  func : Nat := 0
  orphaned : Bool := false
  deriving DecidableEq, Repr

/-- A pinned destination page list: virtual page to physical frame (R240). -/
abbrev Frames := Tbl Nat

/-- A landing entry (R270, R271, R274). -/
structure Landing where
  tag : W32
  op : BitVec 2
  cvt : Bool
  cls : BitVec 2
  parties : Nat
  dest : W64
  done : W64
  frames : Frames
  el : Tbl W32
  poison : Bool
  arr : Nat
  sig : Sig
  /-- 0: in its slice's landing store; 1: a general entry of the overflow area; 2: a save entry (R273) -/
  place : Nat
  /-- running nanoseconds counted up to `since`, and the time the count was last started; none while frozen -/
  ran : Nat
  since : Option Nat
  deriving DecidableEq, Repr

/-- A tile on its way to its home slice (R268). -/
structure Arrival where
  cmd : Nat
  group : Nat
  ctx : Nat
  tag : W32
  op : BitVec 2
  cvt : Bool
  cls : BitVec 2
  parties : Nat
  dest : W64
  done : W64
  frames : Frames
  el : Tbl W32
  poison : Bool
  sig : Sig
  dst : Nat
  deriving DecidableEq, Repr

/-- A border change in progress (R343). -/
structure Border where
  base : Nat
  logk : Nat
  deadline : Nat
  pagesMigrated : Bool
  /-- the partition that receives the departing clusters (R166) -/
  recv : Option Nat := none
  deriving DecidableEq, Repr

/-- A partition (R342): an aligned block of 2^logk clusters from `base`. -/
structure Part where
  base : Nat
  logk : Nat
  lease : Nat := 32
  pdl : W32 := 20000
  ntags : Nat := 0
  classen : BitVec 4 := 15
  ovfgen : Nat := 0
  ctxtab : Nat := 0
  /-- the HBM channels assigned by the root monitor (R193, R342), each 2 GiB -/
  chans : List Nat := []
  lerr : W32 := 0
  corr : W32 := 0
  uncorr : W32 := 0
  notices : List Notice := []
  calls : Tbl Call := []
  nextCall : W32 := 0
  nextGrid : W32 := 1
  tags : Tbl Tag := []
  landings : Tbl Landing := []
  arrivals : List Arrival := []
  svc : Scalar := {}
  /-- a `sys.ctxsw` or `sys.ctxld` that has passed its checks and has not completed (R339): outgoing, incoming, and of a
  `sys.ctxsw` when it began -/
  switching : Option (Nat × Nat × Option Nat) := none
  /-- the entry of the service image, none before the first has been loaded; that of an image which takes over once the
  calls accepted before it have finished; and the calls that queue for it (R344) -/
  image : Option Addr := none
  nextImage : Option Addr := none
  late : List W32 := []
  /-- when the first of them came (R344) -/
  lateAt : Option Nat := none
  /-- R346, R384: halted until created anew -/
  halted : Bool := false
  key : BitVec 512 := 0
  border : Option Border := none
  /-- clusters from which placement is withheld (R166, R343) -/
  leaving : List Nat := []
  /-- R340: the virtual function on the partition, and the one that a switch in progress brings -/
  func : Nat := 0
  toFunc : Option Nat := none
  /-- R165: the service target, and what this accounting window has shown so far: core-nanoseconds of use, whether a grid
  has waited throughout, whether a quarter of the cores has been empty throughout -/
  target : Nat := 0
  use : Nat := 0
  kept : Bool := false
  airy : Bool := false
  /-- the findings of the last window, until they have been acted on (R166), and the targets missed -/
  short : Bool := false
  rich : Bool := false
  missed : Nat := 0
  deriving DecidableEq, Repr

/-- A sector of a cluster L1 or of a service core's data cache (R184). -/
structure Sector where
  ty : MemTy
  data : BitVec 512
  valid : BitVec 64
  /-- bytes written since the sector became dirty; 0 when clean -/
  dirty : BitVec 64
  /-- fill stamp (R201) -/
  stamp : Nat
  /-- when the sector became dirty -/
  since : Nat
  /-- virtual address of the sector, for a dropped write-back (R342) -/
  va : W64
  /-- the context that filled it or wrote it last, with its process identifier (`State.tagOf`; R366, R333) -/
  tag : Nat := 0
  deriving DecidableEq, Repr

/-- A line of a STREAM write-combining buffer (R176). -/
structure WcLine where
  data : BitVec 1024 := 0
  mask : BitVec 128 := 0
  /-- bytes that came poisoned (R310) -/
  bad : BitVec 128 := 0
  since : Nat
  /-- the virtual address of its first store, for a dropped write (R342) -/
  va : W64 := 0
  tag : Nat := 0
  deriving DecidableEq, Repr

/-- The accumulator and the pending signature of a cluster or a service core (R204, R206), the count of rotations made,
and the address of a dropped write-back (R342). -/
structure Acc where
  cur : Sig := 0
  prev : Sig := 0
  /-- the `Bits` of the lines that the point has written at their slices since the last rotation and in the period before: the
  further bits of R205 by which a later release covers them (R200; assumption 66) -/
  wrote : Sig := 0
  wrotePrev : Sig := 0
  epoch : Nat := 0
  pending : Option Sig := none
  dropped : Option W64 := none
  deriving DecidableEq, Repr

/-- A sector that an L2 slice holds (R189). Its bytes are those of `State.mem`, which no agent reads around the slice. -/
structure SliceSector where
  slice : Nat
  dirty : Bool := false
  tag : Nat := 0
  deriving DecidableEq, Repr

/-- A held translation: the leaf and its level (R181). -/
structure TlbEnt where
  pte : W64
  level : Nat
  deriving DecidableEq, Repr

/-- One lane's access of a memory word: physical address or pool offset, size, page type (none for the pool), operands
of an atomic. -/
structure LaneAcc where
  lane : Nat
  addr : Nat
  size : Nat
  ty : Option MemTy
  va : W64
  b : W64 := 0
  c : W64 := 0
  deriving DecidableEq, Repr

/-- Where the data of a request goes. -/
inductive Dest where
  | v (r : Nat) (pair : Bool)
  /-- two registers, the low and the high word of each lane's data (R145) -/
  | two (d a : Nat)
  | w (r : Nat)
  | nothing
  deriving DecidableEq, Repr

/-- A word of group code that has issued and whose destination is not full yet: a load or an atomic (R86, R220, R225), or a
cross-lane word or `ltag.alloc`, which read nothing more (R130, R266). -/
structure Req where
  group : Nat
  gang : Nat
  /-- the slices of the gang at issue (R97) -/
  slices : BitVec 8 := 0
  dst : Dest
  /-- lanes still to be read, or atomics still to be performed, in ascending lane order -/
  todo : List LaneAcc
  /-- atomic operation code (R41), none for a load -/
  op : Option Nat
  /-- ordering: 0 plain, 1 cluster, 2 device, 3 system (R222) -/
  ord : Nat
  got : Tbl W64 := []
  /-- lanes whose data came poisoned -/
  bad : List Nat := []
  /-- the request numbers of atomics that have been performed and whose replies have not returned (R364) -/
  sent : List Nat := []
  deriving DecidableEq, Repr

/-- What an engine command does; pinned frames by virtual page (R240). -/
inductive CmdKind where
  /-- R244: spaces (true: scratchpad), addresses, length, collective number -/
  | cpy (sSpad dSpad : Bool) (src dst len k : Nat) (sf df : Frames)
  /-- R245 -/
  | gather (dSpad x64 : Bool) (idx nidx tbase stride row dst : Nat) (fi fd : Frames)
  /-- R246: bins are (address, base, capacity) -/
  | binscat (sSpad : Bool) (tok ntok tsize keys bins : Nat) (bin : List (Nat × Nat × Nat)) (ft fk : Frames)
  | mwld (k vr : Nat) (s0 s1 : W64) (slot : Nat) (scaled : Bool) (fmt : Nat)
  | mma (tile rows : Nat) (z scaled : Bool) (fmt off stride soff : Nat)
  | maccZero (tile : Nat)
  | maccLoad (tile off : Nat)
  | maccStore (tile cvt off : Nat)
  | maccAdd (tile srcTile : Nat)
  | maccScale (tile : Nat) (f : W32)
  | maccRow (tile row x : Nat)
  | maccClear
  | cbload (slot off : Nat)
  | meet (tile : Nat) (op : BitVec 2) (cvt : Bool) (cls : BitVec 2) (dst : Nat) (tag : W32) (dest done : W64) (parties : Nat)
      (frames : Frames)
  | strmOpen (tile : Nat) (outer comp zero : Bool) (n dst : Nat) (after : List Nat)
  | strmStep (slot : Nat) (gen : W32) (off : Nat) (out : Option Nat) (dst : Nat)
  | strmScan (slot : Nat) (gen : W32) (off stride steps : Nat) (out : Option Nat) (ostride dst : Nat)
  | strmSave (slot : Nat) (gen : W32) (hold : Bool) (addr : Nat) (fr : Frames) (dst : Nat)
  | strmLoad (slot : Nat) (gen : W32) (addr : Nat) (fr : Frames) (dst : Nat)
  | strmClose (slot : Nat) (gen : W32) (dst : Nat)
  | strmQuery (slot : Nat) (gen : W32) (state : Bool) (dst : Nat)
  deriving DecidableEq, Repr

/-- A row of a `gather` or a token of a `binscat` that a copy command has begun (R245, R246): where its words come from, with the
frames of a row, and where they go; none when the row is skipped or the token dropped. -/
structure Work where
  src : Nat
  dst : Nat
  fr : Frames := []
  deriving DecidableEq, Repr

/-- An issued command (R240) with the batch fields it raises (R242). -/
structure Cmd where
  group : Nat
  team : Nat
  kind : CmdKind
  batch : BitVec 16
  done : Bool := false
  rowfault : Bool := false
  poison : Bool := false
  badkey : Bool := false
  overflow : Bool := false
  skipped : Nat := 0
  /-- the rows or tokens that a copy command has begun (R245, R246) -/
  begun : Tbl (Option Work) := []
  /-- the low words of 64-bit indices that have been read, each apart from its high word (R197, R245), with their marks -/
  lows : Tbl (Nat × Bool) := []
  /-- the words that a copy command has moved, by their place in its work; whether one came poisoned (R244 to R246, R310) -/
  moved : Tbl Bool := []
  deriving DecidableEq, Repr

/-- An open stream (R278); its state is in its tiles. -/
structure Stream where
  team : Nat
  outer : Bool
  comp : Bool
  n : Nat
  tile : Nat
  steps : W64 := 0
  gen : W32
  nan : Bool := false
  ovf : Bool := false
  held : Bool := false
  closing : Bool := false
  /-- the piece of the save area at which its section begins (R336) -/
  savedAt : Nat := 0
  /-- accepted commands, oldest first -/
  queue : List Nat := []
  deriving DecidableEq, Repr

/-- A hail on its way to a hail unit (R319). -/
structure HailMsg where
  part : Nat
  ctx : Nat
  vec : Nat
  payload : W64
  sender : W32
  sig : Sig := 0
  deriving DecidableEq, Repr

/-- A hail that has left for a peer package (R321). -/
structure PeerHail where
  port : Nat
  part : Nat
  ctx : Nat
  vec : Nat
  payload : W64
  sender : W32
  deriving DecidableEq, Repr

/-- Bytes of an `xst` between two clusters (R192, R230). -/
structure XPkt where
  src : Nat
  dst : Nat
  /-- the sending group and its slices: their word completes when the bytes have been accepted -/
  group : Nat := 0
  slices : BitVec 8 := 0
  /-- the sending team, and the target team -/
  sender : Nat
  team : Nat
  off : Nat
  size : Nat
  data : W64
  deriving DecidableEq, Repr

/-- A DATA flit in a replay buffer (R361, R362), with its flow and how often it has been sent again since ACKSEQ last
moved (R363). -/
structure Flit where
  seq : BitVec 10
  payload : BitVec 1984
  flow : Nat := 0
  resent : Nat := 0
  deriving DecidableEq, Repr

/-- A flit as it crosses a link (R361). -/
structure Wire where
  hdr : BitVec 16
  ack : BitVec 16
  payload : BitVec 1984
  crc : W32
  deriving DecidableEq, Repr

/-- One end of a link module (R361 to R363) or of a package-link port (R369). Width in lanes; 0 when failed. -/
structure Link where
  port : Bool := false
  nextSeq : BitVec 10 := 0
  expected : BitVec 10 := 0
  lastAck : BitVec 10 := 1023
  replay : List Flit := []
  inbox : List (BitVec 1984) := []
  /-- flits sent: what the receiver of the other end will see, oldest first -/
  wire : List Wire := []
  /-- a flit has been discarded and NAK has gone back; the expected flit has not come (R362) -/
  nakDue : Bool := false
  /-- when ACKSEQ last moved or the sender last sent again -/
  progressAt : Nat := 0
  width : Nat := 64
  deriving DecidableEq, Repr

/-- A non-idempotent request's operation at its far end (R364, R369). -/
inductive FarOp where
  | store (ty : MemTy) (addr size : Nat) (v : W64) (tag : Nat := 0)
  | atomic (ty : MemTy) (op size addr : Nat) (b c : W64) (tag : Nat := 0)
  | hail (h : PeerHail)
  /-- a hail within the device (R318) -/
  | message (m : HailMsg)
  /-- the written bytes of a line: a write-back (R184) or a line of the STREAM buffer (R176) -/
  | line (base : Nat) (l : WcLine)
  /-- a packet of an exchange store (R231) -/
  | packet (p : XPkt)
  /-- an arrival at a landing (R270) -/
  | arrival (part : Nat) (a : Arrival)
  deriving DecidableEq, Repr

/-- What needs nothing of a request's reply but that it comes. -/
inductive Poster where
  /-- a word of the thread: its releases of system scope wait for it (R207) -/
  | thread (t : ThreadId)
  /-- a write-back of the requester: releases there wait for it (R202) -/
  | writeBack
  /-- nothing waits for it -/
  | unit
  deriving DecidableEq, Repr

/-- A non-idempotent request whose reply has not come back to its requester (R364): `far` is a base die from 0 to 3, 4 for the
host, 5 for the device registers, or 16 + the port of a peer package. -/
structure Outstanding where
  far : Nat
  op : FarOp
  sentAt : Nat
  /-- what needs only that the reply comes; none where its data fills a destination -/
  poster : Option Poster := none
  /-- the reply's data, and whether it came poisoned -/
  reply : Option (W64 × Bool) := none
  deriving DecidableEq, Repr

/-- What left the package: an access to a device register (R173), or one to host memory by its host address with the
process identifier it is tagged with (R366): a STRICT or PEER access, a slice's fill or write-back. -/
structure DevAccess where
  addr : Nat
  size : Nat
  write : Bool
  v : W64
  pid : Option Nat := none
  /-- marked poisoned (R310, R371) -/
  bad : Bool := false
  deriving DecidableEq, Repr

/-- A directory entry of a home controller (R365): the slice that holds the line, and its DIRTY bit. A line that the host may hold
stands in `State.hostHeld`, with the bit. -/
structure DirEnt where
  slice : Nat
  dirty : Bool := false
  deriving DecidableEq, Repr

/-- What the device reports to its host over CXL (R346, R384) and to the root monitor (R299, R342, R363). -/
inductive Report where
  | securityAlarm (die : Nat) (tamper : Bool)
  | thermalTrip (tj : BitVec 8)
  | serviceTrap (part : Nat) (kind : Nat)
  | noModule (pair : Nat)
  | dieDisabled (base : Bool) (die : Nat)
  deriving DecidableEq, Repr

/-- The registers and state of the root monitor's part (R346, R366 to R371, R381 to R384). -/
structure Root where
  pwrctl : W64 := 4
  pwrstat : W64 := 4
  bootstat : W64 := 0x100000
  seccfg : W64 := 0
  pkgid : W64 := 0
  pexptab : W64 := 0
  plUp : BitVec 12 := 0
  plNarrow : BitVec 12 := 0
  /-- identifiers exchanged at training, by port (R369) -/
  peerId : Tbl (BitVec 16) := []
  /-- the peers' export entries as they answer for them: by 64 port + part, length in 2 MiB units and PERM (R370) -/
  peerExp : Tbl (Nat × Nat) := []
  digest : BitVec 384 := 0
  rootKeys : Bool := true
  /-- by CXL port: GT/s and lanes -/
  cxl : Tbl (Nat × Nat) := []
  reports : List Report := []
  refusals : Nat := 0
  drops : Nat := 0
  /-- dies disabled by failed training: base dies, compute dies -/
  bdBad : BitVec 4 := 0
  cdBad : BitVec 16 := 0
  /-- time of the last thermal step -/
  thermAt : Option Nat := none
  /-- R384: CURPOINT is being lowered: TJMAX has exceeded 100 degrees and has not fallen below 95 since -/
  cooling : Bool := false
  /-- the gated dies that come back, and when their bits were cleared (R382) -/
  ungateAt : Tbl Nat := []
  /-- when the change of point in progress stopped issue (R381) -/
  pauseAt : Option Nat := none
  notices : List Notice := []
  calls : Tbl Call := []
  nextCall : W32 := 0
  th : Scalar := {}
  deriving DecidableEq, Repr

/-- Where a soft error is found (R372): a 64-byte sector of HBM or of a slice, one of a cluster L1, a landing by its tag, a
64-byte piece of a pool (scratchpad and near bank, the far bank, a lane register; R185), a tile; or what has parity alone: a fetched word, a held translation, a directory entry. -/
inductive ErrorPlace where
  | memory (pa : Nat)
  | cached (cpt pa : Nat)
  | landing (part tag : Nat)
  | pool (team offset : Nat)
  | farBank (team offset : Nat)
  | laneReg (group reg lane : Nat)
  | tile (team num : Nat)
  | code (key : Nat)
  | walk (key : Nat)
  | home (line : Nat)
  deriving DecidableEq, Repr

/-- What moves next (assumption 1): a thread, an issue slot of a group scheduler (R163), a step of the device, the passing
of time, an eviction that the replacement order makes (R181, R184, R189), the end of a group's skid (R299), a fill that no
executed word asked for (R15, R16), traffic of the links (R361), what the root monitor does at the hypervisor's request, what reaches the package from outside, a
soft error. -/
inductive Turn where
  | thread (th : ThreadId)
  | slot (core sched : Nat)
  | event (e : Instr)
  | tick (ns : Nat)
  | evict (cpt sector : Nat)
  | evictTlb (key : Nat)
  | evictCode (key : Nat)
  | stopSkid (group : Nat)
  /-- R240, R243 to R246: the copy engine moves one word of a command: a row or token, and the word's place in it -/
  | copyWord (cmd row word : Nat)
  /-- R15, R16, R229: a squashed or hinted access fills the L1 and the translation caches of a thread's core -/
  | prefetch (th : ThreadId) (va : W64)
  /-- R189: a line leaves its slice, by its sectors' key over 2 -/
  | evictSlice (key : Nat)
  /-- R361: a packet's beats leave on a flow of a pair of base dies (0 to 3) or of a port (4 + port) -/
  | sendFlit (pair flow : Nat) (payload : BitVec 1984)
  | sendIdle (link : Nat)
  /-- R165, R208, R265, R331: the root monitor sets a partition's registers -/
  | configPart (part lease pdl ntags ovfgen target : Nat) (classen : BitVec 4)
  /-- R358: the root monitor writes a context's binding table -/
  | bindDies (part ctx : Nat) (tab : List Byte)
  /-- R364: the acknowledgement of a posted request reaches its requester -/
  | acknowledge (port num : Nat)
  /-- R370: a peer package changes the export entry of one of its partitions: length in 2 MiB units and PERM -/
  | peerExport (port part len perm : Nat)
  /-- R322: a peer's hail arrives at a port: its partition there and here, contexts, vector and payload -/
  | peerHail (port fromPart fromCtx part ctx vec : Nat) (payload : W64)
  /-- R368: the host reads eight bytes of a function's BAR0 -/
  | barRead (func offset : Nat)
  /-- R372: a soft error in what a partition's cores read, which its code corrects or not -/
  | softError (part : Nat) (place : ErrorPlace) (corrected : Bool)
  deriving DecidableEq, Repr

/-- The device. -/
structure State where
  /-- the thread whose word is issued next -/
  cur : ThreadId := .monitor
  /-- the prefix executed just before, which the next word of `cur` belongs to (R32, R33) -/
  pfx : Option (BitVec 25) := none
  /-- what moves next, oldest first: the order the manual leaves open -/
  agenda : List Turn := []
  /-- timebase nanoseconds (R2) -/
  time : Nat := 0
  /-- free values drawn so far -/
  fresh : Nat := 0
  /-- numbers given to teams, grids, commands and requests so far -/
  nextId : Nat := 1
  /-- issue slots served so far (R163) -/
  turns : Nat := 0
  /-- HBM and host memory as the home slices hold them (R173, R189); an unlisted byte reads 0 -/
  mem : List Host.Cell := []
  /-- the key under which a 64-byte sector was last written (R345) -/
  memKey : Tbl (BitVec 512) := []
  /-- the sectors that L2 slices hold (R189), by PA / 64, for host lines with 2^46 × partition -/
  l2 : Tbl SliceSector := []
  /-- memory of the peers' export windows, by PA of the peer region -/
  peerMem : List Host.Cell := []
  /-- poisoned 64-byte sectors, by PA / 64: the bytes that nothing has written since; all of them must be, for the mark to go
  (R310, R372) -/
  memPoison : Tbl (BitVec 64) := []
  /-- by 2^46 × coherence point + PA / 64 -/
  l1 : Tbl Sector := []
  /-- by 2^45 × cluster + PA / 128 -/
  wc : Tbl WcLine := []
  /-- by PA / 128 (R205) -/
  sigs : Tbl Sig := []
  /-- by coherence point -/
  accs : Tbl Acc := []
  /-- held translations by place, owner, level and page: `tlbKey` (R181) -/
  tlb : Tbl TlbEnt := []
  /-- fetched words, by 2^50 × core + PA / 4 (R14) -/
  icache : Tbl W32 := []
  /-- by number; the state of a virtual function that is not on its partition stands at `awayPart` (R340) -/
  parts : Tbl Part := []
  /-- by 256 × partition + context -/
  ctxs : Tbl Ctx := []
  grids : Tbl Grid := []
  teams : Tbl Team := []
  /-- by 16 × team + number -/
  groups : Tbl Group := []
  /-- by cluster; a saved cluster share by `savedKey` -/
  spines : Tbl Spine := []
  /-- footprint of each core's split in bytes, by 4 × cluster + core (R159); unset when not listed -/
  splits : Tbl Nat := []
  reqs : Tbl Req := []
  cmds : Tbl Cmd := []
  /-- by 32 × team + slot -/
  streams : Tbl Stream := []
  hails : List HailMsg := []
  peerHails : List PeerHail := []
  xpkts : List XPkt := []
  links : Tbl Link := []
  /-- by 2^16 × requester + request number -/
  outs : Tbl Outstanding := []
  /-- the request numbers that a requester has given so far (R364) -/
  reqNos : Tbl Nat := []
  /-- the module of a flow of a pair (R363), by 2^32 × pair + flow; module 0 when it is not listed -/
  flows : Tbl Nat := []
  /-- by 2^20 × far die + requester: identifiers performed and their replies, newest first (R364) -/
  windows : Tbl (List (Nat × W64 × Bool)) := []
  dirs : Tbl DirEnt := []
  /-- lines of HBM that the host may hold, with the DIRTY bit of their entry (R365, R367) -/
  hostHeld : Tbl Bool := []
  /-- lines whose fill waits for the host's answer (R367) -/
  biWait : List Nat := []
  /-- writes to a gate counter's line since the last test, with their time (R157): by line -/
  gateDue : Tbl Nat := []
  devLog : List DevAccess := []
  /-- data sent to the host or to a peer in answer to a read (R367, R368, R370) -/
  replies : List DevAccess := []
  /-- host function to partition (R322, R340), by function number -/
  funcPart : Tbl Nat := []
  root : Root := {}
  deriving DecidableEq, Repr

/-- R383, R381: the package at power-up, before the root monitor has run its boot ROM: point 4, nothing trained, no
partition, no context, no thread. Values the manual does not state are those of assumption 2. -/
def State.reset : State := {}

end Sys2Proof.Machine
end

