-- ==== Sys2Proof/Machine/Mem.lean ====
section
/-! DEFINITION. Memory: bytes at the home slices (R8, R189), the regions of R173, the cluster L1 with leases (R184,
R201), the STREAM buffer (R176), signatures and accumulators (R202 to R206), and page translation (R178 to R181). -/

namespace Sys2Proof.Machine

/-- The byte at an address; an unlisted byte reads 0 (assumption 9). -/
def memByte (m : List Host.Cell) (a : Nat) : Byte := Tbl.get (0 : Byte) m a

/-- n bytes at an address, little-endian (R8). -/
def memRead (m : List Host.Cell) (a : Nat) : Nat → Nat
  | 0 => 0
  | n + 1 => (memByte m a).toNat + 256 * memRead m (a + 1) n

/-- Write n bytes of a value, little-endian (R8), keeping the canonical form. -/
def memWrite (m : List Host.Cell) (a : Nat) (n v : Nat) : List Host.Cell :=
  match n with
  | 0 => m
  | n + 1 => memWrite (Tbl.put (0 : Byte) m a (BitVec.ofNat 8 v)) (a + 1) n (v / 256)

/-- The canonical form of a memory: addresses strictly rising, no byte equal to what an unlisted address reads as. -/
def Memory.wf (m : List Host.Cell) : Bool := Tbl.wf (0 : Byte) m

/-- The regions of the physical address space (R173). -/
inductive Region where
  | hbm
  | device
  | host
  | peer
  | reserved
  deriving DecidableEq, Repr

/-- R173. -/
def regionOf (pa : Nat) : Region :=
  if pa < 2 ^ 40 then .hbm
  else if pa / 2 ^ 40 = 0xF0 then .device
  else if pa < 2 ^ 48 then .reserved
  else if pa < 2 ^ 51 then .host
  else if pa < 2 ^ 52 then .peer
  else .reserved

/-- R173: the types a region admits. -/
def Region.admits : Region → MemTy → Bool
  | .hbm, t => t == .shared || t == .priv || t == .stream
  | .device, t => t == .strict
  | .host, t => t != .priv
  | .peer, t => t == .peer || t == .strict
  | .reserved, _ => false

/-- Access kinds (R174). -/
inductive AccKind where
  | load
  | store
  | atomic
  | privLoad
  | privStore
  | fetch
  | copyRead
  | copyWrite
  /-- `cache` write-back and invalidate (R229) -/
  | lineRead
  | lineWrite
  | zero
  deriving DecidableEq, Repr

/-- The accesses that need W = 1 (R180). -/
def AccKind.writes : AccKind → Bool
  | .store => true
  | .atomic => true
  | .privStore => true
  | .copyWrite => true
  | .lineWrite => true
  | .zero => true
  | _ => false

/-- R174: the kinds a type admits. -/
def MemTy.admits (t : MemTy) (k : AccKind) : Bool :=
  match k with
  | .load => true
  | .store => true
  | .atomic => t == .shared || t == .priv || t == .peer
  | .privLoad => t == .priv
  | .privStore => t == .priv
  | .fetch => t == .shared || t == .priv
  | .copyRead => t == .shared || t == .priv || t == .stream
  | .copyWrite => t == .shared || t == .priv || t == .stream
  | .lineRead => true
  | .lineWrite => true
  | .zero => t == .shared || t == .priv || t == .stream

/-- The type a page table entry names (R179). -/
def MemTy.ofCode : Nat → Option MemTy
  | 0 => some .shared
  | 1 => some .priv
  | 2 => some .strict
  | 3 => some .stream
  | 4 => some .peer
  | _ => none

/-- One level of the walk (R178 to R180): the cause of a failure, or the leaf with its level, or the next table. -/
inductive WalkStep where
  | fail (cause : Nat)
  | leaf (pte : W64) (level : Nat)
  | table (base : Nat)
  deriving DecidableEq, Repr

/-- The bytes a leaf of a level maps; level 5 stands for sixteen 4 KiB leaves held as one translation (R181). -/
def pageSize : Nat → Nat
  | 2 => 2 ^ 30
  | 3 => 2 ^ 21
  | 5 => 2 ^ 16
  | _ => 2 ^ 12

/-- R179, R180: what one entry of a level says. -/
def walkStep (level : Nat) (e : W64) : WalkStep :=
  let frame := e.toNat / 2 ^ 12 % 2 ^ 40 * 2 ^ 12
  if e.getLsbD 0 = false then .fail 1
  else if e.toNat / 2 ^ 10 % 4 ≠ 0 ∨ e.getLsbD 63 then .fail 3
  else if regionOf frame = .reserved then .fail 3
  else if e.getLsbD 1 = false then
    if level = 4 ∨ e.toNat / 4 % 256 ≠ 0 then .fail 3 else .table frame
  else if level = 1 then .fail 3
  else if frame % pageSize level ≠ 0 then .fail 3
  else
    match MemTy.ofCode (e.toNat / 32 % 8) with
    | none => .fail 3
    | some t => if (regionOf frame).admits t then .leaf e level else .fail 3

/-- The address of the entry that a level of the walk reads (R178). -/
def entryAddr (level table va : Nat) : Nat := table + 8 * (va / 2 ^ (48 - 9 * level) % 512)

/-- What a walk finds: the addresses of the entries it read, last first, the level of the last one, and the leaf or the
cause of the failure. -/
structure Walked where
  reads : List Nat
  level : Nat
  out : Except Nat (W64 × Nat)

/-- R178: the walk from a table of a level; `rd` reads an entry at its home slice. -/
def walk (rd : Nat → Nat) (va : Nat) (seen : List Nat) : List Nat → Nat → Walked
  | [], _ => ⟨seen, 4, .error 3⟩
  | level :: rest, table =>
    let a := entryAddr level table va
    match walkStep level (BitVec.ofNat 64 (rd a)) with
    | .fail c => ⟨a :: seen, level, .error c⟩
    | .leaf e l => ⟨a :: seen, level, .ok (e, l)⟩
    | .table b => walk rd va (a :: seen) rest b

/-- R181: the sixteen entries around one of level 4, and those of them that are leaves with C set, each with its place. -/
def contiguous (rd : Nat → Nat) (ea : Nat) : List (Nat × W64) :=
  ((List.range 16).map fun i => (i, BitVec.ofNat 64 (rd (ea / 128 * 128 + 8 * i)))).filter fun e =>
    e.2.getLsbD 8 && (match walkStep 4 e.2 with
      | .leaf _ _ => true
      | _ => false)

/-- R181: the translation of a 64 KiB block by one of its leaves: the FRAME of the block's first page, modulo the 52 bits of a physical
address (assumption 44). -/
def blockLeaf (i : Nat) (e : W64) : W64 :=
  let frame := (e.toNat / 2 ^ 12 % 2 ^ 40 + 2 ^ 40 - i) % 2 ^ 40
  BitVec.ofNat 64 (e.toNat % 2 ^ 12 + frame * 2 ^ 12 + e.toNat / 2 ^ 52 * 2 ^ 52)

/-- A translated access: physical address and type. -/
structure Phys where
  pa : Nat
  ty : MemTy
  deriving DecidableEq, Repr

/-- The checks at a leaf, after cause 3: cause 2, then cause 4 (R180). -/
def leafCheck (e : W64) (level va : Nat) (k : AccKind) (user : Bool) : Except Nat Phys :=
  let ty := (MemTy.ofCode (e.toNat / 32 % 8)).getD .shared
  if (k.writes && !e.getLsbD 2) || (k == .fetch && !e.getLsbD 3) || (user && !e.getLsbD 4) then .error 2
  else if !ty.admits k then .error 4
  else .ok ⟨(e.toNat / 2 ^ 12 % 2 ^ 40 * 2 ^ 12 + va % pageSize level) % 2 ^ 52, ty⟩

/-- The key of a translation of a level held at a place. -/
def tlbKey (place part asid level va : Nat) : Nat :=
  place * 2 ^ 72 + (2 ^ 16 * part + asid) * 2 ^ 40 + level * 2 ^ 36 + va / pageSize level

/-- The partition and the address-space identifier of a held translation's key. -/
def tlbOwner (key : Nat) : Nat := key / 2 ^ 40 % 2 ^ 32

/-- R181: where a core's translations are held, nearest first: its own TLB (numbered as `State.fetchCore` numbers cores),
its cluster's (2048 + cluster), its base die's cache (4096 + die). A walk for a service core ends at its base die's cache
(assumption 44). -/
def tlbPlaces (core : Nat) : List Nat :=
  if core < 1024 then [core, 2048 + core / 4, 4096 + core / 256]
  else if core < 1280 then [core, 2048 + (core - 1024), 4096 + (core - 1024) / 64]
  else [4096 + (core - 1280) / 12 % 4]

/-- The coherence point for which a core (numbered so) walks: its cluster, or its service core. -/
def corePoint (core : Nat) : Nat := if core < 1024 then core / 4 else core - 1024

/-- R181: how many translations a place holds. -/
def tlbSize (place : Nat) : Nat := if place < 2048 then 64 else if place < 4096 then 2048 else 65536

/-- The address space of an access: a context with the core that translates, or physical addresses for a service thread or
the monitor (assumption 10). -/
inductive Space where
  | ctx (part id core : Nat)
  | physical
  deriving DecidableEq, Repr

/-- A free value of the counter, and the state after drawing it (assumption 5). -/
def State.draw (s : State) : W64 × State := (Config.freeWord s.fresh, { s with fresh := s.fresh + 1 })

/-- A free choice among keys (assumption 5); 0 when there is none. -/
def State.pick (s : State) (l : List Nat) : Nat × State := (l.getD (s.draw.1.toNat % l.length) 0, s.draw.2)

/-- R340: where the state of a virtual function stands that is not on its partition. -/
def awayPart (part func : Nat) : Nat := 64 + 128 * part + func

/-- The partition of a part number. -/
def realPart (p : Nat) : Nat := if p < 64 then p else (p - 64) / 128

/-- The key of a context. -/
def ctxKey (part c : Nat) : Nat := 256 * part + c

/-- A context's record, of zeros when there is none. -/
def State.ctx (s : State) (part c : Nat) : Ctx := (s.ctxs.find? (ctxKey part c)).getD {}

/-- The type of a physical address that no page table names (assumption 10). -/
def physType : Region → Option MemTy
  | .hbm => some .shared
  | .host => some .shared
  | .device => some .strict
  | .peer => some .peer
  | .reserved => none

/-! ### HBM: channels and keys (R193, R345) -/

/-- The partition that owns a channel's address (R193). -/
def State.ownerOf (s : State) (pa : Nat) : Option (Nat × Part) := List.find? (fun e => e.2.chans.contains (pa / 2 ^ 31)) s.parts

/-- R345: the key under which the memory of an address is encrypted; zero outside HBM and where no partition owns it. -/
def State.keyOf (s : State) (pa : Nat) : BitVec 512 :=
  if regionOf pa = .hbm then ((s.ownerOf pa).map fun e => e.2.key).getD 0 else 0

/-- R345: a sector that stands encrypted under another key than its partition's; one that nothing has written stands under
none (assumption 9). -/
def State.foreign (s : State) (pa : Nat) : Option (BitVec 512) :=
  match s.memKey.find? (pa / 64) with
  | none => none
  | some k => if k = s.keyOf pa then none else some k

/-- R345: what a sector written under one key reads as under another: what the one encrypted, the other decrypts. The data unit is the
128-byte line, its tweak PA[51:7]. -/
def recipher (new old : BitVec 512) (pa : Nat) (m : List Host.Cell) : List Host.Cell :=
  (List.range 4).foldl (fun a i =>
    let b := pa / 64 * 64 + 16 * i
    let unit := pa % 2 ^ 52 / 128
    let j := b % 128 / 16
    memWrite a b 16 (xtsBlock true new unit j (xtsBlock false old unit j (memRead m b 16)))) m

/-- R310: the sector of an address is poisoned. -/
def State.badAt (s : State) (pa : Nat) : Bool := s.memPoison.get 0 (pa / 64) != 0

/-- R310: the sector of an address takes or loses its mark. -/
def State.setBad (s : State) (pa : Nat) (b : Bool) : State :=
  { s with memPoison := s.memPoison.put 0 (pa / 64) (if b then BitVec.allOnes 64 else 0) }

/-- n bytes of memory, inside one sector, as their partition reads them. -/
def State.homeValue (s : State) (pa n : Nat) : Nat :=
  match s.foreign pa with
  | none => memRead s.mem pa n
  | some k => memRead (recipher (s.keyOf pa) k pa s.mem) pa n

/-- R345: before bytes of a sector are written, the sector stands under its partition's key. -/
def State.rekey (s : State) (pa : Nat) : State :=
  let s1 := match s.foreign pa with
    | none => s
    | some k => { s with mem := recipher (s.keyOf pa) k pa s.mem }
  { s1 with memKey := s1.memKey.put 0 (pa / 64) (s1.keyOf pa) }

/-! ### L2 slices (R189) and the directories over them (R365) -/

/-- R189: the home slice of a line among a partition's slices. -/
def Part.homeSlice (p : Part) (line : Nat) : Nat := p.base + Config.sliceHash line % 2 ^ p.logk

/-- The key of a sector in a slice: HBM belongs to one partition; a host line may be held for several. -/
def sliceKey (part pa : Nat) : Nat := (if regionOf pa = .hbm then 0 else 2 ^ 46 * part) + pa / 64

/-- The partition whose slices hold an address for an access of a partition. -/
def State.homeOwner (s : State) (part pa : Nat) : Option (Nat × Part) :=
  if regionOf pa = .hbm then s.ownerOf pa else (s.parts.find? part).map fun p => (part, p)

/-- The tag of a context's accesses: its process identifier in bits 19 to 0 (R178), its number above. -/
def State.tagOf (s : State) (part ctx : Nat) : Nat := (s.ctx part ctx).info.pid % 2 ^ 20 + 2 ^ 20 * ctx

/-- An access to host memory leaves the package, as the host address with the context's process identifier (R366). -/
def State.hostLog (s : State) (pa n : Nat) (write : Bool) (v : W64) (tag : Nat) : State :=
  if regionOf pa = .host then { s with devLog := s.devLog ++ [⟨pa - 2 ^ 48, n, write, v, some (tag % 2 ^ 20), false⟩] } else s

/-- R189: a dirty sector of a slice is written to its memory, and stays clean. -/
def State.sliceClean (s : State) (key : Nat) : State :=
  match s.l2.find? key with
  | some x =>
    if x.dirty then ({ s with l2 := s.l2.insert key { x with dirty := false } }).hostLog (key % 2 ^ 46 * 64) 64 true 0 x.tag
    else s
  | none => s

/-- R189, R365: a line, by its sectors' key over 2, leaves its slice: dirty sectors are written to their memory, and the
directory forgets the line. -/
def State.sliceEvict (s : State) (k : Nat) : State :=
  let s1 := (s.sliceClean (2 * k)).sliceClean (2 * k + 1)
  { s1 with l2 := (s1.l2.erase (2 * k)).erase (2 * k + 1), dirs := s1.dirs.erase (k % 2 ^ 45) }

/-- R189: room for one more sector in a slice of 3 MiB, which a slice that is full makes by a free choice. -/
def State.sliceRoom (s : State) (slice : Nat) : State :=
  if s.l2.length < 24576 then s
  else
    let here := ((s.l2.filter fun e => e.2.slice == slice).map fun e => e.1 / 2).dedup
    if here.length < 24576 then s else (s.pick here).2.sliceEvict (s.pick here).1

/-- R189, R365: an access at the home slice of a SHARED, PRIVATE or STREAM sector: the slice holds it, from its memory
where it did not, and the home controller of another base die notes the holder. -/
def State.sliceTouch (s : State) (part pa : Nat) (write : Bool) (tag : Nat) : State :=
  match s.homeOwner part pa with
  | none => s
  | some (k, p) =>
    let key := sliceKey k pa
    match s.l2.find? key with
    | some x =>
      { s with l2 := if write && !x.dirty then s.l2.insert key { x with dirty := true } else s.l2
               dirs := if write then s.dirs.modify (pa / 128) fun d => { d with dirty := true } else s.dirs }
    | none =>
      let slice := p.homeSlice (pa / 128)
      let s1 := (s.sliceRoom slice).hostLog (pa / 64 * 64) 64 false 0 tag
      { s1 with
        l2 := s1.l2.insert key { slice := slice, dirty := write, tag := tag }
        dirs := if regionOf pa = .hbm ∧ slice / 64 ≠ pa / 2 ^ 38 then
          s1.dirs.insert (pa / 128) { slice := slice, dirty := write || ((s1.dirs.find? (pa / 128)).map (·.dirty)).getD false }
          else s1.dirs
        hostHeld := s1.hostHeld.erase (pa / 128) }

/-- The host may hold a line of HBM (R365). -/
def State.hostMay (s : State) (line : Nat) : Bool := (s.hostHeld.find? line).isSome

/-- R367: the home controller's snoops go out for the lines that a slice would fill while the host may hold them; what fills them
waits for the answers. -/
def State.snoopHost (s : State) (lines : List Nat) : Option State :=
  if s.hostHeld = [] then none
  else
    match lines.filter s.hostMay with
    | [] => none
    | bad => some { s with biWait := (s.biWait ++ bad).dedup }

/-- R367: what lies between two states has filled lines that the host may hold: it waits for their snoops instead. -/
def State.filledHeld (s t : State) : Option State :=
  match (s.hostHeld.filter fun e => !t.hostMay e.1).map (·.1) with
  | [] => none
  | bad => some { s with biWait := (s.biWait ++ bad).dedup }

/-- R367: an event goes from one state to another, or waits for the host. -/
def State.unlessFills (s t : State) : State := (s.filledHeld t).getD t

/-- The partition's memory of a physical address (R342): its HBM channels, the host, the peers and the device. -/
def State.owns (s : State) (part pa : Nat) : Bool :=
  match regionOf pa with
  | .hbm =>
    match s.parts.find? part with
    | some p => p.chans.contains (pa / 2 ^ 31)
    | none => true
  | _ => true

/-- Count a dropped packet for the root monitor (R342). -/
def State.countDrop (s : State) : State := { s with root := { s.root with drops := s.root.drops + 1 } }

/-- The key of an L1 sector. -/
def l1Key (cpt pa : Nat) : Nat := 2 ^ 46 * cpt + pa / 64

/-- LEASE in nanoseconds (R208). -/
def State.leaseNs (s : State) (part : Nat) : Nat :=
  match s.parts.find? part with
  | some p => 1000 * p.lease
  | none => 32000

/-- The partition that a coherence point serves: of a cluster, the partition whose block holds it. -/
def State.partOfCluster (s : State) (c : Nat) : Nat :=
  ((s.parts.filter fun e => decide (e.2.base ≤ c ∧ c < e.2.base + 2 ^ e.2.logk)).head?.map (·.1)).getD 0

/-- The partition of a coherence point: a cluster, or a service core from 256. -/
def State.partOfCpt (s : State) (cpt : Nat) : Nat := if cpt < 256 then s.partOfCluster cpt else cpt - 256

/-- The lease of a SHARED sector has passed (R201). -/
def State.lapsed (s : State) (cpt : Nat) (x : Sector) : Bool :=
  x.ty == .shared && decide (x.stamp + s.leaseNs (s.partOfCpt cpt) ≤ s.time)

/-- A sector of a coherence point that counts as present (R201): of one whose lease has passed, the bytes written since. -/
def State.sector? (s : State) (cpt pa : Nat) : Option Sector :=
  match s.l1.find? (l1Key cpt pa) with
  | some x => if s.lapsed cpt x then (if x.dirty = 0 then none else some { x with valid := x.dirty }) else some x
  | none => none

/-- Bytes i to i + n − 1 as a mask of 64. -/
def byteMask (i n : Nat) : BitVec 64 := BitVec.ofNat 64 ((2 ^ n - 1) * 2 ^ i)

/-- A mask of 64 bytes as a mask of 512 bits. -/
def spread (m : BitVec 64) : BitVec 512 :=
  (List.range 64).foldl (fun acc i => if m.getLsbD i then acc ||| BitVec.ofNat 512 (255 * 2 ^ (8 * i)) else acc) 0

/-- Take the bytes of a mask from the first value, the others from the second. -/
def mergeBytes (m : BitVec 64) (x y : BitVec 512) : BitVec 512 := (x &&& spread m) ||| (y &&& ~~~spread m)

/-- The signature of a line (R204). L is PA[51:7]. -/
def rot9 (x : BitVec 9) (n : Nat) : BitVec 9 := x.rotateLeft n

/-- Chunk i of a line number (R204). -/
def chunk (line i : Nat) : BitVec 9 := BitVec.ofNat 9 (line / 2 ^ (9 * i))

/-- R204. -/
def sigH1 (line : Nat) : Nat :=
  (chunk line 0 ^^^ chunk line 1 ^^^ chunk line 2 ^^^ chunk line 3 ^^^ chunk line 4).toNat

/-- R204. -/
def sigH2 (line : Nat) : Nat :=
  (chunk line 0 ^^^ rot9 (chunk line 1) 2 ^^^ rot9 (chunk line 2) 4 ^^^ rot9 (chunk line 3) 6
    ^^^ rot9 (chunk line 4) 8).toNat

/-- `Bits(L)` (R204). -/
def sigBits (line : Nat) : Sig := BitVec.ofNat 512 (2 ^ sigH1 line) ||| BitVec.ofNat 512 (2 ^ sigH2 line)

/-- `Matches(line, S)` (R204). -/
def sigMatches (line : Nat) (g : Sig) : Bool := g.getLsbD (sigH1 line) && g.getLsbD (sigH2 line)

/-- The all-ones signature. -/
def Sig.ones : Sig := BitVec.allOnes 512

/-- The accumulator of a coherence point; one that is not listed is clear and up to date (R206). -/
def State.acc (s : State) (cpt : Nat) : Acc :=
  (s.accs.find? cpt).getD { epoch := s.time / s.leaseNs (s.partOfCpt cpt) }

/-- Change the accumulator of a coherence point. -/
def State.setAcc (s : State) (cpt : Nat) (a : Acc) : State :=
  { s with accs := if a = { epoch := a.epoch } then s.accs.erase cpt else s.accs.insert cpt a }

/-- R205: a signature joins `Sig(line)`. -/
def State.joinSig (s : State) (line : Nat) (g : Sig) : State :=
  { s with sigs := s.sigs.put 0 line (s.sigs.get 0 line ||| g) }

/-- R205: `Sig(line)` as a read finds it; nothing is dropped (assumption 11). -/
def State.sigOf (s : State) (line : Nat) : Sig := s.sigs.get 0 line

/-! ### Request identifiers (R364) -/

/-- The base die of a requester: a cluster, or the service core of a partition (256 + partition). -/
def requesterDie (port : Nat) : Nat := if port < 256 then port / 64 else if port < 512 then (port - 256) / 12 % 4 else 0

/-- R364: the first request number from one on that no outstanding request has. -/
def freeNo (taken : Nat → Bool) (n : Nat) : Nat → Nat
  | 0 => n % 65536
  | k + 1 => if taken (n % 65536) then freeNo taken (n + 1) k else n % 65536

/-- R364: the number that a requester gives next. -/
def State.reqNo (s : State) (port : Nat) : Nat :=
  freeNo (fun n => (s.outs.find? (2 ^ 16 * port + n)).isSome) (s.reqNos.get 0 port) 1024

/-- R364: a request of a requester has been performed at a base die: another die than its own keeps its identifier and its
reply, the last 512 of them. -/
def State.identify (s : State) (port far : Nat) (reply : W64) (bad : Bool := false) : State :=
  let key := 2 ^ 20 * far + port
  { s with
    reqNos := s.reqNos.put 0 port (s.reqNo port + 1)
    windows := if far = requesterDie port then s.windows
      else s.windows.insert key (((s.reqNo port, reply, bad) :: (s.windows.find? key).getD []).take 512) }

/-- The base die of a line's home slice, for an access of a partition (R189): a block of at most 64 clusters lies on one (R342). -/
def State.homeDie (s : State) (part pa : Nat) : Option Nat :=
  (s.homeOwner part pa).map fun e => if e.2.logk ≤ 6 then e.2.base / 64 else e.2.homeSlice (pa / 128) / 64

/-- R370: port, partition and offset of a peer address. -/
def peerPort (pa : Nat) : Nat := pa / 2 ^ 47 % 16
def peerPart (pa : Nat) : Nat := pa / 2 ^ 41 % 64
def peerOffset (pa : Nat) : Nat := pa % 2 ^ 41

/-- The access is performed at its target and at no slice (R174, R177). -/
def Phys.direct (p : Phys) : Bool :=
  regionOf p.pa == .device || regionOf p.pa == .peer || (regionOf p.pa == .host && (p.ty == .strict || p.ty == .peer))

/-- R364, R369: the far end of an access: the base die of the home slice, the host, the device registers, or a peer. -/
def State.targetOf (s : State) (part : Nat) (p : Phys) : Option Nat :=
  if p.direct then some (match regionOf p.pa with
    | .peer => 16 + peerPort p.pa
    | .device => 5
    | _ => 4)
  else s.homeDie part p.pa

/-- R364: a request of a point, for a partition, has been performed at the target of an access, and its reply has come. -/
def State.requestOf (s : State) (part cpt : Nat) (p : Phys) (reply : W64) (bad : Bool := false) : State :=
  match s.targetOf part p with
  | some far => s.identify cpt far reply bad
  | none => s

/-- The same for the partition that the point serves. -/
def State.requestTo (s : State) (cpt : Nat) (p : Phys) (reply : W64) (bad : Bool := false) : State :=
  s.requestOf (s.partOfCpt cpt) cpt p reply bad

/-- The thread to which a posted request is counted: all gangs of a group together. -/
def ownThread : ThreadId → ThreadId
  | .gang g _ => .gang g 0
  | t => t

/-- R364: a request whose sender needs nothing of its reply has been performed; its identifier stays outstanding until the
acknowledgement has come, unless it went to the requester's own die. -/
def State.post (s : State) (by_ : Poster) (cpt far : Nat) (op : FarOp) (reply : W64) (bad : Bool := false) : State :=
  { s.identify cpt far reply bad with
    outs := if far = requesterDie cpt then s.outs
      else s.outs.insert (2 ^ 16 * cpt + s.reqNo cpt) { far := far, op := op, sentAt := s.time, poster := some by_ } }

/-- R364: the requests of a requester outstanding to a far end: those that have been performed, and the exchange packets and
arrivals on their way. -/
def State.outstanding (s : State) (port far : Nat) : Nat :=
  (s.outs.filter fun e => e.1 / 2 ^ 16 == port && e.2.far == far).length +
    (s.xpkts.filter fun p => p.src == port && p.dst / 64 == far).length

/-- R364: n further requests to a far end would pass the 256 that a requester may have outstanding to it. -/
def State.crowdedBy (s : State) (port : Nat) (far : Option Nat) (n : Nat) : Bool :=
  match far with
  | some f => decide (256 < s.outstanding port f + n) && f != requesterDie port
  | none => false

/-- The posted request of a requester to a far end that has been outstanding longest. -/
def State.oldestOut (s : State) (port far : Nat) : Option Nat :=
  ((s.outs.filter fun e => e.1 / 2 ^ 16 == port && e.2.far == far && e.2.poster.isSome).foldl
    (fun (best : Option (Nat × Nat)) e => match best with
      | none => some (e.2.sentAt, e.1)
      | some b => if e.2.sentAt < b.1 then some (e.2.sentAt, e.1) else some b) none).map (·.2)

/-- R364: a write that no word waits for is posted; where 256 are outstanding already, the oldest acknowledgement comes first
(assumption 37). -/
def State.postLate (s : State) (by_ : Poster) (cpt far : Nat) (op : FarOp) : State :=
  let s1 := if s.crowdedBy cpt (some far) 1 then
      match s.oldestOut cpt far with
      | some k => { s with outs := s.outs.erase k }
      | none => s
    else s
  s1.post by_ cpt far op 0

/-- R364: a request that a line's home slice has performed, and whose reply has come. -/
def State.requestAt (s : State) (cpt line : Nat) (reply : W64) (bad : Bool := false) : State :=
  match s.homeDie (s.partOfCpt cpt) (128 * line) with
  | some far => s.identify cpt far reply bad
  | none => s

/-- R364: a write that a line's home slice has performed: it is outstanding until it is acknowledged. -/
def State.postAt (s : State) (by_ : Poster) (cpt line : Nat) (op : FarOp) : State :=
  match s.homeDie (s.partOfCpt cpt) (128 * line) with
  | some far => s.postLate by_ cpt far op
  | none => s

/-- R202: a write-back of a point has not been acknowledged. -/
def State.unacked (s : State) (cpt : Nat) : Bool := s.outs.any fun e => e.1 / 2 ^ 16 == cpt && e.2.poster == some .writeBack

/-- The link is a package-link port. -/
def isPort (link : Nat) : Bool := decide (64 ≤ link)

/-- One end of a link; a link in its first state when it is not listed. -/
def State.link (s : State) (l : Nat) : Link :=
  (s.links.find? l).getD { port := isPort l, width := if isPort l then 8 else 64 }

/-- The modules of a pair of base dies. -/
def modulesOf (pair : Nat) : List Nat := (List.range 8).map (8 * pair + ·)

/-- The links that the replies of a far end cross to a requester: those between the base dies at which they stand, or its port;
CXL and the device registers have none (assumption 67). -/
def linksTo (port far : Nat) : List Nat :=
  if 16 ≤ far then [48 + far]
  else if 4 ≤ far then []
  else
    let at_ := fun (d : Nat) (e : Nat × Nat × Nat) => e.2.1 == d || e.2.2 == d
    let pairs := [(0, 0, 1), (1, 0, 2), (2, 1, 3), (3, 2, 3)].filter (at_ far)
    let near := pairs.filter (at_ (requesterDie port))
    (if near.isEmpty then pairs else near).flatMap fun e => modulesOf e.1

/-- R373: a link that the replies of a far end cross is sending flits again: none of them arrives. -/
def State.replaying (s : State) (port far : Nat) : Bool :=
  (linksTo port far).any fun l => (s.link l).replay.any fun f => decide (0 < f.resent)

/-- R200, R205: a line that a point has written at its slice is covered by the point's later releases (assumption 66). -/
def State.noteWritten (s : State) (cpt line : Nat) : State :=
  if cpt < 512 then s.setAcc cpt { s.acc cpt with wrote := (s.acc cpt).wrote ||| sigBits line } else s

/-- R204: a write of a cluster performed at a slice carries the cluster's pending signature. -/
def State.signWrite (s : State) (cpt line : Nat) : State :=
  (match (s.acc cpt).pending with
    | some g => s.joinSig line g
    | none => s).noteWritten cpt line

/-- The same for a write of the copy engine, which has a request identifier of its own (R364). -/
def State.carryPending (s : State) (cpt line : Nat) : State := (s.requestAt cpt line 0).signWrite cpt line

/-- A write-back, or a line of the STREAM buffer, has been performed at its slice: it carries the pending signature (R204), and its
request is outstanding (R364). -/
def State.wroteLine (s : State) (cpt base : Nat) (l : WcLine) : State :=
  (s.postAt .writeBack cpt (base / 128) (.line base l)).signWrite cpt (base / 128)

/-- The lines among those of n bytes that hold the counter of a gated grid. -/
def State.gateLines (s : State) (pa n : Nat) : List Nat :=
  s.grids.filterMap fun e =>
    match e.2.gate with
    | some (a, _) =>
      if e.2.phase = .gated ∧ pa / 128 ≤ a / 128 ∧ a / 128 ≤ (pa + n - 1) / 128 then some (a / 128) else none
    | none => none

/-- R157: a write of n bytes is noted for the gates on every line that it meets. -/
def State.noteWrite (s : State) (pa n : Nat) : State :=
  { s with gateDue := (s.gateLines pa n).foldl (fun m l => if (m.find? l).isSome then m else m.insert l s.time) s.gateDue }

/-- The addresses of the sectors that n bytes meet. -/
def sectorsFrom (pa n : Nat) : List Nat := (List.range ((pa + n - 1) / 64 - pa / 64 + 1)).map fun i => (pa / 64 + i) * 64

/-- The bytes of a sector among n bytes. -/
def sectorPart (pa n base : Nat) : BitVec 64 := byteMask (max pa base - base) (min (pa + n) (base + 64) - max pa base)

/-- R310: bytes of a sector are written: when all 64 have been, its mark is gone. -/
def wipeBad (m : Tbl (BitVec 64)) (base : Nat) (mask : BitVec 64) : Tbl (BitVec 64) :=
  m.put 0 (base / 64) (m.get 0 (base / 64) &&& ~~~mask)

/-- Write n bytes to memory, each sector under its partition's key (R345). -/
def State.memStore (s : State) (pa n v : Nat) : State :=
  let s1 := (sectorsFrom pa n).foldl State.rekey s
  { s1 with
    mem := memWrite s1.mem pa n v
    memPoison := (sectorsFrom pa n).foldl (fun m b => wipeBad m b (sectorPart pa n b)) s1.memPoison }

/-- Write n bytes at the home slice (R189): the location order of R198 gains this write. `part` is the accessing
partition. -/
def State.homeWrite (s : State) (pa n v : Nat) (part : Nat := 0) (tag : Nat := 0) : State :=
  ((sectorsFrom pa n).foldl (fun t b => t.sliceTouch part b true tag) (s.memStore pa n v)).noteWrite pa n

/-- Read n bytes at the home slice, with the mark of R310. -/
def State.homeRead (s : State) (pa n : Nat) : Nat × Bool :=
  (s.homeValue pa n, s.badAt pa)

/-- R342: a read of the device's own; outside the partition it comes poisoned. -/
def State.ownRead (s : State) (part pa n : Nat) : Nat × Bool := if s.owns part pa then s.homeRead pa n else (0, true)

/-- Write the bytes of a mask of a sector at the home slice. -/
def State.homeMask (s : State) (base : Nat) (mask : BitVec 64) (data : BitVec 512) (part : Nat := 0) (tag : Nat := 0) : State :=
  let s1 := s.rekey base
  let m := (List.range 64).foldl
    (fun m i => if mask.getLsbD i then memWrite m (base + i) 1 (data.toNat / 2 ^ (8 * i) % 256) else m) s1.mem
  (({ s1 with mem := m, memPoison := wipeBad s1.memPoison base mask }).sliceTouch part base true tag).noteWrite base 64

/-- R342: a write-back outside the partition is dropped, counted, and held against its cluster. -/
def State.dropWriteBack (s : State) (cpt : Nat) (va : W64) : State :=
  let s1 := s.countDrop
  s1.setAcc cpt { s1.acc cpt with dropped := (s1.acc cpt).dropped.orElse fun _ => some va }

/-- R371: a peer access is performed when its port is up and the peer's entry covers the offset and permits the kind: 0 a
load, 1 a store (PERM bit 0), 2 an atomic (bit 1 alone). -/
def State.peerAdmits (s : State) (pa n kind : Nat) : Bool :=
  let port := peerPort pa
  decide (port < 12) && s.root.plUp.getLsbD port && decide (peerPart pa < 48) &&
    (match s.root.peerExp.find? (64 * port + peerPart pa) with
      | some (len, perm) =>
        decide (peerOffset pa + n ≤ len * 2 ^ 21) &&
          (if kind = 0 then true else if kind = 1 then perm % 2 == 1 else perm / 2 % 2 == 1)
      | none => false)

/-- Count a refusal at this end (R371). -/
def State.countRefusal (s : State) : State := { s with root := { s.root with refusals := s.root.refusals + 1 } }

/-! ### The device's own accesses (assumptions 12, 39) -/

/-- A physical place that no page table names (assumption 10). -/
def plainPhys (pa : Nat) : Phys := ⟨pa, (physType (regionOf pa)).getD .shared⟩

/-- n bytes that a device register answers with, each word of its page a free value of its own (assumption 5). -/
def State.deviceValue (s : State) (pa n : Nat) : Nat :=
  (List.range ((pa % 8 + n + 7) / 8)).foldr (fun i a => (Config.freeWord (s.fresh + (pa / 8 + i) % 512)).toNat + 2 ^ 64 * a) 0
    / 2 ^ (8 * (pa % 8)) % 2 ^ (8 * n)

/-- What n bytes read as, inside one sector, at the target of an access of a partition (R174, R177, R189), and whether they come
poisoned (R310, R342, R371). -/
def State.siteValue (s : State) (part : Nat) (p : Phys) (n : Nat) : Nat × Bool :=
  if s.owns part p.pa = false then (0, true)
  else
    match regionOf p.pa with
    | .peer => if s.peerAdmits p.pa n 0 then (memRead s.peerMem p.pa n, false) else (0, true)
    | .device => (s.deviceValue p.pa n, false)
    | _ => s.homeRead p.pa n

/-- n bytes at a physical address that no page table names, inside one sector; DESIGN CHOICE (assumption 68): those that come
poisoned read 0. -/
def State.siteEntry (s : State) (part pa n : Nat) : Nat :=
  let r := s.siteValue part (plainPhys pa) n
  if r.2 then 0 else r.1

/-- The bytes of n sectors, from the first on. -/
def State.siteSpan (s : State) (part pa : Nat) : Nat → Nat
  | 0 => 0
  | n + 1 => s.siteEntry part pa 64 + 2 ^ 512 * s.siteSpan part (pa + 64) n

/-- What a read of n bytes does at the target besides: the slice holds the line (R189), or the request travels to the host, a device
register or a peer (R366, R369); a foreign one is dropped (R342), a refused one counted (R371). -/
def State.siteTouch (s : State) (part cpt : Nat) (p : Phys) (n tag : Nat) : State :=
  if s.owns part p.pa = false then s.countDrop
  else
    let v := BitVec.ofNat 64 (s.siteValue part p n).1
    match regionOf p.pa with
    | .peer => if s.peerAdmits p.pa n 0 then s.requestOf part cpt p v else s.countRefusal
    | .device =>
      ({ s with fresh := s.fresh + 512, devLog := s.devLog ++ [⟨p.pa, n, false, v, none, false⟩] } : State).requestOf part cpt p v
    | _ =>
      if p.direct then (s.hostLog p.pa n false v tag).requestOf part cpt p v
      else (sectorsFrom p.pa n).foldl (fun t b => t.sliceTouch part b false tag) s

/-- A write of the device's own: at the home slice, where the page's type has one, else at the host, a device register or a
peer. -/
def State.siteWrite (s : State) (part cpt : Nat) (p : Phys) (n v tag : Nat) : State :=
  if s.owns part p.pa = false then s.countDrop
  else
    match regionOf p.pa with
    | .peer =>
      if s.peerAdmits p.pa n 1 then ({ s with peerMem := memWrite s.peerMem p.pa n v } : State).requestOf part cpt p 0 else s.countRefusal
    | .device => ({ s with devLog := s.devLog ++ [⟨p.pa, n, true, BitVec.ofNat 64 v, none, false⟩] } : State).requestOf part cpt p 0
    | _ =>
      if p.direct then ((s.hostLog p.pa n true (BitVec.ofNat 64 v) tag).memStore p.pa n v).requestOf part cpt p 0
      else (s.homeWrite p.pa n v part tag).requestOf part cpt p 0

/-! ### Held translations (R181) -/

/-- A translation of an address that a place holds. -/
def State.heldAt (s : State) (place part asid va : Nat) : Option TlbEnt :=
  [4, 5, 3, 2].findSome? fun l => s.tlb.find? (tlbKey place part asid l va)

/-- R181: a place takes a translation; one that is full gives up another, a free choice. -/
def State.hold (s : State) (place part asid va : Nat) (e : TlbEnt) : State :=
  let here := (s.tlb.filter fun x => x.1 / 2 ^ 72 == place).map (·.1)
  let s1 := if here.length < tlbSize place then s
    else { (s.pick here).2 with tlb := s.tlb.erase (s.pick here).1 }
  { s1 with tlb := s1.tlb.insert (tlbKey place part asid e.level va) e }

/-- R181: the nearest held translation, which the nearer places take. -/
def State.heldLeaf (s : State) (part asid va : Nat) : List Nat → State × Option TlbEnt
  | [] => (s, none)
  | p :: ps =>
    match s.heldAt p part asid va with
    | some e => (s, some e)
    | none =>
      match s.heldLeaf part asid va ps with
      | (s1, some e) => (s1.hold p part asid va e, some e)
      | (s1, none) => (s1, none)

/-- An entry as a walk of a partition reads it at its home slice: one that comes poisoned (R310), as one outside the partition does
(R342), is not valid (assumption 68). DESIGN CHOICE (assumption 44): in the device-register or peer region, which no slice caches,
it is read at its target. -/
def State.entryRead (s : State) (part a : Nat) : Nat := s.siteEntry part a 8

/-- What the read of an entry does besides, for a core of a partition. -/
def State.entryTouch (s : State) (part cpt tag a : Nat) : State := s.siteTouch part cpt (plainPhys a) 8 tag

/-- R181: what a walk of a block with C set delivers: its own outcome, or the translation by any leaf with C set, a free
choice. -/
def State.chooseLeaf (s : State) (part : Nat) (w : Walked) : State × Except Nat (W64 × Nat) :=
  match w.level, w.reads with
  | 4, ea :: _ =>
    match contiguous (s.entryRead part) ea with
    | [] => (s, w.out)
    | cs =>
      match cs[s.draw.1.toNat % (cs.length + 1)]? with
      | some (i, e) => (s.draw.2, .ok (blockLeaf i e, 5))
      | none => (s.draw.2, w.out)
  | _, _ => (s, w.out)

/-- R178, R181: a walk: each entry is read at its home slice, and the translation is held from then on. -/
def State.walkTo (s : State) (part asid root va core : Nat) (tag : Nat := 0) : State × Except Nat TlbEnt :=
  let w := walk (s.entryRead (realPart part)) va [] [1, 2, 3, 4] root
  let s1 := w.reads.foldr (fun a t => t.entryTouch (realPart part) (corePoint core) tag a) s
  match s1.chooseLeaf (realPart part) w with
  | (s2, .error c) => (s2, .error c)
  | (s2, .ok (e, l)) => ((tlbPlaces core).foldr (fun p t => t.hold p part asid va ⟨e, l⟩) s2, .ok ⟨e, l⟩)

/-- The lines that the walk for an address reads; none where a translation is held. -/
def State.walkLines (s : State) (sp : Space) (va : Nat) : List Nat :=
  match sp with
  | .physical => []
  | .ctx part c core =>
    let info := (s.ctx part c).info
    if (s.heldLeaf part info.asid va (tlbPlaces core)).2.isSome then []
    else (walk (s.entryRead (realPart part)) va [] [1, 2, 3, 4] info.root).reads.map (· / 128)

/-- R180: translation, holding the leaf afterwards (R181). -/
def State.translate (s : State) (sp : Space) (va : Nat) (k : AccKind) (user : Bool) : State × Except Nat Phys :=
  match sp with
  | .physical =>
    (s, match physType (regionOf va) with
      | some ty => if ty.admits k then .ok ⟨va, ty⟩ else .error 4
      | none => .error 3)
  | .ctx part c core =>
    let info := (s.ctx part c).info
    match s.heldLeaf part info.asid va (tlbPlaces core) with
    | (s1, some t) => (s1, leafCheck t.pte t.level va k user)
    | (s1, none) =>
      match s1.walkTo part info.asid info.root va core (s.tagOf part c) with
      | (s2, .error c) => (s2, .error c)
      | (s2, .ok t) => (s2, leafCheck t.pte t.level va k user)

/-- The dirty bytes of a sector as bytes of its line. -/
def Sector.line (x : Sector) (base now : Nat) : WcLine :=
  let h := base / 64 % 2
  { data := BitVec.ofNat 1024 (x.data.toNat * 2 ^ (512 * h)), mask := BitVec.ofNat 128 (x.dirty.toNat * 2 ^ (64 * h))
    since := now, va := x.va, tag := x.tag }

/-- Write back a dirty sector by its key and keep it clean (R201). A sector outside the partition is dropped and held
against its cluster (R342). -/
def State.writeBack (s : State) (cpt pa : Nat) : State :=
  match s.l1.find? (l1Key cpt pa) with
  | none => s
  | some x =>
    if x.dirty = 0 then s
    else
      let base := pa / 64 * 64
      let s1 := { s with l1 := s.l1.insert (l1Key cpt pa) { x with dirty := 0 } }
      if s.owns (s.partOfCpt cpt) base then
        (s1.homeMask base x.dirty x.data (s.partOfCpt cpt) x.tag).wroteLine cpt (base / 128 * 128) (x.line base s.time)
      else s1.dropWriteBack cpt x.va

/-- The sectors of a coherence point: key and content. -/
def State.sectorsOf (s : State) (cpt : Nat) : List (Nat × Sector) :=
  s.l1.filter fun e => e.1 / 2 ^ 46 == cpt

/-- The physical address of a sector by its key. -/
def sectorAddr (key : Nat) : Nat := key % 2 ^ 46 * 64

/-- A sector leaves the L1, dirty bytes and all. -/
def State.dropSector (s : State) (cpt pa : Nat) : State := { s with l1 := s.l1.erase (l1Key cpt pa) }

/-- Write back, then invalidate, one sector. -/
def State.evictSector (s : State) (cpt pa : Nat) : State := (s.writeBack cpt pa).dropSector cpt pa

/-- Write back every sector that passes a test, in key order. -/
def State.writeBackAll (s : State) (cpt : Nat) (p : Sector → Bool) : State :=
  (s.sectorsOf cpt).foldl (fun t e => if p e.2 then t.writeBack cpt (sectorAddr e.1) else t) s

/-- Write back and invalidate every sector that passes a test of its address and content. -/
def State.evictAll (s : State) (cpt : Nat) (p : Nat → Sector → Bool) : State :=
  (s.sectorsOf cpt).foldl (fun t e => if p (sectorAddr e.1) e.2 then t.evictSector cpt (sectorAddr e.1) else t) s

/-- The key of a STREAM buffer line. -/
def wcKey (cluster pa : Nat) : Nat := 2 ^ 45 * cluster + pa / 128

/-- The sectors of a buffered line that were written go to their slice; bytes that a poisoned source gave mark theirs
(R242, R310). -/
def State.homeHalves (s : State) (base : Nat) (l : WcLine) (part : Nat) : State :=
  [0, 1].foldl (fun t h =>
    let m := l.mask.extractLsb' (64 * h) 64
    if m = 0 then t
    else
      let u := t.homeMask (base + 64 * h) m (l.data.extractLsb' (512 * h) 512) part l.tag
      if (l.bad &&& l.mask).extractLsb' (64 * h) 64 = 0 then u
      else u.setBad (base + 64 * h) true) s

/-- R176: a buffered line is written to its slice. -/
def State.flushLine (s : State) (cpt key : Nat) : State :=
  match s.wc.find? key with
  | none => s
  | some l =>
    let base := key % 2 ^ 45 * 128
    let s1 := { s with wc := s.wc.erase key }
    if s.owns (s.partOfCpt cpt) base then
      (s1.homeHalves base l (s.partOfCpt cpt)).wroteLine cpt base l
    else s1.dropWriteBack cpt l.va

/-- R176: every buffered line of a cluster is written to its slice. -/
def State.flushStream (s : State) (cpt : Nat) : State :=
  (s.wc.filter fun e => e.1 / 2 ^ 45 == cpt).foldl (fun t e => t.flushLine cpt e.1) s

/-- The oldest line of a cluster's buffer. -/
def oldestLine (l : List (Nat × WcLine)) : Option Nat :=
  (l.foldl (fun best e => match best with
    | none => some e
    | some b => if e.2.since < b.2.since then some e else some b) none).map (·.1)

/-- R176: bytes stored into the write-combining buffer; a complete line goes. DESIGN CHOICE (assumption 65): a seventeenth line
pushes out the line whose first store is the oldest, of equal ones that of the lowest address. -/
def State.streamStore (s : State) (cpt pa n v : Nat) (va : W64) (tag : Nat := 0) (bad : Bool := false) : State :=
  let key := wcKey cpt pa
  let held := s.wc.filter fun e => e.1 / 2 ^ 45 == cpt
  let s1 := if (s.wc.find? key).isNone && decide (16 ≤ held.length) then
      match oldestLine held with
      | some k => s.flushLine cpt k
      | none => s
    else s
  let l := (s1.wc.find? key).getD { since := s.time, va := va, tag := tag }
  let i := pa % 128
  let bitsM := BitVec.ofNat 1024 ((2 ^ (8 * n) - 1) * 2 ^ (8 * i))
  let data := (l.data &&& ~~~bitsM) ||| BitVec.ofNat 1024 (v % 2 ^ (8 * n) * 2 ^ (8 * i))
  let mask := l.mask ||| BitVec.ofNat 128 ((2 ^ n - 1) * 2 ^ i)
  let bytes := BitVec.ofNat 128 ((2 ^ n - 1) * 2 ^ i)
  let s2 := { s1 with wc := s1.wc.insert key { l with
    data := data, mask := mask, bad := if bad then l.bad ||| bytes else l.bad &&& ~~~bytes } }
  if mask = BitVec.allOnes 128 then s2.flushLine cpt key else s2

/-- R184: the set of a line in its bank (not architectural: assumption 44). -/
def lineSet (line : Nat) : Nat := Config.lineHash line % 768

/-- R184: a line that the L1 does not hold finds a way of its set; a full set gives up another line, a free choice. A
service core's data cache holds 2,048 lines (R17). -/
def State.makeRoom (s : State) (cpt pa : Nat) : State :=
  let line := pa / 128
  let lines := ((s.sectorsOf cpt).map fun e => sectorAddr e.1 / 128).dedup
  let near := if cpt < 256 then lines.filter fun l => l % 4 == line % 4 else lines
  if near.contains line || near.length < 16 then s
  else
    let set := if cpt < 256 then near.filter fun l => lineSet l == lineSet line else near
    if set.length < (if cpt < 256 then 16 else 2048) then s
    else
      let c := s.pick set
      (c.2.evictSector cpt (128 * c.1)).evictSector cpt (128 * c.1 + 64)

/-- Fill a sector from its home slice, keeping its dirty bytes (R184), and stamp it (R201). -/
def State.fillSector (s : State) (cpt : Nat) (ty : MemTy) (pa : Nat) (tag : Nat := 0) : State × Sector :=
  let base := pa / 64 * 64
  let s0 := (s.makeRoom cpt pa).sliceTouch (s.partOfCpt cpt) base false tag
  let home := BitVec.ofNat 512 (s0.homeValue base 64)
  let x : Sector :=
    match s0.sector? cpt pa with
    | some x => { x with data := mergeBytes x.dirty x.data home, valid := BitVec.allOnes 64, stamp := s.time }
    | none => { ty := ty, data := home, valid := BitVec.allOnes 64, dirty := 0, stamp := s.time, since := 0, va := 0, tag := tag }
  ({ s0 with l1 := s0.l1.insert (l1Key cpt pa) x }, x)

/-- A load of SHARED or PRIVATE bytes through the L1 (R184, R201): the bytes and whether they come poisoned. -/
def State.cachedLoad (s : State) (cpt : Nat) (ty : MemTy) (pa n : Nat) (tag : Nat := 0) : State × Nat × Bool :=
  let m := byteMask (pa % 64) n
  let (s1, x) := match s.sector? cpt pa with
    | some x => if x.valid &&& m = m then (s, x) else s.fillSector cpt ty pa tag
    | none => s.fillSector cpt ty pa tag
  (s1, x.data.toNat / 2 ^ (8 * (pa % 64)) % 2 ^ (8 * n),
    s.badAt pa && !decide (x.dirty &&& m = m))

/-- A store of SHARED or PRIVATE bytes: the sector is allocated without a fill (R184). DESIGN CHOICE (assumption 73): it takes the time
of the store as its stamp, from which its lease runs once it is clean. -/
def State.cachedStore (s0 : State) (cpt : Nat) (ty : MemTy) (pa n v : Nat) (va : W64) (tag : Nat := 0) : State :=
  let s := s0.makeRoom cpt pa
  let i := pa % 64
  let m := byteMask i n
  let x := (s.sector? cpt pa).getD { ty := ty, data := 0, valid := 0, dirty := 0, stamp := s.time, since := s.time, va := va, tag := tag }
  let data := mergeBytes m (BitVec.ofNat 512 (v % 2 ^ (8 * n) * 2 ^ (8 * i))) x.data
  let y : Sector := { x with
    data := data
    valid := x.valid ||| m
    dirty := x.dirty ||| m
    va := va - BitVec.ofNat 64 (va.toNat % 64)
    tag := tag
    since := if x.dirty = 0 then s.time else x.since }
  { s with l1 := s.l1.insert (l1Key cpt pa) y }

end Sys2Proof.Machine
end

