-- ==== Sys2Proof/Machine/Order.lean ====
section
/-! DEFINITION. Accesses by memory type (R174 to R177), atomics at the home slice (R190, R226), and what releases and
acquires do at device and system scope (R202 to R207). -/

namespace Sys2Proof.Machine

/-- Scopes (R196), narrowest first: group 0, team 1, cluster 2, device 3, system 4. -/
abbrev ScopeNo := Nat

/-- The scope of an ORD field (R26, R222): 1 cluster, 2 device, 3 system. -/
def ordScope (ord : Nat) : ScopeNo := ord + 1

/-- How a store ended: R342 drops one outside the partition, R371 refuses one at a peer. -/
inductive StoreEnd where
  | stored
  | dropped
  | refused
  deriving DecidableEq, Repr

/-- The bytes of a load are held, valid, in the L1: it sends no packet. -/
def State.hitsL1 (s : State) (cpt : Nat) (p : Phys) (n : Nat) : Bool :=
  (p.ty == .shared || p.ty == .priv) &&
    match s.sector? cpt p.pa with
    | some x => x.valid &&& byteMask (p.pa % 64) n == byteMask (p.pa % 64) n
    | none => false

/-- A load of n bytes (R174 to R177): the bytes, and whether they come poisoned (R310, R342, R371). `tag` tags what goes to
the host (R366). An access that no slice performs has a request identifier (R364, R369). -/
def State.loadBytes (s : State) (cpt : Nat) (p : Phys) (n : Nat) (tag : Nat := 0) : State × Nat × Bool :=
  if s.owns (s.partOfCpt cpt) p.pa = false ∧ s.hitsL1 cpt p n = false then (s.countDrop, 0, true)
  else
    match regionOf p.pa with
    | .peer =>
      if s.peerAdmits p.pa n 0 then
        (s.requestTo cpt p (BitVec.ofNat 64 (memRead s.peerMem p.pa n)), memRead s.peerMem p.pa n, false)
      else (s.countRefusal, 0, true)
    | .device =>
      let (v, s1) := s.draw
      let s2 : State := { s1 with devLog := s1.devLog ++ [⟨p.pa, n, false, v, none, false⟩] }
      (s2.requestTo cpt p v, v.toNat % 2 ^ (8 * n), false)
    | _ =>
      match p.ty with
      | .shared => s.cachedLoad cpt .shared p.pa n tag
      | .priv => s.cachedLoad cpt .priv p.pa n tag
      | .stream =>
        let (v, bad) := s.homeRead p.pa n
        let s1 := s.sliceTouch (s.partOfCpt cpt) p.pa false tag
        match s.wc.find? (wcKey cpt p.pa) with
        | none => (s1, v, bad)
        | some l =>
          let i := p.pa % 128
          let m := BitVec.ofNat 128 ((2 ^ n - 1) * 2 ^ i)
          let pick := fun j => if l.mask.getLsbD (i + j) then l.data.toNat / 2 ^ (8 * (i + j)) % 256
            else v / 2 ^ (8 * j) % 256
          (s1, (List.range n).foldl (fun acc j => acc + pick j * 2 ^ (8 * j)) 0,
            (bad && !decide (l.mask &&& m = m)) || !decide (l.bad &&& l.mask &&& m = 0))
      | _ =>
        let r := s.homeRead p.pa n
        ((s.hostLog p.pa n false (BitVec.ofNat 64 r.1) tag).requestTo cpt p (BitVec.ofNat 64 r.1) r.2, r.1, r.2)

/-- A plain store of n bytes by type (R174 to R177). A SHARED or PRIVATE store outside the partition lands in the L1 all the
same, and its write-back is dropped (R184, R342). -/
def State.storeBytes (s : State) (cpt : Nat) (p : Phys) (n v : Nat) (va : W64) (tag : Nat := 0) : State × StoreEnd :=
  if s.owns (s.partOfCpt cpt) p.pa = false ∧ p.ty ≠ .shared ∧ p.ty ≠ .priv then (s.countDrop, .dropped)
  else
    match regionOf p.pa with
    | .peer =>
      if s.peerAdmits p.pa n 1 then ({ s with peerMem := memWrite s.peerMem p.pa n v }, .stored)
      else (s.countRefusal, .refused)
    | .device => ({ s with devLog := s.devLog ++ [⟨p.pa, n, true, BitVec.ofNat 64 v, none, false⟩] }, .stored)
    | _ =>
      match p.ty with
      | .shared => (s.cachedStore cpt .shared p.pa n v va tag, .stored)
      | .priv => (s.cachedStore cpt .priv p.pa n v va tag, .stored)
      | .stream => (s.streamStore cpt p.pa n v va tag, .stored)
      | _ => ((s.hostLog p.pa n true (BitVec.ofNat 64 v) tag).memStore p.pa n v, .stored)

/-- R226: the new value of an atomic on n bits, or none when nothing is written (a `cas` that fails). -/
def atomicNew (code n old b c : Nat) : Option Nat :=
  let sg := fun (x : Nat) => if x < 2 ^ (n - 1) then (x : Int) else (x : Int) - 2 ^ n
  match code with
  | 0x0 => some ((old + b) % 2 ^ n)
  | 0x1 => some (old &&& b)
  | 0x2 => some (old ||| b)
  | 0x3 => some (old ^^^ b)
  | 0x4 => some (if sg b < sg old then b else old)
  | 0x5 => some (if sg old < sg b then b else old)
  | 0x6 => some (if b < old then b else old)
  | 0x7 => some (if old < b then b else old)
  | 0x8 => some b
  | 0x9 => if old = b then some c else none
  | 0xA => some ((if n = 32 then fp32 else fp64).addF .rne false old b).1
  | 0xB => some ((old + b) % 2 ^ n)
  | 0xC => some (if b ≤ old then 0 else old + 1)
  | 0xD => some (if old = 0 ∨ b < old then b else old - 1)
  | _ => some old

/-- R190: an atomic at its home slice, after the line has left the issuing L1: the old value. `tag` tags what goes to the host
(R366). -/
def State.homeAtomic (s : State) (cpt pa n code b c : Nat) (tag : Nat := 0) : State × Nat :=
  let line := pa / 128 * 128
  let s1 := (s.evictSector cpt line).evictSector cpt (line + 64)
  let old := s1.homeValue pa n
  let s2 := match atomicNew code (8 * n) old b c with
    | some v => s1.homeWrite pa n v (s1.partOfCpt cpt) tag
    | none => s1.sliceTouch (s1.partOfCpt cpt) pa false tag
  (s2.signWrite cpt (pa / 128), old)

/-- R177: an atomic on a PEER page of host memory is performed at its target, over CXL: no slice holds the line, and the issuing L1,
which may have it by another mapping, gives it up first (R190, R210). -/
def State.hostAtomic (s0 : State) (cpt pa n code b c tag : Nat) : State × Nat :=
  let line := pa / 128 * 128
  let s := (s0.evictSector cpt line).evictSector cpt (line + 64)
  let old := s.homeValue pa n
  let s1 := s.hostLog pa n false (BitVec.ofNat 64 old) tag
  (match atomicNew code (8 * n) old b c with
    | some v => (s1.hostLog pa n true (BitVec.ofNat 64 v) tag).memStore pa n v
    | none => s1, old)

/-- An atomic by type (R174, R225): the old value, whether it comes poisoned, and how it ended. -/
def State.atomicBytes (s : State) (cpt : Nat) (p : Phys) (n code b c : Nat) (tag : Nat := 0) : State × Nat × Bool × StoreEnd :=
  if s.owns (s.partOfCpt cpt) p.pa = false then (s.countDrop, 0, true, .stored)
  else
    match regionOf p.pa with
    | .peer =>
      if s.peerAdmits p.pa n 2 then
        let old := memRead s.peerMem p.pa n
        (match atomicNew code (8 * n) old b c with
          | some v => { s with peerMem := memWrite s.peerMem p.pa n v }
          | none => s, old, false, .stored)
      else (s.countRefusal, 0, true, .refused)
    | _ =>
      let bad := s.badAt p.pa
      let (s1, old) := if p.direct then s.hostAtomic cpt p.pa n code b c tag else s.homeAtomic cpt p.pa n code b c tag
      (s1, old, bad, .stored)

/-- R202: the write-backs of a device-scope release and its signature, with the further bits that R205 allows and R200 needs: the
lines that the point has written at their slices before (assumption 66). -/
def State.releaseClean (s : State) (cpt : Nat) : State × Sig :=
  let a := s.acc cpt
  let lines := (s.sectorsOf cpt).filter fun e => e.2.ty == .shared && e.2.dirty != 0
  let g := lines.foldl (fun g e => g ||| sigBits (sectorAddr e.1 / 128)) (a.cur ||| a.prev ||| a.wrote ||| a.wrotePrev)
  ((s.writeBackAll cpt fun x => x.ty == .shared).flushStream cpt, g)

/-- R207: a system-scope release of a point has the lines of host memory that its partition's slices hold dirty written to the host;
each is outstanding until the host has acknowledged it. -/
def State.cleanHost (s : State) (cpt : Nat) : State :=
  (s.l2.filter fun e => e.2.dirty && decide (2 ^ 42 ≤ e.1 % 2 ^ 46 ∧ e.1 / 2 ^ 46 = s.partOfCpt cpt)).foldl (fun t e =>
    let base := e.1 % 2 ^ 46 * 64
    (t.sliceClean e.1).postLate .writeBack cpt 4 (.line (base / 128 * 128)
      ({ ty := .shared, data := BitVec.ofNat 512 (t.homeValue base 64), valid := 0, dirty := BitVec.allOnes 64, stamp := 0, since := 0
         va := 0, tag := e.2.tag : Sector}.line base t.time))) s

/-- R202, R207: what a release of device or system scope does before its write. -/
def State.beginWide (s : State) (cpt : Nat) (sys : Bool) : State × Sig :=
  let r := s.releaseClean cpt
  (if sys then r.1.cleanHost cpt else r.1, r.2)

/-- R202, R207, R373: the write-backs of a release of device or system scope are not all acknowledged: they stay made, and the
release has not begun. -/
def State.releaseWait (s : State) (cpt : Nat) (scope : ScopeNo) : Option State :=
  if scope < 3 then none
  else
    let r := (s.beginWide cpt (decide (4 ≤ scope))).1
    if r.unacked cpt then some r else none

/-- The lines that a release or a fence of a point writes to their slices (R176, R202): at cluster scope the STREAM buffer's, at
device scope and above the dirty SHARED ones too. -/
def State.releaseLines (s : State) (cpt : Nat) (scope : ScopeNo) : List Nat :=
  (if 2 ≤ scope then (s.wc.filter fun e => e.1 / 2 ^ 45 == cpt).map fun e => e.1 % 2 ^ 45 else []) ++
  (if 3 ≤ scope then ((s.sectorsOf cpt).filter fun e => e.2.ty == .shared && e.2.dirty != 0).map fun e => sectorAddr e.1 / 128
    else [])

/-- R202: the last line: a copy of the released location in the cluster's L1 takes the value. -/
def State.updateCopy (s : State) (cpt pa n v : Nat) : State :=
  match s.l1.find? (l1Key cpt pa) with
  | none => s
  | some x =>
    let i := pa % 64
    let m := byteMask i n
    let y : Sector := { x with
      data := mergeBytes m (BitVec.ofNat 512 (v % 2 ^ (8 * n) * 2 ^ (8 * i))) x.data
      valid := x.valid ||| m }
    { s with l1 := s.l1.insert (l1Key cpt pa) y }

/-- R202, R205, R207: a release store at device or system scope, after its write-backs: its signature joins that of its
line. A PRIVATE location keeps the L1 as its point of coherence (R199). -/
def State.releaseStore (s : State) (cpt : Nat) (g : Sig) (p : Phys) (n v : Nat) (va : W64) (tag : Nat := 0) :
    State × StoreEnd :=
  if s.owns (s.partOfCpt cpt) p.pa = false then (s.countDrop, .dropped)
  else if p.ty = .shared ∨ p.ty = .stream then
    ((((s.homeWrite p.pa n v (s.partOfCpt cpt) tag).postAt .unit cpt (p.pa / 128)
      (.store p.ty p.pa n (BitVec.ofNat 64 v) tag)).joinSig (p.pa / 128) g).noteWritten cpt
      (p.pa / 128) |>.updateCopy cpt p.pa n v, .stored)
  else
    let r := s.storeBytes cpt p n v va tag
    (if regionOf p.pa = .peer then r.1 else r.1.joinSig (p.pa / 128) g, r.2)

/-- R203: fold a signature: matching SHARED lines are written back and leave, and ACC_CUR takes it. -/
def State.foldSig (s : State) (cpt : Nat) (g : Sig) : State :=
  let s1 := s.evictAll cpt fun a x => x.ty == .shared && sigMatches (a / 128) g
  s1.setAcc cpt { s1.acc cpt with cur := (s1.acc cpt).cur ||| g }

/-- R204: an acquire that cannot know its release: every SHARED line leaves, and all ones are folded. -/
def State.foldAll (s : State) (cpt : Nat) : State := s.foldSig cpt Sig.ones

/-- R207: a system acquire: every line of the L1 leaves, and all ones are folded. Whether PRIVATE lines do, of which R174 names no
acquire as a way out, is a free choice; dirty ones do not leave by a fence (R174, R199; assumption 24). -/
def State.foldEvery (s : State) (cpt : Nat) (fence : Bool := false) : State :=
  let all := s.draw.1.getLsbD 0
  (s.draw.2.evictAll cpt fun _ x => x.ty != .priv || (all && !(fence && x.dirty != 0))).foldAll cpt

/-- R216: the fold of a taken hail: that of a sender outside the device carries all ones and is a system acquire. -/
def State.foldHail (s : State) (cpt : Nat) (g : Sig) : State := if g = Sig.ones then s.foldEvery cpt else s.foldSig cpt g

/-- R203: the read of an acquire: a SHARED location at its home slice, its own sector written back first and gone from the
L1 afterwards (R198); any other as its type has it. -/
def State.acquireRead (s : State) (cpt : Nat) (p : Phys) (n : Nat) (tag : Nat := 0) : State × Nat × Bool :=
  if p.ty = .shared ∧ s.owns (s.partOfCpt cpt) p.pa then
    let s0 := s.evictSector cpt p.pa
    let (v, bad) := s0.homeRead p.pa n
    (s0.sliceTouch (s.partOfCpt cpt) p.pa false tag, v, bad)
  else s.loadBytes cpt p n tag

/-- R203, R207: an acquire load at device or system scope: the signature of its line is folded. -/
def State.acquireLoad (s : State) (cpt : Nat) (sys : Bool) (p : Phys) (n : Nat) (tag : Nat := 0) : State × Nat × Bool :=
  let r := s.acquireRead cpt p n tag
  let s1 := if regionOf p.pa = .peer then r.1 else r.1.foldSig cpt (r.1.sigOf (p.pa / 128))
  (if sys then s1.foldEvery cpt else s1, r.2.1, r.2.2)

/-- R204: the actions of an acquire fence at device scope. -/
def State.fenceAcquire (s : State) (cpt : Nat) : State := s.foldAll cpt

/-- R204, R207: the actions of a release fence: the write-backs, and the pending signature. -/
def State.fenceRelease (s : State) (cpt : Nat) (sys : Bool := false) : State :=
  let (s1, g) := s.beginWide cpt sys
  s1.setAcc cpt { s1.acc cpt with pending := some g }

/-- R204: a device release replaces a pending signature with its own (assumption 46). -/
def State.replacePending (s : State) (cpt : Nat) (g : Sig) : State :=
  if (s.acc cpt).pending.isSome then s.setAcc cpt { s.acc cpt with pending := some g } else s

/-- R202, R204: a device-scope release up to its store: the write-backs, the signature, and the pending one replaced. -/
def State.releaseDevice (s : State) (cpt : Nat) : State × Sig :=
  let r := s.releaseClean cpt
  (r.1.replacePending cpt r.2, r.2)

/-- An ordered atomic at device or system scope (R199, R205, R227). -/
def State.orderedAtomic (s : State) (cpt : Nat) (sys : Bool) (p : Phys) (n code b c : Nat) (tag : Nat := 0) :
    State × Nat × Bool × StoreEnd :=
  let (s1, g) := s.beginWide cpt sys
  let (s2, old, bad, e) := s1.atomicBytes cpt p n code b c tag
  let line := p.pa / 128
  let seen := s2.sigOf line
  let s3 := if regionOf p.pa = .peer then s2 else s2.joinSig line g
  let s4 := (s3.replacePending cpt g).foldSig cpt seen
  (if sys then s4.foldEvery cpt else s4, old, bad, e)

/-- A device-scope release of every coherence point of a partition: the write-backs and the joint signature (R112,
R299). -/
def State.releasePart (s : State) (part : Nat) : State × Sig :=
  let cpts := (s.l1.map fun e => e.1 / 2 ^ 46) ++ (s.wc.map fun e => e.1 / 2 ^ 45) ++ (s.accs.map fun e => e.1)
  (cpts.dedup.filter fun c => s.partOfCpt c == part).foldl
    (fun acc c => let (t, g) := acc.1.releaseDevice c
                  (t, acc.2 ||| g)) (s, (0 : Sig))

end Sys2Proof.Machine
end

