-- ==== Sys2Proof/Machine/Ops.lean ====
section
/-! DEFINITION. The named operations on threads: their registers and presence (R6, R7, R10, R11), lanes and slices (R94,
R146), notices (R338), trap records (R300), taking a trap (R297 to R299) and, beside it, RESUME (R314). -/

namespace Sys2Proof.Machine

/-- Bit i of a vector set to b. -/
def setBit {n : Nat} (x : BitVec n) (i : Nat) (b : Bool) : BitVec n :=
  if b then x ||| BitVec.ofNat n (2 ^ i) else x &&& ~~~BitVec.ofNat n (2 ^ i)

/-! ### Uniform registers -/

/-- `w[r]` (R7: w0 reads as zero). -/
def Uni.getW (u : Uni) (r : Nat) : W64 := if r = 0 then 0 else u.w.get 0 r

/-- Write `w[r]`: the register becomes full and clean (R7, R11, R310). -/
def Uni.putW (u : Uni) (r : Nat) (x : W64) : Uni :=
  if r = 0 then u
  else { u with w := u.w.put 0 r x, empty := setBit u.empty r false, poison := setBit u.poison r false }

/-- Mark `w[r]` empty (R11); w0 is never empty. -/
def Uni.emptyW (u : Uni) (r : Nat) : Uni := if r = 0 then u else { u with empty := setBit u.empty r true }

/-- Mark `w[r]` poisoned (R310). -/
def Uni.poisonW (u : Uni) (r : Nat) : Uni := if r = 0 then u else { u with poison := setBit u.poison r true }

/-- `k[c]` (R7: k7 reads as 1). -/
def Uni.getK (u : Uni) (c : Nat) : Bool := if c = 7 then true else u.k.getLsbD c

/-- Write `k[c]`; a write to k7 is discarded (R7). -/
def Uni.putK (u : Uni) (c : Nat) (b : Bool) : Uni := if c = 7 then u else { u with k := setBit u.k c b }

/-! ### Groups, slices and lanes -/

/-- What stands for a group that is not there. -/
def Group.absent : Group := { team := 0, num := 0, budget := 0, slices := [], gens := [] }

/-- A group by its key. -/
def State.group (s : State) (g : Nat) : Group := (s.groups.find? g).getD Group.absent

/-- Replace a group. -/
def State.setGroup (s : State) (g : Nat) (x : Group) : State := { s with groups := s.groups.insert g x }

/-- What stands for a team that is not there. -/
def Team.absent : Team := { grid := 0, num := 0, part := 0, ctx := 0 }

/-- A team by its key. -/
def State.team (s : State) (t : Nat) : Team := (s.teams.find? t).getD Team.absent

/-- Replace a team. -/
def State.setTeam (s : State) (t : Nat) (x : Team) : State := { s with teams := s.teams.insert t x }

/-- What stands for a grid that is not there. -/
def Grid.absent : Grid := { part := 0, ctx := 0, num := 0, desc := {}, args := [] }

/-- A grid by its key. -/
def State.grid (s : State) (g : Nat) : Grid := (s.grids.find? g).getD Grid.absent

/-- Replace a grid. -/
def State.setGrid (s : State) (g : Nat) (x : Grid) : State := { s with grids := s.grids.insert g x }

/-- A partition, if any, with a default for a number that names none. -/
def State.part (s : State) (p : Nat) : Part := (s.parts.find? p).getD { base := 0, logk := 0 }

/-- Change a partition. -/
def State.modPart (s : State) (p : Nat) (f : Part → Part) : State := { s with parts := s.parts.modify p f }

/-- Change a context. -/
def State.modCtx (s : State) (p c : Nat) (f : Ctx → Ctx) : State := { s with ctxs := s.ctxs.modify (ctxKey p c) f }

/-- R177: a pending request that a point of a scope orders: PEER accesses are ordered at system scope only. -/
def Req.inScope (r : Req) (scope : ScopeNo) : Bool := decide (4 ≤ scope) || r.todo.any fun x => x.ty != some .peer

/-- A slice that belongs to a gang and has not retired (R97, R111). -/
def Slice.inGang (k : Nat) (x : Slice) : Bool := x.gang == k && x.live != 0

/-- Change the slices of a gang. -/
def Group.mapGang (x : Group) (k : Nat) (f : Slice → Slice) : Group :=
  { x with slices := x.slices.map fun sl => if sl.inGang k then f sl else sl }

/-- The lanes of `Active(g)` for a gang, ascending (R146). -/
def Group.lanes (x : Group) (k : Nat) : List Nat :=
  (List.range 32).filter fun l =>
    match x.slices[l / 4]? with
    | some sl => sl.inGang k && sl.act.getLsbD (l % 4)
    | none => false

/-- The gang holds every slice of the group that has not exited (R99, R151). -/
def Group.whole (x : Group) (k : Nat) : Bool := x.slices.all fun sl => sl.live == 0 || sl.gang == k

/-- Every lane of the group is active in the gang (R99). -/
def Group.allActive (x : Group) (k : Nat) : Bool := (x.lanes k).length == 32

/-- The slices of a gang as a mask. -/
def Group.sliceMask (x : Group) (k : Nat) : BitVec 8 :=
  (List.range 8).foldl (fun m i =>
    match x.slices[i]? with
    | some sl => if sl.inGang k then setBit m i true else m
    | none => m) 0

/-- A set of lanes as a mask. -/
def laneMask (ls : List Nat) : W32 := ls.foldl (fun m l => setBit m l true) 0

/-- `v[r]` of lane l. -/
def Group.getV (x : Group) (r l : Nat) : W32 := x.v.get 0 (32 * r + l)

/-- R214: what an element was at the last `mopfence`, with one more element about to be written. -/
def Group.oldV (x : Group) (i : Nat) : Tbl W32 := if (x.vOld.find? i).isSome then x.vOld else x.vOld.insert i (x.v.get 0 i)

/-- Write `v[r]` of lane l, clearing its poison mark (R310). -/
def Group.putV (x : Group) (r l : Nat) (a : W32) : Group :=
  { x with v := x.v.put 0 (32 * r + l) a, vOld := x.oldV (32 * r + l), vPoison := setBit x.vPoison (32 * r + l) false }

/-- `p[c]` of lane l; p7 reads as 1 (R31). -/
def Group.getP (x : Group) (c l : Nat) : Bool := if c = 7 then true else x.p.getLsbD (32 * c + l)

/-- Write `p[c]` of lane l; a write to p7 is discarded (R31). -/
def Group.putP (x : Group) (c l : Nat) (b : Bool) : Group :=
  if c = 7 then x else { x with p := setBit x.p (32 * c + l) b }

/-- Write one value per lane to `v[r]`, in ascending lane order. -/
def Group.putLanes (x : Group) (r : Nat) (vals : List (Nat × W32)) : Group :=
  vals.foldl (fun y e => y.putV r e.1 e.2) x

/-! ### Threads -/

/-- The scalar thread of a name. -/
def State.scalar (s : State) : ThreadId → Scalar
  | .spine c => match s.spines.find? c with
    | some x => x.th
    | none => {}
  | .service p => match s.parts.find? p with
    | some x => x.svc
    | none => {}
  | .monitor => s.root.th
  | .gang _ _ => {}

/-- Replace a scalar thread. -/
def State.setScalar (s : State) (t : ThreadId) (x : Scalar) : State :=
  match t with
  | .spine c => { s with spines := s.spines.insert c { (s.spines.find? c).getD {} with th := x } }
  | .service p => s.modPart p fun q => { q with svc := x }
  | .monitor => { s with root := { s.root with th := x } }
  | .gang _ _ => s

/-- The thread is a gang of a group. -/
def isGang : ThreadId → Bool
  | .gang _ _ => true
  | _ => false

/-- The uniform registers a thread reads and writes (R99: a gang's are its group's). -/
def State.uni (s : State) (t : ThreadId) : Uni :=
  match t with
  | .gang g _ => (s.group g).uni
  | t => (s.scalar t).uni

/-- Replace a thread's uniform registers. -/
def State.setUni (s : State) (t : ThreadId) (u : Uni) : State :=
  match t with
  | .gang g _ => s.setGroup g { s.group g with uni := u }
  | t => s.setScalar t { s.scalar t with uni := u }

/-- Write `w[r]` of a thread. -/
def State.putW (s : State) (t : ThreadId) (r : Nat) (x : W64) : State := s.setUni t ((s.uni t).putW r x)

/-- Write `k[c]` of a thread. -/
def State.putK (s : State) (t : ThreadId) (c : Nat) (b : Bool) : State := s.setUni t ((s.uni t).putK c b)

/-- Mark `w[r]` of a thread empty. -/
def State.emptyW (s : State) (t : ThreadId) (r : Nat) : State := s.setUni t ((s.uni t).emptyW r)

/-- `w[r]` of a thread. -/
def State.getW (s : State) (t : ThreadId) (r : Nat) : W64 := (s.uni t).getW r

/-- The program counter of a thread; of a gang, that of its slices (R97). -/
def State.pcOf (s : State) (t : ThreadId) : Addr :=
  match t with
  | .gang g k => match (s.group g).slices.find? (Slice.inGang k) with
    | some sl => sl.pc
    | none => 0
  | t => (s.scalar t).pc

/-- Set the program counter of a thread. -/
def State.setPc (s : State) (t : ThreadId) (a : Addr) : State :=
  match t with
  | .gang g k => s.setGroup g ((s.group g).mapGang k fun sl => { sl with pc := a })
  | t => s.setScalar t { s.scalar t with pc := a }

/-- Note whether the thread's word is waiting (R13). -/
def State.setWaiting (s : State) (t : ThreadId) (b : Bool) : State :=
  match t with
  | .gang g k => s.setGroup g ((s.group g).mapGang k fun sl => { sl with waiting := b })
  | t => s.setScalar t { s.scalar t with waiting := b }

/-- The privilege level (R17). -/
def levelOf : ThreadId → Nat
  | .service _ => 1
  | .monitor => 2
  | _ => 0

/-- The partition a thread belongs to. -/
def State.partOf (s : State) (t : ThreadId) : Nat :=
  match t with
  | .gang g _ => (s.team (s.group g).team).part
  | .spine _ => (s.scalar t).part
  | .service p => p
  | .monitor => 0

/-- The context a thread belongs to; 0 for none. -/
def State.ctxOf (s : State) (t : ThreadId) : Nat :=
  match t with
  | .gang g _ => (s.team (s.group g).team).ctx
  | .spine _ => (s.scalar t).ctx
  | _ => 0

/-- The grid key of a thread. -/
def State.gridOf (s : State) (t : ThreadId) : Nat :=
  match t with
  | .gang g _ => (s.team (s.group g).team).grid
  | .spine _ => (s.scalar t).grid
  | _ => 0

/-- The coherence point of a thread: its cluster's L1, or a core's own data cache (R17, R184). -/
def State.cptOf (s : State) (t : ThreadId) : Nat :=
  match t with
  | .gang g _ => (s.team (s.group g).team).cluster
  | .spine c => c
  | .service p => 256 + p
  | .monitor => 512

/-- The core that caches a thread's fetched words and translations: SIMT cores, then spine cores, then service cores, then
the monitor. -/
def State.fetchCore (s : State) (t : ThreadId) : Nat :=
  match t with
  | .gang g _ => 4 * (s.team (s.group g).team).cluster + (s.team (s.group g).team).core
  | .spine c => 1024 + c
  | .service p => 1280 + p
  | .monitor => 1536

/-- The address space of a thread (assumption 10). -/
def State.spaceOf (s : State) (t : ThreadId) : Space :=
  match t with
  | .service _ => .physical
  | .monitor => .physical
  | t => .ctx (s.partOf t) (s.ctxOf t) (s.fetchCore t)

/-- The tag of a thread's accesses (R366). -/
def State.threadTag (s : State) (t : ThreadId) : Nat := s.tagOf (s.partOf t) (s.ctxOf t)

/-- `sr.VDIE` of a thread (R359). -/
def State.vdieOf (s : State) (t : ThreadId) : Nat :=
  match t with
  | .gang g _ => (s.team (s.group g).team).vdie
  | .spine _ => (s.scalar t).vdie
  | _ => 0

/-- `sr.CLUSTER` of a thread (R359). -/
def State.vclusterOf (s : State) (t : ThreadId) : Nat := 16 * s.vdieOf t + s.cptOf t % 16

/-- The thread belongs to a handler grid (R301). -/
def State.isHandler (s : State) (t : ThreadId) : Bool := (s.grid (s.gridOf t)).handler.isSome

/-- The unit of a thread is there. -/
def State.isThere (s : State) (t : ThreadId) : Bool :=
  match t with
  | .gang g _ => (s.groups.find? g).isSome
  | .spine c => (s.spines.find? c).isSome
  | .service p => (s.parts.find? p).isSome
  | .monitor => true

/-- The thread's unit is halted (R299). -/
def State.isHalted (s : State) (t : ThreadId) : Bool :=
  match t with
  | .gang g _ => (match (s.group g).mode with
    | .halted => true
    | .parked _ f => f
    | _ => false)
  | t => (s.scalar t).mode == .halted

/-- The key of a saved spine instance and its jetty registers: context, share and the cluster they were on (R334). -/
def savedKey (part ctx share cluster : Nat) : Nat := 2 ^ 48 * (ctxKey part ctx + 1) + 2 ^ 8 * share + cluster % 256

/-- The key of a saved spine instance is one of a context's. -/
def isSaved (part ctx key : Nat) : Bool := key / 2 ^ 48 == ctxKey part ctx + 1

/-- The share of a saved spine instance's key. -/
def shareOf (key : Nat) : Nat := key % 2 ^ 48 / 2 ^ 8

/-- Fill `w[r]` of a thread, if its unit is still there; in a SAVED context the restore must not undo it (assumption 15). -/
def State.fillW (s : State) (t : ThreadId) (r : Nat) (x : W64) : State :=
  if s.isThere t then
    let s1 := s.putW t r x
    if (s.ctx (s.partOf t) (s.ctxOf t)).phase = .saved ∧ r ≠ 0 then
      s1.setUni t { s1.uni t with late := (s1.uni t).late.insert r x }
    else s1
  else s

/-! ### Notices -/

/-- R338: a notice enters a queue of 1,024 places; the last place is the overflow entry. -/
def pushNotice (q : List Notice) (n : Notice) : List Notice :=
  match q.getLast? with
  | some l =>
    if l.kind = 7 then q.dropLast ++ [{ l with arg := if l.arg = BitVec.allOnes 32 then l.arg else l.arg + 1 }]
    else if q.length < 1023 then q ++ [n]
    else q ++ [⟨7, 0xFF, 1⟩]
  | none => [n]

/-- Post a notice to a partition's service core. -/
def State.notify (s : State) (part : Nat) (kind ctx arg : Nat) : State :=
  s.modPart part fun p =>
    { p with notices := pushNotice p.notices ⟨BitVec.ofNat 8 kind, BitVec.ofNat 8 ctx, BitVec.ofNat 32 arg⟩ }

/-- Count a launch error (R338), saturating. -/
def State.countLerr (s : State) (part : Nat) : State :=
  s.modPart part fun p => { p with lerr := if p.lerr = BitVec.allOnes 32 then p.lerr else p.lerr + 1 }

/-! ### Traps -/

/-- A trap as its rule names it (R297, R300). -/
structure Trap where
  kind : Nat
  cause : Nat := 0
  addr : W64 := 0
  lanes : W32 := 0
  index : Nat := 0
  fpx : Nat := 0
  deriving DecidableEq, Repr

def Trap.illegal : Trap := { kind := 0x01 }
def Trap.privilege : Trap := { kind := 0x02 }
def Trap.emptyRead (r : Nat) : Trap := { kind := 0x03, index := r }
def Trap.addressRange (a : W64) (lanes : W32 := 0) : Trap := { kind := 0x04, addr := a, lanes := lanes }
def Trap.misaligned (a : W64) (lanes : W32 := 0) : Trap := { kind := 0x05, addr := a, lanes := lanes }
def Trap.translation (cause : Nat) (a : W64) (lanes : W32) : Trap := { kind := 0x06, cause := cause, addr := a, lanes := lanes }
def Trap.controlFlow (cause : Nat) (a : W64) : Trap := { kind := 0x07, cause := cause, addr := a }
def Trap.convergence (cause : Nat) : Trap := { kind := 0x09, cause := cause }
def Trap.commandCheck (cause : Nat) : Trap := { kind := 0x0E, cause := cause }

/-- The place of a thread's trap record, as its record index (R300). -/
def State.recIndex (s : State) (t : ThreadId) : Nat :=
  match t with
  | .gang g _ =>
    let x := s.group g
    match x.slot with
    | some i => 256 + 48 * (4 * s.vclusterOf t + (s.team x.team).core) + 12 * x.sched + i
    | none => x.lastRec
  | t => s.vclusterOf t

/-- R300: the 64 bytes of a record. -/
def State.recordBits (s : State) (t : ThreadId) (tr : Trap) (pc resume : Addr) (word : W32) (origin : Bool)
    (skid recid : Nat) : Nat :=
  let grp := match t with
    | .gang g _ => (s.group g).num
    | _ => 0xFF
  let team := match t with
    | .gang g _ => (s.team (s.group g).team).num
    | _ => 0xFFFFFFFF
  let slices := match t with
    | .gang g k => ((s.group g).sliceMask k).toNat
    | _ => 0
  pc.toNat + tr.kind * 2 ^ 48 + tr.cause % 256 * 2 ^ 56 + tr.addr.toNat * 2 ^ 64 + resume.toNat * 2 ^ 128
    + tr.lanes.toNat * 2 ^ 192 + tr.index % 256 * 2 ^ 224 + tr.fpx % 32 * 2 ^ 232 + word.toNat * 2 ^ 256
    + origin.toNat * 2 ^ 288 + (!isGang t).toNat * 2 ^ 289 + skid % 16 * 2 ^ 290 + slices * 2 ^ 296
    + s.time % 2 ^ 64 * 2 ^ 320 + (s.grid (s.gridOf t)).num.toNat * 2 ^ 384 + team % 2 ^ 32 * 2 ^ 416
    + grp % 256 * 2 ^ 448 + s.vdieOf t % 256 * 2 ^ 456 + recid % 2 ^ 32 * 2 ^ 480

/-- Write bytes of the device's own at a virtual address of a context, released to its home, where the partition's service
core will find them (R299; assumption 12). They lie in one sector. A page that does not translate takes nothing, nor does one
outside the partition (R342); a STRICT or PEER page is written at its target (R174, R177). -/
def State.deviceWrite (s : State) (part ctx cpt va n v : Nat) : State :=
  match s.translate (.ctx part ctx (1280 + realPart part)) va .load false with
  | (s1, .ok p) =>
    ((s1.dropSector cpt p.pa).evictSector (256 + realPart part) p.pa).siteWrite (realPart part) cpt p n v (s.tagOf part ctx)
  | (s1, .error _) => s1

/-- Write a thread's trap record (R300). -/
def State.writeRecord (s : State) (t : ThreadId) (bits : Nat) : State :=
  let info := (s.ctx (s.partOf t) (s.ctxOf t)).info
  s.deviceWrite (s.partOf t) (s.ctxOf t) (s.cptOf t) (info.traparea + 64 * s.recIndex t) 64 bits

/-- The gang a halted group records: that of its lowest non-exited slice (R300). -/
def Group.lowGang (x : Group) : Nat := ((x.slices.find? fun sl => sl.live != 0).map (·.gang)).getD 0

/-- R299, R315: the mode of a group that stops: a parked one stays parked. -/
def Mode.stop : Mode → Mode
  | .parked w _ => .parked w true
  | _ => .halted

/-- R299: a group stops under a halt: a Halted record, ORIGIN 0. -/
def State.stopGroup (s : State) (g skid : Nat) : State :=
  let x := s.group g
  let t := ThreadId.gang g x.lowGang
  let pc := s.pcOf t
  let s1 := s.writeRecord t (s.recordBits t { kind := 0x1A } pc pc 0 false skid 0)
  s1.setGroup g { s1.group g with mode := x.mode.stop }

/-- The keys of the groups of a team. -/
def State.groupsOf (s : State) (team : Nat) : List Nat :=
  (s.groups.filter fun e => e.2.team == team).map (·.1)

/-- A group that a halt has stopped or need not stop: one whose slices have all exited issues no word. -/
def Group.stopped (x : Group) : Bool :=
  match x.mode with
  | .halted => true
  | .parked _ frozen => frozen
  | _ => x.slices.all fun sl => sl.live == 0

/-- R299: once every record of the team is written, they are released and the notice is posted. -/
def State.finishHalt (s : State) (team : Nat) : State :=
  let x := s.team team
  match x.haltFrom with
  | none => s
  | some i =>
    if (s.groupsOf team).all fun g => (s.group g).stopped then
      ((s.releasePart x.part).1.setTeam team { x with haltFrom := none }).notify x.part 1 x.ctx i
    else s

/-- R299: the halt broadcast reaches one group: it may issue up to 8 more words, a free number (assumption 5). A parked
group issues none (R315). -/
def State.reachHalt (s : State) (g : Nat) : State :=
  if (s.group g).stopped then s
  else
    match (s.group g).mode with
    | .run =>
      let (v, s1) := s.draw
      let left := v.toNat % 9
      if left = 0 then s1.stopGroup g 0 else s1.setGroup g { s1.group g with mode := .halting left 0 }
    | .parked _ _ => s.stopGroup g 0
    | _ => s

/-- R299: broadcast a halt to the groups of a team but the one that trapped. -/
def State.broadcast (s : State) (team origin : Nat) : State :=
  (s.groupsOf team).foldl (fun t g => if g = origin then t else t.reachHalt g) s

/-- Taking a trap (R12, R297 to R300): the record names the word and where RESUME goes on, the thread's unit halts, and
the notice follows. A single step stops its group alone (R308). -/
def State.takeTrap (s : State) (t : ThreadId) (tr : Trap) (pc resume : Addr) (word : W32) (recid : Nat := 0) : State :=
  match t with
  | .gang g _ =>
    let s1 := s.writeRecord t (s.recordBits t tr pc resume word true 0 recid)
    let s2 := s1.setGroup g { s1.group g with mode := (s1.group g).mode.stop }
    let i := s.recIndex t
    let team := (s.group g).team
    if tr.kind = 0x19 then
      ((s2.releasePart (s.partOf t)).1.notify (s.partOf t) 1 (s.ctxOf t) i).finishHalt team
    else
      let s3 := s2.setTeam team { s2.team team with haltFrom := some ((s2.team team).haltFrom.getD i) }
      (s3.broadcast team g).finishHalt team
  | .spine _ =>
    let s1 := s.writeRecord t (s.recordBits t tr pc resume word true 0 recid)
    let s2 := s1.setScalar t { s1.scalar t with mode := .halted }
    (s2.releasePart (s.partOf t)).1.notify (s.partOf t) 1 (s.ctxOf t) (s.recIndex t)
  | t =>
    let s1 := s.setScalar t { s.scalar t with mode := .halted }
    let p := match t with
      | .service p => p
      | _ => 64
    { s1 with root := { s1.root with
        notices := pushNotice s1.root.notices ⟨1, 0, BitVec.ofNat 32 p⟩
        reports := s1.root.reports ++ [.serviceTrap p tr.kind] } }

/-- The end of a group's skid before its last allowed word (R299). -/
def State.endSkid (s : State) (g : Nat) : State :=
  match (s.group g).mode with
  | .halting _ skid => (s.stopGroup g skid).finishHalt (s.group g).team
  | _ => s

/-- R314: RESUME of a halted group at RESUMEPC, which its slices hold, with its step flag (R308). -/
def State.resumeGroup (s : State) (g : Nat) (step : Bool) : State :=
  match (s.group g).mode with
  | .halted => s.setGroup g { s.group g with mode := .run, step := step }
  | .parked w true => s.setGroup g { s.group g with mode := .parked w false, step := step }
  | _ => s

/-- The open service call of a thread, if any. -/
def State.openCall (s : State) (t : ThreadId) : Option Nat :=
  (((s.part (s.partOf t)).calls.filter fun e => e.2.caller == t).head?).map (·.1)

/-- R314: RESUME of a halted spine instance, which goes on waiting for the reply to a call. -/
def State.resumeSpine (s : State) (c : Nat) : State :=
  match (s.scalar (.spine c)).mode with
  | .halted =>
    let m := match s.openCall (.spine c) with
      | some r => Mode.calling r
      | none => Mode.run
    s.setScalar (.spine c) { s.scalar (.spine c) with mode := m }
  | _ => s

end Sys2Proof.Machine
end

