-- ==== Sys2Proof/WellFormed.lean ====
section
/-! DEFINITION. Decode check 2 of R49 inside a word of a known opcode: reserved function codes, condition codes and field
values, odd pair registers (R30), the bound of a parameter block (R28) and unassigned system register numbers (R20). -/

namespace Sys2Proof

/-- R26: a `w` or `j` form of the lane operand B needs B[6] = 0. -/
def laneB (b : BitVec 7) (bs : BitVec 2) : Bool := !(bs == 1 || bs == 2) || decide (b.toNat < 64)

/-- R28: BS = 11 of a uniform operand is reserved. -/
def uniB (bs : BitVec 2) : Bool := bs != 3

/-- R30: a pair names an even register. -/
def evenReg {n : Nat} (r : BitVec n) : Bool := r.toNat % 2 == 0

/-- R26, R218: SZ = 11 moves a pair. -/
def pairOk (z : BitVec 2) (d : BitVec 7) : Bool := z != 3 || evenReg d

/-- R43: roundings 0 to 4. -/
def roundOk (r : BitVec 3) : Bool := decide (r.toNat ≤ 4)

/-- R28: a parameter block of n registers from a. -/
def blockOk (a : BitVec 6) (n : Nat) : Bool := decide (a.toNat + n ≤ 64)

/-- The system registers of R20: number, the lowest level that reads it, and the lowest level that writes it, 3 for none. -/
def srTable : List (Nat × Nat × Nat) :=
  [(0x001, 0, 3), (0x002, 0, 3), (0x003, 0, 3), (0x004, 0, 3), (0x005, 0, 3), (0x006, 0, 3), (0x008, 0, 3),
   (0x010, 0, 3), (0x020, 0, 0), (0x021, 0, 0), (0x030, 0, 3), (0x040, 0, 3), (0x041, 0, 3), (0x050, 0, 0),
   (0x060, 0, 0), (0x061, 0, 3), (0x070, 0, 3), (0x080, 0, 0)] ++
  [(0x222, 1, 1), (0x230, 1, 3), (0x234, 1, 3), (0x240, 1, 3), (0x244, 1, 1), (0x245, 1, 3), (0x246, 1, 1),
   (0x247, 1, 3), (0x248, 1, 3), (0x249, 1, 1), (0x810, 2, 2), (0x811, 2, 2), (0x813, 2, 2), (0x820, 2, 2),
   (0x821, 2, 3), (0x822, 2, 3)]

/-- The row of a system register number. -/
def srRow (n : Nat) : Option (Nat × Nat) := (srTable.find? fun e => e.1 == n).map (·.2)

/-- R250: the formats that admit S = 1. -/
def scaledOk (f : BitVec 4) : Bool := f == 0 || f == 1 || f == 2 || f == 5 || f == 7

/-- R49 check 2, as far as the word alone decides it. -/
def Instr.wf : Instr → Bool
  | .add _ _ _ b bs _ => laneB b bs
  | .sub _ _ _ b bs _ => laneB b bs
  | .mul _ _ _ b bs => laneB b bs
  | .mulhi _ _ _ b bs _ => laneB b bs
  | .imad _ _ _ b bs => laneB b bs
  | .and _ _ _ b bs => laneB b bs
  | .or _ _ _ b bs => laneB b bs
  | .xor _ _ _ b bs => laneB b bs
  | .shl _ _ _ b bs => laneB b bs
  | .shr _ _ _ b bs _ => laneB b bs
  | .min _ _ _ b bs _ => laneB b bs
  | .max _ _ _ b bs _ => laneB b bs
  | .icmp _ c _ _ b bs => laneB b bs && decide (c.toNat < 12)
  | .bfx _ _ _ b bs => laneB b bs
  | .bfi _ _ _ b bs => laneB b bs
  | .iun _ _ a f m => decide (f.toNat < 10) && (!m || f == 1 || f == 2) && (decide (f.toNat < 8) || a == 0)
  | .icmpi _ c _ _ _ => decide (c.toNat < 12)
  | .fadd _ _ _ b bs => laneB b bs
  | .fsub _ _ _ b bs => laneB b bs
  | .fmul _ _ _ b bs => laneB b bs
  | .ffma _ _ _ b bs => laneB b bs
  | .fmin _ _ _ b bs => laneB b bs
  | .fmax _ _ _ b bs => laneB b bs
  | .fcmp _ c _ _ b bs => laneB b bs && decide (c.toNat < 8)
  | .sfu _ _ _ f => decide (f.toNat < 15)
  | .cvt _ _ _ k r _ => decide (r.toNat < 5) || (r == 5 && (k == 4 || k == 6 || k == 8 || k == 10))
  | .hadd2 _ _ _ b bs _ => laneB b bs
  | .hmul2 _ _ _ b bs _ => laneB b bs
  | .hfma2 _ _ _ b bs _ => laneB b bs
  | .shflPick _ _ _ b bs => laneB b bs
  | .shflSwap _ _ _ b bs => laneB b bs
  | .shflBack _ _ _ b bs => laneB b bs
  | .shflFwd _ _ _ b bs => laneB b bs
  | .vote _ _ a f m => (decide (f.toNat < 3) && decide (a.toNat < 8)) || (f == 3 && !m)
  | .redux _ _ _ f => decide (f.toNat < 11)
  | .contribution _ _ _ f => decide (f.toNat < 11)
  | .scan _ _ _ f _ => decide (f.toNat < 11)
  | .cmpx _ _ _ k j _ => decide (j.toNat ≤ 4) && decide (k.toNat ≤ 5) && decide (j.toNat < k.toNat)
  | .bar _ y k _ => y != 3 && k != 3
  | .ld _ d _ _ z _ => pairOk z d
  | .st _ d _ _ z _ => pairOk z d
  | .lds _ d _ _ z => pairOk z d
  | .sts _ d _ _ z => pairOk z d
  | .ldp _ d _ _ z => pairOk z d
  | .stp _ d _ _ z => pairOk z d
  | .atom _ d _ _ c => decide (c.toNat < 14) && (!(c == 9 || c == 11) || evenReg d)
  | .red _ d _ _ c => decide (c.toNat < 14) && c != 8 && c != 9 && (c != 11 || evenReg d)
  | .xst _ d _ _ z => pairOk z d
  | .uadd _ _ _ _ bs _ f => uniB bs && decide (f.toNat < 3)
  | .usub _ _ _ _ bs _ f => uniB bs && decide (f.toNat < 3)
  | .umul _ _ _ _ bs _ => uniB bs
  | .umulh _ _ _ _ bs _ _ => uniB bs
  | .udiv _ _ _ _ bs _ _ => uniB bs
  | .urem _ _ _ _ bs _ _ => uniB bs
  | .uand _ _ _ _ bs => uniB bs
  | .uor _ _ _ _ bs => uniB bs
  | .uxor _ _ _ _ bs => uniB bs
  | .ushl _ _ _ _ bs _ => uniB bs
  | .ushr _ _ _ _ bs _ _ => uniB bs
  | .umin _ _ _ _ bs _ => uniB bs
  | .umax _ _ _ _ bs _ => uniB bs
  | .ucmp _ _ _ _ bs c => uniB bs && decide (c.toNat < 12)
  | .usel _ _ _ _ bs _ => uniB bs
  | .uun _ _ _ f w => decide (f.toNat < 14) && (!w || decide (f.toNat < 8))
  | .ucmpi _ _ _ c _ => decide (c.toNat < 12)
  | .ufadd _ _ _ _ bs _ r => uniB bs && roundOk r
  | .ufsub _ _ _ _ bs _ r => uniB bs && roundOk r
  | .ufmul _ _ _ _ bs _ r => uniB bs && roundOk r
  | .uffma _ _ _ _ bs _ r => uniB bs && roundOk r
  | .ufdiv _ _ _ _ bs _ r => uniB bs && roundOk r
  | .ufun _ _ _ f _ r => decide (f.toNat < 9) && roundOk r
  | .ufcmp _ _ _ _ bs _ _ => uniB bs
  | .ufcvt _ _ _ f r => decide (f.toNat < 10) && roundOk r
  | .uamo _ _ _ b c _ => decide (c.toNat < 14) && c != 11 && (c != 9 || evenReg b)
  | .fence _ _ sc k => k != 0 && decide (sc.toNat ≤ 4)
  | .cache _ _ f => decide (f.toNat < 6)
  | .jwr _ _ _ m c => decide (m.toNat ≤ 11) && c != 0
  | .bra k n _ => !(k == 7 && n)
  | .jmpt _ _ n => n != 0
  | .lpad _ l => l != 0xFFF
  | .spawn _ _ a _ _ _ _ => blockOk a 15
  | .sr _ d a n => (d == 0 || a == 0) && (srRow n.toNat).isSome
  | .cpy _ a y x => blockOk a 3 && decide (y.toNat < 2) && decide (x.toNat < 2)
  | .gather _ a y _ => blockOk a 6 && decide (y.toNat < 2)
  | .binscat _ a x => blockOk a 6 && decide (x.toNat < 2)
  | .mwld _ _ a l sf f =>
    decide (f.toNat < 8) && (!sf || scaledOk f) && (f != 7 || sf) && (if sf then blockOk a 2 else a == 0) && (f == 7 || l == 0)
  | .mma _ _ a _ _ sf f => decide (f.toNat < 7) && (!sf || scaledOk f) && blockOk a 3
  | .maccStore _ _ _ c => decide (c.toNat ≤ 4)
  | .cbload _ d _ => decide (d.toNat < 4)
  | .meet _ _ a _ _ v o => o != 3 && !(v && o == 2) && blockOk a 4
  | .strmStep _ _ a => blockOk a 3
  | .strmScan _ _ a => blockOk a 6
  | .strmSave _ _ a _ => blockOk a 2
  | .strmLoad _ _ a => blockOk a 2
  | .hailSend _ _ a => blockOk a 2
  | .hailMask _ _ a => blockOk a 2
  | .hailTake _ d _ => evenReg d && d != 0
  | .hailPerm _ _ a => blockOk a 2
  | .sysEret _ a => blockOk a 3
  | .sysHalt _ _ a => blockOk a 2
  | .sysFmap _ _ a => blockOk a 2
  | .sysFskip _ _ a => blockOk a 2
  | .sysCtxsw _ _ a => blockOk a 2
  | _ => true

end Sys2Proof
end

