-- ==== Sys2Proof/Machine/Operands.lean ====
section
/-! DEFINITION. What each word names (R29): its sources, its destinations, where it may be executed and at which level,
and every operand form of R26 and R28. -/

namespace Sys2Proof.Machine

/-- Where a uniform word may be executed (R49 step 1, R118, R320). -/
inductive Place where
  | anywhere
  /-- group code alone -/
  | group
  /-- spine and service threads alone -/
  | scalar
  /-- group code and spine threads -/
  | notService
  /-- a partition's threads: all but the root monitor's (R266) -/
  | notMonitor
  deriving DecidableEq, Repr

/-- What a word names: its set, the T bit, sources and destinations by bank, tiles, jetty registers, the place and the
level it needs, and whether `immx` may stand before it (R32). -/
structure Shape where
  lane : Bool := false
  t : Bool := false
  wsrc : List Nat := []
  vsrc : List Nat := []
  peek : List Nat := []
  wdst : List Nat := []
  vdst : List Nat := []
  /-- every v register named (R95) -/
  names : List Nat := vsrc ++ vdst
  tiles : List Nat := []
  /-- every j register named (R117) -/
  jetty : List Nat := peek
  place : Place := .anywhere
  level : Nat := 0
  wide : Bool := false
  deriving DecidableEq, Repr

/-- Registers r to r + n − 1. -/
def regRun (r n : Nat) : List Nat := (List.range n).map (r + ·)

/-- A register, or the pair from it. -/
def regPair (pair : Bool) (r : Nat) : List Nat := if pair then [r, r + 1] else [r]

/-- A destination; register 0 names none. -/
def wTarget (d : BitVec 6) : List Nat := if d = 0 then [] else [d.toNat]

/-- An LA word with operand B in the forms of R26. -/
def laneShape (t : Bool) (dst src : List Nat) (b : BitVec 7) (bs : BitVec 2) : Shape :=
  { lane := true, t := t, vdst := dst, vsrc := src ++ (if bs = 0 then [b.toNat] else [])
    wsrc := if bs = 1 then [b.toNat % 64] else [], peek := if bs = 2 then [b.toNat % 64] else [] }

/-- A UA word with operand B in the forms of R28. -/
def uniShape (t : Bool) (dst src : List Nat) (b : BitVec 6) (bs : BitVec 2) : Shape :=
  { t := t, wdst := dst, wsrc := src ++ (if bs = 0 then [b.toNat] else []), peek := if bs = 1 then [b.toNat] else [] }

/-- A lane load or store (R218). -/
def memShape (t store : Bool) (d a : BitVec 7) (w : BitVec 6) (pair : Bool) : Shape :=
  { lane := true, t := t, wsrc := [w.toNat]
    vsrc := if store then a.toNat :: regPair pair d.toNat else [a.toNat]
    vdst := if store then [] else regPair pair d.toNat
    names := a.toNat :: regPair pair d.toNat }

/-- A command of group code with a parameter block (R28). -/
def cmdShape (t : Bool) (a : BitVec 6) (n : Nat) (dst : List Nat := []) (tiles : List Nat := []) : Shape :=
  { t := t, wsrc := regRun a.toNat n, wdst := dst, tiles := tiles, place := .group }

/-- A `sys`, `hail` or other UC word with a block. -/
def blockShape (t : Bool) (d a : BitVec 6) (n : Nat) (level : Nat := 0) : Shape :=
  { t := t, wsrc := regRun a.toNat n, wdst := wTarget d, level := level }

/-- What a word names. The device's own steps name nothing. -/
def shape : Instr → Shape
  | .add t d a b bs _ => laneShape t [d.toNat] [a.toNat] b bs
  | .sub t d a b bs _ => laneShape t [d.toNat] [a.toNat] b bs
  | .mul t d a b bs => laneShape t [d.toNat] [a.toNat] b bs
  | .mulhi t d a b bs _ => laneShape t [d.toNat] [a.toNat] b bs
  | .imad t d a b bs => laneShape t [d.toNat] [a.toNat, d.toNat] b bs
  | .and t d a b bs => laneShape t [d.toNat] [a.toNat] b bs
  | .or t d a b bs => laneShape t [d.toNat] [a.toNat] b bs
  | .xor t d a b bs => laneShape t [d.toNat] [a.toNat] b bs
  | .shl t d a b bs => laneShape t [d.toNat] [a.toNat] b bs
  | .shr t d a b bs _ => laneShape t [d.toNat] [a.toNat] b bs
  | .min t d a b bs _ => laneShape t [d.toNat] [a.toNat] b bs
  | .max t d a b bs _ => laneShape t [d.toNat] [a.toNat] b bs
  | .icmp t _ _ a b bs => laneShape t [] [a.toNat] b bs
  | .sel t d a b _ => { lane := true, t := t, vdst := [d.toNat], vsrc := [a.toNat, b.toNat] }
  | .bfx t d a b bs => laneShape t [d.toNat] [a.toNat] b bs
  | .bfi t d a b bs => laneShape t [d.toNat] [a.toNat] b bs
  | .iun t d a f _ => { lane := true, t := t, vdst := [d.toNat], vsrc := if f.toNat < 8 then [a.toNat] else [] }
  | .addi t d a _ => { lane := true, t := t, vdst := [d.toNat], vsrc := [a.toNat], wide := true }
  | .andi t d a _ => { lane := true, t := t, vdst := [d.toNat], vsrc := [a.toNat], wide := true }
  | .ori t d a _ => { lane := true, t := t, vdst := [d.toNat], vsrc := [a.toNat], wide := true }
  | .xori t d a _ => { lane := true, t := t, vdst := [d.toNat], vsrc := [a.toNat], wide := true }
  | .shli t d a _ => { lane := true, t := t, vdst := [d.toNat], vsrc := [a.toNat] }
  | .shri t d a _ _ => { lane := true, t := t, vdst := [d.toNat], vsrc := [a.toNat] }
  | .movi t d _ => { lane := true, t := t, vdst := [d.toNat], wide := true }
  | .icmpi t _ _ a _ => { lane := true, t := t, vsrc := [a.toNat], wide := true }
  | .fadd t d a b bs => laneShape t [d.toNat] [a.toNat] b bs
  | .fsub t d a b bs => laneShape t [d.toNat] [a.toNat] b bs
  | .fmul t d a b bs => laneShape t [d.toNat] [a.toNat] b bs
  | .ffma t d a b bs => laneShape t [d.toNat] [a.toNat, d.toNat] b bs
  | .fmin t d a b bs => laneShape t [d.toNat] [a.toNat] b bs
  | .fmax t d a b bs => laneShape t [d.toNat] [a.toNat] b bs
  | .fcmp t _ _ a b bs => laneShape t [] [a.toNat] b bs
  | .sfu t d a _ => { lane := true, t := t, vdst := [d.toNat], vsrc := [a.toNat] }
  | .cvt t d a _ _ _ => { lane := true, t := t, vdst := [d.toNat], vsrc := [a.toNat] }
  | .hadd2 t d a b bs _ => laneShape t [d.toNat] [a.toNat] b bs
  | .hmul2 t d a b bs _ => laneShape t [d.toNat] [a.toNat] b bs
  | .hfma2 t d a b bs _ => laneShape t [d.toNat] [a.toNat, d.toNat] b bs
  | .shflPick t d a b bs => laneShape t [d.toNat] [a.toNat, d.toNat] b bs
  | .shflSwap t d a b bs => laneShape t [d.toNat] [a.toNat, d.toNat] b bs
  | .shflBack t d a b bs => laneShape t [d.toNat] [a.toNat, d.toNat] b bs
  | .shflFwd t d a b bs => laneShape t [d.toNat] [a.toNat, d.toNat] b bs
  | .vote t d a f _ => { lane := true, t := t, wdst := wTarget d, vsrc := if f = 3 then [a.toNat] else [] }
  | .redux t d a _ => { lane := true, t := t, wdst := wTarget d, vsrc := [a.toNat] }
  | .contribution t j a _ => { lane := true, t := t, vsrc := [a.toNat], jetty := [j.toNat] }
  | .scan t d a _ _ => { lane := true, t := t, vdst := [d.toNat], vsrc := [a.toNat] }
  | .cmpx t d a _ _ _ => { lane := true, t := t, vdst := [d.toNat, a.toNat], vsrc := [d.toNat, a.toNat] }
  | .jpt _ => { lane := true }
  | .brd _ _ _ => { lane := true }
  | .regang t _ => { lane := true, t := t }
  | .exit _ _ => { lane := true }
  | .bar t _ _ _ => { lane := true, t := t }
  | .ld t d a w z _ => memShape t false d a w (z == 3)
  | .st t d a w z _ => memShape t true d a w (z == 3)
  | .lds t d a w z => memShape t false d a w (z == 3)
  | .sts t d a w z => memShape t true d a w (z == 3)
  | .ldp t d a w z => memShape t false d a w (z == 3)
  | .stp t d a w z => memShape t true d a w (z == 3)
  | .atom t d a w c =>
    { memShape t true d a w (c == 9 || c == 11) with vdst := regPair (c == 11) d.toNat }
  | .red t d a w c => memShape t true d a w (c == 9 || c == 11)
  | .xst t d a w z => memShape t true d a w (z == 3)
  | .svc t _ => { lane := true, t := t }
  | .uadd t d a b bs _ _ => uniShape t (wTarget d) [a.toNat] b bs
  | .usub t d a b bs _ _ => uniShape t (wTarget d) [a.toNat] b bs
  | .umul t d a b bs _ => uniShape t (wTarget d) [a.toNat] b bs
  | .umulh t d a b bs _ _ => uniShape t (wTarget d) [a.toNat] b bs
  | .udiv t d a b bs _ _ => uniShape t (wTarget d) [a.toNat] b bs
  | .urem t d a b bs _ _ => uniShape t (wTarget d) [a.toNat] b bs
  | .uand t d a b bs => uniShape t (wTarget d) [a.toNat] b bs
  | .uor t d a b bs => uniShape t (wTarget d) [a.toNat] b bs
  | .uxor t d a b bs => uniShape t (wTarget d) [a.toNat] b bs
  | .ushl t d a b bs _ => uniShape t (wTarget d) [a.toNat] b bs
  | .ushr t d a b bs _ _ => uniShape t (wTarget d) [a.toNat] b bs
  | .umin t d a b bs _ => uniShape t (wTarget d) [a.toNat] b bs
  | .umax t d a b bs _ => uniShape t (wTarget d) [a.toNat] b bs
  | .ucmp t _ a b bs _ => uniShape t [] [a.toNat] b bs
  | .usel t d a b bs _ => uniShape t (wTarget d) [a.toNat] b bs
  | .uun t d a _ _ => { t := t, wdst := wTarget d, wsrc := [a.toNat] }
  | .uaddi t d a _ => { t := t, wdst := wTarget d, wsrc := [a.toNat], wide := true }
  | .uandi t d a _ => { t := t, wdst := wTarget d, wsrc := [a.toNat], wide := true }
  | .uori t d a _ => { t := t, wdst := wTarget d, wsrc := [a.toNat], wide := true }
  | .uxori t d a _ => { t := t, wdst := wTarget d, wsrc := [a.toNat], wide := true }
  | .ushli t d a _ => { t := t, wdst := wTarget d, wsrc := [a.toNat] }
  | .ushri t d a _ _ => { t := t, wdst := wTarget d, wsrc := [a.toNat] }
  | .umovi t d _ => { t := t, wdst := wTarget d, wide := true }
  | .ucmpi t _ a _ _ => { t := t, wsrc := [a.toNat], wide := true }
  | .ufadd t d a b bs _ _ => uniShape t (wTarget d) [a.toNat] b bs
  | .ufsub t d a b bs _ _ => uniShape t (wTarget d) [a.toNat] b bs
  | .ufmul t d a b bs _ _ => uniShape t (wTarget d) [a.toNat] b bs
  | .uffma t d a b bs _ _ => uniShape t (wTarget d) [a.toNat, d.toNat] b bs
  | .ufdiv t d a b bs _ _ => uniShape t (wTarget d) [a.toNat] b bs
  | .ufun t d a _ _ _ => { t := t, wdst := wTarget d, wsrc := [a.toNat] }
  | .ufcmp t _ a b bs _ _ => uniShape t [] [a.toNat] b bs
  | .ufcvt t d a _ _ => { t := t, wdst := wTarget d, wsrc := [a.toNat] }
  | .uld t d a _ _ _ => { t := t, wdst := wTarget d, wsrc := [a.toNat], wide := true }
  | .ust t d a _ _ _ => { t := t, wsrc := [a.toNat, d.toNat], wide := true }
  | .uamo t d a b c _ => { t := t, wdst := wTarget d, wsrc := a.toNat :: regPair (c == 9) b.toNat }
  | .fence t _ _ _ => { t := t }
  | .cache t a _ => { t := t, wsrc := [a.toNat] }
  | .jwr t d a _ _ => { t := t, wsrc := [a.toNat], jetty := [d.toNat], place := .scalar }
  | .jrd t d a => { t := t, wdst := wTarget d, jetty := [a.toNat], place := .scalar }
  | .jrel t a => { t := t, jetty := [a.toNat], place := .group }
  | .bra _ _ _ => {}
  | .call _ => { wdst := [63] }
  | .jmpr t a _ => { t := t, wsrc := [a.toNat] }
  | .jmpt t a _ => { t := t, wsrc := [a.toNat] }
  | .lpad _ _ => {}
  | .spawn t d a _ _ _ _ => { t := t, wsrc := regRun a.toNat 15, wdst := wTarget d, place := .scalar }
  | .join t d a b => { t := t, wsrc := [a.toNat, b.toNat], wdst := wTarget d }
  | .sr t d a _ => { t := t, wsrc := if d = 0 then [a.toNat] else [], wdst := wTarget d }
  | .cpy t a _ _ => cmdShape t a 3
  | .gather t a _ _ => cmdShape t a 6
  | .binscat t a _ => cmdShape t a 6
  | .bclose t d => { t := t, wdst := wTarget d, place := .group }
  | .mwld t d a _ sf _ =>
    { cmdShape t a (if sf then 2 else 0) with names := [2 * d.toNat, 2 * d.toNat + 1] }
  | .mma t d a _ _ _ _ => cmdShape t a 3 [] [d.toNat]
  | .maccZero t d => cmdShape t 0 0 [] [d.toNat]
  | .maccLoad t d a => cmdShape t a 1 [] [d.toNat]
  | .maccStore t d a _ => cmdShape t a 1 [] [d.toNat]
  | .maccAdd t d b => cmdShape t 0 0 [] [d.toNat, b.toNat]
  | .maccScale t d a => cmdShape t a 1 [] [d.toNat]
  | .maccRow t d a => cmdShape t a 1 [] [d.toNat]
  | .maccClear t => cmdShape t 0 0
  | .mopfence t => { t := t, place := .group }
  | .cbload t _ a => cmdShape t a 1
  | .meet t d a b _ _ _ => cmdShape t a 4 (wTarget b) [d.toNat]
  | .ltagAlloc t d => { t := t, wdst := wTarget d, place := .notMonitor }
  | .ltagFree t a => { t := t, wsrc := [a.toNat], place := .notMonitor }
  | .strmOpen t d a => cmdShape t a 1 (wTarget d)
  | .strmStep t d a => cmdShape t a 3 (wTarget d)
  | .strmScan t d a => cmdShape t a 6 (wTarget d)
  | .strmSave t d a _ => cmdShape t a 2 (wTarget d)
  | .strmLoad t d a => cmdShape t a 2 (wTarget d)
  | .strmClose t d a => cmdShape t a 1 (wTarget d)
  | .strmQuery t d a _ => cmdShape t a 1 (wTarget d)
  | .xexp t a => { t := t, wsrc := [a.toNat], place := .group }
  | .xbar t => { t := t, place := .group }
  | .xstat t d => { t := t, wdst := wTarget d, place := .group }
  | .hailSend t d a => blockShape t d a 2
  | .hailMask t d a => { blockShape t d a 2 with place := .notService }
  | .hailTake t d a => { t := t, wsrc := [a.toNat], wdst := [d.toNat, d.toNat + 1], place := .notService }
  | .hailRet t => { t := t, place := .notService }
  | .hailPend t d a => { blockShape t d a 1 with place := .notService }
  | .hailPerm t d a => { blockShape t d a 2 with place := .notService }
  | .sysTrap t _ => { t := t }
  | .sysSvc t _ => { t := t, wsrc := regRun 1 8, wdst := [1, 2] }
  | .sysEret t a => { t := t, wsrc := regRun a.toNat 3, level := 1 }
  | .sysBkpt t _ => { t := t }
  | .sysYield t => { t := t }
  | .sysWaiti t d a => blockShape t d a 1
  | .sysHalt t d a => blockShape t d a 2 1
  | .sysVdist t d a b => { t := t, wsrc := [a.toNat, b.toNat], wdst := wTarget d }
  | .sysVdie t d a => blockShape t d a 1
  | .sysFmap t d a => blockShape t d a 2
  | .sysFretry t d a => blockShape t d a 1
  | .sysFskip t d a => blockShape t d a 2
  | .sysFabort t d a => blockShape t d a 1
  | .sysCtxsw t d a => blockShape t d a 2 1
  | .sysCtxld t d a => blockShape t d a 1 1
  | .sysCodefence t => { t := t }
  | .immx _ => {}
  | _ => {}

/-- The value a widened immediate has (R32): `Sext(imm25 ‖ own, 25 + n)` with a prefix, `Sext(own, n)` without. -/
def State.wideImm (s : State) {n : Nat} (own : BitVec n) : W64 :=
  match s.pfx with
  | some p => (p ++ own).signExtend 64
  | none => own.signExtend 64

/-- The value of a jetty register (R115) of the thread's cluster. -/
def State.jetty (s : State) (cluster j : Nat) : Jetty :=
  ((s.spines.find? cluster).getD {}).jetty.get {} j

/-- Replace a jetty register. -/
def State.setJetty (s : State) (cluster j : Nat) (x : Jetty) : State :=
  let sp := (s.spines.find? cluster).getD {}
  { s with spines := s.spines.insert cluster { sp with jetty := sp.jetty.put {} j x } }

/-- Operand B of an LA word in lane l (R129). -/
def State.laneOperand (s : State) (t : ThreadId) (b : BitVec 7) (bs : BitVec 2) (l : Nat) : W32 :=
  match t with
  | .gang g _ =>
    if bs = 0 then (s.group g).getV b.toNat l
    else if bs = 1 then (s.getW t (b.toNat % 64)).setWidth 32
    else if bs = 2 then (s.jetty (s.cptOf t) (b.toNat % 64)).value.setWidth 32
    else b.signExtend 32
  | _ => 0

/-- Operand B of a UA word (R71). -/
def State.uniOperand (s : State) (t : ThreadId) (b : BitVec 6) (bs : BitVec 2) : W64 :=
  if bs = 0 then s.getW t b.toNat
  else if bs = 1 then (s.jetty (s.cptOf t) b.toNat).value
  else b.signExtend 64

/-- `v[r]` of lane l of the thread's group. -/
def State.laneReg (s : State) (t : ThreadId) (r l : Nat) : W32 :=
  match t with
  | .gang g _ => (s.group g).getV r l
  | _ => 0

/-- `p[c]` of lane l of the thread's group. -/
def State.lanePred (s : State) (t : ThreadId) (c l : Nat) : Bool :=
  match t with
  | .gang g _ => (s.group g).getP c l
  | _ => false

/-- The active lanes of a thread (R99, R146). -/
def State.active (s : State) (t : ThreadId) : List Nat :=
  match t with
  | .gang g k => (s.group g).lanes k
  | _ => []

/-- The integer conditions of R36 on n bits. -/
def intCond {n : Nat} (c : Nat) (a b : BitVec n) : Bool :=
  match c with
  | 0x0 => a == b
  | 0x1 => a != b
  | 0x2 => a.slt b
  | 0x3 => a.sle b
  | 0x4 => b.slt a
  | 0x5 => b.sle a
  | 0x6 => a.ult b
  | 0x7 => a.ule b
  | 0x8 => b.ult a
  | 0x9 => b.ule a
  | 0xA => a &&& b != 0
  | _ => a &&& b == 0

/-- Leading zeros of an n-bit value. -/
def clz {n : Nat} (x : BitVec n) : Nat := if x = 0 then n else n - 1 - Nat.log2 x.toNat

/-- The one bits of a value. -/
def popCount {n : Nat} (x : BitVec n) : Nat := (List.range n).countP fun i => x.getLsbD i

/-- Bit i moves to bit n − 1 − i. -/
def bitReverse {n : Nat} (x : BitVec n) : BitVec n :=
  (List.range n).foldl (fun acc i => if x.getLsbD i then acc ||| BitVec.ofNat n (2 ^ (n - 1 - i)) else acc) 0

end Sys2Proof.Machine
end

