-- ==== Sys2Proof/Machine/Flags.lean ====
section
/-! DEFINITION. `sr.FPCTL` and `sr.FPSTAT` (R67 to R70): the dynamic mode, FTZ, the enables and the sticky flags. -/

namespace Sys2Proof.Machine

/-- The mode that a rounding code names (R60): 0 is RM, 1 to 4 as coded. -/
def rmOf (code : Nat) : Rm :=
  match code with
  | 2 => .rtz
  | 3 => .rdn
  | 4 => .rup
  | _ => .rne

/-- The dynamic mode `sr.FPCTL.RM` (R69). -/
def Uni.rm (u : Uni) : Rm := rmOf (u.fpctl.toNat % 8)

/-- The mode of a rounding field: 0 dynamic (R43, R60). -/
def Uni.rounding (u : Uni) (code : Nat) : Rm := if code = 0 then u.rm else rmOf code

/-- `sr.FPCTL.FTZ`. -/
def Uni.ftz (u : Uni) : Bool := u.fpctl.getLsbD 3

/-- An exception whose enable is set (R68); SAT has no enable. -/
def Uni.enabled (u : Uni) (f : Flags) : Bool := (f.setWidth 5 &&& u.fpctl.extractLsb' 4 5) != 0

/-- Set sticky flags (R70). -/
def Uni.raiseFlags (u : Uni) (f : Flags) : Uni := { u with fpstat := u.fpstat ||| f.setWidth 64 }

/-- Set sticky flags of a thread or of its group (R67). -/
def State.raiseFlags (s : State) (t : ThreadId) (f : Flags) : State := s.setUni t ((s.uni t).raiseFlags f)

/-- The Floating-Point trap with the raised exceptions and the lanes that raised (R68, R300). -/
def Trap.floating (f : Flags) (lanes : W32) : Trap := { kind := 0x08, fpx := f.toNat % 32, lanes := lanes }

/-- The SAT flag when a clamp changed the value (R53). -/
def satFlag (b : Bool) : Flags := if b then Flags.sat else Flags.none

/-- R69: a value that `sr.FPCTL` accepts: RM 1 to 4, reserved fields zero. -/
def fpctlOk (v : W64) : Bool := decide (1 ≤ v.toNat % 8 ∧ v.toNat % 8 ≤ 4) && decide (v.toNat / 2 ^ 10 % 2 ^ 22 = 0)

end Sys2Proof.Machine
end

