-- ==== Sys2Proof/Machine/HailArea.lean ====
section
/-! DEFINITION. The hail state of a context (R316) as it stands in the save area (R336): the form of a section, and what a
hail that is accepted while the context is SAVED writes there. -/

namespace Sys2Proof.Machine

/-- A vector of a context (R316). -/
def State.vec (s : State) (part ctx v : Nat) : HVec := (s.ctx part ctx).vecs.get {} v

/-- A bit of every vector of a context as a mask. -/
def State.vecMask (s : State) (part ctx : Nat) (f : HVec → Bool) : W32 :=
  (List.range 32).foldl (fun m v => setBit m v (f (s.vec part ctx v))) 0

/-- A doubleword pair as a 16-byte piece. -/
def piece (lo hi : Nat) : Nat := lo % 2 ^ 64 + hi % 2 ^ 64 * 2 ^ 64

/-- R336: a section as 16-byte pieces: its header with TYPE, LENGTH and PLACE (assumption 15), then its content. -/
def section_ (ty cluster core team group : Nat) (body : List Nat) : List Nat :=
  (ty + 16 * (body.length + 1) * 2 ^ 32 + (cluster + core * 2 ^ 8 + group * 2 ^ 16 + team * 2 ^ 32) % 2 ^ 64 * 2 ^ 64) :: body

/-- The 16 bytes of a vector in the hail section (R336 type 5). -/
def HVec.image (x : HVec) : Nat :=
  piece x.payload.toNat (x.sender.toNat + x.count.toNat * 2 ^ 32 + (x.pend.toNat + 2 * x.sat.toNat + 4 * x.policy.toNat
    + 16 * x.wake.toNat + 32 * x.isv.toNat) * 2 ^ 48)

/-- A vector takes its 16 bytes; the signatures of its sends stay. -/
def HVec.ofImage (x : HVec) (p : Nat) : HVec :=
  let f := p / 2 ^ 112
  { x with payload := BitVec.ofNat 64 p, sender := BitVec.ofNat 32 (p / 2 ^ 64), count := BitVec.ofNat 16 (p / 2 ^ 96)
           pend := f.testBit 0, sat := f.testBit 1, policy := BitVec.ofNat 2 (f / 4), wake := f.testBit 4, isv := f.testBit 5 }

/-- The hail state of a context takes a section's content. -/
def Ctx.loadHails (c : Ctx) (ps : List Nat) : Ctx :=
  let last := ps.getD 64 0
  { c with
    vecs := (List.range 32).foldl (fun m v => m.put {} v { (m.get {} v).ofImage (ps.getD v 0) with mask := last.testBit v }) c.vecs
    perm := (List.range 64).foldl (fun m i => m.put 0 i (BitVec.ofNat 64 (ps.getD (32 + i / 2) 0 / 2 ^ (64 * (i % 2))))) c.perm
    drops := BitVec.ofNat 32 (last / 2 ^ 64) }

/-- R336 type 5: the hail state of a context. -/
def State.hailSection (s : State) (part ctx : Nat) : List Nat :=
  let c := s.ctx part ctx
  section_ 5 0 0 0 0
    (((List.range 32).map fun v => (c.vecs.get {} v).image)
      ++ ((List.range 32).map fun i => piece (Tbl.get (0 : W64) c.perm (2 * i)).toNat (Tbl.get (0 : W64) c.perm (2 * i + 1)).toNat)
      ++ [piece (s.vecMask part ctx (·.mask)).toNat c.drops.toNat])

/-- The 16-byte pieces that a context's save area holds (R335, R336). -/
def CtxRec.saveRoom (c : CtxRec) : Nat := 256 * c.savelen

/-- Write pieces to the save area from a place on, at their homes; none beyond the area's end (assumption 15). -/
def State.writePiecesAt (s : State) (part ctx at_ : Nat) (ps : List Nat) : State :=
  let info := (s.ctx part ctx).info
  (ps.take (info.saveRoom - at_)).zipIdx.foldl
    (fun t e => t.deviceWrite part ctx (256 + realPart part) (info.savearea + 16 * (at_ + e.2)) 16 e.1) s

/-- R316, R336: the hail state of a SAVED context, written to its section in the area as it stands now. -/
def State.writeHails (s : State) (part ctx : Nat) : State :=
  if (s.ctx part ctx).phase = .saved then s.writePiecesAt part ctx (s.ctx part ctx).hailAt (s.hailSection part ctx) else s

end Sys2Proof.Machine
end

