-- ==== Sys2Proof/Machine/Launch.lean ====
section
/-! DEFINITION. Kernel descriptors (R100, R101, R324), grids on the launch queue (R155 to R158), the grid's end (R112) and
the handler grid of a fault record (R302). -/

namespace Sys2Proof.Machine

/-- The number of a memory type (R179). -/
def MemTy.code : MemTy → Nat
  | .shared => 0
  | .priv => 1
  | .strict => 2
  | .stream => 3
  | .peer => 4

/-- The physical place of a virtual address by a page list: a value is 8 × frame + type (R240). -/
def framePhys (f : Frames) (va : Nat) : Phys :=
  let e := f.get 0 (va / 4096)
  ⟨e / 8 * 4096 + va % 4096, (MemTy.ofCode (e % 8)).getD .shared⟩

/-- Translate a run of pages, in ascending order: the frames, or the cause and the address that fails (R239 step 6). -/
def State.translatePages (s : State) (sp : Space) (k : AccKind) (user : Bool) (fr : Frames) (va : Nat) :
    Nat → State × Except (Nat × Nat) Frames
  | 0 => (s, .ok fr)
  | n + 1 =>
    match s.translate sp va k user with
    | (s1, .ok p) => s1.translatePages sp k user (fr.insert (va / 4096) (p.pa / 4096 * 8 + p.ty.code))
        ((va / 4096 + 1) * 4096) n
    | (s1, .error c) => (s1, .error (c, va))

/-- Translate the pages of a range of bytes. -/
def State.translateRange (s : State) (sp : Space) (k : AccKind) (user : Bool) (va n : Nat) :
    State × Except (Nat × Nat) Frames :=
  if n = 0 then (s, .ok []) else s.translatePages sp k user [] va ((va + n - 1) / 4096 - va / 4096 + 1)

/-- Every frame has a type. -/
def framesTyped (f : Frames) (tys : List MemTy) : Bool := f.all fun e => tys.any fun t => e.2 % 8 == t.code

/-- n bytes at a virtual address through a page list, at their targets (assumption 39); those that come poisoned are 0
(assumption 68). -/
def State.readFrames (s : State) (part : Nat) (fr : Frames) (va : Nat) : Nat → Nat
  | 0 => 0
  | n + 1 =>
    let r := s.siteValue part (framePhys fr va) 1
    (if r.2 then 0 else r.1) + 256 * s.readFrames part fr (va + 1) n

/-- The sectors of n bytes of virtual addresses: an address in each, and how many bytes of it. -/
def sectorSpans (va n : Nat) : List (Nat × Nat) :=
  (sectorsFrom va n).map fun b => (max va b, min (va + n) (b + 64) - max va b)

/-- What reading them does at the targets besides. -/
def State.touchFrames (s : State) (part cpt tag : Nat) (fr : Frames) (va n : Nat) : State :=
  (sectorSpans va n).foldl (fun t e => t.siteTouch part cpt (framePhys fr e.1) e.2 tag) s

/-- Why a launch's checks fail: a trap, or a translation fault with its cause and address. -/
inductive LaunchFail where
  | trap (t : Trap)
  | fault (cause va : Nat)
  deriving DecidableEq, Repr

/-- The partition and the tag of an address space, and the point that reads for it. -/
def State.spaceSite (s : State) : Space → Nat × Nat × Nat
  | .ctx part c _ => (realPart part, 256 + realPart part, s.tagOf part c)
  | .physical => (0, 256, 0)

/-- Read bytes of an image, in an address space (R104 step 5). -/
def State.readImage (s : State) (sp : Space) (user : Bool) (va n : Nat) : State × Except LaunchFail Nat :=
  let at_ := s.spaceSite sp
  match s.translateRange sp .load user va n with
  | (s1, .ok fr) => (s1.touchFrames at_.1 at_.2.1 at_.2.2 fr va n, .ok (s1.readFrames at_.1 fr va n))
  | (s1, .error (c, a)) => (s1, .error (.fault c a))

/-- Field of a descriptor: the byte offset and size of R100. -/
def byteField (raw off n : Nat) : Nat := raw / 2 ^ (8 * off) % 2 ^ (8 * n)

/-- The fields of R100. -/
def parseDesc (base raw : Nat) : Desc :=
  { base := base, nvar := byteField raw 6 1, flags := BitVec.ofNat 8 (byteField raw 7 1)
    ngroups := byteField raw 8 1, nprod := byteField raw 9 1, pregs := byteField raw 10 1, cregs := byteField raw 11 1
    pool := byteField raw 12 1, mtiles := byteField raw 13 1, exch := byteField raw 14 2, gentry := byteField raw 16 4
    sentry := byteField raw 20 4, sstack := byteField raw 24 4, hvec := byteField raw 28 4, nhvec := byteField raw 32 1 }

/-- R159: a team's footprint in bytes. -/
def Desc.footprint (d : Desc) : Nat :=
  1024 * (d.nprod * d.pregs + (d.ngroups - d.nprod) * d.cregs) + d.pool * 65536 + 2048 * d.exch

/-- S + E (R185). -/
def Desc.spaceBytes (d : Desc) : Nat := d.pool * 65536 + d.exch * 1024

/-- R100's limits and SSLOT: the Command-Check cause of a descriptor that fails, 0 for none. -/
def descCause (raw sslot : Nat) (d : Desc) (variant : Bool) : Nat :=
  if byteField raw 0 4 ≠ 0x344B424D ∨ byteField raw 4 2 ≠ 1 then 4
  else if (if variant then d.nvar = 0 else d.nvar ≤ 8) ∧ d.flags.toNat < 16 ∧ 1 ≤ d.ngroups ∧ d.ngroups ≤ 16
      ∧ d.nprod ≤ d.ngroups ∧ (if d.nprod = 0 then d.pregs = 0 else 1 ≤ d.pregs ∧ d.pregs ≤ 16)
      ∧ 1 ≤ d.cregs ∧ d.cregs ≤ 16 ∧ d.pool ≤ 20 ∧ d.mtiles ≤ 64 ∧ d.gentry % 4 = 0 ∧ d.sentry % 4 = 0
      ∧ d.sstack % 16 = 0 ∧ d.nhvec ≤ 32 ∧ raw / 2 ^ 264 % 2 ^ 248 = 0
      ∧ d.sstack ≤ sslot then 0
  else 5

/-- R51: the team fits the pool. -/
def Desc.poolOk (d : Desc) : Bool := decide (d.footprint ≤ 1280 * 1024)

/-- The vector of an entry of the hail vector table (R324). -/
def hvEntry (raw i : Nat) : Nat := raw / 2 ^ (64 * i) % 2 ^ 64

/-- R324: a hail vector table with no reserved bit and no vector named twice. -/
def hailTableOk (raw n : Nat) : Bool :=
  ((List.range n).all fun i => decide (hvEntry raw i / 2 ^ 39 = 0)) &&
    ((List.range n).map fun i => hvEntry raw i / 2 ^ 32 % 32).dedup.length == n

/-- Read one descriptor with its hail vector table: its translation first, its content afterwards (R104 steps 5, 7). -/
def State.loadDesc (s : State) (sp : Space) (user : Bool) (base : Nat) : State × Except LaunchFail (Nat × Desc × Nat) :=
  match s.readImage sp user base 64 with
  | (s1, .error e) => (s1, .error e)
  | (s1, .ok raw) =>
    let d := parseDesc base raw
    if d.hvec = 0 ∨ 32 < d.nhvec then (s1, .ok (raw, d, 0))
    else
      match s1.readImage sp user (base + d.hvec) (8 * d.nhvec) with
      | (s2, .error e) => (s2, .error e)
      | (s2, .ok tab) => (s2, .ok (raw, { d with hails := (List.range d.nhvec).map (hvEntry tab) }, tab))

/-- The content check of one descriptor (R104 step 7). -/
def descCheck (sslot : Nat) (variant : Bool) (x : Nat × Desc × Nat) : Option Nat :=
  let c := descCause x.1 sslot x.2.1 variant
  if c ≠ 0 then some c
  else if x.2.1.hvec ≠ 0 ∧ hailTableOk x.2.2 x.2.1.nhvec = false then some 5
  else none

/-- The entries of the variant table (R101): bound and descriptor address; none for an address at which no descriptor can
stand, below 0, at 2^48 or above, or not 64-byte aligned (assumption 48). -/
def variantEntry (base raw i : Nat) : Nat × Option Nat :=
  let a := (base : Int) + (BitVec.ofNat 64 (raw / 2 ^ (128 * i + 64))).toInt
  (raw / 2 ^ (128 * i) % 2 ^ 64, if 0 ≤ a ∧ a < 2 ^ 48 ∧ a % 64 = 0 then some a.toNat else none)

/-- A variant as a spawn's checks find it: its bound, and its descriptor where one can stand. -/
abbrev Variant := Nat × Option (Nat × Desc × Nat)

/-- Read the descriptors of a variant table, one after another (R104 step 5). -/
def State.loadVariants (s : State) (sp : Space) (user : Bool) :
    List (Nat × Option Nat) → State × Except LaunchFail (List Variant)
  | [] => (s, .ok [])
  | (b, none) :: rest =>
    match s.loadVariants sp user rest with
    | (s1, .error f) => (s1, .error f)
    | (s1, .ok xs) => (s1, .ok ((b, none) :: xs))
  | (b, some a) :: rest =>
    match s.loadDesc sp user a with
    | (s1, .error f) => (s1, .error f)
    | (s1, .ok x) =>
      match s1.loadVariants sp user rest with
      | (s2, .error f) => (s2, .error f)
      | (s2, .ok xs) => (s2, .ok ((b, some x) :: xs))

/-- A grid of a partition, of whichever of its functions (R340), that has not ended has this identifier. -/
def State.gridLive (s : State) (part : Nat) (num : W32) : Bool :=
  s.grids.any fun e => realPart e.2.part == realPart part && e.2.num == num

/-- The i-th identifier from one on, 0 left out. -/
def gridNumAfter (num : W32) (i : Nat) : W32 := BitVec.ofNat 32 ((num.toNat + (2 ^ 32 - 2) + i) % (2 ^ 32 - 1) + 1)

/-- R106: the identifier of the next grid of a partition: the first from the one due on that no grid there still has. -/
def State.gridNum (s : State) (part : Nat) : W32 :=
  let due := (s.part part).nextGrid
  (((List.range (s.grids.length + 1)).map (gridNumAfter due)).find? fun n => !s.gridLive part n).getD due

/-- A new grid on the launch queue: its key and the state. -/
def State.addGrid (s : State) (g : Grid) : State × Nat :=
  let k := s.nextId
  let num := s.gridNum g.part
  let s1 := { s with nextId := k + 1, grids := s.grids.insert k { g with num := num, order := k } }
  (s1.modPart g.part fun p => { p with nextGrid := gridNumAfter num 1 }, k)

/-- Fill a status register of a thread that is still there (R106). -/
def State.fillStatus (s : State) (st : Option (ThreadId × Nat)) (v : W64) : State :=
  match st with
  | some (t, r) => s.fillW t r v
  | none => s

/-- Clear the IS bits of vectors of a context (R326). -/
def State.clearServing (s : State) (part ctx : Nat) (vs : List Nat) : State :=
  s.modCtx part ctx fun c =>
    { c with vecs := vs.foldl (fun t v => t.put {} v { t.get {} v with isv := false }) c.vecs }

/-- Take one open fault record out of its context. -/
def State.dropRecord (s : State) (part ctx : Nat) (recid : W32) : State :=
  s.modCtx part ctx fun c => { c with faults := c.faults.filter fun f => f.recid != recid }

/-- The open fault record of an identifier. -/
def State.findRecord (s : State) (part ctx : Nat) (recid : W32) : Option FaultRec :=
  (s.ctx part ctx).faults.find? fun f => f.recid == recid

/-- The thread's unit has halted, or has exited or ended (R299, R314). -/
def State.atRest (s : State) (t : ThreadId) : Bool :=
  match t with
  | .gang g _ => (s.group g).stopped
  | t => (s.scalar t).mode == .halted || (s.scalar t).mode == .idle

/-- R303: the record is resolved as `sys.fabort` does: the opening word takes its Translation-fault trap, unless its unit
has halted or is gone. -/
def State.abortRecord (s : State) (part ctx : Nat) (recid : W32) : State :=
  match s.findRecord part ctx recid with
  | none => s
  | some f =>
    let s1 := s.dropRecord part ctx recid
    let pc := s1.pcOf f.opener
    if !s1.isThere f.opener || s1.atRest f.opener then s1
    else s1.takeTrap f.opener (Trap.translation f.cause f.addr f.lanes) pc pc (encode f.instr) recid.toNat

/-- The name that a reference to an instance which has ended is left with: no unit has it. -/
def gone : ThreadId := .gang 0 0

/-- A thread's name after one has changed. -/
def movedThread (old new t : ThreadId) : ThreadId := if t = old then new else t

/-- A thread of a context takes another name: every part of the device that names it follows. -/
def State.renameThread (s : State) (part ctx : Nat) (old new : ThreadId) : State :=
  let mv := movedThread old new
  let s1 := { s with
    grids := s.grids.map fun (e : Nat × Grid) => (e.1, { e.2 with status := e.2.status.map fun (y : ThreadId × Nat) => (mv y.1, y.2) }) }
  let s2 := s1.modPart part fun p => { p with calls := p.calls.map fun (e : Nat × Call) => (e.1, { e.2 with caller := mv e.2.caller }) }
  s2.modCtx part ctx fun c =>
    { c with faults := c.faults.map fun (f : FaultRec) => { f with opener := mv f.opener, joined := f.joined.map mv } }

/-- R106, R303, R307, R315: the spine instances of a grid leave their clusters: statuses, replies and resolved records that
are still to come for them reach no later instance. -/
def State.dropSpines (s : State) (part ctx k : Nat) (clusters : List Nat) : State :=
  clusters.foldl (fun t c =>
    if (t.spines.find? c).isSome && (t.scalar (.spine c)).grid == k then
      { t with spines := t.spines.erase c }.renameThread part ctx (.spine c) gone
    else t) s

/-- R326: the vectors whose IS bit a grid's threads hold. -/
def State.servedBy (s : State) (k : Nat) : List Nat :=
  (s.grid k).held ++ (s.grid k).spines.filterMap fun c =>
    if (s.scalar (.spine c)).grid = k then (s.scalar (.spine c)).serving else none

/-- R112, R342: the increment of a join counter at its slice, for the partition that the grid ran on. -/
def State.countJoin (s : State) (part pa add : Nat) (sig : Sig) (tag : Nat) : State :=
  if s.owns part pa then
    ((s.homeWrite pa 8 ((s.homeValue pa 8 + add) % 2 ^ 64) part tag).requestAt 1023 (pa / 128) 0).joinSig (pa / 128) sig
  else s.countDrop

/-- R112: grid end: the device-scope release, the join counter's increment with its signature, and what the grid held on
its clusters. An aborted grid adds 2^32 + 1 (R314). What becomes deliverable goes to the takers that wait at the hail unit's
next step (R325). -/
def State.endGrid (s : State) (k : Nat) : State :=
  let g := s.grid k
  let (s1, sig) := s.releasePart (realPart g.part)
  let s2 := match g.join with
    | some pa => s1.countJoin (realPart g.part) pa (if g.aborted then 2 ^ 32 + 1 else 1) sig (s.tagOf g.part g.ctx)
    | none => s1
  let s3 := ((s2.clearServing g.part g.ctx (s.servedBy k)).writeHails g.part g.ctx).dropSpines g.part g.ctx k g.spines
  let s4 := { s3 with grids := s3.grids.erase k }
  match g.handler with
  | some r => s4.abortRecord g.part g.ctx (BitVec.ofNat 32 r)
  | none => s4

/-- R112: grid end when every team has retired and every spine instance has ended; in a halted partition nothing ends (R346). -/
def State.tryEndGrid (s : State) (k : Nat) : State :=
  match s.grids.find? k with
  | none => s
  | some g =>
    if g.phase == .resident && decide (g.retired = g.count) && g.live.isEmpty && !(s.part (realPart g.part)).halted then s.endGrid k
    else s

/-- The binding byte of a virtual die (R358). -/
def CtxRec.binding (c : CtxRec) (v : Nat) : Byte := c.vdtab.getD v 0

/-- The virtual die is bound. -/
def CtxRec.bound (c : CtxRec) (v : Nat) : Bool := (c.binding v).getLsbD 7

/-- The physical die of a bound virtual die. -/
def CtxRec.die (c : CtxRec) (v : Nat) : Nat := (c.binding v).toNat % 16

/-- The virtual dies bound (R358). -/
def CtxRec.dies (c : CtxRec) : List Nat := (List.range 16).filter c.bound

/-- A status word of spawn (R106). -/
def spawnStatus (code : Nat) (num : W32) : W64 := BitVec.ofNat 64 (code + num.toNat * 2 ^ 32)

/-- R160: a scheduler's groups of a team, by its number and the team's s0. -/
def groupsAt (nums : List Nat) (s0 i : Nat) : Nat := (nums.filter fun n => (s0 + n) % 4 == i).length

/-- R160: the lowest s0 for which every scheduler, holding some slots already, has room. -/
def chooseS0 (held : Nat → Nat) (nums : List Nat) : Option Nat :=
  (List.range 4).find? fun s0 => (List.range 4).all fun i => decide (held i + groupsAt nums s0 i ≤ 12)

/-- R160, R162: how many teams find slots on a core, one after another, each with its lowest s0. -/
def slotTeams (nums : List Nat) (held : Nat → Nat) : Nat → Nat
  | 0 => 0
  | fuel + 1 =>
    match chooseS0 held nums with
    | some s0 => 1 + slotTeams nums (fun i => held i + groupsAt nums s0 i) fuel
    | none => 0

/-- R1, R383: a compute die that takes no work: one that has not trained, as no die does that the form disables or that fails
(assumption 42). -/
def State.dieBad (s : State) (d : Nat) : Bool := !s.root.bootstat.getLsbD (4 + d)

/-- R1, R383: a binding table without its bytes that name such a die. -/
def State.maskDies (s : State) (c : CtxRec) : CtxRec :=
  { c with vdtab := c.vdtab.map fun b => if b.getLsbD 7 && s.dieBad (b.toNat % 16) then 0 else b }

/-- R1, R335, R358: what a context's virtual dies are bound to. -/
def State.bindings (s : State) (part ctx : Nat) : CtxRec := s.maskDies (s.ctx part ctx).info

/-- R162: the whole grid could stand in its partition's clusters within the mask, every core empty. -/
def State.couldFit (s : State) (g : Grid) : Bool :=
  let p := s.part (realPart g.part)
  let fit := 1280 * 1024 / (max 1 g.desc.footprint)
  let slots := slotTeams (List.range g.desc.ngroups) (fun _ => 0) 48
  let tiles := if g.desc.mtiles = 0 then 48 else 64 / g.desc.mtiles
  let books := if g.books = 0 then 48 else 4 / g.books
  let perCore := min (min fit slots) (min tiles books)
  let info := s.bindings g.part g.ctx
  let bound := (List.range 16).filter fun v =>
    info.bound v && (g.mask == 0 || g.mask.getLsbD v)
  let onDie := fun c => bound.any fun v => info.die v == c / 16
  let clusters := ((List.range (2 ^ p.logk)).map (p.base + ·)).filter onDie
  decide (g.count ≤ 4 * clusters.length * perCore)

/-- R162: a waiting co-resident grid that can never fit leaves the queue with NO-FIT. -/
def State.testFit (s : State) (k : Nat) : State :=
  match s.grids.find? k with
  | none => s
  | some g =>
    if g.co && g.phase == .passed && !s.couldFit g then
      { s.fillStatus g.status (spawnStatus 3 0) with grids := s.grids.erase k }
    else s

/-- R162, R168: the test is made again for every grid that waits for a partition's clusters, when its borders have changed: those of
a function that is not on it too (R340). -/
def State.retestFits (s : State) (part : Nat) : State :=
  (s.grids.filter fun e => realPart e.2.part == part).foldl (fun t e => t.testFit e.1) s

/-- R190, R366: what the read of a counter of a grid does at its slice besides. -/
def State.counterTouch (s : State) (g : Grid) (pa : Nat) : State :=
  s.siteTouch (realPart g.part) (256 + realPart g.part) ⟨pa, .shared⟩ 8 (s.tagOf g.part g.ctx)

/-- R156 to R158, R107, R162: a grid enters PASSED: its count is fixed, an empty grid ends, a co-resident grid that can
never fit is refused. -/
def State.enterPassed (s : State) (k : Nat) : State :=
  let g := s.grid k
  let (s1, g1) := match g.icnt with
    | none => (s, g)
    | some pa =>
      let n := (s.ownRead (realPart g.part) pa 8).1
      let g1 := { g with sig := g.sig ||| s.sigOf (pa / 128), count := if n < 2 ^ 32 then n else 0 }
      let s0 := s.counterTouch g pa
      (if n < 2 ^ 32 then s0 else s0.countLerr (realPart g.part), g1)
  let g2 := { g1 with phase := .passed, order := s1.nextId }
  let s2 := { s1.setGrid k g2 with nextId := s1.nextId + 1 }
  if g2.count = 0 then
    (if g2.co then s2.fillStatus g2.status (spawnStatus 1 g2.num) else s2).endGrid k
  else s2.testFit k

/-- R157: one gate test: a device-scope acquire read at the counter's slice; a counter outside the partition reads 0 (R342,
assumption 68). -/
def State.testGate (s : State) (k : Nat) : State :=
  let g := s.grid k
  match g.gate with
  | none => s.enterPassed k
  | some (pa, v) =>
    if (s.part (realPart g.part)).halted then s
    else
      let s1 := s.counterTouch g pa
      if v.toNat ≤ (s.ownRead (realPart g.part) pa 8).1 then
        (s1.setGrid k { g with sig := g.sig ||| s.sigOf (pa / 128) }).enterPassed k
      else s1

/-- The descriptors a spawn loaded: the one at IMG, and the variants. -/
structure SpawnImages where
  base : Nat × Desc × Nat
  variants : List Variant

/-- R100, R101: how many variants a descriptor has whose entries are loaded (step 5): none where the bytes are no descriptor, or NVAR
lies beyond its limit, which step 7 finds (assumption 48). -/
def variantCount (x : Nat × Desc × Nat) : Nat :=
  if byteField x.1 0 4 = 0x344B424D ∧ byteField x.1 4 2 = 1 ∧ x.2.1.nvar ≤ 8 then x.2.1.nvar else 0

/-- R104 step 5, R101: read the descriptor, its variant table and every variant's descriptor, which step 7 checks with or
without V (assumption 48). -/
def State.spawnImages (s : State) (sp : Space) (img : Nat) : State × Except LaunchFail SpawnImages :=
  match s.loadDesc sp true img with
  | (s1, .error f) => (s1, .error f)
  | (s1, .ok x) =>
      match s1.readImage sp true (img + 64) (16 * variantCount x) with
      | (s2, .error f) => (s2, .error f)
      | (s2, .ok tab) =>
        match s2.loadVariants sp true ((List.range (variantCount x)).map (variantEntry img tab)) with
        | (s3, .error f) => (s3, .error f)
        | (s3, .ok vs) => (s3, .ok ⟨x, vs⟩)

/-- R104 step 7: a variant's descriptor; an entry that leads to none fails as a field beyond its limit (assumption 48). -/
def variantCheck (sslot : Nat) (e : Variant) : Option Nat :=
  match e.2 with
  | none => some 5
  | some x => descCheck sslot true x

/-- R104 step 7: the content of the descriptors, and last the pool rule. -/
def SpawnImages.check (x : SpawnImages) (sslot : Nat) : Option Nat :=
  match descCheck sslot false x.base with
  | some c => some c
  | none =>
    match x.variants.findSome? (variantCheck sslot) with
    | some c => some c
    | none =>
      if x.base.2.1.poolOk && x.variants.all fun e => (e.2.map fun y => y.2.1.poolOk).getD true then none else some 5

/-- R302: the handler grid of a new fault record; its descriptor is checked as a spawn's, its variants with it (assumption 48),
though none is selected. -/
def State.launchHandler (s : State) (part ctx : Nat) (recid : W32) (args : List W64) : State :=
  let info := (s.ctx part ctx).info
  let fail := fun (t : State) => (t.countLerr part).abortRecord part ctx recid
  match s.spawnImages (.ctx part ctx (1280 + part)) info.handler with
  | (s1, .error _) => fail s1
  | (s1, .ok im) =>
    match im.check info.sslot with
    | some _ => fail s1
    | none =>
      let g : Grid := { part := part, ctx := ctx, num := 0, desc := im.base.2.1, args := args, count := 1, prio := 7
                        handler := some recid.toNat }
      (s1.addGrid g).1

/-- R183, R302: an access that faults on a page joins the page's open record, or opens one and has its handler launched.
The word stays not begun. -/
def State.openRecord (s : State) (t : ThreadId) (i : Instr) (pfx : Option (BitVec 25)) (cause : Nat) (va : W64) (lanes : W32)
    (command : Bool) : State :=
  let part := s.partOf t
  let ctx := s.ctxOf t
  let page := va.toNat / 4096
  if (s.ctx part ctx).faults.any fun f => f.page == page then
    s.modCtx part ctx fun c =>
      { c with faults := c.faults.map fun f => if f.page == page then { f with joined := f.joined ++ [t] } else f }
  else
    let recid := BitVec.ofNat 32 (s.nextId % (2 ^ 32 - 1) + 1)
    let pc := s.pcOf t
    let bits := s.recordBits t (Trap.translation cause va lanes) pc pc (encode i) true 0 recid.toNat
    let rec8 := (List.range 8).map fun j => BitVec.ofNat 64 (bits / 2 ^ (64 * j))
    let f : FaultRec := { recid := recid, page := page, cause := cause, addr := va, opener := t, command := command
                          instr := i, pfx := pfx, lanes := lanes }
    let s1 := { s with nextId := s.nextId + 1 }.modCtx part ctx fun c => { c with faults := c.faults ++ [f] }
    s1.launchHandler part ctx recid rec8

/-- R302: the thread's word opened a fault record or joined one, and stays not begun until the record is resolved. -/
def State.onRecord (s : State) (t : ThreadId) : Bool :=
  (s.ctx (s.partOf t) (s.ctxOf t)).faults.any fun f => f.opener == t || f.joined.contains t

/-- R301: the fault is handed to a handler team. -/
def State.handsToHandler (s : State) (t : ThreadId) (cause : Nat) : Bool :=
  (cause == 1 || cause == 2) && decide (levelOf t = 0) && (s.ctx (s.partOf t) (s.ctxOf t)).info.handler != 0
    && !s.isHandler t

end Sys2Proof.Machine
end

