-- ==== Sys2Proof/Machine/Notes.lean ====
section
/-! DEFINITION. What is kept of the scratchpad words that engines may still read as they were (R212, R214, R228): for each
word its stores in order, the groups that each store precedes, and the groups whose fence has covered it. -/

namespace Sys2Proof.Machine

/-- Change every note. -/
def mapNotes (m : Tbl (List Note)) (f : Note → Note) : Tbl (List Note) := m.map fun e => (e.1, e.2.map f)

/-- Group g stores a word. -/
def addNote (m : Tbl (List Note)) (w : Nat) (old : W32) (g : Nat) : Tbl (List Note) :=
  m.insert w (m.get [] w ++ [{ old := old, seen := setBit 0 g true }])

/-- A copy command of group g, in batch n, stores a word: it precedes no group until g has read the batch's status (R212, R290). -/
def addEngineNote (m : Tbl (List Note)) (w : Nat) (old : W32) (g n : Nat) : Tbl (List Note) :=
  m.insert w (m.get [] w ++ [{ old := old, via := some (g, n) }])

/-- R212: group g has read the status of its batch n, which precedes it from then on. -/
def readNotes (m : Tbl (List Note)) (g n : Nat) : Tbl (List Note) :=
  mapNotes m fun x => if x.via = some (g, n) then { x with seen := setBit x.seen g true } else x

/-- R212, R255: a fence of group g covers the stores that precede it; a word whose last store every one of n groups has
fenced is forgotten. -/
def fenceNotes (m : Tbl (List Note)) (g n : Nat) : Tbl (List Note) :=
  (mapNotes m fun x => if x.seen.getLsbD g then { x with fenced := setBit x.fenced g true } else x).filter fun e =>
    match e.2.getLast? with
    | some x => (List.range n).any fun i => !x.fenced.getLsbD i
    | none => false

/-- R154: the arrival of group g at barrier b releases the stores that precede it. -/
def publishNotes (m : Tbl (List Note)) (g b : Nat) : Tbl (List Note) :=
  mapNotes m fun x => if x.seen.getLsbD g then { x with pub := setBit x.pub b true } else x

/-- R154: a phase of barrier b ends: its stores precede the groups held at it, and those that come to hold later. -/
def crossNotes (m : Tbl (List Note)) (holders : BitVec 16) (b : Nat) : Tbl (List Note) :=
  mapNotes m fun x =>
    if x.pub.getLsbD b then
      { x with seen := x.seen ||| holders, pub := setBit x.pub b false, ended := setBit x.ended b true }
    else x

/-- R154: a hold of group g at barrier b that passes at once acquires the phases that have ended. -/
def holdNotes (m : Tbl (List Note)) (g b : Nat) : Tbl (List Note) :=
  mapNotes m fun x => if x.ended.getLsbD b then { x with seen := setBit x.seen g true } else x

/-- R233: every store before the swap that precedes some group precedes every group. -/
def seeNotes (m : Tbl (List Note)) : Tbl (List Note) :=
  mapNotes m fun x => if x.seen = 0 then x else { x with seen := BitVec.allOnes 16 }

/-- R212, R214: the values before the stores that no fence of group g has covered since the last one that some fence of g
did: an engine's read for g may return each of them. -/
def staleValues (ns : List Note) (g : Nat) : List W32 :=
  ((ns.reverse.takeWhile fun x => !x.fenced.getLsbD g).map (·.old)).reverse

end Sys2Proof.Machine
end

