-- ==== Sys2Proof/Machine/Retire.lean ====
section
/-! DEFINITION. How work retires (R111): barriers that a retirement completes (R153), the exchange swap (R233, R234),
slices that exit (R109, R150), groups, teams and streams. -/

namespace Sys2Proof.Machine

/-- A group has not retired: it is still in the table. The numbers of a team's groups. -/
def State.livingNums (s : State) (team : Nat) : List Nat := (s.groupsOf team).map fun g => (s.group g).num

/-- The group numbers of a party (R153): 0 the whole team, 1 producers, 2 consumers. -/
def Desc.inParty (d : Desc) (party : Nat) (n : Nat) : Bool :=
  if party = 1 then decide (n < d.nprod) else if party = 2 then decide (d.nprod ≤ n) else true

/-- The descriptor of a team. -/
def State.descOf (s : State) (team : Nat) : Desc := (s.grid (s.team team).grid).desc

/-- The groups of a team held at a barrier. -/
def State.holders (s : State) (team n : Nat) : BitVec 16 :=
  (s.groupsOf team).foldl (fun m g => if (s.group g).barHold = some n then setBit m (s.group g).num true else m) 0

/-- Change what a team's engines may read of its scratchpad stores. -/
def Team.mapNoted (x : Team) (f : Tbl (List Note) → Tbl (List Note)) : Team :=
  { x with unfenced := f x.unfenced, unasync := f x.unasync }

/-- R153: an open phase whose remaining party members have all arrived completes. -/
def State.settleBarrier (s : State) (team n : Nat) : State :=
  let x := s.team team
  let b := x.bars.get {} n
  let members := (s.livingNums team).filter ((s.descOf team).inParty b.party.toNat)
  if b.isOpen && members.all fun m => b.arrived.getLsbD m then
    s.setTeam team ({ x with bars := x.bars.put {} n { b with arrived := 0, isOpen := false, phase := b.phase + 1 } }.mapNoted
      fun m => crossNotes m (s.holders team n) n)
  else s

/-- R233: the group numbers that still count have all arrived and the counter is at or below 0. -/
def State.exchangeDone (s : State) (team : Nat) : Bool :=
  let x := s.team team
  let ns := s.livingNums team
  !ns.isEmpty && (ns.all fun m => x.xarrived.getLsbD m) && decide (x.xcount ≤ 0)

/-- The word at an address as the device records it in a trap of its own making: what the thread's fetch finds there, or 0
where it finds none. -/
def State.wordAt (s : State) (t : ThreadId) (pc : Addr) : W32 :=
  match s.translate (s.spaceOf t) pc.toNat .fetch (levelOf t == 0) with
  | (s1, .ok p) =>
    (s1.icache.find? (2 ^ 50 * s1.fetchCore t + p.pa / 4)).getD (BitVec.ofNat 32 (s1.loadBytes (s1.cptOf t) p 4).2.1)
  | (_, .error _) => 0

/-- R234: the lowest-numbered group takes Exchange-Overrun on the word after its `xbar`. -/
def State.raiseOverrun (s : State) (team : Nat) (lastover : W64) : State :=
  match (s.groupsOf team).head? with
  | none => s
  | some g =>
    let t := ThreadId.gang g (s.group g).lowGang
    let pc := s.pcOf t
    s.takeTrap t { kind := 0x14, addr := lastover } pc pc (s.wordAt t pc)

/-- R233: the swap of the banks, the counter's reset and the next phase. -/
def State.swapBanks (s : State) (team : Nat) : State :=
  let x := s.team team
  let below := decide (x.xcount < 0)
  let phase := (x.xstat.toNat / 2 ^ 16 + 1) % 2 ^ 16
  let low := x.xstat.toNat % 8
  let last := if below then (-x.xcount).toNat else x.xstat.toNat / 2 ^ 32
  let low' := if below ∧ low % 2 = 0 then low + 1 else low
  let stat := BitVec.ofNat 64 (low' + phase * 2 ^ 16 + last * 2 ^ 32)
  let s1 := s.setTeam team { x with near := x.far, far := x.near, nearId := if x.nearId = 1 then 2 else 1
                                    xcount := 0, xarrived := 0, xstat := stat
                                    unfenced := seeNotes (x.unfenced.filter fun e => decide (e.1 < 16384 * (s.descOf team).pool))
                                    unasync := seeNotes (x.unasync.filter fun e => decide (e.1 < 16384 * (s.descOf team).pool)) }
  if below && (s.descOf team).flags.getLsbD 0 then s1.raiseOverrun team (BitVec.ofNat 64 last) else s1

/-- R233: swap when the phase is complete. -/
def State.settleExchange (s : State) (team : Nat) : State := if s.exchangeDone team then s.swapBanks team else s

/-- The commands a group has issued that have not completed. -/
def State.openCmds (s : State) (g : Nat) : List (Nat × Cmd) := s.cmds.filter fun e => e.2.group == g && !e.2.done

/-- The key of a stream of a team by its slot: a handle goes with its team when a restore moves it (R291). DESIGN CHOICE (assumption 72):
so two teams that a restore has brought to one core may each hold a slot of one number. -/
def streamKey (team slot : Nat) : Nat := 32 * team + slot

/-- R288: the streams of a team close with it. -/
def State.dropStreams (s : State) (team : Nat) : State := { s with streams := s.streams.filter fun e => e.2.team != team }

/-- R111: a team retires with its last group once its commands have completed; what it held is freed. -/
def State.tryRetireTeam (s : State) (team : Nat) : State :=
  match s.teams.find? team with
  | none => s
  | some x =>
    if (s.groupsOf team).isEmpty && !(s.cmds.any fun e => e.2.team == team && !e.2.done) && !(s.part (realPart x.part)).halted then
      let s1 := { s.dropStreams team with teams := s.teams.erase team, cmds := s.cmds.filter fun e => e.2.team != team }
      (s1.setGrid x.grid { s1.grid x.grid with retired := (s1.grid x.grid).retired + 1 }).tryEndGrid x.grid
    else s

/-- R111, R153, R233: a group leaves: its barrier bits, its place in `xbar`, its pending loads. -/
def State.removeGroup (s : State) (g : Nat) : State :=
  let x := s.group g
  let t := s.team x.team
  let bars := t.bars.map fun e => (e.1, { e.2 with arrived := setBit e.2.arrived x.num false })
  let gr := s.grid t.grid
  let s1 := s.setGrid t.grid { gr with held := gr.held ++ x.serving.toList }
  let lost := (s1.reqs.filter fun e => e.2.group == g).flatMap fun e => e.2.sent
  let s2 := { s1 with groups := s1.groups.erase g, reqs := s1.reqs.filter fun e => e.2.group != g
                      outs := lost.foldl (fun m n => m.erase (2 ^ 16 * t.cluster + n)) s1.outs }
  let s3 := s2.setTeam x.team { t with bars := bars, xarrived := setBit t.xarrived x.num false }
  ((List.range 16).foldl (fun a n => a.settleBarrier x.team n) s3).settleExchange x.team

/-- The group has an atomic that has issued and not been performed. -/
def State.openAtomics (s : State) (g : Nat) : Bool :=
  s.reqs.any fun e => e.2.group == g && e.2.op.isSome && !e.2.todo.isEmpty

/-- R111: a group retires once its last slice has retired and every command it issued has completed, its atomics
performed; in a halted partition none does (R346). -/
def State.tryRetireGroup (s : State) (g : Nat) : State :=
  match s.groups.find? g with
  | none => s
  | some x =>
    if (x.slices.all fun sl => sl.live == 0) && (s.openCmds g).isEmpty && !s.openAtomics g
        && !(s.part (realPart (s.team x.team).part)).halted then
      (s.removeGroup g).tryRetireTeam x.team else s

/-- Every lane of a slice exits (R109). -/
def Slice.finish (x : Slice) : Slice := { x with act := 0, live := 0, stack := [], regang := none, waiting := false }

/-- R23, R110: a spine instance ends at the instance end point. -/
def State.endSpine (s : State) (c : Nat) : State :=
  let x := s.scalar (.spine c)
  let gr := s.grid x.grid
  ((s.setScalar (.spine c) { x with mode := .idle }).setGrid x.grid { gr with live := gr.live.erase c }).tryEndGrid x.grid

/-- R98: slices waiting at one `regang` word with one number resume as one gang; differing ones are Illegal-Convergence. -/
inductive Regang where
  | stay
  | join (pc : Addr)
  | differ (slice : Nat)
  deriving DecidableEq, Repr

/-- R98: two slices wait at one address with one number. -/
def Slice.sameRegang (x y : Slice) : Bool := x.regang.map (fun r => (r.1, r.2.1)) == y.regang.map fun r => (r.1, r.2.1)

/-- R98: what the waiting slices of a group come to. -/
def Group.regangState (x : Group) : Regang :=
  let living := x.slices.filter fun sl => sl.live != 0
  match living with
  | [] => .stay
  | sl :: rest =>
    if living.any fun y => y.regang.isNone then .stay
    else if rest.all fun y => y.sameRegang sl then .join (sl.pc + 4)
    else .differ (x.slices.findIdx fun y => y.live != 0)

/-- R98: apply the outcome. The gang of the joined slices is that of the lowest. -/
def State.settleRegang (s : State) (g : Nat) : State :=
  let x := s.group g
  match x.regangState with
  | .stay => s
  | .join pc =>
    let k := x.lowGang
    s.setGroup g { x with slices := x.slices.map fun sl =>
      if sl.live != 0 then { sl with pc := pc, gang := k, regang := none, waiting := false } else sl }
  | .differ i =>
    let sl := x.slices.getD i { pc := 0, act := 0, live := 0 }
    let t := ThreadId.gang g sl.gang
    let w := match sl.regang with
      | some (_, n, b) => encode (.regang b n)
      | none => 0
    let s1 := s.setGroup g { x with slices := x.slices.map fun y => { y with regang := none } }
    s1.takeTrap t (Trap.convergence 1) sl.pc sl.pc w

/-- R23, R109: slices of `jumped`, those that a transfer has just moved, exit whole where it has reached the group end point:
they no longer count for `regang` (R98) or for a halt (R299), and the group may retire. -/
def State.landGroup (s : State) (g : Nat) (jumped : BitVec 8) : State :=
  let x := s.group g
  let slices := x.slices.mapIdx fun i sl =>
    if jumped.getLsbD i && sl.live != 0 && sl.pc == x.endpt then sl.finish else sl
  (((s.setGroup g { x with slices := slices }).settleRegang g).tryRetireGroup g).finishHalt x.team

/-- R97: after slices moved to different addresses, slices at one address stay in one gang; the lowest slice's gang keeps
the old number. New gangs take numbers from 8 up that no slice holds. -/
def splitGang (old : Nat) : List Addr → List (Addr × Nat) → Nat → List (Addr × Nat)
  | [], acc, _ => acc
  | a :: rest, acc, next =>
    if acc.any fun e => e.1 == a then splitGang old rest acc next
    else splitGang old rest (acc ++ [(a, if acc.isEmpty then old else next)]) (if acc.isEmpty then next else next + 1)

/-- R342, R371: the lost stores that slices of a gang note when they exit, or stand at the group end point, pass to the lowest
slice that the gang keeps (assumption 81): the gang is the thread that issued them (R195). -/
def Group.handMarks (x : Group) (k : Nat) : Group :=
  let mine := x.slices.filter fun sl => sl.gang == k
  match x.slices.findIdx? fun sl => sl.inGang k && sl.pc != x.endpt with
  | some i => { x with slices := x.slices.mapIdx fun j sl =>
      if j = i then { sl with dropped := mine.findSome? (·.dropped), refused := mine.findSome? (·.refused) }
      else if sl.gang == k then { sl with dropped := none, refused := none } else sl }
  | none => x

/-- R97: renumber the gang's slices by their program counters. -/
def Group.regroup (y : Group) (k : Nat) : Group :=
  let x := y.handMarks k
  let pcs := (x.slices.filter (Slice.inGang k)).map (·.pc)
  let top := (x.slices.foldl (fun m sl => max m sl.gang) 0) + 1
  let tab := splitGang k pcs [] top
  x.mapGang k fun sl => { sl with gang := ((tab.find? fun e => e.1 == sl.pc).map (·.2)).getD k }

/-- R149: the check before a slice issues a word, on at most `fuel` stack entries. -/
def Slice.reconverge (x : Slice) : Nat → Slice
  | 0 => x
  | fuel + 1 =>
    match x.stack with
    | [] => x
    | top :: rest =>
      if top.rpc = x.pc then
        if top.dmask ≠ 0 then
          Slice.reconverge { x with act := top.dmask, stack := { top with dmask := 0 } :: rest, pc := top.dpc
                                    jp := some top.rpc } fuel
        else Slice.reconverge { x with act := top.saved, jp := some top.rpc, stack := rest } fuel
      else x

/-- R150: a slice with no active lane takes up its deferred or saved lanes, or retires. -/
def Slice.unwind (x : Slice) : Nat → Slice
  | 0 => x
  | fuel + 1 =>
    if x.act ≠ 0 then x
    else
      match x.stack with
      | [] => x.finish
      | top :: rest =>
        if top.dmask ≠ 0 then
          Slice.unwind { x with act := top.dmask, stack := { top with dmask := 0 } :: rest, pc := top.dpc
                                jp := some top.rpc } fuel
        else Slice.unwind { x with act := top.saved, pc := top.rpc, jp := some top.rpc, stack := rest } fuel

/-- The slices of a group whose program counters differ from those of another list of slices. -/
def Group.movedFrom (x : Group) (before : List Slice) : BitVec 8 :=
  (List.range 8).foldl (fun m i =>
    if (x.slices[i]?).map (·.pc) != (before[i]?).map (·.pc) then setBit m i true else m) 0

/-- R149: the check for every slice of a gang, which may split it; a change of PC is a branch. -/
def State.reconvergeGang (s : State) (g k : Nat) : State :=
  let x := s.group g
  let y := x.mapGang k fun sl => sl.reconverge 17
  if y.slices = x.slices then s else (s.setGroup g (y.regroup k)).landGroup g (y.movedFrom x.slices)

end Sys2Proof.Machine
end

