-- ==== Sys2Proof/Machine/Queues.lean ====
section
/-! DEFINITION. The queues of the engines (R240, R249, R278), and the words that wait while theirs is full (R164). -/

namespace Sys2Proof.Machine

/-- A command of the copy engine (R240). -/
def CmdKind.isCopy : CmdKind → Bool
  | .cpy .. => true
  | .gather .. => true
  | .binscat .. => true
  | _ => false

/-- A command of the stream unit (R279). -/
def CmdKind.isStream : CmdKind → Bool
  | .strmOpen .. => true
  | .strmStep .. => true
  | .strmScan .. => true
  | .strmSave .. => true
  | .strmLoad .. => true
  | .strmClose .. => true
  | .strmQuery .. => true
  | _ => false

/-- The commands of a core that have issued and not completed, of a kind. -/
def State.onCore (s : State) (team : Nat) (p : CmdKind → Bool) : Nat :=
  let x := s.team team
  (s.cmds.filter fun e =>
    let y := s.team e.2.team
    !e.2.done && p e.2.kind && y.placed && y.cluster == x.cluster && y.core == x.core).length

/-- R240: the core's copy engine holds 64 commands. -/
def State.copyFull (s : State) (g : Nat) : Bool := decide (64 ≤ s.onCore (s.group g).team CmdKind.isCopy)

/-- R249: a group's matrix queue holds 16 commands. -/
def State.mqFull (s : State) (g : Nat) : Bool := decide (16 ≤ (s.group g).mq.length)

/-- R278: the core's stream unit holds 64 accepted commands. -/
def State.strmFull (s : State) (g : Nat) : Bool := decide (64 ≤ s.onCore (s.group g).team CmdKind.isStream)

/-- R280: SLOT and GEN of a handle. -/
def handleSlot (h : W64) : Nat := h.toNat / 2 ^ 8 % 32
def handleGen (h : W64) : W32 := h.extractLsb' 32 32

/-- The stream of a team's slot. -/
def State.streamOf (s : State) (team slot : Nat) : Option Stream := s.streams.find? (streamKey team slot)

/-- R278: the stream's queue holds 16 commands. -/
def State.queueFull (s : State) (g : Nat) (h : W64) : Bool :=
  match s.streamOf (s.group g).team (handleSlot h) with
  | some x => decide (16 ≤ x.queue.length)
  | none => false

/-- The register of a stream word's handle, where it names a stream. -/
def handleReg : Instr → Option Nat
  | .strmStep _ _ a => some a.toNat
  | .strmScan _ _ a => some a.toNat
  | .strmSave _ _ a _ => some a.toNat
  | .strmLoad _ _ a => some a.toNat
  | .strmClose _ _ a => some a.toNat
  | .strmQuery _ _ a _ => some a.toNat
  | _ => none

/-- The engines that words of group code command. -/
inductive Engine where
  | copy
  | matrix
  | stream
  deriving DecidableEq, Repr

/-- The engine that a word commands. -/
def engineOf : Instr → Option Engine
  | .cpy .. => some .copy
  | .gather .. => some .copy
  | .binscat .. => some .copy
  | .mwld .. => some .matrix
  | .mma .. => some .matrix
  | .maccZero .. => some .matrix
  | .maccLoad .. => some .matrix
  | .maccStore .. => some .matrix
  | .maccAdd .. => some .matrix
  | .maccScale .. => some .matrix
  | .maccRow .. => some .matrix
  | .maccClear .. => some .matrix
  | .cbload .. => some .matrix
  | .meet .. => some .matrix
  | .strmOpen .. => some .stream
  | .strmStep .. => some .stream
  | .strmScan .. => some .stream
  | .strmSave .. => some .stream
  | .strmLoad .. => some .stream
  | .strmClose .. => some .stream
  | .strmQuery .. => some .stream
  | _ => none

/-- A load, a store or an atomic of virtual memory, which goes to the L1 of its core's cluster (R220, R225). -/
def usesL1 : Instr → Bool
  | .ld .. => true
  | .st .. => true
  | .ldp .. => true
  | .stp .. => true
  | .atom .. => true
  | .red .. => true
  | .uld .. => true
  | .ust .. => true
  | .uamo .. => true
  | _ => false

/-- The requests in a core's L1 request queue: the words of its groups with an access of memory that has not been performed. -/
def State.l1Waiting (s : State) (team : Nat) : Nat :=
  let x := s.team team
  (s.reqs.filter fun e =>
    let y := s.team (s.group e.2.group).team
    y.placed && y.cluster == x.cluster && y.core == x.core && e.2.todo.any fun a => a.ty.isSome).length

/-- R164: the L1 request queue of a group's core is full. DESIGN CHOICE (assumption 76): it has a fixed number of places, which
the manual does not give, each held by one load or atomic until its last access has been performed. -/
def State.l1Full (s : State) (g : Nat) : Bool :=
  match s.l1Waiting (s.group g).team with
  | 0 => false
  | n + 1 => decide (Config.l1Places ≤ n)

/-- R164, R249: the word targets a queue that is full, so its gang is not ready. -/
def State.targetFull (s : State) (t : ThreadId) (i : Instr) : Bool :=
  match t with
  | .gang g _ =>
    match engineOf i with
    | none => usesL1 i && s.l1Full g
    | some .copy => s.copyFull g
    | some .matrix => s.mqFull g
    | some .stream =>
      s.strmFull g ||
        (match handleReg i with
          | some r => (r == 0 || !(s.uni t).empty.getLsbD r) && s.queueFull g (s.getW t r)
          | none => false)
  | _ => false

end Sys2Proof.Machine
end

