-- ==== Sys2Proof/Machine/Issue.lean ====
section
/-! DEFINITION. Issuing a word: the checks of R49 in their order, what a word's body may come to, and what follows each
outcome: the next word, a wait (R13), a trap (R297), a fault record (R183). Every meaning goes through `issue`. -/

namespace Sys2Proof.Machine

/-- What one step answers. -/
abbrev Out := Host.Outcome State Fault Refusal

/-- What the body of a word comes to. -/
inductive Did where
  /-- completed; the next word follows -/
  | done (s : State)
  /-- completed with a transfer of control -/
  | goto (s : State) (pc : Addr)
  /-- completed; the word has set its slices' program counters, those of `jumped` by a transfer of control (R23, R109) -/
  | moved (s : State) (jumped : BitVec 8)
  /-- a prefix: the next word belongs to it, no boundary lies between (R33) -/
  | unit (s : State)
  /-- not begun (R13) -/
  | wait (s : State)
  /-- a precise trap (R12) -/
  | trap (tr : Trap)
  /-- a precise trap that uses up a held report (R342, R371) -/
  | report (s : State) (tr : Trap)
  /-- a completed trap (R297) -/
  | after (s : State) (tr : Trap)
  /-- a translation fault (R180) -/
  | fault (cause : Nat) (va : W64) (lanes : W32)

/-- The outcome of the checks of R49, steps 1 to 4. -/
inductive Gate where
  | run
  | wait
  | trap (tr : Trap)
  deriving DecidableEq, Repr

/-- R49 step 1: a word in a thread that may not execute it. DESIGN CHOICE (assumption 69): the root monitor's thread, of which R102
says nothing, executes what a service thread does: `spawn` too, into the contexts of partition 0. DEDUCED (assumption 77): group
code executes the FP64 words of the uniform set, which R24 does not confine, though the table of R2 gives FP64 to the spine and
service cores alone. -/
def misplaced (t : ThreadId) (sh : Shape) : Bool :=
  match t with
  | .gang _ _ => sh.place == .scalar
  | .spine _ => sh.lane || sh.place == .group
  | .monitor => sh.lane || sh.place == .group || sh.place == .notService || sh.place == .notMonitor || !sh.jetty.isEmpty
  | .service _ => sh.lane || sh.place == .group || sh.place == .notService || !sh.jetty.isEmpty

/-- R95, R96: a register beyond the role's budget, or a tile beyond MTILES. -/
def State.beyond (s : State) (t : ThreadId) (sh : Shape) : Bool :=
  match t with
  | .gang g _ =>
    (sh.names.any fun r => decide ((s.group g).budget ≤ r)) ||
      (sh.tiles.any fun m => decide ((s.descOf (s.group g).team).mtiles ≤ m))
  | _ => false

/-- R20: the checks of an `sr` word on an assigned number, after the first: level, then a read-only register. -/
def srGate (i : Instr) (level : Nat) : Option Trap :=
  match i with
  | .sr _ d _ n =>
    match srRow n.toNat with
    | none => some Trap.illegal
    | some (rd, wr) =>
      if level < rd then some Trap.privilege
      else if d = 0 then
        if wr = 3 then some Trap.illegal else if level < wr then some Trap.privilege else none
      else none
  | _ => none

/-- R117: a jetty register named in group code of a grid with no spine code. -/
def State.noJetty (s : State) (t : ThreadId) (sh : Shape) : Option Nat :=
  match t with
  | .gang g _ => if (s.descOf (s.group g).team).sentry = 0 then sh.jetty.head? else none
  | _ => none

/-- The first empty source (R11, R29): its register number. DESIGN CHOICE (assumption 78): of several empty sources the record of
the trap (R71) names the first w register that the word reads (A, then D where it is a source, then B), else the first v register,
else the jetty register. -/
def State.emptySource (s : State) (t : ThreadId) (sh : Shape) : Option Nat :=
  let u := s.uni t
  let w := sh.wsrc.find? fun r => r != 0 && u.empty.getLsbD r
  let v := match t with
    | .gang g _ => sh.vsrc.find? fun r => (s.group g).vEmpty.getLsbD r
    | _ => none
  let j := sh.peek.find? fun j => !(s.jetty (s.cptOf t) j).full
  w.orElse fun _ => v.orElse fun _ => j

/-- A destination whose fill is pending (R11). -/
def State.pendingTarget (s : State) (t : ThreadId) (sh : Shape) : Bool :=
  (sh.wdst.any fun r => r != 0 && (s.uni t).empty.getLsbD r) ||
    (match t with
      | .gang g _ => sh.vdst.any fun r => (s.group g).vEmpty.getLsbD r
      | _ => false)

/-- The first poisoned source (R310): the Poison trap with its register and lanes. -/
def State.poisonedSource (s : State) (t : ThreadId) (sh : Shape) : Option Trap :=
  let u := s.uni t
  match sh.wsrc.find? fun r => r != 0 && u.poison.getLsbD r with
  | some r => some { kind := 0x16, index := r }
  | none =>
    match t with
    | .gang g k =>
      let x := s.group g
      let bad := fun r => (x.lanes k).filter fun l => x.vPoison.getLsbD (32 * r + l)
      match sh.vsrc.find? fun r => !(bad r).isEmpty with
      | some r => some { kind := 0x16, index := r, lanes := laneMask (bad r) }
      | none => none
    | _ => none

/-- R199: an acquire of the gang has not completed, so no later access begins. -/
def State.acquiring (s : State) (t : ThreadId) : Bool :=
  match t with
  | .gang g k => s.reqs.any fun e => e.2.group == g && decide (0 < e.2.ord)
      && (e.2.todo.isEmpty || e.2.inScope (ordScope e.2.ord)) && e.2.slices &&& (s.group g).sliceMask k != 0
  | _ => false

/-- R230: bytes of an `xst` of the gang's slices have not been accepted. -/
def State.sending (s : State) (g k : Nat) : Bool :=
  s.xpkts.any fun p => p.group == g && p.slices &&& (s.group g).sliceMask k != 0

/-- R153, R233: the group is held by a barrier or by `xbar`; R302: the word waits for a fault record; R230: the `xst` before
has not completed. -/
def State.held (s : State) (t : ThreadId) : Bool :=
  s.onRecord t ||
    match t with
    | .gang g k =>
      let x := s.group g
      let tm := s.team x.team
      (match x.barHold with
        | some n => (tm.bars.get {} n).arrived.getLsbD x.num
        | none => false) || (x.xbarHold && tm.xarrived.getLsbD x.num) || s.sending g k
    | _ => false

/-- A hold that has ended is forgotten as the next word begins. -/
def State.clearHold (s : State) (t : ThreadId) : State :=
  match t with
  | .gang g _ =>
    let x := s.group g
    if x.barHold = none ∧ x.xbarHold = false then s else s.setGroup g { x with barHold := none, xbarHold := false }
  | _ => s

/-- The checks of R49, steps 1 to 4, in their order. A gang whose word targets a full queue is not ready (R164). -/
def gate (i : Instr) (s : State) : Gate :=
  let t := s.cur
  let sh := shape i
  if s.held t || s.targetFull t i then .wait
  else if misplaced t sh then .trap Trap.illegal
  else if !i.wf || (s.pfx.isSome && !sh.wide) || s.beyond t sh then .trap Trap.illegal
  else if levelOf t < sh.level then .trap Trap.privilege
  else
    match srGate i (levelOf t), s.noJetty t sh with
    | some tr, _ => .trap tr
    | none, some j => .trap { kind := 0x0C, cause := 4, index := j }
    | none, none =>
      match s.emptySource t sh with
      | some r => if sh.t then .trap (Trap.emptyRead r) else .wait
      | none =>
        match s.poisonedSource t sh with
        | some tr => .trap tr
        | none => if s.pendingTarget t sh || s.acquiring t then .wait else .run

/-- The place a trap of the current word records: the word, or its prefix (R12, R33). -/
def State.wordPc (s : State) : Addr := if s.pfx.isSome then s.pcOf s.cur - 4 else s.pcOf s.cur

/-- The state with the current word, and its prefix, not begun. -/
def State.unbegun (s : State) (pc : Addr) : State :=
  if s.pfx.isSome then { s.setPc s.cur pc with pfx := none } else s

/-- R299: a word issued after the broadcast uses up the group's skid. -/
def State.countSkid (s : State) (t : ThreadId) : State :=
  match t with
  | .gang g _ =>
    match (s.group g).mode with
    | .halting left skid =>
      if (s.group g).stopped then s
      else if left ≤ 1 then s.stopGroup g (skid + 1)
      else s.setGroup g { s.group g with mode := .halting (left - 1) (skid + 1) }
    | _ => s
  | _ => s

/-- R299: a halt of the thread's team, as the state before its word knew it, may now be complete. -/
def State.finishHaltOf (s pre : State) (t : ThreadId) : State :=
  match t with
  | .gang g _ => s.finishHalt (pre.group g).team
  | _ => s

/-- The thread is single-stepped (R308). -/
def State.stepped (s : State) (t : ThreadId) : Bool :=
  match t with
  | .gang g _ => (s.groups.find? g).isSome && (s.group g).step
  | _ => false

/-- The thread's group has halted. -/
def State.stoppedNow (s : State) (t : ThreadId) : Bool :=
  match t with
  | .gang g _ => (s.group g).mode == .halted
  | _ => false

/-- A halt broadcast has reached the thread's group (R299). -/
def State.haltReached (s : State) (t : ThreadId) : Bool :=
  match t with
  | .gang g _ =>
    match (s.group g).mode with
    | .halting _ _ => true
    | _ => false
  | _ => false

/-- R214: the v registers that the group's `mwld` words read, until their batch status has filled. -/
def State.operandRegs (s : State) (g : Nat) : List Nat :=
  (s.cmds.filter fun e => e.2.group == g).flatMap fun e => match e.2.kind with
    | .mwld _ vr _ _ _ _ _ => [vr, vr + 1]
    | _ => []

/-- R214: elements of such registers that a lane word reads or writes take undefined values: free ones (assumption 5). -/
def State.touch (s : State) (t : ThreadId) (lanes regs : List Nat) : State :=
  match t with
  | .gang g _ =>
    (regs.filter fun r => (s.operandRegs g).contains r).foldl (fun a r =>
      lanes.foldl (fun b l => b.draw.2.setGroup g ((b.draw.2.group g).putV r l (b.draw.1.setWidth 32))) a) s
  | _ => s

/-- R263: lane words write elements of such registers: the loads that are pending read, of each, the value before or one written. -/
def State.noteOperand (s pre : State) (t : ThreadId) (lanes regs : List Nat) : State :=
  match t with
  | .gang g _ =>
    (regs.filter fun r => (s.operandRegs g).contains r).foldl (fun a r =>
      lanes.foldl (fun b l =>
        let x := b.group g
        let was := (x.opVals.find? (32 * r + l)).getD [(pre.group g).getV r l]
        b.setGroup g { x with opVals := x.opVals.insert (32 * r + l) (was ++ [x.getV r l]) }) a) s
  | _ => s

/-- The uniform registers that a group's word names and that hold the status of one of its batches. -/
def State.statusRegs (s : State) (t : ThreadId) (i : Instr) : List Nat :=
  match t with
  | .gang g _ => ((shape i).wsrc ++ (shape i).wdst).filter fun r => ((s.group g).statusOf.find? r).isSome
  | _ => []

/-- R212: the word of a group has read registers that held statuses of its batches before it: what those batches wrote precedes the
group from then on; a register that it writes holds that status no more. -/
def State.readStatus (s pre : State) (t : ThreadId) (i : Instr) : State :=
  match t with
  | .gang g _ =>
    if pre.statusRegs t i = [] then s
    else
      let x := s.group g
      let old := (pre.group g).statusOf
      let ns := (shape i).wsrc.filterMap old.find?
      let s1 := s.setTeam x.team ((s.team x.team).mapNoted fun m => ns.foldl (fun m n => readNotes m x.num n) m)
      s1.setGroup g { s1.group g with statusOf := x.statusOf.filter fun e => !((shape i).wdst.contains e.1 && old.find? e.1 == some e.2) }
  | _ => s

/-- The state in which a word's body runs: its hold has ended, and R214 has acted on its sources. -/
def State.begun (s : State) (i : Instr) : State :=
  (s.clearHold s.cur).touch s.cur (s.active s.cur) (shape i).vsrc

/-- What follows a completed word: the boundary, the skid of a halt, a single step (R308). A word that has itself halted its
group has taken its one trap (R298). -/
def State.finishWord (s pre : State) (t : ThreadId) (i : Instr) (pc : Addr) : State :=
  let s1 := ((({ s with pfx := none }.setWaiting t false).noteOperand pre t (pre.active t) (shape i).vdst).touch t (pre.active t)
    (shape i).vdst).readStatus pre t i
  if s1.stepped t && !s1.stoppedNow t then s1.takeTrap t { kind := 0x19 } pc (s1.pcOf t) (encode i)
  else if pre.haltReached t then (s1.countSkid t).finishHaltOf pre t else s1

/-- The slices of a thread's gang. -/
def State.gangMask (s : State) (t : ThreadId) : BitVec 8 :=
  match t with
  | .gang g k => (s.group g).sliceMask k
  | _ => 0

/-- R23: a transfer, by the slices of `jumped` or by a scalar thread, whose target is the end point ends its thread; one to that
of another thread does not (DESIGN CHOICE: assumption 6), nor does a word that goes on to the end point without a transfer. -/
def State.landAt (s : State) (t : ThreadId) (jumped : BitVec 8) : State :=
  match t with
  | .gang g _ => if (s.groups.find? g).isSome then s.landGroup g jumped else s
  | .spine c => if (s.scalar t).mode = .run ∧ (s.scalar t).pc = (s.scalar t).endpt then s.endSpine c else s
  | _ => s

/-- What follows each outcome of a word. -/
def settle (i : Instr) (s : State) (d : Did) : State :=
  let t := s.cur
  let pc := s.wordPc
  match d with
  | .done s' => (s'.setPc t (s.pcOf t + 4)).finishWord s t i pc
  | .goto s' a => ((s'.setPc t a).finishWord s t i pc).landAt t (s.gangMask t)
  | .moved s' jumped => (s'.finishWord s t i pc).landAt t jumped
  | .unit s' => s'
  | .wait s' => (s'.unbegun pc).setWaiting t true
  | .trap tr => (s.unbegun pc).takeTrap t tr pc pc (encode i)
  | .report s' tr => (s'.unbegun pc).takeTrap t tr pc pc (encode i)
  | .after s' tr =>
    let s1 := { s'.setPc t (s.pcOf t + 4) with pfx := none }.setWaiting t false
    s1.takeTrap t tr pc (s.pcOf t + 4) (encode i)
  | .fault c va lanes =>
    let s1 := s.unbegun pc
    if s1.handsToHandler t c then (s1.openRecord t i s.pfx c va lanes (!(shape i).lane && (shape i).place == .group)).setWaiting t true
    else s1.takeTrap t (Trap.translation c va lanes) pc pc (encode i)

/-- Issue a word: its checks, then its body. -/
def issue (i : Instr) (s : State) (body : ThreadId → State → Did) : Out :=
  .next (settle i s (match gate i s with
    | .run => body s.cur (s.begun i)
    | .wait => .wait s
    | .trap tr => .trap tr))

/-- A step of the device that has no word. -/
def event (s : State) : Out := .next s

end Sys2Proof.Machine
end

