-- ==== Sys2Proof/Machine/LaneInt.lean ====
section
/-! DEFINITION. The integer words of the lane set (R129 to R135). -/

namespace Sys2Proof.Machine

/-- R129: write one value per active lane to `v[r]`; every value is read from the state before the word. -/
def State.mapLanes (s : State) (t : ThreadId) (r : Nat) (f : Nat → W32) : State :=
  match t with
  | .gang g k => s.setGroup g ((s.group g).putLanes r (((s.group g).lanes k).map fun l => (l, f l)))
  | _ => s

/-- Write one predicate per active lane (R132). -/
def State.mapPreds (s : State) (t : ThreadId) (c : Nat) (f : Nat → Bool) : State :=
  match t with
  | .gang g k => s.setGroup g (((s.group g).lanes k).foldl (fun y l => y.putP c l (f l)) (s.group g))
  | _ => s

/-- An LA word of one result per lane (R129). -/
def State.laneBin (s : State) (t : ThreadId) (d a b : BitVec 7) (bs : BitVec 2) (f : W32 → W32 → W32) : State :=
  s.mapLanes t d.toNat fun l => f (s.laneReg t a.toNat l) (s.laneOperand t b bs l)

/-- A word of one source and an immediate (R135). -/
def State.laneUn (s : State) (t : ThreadId) (d a : BitVec 7) (f : W32 → W32) : State :=
  s.mapLanes t d.toNat fun l => f (s.laneReg t a.toNat l)

/-- `Sat(x, INT32)` and whether it clamped (R53). -/
def sat32 (x : Int) : W32 × Bool :=
  let y := clampInt (-2 ^ 31) (2 ^ 31 - 1) x
  (BitVec.ofInt 32 y, decide (y ≠ x))

/-- A word whose result may be clamped (R131): any clamp sets the group's SAT. -/
def State.laneSat (s : State) (t : ThreadId) (d : BitVec 7) (f : Nat → W32 × Bool) : State :=
  (s.mapLanes t d.toNat fun l => (f l).1).raiseFlags t (satFlag ((s.active t).any fun l => (f l).2))

/-- R131. -/
def execAdd (t : Bool) (d a b : BitVec 7) (bs : BitVec 2) (m : Bool) (s : State) : Out :=
  issue (.add t d a b bs m) s fun th s =>
    .done (if m then s.laneSat th d fun l => sat32 ((s.laneReg th a.toNat l).toInt + (s.laneOperand th b bs l).toInt)
      else s.laneBin th d a b bs (· + ·))

/-- R131. -/
def execSub (t : Bool) (d a b : BitVec 7) (bs : BitVec 2) (m : Bool) (s : State) : Out :=
  issue (.sub t d a b bs m) s fun th s =>
    .done (if m then s.laneSat th d fun l => sat32 ((s.laneReg th a.toNat l).toInt - (s.laneOperand th b bs l).toInt)
      else s.laneBin th d a b bs (· - ·))

/-- R131. -/
def execMul (t : Bool) (d a b : BitVec 7) (bs : BitVec 2) (s : State) : Out :=
  issue (.mul t d a b bs) s fun th s => .done (s.laneBin th d a b bs (· * ·))

/-- Bits [63:32] of the exact product (R131). -/
def mulHigh (u : Bool) (a b : W32) : W32 :=
  if u then ((a.setWidth 64 * b.setWidth 64) >>> 32).setWidth 32
  else ((a.signExtend 64 * b.signExtend 64) >>> 32).setWidth 32

/-- R131. -/
def execMulhi (t : Bool) (d a b : BitVec 7) (bs : BitVec 2) (m : Bool) (s : State) : Out :=
  issue (.mulhi t d a b bs m) s fun th s => .done (s.laneBin th d a b bs (mulHigh m))

/-- R131: a × b + d. -/
def execImad (t : Bool) (d a b : BitVec 7) (bs : BitVec 2) (s : State) : Out :=
  issue (.imad t d a b bs) s fun th s =>
    .done (s.mapLanes th d.toNat fun l =>
      s.laneReg th a.toNat l * s.laneOperand th b bs l + s.laneReg th d.toNat l)

/-- R131. -/
def execAnd (t : Bool) (d a b : BitVec 7) (bs : BitVec 2) (s : State) : Out :=
  issue (.and t d a b bs) s fun th s => .done (s.laneBin th d a b bs (· &&& ·))

/-- R131. -/
def execOr (t : Bool) (d a b : BitVec 7) (bs : BitVec 2) (s : State) : Out :=
  issue (.or t d a b bs) s fun th s => .done (s.laneBin th d a b bs (· ||| ·))

/-- R131. -/
def execXor (t : Bool) (d a b : BitVec 7) (bs : BitVec 2) (s : State) : Out :=
  issue (.xor t d a b bs) s fun th s => .done (s.laneBin th d a b bs (· ^^^ ·))

/-- R131: the amount is b[4:0]. -/
def execShl (t : Bool) (d a b : BitVec 7) (bs : BitVec 2) (s : State) : Out :=
  issue (.shl t d a b bs) s fun th s => .done (s.laneBin th d a b bs fun x y => x <<< (y.toNat % 32))

/-- A right shift, logical or arithmetic. -/
def shiftRight {n : Nat} (arith : Bool) (x : BitVec n) (k : Nat) : BitVec n := if arith then x.sshiftRight k else x >>> k

/-- R131. -/
def execShr (t : Bool) (d a b : BitVec 7) (bs : BitVec 2) (m : Bool) (s : State) : Out :=
  issue (.shr t d a b bs m) s fun th s => .done (s.laneBin th d a b bs fun x y => shiftRight m x (y.toNat % 32))

/-- The smaller, signed or unsigned. -/
def pickMin {n : Nat} (u : Bool) (x y : BitVec n) : BitVec n := if (if u then x.ule y else x.sle y) then x else y

/-- The larger, signed or unsigned. -/
def pickMax {n : Nat} (u : Bool) (x y : BitVec n) : BitVec n := if (if u then y.ule x else y.sle x) then x else y

/-- R131. -/
def execMin (t : Bool) (d a b : BitVec 7) (bs : BitVec 2) (m : Bool) (s : State) : Out :=
  issue (.min t d a b bs m) s fun th s => .done (s.laneBin th d a b bs (pickMin m))

/-- R131. -/
def execMax (t : Bool) (d a b : BitVec 7) (bs : BitVec 2) (m : Bool) (s : State) : Out :=
  issue (.max t d a b bs m) s fun th s => .done (s.laneBin th d a b bs (pickMax m))

/-- R132. -/
def execIcmp (t : Bool) (c : BitVec 4) (p : BitVec 3) (a b : BitVec 7) (bs : BitVec 2) (s : State) : Out :=
  issue (.icmp t c p a b bs) s fun th s =>
    .done (s.mapPreds th p.toNat fun l => intCond c.toNat (s.laneReg th a.toNat l) (s.laneOperand th b bs l))

/-- R132. -/
def execSel (t : Bool) (d a b : BitVec 7) (p : BitVec 3) (s : State) : Out :=
  issue (.sel t d a b p) s fun th s =>
    .done (s.mapLanes th d.toNat fun l =>
      if s.lanePred th p.toNat l then s.laneReg th a.toNat l else s.laneReg th b.toNat l)

/-- R133: the length of a field at a position: b[12:8], 0 meaning 32, cut at the top. -/
def fieldLen (b : W32) : Nat :=
  let len := b.toNat / 256 % 32
  Nat.min (if len = 0 then 32 else len) (32 - b.toNat % 32)

/-- R133: the field of a word, zero- or sign-extended. -/
def fieldExtract (a b : W32) : W32 :=
  let n := fieldLen b
  let x := a.toNat / 2 ^ (b.toNat % 32) % 2 ^ n
  if b.getLsbD 13 && decide (2 ^ (n - 1) ≤ x) then BitVec.ofNat 32 (x + 2 ^ 32 - 2 ^ n) else BitVec.ofNat 32 x

/-- R133: the low bits of a word placed in a clear one. -/
def fieldDeposit (a b : W32) : W32 := BitVec.ofNat 32 (a.toNat % 2 ^ fieldLen b * 2 ^ (b.toNat % 32))

/-- R133. -/
def execBfx (t : Bool) (d a b : BitVec 7) (bs : BitVec 2) (s : State) : Out :=
  issue (.bfx t d a b bs) s fun th s => .done (s.laneBin th d a b bs fieldExtract)

/-- R133. -/
def execBfi (t : Bool) (d a b : BitVec 7) (bs : BitVec 2) (s : State) : Out :=
  issue (.bfi t d a b bs) s fun th s => .done (s.laneBin th d a b bs fieldDeposit)

/-- R134: the result of a function code for one lane, and whether it was clamped. -/
def laneUnary (f : Nat) (sat : Bool) (l : Nat) (a : W32) : W32 × Bool :=
  match f with
  | 0 => (~~~a, false)
  | 1 => if sat then sat32 (-a.toInt) else (-a, false)
  | 2 => if sat then sat32 (if a.toInt < 0 then -a.toInt else a.toInt) else (if a.msb then -a else a, false)
  | 3 => (BitVec.ofNat 32 (clz a), false)
  | 4 => (BitVec.ofNat 32 (popCount a), false)
  | 5 => (bitReverse a, false)
  | 6 => ((a.setWidth 8).signExtend 32, false)
  | 7 => ((a.setWidth 16).signExtend 32, false)
  | 8 => (BitVec.ofNat 32 l, false)
  | _ => (BitVec.ofNat 32 (l / 4), false)

/-- R134. -/
def execIun (t : Bool) (d a f : BitVec 7) (m : Bool) (s : State) : Out :=
  issue (.iun t d a f m) s fun th s =>
    .done (s.laneSat th d fun l => laneUnary f.toNat m l (s.laneReg th a.toNat l))

/-- R135. -/
def execAddi (t : Bool) (d a : BitVec 7) (imm : BitVec 10) (s : State) : Out :=
  issue (.addi t d a imm) s fun th s => .done (s.laneUn th d a (· + (s.wideImm imm).setWidth 32))

/-- R135. -/
def execAndi (t : Bool) (d a : BitVec 7) (imm : BitVec 10) (s : State) : Out :=
  issue (.andi t d a imm) s fun th s => .done (s.laneUn th d a (· &&& (s.wideImm imm).setWidth 32))

/-- R135. -/
def execOri (t : Bool) (d a : BitVec 7) (imm : BitVec 10) (s : State) : Out :=
  issue (.ori t d a imm) s fun th s => .done (s.laneUn th d a (· ||| (s.wideImm imm).setWidth 32))

/-- R135. -/
def execXori (t : Bool) (d a : BitVec 7) (imm : BitVec 10) (s : State) : Out :=
  issue (.xori t d a imm) s fun th s => .done (s.laneUn th d a (· ^^^ (s.wideImm imm).setWidth 32))

/-- R135. -/
def execShli (t : Bool) (d a : BitVec 7) (imm : BitVec 5) (s : State) : Out :=
  issue (.shli t d a imm) s fun th s => .done (s.laneUn th d a (· <<< imm.toNat))

/-- R135. -/
def execShri (t : Bool) (d a : BitVec 7) (x : Bool) (imm : BitVec 5) (s : State) : Out :=
  issue (.shri t d a x imm) s fun th s => .done (s.laneUn th d a fun y => shiftRight x y imm.toNat)

/-- R135. -/
def execMovi (t : Bool) (d : BitVec 7) (imm : BitVec 17) (s : State) : Out :=
  issue (.movi t d imm) s fun th s => .done (s.mapLanes th d.toNat fun _ => (s.wideImm imm).setWidth 32)

/-- R132: the immediate is sign-extended to 32 bits. -/
def execIcmpi (t : Bool) (c : BitVec 4) (p : BitVec 3) (a : BitVec 7) (imm : BitVec 10) (s : State) : Out :=
  issue (.icmpi t c p a imm) s fun th s =>
    .done (s.mapPreds th p.toNat fun l => intCond c.toNat (s.laneReg th a.toNat l) ((s.wideImm imm).setWidth 32))

end Sys2Proof.Machine
end

