-- ==== Sys2Proof/Machine/LaneFloat.lean ====
section
/-! DEFINITION. The floating-point words of the lane set (R136 to R139). -/

namespace Sys2Proof.Machine

/-- The exceptions raised in any lane (R67). -/
def flagsOf (rs : List (Nat × W32 × Flags)) : Flags := rs.foldl (fun f e => f ||| e.2.2) 0

/-- The lanes that raised one of NV, DZ, OF, UF and NX (R68, R300). -/
def lanesRaised (rs : List (Nat × W32 × Flags)) : W32 :=
  laneMask ((rs.filter fun e => e.2.2.setWidth 5 != (0 : BitVec 5)).map (·.1))

/-- A floating-point result per active lane (R136): the flags, or the trap of an enabled exception (R68). -/
def State.laneFloat (s : State) (t : ThreadId) (d : BitVec 7) (f : Nat → W32 × Flags) : Did :=
  let rs := (s.active t).map fun l => (l, f l)
  if (s.uni t).enabled (flagsOf rs) then .trap (Trap.floating (flagsOf rs) (lanesRaised rs))
  else .done ((s.mapLanes t d.toNat fun l => (f l).1).raiseFlags t (flagsOf rs))

/-- A pattern and its flags as a lane value. -/
def laneValue (x : Nat × Flags) : W32 × Flags := (BitVec.ofNat 32 x.1, x.2)

/-- Operand B of an FP32 word: an immediate is converted exactly (R136). -/
def State.floatOperand (s : State) (t : ThreadId) (b : BitVec 7) (bs : BitVec 2) (l : Nat) : Nat :=
  if bs = 3 then (fp32.ofInt .rne false b.toInt).1 else (s.laneOperand t b bs l).toNat

/-- An FP32 word of two operands. -/
def State.floatBin (s : State) (t : ThreadId) (d a b : BitVec 7) (bs : BitVec 2) (f : Rm → Bool → Nat → Nat → Nat × Flags) : Did :=
  let u := s.uni t
  s.laneFloat t d fun l => laneValue (f u.rm u.ftz (s.laneReg t a.toNat l).toNat (s.floatOperand t b bs l))

/-- R136. -/
def execFadd (t : Bool) (d a b : BitVec 7) (bs : BitVec 2) (s : State) : Out :=
  issue (.fadd t d a b bs) s fun th s => s.floatBin th d a b bs fp32.addF

/-- R136. -/
def execFsub (t : Bool) (d a b : BitVec 7) (bs : BitVec 2) (s : State) : Out :=
  issue (.fsub t d a b bs) s fun th s => s.floatBin th d a b bs fp32.subF

/-- R136. -/
def execFmul (t : Bool) (d a b : BitVec 7) (bs : BitVec 2) (s : State) : Out :=
  issue (.fmul t d a b bs) s fun th s => s.floatBin th d a b bs fp32.mulF

/-- R136: a × b + d with one rounding. -/
def execFfma (t : Bool) (d a b : BitVec 7) (bs : BitVec 2) (s : State) : Out :=
  issue (.ffma t d a b bs) s fun th s =>
    s.laneFloat th d fun l => laneValue (fp32.fmaF (s.uni th).rm (s.uni th).ftz (s.laneReg th a.toNat l).toNat
      (s.floatOperand th b bs l) (s.laneReg th d.toNat l).toNat)

/-- R136, R66. -/
def execFmin (t : Bool) (d a b : BitVec 7) (bs : BitVec 2) (s : State) : Out :=
  issue (.fmin t d a b bs) s fun th s => s.floatBin th d a b bs fun _ ftz x y => fp32.minMax false ftz x y

/-- R136, R66. -/
def execFmax (t : Bool) (d a b : BitVec 7) (bs : BitVec 2) (s : State) : Out :=
  issue (.fmax t d a b bs) s fun th s => s.floatBin th d a b bs fun _ ftz x y => fp32.minMax true ftz x y

/-- R136: `fcmp` writes a predicate; with NVE set, Invalid traps and changes no predicate. -/
def execFcmp (t : Bool) (c : BitVec 4) (p : BitVec 3) (a b : BitVec 7) (bs : BitVec 2) (s : State) : Out :=
  issue (.fcmp t c p a b bs) s fun th s =>
    let one := fun l => fp32.cond (s.uni th).ftz c.toNat (s.laneReg th a.toNat l).toNat (s.floatOperand th b bs l)
    let rs := (s.active th).map fun l => (l, (0 : W32), (one l).2)
    if (s.uni th).enabled (flagsOf rs) then .trap (Trap.floating (flagsOf rs) (lanesRaised rs))
    else .done ((s.mapPreds th p.toNat fun l => (one l).1).raiseFlags th (flagsOf rs))

/-! ### `sfu` (R137): a free value within the bound where the model can decide the bound (assumption 3) -/

/-- The floor of log2 of m × 2^e, for m above 0. -/
def topExp (m : Nat) (e : Int) : Int := (Nat.log2 m : Int) + e

/-- m × 2^e is a power of two. -/
def isPow2 (m : Nat) : Bool := decide (2 ^ Nat.log2 m = m)

/-- The exponent of the spacing of FP32 at an exact result whose top exponent is t (R137: ulp). -/
def ulpExp (t : Int) : Int := max (t - 23) (-149)

/-- |c × 2^g × m × 2^e − 1| ≤ 2^u × m × 2^e: the value c × 2^g keeps the bound of one ulp about 1 ÷ (m × 2^e). -/
def rcpWithin (c : Nat) (g : Int) (m : Nat) (e u : Int) : Bool :=
  let low := min (min (g + e) 0) (u + e)
  let one : Int := (2 ^ (-low).toNat : Nat)
  let x : Int := (c * m * 2 ^ (g + e - low).toNat : Nat)
  let bound : Int := (m * 2 ^ (u + e - low).toNat : Nat)
  decide ((x - one).natAbs ≤ bound.natAbs)

/-- x² × m × 2^e compared with 1, for x = c × 2^g: at most 1. -/
def squareLe (c : Nat) (g : Int) (m : Nat) (e : Int) : Bool :=
  let k := 2 * g + e
  if 0 ≤ k then decide (c * c * m * 2 ^ k.toNat ≤ 1) else decide (c * c * m ≤ 2 ^ (-k).toNat)

/-- x² × m × 2^e is at least 1. -/
def squareGe (c : Nat) (g : Int) (m : Nat) (e : Int) : Bool :=
  let k := 2 * g + e
  if 0 ≤ k then decide (1 ≤ c * c * m * 2 ^ k.toNat) else decide (2 ^ (-k).toNat ≤ c * c * m)

/-- c × 2^g keeps the bound of two ulp about 1 ÷ √(m × 2^e), with the spacing 2^u. -/
def rsqWithin (c : Nat) (g : Int) (m : Nat) (e u : Int) : Bool :=
  let low := min g (u + 1)
  let x := c * 2 ^ (g - low).toNat
  let two := 2 ^ (u + 1 - low).toNat
  squareGe (x + two) low m e && (decide (x ≤ two) || squareLe (x - two) low m e)

/-- The top exponent of 1 ÷ √(m × 2^e). -/
def rsqTop (m : Nat) (e : Int) : Int :=
  let l := topExp m e
  if l % 2 = 0 then (if isPow2 m then -(l / 2) else -(l / 2) - 1) else -((l + 1) / 2)

/-- 1 ÷ √(m × 2^e) correctly rounded, with its flags. -/
def rsqExact (rm : Rm) (ftz : Bool) (m : Nat) (e : Int) : Nat × Flags :=
  let odd := (e % 2).toNat
  let n := m * 2 ^ odd
  let k := Nat.log2 n / 2 + 30
  let q := 2 ^ (2 * k) / n
  let r := isqrt q (Nat.log2 q / 2 + 1)
  fp32.roundTo rm ftz false false (2 * r + (if r * r * n = 2 ^ (2 * k) then 0 else 1)) (-(k : Int) - 1 - (e - odd) / 2)

/-- Deliver a free pattern when it keeps its bound, with the flags of R61 and R64 on the delivered result; the correctly
rounded result otherwise. DESIGN CHOICE (assumption 79): every zero and every subnormal delivered raises Underflow and Inexact, also
where the exact result is not tiny and only the absolute bound of R137 admits the zero. -/
def deliver (ftz : Bool) (cand : W32) (ok : Bool) (exact : Nat × Flags) : Nat × Flags :=
  if ok then
    let x := cand.toNat
    if x % 2 ^ 31 < 2 ^ 23 then (if ftz then (x / 2 ^ 31 * 2 ^ 31, Flags.ufnx) else (x, Flags.ufnx)) else (x, Flags.nx)
  else exact

/-- The pattern is finite, with its sign, magnitude and exponent. -/
def finite? (x : W32) : Option (Bool × Nat × Int) :=
  match fp32.unpack x.toNat with
  | .fin n m e => some (n, m, e)
  | _ => none

/-- `rcp`; one that overflows follows R61 in the dynamic mode (DESIGN CHOICE: assumption 61). -/
def sfuRcp (rm : Rm) (ftz : Bool) (cand : W32) (a : Nat) : Nat × Flags :=
  match fp32.read ftz a with
  | .nan s => fp32.quiet s
  | .inf n => (fp32.pack n 0, Flags.none)
  | .fin n m e =>
    if m = 0 then (fp32.pack n fp32.infCode, Flags.dz)
    else
      let exact := fp32.divF rm ftz 0x3F800000 a
      let t := if isPow2 m then -(topExp m e) else -(topExp m e) - 1
      let ok : Bool := match finite? cand with
        | some (k, c, g) => k == n && !isPow2 m && exact.2 &&& 4 == 0 && rcpWithin c g m e (ulpExp t)
        | none => false
      deliver ftz cand ok exact

/-- `rsq`. -/
def sfuRsq (rm : Rm) (ftz : Bool) (cand : W32) (a : Nat) : Nat × Flags :=
  match fp32.read ftz a with
  | .nan s => fp32.quiet s
  | .inf n => if n then fp32.invalid else (0, Flags.none)
  | .fin n m e =>
    if m = 0 then (fp32.pack n fp32.infCode, Flags.dz)
    else if n then fp32.invalid
    else
      let exact := rsqExact rm ftz m e
      let ok : Bool := match finite? cand with
        | some (k, c, g) => !k && rsqWithin c g m e (ulpExp (rsqTop m e))
        | none => false
      let (v, _) := deliver ftz cand ok exact
      if exact.2 &&& Flags.nx = 0 && v = exact.1 then exact else deliver ftz cand ok exact

/-! The functions of R137 that no finite computation gives exactly are computed in fixed point, in units of 2^-256, with an
error far below any bound of the table (assumption 3). -/

/-- 1 in fixed point. -/
def fixOne : Int := 2 ^ 256

/-- n × 2^e in fixed point. -/
def fixOf (n e : Int) : Int := if 0 ≤ e + 256 then n * 2 ^ (e + 256).toNat else n / 2 ^ (-(e + 256)).toNat

/-- The product of two fixed-point numbers. -/
def fixMul (x y : Int) : Int := x * y / fixOne

/-- p ÷ i + p × q ÷ (i + 2) + p × q² ÷ (i + 4) + …, `fuel` terms. -/
def oddSeries (q : Int) : Nat → Int → Int → Int
  | 0, _, _ => 0
  | fuel + 1, p, i => p / i + oddSeries q fuel (fixMul p q) (i + 2)

/-- The inverse hyperbolic tangent, for |z| at most 1/3. -/
def fixAtanh (z : Int) : Int := oddSeries (fixMul z z) 90 z 1

/-- The natural logarithm of 2, as 2 atanh(1/3). -/
def fixLn2 : Int := 2 * fixAtanh (fixOne / 3)

/-- π, as 16 atan(1/5) − 4 atan(1/239). -/
def fixPi : Int := 16 * oddSeries (-(fixOne / 25)) 60 (fixOne / 5) 1 - 4 * oddSeries (-(fixOne / 57121)) 20 (fixOne / 239) 1

/-- 1 + y (1 + y/2 (1 + y/3 (…))), from the term of number `n` outwards. -/
def expSeries (y : Int) : Nat → Int → Int
  | 0, acc => acc
  | n + 1, acc => expSeries y n (fixOne + fixMul y acc / (n + 1))

/-- e^y, for |y| at most 1. -/
def fixExp (y : Int) : Int := expSeries y 80 fixOne

/-- 1 − q/((2 + k)(1 + k)) (1 − q/((4 + k)(3 + k)) (…)): the cosine for k = 0, the sine over its argument for k = 1. -/
def trigSeries (q k : Int) : Nat → Int → Int
  | 0, acc => acc
  | n + 1, acc => trigSeries q k n (fixOne - fixMul q acc / ((2 * n + 2 + k) * (2 * n + 1 + k)))

/-- sin x or cos x. -/
def fixTrig (isCos : Bool) (x : Int) : Int :=
  let turn := 2 * fixPi
  let y := x - (2 * x + turn) / (2 * turn) * turn
  let q := fixMul y y
  if isCos then trigSeries q 0 50 fixOne else fixMul y (trigSeries q 1 50 fixOne)

/-- log₂ of x, for x from 1 to 2. -/
def fixLog2 (x : Int) : Int := 2 * fixAtanh ((x - fixOne) * fixOne / (x + fixOne)) * fixOne / fixLn2

/-- tanh x, for x from 0 to 32. -/
def fixTanh (x : Int) : Int :=
  let n := 2 * x / fixLn2
  let y := fixExp (2 * x - n * fixLn2) * 2 ^ n.toNat
  (y - fixOne) * fixOne / (y + fixOne)

/-- The pattern is a finite value within `tol` of v × 2^sh; v and `tol` are in fixed point, and 2^-240 stands for the error of
v. -/
def keepsBound (c : W32) (v sh tol : Int) : Bool :=
  match finite? c with
  | some (n, m, e) => decide ((fixOf (signedMant n m) (e - sh) - v).natAbs ≤ (tol + 2 ^ 16).natAbs)
  | none => false

/-- Deliver a free pattern when it is within `tol` of v × 2^sh; the nearest pattern otherwise. -/
def deliverNear (ftz : Bool) (cand : W32) (v sh tol : Int) : Nat × Flags :=
  if keepsBound cand v sh tol then deliver ftz cand true (0, Flags.none)
  else deliver ftz (BitVec.ofNat 32 (fp32.roundTo .rne false false (decide (v < 0)) v.natAbs (sh - 256)).1) true (0, Flags.none)

/-- Two ulp at v × 2^sh, in fixed point times 2^sh. -/
def twoUlp (v sh : Int) : Int := fixOf 2 (ulpExp ((Nat.log2 v.natAbs : Int) - 256 + sh) - sh)

/-- `exp2`: exact for integral a; elsewhere within 2 ulp. A delivered result at 2^128 overflows as R61 gives for RNE;
an exact one that is subnormal or smaller is rounded in the dynamic mode (DESIGN CHOICE: assumption 61). -/
def sfuExp2 (rm : Rm) (ftz : Bool) (cand : W32) (a : Nat) : Nat × Flags :=
  match fp32.read ftz a with
  | .nan s => fp32.quiet s
  | .inf n => (if n then 0 else fp32.infCode, Flags.none)
  | .fin n m e =>
    let (q, ix) := roundInt .rdn n m e
    let fl := signedMant n q
    if 128 ≤ fl then fp32.roundTo .rne ftz false false 1 128
    else if !ix then
      if fl < -400 then fp32.roundTo rm ftz false false 1 (-400) else fp32.roundTo rm ftz false false 1 fl
    else
      let sh := if fl < -400 then -400 else fl
      let v := fixExp (fixMul (fixOf (signedMant n m) e - fl * fixOne) fixLn2)
      if cand.toNat = fp32.infCode ∧ fl = 127 ∧ 2 * fixOne - v ≤ twoUlp v sh then fp32.roundTo .rne ftz false false 1 128
      else deliverNear ftz cand v sh (twoUlp v sh)

/-- `log2`: exact for powers of two; within 2^-22 for a in [0.5, 2], and 2 ulp elsewhere. -/
def sfuLog2 (ftz : Bool) (cand : W32) (a : Nat) : Nat × Flags :=
  match fp32.read ftz a with
  | .nan s => fp32.quiet s
  | .inf n => if n then fp32.invalid else (fp32.infCode, Flags.none)
  | .fin n m e =>
    if m = 0 then (fp32.pack true fp32.infCode, Flags.dz)
    else if n then fp32.invalid
    else if isPow2 m then fp32.ofInt .rne ftz (topExp m e)
    else
      let t := topExp m e
      let v := t * fixOne + fixLog2 (fixOf m (e - t))
      deliverNear ftz cand v 0 (if t = -1 ∨ t = 0 then fixOf 1 (-22) else twoUlp v 0)

/-- `sin`, `cos`: within 2^-21 for |a| up to 2^16; beyond, a value in [−1, 1]. -/
def sfuTrig (isCos ftz : Bool) (cand : W32) (a : Nat) : Nat × Flags :=
  match fp32.read ftz a with
  | .nan s => fp32.quiet s
  | .inf _ => fp32.invalid
  | .fin n m e =>
    if m = 0 then (if isCos then 0x3F800000 else fp32.pack n 0, Flags.none)
    else if a % 2 ^ 31 ≤ 0x47800000 then deliverNear ftz cand (fixTrig isCos (fixOf (signedMant n m) e)) 0 (fixOf 1 (-21))
    else deliver ftz (if cand.toNat % 2 ^ 31 ≤ 0x3F800000 then cand else 0x3F800000) true (0, Flags.none)

/-- `tanh`: within 2 ulp. Above 32 the result is 1 less a value below 2^-90. -/
def sfuTanh (ftz : Bool) (cand : W32) (a : Nat) : Nat × Flags :=
  match fp32.read ftz a with
  | .nan s => fp32.quiet s
  | .inf n => (fp32.pack n 0x3F800000, Flags.none)
  | .fin n m e =>
    if m = 0 then (fp32.pack n 0, Flags.none)
    else
      let v := if a % 2 ^ 31 ≤ 0x42000000 then fixTanh (fixOf m e) else fixOne - fixOf 1 (-90)
      deliverNear ftz cand (if n then -v else v) 0 (twoUlp v 0)

/-- `frac`. -/
def sfuFrac (rm : Rm) (ftz : Bool) (a : Nat) : Nat × Flags :=
  match fp32.read ftz a with
  | .nan s => fp32.quiet s
  | .inf _ => (0, Flags.none)
  | .fin n m e =>
    let (q, _) := roundInt .rdn n m e
    fp32.addVal rm ftz (.fin n m e) (.fin (!n) q 0)

/-- R137: an `sfu` function of one lane. -/
def sfuOp (f : Nat) (u : Uni) (a : W32) : Nat × Flags :=
  let cand := Config.sfuValue f a (u.fpctl.toNat % 8)
  let x := a.toNat
  match f with
  | 0x00 => sfuRcp u.rm u.ftz cand x
  | 0x01 => sfuRsq u.rm u.ftz cand x
  | 0x02 => fp32.sqrtF u.rm u.ftz x
  | 0x03 => sfuExp2 u.rm u.ftz cand x
  | 0x04 => sfuLog2 u.ftz cand x
  | 0x05 => sfuTrig false u.ftz cand x
  | 0x06 => sfuTrig true u.ftz cand x
  | 0x07 => sfuTanh u.ftz cand x
  | 0x08 => (x % 2 ^ 31, Flags.none)
  | 0x09 => ((a ^^^ 0x80000000).toNat, Flags.none)
  | 0x0A => fp32.integral .floor u.ftz x
  | 0x0B => fp32.integral .ceil u.ftz x
  | 0x0C => fp32.integral .trunc u.ftz x
  | 0x0D => fp32.integral (.rint u.rm) u.ftz x
  | _ => sfuFrac u.rm u.ftz x

/-- R137. -/
def execSfu (t : Bool) (d a f : BitVec 7) (s : State) : Out :=
  issue (.sfu t d a f) s fun th s =>
    s.laneFloat th d fun l => laneValue (sfuOp f.toNat (s.uni th) (s.laneReg th a.toNat l))

/-! ### Conversions (R138) -/

/-- An integer result of n bits in the low bits of a word. -/
def intResult (n : Nat) (x : Int × Flags) : Nat × Flags := ((BitVec.ofInt n x.1).toNat, x.2)

/-- R39, R65: a conversion kind, with rounding mode, or with the random bits of a stochastic one. -/
def cvtOp (k : Nat) (rm : Rm) (stoch : Option Nat) (ftz sat : Bool) (a : W32) : Nat × Flags :=
  let x := a.toNat
  let narrow := fun (f : Fmt) =>
    match stoch with
    | some r => f.stochastic ftz sat r (fp32.read ftz x)
    | none => f.convert rm ftz sat (fp32.read ftz x)
  match k with
  | 0x0 => intResult 32 (toInt rm (-2 ^ 31) (2 ^ 31 - 1) (fp32.read ftz x))
  | 0x1 => intResult 32 (toInt rm 0 (2 ^ 32 - 1) (fp32.read ftz x))
  | 0x2 => fp32.ofInt rm ftz a.toInt
  | 0x3 => fp32.ofInt rm ftz x
  | 0x4 => narrow fp16
  | 0x5 => fp32.convert rm ftz sat (fp16.read ftz (x % 2 ^ 16))
  | 0x6 => narrow bf16
  | 0x7 => fp32.convert rm ftz sat (bf16.read ftz (x % 2 ^ 16))
  | 0x8 => narrow e4m3
  | 0x9 => fp32.convert rm ftz false (e4m3.read ftz (x % 2 ^ 8))
  | 0xA => narrow e5m2
  | 0xB => fp32.convert rm ftz sat (e5m2.read ftz (x % 2 ^ 8))
  | 0xC => e2m1.convert rm ftz true (fp32.read ftz x)
  | 0xD => fp32.convert rm ftz false (e2m1.read ftz (x % 2 ^ 4))
  | 0xE => intResult 8 (toInt rm (-128) 127 (fp32.read ftz x))
  | _ => intResult 8 (toInt rm 0 255 (fp32.read ftz x))

/-- The generator of a lane (R62). -/
def Group.gen (x : Group) (l : Nat) : W32 := x.gens.getD l 1

/-- R62: step the generators of some lanes. -/
def State.stepGens (s : State) (t : ThreadId) : State :=
  match t with
  | .gang g _ =>
    let x := s.group g
    s.setGroup g { x with gens := (List.range 32).map fun l =>
      if (s.active t).contains l then genStep (x.gen l) else x.gen l }
  | _ => s

/-- The random bits a lane takes: r of its stepped generator (R62). -/
def State.randomBits (s : State) (t : ThreadId) (l : Nat) : Nat :=
  match t with
  | .gang g _ => (genStep ((s.group g).gen l)).toNat / 65536
  | _ => 0

/-- R138: rounding code 5 is stochastic; a trap steps no generator. -/
def execCvt (t : Bool) (d a : BitVec 7) (k : BitVec 4) (r : BitVec 3) (m : Bool) (s : State) : Out :=
  issue (.cvt t d a k r m) s fun th s =>
    let u := s.uni th
    let one := fun l => laneValue (cvtOp k.toNat (u.rounding r.toNat)
      (if r = 5 then some (s.randomBits th l) else none) u.ftz m (s.laneReg th a.toNat l))
    match s.laneFloat th d one with
    | .done s1 => .done (if r = 5 then s1.stepGens th else s1)
    | o => o

/-! ### Packed halves (R139) -/

/-- Element e of a word of two. -/
def half (x : W32) (e : Nat) : Nat := x.toNat / 2 ^ (16 * e) % 2 ^ 16

/-- Operand B of a packed word: an immediate is converted into both elements (R139). -/
def State.packedOperand (s : State) (t : ThreadId) (f : Fmt) (b : BitVec 7) (bs : BitVec 2) (l : Nat) : W32 :=
  if bs = 3 then BitVec.ofNat 32 ((f.ofInt .rne false b.toInt).1 * 65537) else s.laneOperand t b bs l

/-- A packed word: one operation on each element, the flags of both combined. -/
def packTwo (f : Nat → Nat × Flags) : W32 × Flags :=
  (BitVec.ofNat 32 ((f 0).1 + (f 1).1 * 65536), (f 0).2 ||| (f 1).2)

/-- M selects FP16 or BF16 (R139). -/
def halfFmt (m : Bool) : Fmt := if m then bf16 else fp16

/-- A packed word of two operands. -/
def State.packedBin (s : State) (t : ThreadId) (m : Bool) (d a b : BitVec 7) (bs : BitVec 2)
    (op : Rm → Bool → Nat → Nat → Nat × Flags) : Did :=
  let u := s.uni t
  s.laneFloat t d fun l => packTwo fun e =>
    op u.rm u.ftz (half (s.laneReg t a.toNat l) e) (half (s.packedOperand t (halfFmt m) b bs l) e)

/-- R139. -/
def execHadd2 (t : Bool) (d a b : BitVec 7) (bs : BitVec 2) (m : Bool) (s : State) : Out :=
  issue (.hadd2 t d a b bs m) s fun th s => s.packedBin th m d a b bs (halfFmt m).addF

/-- R139. -/
def execHmul2 (t : Bool) (d a b : BitVec 7) (bs : BitVec 2) (m : Bool) (s : State) : Out :=
  issue (.hmul2 t d a b bs m) s fun th s => s.packedBin th m d a b bs (halfFmt m).mulF

/-- R139. -/
def execHfma2 (t : Bool) (d a b : BitVec 7) (bs : BitVec 2) (m : Bool) (s : State) : Out :=
  issue (.hfma2 t d a b bs m) s fun th s =>
    let u := s.uni th
    s.laneFloat th d fun l => packTwo fun e =>
      (halfFmt m).fmaF u.rm u.ftz (half (s.laneReg th a.toNat l) e) (half (s.packedOperand th (halfFmt m) b bs l) e)
        (half (s.laneReg th d.toNat l) e)

end Sys2Proof.Machine
end

