-- ==== Sys2Proof/Machine/Pending.lean ====
section
/-! DEFINITION. The words of group code whose destination is filled later: loads, atomics, cross-lane words (R86, R130,
R220, R225). -/

namespace Sys2Proof.Machine

/-- Two accesses of one group that keep their program order (R85, R175, R198): they share a byte, or both are STRICT. -/
def LaneAcc.meets (x y : LaneAcc) : Bool :=
  (x.ty.isNone == y.ty.isNone && decide (x.addr < y.addr + y.size ∧ y.addr < x.addr + x.size)) ||
    (x.ty == some .strict && y.ty == some .strict)

/-- A pending access of the group, older than a request number, meets one of some accesses. -/
def State.meetsOlder (s : State) (g before : Nat) (xs : List LaneAcc) : Bool :=
  s.reqs.any fun e => e.2.group == g && decide (e.1 < before) && e.2.todo.any fun y => xs.any y.meets

/-- The group has an access that has not been performed and that a point of a scope orders (R199): PEER accesses only at
system scope (R177). At system scope it must be acknowledged too (R207, R373): an atomic's replies have come, and no posted
request of the thread is outstanding. -/
def State.pendingAny (s : State) (t : ThreadId) (scope : ScopeNo) : Bool :=
  (match t with
    | .gang g _ => s.reqs.any fun e => e.2.group == g &&
        ((!e.2.todo.isEmpty && e.2.inScope scope) || (scope == 4 && !e.2.sent.isEmpty))
    | _ => false) || (scope == 4 && s.outs.any fun e => e.2.poster == some (.thread (ownThread t)))

/-- A later store or atomic of the group would pass a pending access of the same bytes. -/
def State.blocked (s : State) (t : ThreadId) (xs : List LaneAcc) : Bool :=
  match t with
  | .gang g _ => s.meetsOlder g s.nextId xs
  | _ => false

/-- A register is empty. -/
def Group.emptyV (x : Group) (r : Nat) : Group := { x with vEmpty := setBit x.vEmpty r true }

/-- The registers a request fills. -/
def Group.emptyDest (x : Group) : Dest → Group
  | .v r pair => (regPair pair r).foldl Group.emptyV x
  | .two d a => (x.emptyV d).emptyV a
  | .w r => { x with uni := x.uni.emptyW r }
  | .nothing => x

/-- R86, R130, R220: issue a word whose destination is empty until its data returns. -/
def State.pushReq (s : State) (g : Nat) (r : Req) : State :=
  let s1 := s.setGroup g ((s.group g).emptyDest r.dst)
  { s1 with reqs := s1.reqs.insert s1.nextId { r with slices := (s.group g).sliceMask r.gang }, nextId := s1.nextId + 1 }

/-- R130: a cross-lane word, or another whose result is known at issue: its destination is empty until the result has been
written, by lane, or under 0 for a uniform register. -/
def State.pushResult (s : State) (t : ThreadId) (dst : Dest) (vals : Tbl W64) : State :=
  match t with
  | .gang g k => s.pushReq g { group := g, gang := k, dst := dst, todo := [], op := none, ord := 0, got := vals }
  | _ => s

/-- One register of a request takes its lanes' data, shifted down, and is full (R220, R310). -/
def Group.fillV (x : Group) (r : Req) (n sh : Nat) : Group :=
  let y := r.got.foldl (fun y e => y.putV n e.1 ((e.2 >>> sh).setWidth 32)) x
  { y with vEmpty := setBit y.vEmpty n false
           vPoison := r.bad.foldl (fun m l => setBit m (32 * n + l) true) y.vPoison }

/-- Fill a request's destination and mark it full (R220, R310). -/
def Group.fillDest (x : Group) (r : Req) : Group :=
  match r.dst with
  | .nothing => x
  | .w n =>
    let u := x.uni.putW n (r.got.get 0 0)
    { x with uni := if r.bad.isEmpty then u else u.poisonW n }
  | .v n pair => if pair then (x.fillV r n 0).fillV r (n + 1) 32 else x.fillV r n 0
  | .two d a => (x.fillV r d 0).fillV r a 32

/-- The lane registers a request fills. -/
def Dest.regs : Dest → List Nat
  | .v r pair => regPair pair r
  | .two d a => [d, a]
  | _ => []

end Sys2Proof.Machine
end

