-- ==== Sys2Proof/Machine/LaneCross.lean ====
section
/-! DEFINITION. The cross-lane words (R140 to R145) and the contribution to a jetty register (R122, R123). A destination is
empty from issue until the event that writes the result (R130, assumption 47). -/

namespace Sys2Proof.Machine

/-- Source lane of a `shfl` (R141). -/
inductive Pick where
  | pick
  | swap
  | back
  | fwd

/-- R141: the source of lane l for a selector. -/
def Pick.source (p : Pick) (l : Nat) (b : W32) : Option Nat :=
  let n := b.toNat % 32
  match p with
  | .pick => some n
  | .swap => some (l ^^^ n)
  | .back => if n ≤ l then some (l - n) else none
  | .fwd => if l + n < 32 then some (l + n) else none

/-- One value for each participant. -/
def State.byLane (s : State) (t : ThreadId) (f : Nat → W64) : Tbl W64 := (s.active t).map fun l => (l, f l)

/-- R130: a cross-lane word that writes one lane register. -/
def State.crossLanes (s : State) (t : ThreadId) (d : BitVec 7) (f : Nat → W32) : State :=
  s.pushResult t (.v d.toNat false) (s.byLane t fun l => (f l).setWidth 64)

/-- R130: a cross-lane word that writes a uniform register. -/
def State.crossUni (s : State) (t : ThreadId) (d : Nat) (x : W64) : State := s.pushResult t (.w d) [(0, x)]

/-- R141: every read precedes every write. -/
def State.shuffle (s : State) (t : ThreadId) (p : Pick) (d a b : BitVec 7) (bs : BitVec 2) : State :=
  s.crossLanes t d fun l =>
    match p.source l (s.laneOperand t b bs l) with
    | some n => if (s.active t).contains n then s.laneReg t a.toNat n else s.laneReg t d.toNat l
    | none => s.laneReg t d.toNat l

/-- R141. -/
def execShflPick (t : Bool) (d a b : BitVec 7) (bs : BitVec 2) (s : State) : Out :=
  issue (.shflPick t d a b bs) s fun th s => .done (s.shuffle th .pick d a b bs)

/-- R141. -/
def execShflSwap (t : Bool) (d a b : BitVec 7) (bs : BitVec 2) (s : State) : Out :=
  issue (.shflSwap t d a b bs) s fun th s => .done (s.shuffle th .swap d a b bs)

/-- R141. -/
def execShflBack (t : Bool) (d a b : BitVec 7) (bs : BitVec 2) (s : State) : Out :=
  issue (.shflBack t d a b bs) s fun th s => .done (s.shuffle th .back d a b bs)

/-- R141. -/
def execShflFwd (t : Bool) (d a b : BitVec 7) (bs : BitVec 2) (s : State) : Out :=
  issue (.shflFwd t d a b bs) s fun th s => .done (s.shuffle th .fwd d a b bs)

/-- R142. -/
def State.voteValue (s : State) (t : ThreadId) (a f : Nat) (inv : Bool) : W64 :=
  let ls := s.active t
  let holds := fun l => s.lanePred t a l != inv
  match f with
  | 0 => if ls.any holds then 1 else 0
  | 1 => if ls.all holds then 1 else 0
  | 2 => laneMask ls ++ laneMask (ls.filter holds)
  | _ =>
    match ls with
    | [] => 1
    | l :: rest => if rest.all fun n => s.laneReg t a n == s.laneReg t a l then 1 else 0

/-- R142. -/
def execVote (t : Bool) (d : BitVec 6) (a f : BitVec 7) (m : Bool) (s : State) : Out :=
  issue (.vote t d a f m) s fun th s => .done (s.crossUni th d.toNat (s.voteValue th a.toNat f.toNat m))

/-! ### Folds -/

/-- The operations of R40 on two 32-bit values; the FP32 ones with FTZ as given, rounding RNE (R119, R123, R143). -/
def foldOp (code : Nat) (ftz : Bool) (x y : W32) : W32 × Flags :=
  match code with
  | 0 => (x + y, 0)
  | 1 => (pickMin false x y, 0)
  | 2 => (pickMax false x y, 0)
  | 3 => (pickMin true x y, 0)
  | 4 => (pickMax true x y, 0)
  | 5 => (x &&& y, 0)
  | 6 => (x ||| y, 0)
  | 7 => (x ^^^ y, 0)
  | 8 => laneValue (fp32.addF .rne ftz x.toNat y.toNat)
  | 9 => laneValue (fp32.minMax false ftz x.toNat y.toNat)
  | _ => laneValue (fp32.minMax true ftz x.toNat y.toNat)

/-- The identity of an operation (R119, R143). -/
def foldId (code : Nat) : W32 :=
  match code with
  | 1 => 0x7FFFFFFF
  | 2 => 0x80000000
  | 3 => 0xFFFFFFFF
  | 5 => 0xFFFFFFFF
  | 8 => 0x80000000
  | 9 => 0x7FC00000
  | 10 => 0x7FC00000
  | _ => 0

/-- R119: `Start` extends `add`, `min` and `max` by sign, the others by zero. -/
def foldExtend (code : Nat) (x : W32) : W64 := if code < 3 then x.signExtend 64 else x.setWidth 64

/-- R143: one level of the tree: neighbours in pairs. -/
def foldLevel (code : Nat) (ftz : Bool) : List W32 → List W32 × Flags
  | x :: y :: rest =>
    let r := foldOp code ftz x y
    let q := foldLevel code ftz rest
    (r.1 :: q.1, r.2 ||| q.2)
  | l => (l, 0)

/-- R143: n levels of the tree. -/
def foldTree (code : Nat) (ftz : Bool) : Nat → List W32 × Flags → List W32 × Flags
  | 0, x => x
  | n + 1, x =>
    let r := foldLevel code ftz x.1
    foldTree code ftz n (r.1, x.2 ||| r.2)

/-- The participants' values by lane position, a non-participant giving the identity. -/
def State.foldInput (s : State) (t : ThreadId) (a code : Nat) : List W32 :=
  (List.range 32).map fun l => if (s.active t).contains l then s.laneReg t a l else foldId code

/-- R143: the folded value and the flags of every step. -/
def State.reduxValue (s : State) (t : ThreadId) (a code : Nat) : W32 × Flags :=
  let r := foldTree code (s.uni t).ftz 5 (s.foldInput t a code, 0)
  (r.1.headD 0, r.2)

/-- R143: the trap of a fold names every participant. -/
def State.foldTrap (s : State) (t : ThreadId) (f : Flags) : Trap := Trap.floating f (laneMask (s.active t))

/-- R143. -/
def execRedux (t : Bool) (d : BitVec 6) (a f : BitVec 7) (s : State) : Out :=
  issue (.redux t d a f) s fun th s =>
    let r := s.reduxValue th a.toNat f.toNat
    if (s.uni th).enabled r.2 then .trap (s.foldTrap th r.2)
    else .done ((s.crossUni th d.toNat (foldExtend f.toNat r.1)).raiseFlags th r.2)

/-- R116: the register is Armed. -/
def Jetty.armed (x : Jetty) : Bool := x.reduce && !x.full && x.exp != 0

/-- R122: one contribution to an Armed register (R123). -/
def Jetty.contribute (x : Jetty) (c : W32) : Jetty :=
  { x with
    value := foldExtend x.op.toNat (foldOp x.op.toNat false (x.value.setWidth 32) c).1
    arr := x.arr + 1
    full := x.arr + 1 == x.exp }

/-- The Jetty-Misuse trap (R125). -/
def Trap.jettyMisuse (cause j : Nat) : Trap := { kind := 0x0C, cause := cause, index := j }

/-- The Jetty-Busy trap (R125). -/
def Trap.jettyBusy (j : Nat) : Trap := { kind := 0x0B, index := j }

/-- R122, R143: the fold's own trap comes first, then the tests on the register; a cluster-scope release of the group's
earlier accesses (R176, R199). -/
def execContribution (t : Bool) (j : BitVec 6) (a f : BitVec 7) (s : State) : Out :=
  issue (.contribution t j a f) s fun th s =>
    let x := s.jetty (s.cptOf th) j.toNat
    let r := s.reduxValue th a.toNat f.toNat
    if (s.uni th).enabled r.2 then .trap (s.foldTrap th r.2)
    else if !x.reduce && x.full then .trap (Trap.jettyMisuse 2 j.toNat)
    else if x.armed && f.toNat != x.op.toNat then .trap (Trap.jettyMisuse 3 j.toNat)
    else if !x.armed then if t then .trap (Trap.jettyBusy j.toNat) else .wait s
    else if s.pendingAny th 2 then .wait s
    else .done (((s.flushStream (s.cptOf th)).setJetty (s.cptOf th) j.toNat (x.contribute r.1)).raiseFlags th r.2)

/-- R144: one step of a prefix: position l takes `Op(x[l − n], x[l])`. -/
def scanStep (code : Nat) (ftz : Bool) (n : Nat) (x : List W32) : List W32 × Flags :=
  let ys := (List.range 32).map fun l =>
    if n ≤ l then foldOp code ftz (x.getD (l - n) 0) (x.getD l 0) else (x.getD l 0, 0)
  (ys.map (·.1), ys.foldl (fun f y => f ||| y.2) 0)

/-- R144: the prefix over lane order. -/
def scanValues (code : Nat) (ftz ex : Bool) (x : List W32) : List W32 × Flags :=
  let r := [1, 2, 4, 8, 16].foldl (fun acc n =>
    let y := scanStep code ftz n acc.1
    (y.1, acc.2 ||| y.2)) (x, (0 : Flags))
  (if ex then foldId code :: r.1.dropLast else r.1, r.2)

/-- R144. -/
def execScan (t : Bool) (d a f : BitVec 7) (m : Bool) (s : State) : Out :=
  issue (.scan t d a f m) s fun th s =>
    let r := scanValues f.toNat (s.uni th).ftz m (s.foldInput th a.toNat f.toNat)
    if (s.uni th).enabled r.2 then .trap (s.foldTrap th r.2)
    else .done ((s.crossLanes th d fun l => r.1.getD l 0).raiseFlags th r.2)

/-- R145: the lane that lane l exchanges with, if any. -/
def State.cmpxPartner (s : State) (t : ThreadId) (d k j : Nat) (u : Bool) (l : Nat) : Option Nat :=
  let n := l ^^^ 2 ^ j
  let low := min l n
  let ls := s.active t
  if ls.contains l && ls.contains n then
    let x := s.laneReg t d low
    let y := s.laneReg t d (low + 2 ^ j)
    let asc := !low.testBit k
    let lt := fun (p q : W32) => if u then p.ult q else p.slt q
    if (if asc then lt y x else lt x y) then some n else none
  else none

/-- R145. -/
def execCmpx (t : Bool) (d a : BitVec 7) (k j : BitVec 3) (m : Bool) (s : State) : Out :=
  issue (.cmpx t d a k j m) s fun th s =>
    let from_ := fun l => (s.cmpxPartner th d.toNat k.toNat j.toNat m l).getD l
    .done (s.pushResult th (.two d.toNat a.toNat) (s.byLane th fun l =>
      s.laneReg th a.toNat (from_ l) ++ s.laneReg th d.toNat (from_ l)))

end Sys2Proof.Machine
end

