-- ==== Sys2Proof/Machine/LaneControl.lean ====
section
/-! DEFINITION. Divergence within a slice (R146 to R151), `regang` (R98), `exit` (R150) and barriers (R152 to R154). -/

namespace Sys2Proof.Machine

/-- `PC + Sext(offset, 21) × 4` on 64 bits (R87, R147): a place outside 0 to 2^48 − 1 has its high bits set. -/
def branchTarget (pc : Addr) (o : BitVec 21) : W64 := pc.setWidth 64 + o.signExtend 64 * 4

/-- The address is below 2^48. -/
def inRange (a : W64) : Bool := decide (a.toNat < 2 ^ 48)

/-- Change the slices of a thread's gang. -/
def State.mapSlices (s : State) (t : ThreadId) (f : Nat → Slice → Slice) : State :=
  match t with
  | .gang g k =>
    let x := s.group g
    s.setGroup g { x with slices := x.slices.mapIdx fun i sl => if sl.inGang k then f i sl else sl }
  | _ => s

/-- R97: renumber the gangs after slices have moved. -/
def State.regroup (s : State) (t : ThreadId) : State :=
  match t with
  | .gang g k => s.setGroup g ((s.group g).regroup k)
  | _ => s

/-- The slices of a thread's gang with their numbers. -/
def State.slicesOf (s : State) (t : ThreadId) : List (Nat × Slice) :=
  match t with
  | .gang g k => ((s.group g).slices.mapIdx fun i sl => (i, sl)).filter fun e => e.2.inGang k
  | _ => []

/-- The numbers of slices for which a test holds. -/
def maskOf (l : List (Nat × Slice)) (f : Nat → Slice → Bool) : BitVec 8 :=
  l.foldl (fun m e => if f e.1 e.2 then setBit m e.1 true else m) 0

/-- R147: once for each slice of the gang, whatever its mask. -/
def execJpt (o : BitVec 21) (s : State) : Out :=
  issue (.jpt o) s fun th s =>
    let a := branchTarget (s.pcOf th) o
    if inRange a then .done (s.mapSlices th fun _ sl => { sl with jp := some (a.setWidth 48) })
    else .trap (Trap.addressRange a)

/-- The lanes of a slice for which a predicate, perhaps inverted, holds (R148, R150). -/
def State.sliceCond (s : State) (t : ThreadId) (p : Nat) (inv : Bool) (i : Nat) (m : BitVec 4) : BitVec 4 :=
  (List.range 4).foldl (fun acc b => if m.getLsbD b && (s.lanePred t p (4 * i + b) != inv) then setBit acc b true else acc) 0

/-- R148, R151: the first slice whose split is not allowed decides the trap. DESIGN CHOICE (assumption 64): the record of a
Reconvergence-Overflow names the slice in INDEX. -/
def brdTrap (tk : Nat → Slice → BitVec 4) : List (Nat × Slice) → Option Trap
  | [] => none
  | (i, sl) :: rest =>
    if tk i sl ≠ sl.act ∧ tk i sl ≠ 0 then
      if sl.jp.isNone then some (Trap.convergence 3)
      else if 8 ≤ sl.stack.length then some { kind := 0x0A, index := i }
      else brdTrap tk rest
    else brdTrap tk rest

/-- R148: what `brd` does to one slice. -/
def Slice.branch (sl : Slice) (pc tgt : Addr) (tk : BitVec 4) : Slice :=
  if tk = sl.act then { sl with pc := tgt }
  else if tk = 0 then { sl with pc := pc + 4 }
  else { sl with
    stack := ⟨sl.jp.getD 0, sl.act, tgt, tk⟩ :: sl.stack
    act := sl.act &&& ~~~tk
    pc := pc + 4 }

/-- R148. -/
def execBrd (p : BitVec 3) (n : Bool) (o : BitVec 21) (s : State) : Out :=
  issue (.brd p n o) s fun th s =>
    let a := branchTarget (s.pcOf th) o
    let tk := fun i (sl : Slice) => s.sliceCond th p.toNat n i sl.act
    if !inRange a && (s.slicesOf th).any fun e => tk e.1 e.2 != 0 then .trap (Trap.addressRange a)
    else
      match brdTrap tk (s.slicesOf th) with
      | some tr => .trap tr
      | none => .moved ((s.mapSlices th fun i sl => sl.branch (s.pcOf th) (a.setWidth 48) (tk i sl)).regroup th)
          (maskOf (s.slicesOf th) fun i sl => tk i sl == sl.act)

/-- R98, R151; the arrival is a group-scope release (R195), so it waits for the group's earlier accesses. -/
def execRegang (t : Bool) (imm : BitVec 10) (s : State) : Out :=
  issue (.regang t imm) s fun th s =>
    if (s.slicesOf th).any fun e => !e.2.stack.isEmpty then .trap (Trap.convergence 2)
    else
      if s.pendingAny th 0 then .wait s
      else
        let s1 := s.mapSlices th fun _ sl => { sl with regang := some (sl.pc, imm, t) }
        .moved (match th with
          | .gang g _ => s1.settleRegang g
          | _ => s1) 0

/-- R150: lanes of one slice exit. -/
def Slice.exitLanes (sl : Slice) (pc : Addr) (x : BitVec 4) : Slice :=
  Slice.unwind { sl with
    act := sl.act &&& ~~~x
    live := sl.live &&& ~~~x
    stack := sl.stack.map fun e => { e with saved := e.saved &&& ~~~x, dmask := e.dmask &&& ~~~x }
    pc := pc + 4 } 17

/-- R150: lanes exit, and a slice with none left goes on where its stack says; the exit may complete a `regang` (R98) and the group may retire (R111). -/
def execExit (p : BitVec 3) (n : Bool) (s : State) : Out :=
  issue (.exit p n) s fun th s =>
    let out := fun i (sl : Slice) => s.sliceCond th p.toNat n i sl.act
    let s1 := (s.mapSlices th fun i sl => sl.exitLanes (s.pcOf th) (out i sl)).regroup th
    .moved (match th with
      | .gang g _ => s1.settleRegang g
      | _ => s1) (maskOf (s.slicesOf th) fun i sl => out i sl == sl.act)

/-- The Barrier-Misuse trap (R153). -/
def Trap.barrierMisuse (cause n : Nat) : Trap := { kind := 0x0D, cause := cause, index := n }

/-- R153: `cross` 0, `board` 1, `hold` 2. An arrival is a team-scope release (R154): it waits for the group's earlier
accesses. -/
def execBar (t : Bool) (y k : BitVec 2) (n : BitVec 4) (s : State) : Out :=
  issue (.bar t y k n) s fun th s =>
    match th with
    | .gang g gg =>
      let x := s.group g
      let tm := s.team x.team
      let b := tm.bars.get {} n.toNat
      let hold := fun (s : State) =>
        if k = 1 then s else s.setGroup g { s.group g with barHold := some n.toNat }
      let noted := fun (f : Tbl (List Note) → Nat → Nat → Tbl (List Note)) => tm.mapNoted fun m => f m x.num n.toNat
      if !x.whole gg then .trap (Trap.convergence 4)
      else if !(s.descOf x.team).inParty y.toNat x.num then .trap (Trap.barrierMisuse 1 n.toNat)
      else if k = 2 then .done (hold (s.setTeam x.team (if b.arrived.getLsbD x.num then tm else noted holdNotes)))
      else if b.arrived.getLsbD x.num then .wait s
      else if b.isOpen && b.party != y then .trap (Trap.barrierMisuse 2 n.toNat)
      else if s.pendingAny th 1 then .wait s
      else
        let b1 := { b with isOpen := true, party := if b.isOpen then b.party else y, arrived := setBit b.arrived x.num true }
        .done (((hold s).setTeam x.team { noted publishNotes with bars := tm.bars.put {} n.toNat b1 }).settleBarrier
          x.team n.toNat)
    | _ => .wait s

end Sys2Proof.Machine
end

