-- ==== Sys2Proof/Machine/Access.lean ====
section
/-! DEFINITION. What the memory words share: the pool (R185), watchpoints (R309), the checks of R219 lane by lane, pending
loads and atomics (R86, R220), and the report of a lost store (R342, R371). -/

namespace Sys2Proof.Machine

/-! ### The pool -/

/-- A byte of a team's scratchpad space (R185); one that nothing has written since placement is free (R109). -/
def State.poolByte (s : State) (team o : Nat) : Byte :=
  let x := s.team team
  let size := (s.descOf team).pool * 65536
  if o < size then (x.spad.find? o).getD (Config.poolByte team 0 o)
  else (x.near.find? (o - size)).getD (Config.poolByte team x.nearId (o - size))

/-- n bytes of scratchpad space, little-endian. -/
def State.poolRead (s : State) (team o : Nat) : Nat → Nat
  | 0 => 0
  | n + 1 => (s.poolByte team o).toNat + 256 * s.poolRead team (o + 1) n

/-- The key of a 64-byte piece's poison mark (R310): the exchange banks keep theirs across swaps. -/
def State.poolMark (s : State) (team o : Nat) : Nat :=
  let size := (s.descOf team).pool * 65536
  if o < size then o / 64 else (s.team team).nearId * 2 ^ 20 + (o - size) / 64

/-- R310: a byte of a piece of the pool is written: a piece whose 64 bytes have all been written loses its mark. -/
def Team.wipe (x : Team) (mark o : Nat) : Team :=
  if x.spadPoison = [] then x else { x with spadPoison := x.spadPoison.put 0 mark (setBit (x.spadPoison.get 0 mark) (o % 64) false) }

/-- Write n bytes of scratchpad space. -/
def State.poolWrite (s : State) (team o : Nat) (n v : Nat) : State :=
  match n with
  | 0 => s
  | n + 1 =>
    let x := s.team team
    let size := (s.descOf team).pool * 65536
    let b := BitVec.ofNat 8 v
    let y := if o < size then { x with spad := x.spad.insert o b } else { x with near := x.near.insert (o - size) b }
    (s.setTeam team (y.wipe (s.poolMark team o) o)).poolWrite team (o + 1) n (v / 256)

/-- A byte of the pool lies in a poisoned piece. -/
def State.poolBad (s : State) (team o : Nat) : Bool := (s.team team).spadPoison.get 0 (s.poolMark team o) != 0

/-- Mark or unmark the piece of a byte of the pool. -/
def State.setPoolBad (s : State) (team o : Nat) (b : Bool) : State :=
  s.setTeam team { s.team team with
    spadPoison := (s.team team).spadPoison.put 0 (s.poolMark team o) (if b then BitVec.allOnes 64 else 0) }

/-- The words of scratchpad space that n bytes at an offset lie in. -/
def wordsOf (o n : Nat) : List Nat := if n ≤ 4 then [o / 4] else [o / 4, o / 4 + 1]

/-- R214, R228: a lane of a group is about to store n bytes of scratchpad space. -/
def State.noteStore (s : State) (g o n : Nat) : State :=
  let x := s.group g
  s.setTeam x.team ((s.team x.team).mapNoted fun m =>
    (wordsOf o n).foldl (fun m w => addNote m w (BitVec.ofNat 32 (s.poolRead x.team (4 * w) 4)) x.num) m)

/-- R290, R243: a copy command of a group's batch writes a word of scratchpad space: the matrix engine and the stream unit see it once
the group has read the batch's status and then fenced; another copy command needs no fence. -/
def State.noteEngine (s : State) (g o batch : Nat) : State :=
  let x := s.group g
  let tm := s.team x.team
  s.setTeam x.team { tm with
    unfenced := addEngineNote tm.unfenced (o / 4) (BitVec.ofNat 32 (s.poolRead x.team (o / 4 * 4) 4)) x.num batch
    unasync := tm.unasync.erase (o / 4) }

/-- The matrix engine or the stream unit has written n bytes of scratchpad space in its own order: no older value of the words
is read any more (R243). -/
def State.forgetNotes (s : State) (team o n : Nat) : State :=
  let keep := fun (e : Nat × List Note) => decide (e.1 < o / 4 ∨ (o + n + 3) / 4 ≤ e.1)
  s.setTeam team { s.team team with unfenced := (s.team team).unfenced.filter keep, unasync := (s.team team).unasync.filter keep }

/-- R197, R212, R214: the aligned word of scratchpad space that an engine reads for a group: where stores to it are not
covered by a fence of the group, a value from before one of them or the value now, a free choice (assumption 5). -/
def State.poolSeen (s : State) (g : Nat) (async : Bool) (o pick : Nat) : Nat :=
  let x := s.group g
  let tm := s.team x.team
  let now := s.poolRead x.team (o / 4 * 4) 4
  match staleValues ((if async then tm.unasync else tm.unfenced).get [] (o / 4)) x.num with
  | [] => now
  | old :: more => (((old :: more).map (·.toNat))[(Config.freeWord pick).toNat % (more.length + 2)]?).getD now

/-! ### Watchpoints -/

/-- R309: an entry is enabled and its range meets n bytes from an address, in a direction. -/
def watchMeets (e : Nat) (pool rd wr : Bool) (a n : Nat) : Bool :=
  let base := e % 2 ^ 64
  let size := e / 2 ^ 67 % 32
  let on := decide (e / 2 ^ 72 = 0 ∧ 3 ≤ size ∧ size ≤ 21 ∧ base % 2 ^ size = 0)
  on && e.testBit 66 == pool && ((rd && e.testBit 64) || (wr && e.testBit 65))
    && decide (a < base + 2 ^ size ∧ base < a + n)

/-- R309, R335: the lowest entry of a context's record that meets an access; the record is read at each use. -/
def State.watchHit (s : State) (part ctx : Nat) (pool rd wr : Bool) (a n : Nat) : Option Nat :=
  if ctx = 0 then none
  else (List.range 4).find? fun i =>
    watchMeets (s.siteEntry (realPart part) ((s.part part).ctxtab + 256 * ctx + 64 + 16 * i) 16) pool rd wr a n

/-- The Watchpoint trap. -/
def Trap.watch (i : Nat) (a : W64) (lanes : W32) : Trap := { kind := 0x15, addr := a, lanes := lanes, index := i }

/-- The watchpoint a thread's access meets; service threads and the monitor have none. -/
def State.watched (s : State) (t : ThreadId) (pool rd wr : Bool) (a n : Nat) : Option Nat :=
  s.watchHit (s.partOf t) (s.ctxOf t) pool rd wr a n

/-! ### Checks lane by lane (R219) -/

/-- One step of R219: the lowest failing lane gives the trap, all failing lanes its mask. -/
def laneFails (xs : List (Nat × W64)) (bad : W64 → Bool) (mk : W64 → W32 → Trap) : Option Trap :=
  match xs.filter fun e => bad e.2 with
  | [] => none
  | e :: rest => some (mk e.2 (laneMask ((e :: rest).map (·.1))))

/-- Translate one address after another. -/
def State.translateAll (s : State) (sp : Space) (k : AccKind) (user : Bool) :
    List (Nat × W64) → State × List (Nat × W64 × Except Nat Phys)
  | [] => (s, [])
  | e :: rest =>
    let r := s.translate sp e.2.toNat k user
    let q := r.1.translateAll sp k user rest
    (q.1, (e.1, e.2, r.2) :: q.2)

/-- The translated accesses, or the cause, address and lanes of the fault (R180). -/
def gather? : List (Nat × W64 × Except Nat Phys) → Except (Nat × W64 × W32) (List (Nat × W64 × Phys))
  | rs =>
    let bad := rs.filterMap fun e => match e.2.2 with
      | .error c => some (e.1, e.2.1, c)
      | .ok _ => none
    match bad with
    | e :: rest => .error (e.2.2, e.2.1, laneMask ((e :: rest).map (·.1)))
    | [] => .ok (rs.filterMap fun e => match e.2.2 with
      | .ok p => some (e.1, e.2.1, p)
      | .error _ => none)

/-- What the checks of a memory word come to. -/
inductive Checked where
  | ok (s : State) (ps : List (Nat × W64 × Phys))
  | stop (d : Did)

/-- R367: the lines of HBM that an access would fill while the host may hold them: the access waits (assumption 40). -/
def State.hostWait (s : State) (ps : List Phys) : Option State := s.snoopHost (ps.map fun p => p.pa / 128)

/-- R367: a word goes from one state to another, or waits for the host. -/
def State.doneUnlessFills (s t : State) : Did :=
  match s.filledHeld t with
  | some w => .wait w
  | none => .done t

/-- Steps 4 and 5 of R219 for accesses of n bytes; a walk whose entries' lines the host may hold waits (R367). -/
def State.checkPages (s : State) (t : ThreadId) (k : AccKind) (rd wr : Bool) (n : Nat) (xs : List (Nat × W64)) : Checked :=
  match s.snoopHost (xs.flatMap fun e => s.walkLines (s.spaceOf t) e.2.toNat) with
  | some s1 => .stop (.wait s1)
  | none =>
  let r := s.translateAll (s.spaceOf t) k (levelOf t == 0) xs
  match gather? r.2 with
  | .error (c, a, lanes) => .stop (.fault c a lanes)
  | .ok ps =>
    match (xs.filterMap fun e => (s.watched t false rd wr e.2.toNat n).map fun i => (e, i)) with
    | [] =>
      match if rd && !isGang t then r.1.hostWait (ps.map fun e => e.2.2) else none with
      | some s1 => .stop (.wait s1)
      | none => .ok r.1 ps
    | (e, i) :: rest => .stop (.trap (Trap.watch i e.2 (laneMask (((e, i) :: rest).map fun x => x.1.1))))

/-- Steps 2 to 5 of R219 for a virtual access of n bytes (R21, R180, R309). -/
def State.checkVirtual (s : State) (t : ThreadId) (k : AccKind) (rd wr : Bool) (n : Nat) (xs : List (Nat × W64)) : Checked :=
  match laneFails xs (fun a => !inRange a) (fun a m => Trap.addressRange a m) with
  | some tr => .stop (.trap tr)
  | none =>
    match laneFails xs (fun a => a.toNat % n != 0) (fun a m => Trap.misaligned a m) with
    | some tr => .stop (.trap tr)
    | none => s.checkPages t k rd wr n xs

/-! ### Lost stores (R342, R371) -/

/-- The lost stores of a thread: of a gang (R195), those that its slices hold. -/
def State.lost (s : State) (t : ThreadId) : Option W64 × Option W64 :=
  match t with
  | .gang g k =>
    let here := (s.group g).slices.filter (Slice.inGang k)
    (here.findSome? (·.dropped), here.findSome? (·.refused))
  | t => ((s.scalar t).dropped, (s.scalar t).refused)

/-- Change the lowest slice of a gang. -/
def Group.mapLowest (x : Group) (k : Nat) (f : Slice → Slice) : Group :=
  match x.slices.findIdx? (Slice.inGang k) with
  | some i => { x with slices := x.slices.modify i f }
  | none => x

/-- Note how a store of a thread ended; the first address lost is kept. -/
def State.markStore (s : State) (t : ThreadId) (va : W64) (e : StoreEnd) : State :=
  match e with
  | .stored => s
  | .dropped =>
    if (s.lost t).1.isSome then s
    else
      match t with
      | .gang g k => s.setGroup g ((s.group g).mapLowest k fun sl => { sl with dropped := some va })
      | t => s.setScalar t { s.scalar t with dropped := some va }
  | .refused =>
    if (s.lost t).2.isSome then s
    else
      match t with
      | .gang g k => s.setGroup g ((s.group g).mapLowest k fun sl => { sl with refused := some va })
      | t => s.setScalar t { s.scalar t with refused := some va }

/-- Forget a dropped or a refused store that has been reported. -/
def State.clearLost (s : State) (t : ThreadId) (peer : Bool) : State :=
  match t with
  | .gang g k =>
    let x := s.group g
    s.setGroup g (x.mapGang k fun sl => if peer then { sl with refused := none } else { sl with dropped := none })
  | t =>
    let x := s.scalar t
    s.setScalar t (if peer then { x with refused := none } else { x with dropped := none })

/-- R342, R371: the Poison trap that a release or fence of a scope takes for a store that was lost: the thread's, its
cluster's write-back, or at system scope one refused by a peer. The report is used up. -/
def State.lostReport (s : State) (t : ThreadId) (scope : ScopeNo) : Option (State × Trap) :=
  let cpt := s.cptOf t
  if scope < 3 then none
  else
    match (s.lost t).1, (s.acc cpt).dropped, (s.lost t).2 with
    | some a, _, _ => some (s.clearLost t false, { kind := 0x16, addr := a })
    | none, some a, _ => some (s.setAcc cpt { s.acc cpt with dropped := none }, { kind := 0x16, addr := a })
    | none, none, some a => if scope = 4 then some (s.clearLost t true, { kind := 0x16, addr := a }) else none
    | none, none, none => none

end Sys2Proof.Machine
end

