-- ==== Sys2Proof/Machine/Parking.lean ====
section
/-! DEFINITION. Parking (R304): the park record of a group slot (R335), how a group gives up its slot, and how it comes
back. -/

namespace Sys2Proof.Machine

/-- R335: a group slot's park record, in the order of the trap records (assumption 13). -/
def State.parkAddr (s : State) (g : Nat) : Nat :=
  let t := ThreadId.gang g 0
  (s.ctx (s.partOf t) (s.ctxOf t)).info.parkarea + 20480 * (s.recIndex t - 256)

/-- Sixteen 32-bit values as a number, the first lowest. -/
def pack32 (f : Nat → W32) : Nat := (List.range 16).foldl (fun a k => a + (f k).toNat * 2 ^ (32 * k)) 0

/-- Eight 64-bit values as a number, the first lowest. -/
def pack64 (f : Nat → W64) : Nat := (List.range 8).foldl (fun a k => a + (f k).toNat * 2 ^ (64 * k)) 0

/-- R335: the 64-byte pieces of a group's park record: offset and content. -/
def Group.parkPieces (x : Group) : List (Nat × Nat) :=
  (List.range (2 * x.budget)).map (fun i => (64 * i, pack32 fun k => x.getV (i / 2) (16 * (i % 2) + k))) ++
    (List.range 8).map fun i => (16384 + 64 * i, pack64 fun k => x.uni.getW (8 * i + k))

/-- Write a group's registers to an address of its context. -/
def State.writePieces (s : State) (part ctx cpt base : Nat) (l : List (Nat × Nat)) : State :=
  l.foldl (fun t e => t.deviceWrite part ctx cpt (base + e.1) 64 e.2) s

/-- R304, R241: a group parks only after its commands have completed, their statuses have filled, and its own results have
come. -/
def State.mayPark (s : State) (t : ThreadId) : Bool :=
  match t with
  | .gang g _ => (s.openCmds g).isEmpty && (s.group g).closed.isEmpty && !(s.reqs.any fun e => e.2.group == g)
  | _ => true

/-- R304: a group parks: its registers go to its park record and its slot is free; its weight set is lost. One that a halt
had reached stops (R299). -/
def State.parkGroup (s : State) (g : Nat) (why : Park) : State :=
  let x := s.group g
  let t := ThreadId.gang g 0
  let s1 := s.writePieces (s.partOf t) (s.ctxOf t) (s.cptOf t) (s.parkAddr g) x.parkPieces
  let s2 := s1.setGroup g { s1.group g with
    mode := .parked why false, slot := none, lastRec := s.recIndex t, parkAt := s.parkAddr g, takeAt := none, wset := none }
  match x.mode with
  | .halting _ skid => (s2.stopGroup g skid).finishHalt x.team
  | _ => s2

/-- What a parked group waits for changes. -/
def State.parkedFor (s : State) (g : Nat) (why : Park) : State :=
  match (s.group g).mode with
  | .parked _ f => s.setGroup g { s.group g with mode := .parked why f }
  | _ => s

/-- R308: a group with its step flag takes Single-Step after a word that it completed while it was parked. -/
def State.stepParked (s : State) (t : ThreadId) (pc : Addr) : State :=
  match t with
  | .gang g _ =>
    match (s.group g).mode with
    | .parked _ false => if (s.group g).step then s.takeTrap t { kind := 0x19 } pc (s.pcOf t) (s.wordAt t pc) else s
    | _ => s
  | _ => s

/-- 64 bytes of the device's own reading, at their target, and whether they come poisoned (R310, R342, R371); none where the page does
not translate. -/
def State.deviceRead (s : State) (part ctx va : Nat) : State × Option (Nat × Bool) :=
  match s.translate (.ctx part ctx (1280 + realPart part)) va .load false with
  | (s1, .ok p) => (s1.siteTouch (realPart part) (256 + realPart part) p 64 (s.tagOf part ctx), some (s1.siteValue (realPart part) p 64))
  | (s1, .error _) => (s1, none)

/-- R306, R310: a group's registers as its park record now stands; those of a poisoned sector of it are poisoned, and the others
keep their marks, as every register keeps its presence. -/
def State.reloadPark (s : State) (g : Nat) : State :=
  let t := ThreadId.gang g 0
  let base := (s.group g).parkAt
  let s1 := (List.range (2 * (s.group g).budget)).foldl (fun a i =>
    match a.deviceRead (s.partOf t) (s.ctxOf t) (base + 64 * i) with
    | (b, none) => b
    | (b, some (v, bad)) => b.setGroup g { b.group g with
        v := (List.range 16).foldl (fun m k =>
          m.put 0 (16 * i + k) (BitVec.ofNat 32 (v / 2 ^ (32 * k)))) (b.group g).v
        vPoison := if bad then (List.range 16).foldl (fun m k => setBit m (16 * i + k) true) (b.group g).vPoison
          else (b.group g).vPoison }) s
  (List.range 8).foldl (fun a i =>
    match a.deviceRead (s.partOf t) (s.ctxOf t) (base + 16384 + 64 * i) with
    | (b, none) => b
    | (b, some (v, bad)) =>
      let u := (b.group g).uni
      let u1 := { u with w := (List.range 8).foldl (fun m k =>
          if i + k = 0 then m else m.put 0 (8 * i + k) (BitVec.ofNat 64 (v / 2 ^ (64 * k)))) u.w }
      b.setGroup g { b.group g with uni := if bad then (List.range 8).foldl (fun (x : Uni) k => x.poisonW (8 * i + k)) u1 else u1 }) s1

/-- R304: a parked group whose reply has come takes a free slot of its scheduler. -/
def State.unparkGroup (s : State) (g : Nat) : State :=
  let x := s.group g
  let tm := s.team x.team
  match x.mode with
  | .parked .ready false =>
    let held := s.groups.filterMap fun e =>
      let y := s.team e.2.team
      if y.placed && y.cluster == tm.cluster && y.core == tm.core && e.2.sched == x.sched then e.2.slot else none
    match (List.range 12).find? fun i => !held.contains i with
    | some i => if tm.placed then s.setGroup g { x with mode := .run, slot := some i } else s
    | none => s
  | _ => s

end Sys2Proof.Machine
end

