-- ==== Sys2Proof/Machine/HailUnit.lean ====
section
/-! DEFINITION. The hail unit (R316 to R319, R323, R325): a context's vectors, acceptance, and delivery to a taker. -/

namespace Sys2Proof.Machine

/-- Change a vector. -/
def State.modVec (s : State) (part ctx v : Nat) (f : HVec → HVec) : State :=
  s.modCtx part ctx fun c => { c with vecs := c.vecs.put {} v (f (c.vecs.get {} v)) }

/-- R316. -/
def HVec.deliverable (x : HVec) : Bool := x.pend && !x.mask && !x.isv

/-- R316: some vector of the context is deliverable. -/
def State.hailDeliverable (s : State) (part ctx : Nat) : Bool :=
  (s.ctx part ctx).vecs.any fun e => e.2.deliverable

/-- R318: the sender identifier of a thread of this package. -/
def State.senderId (s : State) (t : ThreadId) : W32 :=
  BitVec.ofNat 32 (s.partOf t * 2 ^ 16 + (if levelOf t = 0 then s.ctxOf t else 255))

/-- R317. -/
def State.permitted (s : State) (part ctx : Nat) (sender : W32) (v : Nat) : Bool :=
  sender == BitVec.ofNat 32 (realPart part * 2 ^ 16 + ctx) ||
    (s.ctx part ctx).perm.any fun e => e.2.setWidth 32 == sender && e.2.getLsbD (32 + v)

/-- R319: a hail joins a vector. -/
def HVec.coalesce (x : HVec) (m : HailMsg) : HVec :=
  if x.pend = false then { x with pend := true, count := 1, payload := m.payload, sender := m.sender, sig := m.sig }
  else
    let y : HVec := { (if x.count = BitVec.allOnes 16 then { x with sat := true } else { x with count := x.count + 1 }) with
      sig := x.sig ||| m.sig }
    if x.policy = 1 then { y with payload := m.payload, sender := m.sender }
    else if x.policy = 2 then { y with payload := y.payload + m.payload, sender := m.sender }
    else if x.policy = 3 then { y with payload := y.payload ||| m.payload, sender := m.sender }
    else y

/-- R323: a hail with WAKE for a context that is not resident asks for its return. -/
def State.wake (s : State) (part ctx v : Nat) : State :=
  match (s.ctx part ctx).phase with
  | .saved => s.notify part 2 ctx v
  | .saving => s.modCtx part ctx fun c => { c with wakeDue := c.wakeDue.orElse fun _ => some v }
  | _ => s

/-- R319: the acceptance of one hail. -/
def State.acceptHail (s : State) (m : HailMsg) : State :=
  if (s.ctx m.part m.ctx).phase = .none then s.countLerr (realPart m.part)
  else if 31 < m.vec ∨ s.permitted m.part m.ctx m.sender m.vec = false then
    s.modCtx m.part m.ctx fun c => { c with drops := if c.drops = BitVec.allOnes 32 then c.drops else c.drops + 1 }
  else
    let s1 := s.modVec m.part m.ctx m.vec fun x => x.coalesce m
    let x := s.vec m.part m.ctx m.vec
    if x.wake && !x.mask then s1.wake m.part m.ctx m.vec else s1

/-- R325: the first word of a delivery. -/
def HVec.word (x : HVec) (v : Nat) : W64 :=
  BitVec.ofNat 64 (v + x.sat.toNat * 2 ^ 8 + x.count.toNat * 2 ^ 16 + x.sender.toNat * 2 ^ 32)

/-- R325: the handler of a vector for a taker of lane or spine code. -/
def Desc.handlerOf (d : Desc) (v : Nat) (spine : Bool) : Option Addr :=
  (d.hails.find? fun e => e / 2 ^ 32 % 32 == v && e.testBit 38 == spine).map fun e =>
    BitVec.ofNat 48 (d.base + e % 2 ^ 32)

/-- The vector a thread serves (R326). -/
def State.servingOf (s : State) (t : ThreadId) : Option Nat :=
  match t with
  | .gang g _ => (s.group g).serving
  | t => (s.scalar t).serving

/-- Set the vector a thread serves and the address of its take. -/
def State.setServing (s : State) (t : ThreadId) (v : Option Nat) (ret : Addr) : State :=
  match t with
  | .gang g _ => s.setGroup g { s.group g with serving := v, retpc := ret }
  | t => s.setScalar t { s.scalar t with serving := v, retpc := ret }

/-- R326: the thread is released from the vector it serves. -/
def State.endService (s : State) (t : ThreadId) : State :=
  match s.servingOf t with
  | some v => (s.modVec (s.partOf t) (s.ctxOf t) v fun x => { x with isv := false }).setServing t none 0
  | none => s

/-- R325: a deliverable vector of VSET, the lowest. -/
def State.pickVector (s : State) (part ctx : Nat) (vset : W64) : Option Nat :=
  (List.range 32).find? fun v => vset.getLsbD v && (s.vec part ctx v).deliverable

/-- R320, R86: a register that a word fills at its end: in group code, if there is one, it is empty until then. -/
def State.putLater (s : State) (t : ThreadId) (d : Nat) (v : W64) : State :=
  if isGang t && decide (d ≠ 0) then s.pushResult t (.w d) [(0, v)] else s.putW t d v

/-- R325: the delivery of vector v to a taker whose take stands at `ret`: its registers, which a group whose take finds the vector
at once has empty until then (R320), the vector's new state, the acquire; and where the taker goes on. -/
def State.deliverTo (s : State) (t : ThreadId) (d v : Nat) (ret : Addr) (atOnce : Bool := false) : State × Addr :=
  let part := s.partOf t
  let ctx := s.ctxOf t
  let x := s.vec part ctx v
  let put := fun (u : State) (r : Nat) (w : W64) => if atOnce then u.putLater t r w else u.putW t r w
  let s1 := put (put s d (x.word v)) (d + 1) x.payload
  let s2 := s1.modVec part ctx v fun x =>
    { x with pend := false, count := 0, sat := false, payload := 0, sender := 0, sig := 0, isv := true }
  let s3 := (s2.setServing t (some v) ret).foldHail (s.cptOf t) x.sig
  (s3, ((s.grid (s.gridOf t)).desc.handlerOf v (!isGang t)).getD (ret + 4))

/-- R325: the threads of a context that wait in a take, parked, about to park or in place, with their wait's place in order. -/
def State.takers (s : State) (part ctx : Nat) : List (Nat × ThreadId × Nat × Nat) :=
  (s.groups.filterMap fun e =>
    let tm := s.team e.2.team
    match e.2.mode with
    | .parked (.take d a n) false =>
      if tm.part == part && tm.ctx == ctx && tm.placed then some (n, ThreadId.gang e.1 e.2.lowGang, d, a) else none
    | .run =>
      match e.2.takeAt with
      | some (d, a, n) =>
        if tm.part == part && tm.ctx == ctx && tm.placed then some (n, ThreadId.gang e.1 e.2.lowGang, d, a) else none
      | none => none
    | _ => none) ++
  (s.spines.filterMap fun e =>
    match e.2.th.mode with
    | .taking d a n => if e.2.th.part == part && e.2.th.ctx == ctx && decide (e.1 < 256) then some (n, ThreadId.spine e.1, d, a)
      else none
    | _ => none)

/-- Insert a waiting taker by its place in order. -/
def insertTaker (x : Nat × ThreadId × Nat × Nat) :
    List (Nat × ThreadId × Nat × Nat) → List (Nat × ThreadId × Nat × Nat)
  | [] => [x]
  | y :: t => if x.1 < y.1 then x :: y :: t else y :: insertTaker x t

/-- R325: a waiting taker gets a deliverable vector and goes on. -/
def State.serveTaker (s : State) (x : Nat × ThreadId × Nat × Nat) : State :=
  let t := x.2.1
  match s.pickVector (s.partOf t) (s.ctxOf t) (s.getW t x.2.2.2) with
  | none => s
  | some v =>
    let r := s.deliverTo t x.2.2.1 v (s.pcOf t)
    let s1 := (r.1.setPc t r.2).setWaiting t false
    match t with
    | .gang g _ => ({ s1 with groups := s1.groups.modify g fun x => { x with takeAt := none } }.parkedFor g .ready).stepParked t (s.pcOf t)
    | t => s1.setScalar t { s1.scalar t with mode := .run }

/-- R325: every deliverable vector of a context on its clusters goes to the taker that has waited longest, until its save
begins (R333 step 4). -/
def State.serveTakers (s : State) (part ctx : Nat) : State :=
  match (s.ctx part ctx).phase with
  | .resident => ((s.takers part ctx).foldr insertTaker []).foldl (fun t x => t.serveTaker x) s
  | .saving => if (s.ctx part ctx).forced then s else ((s.takers part ctx).foldr insertTaker []).foldl (fun t x => t.serveTaker x) s
  | _ => s

end Sys2Proof.Machine
end

