-- ==== Sys2Proof/Machine/Context.lean ====
section
/-! DEFINITION. Contexts: their records (R335), pre-emption requests (R331, R337), destruction, and the counting of the
deadline in ACLK cycles (R331, R381). -/

namespace Sys2Proof.Machine

/-- R335: the address of a context's record. -/
def State.ctxRecAddr (s : State) (part ctx : Nat) : Nat := (s.part part).ctxtab + 256 * ctx

/-- R69, R23: the partition default of RM: 1 unless FPDEF sets another. A reserved value, 5 to 7, is what FPDEF holds: RM
reads as that value, and rounding follows RNE (assumption 50). -/
def defaultMode (rm : Nat) : Nat := if rm = 0 then 1 else rm

/-- R335: the fields of a context record. -/
def parseCtx (raw : Nat) : CtxRec :=
  { root := byteField raw 0 8, pid := byteField raw 8 4 % 2 ^ 20, asid := byteField raw 12 2
    fprm := defaultMode (byteField raw 15 1 % 8), ftz := (byteField raw 15 1).testBit 3, handler := byteField raw 16 8
    privbase := byteField raw 24 8, plim := byteField raw 32 4, wmax := byteField raw 36 4
    traparea := byteField raw 40 8, parkarea := byteField raw 48 8, savearea := byteField raw 56 8
    launch := byteField raw 128 8, vdtab := (List.range 16).map fun i => BitVec.ofNat 8 (byteField raw (136 + i) 1)
    sslot := byteField raw 152 4, savelen := byteField raw 156 4 }

/-- A context's record as it stands in memory. -/
def State.readCtxRec (s : State) (part ctx : Nat) : Nat := s.siteSpan (realPart part) (s.ctxRecAddr part ctx) 4

/-- R335: what the device reads of a context's record at a restore. What its binding table names is judged at each use, as the dies
then are (`State.bindings`; R1, R383). -/
def State.ctxInfo (s : State) (part ctx : Nat) : CtxRec := parseCtx (s.readCtxRec part ctx)

/-- R335: VALID of a context's record. -/
def State.ctxValid (s : State) (part ctx : Nat) : Bool := (s.siteEntry (realPart part) (s.ctxRecAddr part ctx + 14) 1).testBit 0

/-- R380: ACLK in MHz at a point. -/
def aclkMhz : Nat → Nat
  | 0 => 2800
  | 1 => 2500
  | 2 => 2000
  | 3 => 1500
  | 4 => 1200
  | _ => 700

/-- ACLK now. -/
def State.mhz (s : State) : Nat := aclkMhz (s.root.pwrstat.toNat % 8)

/-- Thousandths of ACLK cycles since a context's request arrived (R331); they stand still while issue is stopped (R381). -/
def State.requestRan (s : State) (c : Ctx) : Nat :=
  c.preqRan + (if s.root.pauseAt.isSome then 0 else (s.time - c.preqAt) * s.mhz)

/-- Bring every request's count up to now, before ACLK changes. -/
def State.syncTimers (s : State) : State :=
  { s with ctxs := s.ctxs.map fun e => (e.1, { e.2 with preqRan := s.requestRan e.2, preqAt := s.time }) }

/-- R331: a request is raised against a resident context, which is SAVING from then on (R338). -/
def State.raiseRequest (s : State) (part ctx : Nat) (why : BitVec 2) (now : Bool) : State :=
  s.modCtx part ctx fun c =>
    match c.phase with
    | .resident => { c with phase := .saving, preq := some why, preqRan := 0, preqAt := s.time, forced := now }
    | .saving => if now then { c with forced := true } else c
    | _ => c

/-- R264: the tags of a context are freed, and their entries discarded. -/
def Part.dropTagsOf (p : Part) (ctx : Nat) : Part :=
  { p with
    tags := p.tags.map fun e => (e.1, if e.2.owner = some ctx ∧ e.2.func = p.func then { e.2 with owner := none, orphaned := false } else e.2)
    landings := p.landings.filter fun e =>
      !((p.tags.get {} e.1).owner == some ctx && (p.tags.get {} e.1).func == p.func) }

/-- R337: a SAVED context is destroyed, with everything it holds. -/
def State.destroyCtx (s : State) (part ctx : Nat) : State :=
  let mine := fun (k : Nat) => (s.grid k).part == part && (s.grid k).ctx == ctx
  let myTeam := fun (k : Nat) => (s.team k).part == part && (s.team k).ctx == ctx
  let s1 := { s with
    grids := s.grids.filter fun e => !mine e.1
    teams := s.teams.filter fun e => !myTeam e.1
    groups := s.groups.filter fun e => !myTeam e.2.team
    cmds := s.cmds.filter fun e => !myTeam e.2.team
    streams := s.streams.filter fun e => !myTeam e.2.team
    reqs := s.reqs.filter fun e => !myTeam (s.group e.2.group).team
    spines := s.spines.filter fun e => !isSaved part ctx e.1
    ctxs := s.ctxs.erase (ctxKey part ctx) }
  let s2 := s1.modPart part fun p =>
    { p.dropTagsOf ctx with notices := p.notices.filter fun n => !(n.kind == 2 && n.ctx.toNat == ctx) }
  let a := s.ctxRecAddr part ctx + 14
  (s2.evictSector (256 + part) a).siteWrite part (256 + part) (plainPhys a) 1 (s2.siteEntry part a 1 / 2 * 2) 0

/-- R337, R338: a write of `sr.CTXREQ` that names a context. -/
def State.ctxReq (s : State) (part ctx : Nat) (now destroy : Bool) : State :=
  if ctx = 0 ∨ ctx = 255 then s.countLerr (realPart part)
  else
    match (s.ctx part ctx).phase with
    | .none => s.countLerr (realPart part)
    | .saved => if destroy then s.destroyCtx part ctx else s.countLerr (realPart part)
    | .resident => if destroy then s.countLerr (realPart part) else s.raiseRequest part ctx 0 now
    | .saving => if destroy then s.countLerr (realPart part) else if now then s.raiseRequest part ctx 0 true else s

/-- R337: the effect of a write of `sr.CTXREQ` that raises a request. -/
def execCtxreqRequest (part ctx : Nat) (s : State) : Out := event (s.ctxReq part ctx false false)

/-- R337: with NOW. -/
def execCtxreqNow (part ctx : Nat) (s : State) : Out := event (s.ctxReq part ctx true false)

/-- R337: with DESTROY. -/
def execCtxreqDestroy (part ctx : Nat) (s : State) : Out := event (s.ctxReq part ctx false true)

/-- R332: DEADLINE cycles have passed since the request: the save is forced, and no further word is issued. -/
def execPreemptDeadline (part ctx : Nat) (s : State) : Out :=
  let c := s.ctx part ctx
  event (if c.phase = .saving ∧ c.preq.isSome ∧ 1000 * (s.part part).pdl.toNat ≤ s.requestRan c then
      s.modCtx part ctx fun c => { c with forced := true }
    else s)

end Sys2Proof.Machine
end

