-- ==== Sys2Proof/Machine/LaneMem.lean ====
section
/-! DEFINITION. The lane memory words (R218 to R225, R230) and the events that complete them (R190, R220, R231). -/

namespace Sys2Proof.Machine

/-- R218: the address, offset or byte index of each active lane. -/
def State.laneAddrs (s : State) (t : ThreadId) (w : BitVec 6) (a : BitVec 7) : List (Nat × W64) :=
  (s.active t).map fun l => (l, s.getW t w.toNat + (s.laneReg t a.toNat l).signExtend 64)

/-- R218: bytes of an SZ value; 11 is a pair. -/
def accSize (z : BitVec 2) : Nat := 2 ^ z.toNat

/-- The value a lane stores: a pair with its high word in the next register. -/
def State.laneData (s : State) (t : ThreadId) (d : BitVec 7) (pair : Bool) (l : Nat) : W64 :=
  if pair then s.laneReg t (d.toNat + 1) l ++ s.laneReg t d.toNat l else (s.laneReg t d.toNat l).setWidth 64

/-- A translated lane access of n bytes. -/
def toAcc (n : Nat) (e : Nat × W64 × Phys) : LaneAcc :=
  { lane := e.1, addr := e.2.2.pa, size := n, ty := some e.2.2.ty, va := e.2.1 }

/-- R202, R207: what a release does before its store; a cluster release writes out the STREAM buffer (R176). -/
def State.beginRelease (s : State) (t : ThreadId) (ord : Nat) : State × Sig :=
  if ord = 0 then (s, 0) else if ord = 1 then (s.flushStream (s.cptOf t), 0) else s.beginWide (s.cptOf t) (ord == 3)

/-- One store of a word, plain or release (R202). One that no slice performs is outstanding until it is acknowledged (R207,
R364). -/
def State.storeOne (s : State) (t : ThreadId) (ord : Nat) (g : Sig) (p : Phys) (n : Nat) (v va : W64) : State :=
  let r := if ord < 2 then s.storeBytes (s.cptOf t) p n v.toNat va (s.threadTag t)
    else s.releaseStore (s.cptOf t) g p n v.toNat va (s.threadTag t)
  let s1 := if p.direct && r.2 == .stored then
      match s.targetOf (s.partOfCpt (s.cptOf t)) p with
      | some far => r.1.post (.thread (ownThread t)) (s.cptOf t) far (.store p.ty p.pa n v (s.threadTag t)) 0
      | none => r.1
    else r.1
  s1.markStore t va r.2

/-- R364: the accesses of a requester that no slice performs find no identifiers free at a far end of theirs. -/
def State.fullFor (s : State) (cpt : Nat) (ps : List Phys) : Bool :=
  let ds := (ps.filter Phys.direct).map fun p => s.targetOf (s.partOfCpt cpt) p
  ds.any fun far => s.crowdedBy cpt far (ds.filter (· == far)).length

/-- R364: the accesses of a store word find no identifiers free. -/
def State.fullTarget (s : State) (t : ThreadId) (xs : List (W64 × Phys × W64)) : Bool :=
  s.fullFor (s.cptOf t) (xs.map fun e => e.2.1)

/-- R199, R202, R222: a store word of translated accesses: it waits for the accesses it must follow, for identifiers (R364), for
the host where its release fills lines that the host may hold (R367), and for the acknowledgements of its release's write-backs,
reports a lost store at device scope or wider, and stores in ascending lane order. -/
def State.storeWord (s : State) (t : ThreadId) (ord n : Nat) (xs : List (W64 × Phys × W64)) : Did :=
  let accs := xs.map fun e => toAcc n (0, e.1, e.2.1)
  if s.blocked t accs || (decide (0 < ord) && s.pendingAny t (ordScope ord)) || s.fullTarget t xs then .wait s
  else
    match if ord = 0 then none else s.snoopHost (s.releaseLines (s.cptOf t) (ordScope ord) ++ xs.map fun e => e.2.1.pa / 128) with
    | some s1 => .wait s1
    | none =>
    match if ord = 0 then none else s.lostReport t (ordScope ord) with
    | some (s1, tr) => .report s1 tr
    | none =>
    match s.releaseWait (s.cptOf t) (if ord = 0 then 0 else ordScope ord) with
    | some s1 => .wait s1
    | none =>
      let r := s.beginRelease t ord
      let s1 := xs.foldl (fun a e => a.storeOne t ord r.2 e.2.1 n e.2.2 e.1) r.1
      .done (if ord < 2 then s1 else s1.replacePending (s.cptOf t) r.2)

/-- R221. -/
def execLd (t : Bool) (d a : BitVec 7) (w : BitVec 6) (z o : BitVec 2) (s : State) : Out :=
  issue (.ld t d a w z o) s fun th s =>
    match th with
    | .gang g k =>
      match s.checkVirtual th .load true false (accSize z) (s.laneAddrs th w a) with
      | .stop x => x
      | .ok s1 ps => .done (s1.pushReq g { group := g, gang := k, dst := .v d.toNat (z == 3), todo := ps.map (toAcc (accSize z))
                                           op := none, ord := o.toNat })
    | _ => .wait s

/-- R221. -/
def execSt (t : Bool) (d a : BitVec 7) (w : BitVec 6) (z o : BitVec 2) (s : State) : Out :=
  issue (.st t d a w z o) s fun th s =>
    match s.checkVirtual th .store false true (accSize z) (s.laneAddrs th w a) with
    | .stop x => x
    | .ok s1 ps => s1.storeWord th o.toNat (accSize z) (ps.map fun e => (e.2.1, e.2.2, s1.laneData th d (z == 3) e.1))

/-- Steps 1, 3 and 5 of R219 in scratchpad space (R185, R223). -/
def State.checkPool (s : State) (t : ThreadId) (rd : Bool) (n : Nat) (xs : List (Nat × W64)) : Option Trap :=
  match t with
  | .gang g _ =>
    let size := (s.descOf (s.group g).team).spaceBytes
    match laneFails xs (fun o => decide (size < o.toNat + n)) (fun o m => { kind := 0x10, addr := o, lanes := m }) with
    | some tr => some tr
    | none =>
      match laneFails xs (fun o => o.toNat % n != 0) (fun o m => Trap.misaligned o m) with
      | some tr => some tr
      | none =>
        match xs.filterMap fun e => (s.watched t true rd (!rd) e.2.toNat n).map fun i => (e, i) with
        | [] => none
        | (e, i) :: rest => some (Trap.watch i e.2 (laneMask (((e, i) :: rest).map fun x => x.1.1)))
  | _ => none

/-- A lane access of scratchpad space. -/
def poolAcc (n : Nat) (e : Nat × W64) : LaneAcc := { lane := e.1, addr := e.2.toNat, size := n, ty := none, va := e.2 }

/-- R223. -/
def execLds (t : Bool) (d a : BitVec 7) (w : BitVec 6) (z : BitVec 2) (s : State) : Out :=
  issue (.lds t d a w z) s fun th s =>
    match th with
    | .gang g k =>
      let xs := s.laneAddrs th w a
      match s.checkPool th true (accSize z) xs with
      | some tr => .trap tr
      | none => .done (s.pushReq g { group := g, gang := k, dst := .v d.toNat (z == 3), todo := xs.map (poolAcc (accSize z))
                                     op := none, ord := 0 })
    | _ => .wait s

/-- R223, R220. -/
def execSts (t : Bool) (d a : BitVec 7) (w : BitVec 6) (z : BitVec 2) (s : State) : Out :=
  issue (.sts t d a w z) s fun th s =>
    match th with
    | .gang g _ =>
      let xs := s.laneAddrs th w a
      match s.checkPool th false (accSize z) xs with
      | some tr => .trap tr
      | none =>
        if s.blocked th (xs.map (poolAcc (accSize z))) then .wait s
        else .done (xs.foldl (fun y e => (y.noteStore g e.2.toNat (accSize z)).poolWrite (s.group g).team e.2.toNat
          (accSize z) (s.laneData th d (z == 3) e.1).toNat) s)
    | _ => .wait s

/-- R187: the pieces of a private access of a lane: address and the shift of the bytes within the lane's value. -/
def privPieces (base : Nat) (pair : Bool) (e : Nat × W64) : List (Nat × W64 × Nat) :=
  let i := e.2.toNat / 4
  let at_ := BitVec.ofNat 64 (base + (i * 32 + e.1) * 4 + e.2.toNat % 4)
  if pair then [(e.1, at_, 0), (e.1, at_ + 128, 32)] else [(e.1, at_, 0)]

/-- The start of a group's window (R186). -/
def State.windowBase (s : State) (g : Nat) : Nat :=
  let x := s.group g
  let info := (s.ctx (s.team x.team).part (s.team x.team).ctx).info
  info.privbase + x.window.getD 0 * info.plim * 128

/-- R224: the checks of `ldp` and `stp`: the pieces with their places, or the outcome. -/
def State.checkPriv (s : State) (t : ThreadId) (store pair : Bool) (n : Nat) (xs : List (Nat × W64)) :
    Except Did (State × List (Nat × W64 × Nat × Phys)) :=
  match t with
  | .gang g _ =>
    let plim := (s.ctx (s.partOf t) (s.ctxOf t)).info.plim
    match laneFails xs (fun b => decide (plim ≤ b.toNat / 4 + (if pair then 1 else 0)))
        (fun b m => { kind := 0x0F, addr := b, lanes := m }) with
    | some tr => .error (.trap tr)
    | none =>
      match laneFails xs (fun b => b.toNat % n != 0) (fun b m => Trap.misaligned b m) with
      | some tr => .error (.trap tr)
      | none =>
        let pieces := xs.flatMap (privPieces (s.windowBase g) pair)
        match s.checkPages t (if store then .privStore else .privLoad) (!store) store (min n 4)
            (pieces.map fun e => (e.1, e.2.1)) with
        | .stop d => .error d
        | .ok s1 ps => .ok (s1, (pieces.zip ps).map fun e => (e.1.1, e.1.2.1, e.1.2.2, e.2.2.2))
  | _ => .error (.wait s)

/-- A piece of a private access, with its shift. -/
def privAcc (n : Nat) (e : Nat × W64 × Nat × Phys) : LaneAcc :=
  { toAcc n (e.1, e.2.1, e.2.2.2) with b := BitVec.ofNat 64 e.2.2.1 }

/-- R224. -/
def execLdp (t : Bool) (d a : BitVec 7) (w : BitVec 6) (z : BitVec 2) (s : State) : Out :=
  issue (.ldp t d a w z) s fun th s =>
    match th with
    | .gang g k =>
      match s.checkPriv th false (z == 3) (accSize z) (s.laneAddrs th w a) with
      | .error x => x
      | .ok (s1, ps) =>
        .done (s1.pushReq g { group := g, gang := k, dst := .v d.toNat (z == 3)
                              todo := ps.map (privAcc (min (accSize z) 4))
                              op := none, ord := 0 })
    | _ => .wait s

/-- R224. -/
def execStp (t : Bool) (d a : BitVec 7) (w : BitVec 6) (z : BitVec 2) (s : State) : Out :=
  issue (.stp t d a w z) s fun th s =>
    match s.checkPriv th true (z == 3) (accSize z) (s.laneAddrs th w a) with
    | .error x => x
    | .ok (s1, ps) =>
      s1.storeWord th 0 (min (accSize z) 4) (ps.map fun (e : Nat × W64 × Nat × Phys) => (e.2.1, e.2.2.2, s1.laneData th d (z == 3) e.1 >>> e.2.2.1))

/-- R225: bytes of a lane atomic. -/
def atomSize (c : BitVec 4) : Nat := if c = 11 then 8 else 4

/-- R225: issue the atomics of a word, in ascending lane order; `keep` for `atom`, which returns the old values. -/
def State.atomWord (s : State) (t : ThreadId) (keep : Bool) (d a : BitVec 7) (w : BitVec 6) (c : BitVec 4) : Did :=
  match t with
  | .gang g k =>
    match s.checkVirtual t .atomic true true (atomSize c) (s.laneAddrs t w a) with
    | .stop x => x
    | .ok s1 ps =>
      let accs := ps.map fun e =>
        { toAcc (atomSize c) e with
          b := s1.laneData t d (c == 11) e.1
          c := if c = 9 then (s1.laneReg t (d.toNat + 1) e.1).setWidth 64 else 0 }
      if s1.blocked t accs then .wait s
      else if accs.isEmpty && !keep then .done s1
      else .done (s1.pushReq g { group := g, gang := k, dst := if keep then .v d.toNat (c == 11) else .nothing, todo := accs
                                 op := some c.toNat, ord := 0 })
  | _ => .wait s

/-- R225. -/
def execAtom (t : Bool) (d a : BitVec 7) (w : BitVec 6) (c : BitVec 4) (s : State) : Out :=
  issue (.atom t d a w c) s fun th s => s.atomWord th true d a w c

/-- R225. -/
def execRed (t : Bool) (d a : BitVec 7) (w : BitVec 6) (c : BitVec 4) (s : State) : Out :=
  issue (.red t d a w c) s fun th s => s.atomWord th false d a w c

/-- The living team of a grid with a number. -/
def State.teamOf (s : State) (grid num : Nat) : Option Nat :=
  (s.teams.filter fun e => e.2.grid == grid && e.2.num == num).head?.map (·.1)

/-- R230: a packet for each active lane, once identifiers are free (R364). No later word of the gang begins before the packets have been accepted
(`State.held`): the word has completed only then. -/
def execXst (t : Bool) (d a : BitVec 7) (w : BitVec 6) (z : BitVec 2) (s : State) : Out :=
  issue (.xst t d a w z) s fun th s =>
    match th with
    | .gang g gg =>
      let n := accSize z
      let tgt := s.getW th w.toNat
      let own := (s.group g).team
      let gr := s.grid (s.gridOf th)
      let xs := (s.active th).map fun l => (l, (tgt.setWidth 32 + s.laneReg th a.toNat l).setWidth 64)
      let num := tgt.toNat / 2 ^ 32
      match laneFails (xs.map fun e => (e.1, tgt)) (fun x => decide (gr.count ≤ x.toNat / 2 ^ 32))
          (fun x m => { kind := 0x11, addr := x, lanes := m }) with
      | some tr => .trap tr
      | none =>
        match laneFails xs (fun o => decide (1024 * gr.desc.exch < o.toNat + n))
            (fun o m => { kind := 0x12, addr := o, lanes := m }) with
        | some tr => .trap tr
        | none =>
          match laneFails xs (fun o => o.toNat % n != 0) (fun o m => Trap.misaligned o m) with
          | some tr => .trap tr
          | none =>
            match s.teamOf (s.gridOf th) num with
            | some k =>
              if s.crowdedBy (s.cptOf th) (some ((s.team k).cluster / 64)) xs.length then .wait s
              else if (s.team k).placed then
                let pkts := xs.map fun e =>
                  { src := s.cptOf th, dst := (s.team k).cluster, group := g, slices := (s.group g).sliceMask gg, sender := own
                    team := k, off := e.2.toNat, size := n, data := s.laneData th d (z == 3) e.1 : XPkt }
                .done { s with xpkts := s.xpkts ++ pkts }
              else .wait s
            | none =>
              if gr.placed ≤ num then .wait s
              else if xs.isEmpty then .done s
              else .done (s.setTeam own { s.team own with xstat := (s.team own).xstat ||| 2 })
    | _ => .wait s

/-! ### Events of memory words -/

/-- Read one lane's bytes of a pending load (R203, R220). -/
def State.readAcc (s : State) (cpt team ord tag : Nat) (x : LaneAcc) : State × Nat × Bool :=
  match x.ty with
  | none => (s, s.poolRead team x.addr x.size, s.poolBad team x.addr)
  | some ty =>
    if ord < 2 then s.loadBytes cpt ⟨x.addr, ty⟩ x.size tag else s.acquireLoad cpt (ord == 3) ⟨x.addr, ty⟩ x.size tag

/-- The data of a lane joins what the request has. -/
def Req.take (r : Req) (lane sh v : Nat) (bad : Bool) : Req :=
  { r with got := r.got.insert lane (r.got.get 0 lane ||| BitVec.ofNat 64 (v * 2 ^ sh))
           bad := if bad then r.bad ++ [lane] else r.bad }

/-- Read every lane of a request. -/
def State.readAll (s : State) (cpt team tag : Nat) (r : Req) : List LaneAcc → State × Req
  | [] => (s, r)
  | x :: rest =>
    let q := s.readAcc cpt team r.ord tag x
    q.1.readAll cpt team tag (r.take x.lane (if r.op.isNone then x.b.toNat else 0) q.2.1 q.2.2) rest

/-- The lines of memory that a request still has to read. -/
def Req.pages (r : Req) : List Phys := r.todo.filterMap fun x => x.ty.map fun ty => ⟨x.addr, ty⟩

/-- The reply of an atomic of a request waits for such a link. -/
def State.replyHeld (s : State) (cpt : Nat) (r : Req) : Bool :=
  r.sent.any fun n => match s.outs.find? (2 ^ 16 * cpt + n) with
    | some o => s.replaying cpt o.far
    | none => false

/-- R220: the data of a pending load is read and its destination filled; an atomic's once every lane has been performed, a
cross-lane word's at once (R130). An access that an older one of the group must precede stays pending, and so does one of
a line that the host may hold (R367) or without a free identifier at its far end (R364). The request's number is the tag of its READs: a second reply with it finds no request
and is discarded (R364). -/
def execLoadReply (req : Nat) (s : State) : Out :=
  match s.reqs.find? req with
  | none => event s
  | some r =>
    if s.meetsOlder r.group req r.todo || (r.op.isSome && !r.todo.isEmpty) || s.replyHeld (s.cptOf (.gang r.group r.gang)) r ||
        s.fullFor (s.cptOf (.gang r.group r.gang)) r.pages then event s
    else
      match s.hostWait r.pages with
      | some s1 => event s1
      | none =>
        let t := ThreadId.gang r.group r.gang
        let q := s.readAll (s.cptOf t) (s.group r.group).team (s.threadTag t) r r.todo
        let s1 := { q.1 with reqs := q.1.reqs.erase req, outs := r.sent.foldl (fun m n => m.erase (2 ^ 16 * s.cptOf t + n)) q.1.outs }
        let lanes := q.2.got.map fun e => e.1
        event (s.unlessFills
          (((s1.setGroup r.group ((s1.group r.group).fillDest q.2)).noteOperand s t lanes r.dst.regs).touch t lanes r.dst.regs))

/-- The place of a lane's access. -/
def LaneAcc.phys (x : LaneAcc) : Phys := ⟨x.addr, x.ty.getD .shared⟩

/-- R364: an atomic that has been performed: its identifier stays outstanding at the requester until the reply has returned, to
fill a destination or, for a word with none, to acknowledge it. -/
def State.sendAtomic (s : State) (t : ThreadId) (x : LaneAcc) (op : Nat) (keep : Bool) (old : W64) (bad : Bool) : State :=
  let cpt := s.cptOf t
  let o := FarOp.atomic (x.ty.getD .shared) op x.size x.addr x.b x.c (s.threadTag t)
  match s.targetOf (s.partOfCpt cpt) x.phys with
  | none => s
  | some far =>
    if keep then
      { s.identify cpt far old bad with
        outs := if far = requesterDie cpt then s.outs
          else s.outs.insert (2 ^ 16 * cpt + s.reqNo cpt) { far := far, op := o, sentAt := s.time } }
    else s.post (.thread (ownThread t)) cpt far o old bad

/-- R190, R225, R227: the next atomic of a request is performed at its home slice, or at its target where the page is PEER. -/
def execSliceAtomic (req : Nat) (s : State) : Out :=
  match s.reqs.find? req with
  | none => event s
  | some r =>
    match r.op, r.todo with
    | some op, x :: rest =>
      let t := ThreadId.gang r.group r.gang
      let cpt := s.cptOf t
      if s.meetsOlder r.group req [x] || s.crowdedBy cpt (s.targetOf (s.partOfCpt cpt) x.phys) 1 then event s
      else
        match s.snoopHost ((if r.ord < 2 then [] else s.releaseLines cpt (ordScope r.ord)) ++ [x.addr / 128]) with
        | some s1 => event s1
        | none =>
        match if r.ord < 2 then none else s.releaseWait cpt (ordScope r.ord) with
        | some s1 => event s1
        | none =>
          let q := if r.ord < 2 then s.atomicBytes cpt x.phys x.size op x.b.toNat x.c.toNat (s.threadTag t)
            else s.orderedAtomic cpt (r.ord == 3) x.phys x.size op x.b.toNat x.c.toNat (s.threadTag t)
          let s1 := q.1.markStore t x.va q.2.2.2
          let keep := r.dst != Dest.nothing
          let out := keep && q.2.2.2 == .stored && s1.targetOf (s1.partOfCpt cpt) x.phys != some (requesterDie cpt)
          let r1 := { r.take x.lane 0 q.2.1 q.2.2.1 with todo := rest, sent := if out then r.sent ++ [s1.reqNo cpt] else r.sent }
          let s2 := if q.2.2.2 == .stored then s1.sendAtomic t x op keep (BitVec.ofNat 64 q.2.1) q.2.2.1 else s1
          event (s.unlessFills ({ s2 with
            reqs := if rest.isEmpty && !keep then s2.reqs.erase req else s2.reqs.insert req r1 }.tryRetireGroup r.group))
    | _, _ => event s

/-- Write n bytes of a far bank. -/
def writeBank (m : Tbl Byte) (o : Nat) (n v : Nat) : Tbl Byte :=
  match n with
  | 0 => m
  | n + 1 => writeBank (m.insert o (BitVec.ofNat 8 v)) (o + 1) n (v / 256)

/-- R231: a delivery lowers the exchange counter; passing −2^31 saturates and sets SATC. What it overwrites whole of the far bank
loses its poison mark (R310). -/
def Team.deliver (x : Team) (p : XPkt) : Team :=
  let c := x.xcount - p.size
  { (List.range p.size).foldl (fun y i => y.wipe ((3 - x.nearId) * 2 ^ 20 + (p.off + i) / 64) (p.off + i)) x with
    far := writeBank x.far p.off p.size p.data.toNat
    xcount := if c < -2 ^ 31 then -2 ^ 31 else c
    xstat := if c < -2 ^ 31 then x.xstat ||| 4 else x.xstat }

/-- R231: a packet lands in its far bank, and may complete the phase (R233); one whose team is gone is noted with its
sender. -/
def State.landPkt (s1 : State) (p : XPkt) : State :=
  match s1.teams.find? p.team with
  | some x => (s1.setTeam p.team (x.deliver p)).settleExchange p.team
  | none =>
    match s1.teams.find? p.sender with
    | some y => s1.setTeam p.sender { y with xstat := y.xstat ||| 2 }
    | none => s1

/-- R364: a packet on its way lands, and its request is outstanding until the acknowledgement has come. -/
def State.deliverPkt (s : State) (p : XPkt) : State :=
  (({ s with xpkts := s.xpkts.erase p }).post .unit p.src (p.dst / 64) (.packet p) 0).landPkt p

/-- R192, R231: the oldest packet from one cluster to another. -/
def execXstoreDelivery (src dst : Nat) (s : State) : Out :=
  match s.xpkts.find? fun p => p.src == src && p.dst == dst with
  | none => event s
  | some p => event (s.deliverPkt p)

end Sys2Proof.Machine
end

