-- ==== Sys2Proof/Machine/UniMem.lean ====
section
/-! DEFINITION. The memory words of the uniform set (R84 to R86, R227 to R229) and the events of the caches (R176, R201,
R206). -/

namespace Sys2Proof.Machine

/-- R84: the effective address of `uld` and `ust`. -/
def State.uniAddr (s : State) (t : ThreadId) (a : BitVec 6) (o : BitVec 8) (n : Nat) : W64 :=
  s.getW t a.toNat + s.wideImm o * BitVec.ofNat 64 n

/-- R21: the checks of a uniform access; its traps name no lanes. -/
def State.checkUniform (s : State) (t : ThreadId) (k : AccKind) (rd wr : Bool) (n : Nat) (a : W64) : Checked :=
  match s.checkVirtual t k rd wr n [(0, a)] with
  | .stop (.trap tr) => .stop (.trap { tr with lanes := 0 })
  | .stop (.fault c va _) => .stop (.fault c va 0)
  | x => x

/-- The data of a load that completes within its word (R10). -/
def State.loadNow (s : State) (t : ThreadId) (ord : Nat) (p : Phys) (n : Nat) (d : Nat) : State :=
  let q := if ord < 2 then s.loadBytes (s.cptOf t) p n (s.threadTag t) else s.acquireLoad (s.cptOf t) (ord == 3) p n (s.threadTag t)
  let s1 := q.1.putW t d (BitVec.ofNat 64 q.2.1)
  if q.2.2 then s1.setUni t ((s1.uni t).poisonW d) else s1

/-- R84, R86; a plain load reads at its own turn (R15, R85; DESIGN CHOICE: assumption 62). A spine or service thread's waits for
identifiers (R364) and for the host (R367). -/
def execUld (t : Bool) (d a : BitVec 6) (o : BitVec 8) (z q : BitVec 2) (s : State) : Out :=
  issue (.uld t d a o z q) s fun th s =>
    let n := accSize z
    match s.checkUniform th .load true false n (s.uniAddr th a o n) with
    | .stop x => x
    | .ok s1 ps =>
      match th with
      | .gang g k => .done (s1.pushReq g { group := g, gang := k, dst := .w d.toNat, todo := ps.map (toAcc n), op := none
                                           ord := q.toNat })
      | th =>
        if s1.fullFor (s1.cptOf th) (ps.map fun e => e.2.2) then .wait s
        else s.doneUnlessFills (ps.foldl (fun a e => a.loadNow th q.toNat e.2.2 n d.toNat) s1)

/-- R84. -/
def execUst (t : Bool) (d a : BitVec 6) (o : BitVec 8) (z q : BitVec 2) (s : State) : Out :=
  issue (.ust t d a o z q) s fun th s =>
    let n := accSize z
    match s.checkUniform th .store false true n (s.uniAddr th a o n) with
    | .stop x => x
    | .ok s1 ps => s1.storeWord th q.toNat n (ps.map fun e => (e.2.1, e.2.2, s1.getW th d.toNat))

/-- R227: an atomic that completes within its word. -/
def State.atomicNow (s : State) (t : ThreadId) (ord : Nat) (p : Phys) (va : W64) (code : Nat) (b c : W64) (d : Nat) : State :=
  let q := if ord < 2 then s.atomicBytes (s.cptOf t) p 8 code b.toNat c.toNat (s.threadTag t)
    else s.orderedAtomic (s.cptOf t) (ord == 3) p 8 code b.toNat c.toNat (s.threadTag t)
  let old := BitVec.ofNat 64 q.2.1
  let s1 := ((q.1.requestTo (s.cptOf t) p old q.2.2.1).markStore t va q.2.2.2).putW t d old
  if q.2.2.1 then s1.setUni t ((s1.uni t).poisonW d) else s1

/-- R227. -/
def execUamo (t : Bool) (d a b : BitVec 6) (c : BitVec 4) (q : BitVec 2) (s : State) : Out :=
  issue (.uamo t d a b c q) s fun th s =>
    match s.checkUniform th .atomic true true 8 (s.getW th a.toNat) with
    | .stop x => x
    | .ok s1 ps =>
      let x := s1.getW th b.toNat
      let y := if c = 9 then s1.getW th (b.toNat + 1) else 0
      let accs := ps.map fun e => { toAcc 8 e with b := x, c := y }
      if s1.blocked th accs || (q != 0 && s1.pendingAny th (ordScope q.toNat)) ||
          (!isGang th && s1.fullFor (s1.cptOf th) (ps.map fun e => e.2.2)) then .wait s
      else
        match if q = 0 then none else s1.snoopHost (s1.releaseLines (s1.cptOf th) (ordScope q.toNat)) with
        | some s2 => .wait s2
        | none =>
        match if q = 0 then none else s1.lostReport th (ordScope q.toNat) with
        | some (s2, tr) => .report s2 tr
        | none =>
        match if isGang th || q = 0 then none else s1.releaseWait (s1.cptOf th) (ordScope q.toNat) with
        | some s2 => .wait s2
        | none =>
          let s2 := if q = 1 then s1.flushStream (s1.cptOf th) else s1
          match th with
          | .gang g k => .done (s2.pushReq g { group := g, gang := k, dst := .w d.toNat, todo := accs, op := some c.toNat
                                               ord := q.toNat })
          | th => s.doneUnlessFills (ps.foldl (fun a e => a.atomicNow th q.toNat e.2.2 e.2.1 c.toNat x y d.toNat) s2)

/-- R199, R204, R207: what a fence of a kind and a scope does once earlier accesses have completed. -/
def State.fenceActs (s : State) (cpt : Nat) (scope : ScopeNo) (k : BitVec 2) : State :=
  let s1 := if 2 ≤ scope then s.flushStream cpt else s
  let s2 := if 3 ≤ scope ∧ k.getLsbD 1 then s1.fenceRelease cpt (decide (4 ≤ scope)) else s1
  if 3 ≤ scope ∧ k.getLsbD 0 then if 4 ≤ scope then s2.foldEvery cpt true else s2.fenceAcquire cpt else s2

/-- R228: after `.async` the copy engine reads what the group stored in scratchpad space. -/
def State.fenceAsync (s : State) (t : ThreadId) : State :=
  match t with
  | .gang g _ =>
    let x := s.group g
    s.setTeam x.team { s.team x.team with
      unasync := fenceNotes (s.team x.team).unasync x.num (s.descOf x.team).ngroups }
  | _ => s

/-- R228. -/
def execFence (t y : Bool) (sc : BitVec 3) (k : BitVec 2) (s : State) : Out :=
  issue (.fence t y sc k) s fun th s =>
    if s.pendingAny th sc.toNat then .wait s
    else
      match s.snoopHost (s.releaseLines (s.cptOf th) sc.toNat) with
      | some s1 => .wait s1
      | none =>
      match s.lostReport th sc.toNat with
      | some (s1, tr) => .report s1 tr
      | none =>
      match if k.getLsbD 1 then s.releaseWait (s.cptOf th) sc.toNat else none with
      | some s1 => .wait s1
      | none => s.doneUnlessFills ((if y then s.fenceAsync th else s).fenceActs (s.cptOf th) sc.toNat k)

/-- The access kind of a `cache` function that translates (R229). -/
def cacheKind (f : Nat) : AccKind := if f = 5 then .zero else if f = 3 then .lineWrite else .lineRead

/-- R229: a `cache` function on a translated line; on a STRICT or PEER page nothing. -/
def State.cacheLine (s : State) (t : ThreadId) (f : Nat) (va : W64) (p : Phys) : State :=
  let cpt := s.cptOf t
  let line := p.pa / 128 * 128
  if p.ty = .strict ∨ p.ty = .peer then s
  else
  match f with
  | 2 => (s.writeBack cpt line).writeBack cpt (line + 64)
  | 3 => (s.dropSector cpt line).dropSector cpt (line + 64)
  | 4 => (s.evictSector cpt line).evictSector cpt (line + 64)
  | _ =>
    let r := s.storeBytes cpt ⟨line, p.ty⟩ 64 0 va (s.threadTag t)
    let q := r.1.storeBytes cpt ⟨line + 64, p.ty⟩ 64 0 (va + 64) (s.threadTag t)
    (q.1.markStore t va r.2).markStore t (va + 64) q.2

/-- R229. A line does not leave the L1, and is not zeroed, before earlier accesses of the group to it have been performed
(R198). -/
def execCache (t : Bool) (a f : BitVec 6) (s : State) : Out :=
  issue (.cache t a f) s fun th s =>
    let x := s.getW th a.toNat
    let va := x - BitVec.ofNat 64 (x.toNat % 128)
    if !inRange x then .trap (Trap.addressRange x)
    else if f.toNat < 2 then .done s
    else
      match s.translate (s.spaceOf th) va.toNat (cacheKind f.toNat) (levelOf th == 0) with
      | (_, .error c) => .fault c x 0
      | (s1, .ok p) =>
        match if f = 5 then s1.watched th false false true va.toNat 128 else none with
        | some i => .trap (Trap.watch i va 0)
        | none =>
          if (f = 3 ∨ f = 4 ∨ f = 5) ∧ s1.blocked th [{ lane := 0, addr := p.pa, size := 128, ty := some p.ty, va := va }] then .wait s
          else s.doneUnlessFills (s1.cacheLine th f.toNat va p)

/-! ### Events of the caches -/

/-- R201: a dirty SHARED sector is written back; one of a line that the host may hold waits for it (R367). -/
def execDirtyWriteback (cpt sector : Nat) (s : State) : Out :=
  match s.l1.find? (l1Key cpt (sector * 64)) with
  | some x =>
    event (if x.ty = .shared ∧ x.dirty ≠ 0 then (s.snoopHost [sector / 2]).getD (s.writeBack cpt (sector * 64)) else s)
  | none => event s

/-- R176: a line of the STREAM buffer is written to its slice once it is complete or 1,000 ns have passed since its first store; one
that the host may hold waits for it (R367). A complete line goes with the store that completes it (`State.streamStore`). -/
def execStreamBufferFlush (cluster line : Nat) (s : State) : Out :=
  match s.wc.find? (wcKey cluster (line * 128)) with
  | none => event s
  | some l =>
    if l.mask = BitVec.allOnes 128 ∨ l.since + 1000 ≤ s.time then
      event ((s.snoopHost [line]).getD (s.flushLine cluster (wcKey cluster (line * 128))))
    else event s

/-- R206: at a multiple of LEASE the halves rotate. -/
def execAccumulatorRotate (cpt : Nat) (s : State) : Out :=
  let a := s.acc cpt
  event (if (a.epoch + 1) * s.leaseNs (s.partOfCpt cpt) ≤ s.time then
      s.setAcc cpt { a with prev := a.cur, cur := 0, wrotePrev := a.wrote, wrote := 0, epoch := a.epoch + 1 }
    else s)

end Sys2Proof.Machine
end

