-- ==== Sys2Proof/Machine/Engine.lean ====
section
/-! DEFINITION. What the commands of the engines share: the checks at issue (R239), the batches (R240 to R242), and the bytes
an engine moves (R211, R310). -/

namespace Sys2Proof.Machine

/-- A range that a command names: a scratchpad range or a virtual one, its length, its alignment and its access. -/
structure Range where
  spad : Bool
  addr : W64
  len : Nat
  align : Nat := 4
  kind : AccKind := .copyRead
  deriving DecidableEq, Repr

/-- R239 step 5 for one range. -/
def State.rangeTrap (s : State) (t : ThreadId) (r : Range) : Option Trap :=
  let size := match t with
    | .gang g _ => (s.descOf (s.group g).team).spaceBytes
    | _ => 0
  if r.spad then
    if size < r.addr.toNat + r.len then some { kind := 0x10, addr := r.addr }
    else if r.addr.toNat % r.align ≠ 0 then some (Trap.misaligned r.addr)
    else none
  else if 2 ^ 48 < r.addr.toNat + max r.len 1 then some (Trap.addressRange r.addr)
  else if r.addr.toNat % r.align ≠ 0 then some (Trap.misaligned r.addr)
  else none

/-- R239 step 6: the pages of each virtual range, in order; a scratchpad range has none. -/
def State.pinRanges (s : State) (t : ThreadId) : List Range → State × Except (Nat × Nat) (List Frames)
  | [] => (s, .ok [])
  | r :: rest =>
    match if r.spad then (s, .ok []) else s.translateRange (s.spaceOf t) r.kind true r.addr.toNat r.len with
    | (s1, .error e) => (s1, .error e)
    | (s1, .ok f) =>
      match s1.pinRanges t rest with
      | (s2, .error e) => (s2, .error e)
      | (s2, .ok fs) => (s2, .ok (f :: fs))

/-- R239 step 8, R309: the first range that meets a watchpoint; atomics count as both directions. -/
def State.watchRanges (s : State) (t : ThreadId) (rs : List Range) : Option Trap :=
  rs.findSome? fun r =>
    if r.len = 0 then none
    else (s.watched t r.spad (!r.kind.writes || r.kind == .atomic) r.kind.writes r.addr.toNat r.len).map fun i => Trap.watch i r.addr 0

/-- What the checks of a command come to, from step 5 on: the pinned frames of its ranges. -/
inductive Pinned where
  | ok (s : State) (fs : List Frames)
  | stop (d : Did)

/-- R367: the ranges are pinned, unless a walk filled lines that the host may hold: then the word waits. -/
def State.pinnedOr (s s1 : State) (fs : List Frames) : Pinned :=
  match s.filledHeld s1 with
  | some w => .stop (.wait w)
  | none => .ok s1 fs

/-- Steps 5, 6 and 8 of R239; a walk that would fill a line that the host may hold waits (R367). DESIGN CHOICE (assumption 74): step 5
goes through the ranges in the order of the operands. -/
def State.checkRanges (s : State) (t : ThreadId) (rs : List Range) : Pinned :=
  match rs.findSome? (s.rangeTrap t) with
  | some tr => .stop (.trap tr)
  | none =>
    match s.pinRanges t rs with
    | (_, .error (c, va)) => .stop (.fault c (BitVec.ofNat 64 va) 0)
    | (s1, .ok fs) =>
      match s1.watchRanges t rs with
      | some tr => .stop (.trap tr)
      | none =>
        s.pinnedOr s1 fs

/-- R241: room in the open batch. -/
def State.batchFull (s : State) (g : Nat) : Bool := decide (64 ≤ (s.group g).openBatch.length)

/-- R240, R241: a command issues: its number, and the state with it in the group's open batch. -/
def State.issueCmd (s : State) (g : Nat) (k : CmdKind) : State × Nat :=
  let x := s.group g
  let id := s.nextId
  let c : Cmd := { group := g, team := x.team, kind := k, batch := x.batchNo }
  let s1 := { s with nextId := id + 1, cmds := s.cmds.insert id c }
  (s1.setGroup g { x with openBatch := x.openBatch ++ [id] }, id)

/-- Change a command. -/
def State.modCmd (s : State) (id : Nat) (f : Cmd → Cmd) : State := { s with cmds := s.cmds.modify id f }

/-- R241: the command completes. -/
def State.completeCmd (s : State) (id : Nat) : State := s.modCmd id fun c => { c with done := true }

/-- R242: a sum that saturates. -/
def satSum (l : List Nat) : Nat := min (l.foldl (· + ·) 0) (2 ^ 32 - 1)

/-- R242: the status word of a batch. -/
def batchStatus (n : BitVec 16) (cs : List Cmd) : W64 :=
  BitVec.ofNat 64 (n.toNat + cs.length * 2 ^ 16 + (cs.any (·.rowfault)).toNat * 2 ^ 24 + (cs.any (·.poison)).toNat * 2 ^ 25
    + (cs.any (·.badkey)).toNat * 2 ^ 26 + (cs.any (·.overflow)).toNat * 2 ^ 27 + satSum (cs.map (·.skipped)) * 2 ^ 32)

/-- R212: a register holds the status of a batch. -/
def State.holdStatus (s : State) (g d : Nat) (n : BitVec 16) : State :=
  s.setGroup g { s.group g with statusOf := (s.group g).statusOf.insert d n.toNat }

/-- R214: the values kept of registers that no pending `mwld` reads any more are forgotten. -/
def State.forgetOperands (s : State) (g : Nat) : State :=
  if (s.group g).opVals = [] then s
  else s.setGroup g { s.group g with opVals := (s.group g).opVals.filter fun e => (s.operandRegs g).contains (e.1 / 32) }

/-- R241: a closed batch whose commands have all completed fills its status register. -/
def State.settleBatch (s : State) (g : Nat) (n : BitVec 16) : State :=
  let x := s.group g
  match x.closed.find? fun b => b.num == n with
  | none => s
  | some b =>
    let cs := b.cmds.filterMap s.cmds.find?
    if cs.all (·.done) then
      let s1 := { s.setGroup g { x with closed := x.closed.erase b } with cmds := s.cmds.filter fun e => !b.cmds.contains e.1 }
      (if b.dst = 0 then s1 else (s1.putW (.gang g x.lowGang) b.dst (batchStatus n cs)).holdStatus g b.dst n).forgetOperands g
        |>.tryRetireGroup g
    else s

/-- R241. -/
def execBclose (t : Bool) (d : BitVec 6) (s : State) : Out :=
  issue (.bclose t d) s fun th s =>
    match th with
    | .gang g _ =>
      let x := s.group g
      if 16 ≤ x.closed.length then .wait s
      else
        let y : Group := { x with batchNo := x.batchNo + 1, openBatch := [], closed := x.closed ++ [⟨x.batchNo, x.openBatch, d.toNat⟩] }
        let s1 := (s.setGroup g y).emptyW th d.toNat
        .done (if x.openBatch.isEmpty then s1.settleBatch g x.batchNo else s1)
    | _ => .wait s

/-- R241, R242. -/
def execBatchComplete (group batch : Nat) (s : State) : Out :=
  event (if (s.groups.find? group).isSome then s.settleBatch group (BitVec.ofNat 16 batch) else s)

/-! ### The bytes an engine moves -/

/-- Four bytes an engine reads: scratchpad, or memory through the issuing cluster's L1; and whether they are poisoned. -/
def State.engRead (s : State) (g : Nat) (spad : Bool) (fr : Frames) (a : Nat) : State × Nat × Bool :=
  let team := (s.group g).team
  if spad then ({ s with fresh := s.fresh + 1 }, s.poolSeen g true a s.fresh, s.poolBad team a)
  else s.loadBytes (s.team team).cluster (framePhys fr a) 4 (s.threadTag (.gang g 0))

/-- R211, R268: an access of the group that issued before a command has not been performed. -/
def State.olderPending (s : State) (g id : Nat) : Bool :=
  s.reqs.any fun e => e.2.group == g && decide (e.1 < id) && !e.2.todo.isEmpty && e.2.inScope 3

/-- R346: a halted partition's engines do nothing. -/
def State.engineOff (s : State) (team : Nat) : Bool := (s.part (s.team team).part).halted

/-- Four bytes an engine writes for a command of a batch; poisoned data marks its place (R310), in a STREAM page when the line is
written (R176). A store that is lost is the group's lowest gang's (R342, R371). -/
def State.engWrite (s : State) (g : Nat) (spad : Bool) (fr : Frames) (a v : Nat) (bad : Bool) (batch : Nat) : State :=
  let team := (s.group g).team
  if spad then
    let s1 := (s.noteEngine g a batch).poolWrite team a 4 v
    if bad then s1.setPoolBad team a true else s1
  else
    let cpt := (s.team team).cluster
    let p := framePhys fr a
    let tag := s.threadTag (.gang g 0)
    if s.owns (s.partOfCpt cpt) p.pa && p.ty == .stream then s.streamStore cpt p.pa 4 v (BitVec.ofNat 64 a) tag bad
    else
      let r := s.storeBytes cpt p 4 v (BitVec.ofNat 64 a) tag
      let s1 := r.1.markStore (.gang g (s.group g).lowGang) (BitVec.ofNat 64 a) r.2
      if bad && s.owns (s.partOfCpt cpt) p.pa then
        (s1.evictSector cpt p.pa).setBad p.pa true
      else s1

/-- The lines of memory that n words of an engine lie in (R367); scratchpad has none. -/
def engLines (spad : Bool) (fr : Frames) (a n : Nat) : List Nat :=
  if spad then [] else ((List.range n).map fun i => (framePhys fr (a + 4 * i)).pa / 128).dedup

end Sys2Proof.Machine
end

