-- ==== Sys2Proof/Machine/Copy.lean ====
section
/-! DEFINITION. The copy engine: `cpy` (R244), `gather` (R245), `binscat` (R246), and their work. -/

namespace Sys2Proof.Machine

/-- 2 MiB, the longest range of a command (R240). -/
def rangeMax : Nat := 2 ^ 21

/-- R244: the slice of a `cpy` issued by a group. -/
def State.issueCpy (s : State) (g : Nat) (sSpad dSpad : Bool) (src dst : W64) (len : Nat) (fs : List Frames) : State :=
  let k := (s.group g).cpys
  let s1 := (s.issueCmd g (.cpy sSpad dSpad src.toNat dst.toNat len k (fs.getD 0 []) (fs.getD 1 []))).1
  s1.setGroup g { s1.group g with cpys := k + 1 }

/-- R244, R239 step 2: the gang holds every slice of the group that has not exited; lanes that are inactive do not count
(assumption 52). -/
def execCpy (t : Bool) (a : BitVec 6) (y x : BitVec 2) (s : State) : Out :=
  issue (.cpy t a y x) s fun th s =>
    match th with
    | .gang g k =>
      let src := s.getW th a.toNat
      let dst := s.getW th (a.toNat + 1)
      let len := (s.getW th (a.toNat + 2)).toNat
      let sSpad := x == 1
      let dSpad := y == 1
      if s.copyFull g then .wait s
      else if (s.group g).whole k = false then .trap (Trap.convergence 6)
      else if s.batchFull g then .trap (Trap.commandCheck 7)
      else if len / 2 ^ 22 ≠ 0 then .trap (Trap.commandCheck 1)
      else if len % 4 ≠ 0 ∨ rangeMax < len then .trap (Trap.commandCheck 5)
      else
        match s.checkRanges th [⟨sSpad, src, len, 4, .copyRead⟩, ⟨dSpad, dst, len, 4, .copyWrite⟩] with
        | .stop d => d
        | .ok s1 fs => .done (s1.issueCpy g sSpad dSpad src dst len fs)
    | _ => .wait s

/-- R245: the limits of step 4. -/
def gatherCause (width nidx stride row : Nat) : Nat :=
  if stride / 2 ^ 32 ≠ 0 then 1
  else if nidx = 0 ∨ 65536 < nidx ∨ rangeMax < nidx * width ∨ stride % 4 ≠ 0 ∨ row % 4 ≠ 0 ∨ row < 4 ∨ 65536 < row
      ∨ rangeMax < nidx * row then 5
  else 0

/-- R245. -/
def execGather (t : Bool) (a : BitVec 6) (y : BitVec 2) (x : Bool) (s : State) : Out :=
  issue (.gather t a y x) s fun th s =>
    match th with
    | .gang g _ =>
      let r := fun i => s.getW th (a.toNat + i)
      let width := if x then 8 else 4
      let nidx := (r 1).toNat
      let row := (r 4).toNat
      let dSpad := y == 1
      let c := gatherCause width nidx (r 3).toNat row
      if s.copyFull g then .wait s
      else if s.batchFull g then .trap (Trap.commandCheck 7)
      else if c ≠ 0 then .trap (Trap.commandCheck c)
      else
        let idx : Range := ⟨false, r 0, nidx * width, width, .copyRead⟩
        let dst : Range := ⟨dSpad, r 5, nidx * row, 4, .copyWrite⟩
        match [idx, ⟨false, r 2, 0, 4, .copyRead⟩, dst].findSome? (s.rangeTrap th) with
        | some tr => .trap tr
        | none =>
          match s.checkRanges th [idx, dst] with
          | .stop d => d
          | .ok s1 fs =>
            .done (s1.issueCmd g (.gather dSpad x (r 0).toNat nidx (r 2).toNat (r 3).toNat row (r 5).toNat
              (fs.getD 0 []) (fs.getD 1 []))).1
    | _ => .wait s

/-- R246: the limits of step 4. -/
def binscatCause (ntok tsize nbins : Nat) : Nat :=
  if ntok = 0 ∨ 65536 < ntok ∨ tsize % 4 ≠ 0 ∨ tsize < 4 ∨ 4096 < tsize ∨ rangeMax < ntok * tsize ∨ nbins = 0 ∨ 256 < nbins
  then 5 else 0

/-- R246: the bins as device-scope reads at their slices find their entries, after what the group's cluster holds of them has been
written back (R203): address of CNT, BASE and CAP. One outside the partition reads as 0 (R342; assumption 51). -/
def State.readBins (s : State) (g : Nat) (fr : Frames) (bins : Nat) : Nat → State × List (Nat × Nat × Nat)
  | 0 => (s, [])
  | n + 1 =>
    let r := s.readBins g fr bins n
    let t := ThreadId.gang g 0
    let p := framePhys fr (bins + 16 * n)
    let part := s.partOfCpt (s.cptOf t)
    let u := if r.1.owns part p.pa then r.1.evictSector (s.cptOf t) p.pa else r.1
    let e := (u.siteValue part p 12).1
    (u.siteTouch part (s.cptOf t) p 12 (s.threadTag t), r.2 ++ [(p.pa + 12, e % 2 ^ 64, e / 2 ^ 64)])

/-- R246. DESIGN CHOICE (assumption 75): the table's pages are translated as an atomic's, since its counters are bumped; and what depends
on its entries (CAP, the slots' ranges and pages) is checked after the pages of the ranges that the word names, before their types
(cause 3). -/
def execBinscat (t : Bool) (a : BitVec 6) (x : BitVec 2) (s : State) : Out :=
  issue (.binscat t a x) s fun th s =>
    match th with
    | .gang g _ =>
      let r := fun i => s.getW th (a.toNat + i)
      let ntok := (r 1).toNat
      let tsize := (r 2).toNat
      let nbins := (r 5).toNat
      let sSpad := x == 1
      let c := binscatCause ntok tsize nbins
      if s.copyFull g then .wait s
      else if s.batchFull g then .trap (Trap.commandCheck 7)
      else if c ≠ 0 then .trap (Trap.commandCheck c)
      else
        let named : List Range := [⟨sSpad, r 0, ntok * tsize, 4, .copyRead⟩, ⟨false, r 3, 4 * ntok, 4, .copyRead⟩,
          ⟨false, r 4, 16 * nbins, 16, .atomic⟩]
        match named.findSome? (s.rangeTrap th) with
        | some tr => .trap tr
        | none =>
          match s.pinRanges th named with
          | (_, .error (c, va)) => .fault c (BitVec.ofNat 64 va) 0
          | (s1, .ok fs) =>
            let tab := fs.getD 2 []
            match s1.snoopHost (engLines false tab (r 4).toNat (4 * nbins)) with
            | some s2 => .wait s2
            | none =>
            let q := s1.readBins g tab (r 4).toNat nbins
            let bins := q.2
            if bins.any fun b => decide (2 ^ 31 ≤ b.2.2 ∨ rangeMax < b.2.2 * tsize) then .trap (Trap.commandCheck 5)
            else
              let slots := bins.map fun b => (⟨false, BitVec.ofNat 64 b.2.1, b.2.2 * tsize, 4, .copyWrite⟩ : Range)
              match slots.findSome? (q.1.rangeTrap th) with
              | some tr => .trap tr
              | none =>
                match q.1.pinRanges th slots with
                | (_, .error (c, va)) => .fault c (BitVec.ofNat 64 va) 0
                | (s2, .ok bs) =>
                  if framesTyped tab [.shared] = false then .trap (Trap.commandCheck 3)
                  else
                    match s2.watchRanges th (named ++ slots) with
                    | some tr => .trap tr
                    | none =>
                    match s.filledHeld s2 with
                    | some w => .wait w
                    | none =>
                      .done (s2.issueCmd g (.binscat sSpad (r 0).toNat ntok tsize (r 3).toNat (r 4).toNat
                        (bins.map fun b => (b.1, b.2.1, b.2.2)) (fs.getD 0 []) (bs.foldl (fun m f =>
                          f.foldl (fun m e => m.insert e.1 e.2) m) (fs.getD 1 [])))).1
    | _ => .wait s

/-! ### Work

A copy command runs word by word: the steps of the agenda name the next word to move, in any order (R240, R243 to R246), so that
other commands' words and other agents' accesses fall between; an event of a command moves what is left of it. -/

/-- How many rows or tokens a copy command has; a `cpy` is one row. -/
def CmdKind.rows : CmdKind → Nat
  | .cpy .. => 1
  | .gather _ _ _ nidx _ _ _ _ _ _ => nidx
  | .binscat _ _ ntok _ _ _ _ _ _ => ntok
  | _ => 0

/-- The words of one row or token. -/
def CmdKind.rowWords : CmdKind → Nat
  | .cpy _ _ _ _ len _ _ _ => len / 4
  | .gather _ _ _ _ _ _ row _ _ _ => row / 4
  | .binscat _ _ _ tsize _ _ _ _ _ => tsize / 4
  | _ => 0

/-- Where the words of a copy command come from and go to, and the frames of the destination: true for scratchpad. -/
def CmdKind.ends : CmdKind → Bool × Bool × Frames
  | .cpy a b _ _ _ _ _ df => (a, b, df)
  | .gather b _ _ _ _ _ _ _ _ fd => (false, b, fd)
  | .binscat a _ _ _ _ _ _ _ fk => (a, false, fk)
  | _ => (true, true, [])

/-- A row or token has begun: its words, or that it is skipped. -/
def State.beginWork (s : State) (id row : Nat) (w : Option Work) (f : Cmd → Cmd) : State :=
  s.modCmd id fun c => { f c with begun := c.begun.insert row w }

/-- R245: row i of a `gather` begins: its index is read and its pages are translated. A 64-bit index is read in two turns, the low
word first, since nothing larger than a word is read at once (R197, R243). DESIGN CHOICE (assumption 70): an index that comes poisoned
is used and sets POISON. -/
def State.beginRow (s : State) (id g : Nat) (x64 : Bool) (idx tbase stride row dst : Nat) (fi : Frames) (low : Option (Nat × Bool))
    (i : Nat) : State :=
  let first := x64 && low.isNone
  let at_ := if x64 then idx + 8 * i + (if first then 0 else 4) else idx + 4 * i
  match s.snoopHost (engLines false fi at_ 1) with
  | some s1 => s1
  | none =>
    let q := s.engRead g false fi at_
    if first then q.1.modCmd id fun c => { c with lows := c.lows.insert i q.2 }
    else
      let x := match low with
        | some l => if x64 then l.1 + q.2.1 * 2 ^ 32 else q.2.1
        | none => q.2.1
      let bad := q.2.2 || (x64 && (low.map (·.2)).getD false)
      let r := (tbase + x * stride) % 2 ^ 64
      let skip := fun (u : State) => u.beginWork id i none fun c =>
        { c with poison := c.poison || bad, rowfault := true, skipped := c.skipped + 1 }
      if 2 ^ 48 < r + row then skip q.1
      else
        let sp := q.1.spaceOf (.gang g 0)
        let pages := (List.range ((r + row - 1) / 4096 - r / 4096 + 1)).map fun n => (r / 4096 + n) * 4096
        match q.1.snoopHost (pages.flatMap (q.1.walkLines sp)) with
        | some s1 => s1
        | none =>
          match q.1.translateRange sp .copyRead true r row with
          | (s2, .error _) => skip s2
          | (s2, .ok fr) => s2.beginWork id i (some ⟨r, dst + i * row, fr⟩) fun c => { c with poison := c.poison || bad }

/-- R246: the bump of a bin's counter at its home slice: the slot, none when the bin is full. -/
def State.bumpBin (s : State) (cpt cnt cap tag : Nat) : State × Option Nat :=
  let line := cnt / 128 * 128
  let s1 := (s.evictSector cpt line).evictSector cpt (line + 64)
  let old := s1.homeValue cnt 4
  let part := s1.partOfCpt cpt
  if old % 2 ^ 31 < cap then ((s1.homeWrite cnt 4 (old + 1) part tag).carryPending cpt (cnt / 128), some (old % 2 ^ 31))
  else ((s1.homeWrite cnt 4 (old % 2 ^ 31 + 2 ^ 31) part tag).carryPending cpt (cnt / 128), none)

/-- R246: token t of a `binscat` begins: its key is read and its bin's counter bumped. A counter outside the partition answers with
poison, and the token is skipped (R342, assumption 51). DESIGN CHOICE (assumption 70): a key that comes poisoned is used and sets
POISON, for a token that has a bin; the mark of an entry or a counter has no effect. -/
def State.beginToken (s : State) (id g : Nat) (tok tsize keys : Nat) (bin : List (Nat × Nat × Nat)) (ft fk : Frames) (t : Nat) : State :=
  match s.snoopHost (engLines false fk (keys + 4 * t) 1) with
  | some s1 => s1
  | none =>
    let k := s.engRead g false fk (keys + 4 * t)
    let tm := s.team (s.group g).team
    let drop := fun (u : State) (f : Cmd → Cmd) => u.beginWork id t none fun c => f { c with skipped := c.skipped + 1 }
    match bin[k.2.1]? with
    | none => drop k.1 fun c => { c with badkey := true, poison := c.poison || k.2.2 }
    | some (cnt, base, cap) =>
      if k.1.owns tm.part cnt = false then drop k.1.countDrop fun c => { c with poison := true }
      else
        match k.1.snoopHost [cnt / 128] with
        | some s1 => s1
        | none =>
          match k.1.bumpBin tm.cluster cnt cap (k.1.threadTag (.gang g 0)) with
          | (s1, none) => drop s1 fun c => { c with overflow := true }
          | (s1, some i) =>
            s1.beginWork id t (some ⟨tok + t * tsize, base + i * tsize, ft⟩) fun c => { c with poison := c.poison || k.2.2 }

/-- A row or token begins, where it may: the rows of a `gather` in any order (R245), the tokens of a `binscat` in ascending order
(R246). -/
def State.beginPart (s : State) (id : Nat) (c : Cmd) (row : Nat) : State :=
  if (c.begun.find? row).isSome then s
  else
    match c.kind with
    | .cpy _ _ src dst _ _ sf _ => s.beginWork id row (some ⟨src, dst, sf⟩) fun c => c
    | .gather _ x64 idx _ tbase stride rw dst fi _ => s.beginRow id c.group x64 idx tbase stride rw dst fi (c.lows.find? row) row
    | .binscat _ tok _ tsize keys _ bin ft fk =>
      if row = c.begun.length then s.beginToken id c.group tok tsize keys bin ft fk row else s
    | _ => s

/-- R240, R244 to R246: one turn of a copy command: its row or token begins, or a word of one that has begun moves; one whose lines
the host may hold waits (R367), and one that has moved stays. -/
def State.copyWord (s : State) (id row word : Nat) : State :=
  match s.cmds.find? id with
  | none => s
  | some c =>
    if c.done || decide (c.kind.rows ≤ row ∨ c.kind.rowWords ≤ word) then s
    else
      let k := row * c.kind.rowWords + word
      match c.begun.find? row with
      | none => s.beginPart id c row
      | some none => s
      | some (some w) =>
        let e := c.kind.ends
        let src := w.src + 4 * word
        let dst := w.dst + 4 * word
        if (c.moved.find? k).isSome then s
        else
          match s.snoopHost (engLines e.1 w.fr src 1 ++ engLines e.2.1 e.2.2 dst 1) with
          | some s1 => s1
          | none =>
            let r := s.engRead c.group e.1 w.fr src
            (r.1.engWrite c.group e.2.1 e.2.2 dst r.2.1 r.2.2 c.batch.toNat).modCmd id fun c =>
              { c with poison := c.poison || r.2.2, moved := c.moved.insert k r.2.2 }

/-- Every row or token has begun, and every word of those that are not skipped has moved. -/
def Cmd.copied (c : Cmd) : Bool :=
  c.kind.rowWords * (c.begun.filter fun e => e.2.isSome).length == c.moved.length &&
    (c.kind.rowWords == 0 || c.begun.length == c.kind.rows)

/-- R241: a copy command that has moved everything completes. -/
def State.finishCopy (s : State) (id : Nat) : State :=
  match s.cmds.find? id with
  | some c => if !c.done && c.copied then (s.completeCmd id).tryRetireGroup c.group else s
  | none => s

/-- The turns of a row, by word: two at the most begin it, and the others move its words. -/
def Cmd.turns (c : Cmd) : List Nat := [0, 0] ++ List.range c.kind.rowWords

/-- What is left of a copy command moves, in ascending order, and the command completes. -/
def State.copyRest (s : State) (id : Nat) : State :=
  match s.cmds.find? id with
  | none => s
  | some c =>
    ((List.range c.kind.rows).foldl (fun t i => c.turns.foldl (fun u j => u.copyWord id i j) t) s).finishCopy id

/-- R244: the slices of collective k of a team that have not completed. -/
def State.slicesOfCpy (s : State) (team k : Nat) : List (Nat × Cmd) :=
  s.cmds.filter fun e => e.2.team == team && !e.2.done && (match e.2.kind with
    | .cpy _ _ _ _ _ n _ _ => n == k
    | _ => false)

/-- R244, R211: every group of the team that has not retired has supplied its slice of the next collective, and has performed
what it accessed before. -/
def State.cpyReady (s : State) (team : Nat) : Bool :=
  let k := (s.team team).cpyStarted
  !(s.slicesOfCpy team k).isEmpty && ((s.groupsOf team).all fun g => decide (k < (s.group g).cpys)) &&
    !(s.slicesOfCpy team k).any fun e => s.olderPending e.2.group e.1

/-- R244: the next collective of a team starts; slices of no bytes complete. -/
def State.startCpy (s : State) (team : Nat) : State :=
  let k := (s.team team).cpyStarted
  let s1 := s.setTeam team { s.team team with cpyStarted := k + 1 }
  (s1.slicesOfCpy team k).foldl (fun t e => if e.2.kind.rowWords = 0 then t.finishCopy e.1 else t) s1

/-- The slices of a team's collectives that have started and not completed. -/
def State.runningCpy (s : State) (team : Nat) : List (Nat × Cmd) :=
  (List.range (s.team team).cpyStarted).flatMap (s.slicesOfCpy team)

/-- R244: what is left of a team's collectives that have started; then the next one, once every group that has not retired has
supplied its slice. -/
def execCpyCollectiveStart (team : Nat) (s : State) : Out :=
  if s.engineOff team then event s
  else
    let rest := fun (u : State) => (u.runningCpy team).foldl (fun t e => t.copyRest e.1) u
    let s1 := rest s
    event (if s1.cpyReady team then rest (s1.startCpy team) else s1)

/-- R211, R346: a command may work: a `cpy` whose collective has started, another that no older access of its group holds up. -/
def State.copyMay (s : State) (id : Nat) (c : Cmd) : Bool :=
  !c.done && !s.engineOff c.team &&
    match c.kind with
    | .cpy _ _ _ _ _ k _ _ => decide (k < (s.team c.team).cpyStarted)
    | _ => !s.olderPending c.group id

/-- R240, R243: the copy engine moves one word of a command; it starts a collective whose slices have all come (R244). -/
def State.stepCopy (s : State) (id row word : Nat) : State :=
  match s.cmds.find? id with
  | none => s
  | some c =>
    let next := match c.kind with
      | .cpy _ _ _ _ _ k _ _ => decide (k = (s.team c.team).cpyStarted) && s.cpyReady c.team && !s.engineOff c.team
      | _ => false
    let s1 := if next then s.startCpy c.team else s
    if s1.copyMay id c then (s1.copyWord id row word).finishCopy id else s1

/-- R245. -/
def execGatherRun (cmd : Nat) (s : State) : Out :=
  match s.cmds.find? cmd with
  | none => event s
  | some c =>
    match c.kind with
    | .gather .. => event (if s.copyMay cmd c then s.copyRest cmd else s)
    | _ => event s

/-- R246. -/
def execBinscatRun (cmd : Nat) (s : State) : Out :=
  match s.cmds.find? cmd with
  | none => event s
  | some c =>
    match c.kind with
    | .binscat .. => event (if s.copyMay cmd c then s.copyRest cmd else s)
    | _ => event s

end Sys2Proof.Machine
end

