-- ==== Sys2Proof/Machine/Matrix.lean ====
section
/-! DEFINITION. The matrix words: `mwld`, `mma`, `macc`, `cbload` and `mopfence` as they issue (R249 to R259, R262). -/

namespace Sys2Proof.Machine

/-- R249: a matrix command issues: it joins the open batch and the group's queue. -/
def State.issueMatrix (s : State) (g : Nat) (k : CmdKind) : State :=
  let r := s.issueCmd g k
  r.1.setGroup g { r.1.group g with mq := (r.1.group g).mq ++ [r.2] }

/-- R278: a tile of the team is held by a stream or by an open. -/
def State.tileHeld (s : State) (g m : Nat) : Bool := (s.team (s.group g).team).heldTiles.contains m

/-- Codebook slots of the group's team (R103). -/
def State.booksOf (s : State) (g : Nat) : Nat := (s.grid (s.team (s.group g).team).grid).books

/-- R252: all four groups of a quad have not retired. -/
def State.quadWhole (s : State) (team q : Nat) : Bool :=
  (List.range 4).all fun i => (s.groups.find? (16 * team + 4 * q + i)).isSome

/-- R383: reduced service is in force. -/
def State.reduced (s : State) : Bool := s.root.bootstat.getLsbD 20

/-- R383: the formats that reduced service has: E4M3, E5M2 and BF16. -/
def reducedFmt (f : Nat) : Bool := f == 0 || f == 1 || f == 3

/-- R250: the permitted pairs: stream format and S, weight format and S. -/
def pairOk (f : Nat) (sf : Bool) (w : Nat) (sw : Bool) : Bool :=
  if f ≤ 1 then decide (w ≤ 1)
  else if f = 2 then w == 2 && sf == sw
  else if f = 3 then w == 3
  else if f = 4 then w == 4
  else if f = 5 then w == 5 || w == 7
  else f == 6 && w == 6

/-- R250: K per weight load. -/
def fmtK (f : Nat) : Nat := if f = 3 ∨ f = 4 then 16 else if f ≤ 2 then 32 else 64

/-- Bits of an element (R54). -/
def fmtBits (f : Nat) : Nat := 256 / fmtK f

/-- R251 to R253: the checks of `mwld` from step 2 on; the word issues when there is none. -/
def State.mwldCheck (s : State) (g k slot f : Nat) : Option Trap :=
  let x := s.group g
  if x.allActive k = false then some (Trap.convergence 7)
  else if s.batchFull g then some (Trap.commandCheck 7)
  else if f = 7 ∧ s.booksOf g ≤ slot then some (Trap.commandCheck 5)
  else if s.quadWhole x.team (x.num / 4) = false then some (Trap.commandCheck 9)
  else if s.reduced ∧ reducedFmt f = false then some (Trap.commandCheck 13)
  else none

/-- R251, R253: `mwld` issues as its group's next part of a weight load. -/
def State.issueMwld (s : State) (g : Nat) (th : ThreadId) (d a : BitVec 6) (slot : Nat) (sf : Bool) (f : Nat) : State :=
  let x := s.group g
  let s1 := s.issueMatrix g (.mwld x.mwlds (2 * d.toNat) (if sf then s.getW th a.toNat else 0)
    (if sf then s.getW th (a.toNat + 1) else 0) slot sf f)
  s1.setGroup g { s1.group g with mwlds := x.mwlds + 1, lastMwld := some (f, sf) }

/-- R251, R252. -/
def execMwld (t : Bool) (d a : BitVec 6) (l : BitVec 2) (sf : Bool) (f : BitVec 4) (s : State) : Out :=
  issue (.mwld t d a l sf f) s fun th s =>
    match th with
    | .gang g k =>
      if s.mqFull g then .wait s
      else
        match s.mwldCheck g k l.toNat f.toNat with
        | some tr => .trap tr
        | none => .done (s.issueMwld g th d a l.toNat sf f.toNat)
    | _ => .wait s

/-- R256: the ranges of the rows and of the scales of an `mma`. -/
def mmaRanges (off stride soff : W64) (rows : Nat) (sf : Bool) (f : Nat) : List Range :=
  (⟨true, off, (rows - 1) * stride.toNat + 32, 32, .copyRead⟩ : Range) ::
    (if sf then [⟨true, soff, 2 * (rows - 1) + (if fmtK f = 64 then 2 else 1), 2, .copyRead⟩] else [])

/-- R256: the bytes an `mma` reads, for the watchpoints. -/
def mmaBytes (off stride soff : W64) (rows : Nat) (sf : Bool) (f : Nat) : List Range :=
  (List.range rows).map (fun i => (⟨true, off + BitVec.ofNat 64 i * stride, 32, 32, .copyRead⟩ : Range)) ++
    (if sf then (List.range rows).map fun i =>
      (⟨true, soff + BitVec.ofNat 64 (2 * i), (if fmtK f = 64 then 2 else 1), 1, .copyRead⟩ : Range) else [])

/-- R256: the checks of `mma` from step 3 on. -/
def State.mmaCheck (s : State) (g : Nat) (th : ThreadId) (off stride soff : W64) (m rows : Nat) (sf : Bool) (f : Nat) :
    Option Trap :=
  if s.batchFull g then some (Trap.commandCheck 7)
  else if sf = false ∧ soff ≠ 0 then some (Trap.commandCheck 1)
  else if stride.toNat % 32 ≠ 0 ∨ 65504 < stride.toNat then some (Trap.commandCheck 5)
  else if s.tileHeld g m then some (Trap.commandCheck 10)
  else if (match (s.group g).lastMwld with
    | some (w, sw) => pairOk f sf w sw
    | none => false) = false then some (Trap.commandCheck 8)
  else if s.reduced ∧ reducedFmt f = false then some (Trap.commandCheck 13)
  else
    match (mmaRanges off stride soff rows sf f).findSome? (s.rangeTrap th) with
    | some tr => some tr
    | none => s.watchRanges th (mmaBytes off stride soff rows sf f)

/-- R256. -/
def execMma (t : Bool) (d a r : BitVec 6) (z sf : Bool) (f : BitVec 4) (s : State) : Out :=
  issue (.mma t d a r z sf f) s fun th s =>
    match th with
    | .gang g _ =>
      let off := s.getW th a.toNat
      let stride := s.getW th (a.toNat + 1)
      let soff := s.getW th (a.toNat + 2)
      if s.mqFull g then .wait s
      else
        match s.mmaCheck g th off stride soff d.toNat (r.toNat + 1) sf f.toNat with
        | some tr => .trap tr
        | none => .done (s.issueMatrix g (.mma d.toNat (r.toNat + 1) z sf f.toNat off.toNat stride.toNat soff.toNat))
    | _ => .wait s

/-- The checks that every `macc` and `cbload` has from step 3 on: the batch, a cause of its own, held tiles, ranges and
watchpoints. -/
def State.tileCheck (s : State) (g : Nat) (th : ThreadId) (cause : Nat) (tiles : List Nat) (rs : List Range) : Option Trap :=
  if s.batchFull g then some (Trap.commandCheck 7)
  else if cause ≠ 0 then some (Trap.commandCheck cause)
  else if tiles.any (s.tileHeld g) then some (Trap.commandCheck 10)
  else
    match rs.findSome? (s.rangeTrap th) with
    | some tr => some tr
    | none => s.watchRanges th rs

/-- A `macc` or `cbload` with its checks issues. -/
def State.queueMatrix (s : State) (th : ThreadId) (cause : Nat) (tiles : List Nat) (rs : List Range) (k : CmdKind) : Did :=
  match th with
  | .gang g _ =>
    if s.mqFull g then .wait s
    else
      match s.tileCheck g th cause tiles rs with
      | some tr => .trap tr
      | none => .done (s.issueMatrix g k)
  | _ => .wait s

/-- R258. -/
def execMaccZero (t : Bool) (d : BitVec 6) (s : State) : Out :=
  issue (.maccZero t d) s fun th s => s.queueMatrix th 0 [d.toNat] [] (.maccZero d.toNat)

/-- R258. -/
def execMaccLoad (t : Bool) (d a : BitVec 6) (s : State) : Out :=
  issue (.maccLoad t d a) s fun th s =>
    let off := s.getW th a.toNat
    s.queueMatrix th 0 [d.toNat] [⟨true, off, 8192, 128, .copyRead⟩] (.maccLoad d.toNat off.toNat)

/-- R259: bytes per element of a `macc.store` conversion. -/
def cvtSize (c : Nat) : Nat := if c = 0 then 4 else if c ≤ 2 then 2 else 1

/-- R258, R259. -/
def execMaccStore (t : Bool) (d a : BitVec 6) (c : BitVec 3) (s : State) : Out :=
  issue (.maccStore t d a c) s fun th s =>
    let off := s.getW th a.toNat
    s.queueMatrix th 0 [d.toNat] [⟨true, off, 2048 * cvtSize c.toNat, 128, .copyWrite⟩]
      (.maccStore d.toNat c.toNat off.toNat)

/-- R258. -/
def execMaccAdd (t : Bool) (d b : BitVec 6) (s : State) : Out :=
  issue (.maccAdd t d b) s fun th s => s.queueMatrix th 0 [d.toNat, b.toNat] [] (.maccAdd d.toNat b.toNat)

/-- R258. -/
def execMaccScale (t : Bool) (d a : BitVec 6) (s : State) : Out :=
  issue (.maccScale t d a) s fun th s =>
    s.queueMatrix th 0 [d.toNat] [] (.maccScale d.toNat ((s.getW th a.toNat).setWidth 32))

/-- R258: `macc.row` empties `v[x]` in every lane. -/
def execMaccRow (t : Bool) (d a : BitVec 6) (s : State) : Out :=
  issue (.maccRow t d a) s fun th s =>
    match th with
    | .gang g _ =>
      let v := (s.getW th a.toNat).toNat
      let row := v % 64
      let x := v / 256 % 128
      let cause := if v / 64 % 4 ≠ 0 ∨ v / 2 ^ 15 ≠ 0 then 1 else if (s.group g).budget ≤ x then 5 else 0
      if s.mqFull g then .wait s
      else
        match s.tileCheck g th cause [d.toNat] [] with
        | some tr => .trap tr
        | none =>
          if (s.group g).vEmpty.getLsbD x then .wait s
          else
            let s1 := s.issueMatrix g (.maccRow d.toNat row x)
            .done (s1.setGroup g { s1.group g with vEmpty := setBit (s1.group g).vEmpty x true })
    | _ => .wait s

/-- R261. -/
def execMaccClear (t : Bool) (s : State) : Out :=
  issue (.maccClear t) s fun th s => s.queueMatrix th 0 [] [] .maccClear

/-- R254. -/
def execCbload (t : Bool) (d a : BitVec 6) (s : State) : Out :=
  issue (.cbload t d a) s fun th s =>
    let off := s.getW th a.toNat
    let cause := match th with
      | .gang g _ => if s.booksOf g ≤ d.toNat then 5 else 0
      | _ => 0
    s.queueMatrix th cause [] [⟨true, off, 1024, 4, .copyRead⟩] (.cbload d.toNat off.toNat)

/-- R255: every fill of the group has come; from then on its matrix and stream commands read what the words before wrote to
its registers, and the scratchpad stores that precede it (assumption 52). -/
def execMopfence (t : Bool) (s : State) : Out :=
  issue (.mopfence t) s fun th s =>
    match th with
    | .gang g _ =>
      let x := s.group g
      if x.vEmpty ≠ 0 ∨ x.uni.empty ≠ 0 then .wait s
      else
        .done ((s.setGroup g { x with vOld := [] }).setTeam x.team { s.team x.team with
          unfenced := fenceNotes (s.team x.team).unfenced x.num (s.descOf x.team).ngroups })
    | _ => .wait s

end Sys2Proof.Machine
end

