-- ==== Sys2Proof/Machine/MatrixRun.lean ====
section
/-! DEFINITION. What the matrix engine does at a command's turn: weight loads (R253), `mma` (R257), the tile operations
(R258, R259), codebook loads (R254), and data errors (R260, R261). -/

namespace Sys2Proof.Machine

/-! ### The queue -/

/-- The engines of a team's core run its commands: the team stands on a core of a partition that is not halted. -/
def State.engineOn (s : State) (team : Nat) : Bool :=
  match s.teams.find? team with
  | some x => x.placed && !(s.part x.part).halted
  | none => false

/-- The command at the head of a group's queue, when the engine runs it. -/
def State.mqHead (s : State) (g : Nat) : Option (Nat × Cmd) :=
  match s.groups.find? g with
  | none => none
  | some x =>
    match x.mq with
    | [] => none
    | id :: _ => if s.engineOn x.team then (s.cmds.find? id).map fun c => (id, c) else none

/-- The head of the queue completes. -/
def State.endMatrix (s : State) (g id : Nat) : State :=
  (s.setGroup g { s.group g with mq := (s.group g).mq.erase id }).completeCmd id

/-- R262: the group's queue is halted. -/
def Group.mqHalted (x : Group) : Bool := x.mstat.getLsbD 1

/-- A tile of a team by its number. -/
def State.tile (s : State) (team m : Nat) : Tile := ((s.team team).tiles.find? m).getD {}

/-- Replace a tile. -/
def State.setTile (s : State) (team m : Nat) (x : Tile) : State :=
  s.setTeam team { s.team team with tiles := (s.team team).tiles.insert m x }

/-- R257: an element of a tile. -/
def Tile.at (x : Tile) (i n : Nat) : W32 := x.el.get 0 (32 * i + n)

/-- A valid tile from its elements. -/
def Tile.ofFn (poison : Bool) (f : Nat → Nat → W32) : Tile :=
  { valid := true, poison := poison
    el := ((List.range 2048).map fun j => (j, f (j / 32) (j % 32))).filter fun e => e.2 != 0 }

/-- R260: the record of a data error in `sr.MSTAT`: the first one stands. -/
def Group.dataError (x : Group) (cause d opc : Nat) (batch : BitVec 16) : Group :=
  if x.mqHalted then x
  else { x with mstat := BitVec.ofNat 64 (x.mstat.toNat % 2 + 2 + cause * 2 ^ 4 + d % 64 * 2 ^ 8 + opc * 2 ^ 16
    + batch.toNat * 2 ^ 32) }

/-- R260: a data error of a command that names a tile. -/
def State.tileError (s : State) (g id : Nat) (c : Cmd) (cause m opc : Nat) : State :=
  let s1 := s.setGroup g ((s.group g).dataError cause m opc c.batch)
  (s1.setTile c.team m { s1.tile c.team m with valid := false }).endMatrix g id

/-- R290: a stream that is closing still has the tile. -/
def State.tileClosing (s : State) (team : Nat) (ms : List Nat) : Bool :=
  s.streams.any fun e => e.2.team == team && e.2.closing &&
    ms.any fun m => m == e.2.tile || (e.2.comp && m == e.2.tile + 1)

/-! ### Elements -/

/-- A two's complement pattern of w bits as a value. -/
def intVal (w x : Nat) : FVal :=
  let y := if x < 2 ^ (w - 1) then (x : Int) else (x : Int) - 2 ^ w
  .fin (decide (y < 0)) y.natAbs 0

/-- R55, R56, R59: the value of an element of a format. -/
def elemVal (f x : Nat) : FVal :=
  match f with
  | 0 => e4m3.unpack x
  | 1 => e5m2.unpack x
  | 2 => intVal 8 x
  | 3 => bf16.unpack x
  | 4 => fp16.unpack x
  | 5 => e2m1.unpack x
  | 6 => intVal 4 x
  | _ => .fin (decide (2 ^ 31 ≤ x)) (x % 2 ^ 31) (-3)

/-- A value times a power of two. -/
def FVal.shift (v : FVal) (k : Int) : FVal :=
  match v with
  | .fin n m e => .fin n m (e + k)
  | v => v

/-- The integer of a value without fraction. -/
def FVal.int : FVal → Int
  | .fin n m e => signedMant n (scale m e)
  | _ => 0

/-- R59: element i of an LQ2 index: its sign in bit 31 and its magnitude in eighths. -/
def lq2Elem (entry : W32) (idx i : Nat) : W32 :=
  let h := idx % 2
  let q := entry.toNat / 2 ^ (4 * i) % 16
  let par := (List.range 7).foldl (fun a j => a != idx.testBit (j + 1)) (h == 1)
  let neg := if i < 7 then idx.testBit (i + 1) else par
  BitVec.ofNat 32 (2 * q + h + (if neg then 2 ^ 31 else 0))

/-- The free values one turn of the matrix engine may have drawn. -/
def State.passDraws (s : State) : State := { s with fresh := s.fresh + 2 ^ 20 }

/-! ### Weight loads (R253) -/

/-- The four commands that stand at the heads of a quad's queues and are parts of one weight load. -/
def State.loadParts (s : State) (team q : Nat) : List (Nat × Nat × Cmd) :=
  (List.range 4).filterMap fun i =>
    let g := 16 * team + 4 * q + i
    (s.mqHead g).bind fun e => match e.2.kind with
      | .mwld .. => some (g, e.1, e.2)
      | _ => none

/-- The fields of an `mwld` that must agree: format, S and slot. -/
def Cmd.loadFields (c : Cmd) : Nat × Bool × Nat :=
  match c.kind with
  | .mwld _ _ _ _ slot sf f => (f, sf, slot)
  | _ => (0, false, 0)

/-- The scale of column c of a group's quarter for rows 32 h on. -/
def Cmd.scaleByte (c : Cmd) (h col : Nat) : Nat :=
  match c.kind with
  | .mwld _ _ s0 s1 _ _ _ => (if h = 0 then s0 else s1).toNat / 2 ^ (8 * col) % 256
  | _ => 0

/-- A scale of 0xFF among those a group supplies. -/
def Cmd.badScale (c : Cmd) : Bool :=
  c.loadFields.2.1 &&
    (List.range (fmtK c.loadFields.1 / 32)).any fun h => (List.range 8).any fun col => c.scaleByte h col == 0xFF

/-- R214, R263: an element of an operand register as the engine reads it: one that lane words have written under the pending load is,
freely, what it was before or what one of them wrote; one written since the group's last `mopfence`, what it was then or what it
is now (assumption 5). -/
def State.seenV (s : State) (g r l : Nat) : W32 :=
  match (s.group g).opVals.find? (32 * r + l), (s.group g).vOld.find? (32 * r + l) with
  | some vs, _ => vs.getD ((Config.freeWord (s.fresh + 4096 * (g % 16) + 32 * r + l)).toNat % vs.length) 0
  | none, some old => if (Config.freeWord (s.fresh + 4096 * (g % 16) + 32 * r + l)).getLsbD 0 then old else (s.group g).getV r l
  | none, none => (s.group g).getV r l

/-- The register pair of lane l that an `mwld` names. -/
def State.loadPair (s : State) (g : Nat) (c : Cmd) (l : Nat) : Nat :=
  match c.kind with
  | .mwld _ vr _ _ _ _ _ => (s.seenV g vr l).toNat + (s.seenV g (vr + 1) l).toNat * 2 ^ 32
  | _ => 0

/-- Poisoned lanes of the pair; LQ2 reads the first register alone. -/
def State.loadBad (s : State) (g : Nat) (c : Cmd) : Bool :=
  match c.kind with
  | .mwld _ vr _ _ _ _ f =>
    (List.range 32).any fun l => (s.group g).vPoison.getLsbD (32 * vr + l) ||
      (f != 7 && (s.group g).vPoison.getLsbD (32 * (vr + 1) + l))
  | _ => false

/-- R253: the B tile that four words supply. -/
def State.buildWeights (s : State) (parts : List (Nat × Nat × Cmd)) (team f slot : Nat) (sf : Bool) : WeightSet :=
  let part := fun n => parts.getD (n / 8) (0, 0, { group := 0, team := 0, kind := .maccClear, batch := 0 })
  let k4 := fmtK f / 4
  let book := ((s.team team).books.find? slot).getD []
  let code := fun (k n : Nat) =>
    let p := part n
    let pair := s.loadPair p.1 p.2.2 (4 * (n % 8) + k / k4)
    let i := k % k4
    if f = 7 then
      let idx := pair / 2 ^ (16 * (i / 8)) % 2 ^ 16
      lq2Elem (book.get 0 (idx / 256)) idx (i % 8)
    else BitVec.ofNat 32 (pair / 2 ^ (fmtBits f * i) % 2 ^ fmtBits f)
  { fmt := f, scaled := sf
    elem := ((List.range (32 * fmtK f)).map fun j => (j, code (j / 32) (j % 32))).filter fun e => e.2 != 0
    scale := (List.range 64).map fun j => (j, BitVec.ofNat 8 ((part (j % 32)).2.2.scaleByte (j / 32) (j % 8)))
    poison := (parts.any fun p => s.loadBad p.1 p.2.2) || (f == 7 && (s.team team).bookPoison.getLsbD slot) }

/-- R253, R260: the cause each part of a whole load meets, 0 for none: discarded words, words that disagree, bad scales,
a slot that is not loaded. -/
def State.loadCause (s : State) (parts : List (Nat × Nat × Cmd)) (c : Cmd) : Nat :=
  let fields := parts.map fun p => p.2.2.loadFields
  if parts.any fun p => (s.group p.1).mqHalted then 4
  else if fields.any fun x => x != c.loadFields then 4
  else if parts.any fun p => p.2.2.badScale then (if c.badScale then 1 else 4)
  else if c.loadFields.1 = 7 ∧ ((s.team c.team).books.find? c.loadFields.2.2).isNone then 2
  else 0

/-- R260: the data error of an `mwld`; a discarded one only completes. -/
def State.loadError (s : State) (p : Nat × Nat × Cmd) (cause : Nat) : State :=
  let x := s.group p.1
  let d := match p.2.2.kind with
    | .mwld _ vr _ _ _ _ _ => vr / 2
    | _ => 0
  (if x.mqHalted then s
    else s.setGroup p.1 { x.dataError cause d 0x34 p.2.2.batch with wset := none }).endMatrix p.1 p.2.1

/-- R253: the weight set of a part becomes present; a parked group has none (R304). -/
def State.loadOk (s : State) (w : WeightSet) (p : Nat × Nat × Cmd) : State :=
  let x := s.group p.1
  let s1 := s.setGroup p.1 { x with wset := if x.slot.isSome then some w else none }
  (s1.modCmd p.2.1 fun c => { c with poison := c.poison || w.poison }).endMatrix p.1 p.2.1

/-- R253, R263: the weight load of a quad, when its four words stand at the heads of their queues; when a group of the
quad has retired, those that wait take cause 4. -/
def State.weightLoad (s : State) (team q : Nat) : State :=
  let parts := s.loadParts team q
  if s.quadWhole team q = false then parts.foldl (fun t p => t.loadError p 4) s
  else if parts.length < 4 then s
  else
    let causes := parts.map fun p => (p, s.loadCause parts p.2.2)
    if causes.any fun e => e.2 != 0 then causes.foldl (fun t e => t.loadError e.1 e.2) s
    else
      match parts with
      | p :: _ =>
        let f := p.2.2.loadFields
        let w := s.buildWeights parts team f.1 f.2.2 f.2.1
        (parts.foldl (fun t p => t.loadOk w p) s).passDraws
      | [] => s

/-- R253. -/
def execWeightLoad (team quad : Nat) (s : State) : Out :=
  let s1 := if s.engineOff team then s else s.weightLoad team quad
  event ((s.loadParts team quad).foldl (fun t p => t.tryRetireGroup p.1) s1)

/-! ### `mma` (R257) -/

/-- R257: the exact value of a block of products after truncation. -/
def blockSum (ps : List FVal) : FVal :=
  let pos := ps.any fun p => p == .inf false
  let neg := ps.any fun p => p == .inf true
  if ps.any FVal.isNan || (pos && neg) then .nan false
  else if pos then .inf false
  else if neg then .inf true
  else
    let tops := ps.filterMap fun p => match p with
      | .fin _ m e => if m = 0 then none else some ((Nat.log2 m : Int) + e)
      | _ => none
    match tops with
    | [] => .fin false 0 0
    | t :: rest =>
      let q := rest.foldl max t - 34
      let sum : Int := (ps.map fun p => match p with
        | .fin n m e => signedMant n (scale m (e - q))
        | _ => (0 : Int)).sum
      .fin (decide (sum < 0)) sum.natAbs q

/-- R257: one block added to the accumulator. -/
def addBlock (acc : W32) (b : FVal) : W32 := BitVec.ofNat 32 (fp32.addVal .rne false (fp32.unpack acc.toNat) b).1

/-- R257: the blocks of one element in order; `ea` and `eb` are the scale codes by 32 rows of K. -/
def mmaFloat (k : Nat) (a w : Nat → FVal) (ea eb : Nat → Nat) (acc : W32) : W32 :=
  (List.range (k / 16)).foldl (fun acc t =>
    let b := blockSum ((List.range 16).map fun j => ((a (16 * t + j)).mul (w (16 * t + j))).1)
    addBlock acc (b.shift ((ea (t / 2) : Int) + eb (t / 2) - 254))) acc

/-- R257: the INT32 pairs: base plus the exact sum, clamped, and whether it was. -/
def mmaInt (k : Nat) (a w : Nat → FVal) (base : W32) : W32 × Bool :=
  let sum := ((List.range k).map fun i => (a i).int * (w i).int).sum + base.toInt
  let c := clampInt (-2 ^ 31) (2 ^ 31 - 1) sum
  (BitVec.ofInt 32 c, c != sum)

/-- R256: the 32 bytes of row i. -/
def State.mmaRow (s : State) (g off : Nat) : Nat :=
  (List.range 8).foldl (fun a j => a + s.poolSeen g false (off + 4 * j) (s.fresh + off / 4 + j) * 2 ^ (32 * j)) 0

/-- A byte of scratchpad space as the engine reads it. -/
def State.seenByte (s : State) (g o : Nat) : Nat :=
  s.poolSeen g false o (s.fresh + o / 4) / 2 ^ (8 * (o % 4)) % 256

/-- The pair accumulates as INT32 (R250). -/
def intPair (f : Nat) (sf : Bool) : Bool := (f == 2 && !sf) || f == 6

/-- The operands of an `mma` and what it does to its tile. -/
structure MmaRun where
  rows : List Nat
  scales : List (Nat × Nat)
  bad : Bool

/-- R256, R257: what the stream supplies: the rows, their scale codes, and whether any byte is poisoned. -/
def State.mmaStream (s : State) (g rows : Nat) (sf : Bool) (f off stride soff : Nat) : MmaRun :=
  let team := (s.group g).team
  { rows := (List.range rows).map fun i => s.mmaRow g (off + i * stride)
    scales := (List.range rows).map fun i =>
      if sf then (s.seenByte g (soff + 2 * i), if fmtK f = 64 then s.seenByte g (soff + 2 * i + 1) else 127) else (127, 127)
    bad := (List.range rows).any fun i => s.poolBad team (off + i * stride) || (sf && s.poolBad team (soff + 2 * i)) }

/-- R257: the element of row i and column n: its new value and whether an INT32 sum was clamped. -/
def mmaElement (r : MmaRun) (w : WeightSet) (f : Nat) (sf z : Bool) (old : Tile) (i n : Nat) : W32 × Bool :=
  let row := r.rows.getD i 0
  let a := fun k => elemVal f (row / 2 ^ (fmtBits f * k) % 2 ^ fmtBits f)
  let b := fun k => elemVal w.fmt (w.elem.get 0 (32 * k + n)).toNat
  let base := if z then 0 else old.at i n
  if intPair f sf then mmaInt (fmtK f) a b base
  else
    let sc := r.scales.getD i (127, 127)
    (mmaFloat (fmtK f) a b (fun h => if h = 0 then sc.1 else sc.2)
      (fun h => if w.scaled then (w.scale.get 0 (32 * h + n)).toNat else 127) base, false)

/-- R257: the tile and the saturation flag. Rows that the command does not write keep the tile's mark; the batch learns of
what the command read (R249, R310). DESIGN CHOICE (assumption 71): a weight set that a discarded `mwld` has left older than the check of
cause 8 saw is multiplied as it is, with K of the stream's format. -/
def State.runMma (s : State) (g id : Nat) (c : Cmd) (m rows : Nat) (z sf : Bool) (f off stride soff : Nat) : State :=
  let old := s.tile c.team m
  match (s.group g).wset with
  | none => s.tileError g id c 5 m 0x35
  | some w =>
    if z = false ∧ old.valid = false then s.tileError g id c 3 m 0x35
    else
      let r := s.mmaStream g rows sf f off stride soff
      if sf && r.scales.any fun e => e.1 == 0xFF || e.2 == 0xFF then (s.tileError g id c 1 m 0x35).passDraws
      else
        let read := r.bad || w.poison || (!z && old.poison)
        let bad := read || (old.valid && old.poison && rows != 64)
        let tile := Tile.ofFn bad fun i n =>
          if i < rows then (mmaElement r w f sf z old i n).1 else if old.valid then old.at i n else 0
        let sat := (List.range (32 * rows)).any fun j => (mmaElement r w f sf z old (j / 32) (j % 32)).2
        let s1 := s.setTile c.team m tile
        let s2 := if sat then s1.setGroup g { s1.group g with mstat := (s1.group g).mstat ||| 1 } else s1
        ((s2.modCmd id fun c => { c with poison := c.poison || read }).endMatrix g id).passDraws

/-- R257, R260. -/
def execMmaTurn (group : Nat) (s : State) : Out :=
  match s.mqHead group with
  | none => event s
  | some (id, c) =>
    match c.kind with
    | .mma m rows z sf f off stride soff =>
      if s.engineOff c.team || s.tileClosing c.team [m] then event s
      else event ((if (s.group group).mqHalted then s.endMatrix group id
        else s.runMma group id c m rows z sf f off stride soff).tryRetireGroup group)
    | _ => event s

/-! ### `macc` (R258, R259) -/

/-- A tile of 32-bit elements in scratchpad, row-major. -/
def State.readTile (s : State) (g off : Nat) : Tile :=
  let team := (s.group g).team
  Tile.ofFn ((List.range 128).any fun i => s.poolBad team (off + 64 * i)) fun i n =>
    BitVec.ofNat 32 (s.poolSeen g false (off + 4 * (32 * i + n)) (s.fresh + off / 4 + 32 * i + n))

/-- R259: an element converted. -/
def maccConvert (c : Nat) (x : W32) : Nat :=
  match c with
  | 0 => x.toNat
  | 1 => (bf16.convert .rne false false (fp32.unpack x.toNat)).1
  | 2 => (fp16.convert .rne false false (fp32.unpack x.toNat)).1
  | 3 => (e4m3.convert .rne false true (fp32.unpack x.toNat)).1
  | _ => (BitVec.ofInt 8 (clampInt (-128) 127 x.toInt)).toNat

/-- R259: a tile written to scratchpad; poison marks follow it (R310). -/
def State.writeTile (s : State) (team : Nat) (x : Tile) (c off : Nat) : State :=
  let n := cvtSize c
  let s1 := (List.range 2048).foldl (fun t j => t.poolWrite team (off + n * j) n (maccConvert c (x.at (j / 32) (j % 32)))) s
  (List.range (32 * n)).foldl (fun t i => t.setPoolBad team (off + 64 * i) x.poison) (s1.forgetNotes team off (2048 * n))

/-- R258: the lanes that have not exited. -/
def Group.livingLanes (x : Group) : List Nat :=
  (List.range 32).filter fun l => match x.slices[l / 4]? with
    | some sl => sl.live.getLsbD (l % 4)
    | none => false

/-- R258: `v[x]` is filled in every lane, written where a value came and the lane has not exited. -/
def State.fillRow (s : State) (g x : Nat) (value : Option (Tile × Nat)) : State :=
  let y := s.group g
  let z := match value with
    | none => y
    | some (m, r) =>
      let w := y.putLanes x (y.livingLanes.map fun l => (l, m.at r l))
      if m.poison then { w with vPoison := y.livingLanes.foldl (fun p l => setBit p (32 * x + l) true) w.vPoison } else w
  s.setGroup g { z with vEmpty := setBit z.vEmpty x false }

/-- R258: the tiles a `macc` names, and those it reads. -/
def CmdKind.maccTiles : CmdKind → List Nat × List Nat
  | .maccZero m => ([m], [])
  | .maccLoad m _ => ([m], [])
  | .maccStore m _ _ => ([m], [m])
  | .maccAdd m b => ([m, b], [m, b])
  | .maccScale m _ => ([m], [m])
  | .maccRow m _ _ => ([m], [m])
  | _ => ([], [])

/-- R258: what a `macc` function does to the tiles, scratchpad and lanes once no data error stands in its way; whether it
met poison. -/
def State.runMacc (s : State) (g : Nat) (c : Cmd) : State × Bool :=
  match c.kind with
  | .maccZero m => (s.setTile c.team m (Tile.ofFn false fun _ _ => 0), false)
  | .maccLoad m off =>
    let x := s.readTile g off
    ((s.setTile c.team m x).passDraws, x.poison)
  | .maccStore m cv off => (s.writeTile c.team (s.tile c.team m) cv off, (s.tile c.team m).poison)
  | .maccAdd m b =>
    let x := s.tile c.team m
    let y := s.tile c.team b
    let z := Tile.ofFn (x.poison || y.poison) fun i n =>
      BitVec.ofNat 32 (fp32.addF .rne false (x.at i n).toNat (y.at i n).toNat).1
    (s.setTile c.team m z, z.poison)
  | .maccScale m f =>
    let x := s.tile c.team m
    (s.setTile c.team m (Tile.ofFn x.poison fun i n => BitVec.ofNat 32 (fp32.mulF .rne false (x.at i n).toNat f.toNat).1),
      x.poison)
  | .maccRow m r x => (s.fillRow g x (some (s.tile c.team m, r)), (s.tile c.team m).poison)
  | .maccClear => (s.setGroup g { s.group g with mstat := (s.group g).mstat &&& 1 }, false)
  | _ => (s, false)

/-- A `macc.row` that writes nothing still fills its register (R258). -/
def State.freeRow (s : State) (g : Nat) (k : CmdKind) : State :=
  match k with
  | .maccRow _ _ x => s.fillRow g x none
  | _ => s

/-- A `macc` function. -/
def CmdKind.isMacc : CmdKind → Bool
  | .maccZero _ => true
  | .maccLoad .. => true
  | .maccStore .. => true
  | .maccAdd .. => true
  | .maccScale .. => true
  | .maccRow .. => true
  | .maccClear => true
  | _ => false

/-- R258, R260, R261: the turn of a `macc` function. -/
def State.maccTurn (s : State) (g id : Nat) (c : Cmd) : State :=
  let t := c.kind.maccTiles
  if (s.group g).mqHalted && c.kind != .maccClear then (s.freeRow g c.kind).endMatrix g id
  else if t.2.any fun m => !(s.tile c.team m).valid then (s.freeRow g c.kind).tileError g id c 3 (t.1.headD 0) 0x36
  else
    let r := s.runMacc g c
    (r.1.modCmd id fun c => { c with poison := c.poison || r.2 }).endMatrix g id

/-- R258. -/
def execMaccTurn (group : Nat) (s : State) : Out :=
  match s.mqHead group with
  | none => event s
  | some (id, c) =>
    if c.kind.isMacc && !s.engineOff c.team && !s.tileClosing c.team c.kind.maccTiles.1 then
      event ((s.maccTurn group id c).tryRetireGroup group)
    else event s

/-! ### `cbload` (R254) -/

/-- R254: an LQ2 weight load of the slot whose `mwld` issued earlier has not completed. -/
def State.bookAwaited (s : State) (team id slot : Nat) : Bool :=
  s.cmds.any fun e => e.2.team == team && !e.2.done && decide (e.1 < id) && (match e.2.kind with
    | .mwld _ _ _ _ l _ f => f == 7 && l == slot
    | _ => false)

/-- R254: 1,024 bytes of scratchpad become the slot's codebook. -/
def State.loadBook (s : State) (g team slot off : Nat) : State × Bool :=
  let book : Tbl W32 := ((List.range 256).map fun i =>
    (i, BitVec.ofNat 32 (s.poolSeen g false (off + 4 * i) (s.fresh + off / 4 + i)))).filter fun e => e.2 != 0
  let bad := (List.range 256).any fun i => s.poolBad team (off + 4 * i)
  let x := s.team team
  ((s.setTeam team { x with books := x.books.insert slot book, bookPoison := setBit x.bookPoison slot bad }).passDraws, bad)

/-- R254. -/
def execCbloadTurn (group : Nat) (s : State) : Out :=
  match s.mqHead group with
  | none => event s
  | some (id, c) =>
    match c.kind with
    | .cbload slot off =>
      if s.engineOff c.team then event s
      else if (s.group group).mqHalted then event ((s.endMatrix group id).tryRetireGroup group)
      else if s.bookAwaited c.team id slot then event s
      else
        let r := s.loadBook group c.team slot off
        event (((r.1.modCmd id fun c => { c with poison := c.poison || r.2 }).endMatrix group id).tryRetireGroup group)
    | _ => event s

end Sys2Proof.Machine
end

