-- ==== Sys2Proof/Machine/Landing.lean ====
section
/-! DEFINITION. Landings: tags (R264 to R266), `meet` (R267 to R269), arrivals, combining, forwards and timeouts (R270 to
R277). -/

namespace Sys2Proof.Machine

/-! ### Tags -/

/-- R264: a tag value. -/
def tagValue (index : Nat) (gen : BitVec 15) : W32 := BitVec.ofNat 32 (2 ^ 31 + gen.toNat * 2 ^ 16 + index)

/-- INDEX and GEN of a tag value. -/
def tagIndex (x : W32) : Nat := x.toNat % 2 ^ 16
def tagGen (x : W32) : BitVec 15 := x.extractLsb' 16 15

/-- R266: the owner of what a thread allocates: its context, or 0 for the partition's service core. -/
def State.tagOwner (s : State) (t : ThreadId) : Nat := s.ctxOf t

/-- The unallocated indices of a partition's pool. -/
def Part.freeTags (p : Part) : List Nat :=
  (List.range p.ntags).filter fun i => (p.tags.get {} i).owner.isNone

/-- R264, R266: any free index is allocated, a free choice (assumption 5), its GEN one higher; 0 when there is none. -/
def State.allocTag (s : State) (part owner : Nat) : State × W64 :=
  match (s.part part).freeTags with
  | [] => (s, 0)
  | i :: rest =>
    let k := (i :: rest).getD (s.draw.1.toNat % (rest.length + 1)) i
    let gen := ((s.part part).tags.get {} k).gen + 1
    (s.draw.2.modPart part fun p => { p with tags := p.tags.insert k { gen := gen, owner := some owner, func := p.func } },
      (tagValue k gen).setWidth 64)

/-- R266: in group code `w[D]` is empty from issue until the pool's reply has filled it (assumption 47). -/
def execLtagAlloc (t : Bool) (d : BitVec 6) (s : State) : Out :=
  issue (.ltagAlloc t d) s fun th s =>
    let r := s.allocTag (s.partOf th) (s.tagOwner th)
    .done (if isGang th && d != 0 then r.1.pushResult th (.w d.toNat) [(0, r.2)] else r.1.putW th d.toNat r.2)

/-- R266: the tag is allocated to an owner with this GEN: a context of the partition's function, or its service core, whose tags are
the partition's whatever its function. -/
def State.ownsTag (s : State) (part owner : Nat) (x : W32) : Bool :=
  let y := (s.part part).tags.get {} (tagIndex x)
  x.getLsbD 31 && y.owner == some owner && (owner == 0 || y.func == (s.part part).func) && y.gen == tagGen x

/-- R266, R276: a tag becomes unallocated; a waiting entry is discarded. -/
def State.freeTag (s : State) (part index : Nat) : State :=
  s.modPart part fun p =>
    { p with tags := p.tags.modify index fun y => { y with owner := none, orphaned := false }
             landings := p.landings.erase index }

/-- R266. -/
def execLtagFree (t : Bool) (a : BitVec 6) (s : State) : Out :=
  issue (.ltagFree t a) s fun th s =>
    let v := s.getW th a.toNat
    let x := v.setWidth 32
    if v.toNat / 2 ^ 32 ≠ 0 ∨ s.ownsTag (s.partOf th) (s.tagOwner th) x = false then .trap (Trap.commandCheck 11)
    else .done (s.freeTag (s.partOf th) (tagIndex x))

/-! ### `meet` -/

/-- R267: the Command-Check cause of step 4, 0 for none. -/
def State.meetCause (s : State) (part : Nat) (tag parties : W64) (cls : BitVec 2) : Nat :=
  let p := s.part part
  if tag.toNat / 2 ^ 32 ≠ 0 ∨ tag.getLsbD 31 = false ∨ p.ntags ≤ tag.toNat % 2 ^ 16 then 5
  else if parties.toNat < 2 ∨ 16 < parties.toNat then 5
  else if p.classen.getLsbD cls.toNat = false then 5
  else 0

/-- R267: bytes of the destination. -/
def meetLen (cvt : Bool) : Nat := if cvt then 4096 else 8192

/-- R267: the checks of `meet` from step 3 on, with the pinned frames. DEDUCED (assumption 32): of the checks of step 4, cause 5 comes
before cause 10. -/
def State.meetCheck (s : State) (g : Nat) (th : ThreadId) (m : Nat) (tag dest done parties : W64) (cvt : Bool) (cls : BitVec 2) :
    Pinned :=
  let rs : List Range := [⟨false, dest, meetLen cvt, 128, .copyWrite⟩, ⟨false, done, 8, 8, .atomic⟩]
  let c := s.meetCause (s.partOf th) tag parties cls
  if s.batchFull g then .stop (.trap (Trap.commandCheck 7))
  else if c ≠ 0 then .stop (.trap (Trap.commandCheck c))
  else if s.tileHeld g m then .stop (.trap (Trap.commandCheck 10))
  else
    match rs.findSome? (s.rangeTrap th) with
    | some tr => .stop (.trap tr)
    | none =>
      match s.pinRanges th rs with
      | (_, .error (c, va)) => .stop (.fault c (BitVec.ofNat 64 va) 0)
      | (s1, .ok fs) =>
        if fs.any fun f => !framesTyped f [.shared] then .stop (.trap (Trap.commandCheck 3))
        else
          match s1.watchRanges th rs with
          | some tr => .stop (.trap tr)
          | none => s.pinnedOr s1 fs

/-- R267. -/
def execMeet (t : Bool) (d a b : BitVec 6) (c : BitVec 2) (v : Bool) (o : BitVec 2) (s : State) : Out :=
  issue (.meet t d a b c v o) s fun th s =>
    match th with
    | .gang g _ =>
      let r := fun i => s.getW th (a.toNat + i)
      if s.mqFull g then .wait s
      else
        match s.meetCheck g th d.toNat (r 0) (r 1) (r 2) (r 3) v c with
        | .stop x => x
        | .ok s1 fs =>
          let fr := (fs.getD 1 []).foldl (fun m (e : Nat × Nat) => m.insert e.1 e.2) (fs.getD 0 [])
          .done ((s1.issueMatrix g (.meet d.toNat o v c b.toNat ((r 0).setWidth 32) (r 1) (r 2) (r 3).toNat fr)).emptyW th b.toNat)
    | _ => .wait s

/-- R269: a status word. -/
def meetStatus (code arr : Nat) (last : Bool) (tag : W32) : W64 :=
  BitVec.ofNat 64 (code + arr * 2 ^ 8 + last.toNat * 2 ^ 13 + tag.toNat * 2 ^ 32)

/-- The status of a `meet` fills its register. -/
def State.fillMeet (s : State) (g b : Nat) (v : W64) : State :=
  if b = 0 then s else s.fillW (.gang g (s.group g).lowGang) b v

/-- R268, R215: the release and the sending of the tile. -/
def State.sendTile (s : State) (g id : Nat) (c : Cmd) : State :=
  match c.kind with
  | .meet m op cvt cls dst tag dest done parties fr =>
    let tm := s.team c.team
    let x := s.tile c.team m
    let r := s.releaseDevice tm.cluster
    let a : Arrival := { cmd := id, group := g, ctx := tm.ctx, tag := tag, op := op, cvt := cvt, cls := cls, parties := parties
                         dest := dest, done := done, frames := fr, el := x.el, poison := x.poison, sig := r.2, dst := dst }
    (r.1.modCmd id fun c => { c with poison := c.poison || x.poison }).modPart tm.part fun p =>
      { p with arrivals := p.arrivals ++ [a] }
  | _ => s

/-- The base die of the slice that a tag of a team's partition lands at (R270). -/
def State.landingDie (s : State) (team : Nat) (tag : W32) : Option Nat :=
  some ((s.part (s.team team).part).homeSlice (tagIndex tag) / 64)

/-- R268, R260: the turn of a `meet`. A tile that has been sent waits for its status. -/
def State.meetTurn (s : State) (g id : Nat) (c : Cmd) : State :=
  match c.kind with
  | .meet m _ _ _ dst tag _ _ _ _ =>
    if (s.part (s.team c.team).part).arrivals.any fun a => a.cmd == id then s
    else if (s.group g).mqHalted then (s.fillMeet g dst (meetStatus 6 0 false tag)).endMatrix g id
    else if s.tileClosing c.team [m] || s.olderPending g id || s.crowdedBy (s.team c.team).cluster (s.landingDie c.team tag) 1 then s
    else if (s.tile c.team m).valid = false then
      (s.fillMeet g dst (meetStatus 6 0 false tag)).tileError g id c 3 m 0x39
    else (s.releaseWait (s.team c.team).cluster 3).getD (s.sendTile g id c)
  | _ => s

/-- R268. -/
def execMeetTurn (group : Nat) (s : State) : Out :=
  match s.mqHead group with
  | none => event s
  | some (id, c) => event (if s.engineOff c.team then s else (s.meetTurn group id c).tryRetireGroup group)

/-! ### Arrivals (R270, R271, R273) -/

/-- R270, R273: the place of a new entry: the slice's store, else the overflow area, else none. -/
def Part.entryPlace (p : Part) (index : Nat) : Option Nat :=
  let here := p.landings.filter fun e => e.2.place == 0 && p.homeSlice e.1 == p.homeSlice index
  let general := p.landings.filter fun e => e.2.place == 1
  if here.length < 64 then some 0 else if general.length < p.ovfgen then some 1 else none

/-- R271: `Combine`. -/
def combine (op : BitVec 2) (a b : W32) : W32 :=
  if op = 0 then BitVec.ofNat 32 (fp32.addF .rne false a.toNat b.toNat).1
  else if op = 1 then BitVec.ofNat 32 (fp32.minMax true false a.toNat b.toNat).1
  else a + b

/-- R271: the fields that must agree. -/
def Landing.agrees (e : Landing) (x : Arrival) : Bool :=
  e.op == x.op && e.cvt == x.cvt && e.cls == x.cls && e.parties == x.parties && e.dest == x.dest && e.done == x.done

/-- R270: the entry a first arrival makes. -/
def Arrival.entry (x : Arrival) (place now : Nat) : Landing :=
  { tag := x.tag, op := x.op, cvt := x.cvt, cls := x.cls, parties := x.parties, dest := x.dest, done := x.done
    frames := x.frames, el := x.el, poison := x.poison, arr := 1, sig := x.sig, place := place, ran := 0, since := some now }

/-- R271: a later arrival combined into the entry. -/
def Landing.add (e : Landing) (x : Arrival) : Landing :=
  let f := fun j => combine e.op (Tbl.get 0 e.el j) (Tbl.get 0 x.el j)
  { e with el := ((List.range 2048).map fun j => (j, f j)).filter fun y => y.2 != 0
           poison := e.poison || x.poison, arr := e.arr + 1, sig := e.sig ||| x.sig }

/-- A write of the slice at a pinned address of a partition; one outside it is dropped (R342). -/
def State.landWrite (s : State) (part tag pa n v : Nat) (bad : Bool) : State :=
  if s.owns part pa then
    let s1 := s.homeWrite pa n v part tag
    if bad then s1.setBad pa true else s1
  else s.countDrop

/-- R272, R215: the forward of an entry: the destination, then the done counter with its signature; the tag becomes IDLE, or
ORPHANED after an INCOMPLETE forward. -/
def State.forward (s : State) (part index : Nat) (e : Landing) (complete : Bool) : State :=
  let n := if e.cvt then 2 else 4
  let val := fun j => let x : W32 := Tbl.get 0 e.el j
    if e.cvt then (bf16.convert .rne false false (fp32.unpack x.toNat)).1 else x.toNat
  let at_ := fun o => (framePhys e.frames (e.dest.toNat + o)).pa
  let tag := s.tagOf part ((((s.part part).tags.get {} index).owner).getD 0)
  let s1 := (List.range 2048).foldl (fun t j => t.landWrite part tag (at_ (n * j)) n (val j) e.poison) s
  let sig := (List.range (16 * n)).foldl (fun g i => g ||| sigBits (at_ (128 * i) / 128)) e.sig
  let pa := (framePhys e.frames e.done.toNat).pa
  let s2 := if s1.owns part pa then
      ((s1.homeAtomic 1023 pa 8 0 (if complete then 1 else 2 ^ 32 + 1) 0 tag).1.requestAt 1023 (pa / 128) 0).joinSig (pa / 128) sig
    else s1.countDrop
  s2.modPart part fun p =>
    { p with landings := p.landings.erase index
             tags := p.tags.modify index fun y => { y with orphaned := !complete } }

/-- R271: one arrival at the home slice: the state, the status code and the place in the round. -/
def State.arrive (s : State) (part : Nat) (x : Arrival) : State × Nat × Nat :=
  let i := tagIndex x.tag
  let p := s.part part
  let keep := fun (e : Landing) =>
    let s1 := s.modPart part fun p => { p with landings := p.landings.insert i e }
    (if e.arr = e.parties then s1.forward part i e true else s1, (if e.place = 0 then 0 else 1), e.arr)
  if s.ownsTag part x.ctx x.tag = false then (s, 5, 0)
  else if (p.tags.get {} i).orphaned then (s, 3, 0)
  else
    match p.landings.find? i with
    | none =>
      match p.entryPlace i with
      | none => (s, 2, 0)
      | some place => keep (x.entry place s.time)
    | some e => if e.agrees x then keep (e.add x) else (s, 4, 0)

/-- R271, R268: the oldest arrival of a tag index is handled, and its sender's `meet` completes. -/
def execLandingArrival (part index : Nat) (s : State) : Out :=
  let p := s.part part
  match p.arrivals.find? fun a => tagIndex a.tag == index with
  | none => event s
  | some x =>
    if p.halted then event s
    else
      let s0 := s.post .unit (s.cptOf (.gang x.group 0)) (p.homeSlice index / 64) (.arrival part x) 0
      let r := (s0.modPart part fun p => { p with arrivals := p.arrivals.erase x }).arrive part x
      let last := decide (r.2.2 = x.parties ∧ r.2.2 ≠ 0)
      let s1 := r.1.fillMeet x.group x.dst (meetStatus r.2.1 r.2.2 last x.tag)
      event ((s1.endMatrix x.group x.cmd).tryRetireGroup x.group)

/-! ### Timers (R274, R275) -/

/-- R274: D of a class in nanoseconds. -/
def classTime (c : BitVec 2) : Nat := if c = 0 then 10000 else if c = 1 then 200000 else if c = 2 then 2000000 else 10000000

/-- The running count of an entry. -/
def Landing.count (e : Landing) (now : Nat) : Nat :=
  match e.since with
  | some t => e.ran + (now - t)
  | none => e.ran

/-- R274: the entry's running count has reached D: INCOMPLETE. -/
def execLandingTimeout (part index : Nat) (s : State) : Out :=
  match (s.part part).landings.find? index with
  | none => event s
  | some e =>
    event (if e.since.isSome && decide (classTime e.cls ≤ e.count s.time) && !(s.part part).halted then
      s.forward part index e false else s)

/-- R274: the moment by which a running entry has been forwarded. -/
def Landing.due (e : Landing) : Option Nat :=
  e.since.map fun t => t + (classTime e.cls + classTime e.cls / 8 + 2000 - e.ran)

/-- The entries of a context of the function on the partition. -/
def Part.entriesOf (p : Part) (ctx : Nat) : List (Nat × Landing) :=
  p.landings.filter fun e => (p.tags.get {} e.1).owner == some ctx && (p.tags.get {} e.1).func == p.func

/-- R275: an entry of a saved context: its timer stops; from a store it moves to a free save entry. -/
def Part.freezeEntry (p : Part) (now : Nat) (e : Nat × Landing) : Part :=
  let saved := (p.landings.filter fun x => x.2.place == 2).length
  let y := { e.2 with ran := e.2.count now, since := none
                      place := if e.2.place = 0 ∧ saved < 64 * 2 ^ p.logk then 2 else e.2.place }
  { p with landings := p.landings.insert e.1 y }

/-- R275: a context is saved. -/
def State.freezeLandings (s : State) (part ctx : Nat) : State :=
  s.modPart part fun p => (p.entriesOf ctx).foldl (fun q e => q.freezeEntry s.time e) p

/-- R275: a context is restored: its timers run again. -/
def State.resumeLandings (s : State) (part ctx : Nat) : State :=
  s.modPart part fun p => (p.entriesOf ctx).foldl (fun q e =>
    { q with landings := q.landings.insert e.1 { e.2 with since := some s.time } }) p

end Sys2Proof.Machine
end

