-- ==== Sys2Proof/Machine/Place.lean ====
section
/-! DEFINITION. The distributor (R156 to R162): where a team fits, how it starts (R23, R109, R110), the placement step, and
how saved units come back (R334). -/

namespace Sys2Proof.Machine

/-- R23, R109: an end point is word aligned and below 2^48; its value is free (assumption 6). -/
def endPoint (n : Nat) : Addr := (Config.endPointWord n ++ (0 : BitVec 2))

/-- R382: the GATE bit of a compute die. -/
def State.gateBit (s : State) (d : Nat) : Bool := s.root.pwrctl.getLsbD (8 + d)

/-- R382: a compute die takes no team: its GATE bit is set, or it has not powered up again. -/
def State.dieOff (s : State) (d : Nat) : Bool := s.gateBit d || s.root.pwrstat.getLsbD (8 + d)

/-- The clusters of a partition on a physical die, ascending. -/
def Part.clustersOn (p : Part) (d : Nat) : List Nat :=
  (List.range 16).filterMap fun i => if p.base ≤ 16 * d + i ∧ 16 * d + i < p.base + 2 ^ p.logk then some (16 * d + i) else none

/-- R1, R383: the same, none on a die that takes no work. -/
def State.clustersOn (s : State) (part d : Nat) : List Nat := if s.dieBad d then [] else (s.part part).clustersOn d

/-- R1, R2: the clusters of a partition on dies that take work. -/
def State.clustersIn (s : State) (part : Nat) : List Nat := (List.range 16).flatMap (s.clustersOn part)

/-- A place for a team: virtual die, cluster, core. -/
structure Spot where
  vdie : Nat
  cluster : Nat
  core : Nat
  deriving DecidableEq, Repr

/-- The cores a team may be placed on, in the order of R161's ties: virtual die, then cluster and core. Clusters that
leave the partition and dies that are gated or disabled take no team. -/
def State.spots (s : State) (part ctx : Nat) (vdies : List Nat) : List Spot :=
  let info := s.bindings part ctx
  vdies.flatMap fun v =>
    if !info.bound v || s.dieOff (info.die v) then []
    else (s.clustersOn part (info.die v)).flatMap fun c =>
      if (s.part part).leaving.contains c then [] else (List.range 4).map fun k => ⟨v, c, k⟩

/-- The virtual dies a grid may use (R103). -/
def State.diesOf (s : State) (g : Grid) : List Nat :=
  (s.bindings g.part g.ctx).dies.filter fun v => g.mask == 0 || g.mask.getLsbD v

/-- The placed teams of a core. -/
def State.teamsOn (s : State) (cluster core : Nat) : List (Nat × Team) :=
  s.teams.filter fun e => e.2.placed && e.2.cluster == cluster && e.2.core == core

/-- The slots held on a scheduler of a core (R160, R304). -/
def State.slotsHeld (s : State) (cluster core sched : Nat) : List Nat :=
  s.groups.filterMap fun e =>
    let t := s.team e.2.team
    if t.placed && t.cluster == cluster && t.core == core && e.2.sched == sched then e.2.slot else none

/-- R160: the lowest s0 for which every scheduler has room. -/
def State.pickS0 (s : State) (cluster core : Nat) (nums : List Nat) : Option Nat :=
  chooseS0 (fun i => (s.slotsHeld cluster core i).length) nums

/-- The lowest free slot of a scheduler. -/
def State.freeSlot (s : State) (cluster core sched : Nat) : Option Nat :=
  (List.range 12).find? fun i => !(s.slotsHeld cluster core sched).contains i

/-- R160: the lowest base of n consecutive tiles of a core that no placed team holds. -/
def State.pickTiles (s : State) (cluster core n : Nat) : Option Nat :=
  let held := (s.teamsOn cluster core).map fun e => (e.2.tileBase, (s.grid e.2.grid).desc.mtiles)
  (List.range (65 - n)).find? fun b => held.all fun h => decide (b + n ≤ h.1 ∨ h.1 + h.2 ≤ b)

/-- R160: codebook slots in use on a core. -/
def State.booksUsed (s : State) (cluster core : Nat) : Nat :=
  ((s.teamsOn cluster core).map fun e => (s.grid e.2.grid).books).sum

/-- R160: the pool of a core takes a team of a footprint. -/
def State.poolFits (s : State) (cluster core foot : Nat) : Bool :=
  let n := (s.teamsOn cluster core).length
  n == 0 || (s.splits.find? (4 * cluster + core) == some foot && decide (n < 1280 * 1024 / foot))

/-- R110, R112: no other grid that has not ended has the cluster's spine core and jetty registers. -/
def State.spineFits (s : State) (k : Nat) (g : Grid) (cluster : Nat) : Bool :=
  g.desc.sentry == 0 ||
    (match s.spines.find? cluster with
      | some x => x.th.grid == k
      | none => true)

/-- R160: everything but the private windows fits at a spot. -/
def State.fitsAt (s : State) (k : Nat) (g : Grid) (nums : List Nat) (x : Spot) : Bool :=
  s.poolFits x.cluster x.core g.desc.footprint && (s.pickS0 x.cluster x.core nums).isSome
    && (s.pickTiles x.cluster x.core g.desc.mtiles).isSome && decide (s.booksUsed x.cluster x.core + g.books ≤ 4)
    && s.spineFits k g x.cluster

/-- R186: the windows a context's groups hold. -/
def State.windowsHeld (s : State) (part ctx : Nat) : List Nat :=
  s.groups.filterMap fun e =>
    let t := s.team e.2.team
    if t.part == part && t.ctx == ctx then e.2.window else none

/-- R186: the lowest free windows for n groups; none when there are too few. -/
def State.freeWindows (s : State) (part ctx n : Nat) : Option (List (Option Nat)) :=
  let info := (s.ctx part ctx).info
  if info.plim = 0 then some (List.replicate n none)
  else
    let held := s.windowsHeld part ctx
    let free := ((List.range (Nat.min info.wmax (held.length + n))).filter fun w => !held.contains w).take n
    if free.length = n then some (free.map some) else none

/-- R161: the preference class of a fitting spot, 1 to 4. -/
def State.preference (s : State) (k foot : Nat) (x : Spot) : Nat :=
  let on := s.teamsOn x.cluster x.core
  let same := s.splits.find? (4 * x.cluster + x.core) == some foot
  if on.any fun e => e.2.grid == k then 1 else if !on.isEmpty then 2 else if same then 3 else 4

/-- R161: the spot of the next team, avoiding cores where a waiting team of a higher priority fits. -/
def State.pickSpot (s : State) (k : Nat) (g : Grid) (nums : List Nat) (vdies : List Nat) (above : List (Nat × Grid)) : Option Spot :=
  let ok := (s.spots g.part g.ctx vdies).filter fun x =>
    s.fitsAt k g nums x && above.all fun e =>
      !((s.diesOf e.2).any fun v => (s.bindings e.2.part e.2.ctx).die v == x.cluster / 16) ||
        !s.fitsAt e.1 e.2 (List.range e.2.desc.ngroups) x
  [1, 2, 3, 4].findSome? fun c => ok.find? fun x => s.preference k g.desc.footprint x == c

/-- R23, R109: the uniform registers of a new thread. -/
def startUni (info : CtxRec) (args : List W64) (w62 : W64) (endpt : Addr) : Uni :=
  let u : Uni := { fpctl := BitVec.ofNat 64 (info.fprm + 8 * info.ftz.toNat) }
  let u1 := (List.range 8).foldl (fun u i => u.putW (i + 1) (args.getD i 0)) u
  (u1.putW 62 w62).putW 63 (endpt.setWidth 64)

/-- R109: a group at its start. -/
def startGroup (info : CtxRec) (g : Grid) (team num key : Nat) (sched slot : Nat) (window : Option Nat) : Group :=
  let pc := BitVec.ofNat 48 (g.desc.base + g.desc.gentry)
  { team := team, num := num
    budget := 8 * (if num < g.desc.nprod then g.desc.pregs else g.desc.cregs)
    sched := sched, slot := some slot, window := window
    uni := startUni info g.args 0 (endPoint (2 * key)), endpt := endPoint (2 * key)
    slices := List.replicate 8 { pc := pc, act := 15, live := 15 }
    gens := (List.range 32).map (genSeed 0) }

/-- `sr.CLUSTER` of a spine instance: the lowest virtual die bound to its cluster's die (R359). -/
def CtxRec.spineDie (info : CtxRec) (cluster : Nat) : Nat :=
  (info.dies.find? fun v => info.die v == cluster / 16).getD 0

/-- R23, R110: a spine instance at its start. -/
def startSpine (info : CtxRec) (k : Nat) (g : Grid) (cluster key : Nat) : Spine :=
  let v := info.spineDie cluster
  let top := info.launch + (16 * v + cluster % 16 + 1) * info.sslot
  { th := { pc := BitVec.ofNat 48 (g.desc.base + g.desc.sentry), mode := .run, part := g.part, ctx := g.ctx, grid := k
            vdie := v, endpt := endPoint (2 * key + 1)
            uni := startUni info g.args (BitVec.ofNat 64 top) (endPoint (2 * key + 1)) } }

/-- Put the groups of a team on a core, each on its scheduler's lowest free slot. -/
def State.seatGroups (s : State) (cluster core s0 : Nat) (mk : Nat → Nat → Nat → Group) (team : Nat) : List Nat → State
  | [] => s
  | n :: rest =>
    let i := (s0 + n) % 4
    let slot := (s.freeSlot cluster core i).getD 0
    (s.setGroup (16 * team + n) (mk n i slot)).seatGroups cluster core s0 mk team rest

/-- R323: at the placement of a grid's first team, each entry of its hail vector table sets its vector's WAKE. -/
def State.setWakes (s : State) (g : Grid) : State :=
  if g.placed = 0 ∧ g.desc.hails ≠ [] then
    s.modCtx g.part g.ctx fun c =>
      { c with vecs := g.desc.hails.foldl (fun t e =>
          let v := e / 2 ^ 32 % 32
          t.put {} v { t.get {} v with wake := e.testBit 37 }) c.vecs }
  else s

/-- R314: a team named by an earlier HALT is halted before its first word. -/
def State.haltAtPlacement (s : State) (team : Nat) (g : Grid) (num : Nat) : State :=
  if g.haltAll || g.haltTeams.contains num then (s.groupsOf team).foldl (fun t k => t.stopGroup k 0) s else s

/-- R156, R160: place the next team of a grid at a spot. -/
def State.placeTeam (s : State) (k : Nat) (x : Spot) (windows : List (Option Nat)) : State :=
  let g := s.grid k
  let info := s.bindings g.part g.ctx
  let team := s.nextId
  let s0 := (s.pickS0 x.cluster x.core (List.range g.desc.ngroups)).getD 0
  let base := (s.pickTiles x.cluster x.core g.desc.mtiles).getD 0
  let tm : Team := { grid := k, num := g.placed, part := g.part, ctx := g.ctx, cluster := x.cluster, core := x.core
                     vdie := x.vdie, s0 := s0, tileBase := base, seated := team }
  let s1 := { s with nextId := team + 1, splits := s.splits.insert (4 * x.cluster + x.core) g.desc.footprint }.setTeam team tm
  let mk := fun n i slot => startGroup info g team n (16 * team + n) i slot (windows.getD n none)
  let s2 := s1.seatGroups x.cluster x.core s0 mk team (List.range g.desc.ngroups)
  let fresh := g.desc.sentry != 0 && !g.spines.contains x.cluster
  let s3 := if fresh then { s2 with spines := s2.spines.insert x.cluster (startSpine info k g x.cluster team) } else s2
  let g1 := { g with
    placed := g.placed + 1
    phase := if g.placed + 1 = g.count then .resident else .placing
    spines := if fresh then g.spines ++ [x.cluster] else g.spines
    live := if fresh then g.live ++ [x.cluster] else g.live }
  (((s3.setGrid k g1).setWakes g).foldSig x.cluster g.sig).haltAtPlacement team g g.placed

/-- Place teams of a grid while they fit: at most `fuel`; true when every team has been placed. -/
def State.placeSome (s : State) (k : Nat) (above : List (Nat × Grid)) : Nat → State × Bool
  | 0 => (s, decide ((s.grid k).placed = (s.grid k).count))
  | fuel + 1 =>
    let g := s.grid k
    if g.placed = g.count then (s, true)
    else
      let nums := List.range g.desc.ngroups
      match s.pickSpot k g nums (s.diesOf g) above, s.freeWindows g.part g.ctx g.desc.ngroups with
      | some x, some ws => (s.placeTeam k x ws).placeSome k above fuel
      | _, _ => (s, false)

/-- R108, R161: one grid's part of a placement step; a co-resident grid is placed whole or not at all. -/
def State.placeGrid (s : State) (k : Nat) (above : List (Nat × Grid)) : State × Bool :=
  let g := s.grid k
  let r := s.placeSome k above (min (g.count - g.placed) 50000)
  if g.co then
    if r.2 then (r.1.fillStatus g.status (BitVec.ofNat 64 (1 + g.num.toNat * 2 ^ 32)), true) else (s, false)
  else r

/-- The grids of a partition waiting at a priority, in the order of R157, those of contexts not resident passed over. -/
def State.waitingGrids (s : State) (part prio : Nat) : List Nat :=
  let gs := s.grids.filter fun e => e.2.part == part && e.2.prio == prio && (e.2.phase == .passed || e.2.phase == .placing)
    && (s.ctx part e.2.ctx).phase == .resident
  (gs.foldr (fun e acc => insertGrid e acc) []).map (·.1)
where
  insertGrid (e : Nat × Grid) : List (Nat × Grid) → List (Nat × Grid)
    | [] => [e]
    | b :: t => if e.2.order < b.2.order then e :: b :: t else b :: insertGrid e t

/-- R161: the grids of one priority: the state, and the grids that now wait, from its head. -/
def State.placePrio (s : State) (above : List (Nat × Grid)) : List Nat → State × List Nat
  | [] => (s, [])
  | k :: rest =>
    match s.placeGrid k above with
    | (s1, true) => s1.placePrio above rest
    | (s1, false) => (s1, k :: rest)

/-- R161: a placement step from the highest priority down; a co-resident grid that waits stops the lower ones. -/
def State.placeAll (s : State) (part : Nat) (above : List (Nat × Grid)) : List Nat → State
  | [] => s
  | p :: rest =>
    match s.placePrio above (s.waitingGrids part p) with
    | (s1, []) => s1.placeAll part above rest
    | (s1, k :: ks) =>
      if (s1.grid k).co then s1 else s1.placeAll part (above ++ (k :: ks).map fun j => (j, s1.grid j)) rest

/-! ### Saved units (R334) -/

/-- R334: a saved team returns to a core: its window of tiles, and its groups on their schedulers; a parked group waits. -/
def State.returnTeam (s : State) (team : Nat) (y : Spot) : State :=
  let x := s.team team
  let g := s.grid x.grid
  let keys := s.groupsOf team
  let nums := keys.map fun k => (s.group k).num
  let s0 := (s.pickS0 y.cluster y.core nums).getD 0
  let base := (s.pickTiles y.cluster y.core g.desc.mtiles).getD 0
  let s1 := { s with nextId := s.nextId + 1, splits := s.splits.insert (4 * y.cluster + y.core) g.desc.footprint }.setTeam team
    { x with cluster := y.cluster, core := y.core, vdie := y.vdie, placed := true, share := 0, seated := s.nextId, s0 := s0
             tileBase := base }
  let s2 := keys.foldl (fun t k =>
    let z0 := t.group k
    let z : Group := { z0 with lastTurn := 0, slices := z0.slices.map fun sl => { sl with lastTurn := 0 } }
    let i := (s0 + z.num) % 4
    match z.mode with
    | .parked _ _ => t.setGroup k { z with sched := i, slot := none }
    | _ =>
      let slot := (t.freeSlot y.cluster y.core i).getD 0
      t.setGroup k { z with sched := i, slot := some slot }) s1
  s2.setAcc y.cluster { s2.acc y.cluster with cur := Sig.ones }

/-- A spine instance with its jetty registers moves: every part of the device that names the thread follows. -/
def State.moveSpine (s : State) (part ctx old new : Nat) : State :=
  match s.spines.find? old with
  | none => s
  | some x =>
    let mvn := fun (l : List Nat) => l.map fun i => if i = old then new else i
    { s with
      spines := (s.spines.erase old).insert new x
      grids := s.grids.modify x.th.grid fun g => { g with spines := mvn g.spines, live := mvn g.live } }.renameThread part ctx
      (.spine old) (.spine new)

/-- R334: the saved teams of a context's share. -/
def State.shareTeams (s : State) (part ctx share : Nat) : List (Nat × Team) :=
  s.teams.filter fun e => e.2.part == part && e.2.ctx == ctx && !e.2.placed && e.2.share == share

/-- R334: the saved spine instance of a context's share. -/
def State.shareSpine (s : State) (part ctx share : Nat) : Option (Nat × Spine) :=
  List.find? (fun (e : Nat × Spine) => isSaved part ctx e.1 && shareOf e.1 == share) s.spines

/-- R334, R358: a share comes back: a spine instance with its grid's teams onto one cluster of the die of its virtual die, or
a team alone. A team keeps its virtual die where that one names the same die (assumption 49). -/
def State.returnShare (s : State) (part ctx share : Nat) : State :=
  let teams := s.shareTeams part ctx share
  let info := s.bindings part ctx
  let spine := s.shareSpine part ctx share
  let vdie := match spine, teams with
    | some x, _ => x.2.th.vdie
    | none, e :: _ => e.2.vdie
    | none, [] => 0
  if spine.isNone && teams.isEmpty || !info.bound vdie || s.dieOff (info.die vdie) then s
  else
    let p := s.part part
    let room := fun (cl : Nat) =>
      if p.leaving.contains cl || (spine.isSome && (s.spines.find? cl).isSome) then none
      else
        let s2 := match spine with
          | some x => (s.moveSpine part ctx x.1 cl).setScalar (.spine cl) { x.2.th with vdie := info.spineDie cl }
          | none => s
        let s3 := s2.setAcc cl { s2.acc cl with cur := Sig.ones }
        teams.foldl (fun acc e =>
          match acc with
          | none => none
          | some t =>
            let nums := (t.groupsOf e.1).map fun k => (t.group k).num
            let g := t.grid e.2.grid
            let v := if info.bound e.2.vdie && info.die e.2.vdie == info.die vdie then e.2.vdie else vdie
            let cand := (List.range 4).map fun k => (⟨v, cl, k⟩ : Spot)
            match cand.find? fun y => t.fitsAt e.2.grid g nums y with
            | some y => some (t.returnTeam e.1 y)
            | none => none) (some s3)
    match (s.clustersOn part (info.die vdie)).findSome? room with
    | some t => t
    | none => s

/-- R334: the shares of a context that are saved. -/
def State.savedShares (s : State) (part ctx : Nat) : List Nat :=
  let spines := (s.spines.map fun (e : Nat × Spine) => e.1).filter (isSaved part ctx)
  let teams := s.teams.filter fun (e : Nat × Team) => e.2.part == part && e.2.ctx == ctx && !e.2.placed
  (spines.map shareOf ++ teams.map fun (e : Nat × Team) => e.2.share).dedup

/-- R334: bring back every share of a resident context that now fits. -/
def State.returnAll (s : State) (part ctx : Nat) : State :=
  (s.savedShares part ctx).foldl (fun t n => t.returnShare part ctx n) s

/-- The contexts of a partition in some phase. -/
def State.ctxsOf (s : State) (part : Nat) (p : CtxPhase → Bool) : List Nat :=
  (s.ctxs.filter fun e => e.1 / 256 == part && p e.2.phase).map fun e => e.1 % 256

/-- R161, R334, R340: a placement step: saved units ahead of every team that was never placed. A function switch stops
placement. -/
def State.placementStep (s : State) (part : Nat) : State :=
  let cs := s.ctxsOf part (· == .resident)
  let s1 := cs.foldl (fun t c => t.returnAll part c) s
  if cs.any fun c => !(s1.savedShares part c).isEmpty then s1
  else if (s.part part).toFunc.isSome then s1
  else s1.placeAll part [] [7, 6, 5, 4, 3, 2, 1, 0]

end Sys2Proof.Machine
end

