-- ==== Sys2Proof/Machine/Stream.lean ====
section
/-! DEFINITION. The `strm` words as they issue (R278 to R281, R283, R284, R287, R288). -/

namespace Sys2Proof.Machine

/-- R280: a handle. -/
def handleOf (slot : Nat) (gen : W32) : W64 := BitVec.ofNat 64 (slot * 2 ^ 8 + gen.toNat * 2 ^ 32)

/-- R280: zero bits outside SLOT and GEN. -/
def handleOk (h : W64) : Bool := h.toNat % 2 ^ 8 == 0 && h.toNat / 2 ^ 13 % 2 ^ 19 == 0

/-- Replace a stream. -/
def State.setStream (s : State) (team slot : Nat) (x : Stream) : State :=
  { s with streams := s.streams.insert (streamKey team slot) x }

/-- R280: the check of a handle at step 4: the cause, 0 for none. -/
def State.handleCause (s : State) (g : Nat) (h : W64) : Nat :=
  if handleOk h = false then 1
  else
    match s.streamOf (s.group g).team (handleSlot h) with
    | some x => if x.closing then 12 else 0
    | none => 12

/-- R279: a command that names a stream is accepted: it joins the open batch and the stream's queue, and empties D. -/
def State.acceptStrm (s : State) (g : Nat) (th : ThreadId) (h : W64) (d : Nat) (k : CmdKind) : State :=
  let team := (s.group g).team
  let r := s.issueCmd g k
  let s1 := match r.1.streamOf team (handleSlot h) with
    | some x => r.1.setStream team (handleSlot h) { x with queue := x.queue ++ [r.2] }
    | none => r.1
  s1.emptyW th d

/-- What a word that names a stream comes to, after its own checks. -/
def State.strmWord (s : State) (th : ThreadId) (h : W64) (d : Nat) (check : Nat → Pinned) (k : List Frames → CmdKind) : Did :=
  match th with
  | .gang g _ =>
    if s.strmFull g then .wait s
    else if s.batchFull g then .trap (Trap.commandCheck 7)
    else if s.handleCause g h ≠ 0 then .trap (Trap.commandCheck (s.handleCause g h))
    else
      match check g with
      | .stop x => x
      | .ok s1 fs => if s1.queueFull g h then .wait s else .done (s1.acceptStrm g th h d (k fs))
  | _ => .wait s

/-! ### Opening -/

/-- R281: the fields of CFG. -/
structure StrmCfg where
  tile : Nat
  outer : Bool
  comp : Bool
  zero : Bool
  n : Nat
  deriving DecidableEq, Repr

/-- R281. -/
def parseCfg (x : W64) : StrmCfg :=
  { tile := x.toNat % 64, outer := x.getLsbD 8, comp := x.getLsbD 9, zero := x.getLsbD 10, n := x.toNat / 2 ^ 16 % 2 ^ 11 + 1 }

/-- The tiles a stream has. -/
def strmTiles (tile : Nat) (comp : Bool) : List Nat := if comp then [tile, tile + 1] else [tile]

/-- R281: the checks of `strm.open` at step 4: the cause, 0 for none. -/
def State.openCause (s : State) (g : Nat) (x : W64) : Nat :=
  let c := parseCfg x
  let mt := (s.descOf (s.group g).team).mtiles
  if x.toNat / 2 ^ 6 % 4 ≠ 0 ∨ x.toNat / 2 ^ 11 % 2 ^ 5 ≠ 0 ∨ x.toNat / 2 ^ 27 ≠ 0 then 1
  else if (c.outer && c.n != 2048) || (strmTiles c.tile c.comp).any fun m => decide (mt ≤ m) then 5
  else if (strmTiles c.tile c.comp).any (s.tileHeld g) then 10
  else 0

/-- Hold or release tiles of a team (R278). -/
def State.holdTiles (s : State) (team : Nat) (ms : List Nat) : State :=
  s.setTeam team { s.team team with heldTiles := (s.team team).heldTiles ++ ms }
def State.freeTiles (s : State) (team : Nat) (ms : List Nat) : State :=
  s.setTeam team { s.team team with heldTiles := (s.team team).heldTiles.filter fun m => !ms.contains m }

/-- R281. -/
def execStrmOpen (t : Bool) (d a : BitVec 6) (s : State) : Out :=
  issue (.strmOpen t d a) s fun th s =>
    match th with
    | .gang g _ =>
      let x := s.getW th a.toNat
      let c := parseCfg x
      if s.strmFull g then .wait s
      else if s.batchFull g then .trap (Trap.commandCheck 7)
      else if s.openCause g x ≠ 0 then .trap (Trap.commandCheck (s.openCause g x))
      else
        let r := s.issueCmd g (.strmOpen c.tile c.outer c.comp c.zero c.n d.toNat (s.group g).mq)
        .done ((r.1.holdTiles (s.group g).team (strmTiles c.tile c.comp)).emptyW th d.toNat)
    | _ => .wait s

/-! ### Steps and scans -/

/-- R283: N rounded up to a multiple of 32. -/
def padN (n : Nat) : Nat := (n + 31) / 32 * 32

/-- R283: the operand vectors of a step at an offset: their places and lengths in bytes. -/
def stepOperands (x : Stream) (off : Nat) : List (Nat × Nat) :=
  if x.outer then [(off, 256), (off + 256, 256), (off + 512, 128), (off + 640, 256)]
  else [(off, 4 * x.n), (off + 4 * padN x.n, 4 * x.n), (off + 8 * padN x.n, 4 * x.n)]

/-- R283: bytes from OFF to the end of the last operand. -/
def operandSpan (x : Stream) : Nat := if x.outer then 896 else 8 * padN x.n + 4 * x.n

/-- R283: bytes of y. -/
def outLen (x : Stream) : Nat := if x.outer then 128 else 4 * x.n

/-- R283: OUT, none when all ones. -/
def outOf (v : W64) : Option Nat := if v = BitVec.allOnes 64 then none else some v.toNat

/-- R283, R284: the ranges of L steps as wholes, for the range checks. -/
def scanSpans (x : Stream) (off stride out ostride : W64) (steps : Nat) : List Range :=
  (⟨true, off, (steps - 1) * stride.toNat + operandSpan x, 128, .copyRead⟩ : Range) ::
    (match outOf out with
      | none => []
      | some _ => [⟨true, out, (steps - 1) * ostride.toNat + outLen x, 128, .copyWrite⟩])

/-- R283, R284: the bytes of L steps, for the watchpoints. -/
def scanBytes (x : Stream) (off stride out ostride : W64) (steps : Nat) : List Range :=
  (List.range steps).flatMap fun t =>
    ((stepOperands x (off.toNat + t * stride.toNat)).map fun e => (⟨true, BitVec.ofNat 64 e.1, e.2, 1, .copyRead⟩ : Range)) ++
      (match outOf out with
        | none => []
        | some o => [⟨true, BitVec.ofNat 64 (o + t * ostride.toNat), outLen x, 1, .copyWrite⟩])

/-- R283: the checks of steps 5 and 8 for L steps of a stream. -/
def State.checkSteps (s : State) (th : ThreadId) (g : Nat) (h off stride out ostride : W64) (steps : Nat) : Pinned :=
  match s.streamOf (s.group g).team (handleSlot h) with
  | none => .ok s []
  | some x =>
    match (scanSpans x off stride out ostride steps).findSome? (s.rangeTrap th) with
    | some tr => .stop (.trap tr)
    | none =>
      match s.watchRanges th (scanBytes x off stride out ostride steps) with
      | some tr => .stop (.trap tr)
      | none => .ok s []

/-- R283. -/
def execStrmStep (t : Bool) (d a : BitVec 6) (s : State) : Out :=
  issue (.strmStep t d a) s fun th s =>
    let r := fun i => s.getW th (a.toNat + i)
    s.strmWord th (r 0) d.toNat (fun g => s.checkSteps th g (r 0) (r 1) 0 (r 2) 0 1)
      fun _ => .strmStep (handleSlot (r 0)) (handleGen (r 0)) (r 1).toNat (outOf (r 2)) d.toNat

/-- R284: the limits of step 4. DEDUCED (assumption 8): a STRIDE or an OSTRIDE that is no multiple of 128 is cause 5, after the handle's
causes. -/
def scanBad (stride steps ostride : W64) : Bool :=
  stride.toNat % 128 != 0 || ostride.toNat % 128 != 0 || steps.toNat == 0 || decide (64 < steps.toNat)

/-- R284. -/
def execStrmScan (t : Bool) (d a : BitVec 6) (s : State) : Out :=
  issue (.strmScan t d a) s fun th s =>
    let r := fun i => s.getW th (a.toNat + i)
    s.strmWord th (r 0) d.toNat
      (fun g => if scanBad (r 2) (r 3) (r 5) then .stop (.trap (Trap.commandCheck 5))
        else s.checkSteps th g (r 0) (r 1) (r 2) (r 4) (r 5) (r 3).toNat)
      fun _ => .strmScan (handleSlot (r 0)) (handleGen (r 0)) (r 1).toNat (r 2).toNat (r 3).toNat (outOf (r 4)) (r 5).toNat d.toNat

/-! ### Records, closing and queries -/

/-- R287: the checks of a record's range. -/
def State.checkRecord (s : State) (th : ThreadId) (addr : W64) (k : AccKind) : Pinned :=
  let rs : List Range := [⟨false, addr, 16448, 64, k⟩]
  match rs.findSome? (s.rangeTrap th) with
  | some tr => .stop (.trap tr)
  | none =>
    match s.pinRanges th rs with
    | (_, .error (c, va)) => .stop (.fault c (BitVec.ofNat 64 va) 0)
    | (s1, .ok fs) =>
      if fs.any fun f => !framesTyped f [.shared, .priv] then .stop (.trap (Trap.commandCheck 3))
      else
        match s1.watchRanges th rs with
        | some tr => .stop (.trap tr)
        | none => s.pinnedOr s1 fs

/-- R287. -/
def execStrmSave (t : Bool) (d a : BitVec 6) (h : Bool) (s : State) : Out :=
  issue (.strmSave t d a h) s fun th s =>
    let hd := s.getW th a.toNat
    let ad := s.getW th (a.toNat + 1)
    s.strmWord th hd d.toNat (fun _ => s.checkRecord th ad .copyWrite)
      fun fs => .strmSave (handleSlot hd) (handleGen hd) h ad.toNat (fs.getD 0 []) d.toNat

/-- R287. -/
def execStrmLoad (t : Bool) (d a : BitVec 6) (s : State) : Out :=
  issue (.strmLoad t d a) s fun th s =>
    let hd := s.getW th a.toNat
    let ad := s.getW th (a.toNat + 1)
    s.strmWord th hd d.toNat (fun _ => s.checkRecord th ad .copyRead)
      fun fs => .strmLoad (handleSlot hd) (handleGen hd) ad.toNat (fs.getD 0 []) d.toNat

/-- R278, R290: the issue of a close releases the stream's tiles. -/
def State.startClose (s : State) (team slot : Nat) : State :=
  match s.streamOf team slot with
  | none => s
  | some x => (s.setStream team slot { x with closing := true }).freeTiles team (strmTiles x.tile x.comp)

/-- R288. -/
def execStrmClose (t : Bool) (d a : BitVec 6) (s : State) : Out :=
  issue (.strmClose t d a) s fun th s =>
    let hd := s.getW th a.toNat
    let team := match th with
      | .gang g _ => (s.group g).team
      | _ => 0
    match s.strmWord th hd d.toNat (fun _ => .ok s []) fun _ => .strmClose (handleSlot hd) (handleGen hd) d.toNat with
    | .done s1 => .done (s1.startClose team (handleSlot hd))
    | x => x

/-- R288. -/
def execStrmQuery (t : Bool) (d a : BitVec 6) (q : Bool) (s : State) : Out :=
  issue (.strmQuery t d a q) s fun th s =>
    let hd := s.getW th a.toNat
    s.strmWord th hd d.toNat (fun _ => .ok s []) fun _ => .strmQuery (handleSlot hd) (handleGen hd) q d.toNat

end Sys2Proof.Machine
end

