-- ==== Sys2Proof/Machine/StreamRun.lean ====
section
/-! DEFINITION. What the stream unit does at a command's turn: opens (R281), steps (R282), chunk scans (R284), records (R286,
R287), closing, queries and holding (R288, R289). -/

namespace Sys2Proof.Machine

/-! ### Exact arithmetic of R282 -/

/-- The exact sum of two values; ∞ − ∞ is a NaN. -/
def FVal.plus (a b : FVal) : FVal :=
  match a, b with
  | .nan s, _ => .nan s
  | _, .nan s => .nan s
  | .inf n, .inf k => if n = k then .inf n else .nan false
  | .inf n, .fin .. => .inf n
  | .fin .., .inf n => .inf n
  | .fin na ma ea, .fin nb mb eb =>
    let r := exactSum .rne na ma ea nb mb eb
    .fin r.1 r.2.1 r.2.2

/-- The exact product of two values; 0 × ∞ is a NaN. -/
def FVal.times (a b : FVal) : FVal := (a.mul b).1

/-- The exact value of an FP32 pattern, subnormals kept. -/
def f32 (x : W32) : FVal := fp32.unpack x.toNat

/-- R282: a value rounded to FP32, whether it is a NaN, and whether the rounding overflowed. -/
structure Rounded where
  bits : W32
  nan : Bool
  ovf : Bool
  deriving DecidableEq, Repr

/-- R282: `RoundTo(FP32, RNE)`. -/
def roundF32 (v : FVal) : Rounded :=
  match v with
  | .nan _ => ⟨BitVec.ofNat 32 fp32.canonNaN, true, false⟩
  | .inf n => ⟨BitVec.ofNat 32 (fp32.pack n fp32.infCode), false, false⟩
  | .fin n m e =>
    let r := fp32.roundTo .rne false false n m e
    ⟨BitVec.ofNat 32 r.1, false, r.2.getLsbD 2⟩

/-- R282: the error term: e − h for a finite h, +0 otherwise. -/
def errTerm (comp : Bool) (e : FVal) (h : W32) : W32 :=
  match comp, f32 h with
  | true, .fin n m x => (roundF32 (e.plus (FVal.fin n m x).negate)).bits
  | _, _ => 0

/-- One element of a state after a step: h or S, c or C, and what it raised. -/
structure Cell where
  h : W32
  c : W32
  nan : Bool := false
  ovf : Bool := false
  deriving DecidableEq, Repr

/-- R282: e ← a × (h + c) + b × x, rounded, with its error term. -/
def stepCell (comp : Bool) (o : Cell) (a b x : W32) : Cell :=
  let hc := (f32 o.h).plus (f32 (if comp then o.c else 0))
  let e := ((f32 a).times hc).plus ((f32 b).times (f32 x))
  let r := roundF32 e
  { h := r.bits, c := errTerm comp e r.bits, nan := o.nan || r.nan, ovf := o.ovf || r.ovf }

/-- The operands of one step, by vector. -/
abbrev Operands := List (List W32)

/-- R282: the element i of a vector of a step's operands. -/
def opAt (os : Operands) (v i : Nat) : W32 := (os.getD v []).getD i 0

/-- R282: a step of the whole state. DIAG: a, b, x by element; OUTER: g by row, k by row, v by column. -/
def stepState (outer comp : Bool) (os : Operands) (cs : List Cell) : List Cell :=
  cs.zipIdx.map fun e =>
    if outer then stepCell comp e.1 (opAt os 0 (e.2 / 32)) (opAt os 1 (e.2 / 32)) (opAt os 2 (e.2 % 32))
    else stepCell comp e.1 (opAt os 0 e.2) (opAt os 1 e.2) (opAt os 2 e.2)

/-- R282: y of OUTER in column n. -/
def outerY (comp : Bool) (os : Operands) (cs : List Cell) (n : Nat) : Rounded :=
  roundF32 ((List.range 64).foldl (fun acc i =>
    let o := cs.getD (32 * i + n) ⟨0, 0, false, false⟩
    let p := ((f32 o.h).plus (f32 (if comp then o.c else 0))).times (f32 (opAt os 3 i))
    if i = 0 then p else acc.plus p) (.fin false 0 0))

/-- R282: y after a step, and whether an addition of it overflowed. -/
def stepY (outer comp : Bool) (os : Operands) (cs : List Cell) : List W32 × Bool :=
  if outer then
    let ys := (List.range 32).map (outerY comp os cs)
    (ys.map (·.bits), ys.any (·.ovf))
  else (cs.map (·.h), false)

/-- What a run of steps comes to: the state, the outputs, and an overflow of an output. -/
structure Chunk where
  cs : List Cell
  ys : List (List W32) := []
  ovf : Bool := false

/-- R282: steps one after another. -/
def runSteps (outer comp : Bool) (cs : List Cell) (ops : List Operands) : Chunk :=
  ops.foldl (fun r os =>
    let c := stepState outer comp os r.cs
    let y := stepY outer comp os c
    { cs := c, ys := r.ys ++ [y.1], ovf := r.ovf || y.2 }) { cs := cs }

/-! ### Chunk scans (R284) -/

/-- The magnitude of a value. -/
def FVal.mag : FVal → FVal
  | .nan s => .nan s
  | .inf _ => .inf false
  | .fin _ m e => .fin false m e

/-- The larger of two magnitudes; a value that is not finite stands. -/
def magMax (a b : FVal) : FVal :=
  match a.cmp b with
  | some .lt => b
  | some _ => a
  | none => .nan false

/-- R284: exact steps on magnitudes: the state and the largest magnitude so far. DESIGN CHOICE (assumption 8): Q is one value for the
whole chunk, the largest of every element, step and output. -/
def scanQ (outer : Bool) (cs : List FVal) (ops : List Operands) : FVal :=
  (ops.foldl (fun (r : List FVal × FVal) os =>
    let mag := fun v i => (f32 (opAt os v i)).mag
    let c := r.1.zipIdx.map fun e =>
      if outer then ((mag 0 (e.2 / 32)).times e.1).plus ((mag 1 (e.2 / 32)).times (mag 2 (e.2 % 32)))
      else ((mag 0 e.2).times e.1).plus ((mag 1 e.2).times (mag 2 e.2))
    let ys := if outer then (List.range 32).map fun n =>
        (List.range 64).foldl (fun acc i => acc.plus ((c.getD (32 * i + n) (.fin false 0 0)).times (mag 3 i))) (.fin false 0 0)
      else []
    (c, (c ++ ys).foldl magMax r.2)) (cs, .fin false 0 0)).2

/-- |x − y| ≤ 3 × L × 2^−24 × Q, for finite values. DESIGN CHOICE (assumption 8): where Q is not finite nothing else than the value of
the steps is taken. -/
def scanWithin (steps : Nat) (q x y : FVal) : Bool :=
  match q, (x.plus y.negate).mag with
  | .fin _ m e, .fin n p k =>
    match (FVal.fin n p k).cmp (.fin false (3 * steps * m) (e - 24)) with
    | some .gt => false
    | _ => true
  | _, _ => false

/-- R284: the value the array gives an element: a free one whose rounding lies within the bound (assumption 8), else that of
the steps. -/
def scanCell (comp : Bool) (steps draw j : Nat) (q : FVal) (o : Cell) : Cell :=
  let hi := f32 (Config.scanValue draw (2 * j))
  let lo := if comp then f32 (Config.scanValue draw (2 * j + 1)) else .fin false 0 0
  let r := hi.plus lo
  let h := roundF32 r
  if scanWithin steps q (f32 h.bits) (f32 o.h) then
    { o with h := h.bits, c := errTerm comp r h.bits, nan := o.nan || h.nan, ovf := o.ovf || h.ovf }
  else o

/-- R284: the same for an element of y. -/
def scanY (steps draw j : Nat) (q : FVal) (y : W32) : W32 :=
  let x := Config.scanValue draw (2 ^ 13 + j)
  if scanWithin steps q (f32 x) (f32 y) then x else y

/-- R284: a chunk by the array quarter. -/
def runScan (outer comp : Bool) (cs : List Cell) (ops : List Operands) (draw : Nat) : Chunk :=
  let r := runSteps outer comp cs ops
  let n := ops.length
  let q := scanQ outer (cs.map fun o => (f32 o.h).mag) ops
  { r with
    cs := r.cs.zipIdx.map fun e => scanCell comp n draw e.2 q e.1
    ys := r.ys.zipIdx.map fun e => e.1.zipIdx.map fun y => scanY n draw (2 ^ 11 * e.2 + y.2) q y.1 }

/-! ### The tiles and scratchpad of a stream -/

/-- The elements of a stream's state (R278). -/
def Stream.size (x : Stream) : Nat := if x.outer then 2048 else x.n

/-- The state and error terms that the tiles hold. -/
def State.strmCells (s : State) (x : Stream) : List Cell :=
  (List.range x.size).map fun j =>
    { h := Tbl.get 0 (s.tile x.team x.tile).el j, c := if x.comp then Tbl.get 0 (s.tile x.team (x.tile + 1)).el j else 0 }

/-- The tiles with new values in their first elements; the rest are unchanged (R281). -/
def Tile.refill (o : Tile) (bad : Bool) (vs : List W32) : Tile :=
  let n := vs.length
  { valid := true, poison := bad
    el := (vs.zipIdx.filterMap fun e => if e.1 = 0 then none else some (e.2, e.1)) ++ o.el.filter fun e => decide (n ≤ e.1) }

/-- Write a stream's state back to its tiles. -/
def State.putCells (s : State) (x : Stream) (bad : Bool) (cs : List Cell) : State :=
  let s1 := s.setTile x.team x.tile ((s.tile x.team x.tile).refill bad (cs.map (·.h)))
  if x.comp then s1.setTile x.team (x.tile + 1) ((s.tile x.team (x.tile + 1)).refill bad (cs.map (·.c))) else s1

/-- The stream's tiles are poisoned. -/
def State.strmBad (s : State) (x : Stream) : Bool := (strmTiles x.tile x.comp).any fun m => (s.tile x.team m).poison

/-- R283: the operands of one step in scratchpad. -/
def State.readOperands (s : State) (g : Nat) (x : Stream) (off : Nat) : Operands :=
  (stepOperands x off).map fun e =>
    (List.range (e.2 / 4)).map fun i => BitVec.ofNat 32 (s.poolSeen g false (e.1 + 4 * i) (s.fresh + e.1 / 4 + i))

/-- A poisoned byte among the operands of one step. -/
def State.badOperands (s : State) (x : Stream) (off : Nat) : Bool :=
  (stepOperands x off).any fun e => (List.range (e.2 / 4)).any fun i => s.poolBad x.team (e.1 + 4 * i)

/-- R283: y written to scratchpad. -/
def State.writeY (s : State) (g : Nat) (off : Nat) (bad : Bool) (y : List W32) : State :=
  let team := (s.group g).team
  (y.zipIdx.foldl (fun t e =>
    let o := off + 4 * e.2
    let u := t.poolWrite team o 4 e.1.toNat
    if bad then u.setPoolBad team o true else u) s).forgetNotes team off (4 * y.length)

/-! ### Status -/

/-- R280: a stream status word. -/
def strmStatus (code slot : Nat) (x : Stream) : W64 :=
  BitVec.ofNat 64 (code + slot * 2 ^ 8 + x.nan.toNat * 2 ^ 13 + x.ovf.toNat * 2 ^ 14 + x.gen.toNat * 2 ^ 32)

/-- R279: a command completes and fills its D. -/
def State.endStrm (s : State) (id : Nat) (c : Cmd) (d : Nat) (v : W64) : State :=
  let s1 := if d = 0 then s else s.fillW (.gang c.group (s.group c.group).lowGang) d v
  s1.completeCmd id

/-- A command leaves its stream's queue. -/
def State.dequeue (s : State) (team slot id : Nat) : State :=
  { s with streams := s.streams.modify (streamKey team slot) fun x => { x with queue := x.queue.erase id } }

/-! ### Opens (R281) -/

/-- The streams of the teams on the core of a team. -/
def State.coreStreams (s : State) (team : Nat) : List (Nat × Stream) :=
  let x := s.team team
  s.streams.filter fun e =>
    let y := s.team e.2.team
    y.placed && y.cluster == x.cluster && y.core == x.core

/-- R278: the lowest free slot of the core. -/
def State.freeStrmSlot (s : State) (team : Nat) : Option Nat :=
  (List.range 32).find? fun i => !((s.coreStreams team).any fun e => e.1 % 32 == i)

/-- R281: a GEN that no other open stream of the core has, from a free value: the first of as many candidates as the fuel
that is not in use. -/
def freshGen (used : List W32) (g : W32) : Nat → W32
  | 0 => g
  | n + 1 => if used.contains g then freshGen used (g + 1) n else g

/-- R281: an open that fails: its status states a code alone; the other fields are free (assumption 5). -/
def State.failOpen (s : State) (id : Nat) (c : Cmd) (code d : Nat) (tiles : List Nat) : State :=
  let v := (s.draw.1 &&& BitVec.ofNat 64 (0xFFFFFFFF00000000 + 0x7F00)) ||| BitVec.ofNat 64 code
  (s.draw.2.freeTiles c.team tiles).endStrm id c d v

/-- R281: the turn of an open. -/
def State.runOpen (s : State) (id : Nat) (c : Cmd) (tile : Nat) (outer comp zero : Bool) (n d : Nat) : State :=
  let tiles := strmTiles tile comp
  match s.freeStrmSlot c.team with
  | none => s.failOpen id c 3 d tiles
  | some slot =>
    if zero = false ∧ (tiles.any fun m => !(s.tile c.team m).valid) then s.failOpen id c 5 d tiles
    else
      let used := (s.coreStreams c.team).map fun e => e.2.gen
      let gen := freshGen used (s.draw.1.setWidth 32) used.length
      let x : Stream := { team := c.team, outer := outer, comp := comp, n := n, tile := tile, gen := gen }
      let s1 := s.draw.2.setStream c.team slot x
      let s2 := if zero then s1.putCells x false (List.replicate x.size ⟨0, 0, false, false⟩) else s1
      let s3 := tiles.foldl (fun t m => t.setTile c.team m { t.tile c.team m with valid := true }) s2
      s3.endStrm id c d (handleOf slot gen)

/-! ### Records (R286) -/

/-- One byte of the CRC-32 of IEEE 802.3, reflected. -/
def crcByte (c b : Nat) : Nat :=
  (List.range 8).foldl (fun c _ => if c % 2 = 1 then (c / 2) ^^^ 0xEDB88320 else c / 2) (c ^^^ b)

/-- CRC-32 of a list of bytes. -/
def crc32 (bs : List Nat) : Nat := bs.foldl crcByte 0xFFFFFFFF ^^^ 0xFFFFFFFF

/-- The four bytes of a word, little-endian. -/
def wordBytes (x : Nat) : List Nat := [x % 256, x / 2 ^ 8 % 256, x / 2 ^ 16 % 256, x / 2 ^ 24 % 256]

/-- R286: the header's first fifteen words for a stream, its flags, steps and generation. -/
def recHeader (outer comp : Bool) (n : Nat) (nan ovf : Bool) (steps : W64) (gen : W32) : List Nat :=
  let size := if outer then 2048 else n
  [0x5453424D, 1 + outer.toNat * 2 ^ 16 + (comp.toNat + nan.toNat * 2 + ovf.toNat * 4) * 2 ^ 24,
    (if outer then 64 + 32 * 2 ^ 16 else n + 2 ^ 16), 0, steps.toNat % 2 ^ 32, steps.toNat / 2 ^ 32, gen.toNat,
    4 * size * (1 + comp.toNat), 0, 0, 0, 0, 0, 0, 0]

/-- R286: the words of a record: header, CRC, data. -/
def recWords (hdr data : List Nat) : List Nat := hdr ++ [crc32 ((hdr ++ data).flatMap wordBytes)] ++ data

/-- R286: the words of a stream's record. -/
def State.strmRecord (s : State) (x : Stream) : List Nat :=
  let cs := s.strmCells x
  recWords (recHeader x.outer x.comp x.n x.nan x.ovf x.steps x.gen)
    ((cs.map fun o => o.h.toNat) ++ (if x.comp then cs.map fun o => o.c.toNat else []))

/-- R287: words read at a virtual address through the cluster's L1, and whether any is poisoned. -/
def State.readWords (s : State) (g : Nat) (fr : Frames) (a : Nat) : Nat → State × List Nat × Bool
  | 0 => (s, [], false)
  | n + 1 =>
    let r := s.engRead g false fr a
    let q := r.1.readWords g fr (a + 4) n
    (q.1, r.2.1 :: q.2.1, r.2.2 || q.2.2)

/-- R287: words written at a virtual address through the cluster's L1. -/
def State.writeWords (s : State) (g : Nat) (fr : Frames) (a : Nat) (bad : Bool) (ws : List Nat) : State :=
  ws.zipIdx.foldl (fun t e => t.engWrite g false fr (a + 4 * e.2) e.1 bad 0) s

/-- R287: the words of a record fit a stream: the record's flags, steps and generation are its own. -/
def recFits (x : Stream) (ws : List Nat) : Bool :=
  let f := ws.getD 1 0 / 2 ^ 24
  let hdr := recHeader x.outer x.comp x.n (f.testBit 1) (f.testBit 2)
    (BitVec.ofNat 64 (ws.getD 4 0 + ws.getD 5 0 * 2 ^ 32)) (BitVec.ofNat 32 (ws.getD 6 0))
  ws == recWords hdr (ws.drop 16)

/-- R287: the stream that a record makes, and its state. -/
def recStream (x : Stream) (ws : List Nat) : Stream × List Cell :=
  let f := ws.getD 1 0 / 2 ^ 24
  let y := { x with nan := f.testBit 1, ovf := f.testBit 2, held := false
                    steps := BitVec.ofNat 64 (ws.getD 4 0 + ws.getD 5 0 * 2 ^ 32), gen := BitVec.ofNat 32 (ws.getD 6 0) }
  let data := ws.drop 16
  (y, (List.range x.size).map fun j =>
    { h := BitVec.ofNat 32 (data.getD j 0), c := if x.comp then BitVec.ofNat 32 (data.getD (x.size + j) 0) else 0 })

/-! ### Turns (R289) -/

/-- A command that waits while its stream is HELD. -/
def CmdKind.waitsHeld : CmdKind → Bool
  | .strmStep .. => true
  | .strmScan .. => true
  | .strmSave .. => true
  | _ => false

/-- R289: it is a command's turn in its stream's queue. -/
def State.strmTurnIs (s : State) (x : Stream) (id : Nat) : Bool :=
  if x.held then
    (match s.cmds.find? id with
      | some c => !c.kind.waitsHeld
      | none => false) &&
      (x.queue.takeWhile (· != id)).all fun i => match s.cmds.find? i with
        | some c => c.kind.waitsHeld
        | none => true
  else x.queue.head? == some id

/-- R282, R284: steps or a chunk by a command: STEPS, NAN and OVF, the tiles and y. -/
def State.runChunk (s : State) (id : Nat) (c : Cmd) (slot : Nat) (x : Stream) (array : Bool) (off stride steps : Nat)
    (out : Option Nat) (ostride d : Nat) : State :=
  let offs := (List.range steps).map fun t => off + t * stride
  let ops := offs.map (s.readOperands c.group x)
  let cs := s.strmCells x
  let r := if array then runScan x.outer x.comp cs ops s.fresh else runSteps x.outer x.comp cs ops
  let bad := (offs.any (s.badOperands x)) || s.strmBad x
  let y := { x with
    steps := x.steps + BitVec.ofNat 64 steps
    nan := x.nan || r.cs.any (·.nan)
    ovf := x.ovf || r.ovf || r.cs.any (·.ovf) }
  let s1 := (s.passDraws.putCells x bad r.cs).setStream c.team slot y
  let s2 := match out with
    | none => s1
    | some o => r.ys.zipIdx.foldl (fun t (e : List W32 × Nat) => t.writeY c.group (o + e.2 * ostride) bad e.1) s1
  (s2.modCmd id fun c => { c with poison := c.poison || bad }).endStrm id c d (strmStatus 0 slot y)

/-- R287: a save. -/
def State.runSave (s : State) (id : Nat) (c : Cmd) (slot : Nat) (x : Stream) (hold : Bool) (addr : Nat) (fr : Frames) (d : Nat) :
    State :=
  let bad := s.strmBad x
  let s1 := s.writeWords c.group fr addr bad (s.strmRecord x)
  let y := { x with held := x.held || hold }
  ((s1.setStream c.team slot y).modCmd id fun c => { c with poison := c.poison || bad }).endStrm id c d (strmStatus 0 slot y)

/-- R287: a load. -/
def State.runLoad (s : State) (id : Nat) (c : Cmd) (slot : Nat) (x : Stream) (addr : Nat) (fr : Frames) (d : Nat) : State :=
  let r := s.readWords c.group fr addr (16 + x.size * (1 + x.comp.toNat))
  if recFits x r.2.1 then
    let q := recStream x r.2.1
    let s1 := (r.1.putCells x r.2.2 q.2).setStream c.team slot q.1
    (s1.modCmd id fun c => { c with poison := c.poison || r.2.2 }).endStrm id c d (handleOf slot q.1.gen)
  else (r.1.modCmd id fun c => { c with poison := c.poison || r.2.2 }).endStrm id c d (strmStatus 4 slot x)

/-- The status register of a stream command. -/
def CmdKind.strmDst : CmdKind → Nat
  | .strmOpen _ _ _ _ _ d _ => d
  | .strmStep _ _ _ _ d => d
  | .strmScan _ _ _ _ _ _ _ d => d
  | .strmSave _ _ _ _ _ d => d
  | .strmLoad _ _ _ _ d => d
  | .strmClose _ _ d => d
  | .strmQuery _ _ _ d => d
  | _ => 0

/-- The slot a stream command names. -/
def CmdKind.strmSlot : CmdKind → Nat
  | .strmStep l _ _ _ _ => l
  | .strmScan l _ _ _ _ _ _ _ => l
  | .strmSave l _ _ _ _ _ => l
  | .strmLoad l _ _ _ _ => l
  | .strmClose l _ _ => l
  | .strmQuery l _ _ _ => l
  | _ => 0

/-- R288: the stream closes; what is still queued for it completes CLOSED. -/
def State.runClose (s : State) (id : Nat) (c : Cmd) (slot : Nat) (x : Stream) (d : Nat) : State :=
  let s1 := (s.endStrm id c d (strmStatus 0 slot x))
  let s2 := { s1 with streams := s1.streams.erase (streamKey c.team slot) }
  let rest := x.queue.filter (· != id)
  let s3 := rest.foldl (fun t i => match t.cmds.find? i with
    | some q => t.endStrm i q q.kind.strmDst (strmStatus 2 slot x)
    | none => t) s2
  rest.foldl (fun t i => match t.cmds.find? i with
    | some q => t.tryRetireGroup q.group
    | none => t) s3

/-- R289: the turn of a command that names a stream. -/
def State.strmTurn (s : State) (id : Nat) (c : Cmd) (slot : Nat) (x : Stream) : State :=
  let s0 := s.dequeue c.team slot id
  let y := { x with queue := x.queue.erase id }
  let stale := s0.endStrm id c c.kind.strmDst (strmStatus 1 slot x)
  match c.kind with
  | .strmStep _ gen off out d => if gen = x.gen then s0.runChunk id c slot y false off 0 1 out 0 d else stale
  | .strmScan _ gen off stride steps out ostride d =>
    if gen = x.gen then s0.runChunk id c slot y true off stride steps out ostride d else stale
  | .strmSave _ gen hold addr fr d => if gen = x.gen then s0.runSave id c slot y hold addr fr d else stale
  | .strmLoad _ _ addr fr d => s0.runLoad id c slot y addr fr d
  | .strmClose _ _ d => s0.runClose id c slot y d
  | .strmQuery _ _ st d => s0.endStrm id c d (if st then strmStatus 0 slot x else x.steps)
  | _ => s

/-- R281: an open waits for the matrix commands its group issued before it, and for a close that still has its tiles. -/
def State.openReady (s : State) (team : Nat) (tiles after : List Nat) : Bool :=
  (after.all fun i => match s.cmds.find? i with
    | some c => c.done
    | none => true) && !s.tileClosing team tiles

/-- R287: the lines of the record that a save or a load names. -/
def CmdKind.recordLines : CmdKind → List Nat
  | .strmSave _ _ _ addr fr _ => engLines false fr addr 4112
  | .strmLoad _ _ addr fr _ => engLines false fr addr 4112
  | _ => []

/-- R287, R211, R367: a save or a load begins after every earlier access of its group, and waits for lines that the host may hold. -/
def State.recordWait (s : State) (id : Nat) (c : Cmd) : Option State :=
  match c.kind with
  | .strmSave .. => if s.olderPending c.group id then some s else s.snoopHost c.kind.recordLines
  | .strmLoad .. => if s.olderPending c.group id then some s else s.snoopHost c.kind.recordLines
  | _ => none

/-- R291, R333: the save of a team's context has begun, so that a queued command is not started any more. -/
def State.saveBegun (s : State) (team : Nat) : Bool :=
  let x := s.team team
  let c := s.ctx x.part x.ctx
  c.forced && c.phase == .saving

/-- R279, R289, R291. -/
def execStrmTurn (cmd : Nat) (s : State) : Out :=
  match s.cmds.find? cmd with
  | none => event s
  | some c =>
    if c.done || !s.engineOn c.team || s.saveBegun c.team then event s
    else
      match c.kind with
      | .strmOpen tile outer comp zero n d after =>
        if s.openReady c.team (strmTiles tile comp) after then
          event ((s.runOpen cmd c tile outer comp zero n d).tryRetireGroup c.group)
        else event s
      | k =>
        match s.streamOf c.team k.strmSlot with
        | none => event s
        | some x =>
          if k.isStream && s.strmTurnIs x cmd then
            match s.recordWait cmd c with
            | some s1 => event s1
            | none => event ((s.strmTurn cmd c k.strmSlot x).tryRetireGroup c.group)
          else event s

end Sys2Proof.Machine
end

