-- ==== Sys2Proof/Machine/Sections.lean ====
section
/-! DEFINITION. The sections of a save area (R333 step 5, R336): what a save writes of each unit of a context and what a
restore (R334) loads of it. A unit's skeleton (how many slices, stack entries, tiles, loaded codebooks it has), its commands and
whether it issues stay in State, with the place of its section (assumption 15). -/

namespace Sys2Proof.Machine

/-! ### Pieces -/

/-- Values of w bits packed into 16-byte pieces, the first lowest. -/
def packPieces (w : Nat) (xs : List Nat) : List Nat := go xs.length xs
where
  go : Nat → List Nat → List Nat
    | 0, _ => []
    | _, [] => []
    | n + 1, xs => (xs.take (128 / w)).foldr (fun y a => y % 2 ^ w + 2 ^ w * a) 0 :: go n (xs.drop (128 / w))

/-- The values of w bits that pieces hold. -/
def unpackPieces (w : Nat) (ps : List Nat) : List Nat :=
  ps.flatMap fun p => (List.range (128 / w)).map fun k => p / 2 ^ (w * k) % 2 ^ w

/-- The same for marks: each value's mark is its piece's. -/
def unpackMarks (w : Nat) (bs : List Bool) : List Bool := bs.flatMap fun b => List.replicate (128 / w) b

/-- A table of values in key order, the default not listed. -/
def tblOf {α : Type} [DecidableEq α] (d : α) (xs : List α) : Tbl α :=
  xs.zipIdx.filterMap fun e => if e.1 = d then none else some (e.2, e.1)

/-- The values of a table at n keys from i on. -/
def Tbl.run {α : Type} (d : Nat → α) : Tbl α → Nat → Nat → List α
  | _, _, 0 => []
  | [], i, n + 1 => d i :: Tbl.run d [] (i + 1) n
  | (k, x) :: t, i, n + 1 => if k = i then x :: Tbl.run d t (i + 1) n else d i :: Tbl.run d ((k, x) :: t) (i + 1) n

/-- Pieces as they were read, and whether each came poisoned (R310). -/
abbrev Pieces := List (Nat × Bool)

/-- A piece's value. -/
def Pieces.val (ps : Pieces) (i : Nat) : Nat := (ps.getD i (0, false)).1

/-- The values of w bits from a place on. -/
def Pieces.values (ps : Pieces) (w at_ n : Nat) : List Nat := unpackPieces w (((ps.drop at_).take n).map (·.1))

/-- The marks of the values of w bits from a place on, as a mask. -/
def Pieces.marks (ps : Pieces) (w at_ n : Nat) : Nat :=
  (unpackMarks w (((ps.drop at_).take n).map (·.2))).foldr (fun b a => b.toNat + 2 * a) 0

/-- Some piece came poisoned. -/
def Pieces.bad (ps : Pieces) (at_ n : Nat) : Bool := ((ps.drop at_).take n).any (·.2)

/-- A number of a small range that may be absent. -/
def optCode (o : Option Nat) : Nat := (o.map (· + 1)).getD 0

/-- The same from its code. -/
def codeOpt (n : Nat) : Option Nat := if n = 0 then none else some (n - 1)

/-! ### Images -/

/-- R115: the image of a jetty register. -/
def Jetty.image (j : Jetty) : Nat :=
  j.value.toNat + j.full.toNat * 2 ^ 64 + j.reduce.toNat * 2 ^ 65 + j.op.toNat * 2 ^ 66 + j.rc.toNat * 2 ^ 72
    + j.exp.toNat * 2 ^ 80 + j.arr.toNat * 2 ^ 88

/-- The jetty register of an image. -/
def Jetty.ofImage (p : Nat) : Jetty :=
  { value := BitVec.ofNat 64 p, full := p.testBit 64, reduce := p.testBit 65, op := BitVec.ofNat 4 (p / 2 ^ 66)
    rc := BitVec.ofNat 8 (p / 2 ^ 72), exp := BitVec.ofNat 8 (p / 2 ^ 80), arr := BitVec.ofNat 8 (p / 2 ^ 88) }

/-- R152: the image of a barrier. -/
def Barrier.image (b : Barrier) : Nat :=
  b.arrived.toNat + b.isOpen.toNat * 2 ^ 16 + b.party.toNat * 2 ^ 17 + b.phase.toNat * 2 ^ 32

/-- The barrier of an image. -/
def Barrier.ofImage (p : Nat) : Barrier :=
  { arrived := BitVec.ofNat 16 p, isOpen := p.testBit 16, party := BitVec.ofNat 2 (p / 2 ^ 17), phase := BitVec.ofNat 32 (p / 2 ^ 32) }

/-- R333: uniform registers with presence and poison marks: `w[2i]` and `w[2i + 1]` in piece i, then the marks, FPCTL and FPSTAT,
and the uniform predicates. -/
def Uni.section (u : Uni) : List Nat :=
  packPieces 64 ((List.range 64).map fun r => (u.getW r).toNat) ++
    [piece u.empty.toNat u.poison.toNat, piece u.fpctl.toNat u.fpstat.toNat, u.k.toNat]

/-- Uniform registers take the 35 pieces of their section; those of a poisoned piece are poisoned (R310), and those that were
filled meanwhile are full (R106). -/
def Uni.load (u : Uni) (ps : Pieces) : Uni :=
  let marks := ps.val 32
  let ctl := BitVec.ofNat 64 (ps.val 33)
  u.late.foldl (fun y e => y.putW e.1 e.2)
  { w := tblOf 0 (0 :: ((ps.values 64 0 32).drop 1).map (BitVec.ofNat 64))
    empty := setBit (BitVec.ofNat 64 marks) 0 false
    poison := setBit (BitVec.ofNat 64 (marks / 2 ^ 64) ||| BitVec.ofNat 64 (ps.marks 64 0 32)) 0 false
    k := BitVec.ofNat 8 (ps.val 34)
    fpctl := if fpctlOk ctl then ctl &&& ~~~0x200 else u.fpctl
    fpstat := BitVec.ofNat 64 (ps.val 33 / 2 ^ 64) &&& 0x3F }

/-- R334: the address of a word: reserved bits dropped (R5). -/
def wordAddr (n : Nat) : Addr := BitVec.ofNat 48 (n / 4 * 4)

/-! ### Shares (type 1) -/

/-- R336: the content of a cluster share: its jetty images, then the spine registers. -/
def Spine.section (x : Spine) (cluster : Nat) : List Nat :=
  section_ 1 (cluster % 256) 0 0 0 (((List.range 64).map fun j => (x.jetty.get {} j).image) ++ x.th.uni.section ++
    [piece x.th.pc.toNat (optCode x.th.serving), piece x.th.retpc.toNat x.th.endpt.toNat])

/-- A cluster share takes a section's content. -/
def Spine.load (x : Spine) (ps : Pieces) : Spine :=
  let r : Pieces := ps.drop 99
  { x with jetty := tblOf {} ((List.range 64).map fun j => Jetty.ofImage (ps.val j))
           th := { x.th with
             uni := x.th.uni.load (ps.drop 64), pc := wordAddr (r.val 0), serving := codeOpt (r.val 0 / 2 ^ 64 % 64)
             retpc := wordAddr (r.val 1), endpt := wordAddr (r.val 1 / 2 ^ 64) } }

/-! ### Groups (type 3) -/

/-- R146: a slice in ten pieces: its PC, masks and JP, its gang and the word it waits at (R97, R98), its stack. -/
def Slice.pieces (x : Slice) : List Nat :=
  let at_ := x.regang.getD (0, 0, false)
  [piece (x.pc.toNat + x.act.toNat * 2 ^ 48 + x.live.toNat * 2 ^ 52)
      ((x.jp.getD 0).toNat + x.jp.isSome.toNat * 2 ^ 48),
    piece x.gang (at_.1.toNat + at_.2.1.toNat * 2 ^ 48 + at_.2.2.toNat * 2 ^ 58 + x.regang.isSome.toNat * 2 ^ 59)] ++
  (List.range 8).map fun i => match x.stack[i]? with
    | some e => piece (e.rpc.toNat + e.saved.toNat * 2 ^ 48) (e.dpc.toNat + e.dmask.toNat * 2 ^ 48)
    | none => 0

/-- A slice takes its ten pieces. -/
def Slice.load (x : Slice) (ps : Pieces) : Slice :=
  let a := ps.val 0
  let b := ps.val 1 / 2 ^ 64
  { x with
    pc := wordAddr (a % 2 ^ 48), act := BitVec.ofNat 4 (a / 2 ^ 48), live := BitVec.ofNat 4 (a / 2 ^ 52)
    jp := if a.testBit 112 then some (wordAddr (a / 2 ^ 64)) else none
    gang := ps.val 1 % 2 ^ 64
    regang := if b.testBit 59 then some (wordAddr (b % 2 ^ 48), BitVec.ofNat 10 (b / 2 ^ 48), b.testBit 58) else none
    stack := x.stack.zipIdx.map fun e =>
      let p := ps.val (2 + e.2)
      if e.2 < 8 then ⟨wordAddr p, BitVec.ofNat 4 (p / 2 ^ 48), wordAddr (p / 2 ^ 64), BitVec.ofNat 4 (p / 2 ^ 112)⟩ else e.1 }

/-- The flags of a group: its hold at a barrier, in `xbar`, its step flag, and the format of its weight set. -/
def Group.flagWord (x : Group) : Nat :=
  let w : WeightSet := x.wset.getD ⟨0, false, [], [], false⟩
  optCode x.barHold % 32 + x.xbarHold.toNat * 2 ^ 5 + x.step.toNat * 2 ^ 6 + w.fmt % 16 * 2 ^ 8 + w.scaled.toNat * 2 ^ 12
    + w.poison.toNat * 2 ^ 13

/-- R333: the registers of a group after its lane registers: uniform registers, service, MSTAT, presence and poison marks,
predicates, generators, slices. -/
def Group.tail (x : Group) : List Nat :=
  x.uni.section ++ [piece x.retpc.toNat (optCode x.serving), piece x.endpt.toNat x.flagWord, x.mstat.toNat, x.vEmpty.toNat] ++
    packPieces 128 ((List.range 32).map fun i => x.vPoison.toNat / 2 ^ (128 * i)) ++
    packPieces 128 ((List.range 2).map fun i => x.p.toNat / 2 ^ (128 * i)) ++
    packPieces 32 (x.gens.map (·.toNat)) ++ x.slices.flatMap Slice.pieces

/-- The pieces of a group's record that lie beyond its lane registers (R335). -/
def Group.room (x : Group) : Nat := 1024 - 8 * x.budget

/-- R335, R336: a group's section is laid out as its park record; `bulk` fills the places of lane registers that it does not have. -/
def Group.section (x : Group) (tm : Team) (bulk : List Nat) : List Nat :=
  let fill := fun (n : Nat) (l : List Nat) => l ++ List.replicate (n - l.length) 0
  section_ 3 tm.cluster tm.core tm.num x.num
    (packPieces 32 ((Tbl.run (fun _ => (0 : W32)) x.v 0 (32 * x.budget)).map (·.toNat)) ++ fill x.room bulk ++ fill 256 x.tail)

/-- A group takes a section's content. -/
def Group.load (x : Group) (ps : Pieces) : Group :=
  let n := 8 * x.budget
  let t : Pieces := ps.drop (n + x.room)
  let r : Pieces := t.drop 35
  let flags := r.val 1 / 2 ^ 64
  { x with
    v := tblOf 0 ((ps.values 32 0 n).map (BitVec.ofNat 32)), uni := x.uni.load t
    retpc := wordAddr (r.val 0), serving := codeOpt (r.val 0 / 2 ^ 64 % 64)
    endpt := wordAddr (r.val 1), barHold := codeOpt (flags % 32), xbarHold := flags.testBit 5, step := flags.testBit 6
    wset := x.wset.map fun w => { w with fmt := flags / 2 ^ 8 % 16, scaled := flags.testBit 12, poison := flags.testBit 13 }
    mstat := BitVec.ofNat 64 (r.val 2) &&& 0x0000FFFF003F3FF3, vEmpty := BitVec.ofNat 128 (r.val 3)
    vPoison := BitVec.ofNat 4096 ((List.range 32).foldr (fun i a => r.val (4 + i) + 2 ^ 128 * a) 0) |||
      BitVec.ofNat 4096 (ps.marks 32 0 n)
    p := BitVec.ofNat 256 (r.val 36 + 2 ^ 128 * r.val 37)
    gens := x.gens.zipIdx.map fun e => BitVec.ofNat 32 (r.val (38 + e.2 / 4) / 2 ^ (32 * (e.2 % 4)))
    slices := x.slices.zipIdx.map fun e => e.1.load (r.drop (38 + (x.gens.length + 3) / 4 + 10 * e.2)) }

/-! ### Teams (type 2) -/

/-- An element of a weight set in 16 bits: the sign of a decoded LQ2 weight stands in the top one. -/
def weightCode (fmt : Nat) (e : W32) : Nat := if fmt = 7 then e.toNat % 2 ^ 15 + e.toNat / 2 ^ 31 * 2 ^ 15 else e.toNat

/-- The element of a code. -/
def codeWeight (fmt n : Nat) : W32 := BitVec.ofNat 32 (if fmt = 7 then n % 2 ^ 15 + n / 2 ^ 15 * 2 ^ 31 else n)

/-- R333 step 5: a weight set's elements and scales. -/
def WeightSet.pieces (w : WeightSet) : List Nat :=
  packPieces 16 ((Tbl.run (fun _ => (0 : W32)) w.elem 0 2048).map (weightCode w.fmt)) ++
    packPieces 8 ((Tbl.run (fun _ => (0 : Byte)) w.scale 0 64).map (·.toNat))

/-- A weight set takes its 260 pieces. -/
def WeightSet.load (w : WeightSet) (ps : Pieces) : WeightSet :=
  { w with elem := tblOf 0 ((ps.values 16 0 256).map (codeWeight w.fmt))
           scale := ((ps.values 8 256 4).map (BitVec.ofNat 8)).zipIdx.map fun e => (e.2, e.1)
           poison := w.poison || ps.bad 0 260 }

/-- The bytes of a pool region that starts at 0, for n bytes. -/
def poolBytes (team bank : Nat) (m : Tbl Byte) (n : Nat) : List Nat :=
  (Tbl.run (Config.poolByte team bank) m 0 n).map (·.toNat)

/-- A pool region from its bytes: one that nothing has written stays unlisted. -/
def poolTbl (team bank : Nat) (xs : List Nat) : Tbl Byte :=
  xs.zipIdx.filterMap fun e =>
    let b := BitVec.ofNat 8 e.1
    if b = Config.poolByte team bank e.2 then none else some (e.2, b)

/-- How many of each a team's bulk holds: pieces of scratchpad, of each bank, and tiles. -/
def State.bulkSizes (s : State) (k : Nat) : Nat × Nat × Nat :=
  ((s.descOf k).pool * 4096, (s.descOf k).exch * 64, (s.descOf k).mtiles)

/-- R333 step 5: what a team has beside its registers: its tiles, its scratchpad, both its banks, its codebooks, and the weight
sets of its groups. -/
def State.bulk (s : State) (k : Nat) : List Nat :=
  let x := s.team k
  let z := s.bulkSizes k
  (List.range z.2.2).flatMap (fun m => packPieces 32 ((Tbl.run (fun _ => (0 : W32)) (s.tile k m).el 0 2048).map (·.toNat))) ++
    packPieces 8 (poolBytes k 0 x.spad (16 * z.1)) ++ packPieces 8 (poolBytes k x.nearId x.near (16 * z.2.1)) ++
    packPieces 8 (poolBytes k (3 - x.nearId) x.far (16 * z.2.1)) ++
    (x.books.flatMap fun e => packPieces 32 ((Tbl.run (fun _ => (0 : W32)) e.2 0 256).map (·.toNat))) ++
    (s.groupsOf k).flatMap fun g => ((s.group g).wset.map WeightSet.pieces).getD []

/-- R334, R310: a team takes its bulk; a tile of a poisoned piece is poisoned, as is a codebook, and bytes of the pool keep or gain
their marks. -/
def State.loadBulk (s : State) (k : Nat) (ps : Pieces) : State :=
  let x := s.team k
  let z := s.bulkSizes k
  let a := 512 * z.2.2
  let n := a + z.1
  let f := n + z.2.1
  let b := f + z.2.1
  let tiles := (List.range z.2.2).foldl (fun t m =>
    let o := t.get {} m
    t.put {} m { o with el := tblOf 0 ((ps.values 32 (512 * m) 512).map (BitVec.ofNat 32)), poison := o.poison || ps.bad (512 * m) 512 })
    x.tiles
  let mark := fun (bank at_ : Nat) (t : Tbl (BitVec 64)) (i : Nat) =>
    if ps.bad (at_ + i) 1 then
      t.put 0 (bank * 2 ^ 20 + i / 4) (t.get 0 (bank * 2 ^ 20 + i / 4) ||| BitVec.ofNat 64 (0xFFFF * 2 ^ (16 * (i % 4))))
    else t
  let marks1 := if ps.bad a z.1 then (List.range z.1).foldl (mark 0 a) x.spadPoison else x.spadPoison
  let marks2 := if ps.bad n z.2.1 then (List.range z.2.1).foldl (mark x.nearId n) marks1 else marks1
  let marks3 := if ps.bad f z.2.1 then (List.range z.2.1).foldl (mark (3 - x.nearId) f) marks2 else marks2
  let s1 := s.setTeam k { x with
    tiles := tiles, spad := poolTbl k 0 (ps.values 8 a z.1), near := poolTbl k x.nearId (ps.values 8 n z.2.1)
    far := poolTbl k (3 - x.nearId) (ps.values 8 f z.2.1), spadPoison := marks3
    books := x.books.zipIdx.map fun e => (e.1.1, tblOf 0 ((ps.values 32 (b + 64 * e.2) 64).map (BitVec.ofNat 32)))
    bookPoison := x.books.zipIdx.foldl (fun m e => setBit m e.1.1 (m.getLsbD e.1.1 || ps.bad (b + 64 * e.2) 64)) x.bookPoison }
  ((s.groupsOf k).foldl (fun (acc : State × Nat) g =>
    match (acc.1.group g).wset with
    | some w => (acc.1.setGroup g { acc.1.group g with wset := some (w.load (ps.drop acc.2)) }, acc.2 + 260)
    | none => acc) (s1, b + 64 * x.books.length)).1

/-- The first pieces of a team's section: its barriers, its exchange state, the marks of its tiles, codebooks and pool. -/
def Team.head (x : Team) : List Nat :=
  let tiles := fun (f : Tile → Bool) => (List.range 64).foldr (fun m a => (f (x.tiles.get {} m)).toNat + 2 * a) 0
  packPieces 64 ((List.range 16).map fun i => (x.bars.get {} i).image) ++
    [piece x.xstat.toNat (BitVec.ofInt 64 x.xcount).toNat, piece (x.xarrived.toNat + x.nearId % 4 * 2 ^ 16 + x.bookPoison.toNat * 2 ^ 18) 0,
      piece (tiles (·.valid)) (tiles (·.poison))] ++ x.spadPoison.map fun e => piece e.1 e.2.toNat

/-- A team takes the first pieces of its section. -/
def Team.loadHead (x : Team) (ps : Pieces) : Team :=
  { x with
    bars := tblOf {} (((ps.values 64 0 8).map Barrier.ofImage))
    xstat := BitVec.ofNat 64 (ps.val 8) &&& ~~~0xFFF8, xcount := (BitVec.ofNat 64 (ps.val 8 / 2 ^ 64)).toInt
    xarrived := BitVec.ofNat 16 (ps.val 9), nearId := ps.val 9 / 2 ^ 16 % 4, bookPoison := BitVec.ofNat 4 (ps.val 9 / 2 ^ 18)
    tiles := (List.range 64).foldl (fun t m =>
      t.put {} m { t.get {} m with valid := (ps.val 10).testBit m, poison := (ps.val 10).testBit (64 + m) }) x.tiles
    spadPoison := (List.range x.spadPoison.length).foldl (fun t i =>
      t.put 0 (ps.val (11 + i) % 2 ^ 64) (BitVec.ofNat 64 (ps.val (11 + i) / 2 ^ 64))) [] }

/-- Where the part of a team's bulk begins that a group's section holds: the groups of a team fill their places in turn. -/
def State.bulkStart (s : State) (g : Nat) : Nat :=
  (((s.groupsOf (s.group g).team).takeWhile (· != g)).map fun h => (s.group h).room).sum

/-- The pieces of a team's bulk that the sections of its groups hold. -/
def State.bulkRoom (s : State) (k : Nat) : Nat := ((s.groupsOf k).map fun h => (s.group h).room).sum

/-- R336 type 2: a team, with what of its bulk its groups' sections have no place for. -/
def State.teamSection (s : State) (k : Nat) : List Nat :=
  let x := s.team k
  section_ 2 x.cluster x.core x.num 0 (x.head ++ (s.bulk k).drop (s.bulkRoom k))

/-- R336 type 3. -/
def State.groupSection (s : State) (g : Nat) : List Nat :=
  let x := s.group g
  x.section (s.team x.team) (((s.bulk x.team).drop (s.bulkStart g)).take x.room)

/-! ### Streams (type 4) -/

/-- R336 type 4: a stream: its record, then its queue. -/
def State.strmSection (s : State) (x : Stream) (slot : Nat) : List Nat :=
  let tm := s.team x.team
  section_ 4 tm.cluster tm.core tm.num 0
    (packPieces 32 (s.strmRecord x) ++ x.queue.map fun id => piece id (slot + (x.gen.toNat) * 2 ^ 32))

/-- A stream takes a section's content, where the record fits it (R287); data of a poisoned piece is poisoned. -/
def State.loadStrm (s : State) (key : Nat) (x : Stream) (ps : Pieces) : State :=
  let words := 16 + x.size * (1 + x.comp.toNat)
  let n := (words + 3) / 4
  let ws := (ps.values 32 0 n).take words
  if recFits x ws then
    let q := recStream x ws
    { s.putCells x (s.strmBad x || ps.bad 0 n) q.2 with streams := s.streams.insert key { q.1 with held := x.held } }
  else s

/-! ### The sections of a context -/

/-- The teams of a context, by key. -/
def State.ctxTeams (s : State) (part ctx : Nat) : List Nat :=
  (s.teams.filter fun e => e.2.part == part && e.2.ctx == ctx).map fun e => e.1

/-- The groups of a context, by key. -/
def State.ctxGroups (s : State) (part ctx : Nat) : List Nat := (s.ctxTeams part ctx).flatMap s.groupsOf

/-- What a section is of. -/
inductive Unit_ where
  | share (key : Nat)
  | team (key : Nat)
  | group (key : Nat)
  | strm (key : Nat)
  | hails
  deriving DecidableEq, Repr

/-- R336: the saved units of a context, in the order of their sections. -/
def State.savedUnits (s : State) (part ctx : Nat) : List Unit_ :=
  ((s.spines.filter fun e => isSaved part ctx e.1).map fun e => Unit_.share e.1) ++
  (s.ctxTeams part ctx).map Unit_.team ++ (s.ctxGroups part ctx).map Unit_.group ++
  ((s.streams.filter fun e => (s.ctxTeams part ctx).contains e.2.team).map fun e => Unit_.strm e.1) ++ [Unit_.hails]

/-- R336: the section of a unit. -/
def State.unitSection (s : State) (part ctx : Nat) : Unit_ → List Nat
  | .share k => ((s.spines.find? k).getD {}).section k
  | .team k => s.teamSection k
  | .group k => s.groupSection k
  | .strm k => ((s.streams.find? k).map fun x => s.strmSection x (k % 32)).getD []
  | .hails => s.hailSection part ctx

/-- The piece of the save area at which a unit's section begins. -/
def State.sectionAt (s : State) (part ctx : Nat) : Unit_ → Nat
  | .share k => ((s.spines.find? k).map (·.savedAt)).getD 0
  | .team k => (s.team k).savedAt
  | .group k => (s.group k).savedAt
  | .strm k => ((s.streams.find? k).map (·.savedAt)).getD 0
  | .hails => (s.ctx part ctx).hailAt

/-- The section of a unit begins at a piece of the save area. -/
def State.placeSection (s : State) (part ctx i : Nat) : Unit_ → State
  | .share k => { s with spines := s.spines.modify k fun x => { x with savedAt := i } }
  | .team k => { s with teams := s.teams.modify k fun x => { x with savedAt := i } }
  | .group k => { s with groups := s.groups.modify k fun x => { x with savedAt := i } }
  | .strm k => { s with streams := s.streams.modify k fun x => { x with savedAt := i } }
  | .hails => s.modCtx part ctx fun c => { c with hailAt := i }

/-- R333 step 5: the section of a unit goes to the save area from a piece on; the piece after it. -/
def State.writeSection (s : State) (part ctx : Nat) (acc : State × Nat) (u : Unit_) : State × Nat :=
  let body := s.unitSection part ctx u
  ((acc.1.placeSection part ctx acc.2 u).writePiecesAt part ctx acc.2 body, acc.2 + body.length)

/-- R333 step 5, R336: the sections of a context, ended by a TYPE of 0. -/
def State.writeSections (s : State) (part ctx : Nat) : State :=
  let r := (s.savedUnits part ctx).foldl (s.writeSection part ctx) (s, 0)
  r.1.writePiecesAt part ctx r.2 [0]

/-- A piece of the save area as it now stands, with its mark; none beyond the area and where its page does not translate. -/
def State.savedPiece (s : State) (part ctx i : Nat) : Option (Nat × Bool) :=
  let info := (s.ctx part ctx).info
  if i < info.saveRoom then
    match (s.translate (.ctx part ctx (1280 + realPart part)) (info.savearea + 16 * i) .load false).2 with
    | .ok p => some (s.siteValue (realPart part) p 16)
    | .error _ => none
  else none

/-- R334: the content of a unit's section as the area now holds it; what it does not hold is as the unit was saved. -/
def State.savedBody (s : State) (part ctx : Nat) (u : Unit_) : Pieces :=
  ((s.unitSection part ctx u).drop 1).zipIdx.map fun e =>
    (s.savedPiece part ctx (s.sectionAt part ctx u + 1 + e.2)).getD (e.1, false)

/-- R334: a team's bulk as the area now holds it. -/
def State.savedBulk (s : State) (part ctx k : Nat) : Pieces :=
  let of := fun g => ((s.savedBody part ctx (.group g)).drop (8 * (s.group g).budget)).take (s.group g).room
  ((s.groupsOf k).flatMap of ++ (s.savedBody part ctx (.team k)).drop (s.team k).head.length)

/-- R334: a unit takes the content that the area of state `a` holds of its section; a group, with its team. -/
def State.loadUnit (a s : State) (part ctx : Nat) (u : Unit_) : State :=
  let ps := a.savedBody part ctx u
  match u with
  | .share k => { s with spines := s.spines.modify k fun x => x.load ps }
  | .team k =>
    let s1 := { s with teams := s.teams.modify k fun x => x.loadHead ps }
    let s2 := (s1.groupsOf k).foldl (fun t g => t.setGroup g ((t.group g).load (a.savedBody part ctx (.group g)))) s1
    s2.loadBulk k (a.savedBulk part ctx k)
  | .group _ => s
  | .strm k => match s.streams.find? k with
    | some x => s.loadStrm k x ps
    | none => s
  | .hails => s.modCtx part ctx fun c => c.loadHails (ps.map (·.1))

/-- R334: a restore loads the sections of a context. -/
def State.loadSections (s : State) (part ctx : Nat) : State :=
  (s.savedUnits part ctx).foldl (fun t u => State.loadUnit s t part ctx u) s

end Sys2Proof.Machine
end

