-- ==== Sys2Proof/Machine/Save.lean ====
section
/-! DEFINITION. Saving and restoring a context (R332 to R336), and the words `sys.ctxsw` and `sys.ctxld` (R338, R339). -/

namespace Sys2Proof.Machine

/-! ### When a save begins (R332, R333) -/

/-- The clusters whose spine core holds an instance of a context. -/
def State.ctxSpines (s : State) (part ctx : Nat) : List Nat :=
  (s.spines.filter fun e => decide (e.1 < 256) && e.2.th.part == part && e.2.th.ctx == ctx).map fun e => e.1

/-- R332: a group that lets the save begin: yielded, waiting, parked or halted; its exited slices do not count. -/
def Group.quiet (x : Group) : Bool :=
  match x.mode with
  | .parked _ _ => true
  | .halted => true
  | .halting _ _ => false
  | _ => x.slices.all fun sl => sl.live == 0 || sl.yielded || sl.waiting || sl.regang.isSome

/-- R332: the same for a spine instance. -/
def Scalar.quiet (x : Scalar) : Bool := x.waiting || x.yielded || x.mode != .run

/-- R332: the context is quiescent. -/
def State.quiescent (s : State) (part ctx : Nat) : Bool :=
  ((s.ctxGroups part ctx).all fun g => (s.group g).quiet) &&
    (s.ctxSpines part ctx).all fun c => (s.scalar (.spine c)).quiet

/-- R333 steps 2 and 3: a command that a save leaves for after the restore: a slice of a collective that others still owe,
a matrix command behind a weight load whose words have not all arrived, a stream command that has not started. -/
def State.mayKeep (s : State) (c : Cmd) : Bool :=
  match c.kind with
  | .cpy _ _ _ _ _ k _ _ => decide ((s.team c.team).cpyStarted ≤ k) && !s.cpyReady c.team
  | .gather .. => false
  | .binscat .. => false
  | k =>
    if k.isStream then true
    else
      match s.mqHead c.group with
      | some (id, h) =>
        match h.kind with
        | .mwld .. =>
          let q := (s.group c.group).num / 4
          s.quadWhole c.team q && decide ((s.loadParts c.team q).length < 4)
        | .cbload slot _ => !(s.group c.group).mqHalted && s.bookAwaited c.team id slot
        | _ => false
      | none => false

/-- R333 steps 1 to 3, R247: everything that has issued and must complete before the save has completed, and the batches
that have completed have filled their statuses. -/
def State.drained (s : State) (part ctx : Nat) : Bool :=
  let mine := s.ctxTeams part ctx
  !(s.reqs.any fun e => mine.contains (s.group e.2.group).team) &&
    (s.cmds.all fun e => !mine.contains e.2.team || e.2.done || s.mayKeep e.2) &&
    ((s.ctxGroups part ctx).all fun g =>
      ((s.group g).closed.all fun b => b.cmds.any fun id => ((s.cmds.find? id).map fun c => !c.done).getD false) &&
        match (s.group g).mode with
        | .halting _ _ => false
        | _ => true)

/-! ### The save (R333) -/

/-- R333 step 4: the exchange deliveries in flight to a context's teams land (R236). -/
def State.landAll (s : State) (part ctx : Nat) : State :=
  (s.xpkts.filter fun p => (s.ctxTeams part ctx).contains p.team || (s.ctxTeams part ctx).contains p.sender).foldl
    State.deliverPkt s

/-- R333 step 6: the clusters of a partition write back and invalidate their SHARED sectors and the PRIVATE sectors of the
context that is saved, which no other save makes leave (R174), and flush their STREAM buffers. -/
def State.cleanClusters (s : State) (part ctx : Nat) : State :=
  let p := s.part part
  (List.range (2 ^ p.logk)).foldl (fun t i =>
    (t.evictAll (p.base + i) fun _ x => x.ty == .shared || (x.ty == .priv && x.tag / 2 ^ 20 == ctx)).flushStream (p.base + i)) s

/-- R334: a spine instance leaves its cluster, as a share of a new number with its grid's teams there. A spine thread that
waits in `hail.take` has not begun its word. -/
def State.liftSpine (s : State) (part ctx c : Nat) : State :=
  let x := s.scalar (.spine c)
  let n := s.nextId
  let m := match x.mode with
    | .taking _ _ _ => Mode.run
    | m => m
  let s1 := { s with
    nextId := n + 1
    teams := s.teams.map fun (e : Nat × Team) =>
      (e.1, if e.2.placed && e.2.grid == x.grid && e.2.cluster == c then { e.2 with placed := false, share := n } else e.2) }
  (s1.setScalar (.spine c) { x with mode := m }).moveSpine part ctx c (savedKey part ctx n c)

/-- R334: a team without a spine instance leaves its core, a share of its own. -/
def State.liftTeam (s : State) (k : Nat) : State :=
  if (s.team k).placed then { s with nextId := s.nextId + 1 }.setTeam k { s.team k with placed := false, share := s.nextId }
  else s

/-- R334: the units of a context leave their cores; those that a save has taken before stay as they are. -/
def State.liftUnits (s : State) (part ctx : Nat) : State :=
  let s1 := (s.ctxGroups part ctx).foldl (fun t g =>
    let x := t.group g
    t.setGroup g { x with slot := none, lastRec := t.recIndex (.gang g 0) }) s
  let s2 := (s.ctxSpines part ctx).foldl (fun t c => t.liftSpine part ctx c) s1
  (s.ctxTeams part ctx).foldl (fun t k => t.liftTeam k) s2

/-- R333, R338: the save of a context that is ready for it; one that a change of borders meets comes back inside the new ones
(R347). -/
def State.saveCtx (s : State) (part ctx : Nat) : State :=
  let s1 := (((s.landAll part ctx).freezeLandings part ctx).liftUnits part ctx).writeSections part ctx
  let s2 := (s1.cleanClusters part ctx).releasePart part
  let due := (s2.1.ctx part ctx).wakeDue
  let again := (s2.1.part part).border.isSome
  let s3 := s2.1.modCtx part ctx fun c =>
    { c with phase := .saved, preq := none, forced := false, wakeDue := none, resume := c.resume || again }
  let s4 := s3.notify part 3 ctx 0
  match due with
  | some v => s4.notify part 2 ctx v
  | none => s4

/-- R332, R333: a save begins at the moment the context is quiescent, and no further word is issued. -/
def State.beginSaves (s : State) : State :=
  let due := fun (e : Nat × Ctx) => e.2.phase == .saving && !e.2.forced && s.quiescent (e.1 / 256) (e.1 % 256)
  if s.ctxs.any due then { s with ctxs := s.ctxs.map fun e => (e.1, if due e then { e.2 with forced := true } else e.2) } else s

/-- R333: the save begins when the context is quiescent or the save is forced, and runs once what has issued is done. -/
def State.trySave (s : State) (part ctx : Nat) : State :=
  let c := s.ctx part ctx
  if c.phase == .saving && (c.forced || s.quiescent part ctx) && s.drained part ctx && !(s.part part).halted then
    s.saveCtx part ctx
  else s

/-- R333. -/
def execContextSave (part ctx : Nat) (s : State) : Out := event (s.trySave part ctx)

/-! ### The restore (R334) -/

/-- R334: the units of a restored context issue again; a thread that yielded goes on. -/
def State.unyield (s : State) (part ctx : Nat) : State :=
  let s1 := (s.ctxGroups part ctx).foldl (fun t g =>
    t.setGroup g { t.group g with slices := (t.group g).slices.map fun sl => { sl with yielded := false } }) s
  { s1 with spines := s1.spines.map fun e =>
      (e.1, if e.2.th.part = part ∧ e.2.th.ctx = ctx then { e.2 with th := { e.2.th with yielded := false } } else e.2) }

/-- R338: a context comes onto its clusters: its record is read anew (R335, R358), its units return as room allows, its
landing timers run and its hails are delivered. A context that was NONE begins empty. What a switch or a change of borders was to
bring back it does no longer (R340, R347). -/
def State.restoreCtx (s : State) (part ctx : Nat) : State :=
  let was := (s.ctx part ctx).phase
  let c : Ctx := { s.ctx part ctx with phase := .resident, info := s.ctxInfo part ctx, preq := none, forced := false, resume := false }
  let s0 := { s with ctxs := s.ctxs.insert (ctxKey part ctx) c }
  let s1 := if was = .saved then s0.loadSections part ctx else s0
  let s2 := ((s1.unyield part ctx).resumeLandings part ctx).returnAll part ctx
  let s3 := s2.serveTakers part ctx
  if was = .saved then s3.notify part 4 ctx 0 else s3

/-- R334: the saved units of a resident context that now fit. -/
def execContextRestore (part ctx : Nat) (s : State) : Out :=
  event (if (s.ctx part ctx).phase = .resident ∧ (s.part part).halted = false then (s.returnAll part ctx).serveTakers part ctx
    else s)

/-! ### `ctxsw` and `ctxld` (R339) -/

/-- R336, R2: the size in 4 KiB units that a save area must have: dies that are disabled have no cores. -/
def State.saveUnits (s : State) (part : Nat) : Nat := (s.clustersIn part).length * (4 * 480 + 16) + 16

/-- R339: the status of the checks in their order; 0 passes them. Context 0 in `ctxsw` is none. -/
def State.switchStatus (s : State) (part out inc : Nat) : Nat :=
  let gone := fun k => (s.ctx part k).phase == .none
  let small := fun k => k != 0 && decide ((parseCtx (s.readCtxRec part k)).savelen < s.saveUnits part)
  if out ≠ 0 ∧ gone out then 1
  else if inc ≠ 0 ∧ gone inc ∧ s.ctxValid part inc = false then 1
  else if inc ≠ 0 ∧ (s.ctx part inc).phase = .resident then 3
  else if small out || small inc then 4
  else 0

/-- R338, R339: the outgoing context's save is forced at once; a `sys.ctxsw` is timed from here. -/
def State.startSwitch (s : State) (part out inc : Nat) (timed : Bool) : State :=
  let s1 := if out = 0 then s else s.raiseRequest part out 0 true
  s1.modPart part fun p => { p with switching := some (out, inc, if timed then some s.time else none) }

/-- R338, R339: a switch that has passed its checks: none while a save it needs has not ended. -/
def State.finishSwitch (s : State) (part out inc : Nat) : Option State :=
  let saving := fun k => k != 0 && ((s.ctx part k).phase == .saving || (k == out && (s.ctx part k).phase == .resident))
  if saving out || saving inc then none
  else
    let s1 := s.modPart part fun p => { p with switching := none }
    some (if inc = 0 then s1 else s1.restoreCtx part inc)

/-- R339: the word of a switch: its checks, then the save, then the restore. -/
def State.switchWord (s : State) (t : ThreadId) (d out inc : Nat) (timed : Bool) : Did :=
  let part := s.partOf t
  let go := fun (s : State) => match s.finishSwitch part out inc with
    | some s1 => Did.done (s1.putW t d 0)
    | none => .wait s
  if (s.part part).switching.isSome then go s
  else
    let st := s.switchStatus part out inc
    if st ≠ 0 then .done (s.putW t d (BitVec.ofNat 64 st)) else go (s.startSwitch part out inc timed)

/-- R339. -/
def execSysCtxsw (t : Bool) (d a : BitVec 6) (s : State) : Out :=
  issue (.sysCtxsw t d a) s fun th s =>
    let out := (s.getW th a.toNat).toNat
    let inc := (s.getW th (a.toNat + 1)).toNat
    if 254 < out ∨ 254 < inc then .trap (Trap.commandCheck 5) else s.switchWord th d.toNat out inc true

/-- R339. -/
def execSysCtxld (t : Bool) (d a : BitVec 6) (s : State) : Out :=
  issue (.sysCtxld t d a) s fun th s =>
    let inc := (s.getW th a.toNat).toNat
    if 254 < inc then .trap (Trap.commandCheck 5)
    else if inc = 0 then .done (s.putW th d.toNat 1)
    else s.switchWord th d.toNat 0 inc false

end Sys2Proof.Machine
end

