-- ==== Sys2Proof/Machine/Hail.lean ====
section
/-! DEFINITION. The hail words (R320 to R329) and the arrival of hails (R319, R322). -/

namespace Sys2Proof.Machine

/-- R321: the limits of TARGET. -/
def hailTargetOk (x : W64) : Bool :=
  let n := x.toNat
  decide (n / 2 ^ 5 % 8 = 0 ∧ n / 2 ^ 27 = 0) &&
    (if x.getLsbD 16 then decide (n / 2 ^ 17 % 16 < 12) else decide (n / 2 ^ 17 % 2 ^ 10 = 0))

/-- R216, R321: the release of a send: its signature; that to a peer package is a system-scope release (R207). -/
def State.sendRelease (s : State) (t : ThreadId) (remote : Bool) : State × Sig :=
  let cpt := s.cptOf t
  let r := s.releaseDevice cpt
  (if remote then r.1.cleanHost cpt else r.1, r.2)

/-- R321. -/
def execHailSend (t : Bool) (d a : BitVec 6) (s : State) : Out :=
  issue (.hailSend t d a) s fun th s =>
    let x := s.getW th a.toNat
    let pay := s.getW th (a.toNat + 1)
    let n := x.toNat
    let port := n / 2 ^ 17 % 16
    let part := s.partOf th
    let ctx := n / 2 ^ 8 % 256
    let remote := x.getLsbD 16
    if hailTargetOk x = false then .done (s.putLater th d.toNat 3)
    else if remote && !s.root.plUp.getLsbD port then .done (s.putLater th d.toNat 2)
    else if !remote && (s.ctx part ctx).phase == .none then .done (s.putLater th d.toNat 1)
    else if s.pendingAny th (if remote then 4 else 3) then .wait s
    else if s.crowdedBy (s.cptOf th) (some (if remote then 16 + port else (s.part part).base / 64)) 1 then .wait s
    else
      match s.snoopHost (s.releaseLines (s.cptOf th) 3) with
      | some s1 => .wait s1
      | none =>
      match s.lostReport th (if remote then 4 else 3) with
      | some (s1, tr) => .report s1 tr
      | none =>
      match s.releaseWait (s.cptOf th) (if remote then 4 else 3) with
      | some s1 => .wait s1
      | none =>
        let r := s.sendRelease th remote
        let far : PeerHail := ⟨port, n / 2 ^ 21 % 64, ctx, n % 32, pay, s.senderId th⟩
        let near : HailMsg := ⟨part, ctx, n % 32, pay, s.senderId th, r.2⟩
        let s1 :=
          if remote then { r.1 with peerHails := r.1.peerHails ++ [far] }.post (.thread (ownThread th)) (s.cptOf th) (16 + port) (.hail far) 0
          else { r.1 with hails := r.1.hails ++ [near] }.post .unit (s.cptOf th) ((s.part part).base / 64) (.message near) 0
        .done (s1.putLater th d.toNat 0)

/-- R327: the mask of a context replaced, and what becomes deliverable delivered. -/
def State.setHmask (s : State) (part ctx : Nat) (m : W32) : State :=
  ((List.range 32).foldl (fun t v => t.modVec part ctx v fun x => { x with mask := m.getLsbD v }) s).serveTakers part ctx

/-- R327. -/
def execHailMask (t : Bool) (d a : BitVec 6) (s : State) : Out :=
  issue (.hailMask t d a) s fun th s =>
    let old := s.vecMask (s.partOf th) (s.ctxOf th) (·.mask)
    let set := (s.getW th a.toNat).setWidth 32
    let clear := (s.getW th (a.toNat + 1)).setWidth 32
    .done ((s.setHmask (s.partOf th) (s.ctxOf th) ((old ||| set) &&& ~~~clear)).putLater th d.toNat (old.setWidth 64))

/-- R325: a take that finds no vector: a spine thread waits in place; a group parks once its commands have completed. -/
def State.waitTake (s : State) (t : ThreadId) (d a : Nat) : State :=
  let s1 := { s with nextId := s.nextId + 1 }
  match t with
  | .gang g _ =>
    let n := ((s.group g).takeAt.map fun e => e.2.2).getD s.nextId
    if s.mayPark t then s1.parkGroup g (.take d a n) else s1.setGroup g { s1.group g with takeAt := some (d, a, n) }
  | t => s1.setScalar t { s1.scalar t with mode := .taking d a s.nextId }

/-- A take has been served. -/
def State.clearTake (s : State) (t : ThreadId) : State :=
  match t with
  | .gang g _ => if (s.group g).takeAt.isSome then s.setGroup g { s.group g with takeAt := none } else s
  | _ => s

/-- The thread's take waits for the group's commands. -/
def State.hasTake (s : State) (t : ThreadId) : Bool :=
  match t with
  | .gang g _ => (s.group g).takeAt.isSome
  | _ => false

/-- R325: what is deliverable goes first to the takers that wait, this thread's own take among them where it has waited for its
commands; then this take finds a vector or waits. -/
def execHailTake (t : Bool) (d a : BitVec 6) (s : State) : Out :=
  issue (.hailTake t d a) s fun th s =>
    let whole := match th with
      | .gang g k => (s.group g).whole k
      | _ => true
    if !whole then .trap (Trap.convergence 8)
    else
      let ret := s.pcOf th
      let s2 := (s.endService th).serveTakers (s.partOf th) (s.ctxOf th)
      if s.hasTake th && !s2.hasTake th then .goto s2 (s2.pcOf th)
      else
        match s2.pickVector (s2.partOf th) (s2.ctxOf th) (s2.getW th a.toNat) with
        | some v =>
          let r := s2.deliverTo th d.toNat v ret true
          .goto (r.1.clearTake th) r.2
        | none => .wait (s2.waitTake th d.toNat a.toNat)

/-- The address of the take a thread serves from (R326). -/
def State.retOf (s : State) (t : ThreadId) : Addr :=
  match t with
  | .gang g _ => (s.group g).retpc
  | t => (s.scalar t).retpc

/-- R326. -/
def execHailRet (t : Bool) (s : State) : Out :=
  issue (.hailRet t) s fun th s =>
    match s.servingOf th with
    | none => .done s
    | some _ => .goto ((s.endService th).serveTakers (s.partOf th) (s.ctxOf th)) (s.retOf th)

/-- R328: what `hail.pend` reads of a vector. -/
def HVec.status (x : HVec) : W64 :=
  BitVec.ofNat 64 (x.count.toNat + x.pend.toNat * 2 ^ 16 + x.sat.toNat * 2 ^ 17 + x.policy.toNat * 2 ^ 18
    + x.wake.toNat * 2 ^ 20 + x.isv.toNat * 2 ^ 21 + x.mask.toNat * 2 ^ 22)

/-- R328. -/
def execHailPend (t : Bool) (d a : BitVec 6) (s : State) : Out :=
  issue (.hailPend t d a) s fun th s =>
    let sel := (s.getW th a.toNat).toNat % 256
    let v := if sel < 32 then (s.vec (s.partOf th) (s.ctxOf th) sel).status
      else if sel = 0x20 then (s.ctx (s.partOf th) (s.ctxOf th)).drops.setWidth 64
      else BitVec.allOnes 64
    .done (s.putLater th d.toNat v)

/-- R329, R335: HLOCK of a context's record, read at each use. -/
def State.hailLock (s : State) (part ctx : Nat) : Bool :=
  (s.siteEntry (realPart part) ((s.part part).ctxtab + 256 * ctx + 14) 1).testBit 1

/-- R329: OPSEL and VALUE within their limits. -/
def hailPermOk (op v : W64) : Bool :=
  let n := op.toNat
  let code := n / 2 ^ 8 % 4
  decide (n / 2 ^ 10 = 0 ∧ n / 2 ^ 6 % 4 = 0) && decide (code ≠ 3)
    && (code != 2 || (decide (n % 64 < 32) && decide (v.toNat / 8 = 0)))

/-- R329. -/
def execHailPerm (t : Bool) (d a : BitVec 6) (s : State) : Out :=
  issue (.hailPerm t d a) s fun th s =>
    let op := s.getW th a.toNat
    let v := s.getW th (a.toNat + 1)
    let part := s.partOf th
    let ctx := s.ctxOf th
    let i := op.toNat % 64
    let code := op.toNat / 2 ^ 8 % 4
    if (code = 1 ∨ code = 2) ∧ s.hailLock part ctx then .trap Trap.privilege
    else if hailPermOk op v = false then .done (s.putLater th d.toNat (BitVec.allOnes 64))
    else if code = 2 then
      let x := s.vec part ctx i
      let s1 := s.modVec part ctx i fun x => { x with policy := v.setWidth 2, wake := v.getLsbD 2 }
      .done (s1.putLater th d.toNat (BitVec.ofNat 64 (x.policy.toNat + x.wake.toNat * 4)))
    else
      let old := (s.ctx part ctx).perm.get 0 i
      let s1 := if code = 1 then s.modCtx part ctx fun c => { c with perm := c.perm.put 0 i v } else s
      .done (s1.putLater th d.toNat old)

/-! ### Events -/

/-- R319, R325: the oldest hail on its way to a context is accepted, and what is deliverable is delivered; not in a halted
partition (R346). -/
def execHailAccept (part ctx : Nat) (s : State) : Out :=
  if (s.part (realPart part)).halted then event s
  else
  match s.hails.find? fun m => m.part == part && m.ctx == ctx with
  | none => event (s.serveTakers part ctx)
  | some m => event ((({ s with hails := s.hails.erase m }.acceptHail m).writeHails part ctx).serveTakers part ctx)

/-- R322, R318: a peer's hail arrives over a package link, with a class 10 identifier: the identifier that the peer gave at
training, its partition and its context (R369). -/
def State.peerHail (s : State) (port fromPart fromCtx part ctx vec : Nat) (payload : W64) : State :=
  if decide (port < 12 ∧ fromPart < 64 ∧ fromCtx < 256 ∧ ctx < 256 ∧ vec < 32) && s.root.plUp.getLsbD port then
    let id := (s.root.peerId.get 0 port).toNat
    { s with hails := s.hails ++
      [⟨part, ctx, vec, payload, BitVec.ofNat 32 (2 ^ 31 + id * 2 ^ 14 + fromPart * 2 ^ 8 + fromCtx), Sig.ones⟩] }
  else s

/-- Where the contexts of a host function are: on its partition, or away (R340). -/
def State.homeOfFunc (s : State) (func : Nat) : Option Nat :=
  (s.funcPart.find? func).map fun p => if (s.part p).func = func then p else awayPart p func

/-- R322: a message to a function's hail window. -/
def execHostHailMessage (func size : Nat) (msg : BitVec 128) (s : State) : Out :=
  match s.homeOfFunc func with
  | none => event s
  | some p =>
    let n := msg.toNat
    if size ≠ 16 ∨ n / 2 ^ 69 % 8 ≠ 0 ∨ n / 2 ^ 80 ≠ 0 then event (s.countLerr (realPart p))
    else
      event { s with hails := s.hails ++
        [⟨p, n / 2 ^ 72 % 256, n / 2 ^ 64 % 32, msg.setWidth 64, BitVec.ofNat 32 (2 ^ 30 + func), Sig.ones⟩] }

end Sys2Proof.Machine
end

