-- ==== Sys2Proof/Machine/Power.lean ====
section
/-! DEFINITION. `sr.PWRCTL` and `sr.PWRSTAT` (R381, R382): changes of point, and the gating of compute dies. -/

namespace Sys2Proof.Machine

/-- Bits lo to lo + n − 1 of a register replaced. -/
def setField (x : W64) (lo n v : Nat) : W64 :=
  BitVec.ofNat 64 (x.toNat - x.toNat / 2 ^ lo % 2 ^ n * 2 ^ lo + v % 2 ^ n * 2 ^ lo)

/-- The dies that would be ungated under a GATE field: those not disabled (R1). -/
def Root.ungated (r : Root) (gate : Nat) : Nat :=
  ((List.range 16).filter fun d => !gate.testBit d && !r.cdBad.getLsbD d).length

/-- R380, R381: the compute dies that are powered, however many are requested gated, or that come back because their gate is
cleared. -/
def Root.powered (r : Root) : Nat := r.ungated (r.pwrstat.toNat / 2 ^ 8 % 2 ^ 16 &&& r.pwrctl.toNat / 2 ^ 8 % 2 ^ 16)

/-- R380: a point may be in force: 0 only while at most eight compute dies are powered or come back. -/
def Root.pointOk (r : Root) (p : Nat) : Bool := p != 0 || decide (r.powered ≤ 8)

/-- R381, R383: the point that is to be in force: POINT, in reduced service 4. -/
def Root.wanted (r : Root) : Nat := if r.bootstat.getLsbD 20 then 4 else r.pwrctl.toNat % 8

/-- R381: a change of point is due: POINT is not in force and may be (R380), and neither reduced service, whose point is 4 (R383),
nor the thermal limit (R384) stands in its way. -/
def Root.pointDue (r : Root) : Bool :=
  let want := r.pwrctl.toNat % 8
  let cur := r.pwrstat.toNat % 8
  !r.bootstat.getLsbD 20 && r.pointOk want && decide (want ≠ cur ∧ (r.thermAt = none ∨ cur < want))

/-- R381, R384: what CURPOINT becomes as a change of point completes: no thermal limit is lifted by it. -/
def Root.nextPoint (r : Root) : Nat :=
  let cur := r.pwrstat.toNat % 8
  if r.pointOk r.wanted && (r.thermAt.isNone || decide (cur < r.wanted)) then r.wanted else cur

/-- R381, R382: BUSY as the requests and the dies stand, and since when a die comes back. -/
def State.refresh (s : State) : State :=
  let r := s.root
  let gate := r.pwrctl.toNat / 2 ^ 8 % 2 ^ 16
  let gated := r.pwrstat.toNat / 2 ^ 8 % 2 ^ 16
  let busy := r.pauseAt.isSome || decide (gate ≠ gated)
  let back := ((List.range 16).filter fun d => gated.testBit d && !gate.testBit d).map fun d => (d, r.ungateAt.get s.time d)
  { s with root := { r with pwrstat := setField r.pwrstat 3 1 busy.toNat, ungateAt := back } }

/-- R381: a point that is due stops issue until it is in force. -/
def State.startPoint (s : State) : State :=
  let s1 := s.syncTimers
  let p := if s.root.pointDue then some (s.root.pauseAt.getD s.time) else none
  ({ s1 with root := { s1.root with pauseAt := p } } : State).refresh

/-- R381: a write of `sr.PWRCTL`; none for a reserved point. POINT 0 becomes 1 while more than eight dies would be ungated: those
whose gate is clear, and at point 0 with them those that still drain while a gated die comes back. -/
def State.writePwrctl (s : State) (v : W64) : Option State :=
  let point := v.toNat % 8
  let gate := v.toNat / 2 ^ 8 % 2 ^ 16
  if 6 ≤ point then none
  else
    let ninth := decide (s.root.pwrstat.toNat % 8 = 0) &&
      decide (8 < s.root.ungated (s.root.pwrstat.toNat / 2 ^ 8 % 2 ^ 16 &&& gate))
    let p := if point = 0 ∧ (8 < s.root.ungated gate ∨ ninth) then 1 else point
    some { s with root := { s.root with pwrctl := BitVec.ofNat 64 (p + gate * 2 ^ 8) } }.startPoint

/-- R381: the write of the POINT field alone. -/
def execPwrctlPoint (point : BitVec 3) (s : State) : Out :=
  event ((s.writePwrctl (setField s.root.pwrctl 0 3 point.toNat)).getD s)

/-- R382: the write of the GATE field alone. -/
def execPwrctlGate (gate : BitVec 16) (s : State) : Out :=
  event ((s.writePwrctl (setField s.root.pwrctl 8 16 gate.toNat)).getD s)

/-- R381: the change of point completes and issue resumes. -/
def execPointChangeDone (s : State) : Out :=
  match s.root.pauseAt with
  | none => event s
  | some _ =>
    let s1 := s.syncTimers
    let r := { s1.root with pwrstat := setField s1.root.pwrstat 0 3 s1.root.nextPoint, pauseAt := none }
    event ({ s1 with root := r } : State).refresh

/-- R382: a compute die holds no team and no spine instance. -/
def State.dieEmpty (s : State) (d : Nat) : Bool :=
  !(s.teams.any fun e => e.2.placed && e.2.cluster / 16 == d) && !(s.spines.any fun e => decide (e.1 < 256) && e.1 / 16 == d && e.2.th.mode != .idle)

/-- R381, R382: a die is DRAINING: it is requested gated and still holds work. -/
def State.draining (s : State) (d : Nat) : Bool := s.gateBit d && !s.root.pwrstat.getLsbD (8 + d) && !s.dieEmpty d

/-- R381: what `sr.PWRSTAT` reads as. -/
def State.pwrstat (s : State) : W64 :=
  setField s.root.pwrstat 24 16 ((List.range 16).foldl (fun a d => if s.draining d then a + 2 ^ d else a) 0)

/-- R382: a drained die writes back its L1s and powers off: it loses its caches, accumulators, translations,
fetched words and splits, and what the jetty registers of a spine instance that has ended held. The spine core and the jetty
registers stay its grid's until that ends (R110, R112; assumption 42). -/
def State.powerOff (s : State) (d : Nat) : State :=
  let clusters := (List.range 16).map (16 * d + ·)
  let s1 := clusters.foldl (fun t c => (t.flushStream c).evictAll c fun _ _ => true) s
  let off := fun (c : Nat) => decide (c < 256) && c / 16 == d
  { s1 with
    accs := s1.accs.filter fun e => !off e.1
    tlb := s1.tlb.filter fun e =>
      let k := e.1 / 2 ^ 72
      !(decide (k < 1024) && off (k / 4)) && !(decide (1024 ≤ k ∧ k < 1280) && off (k - 1024))
        && !(decide (2048 ≤ k) && off (k - 2048))
    splits := s1.splits.filter fun e => !off (e.1 / 4)
    spines := s1.spines.map fun e => (e.1, if off e.1 then { e.2 with jetty := [] } else e.2)
    icache := s1.icache.filter fun e =>
      let k := e.1 / 2 ^ 50
      !(off (k / 4) && decide (k < 1024)) && !(decide (1024 ≤ k ∧ k < 1280) && off (k - 1024)) }

/-- R382; a point 0 that more than eight powered dies have held up is due from then on (R380). -/
def execDiePowerOff (die : Nat) (s : State) : Out :=
  if s.gateBit die && !s.root.pwrstat.getLsbD (8 + die) && s.dieEmpty die && decide (die < 16) then
    let s1 := s.powerOff die
    event ({ s1 with root := { s1.root with pwrstat := s1.root.pwrstat ||| BitVec.ofNat 64 (2 ^ (8 + die)) } } : State).startPoint
  else event s

/-- R382, R381: an ungated die returns, after the point has dropped where it must. -/
def execUngateDone (die : Nat) (s : State) : Out :=
  if !s.gateBit die && s.root.pwrstat.getLsbD (8 + die) && s.root.pauseAt.isNone && s.root.pointOk (s.root.pwrstat.toNat % 8) &&
      decide (die < 16) then
    event ({ s with root := { s.root with pwrstat := s.root.pwrstat &&& ~~~BitVec.ofNat 64 (2 ^ (8 + die)) } } : State).refresh
  else event s

/-- R384: CURPOINT is being lowered: from the moment TJMAX exceeds 100 degrees until it falls below 95. -/
def Root.lowering (r : Root) (tj : BitVec 8) : Bool := decide (100 < tj.toNat) || (r.cooling && decide (95 ≤ tj.toNat))

end Sys2Proof.Machine
end

