-- ==== Sys2Proof/Machine/Boot.lean ====
section
/-! DEFINITION. Bring-up (R383) and management (R385). -/

namespace Sys2Proof.Machine

/-- R383: on power-up the boot ROM measures the monitor image, and runs it only when its signature verifies. -/
def execPowerUp (digest : BitVec 384) (verified : Bool) (s : State) : Out :=
  let r := s.root
  if r.bootstat ≠ 0x100000 ∨ r.th.mode ≠ .idle then event s
  else
    event { s with root := { r with
      digest := digest
      bootstat := if verified then r.bootstat ||| 0x200000 else r.bootstat
      th := if verified then { mode := .run } else r.th } }

/-- R383: the order of training: a base die, then its compute dies. -/
def trainOrder : List (Bool × Nat) :=
  [(true, 0), (false, 0), (false, 1), (false, 2), (false, 3), (true, 1), (false, 4), (false, 5), (false, 6), (false, 7),
    (true, 2), (false, 8), (false, 9), (false, 10), (false, 11), (true, 3), (false, 12), (false, 13), (false, 14), (false, 15)]

/-- A die has trained or has failed. -/
def Root.dieTried (r : Root) (e : Bool × Nat) : Bool :=
  if e.1 then r.bootstat.getLsbD e.2 || r.bdBad.getLsbD e.2 else r.bootstat.getLsbD (4 + e.2) || r.cdBad.getLsbD e.2

/-- R383: the die that trains next. -/
def Root.nextDie (r : Root) : Option (Bool × Nat) := trainOrder.find? fun e => !r.dieTried e

/-- R383: a die that fails is reported as disabled. -/
def Root.train (r : Root) (base : Bool) (die : Nat) (ok : Bool) : Root :=
  if ok then { r with bootstat := r.bootstat ||| BitVec.ofNat 64 (2 ^ (if base then die else 4 + die)) }
  else { r with
    bdBad := if base then setBit r.bdBad die true else r.bdBad
    cdBad := if base then r.cdBad else setBit r.cdBad die true
    reports := r.reports ++ [.dieDisabled base die] }

/-- R383: reduced service ends when every enabled die has trained; the point then becomes 1, and CURPOINT with it unless the thermal
limit holds it (R384). -/
def State.endReduced (s : State) : State :=
  if s.root.nextDie.isNone && s.root.bootstat.getLsbD 20 then
    let s1 := s.syncTimers
    { s1 with root := { s1.root with
        bootstat := s1.root.bootstat &&& ~~~0x100000
        pwrctl := setField s1.root.pwrctl 0 3 1
        pwrstat := if s1.root.thermAt.isSome then s1.root.pwrstat else setField s1.root.pwrstat 0 3 1 } }
  else s

/-- R383. -/
def execDieTrained (base : Bool) (die : Nat) (ok : Bool) (s : State) : Out :=
  if s.root.bootstat.getLsbD 21 && s.root.nextDie == some (base, die) then
    event { s with root := s.root.train base die ok }.endReduced
  else event s

/-- R368: the offset of a management register in BAR0: eight times its number (assumption 57). -/
def bar0Offset (n : Nat) : Nat := 8 * n

/-- R368: an offset in the hail window of BAR0. -/
def inWindow (offset : Nat) : Bool := decide (0xF000 ≤ offset ∧ offset < 0x10000)

/-- R385, R368: eight bytes written to a function's BAR0: `sr.PWRCTL` is the one management register that takes a write; in
the hail window they are a part of a message (R322). -/
def execBar0RegisterWrite (place : WindowOffset) (v : W64) (s : State) : Out :=
  event (if 64 < place.owner then s
    else if inWindow place.offset then
      match s.homeOfFunc place.owner with
      | some p => s.countLerr (realPart p)
      | none => s
    else if place.offset = bar0Offset 0x820 then (s.writePwrctl v).getD s
    else s)

/-- R368, R385: what a management register reads as through BAR0; the digest stands in six doublewords after `sr.BOOTSTAT`
(assumption 57); none at an offset of no register. -/
def State.management (s : State) (offset : Nat) : Option W64 :=
  if offset = bar0Offset 0x820 then some s.root.pwrctl
  else if offset = bar0Offset 0x821 then some s.pwrstat
  else if offset = bar0Offset 0x822 then some s.root.bootstat
  else if 8 ∣ offset ∧ bar0Offset 0x823 ≤ offset ∧ offset < bar0Offset 0x829 then
    some ((s.root.digest >>> (8 * (offset - bar0Offset 0x823))).setWidth 64)
  else none

/-- R368: the host reads eight bytes of a function's BAR0; where no register stands the value is free (assumption 5). -/
def State.barRead (s : State) (func offset : Nat) : State :=
  if 64 < func ∨ 2 ^ 20 ≤ offset + 7 then s
  else
    match s.management offset with
    | some v => { s with replies := s.replies ++ [⟨offset, 8, false, v, none, false⟩] }
    | none => { s.draw.2 with replies := s.replies ++ [⟨offset, 8, false, s.draw.1, none, false⟩] }

/-- R385: a management message: 2 is the vendor type's read of a register, which v names by its number (`sr.PWRSTAT`,
`sr.BOOTSTAT`, the digest from 0x823 on), 3 its write of `sr.PWRCTL`; MCTP control and PLDM (0 and 1) change nothing. A reserved
value changes nothing (R381). -/
def execMctpMessage (kind : Nat) (v : W64) (s : State) : Out :=
  event (if kind = 3 then (s.writePwrctl v).getD s
    else if kind = 2 ∧ v.toNat ≠ 0x820 then
      match s.management (bar0Offset v.toNat) with
      | some x => { s with replies := s.replies ++ [⟨bar0Offset v.toNat, 8, false, x, none, false⟩] }
      | none => s
    else s)

end Sys2Proof.Machine
end

