-- ==== Sys2Proof/Machine/Calls.lean ====
section
/-! DEFINITION. Service calls and their replies (R304 to R307), and the return of parked groups. -/

namespace Sys2Proof.Machine

/-- R338: where a request's entry stands in a partition's call area, which follows the context table. -/
def Part.callAddr (p : Part) (id : W32) : Nat := p.ctxtab + 65536 + 128 * (id.toNat % 256)

/-- The sixteen doublewords of an entry of the call area (assumption 14). -/
def callWords (c : Call) (ctx index : Nat) : List W64 :=
  (List.range 8).map (fun i => c.payload.getD i 0) ++
    [BitVec.ofNat 64 (c.number + c.lane.toNat * 2 ^ 32), BitVec.ofNat 64 (ctx + index * 2 ^ 32)]

/-- Write an entry of the call area, where the service core will find it. -/
def State.writeCall (s : State) (part pa : Nat) (ws : List W64) : State :=
  let s1 := (s.evictSector (256 + part) pa).evictSector (256 + part) (pa + 64)
  (s1.siteWrite part (256 + part) (plainPhys pa) 64 (pack64 fun k => ws.getD k 0) 0).siteWrite part (256 + part)
    (plainPhys (pa + 64)) 64 (pack64 fun k => ws.getD (8 + k) 0) 0

/-- R305, R338: a request enters the queue of the partition's service core: its identifier. While an image waits to take
over, it queues for that one (R344). -/
def State.callService (s : State) (t : ThreadId) (c : Call) : State × W32 :=
  let part := s.partOf t
  let p := s.part part
  let id := p.nextCall
  let s1 := s.modPart part fun p => { p with
    nextCall := id + 1, calls := p.calls.insert id.toNat c, late := if p.nextImage.isSome then p.late ++ [id] else p.late
    lateAt := if p.nextImage.isSome then some (p.lateAt.getD s.time) else p.lateAt }
  let s2 := s1.writeCall part (p.callAddr id) (callWords c (s.ctxOf t) (s.recIndex t))
  (if p.nextImage.isSome then s2 else s2.notify part 5 (s.ctxOf t) id.toNat, id)

/-- R338: the notice of a request that is open. -/
def State.callNotice (s : State) (part : Nat) (id : W32) : State :=
  match (s.part part).calls.find? id.toNat with
  | some c => s.notify part 5 (s.ctxOf c.caller) id.toNat
  | none => s

/-- R344: a new service image takes over, whole, once the calls accepted before it have finished and no `sys.ctxsw` runs;
the calls that queued for it are then made known to it: within 200,000 ns of the first (`State.deadlines`). -/
def State.handImage (s : State) (part : Nat) : State :=
  let p := s.part part
  let calling := match p.svc.mode with
    | .calling _ => true
    | _ => false
  match p.nextImage with
  | none => s
  | some e =>
    if (p.calls.any fun c => !p.late.contains (BitVec.ofNat 32 c.1)) || p.switching.isSome || calling then s
    else
      let s1 := s.modPart part fun q => { q with
        image := some e, nextImage := none, late := [], lateAt := none
        svc := { q.svc with pc := e, mode := .run, part := part, waiting := false } }
      p.late.foldl (fun t id => t.callNotice part id) s1

/-- R305: a request of a service thread enters the root monitor's queue. -/
def State.callMonitor (s : State) (c : Call) : State × W32 :=
  let id := s.root.nextCall
  ({ s with root := { s.root with
      nextCall := id + 1, calls := s.root.calls.insert id.toNat c
      notices := pushNotice s.root.notices ⟨5, 0, id⟩ } }, id)

/-- R305: `w1` to `w8`. -/
def State.callPayload (s : State) (t : ThreadId) : List W64 := (List.range 8).map fun i => s.getW t (i + 1)

/-- R305: the call of a thread: its results are empty until the reply; a group parks, the others wait in place. -/
def State.makeCall (s : State) (t : ThreadId) (n : Nat) : State :=
  let c : Call := { caller := t, lane := false, number := n, payload := s.callPayload t }
  match t with
  | .gang g _ =>
    let r := (s.parkGroup g .ready).callService t c
    let s1 := r.1.parkedFor g (.call r.2.toNat)
    (s1.emptyW t 1).emptyW t 2
  | .spine _ =>
    let r := s.callService t c
    let s1 := r.1.setScalar t { r.1.scalar t with mode := .calling r.2.toNat }
    (s1.emptyW t 1).emptyW t 2
  | t =>
    let r := s.callMonitor c
    let s1 := r.1.setScalar t { r.1.scalar t with mode := .calling r.2.toNat }
    (s1.emptyW t 1).emptyW t 2

/-- R305. -/
def execSysSvc (t : Bool) (n : BitVec 6) (s : State) : Out :=
  issue (.sysSvc t n) s fun th s => .wait (if s.mayPark th then s.makeCall th n.toNat else s)

/-- R306. -/
def execSvc (t : Bool) (imm : BitVec 10) (s : State) : Out :=
  issue (.svc t imm) s fun th s =>
    match th with
    | .gang g k =>
      let x := s.group g
      if x.whole k = false then .trap (Trap.convergence 8)
      else if s.mayPark th = false then .wait s
      else
        let c : Call := { caller := th, lane := true, number := imm.toNat
                          payload := [BitVec.ofNat 64 imm.toNat, (laneMask (x.lanes k)).setWidth 64, BitVec.ofNat 64 (s.parkAddr g)] }
        let r := (s.parkGroup g .ready).callService th c
        .wait (r.1.parkedFor g (.call r.2.toNat))
    | _ => .wait s

/-- R307: the caller gets its reply and goes on after its word; a halted one does so once it is resumed. -/
def State.takeReply (s : State) (c : Call) (v1 v2 : W64) (g : Sig) : State :=
  let t := c.caller
  if s.isThere t = false then s
  else
    let s1 := match t with
      | .gang k _ => if c.lane then s.reloadPark k else (s.putW t 1 v1).putW t 2 v2
      | t => (s.putW t 1 v1).putW t 2 v2
    let s2 := (s1.setPc t (s1.pcOf t + 4)).setWaiting t false
    let s3 := match t with
      | .gang k _ => (match (s2.group k).mode with
        | .parked (.call _) f => s2.setGroup k { s2.group k with mode := .parked .ready f }
        | _ => s2).stepParked t (s1.pcOf t)
      | t => (match (s2.scalar t).mode with
        | .calling _ => s2.setScalar t { s2.scalar t with mode := .run }
        | _ => s2)
    let here := match t with
      | .gang k _ => (s.team (s.group k).team).placed
      | .spine c => decide (c < 256)
      | _ => true
    if here then s3.foldSig (s3.cptOf t) g else s3

/-- R307: the open call of an identifier in the callee's queue. -/
def State.callOf (s : State) (t : ThreadId) (id : W32) : Option Call :=
  match t with
  | .monitor => s.root.calls.find? id.toNat
  | t => (s.part (s.partOf t)).calls.find? id.toNat

/-- The call is no longer open. -/
def State.closeCall (s : State) (t : ThreadId) (id : W32) : State :=
  match t with
  | .monitor => { s with root := { s.root with calls := s.root.calls.erase id.toNat } }
  | t => s.modPart (s.partOf t) fun p => { p with calls := p.calls.erase id.toNat }

/-- R307. -/
def execSysEret (t : Bool) (a : BitVec 6) (s : State) : Out :=
  issue (.sysEret t a) s fun th s =>
    let id := (s.getW th a.toNat).setWidth 32
    match s.callOf th id with
    | none => .trap (Trap.commandCheck 1)
    | some c =>
      match s.lostReport th 3 with
      | some (s1, tr) => .report s1 tr
      | none =>
      match s.releaseWait (s.cptOf th) 3 with
      | some s1 => .wait s1
      | none =>
        let r := s.releaseDevice (s.cptOf th)
        .done ((r.1.closeCall th id).takeReply c (s.getW th (a.toNat + 1)) (s.getW th (a.toNat + 2)) r.2)

/-- R304: a parked group whose reply has come returns to a free slot of its scheduler. -/
def execUnpark (group : Nat) (s : State) : Out := event (s.unparkGroup group)

end Sys2Proof.Machine
end

