-- ==== Sys2Proof/Machine/Debug.lean ====
section
/-! DEFINITION. `sys.trap`, `sys.bkpt` (R312) and `sys.halt` (R314). -/

namespace Sys2Proof.Machine

/-- R312. -/
def execSysTrap (t : Bool) (n : BitVec 6) (s : State) : Out :=
  issue (.sysTrap t n) s fun _ s => .after s { kind := 0x17, cause := n.toNat }

/-- R312. -/
def execSysBkpt (t : Bool) (n : BitVec 6) (s : State) : Out :=
  issue (.sysBkpt t n) s fun _ s => .after s { kind := 0x18, cause := n.toNat }

/-- R314: the grid of a partition with an identifier. -/
def State.gridNamed (s : State) (part : Nat) (num : W32) : Option Nat :=
  ((s.grids.filter fun e => e.2.part == part && e.2.num == num).head?).map (·.1)

/-- The teams of a grid that `sys.halt` names: those with a number, or all of them. -/
def State.namedTeams (s : State) (k : Nat) (all : Bool) (num : Nat) : List Nat :=
  (s.teams.filter fun e => e.2.grid == k && (all || e.2.num == num)).map (·.1)

/-- The spine instances of a grid that are named. -/
def State.namedSpines (s : State) (k : Nat) (all : Bool) : List Nat := if all then (s.grid k).live else []

/-- R314: a spine instance stops, its record Halted. -/
def State.haltSpine (s : State) (c : Nat) : State :=
  let t := ThreadId.spine c
  match (s.scalar t).mode with
  | .halted => s
  | .idle => s
  | _ =>
    let pc := s.pcOf t
    let s1 := s.writeRecord t (s.recordBits t { kind := 0x1A } pc pc 0 false 0 0)
    s1.setScalar t { s1.scalar t with mode := .halted }

/-- R314: HALT reaches the groups of a team; a saved team stops as it stands. -/
def State.haltTeam (s : State) (team : Nat) : State :=
  if (s.team team).placed then s.broadcast team 0
  else (s.groupsOf team).foldl (fun t g => if (t.group g).stopped then t else t.stopGroup g 0) s

/-- R314: HALT of the named units; teams still to be placed are noted. -/
def State.beginHalt (s : State) (k : Nat) (all : Bool) (num : Nat) : State :=
  let g := s.grid k
  let s1 := s.setGrid k (if all then { g with haltAll := true }
    else if g.placed ≤ num ∧ !g.haltTeams.contains num then { g with haltTeams := g.haltTeams ++ [num] } else g)
  let s2 := (s.namedTeams k all num).foldl State.haltTeam s1
  (s.namedSpines k all).foldl State.haltSpine s2

/-- R314: every named unit has stopped. -/
def State.haltDone (s : State) (k : Nat) (all : Bool) (num : Nat) : Bool :=
  ((s.namedTeams k all num).all fun t => (s.groupsOf t).all fun g => (s.group g).stopped) &&
    (s.namedSpines k all).all fun c => (s.scalar (.spine c)).mode == .halted || (s.scalar (.spine c)).mode == .idle

/-- The named groups that are halted, and of them those that RESUME restarts (R308: with FREEZE, those with a flag). -/
def State.resumable (s : State) (k : Nat) (all : Bool) (num : Nat) (freeze : Bool) (flags : BitVec 16) : List Nat :=
  ((s.namedTeams k all num).flatMap s.groupsOf).filter fun g =>
    s.isHalted (.gang g 0) && (!freeze || flags.getLsbD (s.group g).num)

/-- R314: RESUME; whether any unit was resumed. -/
def State.resumeNamed (s : State) (k : Nat) (all : Bool) (num : Nat) (freeze : Bool) (flags : BitVec 16) : State × Bool :=
  let gs := s.resumable k all num freeze flags
  let cs := (s.namedSpines k all).filter fun c => (s.scalar (.spine c)).mode == .halted
  let s1 := gs.foldl (fun t g => t.resumeGroup g (flags.getLsbD (t.group g).num)) s
  (cs.foldl State.resumeSpine s1, !gs.isEmpty || !cs.isEmpty)

/-- R314: every slice of a group exits; it retires once its issued commands have completed. -/
def State.endGroup (s : State) (g : Nat) : State :=
  match s.groups.find? g with
  | none => s
  | some x => (s.setGroup g { x with slices := x.slices.map Slice.finish, mode := .run }).tryRetireGroup g

/-- R314: ABORT. -/
def State.abortGrid (s : State) (k : Nat) : State :=
  let g := s.grid k
  let s1 := match g.status with
    | some _ => if g.phase = GridPhase.gated ∨ g.phase = GridPhase.passed then s.fillStatus g.status (spawnStatus 1 g.num) else s
    | none => s
  if g.placed = 0 then (s1.setGrid k { g with aborted := true }).endGrid k
  else
    let s2 := s1.setGrid k { g with aborted := true, count := g.placed, phase := .resident, live := [] }
    let s3 := g.live.foldl (fun t c => t.setScalar (.spine c) { t.scalar (.spine c) with mode := .idle }) s2
    let groups := (s3.teams.filter fun (e : Nat × Team) => e.2.grid == k).flatMap fun (e : Nat × Team) => s3.groupsOf e.1
    (groups.foldl State.endGroup s3).tryEndGrid k

/-- R314. -/
def execSysHalt (t : Bool) (d a : BitVec 6) (s : State) : Out :=
  issue (.sysHalt t d a) s fun th s =>
    let x := s.getW th a.toNat
    let y := (s.getW th (a.toNat + 1)).toNat
    let num := y % 2 ^ 32
    let all := num == 2 ^ 32 - 1
    let action := y / 2 ^ 32 % 8
    if x.toNat / 2 ^ 32 ≠ 0 ∨ y / 2 ^ 36 % 2 ^ 12 ≠ 0 ∨ 3 ≤ action then .trap (Trap.commandCheck 1)
    else
      match s.gridNamed (s.partOf th) (x.setWidth 32) with
      | none => .done (s.putW th d.toNat 1)
      | some k =>
        if !all && decide ((s.grid k).count ≤ num) then .done (s.putW th d.toNat 1)
        else if action = 0 then
          let s1 := s.beginHalt k all num
          if s1.haltDone k all num then .done ((s1.releasePart (s.partOf th)).1.putW th d.toNat 0) else .wait s1
        else if action = 1 then
          let r := s.resumeNamed k all num (y.testBit 35) (BitVec.ofNat 16 (y / 2 ^ 48))
          .done (r.1.putW th d.toNat (if r.2 then 0 else 2))
        else .done ((s.abortGrid k).putW th d.toNat 0)

end Sys2Proof.Machine
end

