-- ==== Sys2Proof/Machine/Exchange.lean ====
section
/-! DEFINITION. The exchange words (R232 to R235). -/

namespace Sys2Proof.Machine

/-- The team of a thread of group code. -/
def State.teamKey (s : State) (t : ThreadId) : Nat :=
  match t with
  | .gang g _ => (s.group g).team
  | _ => 0

/-- R232. -/
def execXexp (t : Bool) (a : BitVec 6) (s : State) : Out :=
  issue (.xexp t a) s fun th s =>
    let k := s.teamKey th
    let x := s.team k
    let c := x.xcount + ((s.getW th a.toNat).setWidth 32).toInt
    if c < -2 ^ 31 ∨ 2 ^ 31 ≤ c then .trap { kind := 0x13, cause := 1, addr := BitVec.ofInt 64 x.xcount }
    else .done (s.setTeam k { x with xcount := c })

/-- R233: the group arrives, a team-scope release of its earlier accesses, and is held until the swap. -/
def execXbar (t : Bool) (s : State) : Out :=
  issue (.xbar t) s fun th s =>
    match th with
    | .gang g gg =>
      let x := s.group g
      let tm := s.team x.team
      if !x.whole gg then .trap (Trap.convergence 5)
      else if tm.xarrived.getLsbD x.num || s.pendingAny th 1 then .wait s
      else
        let s1 := (s.setPc th (s.pcOf th + 4))
        let s2 := s1.setGroup g { s1.group g with xbarHold := true }
        .moved ((s2.setTeam x.team { tm with xarrived := setBit tm.xarrived x.num true }).settleExchange x.team) 0
    | _ => .wait s

/-- R235. -/
def Team.snapshot (x : Team) : W64 :=
  BitVec.ofNat 64 ((BitVec.ofInt 32 x.xcount).toNat + x.xarrived.toNat * 2 ^ 32 + x.xstat.toNat / 2 ^ 16 % 2 ^ 16 * 2 ^ 48)

/-- R235. -/
def execXstat (t : Bool) (d : BitVec 6) (s : State) : Out :=
  issue (.xstat t d) s fun th s => .done (s.putW th d.toNat (s.team (s.teamKey th)).snapshot)

end Sys2Proof.Machine
end

