-- ==== Sys2Proof/Machine/FaultWords.lean ====
section
/-! DEFINITION. The handler functions of a fault record (R303): `sys.fmap`, `sys.fretry`, `sys.fskip`, `sys.fabort`. -/

namespace Sys2Proof.Machine

/-- R303: the open record that a handler team's word names. -/
def State.handledRecord (s : State) (t : ThreadId) (a : BitVec 6) : Option FaultRec :=
  if s.isHandler t then s.findRecord (s.partOf t) (s.ctxOf t) (BitVec.ofNat 32 ((s.getW t a.toNat).toNat / 2 ^ 32)) else none

/-- R303: the address of the level 4 entry of a page, none where the walk stops above it; `rd` reads an entry. -/
def leafAddr (rd : Nat → Nat) (va : Nat) : List Nat → Nat → Option Nat
  | [], _ => none
  | level :: rest, table =>
    let ea := entryAddr level table va
    if level = 4 then some ea
    else
      match walkStep level (BitVec.ofNat 64 (rd ea)) with
      | .table b => leafAddr rd va rest b
      | _ => none

/-- The page's lines leave every cache, written back; the filler's bytes are then what every thread reads. -/
def State.evictPage (s : State) (frame : Nat) : State :=
  (s.l1.map fun e => (e.1 / 2 ^ 46, sectorAddr e.1)).foldl
    (fun t e => if e.2 / 4096 = frame / 4096 then t.evictSector e.1 e.2 else t) s

/-- R310, R342: the pieces of 64 bytes of a page's source that hold a poisoned byte, or one that is not the partition's. -/
def State.badPieces (s : State) (part : Nat) (fr : Frames) (va : Nat) : List Nat :=
  (List.range 64).filter fun i => [0, 63].any fun k => (s.siteValue part (framePhys fr (va + 64 * i + k)) 1).2

/-- The place of a leaf's page. -/
def leafPhys (leaf : Nat) : Phys := ⟨leaf / 2 ^ 12 % 2 ^ 40 * 2 ^ 12, (MemTy.ofCode (leaf / 32 % 8)).getD .shared⟩

/-- R303: the page filler of a partition's service core: the frame, whose sectors with poisoned sources are poisoned (R310), then V in
the leaf; a frame outside the partition is not written (R342), and one of a STRICT or PEER page is written at its target. -/
def State.fillPage (s : State) (part tag ea v : Nat) (bad : List Nat) : State :=
  let leaf := s.entryRead part ea
  let p := leafPhys leaf
  let s1 := (s.evictPage p.pa).siteWrite part (256 + part) p 4096 v tag
  let s2 := if s.owns part p.pa ∧ (regionOf p.pa = .hbm ∨ regionOf p.pa = .host) then
      bad.foldl (fun t i => t.setBad (p.pa + 64 * i) true) s1 else s1
  s2.siteWrite part (256 + part) (plainPhys ea) 8 (leaf / 2 * 2 + 1) tag

/-- R303: the page is filled from 4 KiB at a source, or with zeros. -/
def State.fillFrom (s : State) (part tag ea : Nat) (fr : Frames) (src : W64) : State :=
  if src = 0 then s.fillPage part tag ea 0 []
  else (s.touchFrames part (256 + part) tag fr src.toNat 4096).fillPage part tag ea (s.readFrames part fr src.toNat 4096)
    (s.badPieces part fr src.toNat)

/-- R303; it waits while the host may hold a line that it fills (R367). -/
def execSysFmap (t : Bool) (d a : BitVec 6) (s : State) : Out :=
  issue (.sysFmap t d a) s fun th s =>
    let src := s.getW th (a.toNat + 1)
    let part := s.partOf th
    let ctx := s.ctxOf th
    if src ≠ 0 ∧ inRange src = false then .trap (Trap.addressRange src)
    else
      match if src = 0 then (s, .ok []) else s.translateRange (s.spaceOf th) .load (levelOf th == 0) src.toNat 4096 with
      | (_, .error (c, va)) => .fault c (BitVec.ofNat 64 va) 0
      | (s1, .ok fr) =>
        match s1.handledRecord th a with
        | none => .done (s1.putW th d.toNat 1)
        | some f =>
          match leafAddr (s1.entryRead part) (f.page * 4096) [1, 2, 3, 4] (s1.ctx part ctx).info.root with
          | none => .done (s1.putW th d.toNat 2)
          | some ea =>
            if (s1.entryRead part ea).testBit 9 then
              let u := s1.fillFrom part (s.threadTag th) ea fr src
              match s.filledHeld u with
              | some w => .wait w
              | none => .done ((u.dropRecord part ctx f.recid).putW th d.toNat 0)
            else .done (s1.putW th d.toNat 2)

/-- R303. -/
def execSysFretry (t : Bool) (d a : BitVec 6) (s : State) : Out :=
  issue (.sysFretry t d a) s fun th s =>
    match s.handledRecord th a with
    | none => .done (s.putW th d.toNat 1)
    | some f => .done ((s.dropRecord (s.partOf th) (s.ctxOf th) f.recid).putW th d.toNat 0)

/-- The addresses an opening word accesses, as it stands. -/
def State.openerAddrs (s : State) (f : FaultRec) : List W64 :=
  let s1 := { s with pfx := f.pfx }
  let t := f.opener
  let priv := fun (w : BitVec 6) (a : BitVec 7) (z : BitVec 2) =>
    match t with
    | .gang g _ => ((s1.laneAddrs t w a).flatMap (privPieces (s1.windowBase g) (z == 3))).map fun e => e.2.1
    | _ => []
  match f.instr with
  | .ld _ _ a w _ _ => (s1.laneAddrs t w a).map (·.2)
  | .st _ _ a w _ _ => (s1.laneAddrs t w a).map (·.2)
  | .atom _ _ a w _ => (s1.laneAddrs t w a).map (·.2)
  | .red _ _ a w _ => (s1.laneAddrs t w a).map (·.2)
  | .ldp _ _ a w z => priv w a z
  | .stp _ _ a w z => priv w a z
  | .uld _ _ a o z _ => [s1.uniAddr t a o (accSize z)]
  | .ust _ _ a o z _ => [s1.uniAddr t a o (accSize z)]
  | .uamo _ _ a _ _ _ => [s1.getW t a.toNat]
  | .join _ _ a _ => [s1.getW t a.toNat]
  | _ => []

/-- R303: what the lanes of a load receive: v's low bytes, or a pair. -/
def State.skipLanes (s : State) (t : ThreadId) (d : BitVec 7) (pair : Bool) (n : Nat) (v : W64) : State :=
  match t with
  | .gang g k =>
    let lo := BitVec.ofNat 32 (v.toNat % 2 ^ (8 * min n 4))
    let x := ((s.group g).lanes k).foldl (fun x l =>
      let y := x.putV d.toNat l lo
      if pair then y.putV (d.toNat + 1) l ((v >>> 32).setWidth 32) else y) (s.group g)
    s.setGroup g x
  | _ => s

/-- R308: a group that runs with its step flag takes Single-Step after a word of its gang that was emulated. -/
def State.stepSkipped (s : State) (t : ThreadId) (f : FaultRec) (pc : Addr) : State :=
  match t with
  | .gang g _ => if (s.group g).mode = .run ∧ (s.group g).step then s.takeTrap t { kind := 0x19 } pc (s.pcOf t) (encode f.instr) else s
  | _ => s

/-- R303: the opening word is emulated: loads and atomics receive v, stores are discarded. -/
def State.skipWord (s : State) (f : FaultRec) (v : W64) : State :=
  let t := f.opener
  let s1 := match f.instr with
    | .ld _ d _ _ z _ => s.skipLanes t d (z == 3) (accSize z) v
    | .ldp _ d _ _ z => s.skipLanes t d (z == 3) (accSize z) v
    | .atom _ d _ _ c => s.skipLanes t d (c == 11) (atomSize c) v
    | .uld _ d _ _ z _ => s.putW t d.toNat (BitVec.ofNat 64 (v.toNat % 2 ^ (8 * accSize z)))
    | .uamo _ d _ _ _ _ => s.putW t d.toNat v
    | .join _ d _ _ => s.putW t d.toNat v
    | _ => s
  ((s1.setPc t (s1.pcOf t + (if f.pfx.isSome then 8 else 4))).setWaiting t false).stepSkipped t f (s1.pcOf t)

/-- R303: `sys.fskip` may emulate the word: it is no command, and it keeps to the record's page. -/
def State.mayEmulate (s : State) (f : FaultRec) : Bool :=
  !f.command && (s.openerAddrs f).all fun a => a.toNat / 4096 == f.page

/-- R303. -/
def execSysFskip (t : Bool) (d a : BitVec 6) (s : State) : Out :=
  issue (.sysFskip t d a) s fun th s =>
    match s.handledRecord th a with
    | none => .done (s.putW th d.toNat 1)
    | some f =>
      if s.mayEmulate f then
        let s1 := s.dropRecord (s.partOf th) (s.ctxOf th) f.recid
        .done ((if s1.isThere f.opener then s1.skipWord f (s.getW th (a.toNat + 1)) else s1).putW th d.toNat 0)
      else .done (s.putW th d.toNat 3)

/-- R303. -/
def execSysFabort (t : Bool) (d a : BitVec 6) (s : State) : Out :=
  issue (.sysFabort t d a) s fun th s =>
    match s.handledRecord th a with
    | none => .done (s.putW th d.toNat 1)
    | some f => .done ((s.abortRecord (s.partOf th) (s.ctxOf th) f.recid).putW th d.toNat 0)

end Sys2Proof.Machine
end

