-- ==== Sys2Proof/Machine/JettyWords.lean ====
section
/-! DEFINITION. The jetty words of the uniform set (R118 to R126). -/

namespace Sys2Proof.Machine

/-- R119: not free for `jwr`: Published, Reduced, or Armed with contributions. -/
def Jetty.busy (x : Jetty) : Bool := x.full || (x.reduce && x.arr != 0)

/-- R119: the register after `jwr` of a value, a mode and a count. -/
def Jetty.write (x : Jetty) (v : W64) (m : BitVec 4) (c : BitVec 8) : Jetty :=
  if m = 0 then { x with value := v, reduce := false, rc := c, full := true }
  else { x with value := foldExtend (m.toNat - 1) (v.setWidth 32), reduce := true, op := m - 1, exp := c, arr := 0
                full := false }

/-- R119: a cluster-scope release of what the spine thread wrote (R176). -/
def execJwr (t : Bool) (d a : BitVec 6) (m : BitVec 4) (c : BitVec 8) (s : State) : Out :=
  issue (.jwr t d a m c) s fun th s =>
    let x := s.jetty (s.cptOf th) d.toNat
    if x.busy then if t then .trap (Trap.jettyBusy d.toNat) else .wait s
    else .done ((s.flushStream (s.cptOf th)).setJetty (s.cptOf th) d.toNat (x.write (s.getW th a.toNat) m c))

/-- R124. -/
def execJrd (t : Bool) (d a : BitVec 6) (s : State) : Out :=
  issue (.jrd t d a) s fun th s =>
    let x := s.jetty (s.cptOf th) a.toNat
    if !x.reduce && x.full then .trap (Trap.jettyMisuse 3 a.toNat)
    else if !x.full then if t then .trap (Trap.emptyRead a.toNat) else .wait s
    else .done ((s.setJetty (s.cptOf th) a.toNat { x with full := false, arr := 0, exp := 0 }).putW th d.toNat x.value)

/-- R121: a cluster-scope release of the group's earlier accesses (R176, R199). -/
def execJrel (t : Bool) (a : BitVec 6) (s : State) : Out :=
  issue (.jrel t a) s fun th s =>
    let x := s.jetty (s.cptOf th) a.toNat
    if x.reduce then .trap (Trap.jettyMisuse 1 a.toNat)
    else if !x.full then if t then .trap (Trap.emptyRead a.toNat) else .wait s
    else if s.pendingAny th 2 then .wait s
    else .done ((s.flushStream (s.cptOf th)).setJetty (s.cptOf th) a.toNat { x with rc := x.rc - 1, full := x.rc - 1 != 0 })

end Sys2Proof.Machine
end

