-- ==== Sys2Proof/Machine/Links.lean ====
section
/-! DEFINITION. The link layer (R361 to R364, R369), the homes and directories that host and peers meet (R365, R367), and
incoming peer accesses (R370, R371). -/

namespace Sys2Proof.Machine

/-! ### Links -/

/-- A module of one of the four adjacent pairs of base dies has a number below 32, 8 × pair + module; a package-link port is
64 + port (R191, R360, R369). -/
def linkOk (link : Nat) : Bool := decide (link < 32 ∨ (64 ≤ link ∧ link < 76))

/-- Replace a link. -/
def State.setLink (s : State) (l : Nat) (x : Link) : State := { s with links := s.links.insert l x }

/-- R362, R369: how many flits a replay buffer holds. -/
def Link.cap (x : Link) : Nat := if x.port then 256 else 64

/-- R362, R369: the time without progress after which the sender resends. -/
def Link.patience (x : Link) : Nat := if x.port then 20000 else 1000

/-- R363, R369: the lanes of a link that trains in full. -/
def Link.full (x : Link) : Nat := if x.port then 8 else 64

/-- The bytes 0 to 251 of a flit (R361). -/
def flitBytes (hdr ack : BitVec 16) (payload : BitVec 1984) : List Nat :=
  [hdr.toNat % 256, hdr.toNat / 256, ack.toNat % 256, ack.toNat / 256] ++
    (List.range 248).map fun i => payload.toNat / 2 ^ (8 * i) % 256

/-- R361, R362: a flit whose CRC is good and whose reserved fields are zero. -/
def flitGood (hdr ack : BitVec 16) (payload : BitVec 1984) (crc : BitVec 32) : Bool :=
  crc.toNat == crc32 (flitBytes hdr ack payload) && hdr.toNat / 2 ^ 12 == 0 && ack.toNat / 2 ^ 11 == 0
    && decide (hdr.toNat / 2 ^ 10 % 4 ≤ 1) && (hdr.getLsbD 10 == false || payload == 0)

/-- R361: a flit that a link forms: KIND 0 DATA or 1 IDLE, with the last SEQ it has accepted. -/
def Link.form (x : Link) (idle : Bool) (seq : BitVec 10) (payload : BitVec 1984) (nak : Bool) : Wire :=
  let hdr := BitVec.ofNat 16 (seq.toNat + idle.toNat * 2 ^ 10)
  let ack := BitVec.ofNat 16 (x.lastAck.toNat + nak.toNat * 2 ^ 10)
  { hdr := hdr, ack := ack, payload := payload, crc := BitVec.ofNat 32 (crc32 (flitBytes hdr ack payload)) }

/-- R361: an IDLE flit is sent. -/
def Link.idle (x : Link) (nak : Bool) : Link := { x with wire := x.wire ++ [x.form true 0 0 nak] }

/-- R362: DATA flits are sent. -/
def Link.transmit (x : Link) (fs : List Flit) : Link :=
  { x with wire := x.wire ++ fs.map fun f => x.form false f.seq f.payload false }

/-- R362: an ACKSEQ frees the flits up to it; progress restarts the timer and the counts of resends. -/
def Link.acknowledge (x : Link) (seq : BitVec 10) (now : Nat) : Link :=
  if x.replay.any fun f => f.seq == seq then
    { x with replay := ((x.replay.dropWhile fun f => f.seq != seq).drop 1).map fun (f : Flit) => { f with resent := 0 }, progressAt := now }
  else x

/-- R362: go-back-N: every unacknowledged flit is sent again, in order. -/
def Link.resend (x : Link) (now : Nat) : Link :=
  { x.transmit x.replay with replay := x.replay.map fun (f : Flit) => { f with resent := f.resent + 1 }, progressAt := now }

/-- R362: a flit is discarded: NAK goes back, once until the expected flit has come (assumption 56). -/
def Link.discard (x : Link) : Link := if x.nakDue then x else { x with nakDue := true }.idle true

/-- R362: an in-order DATA flit is passed on; any other DATA flit is discarded. -/
def Link.accept (x : Link) (hdr : BitVec 16) (payload : BitVec 1984) : Link :=
  let seq := hdr.setWidth 10
  if hdr.getLsbD 10 then x
  else if seq = x.expected then
    { x with expected := x.expected + 1, lastAck := seq, inbox := x.inbox ++ [payload], nakDue := false }
  else x.discard

/-- R362: a new packet's flit enters the replay buffer and is sent. -/
def Link.push (x : Link) (flow : Nat) (payload : BitVec 1984) (now : Nat) : Link :=
  let f : Flit := { seq := x.nextSeq, payload := payload, flow := flow }
  { x.transmit [f] with
    nextSeq := x.nextSeq + 1, replay := x.replay ++ [f], progressAt := if x.replay.isEmpty then now else x.progressAt }

/-- R363: packets of a failed module are sent on another, in their order, with its sequence numbers. -/
def Link.inherit (x : Link) (fs : List Flit) (now : Nat) : Link := fs.foldl (fun y f => y.push f.flow f.payload now) x

/-- R363: the lowest-numbered working module of a pair. -/
def State.workingModule (s : State) (pair : Nat) : Option Nat := (modulesOf pair).find? fun l => decide (0 < (s.link l).width)

/-- R363: packets that were not acknowledged on failed modules of a pair go to its lowest-numbered working module, as its
replay buffer has room. -/
def State.pullFailed (s : State) (pair : Nat) : State :=
  match s.workingModule pair with
  | none => s
  | some l =>
    (modulesOf pair).foldl (fun t m =>
      let x := t.link m
      if x.width = 0 then
        let y := t.link l
        let n := y.cap - y.replay.length
        (t.setLink l (y.inherit (x.replay.take n) t.time)).setLink m { x with replay := x.replay.drop n }
      else t) s

/-- Packets of a pair still wait on its failed modules. -/
def State.pulling (s : State) (pair : Nat) : Bool :=
  (modulesOf pair).any fun m => (s.link m).width == 0 && !(s.link m).replay.isEmpty

/-- R362: what a link has accepted of a flit: its acknowledgement, then the flit. -/
def Link.receive (x : Link) (hdr ack : BitVec 16) (payload : BitVec 1984) (now : Nat) : Link :=
  let y := x.acknowledge (ack.setWidth 10) now
  (if ack.getLsbD 10 then y.resend now else y).accept hdr payload

/-- R362. -/
def execFlitReceive (link : Nat) (hdr ack : BitVec 16) (payload : BitVec 1984) (crc : BitVec 32) (s : State) : Out :=
  let x := s.link link
  if !linkOk link || x.width == 0 then event s
  else if flitGood hdr ack payload crc then
    let s1 := s.setLink link (x.receive hdr ack payload s.time)
    event (if isPort link then s1 else s1.pullFailed (link / 8))
  else event (s.setLink link x.discard)

/-- R362. -/
def execReplayTimeout (link : Nat) (s : State) : Out :=
  let x := s.link link
  event (if linkOk link ∧ 0 < x.width ∧ x.replay ≠ [] ∧ x.progressAt + x.patience ≤ s.time then s.setLink link (x.resend s.time)
    else s)

/-- R363: a module that fails: its packets move, or wait while the pair has no working module, of which the root monitor is
told (assumption 55). -/
def State.failModule (s : State) (link : Nat) (x : Link) : State :=
  let s1 := s.setLink link { x with width := 0 }
  match s1.workingModule (link / 8) with
  | some _ => s1.pullFailed (link / 8)
  | none =>
    { s1 with root := { s1.root with
        reports := s1.root.reports ++ [.noModule (link / 8)]
        notices := pushNotice s1.root.notices ⟨8, 0xFF, BitVec.ofNat 32 (link / 8)⟩ } }

/-- R369: the status bits of a port that has trained or gone down. -/
def State.setPort (s : State) (port : Nat) (up narrow : Bool) : State :=
  { s with root := { s.root with
      plUp := setBit s.root.plUp port up, plNarrow := setBit s.root.plNarrow port (up && narrow) } }

/-- R363, R369: what training leaves: the lanes that passed, and the unacknowledged flits sent from the oldest on. -/
def State.retrained (s : State) (link : Nat) (x : Link) (width : Nat) : State :=
  let y : Link := { x with width := width, progressAt := s.time }
  let s1 := s.setLink link (y.transmit y.replay)
  if x.port then s1.setPort (link - 64) true (decide (width < x.full)) else s1

/-- R363, R369: retraining, after a flit has been resent 16 times without progress, keeps the halves that pass; buffer and
counts survive. -/
def execLinkRetrain (link : Nat) (lowHalf highHalf : Bool) (s : State) : Out :=
  let x := s.link link
  if !linkOk link || x.width == 0 || !(x.replay.any fun f => decide (16 ≤ f.resent)) then event s
  else
    let y : Link := { x with replay := x.replay.map fun (f : Flit) => { f with resent := 0 } }
    if lowHalf && highHalf then event (s.retrained link y y.full)
    else if lowHalf || highHalf then event (s.retrained link y (y.full / 2))
    else if isPort link then event ((s.setLink link { y with width := 0 }).setPort (link - 64) false false)
    else event (s.failModule link y)

/-- R363: the module of a flow of a pair, and the state after a flow without one has been given a working module, a free
choice; a flow of a failed module has the lowest-numbered working one. -/
def State.moduleOf (s : State) (pair flow : Nat) : State × Option Nat :=
  let key := 2 ^ 32 * pair + flow
  match s.flows.find? key with
  | some m => (s, if 0 < (s.link m).width then some m else s.workingModule pair)
  | none =>
    match (modulesOf pair).filter fun l => decide (0 < (s.link l).width) with
    | [] => (s, none)
    | ls => ({ (s.pick ls).2 with flows := s.flows.insert key (s.pick ls).1 }, some (s.pick ls).1)

/-- R361, R362: beats of a flow's packets leave on its link; they wait while its replay buffer is full, while packets of a
failed module go first, and while no module works. -/
def State.sendFlit (s : State) (pair flow : Nat) (payload : BitVec 1984) : State :=
  let r := if pair < 4 then s.moduleOf pair flow else (s, some (60 + pair))
  match r.2 with
  | none => s
  | some l =>
    let x := r.1.link l
    if !linkOk l || x.width == 0 || x.cap ≤ x.replay.length || (decide (pair < 4) && s.pulling pair) then s
    else r.1.setLink l (x.push flow payload s.time)

/-- R361: a link with nothing to send sends an IDLE flit, with its acknowledgement. -/
def State.sendIdle (s : State) (link : Nat) : State :=
  if linkOk link && decide (0 < (s.link link).width) then s.setLink link ((s.link link).idle false) else s

/-! ### Requests across dies (R364) -/

/-- A request is performed at its far end. -/
def State.farPerform (s : State) (port : Nat) (o : FarOp) : State × W64 × Bool :=
  match o with
  | .store ty a n v tag =>
    (if Phys.direct ⟨a, ty⟩ then (s.storeBytes port ⟨a, ty⟩ n v.toNat 0 tag).1
      else s.homeWrite a n v.toNat (s.partOfCpt port) tag, 0, false)
  | .atomic ty op n a b c tag =>
    let r := s.atomicBytes port ⟨a, ty⟩ n op b.toNat c.toNat tag
    (r.1, BitVec.ofNat 64 r.2.1, r.2.2.1)
  | .hail h => ({ s with peerHails := s.peerHails ++ [h] }, 0, false)
  | .message m => ({ s with hails := s.hails ++ [m] }, 0, false)
  | .line base l => (s.homeHalves base l (s.partOfCpt port), 0, false)
  | .packet p => (s.landPkt p, 0, false)
  | .arrival part a => ((s.arrive part a).1, 0, false)

/-- R364: the far die performs a request once; one in its window gets the stored reply. -/
def State.farServe (s : State) (port num : Nat) (o : Outstanding) : State × W64 × Bool :=
  let key := 2 ^ 20 * o.far + port
  let w := (s.windows.find? key).getD []
  match w.find? fun e => e.1 == num with
  | some e => (s, e.2)
  | none =>
    let r := s.farPerform port o.op
    ({ r.1 with windows := r.1.windows.insert key (((num, r.2) :: w).take 512) }, r.2)

/-- R364: a request without a reply after 100,000 ns is sent again with its identifier, and the reply acknowledges a posted one, unless
a link that it crosses is sending flits again (R373). One whose reply has returned is not outstanding any more, so a second reply to it finds none. -/
def execRequestResend (port num : Nat) (s : State) : Out :=
  let key := 2 ^ 16 * port + num
  match s.outs.find? key with
  | none => event s
  | some o =>
    if o.reply.isNone && decide (o.sentAt + 100000 ≤ s.time) then
      let r := s.farServe port num o
      event { r.1 with outs := if s.replaying port o.far then r.1.outs.insert key { o with sentAt := s.time }
        else if o.poster.isSome then r.1.outs.erase key
        else r.1.outs.insert key { o with reply := some r.2, sentAt := s.time } }
    else event s

/-- R364, R373: the acknowledgement of a posted request arrives, unless a link that it crosses is sending flits again. -/
def State.acknowledge (s : State) (port num : Nat) : State :=
  let key := 2 ^ 16 * port + num
  match s.outs.find? key with
  | some o =>
    if o.poster.isSome && !s.replaying port o.far then
      { s with outs := s.outs.erase key }
    else s
  | none => s

/-! ### Peers (R370, R371) -/

/-- n bytes that need not lie in one sector. -/
def State.homeBytes (s : State) (pa : Nat) : Nat → Nat
  | 0 => 0
  | n + 1 => s.homeValue pa 1 + 256 * s.homeBytes (pa + 1) n

/-- R370: the physical address of an incoming access, when its entry covers the offset and permits the kind: 0 a load, 1 a
store, 2 and above an atomic. -/
def State.exportAddr (s : State) (port part offset kind n : Nat) : Option Nat :=
  let e := s.homeBytes (s.root.pexptab.toNat + 16 * part) 16
  let base := e % 2 ^ 64
  let len := e / 2 ^ 64 % 2 ^ 32
  let perm := e / 2 ^ 96 % 2 ^ 8
  let permits := kind == 0 || (kind == 1 && perm.testBit 0) || (decide (2 ≤ kind) && perm.testBit 1)
  if decide (port < 12) && s.root.plUp.getLsbD port && decide (part < 48) && decide (offset + n ≤ len * 2 ^ 21) && permits
      && regionOf (base + offset) == .hbm then some (base + offset)
  else none

/-- R370: an incoming access at its home slice, and its reply, poisoned as the data is (R310): 0 of a store, the old value of
an atomic, whose second operand (the new value of a `cas`) is c. -/
def State.peerPerform (s : State) (pa kind size : Nat) (v c : W64) : State × W64 × Bool :=
  if kind = 0 then (s, BitVec.ofNat 64 (s.homeRead pa size).1, (s.homeRead pa size).2)
  else if kind = 1 then (s.homeWrite pa size v.toNat, 0, false)
  else
    let r := s.homeAtomic 1023 pa size (kind - 2) v.toNat c.toNat
    (r.1, BitVec.ofNat 64 r.2, (s.homeRead pa size).2)

/-- R370: an export entry of a peer, as the peer answers by it from now on. -/
def State.peerExport (s : State) (port part len perm : Nat) : State :=
  if port < 12 ∧ part < 48 ∧ len ≤ 2 ^ 20 then
    { s with root := { s.root with peerExp := s.root.peerExp.insert (64 * port + part) (len, perm % 4) } }
  else s

/-- R364, R369: the window of the peer that a port joins: it is named by its package identifier and the port. The far ends that
`State.identify` numbers end below 2^25. -/
def State.peerKey (s : State) (port : Nat) : Nat := 2 ^ 25 + 16 * ((s.root.peerId.find? port).getD 0).toNat + port

/-- R370, R364, R369: an incoming access of a peer with its request number; kind 2 + code is an atomic of R226. One whose
identifier stands in the peer's window is not performed again: its stored reply goes back. A refused one is counted, and its
reply is poisoned but for a store's (R371). One of a line that the host may hold is not performed before the host has answered
(R367). -/
def execPeerAccess (port num : Nat) (place : WindowOffset) (kind size : Nat) (v : PeerOperands) (s : State) : Out :=
  match s.exportAddr port place.owner place.offset kind size with
  | none =>
    event { s.countRefusal with replies := s.replies ++ [⟨place.offset, size, kind == 1, 0, none, kind != 1⟩] }
  | some pa =>
    let key := s.peerKey port
    let w := (s.windows.find? key).getD []
    let answer := fun (t : State) (r : W64 × Bool) =>
      { t with replies := t.replies ++ [⟨place.offset, size, kind == 1, r.1, none, r.2⟩] }
    match w.find? fun e => e.1 == num with
    | some e => event (answer s e.2)
    | none =>
      match s.snoopHost [pa / 128] with
      | some s1 => event s1
      | none =>
        let q := s.peerPerform pa kind size v.v v.c
        event (answer { q.1 with windows := q.1.windows.insert key (((num, q.2) :: w).take 512) } q.2)

/-- R369: a port trains, widens or goes down; the ends exchange identifiers, and the flits that no end has acknowledged are
sent again. -/
def execPackagePortTraining (port : Nat) (up narrow : Bool) (peer : BitVec 16) (s : State) : Out :=
  if 12 ≤ port then event s
  else
    let x := s.link (64 + port)
    let s1 := ((if up then s.retrained (64 + port) x (if narrow then 4 else 8) else s.setLink (64 + port) { x with width := 0 })
      ).setPort port up narrow
    event { s1 with root := { s1.root with peerId := if up then s1.root.peerId.insert port peer else s1.root.peerId } }

/-! ### The host (R365 to R367) -/

/-- R366: a CXL port trains at a rate and width it supports; there are two (R2). -/
def execCxlPortTraining (port rate width : Nat) (s : State) : Out :=
  event (if port < 2 ∧ (rate = 128 ∨ rate = 64 ∨ rate = 32) ∧ (width = 16 ∨ width = 8) then
    { s with root := { s.root with cxl := s.root.cxl.insert port (rate, width) } } else s)

/-- R367: a snoop of a host line that slices hold: a dirty line is written back; the copies leave or become clean. -/
def execHostSnoop (line : Nat) (inval : Bool) (s : State) : Out :=
  let held := (s.l2.filter fun e => e.1 % 2 ^ 46 / 2 == line).map fun e => e.1
  event (if regionOf (128 * line) = .host then
      (if inval then ((held.map (· / 2)).dedup).foldl State.sliceEvict s else held.foldl State.sliceClean s)
    else s)

/-- The lines that n bytes lie in. -/
def linesFrom (pa n : Nat) : List Nat := (List.range ((pa + n - 1) / 128 - pa / 128 + 1)).map (pa / 128 + ·)

/-- R310: n bytes of which some lie in a poisoned sector. -/
def State.poisonedBytes (s : State) (pa n : Nat) : Bool := (sectorsFrom pa n).any s.badAt

/-- R365, R367: a recall: the slice that holds a line of HBM writes it back and invalidates it. -/
def State.recall (s : State) (line : Nat) : State := s.sliceEvict line

/-- R367: a host access to HBM at the home controller of its lines, after their recall: what is read goes to the host, which
may hold the lines from then on, and hold them DIRTY where it writes (assumption 40). -/
def execHostMemAccess (addr size : Nat) (write : Bool) (v : W64) (s : State) : Out :=
  if addr + size ≤ 2 ^ 40 then
    let lines := linesFrom addr size
    let s1 := lines.foldl State.recall s
    let s2 := { s1 with hostHeld := lines.foldl (fun h l => h.insert l (write || h.get false l)) s1.hostHeld }
    event (if write then (s2.memStore addr size v.toNat).noteWrite addr size
      else { s2 with replies := s2.replies ++ [⟨addr, size, false, BitVec.ofNat 64 (s2.homeBytes addr size), none, s2.poisonedBytes addr size⟩] })
  else .fault (.noSuchMemory addr)

/-- R367: the host has answered a back-invalidation: it holds the line no more, and the fill that waits completes. -/
def execBackInvalidationResponse (line : Nat) (s : State) : Out :=
  event { s with biWait := s.biWait.erase line, hostHeld := s.hostHeld.erase line }

end Sys2Proof.Machine
end

