-- ==== Sys2Proof/Machine/Spawn.lean ====
section
/-! DEFINITION. `spawn` (R102 to R107), `join` (R113), and the events of launch and retirement (R111, R112, R157, R161). -/

namespace Sys2Proof.Machine

/-- The spawn record as its registers hold it (R103). -/
structure SpawnRec where
  args : List W64
  img : W64
  shp : W64
  join : W64
  gatea : W64
  gatev : W64
  icnt : W64
  size : W64
  deriving DecidableEq, Repr

/-- R103. -/
def State.spawnRec (s : State) (t : ThreadId) (a : Nat) : SpawnRec :=
  let r := fun i => s.getW t (a + i)
  { args := (List.range 8).map r, img := r 8, shp := r 9, join := r 10, gatea := r 11, gatev := r 12, icnt := r 13, size := r 14 }

/-- SHAPE's target context. -/
def SpawnRec.ctx (r : SpawnRec) : Nat := r.shp.toNat / 2 ^ 40 % 256

/-- R103: the reserved fields and flag combinations (cause 1). -/
def SpawnRec.fieldsOk (r : SpawnRec) (i g : Bool) : Bool :=
  !r.shp.getLsbD 35 && !r.shp.getLsbD 39 && decide (r.shp.toNat / 2 ^ 36 % 8 ≤ 4)
    && (g || (r.gatea == 0 && r.gatev == 0)) && (if i then r.shp.setWidth 32 == (0 : W32) else r.icnt == 0)

/-- R104 step 4: the addresses a spawn uses, in order, with their alignment. -/
def SpawnRec.addrs (r : SpawnRec) (i g : Bool) : List (W64 × Nat) :=
  [(r.img, 64), (r.join, 8)] ++ (if g then [(r.gatea, 8)] else []) ++ (if i then [(r.icnt, 8)] else [])

/-- R104 step 4: the first failure. -/
def addrsTrap : List (W64 × Nat) → Option Trap
  | [] => none
  | (a, n) :: rest =>
    if !inRange a then some (Trap.addressRange a)
    else if a.toNat % n ≠ 0 then some { Trap.commandCheck 2 with addr := a }
    else addrsTrap rest

/-- Translate the counters of a spawn in order; JOIN is written. DESIGN CHOICE (assumption 69): the pages are those of the target
context and the access is at User level, whatever the level of the thread that spawns. -/
def State.spawnPages (s : State) (sp : Space) : List (AccKind × W64) → State × Except (Nat × W64) (List Phys)
  | [] => (s, .ok [])
  | (k, a) :: rest =>
    match s.translate sp a.toNat k true with
    | (s1, .error c) => (s1, .error (c, a))
    | (s1, .ok p) =>
      match s1.spawnPages sp rest with
      | (s2, .ok ps) => (s2, .ok (p :: ps))
      | (s2, .error e) => (s2, .error e)

/-- R105: the descriptor the grid runs: the least bound that reaches SIZE. -/
def SpawnImages.pick (x : SpawnImages) (v : Bool) (size : Nat) : Option Desc :=
  if v then
    (x.variants.foldl (fun (best : Option Variant) e =>
      if e.1 < size then best
      else match best with
        | none => some e
        | some b => if e.1 < b.1 then some e else some b) none).bind fun e => e.2.map fun y => y.2.1
  else some x.base.2.1

/-- R155: the grids counted at a priority. -/
def State.queueLength (s : State) (part prio : Nat) : Nat :=
  (s.grids.filter fun e => e.2.part == part && e.2.prio == prio && e.2.handler.isNone
    && (e.2.phase == .gated || e.2.phase == .passed || e.2.phase == .placing)).length

/-- R104, R106, R155: place the grid on the launch queue, or refuse it with its status. -/
def State.enterQueue (s : State) (t : ThreadId) (d : BitVec 6) (g : Grid) : State :=
  if 64 ≤ s.queueLength g.part g.prio then s.putW t d.toNat (spawnStatus 2 0)
  else
    let st := if d = 0 then none else some (t, d.toNat)
    let q := s.addGrid { g with status := st, phase := if g.gate.isSome then .gated else .passed }
    let s1 := if g.co then q.1.emptyW t d.toNat else q.1.putW t d.toNat (spawnStatus 0 (q.1.grid q.2).num)
    s1.testGate q.2

/-- R104: `spawn`; it waits while the host may hold what it reads and releases (R367), and for the acknowledgements of its release
(R202). -/
def execSpawn (t : Bool) (d a : BitVec 6) (imm g c v : Bool) (s : State) : Out :=
  issue (.spawn t d a imm g c v) s fun th s =>
    let r := s.spawnRec th a.toNat
    let part := s.partOf th
    let ctx := if r.ctx = 0 then s.ctxOf th else r.ctx
    if levelOf th = 0 ∧ r.ctx ≠ 0 then .trap Trap.privilege
    else if !r.fieldsOk imm g then .trap (Trap.commandCheck 1)
    else if ctx = 0 ∨ (s.ctx part ctx).phase = .none then .trap (Trap.commandCheck 6)
    else
      match addrsTrap (r.addrs imm g) with
      | some tr => .trap tr
      | none =>
        let sp := Space.ctx part ctx (s.fetchCore th)
        let counters := [(AccKind.load, r.img), (.store, r.join)] ++ (if g then [(.load, r.gatea)] else [])
          ++ (if imm then [(.load, r.icnt)] else [])
        match s.spawnPages sp counters with
        | (_, .error (k, x)) => .fault k x 0
        | (s1, .ok ps) =>
          match s1.spawnImages sp r.img.toNat with
          | (_, .error (.fault k x)) => .fault k (BitVec.ofNat 64 x) 0
          | (_, .error (.trap tr)) => .trap tr
          | (s2, .ok im) =>
            match s.filledHeld s2 with
            | some s3 => .wait s3
            | none =>
            if (ps.drop 1).any fun p => p.ty != .shared then .trap (Trap.commandCheck 3)
            else
              match im.check (s.ctx part ctx).info.sslot with
              | some k => .trap (Trap.commandCheck k)
              | none =>
                match s2.lostReport th 3 with
                | some (s3, tr) => .report s3 tr
                | none =>
                match (s2.snoopHost (s2.releaseLines (s2.cptOf th) 3)).orElse fun _ => s2.releaseWait (s2.cptOf th) 3 with
                | some s3 => .wait s3
                | none =>
                  let q := s2.releaseDevice (s2.cptOf th)
                  let s3 := q.1
                  match im.pick v r.size.toNat with
                  | none => .done (s3.putW th d.toNat (spawnStatus 4 0))
                  | some desc =>
                    let pa := fun i => (ps.getD i ⟨0, .shared⟩).pa
                    .done (s3.enterQueue th d
                      { part := part, ctx := ctx, num := 0, desc := desc, args := r.args, count := r.shp.toNat % 2 ^ 32
                        prio := r.shp.toNat / 2 ^ 32 % 8, books := r.shp.toNat / 2 ^ 36 % 8
                        mask := BitVec.ofNat 16 (r.shp.toNat / 2 ^ 48), join := some (pa 1)
                        gate := if g then some (pa 2, r.gatev) else none
                        icnt := if imm then some (pa (if g then 3 else 2)) else none
                        co := c, sig := q.2 })

/-- R113: each test is a device-scope acquire read, after every older access of the thread to the counter (R198); a failing test
leaves the word not begun. -/
def execJoin (t : Bool) (d a b : BitVec 6) (s : State) : Out :=
  issue (.join t d a b) s fun th s =>
    match s.checkUniform th .load true false 8 (s.getW th a.toNat) with
    | .stop x => x
    | .ok s1 ps =>
      match ps with
      | (_, _, p) :: _ =>
        if p.ty ≠ .shared then .trap (Trap.commandCheck 3)
        else if s1.blocked th [{ lane := 0, addr := p.pa, size := 8, ty := some p.ty, va := s.getW th a.toNat }] then .wait s
        else
          let q := s1.acquireLoad (s1.cptOf th) false p 8 (s1.threadTag th)
          if (s1.getW th b.toNat).toNat ≤ q.2.1 then
            let s2 := q.1.putW th d.toNat (BitVec.ofNat 64 q.2.1)
            s.doneUnlessFills (if q.2.2 then s2.setUni th ((s2.uni th).poisonW d.toNat) else s2)
          else .wait (s.unlessFills q.1)
      | [] => .wait s

/-! ### Events of launch and retirement -/

/-- The gated grids on one line, in entry order (R157). -/
def State.gatedOn (s : State) (line : Nat) : List Nat :=
  (s.grids.filter fun e => e.2.phase == .gated && (match e.2.gate with
    | some (a, _) => a / 128 == line
    | none => false)).map (·.1)

/-- R157: the counter of a gated grid is tested, with every grid gated on its line. -/
def execGateTest (grid : Nat) (s : State) : Out :=
  match s.grids.find? grid with
  | none => event s
  | some g =>
    match g.phase, g.gate with
    | .gated, some (a, _) =>
      let s1 := (s.gatedOn (a / 128)).foldl (fun t k => t.testGate k) s
      event { s1 with gateDue := s1.gateDue.erase (a / 128) }
    | _, _ => event s

/-- R161. -/
def execPlacementStep (part : Nat) (s : State) : Out := event (if (s.part part).halted then s else s.placementStep part)

/-- R111. -/
def execGroupRetire (group : Nat) (s : State) : Out := event (s.tryRetireGroup group)

/-- R112. -/
def execGridEnd (grid : Nat) (s : State) : Out := event (s.tryEndGrid grid)

end Sys2Proof.Machine
end

