-- ==== Sys2Proof/Machine/Sr.lean ====
section
/-! DEFINITION. System registers (R18 to R20): what each reads as, what a write of each does, and the rows of the opcode
table that are the effects of such writes. -/

namespace Sys2Proof.Machine

/-- All ones. -/
def ones64 : W64 := BitVec.allOnes 64

/-- R167: the counts of the launch queue, a byte for each priority. -/
def State.queueCounts (s : State) (part : Nat) : Nat :=
  (List.range 8).foldl (fun a p => a + s.queueLength part p * 2 ^ (8 * p)) 0

/-- R338: a notice as `sr.NOTICE` gives it. -/
def Notice.word (n : Notice) : W64 := BitVec.ofNat 64 (n.kind.toNat + n.ctx.toNat * 2 ^ 8 + n.arg.toNat * 2 ^ 32)

/-- R331. -/
def State.preqWord (s : State) (t : ThreadId) : W64 :=
  if levelOf t = 0 then
    match (s.ctx (s.partOf t) (s.ctxOf t)).preq with
    | some why => BitVec.ofNat 64 (1 + 2 * why.toNat)
    | none => 0
  else 0

/-- R300: the address of the thread's own record. -/
def State.trapRec (s : State) (t : ThreadId) : W64 :=
  if levelOf t = 0 then
    BitVec.ofNat 64 ((s.ctx (s.partOf t) (s.ctxOf t)).info.traparea + 64 * s.recIndex t)
  else 0

/-- R20, R93: the User registers as a thread reads them. -/
def State.readUser (s : State) (t : ThreadId) (n : Nat) : W64 :=
  let grp := match t with
    | .gang g _ => some g
    | _ => none
  let own := levelOf t = 0
  match n with
  | 0x003 => (match grp with
    | some g => BitVec.ofNat 64 (s.group g).num
    | none => ones64)
  | 0x004 => (match grp with
    | some g => BitVec.ofNat 64 (s.team (s.group g).team).num
    | none => ones64)
  | 0x005 => if own then BitVec.ofNat 64 (s.vclusterOf t) else ones64
  | 0x006 => if own then BitVec.ofNat 64 (s.vdieOf t) else ones64
  | 0x008 => BitVec.ofNat 64 (levelOf t)
  | 0x010 => BitVec.ofNat 64 s.time
  | 0x020 => (s.uni t).fpctl
  | 0x021 => (s.uni t).fpstat
  | 0x030 => if grp.isSome then BitVec.ofNat 64 ((s.ctx (s.partOf t) (s.ctxOf t)).info.plim % 2 ^ 17) else 0
  | 0x040 => s.preqWord t
  | 0x041 => (s.part (s.partOf t)).pdl.setWidth 64
  | 0x050 => (match grp with
    | some g => (s.team (s.group g).team).xstat
    | none => 0)
  | 0x060 => if own then (s.vecMask (s.partOf t) (s.ctxOf t) (·.mask)).setWidth 64 else 0
  | 0x061 =>
    if own then s.vecMask (s.partOf t) (s.ctxOf t) (·.isv) ++ s.vecMask (s.partOf t) (s.ctxOf t) (·.pend) else 0
  | 0x070 => s.trapRec t
  | 0x080 => (match grp with
    | some g => (s.group g).mstat
    | none => 0)
  | _ => ones64

/-- R20: the Supervisor and Monitor registers; those that are only written read 0. -/
def State.readPriv (s : State) (part n : Nat) : W64 :=
  let p := s.part part
  match n with
  | 0x230 => BitVec.ofNat 64 (p.lease % 2 ^ 11 + 8 * 2 ^ 16)
  | 0x234 => BitVec.ofNat 64 (p.ntags % 2 ^ 17 + p.classen.toNat * 2 ^ 20 + p.ovfgen % 2 ^ 24 * 2 ^ 24)
  | 0x240 => BitVec.ofNat 64 (s.queueCounts part)
  | 0x246 => p.lerr.setWidth 64
  | 0x247 => BitVec.ofNat 64 p.ctxtab
  | 0x248 => BitVec.ofNat 64 (s.root.plUp.toNat + s.root.plNarrow.toNat * 2 ^ 12)
  | 0x249 => p.uncorr ++ p.corr
  | 0x810 => s.root.seccfg
  | 0x811 => s.root.pkgid
  | 0x813 => s.root.pexptab
  | 0x820 => s.root.pwrctl
  | 0x821 => s.pwrstat
  | 0x822 => s.root.bootstat
  | _ => 0

/-- R338: one notice popped from the queue of a thread's core. -/
def State.popNotice (s : State) (t : ThreadId) : State × W64 :=
  match t with
  | .monitor =>
    match s.root.notices with
    | [] => (s, ones64)
    | n :: rest => ({ s with root := { s.root with notices := rest } }, n.word)
  | t =>
    match (s.part (s.partOf t)).notices with
    | [] => (s, ones64)
    | n :: rest => (s.modPart (s.partOf t) fun p => { p with notices := rest }, n.word)

/-- R18: a read. -/
def State.readSr (s : State) (t : ThreadId) (n : Nat) : State × W64 :=
  if n = 0x245 then s.popNotice t
  else if n < 0x200 then (s, s.readUser t n)
  else (s, s.readPriv (s.partOf t) n)

/-- R62, R69: `sr.FPCTL` takes a value; RESEED reloads the generators of a group. -/
def State.writeFpctl (s : State) (t : ThreadId) (v : W64) : State :=
  let s1 := s.setUni t { s.uni t with fpctl := v &&& ~~~0x200 }
  match t with
  | .gang g _ =>
    if v.getLsbD 9 then
      s1.setGroup g { s1.group g with gens := (List.range 32).map (genSeed (BitVec.ofNat 32 (v.toNat / 2 ^ 32))) }
    else s1
  | _ => s1

/-- Clear the bits of a mask that are written as 1. -/
def w1c (x v : W64) (mask : W64) : W64 := x &&& ~~~(v &&& mask)

/-- R182: the translations of one page of an address space leave every place that holds them. -/
def State.dropPage (s : State) (part vpn asid : Nat) : State :=
  { s with tlb := s.tlb.filter fun e =>
      !(tlbOwner e.1 == 2 ^ 16 * part + asid && decide (e.1 % 2 ^ 36 = 4096 * vpn / pageSize e.2.level)) }

/-- R182: every translation of an address space leaves. -/
def State.dropAsid (s : State) (part asid : Nat) : State :=
  { s with tlb := s.tlb.filter fun e => tlbOwner e.1 != 2 ^ 16 * part + asid }

/-- R182: every translation of a partition leaves. -/
def State.dropAllAsid (s : State) (part : Nat) : State :=
  { s with tlb := s.tlb.filter fun e => tlbOwner e.1 / 2 ^ 16 != part }

/-- R182: a write of `sr.TLBINV`. -/
def State.writeTlbinv (s : State) (part : Nat) (v : W64) : State :=
  let vpn := v.toNat % 2 ^ 36
  let asid := v.toNat / 2 ^ 36 % 2 ^ 16
  if v.getLsbD 63 then s.dropAllAsid part else if v.getLsbD 62 then s.dropAsid part asid else s.dropPage part vpn asid

/-- R20: the effect of a write that the checks of R20 let through; none for a value that the register's rule refuses with
an Illegal Instruction trap. -/
def State.writeSr (s : State) (t : ThreadId) (n : Nat) (v : W64) : Option State :=
  let part := s.partOf t
  match n with
  | 0x020 => if fpctlOk v then some (s.writeFpctl t v) else none
  | 0x021 => some (s.setUni t { s.uni t with fpstat := v &&& 0x3F })
  | 0x050 => some (match t with
    | .gang g _ =>
      let k := (s.group g).team
      s.setTeam k { s.team k with xstat := w1c (s.team k).xstat v 7 }
    | _ => s)
  | 0x060 => some (if levelOf t = 0 then s.setHmask part (s.ctxOf t) (v.setWidth 32) else s)
  | 0x080 => some (match t with
    | .gang g _ => s.setGroup g { s.group g with mstat := w1c (s.group g).mstat v 1 }
    | _ => s)
  | 0x222 => if v.toNat / 2 ^ 52 % 2 ^ 10 ≠ 0 then none else some (s.writeTlbinv part v)
  | 0x244 =>
    if v.toNat / 2 ^ 10 ≠ 0 then none
    else some (s.ctxReq part (v.toNat % 256) (v.getLsbD 8) (v.getLsbD 9))
  | 0x246 => some (s.modPart part fun p => { p with lerr := v.setWidth 32 })
  | 0x249 => some (s.modPart part fun p => { p with corr := v.setWidth 32, uncorr := (v >>> 32).setWidth 32 })
  | 0x810 => some { s with root := { s.root with seccfg := (w1c s.root.seccfg v 0x1E &&& ~~~1) ||| (v &&& 1) } }
  | 0x811 => some { s with root := { s.root with pkgid := v &&& 0xFFFF } }
  | 0x813 => some { s with root := { s.root with pexptab := v &&& 0xFFFFFFFFFFFFF } }
  | 0x820 => s.writePwrctl v
  | _ => some s

/-- R18, R20. -/
def execSr (t : Bool) (d a : BitVec 6) (n : BitVec 12) (s : State) : Out :=
  issue (.sr t d a n) s fun th s =>
    if d = 0 then
      match s.writeSr th n.toNat (s.getW th a.toNat) with
      | some s1 => .done s1
      | none => .trap Trap.illegal
    else
      let r := s.readSr th n.toNat
      .done (r.1.putW th d.toNat r.2)

/-- R20: the effect of a write of a system register by the current thread. -/
def execRegisterWrite (n : BitVec 12) (v : W64) (s : State) : Out :=
  event (if (srGate (.sr false 0 0 n) (levelOf s.cur)).isNone then (s.writeSr s.cur n.toNat v).getD s else s)

/-- R62: the effect of a write of `sr.FPCTL` with RESEED by the current thread. -/
def execFpctlReseed (v : W64) (s : State) : Out :=
  event (if fpctlOk v && v.getLsbD 9 then s.writeFpctl s.cur v else s)

/-- R182. -/
def execTlbinvPage (part : Nat) (vpn : BitVec 36) (asid : BitVec 16) (s : State) : Out :=
  event (s.dropPage part vpn.toNat asid.toNat)

/-- R182: ALLPAGES. -/
def execTlbinvAllpages (part : Nat) (asid : BitVec 16) (s : State) : Out := event (s.dropAsid part asid.toNat)

/-- R182: ALLASID. -/
def execTlbinvAllasid (part : Nat) (s : State) : Out := event (s.dropAllAsid part)

/-- R338: the effect of a read of `sr.NOTICE` by a partition's service thread into `w[d]`. -/
def execNoticePop (part : Nat) (d : BitVec 6) (s : State) : Out :=
  let r := s.popNotice (.service part)
  event (r.1.putW (.service part) d.toNat r.2)

end Sys2Proof.Machine
end

