-- ==== Sys2Proof/Machine/Fetch.lean ====
section
/-! DEFINITION. Which threads issue words (R13, R98, R299, R332), and fetching a word (R14): what the thread's core holds, or
what its memory now gives. -/

namespace Sys2Proof.Machine

/-- R381: a change of point has stopped issue. -/
def State.paused (s : State) : Bool := s.root.pauseAt.isSome

/-- A mode in which words are issued; a group that a halt has reached issues its skid (R299). -/
def Mode.issues : Mode → Bool
  | .run => true
  | .halting left _ => decide (0 < left)
  | _ => false

/-- The thread's context is on its clusters and not being saved (R332, R334). -/
def State.ctxRuns (s : State) (part ctx : Nat) : Bool :=
  match s.ctxs.find? (ctxKey part ctx) with
  | some c => !c.forced && (c.phase == .resident || c.phase == .saving)
  | none => true

/-- R346, R384: the thread's partition is halted; the root monitor's thread is in none. -/
def State.partHalted (s : State) (t : ThreadId) : Bool :=
  match t with
  | .monitor => false
  | t => (s.part (s.partOf t)).halted

/-- R340, R341: a function switch takes the service core at a word boundary, once a `sys.ctxsw` in progress has completed. -/
def Part.switched (p : Part) : Bool := p.toFunc.isSome && p.switching.isNone

/-- The thread is there, issues words, and stands at a word (R13, R98). -/
def State.runnable (s : State) (t : ThreadId) : Bool :=
  !s.paused && !s.partHalted t &&
    match t with
    | .gang g k =>
      (match s.groups.find? g with
        | none => false
        | some x =>
          x.mode.issues && x.slot.isSome && (x.slices.any fun sl => sl.inGang k) &&
            (x.slices.all fun sl => !sl.inGang k || (sl.regang.isNone && !sl.yielded))) && s.ctxRuns (s.partOf t) (s.ctxOf t)
    | .spine c => decide (c < 256) && (s.spines.find? c).isSome && (s.scalar t).mode.issues && !(s.scalar t).yielded && s.ctxRuns (s.partOf t) (s.ctxOf t)
    | .service p => (s.scalar t).mode.issues && !(s.part p).switched
    | .monitor => (s.scalar t).mode.issues

/-- R2: how many words a core's instruction cache holds: 128 KiB at a SIMT core, 64 KiB at a spine or service core. -/
def codeSize (core : Nat) : Nat := if core < 1024 then 32768 else 16384

/-- A core's instruction cache takes a word; one that is full gives up another, a free choice. -/
def State.holdCode (s : State) (core key : Nat) (w : W32) : State :=
  let here := (s.icache.filter fun e => e.1 / 2 ^ 50 == core).map (·.1)
  let s1 := if here.length < codeSize core then s else { (s.pick here).2 with icache := s.icache.erase (s.pick here).1 }
  { s1 with icache := s1.icache.insert key w }

/-- What a fetch comes to. -/
inductive Fetched where
  | word (w : W32)
  | fault (cause : Nat)
  | poisoned
  deriving DecidableEq, Repr

/-- The lines that fetching the word at an address may fill: those of its walk, and its own where neither the instruction cache
nor the L1 holds it. -/
def State.fetchLines (s : State) (t : ThreadId) (pc : Addr) : List Nat :=
  s.walkLines (s.spaceOf t) pc.toNat ++
    match (s.translate (s.spaceOf t) pc.toNat .fetch (levelOf t == 0)).2 with
    | .ok p => if (s.icache.find? (2 ^ 50 * s.fetchCore t + p.pa / 4)).isSome || s.hitsL1 (s.cptOf t) p 4 then [] else [p.pa / 128]
    | .error _ => []

/-- R14: the word at an address, as the thread's core holds it or as its memory now gives it. -/
def State.fetchWord (s : State) (t : ThreadId) (pc : Addr) : State × Fetched :=
  match s.translate (s.spaceOf t) pc.toNat .fetch (levelOf t == 0) with
  | (s1, .error c) => (s1, .fault c)
  | (s1, .ok p) =>
    let key := 2 ^ 50 * s1.fetchCore t + p.pa / 4
    match s1.icache.find? key with
    | some w => (s1, .word w)
    | none =>
      match s1.loadBytes (s1.cptOf t) p 4 (s1.threadTag t) with
      | (s2, v, bad) =>
        if bad then (s2, .poisoned)
        else (s2.holdCode (s1.fetchCore t) key (BitVec.ofNat 32 v), .word (BitVec.ofNat 32 v))

/-- R89: a word is a pad, with its label. -/
def padLabel (w : W32) : Option (BitVec 12) :=
  if w.toNat / 2 ^ 25 = 0x6C ∧ w.toNat / 2 ^ 12 % 2 ^ 12 = 0 ∧ w.toNat % 2 ^ 12 ≠ 0xFFF then some (w.setWidth 12) else none

/-- The end point of a thread (R23, R109). -/
def State.endOf (s : State) (t : ThreadId) : Option Addr :=
  match t with
  | .gang g _ => some (s.group g).endpt
  | .spine _ => some (s.scalar t).endpt
  | _ => none

end Sys2Proof.Machine
end

