-- ==== Sys2Proof/Machine/SysMisc.lean ====
section
/-! DEFINITION. `sys.yield` (R332), `sys.waiti` (R313), `sys.codefence` (R14), `sys.vdist` and `sys.vdie` (R360). -/

namespace Sys2Proof.Machine

/-- R331: a pre-emption request stands against the thread's context. -/
def State.requested (s : State) (t : ThreadId) : Bool :=
  decide (levelOf t = 0) && (s.ctx (s.partOf t) (s.ctxOf t)).preq.isSome

/-- R332: the thread issues no further word until the restore. -/
def State.yieldThread (s : State) (t : ThreadId) : State :=
  match t with
  | .gang g k => s.setGroup g ((s.group g).mapGang k fun sl => { sl with yielded := true })
  | t => s.setScalar t { s.scalar t with yielded := true }

/-- R332. -/
def execSysYield (t : Bool) (s : State) : Out :=
  issue (.sysYield t) s fun th s => .done (if s.requested th then s.yieldThread th else s)

/-- R313: a hail is deliverable to the thread. -/
def State.hailFor (s : State) (t : ThreadId) : Bool :=
  decide (levelOf t = 0) && s.hailDeliverable (s.partOf t) (s.ctxOf t)

/-- R313. -/
def execSysWaiti (t : Bool) (d a : BitVec 6) (s : State) : Out :=
  issue (.sysWaiti t d a) s fun th s =>
    if s.hailFor th then .done (s.putW th d.toNat 1)
    else if (s.getW th a.toNat).toNat ≤ s.time then .done (s.putW th d.toNat 0)
    else .wait s

/-- R313: the time of a thread that waits in `sys.waiti` has come and no hail is deliverable: its word completes. -/
def execWaitiTimeReached (th : ThreadId) (s : State) : Out :=
  match (s.fetchWord th (s.pcOf th)).2 with
  | .word w =>
    match decode w with
    | .ok (.sysWaiti t d a) =>
      if s.runnable th && !s.hailFor th && decide ((s.getW th a.toNat).toNat ≤ s.time) then
        execSysWaiti t d a { s with cur := th }
      else event s
    | _ => event s
  | _ => event s

/-- R14: the thread's core forgets what it has fetched. -/
def State.codefence (s : State) (t : ThreadId) : State :=
  { s with icache := s.icache.filter fun e => e.1 / 2 ^ 50 != s.fetchCore t }

/-- R14, R313. -/
def execSysCodefence (t : Bool) (s : State) : Out :=
  issue (.sysCodefence t) s fun th s => .done (s.codefence th)

/-- R358, R359: the physical die of a virtual die as a thread sees it; a service thread's virtual dies are the physical
dies, none of them disabled (R1), that hold clusters of the partition. -/
def State.dieFor (s : State) (t : ThreadId) (v : Nat) : Option Nat :=
  if levelOf t = 0 then
    let info := s.bindings (s.partOf t) (s.ctxOf t)
    if info.bound v then some (info.die v) else none
  else if (s.clustersOn (s.partOf t) v).isEmpty then none else some v

/-- R360: base dies b and c stand beside one another. -/
def adjacentBase (b c : Nat) : Bool := b + c != 3

/-- R360: the distance of two physical dies. -/
def dieDistance (p q : Nat) : Nat :=
  if p = q then 0 else if p / 4 = q / 4 then 1 else if adjacentBase (p / 4) (q / 4) then 2 else 3

/-- R360. -/
def execSysVdist (t : Bool) (d a b : BitVec 6) (s : State) : Out :=
  issue (.sysVdist t d a b) s fun th s =>
    let v := match s.dieFor th ((s.getW th a.toNat).toNat % 16), s.dieFor th ((s.getW th b.toNat).toNat % 16) with
      | some p, some q => BitVec.ofNat 64 (dieDistance p q)
      | _, _ => BitVec.allOnes 64
    .done (s.putW th d.toNat v)

/-- R360: the status of a bound virtual die. -/
def State.vdieStatus (s : State) (t : ThreadId) (p : Nat) : W64 :=
  let gated := s.gateBit p || s.root.pwrstat.getLsbD (8 + p)
  let nvd := ((List.range 16).filter fun v => (s.dieFor t v).isSome).length
  BitVec.ofNat 64 (1 + gated.toNat * 2 + ((s.part (s.partOf t)).clustersOn p).length * 2 ^ 8 + nvd * 2 ^ 16)

/-- R360. -/
def execSysVdie (t : Bool) (d a : BitVec 6) (s : State) : Out :=
  issue (.sysVdie t d a) s fun th s =>
    let v := match s.dieFor th ((s.getW th a.toNat).toNat % 16) with
      | some p => s.vdieStatus th p
      | none => 0
    .done (s.putW th d.toNat v)

end Sys2Proof.Machine
end

