-- ==== Sys2Proof/Machine/Tenancy.lean ====
section
/-! DEFINITION. Partitions as the root monitor and the hypervisor change them: creation (R342, R345), borders (R166, R343),
virtual functions (R340, R341), service images (R344), the security alarm (R346) and the thermal trip (R384). -/

namespace Sys2Proof.Machine

/-! ### Blocks of clusters (R342) -/

/-- R342: an aligned block of at least four clusters of the package. -/
def blockOk (base logk : Nat) : Bool := decide (2 ≤ logk ∧ logk ≤ 8 ∧ base % 2 ^ logk = 0 ∧ base + 2 ^ logk ≤ 256)

/-- A cluster lies in a block. -/
def inBlock (base logk c : Nat) : Bool := decide (base ≤ c ∧ c < base + 2 ^ logk)

/-- The clusters of a block. -/
def blockClusters (base logk : Nat) : List Nat := (List.range (2 ^ logk)).map (base + ·)

/-- The partitions on the package: those of a number below 48. -/
def State.realParts (s : State) : List (Nat × Part) := s.parts.filter fun e => decide (e.1 < 48)

/-- R342: a block meets that of no other partition. -/
def State.blockFree (s : State) (part base logk : Nat) : Bool :=
  s.realParts.all fun e => e.1 == part || decide (base + 2 ^ logk ≤ e.2.base ∨ e.2.base + 2 ^ e.2.logk ≤ base)

/-- The HBM channels that go with a cluster: two of the 512 (assumption 16). -/
def clusterChans (c : Nat) : List Nat := [2 * c, 2 * c + 1]

/-- R343 step 5: channels are scrubbed to zeros. -/
def State.scrub (s : State) (chans : List Nat) : State :=
  { s with mem := s.mem.filter fun e => !(decide (e.1 < 2 ^ 40) && chans.contains (e.1 / 2 ^ 31))
           memKey := s.memKey.filter fun e => !(decide (e.1 < 2 ^ 34) && chans.contains (e.1 / 2 ^ 25))
           memPoison := s.memPoison.filter fun e => !(decide (e.1 < 2 ^ 34) && chans.contains (e.1 / 2 ^ 25)) }

/-! ### Creation (R345) -/

/-- What a partition's units hold leaves the device. -/
def State.purgePart (s : State) (part : Nat) : State :=
  let team := fun k => (s.team k).part == part
  let block := fun c => match s.parts.find? part with
    | some p => inBlock p.base p.logk c
    | none => false
  let cpt := fun c => block c || c == 256 + part
  { s with
    teams := s.teams.filter fun e => e.2.part != part
    groups := s.groups.filter fun e => !team e.2.team
    grids := s.grids.filter fun e => e.2.part != part
    spines := s.spines.filter fun e => e.2.th.part != part || e.2.th.ctx == 0
    reqs := s.reqs.filter fun e => !team (s.group e.2.group).team
    cmds := s.cmds.filter fun e => !team e.2.team
    streams := s.streams.filter fun e => !team e.2.team
    xpkts := s.xpkts.filter fun e => !team e.team
    ctxs := s.ctxs.filter fun e => e.1 / 256 != part
    hails := s.hails.filter fun m => m.part != part
    tlb := s.tlb.filter fun e => tlbOwner e.1 / 2 ^ 16 != part
    l2 := s.l2.filter fun e => !block e.2.slice
    dirs := s.dirs.filter fun e => !block e.2.slice
    l1 := s.l1.filter fun e => !cpt (e.1 / 2 ^ 46)
    wc := s.wc.filter fun e => !cpt (e.1 / 2 ^ 45)
    accs := s.accs.filter fun e => !cpt e.1 }

/-- R342, R345: a partition is created, or created anew once it has been halted: a channel that it held and holds no more is
scrubbed (R343). The sizes that the root monitor gives it are free (assumption 16). -/
def State.createPart (s : State) (part base logk : Nat) (key : BitVec 512) : State :=
  let s1 := s.purgePart part
  let chans := (blockClusters base logk).flatMap clusterChans
  let held := (s1.realParts.filter fun e => e.1 != part).flatMap fun e => e.2.chans
  let d0 := s1.draw
  let d1 := d0.2.draw
  let d2 := d1.2.draw
  let p : Part := { base := base, logk := logk, key := key, chans := chans.filter fun c => !held.contains c, func := 64
                    ntags := d0.1.toNat % 65537, ovfgen := d1.1.toNat % 2 ^ 24, ctxtab := d2.1.toNat % 2 ^ 44 * 2 ^ 8 }
  { (d2.2.scrub ((s.part part).chans.filter fun c => !p.chans.contains c)) with parts := d2.2.parts.insert part p }

/-- R345, R346. -/
def execPartitionCreation (part base logk : Nat) (key : BitVec 512) (s : State) : Out :=
  let may := match s.parts.find? part with
    | some p => p.halted
    | none => true
  event (if decide (part < 48) && blockOk base logk && s.blockFree part base logk && may then s.createPart part base logk key
    else s)

/-! ### Borders (R343) -/

/-- Units of a partition stand on clusters that a test names. -/
def State.unitsOn (s : State) (part : Nat) (f : Nat → Bool) : Bool :=
  (s.teams.any fun e => e.2.part == part && e.2.placed && f e.2.cluster) ||
    s.spines.any fun e => decide (e.1 < 256) && e.2.th.part == part && f e.1

/-- R270, R277: an entry of the landing store finds its place under the new borders; none while it does not fit. -/
def Part.rehome (p : Part) : List (Nat × Landing) → Option Part
  | [] => some p
  | (i, e) :: rest =>
    if e.place = 0 then
      match { p with landings := p.landings.erase i }.entryPlace i with
      | some pl => { p with landings := p.landings.insert i { e with place := pl } }.rehome rest
      | none => none
    else p.rehome rest

/-- R189, R343 step 3: the lines of a partition whose home slice changes are written back and leave their slices. -/
def State.moveSlices (s : State) (p q : Part) : State :=
  let here := s.l2.filter fun e => inBlock p.base p.logk e.2.slice && q.homeSlice (e.1 % 2 ^ 46 / 2) != e.2.slice
  ((here.map fun e => e.1 / 2).dedup).foldl State.sliceEvict s

/-- R343: the last steps of a change of borders: 3 (with R277), 4 and 5; none while landing entries do not fit. -/
def State.finishBorder (s : State) (part : Nat) (p : Part) (b : Border) : Option State :=
  let gone := (blockClusters p.base p.logk).filter fun c => !inBlock b.base b.logk c
  let come := (blockClusters b.base b.logk).filter fun c => !inBlock p.base p.logk c
  match { p with base := b.base, logk := b.logk }.rehome p.landings with
  | none => none
  | some q =>
    let s1 := (gone.foldl (fun t c => (t.evictAll c fun _ _ => true).flushStream c) s).moveSlices p q
    let leave := if b.pagesMigrated then p.chans.filter fun c => gone.contains (c / 2) else []
    let held := (s1.realParts.filter fun e => e.1 != part).flatMap fun e => e.2.chans
    let join := (come.flatMap clusterChans).filter fun c => !held.contains c
    let refused := !b.pagesMigrated && p.chans.any fun c => gone.contains (c / 2)
    let s2 := (s1.scrub leave).modPart part fun _ =>
      { q with chans := (q.chans.filter fun c => !leave.contains c) ++ join, border := none, leaving := [] }
    let s3 := (s2.notify part 6 0 (if refused then 1 else 0)).retestFits part
    let back := (s3.ctxs.filter fun e => e.1 / 256 == part && e.2.resume).map fun e => e.1 % 256
    some (back.foldl (fun t c => if (t.ctx part c).phase = .saved then
      t.restoreCtx part c else t) s3)

/-- R166: the receiving partition takes the block that has left another. -/
def State.takeBlock (s : State) (recv base logk : Nat) : State :=
  (s.modPart recv fun p => { p with base := min p.base base, logk := logk + 1, chans := p.chans ++
    ((blockClusters base logk).flatMap clusterChans).filter fun c =>
      !(s.realParts.flatMap fun (e : Nat × Part) => e.2.chans).contains c }).retestFits recv

/-- R343: a change in progress ends once its clusters are empty and no context is being saved (R347). -/
def State.advanceBorder (s : State) (part : Nat) : State :=
  match s.parts.find? part with
  | none => s
  | some p =>
    match p.border with
    | none => s
    | some b =>
      if s.unitsOn part p.leaving.contains || !(s.ctxsOf part (· == .saving)).isEmpty then s
      else
        match s.finishBorder part p b with
        | none => s
        | some s1 =>
          match b.recv with
          | some q => s1.takeBlock q (if b.base = p.base then p.base + 2 ^ b.logk else p.base) b.logk
          | none => s1

/-- R343: a change is asked for: step 1, from which departing cores take no team. -/
def State.startBorder (s : State) (part : Nat) (b : Border) : State :=
  s.modPart part fun p =>
    { p with border := some b, leaving := (blockClusters p.base p.logk).filter fun c => !inBlock b.base b.logk c }

/-- R343: the default deadline stands for 0. -/
def execBorderChange (part base logk deadline : Nat) (pagesMigrated : Bool) (s : State) : Out :=
  match s.parts.find? part with
  | none => event s
  | some p =>
    if p.border.isSome then
      event ((s.modPart part fun q => { q with border := q.border.map fun b => { b with
        pagesMigrated := b.pagesMigrated || pagesMigrated } }).advanceBorder part)
    else if blockOk base logk && s.blockFree part base logk then
      event ((s.startBorder part ⟨base, logk, s.time + (if deadline = 0 then 1000000 else deadline), pagesMigrated, none⟩).advanceBorder part)
    else event (s.notify part 6 0 2)

/-- R343 step 2: at the deadline the contexts that still have units on departing clusters are pre-empted with WHY = 2. -/
def execBorderDeadline (part : Nat) (s : State) : Out :=
  match s.parts.find? part with
  | none => event s
  | some p =>
    match p.border with
    | none => event s
    | some b =>
      if s.time < b.deadline then event s
      else
        let hit := fun c => (s.ctxTeams part c).any (fun k => (s.team k).placed && p.leaving.contains (s.team k).cluster) ||
          (s.ctxSpines part c).any p.leaving.contains
        event (((s.ctxsOf part (· == .resident)).foldl (fun t c =>
          if hit c then (t.raiseRequest part c 2 false).modCtx part c fun x => { x with resume := true } else t) s).advanceBorder part)

/-- R166: the block is half of one partition and the other half of what the other would become. -/
def halvesOk (short rich : Part) (base logk : Nat) : Bool :=
  rich.logk == logk + 1 && decide (2 ≤ logk) && (base == rich.base || base == rich.base + 2 ^ logk)
    && short.logk == logk && decide (min short.base base % 2 ^ (logk + 1) = 0)
    && (base == short.base + 2 ^ logk || short.base == base + 2 ^ logk)

/-- R166: the blocks of two partitions stand side by side. -/
def sideBySide (p q : Part) : Bool := p.base + 2 ^ p.logk == q.base || q.base + 2 ^ q.logk == p.base

/-- R166: what the controller does for a short partition that borders an idle-rich one, by the findings of the window that
has ended (R165): the move of a block that leaves both aligned; where no block does, a target is missed. -/
def execPartitionWindowEnd (short rich base logk : Nat) (s : State) : Out :=
  match s.parts.find? short, s.parts.find? rich with
  | some p, some q =>
    if p.border.isSome || q.border.isSome then event (s.advanceBorder rich)
    else if !(p.short && q.rich && sideBySide p q) then event s
    else
      let s1 := s.modPart short fun p => { p with short := false }
      if halvesOk p q base logk then
        let keep := if base = q.base then q.base + 2 ^ logk else q.base
        event ((s1.startBorder rich ⟨keep, logk, s.time + 1000000, false, some short⟩).advanceBorder rich)
      else if (List.range 256).any fun b => halvesOk p q b p.logk then event s
      else event (s1.modPart short fun p => { p with missed := p.missed + 1 })
  | _, _ => event s

/-! ### Virtual functions (R340, R341) -/

/-- R340: what belongs to the function, not to the partition: the tag pool and the landing entries stay (R264, R273), and so does
the numbering of grids, which are told apart in the whole partition (R106). -/
def Part.takeFunc (p f : Part) : Part :=
  { p with svc := f.svc, calls := f.calls, nextCall := f.nextCall, notices := f.notices
           ctxtab := f.ctxtab, image := f.image, nextImage := f.nextImage, late := f.late, lateAt := f.lateAt, func := f.func }

/-- The key of a saved spine instance after its partition's number has changed. -/
def movedKey (old new k : Nat) : Nat :=
  if 2 ^ 48 ≤ k ∧ (k / 2 ^ 48 - 1) / 256 = old then 2 ^ 48 * (256 * new + (k / 2 ^ 48 - 1) % 256 + 1) + k % 2 ^ 48 else k

/-- A thread's name after the number of a partition has changed. -/
def movedUnit (old new : Nat) : ThreadId → ThreadId
  | .service p => .service (if p = old then new else p)
  | .spine c => .spine (movedKey old new c)
  | t => t

/-- The units of a partition number take another. -/
def State.renumber (s : State) (old new : Nat) : State :=
  let ctxs := s.ctxs.filter fun e => e.1 / 256 == old
  let saved := s.spines.filter fun e => movedKey old new e.1 != e.1
  let mv := movedUnit old new
  let callers := fun (m : Tbl Call) => m.map fun (e : Nat × Call) => (e.1, { e.2 with caller := mv e.2.caller })
  { s with
    ctxs := ctxs.foldl (fun t e => t.insert (256 * new + e.1 % 256) { e.2 with
        faults := e.2.faults.map fun (f : FaultRec) => { f with opener := mv f.opener, joined := f.joined.map mv } })
      (s.ctxs.filter fun e => e.1 / 256 != old)
    spines := saved.foldl (fun t e => t.insert (movedKey old new e.1) { e.2 with th := { e.2.th with part := new } })
      (s.spines.filter fun e => movedKey old new e.1 == e.1)
    parts := s.parts.map fun (e : Nat × Part) => (e.1, { e.2 with calls := callers e.2.calls })
    grids := s.grids.map fun (e : Nat × Grid) => (e.1, if e.2.part = old then { e.2 with
      part := new, status := e.2.status.map fun (y : ThreadId × Nat) => (mv y.1, y.2) } else e.2)
    teams := s.teams.map fun e => (e.1, if e.2.part = old then { e.2 with part := new } else e.2)
    hails := s.hails.map fun m => if m.part = old then { m with part := new } else m
    tlb := s.tlb.filter fun e => tlbOwner e.1 / 2 ^ 16 != old
    root := { s.root with calls := callers s.root.calls } }

/-- R340 steps 3 and 4: the outgoing function's state leaves the partition, and the incoming one's takes its place; the
contexts that were resident at its own switch are restored. A function that has not been on the partition starts at the
service image, where there is one (assumption 30). -/
def State.swapFunction (s : State) (part func : Nat) : State :=
  let p := s.part part
  let out := awayPart part p.func
  let inc := awayPart part func
  let s1 := s.draw.2.evictAll (256 + part) fun _ _ => true
  let away := Part.takeFunc { base := 2 ^ 20, logk := 0 } p
  let fresh : Part := { base := 2 ^ 20, logk := 0, func := func, image := p.image
                        ctxtab := s.draw.1.toNat % 2 ^ 44 * 2 ^ 8
                        svc := match p.image with
                          | some e => { pc := e, mode := .run, part := part }
                          | none => {} }
  let f := { (s1.parts.find? inc).getD fresh with func := func }
  let s2 := (s1.renumber part out).renumber inc part
  let here := (s2.part part).takeFunc f
  let s3 := { s2 with parts := ((s2.parts.erase inc).insert out away).insert part { here with toFunc := none }
                      funcPart := s2.funcPart.insert func part }
  let back := (s3.ctxs.filter fun e => e.1 / 256 == part && e.2.resume).map fun e => e.1 % 256
  back.foldl (fun t c => t.restoreCtx part c) s3

/-- R340, R341: a switch that has been asked for goes on: it waits for a running `ctxsw`, pre-empts the resident contexts, and
swaps once they are saved. -/
def State.advanceSwitch (s : State) (part func : Nat) : State :=
  if (s.part part).switching.isSome then s
  else
    match s.ctxsOf part (· == .resident) with
    | c :: cs => (c :: cs).foldl (fun t k =>
        (t.raiseRequest part k 1 false).modCtx part k fun x => { x with resume := true }) s
    | [] => if (s.ctxsOf part (· == .saving)).isEmpty then s.swapFunction part func else s

/-- R340, R341: a function switch is asked for, which stops placement at once, or goes on. -/
def execFunctionSwitch (part func : Nat) (s : State) : Out :=
  match s.parts.find? part with
  | none => event s
  | some p =>
    let elsewhere := match s.funcPart.find? func with
      | some q => q != part
      | none => false
    if 64 ≤ func || 48 ≤ part || p.halted || p.func == func || elsewhere then event s
    else event ((s.modPart part fun q => { q with toFunc := some func }).advanceSwitch part func)

/-! ### Service images (R344) -/

/-- R344: the new image takes over once the calls already accepted have finished under the old one. -/
def execServiceImageLoad (part : Nat) (entry : BitVec 48) (s : State) : Out :=
  event ((s.modPart part fun p => { p with nextImage := some entry }).handImage part)

/-! ### What the root monitor sets (R165, R208, R265, R331, R358) -/

/-- R165, R208, R265, R331: a partition's registers take the values within their limits; the lease, NTAGS, CLASSEN and OVFGEN
only while no context is resident. The accumulators count the new lease from now (R206; assumption 54). DESIGN CHOICE (assumption 80): a
context that is being saved counts as resident here. -/
def State.configPart (s : State) (part lease pdl ntags ovfgen target : Nat) (classen : BitVec 4) : State :=
  let free := (s.ctxsOf part fun x => x == .resident || x == .saving).isEmpty
  let s1 := s.modPart part fun p => { p with
    lease := if free ∧ 4 ≤ lease ∧ lease ≤ 1024 then lease else p.lease
    pdl := if 1000 ≤ pdl ∧ pdl ≤ 10000000 then BitVec.ofNat 32 pdl else p.pdl
    ntags := if free ∧ ntags ≤ 65536 then ntags else p.ntags
    ovfgen := if free ∧ ovfgen < 2 ^ 24 then ovfgen else p.ovfgen
    classen := if free then classen else p.classen
    target := target }
  { s1 with accs := s1.accs.map fun (e : Nat × Acc) =>
      (e.1, if s.partOfCpt e.1 = part ∧ s1.leaseNs part ≠ s.leaseNs part then { e.2 with epoch := s.time / s1.leaseNs part } else e.2) }

/-- R358, R383: a binding table that the root monitor does not refuse: virtual dies 0 to n − 1, n ≥ 1, each on an enabled die
that holds clusters of the partition, in reduced service a trained one. -/
def State.tableOk (s : State) (part : Nat) (tab : List Byte) : Bool :=
  let n := (tab.filter fun b => b.getLsbD 7).length
  let good := fun (d : Nat) => !(s.clustersOn part d).isEmpty
  decide (tab.length = 16 ∧ 1 ≤ n) && (List.range 16).all fun v =>
    let b := (tab.getD v 0).toNat
    b / 16 % 8 == 0 && b.testBit 7 == decide (v < n) && (!b.testBit 7 || good (b % 16))

/-- R358: the root monitor writes a context's binding table, while the context is SAVED or NONE. -/
def State.bindDies (s : State) (part ctx : Nat) (tab : List Byte) : State :=
  let ph := (s.ctx part ctx).phase
  if (s.parts.find? part).isSome && (ph == .saved || ph == .none) && decide (1 ≤ ctx ∧ ctx ≤ 254) && s.tableOk part tab then
    let a := s.ctxRecAddr part ctx + 136
    (s.evictSector (256 + part) a).siteWrite part (256 + part) (plainPhys a) 16
      (tab.foldr (fun b acc => b.toNat + 256 * acc) 0) 0
  else s

/-! ### Alarms (R346, R384) -/

/-- R346: a partition halts at once: nothing is saved and lines in flight are dropped. -/
def State.haltPart (s : State) (part : Nat) (erase : Bool) : State :=
  let team := fun k => (s.team k).part == part
  let p := s.part part
  let cpt := fun c => inBlock p.base p.logk c || c == 256 + part
  { s with
    l1 := s.l1.filter fun e => !cpt (e.1 / 2 ^ 46)
    wc := s.wc.filter fun e => !cpt (e.1 / 2 ^ 45)
    reqs := s.reqs.filter fun e => !team (s.group e.2.group).team
    xpkts := s.xpkts.filter fun e => !team e.team
    parts := s.parts.modify part fun p => { p with halted := true, arrivals := [], key := if erase then 0 else p.key } }

/-- R346: the partitions that own a cluster, a slice or a channel on a base die. -/
def Part.onBase (p : Part) (die : Nat) : Bool :=
  ((blockClusters p.base p.logk).any fun c => c / 64 == die) || p.chans.any fun c => c / 128 == die

/-- R346: a sensor of a base die raises the alarm; during training it halts bring-up (R383). -/
def execSecurityAlarm (die : Nat) (tamper : Bool) (s : State) : Out :=
  if 4 ≤ die then event s
  else
    let hit := (s.realParts.filter fun e => tamper || e.2.onBase die).map fun e => e.1
    let s1 := hit.foldl (fun t k => t.haltPart k true) s
    let r := s1.root
    let training := r.bootstat.getLsbD 20
    event { s1 with root := { r with
      seccfg := r.seccfg ||| BitVec.ofNat 64 (2 ^ (die + 1))
      rootKeys := r.rootKeys && !r.seccfg.getLsbD 0
      bootstat := if training then 0x100000 else r.bootstat
      th := if training then {} else r.th
      reports := r.reports ++ [.securityAlarm die tamper] } }

/-- R384: every partition halts, no key erased, and the host is told. -/
def State.thermalHalt (s : State) (tj : BitVec 8) : State :=
  let s1 := (s.realParts.map fun e => e.1).foldl (fun t k => t.haltPart k false) s
  { s1 with root := { s1.root with reports := s1.root.reports ++ [.thermalTrip tj] } }

/-- R384: above 100 degrees CURPOINT steps down every 1,000,000 ns until below 95, then returns step by step to POINT, in reduced
service to 4 (R383). From 115 degrees on every partition halts beside it. -/
def execThermalStep (tj : BitVec 8) (s : State) : Out :=
  let s1 := s.syncTimers
  let cur := s1.root.pwrstat.toNat % 8
  let want := s1.root.wanted
  let hot := s1.root.lowering tj
  let due := match s1.root.thermAt with
    | some a => decide (a + 1000000 ≤ s.time)
    | none => hot
  let back := decide (want < cur) && s1.root.pointOk (cur - 1)
  let next := if !due then cur else if hot then min 5 (cur + 1) else if back then cur - 1 else cur
  let therm := if hot then (if due then some s.time else s1.root.thermAt)
    else if next ≤ want ∨ back = false then none else if due then some s.time else s1.root.thermAt
  let s2 := ({ s1 with root := { s1.root with
    pwrstat := setField (setField s1.root.pwrstat 40 8 tj.toNat) 0 3 next, thermAt := therm, cooling := hot } } : State).refresh
  event (if 115 ≤ tj.toNat then s2.thermalHalt tj else s2)

/-- R384: at 115 °C the partitions halt at once. -/
def execThermalTrip (tj : BitVec 8) (s : State) : Out :=
  if tj.toNat < 115 then event s
  else event (({ s with root := { s.root with pwrstat := setField s.root.pwrstat 40 8 tj.toNat } } : State).thermalHalt tj)

end Sys2Proof.Machine
end

