-- ==== Sys2Proof/Machine/UniControl.lean ====
section
/-! DEFINITION. Branches, calls, landing pads and jump tables (R87 to R92), and the `immx` prefix (R32, R33). -/

namespace Sys2Proof.Machine

/-- R88: a taken direct branch, its target checked before anything is written. -/
def takeBranch (s : State) (a : W64) : Did := if inRange a then .goto s (a.setWidth 48) else .trap (Trap.addressRange a)

/-- R87. -/
def execBra (k : BitVec 3) (n : Bool) (o : BitVec 21) (s : State) : Out :=
  issue (.bra k n o) s fun th s =>
    if (s.uni th).getK k.toNat != n then takeBranch s (branchTarget (s.pcOf th) o) else .done s

/-- R87: `w63` takes the address of the next word, modulo 2^48 (DESIGN CHOICE: assumption 60). -/
def execCall (o : BitVec 21) (s : State) : Out :=
  issue (.call o) s fun th s =>
    takeBranch (s.putW th 63 ((s.pcOf th + 4).setWidth 64)) (branchTarget (s.pcOf th) o)

/-- The Poison trap of a fetch, with the word's address (R310). -/
def Trap.poisonFetch (a : Addr) : Trap := { kind := 0x16, addr := a.setWidth 64 }

/-- R90 to R92: go to a target whose word must be a pad with a label. The word at an end point is no pad (R23). -/
def padTarget (s : State) (t : ThreadId) (a : Addr) (label : BitVec 12) : Did :=
  if s.endOf t = some a then .trap (Trap.controlFlow 1 (a.setWidth 64))
  else
    match s.fetchWord t a with
    | (_, .fault c) => .fault c (a.setWidth 64) 0
    | (_, .poisoned) => .trap (Trap.poisonFetch a)
    | (s1, .word w) =>
      match padLabel w with
      | none => .trap (Trap.controlFlow 1 (a.setWidth 64))
      | some l => if l = label then .goto s1 a else .trap (Trap.controlFlow 2 (a.setWidth 64))

/-- R90. -/
def execJmpr (t : Bool) (a : BitVec 6) (l : BitVec 12) (s : State) : Out :=
  issue (.jmpr t a l) s fun th s =>
    let x := s.getW th a.toNat
    if !inRange x then .trap (Trap.addressRange x)
    else if x.toNat % 4 ≠ 0 then .trap (Trap.misaligned x)
    else if l = 0xFFF then .goto s (x.setWidth 48)
    else padTarget s th (x.setWidth 48) l

/-- R91; the addresses of the header, the entries and the word after them are taken modulo 2^48 (DESIGN CHOICE:
assumption 60). -/
def execJmpt (t : Bool) (a : BitVec 6) (n : BitVec 12) (s : State) : Out :=
  issue (.jmpt t a n) s fun th s =>
    let pc := s.pcOf th
    match s.fetchWord th (pc + 4) with
    | (_, .fault c) => .fault c ((pc + 4).setWidth 64) 0
    | (_, .poisoned) => .trap (Trap.poisonFetch (pc + 4))
    | (s1, .word h) =>
      let x := s1.getW th a.toNat
      if h.toNat / 2 ^ 12 ≠ 0 ∨ h.toNat % 2 ^ 12 = 0xFFF then .trap (Trap.controlFlow 3 ((pc + 4).setWidth 64))
      else if n.toNat ≤ x.toNat then .goto s1 (pc + 8 + 4 * n.setWidth 48)
      else
        let at_ := pc + 8 + 4 * x.setWidth 48
        match s1.fetchWord th at_ with
        | (_, .fault c) => .fault c (at_.setWidth 64) 0
        | (_, .poisoned) => .trap (Trap.poisonFetch at_)
        | (s2, .word e) =>
          let tgt := pc.setWidth 64 + e.signExtend 64 * 4
          if !inRange tgt then .trap (Trap.addressRange tgt) else padTarget s2 th (tgt.setWidth 48) (h.setWidth 12)

/-- R89. -/
def execLpad (t : Bool) (l : BitVec 12) (s : State) : Out := issue (.lpad t l) s fun _ s => .done s

/-- R32, R33: the prefix looks at the word after it, which must be one that it may precede; the two are one unit. -/
def execImmx (imm : BitVec 25) (s : State) : Out :=
  issue (.immx imm) s fun th s =>
    let pc := s.pcOf th
    match s.fetchWord th (pc + 4) with
    | (_, .fault c) => .fault c ((pc + 4).setWidth 64) 0
    | (_, .poisoned) => .trap (Trap.poisonFetch (pc + 4))
    | (s1, .word w) =>
      match decode w with
      | .ok i => if (shape i).wide then .unit { s1.setPc th (pc + 4) with pfx := some imm } else .trap Trap.illegal
      | .error _ => .trap Trap.illegal

end Sys2Proof.Machine
end

