-- ==== Sys2Proof/Machine/UniFloat.lean ====
section
/-! DEFINITION. The floating-point words of the uniform set (R79 to R83). -/

namespace Sys2Proof.Machine

/-- R79: the format of a precision bit. -/
def uniFmt (p : Bool) : Fmt := if p then fp64 else fp32

/-- R79: a register's pattern: all 64 bits, or bits [31:0]. -/
def uniPattern (p : Bool) (x : W64) : Nat := if p then x.toNat else x.toNat % 2 ^ 32

/-- Operand B: an immediate is converted exactly to the precision (R79). -/
def State.uniFloatOperand (s : State) (t : ThreadId) (p : Bool) (b : BitVec 6) (bs : BitVec 2) : Nat :=
  if bs = 2 then ((uniFmt p).ofInt .rne false b.toInt).1 else uniPattern p (s.uniOperand t b bs)

/-- A floating-point result written to `w[d]`, or the trap of an enabled exception (R68). -/
def State.uniFloat (s : State) (t : ThreadId) (d : BitVec 6) (x : W64 × Flags) : Did :=
  if (s.uni t).enabled x.2 then .trap (Trap.floating x.2 0) else .done ((s.putW t d.toNat x.1).raiseFlags t x.2)

/-- A pattern and its flags as a register value. -/
def uniValue (x : Nat × Flags) : W64 × Flags := (BitVec.ofNat 64 x.1, x.2)

/-- A UA floating-point word of two operands. -/
def State.uniFloatBin (s : State) (t : ThreadId) (d a b : BitVec 6) (bs : BitVec 2) (p : Bool) (r : BitVec 3)
    (f : Fmt → Rm → Bool → Nat → Nat → Nat × Flags) : Did :=
  let u := s.uni t
  s.uniFloat t d (uniValue (f (uniFmt p) (u.rounding r.toNat) u.ftz (uniPattern p (s.getW t a.toNat))
    (s.uniFloatOperand t p b bs)))

/-- R80. -/
def execUfadd (t : Bool) (d a b : BitVec 6) (bs : BitVec 2) (p : Bool) (r : BitVec 3) (s : State) : Out :=
  issue (.ufadd t d a b bs p r) s fun th s => s.uniFloatBin th d a b bs p r Fmt.addF

/-- R80. -/
def execUfsub (t : Bool) (d a b : BitVec 6) (bs : BitVec 2) (p : Bool) (r : BitVec 3) (s : State) : Out :=
  issue (.ufsub t d a b bs p r) s fun th s => s.uniFloatBin th d a b bs p r Fmt.subF

/-- R80. -/
def execUfmul (t : Bool) (d a b : BitVec 6) (bs : BitVec 2) (p : Bool) (r : BitVec 3) (s : State) : Out :=
  issue (.ufmul t d a b bs p r) s fun th s => s.uniFloatBin th d a b bs p r Fmt.mulF

/-- R80: a × b + d with one rounding. -/
def execUffma (t : Bool) (d a b : BitVec 6) (bs : BitVec 2) (p : Bool) (r : BitVec 3) (s : State) : Out :=
  issue (.uffma t d a b bs p r) s fun th s =>
    s.uniFloatBin th d a b bs p r fun f rm ftz x y => f.fmaF rm ftz x y (uniPattern p (s.getW th d.toNat))

/-- R80. -/
def execUfdiv (t : Bool) (d a b : BitVec 6) (bs : BitVec 2) (p : Bool) (r : BitVec 3) (s : State) : Out :=
  issue (.ufdiv t d a b bs p r) s fun th s => s.uniFloatBin th d a b bs p r Fmt.divF

/-- R81: the function codes. -/
def Fmt.unary (f : Fmt) (code : Nat) (rm : Rm) (ftz : Bool) (x : Nat) : Nat × Flags :=
  match code with
  | 0 => f.sqrtF rm ftz x
  | 1 => (x % f.signWeight, Flags.none)
  | 2 => ((x + f.signWeight) % (2 * f.signWeight), Flags.none)
  | 3 => f.integral .floor ftz x
  | 4 => f.integral .ceil ftz x
  | 5 => f.integral .trunc ftz x
  | 6 => f.integral (.rint rm) ftz x
  | 7 => f.divF rm ftz (f.ofInt .rne false 1).1 x
  | _ => (f.classify x, Flags.none)

/-- R81. -/
def execUfun (t : Bool) (d a f : BitVec 6) (p : Bool) (r : BitVec 3) (s : State) : Out :=
  issue (.ufun t d a f p r) s fun th s =>
    let u := s.uni th
    s.uniFloat th d (uniValue ((uniFmt p).unary f.toNat (u.rounding r.toNat) u.ftz (uniPattern p (s.getW th a.toNat))))

/-- R82: with NVE set, Invalid traps and leaves the predicate. -/
def execUfcmp (t : Bool) (k : BitVec 3) (a b : BitVec 6) (bs : BitVec 2) (p : Bool) (c : BitVec 3) (s : State) : Out :=
  issue (.ufcmp t k a b bs p c) s fun th s =>
    let u := s.uni th
    let x := (uniFmt p).cond u.ftz c.toNat (uniPattern p (s.getW th a.toNat)) (s.uniFloatOperand th p b bs)
    if u.enabled x.2 then .trap (Trap.floating x.2 0) else .done ((s.putK th k.toNat x.1).raiseFlags th x.2)

/-- An integer result, sign-extended to a register. -/
def intValue (x : Int × Flags) : W64 × Flags := (BitVec.ofInt 64 x.1, x.2)

/-- R83: the conversions. -/
def uniConvert (code : Nat) (rm : Rm) (ftz : Bool) (a : W64) : W64 × Flags :=
  let word := a.setWidth 32
  match code with
  | 0 => uniValue (fp32.convert rm ftz false (fp64.read ftz a.toNat))
  | 1 => uniValue (fp64.convert rm ftz false (fp32.read ftz word.toNat))
  | 2 => intValue (toInt rm (-2 ^ 63) (2 ^ 63 - 1) (fp64.read ftz a.toNat))
  | 3 => intValue (toInt rm 0 (2 ^ 64 - 1) (fp64.read ftz a.toNat))
  | 4 => uniValue (fp64.ofInt rm ftz a.toInt)
  | 5 => uniValue (fp64.ofInt rm ftz a.toNat)
  | 6 => intValue (toInt rm (-2 ^ 31) (2 ^ 31 - 1) (fp32.read ftz word.toNat))
  | 7 => uniValue (fp32.ofInt rm ftz word.toInt)
  | 8 => intValue (toInt rm (-2 ^ 31) (2 ^ 31 - 1) (fp64.read ftz a.toNat))
  | _ => uniValue (fp64.ofInt rm ftz word.toInt)

/-- R83. -/
def execUfcvt (t : Bool) (d a f : BitVec 6) (r : BitVec 3) (s : State) : Out :=
  issue (.ufcvt t d a f r) s fun th s =>
    let u := s.uni th
    s.uniFloat th d (uniConvert f.toNat (u.rounding r.toNat) u.ftz (s.getW th a.toNat))

end Sys2Proof.Machine
end

