-- ==== Sys2Proof/Machine/UniInt.lean ====
section
/-! DEFINITION. The integer words of the uniform set (R71 to R78). -/

namespace Sys2Proof.Machine

/-- R71: an operation on 64 bits, or on the low 32 with the result sign-extended. -/
def onWord (w : Bool) (f : {n : Nat} → BitVec n → BitVec n → BitVec n) (a b : W64) : W64 :=
  if w then (f (a.setWidth 32) (b.setWidth 32)).signExtend 64 else f a b

/-- A UA word of one result (R71). -/
def State.uniBin (s : State) (t : ThreadId) (d a b : BitVec 6) (bs : BitVec 2) (f : W64 → W64 → W64) : State :=
  s.putW t d.toNat (f (s.getW t a.toNat) (s.uniOperand t b bs))

/-- A UI word of one result (R78). -/
def State.uniUn (s : State) (t : ThreadId) (d a : BitVec 6) (f : W64 → W64) : State :=
  s.putW t d.toNat (f (s.getW t a.toNat))

/-- R73: `Sat(e, INTn)` or `Sat(e, UINTn)` of an exact sum or difference, and whether it clamped. -/
def satTo (n : Nat) (signed : Bool) (e : Int) : BitVec n × Bool :=
  let y := if signed then clampInt (-2 ^ (n - 1)) (2 ^ (n - 1) - 1) e else clampInt 0 (2 ^ n - 1) e
  (BitVec.ofInt n y, decide (y ≠ e))

/-- R73: the exact sum or difference of two n-bit values delivered as F says. -/
def sumForm {n : Nat} (f : Nat) (op : Int → Int → Int) (a b : BitVec n) : BitVec n × Bool :=
  if f = 1 then satTo n true (op a.toInt b.toInt)
  else if f = 2 then satTo n false (op a.toNat b.toNat)
  else (BitVec.ofInt n (op a.toInt b.toInt), false)

/-- R73: the result on 64 bits or on a word, and whether it was clamped. -/
def sumWord (w : Bool) (f : Nat) (op : Int → Int → Int) (a b : W64) : W64 × Bool :=
  if w then
    let r := sumForm f op (a.setWidth 32) (b.setWidth 32)
    (r.1.signExtend 64, r.2)
  else sumForm f op a b

/-- R73: write a sum and set SAT when it was clamped. -/
def State.uniSum (s : State) (t : ThreadId) (d a b : BitVec 6) (bs : BitVec 2) (w : Bool) (f : BitVec 3)
    (op : Int → Int → Int) : State :=
  let r := sumWord w f.toNat op (s.getW t a.toNat) (s.uniOperand t b bs)
  (s.putW t d.toNat r.1).raiseFlags t (satFlag r.2)

/-- R73. -/
def execUadd (t : Bool) (d a b : BitVec 6) (bs : BitVec 2) (w : Bool) (f : BitVec 3) (s : State) : Out :=
  issue (.uadd t d a b bs w f) s fun th s => .done (s.uniSum th d a b bs w f (· + ·))

/-- R73. -/
def execUsub (t : Bool) (d a b : BitVec 6) (bs : BitVec 2) (w : Bool) (f : BitVec 3) (s : State) : Out :=
  issue (.usub t d a b bs w f) s fun th s => .done (s.uniSum th d a b bs w f (· - ·))

/-- R72. -/
def execUmul (t : Bool) (d a b : BitVec 6) (bs : BitVec 2) (w : Bool) (s : State) : Out :=
  issue (.umul t d a b bs w) s fun th s => .done (s.uniBin th d a b bs (onWord w (· * ·)))

/-- Bits [2n−1:n] of the exact product (R72). -/
def highProduct (u : Bool) {n : Nat} (a b : BitVec n) : BitVec n :=
  if u then BitVec.ofNat n (a.toNat * b.toNat / 2 ^ n) else BitVec.ofInt n (a.toInt * b.toInt / 2 ^ n)

/-- R72. -/
def execUmulh (t : Bool) (d a b : BitVec 6) (bs : BitVec 2) (w u : Bool) (s : State) : Out :=
  issue (.umulh t d a b bs w u) s fun th s => .done (s.uniBin th d a b bs (onWord w (highProduct u)))

/-- R74: the quotient. -/
def quotient (u : Bool) {n : Nat} (a b : BitVec n) : BitVec n :=
  if b = 0 then BitVec.allOnes n
  else if u then a / b
  else BitVec.ofInt n (a.toInt.tdiv b.toInt)

/-- R74: the remainder. -/
def remainder (u : Bool) {n : Nat} (a b : BitVec n) : BitVec n :=
  if b = 0 then a
  else if u then a % b
  else BitVec.ofInt n (a.toInt.tmod b.toInt)

/-- R74. -/
def execUdiv (t : Bool) (d a b : BitVec 6) (bs : BitVec 2) (w u : Bool) (s : State) : Out :=
  issue (.udiv t d a b bs w u) s fun th s => .done (s.uniBin th d a b bs (onWord w (quotient u)))

/-- R74. -/
def execUrem (t : Bool) (d a b : BitVec 6) (bs : BitVec 2) (w u : Bool) (s : State) : Out :=
  issue (.urem t d a b bs w u) s fun th s => .done (s.uniBin th d a b bs (onWord w (remainder u)))

/-- R72. -/
def execUand (t : Bool) (d a b : BitVec 6) (bs : BitVec 2) (s : State) : Out :=
  issue (.uand t d a b bs) s fun th s => .done (s.uniBin th d a b bs (· &&& ·))

/-- R72. -/
def execUor (t : Bool) (d a b : BitVec 6) (bs : BitVec 2) (s : State) : Out :=
  issue (.uor t d a b bs) s fun th s => .done (s.uniBin th d a b bs (· ||| ·))

/-- R72. -/
def execUxor (t : Bool) (d a b : BitVec 6) (bs : BitVec 2) (s : State) : Out :=
  issue (.uxor t d a b bs) s fun th s => .done (s.uniBin th d a b bs (· ^^^ ·))

/-- R75: the amount of a shift on n bits: b modulo n. -/
def shiftLeft {n : Nat} (a b : BitVec n) : BitVec n := a <<< (b.toNat % n)

/-- R75. -/
def execUshl (t : Bool) (d a b : BitVec 6) (bs : BitVec 2) (w : Bool) (s : State) : Out :=
  issue (.ushl t d a b bs w) s fun th s => .done (s.uniBin th d a b bs (onWord w shiftLeft))

/-- R75. -/
def execUshr (t : Bool) (d a b : BitVec 6) (bs : BitVec 2) (w u : Bool) (s : State) : Out :=
  issue (.ushr t d a b bs w u) s fun th s =>
    .done (s.uniBin th d a b bs (onWord w fun {n} x y => shiftRight u x (y.toNat % n)))

/-- R72. -/
def execUmin (t : Bool) (d a b : BitVec 6) (bs : BitVec 2) (u : Bool) (s : State) : Out :=
  issue (.umin t d a b bs u) s fun th s => .done (s.uniBin th d a b bs (pickMin u))

/-- R72. -/
def execUmax (t : Bool) (d a b : BitVec 6) (bs : BitVec 2) (u : Bool) (s : State) : Out :=
  issue (.umax t d a b bs u) s fun th s => .done (s.uniBin th d a b bs (pickMax u))

/-- R76. -/
def execUcmp (t : Bool) (k : BitVec 3) (a b : BitVec 6) (bs : BitVec 2) (c : BitVec 4) (s : State) : Out :=
  issue (.ucmp t k a b bs c) s fun th s =>
    .done (s.putK th k.toNat (intCond c.toNat (s.getW th a.toNat) (s.uniOperand th b bs)))

/-- R72: `k[c] ? a : b`. -/
def execUsel (t : Bool) (d a b : BitVec 6) (bs : BitVec 2) (k : BitVec 3) (s : State) : Out :=
  issue (.usel t d a b bs k) s fun th s =>
    .done (s.uniBin th d a b bs fun x y => if (s.uni th).getK k.toNat then x else y)

/-- Trailing zeros of an n-bit value. -/
def ctz {n : Nat} (x : BitVec n) : Nat := clz (bitReverse x)

/-- Byte i moves to byte n/8 − 1 − i. -/
def byteSwap {n : Nat} (x : BitVec n) : BitVec n :=
  BitVec.ofNat n ((List.range (n / 8)).foldl (fun acc i => acc + x.toNat / 2 ^ (8 * i) % 256 * 2 ^ (n - 8 - 8 * i)) 0)

/-- R77: the functions on n bits, codes 0 to 7. -/
def uniUnary {n : Nat} (f : Nat) (a : BitVec n) : BitVec n :=
  match f with
  | 0 => ~~~a
  | 1 => -a
  | 2 => if a.msb then -a else a
  | 3 => BitVec.ofNat n (clz a)
  | 4 => BitVec.ofNat n (ctz a)
  | 5 => BitVec.ofNat n (popCount a)
  | 6 => bitReverse a
  | _ => byteSwap a

/-- R77: every function. -/
def unaryWord (f : Nat) (w : Bool) (a : W64) : W64 :=
  match f with
  | 8 => (a.setWidth 8).signExtend 64
  | 9 => (a.setWidth 16).signExtend 64
  | 10 => (a.setWidth 32).signExtend 64
  | 11 => (a.setWidth 8).setWidth 64
  | 12 => (a.setWidth 16).setWidth 64
  | 13 => (a.setWidth 32).setWidth 64
  | f => onWord w (fun x _ => uniUnary f x) a a

/-- R77. -/
def execUun (t : Bool) (d a f : BitVec 6) (w : Bool) (s : State) : Out :=
  issue (.uun t d a f w) s fun th s => .done (s.uniUn th d a (unaryWord f.toNat w))

/-- R78. -/
def execUaddi (t : Bool) (d a : BitVec 6) (imm : BitVec 12) (s : State) : Out :=
  issue (.uaddi t d a imm) s fun th s => .done (s.uniUn th d a (· + s.wideImm imm))

/-- R78. -/
def execUandi (t : Bool) (d a : BitVec 6) (imm : BitVec 12) (s : State) : Out :=
  issue (.uandi t d a imm) s fun th s => .done (s.uniUn th d a (· &&& s.wideImm imm))

/-- R78. -/
def execUori (t : Bool) (d a : BitVec 6) (imm : BitVec 12) (s : State) : Out :=
  issue (.uori t d a imm) s fun th s => .done (s.uniUn th d a (· ||| s.wideImm imm))

/-- R78. -/
def execUxori (t : Bool) (d a : BitVec 6) (imm : BitVec 12) (s : State) : Out :=
  issue (.uxori t d a imm) s fun th s => .done (s.uniUn th d a (· ^^^ s.wideImm imm))

/-- R78. -/
def execUshli (t : Bool) (d a imm : BitVec 6) (s : State) : Out :=
  issue (.ushli t d a imm) s fun th s => .done (s.uniUn th d a (· <<< imm.toNat))

/-- R78. -/
def execUshri (t : Bool) (d a : BitVec 6) (x : Bool) (imm : BitVec 6) (s : State) : Out :=
  issue (.ushri t d a x imm) s fun th s => .done (s.uniUn th d a fun y => shiftRight x y imm.toNat)

/-- R78. -/
def execUmovi (t : Bool) (d : BitVec 6) (imm : BitVec 18) (s : State) : Out :=
  issue (.umovi t d imm) s fun th s => .done (s.putW th d.toNat (s.wideImm imm))

/-- R78. -/
def execUcmpi (t : Bool) (k : BitVec 3) (a : BitVec 6) (c : BitVec 4) (imm : BitVec 8) (s : State) : Out :=
  issue (.ucmpi t k a c imm) s fun th s =>
    .done (s.putK th k.toNat (intCond c.toNat (s.getW th a.toNat) (s.wideImm imm)))

end Sys2Proof.Machine
end

