-- ==== Sys2Proof/Machine/Dispatch.lean ====
section
/-! DEFINITION. One arm per row of the opcode table: each calls the meaning of its instruction. -/

namespace Sys2Proof.Machine

def exec (i : Instr) (s : State) : Host.Outcome State Fault Refusal :=
  match i with
  | .add t d a b bs m => Sys2Proof.Machine.execAdd t d a b bs m s
  | .sub t d a b bs m => Sys2Proof.Machine.execSub t d a b bs m s
  | .mul t d a b bs => Sys2Proof.Machine.execMul t d a b bs s
  | .mulhi t d a b bs m => Sys2Proof.Machine.execMulhi t d a b bs m s
  | .imad t d a b bs => Sys2Proof.Machine.execImad t d a b bs s
  | .and t d a b bs => Sys2Proof.Machine.execAnd t d a b bs s
  | .or t d a b bs => Sys2Proof.Machine.execOr t d a b bs s
  | .xor t d a b bs => Sys2Proof.Machine.execXor t d a b bs s
  | .shl t d a b bs => Sys2Proof.Machine.execShl t d a b bs s
  | .shr t d a b bs m => Sys2Proof.Machine.execShr t d a b bs m s
  | .min t d a b bs m => Sys2Proof.Machine.execMin t d a b bs m s
  | .max t d a b bs m => Sys2Proof.Machine.execMax t d a b bs m s
  | .icmp t c p a b bs => Sys2Proof.Machine.execIcmp t c p a b bs s
  | .sel t d a b p => Sys2Proof.Machine.execSel t d a b p s
  | .bfx t d a b bs => Sys2Proof.Machine.execBfx t d a b bs s
  | .bfi t d a b bs => Sys2Proof.Machine.execBfi t d a b bs s
  | .iun t d a f m => Sys2Proof.Machine.execIun t d a f m s
  | .addi t d a imm => Sys2Proof.Machine.execAddi t d a imm s
  | .andi t d a imm => Sys2Proof.Machine.execAndi t d a imm s
  | .ori t d a imm => Sys2Proof.Machine.execOri t d a imm s
  | .xori t d a imm => Sys2Proof.Machine.execXori t d a imm s
  | .shli t d a imm => Sys2Proof.Machine.execShli t d a imm s
  | .shri t d a x imm => Sys2Proof.Machine.execShri t d a x imm s
  | .movi t d imm => Sys2Proof.Machine.execMovi t d imm s
  | .icmpi t c p a imm => Sys2Proof.Machine.execIcmpi t c p a imm s
  | .fadd t d a b bs => Sys2Proof.Machine.execFadd t d a b bs s
  | .fsub t d a b bs => Sys2Proof.Machine.execFsub t d a b bs s
  | .fmul t d a b bs => Sys2Proof.Machine.execFmul t d a b bs s
  | .ffma t d a b bs => Sys2Proof.Machine.execFfma t d a b bs s
  | .fmin t d a b bs => Sys2Proof.Machine.execFmin t d a b bs s
  | .fmax t d a b bs => Sys2Proof.Machine.execFmax t d a b bs s
  | .fcmp t c p a b bs => Sys2Proof.Machine.execFcmp t c p a b bs s
  | .sfu t d a f => Sys2Proof.Machine.execSfu t d a f s
  | .cvt t d a k r m => Sys2Proof.Machine.execCvt t d a k r m s
  | .hadd2 t d a b bs m => Sys2Proof.Machine.execHadd2 t d a b bs m s
  | .hmul2 t d a b bs m => Sys2Proof.Machine.execHmul2 t d a b bs m s
  | .hfma2 t d a b bs m => Sys2Proof.Machine.execHfma2 t d a b bs m s
  | .shflPick t d a b bs => Sys2Proof.Machine.execShflPick t d a b bs s
  | .shflSwap t d a b bs => Sys2Proof.Machine.execShflSwap t d a b bs s
  | .shflBack t d a b bs => Sys2Proof.Machine.execShflBack t d a b bs s
  | .shflFwd t d a b bs => Sys2Proof.Machine.execShflFwd t d a b bs s
  | .vote t d a f m => Sys2Proof.Machine.execVote t d a f m s
  | .redux t d a f => Sys2Proof.Machine.execRedux t d a f s
  | .contribution t j a f => Sys2Proof.Machine.execContribution t j a f s
  | .scan t d a f m => Sys2Proof.Machine.execScan t d a f m s
  | .cmpx t d a k j m => Sys2Proof.Machine.execCmpx t d a k j m s
  | .jpt o => Sys2Proof.Machine.execJpt o s
  | .brd p n o => Sys2Proof.Machine.execBrd p n o s
  | .regang t imm => Sys2Proof.Machine.execRegang t imm s
  | .exit p n => Sys2Proof.Machine.execExit p n s
  | .bar t y k n => Sys2Proof.Machine.execBar t y k n s
  | .ld t d a w z o => Sys2Proof.Machine.execLd t d a w z o s
  | .st t d a w z o => Sys2Proof.Machine.execSt t d a w z o s
  | .lds t d a w z => Sys2Proof.Machine.execLds t d a w z s
  | .sts t d a w z => Sys2Proof.Machine.execSts t d a w z s
  | .ldp t d a w z => Sys2Proof.Machine.execLdp t d a w z s
  | .stp t d a w z => Sys2Proof.Machine.execStp t d a w z s
  | .atom t d a w c => Sys2Proof.Machine.execAtom t d a w c s
  | .red t d a w c => Sys2Proof.Machine.execRed t d a w c s
  | .xst t d a w z => Sys2Proof.Machine.execXst t d a w z s
  | .svc t imm => Sys2Proof.Machine.execSvc t imm s
  | .uadd t d a b bs w f => Sys2Proof.Machine.execUadd t d a b bs w f s
  | .usub t d a b bs w f => Sys2Proof.Machine.execUsub t d a b bs w f s
  | .umul t d a b bs w => Sys2Proof.Machine.execUmul t d a b bs w s
  | .umulh t d a b bs w u => Sys2Proof.Machine.execUmulh t d a b bs w u s
  | .udiv t d a b bs w u => Sys2Proof.Machine.execUdiv t d a b bs w u s
  | .urem t d a b bs w u => Sys2Proof.Machine.execUrem t d a b bs w u s
  | .uand t d a b bs => Sys2Proof.Machine.execUand t d a b bs s
  | .uor t d a b bs => Sys2Proof.Machine.execUor t d a b bs s
  | .uxor t d a b bs => Sys2Proof.Machine.execUxor t d a b bs s
  | .ushl t d a b bs w => Sys2Proof.Machine.execUshl t d a b bs w s
  | .ushr t d a b bs w u => Sys2Proof.Machine.execUshr t d a b bs w u s
  | .umin t d a b bs u => Sys2Proof.Machine.execUmin t d a b bs u s
  | .umax t d a b bs u => Sys2Proof.Machine.execUmax t d a b bs u s
  | .ucmp t k a b bs c => Sys2Proof.Machine.execUcmp t k a b bs c s
  | .usel t d a b bs k => Sys2Proof.Machine.execUsel t d a b bs k s
  | .uun t d a f w => Sys2Proof.Machine.execUun t d a f w s
  | .uaddi t d a imm => Sys2Proof.Machine.execUaddi t d a imm s
  | .uandi t d a imm => Sys2Proof.Machine.execUandi t d a imm s
  | .uori t d a imm => Sys2Proof.Machine.execUori t d a imm s
  | .uxori t d a imm => Sys2Proof.Machine.execUxori t d a imm s
  | .ushli t d a imm => Sys2Proof.Machine.execUshli t d a imm s
  | .ushri t d a x imm => Sys2Proof.Machine.execUshri t d a x imm s
  | .umovi t d imm => Sys2Proof.Machine.execUmovi t d imm s
  | .ucmpi t k a c imm => Sys2Proof.Machine.execUcmpi t k a c imm s
  | .ufadd t d a b bs p r => Sys2Proof.Machine.execUfadd t d a b bs p r s
  | .ufsub t d a b bs p r => Sys2Proof.Machine.execUfsub t d a b bs p r s
  | .ufmul t d a b bs p r => Sys2Proof.Machine.execUfmul t d a b bs p r s
  | .uffma t d a b bs p r => Sys2Proof.Machine.execUffma t d a b bs p r s
  | .ufdiv t d a b bs p r => Sys2Proof.Machine.execUfdiv t d a b bs p r s
  | .ufun t d a f p r => Sys2Proof.Machine.execUfun t d a f p r s
  | .ufcmp t k a b bs p c => Sys2Proof.Machine.execUfcmp t k a b bs p c s
  | .ufcvt t d a f r => Sys2Proof.Machine.execUfcvt t d a f r s
  | .uld t d a o z q => Sys2Proof.Machine.execUld t d a o z q s
  | .ust t d a o z q => Sys2Proof.Machine.execUst t d a o z q s
  | .uamo t d a b c q => Sys2Proof.Machine.execUamo t d a b c q s
  | .fence t y sc k => Sys2Proof.Machine.execFence t y sc k s
  | .cache t a f => Sys2Proof.Machine.execCache t a f s
  | .jwr t d a m c => Sys2Proof.Machine.execJwr t d a m c s
  | .jrd t d a => Sys2Proof.Machine.execJrd t d a s
  | .jrel t a => Sys2Proof.Machine.execJrel t a s
  | .bra k n o => Sys2Proof.Machine.execBra k n o s
  | .call o => Sys2Proof.Machine.execCall o s
  | .jmpr t a l => Sys2Proof.Machine.execJmpr t a l s
  | .jmpt t a n => Sys2Proof.Machine.execJmpt t a n s
  | .lpad t l => Sys2Proof.Machine.execLpad t l s
  | .spawn t d a imm g c v => Sys2Proof.Machine.execSpawn t d a imm g c v s
  | .join t d a b => Sys2Proof.Machine.execJoin t d a b s
  | .sr t d a n => Sys2Proof.Machine.execSr t d a n s
  | .cpy t a y x => Sys2Proof.Machine.execCpy t a y x s
  | .gather t a y x => Sys2Proof.Machine.execGather t a y x s
  | .binscat t a x => Sys2Proof.Machine.execBinscat t a x s
  | .bclose t d => Sys2Proof.Machine.execBclose t d s
  | .mwld t d a l sf f => Sys2Proof.Machine.execMwld t d a l sf f s
  | .mma t d a r z sf f => Sys2Proof.Machine.execMma t d a r z sf f s
  | .maccZero t d => Sys2Proof.Machine.execMaccZero t d s
  | .maccLoad t d a => Sys2Proof.Machine.execMaccLoad t d a s
  | .maccStore t d a c => Sys2Proof.Machine.execMaccStore t d a c s
  | .maccAdd t d b => Sys2Proof.Machine.execMaccAdd t d b s
  | .maccScale t d a => Sys2Proof.Machine.execMaccScale t d a s
  | .maccRow t d a => Sys2Proof.Machine.execMaccRow t d a s
  | .maccClear t => Sys2Proof.Machine.execMaccClear t s
  | .mopfence t => Sys2Proof.Machine.execMopfence t s
  | .cbload t d a => Sys2Proof.Machine.execCbload t d a s
  | .meet t d a b c v o => Sys2Proof.Machine.execMeet t d a b c v o s
  | .ltagAlloc t d => Sys2Proof.Machine.execLtagAlloc t d s
  | .ltagFree t a => Sys2Proof.Machine.execLtagFree t a s
  | .strmOpen t d a => Sys2Proof.Machine.execStrmOpen t d a s
  | .strmStep t d a => Sys2Proof.Machine.execStrmStep t d a s
  | .strmScan t d a => Sys2Proof.Machine.execStrmScan t d a s
  | .strmSave t d a h => Sys2Proof.Machine.execStrmSave t d a h s
  | .strmLoad t d a => Sys2Proof.Machine.execStrmLoad t d a s
  | .strmClose t d a => Sys2Proof.Machine.execStrmClose t d a s
  | .strmQuery t d a q => Sys2Proof.Machine.execStrmQuery t d a q s
  | .xexp t a => Sys2Proof.Machine.execXexp t a s
  | .xbar t => Sys2Proof.Machine.execXbar t s
  | .xstat t d => Sys2Proof.Machine.execXstat t d s
  | .hailSend t d a => Sys2Proof.Machine.execHailSend t d a s
  | .hailMask t d a => Sys2Proof.Machine.execHailMask t d a s
  | .hailTake t d a => Sys2Proof.Machine.execHailTake t d a s
  | .hailRet t => Sys2Proof.Machine.execHailRet t s
  | .hailPend t d a => Sys2Proof.Machine.execHailPend t d a s
  | .hailPerm t d a => Sys2Proof.Machine.execHailPerm t d a s
  | .sysTrap t n => Sys2Proof.Machine.execSysTrap t n s
  | .sysSvc t n => Sys2Proof.Machine.execSysSvc t n s
  | .sysEret t a => Sys2Proof.Machine.execSysEret t a s
  | .sysBkpt t n => Sys2Proof.Machine.execSysBkpt t n s
  | .sysYield t => Sys2Proof.Machine.execSysYield t s
  | .sysWaiti t d a => Sys2Proof.Machine.execSysWaiti t d a s
  | .sysHalt t d a => Sys2Proof.Machine.execSysHalt t d a s
  | .sysVdist t d a b => Sys2Proof.Machine.execSysVdist t d a b s
  | .sysVdie t d a => Sys2Proof.Machine.execSysVdie t d a s
  | .sysFmap t d a => Sys2Proof.Machine.execSysFmap t d a s
  | .sysFretry t d a => Sys2Proof.Machine.execSysFretry t d a s
  | .sysFskip t d a => Sys2Proof.Machine.execSysFskip t d a s
  | .sysFabort t d a => Sys2Proof.Machine.execSysFabort t d a s
  | .sysCtxsw t d a => Sys2Proof.Machine.execSysCtxsw t d a s
  | .sysCtxld t d a => Sys2Proof.Machine.execSysCtxld t d a s
  | .sysCodefence t => Sys2Proof.Machine.execSysCodefence t s
  | .immx imm => Sys2Proof.Machine.execImmx imm s
  | .fpctlReseed v => Sys2Proof.Machine.execFpctlReseed v s
  | .tlbinvPage part vpn asid => Sys2Proof.Machine.execTlbinvPage part vpn asid s
  | .tlbinvAllpages part asid => Sys2Proof.Machine.execTlbinvAllpages part asid s
  | .tlbinvAllasid part => Sys2Proof.Machine.execTlbinvAllasid part s
  | .ctxreqRequest part ctx => Sys2Proof.Machine.execCtxreqRequest part ctx s
  | .ctxreqNow part ctx => Sys2Proof.Machine.execCtxreqNow part ctx s
  | .ctxreqDestroy part ctx => Sys2Proof.Machine.execCtxreqDestroy part ctx s
  | .noticePop part d => Sys2Proof.Machine.execNoticePop part d s
  | .pwrctlPoint point => Sys2Proof.Machine.execPwrctlPoint point s
  | .pwrctlGate gate => Sys2Proof.Machine.execPwrctlGate gate s
  | .registerWrite n v => Sys2Proof.Machine.execRegisterWrite n v s
  | .gateTest grid => Sys2Proof.Machine.execGateTest grid s
  | .placementStep part => Sys2Proof.Machine.execPlacementStep part s
  | .groupRetire group => Sys2Proof.Machine.execGroupRetire group s
  | .gridEnd grid => Sys2Proof.Machine.execGridEnd grid s
  | .loadReply req => Sys2Proof.Machine.execLoadReply req s
  | .sliceAtomic req => Sys2Proof.Machine.execSliceAtomic req s
  | .dirtyWriteback cpt sector => Sys2Proof.Machine.execDirtyWriteback cpt sector s
  | .streamBufferFlush cluster line => Sys2Proof.Machine.execStreamBufferFlush cluster line s
  | .accumulatorRotate cpt => Sys2Proof.Machine.execAccumulatorRotate cpt s
  | .xstoreDelivery src dst => Sys2Proof.Machine.execXstoreDelivery src dst s
  | .cpyCollectiveStart team => Sys2Proof.Machine.execCpyCollectiveStart team s
  | .gatherRun cmd => Sys2Proof.Machine.execGatherRun cmd s
  | .binscatRun cmd => Sys2Proof.Machine.execBinscatRun cmd s
  | .batchComplete group batch => Sys2Proof.Machine.execBatchComplete group batch s
  | .weightLoad team quad => Sys2Proof.Machine.execWeightLoad team quad s
  | .mmaTurn group => Sys2Proof.Machine.execMmaTurn group s
  | .maccTurn group => Sys2Proof.Machine.execMaccTurn group s
  | .cbloadTurn group => Sys2Proof.Machine.execCbloadTurn group s
  | .meetTurn group => Sys2Proof.Machine.execMeetTurn group s
  | .landingArrival part index => Sys2Proof.Machine.execLandingArrival part index s
  | .landingTimeout part index => Sys2Proof.Machine.execLandingTimeout part index s
  | .strmTurn cmd => Sys2Proof.Machine.execStrmTurn cmd s
  | .hailAccept part ctx => Sys2Proof.Machine.execHailAccept part ctx s
  | .hostHailMessage func size msg => Sys2Proof.Machine.execHostHailMessage func size msg s
  | .unpark group => Sys2Proof.Machine.execUnpark group s
  | .preemptDeadline part ctx => Sys2Proof.Machine.execPreemptDeadline part ctx s
  | .contextSave part ctx => Sys2Proof.Machine.execContextSave part ctx s
  | .contextRestore part ctx => Sys2Proof.Machine.execContextRestore part ctx s
  | .functionSwitch part func => Sys2Proof.Machine.execFunctionSwitch part func s
  | .serviceImageLoad part entry => Sys2Proof.Machine.execServiceImageLoad part entry s
  | .borderChange part base logk deadline pagesMigrated => Sys2Proof.Machine.execBorderChange part base logk deadline pagesMigrated s
  | .borderDeadline part => Sys2Proof.Machine.execBorderDeadline part s
  | .partitionWindowEnd short rich base logk => Sys2Proof.Machine.execPartitionWindowEnd short rich base logk s
  | .securityAlarm die tamper => Sys2Proof.Machine.execSecurityAlarm die tamper s
  | .flitReceive link hdr ack payload crc => Sys2Proof.Machine.execFlitReceive link hdr ack payload crc s
  | .replayTimeout link => Sys2Proof.Machine.execReplayTimeout link s
  | .linkRetrain link lowHalf highHalf => Sys2Proof.Machine.execLinkRetrain link lowHalf highHalf s
  | .requestResend port num => Sys2Proof.Machine.execRequestResend port num s
  | .peerAccess port num place kind size v => Sys2Proof.Machine.execPeerAccess port num place kind size v s
  | .hostSnoop line inval => Sys2Proof.Machine.execHostSnoop line inval s
  | .hostMemAccess addr size write v => Sys2Proof.Machine.execHostMemAccess addr size write v s
  | .pointChangeDone => Sys2Proof.Machine.execPointChangeDone s
  | .diePowerOff die => Sys2Proof.Machine.execDiePowerOff die s
  | .ungateDone die => Sys2Proof.Machine.execUngateDone die s
  | .thermalStep tj => Sys2Proof.Machine.execThermalStep tj s
  | .thermalTrip tj => Sys2Proof.Machine.execThermalTrip tj s
  | .powerUp digest verified => Sys2Proof.Machine.execPowerUp digest verified s
  | .dieTrained base die ok => Sys2Proof.Machine.execDieTrained base die ok s
  | .mctpMessage kind v => Sys2Proof.Machine.execMctpMessage kind v s
  | .waitiTimeReached th => Sys2Proof.Machine.execWaitiTimeReached th s
  | .packagePortTraining port up narrow peer => Sys2Proof.Machine.execPackagePortTraining port up narrow peer s
  | .cxlPortTraining port rate width => Sys2Proof.Machine.execCxlPortTraining port rate width s
  | .backInvalidationResponse line => Sys2Proof.Machine.execBackInvalidationResponse line s
  | .bar0RegisterWrite place v => Sys2Proof.Machine.execBar0RegisterWrite place v s
  | .partitionCreation part base logk key => Sys2Proof.Machine.execPartitionCreation part base logk key s

end Sys2Proof.Machine
end

