-- ==== Sys2Proof/Machine/Errors.lean ====
section
/-! DEFINITION. Soft errors (R372): what is corrected and counted, what is poisoned and counted. -/

namespace Sys2Proof.Machine

/-- R372: a structure that only parity protects: its entry is fetched, walked or recalled again. -/
def ErrorPlace.parity : ErrorPlace → Bool
  | .code _ | .walk _ | .home _ => true
  | .memory _ | .cached _ _ | .landing _ _ | .pool _ _ | .farBank _ _ | .laneReg _ _ _ | .tile _ _ => false

/-- A count of `sr.ERRCNT` goes up, saturating. -/
def countUp (x : W32) : W32 := if x = BitVec.allOnes 32 then x else x + 1

/-- R372: a partition counts an error. -/
def Part.countError (p : Part) (corrected : Bool) : Part :=
  if corrected then { p with corr := countUp p.corr } else { p with uncorr := countUp p.uncorr }

/-- The mark of a 64-byte piece of the far bank. -/
def Team.markFar (x : Team) (offset : Nat) : Team :=
  { x with spadPoison := x.spadPoison.put 0 ((3 - x.nearId) * 2 ^ 20 + offset / 64) (BitVec.allOnes 64) }

/-- R310: uncorrectable data marks its tile, its landing, its piece of a pool, its lane of a register or its 64-byte sector poisoned; a sector of an
L1 leaves it, and the mark is kept where HBM keeps it (assumption 63). -/
def State.poisonAt (s : State) : ErrorPlace → State
  | .memory pa => s.setBad pa true
  | .cached cpt pa =>
    (s.evictSector cpt (pa / 64 * 64)).setBad pa true
  | .landing part tag => s.modPart part fun p =>
      match p.landings.find? tag with
      | some x => { p with landings := p.landings.insert tag { x with poison := true } }
      | none => p
  | .pool team offset => if (s.teams.find? team).isSome then s.setPoolBad team offset true else s
  | .farBank team offset =>
    if (s.teams.find? team).isSome then s.setTeam team (s.team team |>.markFar offset) else s
  | .laneReg group reg lane =>
    if (s.groups.find? group).isSome ∧ reg < 128 ∧ lane < 32 then
      s.setGroup group { s.group group with vPoison := setBit (s.group group).vPoison (32 * reg + lane) true }
    else s
  | .tile team num =>
    if (s.teams.find? team).isSome then s.setTile team num { s.tile team num with poison := true } else s
  | .code _ | .walk _ | .home _ => s

/-- R372: an entry that parity finds wrong is dropped: it is refetched, rewalked or recalled. -/
def State.dropEntry (s : State) : ErrorPlace → State
  | .code key => { s with icache := s.icache.erase key }
  | .walk key => { s with tlb := s.tlb.erase key }
  | .home line => s.recall line
  | .memory _ | .cached _ _ | .landing _ _ | .pool _ _ | .farBank _ _ | .laneReg _ _ _ | .tile _ _ => s

/-- R372: a soft error. -/
def State.softError (s : State) (part : Nat) (place : ErrorPlace) (corrected : Bool) : State :=
  let fixed := corrected || place.parity
  let s1 := s.modPart part fun p => p.countError fixed
  if place.parity then s1.dropEntry place else if corrected then s1 else s1.poisonAt place

end Sys2Proof.Machine
end

