-- ==== Sys2Proof/Machine/Schedule.lean ====
section
/-! DEFINITION. Fetching and issuing a thread's next word (R13, R14, R49, R149), the issue slot of a group scheduler (R163,
R164), the passing of time up to the next deadline, and the turns of the agenda (assumption 1). -/

namespace Sys2Proof.Machine

/-- What the turn of a thread comes to before its word executes: the word, or the state where none does. -/
inductive Ready where
  | run (i : Instr) (s : State)
  | stop (s : State)

/-- R149: the check before a word, on a prefix and its word once (R33; assumption 53); R344: an image that takes over. -/
def State.meetWord (s : State) (t : ThreadId) : State :=
  match t with
  | .gang g k => if s.pfx.isSome then s else s.reconvergeGang g k
  | .service p => s.handImage p
  | _ => s

/-- R149 and the fetch: the word the thread issues next. An undecodable word is an Illegal Instruction (R49); a fetch that
faults is a fault of the word (R180), reported with an empty instruction. A held word has not begun (R153, R233), so it takes
neither trap. A fetch of a line that the host may hold waits (R367). -/
def State.prepare (s : State) (t : ThreadId) : Ready :=
  if s.runnable t then
    let s1 := { s with cur := t }.meetWord t
    if s1.runnable t then
      let pc := s1.pcOf t
      match s1.snoopHost (s1.fetchLines t pc) with
      | some s2 => .stop ((s2.unbegun s2.wordPc).setWaiting t true)
      | none =>
      let stop := fun (s2 after : State) => if s1.held t then .stop ((s2.unbegun s2.wordPc).setWaiting t true) else .stop after
      match s1.fetchWord t pc with
      | (s2, .fault c) => stop s2 (settle (.lpad false 0) s2 (.fault c (pc.setWidth 64) 0))
      | (s2, .poisoned) => stop s2 (s2.takeTrap t { kind := 0x16, addr := pc.setWidth 64 } pc pc 0)
      | (s2, .word w) =>
        match decode w with
        | .ok i => .run i s2
        | .error _ => stop s2 ((s2.unbegun s2.wordPc).takeTrap t Trap.illegal s2.wordPc s2.wordPc w)
    else .stop s1
  else .stop s

/-- One word of a thread. -/
def State.runThread (s : State) (t : ThreadId) : Out :=
  match s.prepare t with
  | .run i s' => exec i s'
  | .stop s' => .next s'

/-- The thread's last turn left its word waiting. -/
def State.isWaiting (s : State) (t : ThreadId) : Bool :=
  match t with
  | .gang g k => (s.group g).slices.any fun sl => sl.inGang k && sl.waiting
  | t => (s.scalar t).waiting

/-- A word that has waited in its turn has begun what it waits for: a fault record (R302), a place among the takers of a hail
(R325), a call (R306), a snoop of the host (R367). -/
def State.hasBegun (s s' : State) (t : ThreadId) : Bool :=
  (s'.onRecord t && !s.onRecord t) || s'.biWait != s.biWait ||
    match t with
    | .gang g _ => (s'.group g).mode != (s.group g).mode || ((s'.group g).takeAt.isSome && (s.group g).takeAt.isNone)
    | _ => false

/-- The next word of a thread with its prefix, which are one unit (R33). -/
def State.runUnit (s : State) (t : ThreadId) : Out :=
  match s.runThread t with
  | .next s' => if s'.pfx.isSome then s'.runThread t else .next s'
  | o => o

/-- R164: the gang would issue its next word. -/
def State.readyGang (s : State) (t : ThreadId) : Bool :=
  s.runnable t &&
    match s.runUnit t with
    | .next s' => !s'.isWaiting t || s.hasBegun s' t
    | _ => false

/-- The word a thread would fetch at an address decodes to a lane word. -/
def State.laneAt (s : State) (t : ThreadId) (a : Addr) : Bool :=
  match (s.fetchWord t a).2 with
  | .word w => match decode w with
    | .ok i => (shape i).lane
    | .error _ => false
  | _ => false

/-- The set of the word a gang would issue: that of the word after a prefix (R33). -/
def State.laneNext (s : State) (t : ThreadId) : Bool :=
  match s.prepare t with
  | .run (.immx _) s1 => s1.laneAt t (s1.pcOf t + 4)
  | .run i _ => (shape i).lane
  | .stop _ => false

/-- The gangs of a group, by their numbers. -/
def Group.gangs (x : Group) : List Nat := ((x.slices.filter fun sl => sl.live != 0).map (·.gang)).dedup

/-- The number of the turn in which a gang last issued. -/
def Group.gangTurn (x : Group) (k : Nat) : Nat := ((x.slices.find? (Slice.inGang k)).map (·.lastTurn)).getD 0

/-- Insert by a key, smallest first and stable. -/
def insertBy {α : Type} (f : α → Nat) (a : α) : List α → List α
  | [] => [a]
  | b :: t => if f a ≤ f b then a :: b :: t else b :: insertBy f a t

/-- Sort by a key, smallest first. -/
def sortBy {α : Type} (f : α → Nat) (l : List α) : List α := l.foldr (fun a acc => insertBy f a acc) []

/-- R163: one issue slot of a scheduler of a core (4 × cluster + core): the threads it serves, put on the agenda. DESIGN CHOICE
(assumption 65): the gang that has waited longest is the one whose last issue lies furthest back, and among equals, as gangs
just split are, the one whose first slice is lowest. -/
def State.serveSlot (s : State) (core sched : Nat) : State :=
  let here := s.groups.filter fun e =>
    let tm := s.team e.2.team
    e.2.sched == sched && tm.placed && 4 * tm.cluster + tm.core == core
  let ready := fun (e : Nat × Group) => e.2.gangs.filter fun k => s.readyGang (.gang e.1 k)
  let live := (here.map fun e => (e.1, e.2, ready e)).filter fun e => !e.2.2.isEmpty
  let prio := fun (e : Nat × Group × List Nat) => (s.descOf e.2.1.team).flags.toNat / 2 % 8
  let best := live.foldl (fun m e => max m (prio e)) 0
  let placed := sortBy (fun e => (s.team e.2.1.team).seated) (live.filter fun e => prio e == best)
  match sortBy (fun e => e.2.1.lastTurn) placed with
  | [] => s
  | (g, x, ks) :: _ =>
    let lanes := ks.filter fun k => s.laneNext (.gang g k)
    let unis := (sortBy x.gangTurn (ks.filter fun k => !s.laneNext (.gang g k))).take 2
    let chosen := lanes ++ unis
    let n := s.turns + 1
    let y : Group := { x with
      lastTurn := n
      slices := x.slices.map fun sl => if chosen.contains sl.gang then { sl with lastTurn := n } else sl }
    { s.setGroup g y with turns := n, agenda := chosen.map (fun k => Turn.thread (.gang g k)) ++ s.agenda }

/-- R331, R332: the moment at which the deadline of a standing request passes. -/
def State.forceAt (s : State) (part : Nat) (c : Ctx) : Option Nat :=
  if c.phase == .saving && c.preq.isSome && !c.forced && s.root.pauseAt.isNone && !(s.part part).halted then
    some (c.preqAt + (1000 * (s.part part).pdl.toNat - c.preqRan + s.mhz - 1) / s.mhz)
  else none

/-- R165: the length of an accounting window. -/
def windowNs : Nat := 10000000

/-- The moments at which the manual requires something to have happened: time does not pass them first. -/
def State.deadlines (s : State) : List Nat :=
  let going := s.parts.filter fun e => !e.2.halted
  ((s.l1.filter fun e => e.2.ty == .shared && e.2.dirty != 0).map fun e => e.2.since + 8000) ++
  (s.wc.map fun e => e.2.since + 1000) ++
  (s.gateDue.map fun e => e.2 + 2000) ++
  (s.accs.map fun e => (e.2.epoch + 1) * s.leaseNs (s.partOfCpt e.1)) ++
  (going.flatMap fun e => e.2.landings.filterMap fun x => x.2.due) ++
  (going.filterMap fun e => e.2.switching.bind fun x => x.2.2.map (· + 40000)) ++
  ((going.filter fun e => decide (e.1 < 48)).filterMap fun e => e.2.lateAt.map (· + 200000)) ++
  (s.root.pauseAt.toList.map (· + 20000)) ++
  (s.root.ungateAt.map fun e => e.2 + 50000) ++
  (s.root.thermAt.toList.map (· + 1000000)) ++
  (s.ctxs.filterMap fun e => s.forceAt (e.1 / 256) e.2) ++
  [(s.time / windowNs + 1) * windowNs]

/-- R165: the cores of a partition that hold a team, by 4 × cluster + core. -/
def State.busyCores (s : State) (part : Nat) : List Nat :=
  ((s.teams.filter fun e => e.2.part == part && e.2.placed).map fun e => 4 * e.2.cluster + e.2.core).dedup

/-- R165: what dt nanoseconds add to a partition's window. -/
def State.account (s : State) (dt : Nat) (part : Nat) (p : Part) : Part :=
  let busy := (s.busyCores part).length
  let waits := s.grids.any fun e => e.2.part == part && (e.2.phase == .passed || e.2.phase == .placing)
  { p with use := p.use + dt * busy, kept := p.kept && waits, airy := p.airy && decide (4 * busy ≤ 3 * (4 * (s.clustersIn part).length)) }

/-- R165: the findings at the end of a window, and the next window. -/
def Part.endWindow (p : Part) : Part :=
  { p with short := decide (p.use < p.target) && p.kept, rich := p.airy, use := 0, kept := true, airy := true }

/-- The passing of at most n nanoseconds. -/
def State.tick (s : State) (n : Nat) : State :=
  let now := max s.time (s.deadlines.foldl min (s.time + n))
  let turn := fun (p : Part) => if s.time < now ∧ now % windowNs = 0 then p.endWindow else p
  { s with time := now, parts := s.parts.map fun e => (e.1, turn (s.account (now - s.time) e.1 e.2)) }

/-- R15, R16: an access that no executed word has asked for, which stands for squashed and speculative ones (assumption 62): a page of SHARED or PRIVATE memory that translates is filled, a
sector of it, at the thread's coherence point; any other is suppressed. -/
def State.prefetch (s : State) (t : ThreadId) (va : W64) : State :=
  if s.runnable t && inRange va then
    match s.translate (s.spaceOf t) va.toNat .load (levelOf t == 0) with
    | (s1, .ok p) =>
      if (p.ty == .shared || p.ty == .priv) && s1.owns (s1.partOfCpt (s1.cptOf t)) p.pa && !s1.hostMay (p.pa / 128) then
        (s1.cachedLoad (s1.cptOf t) p.ty (p.pa / 64 * 64) 64 (s1.threadTag t)).1
      else s1
    | (s1, .error _) => s1
  else s

/-- A turn of the agenda. -/
def State.runTurn (s : State) : Turn → Out
  | .thread t => s.runThread t
  | .slot core sched => .next (s.serveSlot core sched)
  | .event e => if e.hasWord then .next s else exec e s
  | .tick ns => .next (s.tick ns)
  | .evict cpt sector => .next (s.evictSector cpt (sector * 64))
  | .evictTlb key => .next { s with tlb := s.tlb.erase key }
  | .evictCode key => .next { s with icache := s.icache.erase key }
  | .stopSkid g => .next (s.endSkid g)
  | .copyWord cmd row word => .next (s.stepCopy cmd row word)
  | .prefetch t va => .next (s.prefetch t va)
  | .evictSlice key => .next (s.sliceEvict key)
  | .sendFlit pair flow payload => .next (s.sendFlit pair flow payload)
  | .sendIdle link => .next (s.sendIdle link)
  | .configPart part lease pdl ntags ovfgen target classen => .next (s.configPart part lease pdl ntags ovfgen target classen)
  | .bindDies part ctx tab => .next (s.bindDies part ctx tab)
  | .acknowledge port num => .next (s.acknowledge port num)
  | .peerExport port part len perm => .next (s.peerExport port part len perm)
  | .peerHail port fp fc part ctx vec payload => .next (s.peerHail port fp fc part ctx vec payload)
  | .barRead func offset => .next (s.barRead func offset)
  | .softError part place corrected => .next (s.softError part place corrected)

/-- What happens next, no prefix standing: the oldest turn, else a word of the current thread. -/
def State.move (s : State) : Out :=
  match s.agenda with
  | [] => s.runThread s.cur
  | turn :: rest => { s with agenda := rest }.runTurn turn

/-- What happens next: the word of a prefix at once (R33); else the saves whose contexts are quiescent have begun (R332). -/
def State.advance (s : State) : Out := if s.pfx.isSome then s.runThread s.cur else s.beginSaves.move

end Sys2Proof.Machine
end

