-- ==== Sys2Proof/Machine/Step.lean ====
section
/-! DEFINITION. The step of the device, and the placing of one instruction where the step fetches next. -/

namespace Sys2Proof.Machine

/-- One step (assumption 1). -/
def step (s : State) : Host.Outcome State Fault Refusal := s.advance

/-- Where the placed word is fetched from (assumption 17). -/
def placedPc : Addr := 0x40000000

/-- The thread that may execute a word: a service thread or the monitor for what needs their level, a group for lane words
and words of group code, the spine instance for the rest (R17, R49). -/
def placedThread (w : Nat) : ThreadId :=
  match decode (BitVec.ofNat 32 w) with
  | .error _ => .spine 0
  | .ok i =>
    let sh := shape i
    let level := match i with
      | .sr _ d _ n => match srRow n.toNat with
        | some (r, x) => if d = 0 then (if x = 3 then r else max r x) else r
        | none => sh.level
      | _ => sh.level
    if level = 2 then .monitor
    else if level = 1 then .service 0
    else if sh.lane || sh.place == .group then .gang 16 0
    else .spine 0

/-- A machine that runs a word next has a partition, a context, a grid with one team and a spine instance, and page tables
that map one GiB from `placedPc` to itself (R178, R179); the word stands at `placedPc` for every thread (assumption 17). -/
def State.withFetchWord (s : State) (nbits w : Nat) : State :=
  let word := if nbits ≤ 32 then w else 0
  let t := placedThread word
  let mem := memWrite (memWrite (memWrite s.mem 0x10000 8 0x11001) 0x11008 8 0x4000001F) placedPc.toNat 4 word
  let run : Scalar := { pc := placedPc, mode := .run }
  let lanes : Slice := { pc := placedPc, act := 15, live := 15 }
  { s with
    cur := t
    pfx := none
    agenda := []
    mem := mem
    l1 := (((s.l1.erase (l1Key 0 placedPc.toNat)).erase (l1Key 256 placedPc.toNat)).erase (l1Key 512 placedPc.toNat))
    memPoison := s.memPoison.erase (placedPc.toNat / 64)
    memKey := ((s.memKey.erase (0x10000 / 64)).erase (0x11008 / 64)).erase (placedPc.toNat / 64)
    tlb := s.tlb.filter fun e => tlbOwner e.1 != 1
    icache := [0, 1024, 1280, 1536].foldl (fun c core => c.erase (2 ^ 50 * core + placedPc.toNat / 4)) s.icache
    parts := s.parts.insert 0 { base := 0, logk := 0, ntags := 64, chans := [0], svc := run }
    ctxs := s.ctxs.insert (ctxKey 0 1)
      { phase := .resident, info := { root := 0x10000, asid := 1, vdtab := 0x80 :: List.replicate 15 0 } }
    grids := s.grids.insert 1
      { part := 0, ctx := 1, num := 1, desc := { base := placedPc.toNat, sentry := 4, mtiles := 64, pool := 8 }, args := []
        count := 1, phase := .resident, placed := 1, spines := [0], live := [0] }
    teams := s.teams.insert 1 { grid := 1, num := 0, part := 0, ctx := 1 }
    groups := s.groups.insert 16
      { team := 1, num := 0, budget := 128, slot := some 0, slices := List.replicate 8 lanes, gens := List.replicate 32 1
        endpt := 4 }
    spines := s.spines.insert 0
      { th := { pc := placedPc, mode := .run, part := 0, ctx := 1, grid := 1, endpt := 8 } }
    root := { s.root with pauseAt := none, th := { s.root.th with pc := placedPc, mode := .run } } }

end Sys2Proof.Machine
end

