-- ==== Sys2Proof/Safety.lean ====
section
/-! DEFINITION. The terms in which statements speak of runs: when a word begins (R13, R49), the state that follows a completed
word, what stops, and what a good state keeps. -/

namespace Sys2Proof.Machine

/-- The word of the current thread passes the checks of R49, and nothing but the word acts as it completes: the thread is not
single-stepped (R308), no halt broadcast has reached it (R299), no `mwld` of its group is still to read its operand
registers (R214), and it names no register that holds the status of a batch, whose reading orders what the batch wrote (R212). -/
def State.begins (s : State) (i : Instr) : Bool :=
  decide (gate i s = .run) && !s.stepped s.cur && !s.haltReached s.cur && (s.statusRegs s.cur i).isEmpty &&
    match s.cur with
    | .gang g _ => (s.operandRegs g).isEmpty
    | _ => true

/-- The state with a barrier hold that has ended forgotten (R153, R233): what the word of the current thread reads. -/
def State.unheld (s : State) : State := s.clearHold s.cur

/-- The state that follows a completed word of `s`: its effect `s'`, with the thread at the next word and no prefix left. -/
def State.after (s s' : State) : State :=
  ({ s'.setPc s.cur (s.pcOf s.cur + 4) with pfx := none }).setWaiting s.cur false

/-- The state that follows a completed transfer of control to `a`. -/
def State.afterJump (s s' : State) (a : Addr) : State :=
  (({ s'.setPc s.cur a with pfx := none }).setWaiting s.cur false).landAt s.cur (s.gangMask s.cur)

/-- The state that follows a completed word that has itself set its slices' program counters, in `s'`, those of `jumped` by a
transfer. -/
def State.afterMoved (s s' : State) (jumped : BitVec 8) : State :=
  (({ s' with pfx := none }).setWaiting s.cur false).landAt s.cur jumped

/-- The state of a word that is not begun, with what its checks have changed (R13). -/
def State.stay (s s' : State) : State := (s'.unbegun s.wordPc).setWaiting s.cur true

/-- The state in which the current thread has taken a precise trap at its word, or at the word's prefix (R12, R33). -/
def State.trapped (s : State) (i : Instr) (tr : Trap) : State :=
  (s.unbegun s.wordPc).takeTrap s.cur tr s.wordPc s.wordPc (encode i)

/-- The byte of memory at an address, as its partition reads it (R8, R345). -/
def State.homeByte (s : State) (pa : Nat) : Byte := BitVec.ofNat 8 (s.homeValue pa 1)

/-- The byte that a load of SHARED or PRIVATE memory through a coherence point gives (R184): that of a sector held there,
else that of the home slice. -/
def State.byteAt (s : State) (cpt pa : Nat) : Byte :=
  match s.sector? cpt pa with
  | some x => if x.valid.getLsbD (pa % 64) then BitVec.ofNat 8 (x.data.toNat / 2 ^ (8 * (pa % 64))) else s.homeByte pa
  | none => s.homeByte pa

/-- Memory and the peers' memory are in canonical form. -/
def State.memoryOk (s : State) : Bool := Memory.wf s.mem && Memory.wf s.peerMem

/-- What the checks of a store word of virtual or private space leave to be stored (R84, R219, R224): its ordering, its size, the
state after its checks, and each address with its place and its data; none where a check stops the word. -/
def State.storesOf (s : State) (i : Instr) : Option (Nat × Nat × State × List (W64 × Phys × W64)) :=
  let u := s.unheld
  let th := s.cur
  match i with
  | .ust _ d a o z q =>
    match u.checkUniform th .store false true (accSize z) (u.uniAddr th a o (accSize z)) with
    | .ok s1 ps => some (q.toNat, accSize z, s1, ps.map fun e => (e.2.1, e.2.2, s1.getW th d.toNat))
    | .stop _ => none
  | .st _ d a w z o =>
    match u.checkVirtual th .store false true (accSize z) (u.laneAddrs th w a) with
    | .ok s1 ps => some (o.toNat, accSize z, s1, ps.map fun e => (e.2.1, e.2.2, s1.laneData th d (z == 3) e.1))
    | .stop _ => none
  | .stp _ d a w z =>
    match u.checkPriv th true (z == 3) (accSize z) (u.laneAddrs th w a) with
    | .ok (s1, ps) =>
      some (0, min (accSize z) 4, s1, ps.map fun e => (e.2.1, e.2.2.2, s1.laneData th d (z == 3) e.1 >>> e.2.2.1))
    | .error _ => none
  | _ => none

/-- Outside the registers of threads, the two states are the same. -/
def State.sameBut (s t : State) : Prop :=
  t = { s with spines := t.spines, groups := t.groups, parts := t.parts, root := t.root, pfx := t.pfx }

/-- No step from the state stops the model within n steps. -/
def State.runs : Nat → State → Bool
  | 0, _ => true
  | n + 1, s =>
    match step s with
    | .next t => State.runs n t
    | _ => false

end Sys2Proof.Machine
end

