-- ==== Sys2Proof/Certificates/Slice0/Obligations.lean ====
section
/-! DEFINITION. The statements for the provers. Each formalises numbered rules of the specification; a clause that rests on a
choice of the model says so and names the assumption-log entry. -/

section

open Sys2Proof Sys2Proof.Machine

/-! ### Encoding and the step -/

/-- R8, R24 to R28, R34, R35: the bytes of every well-formed instruction decode to it, with every operand, and leave what
follows them. -/
def Obligations.DecodeOfEncode : Prop :=
  ∀ (i : Instr) (rest : List Byte), i.hasWord = true → i.wf = true → decodeBytes (encodeBytes i ++ rest) = .ok (i, rest)

/-- R24, R34, R35: a word that decodes is the word of its instruction: no bit of it is dropped, so no two words have one
meaning. -/
def Obligations.EncodeOfDecode : Prop :=
  ∀ (w : W32) (i : Instr), decode w = .ok i → i.hasWord = true ∧ encode i = w

/-- R25, R27, R34, R35: words of every format (LA, LI, LM, LB; UA, UI, UM, UC, UB; `immx`), written out from the encoding tables and
the worked examples, decode to what they stand for. -/
def Obligations.WordsDecodeAsWritten : Prop :=
  decode 0xFE000048 = .ok (.immx 0x48) ∧ decode 0xAC074567 = .ok (.umovi false 1 0x34567) ∧
  decode 0xA8041020 = .ok (.ushli false 1 1 32) ∧ decode 0xA4041DEF = .ok (.uori false 1 1 0xDEF) ∧
  decode 0x00040810 = .ok (.add false 2 2 2 0 false) ∧ decode 0x01040812 = .ok (.add true 2 2 2 1 false) ∧
  decode 0x20040FFF = .ok (.addi false 2 3 0x3FF) ∧ decode 0x66120438 = .ok (.ldp false 9 1 3 2) ∧
  decode 0x56400003 = .ok (.brd 1 false 3) ∧ decode 0x57C00002 = .ok (.brd 7 false 2) ∧ decode 0x55C00005 = .ok (.jpt 5) ∧
  decode 0x801800D0 = .ok (.uadd false 6 0 3 1 false 0) ∧ decode 0xC01C6008 = .ok (.uld false 7 6 0 2 0) ∧
  decode 0xC010500E = .ok (.uld false 4 5 0 3 2) ∧ decode 0xFA000003 = .ok (.hailRet false) ∧
  decode 0xDC15A7C0 = .ok (.join false 5 26 31) ∧ decode 0xD0BFFFFF = .ok (.bra 2 true 0x1FFFFF)

/-- R13, R49: a step with no turn before it fetches the word at the current thread's program counter and runs what it decodes
to; a word that does not decode is an Illegal Instruction. The model's agenda (assumption 1): a turn that names a step of the
device runs it, and a turn that names a thread issues that thread's word. That the saves of the contexts that have become quiescent
(R332) begin before the turn is the model's choice (log entry 29); the check of R149 and a service image that waits to take over act before the word is fetched. R153, R233: a thread that is
held has not begun its word, so one that does not decode takes no trap. R367: a fetch of a line that the host may hold waits for the
host's answer (before the word is fetched: log entry 40). -/
def Obligations.StepRunsDecodedWord : Prop :=
  (∀ (s s1 : State) (w : W32),
    let b := if s.pfx.isSome then s else s.beginSaves
    (s.pfx.isSome = true ∨ b.agenda = []) → b.runnable b.cur = true → b.meetWord b.cur = b →
    (∀ u, b.snoopHost (b.fetchLines b.cur (b.pcOf b.cur)) = some u →
      step s = .next ((u.unbegun u.wordPc).setWaiting b.cur true)) ∧
    (b.snoopHost (b.fetchLines b.cur (b.pcOf b.cur)) = none → b.fetchWord b.cur (b.pcOf b.cur) = (s1, .word w) →
      (∀ i, decode w = .ok i → step s = exec i s1) ∧
      (∀ e, decode w = .error e → b.held b.cur = true → step s = .next ((s1.unbegun s1.wordPc).setWaiting b.cur true)) ∧
      (∀ e, decode w = .error e → b.held b.cur = false →
        step s = .next ((s1.unbegun s1.wordPc).takeTrap b.cur Trap.illegal s1.wordPc s1.wordPc w)))) ∧
  (∀ (s : State) (rest : List Turn),
    let b := s.beginSaves
    s.pfx = none →
    (∀ e : Instr, e.hasWord = false → b.agenda = .event e :: rest → step s = exec e { b with agenda := rest }) ∧
    (∀ t, b.agenda = .thread t :: rest → step s = ({ b with agenda := rest } : State).runThread t))

/-- R8, R14, R24, R184: a fetch that no core's copy and no cached sector answers reads the four bytes at the translated
address, the lowest first, from memory the partition owns and wrote, once the cluster's L1 has made room for the sector. -/
def Obligations.FetchReadsFourBytes : Prop :=
  ∀ (s s1 : State) (t : ThreadId) (pc : Addr) (pa : Nat),
    s.translate (s.spaceOf t) pc.toNat .fetch (levelOf t == 0) = (s1, .ok ⟨pa, .shared⟩) →
    pa % 4 = 0 → pa + 4 ≤ 2 ^ 40 → s1.owns (s1.partOfCpt (s1.cptOf t)) pa = true →
    let s2 := s1.makeRoom (s1.cptOf t) pa
    s1.icache.find? (2 ^ 50 * s1.fetchCore t + pa / 4) = none → s1.sector? (s1.cptOf t) pa = none →
    s2.sector? (s1.cptOf t) pa = none → s1.badAt pa = false → s2.foreign pa = none →
    (s.fetchWord t pc).2 = .word ((memByte s2.mem (pa + 3) ++ memByte s2.mem (pa + 2)) ++
      (memByte s2.mem (pa + 1) ++ memByte s2.mem pa))

/-- No word stops the model, and of the steps of the device only a host access beyond HBM does (R173, R367). -/
def Obligations.OnlyHostAccessStops : Prop :=
  (∀ (i : Instr) (s : State),
    (∃ t, exec i s = .next t) ∨
      ∃ a n w v, i = .hostMemAccess a n w v ∧ 2 ^ 40 < a + n ∧ exec i s = .fault (.noSuchMemory a)) ∧
  ∀ s : State, (∃ t, step s = .next t) ∨ ∃ a, step s = .fault (.noSuchMemory a)

/-! ### The checks of a word and its traps -/

/-- R49, R11 to R13, R117, R164, R199, R302: the word of a thread begins exactly when nothing holds the thread, no queue it
targets is full, the thread may execute it, it is well formed, its prefix is one it admits, its registers lie within the role's
budget, its level and its system register are in reach, its jetty registers exist, its sources are full and clean, its
destinations await no fill and no acquire is pending. R12, R13, R49: a word whose checks find a trap takes it precisely; a word whose checks find it waiting
changes nothing but the note that it waits. This holds for every word. R10, R11: a word that passes the checks before it waits
for an empty source when T is 0, and takes the Empty-Read trap with the register's number when T is 1. -/
def Obligations.ChecksOfAWord : Prop :=
  (∀ (i : Instr) (s : State),
    gate i s = .run ↔
      s.held s.cur = false ∧ s.targetFull s.cur i = false ∧ misplaced s.cur (shape i) = false ∧ i.wf = true ∧
      (s.pfx.isSome = true → (shape i).wide = true) ∧ s.beyond s.cur (shape i) = false ∧
      (shape i).level ≤ levelOf s.cur ∧ srGate i (levelOf s.cur) = none ∧ s.noJetty s.cur (shape i) = none ∧
      s.emptySource s.cur (shape i) = none ∧ s.poisonedSource s.cur (shape i) = none ∧
      s.pendingTarget s.cur (shape i) = false ∧ s.acquiring s.cur = false) ∧
  (∀ (i : Instr) (s : State), i.hasWord = true →
    (∀ tr, gate i s = .trap tr → exec i s = .next (s.trapped i tr)) ∧
    (gate i s = .wait → exec i s = .next (s.stay s))) ∧
  (∀ (i : Instr) (s : State) (r : Nat), i.hasWord = true → s.held s.cur = false → s.targetFull s.cur i = false →
    misplaced s.cur (shape i) = false → i.wf = true → (s.pfx.isSome = true → (shape i).wide = true) → s.beyond s.cur (shape i) = false →
    (shape i).level ≤ levelOf s.cur → srGate i (levelOf s.cur) = none → s.noJetty s.cur (shape i) = none →
    s.emptySource s.cur (shape i) = some r →
    exec i s = .next (if (shape i).t then s.trapped i { kind := 0x03, index := r } else s.stay s))

/-- R49, R12: a word in a thread that may not execute it, a reserved field, a prefix it does not admit and a register beyond
the budget are Illegal Instruction traps; they come before every other check but a hold and a full queue (R164). R17, R307, R314, R338, R339, R20: a
thread of User level takes Privilege on the words of the service cores and on the system registers it may not read. -/
def Obligations.IllegalAndPrivilegedWordsTrap : Prop :=
  (∀ (i : Instr) (s : State), i.hasWord = true → s.held s.cur = false → s.targetFull s.cur i = false →
    (misplaced s.cur (shape i) = true ∨ i.wf = false ∨ (s.pfx.isSome = true ∧ (shape i).wide = false) ∨
      s.beyond s.cur (shape i) = true) →
    exec i s = .next (s.trapped i Trap.illegal)) ∧
  (∀ (s : State) (t : Bool) (d a : BitVec 6) (n : BitVec 12),
    levelOf s.cur = 0 → s.held s.cur = false → s.pfx = none →
    (∀ i, (i = .sysEret t a ∨ i = .sysHalt t d a ∨ i = .sysCtxsw t d a ∨ i = .sysCtxld t d a) → i.wf = true →
      exec i s = .next (s.trapped i Trap.privilege)) ∧
    (0x200 ≤ n.toNat → (Instr.sr t d a n).wf = true →
      exec (.sr t d a n) s = .next (s.trapped (.sr t d a n) Trap.privilege)))

/-- R300: the fields of a trap record, whatever the values: those of a group name its team, its number and the gang's slices.
R299, R300: the record of a trap stands in its place of the trap area once it is written, when that page translates into the
partition's memory; that the area lies at a virtual address of the context is DEDUCED (log entry 12). -/
def Obligations.TrapRecords : Prop :=
  (∀ (s : State) (t : ThreadId) (tr : Trap) (pc resume : Addr) (word : W32) (origin : Bool) (skid recid : Nat),
    tr.kind < 256 →
    let x := s.recordBits t tr pc resume word origin skid recid
    x < 2 ^ 512 ∧ x % 2 ^ 48 = pc.toNat ∧ x / 2 ^ 48 % 2 ^ 8 = tr.kind ∧ x / 2 ^ 56 % 2 ^ 8 = tr.cause % 256 ∧
    x / 2 ^ 64 % 2 ^ 64 = tr.addr.toNat ∧ x / 2 ^ 128 % 2 ^ 64 = resume.toNat ∧ x / 2 ^ 192 % 2 ^ 32 = tr.lanes.toNat ∧
    x / 2 ^ 224 % 2 ^ 8 = tr.index % 256 ∧ x / 2 ^ 232 % 2 ^ 5 = tr.fpx % 32 ∧ x / 2 ^ 256 % 2 ^ 32 = word.toNat ∧
    x / 2 ^ 288 % 2 = origin.toNat ∧ x / 2 ^ 289 % 2 = (!isGang t).toNat ∧ x / 2 ^ 290 % 2 ^ 4 = skid % 16 ∧
    x / 2 ^ 320 % 2 ^ 64 = s.time % 2 ^ 64 ∧ x / 2 ^ 384 % 2 ^ 32 = (s.grid (s.gridOf t)).num.toNat ∧
    x / 2 ^ 456 % 2 ^ 8 = s.vdieOf t % 256 ∧ x / 2 ^ 480 % 2 ^ 32 = recid % 2 ^ 32 ∧
    x / 2 ^ 294 % 2 ^ 2 = 0 ∧ x / 2 ^ 304 % 2 ^ 16 = 0 ∧ x / 2 ^ 464 % 2 ^ 16 = 0 ∧
    (∀ g k, t = .gang g k → x / 2 ^ 296 % 2 ^ 8 = ((s.group g).sliceMask k).toNat ∧
      x / 2 ^ 416 % 2 ^ 32 = (s.team (s.group g).team).num % 2 ^ 32 ∧ x / 2 ^ 448 % 2 ^ 8 = (s.group g).num % 256) ∧
    (isGang t = false → x / 2 ^ 296 % 2 ^ 8 = 0 ∧ x / 2 ^ 416 % 2 ^ 32 = 0xFFFFFFFF ∧ x / 2 ^ 448 % 2 ^ 8 = 0xFF)) ∧
  (∀ (s s1 : State) (t : ThreadId) (bits pa : Nat) (ty : MemTy),
    let part := s.partOf t
    s.translate (.ctx part (s.ctxOf t) (1280 + realPart part))
      ((s.ctx part (s.ctxOf t)).info.traparea + 64 * s.recIndex t) .load false = (s1, .ok ⟨pa, ty⟩) →
    (((s1.dropSector (s.cptOf t) pa).evictSector (256 + realPart part) pa).owns (realPart part) pa) = true →
    memRead (s.writeRecord t bits).mem pa 64 = bits % 2 ^ 512)

/-- R297, R299: a trap of a spine thread halts it where it stands, posts a Halted notice with its record's place, and leaves
every other spine instance, every group and every uniform register alone. R297, R299: a trap of a group halts it where it
stands; each other group of its team that ran may issue at most 8 more words, or has stopped, and its registers and slices are
as they were. R299: a trap of a service thread halts it and tells the root monitor, with its partition. -/
def Obligations.TrapsHaltTheirUnits : Prop :=
  (∀ (s : State) (c : Nat) (tr : Trap) (pc resume : Addr) (w : W32) (p : Part),
    s.parts.find? (s.partOf (.spine c)) = some p → (s.spines.find? c).isSome = true →
    let t := s.takeTrap (.spine c) tr pc resume w
    (t.scalar (.spine c)).mode = .halted ∧ t.pcOf (.spine c) = s.pcOf (.spine c) ∧ t.uni (.spine c) = s.uni (.spine c) ∧
    (∀ d, d ≠ c → t.spines.find? d = s.spines.find? d) ∧ t.groups = s.groups ∧ t.teams = s.teams ∧
    (t.part (s.partOf (.spine c))).notices = pushNotice p.notices
      ⟨1, BitVec.ofNat 8 (s.ctxOf (.spine c)), BitVec.ofNat 32 (s.recIndex (.spine c))⟩) ∧
  (∀ (s : State) (g k : Nat) (tr : Trap) (pc resume : Addr) (w : W32), tr.kind ≠ 0x19 →
    (s.groups.find? g).isSome = true → (∀ x f, (s.group g).mode ≠ .parked x f) →
    (∀ h, h ∈ s.groupsOf (s.group g).team → (s.group h).mode = .run ∨ (s.group h).stopped = true) →
    let t := s.takeTrap (.gang g k) tr pc resume w
    (t.group g).mode = .halted ∧
    (∀ h, (t.group h).slices = (s.group h).slices ∧ (t.group h).v = (s.group h).v ∧ (t.group h).uni = (s.group h).uni) ∧
    ∀ h, h ∈ s.groupsOf (s.group g).team → (t.group h).stopped = true ∨
      ∃ left, (t.group h).mode = .halting left 0 ∧ 0 < left ∧ left ≤ 8) ∧
  (∀ (s : State) (p : Nat) (tr : Trap) (pc resume : Addr) (w : W32), (s.parts.find? p).isSome = true →
    let t := s.takeTrap (.service p) tr pc resume w
    (t.scalar (.service p)).mode = .halted ∧ t.pcOf (.service p) = s.pcOf (.service p) ∧
    t.root.notices = pushNotice s.root.notices ⟨1, 0, BitVec.ofNat 32 p⟩ ∧
    t.root.reports = s.root.reports ++ [.serviceTrap p tr.kind] ∧ t.mem = s.mem ∧ t.groups = s.groups ∧ t.spines = s.spines)

/-! ### The uniform set -/

/-- R6, R7, R11, R310: reading a uniform register after writing one gives the value, full and clean; `w0` reads zero and `k7`
reads 1 whatever is written; the other registers are as before. R71, R28: operand B of a uniform word is a `w` register, the
value of a `j` register, or a sign-extended immediate. R26, R129: operand B of a lane word is the lane's `v` register, the low
half of a `w` register or of a `j` register, or the sign-extended immediate. -/
def Obligations.RegistersAndOperandForms : Prop :=
  (∀ (u : Uni) (r j : Nat) (x : W64) (b : Bool), r < 64 → j < 64 →
    (u.putW r x).getW j = (if j = r ∧ r ≠ 0 then x else u.getW j) ∧ u.getW 0 = 0 ∧
    (u.putK (r % 8) b).getK (j % 8) = (if j % 8 = r % 8 ∧ r % 8 ≠ 7 then b else u.getK (j % 8)) ∧ u.getK 7 = true ∧
    (r ≠ 0 → (u.putW r x).empty.getLsbD r = false ∧ (u.putW r x).poison.getLsbD r = false) ∧
    (j ≠ r → (u.putW r x).empty.getLsbD j = u.empty.getLsbD j ∧ (u.putW r x).poison.getLsbD j = u.poison.getLsbD j)) ∧
  (∀ (s : State) (t : ThreadId) (b : BitVec 6),
    s.uniOperand t b 0 = s.getW t b.toNat ∧ s.uniOperand t b 1 = (s.jetty (s.cptOf t) b.toNat).value ∧
    s.uniOperand t b 2 = b.signExtend 64) ∧
  (∀ (s : State) (g k l : Nat) (b : BitVec 7),
    let t := ThreadId.gang g k
    s.laneOperand t b 0 l = (s.group g).getV b.toNat l ∧
    s.laneOperand t b 1 l = BitVec.ofNat 32 (s.getW t (b.toNat % 64)).toNat ∧
    s.laneOperand t b 2 l = BitVec.ofNat 32 (s.jetty (s.cptOf t) (b.toNat % 64)).value.toNat ∧
    s.laneOperand t b 3 l = BitVec.ofInt 32 b.toInt)

/-- R71, R72, R75: the one-result words of the uniform set complete with these results on 64 bits, or with W = 1 on the low 32
bits, sign-extended. R73: `uadd` and `usub` deliver the exact sum or difference modulo 2^n, or clamped as signed or unsigned
n-bit integers with SAT set exactly when the clamp changed it; with W = 1 on 32 bits, sign-extended. R74: `udiv` and `urem`: all
ones and a where b is 0; the quotient truncated toward zero and the remainder a − q × b otherwise, the overflowing signed case
wrapping; no flag is set. -/
def Obligations.UniformArithmetic : Prop :=
  (∀ (s : State) (t w : Bool) (d a b : BitVec 6) (bs : BitVec 2) (k : BitVec 3),
    let x := s.getW s.cur a.toNat
    let y := s.uniOperand s.cur b bs
    let xl : W32 := x.setWidth 32
    let yl : W32 := y.setWidth 32
    let put := fun (v : W64) => (.next (s.after (s.unheld.putW s.cur d.toNat v)) : Host.Outcome State Fault Refusal)
    (s.begins (.umul t d a b bs w) = true →
      exec (.umul t d a b bs w) s = put (if w then (xl * yl).signExtend 64 else x * y)) ∧
    (s.begins (.umulh t d a b bs w true) = true → exec (.umulh t d a b bs w true) s = put
      (if w then (BitVec.ofNat 32 (xl.toNat * yl.toNat / 2 ^ 32)).signExtend 64 else BitVec.ofNat 64 (x.toNat * y.toNat / 2 ^ 64))) ∧
    (s.begins (.umulh t d a b bs w false) = true → exec (.umulh t d a b bs w false) s = put
      (if w then (BitVec.ofInt 32 (xl.toInt * yl.toInt / 2 ^ 32)).signExtend 64 else BitVec.ofInt 64 (x.toInt * y.toInt / 2 ^ 64))) ∧
    (s.begins (.uand t d a b bs) = true → exec (.uand t d a b bs) s = put (x &&& y)) ∧
    (s.begins (.uor t d a b bs) = true → exec (.uor t d a b bs) s = put (x ||| y)) ∧
    (s.begins (.uxor t d a b bs) = true → exec (.uxor t d a b bs) s = put (x ^^^ y)) ∧
    (s.begins (.ushl t d a b bs w) = true → exec (.ushl t d a b bs w) s = put
      (if w then (xl <<< (y.toNat % 32)).signExtend 64 else x <<< (y.toNat % 64))) ∧
    (s.begins (.ushr t d a b bs w false) = true → exec (.ushr t d a b bs w false) s = put
      (if w then (xl >>> (y.toNat % 32)).signExtend 64 else x >>> (y.toNat % 64))) ∧
    (s.begins (.ushr t d a b bs w true) = true → exec (.ushr t d a b bs w true) s = put
      (if w then (xl.sshiftRight (y.toNat % 32)).signExtend 64 else x.sshiftRight (y.toNat % 64))) ∧
    (s.begins (.umin t d a b bs false) = true → exec (.umin t d a b bs false) s = put (BitVec.ofInt 64 (min x.toInt y.toInt))) ∧
    (s.begins (.umin t d a b bs true) = true → exec (.umin t d a b bs true) s = put (BitVec.ofNat 64 (min x.toNat y.toNat))) ∧
    (s.begins (.umax t d a b bs false) = true → exec (.umax t d a b bs false) s = put (BitVec.ofInt 64 (max x.toInt y.toInt))) ∧
    (s.begins (.umax t d a b bs true) = true → exec (.umax t d a b bs true) s = put (BitVec.ofNat 64 (max x.toNat y.toNat))) ∧
    (s.begins (.usel t d a b bs k) = true →
      exec (.usel t d a b bs k) s = put (if (s.uni s.cur).getK k.toNat then x else y))) ∧
  (∀ (s : State) (t w : Bool) (d a b : BitVec 6) (bs : BitVec 2),
    let x := s.getW s.cur a.toNat
    let y := s.uniOperand s.cur b bs
    let n := if w then 32 else 64
    let sx : Int := if w then (x.setWidth 32).toInt else x.toInt
    let sy : Int := if w then (y.setWidth 32).toInt else y.toInt
    let ux : Int := if w then ((x.setWidth 32).toNat : Int) else (x.toNat : Int)
    let uy : Int := if w then ((y.setWidth 32).toNat : Int) else (y.toNat : Int)
    let deliver := fun (v : Int) (sat : Bool) => (.next (s.after ((s.unheld.putW s.cur d.toNat
      (if w then (BitVec.ofInt 32 v).signExtend 64 else BitVec.ofInt 64 v)).raiseFlags s.cur (if sat then 0x20 else 0))) :
        Host.Outcome State Fault Refusal)
    let signed := fun (e : Int) => max (-2 ^ (n - 1)) (min (2 ^ (n - 1) - 1) e)
    let unsigned := fun (e : Int) => max 0 (min (2 ^ n - 1) e)
    (s.begins (.uadd t d a b bs w 0) = true → exec (.uadd t d a b bs w 0) s = deliver (sx + sy) false) ∧
    (s.begins (.usub t d a b bs w 0) = true → exec (.usub t d a b bs w 0) s = deliver (sx - sy) false) ∧
    (s.begins (.uadd t d a b bs w 1) = true →
      exec (.uadd t d a b bs w 1) s = deliver (signed (sx + sy)) (decide (signed (sx + sy) ≠ sx + sy))) ∧
    (s.begins (.usub t d a b bs w 1) = true →
      exec (.usub t d a b bs w 1) s = deliver (signed (sx - sy)) (decide (signed (sx - sy) ≠ sx - sy))) ∧
    (s.begins (.uadd t d a b bs w 2) = true →
      exec (.uadd t d a b bs w 2) s = deliver (unsigned (ux + uy)) (decide (unsigned (ux + uy) ≠ ux + uy))) ∧
    (s.begins (.usub t d a b bs w 2) = true →
      exec (.usub t d a b bs w 2) s = deliver (unsigned (ux - uy)) (decide (unsigned (ux - uy) ≠ ux - uy)))) ∧
  (∀ (s : State) (t w u : Bool) (d a b : BitVec 6) (bs : BitVec 2),
    let x := s.getW s.cur a.toNat
    let y := s.uniOperand s.cur b bs
    let vx : Int := if w then (if u then ((x.setWidth 32).toNat : Int) else (x.setWidth 32).toInt)
      else if u then (x.toNat : Int) else x.toInt
    let vy : Int := if w then (if u then ((y.setWidth 32).toNat : Int) else (y.setWidth 32).toInt)
      else if u then (y.toNat : Int) else y.toInt
    let q : Int := if vy = 0 then -1 else vx.tdiv vy
    let r : Int := if vy = 0 then vx else vx - vx.tdiv vy * vy
    let put := fun (v : Int) => (.next (s.after (s.unheld.putW s.cur d.toNat
      (if w then (BitVec.ofInt 32 v).signExtend 64 else BitVec.ofInt 64 v))) : Host.Outcome State Fault Refusal)
    (s.begins (.udiv t d a b bs w u) = true → exec (.udiv t d a b bs w u) s = put q) ∧
    (s.begins (.urem t d a b bs w u) = true → exec (.urem t d a b bs w u) s = put r))

/-- R77: `uun` completes with its function's result, and the functions are what the table says, codes 0 to 7 on 64 bits or,
with W = 1, on the low 32 bits with the result sign-extended, codes 8 to 13 on the operand's low bits. -/
def Obligations.UnaryFunctions : Prop :=
  (∀ (s : State) (t w : Bool) (d a f : BitVec 6), s.begins (.uun t d a f w) = true →
    exec (.uun t d a f w) s = .next (s.after (s.unheld.putW s.cur d.toNat (unaryWord f.toNat w (s.getW s.cur a.toNat))))) ∧
  (∀ (w : Bool) (x : W64), let n := if w then 32 else 64
    let r := fun (f : Nat) => unaryWord f w x
    (w = true → ∀ f, f < 8 → r f = ((r f).setWidth 32).signExtend 64) ∧
    (∀ i, i < n → (r 0).getLsbD i = !x.getLsbD i ∧ (r 6).getLsbD i = x.getLsbD (n - 1 - i)) ∧
    (∀ i j, i < n / 8 → j < 8 → (r 7).getLsbD (8 * i + j) = x.getLsbD (8 * (n / 8 - 1 - i) + j)) ∧
    (r 1).toNat % 2 ^ n = (2 ^ n - x.toNat % 2 ^ n) % 2 ^ n ∧
    (r 2).toNat % 2 ^ n = (if x.getLsbD (n - 1) then 2 ^ n - x.toNat % 2 ^ n else x.toNat % 2 ^ n) % 2 ^ n ∧
    r 5 = BitVec.ofNat 64 ((List.range n).filter fun i => x.getLsbD i).length ∧
    ((∀ i, i < n → x.getLsbD i = false) → r 3 = BitVec.ofNat 64 n ∧ r 4 = BitVec.ofNat 64 n) ∧
    (∀ k, k < n → x.getLsbD (n - 1 - k) = true → (∀ i, i < k → x.getLsbD (n - 1 - i) = false) → r 3 = BitVec.ofNat 64 k) ∧
    (∀ k, k < n → x.getLsbD k = true → (∀ i, i < k → x.getLsbD i = false) → r 4 = BitVec.ofNat 64 k)) ∧
  ∀ x : W64,
    unaryWord 8 false x = BitVec.ofInt 64 (x.setWidth 8).toInt ∧ unaryWord 9 false x = BitVec.ofInt 64 (x.setWidth 16).toInt ∧
    unaryWord 10 false x = BitVec.ofInt 64 (x.setWidth 32).toInt ∧ unaryWord 11 false x = BitVec.ofNat 64 (x.toNat % 2 ^ 8) ∧
    unaryWord 12 false x = BitVec.ofNat 64 (x.toNat % 2 ^ 16) ∧ unaryWord 13 false x = BitVec.ofNat 64 (x.toNat % 2 ^ 32)

/-- R32, R78: the immediate forms complete with these results; the immediate is sign-extended, behind the prefix's 25 bits
when one stands before the word. -/
def Obligations.UniformImmediates : Prop :=
  ∀ (s : State) (t x : Bool) (d a m : BitVec 6) (i : BitVec 12) (c : BitVec 18),
    let v := s.getW s.cur a.toNat
    let wide := fun {n : Nat} (own : BitVec n) => match s.pfx with
      | some p => BitVec.ofInt 64 (p.toInt * 2 ^ n + own.toNat)
      | none => BitVec.ofInt 64 own.toInt
    let put := fun (r : W64) => (.next (s.after (s.unheld.putW s.cur d.toNat r)) : Host.Outcome State Fault Refusal)
    (s.begins (.uaddi t d a i) = true → exec (.uaddi t d a i) s = put (v + wide i)) ∧
    (s.begins (.uandi t d a i) = true → exec (.uandi t d a i) s = put (v &&& wide i)) ∧
    (s.begins (.uori t d a i) = true → exec (.uori t d a i) s = put (v ||| wide i)) ∧
    (s.begins (.uxori t d a i) = true → exec (.uxori t d a i) s = put (v ^^^ wide i)) ∧
    (s.begins (.ushli t d a m) = true → exec (.ushli t d a m) s = put (v <<< m.toNat)) ∧
    (s.begins (.ushri t d a x m) = true →
      exec (.ushri t d a x m) s = put (if x then v.sshiftRight m.toNat else v >>> m.toNat)) ∧
    (s.begins (.umovi t d c) = true → exec (.umovi t d c) s = put (wide c))

/-- R36, R76, R78: `ucmp` and `ucmpi` write 1 to `k[D]` when the condition holds of the 64-bit operands and 0 otherwise, and
the conditions are those of R36. R36: the floating-point conditions of `fcmp` and `ufcmp`: the comparison of the operands'
values, finite or infinite; `ne` is true and the ordered conditions are false when unordered; `lt`, `le`, `gt` and `ge` raise
Invalid on any NaN, the others on a signalling one alone. A word with a reserved code is an Illegal Instruction; the immediate
of `icmpi` and `ucmpi` is sign-extended and the comparison then follows the code. -/
def Obligations.ConditionCodes : Prop :=
  ((∀ (s : State) (t : Bool) (k : BitVec 3) (a b : BitVec 6) (bs : BitVec 2) (c : BitVec 4) (i : BitVec 8),
    (s.begins (.ucmp t k a b bs c) = true → exec (.ucmp t k a b bs c) s = .next (s.after (s.unheld.putK s.cur k.toNat
      (intCond c.toNat (s.getW s.cur a.toNat) (s.uniOperand s.cur b bs))))) ∧
    (s.begins (.ucmpi t k a c i) = true → exec (.ucmpi t k a c i) s = .next (s.after (s.unheld.putK s.cur k.toNat
      (intCond c.toNat (s.getW s.cur a.toNat) (s.wideImm i)))))) ∧
  ∀ x y : W64,
    (intCond 0 x y = true ↔ x = y) ∧ (intCond 1 x y = true ↔ x ≠ y) ∧ (intCond 2 x y = true ↔ x.toInt < y.toInt) ∧
    (intCond 3 x y = true ↔ x.toInt ≤ y.toInt) ∧ (intCond 4 x y = true ↔ y.toInt < x.toInt) ∧
    (intCond 5 x y = true ↔ y.toInt ≤ x.toInt) ∧ (intCond 6 x y = true ↔ x.toNat < y.toNat) ∧
    (intCond 7 x y = true ↔ x.toNat ≤ y.toNat) ∧ (intCond 8 x y = true ↔ y.toNat < x.toNat) ∧
    (intCond 9 x y = true ↔ y.toNat ≤ x.toNat) ∧ (intCond 10 x y = true ↔ x &&& y ≠ 0) ∧
    (intCond 11 x y = true ↔ x &&& y = 0)) ∧
  ((∀ (f : Fmt) (ftz : Bool) (a b : Nat),
    let x := f.read ftz a
    let y := f.read ftz b
    let un := x.isNan = true ∨ y.isNan = true
    let truth := fun (c : Nat) => (f.cond ftz c a b).1
    let invalid := fun (c : Nat) => (f.cond ftz c a b).2 = Flags.nv
    let lt := x.cmp y = some .lt
    let eq := x.cmp y = some .eq
    let gt := x.cmp y = some .gt
    (truth 0 = true ↔ eq) ∧ (truth 1 = true ↔ ¬ eq) ∧ (truth 2 = true ↔ lt) ∧ (truth 3 = true ↔ lt ∨ eq) ∧
    (truth 4 = true ↔ gt) ∧ (truth 5 = true ↔ gt ∨ eq) ∧ (truth 6 = true ↔ un) ∧ (truth 7 = true ↔ ¬ un) ∧
    (un ↔ x.cmp y = none) ∧
    (∀ c, c < 8 → (invalid c ↔ (2 ≤ c ∧ c ≤ 5 ∧ un) ∨ x.isSnan = true ∨ y.isSnan = true)) ∧
    (∀ c, c < 8 → ¬ invalid c → (f.cond ftz c a b).2 = 0)) ∧
  (∀ (n k : Bool) (m p : Nat) (e g : Int),
    let vx : Rat := signedMant n m * (2 : Rat) ^ e
    let vy : Rat := signedMant k p * (2 : Rat) ^ g
    ((FVal.fin n m e).cmp (.fin k p g) = some .lt ↔ vx < vy) ∧ ((FVal.fin n m e).cmp (.fin k p g) = some .eq ↔ vx = vy) ∧
    ((FVal.fin n m e).cmp (.fin k p g) = some .gt ↔ vy < vx) ∧
    (FVal.inf n).cmp (.fin k p g) = some (if n then .lt else .gt) ∧ (FVal.fin k p g).cmp (.inf n) = some (if n then .gt else .lt) ∧
    (FVal.inf n).cmp (.inf k) = some (if n = k then .eq else if n then .lt else .gt)) ∧
  (∀ (s : State) (t : Bool) (c : BitVec 4) (p : BitVec 3) (a b : BitVec 7) (ua ub : BitVec 6) (bs : BitVec 2) (i : BitVec 10)
    (j : BitVec 8), s.held s.cur = false →
    (12 ≤ c.toNat →
      exec (.icmp t c p a b bs) s = .next (s.trapped (.icmp t c p a b bs) Trap.illegal) ∧
      exec (.icmpi t c p a i) s = .next (s.trapped (.icmpi t c p a i) Trap.illegal) ∧
      exec (.ucmp t p ua ub bs c) s = .next (s.trapped (.ucmp t p ua ub bs c) Trap.illegal) ∧
      exec (.ucmpi t p ua c j) s = .next (s.trapped (.ucmpi t p ua c j) Trap.illegal)) ∧
    (8 ≤ c.toNat → exec (.fcmp t c p a b bs) s = .next (s.trapped (.fcmp t c p a b bs) Trap.illegal))) ∧
  (∀ (s : State) (t p : Bool) (c : BitVec 4) (k q r : BitVec 3) (a b : BitVec 7) (ua ub : BitVec 6) (bs : BitVec 2) (i : BitVec 10)
    (g n : Nat), (s.uni s.cur).fpctl.extractLsb' 4 5 = 0 →
    (s.begins (.ufcmp t k ua ub bs p q) = true → ∃ t1, exec (.ufcmp t k ua ub bs p q) s = .next t1 ∧ (k ≠ 7 →
      (t1.uni s.cur).getK k.toNat = ((if p then fp64 else fp32).cond (s.uni s.cur).ftz q.toNat
        (if p then (s.getW s.cur ua.toNat).toNat else (s.getW s.cur ua.toNat).toNat % 2 ^ 32)
        (s.uniFloatOperand s.cur p ub bs)).1)) ∧
    (s.cur = .gang g n → let u := s.unheld
      (s.begins (.icmp t c r a b bs) = true → exec (.icmp t c r a b bs) s = .next (s.after (u.mapPreds s.cur r.toNat fun l =>
        intCond c.toNat (u.laneReg s.cur a.toNat l) (u.laneOperand s.cur b bs l)))) ∧
      (s.begins (.icmpi t c r a i) = true → s.pfx = none → exec (.icmpi t c r a i) s = .next (s.after
        (u.mapPreds s.cur r.toNat fun l => intCond c.toNat (u.laneReg s.cur a.toNat l) (BitVec.ofInt 32 i.toInt)))) ∧
      (s.begins (.fcmp t c r a b bs) = true → ∃ t1, exec (.fcmp t c r a b bs) s = .next t1 ∧
        ∀ l, l ∈ u.active s.cur → r ≠ 7 → t1.lanePred s.cur r.toNat l = (fp32.cond (s.uni s.cur).ftz c.toNat
          (u.laneReg s.cur a.toNat l).toNat (u.floatOperand s.cur b bs l)).1))))

/-- R67, R68, R79 to R83: a floating-point word of the uniform set delivers its result and raises its flags, or takes the
Floating-Point trap of the raised exceptions when one of them is enabled and changes no register. -/
def Obligations.UniformFloatWords : Prop :=
  ∀ (s : State) (t p : Bool) (d a b : BitVec 6) (bs : BitVec 2) (r : BitVec 3) (f : BitVec 6) (k : BitVec 3) (c : BitVec 3),
    let u := s.uni s.cur
    let fmt := if p then fp64 else fp32
    let rm := u.rounding r.toNat
    let pat := fun (x : W64) => if p then x.toNat else x.toNat % 2 ^ 32
    let x := pat (s.getW s.cur a.toNat)
    let y := s.uniFloatOperand s.cur p b bs
    let z := pat (s.getW s.cur d.toNat)
    let out := fun (i : Instr) (v : W64) (fl : Flags) => (.next (if (u.fpctl.toNat / 2 ^ 4 % 2 ^ 5) &&& (fl.toNat % 2 ^ 5) ≠ 0
      then s.trapped i { kind := 0x08, fpx := fl.toNat % 32 }
      else s.after ((s.unheld.putW s.cur d.toNat v).raiseFlags s.cur fl)) : Host.Outcome State Fault Refusal)
    let num := fun (i : Instr) (v : Nat × Flags) => out i (BitVec.ofNat 64 v.1) v.2
    (s.begins (.ufadd t d a b bs p r) = true →
      exec (.ufadd t d a b bs p r) s = num (.ufadd t d a b bs p r) (fmt.addF rm u.ftz x y)) ∧
    (s.begins (.ufsub t d a b bs p r) = true →
      exec (.ufsub t d a b bs p r) s = num (.ufsub t d a b bs p r) (fmt.subF rm u.ftz x y)) ∧
    (s.begins (.ufmul t d a b bs p r) = true →
      exec (.ufmul t d a b bs p r) s = num (.ufmul t d a b bs p r) (fmt.mulF rm u.ftz x y)) ∧
    (s.begins (.uffma t d a b bs p r) = true →
      exec (.uffma t d a b bs p r) s = num (.uffma t d a b bs p r) (fmt.fmaF rm u.ftz x y z)) ∧
    (s.begins (.ufdiv t d a b bs p r) = true →
      exec (.ufdiv t d a b bs p r) s = num (.ufdiv t d a b bs p r) (fmt.divF rm u.ftz x y)) ∧
    (s.begins (.ufun t d a f p r) = true →
      exec (.ufun t d a f p r) s = num (.ufun t d a f p r) (fmt.unary f.toNat rm u.ftz x)) ∧
    (s.begins (.ufcvt t d a f r) = true →
      exec (.ufcvt t d a f r) s = out (.ufcvt t d a f r) (uniConvert f.toNat rm u.ftz (s.getW s.cur a.toNat)).1
        (uniConvert f.toNat rm u.ftz (s.getW s.cur a.toNat)).2) ∧
    (s.begins (.ufcmp t k a b bs p c) = true → exec (.ufcmp t k a b bs p c) s =
      .next (let v := fmt.cond u.ftz c.toNat x y
        if (u.fpctl.toNat / 2 ^ 4 % 2 ^ 5) &&& (v.2.toNat % 2 ^ 5) ≠ 0
        then s.trapped (.ufcmp t k a b bs p c) { kind := 0x08, fpx := v.2.toNat % 32 }
        else s.after ((s.unheld.putK s.cur k.toNat v.1).raiseFlags s.cur v.2)))

/-- R60, R61, R64, R80, R81, R136: the sum, difference, product, fused multiply-add, quotient and square root of finite operands in FP64,
FP32, FP16 and BF16 are `RoundTo` of the exact real result q: in each mode the value of R60's table, with q's sign, and Inexact exactly when
it differs from q; from 2^(emax+1) on the entry of R61's table with Overflow and Inexact. Under FTZ operands are read and
tiny results are delivered as zeros (R64). An exact sum of zero has R60's sign. -/
def Obligations.FloatResultsAreRounded : Prop :=
  ∀ (f : Fmt) (rm : Rm) (ftz : Bool) (a b d : Nat), f = fp64 ∨ f = fp32 ∨ f = fp16 ∨ f = bf16 →
    let real := fun (v : FVal) => match v with
      | .fin n m e => (signedMant n m : ℝ) * (2 : ℝ) ^ e
      | _ => 0
    let finite := fun (v : FVal) => match v with
      | .fin .. => true
      | _ => false
    let val := fun (p : Nat) => real (f.unpack p)
    let isNum := fun (p : Nat) => finite (f.unpack p) = true
    let x := real (f.read ftz a)
    let y := real (f.read ftz b)
    let z := real (f.read ftz d)
    let least : ℝ := (2 : ℝ) ^ (1 - (f.bias : Int))
    let flush := ftz && f.ftz
    let best := fun (q : ℝ) (r : Nat) => r < 2 * f.signWeight ∧ isNum r ∧ match rm with
      | .rne => (∀ p, isNum p → |val r - q| ≤ |val p - q|) ∧
        ∀ p, isNum p → |val p - q| = |val r - q| → val p ≠ val r → r % 2 = 0
      | .rtz => |val r| ≤ |q| ∧ 0 ≤ val r * q ∧ ∀ p, isNum p → 0 ≤ val p * q → |val p| ≤ |q| → |val p| ≤ |val r|
      | .rdn => val r ≤ q ∧ ∀ p, isNum p → val p ≤ q → val p ≤ val r
      | .rup => q ≤ val r ∧ ∀ p, isNum p → q ≤ val p → val r ≤ val p
    let rounded := fun (q : ℝ) (r : Nat × Flags) => ∀ n : Bool, (n = true ↔ q < 0) → q ≠ 0 →
      (|q| ≤ val f.maxCode → flush = false ∨ least ≤ |q| →
        best q r.1 ∧ r.1 / f.signWeight = n.toNat ∧ (r.2.getLsbD 4 = true ↔ val r.1 ≠ q) ∧ r.2.getLsbD 2 = false) ∧
      ((2 : ℝ) ^ (f.bias + 1) ≤ |q| → r.2 = Flags.ofnx ∧ r.1 = f.pack n (match rm with
        | .rne => f.infCode
        | .rtz => f.maxCode
        | .rdn => if n then f.infCode else f.maxCode
        | .rup => if n then f.maxCode else f.infCode)) ∧
      (flush = true → |q| ≤ least / 2 → r = (f.pack n 0, Flags.ufnx))
    let neg := fun (p : Nat) => p / f.signWeight % 2 == 1
    finite (f.read ftz a) = true → finite (f.read ftz b) = true →
    rounded (x + y) (f.addF rm ftz a b) ∧ rounded (x - y) (f.subF rm ftz a b) ∧ rounded (x * y) (f.mulF rm ftz a b) ∧
    (finite (f.read ftz d) = true → rounded (x * y + z) (f.fmaF rm ftz a b d)) ∧
    (y ≠ 0 → rounded (x / y) (f.divF rm ftz a b)) ∧ (0 ≤ x → rounded (Real.sqrt x) (f.sqrtF rm ftz a)) ∧
    (x + y = 0 → f.addF rm ftz a b = (f.pack (if neg a = neg b then neg a else decide (rm = .rdn)) 0, 0))

/-! ### The lane set -/

/-- R131 to R134, R36, R53: the integer words of the lane set complete, with these results in every active lane; the
saturating forms raise SAT when the clamp changed a lane's value. R32, R132, R135: the immediate words of the lane set
complete with these results; the immediate is sign-extended, behind the prefix's 25 bits when one stands before the word, and
cut to 32 bits. -/
def Obligations.LaneIntegerWords : Prop :=
  (∀ (s : State) (g k : Nat) (t m : Bool) (d a b f : BitVec 7) (bs : BitVec 2) (c : BitVec 4) (p : BitVec 3),
    s.cur = .gang g k →
    let u := s.unheld
    let x := fun l => u.laneReg s.cur a.toNat l
    let y := fun l => u.laneOperand s.cur b bs l
    let z := fun l => u.laneReg s.cur d.toNat l
    let put := fun (f : Nat → W32) => (.next (s.after (u.mapLanes s.cur d.toNat f)) : Host.Outcome State Fault Refusal)
    let sat := fun (f : Nat → Int) => (.next (s.after ((u.mapLanes s.cur d.toNat fun l =>
        BitVec.ofInt 32 (max (-2 ^ 31) (min (2 ^ 31 - 1) (f l)))).raiseFlags s.cur
      (if ∃ l ∈ u.active s.cur, f l < -2 ^ 31 ∨ 2 ^ 31 ≤ f l then 0x20 else 0))) : Host.Outcome State Fault Refusal)
    let preds := fun (f : Nat → Bool) => (.next (s.after (u.mapPreds s.cur p.toNat f)) : Host.Outcome State Fault Refusal)
    (s.begins (.add t d a b bs false) = true → exec (.add t d a b bs false) s = put fun l => x l + y l) ∧
    (s.begins (.sub t d a b bs false) = true → exec (.sub t d a b bs false) s = put fun l => x l - y l) ∧
    (s.begins (.add t d a b bs true) = true → exec (.add t d a b bs true) s = sat fun l => (x l).toInt + (y l).toInt) ∧
    (s.begins (.sub t d a b bs true) = true → exec (.sub t d a b bs true) s = sat fun l => (x l).toInt - (y l).toInt) ∧
    (s.begins (.mul t d a b bs) = true → exec (.mul t d a b bs) s = put fun l => x l * y l) ∧
    (s.begins (.mulhi t d a b bs false) = true → exec (.mulhi t d a b bs false) s =
      put fun l => BitVec.ofInt 32 ((x l).toInt * (y l).toInt / 2 ^ 32)) ∧
    (s.begins (.mulhi t d a b bs true) = true → exec (.mulhi t d a b bs true) s =
      put fun l => BitVec.ofNat 32 ((x l).toNat * (y l).toNat / 2 ^ 32)) ∧
    (s.begins (.imad t d a b bs) = true → exec (.imad t d a b bs) s = put fun l => x l * y l + z l) ∧
    (s.begins (.and t d a b bs) = true → exec (.and t d a b bs) s = put fun l => x l &&& y l) ∧
    (s.begins (.or t d a b bs) = true → exec (.or t d a b bs) s = put fun l => x l ||| y l) ∧
    (s.begins (.xor t d a b bs) = true → exec (.xor t d a b bs) s = put fun l => x l ^^^ y l) ∧
    (s.begins (.shl t d a b bs) = true → exec (.shl t d a b bs) s = put fun l => x l <<< ((y l).toNat % 32)) ∧
    (s.begins (.shr t d a b bs m) = true → exec (.shr t d a b bs m) s =
      put fun l => if m then (x l).sshiftRight ((y l).toNat % 32) else x l >>> ((y l).toNat % 32)) ∧
    (s.begins (.min t d a b bs m) = true → exec (.min t d a b bs m) s = put fun l =>
      if m then BitVec.ofNat 32 (min (x l).toNat (y l).toNat) else BitVec.ofInt 32 (min (x l).toInt (y l).toInt)) ∧
    (s.begins (.max t d a b bs m) = true → exec (.max t d a b bs m) s = put fun l =>
      if m then BitVec.ofNat 32 (max (x l).toNat (y l).toNat) else BitVec.ofInt 32 (max (x l).toInt (y l).toInt)) ∧
    (s.begins (.icmp t c p a b bs) = true → exec (.icmp t c p a b bs) s = preds fun l => intCond c.toNat (x l) (y l)) ∧
    (s.begins (.sel t d a b p) = true → exec (.sel t d a b p) s =
      put fun l => if u.lanePred s.cur p.toNat l then x l else u.laneReg s.cur b.toNat l) ∧
    (s.begins (.bfx t d a b bs) = true → exec (.bfx t d a b bs) s = put fun l => fieldExtract (x l) (y l)) ∧
    (s.begins (.bfi t d a b bs) = true → exec (.bfi t d a b bs) s = put fun l => fieldDeposit (x l) (y l)) ∧
    (s.begins (.iun t d a f m) = true → exec (.iun t d a f m) s = .next (s.after
      ((u.mapLanes s.cur d.toNat fun l => (laneUnary f.toNat m l (x l)).1).raiseFlags s.cur
        (if ∃ l ∈ u.active s.cur, (laneUnary f.toNat m l (x l)).2 = true then 0x20 else 0))))) ∧
  (∀ (s : State) (g k : Nat) (t e : Bool) (d a : BitVec 7) (i : BitVec 10) (h : BitVec 5) (j : BitVec 17) (c : BitVec 4)
    (p : BitVec 3), s.cur = .gang g k →
    let u := s.unheld
    let x := fun l => u.laneReg s.cur a.toNat l
    let wide := fun {n : Nat} (own : BitVec n) => (match s.pfx with
      | some q => BitVec.ofInt 32 (q.toInt * 2 ^ n + own.toNat)
      | none => BitVec.ofInt 32 own.toInt : W32)
    let put := fun (f : Nat → W32) => (.next (s.after (u.mapLanes s.cur d.toNat f)) : Host.Outcome State Fault Refusal)
    (s.begins (.addi t d a i) = true → exec (.addi t d a i) s = put fun l => x l + wide i) ∧
    (s.begins (.andi t d a i) = true → exec (.andi t d a i) s = put fun l => x l &&& wide i) ∧
    (s.begins (.ori t d a i) = true → exec (.ori t d a i) s = put fun l => x l ||| wide i) ∧
    (s.begins (.xori t d a i) = true → exec (.xori t d a i) s = put fun l => x l ^^^ wide i) ∧
    (s.begins (.shli t d a h) = true → exec (.shli t d a h) s = put fun l => x l <<< h.toNat) ∧
    (s.begins (.shri t d a e h) = true → exec (.shri t d a e h) s =
      put fun l => if e then (x l).sshiftRight h.toNat else x l >>> h.toNat) ∧
    (s.begins (.movi t d j) = true → exec (.movi t d j) s = put fun _ => wide j) ∧
    (s.begins (.icmpi t c p a i) = true → exec (.icmpi t c p a i) s =
      .next (s.after (u.mapPreds s.cur p.toNat fun l => intCond c.toNat (x l) (wide i)))))

/-- R133, R134: the bit fields of `bfx` and `bfi`, cut at bit 31, and the functions of `iun`. -/
def Obligations.LaneFieldsAndFunctions : Prop :=
  (∀ (a b : W32) (i : Nat), i < 32 →
    let pos := b.toNat % 32
    let len := min (if b.toNat / 2 ^ 8 % 32 = 0 then 32 else b.toNat / 2 ^ 8 % 32) (32 - pos)
    (fieldExtract a b).getLsbD i =
      (if i < len then a.getLsbD (pos + i) else b.getLsbD 13 && a.getLsbD (pos + len - 1)) ∧
    (fieldDeposit a b).getLsbD i = (decide (pos ≤ i) && decide (i < pos + len) && a.getLsbD (i - pos))) ∧
  ∀ (a : W32) (m : Bool) (l : Nat),
    laneUnary 0 m l a = (~~~a, false) ∧
    laneUnary 1 false l a = (-a, false) ∧
    laneUnary 1 true l a = (if a.toInt = -2 ^ 31 then (0x7FFFFFFF, true) else (-a, false)) ∧
    laneUnary 2 false l a = (if a.toInt < 0 then -a else a, false) ∧
    laneUnary 2 true l a = (if a.toInt = -2 ^ 31 then (0x7FFFFFFF, true) else (if a.toInt < 0 then -a else a, false)) ∧
    (∀ i, i < 32 → (laneUnary 5 m l a).1.getLsbD i = a.getLsbD (31 - i)) ∧
    (laneUnary 4 m l a).1.toNat = ((List.range 32).filter fun i => a.getLsbD i).length ∧
    (a = 0 → laneUnary 3 m l a = (32, false)) ∧
    (∀ n, n < 32 → a.getLsbD (31 - n) = true → (∀ i, i < n → a.getLsbD (31 - i) = false) →
      laneUnary 3 m l a = (BitVec.ofNat 32 n, false)) ∧
    laneUnary 6 m l a = (BitVec.ofInt 32 (a.setWidth 8).toInt, false) ∧
    laneUnary 7 m l a = (BitVec.ofInt 32 (a.setWidth 16).toInt, false) ∧
    laneUnary 8 m l a = (BitVec.ofNat 32 l, false) ∧ laneUnary 9 m l a = (BitVec.ofNat 32 (l / 4), false)

/-- R67, R68, R136 to R139: a floating-point word of the lane set delivers each active lane's result and raises the flags of
every lane, or takes one Floating-Point trap, with the flags, and changes no register. That the trap's lanes are those that raised any
exception, enabled or not, is log entry 21. -/
def Obligations.LaneFloatWords : Prop :=
  ∀ (s : State) (g k : Nat) (t m : Bool) (d a b f : BitVec 7) (bs : BitVec 2) (c : BitVec 4) (p r : BitVec 3),
    s.cur = .gang g k →
    let u := s.unheld
    let q := s.uni s.cur
    let x := fun l => u.laneReg s.cur a.toNat l
    let y := fun l => u.floatOperand s.cur b bs l
    let z := fun l => u.laneReg s.cur d.toNat l
    let hy := fun l => u.packedOperand s.cur (halfFmt m) b bs l
    let raised := fun (f : Nat → Flags) => (u.active s.cur).foldl (fun acc l => acc ||| f l) 0
    let trapped := fun (i : Instr) (f : Nat → Flags) => s.trapped i { kind := 0x08, fpx := (raised f).toNat % 32
                                                                      lanes := laneMask ((u.active s.cur).filter fun l => (f l).toNat % 32 != 0) }
    let traps := fun (f : Nat → Flags) => decide (((raised f).toNat % 32) &&& (q.fpctl.toNat / 2 ^ 4 % 32) ≠ 0)
    let out := fun (i : Instr) (f : Nat → Nat × Flags) => (.next (if traps fun l => (f l).2 then trapped i fun l => (f l).2
      else s.after ((u.mapLanes s.cur d.toNat fun l => BitVec.ofNat 32 (f l).1).raiseFlags s.cur (raised fun l => (f l).2))) :
        Host.Outcome State Fault Refusal)
    let two := fun (f : Nat → Nat × Flags) => ((f 0).1 + 65536 * (f 1).1, (f 0).2 ||| (f 1).2)
    let half := fun (v : W32) (e : Nat) => v.toNat / 65536 ^ e % 65536
    let i1 := Instr.fadd t d a b bs
    let i2 := Instr.fsub t d a b bs
    let i3 := Instr.fmul t d a b bs
    let i4 := Instr.ffma t d a b bs
    let i5 := Instr.fmin t d a b bs
    let i6 := Instr.fmax t d a b bs
    let i7 := Instr.fcmp t c p a b bs
    let i8 := Instr.sfu t d a f
    let i9 := Instr.hadd2 t d a b bs m
    let i10 := Instr.hmul2 t d a b bs m
    let i11 := Instr.hfma2 t d a b bs m
    let i12 := Instr.cvt t d a c r m
    (s.begins i1 = true → exec i1 s = out i1 fun l => fp32.addF q.rm q.ftz (x l).toNat (y l)) ∧
    (s.begins i2 = true → exec i2 s = out i2 fun l => fp32.subF q.rm q.ftz (x l).toNat (y l)) ∧
    (s.begins i3 = true → exec i3 s = out i3 fun l => fp32.mulF q.rm q.ftz (x l).toNat (y l)) ∧
    (s.begins i4 = true → exec i4 s = out i4 fun l => fp32.fmaF q.rm q.ftz (x l).toNat (y l) (z l).toNat) ∧
    (s.begins i5 = true → exec i5 s = out i5 fun l => fp32.minMax false q.ftz (x l).toNat (y l)) ∧
    (s.begins i6 = true → exec i6 s = out i6 fun l => fp32.minMax true q.ftz (x l).toNat (y l)) ∧
    (s.begins i7 = true → exec i7 s = .next (
      let v := fun l => fp32.cond q.ftz c.toNat (x l).toNat (y l)
      if traps fun l => (v l).2 then trapped i7 fun l => (v l).2
      else s.after ((u.mapPreds s.cur p.toNat fun l => (v l).1).raiseFlags s.cur (raised fun l => (v l).2)))) ∧
    (s.begins i8 = true → exec i8 s = out i8 fun l => sfuOp f.toNat q (x l)) ∧
    (s.begins i9 = true → exec i9 s =
      out i9 fun l => two fun e => (halfFmt m).addF q.rm q.ftz (half (x l) e) (half (hy l) e)) ∧
    (s.begins i10 = true → exec i10 s =
      out i10 fun l => two fun e => (halfFmt m).mulF q.rm q.ftz (half (x l) e) (half (hy l) e)) ∧
    (s.begins i11 = true → exec i11 s =
      out i11 fun l => two fun e => (halfFmt m).fmaF q.rm q.ftz (half (x l) e) (half (hy l) e) (half (z l) e)) ∧
    (r ≠ 5 → s.begins i12 = true → exec i12 s =
      out i12 fun l => cvtOp c.toNat (q.rounding r.toNat) none q.ftz m (x l)) ∧
    (r = 5 → s.begins i12 = true → exec i12 s = .next (
      let v := fun l => cvtOp c.toNat (q.rounding 5) (some (u.randomBits s.cur l)) q.ftz m (x l)
      if traps fun l => (v l).2 then trapped i12 fun l => (v l).2
      else s.after (((u.mapLanes s.cur d.toNat fun l => BitVec.ofNat 32 (v l).1).raiseFlags s.cur
        (raised fun l => (v l).2)).stepGens s.cur)))

/-- R130, R140 to R145: the cross-lane words complete: a source lane that is not active or does not exist leaves the lane as it
is; `vote` and `redux` write a uniform register; `cmpx` exchanges both registers of a pair of active lanes; a fold that raises
an enabled exception traps with every participant. The destination is empty from issue until the result has been written (that
a `LOAD_REPLY` event writes it is the model's choice, assumption 47), and then it holds these values. R142: what the four votes are, with
no participant too. R143, R144: a fold is the tree of the rule and a prefix its five steps, for every operation; an integer fold is the
fold over the active lanes whatever its order, and an integer prefix over all 32 lanes the running fold. R145: `cmpx`
leaves each pair of active lanes sorted, signed or unsigned, ascending where bit k of the lower lane is clear (for k = 5 always), with
equal keys where they were; the payloads go with the keys. -/
def Obligations.CrossLaneWords : Prop :=
  (∀ (s : State) (g k : Nat) (t m : Bool) (d a b f : BitVec 7) (e : BitVec 6) (bs : BitVec 2) (kk j : BitVec 3),
    s.cur = .gang g k →
    let u := s.unheld
    let ls := (s.group g).lanes k
    let x := fun l => u.laneReg s.cur a.toNat l
    let n := fun l => (u.laneOperand s.cur b bs l).toNat % 32
    let z := fun l => u.laneReg s.cur d.toNat l
    let put := fun (f : Nat → W32) => (.next (s.after (u.crossLanes s.cur d f)) : Host.Outcome State Fault Refusal)
    let from_ := fun (l : Nat) (ok : Bool) (src : Nat) => if ok && ls.contains src then x src else z l
    let folds := fun (i : Instr) (fl : Flags) (t : State) => (.next
      (if ((fl.toNat % 32) &&& ((s.uni s.cur).fpctl.toNat / 2 ^ 4 % 32)) ≠ 0
        then s.trapped i { kind := 0x08, fpx := fl.toNat % 32, lanes := laneMask ls }
        else s.after (t.raiseFlags s.cur fl)) : Host.Outcome State Fault Refusal)
    let red := u.reduxValue s.cur a.toNat f.toNat
    let sc := scanValues f.toNat (s.uni s.cur).ftz m (u.foldInput s.cur a.toNat f.toNat)
    let swap := fun (r : Nat) (l : Nat) => u.laneReg s.cur r ((u.cmpxPartner s.cur d.toNat kk.toNat j.toNat m l).getD l)
    (s.begins (.shflPick t d a b bs) = true → exec (.shflPick t d a b bs) s = put fun l => from_ l true (n l)) ∧
    (s.begins (.shflSwap t d a b bs) = true → exec (.shflSwap t d a b bs) s = put fun l => from_ l true (l ^^^ n l)) ∧
    (s.begins (.shflBack t d a b bs) = true →
      exec (.shflBack t d a b bs) s = put fun l => from_ l (decide (n l ≤ l)) (l - n l)) ∧
    (s.begins (.shflFwd t d a b bs) = true →
      exec (.shflFwd t d a b bs) s = put fun l => from_ l (decide (l + n l < 32)) (l + n l)) ∧
    (s.begins (.vote t e a f m) = true → exec (.vote t e a f m) s =
      .next (s.after (u.crossUni s.cur e.toNat (u.voteValue s.cur a.toNat f.toNat m)))) ∧
    (s.begins (.redux t e a f) = true → exec (.redux t e a f) s =
      folds (.redux t e a f) red.2 (u.crossUni s.cur e.toNat (foldExtend f.toNat red.1))) ∧
    (s.begins (.scan t d a f m) = true → exec (.scan t d a f m) s =
      folds (.scan t d a f m) sc.2 (u.crossLanes s.cur d fun l => sc.1.getD l 0)) ∧
    (s.begins (.cmpx t d a kk j m) = true → exec (.cmpx t d a kk j m) s =
      .next (s.after (u.pushResult s.cur (.two d.toNat a.toNat) (u.byLane s.cur fun l => swap a.toNat l ++ swap d.toNat l))))) ∧
  (∀ (s : State) (g k l : Nat) (d a : BitVec 7) (e : BitVec 6) (f h : Nat → W32) (x : W64),
    (s.groups.find? g).isSome = true → l < 32 →
    let t := ThreadId.gang g k
    let filled := fun (v : State) (p : Group → Prop) =>
      ∃ r, v.reqs.find? s.nextId = some r ∧ r.group = g ∧ r.todo = [] ∧ p ((v.group g).fillDest r)
    let one := s.crossLanes t d f
    let uni := s.crossUni t e.toNat x
    let both := s.pushResult t (.two d.toNat a.toNat) (s.byLane t fun i => h i ++ f i)
    let old := fun r => (s.group g).getV r l
    (one.group g).vEmpty.getLsbD d.toNat = true ∧
    filled one (fun y => y.vEmpty.getLsbD d.toNat = false ∧ y.getV d.toNat l = if l ∈ s.active t then f l else old d.toNat) ∧
    (e ≠ 0 → (uni.group g).uni.empty.getLsbD e.toNat = true ∧
      filled uni (fun y => y.uni.empty.getLsbD e.toNat = false ∧ y.uni.getW e.toNat = x)) ∧
    (d ≠ a → (both.group g).vEmpty.getLsbD d.toNat = true ∧ (both.group g).vEmpty.getLsbD a.toNat = true ∧
      filled both (fun y => y.vEmpty.getLsbD d.toNat = false ∧ y.vEmpty.getLsbD a.toNat = false ∧
        y.getV d.toNat l = (if l ∈ s.active t then f l else old d.toNat) ∧
        y.getV a.toNat l = if l ∈ s.active t then h l else old a.toNat))) ∧
  (∀ (s : State) (t : ThreadId) (a : Nat) (inv : Bool),
    let holds := fun l => s.lanePred t a l ≠ inv
    let m := s.voteValue t a 2 inv
    let some := ∃ l, l ∈ s.active t ∧ holds l
    let all := ∀ l, l ∈ s.active t → holds l
    let same := ∀ l n, l ∈ s.active t → n ∈ s.active t → s.laneReg t a l = s.laneReg t a n
    (some → s.voteValue t a 0 inv = 1) ∧ (¬ some → s.voteValue t a 0 inv = 0) ∧
    (all → s.voteValue t a 1 inv = 1) ∧ (¬ all → s.voteValue t a 1 inv = 0) ∧
    (same → s.voteValue t a 3 inv = 1) ∧ (¬ same → s.voteValue t a 3 inv = 0) ∧
    (∀ l, l < 32 → (m.getLsbD l = true ↔ l ∈ s.active t ∧ holds l) ∧ (m.getLsbD (32 + l) = true ↔ l ∈ s.active t))) ∧
  (∀ (f : Bool) (x y : W32),
    (foldOp 0 f x y).1 = x + y ∧ (foldOp 1 f x y).1.toInt = min x.toInt y.toInt ∧ (foldOp 2 f x y).1.toInt = max x.toInt y.toInt ∧
    (foldOp 3 f x y).1.toNat = min x.toNat y.toNat ∧ (foldOp 4 f x y).1.toNat = max x.toNat y.toNat ∧
    (foldOp 5 f x y).1 = x &&& y ∧ (foldOp 6 f x y).1 = x ||| y ∧ (foldOp 7 f x y).1 = x ^^^ y ∧
    foldOp 8 f x y = laneValue (fp32.addF .rne f x.toNat y.toNat) ∧ foldOp 9 f x y = laneValue (fp32.minMax false f x.toNat y.toNat) ∧
    foldOp 10 f x y = laneValue (fp32.minMax true f x.toNat y.toNat)) ∧
  (∀ (s : State) (t : ThreadId) (a code l : Nat) (ex : Bool), code < 11 → l < 32 →
    let ftz := (s.uni t).ftz
    let op := fun (p q : W32) => (foldOp code ftz p q).1
    let x0 := fun (l : Nat) => if l ∈ s.active t then s.laneReg t a l else foldId code
    let tree := [1, 2, 4, 8, 16].foldl (fun (x : Nat → W32) n => fun l => if l % (2 * n) = 0 then op (x l) (x (l + n)) else x l) x0
    let pre := [1, 2, 4, 8, 16].foldl (fun (x : Nat → W32) n => fun l => if n ≤ l then op (x (l - n)) (x l) else x l) x0
    (s.reduxValue t a code).1 = tree 0 ∧
    (scanValues code ftz ex (s.foldInput t a code)).1.getD l 0 =
      if ex then (if l = 0 then foldId code else pre (l - 1)) else pre l) ∧
  ((∀ (s : State) (t : ThreadId) (a : Nat),
    (s.reduxValue t a 0).1 = (s.active t).foldl (fun acc l => acc + s.laneReg t a l) 0 ∧
    (s.reduxValue t a 6).1 = (s.active t).foldl (fun acc l => acc ||| s.laneReg t a l) 0 ∧
    ((s.reduxValue t a 3).1 = 0xFFFFFFFF ∨ ∃ l, l ∈ s.active t ∧ (s.reduxValue t a 3).1 = s.laneReg t a l) ∧
    (∀ l, l ∈ s.active t → (s.reduxValue t a 3).1.toNat ≤ (s.laneReg t a l).toNat)) ∧
  (∀ (s : State) (t : ThreadId) (a code : Nat), code < 8 →
    (s.reduxValue t a code).1 = (s.active t).foldl (fun acc l => (foldOp code false acc (s.laneReg t a l)).1) (foldId code)) ∧
  (∀ (x : List W32) (ftz : Bool) (code l : Nat), x.length = 32 → code < 8 → l < 32 →
    let op := fun (p q : W32) => (foldOp code ftz p q).1
    (scanValues code ftz false x).1.getD l 0 = (x.take (l + 1)).foldl op (foldId code) ∧
    (scanValues code ftz true x).1.getD l 0 = (x.take l).foldl op (foldId code)) ∧
  (∀ (s : State) (g k d a kk j l : Nat) (u : Bool), kk < 6 → j < 5 → l < 32 → l.testBit j = false →
    let t := ThreadId.gang g k
    let n := l + 2 ^ j
    let from_ := fun i => (s.cmpxPartner t d kk j u i).getD i
    let key := fun (r : W32) => if u then (r.toNat : Int) else r.toInt
    let old := fun i => key (s.laneReg t d i)
    let new := fun i => key (s.laneReg t d (from_ i))
    let desc := l.testBit kk
    (l ∈ s.active t ∧ n ∈ s.active t →
      ((from_ l = l ∧ from_ n = n) ∨ (from_ l = n ∧ from_ n = l)) ∧
      (if desc then new n ≤ new l else new l ≤ new n) ∧ (old l = old n → from_ l = l ∧ from_ n = n) ∧
      (kk = 5 → new l ≤ new n)) ∧
    (l ∉ s.active t ∨ n ∉ s.active t → from_ l = l ∧ from_ n = n)))

/-! ### Control, barriers and jetties -/

/-- R87 to R89: a direct branch taken or not, a call, a landing pad. The target is checked before anything is written. R23,
R89 to R92: `jmpr` goes to an aligned address below 2^48 whose word is a pad with its label, or with label 0xFFF to any;
`jmpt` goes past its table for an index at or above N, else to the pad its entry names. What fails the checks traps and
changes nothing. R32, R33: the prefix goes on to the next word, which it widens, with no boundary between; before any other
word it is an Illegal Instruction. That a return address past the end of the space and the addresses of `jmpt`'s table count modulo
2^48 is the model's choice (log entry 60). -/
def Obligations.TransfersAndPrefix : Prop :=
  (∀ (s : State) (k : BitVec 3) (n t : Bool) (o : BitVec 21) (l : BitVec 12),
    let u := s.unheld
    let pc : Int := (s.pcOf s.cur).toNat
    let tgt : Int := pc + 4 * o.toInt
    let go := fun (i : Instr) (v : State) => (.next (if 0 ≤ tgt ∧ tgt < 2 ^ 48 then s.afterJump v (BitVec.ofInt 48 tgt)
      else s.trapped i { kind := 0x04, addr := BitVec.ofInt 64 tgt }) : Host.Outcome State Fault Refusal)
    (s.begins (.bra k n o) = true → exec (.bra k n o) s =
      if (s.uni s.cur).getK k.toNat = n then .next (s.after u) else go (.bra k n o) u) ∧
    (s.begins (.call o) = true → exec (.call o) s = go (.call o) (u.putW s.cur 63 (BitVec.ofInt 64 ((pc + 4) % 2 ^ 48)))) ∧
    (s.begins (.lpad t l) = true → exec (.lpad t l) s = .next (s.after u))) ∧
  (∀ (s : State) (t : Bool) (a : BitVec 6) (l n : BitVec 12),
    let u := s.unheld
    let x := s.getW s.cur a.toNat
    let pc := s.pcOf s.cur
    let i := Instr.jmpr t a l
    let j := Instr.jmpt t a n
    (s.begins i = true →
      (2 ^ 48 ≤ x.toNat → exec i s = .next (s.trapped i { kind := 0x04, addr := x })) ∧
      (x.toNat < 2 ^ 48 → x.toNat % 4 ≠ 0 → exec i s = .next (s.trapped i { kind := 0x05, addr := x })) ∧
      (x.toNat < 2 ^ 48 → x.toNat % 4 = 0 → l = 0xFFF → exec i s = .next (s.afterJump u (x.setWidth 48))) ∧
      (x.toNat < 2 ^ 48 → x.toNat % 4 = 0 → l ≠ 0xFFF → s.endOf s.cur ≠ some (x.setWidth 48) → ∀ (s1 : State) (w : W32),
        u.fetchWord s.cur (x.setWidth 48) = (s1, .word w) →
        ((∃ q, w = encode (.lpad q l)) → exec i s = .next (s.afterJump s1 (x.setWidth 48))) ∧
        (∀ q m, m ≠ l → m ≠ 0xFFF → w = encode (.lpad q m) →
          exec i s = .next (s.trapped i { kind := 0x07, cause := 2, addr := x })) ∧
        ((∀ q m, m ≠ 0xFFF → w ≠ encode (.lpad q m)) →
          exec i s = .next (s.trapped i { kind := 0x07, cause := 1, addr := x })))) ∧
    (s.begins j = true → ∀ (s1 : State) (h : W32), u.fetchWord s.cur (pc + 4) = (s1, .word h) →
      (2 ^ 12 ≤ h.toNat ∨ h.toNat = 0xFFF →
        exec j s = .next (s.trapped j { kind := 0x07, cause := 3, addr := (pc + 4).setWidth 64 })) ∧
      (h.toNat < 0xFFF → n.toNat ≤ (s1.getW s.cur a.toNat).toNat →
        exec j s = .next (s.afterJump s1 (pc + 8 + 4 * n.setWidth 48))) ∧
      (h.toNat < 0xFFF → (s1.getW s.cur a.toNat).toNat < n.toNat → ∀ (s2 s3 : State) (e : W32) (q : Bool),
        s1.fetchWord s.cur (pc + 8 + 4 * (s1.getW s.cur a.toNat).setWidth 48) = (s2, .word e) →
        0 ≤ (pc.toNat : Int) + 4 * e.toInt → (pc.toNat : Int) + 4 * e.toInt < 2 ^ 48 →
        s2.endOf s.cur ≠ some (BitVec.ofInt 48 (pc.toNat + 4 * e.toInt)) →
        s2.fetchWord s.cur (BitVec.ofInt 48 (pc.toNat + 4 * e.toInt)) = (s3, .word (encode (.lpad q (h.setWidth 12)))) →
        exec j s = .next (s.afterJump s3 (BitVec.ofInt 48 (pc.toNat + 4 * e.toInt)))))) ∧
  (∀ (s s1 : State) (imm : BitVec 25) (w : W32),
    s.begins (.immx imm) = true → s.unheld.fetchWord s.cur (s.pcOf s.cur + 4) = (s1, .word w) →
    (∀ i, decode w = .ok i → (shape i).wide = true →
      exec (.immx imm) s = .next { s1.setPc s.cur (s.pcOf s.cur + 4) with pfx := some imm }) ∧
    ((∀ i, decode w = .ok i → (shape i).wide = false) → exec (.immx imm) s = .next (s.trapped (.immx imm) { kind := 0x01 })))

/-- R147, R148: `jpt` sets the join point of every slice of the gang; `brd` sends a slice whose lanes agree as they agree, and
splits one whose lanes differ: the lanes that fall through go on, the others are deferred with the join point. A split with no
join point, or with a full stack, traps (the slice's number in INDEX is the model's: log entry 64). A slice that goes whole to
the group end point exits (R23). R149: at the join point of its top entry a slice takes up the deferred lanes at their
address, and when these have come there too, all the lanes that parted. -/
def Obligations.DivergenceAndReconvergence : Prop :=
  ((∀ (s : State) (g k : Nat) (o : BitVec 21), s.cur = .gang g k → s.begins (.jpt o) = true →
    let tgt : Int := (s.pcOf s.cur).toNat + 4 * o.toInt
    exec (.jpt o) s = .next (if 0 ≤ tgt ∧ tgt < 2 ^ 48 then
      s.after (s.unheld.mapSlices s.cur fun _ sl => { sl with jp := some (BitVec.ofInt 48 tgt) })
      else s.trapped (.jpt o) { kind := 0x04, addr := BitVec.ofInt 64 tgt })) ∧
  (∀ (s : State) (g k : Nat) (p : BitVec 3) (n : Bool) (o : BitVec 21), s.cur = .gang g k → s.begins (.brd p n o) = true →
    let u := s.unheld
    let tgt : Int := (s.pcOf s.cur).toNat + 4 * o.toInt
    let tk := fun i (sl : Slice) => u.sliceCond s.cur p.toNat n i sl.act
    0 ≤ tgt → tgt < 2 ^ 48 →
    (∀ e, e ∈ u.slicesOf s.cur → tk e.1 e.2 = 0 ∨ tk e.1 e.2 = e.2.act ∨ (e.2.jp.isSome = true ∧ e.2.stack.length < 8)) →
    ∀ m : BitVec 8, (∀ i, i < 8 → (m.getLsbD i = true ↔ ∃ e, e ∈ u.slicesOf s.cur ∧ e.1 = i ∧ tk e.1 e.2 = e.2.act)) →
    exec (.brd p n o) s = .next (s.afterMoved ((u.mapSlices s.cur fun i sl =>
      sl.branch (s.pcOf s.cur) (BitVec.ofInt 48 tgt) (tk i sl)).regroup s.cur) m)) ∧
  (∀ (sl : Slice) (pc tgt : Addr) (tk : BitVec 4),
    sl.branch pc tgt sl.act = { sl with pc := tgt } ∧
    (sl.act ≠ 0 → sl.branch pc tgt 0 = { sl with pc := pc + 4 }) ∧
    (tk ≠ sl.act → tk ≠ 0 → ∀ j, sl.jp = some j → sl.branch pc tgt tk =
      { sl with act := sl.act &&& ~~~tk, pc := pc + 4, stack := ⟨j, sl.act, tgt, tk⟩ :: sl.stack })) ∧
  (∀ (s : State) (g k : Nat) (p : BitVec 3) (n : Bool) (o : BitVec 21) (i : Nat) (sl : Slice) (rest : List (Nat × Slice)),
    s.cur = .gang g k → s.begins (.brd p n o) = true →
    let u := s.unheld
    let tk := u.sliceCond s.cur p.toNat n i sl.act
    0 ≤ (s.pcOf s.cur).toNat + 4 * o.toInt → (s.pcOf s.cur).toNat + 4 * o.toInt < 2 ^ 48 →
    u.slicesOf s.cur = (i, sl) :: rest → tk ≠ 0 → tk ≠ sl.act →
    (sl.jp = none → exec (.brd p n o) s = .next (s.trapped (.brd p n o) { kind := 0x09, cause := 3 })) ∧
    (sl.jp.isSome = true → 8 ≤ sl.stack.length →
      exec (.brd p n o) s = .next (s.trapped (.brd p n o) { kind := 0x0A, index := i })))) ∧
  (∀ (sl : Slice) (e : Reconv) (rest : List Reconv) (n : Nat), sl.stack = e :: rest →
    (sl.pc ≠ e.rpc → sl.reconverge (n + 1) = sl) ∧
    (sl.pc = e.rpc → e.dmask ≠ 0 → e.dpc ≠ e.rpc → sl.reconverge (n + 1) =
      { sl with pc := e.dpc, act := e.dmask, jp := some e.rpc, stack := { e with dmask := 0 } :: rest }) ∧
    (sl.pc = e.rpc → e.dmask = 0 → (∀ f, f ∈ rest.head? → f.rpc ≠ sl.pc) → sl.reconverge (n + 1) =
      { sl with act := e.saved, jp := some e.rpc, stack := rest }))

/-- R98, R150, R151, R195: `regang` and `exit` complete: each slice of the gang waits at its word with its number, once the
group's earlier accesses have been performed, or loses the lanes that exit; what that settles for the group follows. A slice
with a stacked entry may not `regang`. R98: waiting slices
of a group: while one that lives does not wait, nothing; when all wait at one address with one number, they become one gang at
the next word; when two differ, their waits end and the gang of the lowest takes Illegal-Convergence with cause 1 at its word. -/
def Obligations.RegangAndExit : Prop :=
  (∀ (s : State) (g k : Nat) (t n : Bool) (imm : BitVec 10) (p : BitVec 3), s.cur = .gang g k →
    let u := s.unheld
    (s.begins (.regang t imm) = true →
      ((∀ e, e ∈ u.slicesOf s.cur → e.2.stack = []) → u.pendingAny s.cur 0 = false → exec (.regang t imm) s = .next (s.afterMoved
        ((u.mapSlices s.cur fun _ sl => { sl with regang := some (sl.pc, imm, t) }).settleRegang g) 0)) ∧
      ((∀ e, e ∈ u.slicesOf s.cur → e.2.stack = []) → u.pendingAny s.cur 0 = true →
        exec (.regang t imm) s = .next (s.stay u)) ∧
      ((∃ e, e ∈ u.slicesOf s.cur ∧ e.2.stack ≠ []) →
        exec (.regang t imm) s = .next (s.trapped (.regang t imm) { kind := 0x09, cause := 2 }))) ∧
    (s.begins (.exit p n) = true → ∀ m : BitVec 8, (∀ i, i < 8 → (m.getLsbD i = true ↔
        ∃ e, e ∈ u.slicesOf s.cur ∧ e.1 = i ∧ u.sliceCond s.cur p.toNat n e.1 e.2.act = e.2.act)) →
      exec (.exit p n) s = .next (s.afterMoved
        (((u.mapSlices s.cur fun i sl => sl.exitLanes (s.pcOf s.cur) (u.sliceCond s.cur p.toNat n i sl.act)).regroup
          s.cur).settleRegang g) m))) ∧
  (∀ (s : State) (g : Nat),
    let x := s.group g
    let free := fun (sl : Slice) => { sl with regang := none }
    ((∃ sl, sl ∈ x.slices ∧ sl.live ≠ 0 ∧ sl.regang = none) → s.settleRegang g = s) ∧
    (∀ a n sl rest, x.slices.filter (fun y => y.live != 0) = sl :: rest →
      (∀ y, y ∈ x.slices → y.live ≠ 0 → y.pc = sl.pc ∧ ∃ b, y.regang = some (a, n, b)) →
      s.settleRegang g = s.setGroup g { x with slices := x.slices.map fun y =>
        if y.live = 0 then y else { free y with pc := sl.pc + 4, gang := sl.gang, waiting := false } }) ∧
    (∀ sl rest a n b, x.slices.filter (fun y => y.live != 0) = sl :: rest → sl.regang = some (a, n, b) →
      (∀ y, y ∈ rest → y.regang.isSome = true) →
      (∃ y c m d, y ∈ rest ∧ y.regang = some (c, m, d) ∧ (c ≠ a ∨ m ≠ n)) →
      s.settleRegang g = (s.setGroup g { x with slices := x.slices.map free }).takeTrap (.gang g sl.gang)
        { kind := 0x09, cause := 1 } sl.pc sl.pc (encode (.regang b n))))

/-- R153, R154: the words of a barrier: `hold` holds the group while its bit stands; `board` and `cross` open the phase or
join it, set the group's bit, complete the phase when its party has arrived, and `cross` holds the group; a group that has
arrived waits, and so does one with earlier accesses to perform. A gang that does not hold every slice of its group takes the
Illegal-Convergence trap, cause 4, instead. What the engines may still read of stores to scratchpad
follows the arrival, the phase's end and the hold (R154). R153: a phase completes exactly when every living group of its party has arrived: the bits clear, the phase
closes and its number rises by one; until then nothing changes. -/
def Obligations.Barriers : Prop :=
  (∀ (s : State) (g k : Nat) (t : Bool) (y kd : BitVec 2) (n : BitVec 4), s.cur = .gang g k →
    s.begins (.bar t y kd n) = true →
    let u := s.unheld
    ((u.group g).whole k = false → exec (.bar t y kd n) s = .next (s.trapped (.bar t y kd n) { kind := 0x09, cause := 4 })) ∧
    ((u.group g).whole k = true →
    let x := u.group g
    let tm := u.team x.team
    let b := tm.bars.get {} n.toNat
    let held := fun (v : State) => v.setGroup g { v.group g with barHold := some n.toNat }
    let b1 : Barrier := { b with isOpen := true, party := if b.isOpen then b.party else y
                                 arrived := b.arrived ||| BitVec.ofNat 16 (2 ^ x.num) }
    let arrive := fun (v : State) => (v.setTeam x.team { tm.mapNoted fun m => publishNotes m x.num n.toNat with
      bars := tm.bars.put {} n.toNat b1 }).settleBarrier x.team n.toNat
    ((u.descOf x.team).inParty y.toNat x.num = false →
      exec (.bar t y kd n) s = .next (s.trapped (.bar t y kd n) { kind := 0x0D, cause := 1, index := n.toNat })) ∧
    ((u.descOf x.team).inParty y.toNat x.num = true →
      (kd = 2 → exec (.bar t y kd n) s = .next (s.after (held (u.setTeam x.team
        (if b.arrived.getLsbD x.num then tm else tm.mapNoted fun m => holdNotes m x.num n.toNat))))) ∧
      (kd ≠ 2 → b.arrived.getLsbD x.num = true ∨ ((b.isOpen = false ∨ b.party = y) ∧ u.pendingAny s.cur 1 = true) → exec (.bar t y kd n) s = .next (s.stay u)) ∧
      (kd ≠ 2 → b.arrived.getLsbD x.num = false → b.isOpen = true → b.party ≠ y →
        exec (.bar t y kd n) s = .next (s.trapped (.bar t y kd n) { kind := 0x0D, cause := 2, index := n.toNat })) ∧
      (kd ≠ 2 → b.arrived.getLsbD x.num = false → b.isOpen = false ∨ b.party = y → u.pendingAny s.cur 1 = false →
        exec (.bar t y kd n) s = .next (s.after (arrive (if kd = 1 then u else held u))))))) ∧
  (∀ (s : State) (team n : Nat),
    let b := (s.team team).bars.get {} n
    let t := s.settleBarrier team n
    let all := ∀ m, m ∈ s.livingNums team → (s.descOf team).inParty b.party.toNat m = true → b.arrived.getLsbD m = true
    (b.isOpen = true → all →
      (t.team team).bars.get {} n = { b with arrived := 0, isOpen := false, phase := b.phase + 1 } ∧
      (∀ m, m ≠ n → (t.team team).bars.get {} m = (s.team team).bars.get {} m) ∧ t.groups = s.groups) ∧
    (b.isOpen = false ∨ ¬ all → t = s))

/-- R115, R119 to R126, R176: the jetty words: `jwr` writes a free register, publishing a value or arming a reduction; `jrd`
takes a completed reduction; `jrel` counts one reader off and empties the register after the last. What releases writes the
cluster's STREAM buffer out, and a group's release waits for its earlier accesses. A register that is not ready makes
the word wait with T 0 and trap with T 1; a register of the wrong kind traps. R116, R122, R123, R143: `contribution` folds the
active lanes and then its value into an Armed register of its operation, which is full when the expected number has arrived.
-/
def Obligations.Jetties : Prop :=
  (∀ (s : State) (t : Bool) (d a : BitVec 6) (m : BitVec 4) (c : BitVec 8),
    let u := s.unheld
    let cpt := s.cptOf s.cur
    let x := u.jetty cpt d.toNat
    let y := u.jetty cpt a.toNat
    let unready := fun (i : Instr) (tr : Trap) => (.next (if t then s.trapped i tr else s.stay u) : Host.Outcome State Fault Refusal)
    (s.begins (.jwr t d a m c) = true →
      (x.full = false → (x.reduce = false ∨ x.arr = 0) →
        exec (.jwr t d a m c) s = .next (s.after ((u.flushStream cpt).setJetty cpt d.toNat
          (if m = 0 then { x with value := s.getW s.cur a.toNat, reduce := false, rc := c, full := true }
          else { x with value := foldExtend (m.toNat - 1) ((s.getW s.cur a.toNat).setWidth 32), reduce := true, op := m - 1
                        exp := c, arr := 0, full := false })))) ∧
      (x.full = true ∨ (x.reduce = true ∧ x.arr ≠ 0) →
        exec (.jwr t d a m c) s = unready (.jwr t d a m c) { kind := 0x0B, index := d.toNat })) ∧
    (s.begins (.jrd t d a) = true →
      (y.reduce = true → y.full = true → exec (.jrd t d a) s = .next (s.after
        ((u.setJetty cpt a.toNat { y with full := false, arr := 0, exp := 0 }).putW s.cur d.toNat y.value))) ∧
      (y.reduce = false → y.full = true →
        exec (.jrd t d a) s = .next (s.trapped (.jrd t d a) { kind := 0x0C, cause := 3, index := a.toNat })) ∧
      (y.full = false → exec (.jrd t d a) s = unready (.jrd t d a) { kind := 0x03, index := a.toNat })) ∧
    (s.begins (.jrel t a) = true →
      (y.reduce = false → y.full = true → u.pendingAny s.cur 2 = true → exec (.jrel t a) s = .next (s.stay u)) ∧
      (y.reduce = false → y.full = true → u.pendingAny s.cur 2 = false → exec (.jrel t a) s = .next (s.after
        ((u.flushStream cpt).setJetty cpt a.toNat { y with rc := y.rc - 1, full := decide (y.rc ≠ 1) }))) ∧
      (y.reduce = true → exec (.jrel t a) s = .next (s.trapped (.jrel t a) { kind := 0x0C, cause := 1, index := a.toNat })) ∧
      (y.reduce = false → y.full = false → exec (.jrel t a) s = unready (.jrel t a) { kind := 0x03, index := a.toNat }))) ∧
  (∀ (s : State) (g k : Nat) (t : Bool) (j : BitVec 6) (a f : BitVec 7), s.cur = .gang g k →
    s.begins (.contribution t j a f) = true →
    let u := s.unheld
    let i := Instr.contribution t j a f
    let x := u.jetty (s.cptOf s.cur) j.toNat
    let r := u.reduxValue s.cur a.toNat f.toNat
    let armed := x.reduce = true ∧ x.full = false ∧ x.exp ≠ 0
    (s.uni s.cur).enabled r.2 = false →
    (armed → f.toNat = x.op.toNat → u.pendingAny s.cur 2 = true → exec i s = .next (s.stay u)) ∧
    (armed → f.toNat = x.op.toNat → u.pendingAny s.cur 2 = false →
      exec i s = .next (s.after (((u.flushStream (s.cptOf s.cur)).setJetty (s.cptOf s.cur) j.toNat { x with
        value := foldExtend x.op.toNat (foldOp x.op.toNat false (x.value.setWidth 32) r.1).1
        arr := x.arr + 1
        full := decide (x.arr + 1 = x.exp) }).raiseFlags s.cur r.2))) ∧
    (armed → f.toNat ≠ x.op.toNat → exec i s = .next (s.trapped i { kind := 0x0C, cause := 3, index := j.toNat })) ∧
    (x.reduce = false → x.full = true → exec i s = .next (s.trapped i { kind := 0x0C, cause := 2, index := j.toNat })) ∧
    (¬ armed → (x.reduce = true ∨ x.full = false) →
      exec i s = .next (if t then s.trapped i { kind := 0x0B, index := j.toNat } else s.stay u)))

/-! ### Memory -/

/-- R21, R180, R219, R309: the checks of a memory word on the virtual addresses of its lanes, in their order: range,
alignment, translation, watchpoints. The lowest failing lane gives the trap and all the failing lanes its mask. R367, by the
model's reading of it (log entry 40): the access waits while the host may hold a line that its walk reads, and that of a thread
which issues nothing behind it while the host may hold a line it reads. R180: the
checks at a leaf, cause 2 before cause 4: the permission the access needs, then the kinds the type admits. -/
def Obligations.MemoryChecks : Prop :=
  (∀ (s : State) (t : ThreadId) (k : AccKind) (rd wr : Bool) (n : Nat) (xs : List (Nat × W64)) (f : W64 → Except Nat Phys),
    (∀ e, e ∈ xs → s.translate (s.spaceOf t) e.2.toNat k (levelOf t == 0) = (s, f e.2)) →
    let far := xs.filter fun e => decide (2 ^ 48 ≤ e.2.toNat)
    let odd := xs.filter fun e => decide (e.2.toNat % n ≠ 0)
    let lost := xs.filter fun e => !(f e.2).isOk
    let walks := s.snoopHost (xs.flatMap fun e => s.walkLines (s.spaceOf t) e.2.toNat)
    let mask := fun (ys : List (Nat × W64)) => laneMask (ys.map (·.1))
    (∀ e rest, far = e :: rest →
      s.checkVirtual t k rd wr n xs = .stop (.trap { kind := 0x04, addr := e.2, lanes := mask far })) ∧
    (∀ e rest, far = [] → odd = e :: rest →
      s.checkVirtual t k rd wr n xs = .stop (.trap { kind := 0x05, addr := e.2, lanes := mask odd })) ∧
    (∀ s1, far = [] → odd = [] → walks = some s1 → s.checkVirtual t k rd wr n xs = .stop (.wait s1)) ∧
    (∀ e rest c, far = [] → odd = [] → walks = none → lost = e :: rest → f e.2 = .error c →
      s.checkVirtual t k rd wr n xs = .stop (.fault c e.2 (mask lost))) ∧
    (far = [] → odd = [] → walks = none → ∀ g : W64 → Phys, (∀ e, e ∈ xs → f e.2 = .ok (g e.2)) →
      (∀ e, e ∈ xs → s.watched t false rd wr e.2.toNat n = none) →
      (rd = false ∨ isGang t = true ∨ s.hostWait (xs.map fun e => g e.2) = none →
        s.checkVirtual t k rd wr n xs = .ok s (xs.map fun e => (e.1, e.2, g e.2))) ∧
      (∀ s1, rd = true → isGang t = false → s.hostWait (xs.map fun e => g e.2) = some s1 →
        s.checkVirtual t k rd wr n xs = .stop (.wait s1)))) ∧
  (∀ (e : W64) (level va : Nat) (k : AccKind) (user : Bool) (ty : MemTy), MemTy.ofCode (e.toNat / 2 ^ 5 % 8) = some ty →
    let denied := (k.writes = true ∧ e.getLsbD 2 = false) ∨ (k = .fetch ∧ e.getLsbD 3 = false) ∨
      (user = true ∧ e.getLsbD 4 = false)
    (denied → leafCheck e level va k user = .error 2) ∧
    (¬ denied → ty.admits k = false → leafCheck e level va k user = .error 4) ∧
    (¬ denied → ty.admits k = true →
      leafCheck e level va k user = .ok ⟨e.toNat / 2 ^ 12 % 2 ^ 40 * 2 ^ 12 + va % pageSize level, ty⟩))

/-- R84, R184, R190, R222, R227: the memory words of a spine or service thread complete, plain and ordered: the address is the
register plus the widened immediate times the size; a load that the checks let by writes the zero-extended bytes to `w[D]`, a
store writes the low bytes of `w[D]`, an atomic writes the old value. R203, R207: a load of device or system scope is an acquire.
R202, R207: a store of device or system scope is a release: once no earlier access is pending, no lost store is to be reported
and its write-backs are acknowledged, it stores with its signature; one of cluster scope writes out the STREAM buffer first (R176).
R199: an ordered atomic is both. A store that no slice performs is outstanding until it is acknowledged, and
waits while its far end has no identifier left (R364). A walk and a read wait while the host may hold their lines, and so does a
word that would fill such a line, by the model's reading of R367 (log entry 40): the hypotheses ask for lines it does not hold. That
a pending signature is replaced is log entry 46. -/
def Obligations.ScalarMemoryWords : Prop :=
  ∀ (s s1 : State) (t : Bool) (d a b : BitVec 6) (o : BitVec 8) (z : BitVec 2) (c : BitVec 4) (p : Phys),
    (∀ g k, s.cur ≠ .gang g k) →
    let u := s.unheld
    let n := 2 ^ z.toNat
    let x := s.getW s.cur a.toNat + s.wideImm o * BitVec.ofNat 64 n
    let y := s.getW s.cur a.toNat
    let fine := fun (x : W64) (k : AccKind) (rd wr : Bool) (n : Nat) => x.toNat < 2 ^ 48 ∧ x.toNat % n = 0 ∧
      u.watched s.cur false rd wr x.toNat n = none ∧
      u.snoopHost (u.walkLines (u.spaceOf s.cur) x.toNat) = none ∧
      u.translate (u.spaceOf s.cur) x.toNat k (levelOf s.cur == 0) = (s1, .ok p) ∧
      (rd = true → s1.snoopHost [p.pa / 128] = none)
    let tag := s1.threadTag s.cur
    let cpt := s.cptOf s.cur
    let wide := fun (q : BitVec 2) => decide (2 ≤ q.toNat)
    let clear := fun (q : BitVec 2) (lines : List Nat) => q = 0 ∨ (s1.pendingAny s.cur (ordScope q.toNat) = false ∧
      s1.snoopHost (s1.releaseLines cpt (ordScope q.toNat) ++ lines) = none ∧ s1.lostReport s.cur (ordScope q.toNat) = none ∧
      s1.releaseWait cpt (ordScope q.toNat) = none)
    (∀ q, s.begins (.uld t d a o z q) = true → fine x .load true false n → s1.fullFor cpt [p] = false →
      let r := if wide q then s1.acquireLoad cpt (q == 3) p n tag else s1.loadBytes cpt p n tag
      let v := r.1.putW s.cur d.toNat (BitVec.ofNat 64 r.2.1)
      r.2.2 = false → u.filledHeld v = none → exec (.uld t d a o z q) s = .next (s.after v)) ∧
    (∀ q, s.begins (.ust t d a o z q) = true → fine x .store false true n → clear q [p.pa / 128] →
      let v := s.getW s.cur d.toNat
      let b := if q = 0 then (s1, 0) else if q = 1 then (s1.flushStream cpt, 0) else s1.beginWide cpt (q == 3)
      let r := if wide q then b.1.releaseStore cpt b.2 p n v.toNat x tag else b.1.storeBytes cpt p n v.toNat x tag
      let done := fun (w : State) => (.next (s.after (if wide q then w.replacePending cpt b.2 else w)) :
        Host.Outcome State Fault Refusal)
      r.2 = .stored →
      (p.direct = false → exec (.ust t d a o z q) s = done r.1) ∧
      (∀ far, p.direct = true → s1.targetOf (s1.partOfCpt cpt) p = some far → b.1.targetOf (b.1.partOfCpt cpt) p = some far →
        s1.crowdedBy cpt far 1 = false → exec (.ust t d a o z q) s =
          done (r.1.post (.thread s.cur) cpt far (.store p.ty p.pa n v tag) 0))) ∧
    (∀ q, s.begins (.uamo t d a b c q) = true → fine y .atomic true true 8 → clear q [] → s1.fullFor cpt [p] = false →
      let v := if q = 1 then s1.flushStream cpt else s1
      let b1 := (s.getW s.cur b.toNat).toNat
      let b2 := if c = 9 then (s.getW s.cur (b.toNat + 1)).toNat else 0
      let r := if wide q then v.orderedAtomic cpt (q == 3) p 8 c.toNat b1 b2 tag else v.atomicBytes cpt p 8 c.toNat b1 b2 tag
      let old := BitVec.ofNat 64 r.2.1
      let f := (r.1.requestTo cpt p old).putW s.cur d.toNat old
      r.2.2.1 = false → r.2.2.2 = .stored → u.filledHeld f = none → exec (.uamo t d a b c q) s = .next (s.after f))

/-- R86, R218, R220 to R225: a load or atomic of group code that passes its checks issues: its destination is empty until the data
comes, and its accesses stand as one pending request. R220, R310: the data of a pending load whose older accesses of the group
have been made comes, once the host holds no line of it (the model's reading of R367: log entry 40), its far ends have identifiers
free (R364) and no link replays the replies it waits for (R373), and so does that of an atomic whose every lane has been performed: the request is gone with the identifiers it used (R364), its destination is full with the data of its lanes,
poisoned where that came poisoned. -/
def Obligations.PendingAccesses : Prop :=
  (∀ (s s1 : State) (g k : Nat) (t : Bool) (d a : BitVec 7) (w : BitVec 6) (z o : BitVec 2) (c : BitVec 4)
    (e : BitVec 6) (b : BitVec 6) (i : BitVec 8) (ps : List (Nat × W64 × Phys)), s.cur = .gang g k →
    let u := s.unheld
    let n := 2 ^ z.toNat
    let xs := u.laneAddrs s.cur w a
    let push := fun (v : State) (dst : Dest) (op : Option Nat) (ord : Nat) (todo : List LaneAcc) =>
      (.next (s.after (v.pushReq g { group := g, gang := k, dst := dst, todo := todo, op := op, ord := ord })) :
        Host.Outcome State Fault Refusal)
    let at_ := fun (n : Nat) (e : Nat × W64 × Phys) =>
      ({ lane := e.1, addr := e.2.2.pa, size := n, ty := some e.2.2.ty, va := e.2.1 } : LaneAcc)
    let accs := ps.map fun e => { at_ (if c = 11 then 8 else 4) e with
      b := s1.laneData s.cur d (c == 11) e.1
      c := if c = 9 then (s1.laneReg s.cur (d.toNat + 1) e.1).setWidth 64 else 0 }
    (s.begins (.ld t d a w z o) = true → u.checkVirtual s.cur .load true false n xs = .ok s1 ps →
      exec (.ld t d a w z o) s = push s1 (.v d.toNat (z == 3)) none o.toNat (ps.map (at_ n))) ∧
    (s.begins (.lds t d a w z) = true → u.checkPool s.cur true n xs = none → exec (.lds t d a w z) s =
      push u (.v d.toNat (z == 3)) none 0
        (xs.map fun e => { lane := e.1, addr := e.2.toNat, size := n, ty := none, va := e.2 })) ∧
    (∀ pp, s.begins (.ldp t d a w z) = true → u.checkPriv s.cur false (z == 3) n xs = .ok (s1, pp) →
      exec (.ldp t d a w z) s = push s1 (.v d.toNat (z == 3)) none 0 (pp.map fun e =>
        { at_ (min n 4) (e.1, e.2.1, e.2.2.2) with b := BitVec.ofNat 64 e.2.2.1 })) ∧
    (s.begins (.uld t e b i z o) = true → u.checkUniform s.cur .load true false n (u.uniAddr s.cur b i n) = .ok s1 ps →
      exec (.uld t e b i z o) s = push s1 (.w e.toNat) none o.toNat (ps.map (at_ n))) ∧
    (u.checkVirtual s.cur .atomic true true (if c = 11 then 8 else 4) xs = .ok s1 ps → s1.blocked s.cur accs = false →
      (s.begins (.atom t d a w c) = true →
        exec (.atom t d a w c) s = push s1 (.v d.toNat (c == 11)) (some c.toNat) 0 accs) ∧
      (s.begins (.red t d a w c) = true → accs ≠ [] →
        exec (.red t d a w c) s = push s1 .nothing (some c.toNat) 0 accs))) ∧
  (∀ (s : State) (n : Nat) (r : Req), s.reqs.find? n = some r → s.meetsOlder r.group n r.todo = false →
    r.op = none ∨ r.todo = [] → s.hostWait r.pages = none → s.operandRegs r.group = [] →
    let t := ThreadId.gang r.group r.gang
    s.replyHeld (s.cptOf t) r = false → s.fullFor (s.cptOf t) r.pages = false →
    let q := s.readAll (s.cptOf t) (s.group r.group).team (s.threadTag t) r r.todo
    let v := ({ q.1 with
      reqs := q.1.reqs.erase n
      outs := r.sent.foldl (fun m i => m.erase (2 ^ 16 * s.cptOf t + i)) q.1.outs } : State).setGroup r.group
      ((q.1.group r.group).fillDest q.2)
    s.filledHeld v = none → exec (.loadReply n) s = .next v)

/-- R176, R202, R207, R218 to R224, R230, R364: a store of group code, plain or release, that passes its checks, meets no pending
access and finds identifiers free at its far ends stores each active lane's bytes and completes; one that no slice performs is
outstanding until it is acknowledged. R202, R222: a release of device or system scope, once no earlier access of the gang is
pending, no lost store is to be reported and its write-backs are acknowledged, stores every lane's bytes with its signature; one of
cluster scope writes out the STREAM buffer first. `xst` sends a packet for each active lane. That the lanes store in ascending order is the model's
choice (log entry 20), and so is that `xst` completes as it sends, its gang waiting at its next word until its packets have
been accepted (log entry 37); that a release waits while the host may hold a line it writes back is log entry 40, and what it
does with a pending signature log entry 46. -/
def Obligations.StoreWords : Prop :=
  ∀ (s s1 : State) (g k : Nat) (t : Bool) (d a : BitVec 7) (w : BitVec 6) (z q : BitVec 2) (e b : BitVec 6) (i : BitVec 8)
    (ps : List (Nat × W64 × Phys)), s.cur = .gang g k →
    let u := s.unheld
    let n := 2 ^ z.toNat
    let xs := u.laneAddrs s.cur w a
    let gr := s.grid (s.gridOf s.cur)
    let tgt := s.getW s.cur w.toNat
    let off := fun l => (tgt.setWidth 32 + u.laneReg s.cur a.toNat l : W32).toNat
    let acc := fun (n : Nat) (a : W64) (p : Phys) => ({ lane := 0, addr := p.pa, size := n, ty := some p.ty, va := a } : LaneAcc)
    let one := fun (q : BitVec 2) (sig : Sig) (n : Nat) (v : State) (e : W64 × Phys × W64) =>
      let cpt := v.cptOf s.cur
      let tag := v.threadTag s.cur
      let r := if 2 ≤ q.toNat then v.releaseStore cpt sig e.2.1 n e.2.2.toNat e.1 tag
        else v.storeBytes cpt e.2.1 n e.2.2.toNat e.1 tag
      let y := match v.targetOf (v.partOfCpt cpt) e.2.1 with
        | some far => if e.2.1.direct = true ∧ r.2 = StoreEnd.stored then
            r.1.post (.thread (.gang g 0)) cpt far (.store e.2.1.ty e.2.1.pa n e.2.2 tag) 0 else r.1
        | none => r.1
      y.markStore s.cur e.1 r.2
    let ready := fun (q : BitVec 2) (n : Nat) (xs : List (W64 × Phys × W64)) => let sc := ordScope q.toNat
      s1.blocked s.cur (xs.map fun e => acc n e.1 e.2.1) = false ∧ s1.fullTarget s.cur xs = false ∧
      (q = 0 ∨ (s1.pendingAny s.cur sc = false ∧
        s1.snoopHost (s1.releaseLines (s1.cptOf s.cur) sc ++ xs.map fun e => e.2.1.pa / 128) = none ∧
        s1.lostReport s.cur sc = none ∧ s1.releaseWait (s1.cptOf s.cur) sc = none))
    let all := fun (q : BitVec 2) (n : Nat) (xs : List (W64 × Phys × W64)) =>
      let r := if q = 0 then (s1, 0) else if q = 1 then (s1.flushStream (s1.cptOf s.cur), 0)
        else s1.beginWide (s1.cptOf s.cur) (q == 3)
      let v := xs.foldl (one q r.2 n) r.1
      (.next (s.after (if 2 ≤ q.toNat then v.replacePending (s1.cptOf s.cur) r.2 else v)) : Host.Outcome State Fault Refusal)
    let full := fun (e : Nat × W64 × Phys) => (e.2.1, e.2.2, s1.laneData s.cur d (z == 3) e.1)
    let part := fun (e : Nat × W64 × Nat × Phys) => (e.2.1, e.2.2.2, s1.laneData s.cur d (z == 3) e.1 >>> e.2.2.1)
    let word := fun (f : Nat × W64 × Phys) => (f.2.1, f.2.2, s1.getW s.cur e.toNat)
    (s.begins (.st t d a w z q) = true → u.checkVirtual s.cur .store false true n xs = .ok s1 ps → ready q n (ps.map full) →
      exec (.st t d a w z q) s = all q n (ps.map full)) ∧
    (s.begins (.ust t e b i z q) = true → u.checkUniform s.cur .store false true n (u.uniAddr s.cur b i n) = .ok s1 ps →
      ready q n (ps.map word) → exec (.ust t e b i z q) s = all q n (ps.map word)) ∧
    (s.begins (.sts t d a w z) = true → u.checkPool s.cur false n xs = none →
      u.blocked s.cur (xs.map fun e => { lane := e.1, addr := e.2.toNat, size := n, ty := none, va := e.2 }) = false →
      exec (.sts t d a w z) s = .next (s.after (xs.foldl (fun v e =>
        (v.noteStore g e.2.toNat n).poolWrite (s.group g).team e.2.toNat n
          (u.laneData s.cur d (z == 3) e.1).toNat) u))) ∧
    (∀ pp, s.begins (.stp t d a w z) = true → u.checkPriv s.cur true (z == 3) n xs = .ok (s1, pp) →
      ready 0 (min n 4) (pp.map part) → exec (.stp t d a w z) s = all 0 (min n 4) (pp.map part)) ∧
    (∀ team, s.begins (.xst t d a w z) = true → tgt.toNat / 2 ^ 32 < gr.count →
      (∀ l, l ∈ s.active s.cur → off l + n ≤ 1024 * gr.desc.exch ∧ off l % n = 0) →
      s.teamOf (s.gridOf s.cur) (tgt.toNat / 2 ^ 32) = some team → (s.team team).placed = true →
      u.crowdedBy (s.cptOf s.cur) (some ((s.team team).cluster / 64)) (s.active s.cur).length = false →
      exec (.xst t d a w z) s = .next (s.after { u with xpkts := s.xpkts ++ (s.active s.cur).map fun l =>
        { src := s.cptOf s.cur, dst := (s.team team).cluster, group := g, slices := (s.group g).sliceMask k, sender := (s.group g).team, team := team, off := off l, size := n
          data := u.laneData s.cur d (z == 3) l } }))

/-- R8, R184: SHARED and PRIVATE bytes through a coherence point that has room for the line: a store changes the bytes it stores and no other byte that
the point gives, no byte another point gives and no byte at home; a load of bytes the point holds, or of a sector it does not
hold, gives those bytes. -/
def Obligations.BytesThroughTheCache : Prop :=
  ∀ (s : State) (cpt pa n v : Nat) (ty : MemTy) (va : W64), 0 < n → pa % 64 + n ≤ 64 → pa < 2 ^ 52 →
    s.makeRoom cpt pa = s →
    let t := s.cachedStore cpt ty pa n v va
    (∀ a, a < 2 ^ 52 → t.byteAt cpt a = if pa ≤ a ∧ a < pa + n then BitVec.ofNat 8 (v / 2 ^ (8 * (a - pa))) else s.byteAt cpt a) ∧
    (∀ c a, c ≠ cpt → a < 2 ^ 52 → t.byteAt c a = s.byteAt c a) ∧ t = { s with l1 := t.l1 } ∧
    ((∀ x, s.sector? cpt pa = some x → ∀ i, i < n → x.valid.getLsbD (pa % 64 + i) = true) →
      ∀ i, i < n → BitVec.ofNat 8 ((s.cachedLoad cpt ty pa n).2.1 / 2 ^ (8 * i)) = s.byteAt cpt (pa + i)) ∧
    (s.cachedLoad cpt ty pa n).1.mem = s.mem

/-- R190, R225: the next atomic of a request is performed at its home slice, in ascending lane order, once its far end has an
identifier free (R364) and the host holds its line no more (by the model's reading of R367: log entry 40): it returns the old
value, and memory holds the new one; it is
outstanding until its reply has returned, or its acknowledgement where the word keeps no old value. R199, R205: an ordered atomic of
device or system scope is performed between a release and an acquire: the release's signature joins that of its line, and the one
it finds there is folded: no SHARED sector that matches it stays in the cluster. R177: one on a PEER page of
host memory is performed there: no slice and no L1 takes its line. R226: the operations of the atomics on n bits, `fadd` and
`add.d` among them. -/
def Obligations.Atomics : Prop :=
  ((∀ (s : State) (n op : Nat) (r : Req) (x : LaneAcc) (rest : List LaneAcc), s.reqs.find? n = some r → r.op = some op →
    r.todo = x :: rest → s.meetsOlder r.group n [x] = false →
    let t := ThreadId.gang r.group r.gang
    let cpt := s.cptOf t
    let p : Phys := ⟨x.addr, x.ty.getD .shared⟩
    let far := s.targetOf (s.partOfCpt cpt) p
    let keep := r.dst != .nothing
    s.crowdedBy cpt far 1 = false →
    s.snoopHost ((if r.ord < 2 then [] else s.releaseLines cpt (ordScope r.ord)) ++ [x.addr / 128]) = none →
    r.ord < 2 ∨ s.releaseWait cpt (ordScope r.ord) = none →
    let q := if r.ord < 2 then s.atomicBytes cpt p x.size op x.b.toNat x.c.toNat (s.threadTag t)
      else s.orderedAtomic cpt (r.ord == 3) p x.size op x.b.toNat x.c.toNat (s.threadTag t)
    let v := q.1.markStore t x.va q.2.2.2
    let w := if q.2.2.2 = .stored then v.sendAtomic t x op keep (BitVec.ofNat 64 q.2.1) q.2.2.1 else v
    let out := keep = true ∧ q.2.2.2 = .stored ∧ v.targetOf (v.partOfCpt cpt) p ≠ some (requesterDie cpt)
    let y := { r.take x.lane 0 q.2.1 q.2.2.1 with todo := rest, sent := if out then r.sent ++ [v.reqNo cpt] else r.sent }
    let z := ({ w with
      reqs := if rest.isEmpty && !keep then w.reqs.erase n else w.reqs.insert n y } : State).tryRetireGroup r.group
    s.filledHeld z = none → exec (.sliceAtomic n) s = .next z) ∧
  (∀ (s : State) (cpt n code b c tag : Nat) (sys : Bool) (p : Phys), s.l1.sorted = true → regionOf p.pa ≠ .peer →
    let line := p.pa / 128
    let g := s.beginWide cpt sys
    let a := g.1.atomicBytes cpt p n code b c tag
    let q := s.orderedAtomic cpt sys p n code b c tag
    q.2 = a.2 ∧ g.2 &&& ~~~q.1.sigOf line = 0 ∧ a.1.sigOf line &&& ~~~q.1.sigOf line = 0 ∧
    a.1.sigOf line &&& ~~~(q.1.acc cpt).cur = 0 ∧
    ∀ e, e ∈ q.1.sectorsOf cpt → e.2.ty = .shared → sigMatches (sectorAddr e.1 / 128) (a.1.sigOf line) = false) ∧
  (∀ (s : State) (cpt pa n code b c : Nat), regionOf pa = .host →
    let q := s.atomicBytes cpt ⟨pa, .peer⟩ n code b c
    q.2.1 = s.homeValue pa n ∧ q.1.l1 = s.l1 ∧ q.1.l2 = s.l2) ∧
  (∀ (s : State) (cpt pa n code b c : Nat) (ty : MemTy), n = 4 ∨ n = 8 → pa % n = 0 → pa < 2 ^ 40 →
    s.owns (s.partOfCpt cpt) pa = true → s.sector? cpt pa = none → s.l1.find? (l1Key cpt (pa / 128 * 128)) = none →
    s.l1.find? (l1Key cpt (pa / 128 * 128 + 64)) = none → s.foreign pa = none →
    let old := memRead s.mem pa n
    let q := s.atomicBytes cpt ⟨pa, ty⟩ n code b c
    q.2.1 = old ∧
    (∀ v, atomicNew code (8 * n) old b c = some v → memRead q.1.mem pa n = v % 2 ^ (8 * n) ∧
      ∀ a, a < pa ∨ pa + n ≤ a → memByte q.1.mem a = memByte s.mem a) ∧
    (atomicNew code (8 * n) old b c = none → q.1.mem = s.mem))) ∧
  (∀ (n old b c : Nat), n = 32 ∨ n = 64 → old < 2 ^ n → b < 2 ^ n →
    let sg := fun (x : Nat) => (BitVec.ofNat n x).toInt
    atomicNew 0 n old b c = some ((old + b) % 2 ^ n) ∧ atomicNew 1 n old b c = some (old &&& b) ∧
    atomicNew 2 n old b c = some (old ||| b) ∧ atomicNew 3 n old b c = some (old ^^^ b) ∧
    (∃ v, atomicNew 4 n old b c = some v ∧ sg v = min (sg old) (sg b)) ∧
    (∃ v, atomicNew 5 n old b c = some v ∧ sg v = max (sg old) (sg b)) ∧
    atomicNew 6 n old b c = some (min old b) ∧ atomicNew 7 n old b c = some (max old b) ∧ atomicNew 8 n old b c = some b ∧
    atomicNew 9 n old b c = (if old = b then some c else none) ∧
    atomicNew 10 32 old b c = some (fp32.addF .rne false old b).1 ∧ atomicNew 10 64 old b c = some (fp64.addF .rne false old b).1 ∧
    atomicNew 11 64 old b c = some ((old + b) % 2 ^ 64) ∧
    atomicNew 12 n old b c = some (if b ≤ old then 0 else old + 1) ∧
    atomicNew 13 n old b c = some (if old = 0 ∨ b < old then b else old - 1))

/-- R199, R204, R228, R229: `fence` and the functions of `cache` complete, once no access of the thread that the scope orders is
pending and no lost store is to be reported; the hints of `cache` do nothing. R342, R371: a fence of device scope or above that
finds a store dropped takes the Poison trap with its address instead, and one of system scope that finds a store refused; whose
loss is reported first, and that the report is used up, is log entry 23. What goes to a slice waits while the host may hold
its line, by the model's reading of R367 (log entry 40); R202, R207: a fence that is a release has not begun before its write-backs
are acknowledged. R176, R201, R206: the events of the caches complete: a dirty SHARED
sector is written back, a line of the STREAM buffer goes to its slice once it is complete or 1,000 ns have passed since its first
store, and the accumulator rotates when its time has come. -/
def Obligations.FencesAndCacheEvents : Prop :=
  (∀ (s s1 : State) (t y : Bool) (sc : BitVec 3) (k : BitVec 2) (a f : BitVec 6) (p : Phys),
    let u := s.unheld
    let x := s.getW s.cur a.toNat
    let va := x - BitVec.ofNat 64 (x.toNat % 128)
    (s.begins (.fence t y sc k) = true → u.pendingAny s.cur sc.toNat = false →
      (∀ s2, u.snoopHost (u.releaseLines (s.cptOf s.cur) sc.toNat) = some s2 → exec (.fence t y sc k) s = .next (s.stay s2)) ∧
      (u.snoopHost (u.releaseLines (s.cptOf s.cur) sc.toNat) = none →
        (u.lostReport s.cur sc.toNat = none →
          (∀ s2, k.getLsbD 1 = true → u.releaseWait (s.cptOf s.cur) sc.toNat = some s2 → exec (.fence t y sc k) s = .next (s.stay s2)) ∧
          (k.getLsbD 1 = false ∨ u.releaseWait (s.cptOf s.cur) sc.toNat = none →
            let v := (if y then u.fenceAsync s.cur else u).fenceActs (s.cptOf s.cur) sc.toNat k
            u.filledHeld v = none → exec (.fence t y sc k) s = .next (s.after v))) ∧
        (∀ s2 tr, u.lostReport s.cur sc.toNat = some (s2, tr) → exec (.fence t y sc k) s =
          .next ((s2.unbegun s.wordPc).takeTrap s.cur tr s.wordPc s.wordPc (encode (.fence t y sc k)))))) ∧
    (s.begins (.cache t a f) = true →
      (2 ^ 48 ≤ x.toNat → exec (.cache t a f) s = .next (s.trapped (.cache t a f) { kind := 0x04, addr := x })) ∧
      (x.toNat < 2 ^ 48 → f.toNat < 2 → exec (.cache t a f) s = .next (s.after u)) ∧
      (x.toNat < 2 ^ 48 → 2 ≤ f.toNat → f.toNat < 5 →
        u.translate (u.spaceOf s.cur) va.toNat (if f = 3 then .lineWrite else .lineRead) (levelOf s.cur == 0) = (s1, .ok p) →
        f = 2 ∨ s1.blocked s.cur [{ lane := 0, addr := p.pa, size := 128, ty := some p.ty, va := va }] = false →
        (u.filledHeld (s1.cacheLine s.cur f.toNat va p) = none →
          exec (.cache t a f) s = .next (s.after (s1.cacheLine s.cur f.toNat va p))) ∧
        (∀ s2, u.filledHeld (s1.cacheLine s.cur f.toNat va p) = some s2 → exec (.cache t a f) s = .next (s.stay s2))) ∧
      (x.toNat < 2 ^ 48 → f = 5 →
        u.translate (u.spaceOf s.cur) va.toNat .zero (levelOf s.cur == 0) = (s1, .ok p) →
        s1.watched s.cur false false true va.toNat 128 = none →
        s1.blocked s.cur [{ lane := 0, addr := p.pa, size := 128, ty := some p.ty, va := va }] = false →
        u.filledHeld (s1.cacheLine s.cur 5 va p) = none →
        exec (.cache t a f) s = .next (s.after (s1.cacheLine s.cur 5 va p))))) ∧
  (∀ (s : State) (t : ThreadId) (scope : Nat),
    let poison := fun (a : W64) => ({ kind := 0x16, addr := a } : Trap)
    let acc := s.acc (s.cptOf t)
    (scope < 3 → s.lostReport t scope = none) ∧
    (3 ≤ scope → (∀ a, (s.lost t).1 = some a → s.lostReport t scope = some (s.clearLost t false, poison a)) ∧
      ((s.lost t).1 = none → (∀ a, acc.dropped = some a →
          s.lostReport t scope = some (s.setAcc (s.cptOf t) { acc with dropped := none }, poison a)) ∧
        (acc.dropped = none → (∀ a, (s.lost t).2 = some a →
            s.lostReport t scope = if scope = 4 then some (s.clearLost t true, poison a) else none) ∧
          ((s.lost t).2 = none → s.lostReport t scope = none))))) ∧
  (∀ (s : State) (cpt sector line : Nat),
    (∀ x, s.l1.find? (l1Key cpt (sector * 64)) = some x → x.ty = .shared → s.snoopHost [sector / 2] = none →
      exec (.dirtyWriteback cpt sector) s = .next (s.writeBack cpt (sector * 64))) ∧
    (∀ x, s.wc.find? (wcKey cpt (line * 128)) = some x → let due := x.mask = BitVec.allOnes 128 ∨ x.since + 1000 ≤ s.time
      (due → s.snoopHost [line] = none →
        exec (.streamBufferFlush cpt line) s = .next (s.flushLine cpt (wcKey cpt (line * 128)))) ∧
      (¬ due → exec (.streamBufferFlush cpt line) s = .next s)) ∧
    (((s.acc cpt).epoch + 1) * s.leaseNs (s.partOfCpt cpt) ≤ s.time → exec (.accumulatorRotate cpt) s =
      .next (s.setAcc cpt { s.acc cpt with prev := (s.acc cpt).cur, cur := 0, wrotePrev := (s.acc cpt).wrote, wrote := 0
                                           epoch := (s.acc cpt).epoch + 1 })))

/-- R201 to R207: what a release and an acquire do at device scope: after a release every dirty SHARED sector of the cluster
is clean, its bytes stand at home and the signature covers their lines; after an acquire fence the cluster holds no SHARED
sector, so that a later read comes from home. R203: an acquire load of a SHARED location reads it at its home slice, past the
cluster's own copy, whose bytes have gone there first; Sig(line) is folded into the accumulator and no SHARED sector that matches it
stays. R202, R205: the write of a release store of a SHARED location is performed at its home slice, the release's signature joins
Sig(line), which keeps what it had, and the cluster's own copy reads as stored. R207: at system scope an acquire leaves no sector but those
of PRIVATE pages, which leave or stay, dirty ones by no fence: R174 and R207 differ there (log entry 24). R342, R371: a release that
would otherwise go on, and that finds a lost store, reports it in its place. -/
def Obligations.ReleaseAndAcquire : Prop :=
  (∀ (s : State) (cpt pa : Nat) (x : Sector), pa < 2 ^ 40 → pa % 64 = 0 → s.l1.find? (l1Key cpt pa) = some x →
    s.owns (s.partOfCpt cpt) pa = true → x.dirty ≠ 0 →
    let t := s.writeBack cpt pa
    t.l1.find? (l1Key cpt pa) = some { x with dirty := 0 } ∧
    (∀ i, i < 64 → x.dirty.getLsbD i = true → memByte t.mem (pa + i) = BitVec.ofNat 8 (x.data.toNat / 2 ^ (8 * i))) ∧
    (∀ a, a < pa ∨ pa + 64 ≤ a → memByte t.mem a = memByte s.mem a)) ∧
  (∀ (s : State) (cpt : Nat), s.l1.sorted = true →
    (∀ e, e ∈ ((s.fenceRelease cpt).sectorsOf cpt) → e.2.ty = .shared → e.2.dirty = 0) ∧
    (∀ e, e ∈ s.sectorsOf cpt → e.2.ty = .shared → e.2.dirty ≠ 0 →
      ∃ g, ((s.fenceRelease cpt).acc cpt).pending = some g ∧ sigMatches (sectorAddr e.1 / 128) g = true) ∧
    (∀ e, e ∈ (s.fenceAcquire cpt).sectorsOf cpt → e.2.ty ≠ .shared) ∧
    (∀ e, e ∈ (s.foldEvery cpt).sectorsOf cpt → e.2.ty = .priv) ∧
    (∀ e, e ∈ s.sectorsOf cpt → e.2.ty = .priv → e.2.dirty ≠ 0 → e ∈ (s.foldEvery cpt true).sectorsOf cpt) ∧
    ((∀ e, e ∈ s.sectorsOf cpt → e.2.ty = .priv → e ∈ (s.foldEvery cpt).sectorsOf cpt) ∨ (s.foldEvery cpt).sectorsOf cpt = []) ∧
    ((s.foldEvery cpt).acc cpt).cur = BitVec.allOnes 512 ∧ ((s.fenceAcquire cpt).acc cpt).cur = BitVec.allOnes 512) ∧
  (∀ (s : State) (cpt n tag : Nat) (sys : Bool) (p : Phys), s.l1.sorted = true → p.ty = .shared →
    s.owns (s.partOfCpt cpt) p.pa = true → regionOf p.pa ≠ .peer →
    let u := s.evictSector cpt p.pa
    let g := u.sigOf (p.pa / 128)
    let q := s.acquireLoad cpt sys p n tag
    q.2 = (u.homeValue p.pa n, u.badAt p.pa) ∧ g &&& ~~~(q.1.acc cpt).cur = 0 ∧ q.1.sector? cpt p.pa = none ∧
    (∀ e, e ∈ q.1.sectorsOf cpt → e.2.ty = .shared → sigMatches (sectorAddr e.1 / 128) g = false ∧ sys = false) ∧
    (sys = true → (q.1.acc cpt).cur = BitVec.allOnes 512)) ∧
  (∀ (s : State) (cpt pa n v tag : Nat) (g : Sig) (va : W64), 0 < n → pa % 64 + n ≤ 64 → pa < 2 ^ 40 → s.foreign pa = none →
    s.owns (s.partOfCpt cpt) pa = true →
    let q := s.releaseStore cpt g ⟨pa, .shared⟩ n v va tag
    q.2 = .stored ∧ memRead q.1.mem pa n = v % 2 ^ (8 * n) ∧
    (∀ a, a < pa ∨ pa + n ≤ a → memByte q.1.mem a = memByte s.mem a) ∧
    g &&& ~~~q.1.sigOf (pa / 128) = 0 ∧ s.sigOf (pa / 128) &&& ~~~q.1.sigOf (pa / 128) = 0 ∧
    ∀ i, i < n → q.1.byteAt cpt (pa + i) = BitVec.ofNat 8 (v / 2 ^ (8 * i))) ∧
  (∀ (s s1 : State) (t : ThreadId) (ord n : Nat) (xs : List (W64 × Phys × W64)) (tr : Trap), 0 < ord →
    s.blocked t (xs.map fun e => toAcc n (0, e.1, e.2.1)) = false → s.pendingAny t (ordScope ord) = false →
    s.fullTarget t xs = false →
    s.snoopHost (s.releaseLines (s.cptOf t) (ordScope ord) ++ xs.map fun e => e.2.1.pa / 128) = none →
    s.lostReport t (ordScope ord) = some (s1, tr) → s.storeWord t ord n xs = .report s1 tr)

/-! ### Traps, calls, contexts and hails -/

/-- R297, R312: `sys.trap` and `sys.bkpt` complete, and then the thread takes their trap, which RESUME follows with the next
word. R314: `sys.halt` completes: a reserved field traps, a grid or team that is not there gives status 1, HALT completes when
every named unit has stopped, RESUME gives 0 or, when nothing was halted, 2, and ABORT ends the grid. R308, R314: RESUME lets
a halted group run from its slices' program counters with its step flag, and a halted spine instance run or go on waiting for
its reply; a group that is not halted stays as it is. -/
def Obligations.TrapHaltAndResumeWords : Prop :=
  (∀ (s : State) (t : Bool) (n : BitVec 6),
    let taken := fun (i : Instr) (kind : Nat) =>
      (s.after s.unheld).takeTrap s.cur { kind := kind, cause := n.toNat } s.wordPc (s.pcOf s.cur + 4) (encode i)
    (s.begins (.sysTrap t n) = true → exec (.sysTrap t n) s = .next (taken (.sysTrap t n) 0x17)) ∧
    (s.begins (.sysBkpt t n) = true → exec (.sysBkpt t n) s = .next (taken (.sysBkpt t n) 0x18))) ∧
  (∀ (s : State) (t : Bool) (d a : BitVec 6), s.begins (.sysHalt t d a) = true →
    let u := s.unheld
    let i := Instr.sysHalt t d a
    let x := s.getW s.cur a.toNat
    let y := (s.getW s.cur (a.toNat + 1)).toNat
    let num := y % 2 ^ 32
    let all := num == 2 ^ 32 - 1
    let act := y / 2 ^ 32 % 8
    let ok := x.toNat < 2 ^ 32 ∧ y / 2 ^ 36 % 2 ^ 12 = 0 ∧ act < 3
    let put := fun (v : State) (r : W64) => (.next (s.after (v.putW s.cur d.toNat r)) : Host.Outcome State Fault Refusal)
    (¬ ok → exec i s = .next (s.trapped i { kind := 0x0E, cause := 1 })) ∧
    (ok → u.gridNamed (s.partOf s.cur) (x.setWidth 32) = none → exec i s = put u 1) ∧
    (∀ k, ok → u.gridNamed (s.partOf s.cur) (x.setWidth 32) = some k →
      (all = false → (s.grid k).count ≤ num → exec i s = put u 1) ∧
      (all = true ∨ num < (s.grid k).count →
        (act = 0 → (u.beginHalt k all num).haltDone k all num = true →
          exec i s = put ((u.beginHalt k all num).releasePart (s.partOf s.cur)).1 0) ∧
        (act = 0 → (u.beginHalt k all num).haltDone k all num = false → exec i s = .next (s.stay (u.beginHalt k all num))) ∧
        (act = 1 → let r := u.resumeNamed k all num (y.testBit 35) (BitVec.ofNat 16 (y / 2 ^ 48))
          exec i s = put r.1 (if r.2 then 0 else 2)) ∧
        (act = 2 → exec i s = put (u.abortGrid k) 0)))) ∧
  (∀ (s : State) (g c : Nat) (b : Bool),
    ((s.group g).mode = .halted → s.resumeGroup g b = s.setGroup g { s.group g with mode := .run, step := b }) ∧
    (∀ w, (s.group g).mode = .parked w true → s.resumeGroup g b = s.setGroup g { s.group g with mode := .parked w false, step := b }) ∧
    ((s.group g).mode = .run → s.resumeGroup g b = s) ∧
    ((s.scalar (.spine c)).mode = .halted → s.openCall (.spine c) = none → ((s.resumeSpine c).scalar (.spine c)).mode = .run) ∧
    (∀ r, (s.scalar (.spine c)).mode = .halted → s.openCall (.spine c) = some r →
      ((s.resumeSpine c).scalar (.spine c)).mode = .calling r))

/-- R304 to R307: `sys.svc` and `svc` make a call once the thread may park: a request with `w1` to `w8`, or with the active
lanes and the park record's place; `w1` and `w2` are empty until the reply. A gang that does not hold every slice of its group
takes the Illegal-Convergence trap, cause 8, at `svc` instead. `sys.eret` answers an open call after a release, whose write-backs
are acknowledged (R202), and names no other; where its release finds a lost store it takes that report instead (R342). A parked group whose reply has come
returns. R305, R307: a spine thread's call enters its partition's queue, with a notice, leaves `w1` and `w2` empty and the
thread waiting; the reply fills them and the thread goes on after its word. That the notice waits while a new service image is
to take over is log entry 36; where the park record stands is log entry 13. -/
def Obligations.ServiceCalls : Prop :=
  (∀ (s : State) (t : Bool) (n a : BitVec 6) (m : BitVec 10) (group : Nat),
    let u := s.unheld
    (s.begins (.sysSvc t n) = true → exec (.sysSvc t n) s =
      .next (s.stay (if u.mayPark s.cur then u.makeCall s.cur n.toNat else u))) ∧
    (∀ g k, s.cur = .gang g k → s.begins (.svc t m) = true → (u.group g).whole k = true → u.mayPark s.cur = true →
      let c : Call := { caller := s.cur, lane := true, number := m.toNat
                        payload := [BitVec.ofNat 64 m.toNat, (laneMask ((u.group g).lanes k)).setWidth 64, BitVec.ofNat 64 (u.parkAddr g)] }
      let r := (u.parkGroup g .ready).callService s.cur c
      exec (.svc t m) s = .next (s.stay (r.1.parkedFor g (.call r.2.toNat)))) ∧
    (∀ g k, s.cur = .gang g k → s.begins (.svc t m) = true →
      ((u.group g).whole k = false → exec (.svc t m) s = .next (s.trapped (.svc t m) { kind := 0x09, cause := 8 })) ∧
      ((u.group g).whole k = true → u.mayPark s.cur = false → exec (.svc t m) s = .next (s.stay u))) ∧
    (s.begins (.sysEret t a) = true → let id : W32 := (s.getW s.cur a.toNat).setWidth 32
      (u.callOf s.cur id = none → exec (.sysEret t a) s = .next (s.trapped (.sysEret t a) { kind := 0x0E, cause := 1 })) ∧
      (∀ c s2, u.callOf s.cur id = some c → u.lostReport s.cur 3 = none → u.releaseWait (s.cptOf s.cur) 3 = some s2 →
        exec (.sysEret t a) s = .next (s.stay s2)) ∧
      (∀ c, u.callOf s.cur id = some c → u.lostReport s.cur 3 = none → u.releaseWait (s.cptOf s.cur) 3 = none →
        let r := u.releaseDevice (s.cptOf s.cur)
        exec (.sysEret t a) s = .next (s.after ((r.1.closeCall s.cur id).takeReply c
          (s.getW s.cur (a.toNat + 1)) (s.getW s.cur (a.toNat + 2)) r.2))) ∧
      (∀ c s1 tr, u.callOf s.cur id = some c → u.lostReport s.cur 3 = some (s1, tr) → exec (.sysEret t a) s =
        .next ((s1.unbegun s.wordPc).takeTrap s.cur tr s.wordPc s.wordPc (encode (.sysEret t a))))) ∧
    exec (.unpark group) s = .next (s.unparkGroup group)) ∧
  ((∀ (s : State) (c n : Nat) (p : Part), s.parts.find? (s.partOf (.spine c)) = some p →
    let t := s.makeCall (.spine c) n
    (t.scalar (.spine c)).mode = .calling p.nextCall.toNat ∧ (t.uni (.spine c)).empty.getLsbD 1 = true ∧
    (t.uni (.spine c)).empty.getLsbD 2 = true ∧ (t.part (s.partOf (.spine c))).nextCall = p.nextCall + 1 ∧
    (t.part (s.partOf (.spine c))).calls.find? p.nextCall.toNat =
      some { caller := .spine c, lane := false, number := n, payload := (List.range 8).map fun i => s.getW (.spine c) (i + 1) } ∧
    (t.part (s.partOf (.spine c))).notices = (if p.nextImage = none then
      pushNotice p.notices ⟨5, BitVec.ofNat 8 (s.ctxOf (.spine c)), BitVec.ofNat 32 p.nextCall.toNat⟩ else p.notices)) ∧
  (∀ (s : State) (c req : Nat) (k : Call) (v1 v2 : W64) (g : Sig), k.caller = .spine c → (s.spines.find? c).isSome = true →
    (s.scalar (.spine c)).mode = .calling req →
    let t := s.takeReply k v1 v2 g
    t.getW (.spine c) 1 = v1 ∧ t.getW (.spine c) 2 = v2 ∧ (t.uni (.spine c)).empty.getLsbD 1 = false ∧
    (t.scalar (.spine c)).mode = .run ∧ t.pcOf (.spine c) = s.pcOf (.spine c) + 4))

/-- R14, R313, R332, R359, R360: `sys.yield`, `sys.waiti`, `sys.codefence`, `sys.vdist` and `sys.vdie` complete: a thread
yields only under a request; `sys.waiti` gives 1 for a deliverable hail, else 0 once its time has come, which is also an
event; after `sys.codefence` the core holds no fetched word. -/
def Obligations.WaitingAndQueryWords : Prop :=
  ∀ (s : State) (t : Bool) (d a b : BitVec 6) (th : ThreadId),
    let u := s.unheld
    let v : State := { s with cur := th }
    let put := fun (r : W64) => (.next (s.after (u.putW s.cur d.toNat r)) : Host.Outcome State Fault Refusal)
    (s.begins (.sysYield t) = true →
      exec (.sysYield t) s = .next (s.after (if u.requested s.cur then u.yieldThread s.cur else u))) ∧
    (s.begins (.sysWaiti t d a) = true →
      (u.hailFor s.cur = true → exec (.sysWaiti t d a) s = put 1) ∧
      (u.hailFor s.cur = false → (s.getW s.cur a.toNat).toNat ≤ s.time → exec (.sysWaiti t d a) s = put 0) ∧
      (u.hailFor s.cur = false → s.time < (s.getW s.cur a.toNat).toNat → exec (.sysWaiti t d a) s = .next (s.stay u))) ∧
    (v.begins (.sysWaiti t d a) = true → (s.fetchWord th (s.pcOf th)).2 = .word (encode (.sysWaiti t d a)) →
      s.runnable th = true → s.hailFor th = false → (s.getW th a.toNat).toNat ≤ s.time →
      exec (.waitiTimeReached th) s = .next (v.after (v.unheld.putW th d.toNat 0))) ∧
    (s.begins (.sysCodefence t) = true → exec (.sysCodefence t) s = .next (s.after { u with
      icache := u.icache.filter fun e => e.1 / 2 ^ 50 != s.fetchCore s.cur })) ∧
    (s.begins (.sysVdist t d a b) = true → exec (.sysVdist t d a b) s = put
      (match u.dieFor s.cur ((s.getW s.cur a.toNat).toNat % 16), u.dieFor s.cur ((s.getW s.cur b.toNat).toNat % 16) with
        | some p, some q => BitVec.ofNat 64 (if p = q then 0 else if p / 4 = q / 4 then 1 else if p / 4 + q / 4 = 3 then 3 else 2)
        | _, _ => BitVec.allOnes 64)) ∧
    (s.begins (.sysVdie t d a) = true → exec (.sysVdie t d a) s = put
      (match u.dieFor s.cur ((s.getW s.cur a.toNat).toNat % 16) with
        | some p => u.vdieStatus s.cur p
        | none => 0))

/-- R303: the words of a fault handler: without an open record of that identifier status 1; else `sys.fmap` fills the page and
closes the record where the leaf may be filled (status 2 where not), `sys.fretry` closes it, `sys.fskip` emulates the word
(status 3 where it may not), `sys.fabort` makes it trap. That `sys.fmap` reads its source at any alignment is log entry 29; that
an entry which reads poisoned or outside the partition is not valid is log entry 68. R367: `sys.fmap` waits while the host may hold
a line that it fills, by log entry 40. -/
def Obligations.FaultHandlerWords : Prop :=
  ∀ (s : State) (t : Bool) (d a : BitVec 6),
    let u := s.unheld
    let part := s.partOf s.cur
    let ctx := s.ctxOf s.cur
    let arg := s.getW s.cur (a.toNat + 1)
    let put := fun (v : State) (r : W64) => (.next (s.after (v.putW s.cur d.toNat r)) : Host.Outcome State Fault Refusal)
    (s.begins (.sysFmap t d a) = true → arg = 0 →
      (u.handledRecord s.cur a = none → exec (.sysFmap t d a) s = put u 1) ∧
      (∀ f, u.handledRecord s.cur a = some f →
        (leafAddr (u.entryRead part) (f.page * 4096) [1, 2, 3, 4] (u.ctx part ctx).info.root = none → exec (.sysFmap t d a) s = put u 2) ∧
        (∀ ea, leafAddr (u.entryRead part) (f.page * 4096) [1, 2, 3, 4] (u.ctx part ctx).info.root = some ea →
          ((u.entryRead part ea).testBit 9 = true → let v := u.fillPage part (u.threadTag s.cur) ea 0 []
            (u.filledHeld v = none → exec (.sysFmap t d a) s = put (v.dropRecord part ctx f.recid) 0) ∧
            (∀ w, u.filledHeld v = some w → exec (.sysFmap t d a) s = .next (s.stay w))) ∧
          ((u.entryRead part ea).testBit 9 = false → exec (.sysFmap t d a) s = put u 2)))) ∧
    (∀ (s1 : State) (fr : Frames) (f : FaultRec) (ea : Nat), s.begins (.sysFmap t d a) = true → arg ≠ 0 → arg.toNat < 2 ^ 48 →
      u.translateRange (u.spaceOf s.cur) .load (levelOf s.cur == 0) arg.toNat 4096 = (s1, .ok fr) →
      s1.handledRecord s.cur a = some f →
      leafAddr (s1.entryRead part) (f.page * 4096) [1, 2, 3, 4] (s1.ctx part ctx).info.root = some ea →
      (s1.entryRead part ea).testBit 9 = true → let tag := u.threadTag s.cur
      let v := (s1.touchFrames part (256 + part) tag fr arg.toNat 4096).fillPage part tag ea (s1.readFrames part fr arg.toNat 4096)
        (s1.badPieces part fr arg.toNat)
      (u.filledHeld v = none → exec (.sysFmap t d a) s = put (v.dropRecord part ctx f.recid) 0) ∧
      (∀ w, u.filledHeld v = some w → exec (.sysFmap t d a) s = .next (s.stay w))) ∧
    (s.begins (.sysFretry t d a) = true →
      (u.handledRecord s.cur a = none → exec (.sysFretry t d a) s = put u 1) ∧
      (∀ f, u.handledRecord s.cur a = some f → exec (.sysFretry t d a) s = put (u.dropRecord part ctx f.recid) 0)) ∧
    (s.begins (.sysFskip t d a) = true →
      (u.handledRecord s.cur a = none → exec (.sysFskip t d a) s = put u 1) ∧
      (∀ f, u.handledRecord s.cur a = some f → let v := u.dropRecord part ctx f.recid
        (u.mayEmulate f = false → exec (.sysFskip t d a) s = put u 3) ∧
        (u.mayEmulate f = true →
          exec (.sysFskip t d a) s = put (if v.isThere f.opener then v.skipWord f arg else v) 0))) ∧
    (s.begins (.sysFabort t d a) = true →
      (u.handledRecord s.cur a = none → exec (.sysFabort t d a) s = put u 1) ∧
      (∀ f, u.handledRecord s.cur a = some f → exec (.sysFabort t d a) s = put (u.abortRecord part ctx f.recid) 0))

/-- R331, R332, R337 to R339: requests against a context and the switches between contexts: a request makes a resident context
SAVING, NOW and the deadline force its save, DESTROY ends a SAVED one, and what names no context counts a launch error; a
switch gives the status of its checks, waits for the save it needs, and then completes with status 0; only `sys.ctxsw` is timed
(R339). R208, R265, R331: the settings of a partition keep their limits, and the lease and the classes change only while no
context is resident. -/
def Obligations.ContextRequestsAndSwitches : Prop :=
  (∀ (s : State) (part lease pdl ntags ovfgen target : Nat) (classen : BitVec 4) (p : Part), s.parts.find? part = some p →
    let q := (s.configPart part lease pdl ntags ovfgen target classen).part part
    let none_ := s.ctxsOf part (fun x => x == .resident || x == .saving) = []
    q.target = target ∧ q.pdl = (if 1000 ≤ pdl ∧ pdl ≤ 10000000 then BitVec.ofNat 32 pdl else p.pdl) ∧
    (none_ → q.lease = (if 4 ≤ lease ∧ lease ≤ 1024 then lease else p.lease) ∧ q.classen = classen) ∧
    (¬ none_ → q.lease = p.lease ∧ q.classen = p.classen ∧ q.ntags = p.ntags ∧ q.ovfgen = p.ovfgen)) ∧
  ∀ (s : State) (part ctx : Nat),
    let ph := (s.ctx part ctx).phase
    let err := (.next (s.countLerr (realPart part)) : Host.Outcome State Fault Refusal)
    let raised := fun (now : Bool) => (.next (s.modCtx part ctx fun c =>
      { c with phase := .saving, preq := some 0, preqRan := 0, preqAt := s.time, forced := now }) : Host.Outcome State Fault Refusal)
    let forced := (.next (s.modCtx part ctx fun c => { c with forced := true }) : Host.Outcome State Fault Refusal)
    ((ctx = 0 ∨ ctx = 255 ∨ ph = .none) → exec (.ctxreqRequest part ctx) s = err ∧ exec (.ctxreqNow part ctx) s = err ∧
      exec (.ctxreqDestroy part ctx) s = err) ∧
    (ctx ≠ 0 → ctx ≠ 255 → (s.ctxs.find? (ctxKey part ctx)).isSome = true →
      (ph = .resident → exec (.ctxreqRequest part ctx) s = raised false ∧ exec (.ctxreqNow part ctx) s = raised true ∧
        exec (.ctxreqDestroy part ctx) s = err) ∧
      (ph = .saving → exec (.ctxreqRequest part ctx) s = .next s ∧ exec (.ctxreqNow part ctx) s = forced ∧
        exec (.ctxreqDestroy part ctx) s = err) ∧
      (ph = .saved → exec (.ctxreqRequest part ctx) s = err ∧ exec (.ctxreqNow part ctx) s = err ∧
        exec (.ctxreqDestroy part ctx) s = .next (s.destroyCtx part ctx)) ∧
      (ph = .saving → (s.ctx part ctx).preq.isSome = true →
        1000 * (s.part part).pdl.toNat ≤ s.requestRan (s.ctx part ctx) → exec (.preemptDeadline part ctx) s = forced)) ∧
    (ph = .saving → (s.ctx part ctx).forced = true ∨ s.quiescent part ctx = true → s.drained part ctx = true →
      (s.part part).halted = false → exec (.contextSave part ctx) s = .next (s.saveCtx part ctx)) ∧
    (ph = .resident → (s.part part).halted = false → exec (.contextRestore part ctx) s = .next ((s.returnAll part ctx).serveTakers part ctx)) ∧
    ∀ (t : Bool) (d a : BitVec 6),
      let u := s.unheld
      let p := s.partOf s.cur
      let x := (s.getW s.cur a.toNat).toNat
      let y := (s.getW s.cur (a.toNat + 1)).toNat
      let completes := fun (i : Instr) (out inc : Nat) (timed : Bool) =>
        let begun := u.startSwitch p out inc timed
        ((u.part p).switching = none → u.switchStatus p out inc ≠ 0 →
          exec i s = .next (s.after (u.putW s.cur d.toNat (BitVec.ofNat 64 (u.switchStatus p out inc))))) ∧
        (∀ v, (u.part p).switching = none → u.switchStatus p out inc = 0 → begun.finishSwitch p out inc = some v →
          exec i s = .next (s.after (v.putW s.cur d.toNat 0))) ∧
        ((u.part p).switching = none → u.switchStatus p out inc = 0 → begun.finishSwitch p out inc = none →
          exec i s = .next (s.stay begun)) ∧
        ((u.parts.find? p).isSome = true →
          (begun.part p).switching = some (out, inc, if timed then some s.time else none)) ∧
        (∀ v, (u.part p).switching.isSome = true → u.finishSwitch p out inc = some v →
          exec i s = .next (s.after (v.putW s.cur d.toNat 0)))
      (s.begins (.sysCtxsw t d a) = true →
        (254 < x ∨ 254 < y → exec (.sysCtxsw t d a) s = .next (s.trapped (.sysCtxsw t d a) { kind := 0x0E, cause := 5 })) ∧
        (x ≤ 254 → y ≤ 254 → completes (.sysCtxsw t d a) x y true)) ∧
      (s.begins (.sysCtxld t d a) = true →
        (254 < x → exec (.sysCtxld t d a) s = .next (s.trapped (.sysCtxld t d a) { kind := 0x0E, cause := 5 })) ∧
        (x = 0 → exec (.sysCtxld t d a) s = .next (s.after (u.putW s.cur d.toNat 1))) ∧
        (0 < x → x ≤ 254 → completes (.sysCtxld t d a) 0 x false))

/-- R18, R20, R62, R69, R182, R338: `sr` reads a register into `w[D]` or, with D 0, writes it; a write whose value the
register refuses is an Illegal Instruction; the rows of the table that are effects of such writes and reads have them. R19,
R20, R69, R70, R93, R182, R338: what some registers read as and what writing them does: the flags of `sr.FPSTAT`, the fields
of `sr.FPCTL`, the identity registers, the oldest notice, the translations of one page of an address space. That the reserved
bits of a notice read 0 is log entry 29. -/
def Obligations.SystemRegisters : Prop :=
  (∀ (s : State) (t : Bool) (d a : BitVec 6) (n : BitVec 12) (part : Nat) (v : W64) (vpn : BitVec 36) (asid : BitVec 16)
    (point : BitVec 3) (gate : BitVec 16),
    let u := s.unheld
    let x := s.getW s.cur a.toNat
    (s.begins (.sr t d a n) = true → d ≠ 0 →
      exec (.sr t d a n) s = .next (s.after ((u.readSr s.cur n.toNat).1.putW s.cur d.toNat (u.readSr s.cur n.toNat).2))) ∧
    (s.begins (.sr t 0 a n) = true →
      (∀ v, u.writeSr s.cur n.toNat x = some v → exec (.sr t 0 a n) s = .next (s.after v)) ∧
      (u.writeSr s.cur n.toNat x = none → exec (.sr t 0 a n) s = .next (s.trapped (.sr t 0 a n) { kind := 0x01 }))) ∧
    (srGate (.sr false 0 0 n) (levelOf s.cur) = none → ∀ w, s.writeSr s.cur n.toNat v = some w →
      exec (.registerWrite n v) s = .next w) ∧
    (1 ≤ v.toNat % 8 → v.toNat % 8 ≤ 4 → v.toNat / 2 ^ 10 % 2 ^ 22 = 0 → v.getLsbD 9 = true →
      exec (.fpctlReseed v) s = .next (s.writeFpctl s.cur v)) ∧
    exec (.tlbinvPage part vpn asid) s = .next (s.dropPage part vpn.toNat asid.toNat) ∧
    exec (.tlbinvAllpages part asid) s = .next (s.dropAsid part asid.toNat) ∧
    exec (.tlbinvAllasid part) s = .next (s.dropAllAsid part) ∧
    exec (.noticePop part d) s =
      .next ((s.popNotice (.service part)).1.putW (.service part) d.toNat (s.popNotice (.service part)).2) ∧
    (point.toNat < 6 → ∀ w, s.writePwrctl (setField s.root.pwrctl 0 3 point.toNat) = some w →
      exec (.pwrctlPoint point) s = .next w) ∧
    (∀ w, s.writePwrctl (setField s.root.pwrctl 8 16 gate.toNat) = some w → exec (.pwrctlGate gate) s = .next w)) ∧
  ((∀ (s : State) (t : ThreadId) (v : W64),
    (s.readSr t 0x021).2 = (s.uni t).fpstat ∧ (s.readSr t 0x020).2 = (s.uni t).fpctl ∧
    (s.readSr t 0x008).2 = BitVec.ofNat 64 (levelOf t) ∧ (s.readSr t 0x010).2 = BitVec.ofNat 64 s.time ∧
    s.writeSr t 0x021 v = some (s.setUni t { s.uni t with fpstat := v &&& 0x3F }) ∧
    ((s.writeSr t 0x020 v).isSome = true ↔ 1 ≤ v.toNat % 8 ∧ v.toNat % 8 ≤ 4 ∧ v.toNat / 2 ^ 10 % 2 ^ 22 = 0) ∧
    (∀ g k, t = .gang g k → (s.readSr t 0x003).2 = BitVec.ofNat 64 (s.group g).num ∧
      (s.readSr t 0x004).2 = BitVec.ofNat 64 (s.team (s.group g).team).num) ∧
    ((∀ g k, t ≠ .gang g k) → (s.readSr t 0x003).2 = BitVec.allOnes 64 ∧ (s.readSr t 0x004).2 = BitVec.allOnes 64)) ∧
  (∀ (s : State) (p : Nat), (s.parts.find? p).isSome = true →
    ((s.part p).notices = [] → s.popNotice (.service p) = (s, BitVec.allOnes 64)) ∧
    (∀ n rest, (s.part p).notices = n :: rest → (s.popNotice (.service p)).2 =
      BitVec.ofNat 64 (n.kind.toNat + n.ctx.toNat * 2 ^ 8 + n.arg.toNat * 2 ^ 32) ∧
      ((s.popNotice (.service p)).1.part p).notices = rest)) ∧
  (∀ (q : List Notice) (n : Notice), n.kind ≠ 7 → (∀ m, m ∈ q → m.kind ≠ 7) →
    (q.length < 1023 → pushNotice q n = q ++ [n]) ∧ (1023 ≤ q.length → pushNotice q n = q ++ [⟨7, 0xFF, 1⟩])) ∧
  (∀ (s : State) (part vpn asid : Nat) (e : Nat × TlbEnt), e ∈ s.tlb →
    (e ∈ (s.dropPage part vpn asid).tlb ↔ ¬ (tlbOwner e.1 = 2 ^ 16 * part + asid ∧
      e.1 % 2 ^ 36 = 4096 * vpn / pageSize e.2.level)) ∧
    (e ∈ (s.dropAsid part asid).tlb ↔ tlbOwner e.1 ≠ 2 ^ 16 * part + asid) ∧
    (e ∈ (s.dropAllAsid part).tlb ↔ tlbOwner e.1 / 2 ^ 16 ≠ part)))

/-- R216, R320 to R322, R325 to R329: the hail words complete: `hail.send` gives its status and, when the target is there,
releases, its write-backs acknowledged (R202), and sends, or takes the report of a lost store (R342, R371); a hail is outstanding
until it is acknowledged (R364, R369). In group code what a word gives stands in its register once the word has completed, which is empty until then.
`hail.mask` replaces the mask and gives the old one; `hail.take` delivers the lowest deliverable vector of its set or waits,
after the threads that have waited longer; `hail.ret` ends the service and goes back to the take; `hail.pend` and `hail.perm`
read, and the latter writes unless the context is locked, a trap it takes before it looks at its operands (log entry 28).
R317 to R319, R322, R325, R326: hails on their way: the oldest for a context is accepted; one that the
vector's policy joins to a pending one leaves its count, payload and sender as the policy says; a hail not permitted or to a
vector above 31 is counted as dropped; a delivery empties the vector and sets its IS bit; a host's message becomes a hail of
its function, for the partition that has that function's contexts, wherever they are (log entry 30). -/
def Obligations.Hails : Prop :=
  (∀ (s : State) (t : Bool) (d a : BitVec 6),
    let u := s.unheld
    let part := s.partOf s.cur
    let own := s.ctxOf s.cur
    let x := s.getW s.cur a.toNat
    let y := s.getW s.cur (a.toNat + 1)
    let ctx := x.toNat / 2 ^ 8 % 256
    let port := x.toNat / 2 ^ 17 % 16
    let later := fun (v : State) (n : Nat) (r : W64) => match s.cur with
      | .gang g k => if n = 0 then v else v.pushReq g
          { group := g, gang := k, dst := .w n, todo := [], op := none, ord := 0, got := [(0, r)] }
      | th => v.putW th n r
    let put := fun (v : State) (r : W64) => (.next (s.after (later v d.toNat r)) : Host.Outcome State Fault Refusal)
    (s.begins (.hailSend t d a) = true →
      let r := u.releaseDevice (s.cptOf s.cur)
      let v := r.1
      let sys := v.cleanHost (s.cptOf s.cur)
      let die := (s.part part).base / 64
      let far : PeerHail := ⟨port, x.toNat / 2 ^ 21 % 64, ctx, x.toNat % 32, y, s.senderId s.cur⟩
      let lines := u.snoopHost (u.releaseLines (s.cptOf s.cur) 3)
      let i := Instr.hailSend t d a
      (hailTargetOk x = false → exec (.hailSend t d a) s = put u 3) ∧
      (hailTargetOk x = true → x.getLsbD 16 = true → s.root.plUp.getLsbD port = false → exec (.hailSend t d a) s = put u 2) ∧
      (hailTargetOk x = true → x.getLsbD 16 = false → (s.ctx part ctx).phase = .none → exec (.hailSend t d a) s = put u 1) ∧
      (hailTargetOk x = true → x.getLsbD 16 = false → (s.ctx part ctx).phase ≠ .none → u.pendingAny s.cur 3 = false →
        u.crowdedBy (s.cptOf s.cur) (some die) 1 = false → lines = none → (∀ s1 tr, u.lostReport s.cur 3 = some (s1, tr) →
          exec i s = .next ((s1.unbegun s.wordPc).takeTrap s.cur tr s.wordPc s.wordPc (encode i))) ∧
        (u.lostReport s.cur 3 = none → u.releaseWait (s.cptOf s.cur) 3 = none → let near : HailMsg := ⟨part, ctx, x.toNat % 32, y, s.senderId s.cur, r.2⟩
          exec i s = put (({ v with hails := v.hails ++ [near] } : State).post .unit (s.cptOf s.cur) die (.message near) 0) 0)) ∧
      (hailTargetOk x = true → x.getLsbD 16 = true → s.root.plUp.getLsbD port = true → u.pendingAny s.cur 4 = false →
        u.crowdedBy (s.cptOf s.cur) (some (16 + port)) 1 = false → lines = none →
        (∀ s1 tr, u.lostReport s.cur 4 = some (s1, tr) →
          exec i s = .next ((s1.unbegun s.wordPc).takeTrap s.cur tr s.wordPc s.wordPc (encode i))) ∧
        (u.lostReport s.cur 4 = none → u.releaseWait (s.cptOf s.cur) 4 = none →
          exec i s = put (({ sys with peerHails := sys.peerHails ++ [far] } : State).post (.thread (ownThread s.cur))
            (s.cptOf s.cur) (16 + port) (.hail far) 0) 0))) ∧
    (s.begins (.hailMask t d a) = true → let old := u.vecMask part own (·.mask)
      exec (.hailMask t d a) s = put (u.setHmask part own ((old ||| x.setWidth 32) &&& ~~~y.setWidth 32)) (old.setWidth 64)) ∧
    (∀ g k, s.begins (.hailTake t d a) = true → s.cur = .gang g k → (u.group g).whole k = false →
      exec (.hailTake t d a) s = .next (s.trapped (.hailTake t d a) (Trap.convergence 8))) ∧
    (s.begins (.hailTake t d a) = true → (∀ g k, s.cur = .gang g k → (u.group g).whole k = true) →
      let w := (u.endService s.cur).serveTakers part own
      (u.hasTake s.cur = true → w.hasTake s.cur = false →
        exec (.hailTake t d a) s = .next (s.afterJump w (w.pcOf s.cur))) ∧
      (u.hasTake s.cur = false ∨ w.hasTake s.cur = true →
        (∀ v, w.pickVector part own (w.getW s.cur a.toNat) = some v →
          let r := w.deliverTo s.cur d.toNat v (s.pcOf s.cur) true
          exec (.hailTake t d a) s = .next (s.afterJump (r.1.clearTake s.cur) r.2)) ∧
        (w.pickVector part own (w.getW s.cur a.toNat) = none →
          exec (.hailTake t d a) s = .next (s.stay (w.waitTake s.cur d.toNat a.toNat))))) ∧
    (s.begins (.hailRet t) = true →
      (u.servingOf s.cur = none → exec (.hailRet t) s = .next (s.after u)) ∧
      (∀ v, u.servingOf s.cur = some v →
        exec (.hailRet t) s = .next (s.afterJump ((u.endService s.cur).serveTakers part own) (u.retOf s.cur)))) ∧
    (s.begins (.hailPend t d a) = true → exec (.hailPend t d a) s = put u
      (if x.toNat % 256 < 32 then (u.vec part own (x.toNat % 256)).status
        else if x.toNat % 256 = 32 then (u.ctx part own).drops.setWidth 64 else BitVec.allOnes 64)) ∧
    (s.begins (.hailPerm t d a) = true → let code := x.toNat / 2 ^ 8 % 4
      (code = 1 ∨ code = 2 → u.hailLock part own = true →
        exec (.hailPerm t d a) s = .next (s.trapped (.hailPerm t d a) { kind := 0x02 })) ∧
      (code = 0 → hailPermOk x y = true → exec (.hailPerm t d a) s = put u ((u.ctx part own).perm.get 0 (x.toNat % 64))) ∧
      (code = 1 → u.hailLock part own = false → hailPermOk x y = true → exec (.hailPerm t d a) s =
        put (u.modCtx part own fun c => { c with perm := c.perm.put 0 (x.toNat % 64) y }) ((u.ctx part own).perm.get 0 (x.toNat % 64))) ∧
      (code = 2 → u.hailLock part own = false → hailPermOk x y = true → let h := u.vec part own (x.toNat % 64)
        exec (.hailPerm t d a) s = put (u.modVec part own (x.toNat % 64) fun h =>
          { h with policy := y.setWidth 2, wake := y.getLsbD 2 }) (BitVec.ofNat 64 (h.policy.toNat + h.wake.toNat * 4))) ∧
      (code = 0 ∨ code = 3 ∨ u.hailLock part own = false → hailPermOk x y = false →
        exec (.hailPerm t d a) s = put u (BitVec.allOnes 64)))) ∧
  ((∀ (s : State) (part ctx : Nat) (m : HailMsg), (s.part (realPart part)).halted = false →
    s.hails.find? (fun m => m.part == part && m.ctx == ctx) = some m →
    exec (.hailAccept part ctx) s = .next
      (((({ s with hails := s.hails.erase m } : State).acceptHail m).writeHails part ctx).serveTakers part ctx)) ∧
  (∀ (x : HVec) (m : HailMsg),
    (x.pend = false → let y := x.coalesce m
      y.pend = true ∧ y.count = 1 ∧ y.payload = m.payload ∧ y.sender = m.sender) ∧
    (x.pend = true → let y := x.coalesce m
      y.pend = true ∧ y.sig = x.sig ||| m.sig ∧
      (x.count ≠ 0xFFFF → y.count = x.count + 1 ∧ y.sat = x.sat) ∧ (x.count = 0xFFFF → y.count = x.count ∧ y.sat = true) ∧
      y.payload = (if x.policy = 1 then m.payload else if x.policy = 2 then x.payload + m.payload
        else if x.policy = 3 then x.payload ||| m.payload else x.payload) ∧
      y.sender = (if x.policy = 0 then x.sender else m.sender))) ∧
  (∀ (s : State) (m : HailMsg), (s.ctx m.part m.ctx).phase ≠ .none →
    (31 < m.vec ∨ s.permitted m.part m.ctx m.sender m.vec = false) →
    let t := s.acceptHail m
    (t.ctx m.part m.ctx).drops = (if (s.ctx m.part m.ctx).drops = 0xFFFFFFFF then 0xFFFFFFFF else (s.ctx m.part m.ctx).drops + 1) ∧
    (t.ctx m.part m.ctx).vecs = (s.ctx m.part m.ctx).vecs) ∧
  (∀ (s : State) (c d v : Nat) (ret : Addr), 0 < d → d < 62 → (s.ctxs.find? (ctxKey (s.partOf (.spine c)) (s.ctxOf (.spine c)))).isSome = true →
    let x := s.vec (s.partOf (.spine c)) (s.ctxOf (.spine c)) v
    let t := (s.deliverTo (.spine c) d v ret).1
    let y := t.vec (s.partOf (.spine c)) (s.ctxOf (.spine c)) v
    t.getW (.spine c) (d + 1) = x.payload ∧
    (v < 256 → (t.getW (.spine c) d).toNat = v + x.sat.toNat * 2 ^ 8 + x.count.toNat * 2 ^ 16 + x.sender.toNat * 2 ^ 32) ∧
    y.pend = false ∧ y.count = 0 ∧ y.isv = true ∧ y.mask = x.mask ∧ y.policy = x.policy ∧ t.servingOf (.spine c) = some v) ∧
  (∀ (s : State) (func p : Nat) (msg : BitVec 128), s.homeOfFunc func = some p →
    (msg.toNat / 2 ^ 69 % 8 = 0 → msg.toNat / 2 ^ 80 = 0 → exec (.hostHailMessage func 16 msg) s = .next { s with hails := s.hails ++
      [⟨p, msg.toNat / 2 ^ 72 % 256, msg.toNat / 2 ^ 64 % 32, msg.setWidth 64, BitVec.ofNat 32 (2 ^ 30 + func), Sig.ones⟩] }) ∧
    (∀ size, size ≠ 16 → exec (.hostHailMessage func size msg) s = .next (s.countLerr (realPart p)))))

/-! ### Launch, placement and the exchange -/

/-- R104 to R107, R113, R158, R162: `spawn` of a checked record completes: NO-VARIANT when no bound reaches SIZE, else the grid
enters its launch queue, gated or passed, with its status at once or, for a co-resident grid, to come, or is refused as
QUEUE-FULL; the checks that fail before any access trap, and a lost store is reported (R342). Its release waits for the
acknowledgement of its write-backs (R202), and what fills a line that the host may hold waits by log entry 40. R106: no other grid of
the partition that has not ended has the new one's identifier. A grid with an instance-count
counter takes its count as it passes; one that counts no team, or 2^32 or more, ends. A co-resident grid that could never fit
leaves with NO-FIT. `join` completes once its counter, read with acquire at device scope, is at least the target, and stays not
begun before. The model's own readings here: JOIN is translated as a store (log entry 25), at User level (log entry 69); the
descriptors are read at their home slices (log entry 39); the variants are checked with or without V (log entry 48). -/
def Obligations.SpawnAndJoin : Prop :=
  (∀ (s : State) (t imm g c v : Bool) (d a : BitVec 6) (s1 s2 : State) (ps : List Phys) (im : SpawnImages),
    let i := Instr.spawn t d a imm g c v
    let u := s.unheld
    let r := u.spawnRec s.cur a.toNat
    let part := u.partOf s.cur
    let ctx := if r.ctx = 0 then u.ctxOf s.cur else r.ctx
    let info := (u.ctx part ctx).info
    let traps := fun (tr : Trap) => exec i s = .next (s.trapped i tr)
    let counters := [(AccKind.load, r.img), (.store, r.join)] ++ (if g then [(.load, r.gatea)] else [])
      ++ (if imm then [(.load, r.icnt)] else [])
    let sp := Space.ctx part ctx (u.fetchCore s.cur)
    let q := s2.releaseDevice (s2.cptOf s.cur)
    let s3 := q.1
    let pa := fun n => (ps.getD n ⟨0, .shared⟩).pa
    s.begins i = true →
      (levelOf s.cur = 0 → r.ctx ≠ 0 → traps Trap.privilege) ∧
      ((levelOf s.cur ≠ 0 ∨ r.ctx = 0) → r.fieldsOk imm g = false → traps (Trap.commandCheck 1)) ∧
      ((levelOf s.cur ≠ 0 ∨ r.ctx = 0) → r.fieldsOk imm g = true → (ctx = 0 ∨ (u.ctx part ctx).phase = .none) →
        traps (Trap.commandCheck 6)) ∧
      ((levelOf s.cur ≠ 0 ∨ r.ctx = 0) → r.fieldsOk imm g = true → ctx ≠ 0 → (u.ctx part ctx).phase ≠ .none →
        (∀ tr, addrsTrap (r.addrs imm g) = some tr → traps tr) ∧
        (addrsTrap (r.addrs imm g) = none → u.spawnPages sp counters = (s1, .ok ps) →
          s1.spawnImages sp r.img.toNat = (s2, .ok im) → u.filledHeld s2 = none →
          ((∃ p ∈ ps.drop 1, p.ty ≠ .shared) → traps (Trap.commandCheck 3)) ∧
          ((∀ p ∈ ps.drop 1, p.ty = .shared) →
            (∀ k, im.check info.sslot = some k → traps (Trap.commandCheck k)) ∧
            (∀ s4 tr, im.check info.sslot = none → s2.lostReport s.cur 3 = some (s4, tr) →
              exec i s = .next ((s4.unbegun s.wordPc).takeTrap s.cur tr s.wordPc s.wordPc (encode i))) ∧
            (im.check info.sslot = none → s2.lostReport s.cur 3 = none →
              s2.snoopHost (s2.releaseLines (s2.cptOf s.cur) 3) = none → s2.releaseWait (s2.cptOf s.cur) 3 = none →
              (im.pick v r.size.toNat = none → exec i s = .next (s.after (s3.putW s.cur d.toNat (spawnStatus 4 0)))) ∧
              (∀ desc, im.pick v r.size.toNat = some desc → exec i s = .next (s.after (s3.enterQueue s.cur d
                { part := part, ctx := ctx, num := 0, desc := desc, args := r.args, count := r.shp.toNat % 2 ^ 32
                  prio := r.shp.toNat / 2 ^ 32 % 8, books := r.shp.toNat / 2 ^ 36 % 8
                  mask := BitVec.ofNat 16 (r.shp.toNat / 2 ^ 48), join := some (pa 1)
                  gate := if g then some (pa 2, r.gatev) else none
                  icnt := if imm then some (pa (if g then 3 else 2)) else none, co := c, sig := q.2 }))))))) ∧
  (∀ (s : State) (th : ThreadId) (d : BitVec 6) (g : Grid),
    (64 ≤ s.queueLength g.part g.prio → s.enterQueue th d g = s.putW th d.toNat (spawnStatus 2 0)) ∧
    (s.queueLength g.part g.prio < 64 → g.co = false → g.gate = none → g.icnt = none → 0 < g.count →
      let t := s.enterQueue th d g
      (t.grids.find? s.nextId).map (·.phase) = some .passed ∧ (t.grid s.nextId).num = s.gridNum g.part ∧
      (t.grid s.nextId).args = g.args ∧ t.agenda = s.agenda) ∧
    (s.grids.length < 2 ^ 32 - 1 → ∀ e, e ∈ s.grids → realPart e.2.part = realPart g.part → e.2.num ≠ s.gridNum g.part) ∧
    (s.queueLength g.part g.prio < 64 → let num := s.gridNum g.part
      let q := s.addGrid { g with status := if d = 0 then none else some (th, d.toNat)
                                  phase := if g.gate = none then .passed else .gated }
      q.2 = s.nextId ∧ s.enterQueue th d g =
        (if g.co = true then q.1.emptyW th d.toNat else q.1.putW th d.toNat (BitVec.ofNat 64 (num.toNat * 2 ^ 32))).testGate q.2)) ∧
  (∀ (s : State) (k pa : Nat), (s.grids.find? k).isSome = true → (s.grid k).icnt = some pa →
    let n := (s.ownRead (realPart (s.grid k).part) pa 8).1
    let t := s.enterPassed k
    (0 < n → n < 2 ^ 32 → (s.grid k).co = false → (t.grid k).count = n ∧ (t.grid k).phase = .passed) ∧
    (n = 0 ∨ 2 ^ 32 ≤ n → (s.grid k).handler = none → t.grids.find? k = none)) ∧
  (∀ (s : State) (k : Nat) (g : Grid), s.grids.find? k = some g → g.co = true → g.phase = .passed →
    (s.couldFit g = true → s.testFit k = s) ∧
    (s.couldFit g = false → (s.testFit k).grids.find? k = none ∧ ∀ c r, g.status = some (.spine c, r) →
      (s.spines.find? c).isSome = true → 0 < r → r < 64 → (s.testFit k).getW (.spine c) r = 3)) ∧
  (∀ (s : State) (t : Bool) (d a b : BitVec 6) (s1 : State) (x : Nat × W64 × Phys) (ps : List (Nat × W64 × Phys)),
    s.begins (.join t d a b) = true →
    s.unheld.checkUniform s.cur .load true false 8 (s.unheld.getW s.cur a.toNat) = .ok s1 (x :: ps) →
    let q := s1.acquireLoad (s1.cptOf s.cur) false x.2.2 8 (s1.threadTag s.cur)
    s1.blocked s.cur [{ lane := 0, addr := x.2.2.pa, size := 8, ty := some x.2.2.ty, va := s.unheld.getW s.cur a.toNat }] = false →
    let got := q.1.putW s.cur d.toNat (BitVec.ofNat 64 q.2.1)
    (x.2.2.ty ≠ .shared → exec (.join t d a b) s = .next (s.trapped (.join t d a b) (Trap.commandCheck 3))) ∧
    (x.2.2.ty = .shared → (s1.getW s.cur b.toNat).toNat ≤ q.2.1 →
      let v := if q.2.2 then got.setUni s.cur ((got.uni s.cur).poisonW d.toNat) else got
      s.unheld.filledHeld v = none → exec (.join t d a b) s = .next (s.after v)) ∧
    (x.2.2.ty = .shared → q.2.1 < (s1.getW s.cur b.toNat).toNat → s.unheld.filledHeld q.1 = none →
      exec (.join t d a b) s = .next (s.stay q.1))))

/-- R23, R104, R109, R110, R156, R161: the placement step and how a team and a spine instance start: the ARG words in `w1` to
`w8`, `w63` at the end point, every other register zero, every lane active at the entry; the team takes the next number of its
grid and the grid is RESIDENT with its last. R111, R112, R157: a gate passes at its count; a group retires once its slices have
and nothing it issued is open; a grid ends with its last team and spine instance: its join counter, at the home slice, goes up
by 1 (by 2^32 + 1 after an abort), and it leaves the table; in a halted partition nothing retires or ends (R346). That a gate is
tested with every grid gated on its line is log entry 26; what a counter outside the partition reads as is log entry 68. -/
def Obligations.PlacementAndRetirement : Prop :=
  ((∀ (s : State) (part : Nat), exec (.placementStep part) s =
    .next (if (s.part part).halted then s else s.placementStep part)) ∧
  (∀ (info : CtxRec) (g : Grid) (k team num key cluster sched slot : Nat) (window : Option Nat) (j : Nat), j < 64 →
    let x := startGroup info g team num key sched slot window
    let y := startSpine info k g cluster key
    let want := fun (w62 : W64) (e : Addr) => if j = 0 then (0 : W64) else if j ≤ 8 then g.args.getD (j - 1) 0
      else if j = 62 then w62 else if j = 63 then e.setWidth 64 else 0
    x.uni.getW j = want 0 x.endpt ∧
    y.th.uni.getW j = want (BitVec.ofNat 64 (info.launch + (16 * info.spineDie cluster + cluster % 16 + 1) * info.sslot)) y.th.endpt ∧
    x.uni.empty = 0 ∧ x.uni.poison = 0 ∧ y.th.uni.empty = 0 ∧ y.th.uni.poison = 0 ∧
    x.slices.length = 8 ∧ (∀ sl ∈ x.slices, sl.pc = BitVec.ofNat 48 (g.desc.base + g.desc.gentry) ∧ sl.act = 15 ∧ sl.stack = []) ∧
    x.budget = 8 * (if num < g.desc.nprod then g.desc.pregs else g.desc.cregs) ∧ x.mode = .run ∧
    y.th.pc = BitVec.ofNat 48 (g.desc.base + g.desc.sentry) ∧ y.th.mode = .run) ∧
  (∀ (s : State) (k : Nat) (y : Spot) (ws : List (Option Nat)), (s.grids.find? k).isSome = true →
    let g := s.grid k
    let t := s.placeTeam k y ws
    (t.grid k).placed = g.placed + 1 ∧
    (t.grid k).phase = (if g.placed + 1 = g.count then .resident else .placing) ∧
    (t.team s.nextId).num = g.placed ∧ (t.team s.nextId).grid = k ∧ (t.team s.nextId).cluster = y.cluster ∧
    (t.team s.nextId).core = y.core)) ∧
  ((∀ (s : State) (k : Nat) (g : Grid) (pa : Nat) (v : W64), s.grids.find? k = some g → g.phase = .gated → g.gate = some (pa, v) →
    let t := (s.gatedOn (pa / 128)).foldl (fun t k => t.testGate k) s
    exec (.gateTest k) s = .next { t with gateDue := t.gateDue.erase (pa / 128) }) ∧
  (∀ (s : State) (k : Nat) (pa : Nat) (v : W64), (s.grid k).gate = some (pa, v) →
    let p := realPart (s.grid k).part
    ((s.part p).halted = true → s.testGate k = s) ∧
    ((s.part p).halted = false → (s.ownRead p pa 8).1 < v.toNat → s.testGate k = s.counterTouch (s.grid k) pa) ∧
    ((s.part p).halted = false → v.toNat ≤ (s.ownRead p pa 8).1 → (s.grid k).icnt = none → 0 < (s.grid k).count → (s.grid k).co = false →
      ((s.testGate k).grid k).phase = .passed)) ∧
  (∀ (s : State) (g : Nat) (x : Group), s.groups.find? g = some x →
    let off := (s.part (realPart (s.team x.team).part)).halted
    ((∀ sl ∈ x.slices, sl.live = 0) → s.openCmds g = [] → s.openAtomics g = false → off = false →
      exec (.groupRetire g) s = .next ((s.removeGroup g).tryRetireTeam x.team)) ∧
    ((∃ sl ∈ x.slices, sl.live ≠ 0) ∨ s.openCmds g ≠ [] ∨ s.openAtomics g = true ∨ off = true → exec (.groupRetire g) s = .next s)) ∧
  (∀ (s : State) (k : Nat) (g : Grid), s.grids.find? k = some g →
    let off := (s.part (realPart g.part)).halted
    (g.phase = .resident → g.retired = g.count → g.live = [] → off = false → exec (.gridEnd k) s = .next (s.endGrid k)) ∧
    (g.phase ≠ .resident ∨ g.retired ≠ g.count ∨ g.live ≠ [] ∨ off = true → exec (.gridEnd k) s = .next s)) ∧
  (∀ (s : State) (k : Nat) (pa : Nat), (s.grid k).join = some pa → (s.grid k).handler = none →
    (s.endGrid k).grids.find? k = none ∧
    (s.owns (realPart (s.grid k).part) pa = true → (s.ctx (s.grid k).part (s.grid k).ctx).phase ≠ .saved →
      memRead (s.endGrid k).mem pa 8 = ((s.releasePart (realPart (s.grid k).part)).1.homeValue pa 8 +
        (if (s.grid k).aborted then 2 ^ 32 + 1 else 1)) % 2 ^ 64)))

/-- R231 to R235: the exchange words complete: `xch.xexp` adds its signed share or traps where the counter would overflow;
`xch.xbar` marks the group arrived, once its earlier accesses have been performed, and holds it, and the swap comes with the
last; `xch.xstat` reads the counter. The swap exchanges the banks, empties the counter and the arrivals and counts the phase;
where the counter was below 0 and the descriptor says overrun = trap, the lowest group takes Exchange-Overrun (R234). A delivered
store word subtracts its bytes. -/
def Obligations.ExchangeWords : Prop :=
  (∀ (s : State) (t : Bool) (a : BitVec 6), s.begins (.xexp t a) = true →
    let k := s.unheld.teamKey s.cur
    let x := s.unheld.team k
    let c := x.xcount + ((s.unheld.getW s.cur a.toNat).setWidth 32).toInt
    (-2 ^ 31 ≤ c → c < 2 ^ 31 → exec (.xexp t a) s = .next (s.after (s.unheld.setTeam k { x with xcount := c }))) ∧
    (c < -2 ^ 31 ∨ 2 ^ 31 ≤ c → exec (.xexp t a) s =
      .next (s.trapped (.xexp t a) { kind := 0x13, cause := 1, addr := BitVec.ofInt 64 x.xcount }))) ∧
  (∀ (s : State) (t : Bool) (g k : Nat), s.cur = .gang g k → s.begins (.xbar t) = true →
    let u := s.unheld
    let x := u.group g
    let tm := u.team x.team
    let held := u.setPc s.cur (u.pcOf s.cur + 4)
    let h2 := held.setGroup g { held.group g with xbarHold := true }
    (x.whole k = false → exec (.xbar t) s = .next (s.trapped (.xbar t) (Trap.convergence 5))) ∧
    (x.whole k = true → tm.xarrived.getLsbD x.num = true ∨ u.pendingAny s.cur 1 = true → exec (.xbar t) s = .next (s.stay u)) ∧
    (x.whole k = true → tm.xarrived.getLsbD x.num = false → u.pendingAny s.cur 1 = false → exec (.xbar t) s = .next (s.afterMoved
      ((h2.setTeam x.team { tm with xarrived := setBit tm.xarrived x.num true }).settleExchange x.team) 0))) ∧
  (∀ (s : State) (t : Bool) (d : BitVec 6), s.begins (.xstat t d) = true →
    let v := (s.unheld.team (s.unheld.teamKey s.cur)).snapshot
    exec (.xstat t d) s = .next (s.after (s.unheld.putW s.cur d.toNat v))) ∧
  (∀ (s : State) (k : Nat), (s.teams.find? k).isSome = true →
    let x := s.team k
    ∃ y : Team, (x.xcount < 0 → (s.descOf k).flags.getLsbD 0 = true → ∀ g rest, s.groupsOf k = g :: rest →
        let z := s.setTeam k y
        let th := ThreadId.gang g (s.group g).lowGang
        s.swapBanks k = z.takeTrap th { kind := 0x14, addr := BitVec.ofNat 64 (-x.xcount).toNat } (s.pcOf th) (s.pcOf th)
          (z.wordAt th (s.pcOf th))) ∧
    (0 ≤ x.xcount ∨ (s.descOf k).flags.getLsbD 0 = false → s.swapBanks k = s.setTeam k y) ∧
    y.near = x.far ∧ y.far = x.near ∧ y.xcount = 0 ∧ y.xarrived = 0 ∧ y.bars = x.bars ∧
    y.xstat.toNat / 2 ^ 16 % 2 ^ 16 = (x.xstat.toNat / 2 ^ 16 + 1) % 2 ^ 16 ∧
    (x.xcount < 0 → x.xcount ≥ -2 ^ 31 → y.xstat.toNat / 2 ^ 32 = (-x.xcount).toNat ∧ y.xstat.getLsbD 0 = true) ∧
    (0 ≤ x.xcount → y.xstat.toNat / 2 ^ 32 = x.xstat.toNat / 2 ^ 32 ∧ y.xstat.getLsbD 0 = x.xstat.getLsbD 0)) ∧
  (∀ (s : State) (k : Nat), s.exchangeDone k = true ↔ s.livingNums k ≠ [] ∧ (s.team k).xcount ≤ 0 ∧
    ∀ m, m ∈ s.livingNums k → (s.team k).xarrived.getLsbD m = true) ∧
  (∀ (s : State) (src dst : Nat) (p : XPkt), s.xpkts.find? (fun p => p.src == src && p.dst == dst) = some p →
    exec (.xstoreDelivery src dst) s = .next (s.deliverPkt p)) ∧
  (∀ (x : Team) (p : XPkt), let c := x.xcount - p.size
    (-2 ^ 31 ≤ c → (x.deliver p).xcount = c ∧ (x.deliver p).xstat = x.xstat) ∧
    (c < -2 ^ 31 → (x.deliver p).xcount = -2 ^ 31 ∧ (x.deliver p).xstat.getLsbD 2 = true) ∧
    (x.deliver p).near = x.near ∧ ∀ o, (o < p.off ∨ p.off + p.size ≤ o) → (x.deliver p).far.find? o = x.far.find? o)

/-! ### The engines -/

/-- R239 to R242: `bclose` closes the open batch under its number, empties its register and waits while 16 batches are open; a
closed batch of completed commands fills its register with the status word of R242, each of whose fields is where the rule
puts it. R212: a word of the group that reads a register with such a status makes what the batch's copy commands wrote precede
the group, and one that writes it ends that. R239 step 5, R240, R241: a range's checks in their order; what an issued command holds: its number in the open batch,
not done, and its parameters as they were at issue. -/
def Obligations.BatchesAndCommands : Prop :=
  ((∀ (s : State) (t : Bool) (d : BitVec 6) (g k : Nat), s.cur = .gang g k → s.begins (.bclose t d) = true →
    let u := s.unheld
    let x := u.group g
    let b : Batch := ⟨x.batchNo, x.openBatch, d.toNat⟩
    let v := (u.setGroup g { x with batchNo := x.batchNo + 1, openBatch := [], closed := x.closed ++ [b] }).emptyW s.cur d.toNat
    (x.closed.length < 16 → x.openBatch ≠ [] → exec (.bclose t d) s = .next (s.after v)) ∧
    (x.closed.length < 16 → x.openBatch = [] → exec (.bclose t d) s = .next (s.after (v.settleBatch g x.batchNo))) ∧
    (16 ≤ x.closed.length → exec (.bclose t d) s = .next (s.stay u))) ∧
  (∀ (s : State) (g n : Nat), (s.groups.find? g).isSome = true →
    exec (.batchComplete g n) s = .next (s.settleBatch g (BitVec.ofNat 16 n))) ∧
  (∀ (s : State) (g : Nat) (b : Batch), (s.group g).closed.find? (fun c => c.num == b.num) = some b →
    let cs := b.cmds.filterMap s.cmds.find?
    ((∃ c ∈ cs, c.done = false) → s.settleBatch g b.num = s) ∧
    ((∀ c ∈ cs, c.done = true) → (s.groups.find? g).isSome = true → (∃ sl ∈ (s.group g).slices, sl.live ≠ 0) →
      b.dst ≠ 0 → b.dst < 64 →
      (s.settleBatch g b.num).getW (.gang g (s.group g).lowGang) b.dst = batchStatus b.num cs ∧
      ((s.settleBatch g b.num).uni (.gang g 0)).empty.getLsbD b.dst = false ∧
      ((s.settleBatch g b.num).group g).closed = (s.group g).closed.erase b)) ∧
  (∀ (n : BitVec 16) (cs : List Cmd), cs.length ≤ 64 →
    let w := batchStatus n cs
    w.setWidth 16 = n ∧ (w.extractLsb' 16 7).toNat = cs.length ∧ w.getLsbD 23 = false ∧
    w.getLsbD 24 = cs.any (·.rowfault) ∧ w.getLsbD 25 = cs.any (·.poison) ∧ w.getLsbD 26 = cs.any (·.badkey) ∧
    w.getLsbD 27 = cs.any (·.overflow) ∧ w.extractLsb' 28 4 = 0 ∧
    (w.extractLsb' 32 32).toNat = min (cs.map (·.skipped)).sum (2 ^ 32 - 1)) ∧
  (∀ (s s1 : State) (i : Instr) (body : ThreadId → State → Did) (g k : Nat), s.cur = .gang g k → gate i s = .run →
    s.haltReached s.cur = false → s.operandRegs g = [] → s1.operandRegs g = [] → body s.cur s.unheld = .done s1 →
    let t := (s.after s1).readStatus s s.cur i
    t.stepped s.cur = false → issue i s body = .next t) ∧
  (∀ (s : State) (i : Instr) (g k : Nat), let x := s.group g
    ((∀ r, r ∈ (shape i).wsrc ++ (shape i).wdst → x.statusOf.find? r = none) → s.readStatus s (.gang g k) i = s) ∧
    (∀ n, (shape i).wsrc.filterMap x.statusOf.find? = [n] → s.readStatus s (.gang g k) i =
      (s.setTeam x.team ((s.team x.team).mapNoted fun m => mapNotes m fun y =>
        if y.via = some (x.num, n) then { y with seen := setBit y.seen x.num true } else y)).setGroup g
        { x with statusOf := x.statusOf.filter fun e => !((shape i).wdst.contains e.1 && x.statusOf.find? e.1 == some e.2) }))) ∧
  ((∀ (s : State) (t : ThreadId) (r : Range), r.spad = false →
    (2 ^ 48 < r.addr.toNat + max r.len 1 → s.rangeTrap t r = some (Trap.addressRange r.addr)) ∧
    (r.addr.toNat + max r.len 1 ≤ 2 ^ 48 → r.addr.toNat % r.align ≠ 0 → s.rangeTrap t r = some (Trap.misaligned r.addr)) ∧
    (r.addr.toNat + max r.len 1 ≤ 2 ^ 48 → r.addr.toNat % r.align = 0 → s.rangeTrap t r = none)) ∧
  (∀ (s : State) (g k : Nat) (r : Range), r.spad = true → let size := (s.descOf (s.group g).team).spaceBytes
    (size < r.addr.toNat + r.len → s.rangeTrap (.gang g k) r = some { kind := 0x10, addr := r.addr }) ∧
    (r.addr.toNat + r.len ≤ size → r.addr.toNat % r.align ≠ 0 → s.rangeTrap (.gang g k) r = some (Trap.misaligned r.addr)) ∧
    (r.addr.toNat + r.len ≤ size → r.addr.toNat % r.align = 0 → s.rangeTrap (.gang g k) r = none)) ∧
  (∀ (s : State) (g : Nat) (k : CmdKind), let v := (s.issueCmd g k).1
    (s.issueCmd g k).2 = s.nextId ∧ v.nextId = s.nextId + 1 ∧ (v.group g).openBatch = (s.group g).openBatch ++ [s.nextId] ∧
    (v.cmds.find? s.nextId).map (fun c => (c.kind, c.done, c.group, c.batch)) = some (k, false, g, (s.group g).batchNo) ∧
    (v.group g).uni = (s.group g).uni ∧ v.mem = s.mem ∧ ∀ i, i ≠ s.nextId → v.cmds.find? i = s.cmds.find? i))

/-- R239, R240, R244 to R246: a `cpy`, `gather` or `binscat` that passes its checks in their order issues: it joins the open
batch and the word completes. It waits while the core's engine holds 64 commands. That `cpy` takes Illegal-Convergence by its
gang's slices alone, inactive lanes not counting, is log entry 52. R244 to R246: the copy engine's work, one word after another: a
collective starts when every group of the team has supplied its slice; a row of a `gather` that cannot be read whole is skipped and
counted, a token of a `binscat` has the slot that its bin's counter gives; a command completes when all its words have moved.
An event of a command moves what is left of it in ascending order, which R245 leaves open (log entry 20). R211: none of them
starts before the accesses that its group issued before it have been performed; R346: none works in a halted partition. What
the host may hold is waited for, by the model's reading of R367 (log entry 40). A full bin's counter keeps its count and sets
its overflow bit, one with room counts one. A poisoned index or key is used as it is and sets POISON, and an overflowing token reports
no poison: both are the model's choice (log entry 70), and so is what the checks of a `binscat` do when (log entry 75). -/
def Obligations.CopyCommands : Prop :=
  (∀ (s s1 s2 : State) (t w : Bool) (a : BitVec 6) (x y : BitVec 2) (g k : Nat) (fs bs : List Frames), s.cur = .gang g k →
    let u := s.unheld
    let r := fun i => u.getW s.cur (a.toNat + i)
    let sSpad := x == 1
    let dSpad := y == 1
    let traps := fun (i : Instr) (tr : Trap) => exec i s = .next (s.trapped i tr)
    let len := (r 2).toNat
    let nidx := (r 1).toNat
    let row := (r 4).toNat
    let width := if w then 8 else 4
    let idx : Range := ⟨false, r 0, nidx * width, width, .copyRead⟩
    let dst : Range := ⟨dSpad, r 5, nidx * row, 4, .copyWrite⟩
    let ntok := (r 1).toNat
    let tsize := (r 2).toNat
    let nbins := (r 5).toNat
    let named : List Range := [⟨sSpad, r 0, ntok * tsize, 4, .copyRead⟩, ⟨false, r 3, 4 * ntok, 4, .copyRead⟩,
      ⟨false, r 4, 16 * nbins, 16, .atomic⟩]
    let tabLines := engLines false (fs.getD 2 []) (r 4).toNat (4 * nbins)
    let q := s1.readBins g (fs.getD 2 []) (r 4).toNat nbins
    let bins := q.2
    let slots := bins.map fun b => (⟨false, BitVec.ofNat 64 b.2.1, b.2.2 * tsize, 4, .copyWrite⟩ : Range)
    let scatter : CmdKind := .binscat sSpad (r 0).toNat ntok tsize (r 3).toNat (r 4).toNat bins (fs.getD 0 [])
      (bs.foldl (fun m f => f.foldl (fun m e => m.insert e.1 e.2) m) (fs.getD 1 []))
    (s.copyFull g = true → exec (.cpy t a y x) s = .next (s.stay s) ∧ exec (.gather t a y w) s = .next (s.stay s) ∧
      exec (.binscat t a x) s = .next (s.stay s)) ∧
    (s.begins (.cpy t a y x) = true →
      (u.copyFull g = false →
        ((u.group g).whole k = false → traps (.cpy t a y x) (Trap.convergence 6)) ∧
        ((u.group g).whole k = true → u.batchFull g = true → traps (.cpy t a y x) (Trap.commandCheck 7)) ∧
        ((u.group g).whole k = true → u.batchFull g = false →
          (2 ^ 22 ≤ len → traps (.cpy t a y x) (Trap.commandCheck 1)) ∧
          (len < 2 ^ 22 → len % 4 ≠ 0 ∨ 2 ^ 21 < len → traps (.cpy t a y x) (Trap.commandCheck 5)) ∧
          (len % 4 = 0 → len ≤ 2 ^ 21 →
            u.checkRanges s.cur [⟨sSpad, r 0, len, 4, .copyRead⟩, ⟨dSpad, r 1, len, 4, .copyWrite⟩] = .ok s1 fs →
            exec (.cpy t a y x) s = .next (s.after (s1.issueCpy g sSpad dSpad (r 0) (r 1) len fs)))))) ∧
    (s.begins (.gather t a y w) = true →
      (u.copyFull g = false → u.batchFull g = true → traps (.gather t a y w) (Trap.commandCheck 7)) ∧
      (u.copyFull g = false → u.batchFull g = false →
        (2 ^ 32 ≤ (r 3).toNat → traps (.gather t a y w) (Trap.commandCheck 1)) ∧
        ((r 3).toNat < 2 ^ 32 → 1 ≤ nidx → nidx ≤ 65536 → nidx * width ≤ 2 ^ 21 → (r 3).toNat % 4 = 0 → row % 4 = 0 → 4 ≤ row →
          row ≤ 65536 → nidx * row ≤ 2 ^ 21 →
          u.rangeTrap s.cur idx = none → u.rangeTrap s.cur ⟨false, r 2, 0, 4, .copyRead⟩ = none → u.rangeTrap s.cur dst = none →
          u.checkRanges s.cur [idx, dst] = .ok s1 fs →
          exec (.gather t a y w) s = .next (s.after (s1.issueCmd g (.gather dSpad w (r 0).toNat nidx (r 2).toNat (r 3).toNat row
            (r 5).toNat (fs.getD 0 []) (fs.getD 1 []))).1)))) ∧
    (s.begins (.binscat t a x) = true →
      (u.copyFull g = false → u.batchFull g = true → traps (.binscat t a x) (Trap.commandCheck 7)) ∧
      (u.copyFull g = false → u.batchFull g = false → binscatCause ntok tsize nbins = 0 →
        named.findSome? (u.rangeTrap s.cur) = none → u.pinRanges s.cur named = (s1, .ok fs) →
        (∀ s3, s1.snoopHost tabLines = some s3 → exec (.binscat t a x) s = .next (s.stay s3)) ∧
        (s1.snoopHost tabLines = none →
        ((∃ b ∈ bins, 2 ^ 31 ≤ b.2.2 ∨ 2 ^ 21 < b.2.2 * tsize) → traps (.binscat t a x) (Trap.commandCheck 5)) ∧
        ((∀ b ∈ bins, b.2.2 < 2 ^ 31 ∧ b.2.2 * tsize ≤ 2 ^ 21) → slots.findSome? (q.1.rangeTrap s.cur) = none →
          q.1.pinRanges s.cur slots = (s2, .ok bs) →
          (framesTyped (fs.getD 2 []) [.shared] = false → traps (.binscat t a x) (Trap.commandCheck 3)) ∧
          (framesTyped (fs.getD 2 []) [.shared] = true → s2.watchRanges s.cur (named ++ slots) = none →
            (∀ s3, u.filledHeld s2 = some s3 → exec (.binscat t a x) s = .next (s.stay s3)) ∧
            (u.filledHeld s2 = none → exec (.binscat t a x) s = .next (s.after (s2.issueCmd g scatter).1)))))))) ∧
  ((∀ (s : State) (k : Nat),
    let rest := fun (u : State) => (u.runningCpy k).foldl (fun t e => t.copyRest e.1) u
    (s.engineOff k = true → exec (.cpyCollectiveStart k) s = .next s) ∧
    (s.engineOff k = false → (rest s).cpyReady k = false → exec (.cpyCollectiveStart k) s = .next (rest s)) ∧
    (s.engineOff k = false → (rest s).cpyReady k = true →
      exec (.cpyCollectiveStart k) s = .next (rest ((rest s).startCpy k))) ∧
    (s.cpyReady k = true ↔ s.slicesOfCpy k (s.team k).cpyStarted ≠ [] ∧
      (∀ g, g ∈ s.groupsOf k → (s.team k).cpyStarted < (s.group g).cpys) ∧
      ∀ e, e ∈ s.slicesOfCpy k (s.team k).cpyStarted → s.olderPending e.2.group e.1 = false) ∧
    ((∀ e, e ∈ s.slicesOfCpy k (s.team k).cpyStarted → e.2.kind.rowWords ≠ 0) →
      s.startCpy k = s.setTeam k { s.team k with cpyStarted := (s.team k).cpyStarted + 1 })) ∧
  (∀ (s : State) (n : Nat) (c : Cmd), s.cmds.find? n = some c →
    let free := s.engineOff c.team = false ∧ s.olderPending c.group n = false
    let all := (List.range c.kind.rows).foldl (fun t i =>
      ([0, 0] ++ List.range c.kind.rowWords).foldl (fun u j => u.copyWord n i j) t) s
    (∀ dSpad x64 idx nidx tbase stride row dst fi fd, c.done = false → free →
      c.kind = .gather dSpad x64 idx nidx tbase stride row dst fi fd → exec (.gatherRun n) s = .next (all.finishCopy n)) ∧
    (∀ sSpad tok ntok tsize keys tab bin ft fk, c.done = false → free →
      c.kind = .binscat sSpad tok ntok tsize keys tab bin ft fk → exec (.binscatRun n) s = .next (all.finishCopy n)) ∧
    (c.done = true ∨ ¬ free → exec (.gatherRun n) s = .next s ∧ exec (.binscatRun n) s = .next s) ∧
    (c.done = false → s.finishCopy n = if c.copied = true then (s.completeCmd n).tryRetireGroup c.group else s) ∧
    (c.copied = true ↔ c.kind.rowWords * (c.begun.filter fun e => e.2.isSome).length = c.moved.length ∧
      (c.kind.rowWords = 0 ∨ c.begun.length = c.kind.rows))) ∧
  (∀ (s : State) (n row word : Nat) (c : Cmd) (w : Work), s.cmds.find? n = some c → c.done = false → row < c.kind.rows →
    word < c.kind.rowWords → c.begun.find? row = some (some w) → c.moved.find? (row * c.kind.rowWords + word) = none →
    let e := c.kind.ends
    let lines := engLines e.1 w.fr (w.src + 4 * word) 1 ++ engLines e.2.1 e.2.2 (w.dst + 4 * word) 1
    let r := s.engRead c.group e.1 w.fr (w.src + 4 * word)
    (∀ s1, s.snoopHost lines = some s1 → s.copyWord n row word = s1) ∧
    (s.snoopHost lines = none → s.copyWord n row word =
      (r.1.engWrite c.group e.2.1 e.2.2 (w.dst + 4 * word) r.2.1 r.2.2 c.batch.toNat).modCmd n fun c =>
        { c with poison := c.poison || r.2.2, moved := c.moved.insert (row * c.kind.rowWords + word) r.2.2 })) ∧
  (∀ (s : State) (n i : Nat) (c : Cmd), s.cmds.find? n = some c → c.begun.find? i = none →
    let begun := fun (u : State) (w : Option Work) (f : Cmd → Cmd) => u.modCmd n fun c => { f c with begun := c.begun.insert i w }
    (∀ a b src dst len k sf df, c.kind = .cpy a b src dst len k sf df →
      s.beginPart n c i = begun s (some ⟨src, dst, sf⟩) fun c => c) ∧
    (∀ word, c.done = false → i < c.kind.rows → word < c.kind.rowWords → s.copyWord n i word = s.beginPart n c i) ∧
    (∀ dSpad x64 idx nidx tbase stride row dst fi fd, c.kind = .gather dSpad x64 idx nidx tbase stride row dst fi fd →
      (x64 = true → c.lows.find? i = none → s.snoopHost (engLines false fi (idx + 8 * i) 1) = none →
        let lo := s.engRead c.group false fi (idx + 8 * i)
        s.beginPart n c i = lo.1.modCmd n fun c => { c with lows := c.lows.insert i lo.2 }) ∧
      (∀ low, (x64 = false ∧ low = (0, false)) ∨ (x64 = true ∧ c.lows.find? i = some low) →
        let last := if x64 then idx + 8 * i + 4 else idx + 4 * i
        let q := s.engRead c.group false fi last
        let r := (tbase + (if x64 then low.1 + q.2.1 * 2 ^ 32 else q.2.1) * stride) % 2 ^ 64
        let bad := q.2.2 || low.2
        let sp := q.1.spaceOf (.gang c.group 0)
        let skip := fun (u : State) => begun u none fun c =>
          { c with poison := c.poison || bad, rowfault := true, skipped := c.skipped + 1 }
        s.snoopHost (engLines false fi last 1) = none →
        (2 ^ 48 < r + row → s.beginPart n c i = skip q.1) ∧
        (r + row ≤ 2 ^ 48 → q.1.snoopHost (((List.range ((r + row - 1) / 4096 - r / 4096 + 1)).map fun n =>
            (r / 4096 + n) * 4096).flatMap (q.1.walkLines sp)) = none → ∀ s2,
          (∀ e, q.1.translateRange sp .copyRead true r row = (s2, .error e) → s.beginPart n c i = skip s2) ∧
          (∀ fr, q.1.translateRange sp .copyRead true r row = (s2, .ok fr) → s.beginPart n c i =
            begun s2 (some ⟨r, dst + i * row, fr⟩) fun c => { c with poison := c.poison || bad })))) ∧
    (∀ sSpad tok ntok tsize keys tab bin ft fk, c.kind = .binscat sSpad tok ntok tsize keys tab bin ft fk →
      let k := s.engRead c.group false fk (keys + 4 * i)
      let tm := s.team (s.group c.group).team
      let drop := fun (u : State) (f : Cmd → Cmd) => begun u none fun c => f { c with skipped := c.skipped + 1 }
      (i ≠ c.begun.length → s.beginPart n c i = s) ∧
      (i = c.begun.length → s.snoopHost (engLines false fk (keys + 4 * i) 1) = none →
        (bin[k.2.1]? = none → s.beginPart n c i =
          drop k.1 fun c => { c with badkey := true, poison := c.poison || k.2.2 }) ∧
        (∀ cnt base cap s1, bin[k.2.1]? = some (cnt, base, cap) → k.1.owns tm.part cnt = true → k.1.snoopHost [cnt / 128] = none →
          (k.1.bumpBin tm.cluster cnt cap (k.1.threadTag (.gang c.group 0)) = (s1, none) → s.beginPart n c i = drop s1 fun c => { c with overflow := true }) ∧
          (∀ j, k.1.bumpBin tm.cluster cnt cap (k.1.threadTag (.gang c.group 0)) = (s1, some j) → s.beginPart n c i =
            begun s1 (some ⟨tok + i * tsize, base + j * tsize, ft⟩) fun c => { c with poison := c.poison || k.2.2 }))))) ∧
  (∀ (s : State) (cpt cnt cap tag : Nat), let v := (s.evictSector cpt (cnt / 128 * 128)).evictSector cpt (cnt / 128 * 128 + 64)
    let old := v.homeValue cnt 4
    let b := s.bumpBin cpt cnt cap tag
    cnt % 4 = 0 →
    (old % 2 ^ 31 < cap → b.2 = some (old % 2 ^ 31) ∧ b.1.homeValue cnt 4 = (old + 1) % 2 ^ 32) ∧
    (cap ≤ old % 2 ^ 31 → b.2 = none ∧ b.1.homeValue cnt 4 = old % 2 ^ 31 + 2 ^ 31) ∧
    ∀ x, x < cnt ∨ cnt + 4 ≤ x → b.1.homeByte x = v.homeByte x))

/-- R164, R239, R249 to R252, R256, R258: the matrix commands wait while the group's queue holds 16, trap by the first check that
fails, and else issue into the open batch and the queue; `mopfence` completes once the group has no pending fill. R239, R250
to R252, R256, R258, R260: the checks of `mwld`, `mma` and `macc`, with their causes; the pairs an `mma` multiplies. The order of
causes that one step of R239 leaves open, that a bad STRIDE is cause 5, and that `macc.scale` ignores the high bits of its
factor, are log entry 32. -/
def Obligations.MatrixWords : Prop :=
  (∀ (s : State) (t z sf : Bool) (d a b rows : BitVec 6) (slot : BitVec 2) (f : BitVec 4) (cv : BitVec 3) (g k : Nat),
    s.cur = .gang g k →
    let u := s.unheld
    let w := fun (i : Nat) => u.getW s.cur (a.toNat + i)
    let runs := fun (i : Instr) (cause : Nat) (tiles : List Nat) (rs : List Range) (c : CmdKind) =>
      (∀ tr, u.tileCheck g s.cur cause tiles rs = some tr → exec i s = .next (s.trapped i tr)) ∧
      (u.tileCheck g s.cur cause tiles rs = none → exec i s = .next (s.after (u.issueMatrix g c)))
    (∀ i, engineOf i = some .matrix → i.hasWord = true → s.mqFull g = true → exec i s = .next (s.stay s)) ∧
    (s.begins (.mwld t d a slot sf f) = true →
      (∀ tr, u.mwldCheck g k slot.toNat f.toNat = some tr →
        exec (.mwld t d a slot sf f) s = .next (s.trapped (.mwld t d a slot sf f) tr)) ∧
      (u.mwldCheck g k slot.toNat f.toNat = none →
        exec (.mwld t d a slot sf f) s = .next (s.after (u.issueMwld g s.cur d a slot.toNat sf f.toNat)))) ∧
    (s.begins (.mma t d a rows z sf f) = true →
      (∀ tr, u.mmaCheck g s.cur (w 0) (w 1) (w 2) d.toNat (rows.toNat + 1) sf f.toNat = some tr →
        exec (.mma t d a rows z sf f) s = .next (s.trapped (.mma t d a rows z sf f) tr)) ∧
      (u.mmaCheck g s.cur (w 0) (w 1) (w 2) d.toNat (rows.toNat + 1) sf f.toNat = none →
        exec (.mma t d a rows z sf f) s = .next (s.after (u.issueMatrix g
          (.mma d.toNat (rows.toNat + 1) z sf f.toNat (w 0).toNat (w 1).toNat (w 2).toNat))))) ∧
    (s.begins (.maccZero t d) = true → runs (.maccZero t d) 0 [d.toNat] [] (.maccZero d.toNat)) ∧
    (s.begins (.maccLoad t d a) = true → runs (.maccLoad t d a) 0 [d.toNat] [⟨true, w 0, 8192, 128, .copyRead⟩]
      (.maccLoad d.toNat (w 0).toNat)) ∧
    (s.begins (.maccStore t d a cv) = true → runs (.maccStore t d a cv) 0 [d.toNat]
      [⟨true, w 0, 2048 * (if cv.toNat = 0 then 4 else if cv.toNat ≤ 2 then 2 else 1), 128, .copyWrite⟩]
      (.maccStore d.toNat cv.toNat (w 0).toNat)) ∧
    (s.begins (.maccAdd t d b) = true → runs (.maccAdd t d b) 0 [d.toNat, b.toNat] [] (.maccAdd d.toNat b.toNat)) ∧
    (s.begins (.maccScale t d a) = true → runs (.maccScale t d a) 0 [d.toNat] [] (.maccScale d.toNat ((w 0).setWidth 32))) ∧
    (s.begins (.maccClear t) = true → runs (.maccClear t) 0 [] [] .maccClear) ∧
    (s.begins (.cbload t d a) = true → runs (.cbload t d a) (if u.booksOf g ≤ d.toNat then 5 else 0) []
      [⟨true, w 0, 1024, 4, .copyRead⟩] (.cbload d.toNat (w 0).toNat)) ∧
    (s.begins (.maccRow t d a) = true → let v := (w 0).toNat
      let x := v / 2 ^ 8 % 2 ^ 7
      let cause := if v / 2 ^ 6 % 4 ≠ 0 ∨ v / 2 ^ 15 ≠ 0 then 1 else if (u.group g).budget ≤ x then 5 else 0
      let q := u.issueMatrix g (.maccRow d.toNat (v % 2 ^ 6) x)
      (∀ tr, u.tileCheck g s.cur cause [d.toNat] [] = some tr → exec (.maccRow t d a) s = .next (s.trapped (.maccRow t d a) tr)) ∧
      (u.tileCheck g s.cur cause [d.toNat] [] = none →
        ((u.group g).vEmpty.getLsbD x = true → exec (.maccRow t d a) s = .next (s.stay u)) ∧
        ((u.group g).vEmpty.getLsbD x = false → exec (.maccRow t d a) s = .next (s.after
          (q.setGroup g { q.group g with vEmpty := setBit (q.group g).vEmpty x true }))))) ∧
    (s.begins (.mopfence t) = true → let x := u.group g
      (x.vEmpty ≠ 0 ∨ x.uni.empty ≠ 0 → exec (.mopfence t) s = .next (s.stay u)) ∧
      (x.vEmpty = 0 → x.uni.empty = 0 → exec (.mopfence t) s = .next (s.after
        ((u.setGroup g { x with vOld := [] }).setTeam x.team { u.team x.team with
          unfenced := fenceNotes (u.team x.team).unfenced x.num (u.descOf x.team).ngroups }))))) ∧
  ((∀ (s : State) (g k slot f : Nat), let x := s.group g
    let cc := fun n => some (Trap.commandCheck n)
    s.mwldCheck g k slot f =
      if ¬ (x.allActive k = true) then some (Trap.convergence 7)
      else if 64 ≤ x.openBatch.length then cc 7
      else if f = 7 ∧ s.booksOf g ≤ slot then cc 5
      else if ¬ (∀ i ∈ List.range 4, (s.groups.find? (16 * x.team + 4 * (x.num / 4) + i)).isSome = true) then cc 9
      else if s.root.bootstat.getLsbD 20 = true ∧ f ≠ 0 ∧ f ≠ 1 ∧ f ≠ 3 then cc 13
      else none) ∧
  (∀ (s : State) (g : Nat) (th : ThreadId) (off stride soff : W64) (m rows : Nat) (sf : Bool) (f : Nat),
    let cc := fun n => some (Trap.commandCheck n)
    let paired := ∃ e, (s.group g).lastMwld = some e ∧ pairOk f sf e.1 e.2 = true
    s.batchFull g = false →
      (sf = false → soff ≠ 0 → s.mmaCheck g th off stride soff m rows sf f = cc 1) ∧
      (sf = true ∨ soff = 0 →
        (stride.toNat % 32 ≠ 0 ∨ 65504 < stride.toNat → s.mmaCheck g th off stride soff m rows sf f = cc 5) ∧
        (stride.toNat % 32 = 0 → stride.toNat ≤ 65504 →
          (s.tileHeld g m = true → s.mmaCheck g th off stride soff m rows sf f = cc 10) ∧
          (s.tileHeld g m = false → ¬ paired → s.mmaCheck g th off stride soff m rows sf f = cc 8) ∧
          (s.tileHeld g m = false → paired → s.reduced = false →
            (∀ tr, (mmaRanges off stride soff rows sf f).findSome? (s.rangeTrap th) = some tr →
              s.mmaCheck g th off stride soff m rows sf f = some tr) ∧
            ((mmaRanges off stride soff rows sf f).findSome? (s.rangeTrap th) = none →
              s.mmaCheck g th off stride soff m rows sf f = s.watchRanges th (mmaBytes off stride soff rows sf f)))))) ∧
  (∀ (f w : Nat) (sf sw : Bool), pairOk f sf w sw = true ↔
    ((f = 0 ∨ f = 1) ∧ (w = 0 ∨ w = 1)) ∨ (f = 2 ∧ w = 2 ∧ sf = sw) ∨ (f = 3 ∧ w = 3) ∨ (f = 4 ∧ w = 4) ∨
      (f = 5 ∧ (w = 5 ∨ w = 7)) ∨ (f = 6 ∧ w = 6)) ∧
  (∀ (s : State) (g : Nat) (th : ThreadId) (cause : Nat) (tiles : List Nat) (rs : List Range), s.batchFull g = false →
    (cause ≠ 0 → s.tileCheck g th cause tiles rs = some (Trap.commandCheck cause)) ∧
    (cause = 0 → (∃ m ∈ tiles, s.tileHeld g m = true) → s.tileCheck g th cause tiles rs = some (Trap.commandCheck 10)) ∧
    (cause = 0 → (∀ m ∈ tiles, s.tileHeld g m = false) → ∀ tr, rs.findSome? (s.rangeTrap th) = some tr →
      s.tileCheck g th cause tiles rs = some tr)))

/-- R253, R254, R257, R258, R260, R261: the turn of a matrix command at the head of its queue: its effect, or the data error
it meets, and its completion; while the queue is halted a command other than `macc.clear` only completes. R258, R259: `macc.load`
takes 64 rows of 32 words from scratchpad; `macc.store` writes each element in the form of its conversion, row by row, and
nothing else; `macc.row` fills the register in every lane, with the row's element where the lane has not exited, and with what the
lane held where it has, where the tile is invalid and where the command is discarded. R346: in a halted
partition no matrix command has its turn and no weight load is made: the state stays as it was. -/
def Obligations.MatrixTurns : Prop :=
  (∀ (s : State) (g : Nat), s.engineOff (s.group g).team = true →
    exec (.mmaTurn g) s = .next s ∧ exec (.maccTurn g) s = .next s ∧ exec (.cbloadTurn g) s = .next s) ∧
  (∀ (s : State) (team q : Nat), s.engineOff team = true → exec (.weightLoad team q) s = .next s) ∧
  (∀ (s : State) (g n : Nat) (c : Cmd), s.mqHead g = some (n, c) →
    (∀ m rows z sf f off stride soff, c.kind = .mma m rows z sf f off stride soff → s.engineOff c.team = false →
      s.tileClosing c.team [m] = false →
      ((s.group g).mqHalted = true → exec (.mmaTurn g) s = .next ((s.endMatrix g n).tryRetireGroup g)) ∧
      ((s.group g).mqHalted = false →
        exec (.mmaTurn g) s = .next ((s.runMma g n c m rows z sf f off stride soff).tryRetireGroup g))) ∧
    (c.kind.isMacc = true → s.engineOff c.team = false → s.tileClosing c.team c.kind.maccTiles.1 = false →
      exec (.maccTurn g) s = .next ((s.maccTurn g n c).tryRetireGroup g)) ∧
    (∀ slot off, c.kind = .cbload slot off → s.engineOff c.team = false →
      ((s.group g).mqHalted = true → exec (.cbloadTurn g) s = .next ((s.endMatrix g n).tryRetireGroup g)) ∧
      ((s.group g).mqHalted = false → s.bookAwaited c.team n slot = true → exec (.cbloadTurn g) s = .next s) ∧
      ((s.group g).mqHalted = false → s.bookAwaited c.team n slot = false → let r := s.loadBook g c.team slot off
        exec (.cbloadTurn g) s = .next
          (((r.1.modCmd n fun c => { c with poison := c.poison || r.2 }).endMatrix g n).tryRetireGroup g)))) ∧
  (∀ (s : State) (team q : Nat), let parts := s.loadParts team q
    (s.engineOff team = false →
      exec (.weightLoad team q) s = .next (parts.foldl (fun t p => t.tryRetireGroup p.1) (s.weightLoad team q))) ∧
    (s.quadWhole team q = true → parts.length < 4 → s.weightLoad team q = s) ∧
    (s.quadWhole team q = true → (∀ p ∈ parts, s.loadCause parts p.2.2 = 0) → ∀ p rest, parts = p :: rest → 3 ≤ rest.length →
      let f := p.2.2.loadFields
      s.weightLoad team q = (parts.foldl (fun t p => t.loadOk (s.buildWeights parts team f.1 f.2.2 f.2.1) p) s).passDraws) ∧
    (s.quadWhole team q = true → 4 ≤ parts.length → (∃ p ∈ parts, s.loadCause parts p.2.2 ≠ 0) →
      s.weightLoad team q = parts.foldl (fun t p => t.loadError p (s.loadCause parts p.2.2)) s)) ∧
  (∀ (s : State) (g n : Nat) (c : Cmd) (cause m opc : Nat), (s.groups.find? g).isSome = true → cause < 16 → m < 64 → opc < 64 →
    let v := s.tileError g n c cause m opc
    let w := (v.group g).mstat
    (v.tile c.team m).valid = false ∧ w.getLsbD 1 = true ∧ w.getLsbD 0 = (s.group g).mstat.getLsbD 0 ∧
    ((s.group g).mqHalted = false → w.extractLsb' 4 4 = BitVec.ofNat 4 cause ∧ w.extractLsb' 8 6 = BitVec.ofNat 6 m ∧
      w.extractLsb' 16 6 = BitVec.ofNat 6 opc ∧ w.extractLsb' 32 16 = c.batch ∧ w.extractLsb' 48 16 = 0) ∧
    ((s.group g).mqHalted = true → w = (s.group g).mstat)) ∧
  (∀ (s : State) (g n : Nat) (c : Cmd) (m rows : Nat) (z sf : Bool) (f off stride soff : Nat),
    let old := s.tile c.team m
    let r := s.mmaStream g rows sf f off stride soff
    ((s.group g).wset = none → s.runMma g n c m rows z sf f off stride soff = s.tileError g n c 5 m 0x35) ∧
    (∀ w, (s.group g).wset = some w → z = false → old.valid = false →
      s.runMma g n c m rows z sf f off stride soff = s.tileError g n c 3 m 0x35) ∧
    (∀ w, (s.group g).wset = some w → z = true ∨ old.valid = true → (sf = false ∨ ∀ e ∈ r.scales, e.1 ≠ 0xFF ∧ e.2 ≠ 0xFF) →
      let x := (s.runMma g n c m rows z sf f off stride soff).tile c.team m
      x.valid = true ∧ ∀ i j, i < 64 → j < 32 → x.at i j =
        if i < rows then (mmaElement r w f sf z old i j).1 else if old.valid then old.at i j else 0)) ∧
  (∀ (s : State) (g n : Nat) (c : Cmd) (m b : Nat) (x : W32), (s.group g).mqHalted = false →
    (c.kind = .maccZero m → let y := (s.maccTurn g n c).tile c.team m
      y.valid = true ∧ ∀ i j, i < 64 → j < 32 → y.at i j = 0) ∧
    (c.kind = .maccAdd m b → (s.tile c.team m).valid = true → (s.tile c.team b).valid = true →
      let y := (s.maccTurn g n c).tile c.team m
      y.valid = true ∧ ∀ i j, i < 64 → j < 32 → y.at i j =
        BitVec.ofNat 32 (fp32.addF .rne false ((s.tile c.team m).at i j).toNat ((s.tile c.team b).at i j).toNat).1) ∧
    (c.kind = .maccScale m x → (s.tile c.team m).valid = true → let y := (s.maccTurn g n c).tile c.team m
      y.valid = true ∧ ∀ i j, i < 64 → j < 32 →
        y.at i j = BitVec.ofNat 32 (fp32.mulF .rne false ((s.tile c.team m).at i j).toNat x.toNat).1) ∧
    (c.kind = .maccAdd m b → ((s.tile c.team m).valid = false ∨ (s.tile c.team b).valid = false) →
      s.maccTurn g n c = s.tileError g n c 3 m 0x36) ∧
    (c.kind = .maccScale m x → (s.tile c.team m).valid = false → s.maccTurn g n c = s.tileError g n c 3 m 0x36) ∧
    (∀ off, c.kind = .maccLoad m off → off % 128 = 0 → let y := (s.maccTurn g n c).tile c.team m
      let team := (s.group g).team
      y.valid = true ∧ ∀ i j, i < 64 → j < 32 → let o := off + 4 * (32 * i + j)
        y.at i j = BitVec.ofNat 32 (s.poolSeen g false o (s.fresh + o / 4)) ∧
        ((s.team team).unfenced.get [] (o / 4) = [] → y.at i j = BitVec.ofNat 32 (s.poolRead team o 4))) ∧
    (∀ cv off, c.kind = .maccStore m cv off → (s.tile c.team m).valid = false → s.maccTurn g n c = s.tileError g n c 3 m 0x36) ∧
    (∀ cv off, c.kind = .maccStore m cv off → cv < 5 → (s.tile c.team m).valid = true → let t := s.maccTurn g n c
      let size := if cv = 0 then 4 else if cv ≤ 2 then 2 else 1
      (∀ i j, i < 64 → j < 32 → let e := (s.tile c.team m).at i j
        let y := fp32.unpack e.toNat
        t.poolRead c.team (off + size * (32 * i + j)) size =
          (if cv = 0 then e.toNat else if cv = 1 then (bf16.convert .rne false false y).1
            else if cv = 2 then (fp16.convert .rne false false y).1 else if cv = 3 then (e4m3.convert .rne false true y).1
            else (BitVec.ofInt 8 (max (-128) (min 127 e.toInt))).toNat) % 256 ^ size) ∧
      ∀ o, o < off ∨ off + 2048 * size ≤ o → t.poolRead c.team o 1 = s.poolRead c.team o 1) ∧
    (∀ r y, c.kind = .maccRow m r y → y < 128 → (s.groups.find? g).isSome = true →
      let live := fun (l : Nat) => ∃ sl, (s.group g).slices[l / 4]? = some sl ∧ sl.live.getLsbD (l % 4) = true
      let w := ((s.maccTurn g n c).group g)
      w.vEmpty.getLsbD y = false ∧ (∀ z, z ≠ y → w.vEmpty.getLsbD z = (s.group g).vEmpty.getLsbD z) ∧
      ∀ l, l < 32 →
        ((s.tile c.team m).valid = true → live l → w.v.get 0 (32 * y + l) = (s.tile c.team m).at r l) ∧
        ((s.tile c.team m).valid = false ∨ ¬ live l → w.v.get 0 (32 * y + l) = (s.group g).v.get 0 (32 * y + l)))) ∧
  (∀ (s : State) (g n : Nat) (c : Cmd) (m r y : Nat), (s.group g).mqHalted = true → c.kind = .maccRow m r y → y < 128 →
    (s.groups.find? g).isSome = true → let w := ((s.maccTurn g n c).group g)
    w.vEmpty.getLsbD y = false ∧ ∀ l, l < 32 → w.v.get 0 (32 * y + l) = (s.group g).v.get 0 (32 * y + l)) ∧
  (∀ (s : State) (g n : Nat) (c : Cmd), c.kind = .maccClear → (s.groups.find? g).isSome = true →
    ((s.maccTurn g n c).group g).mstat = (s.group g).mstat &&& 1)

/-- R264, R266, R267, R269: `ltag.alloc` gives a free tag of the partition's pool with the next GEN, or 0; `ltag.free` frees a
tag its executor's context holds and traps on any other value; `meet` that passes its checks issues and empties its status
register. The model's own readings here: a value without bit 31 is no tag (log entry 19); DONE is checked as an atomic and DEST
as a copy's destination (log entry 34); the tag that `ltag.alloc` gives is one of the function that is on the partition (log entry
30); a walk waits while the host may hold the lines it fills (log entry 40); in group code `ltag.alloc` fills its register with the reply (log entry 47); a bad TAG
before a held tile (log entry 32). -/
def Obligations.LandingWords : Prop :=
  (∀ (s : State) (t : Bool) (d : BitVec 6), s.begins (.ltagAlloc t d) = true →
    let r := s.unheld.allocTag (s.unheld.partOf s.cur) (s.unheld.ctxOf s.cur)
    (isGang s.cur = false ∨ d = 0 → exec (.ltagAlloc t d) s = .next (s.after (r.1.putW s.cur d.toNat r.2))) ∧
    (isGang s.cur = true → d ≠ 0 →
      exec (.ltagAlloc t d) s = .next (s.after (r.1.pushResult s.cur (.w d.toNat) [(0, r.2)])))) ∧
  (∀ (s : State) (part owner : Nat), (s.parts.find? part).isSome = true →
    let r := s.allocTag part owner
    ((∀ i, i < (s.part part).ntags → ((s.part part).tags.get {} i).owner ≠ none) → r = (s, 0)) ∧
    ((∃ i, i < (s.part part).ntags ∧ ((s.part part).tags.get {} i).owner = none) → (s.part part).ntags ≤ 2 ^ 16 →
      ∃ i, i < (s.part part).ntags ∧ ((s.part part).tags.get {} i).owner = none ∧
        r.2 = BitVec.ofNat 64 (2 ^ 31 + (((s.part part).tags.get {} i).gen + 1).toNat * 2 ^ 16 + i) ∧
        ((r.1.part part).tags.get {} i).owner = some owner ∧ ((r.1.part part).tags.get {} i).func = (s.part part).func ∧ r.1.ownsTag part owner (r.2.setWidth 32) = true ∧
        ∀ j, j ≠ i → (r.1.part part).tags.get {} j = (s.part part).tags.get {} j)) ∧
  (∀ (s : State) (t : Bool) (a : BitVec 6), s.begins (.ltagFree t a) = true →
    let u := s.unheld
    let v := u.getW s.cur a.toNat
    let own := u.ownsTag (u.partOf s.cur) (u.ctxOf s.cur) (v.setWidth 32)
    (2 ^ 32 ≤ v.toNat ∨ own = false → exec (.ltagFree t a) s = .next (s.trapped (.ltagFree t a) (Trap.commandCheck 11))) ∧
    (v.toNat < 2 ^ 32 → own = true → exec (.ltagFree t a) s =
      .next (s.after (u.freeTag (u.partOf s.cur) (v.toNat % 2 ^ 16))))) ∧
  (∀ (s : State) (part i : Nat), (s.parts.find? part).isSome = true →
    let p := (s.freeTag part i).part part
    (p.tags.get {} i).owner = none ∧ p.landings.find? i = none ∧ (p.tags.get {} i).gen = ((s.part part).tags.get {} i).gen) ∧
  (∀ (s s1 : State) (t v : Bool) (d a b : BitVec 6) (c o : BitVec 2) (g k : Nat) (fs : List Frames), s.cur = .gang g k →
    s.begins (.meet t d a b c v o) = true →
    let u := s.unheld
    let r := fun i => u.getW s.cur (a.toNat + i)
    let p := u.part (u.partOf s.cur)
    let i := Instr.meet t d a b c v o
    let traps := fun (tr : Trap) => exec i s = .next (s.trapped i tr)
    let len := if v then 4096 else 8192
    let rs : List Range := [⟨false, r 1, len, 128, .copyWrite⟩, ⟨false, r 2, 8, 8, .atomic⟩]
    let good := (r 0).toNat < 2 ^ 32 ∧ (r 0).getLsbD 31 = true ∧ (r 0).toNat % 2 ^ 16 < p.ntags ∧ 2 ≤ (r 3).toNat ∧
      (r 3).toNat ≤ 16 ∧ p.classen.getLsbD c.toNat = true
    let fr := (fs.getD 1 []).foldl (fun m (e : Nat × Nat) => m.insert e.1 e.2) (fs.getD 0 [])
    (u.batchFull g = true → traps (Trap.commandCheck 7)) ∧
    (u.batchFull g = false → ¬ good → traps (Trap.commandCheck 5)) ∧
    (u.batchFull g = false → good → u.tileHeld g d.toNat = true → traps (Trap.commandCheck 10)) ∧
    (u.batchFull g = false → good → u.tileHeld g d.toNat = false → rs.findSome? (u.rangeTrap s.cur) = none →
      u.pinRanges s.cur rs = (s1, .ok fs) →
      ((∃ f ∈ fs, framesTyped f [.shared] = false) → traps (Trap.commandCheck 3)) ∧
      ((∀ f ∈ fs, framesTyped f [.shared] = true) → s1.watchRanges s.cur rs = none → u.filledHeld s1 = none →
        exec i s = .next (s.after ((s1.issueMatrix g (.meet d.toNat o v c b.toNat ((r 0).setWidth 32) (r 1) (r 2)
          (r 3).toNat fr)).emptyW s.cur b.toNat)))))

/-- R268, R271, R275: a `meet` at its turn is discarded, meets a data error, waits, for identifiers (R364) and for the write-backs of
its release (R202) too, or sends its tile; an arrival is refused
with its status, makes an entry, or is combined, element by element, into the entry it agrees with; the last forwards it.
R272, R274, R275: a forward writes the combined tile, row-major, to its destination and then counts at DONE, by 1 or, when
incomplete, by 2^32 + 1; the tag becomes idle or orphaned. An entry whose running count has reached its class's time forwards
incomplete, and one of a saved context does not run. -/
def Obligations.LandingsCombineAndForward : Prop :=
  ((∀ (s : State) (g n : Nat) (c : Cmd) (m : Nat) (op : BitVec 2) (cvt : Bool) (cls : BitVec 2) (dst : Nat) (tag : W32)
    (dest done : W64) (parties : Nat) (fr : Frames), s.mqHead g = some (n, c) →
    c.kind = .meet m op cvt cls dst tag dest done parties fr → s.engineOff c.team = false →
    let sent := ∃ a ∈ (s.part (s.team c.team).part).arrivals, a.cmd = n
    let status := s.fillMeet g dst (meetStatus 6 0 false tag)
    (sent → exec (.meetTurn g) s = .next (s.tryRetireGroup g)) ∧
    (¬ sent → (s.group g).mqHalted = true → exec (.meetTurn g) s = .next ((status.endMatrix g n).tryRetireGroup g)) ∧
    (¬ sent → (s.group g).mqHalted = false → s.tileClosing c.team [m] = false → s.olderPending g n = false →
      s.crowdedBy (s.team c.team).cluster (some ((s.part (s.team c.team).part).homeSlice (tag.toNat % 2 ^ 16) / 64)) 1 = false →
      ((s.tile c.team m).valid = false →
        exec (.meetTurn g) s = .next ((status.tileError g n c 3 m 0x39).tryRetireGroup g)) ∧
      ((s.tile c.team m).valid = true →
        (∀ s1, s.releaseWait (s.team c.team).cluster 3 = some s1 → exec (.meetTurn g) s = .next (s1.tryRetireGroup g)) ∧
        (s.releaseWait (s.team c.team).cluster 3 = none →
          exec (.meetTurn g) s = .next ((s.sendTile g n c).tryRetireGroup g))))) ∧
  (∀ (s : State) (part index : Nat) (x : Arrival), (s.part part).arrivals.find? (fun a => tagIndex a.tag == index) = some x →
    (s.part part).halted = false →
    let s0 := s.post .unit (s.cptOf (.gang x.group 0)) ((s.part part).homeSlice index / 64) (.arrival part x) 0
    let r := (s0.modPart part fun p => { p with arrivals := p.arrivals.erase x }).arrive part x
    let last := decide (r.2.2 = x.parties ∧ r.2.2 ≠ 0)
    exec (.landingArrival part index) s = .next
      (((r.1.fillMeet x.group x.dst (meetStatus r.2.1 r.2.2 last x.tag)).endMatrix x.group x.cmd).tryRetireGroup x.group)) ∧
  (∀ (s : State) (part : Nat) (x : Arrival), (s.parts.find? part).isSome = true →
    let i := tagIndex x.tag
    let p := s.part part
    let owned := s.ownsTag part x.ctx x.tag
    let orphaned := (p.tags.get {} i).orphaned
    (owned = false → s.arrive part x = (s, 5, 0)) ∧
    (owned = true → orphaned = true → s.arrive part x = (s, 3, 0)) ∧
    (owned = true → orphaned = false → p.landings.find? i = none →
      (p.entryPlace i = none → s.arrive part x = (s, 2, 0)) ∧
      (∀ place, p.entryPlace i = some place → x.parties ≠ 1 → let r := s.arrive part x
        (r.1.part part).landings.find? i = some (x.entry place s.time) ∧ r.2 = (if place = 0 then 0 else 1, 1))) ∧
    (∀ e, owned = true → orphaned = false → p.landings.find? i = some e →
      (e.agrees x = false → s.arrive part x = (s, 4, 0)) ∧
      (e.agrees x = true → e.arr + 1 ≠ e.parties → let r := s.arrive part x
        (r.1.part part).landings.find? i = some (e.add x) ∧ r.2.2 = e.arr + 1) ∧
      (e.agrees x = true → e.arr + 1 = e.parties → let r := s.arrive part x
        (r.1.part part).landings.find? i = none ∧ ((r.1.part part).tags.get {} i).orphaned = false ∧ r.2.2 = e.parties))) ∧
  (∀ (e : Landing) (x : Arrival) (j : Nat), j < 2048 →
    let y := e.add x
    let a := Tbl.get 0 e.el j
    let b := Tbl.get 0 x.el j
    y.arr = e.arr + 1 ∧ y.sig = e.sig ||| x.sig ∧ y.poison = (e.poison || x.poison) ∧
    Tbl.get 0 y.el j = if e.op = 0 then BitVec.ofNat 32 (fp32.addF .rne false a.toNat b.toNat).1
      else if e.op = 1 then BitVec.ofNat 32 (fp32.minMax true false a.toNat b.toNat).1 else a + b)) ∧
  ((∀ (s : State) (part i : Nat) (e : Landing), (s.part part).landings.find? i = some e →
    let d := if e.cls = 0 then 10000 else if e.cls = 1 then 200000 else if e.cls = 2 then 2000000 else 10000000
    (e.since.isSome = true → d ≤ e.count s.time → (s.part part).halted = false →
      exec (.landingTimeout part i) s = .next (s.forward part i e false)) ∧
    (e.since = none ∨ e.count s.time < d ∨ (s.part part).halted = true → exec (.landingTimeout part i) s = .next s) ∧
    (e.count s.time = e.ran + (match e.since with | some t => s.time - t | none => 0))) ∧
  (∀ (s : State) (part i : Nat) (e : Landing) (complete : Bool), (s.parts.find? part).isSome = true →
    let p := (s.forward part i e complete).part part
    p.landings.find? i = none ∧ ((p.tags.find? i).isSome = true → (p.tags.get {} i).orphaned = !complete) ∧
    ∀ j, j ≠ i → p.landings.find? j = (s.part part).landings.find? j) ∧
  (∀ (s : State) (part i base pa : Nat) (e : Landing) (complete : Bool), s.sectorsOf 1023 = [] → base % 128 = 0 → pa % 8 = 0 →
    let n := if e.cvt then 2 else 4
    (∀ o, o < 2048 * n → (framePhys e.frames (e.dest.toNat + o)).pa = base + o ∧ s.owns part (base + o) = true) →
    (framePhys e.frames e.done.toNat).pa = pa → s.owns part pa = true → (pa + 8 ≤ base ∨ base + 2048 * n ≤ pa) →
    let t := s.forward part i e complete
    t.homeValue pa 8 = (s.homeValue pa 8 + if complete then 1 else 2 ^ 32 + 1) % 2 ^ 64 ∧
    ∀ j, j < 2048 → let x : W32 := Tbl.get 0 e.el j
      t.homeValue (base + n * j) n =
        (if e.cvt then (bf16.convert .rne false false (fp32.unpack x.toNat)).1 else x.toNat) % 256 ^ n))

/-- R164, R278 to R281, R283, R284, R287, R288: each `strm` word waits while the core's unit or its stream's queue is full, traps
by its first failing check, and else is accepted: it joins the open batch and its stream's queue and
empties its status register; an open holds its tiles, and a close gives them up. That a word waits while its stream's queue is full
is log entry 35. R280, R281: a handle is checked for its
reserved bits and names an open stream of the team that is not closing; the checks of an open's CFG in their order. -/
def Obligations.StreamWords : Prop :=
  (∀ (s s1 : State) (t h q : Bool) (d a : BitVec 6) (g k : Nat) (fs : List Frames), s.cur = .gang g k →
    let u := s.unheld
    let r := fun (i : Nat) => u.getW s.cur (a.toNat + i)
    let slot := (r 0).toNat / 2 ^ 8 % 32
    let gen := (r 0).extractLsb' 32 32
    let out := fun (v : W64) => if v = BitVec.allOnes 64 then none else some v.toNat
    let runs := fun (i : Instr) (check : Pinned) (c : CmdKind) =>
      (u.batchFull g = true → exec i s = .next (s.trapped i (Trap.commandCheck 7))) ∧
      (u.batchFull g = false →
        (u.handleCause g (r 0) ≠ 0 → exec i s = .next (s.trapped i (Trap.commandCheck (u.handleCause g (r 0))))) ∧
        (u.handleCause g (r 0) = 0 →
          (∀ tr, check = .stop (.trap tr) → exec i s = .next (s.trapped i tr)) ∧
          (check = .ok s1 fs → s1.queueFull g (r 0) = false →
            exec i s = .next (s.after (s1.acceptStrm g s.cur (r 0) d.toNat c)))))
    (∀ i, engineOf i = some .stream → i.hasWord = true →
      (s.strmFull g = true ∨ ∃ n, handleReg i = some n ∧ (n = 0 ∨ (s.uni s.cur).empty.getLsbD n = false) ∧
        s.queueFull g (s.getW s.cur n) = true) → exec i s = .next (s.stay s)) ∧
    (s.begins (.strmOpen t d a) = true → let c := parseCfg (r 0)
      let v := (u.issueCmd g (.strmOpen c.tile c.outer c.comp c.zero c.n d.toNat (u.group g).mq)).1
      (u.batchFull g = true →
        exec (.strmOpen t d a) s = .next (s.trapped (.strmOpen t d a) (Trap.commandCheck 7))) ∧
      (u.batchFull g = false →
        (u.openCause g (r 0) ≠ 0 →
          exec (.strmOpen t d a) s = .next (s.trapped (.strmOpen t d a) (Trap.commandCheck (u.openCause g (r 0))))) ∧
        (u.openCause g (r 0) = 0 → exec (.strmOpen t d a) s = .next (s.after
          ((v.holdTiles (u.group g).team (if c.comp then [c.tile, c.tile + 1] else [c.tile])).emptyW s.cur d.toNat))))) ∧
    (s.begins (.strmStep t d a) = true → runs (.strmStep t d a) (u.checkSteps s.cur g (r 0) (r 1) 0 (r 2) 0 1)
      (.strmStep slot gen (r 1).toNat (out (r 2)) d.toNat)) ∧
    (s.begins (.strmScan t d a) = true → runs (.strmScan t d a)
      (if (r 2).toNat % 128 = 0 ∧ (r 5).toNat % 128 = 0 ∧ 1 ≤ (r 3).toNat ∧ (r 3).toNat ≤ 64
        then u.checkSteps s.cur g (r 0) (r 1) (r 2) (r 4) (r 5) (r 3).toNat else .stop (.trap (Trap.commandCheck 5)))
      (.strmScan slot gen (r 1).toNat (r 2).toNat (r 3).toNat (out (r 4)) (r 5).toNat d.toNat)) ∧
    (s.begins (.strmSave t d a h) = true → runs (.strmSave t d a h) (u.checkRecord s.cur (r 1) .copyWrite)
      (.strmSave slot gen h (r 1).toNat (fs.getD 0 []) d.toNat)) ∧
    (s.begins (.strmLoad t d a) = true → runs (.strmLoad t d a) (u.checkRecord s.cur (r 1) .copyRead)
      (.strmLoad slot gen (r 1).toNat (fs.getD 0 []) d.toNat)) ∧
    (s.begins (.strmQuery t d a q) = true → s1 = u → fs = [] → runs (.strmQuery t d a q) (.ok u []) (.strmQuery slot gen q d.toNat)) ∧
    (s.begins (.strmClose t d a) = true → u.batchFull g = false →
      (u.handleCause g (r 0) ≠ 0 →
        exec (.strmClose t d a) s = .next (s.trapped (.strmClose t d a) (Trap.commandCheck (u.handleCause g (r 0))))) ∧
      (u.handleCause g (r 0) = 0 → exec (.strmClose t d a) s = .next (s.after
        ((u.acceptStrm g s.cur (r 0) d.toNat (.strmClose slot gen d.toNat)).startClose (u.group g).team slot))))) ∧
  ((∀ (s : State) (g : Nat) (h : W64), let x := s.streamOf (s.group g).team (h.toNat / 2 ^ 8 % 32)
    let zero := h.toNat % 2 ^ 8 = 0 ∧ h.toNat / 2 ^ 13 % 2 ^ 19 = 0
    (¬ zero → s.handleCause g h = 1) ∧
    (zero → x = none → s.handleCause g h = 12) ∧
    (∀ y, zero → x = some y → s.handleCause g h = if y.closing then 12 else 0)) ∧
  (∀ (s : State) (g : Nat) (x : W64), let m := x.toNat % 64
    let mt := (s.descOf (s.group g).team).mtiles
    let comp := x.getLsbD 9
    let zero := x.toNat / 2 ^ 6 % 4 = 0 ∧ x.toNat / 2 ^ 11 % 2 ^ 5 = 0 ∧ x.toNat / 2 ^ 27 = 0
    let fits := (x.getLsbD 8 = true → x.toNat / 2 ^ 16 % 2 ^ 11 + 1 = 2048) ∧ m < mt ∧ (comp = true → m + 1 < mt)
    let held := s.tileHeld g m = true ∨ (comp = true ∧ s.tileHeld g (m + 1) = true)
    (¬ zero → s.openCause g x = 1) ∧ (zero → ¬ fits → s.openCause g x = 5) ∧ (zero → fits → held → s.openCause g x = 10) ∧
    (zero → fits → ¬ held → s.openCause g x = 0)) ∧
  (∀ (s : State) (g : Nat) (th : ThreadId) (h : W64) (d : Nat) (k : CmdKind) (x : Stream),
    s.streamOf (s.group g).team (handleSlot h) = some x → let v := s.acceptStrm g th h d k
    (v.streamOf (s.group g).team (handleSlot h)).map (·.queue) = some (x.queue ++ [s.nextId]) ∧
    (v.cmds.find? s.nextId).map (fun c => (c.kind, c.done)) = some (k, false)))

/-- R211, R281, R282, R284, R286 to R289, R291: the turn of a stream command, which does not come once the save of its context has
begun: a step of a DIAG stream gives every element the rounding of
a × (h + c) + b × x, one of an OUTER stream that of g × (S + C) + k × v with g and k of its row and v of its column, and with COMP
the rounding of what that rounding left out, +0 where the element is not finite; y of OUTER is the rounding of the exact sum of a
column's products; a scan's elements stand within its bound of the steps'; a command of an older generation is STALE; a save and a
load wait for the accesses that the group issued before them; a load takes only a record that fits; a close ends the stream. -/
def Obligations.StreamTurns : Prop :=
  (∀ (s : State) (n : Nat) (c : Cmd), s.cmds.find? n = some c → c.done = false → s.engineOn c.team = true →
    (s.saveBegun c.team = true → exec (.strmTurn n) s = .next s) ∧
    (s.saveBegun c.team = false → ∀ tile outer comp zero len d after, c.kind = .strmOpen tile outer comp zero len d after →
      (s.openReady c.team (strmTiles tile comp) after = true →
        exec (.strmTurn n) s = .next ((s.runOpen n c tile outer comp zero len d).tryRetireGroup c.group)) ∧
      (s.openReady c.team (strmTiles tile comp) after = false → exec (.strmTurn n) s = .next s)) ∧
    (∀ x, s.saveBegun c.team = false → (∀ tile outer comp zero len d after, c.kind ≠ .strmOpen tile outer comp zero len d after) → c.kind.isStream = true →
      s.streamOf c.team c.kind.strmSlot = some x →
      (s.strmTurnIs x n = true →
        (∀ s1, s.recordWait n c = some s1 → exec (.strmTurn n) s = .next s1) ∧
        (s.recordWait n c = none →
          exec (.strmTurn n) s = .next ((s.strmTurn n c c.kind.strmSlot x).tryRetireGroup c.group))) ∧
      (s.strmTurnIs x n = false → exec (.strmTurn n) s = .next s))) ∧
  (∀ (s : State) (n : Nat) (c : Cmd) (slot : Nat) (x : Stream) (gen : W32) (off d : Nat), s.streamOf c.team slot = some x →
    c.kind = .strmStep slot gen off none d → let v := s.strmTurn n c slot x
    (gen ≠ x.gen → v = (s.dequeue c.team slot n).endStrm n c d (strmStatus 1 slot x)) ∧
    (gen = x.gen → x.team = c.team → (v.streamOf c.team slot).map (·.steps) = some (x.steps + 1) ∧
      (x.n ≤ 2048 → ∀ j, j < (if x.outer then 2048 else x.n) →
        let os := (s.dequeue c.team slot n).readOperands c.group x off
        let old := fun (t : Nat) => (s.tile c.team t).at (j / 32) (j % 32)
        let o : Cell := ⟨old x.tile, if x.comp then old (x.tile + 1) else 0, false, false⟩
        let row := if x.outer then j / 32 else j
        let y := stepCell x.comp o (opAt os 0 row) (opAt os 1 row) (opAt os 2 (if x.outer then j % 32 else j))
        (v.tile c.team x.tile).at (j / 32) (j % 32) = y.h ∧
        (x.comp = true → (v.tile c.team (x.tile + 1)).at (j / 32) (j % 32) = y.c)))) ∧
  (∀ (s : State) (n : Nat) (c : Cmd), (∃ l g h a f d, c.kind = .strmSave l g h a f d) ∨ (∃ l g a f d, c.kind = .strmLoad l g a f d) →
    (s.olderPending c.group n = true → s.recordWait n c = some s) ∧
    (s.olderPending c.group n = false → s.recordWait n c = s.snoopHost c.kind.recordLines)) ∧
  (∀ (comp : Bool) (os : Operands) (cs : List Cell) (j : Nat), j < 32 →
    let p := fun (i : Nat) => let o := cs.getD (32 * i + j) ⟨0, 0, false, false⟩
      ((f32 o.h).plus (f32 (if comp then o.c else 0))).times (f32 (opAt os 3 i))
    (stepY true comp os cs).1[j]? =
      some (roundF32 (((List.range 63).map (· + 1)).foldl (fun acc i => acc.plus (p i)) (p 0))).bits) ∧
  (∀ (comp : Bool) (o : Cell) (a b x : W32), let y := stepCell comp o a b x
    let e := ((f32 a).times ((f32 o.h).plus (f32 (if comp then o.c else 0)))).plus ((f32 b).times (f32 x))
    y.h = (roundF32 e).bits ∧ (comp = false → y.c = 0) ∧
    (comp = true → (∃ n m k, f32 y.h = .fin n m k) → y.c = (roundF32 (e.plus (f32 y.h).negate)).bits) ∧
    ((∀ n m k, f32 y.h ≠ .fin n m k) → y.c = 0) ∧ (o.nan = true → y.nan = true) ∧ (o.ovf = true → y.ovf = true)) ∧
  (∀ (comp : Bool) (steps draw j : Nat) (q : FVal) (o : Cell), let y := scanCell comp steps draw j q o
    y = o ∨ (scanWithin steps q (f32 y.h) (f32 o.h) = true ∧ ∃ r, y.h = (roundF32 r).bits ∧ y.c = errTerm comp r y.h)) ∧
  (∀ (s : State) (n : Nat) (c : Cmd) (slot : Nat) (x : Stream) (d : Nat), c.kind = .strmClose slot x.gen d → x.queue = [n] →
    (s.strmTurn n c slot x).streamOf c.team slot = none) ∧
  (∀ (s : State) (n : Nat) (c : Cmd) (slot : Nat) (x : Stream) (addr : Nat) (fr : Frames) (d : Nat),
    let r := s.readWords c.group fr addr (16 + x.size * (1 + x.comp.toNat))
    recFits x r.2.1 = false → s.runLoad n c slot x addr fr d =
      (r.1.modCmd n fun c => { c with poison := c.poison || r.2.2 }).endStrm n c d (strmStatus 4 slot x)) ∧
  (∀ (x : Stream) (h : List Nat), x.outer = false → x.comp = false → h.length = x.n → x.n ≤ 2048 → 1 ≤ x.n → x.held = false →
    (∀ w ∈ h, w < 2 ^ 32) → let ws := recWords (recHeader false false x.n x.nan x.ovf x.steps x.gen) h
    recFits x ws = true ∧ (recStream x ws).1 = x ∧ (recStream x ws).2.map (fun o => o.h.toNat) = h)

/-! ### The package -/

/-- R342, R345, R346, R384: a partition takes an aligned block of at least four clusters that meets no other's; a created one
is empty, holds its key and no other partition's channels. A security alarm halts the partitions of its die and erases their
keys, the thermal trip (R384) halts all and erases none; what either halts issues nothing until it is created anew. The channels of
a new partition and the sizes of its pools are the model's (log entry 16). R166, R343: a change of borders is refused with its
notice, or begins: the departing clusters take no team, and it ends once they are empty and no context is being saved; at its
deadline the contexts that still stand there are pre-empted. R165, R166: a window of 10,000,000 ns counts the cores that hold
a team and finds a partition short or idle-rich; for a short one beside an idle-rich one the controller asks for a move of
half a block, or counts a missed target where no halves fit; what a window counts, and the block that moves, are log entry 58. R340, R341, R344: a function switch waits for a running context
switch, then pre-empts what is resident, and swaps once all is saved (what goes with a function is log entry 30); a new service image
takes over once the calls accepted before it have finished (how, and that a trip keeps memory, is log entry 36). -/
def Obligations.PartitionEvents : Prop :=
  ((∀ (s : State) (part base logk : Nat) (key : BitVec 512),
    let ok := part < 48 ∧ Machine.blockOk base logk = true ∧ s.blockFree part base logk = true ∧
      ∀ p, s.parts.find? part = some p → p.halted = true
    (ok → exec (.partitionCreation part base logk key) s = .next (s.createPart part base logk key)) ∧
    (¬ ok → exec (.partitionCreation part base logk key) s = .next s) ∧
    let t := s.createPart part base logk key
    let p := t.part part
    p.base = base ∧ p.logk = logk ∧ p.key = key ∧ p.halted = false ∧
    (∀ k, (t.teams.find? k).isSome = true → (t.team k).part ≠ part) ∧
    (∀ c, c < 256 → t.ctxs.find? (256 * part + c) = none) ∧
    (∀ c ∈ p.chans, ∀ e ∈ s.realParts, e.1 ≠ part → c ∉ e.2.chans)) ∧
  (∀ (base logk : Nat), Machine.blockOk base logk = true ↔ 2 ≤ logk ∧ logk ≤ 8 ∧ 2 ^ logk ∣ base ∧ base + 2 ^ logk ≤ 256) ∧
  (∀ (s : State) (die : Nat) (tamper : Bool), 4 ≤ die → exec (.securityAlarm die tamper) s = .next s) ∧
  (∀ (s : State) (die : Nat) (tamper : Bool), die < 4 → ∃ t, exec (.securityAlarm die tamper) s = .next t ∧
    (∀ k p, k < 48 → s.parts.find? k = some p → (tamper = true ∨ p.onBase die = true) →
      (t.part k).halted = true ∧ (t.part k).key = 0) ∧
    (∀ k, 48 ≤ k → t.parts.find? k = s.parts.find? k) ∧
    t.root.seccfg.getLsbD (die + 1) = true ∧ t.root.reports = s.root.reports ++ [.securityAlarm die tamper] ∧
    (s.root.bootstat.getLsbD 20 = true → t.root.bootstat = 0x100000 ∧ t.root.th.mode = .idle)) ∧
  (∀ (s : State) (tj : BitVec 8), (tj.toNat < 115 → exec (.thermalTrip tj) s = .next s) ∧
    (115 ≤ tj.toNat → ∃ t, exec (.thermalTrip tj) s = .next t ∧
      (∀ k p, k < 48 → s.parts.find? k = some p → (t.part k).halted = true ∧ (t.part k).key = p.key) ∧
      t.root.reports = s.root.reports ++ [.thermalTrip tj] ∧ t.mem = s.mem)) ∧
  (∀ (s : State) (t : ThreadId), t ≠ .monitor → (s.part (s.partOf t)).halted = true → s.runnable t = false)) ∧
  ((∀ (s : State) (part base logk deadline : Nat) (pages : Bool) (p : Part), s.parts.find? part = some p →
    let b : Border := ⟨base, logk, s.time + (if deadline = 0 then 1000000 else deadline), pages, none⟩
    let ok := Machine.blockOk base logk = true ∧ s.blockFree part base logk = true
    (p.border = none → ok →
      exec (.borderChange part base logk deadline pages) s = .next ((s.startBorder part b).advanceBorder part)) ∧
    (p.border = none → ¬ ok → exec (.borderChange part base logk deadline pages) s = .next (s.notify part 6 0 2)) ∧
    (p.border.isSome = true → exec (.borderChange part base logk deadline pages) s = .next ((s.modPart part fun q => { q with
      border := q.border.map fun b => { b with pagesMigrated := b.pagesMigrated || pages } }).advanceBorder part)) ∧
    (∀ c, c ∈ ((s.startBorder part b).part part).leaving ↔ p.base ≤ c ∧ c < p.base + 2 ^ p.logk ∧ (c < base ∨ base + 2 ^ logk ≤ c)) ∧
    (∀ x, p.border = some x →
      (s.time < x.deadline → exec (.borderDeadline part) s = .next s) ∧
      (x.deadline ≤ s.time →
        let hit := fun c => (s.ctxTeams part c).any (fun k => (s.team k).placed && p.leaving.contains (s.team k).cluster) ||
          (s.ctxSpines part c).any p.leaving.contains
        let t := (s.ctxsOf part (· == .resident)).foldl (fun t c =>
          if hit c then (t.raiseRequest part c 2 false).modCtx part c fun x => { x with resume := true } else t) s
        exec (.borderDeadline part) s = .next (t.advanceBorder part)) ∧
      (s.unitsOn part p.leaving.contains = true ∨ s.ctxsOf part (· == .saving) ≠ [] → s.advanceBorder part = s) ∧
      (∀ t, s.unitsOn part p.leaving.contains = false → s.ctxsOf part (· == .saving) = [] → s.finishBorder part p x = some t →
        x.recv = none → s.advanceBorder part = t))) ∧
  (∀ (s : State) (short rich base logk : Nat) (p q : Part), s.parts.find? short = some p → s.parts.find? rich = some q →
    (p.border.isSome = true ∨ q.border.isSome = true →
      exec (.partitionWindowEnd short rich base logk) s = .next (s.advanceBorder rich)) ∧
    (p.border = none → q.border = none →
      let found := p.short = true ∧ q.rich = true ∧ (p.base + 2 ^ p.logk = q.base ∨ q.base + 2 ^ q.logk = p.base)
      let u := s.modPart short fun p => { p with short := false }
      (¬ found → exec (.partitionWindowEnd short rich base logk) s = .next s) ∧
      (found → halvesOk p q base logk = true → exec (.partitionWindowEnd short rich base logk) s = .next
        ((u.startBorder rich ⟨if base = q.base then q.base + 2 ^ logk else q.base, logk, s.time + 1000000, false, some short⟩).advanceBorder
          rich)) ∧
      (found → (∀ b, b < 256 → halvesOk p q b p.logk = false) → halvesOk p q base logk = false →
        exec (.partitionWindowEnd short rich base logk) s = .next (u.modPart short fun p => { p with missed := p.missed + 1 })))) ∧
  (∀ (s : State) (k n : Nat) (p : Part), s.parts.find? k = some p →
    let t := s.tick n
    let dt := t.time - s.time
    let busy := (s.busyCores k).length
    let cores := 4 * (s.clustersIn k).length
    let waits := ∃ e ∈ s.grids, e.2.part = k ∧ (e.2.phase = .passed ∨ e.2.phase = .placing)
    s.time ≤ t.time ∧ t.time ≤ s.time + n ∧ t.time ≤ max s.time ((s.time / 10000000 + 1) * 10000000) ∧
    (t.time % 10000000 ≠ 0 → ∃ q, t.parts.find? k = some q ∧ q.use = p.use + dt * busy ∧
      (q.kept = true ↔ p.kept = true ∧ waits) ∧ (q.airy = true ↔ p.airy = true ∧ 4 * busy ≤ 3 * cores) ∧
      q.short = p.short ∧ q.rich = p.rich) ∧
    (s.time < t.time → t.time % 10000000 = 0 → ∃ q, t.parts.find? k = some q ∧ q.use = 0 ∧
      (q.short = true ↔ p.use + dt * busy < p.target ∧ p.kept = true ∧ waits) ∧
      (q.rich = true ↔ p.airy = true ∧ 4 * busy ≤ 3 * cores) ∧ q.kept = true ∧ q.airy = true))) ∧
  ((∀ (s : State) (part func : Nat) (p : Part), s.parts.find? part = some p →
    let may := func < 64 ∧ part < 48 ∧ p.halted = false ∧ p.func ≠ func ∧ ∀ q, s.funcPart.find? func = some q → q = part
    let u := s.modPart part fun q => { q with toFunc := some func }
    (¬ may → exec (.functionSwitch part func) s = .next s) ∧
    (may → exec (.functionSwitch part func) s = .next (u.advanceSwitch part func)) ∧
    ((s.part part).switching.isSome = true → s.advanceSwitch part func = s) ∧
    ((s.part part).switching = none →
      (s.ctxsOf part (· == .resident) ≠ [] → s.advanceSwitch part func =
        (s.ctxsOf part (· == .resident)).foldl (fun t k =>
          (t.raiseRequest part k 1 false).modCtx part k fun x => { x with resume := true }) s) ∧
      (s.ctxsOf part (· == .resident) = [] → s.ctxsOf part (· == .saving) = [] →
        s.advanceSwitch part func = s.swapFunction part func) ∧
      (s.ctxsOf part (· == .resident) = [] → s.ctxsOf part (· == .saving) ≠ [] → s.advanceSwitch part func = s))) ∧
  (∀ (s : State) (part : Nat) (entry : BitVec 48) (p : Part), s.parts.find? part = some p →
    let busy := (∃ e ∈ p.calls, BitVec.ofNat 32 e.1 ∉ p.late) ∨ p.switching.isSome = true ∨ ∃ r, p.svc.mode = .calling r
    ∃ t, exec (.serviceImageLoad part entry) s = .next t ∧
      (busy → (t.part part).nextImage = some entry ∧ (t.part part).image = p.image ∧ (t.part part).svc = p.svc) ∧
      (¬ busy → (t.part part).nextImage = none ∧ (t.part part).image = some entry ∧
        (t.part part).svc = { p.svc with pc := entry, mode := .run, part := part, waiting := false })))

/-- R361 to R364, R369, R373: a working link takes the flits of a good CRC in order and once, and sends a NAK for the others (one
until a flit is taken again: log entry 56); an ACKSEQ frees what it acknowledges; a NAK, and the time without progress, send all that is unacknowledged again, and a link
retrains on the halves that pass once a flit has been sent again 16 times. A flit that a link forms is good. A request without
a reply is sent again and is performed at most once; a posted one stays outstanding until its acknowledgement comes, which does
not pass flits that a link on its way is sending again (which links those are is log entry 67). `FLIT_RECEIVE`, `REPLAY_TIMEOUT`, `LINK_RETRAIN` and `REQUEST_RESEND`
complete in every state, with any operands. -/
def Obligations.LinkEvents : Prop :=
  (∀ (s : State) (link : Nat) (hdr ack : BitVec 16) (payload : BitVec 1984) (crc : BitVec 32), let x := s.link link
    let works := (link < 32 ∨ (64 ≤ link ∧ link < 76)) ∧ x.width ≠ 0
    (¬ works → exec (.flitReceive link hdr ack payload crc) s = .next s) ∧
    (works → flitGood hdr ack payload crc = false →
      exec (.flitReceive link hdr ack payload crc) s = .next (s.setLink link x.discard)) ∧
    (works → flitGood hdr ack payload crc = true →
      let u := s.setLink link (x.receive hdr ack payload s.time)
      (64 ≤ link → exec (.flitReceive link hdr ack payload crc) s = .next u) ∧
      (link < 32 → exec (.flitReceive link hdr ack payload crc) s = .next (u.pullFailed (link / 8))))) ∧
  (∀ (x : Link) (hdr ack : BitVec 16) (payload : BitVec 1984) (now : Nat),
    let y := x.acknowledge (ack.setWidth 10) now
    x.receive hdr ack payload now = (if ack.getLsbD 10 then y.resend now else y).accept hdr payload) ∧
  (∀ (x : Link) (hdr : BitVec 16) (payload : BitVec 1984), let y := x.accept hdr payload
    (hdr.getLsbD 10 = true → y = x) ∧
    (hdr.getLsbD 10 = false → hdr.setWidth 10 = x.expected → y.inbox = x.inbox ++ [payload] ∧ y.expected = x.expected + 1 ∧
      y.lastAck = x.expected ∧ y.nakDue = false) ∧
    (hdr.getLsbD 10 = false → hdr.setWidth 10 ≠ x.expected → y = x.discard)) ∧
  (∀ (x : Link), (x.nakDue = true → x.discard = x) ∧
    (x.nakDue = false → x.discard = { x with nakDue := true, wire := x.wire ++ [x.form true 0 0 true] })) ∧
  (∀ (x : Link) (f : Flit) (pre post : List Flit) (now : Nat), x.replay = pre ++ f :: post → (∀ g ∈ pre, g.seq ≠ f.seq) →
    (x.acknowledge f.seq now).replay = post.map (fun g => { g with resent := 0 }) ∧ (x.acknowledge f.seq now).progressAt = now) ∧
  (∀ (x : Link) (now : Nat), let y := x.resend now
    y.wire = x.wire ++ x.replay.map (fun f => x.form false f.seq f.payload false) ∧
    y.replay = x.replay.map (fun f => { f with resent := f.resent + 1 }) ∧ y.progressAt = now ∧ y.expected = x.expected) ∧
  (∀ (x : Link) (idle nak : Bool) (seq : BitVec 10) (payload : BitVec 1984), let f := x.form idle seq payload nak
    f.hdr.setWidth 10 = seq ∧ f.hdr.getLsbD 10 = idle ∧ f.ack.setWidth 10 = x.lastAck ∧ f.ack.getLsbD 10 = nak ∧
    f.payload = payload ∧ (idle = false ∨ payload = 0 → flitGood f.hdr f.ack f.payload f.crc = true)) ∧
  (∀ (s : State) (link : Nat), let x := s.link link
    let due := (link < 32 ∨ (64 ≤ link ∧ link < 76)) ∧ x.width ≠ 0 ∧ x.replay ≠ [] ∧
      x.progressAt + (if x.port then 20000 else 1000) ≤ s.time
    (due → exec (.replayTimeout link) s = .next (s.setLink link (x.resend s.time))) ∧
    (¬ due → exec (.replayTimeout link) s = .next s)) ∧
  (∀ (s : State) (link : Nat) (lo hi : Bool), let x := s.link link
    let stuck := (link < 32 ∨ (64 ≤ link ∧ link < 76)) ∧ x.width ≠ 0 ∧ ∃ f ∈ x.replay, 16 ≤ f.resent
    let full := if x.port then 8 else 64
    let y : Link := { x with replay := x.replay.map fun f => { f with resent := 0 } }
    (¬ stuck → exec (.linkRetrain link lo hi) s = .next s) ∧
    (stuck → (lo = true → hi = true → exec (.linkRetrain link lo hi) s = .next (s.retrained link y full)) ∧
      (lo ≠ hi → exec (.linkRetrain link lo hi) s = .next (s.retrained link y (full / 2))) ∧
      (lo = false → hi = false → 64 ≤ link →
        exec (.linkRetrain link lo hi) s = .next ((s.setLink link { y with width := 0 }).setPort (link - 64) false false)) ∧
      (lo = false → hi = false → link < 32 → exec (.linkRetrain link lo hi) s = .next (s.failModule link y)))) ∧
  (∀ (s : State) (link width : Nat) (x : Link), let y := (s.retrained link x width).link link
    y.width = width ∧ y.replay = x.replay ∧ y.expected = x.expected ∧ y.nextSeq = x.nextSeq ∧
    y.wire = x.wire ++ x.replay.map (fun f => x.form false f.seq f.payload false)) ∧
  (∀ (s : State) (port num : Nat),
    (s.outs.find? (2 ^ 16 * port + num) = none → exec (.requestResend port num) s = .next s) ∧
    ∀ (o : Outstanding), s.outs.find? (2 ^ 16 * port + num) = some o →
    (o.reply.isSome = true ∨ s.time < o.sentAt + 100000 → exec (.requestResend port num) s = .next s) ∧
    (o.reply = none → o.sentAt + 100000 ≤ s.time → let r := s.farServe port num o
      let held := ∃ l ∈ linksTo port o.far, ∃ f ∈ (s.link l).replay, 0 < f.resent
      (held → exec (.requestResend port num) s =
        .next { r.1 with outs := r.1.outs.insert (2 ^ 16 * port + num) { o with sentAt := s.time } }) ∧
      (¬ held → exec (.requestResend port num) s = .next { r.1 with
        outs := if o.poster = none then r.1.outs.insert (2 ^ 16 * port + num) { o with reply := some r.2, sentAt := s.time }
          else r.1.outs.erase (2 ^ 16 * port + num) })) ∧
    (o.poster = none ∨ (∃ l ∈ linksTo port o.far, ∃ f ∈ (s.link l).replay, 0 < f.resent) → s.acknowledge port num = s) ∧
    (o.poster.isSome = true → (∀ l ∈ linksTo port o.far, ∀ f ∈ (s.link l).replay, f.resent = 0) →
      s.acknowledge port num = { s with outs := s.outs.erase (2 ^ 16 * port + num) })) ∧
  (∀ (s : State) (port num : Nat) (o : Outstanding) (v : W64 × Bool),
    (((s.windows.find? (2 ^ 20 * o.far + port)).getD []).find? fun e => e.1 == num) = some (num, v) →
    s.farServe port num o = (s, v)) ∧
  (∀ (s : State) (port num : Nat) (o : Outstanding), let r := s.farServe port num o
    r.1.farServe port num o = r) ∧
  (∀ (s : State) (link port num : Nat) (hdr ack : BitVec 16) (payload : BitVec 1984) (crc : BitVec 32) (lo hi : Bool),
    (∃ t, exec (.flitReceive link hdr ack payload crc) s = .next t) ∧ (∃ t, exec (.replayTimeout link) s = .next t) ∧
    (∃ t, exec (.linkRetrain link lo hi) s = .next t) ∧ ∃ t, exec (.requestResend port num) s = .next t)

/-- R364 to R367, R369 to R371: an incoming peer access is performed where its port is up and its entry of the export table
covers and permits it, once for its identifier and once the host holds its line no more, and is counted as refused elsewhere; ports train; a snoop of a host line
cleans or invalidates its copies in the slices; a host access to HBM recalls its lines, which the host may hold, DIRTY after a write, until
it has answered a back-invalidation (log entry 40). A host access outside HBM stops the model. R372: a soft error is counted as
corrected or not (what a place that only parity guards counts is log entry 63); what is not corrected poisons its sector. The
host and the peers are data that the events name (log entry 43). -/
def Obligations.HostAndPeerEvents : Prop :=
  (∀ (s : State) (port num kind size : Nat) (place : WindowOffset) (v c : W64),
    let o := s.exportAddr port place.owner place.offset kind size
    let answer := fun (u : State) (r : W64 × Bool) =>
      { u with replies := u.replies ++ [⟨place.offset, size, kind == 1, r.1, none, r.2⟩] }
    (o = none → exec (.peerAccess port num place kind size ⟨v, c⟩) s = .next (answer s.countRefusal (0, kind != 1))) ∧
    (∀ pa, o = some pa → let w := (s.windows.find? (s.peerKey port)).getD []
      (∀ r, w.find? (fun e => e.1 == num) = some (num, r) → exec (.peerAccess port num place kind size ⟨v, c⟩) s = .next (answer s r)) ∧
      (∀ s1, w.find? (fun e => e.1 == num) = none → s.snoopHost [pa / 128] = some s1 →
        exec (.peerAccess port num place kind size ⟨v, c⟩) s = .next s1) ∧
      (w.find? (fun e => e.1 == num) = none → s.snoopHost [pa / 128] = none → let q := s.peerPerform pa kind size v c
        exec (.peerAccess port num place kind size ⟨v, c⟩) s = .next
          (answer { q.1 with windows := q.1.windows.insert (s.peerKey port) (((num, q.2) :: w).take 512) } q.2)))) ∧
  (∀ (s : State) (pa kind size : Nat) (v c : W64), let q := s.peerPerform pa kind size v c
    (kind = 0 → q = (s, BitVec.ofNat 64 (s.homeValue pa size), s.badAt pa)) ∧
    (kind = 1 → q.2 = (0, false) ∧ (∀ i, i < size → q.1.homeByte (pa + i) = BitVec.ofNat 8 (v.toNat / 256 ^ i)) ∧
      ∀ a, a < pa ∨ pa + size ≤ a → q.1.homeByte a = s.homeByte a) ∧
    (2 ≤ kind → let r := s.homeAtomic 1023 pa size (kind - 2) v.toNat c.toNat
      q = (r.1, BitVec.ofNat 64 r.2, s.badAt pa))) ∧
  (∀ (s : State) (port part offset kind n : Nat), let e := s.homeBytes (s.root.pexptab.toNat + 16 * part) 16
    let base := e % 2 ^ 64
    s.exportAddr port part offset kind n = some (base + offset) ↔
      port < 12 ∧ s.root.plUp.getLsbD port = true ∧ part < 48 ∧ offset + n ≤ e / 2 ^ 64 % 2 ^ 32 * 2 ^ 21 ∧
        regionOf (base + offset) = .hbm ∧ (kind = 0 ∨ (kind = 1 ∧ e.testBit 96 = true) ∨ (2 ≤ kind ∧ e.testBit 97 = true))) ∧
  (∀ (s : State) (port : Nat) (up narrow : Bool) (peer : BitVec 16), (12 ≤ port →
      exec (.packagePortTraining port up narrow peer) s = .next s) ∧
    (port < 12 → ∃ t, exec (.packagePortTraining port up narrow peer) s = .next t ∧ t.root.plUp.getLsbD port = up ∧
      t.root.plNarrow.getLsbD port = (up && narrow) ∧ (up = true → t.root.peerId.find? port = some peer) ∧
      ∀ q, q < 12 → q ≠ port → t.root.plUp.getLsbD q = s.root.plUp.getLsbD q)) ∧
  (∀ (s : State) (port rate width : Nat), let ok := port < 2 ∧ (rate = 128 ∨ rate = 64 ∨ rate = 32) ∧ (width = 16 ∨ width = 8)
    (ok → exec (.cxlPortTraining port rate width) s =
      .next { s with root := { s.root with cxl := s.root.cxl.insert port (rate, width) } }) ∧
    (¬ ok → exec (.cxlPortTraining port rate width) s = .next s)) ∧
  (∀ (s : State) (line : Nat) (inval : Bool),
    (regionOf (128 * line) ≠ .host → exec (.hostSnoop line inval) s = .next s) ∧
    (regionOf (128 * line) = .host → ∃ t, exec (.hostSnoop line inval) s = .next t ∧ t.mem = s.mem ∧
      (inval = true → ∀ k, k % 2 ^ 46 / 2 = line → t.l2.find? k = none) ∧
      (inval = false → ∀ k x, k % 2 ^ 46 / 2 = line → s.l2.find? k = some x → t.l2.find? k = some { x with dirty := false }))) ∧
  (∀ (s : State) (addr size : Nat) (write : Bool) (v : W64),
    (2 ^ 40 < addr + size → exec (.hostMemAccess addr size write v) s = .fault (.noSuchMemory addr)) ∧
    (addr + size ≤ 2 ^ 40 → ∃ t, exec (.hostMemAccess addr size write v) s = .next t ∧
      (∀ l, addr / 128 ≤ l → l ≤ (addr + size - 1) / 128 →
        t.hostHeld.find? l = some (write || s.hostHeld.get false l) ∧ t.l2.find? (2 * l) = none ∧ t.l2.find? (2 * l + 1) = none) ∧
      (write = false → t.mem = s.mem ∧
        t.replies = s.replies ++ [⟨addr, size, false, BitVec.ofNat 64 (s.homeBytes addr size), none, s.poisonedBytes addr size⟩]) ∧
      (write = true → (∀ i, i < size → t.homeByte (addr + i) = BitVec.ofNat 8 (v.toNat / 256 ^ i)) ∧
        ∀ a, a < addr ∨ addr + size ≤ a → t.homeByte a = s.homeByte a))) ∧
  (∀ (s : State) (line : Nat), exec (.backInvalidationResponse line) s =
    .next { s with biWait := s.biWait.erase line, hostHeld := s.hostHeld.erase line }) ∧
  (∀ (s : State) (part : Nat) (place : ErrorPlace) (p : Part), s.parts.find? part = some p →
    let q := fun (c : Bool) => (s.softError part place c).part part
    let up := fun (x : W32) => if x = BitVec.allOnes 32 then x else x + 1
    ((q true).corr = up p.corr ∧ (q true).uncorr = p.uncorr) ∧
    (place.parity = false → (q false).corr = p.corr ∧ (q false).uncorr = up p.uncorr) ∧
    (place.parity = true → (q false).corr = up p.corr ∧ (q false).uncorr = p.uncorr)) ∧
  (∀ (s : State) (part pa : Nat), (s.softError part (.memory pa) false).badAt pa = true ∧
    (s.softError part (.memory pa) true).memPoison = s.memPoison)

/-- R381 to R384: a change of point completes, POINT is in force (in reduced service 4; 0 only while at most eight dies are
powered or come back, R380; no thermal limit is lifted by it) and issue resumes; a die whose GATE bit is set powers off once it is
empty and comes back once it is clear, at point 0 no ninth one; a write of POINT 0 that would leave or bring back a ninth die sets 1;
above 100 degrees CURPOINT steps down each 1,000,000 ns until below 95, then returns step by step, and from 115 on every partition
halts and the host is told. No word issues while a change of point
has stopped issue. R383, R385: on power-up the monitor runs only when its image verifies; the dies train in their order, a
failed one is disabled, and reduced service ends with the last. A management message of the vendor type reads
`sr.PWRSTAT`, `sr.BOOTSTAT` and the digest, and it and a write of its BAR0 offset write `sr.PWRCTL`; every other message changes
nothing; a lone write in the hail window counts as an error. A die is DRAINING while its bit is set and it holds work; no change
of point begins in reduced service. That POINT 6 and 7 write nothing and that no change of point begins in reduced service is
log entry 31. R368: the host reads `sr.PWRCTL`, `sr.PWRSTAT` and `sr.BOOTSTAT` in BAR0. The register numbers of a message and
the offsets in BAR0 are the model's (log entry 57). -/
def Obligations.PowerAndBootEvents : Prop :=
  ((∀ (s : State), (s.root.pauseAt = none → exec .pointChangeDone s = .next s) ∧
    (s.root.pauseAt.isSome = true → ∃ t, exec .pointChangeDone s = .next t ∧ t.root.pauseAt = none ∧
      (let cur := s.root.pwrstat.toNat % 8
        let want := if s.root.bootstat.getLsbD 20 then 4 else s.root.pwrctl.toNat % 8
        let may := want ≠ 0 ∨ s.root.powered ≤ 8
        let go := may ∧ (s.root.thermAt = none ∨ cur < want)
        (go → t.root.pwrstat.toNat % 8 = want) ∧ (¬ go → t.root.pwrstat.toNat % 8 = cur)) ∧ t.mem = s.mem)) ∧
  (∀ (s : State) (die : Nat), die < 16 →
    let off := s.gateBit die = true ∧ s.root.pwrstat.getLsbD (8 + die) = false ∧ s.dieEmpty die = true
    (¬ off → exec (.diePowerOff die) s = .next s) ∧
    (off → ∃ t, exec (.diePowerOff die) s = .next t ∧ t.root.pwrstat.getLsbD (8 + die) = true ∧
      t.pwrstat.getLsbD (24 + die) = false ∧ ∀ c, c / 16 = die → (t.accs.find? c).isSome = false ∧ t.sectorsOf c = [])) ∧
  (∀ (s : State) (die : Nat), die < 16 →
    let on := s.gateBit die = false ∧ s.root.pwrstat.getLsbD (8 + die) = true ∧ s.root.pauseAt = none ∧
      (s.root.pwrstat.toNat % 8 ≠ 0 ∨ s.root.powered ≤ 8)
    (¬ on → exec (.ungateDone die) s = .next s) ∧
    (on → ∃ t, exec (.ungateDone die) s = .next t ∧ t.root.pwrstat.getLsbD (8 + die) = false)) ∧
  (∀ (s : State) (tj : BitVec 8), ∃ t, exec (.thermalStep tj) s = .next t ∧ t.root.pwrstat.extractLsb' 40 8 = tj ∧
    (s.root.thermAt = none → 100 < tj.toNat → t.root.thermAt = some s.time ∧
      t.root.pwrstat.toNat % 8 = min 5 (s.root.pwrstat.toNat % 8 + 1)) ∧
    (∀ a, s.root.thermAt = some a → s.time < a + 1000000 → t.root.pwrstat.toNat % 8 = s.root.pwrstat.toNat % 8) ∧
    (s.root.thermAt = none → tj.toNat ≤ 100 → s.root.cooling = false →
      t.root.pwrstat.toNat % 8 = s.root.pwrstat.toNat % 8) ∧
    (∀ a, s.root.thermAt = some a → a + 1000000 ≤ s.time →
      let cur := s.root.pwrstat.toNat % 8
      let want := if s.root.bootstat.getLsbD 20 then 4 else s.root.pwrctl.toNat % 8
      let hot := 100 < tj.toNat ∨ (s.root.cooling = true ∧ 95 ≤ tj.toNat)
      (hot → t.root.pwrstat.toNat % 8 = min 5 (cur + 1)) ∧
      (¬ hot → want < cur → (1 < cur ∨ s.root.powered ≤ 8) →
        t.root.pwrstat.toNat % 8 = cur - 1)) ∧
    (115 ≤ tj.toNat → (∀ k p, k < 48 → s.parts.find? k = some p → (t.part k).halted = true) ∧ t.root.reports = s.root.reports ++ [.thermalTrip tj]) ∧
    (tj.toNat < 115 → t.root.reports = s.root.reports ∧ t.parts = s.parts)) ∧
  (∀ (r : Root), r.powered = ((List.range 16).filter fun d =>
    !(r.pwrstat.getLsbD (8 + d) && r.pwrctl.getLsbD (8 + d)) && !r.cdBad.getLsbD d).length) ∧
  (∀ (s t : State) (v : W64), s.writePwrctl v = some t → v.toNat % 8 = 0 →
    let n := fun (f : Nat → Bool) => ((List.range 16).filter fun d => !f d && !s.root.cdBad.getLsbD d).length
    let ninth := 8 < n (fun d => v.getLsbD (8 + d)) ∨
      (s.root.pwrstat.toNat % 8 = 0 ∧ 8 < n fun d => s.root.pwrstat.getLsbD (8 + d) && v.getLsbD (8 + d))
    t.root.pwrctl.toNat % 8 = if ninth then 1 else 0) ∧
  (∀ (s : State) (t : ThreadId), s.root.pauseAt.isSome = true → s.runnable t = false) ∧
  (∀ (s : State) (v : W64), s.writePwrctl v = none ↔ 6 ≤ v.toNat % 8)) ∧
  ((∀ (s : State) (digest : BitVec 384) (ok : Bool),
    let first := s.root.bootstat = 0x100000 ∧ s.root.th.mode = .idle
    (¬ first → exec (.powerUp digest ok) s = .next s) ∧
    (first → ∃ t, exec (.powerUp digest ok) s = .next t ∧ t.root.digest = digest ∧
      (ok = true → t.root.bootstat = 0x300000 ∧ t.root.th = { mode := .run }) ∧
      (ok = false → t.root.bootstat = 0x100000 ∧ t.root.th = s.root.th))) ∧
  (∀ (s : State) (base : Bool) (die : Nat) (ok : Bool),
    let turn := s.root.bootstat.getLsbD 21 = true ∧ s.root.nextDie = some (base, die)
    (¬ turn → exec (.dieTrained base die ok) s = .next s) ∧
    (turn → ∃ t, exec (.dieTrained base die ok) s = .next t ∧ t.root.dieTried (base, die) = true ∧
      (ok = false → t.root.reports = s.root.reports ++ [.dieDisabled base die]) ∧
      (ok = true → t.root.reports = s.root.reports) ∧
      (t.root.bootstat.getLsbD 20 = true → s.root.bootstat.getLsbD 20 = true ∧ t.root.nextDie.isSome = true))) ∧
  (∀ (r : Root) (d : Nat), d < 16 → r.nextDie = some (false, d) →
    r.dieTried (true, d / 4) = true ∧ ∀ e, e < d → r.dieTried (false, e) = true) ∧
  (∀ (s : State) (kind : Nat) (v : W64),
    let tells := fun (x : W64) => { s with replies := s.replies ++ [⟨8 * v.toNat, 8, false, x, none, false⟩] }
    (kind = 3 → exec (.mctpMessage kind v) s = .next ((s.writePwrctl v).getD s)) ∧
    (kind = 2 → v = 0x821 → exec (.mctpMessage kind v) s = .next (tells s.pwrstat)) ∧
    (kind = 2 → v = 0x822 → exec (.mctpMessage kind v) s = .next (tells s.root.bootstat)) ∧
    (∀ i, i < 6 → kind = 2 → v = BitVec.ofNat 64 (0x823 + i) →
      exec (.mctpMessage kind v) s = .next (tells (s.root.digest.extractLsb' (64 * i) 64))) ∧
    (kind ≠ 2 ∧ kind ≠ 3 ∨ (kind = 2 ∧ (v.toNat < 0x821 ∨ 0x829 ≤ v.toNat)) → exec (.mctpMessage kind v) s = .next s)) ∧
  (∀ (s : State) (place : WindowOffset) (v : W64), let window := 0xF000 ≤ place.offset ∧ place.offset < 0x10000
    (64 < place.owner → exec (.bar0RegisterWrite place v) s = .next s) ∧
    (place.owner ≤ 64 → window → exec (.bar0RegisterWrite place v) s =
      .next (match s.homeOfFunc place.owner with | some p => s.countLerr (realPart p) | none => s)) ∧
    (place.owner ≤ 64 → ¬ window → exec (.bar0RegisterWrite place v) s =
      .next (if place.offset = 8 * 0x820 then (s.writePwrctl v).getD s else s)))) ∧
  (∀ (s : State) (func offset : Nat) (v : W64), func ≤ 64 →
    (offset = 8 * 0x820 ∧ v = s.root.pwrctl) ∨ (offset = 8 * 0x821 ∧ v = s.pwrstat) ∨ (offset = 8 * 0x822 ∧ v = s.root.bootstat) →
    s.barRead func offset = { s with replies := s.replies ++ [⟨offset, 8, false, v, none, false⟩] }) ∧
  (∀ (s : State) (d : Nat), d < 16 →
    (s.pwrstat.getLsbD (24 + d) = true ↔ s.gateBit d = true ∧ s.root.pwrstat.getLsbD (8 + d) = false ∧ s.dieEmpty d = false) ∧
    s.pwrstat.getLsbD (8 + d) = s.root.pwrstat.getLsbD (8 + d)) ∧
  (∀ (s : State) (v : W64) (t : State), s.root.bootstat.getLsbD 20 = true → s.writePwrctl v = some t →
    t.root.pauseAt = none ∧ t.root.pwrstat.extractLsb' 0 3 = s.root.pwrstat.extractLsb' 0 3)

/-! ### Frames, reset and invariants -/

/-- R7, R11, R70, R71: what a register word of the uniform set leaves unchanged when it completes (a floating-point word where
no exception is enabled): every register but `w[D]`, every predicate but `k[D]` of a compare, `sr.FPCTL`, the flags but those
the word raises, every other thread, and all of memory and the rest of the device. R7, R129, R146: what an integer or field
word of the lane set leaves unchanged when it completes: every element of every `v` register but those of `v[D]` in the active
lanes, every predicate, the group's uniform registers but for the flag SAT of a saturating form, the lanes' masks and stacks,
every other group, and all of memory and the rest of the device. R130, R140: a shuffle leaves its destination empty and
changes nothing else of them before its completion. R129, R130, R146: a lane word's results go to `v[d]` of the
active lanes of the gang alone: every other element, every predicate, every uniform register and all of memory, scratchpad
space and the other groups stay. R136 to R139: a floating-point word of the lane set, where no exception is enabled, leaves what an
integer word leaves, raises flags and clears none, and steps no generator but those of its active lanes, in a stochastic
conversion. R132, R136: a compare changes its predicate register in the active lanes and, a floating-point one, flags. R142 to R145:
a word of votes, folds, scans or exchanges leaves its destination empty, raises flags (a fold or scan) and changes nothing else of
them before its completion. -/
def Obligations.RegisterWordFrames : Prop :=
  (∀ (s t : State) (i : Instr) (w : Option Nat) (k : Option Nat) (flags : Bool),
    (match i with
      | .umul _ d _ _ _ _ | .umulh _ d _ _ _ _ _ | .udiv _ d _ _ _ _ _ | .urem _ d _ _ _ _ _ | .uand _ d _ _ _
      | .uor _ d _ _ _ | .uxor _ d _ _ _ | .ushl _ d _ _ _ _ | .ushr _ d _ _ _ _ _ | .umin _ d _ _ _ _
      | .umax _ d _ _ _ _ | .usel _ d _ _ _ _ | .uun _ d _ _ _ | .uaddi _ d _ _ | .uandi _ d _ _ | .uori _ d _ _
      | .uxori _ d _ _ | .ushli _ d _ _ | .ushri _ d _ _ _ | .umovi _ d _ => w = some d.toNat ∧ k = none ∧ flags = false
      | .ucmp _ c _ _ _ _ | .ucmpi _ c _ _ _ => w = none ∧ k = some c.toNat ∧ flags = false
      | .uadd _ d _ _ _ _ _ | .usub _ d _ _ _ _ _ => w = some d.toNat ∧ k = none ∧ flags = true
      | .ufadd _ d _ _ _ _ _ | .ufsub _ d _ _ _ _ _ | .ufmul _ d _ _ _ _ _ | .uffma _ d _ _ _ _ _ | .ufdiv _ d _ _ _ _ _
      | .ufun _ d _ _ _ _ | .ufcvt _ d _ _ _ =>
        w = some d.toNat ∧ k = none ∧ flags = true ∧ (s.uni s.cur).fpctl.extractLsb' 4 5 = 0
      | .ufcmp _ c _ _ _ _ _ => w = none ∧ k = some c.toNat ∧ flags = true ∧ (s.uni s.cur).fpctl.extractLsb' 4 5 = 0
      | _ => False) →
    s.begins i = true → exec i s = .next t →
      (∀ r, r < 64 → w ≠ some r → (t.uni s.cur).getW r = (s.uni s.cur).getW r ∧
        (t.uni s.cur).empty.getLsbD r = (s.uni s.cur).empty.getLsbD r ∧
        (t.uni s.cur).poison.getLsbD r = (s.uni s.cur).poison.getLsbD r) ∧
      (∀ c, c < 8 → k ≠ some c → (t.uni s.cur).getK c = (s.uni s.cur).getK c) ∧
      (t.uni s.cur).fpctl = (s.uni s.cur).fpctl ∧
      (flags = false → (t.uni s.cur).fpstat = (s.uni s.cur).fpstat) ∧
      (t.uni s.cur).fpstat &&& (s.uni s.cur).fpstat = (s.uni s.cur).fpstat ∧
      t.mem = s.mem ∧ t.l1 = s.l1 ∧ s.sameBut t ∧
      (∀ g n, s.cur = .gang g n → t = { s with groups := t.groups, pfx := none } ∧ (∀ h, h ≠ g → t.group h = s.group h) ∧
        t.group g = { s.group g with uni := (t.group g).uni, slices := (t.group g).slices, barHold := none, xbarHold := false } ∧
        (t.group g).slices.map (fun x => (x.act, x.live, x.gang, x.stack, x.jp)) =
          (s.group g).slices.map fun x => (x.act, x.live, x.gang, x.stack, x.jp)) ∧
      (∀ c, s.cur = .spine c → t = { s with spines := t.spines, pfx := none } ∧
        ∀ h, h ≠ c → t.spines.find? h = s.spines.find? h) ∧
      (∀ p, s.cur = .service p → t = { s with parts := t.parts, pfx := none } ∧
        (∀ q, q ≠ p → t.parts.find? q = s.parts.find? q) ∧ t.part p = { s.part p with svc := (t.part p).svc }) ∧
      (s.cur = .monitor → t = { s with root := { s.root with th := t.root.th }, pfx := none })) ∧
  (∀ (s t : State) (i : Instr) (g k d : Nat) (flags : Bool), s.cur = .gang g k →
    (match i with
      | .mul _ x _ _ _ | .mulhi _ x _ _ _ _ | .imad _ x _ _ _ | .and _ x _ _ _ | .or _ x _ _ _ | .xor _ x _ _ _
      | .shl _ x _ _ _ | .shr _ x _ _ _ _ | .min _ x _ _ _ _ | .max _ x _ _ _ _ | .sel _ x _ _ _ | .bfx _ x _ _ _
      | .bfi _ x _ _ _ | .addi _ x _ _ | .andi _ x _ _ | .ori _ x _ _ | .xori _ x _ _ | .shli _ x _ _ | .shri _ x _ _ _
      | .movi _ x _ => d = x.toNat ∧ flags = false
      | .add _ x _ _ _ _ | .sub _ x _ _ _ _ | .iun _ x _ _ _ => d = x.toNat ∧ flags = true
      | _ => False) →
    s.begins i = true → exec i s = .next t →
      t = { s with groups := t.groups, pfx := none } ∧ (∀ h, h ≠ g → t.group h = s.group h) ∧
      t.group g = { s.group g with
        v := (t.group g).v, uni := (t.group g).uni, slices := (t.group g).slices, barHold := none, xbarHold := false
        vOld := (t.group g).vOld, vEmpty := (t.group g).vEmpty, vPoison := (t.group g).vPoison } ∧
      (∀ r l, l < 32 → r ≠ d ∨ l ∉ (s.group g).lanes k → (t.group g).getV r l = (s.group g).getV r l) ∧
      (t.group g).uni = (if flags then { (s.group g).uni with fpstat := (t.group g).uni.fpstat } else (s.group g).uni) ∧
      (t.group g).uni.fpstat ||| 0x20 = (s.group g).uni.fpstat ||| 0x20 ∧
      (t.group g).slices.map (fun x => (x.act, x.live, x.gang, x.stack, x.jp)) =
        (s.group g).slices.map fun x => (x.act, x.live, x.gang, x.stack, x.jp)) ∧
  (∀ (s t : State) (i : Instr) (g k d : Nat), s.cur = .gang g k →
    (match i with
      | .shflPick _ x _ _ _ | .shflSwap _ x _ _ _ | .shflBack _ x _ _ _ | .shflFwd _ x _ _ _ => d = x.toNat
      | _ => False) →
    s.begins i = true → exec i s = .next t →
      t = { s with groups := t.groups, reqs := t.reqs, nextId := s.nextId + 1, pfx := none } ∧
      (∀ h, h ≠ g → t.group h = s.group h) ∧ (∀ n, n ≠ s.nextId → t.reqs.find? n = s.reqs.find? n) ∧
      t.group g = { s.group g with
        slices := (t.group g).slices, barHold := none, xbarHold := false, vEmpty := setBit (s.group g).vEmpty d true } ∧
      (t.group g).slices.map (fun x => (x.act, x.live, x.gang, x.stack, x.jp)) =
        (s.group g).slices.map fun x => (x.act, x.live, x.gang, x.stack, x.jp)) ∧
  (∀ (s t : State) (i : Instr) (g k d : Nat) (steps : Bool), s.cur = .gang g k →
    (match i with
      | .fadd _ x _ _ _ | .fsub _ x _ _ _ | .fmul _ x _ _ _ | .ffma _ x _ _ _ | .fmin _ x _ _ _ | .fmax _ x _ _ _ | .sfu _ x _ _
      | .hadd2 _ x _ _ _ _ | .hmul2 _ x _ _ _ _ | .hfma2 _ x _ _ _ _ => d = x.toNat ∧ steps = false
      | .cvt _ x _ _ r _ => d = x.toNat ∧ steps = decide (r = 5)
      | _ => False) →
    (s.uni s.cur).fpctl.extractLsb' 4 5 = 0 → s.begins i = true → exec i s = .next t →
      t = { s with groups := t.groups, pfx := none } ∧ (∀ h, h ≠ g → t.group h = s.group h) ∧
      t.group g = { s.group g with
        v := (t.group g).v, uni := (t.group g).uni, slices := (t.group g).slices, barHold := none, xbarHold := false
        gens := (t.group g).gens
        vOld := (t.group g).vOld, vEmpty := (t.group g).vEmpty, vPoison := (t.group g).vPoison } ∧
      (∀ r l, l < 32 → r ≠ d ∨ l ∉ (s.group g).lanes k → (t.group g).getV r l = (s.group g).getV r l) ∧
      (t.group g).uni = { (s.group g).uni with fpstat := (t.group g).uni.fpstat } ∧
      (t.group g).uni.fpstat &&& (s.group g).uni.fpstat = (s.group g).uni.fpstat ∧
      (steps = false → (t.group g).gens = (s.group g).gens) ∧
      (∀ l, l < 32 → l ∉ (s.group g).lanes k → (t.group g).gen l = (s.group g).gen l) ∧
      (t.group g).slices.map (fun x => (x.act, x.live, x.gang, x.stack, x.jp)) =
        (s.group g).slices.map fun x => (x.act, x.live, x.gang, x.stack, x.jp)) ∧
  (∀ (s t : State) (i : Instr) (g k c : Nat) (flags : Bool), s.cur = .gang g k →
    (match i with
      | .icmp _ _ x _ _ _ | .icmpi _ _ x _ _ => c = x.toNat ∧ flags = false
      | .fcmp _ _ x _ _ _ => c = x.toNat ∧ flags = true ∧ (s.uni s.cur).fpctl.extractLsb' 4 5 = 0
      | _ => False) →
    s.begins i = true → exec i s = .next t →
      t = { s with groups := t.groups, pfx := none } ∧ (∀ h, h ≠ g → t.group h = s.group h) ∧
      t.group g = { s.group g with
        p := (t.group g).p, uni := (t.group g).uni, slices := (t.group g).slices, barHold := none, xbarHold := false } ∧
      (∀ q l, q < 8 → l < 32 → q ≠ c ∨ l ∉ (s.group g).lanes k → (t.group g).getP q l = (s.group g).getP q l) ∧
      (t.group g).uni = (if flags then { (s.group g).uni with fpstat := (t.group g).uni.fpstat } else (s.group g).uni) ∧
      (t.group g).uni.fpstat &&& (s.group g).uni.fpstat = (s.group g).uni.fpstat ∧
      (t.group g).slices.map (fun x => (x.act, x.live, x.gang, x.stack, x.jp)) =
        (s.group g).slices.map fun x => (x.act, x.live, x.gang, x.stack, x.jp)) ∧
  (∀ (s t : State) (i : Instr) (g k : Nat) (w : Option Nat) (v : List Nat) (flags : Bool), s.cur = .gang g k →
    (match i with
      | .vote _ x _ _ _ => w = some x.toNat ∧ v = [] ∧ flags = false
      | .redux _ x _ f => w = some x.toNat ∧ v = [] ∧ flags = true ∧ (f.toNat < 8 ∨ (s.uni s.cur).fpctl.extractLsb' 4 5 = 0)
      | .scan _ x _ f _ => w = none ∧ v = [x.toNat] ∧ flags = true ∧ (f.toNat < 8 ∨ (s.uni s.cur).fpctl.extractLsb' 4 5 = 0)
      | .cmpx _ x a _ _ _ => w = none ∧ v = [x.toNat, a.toNat] ∧ flags = false
      | _ => False) →
    s.begins i = true → exec i s = .next t →
      t = { s with groups := t.groups, reqs := t.reqs, nextId := s.nextId + 1, pfx := none } ∧
      (∀ h, h ≠ g → t.group h = s.group h) ∧ (∀ n, n ≠ s.nextId → t.reqs.find? n = s.reqs.find? n) ∧
      t.group g = { s.group g with
        slices := (t.group g).slices, uni := (t.group g).uni, barHold := none, xbarHold := false
        vEmpty := v.foldl (fun m r => setBit m r true) (s.group g).vEmpty } ∧
      (t.group g).uni = { (s.group g).uni with fpstat := (t.group g).uni.fpstat, empty := (t.group g).uni.empty } ∧
      (∀ r, r < 64 → (t.group g).uni.empty.getLsbD r = ((s.group g).uni.empty.getLsbD r || (w == some r && r != 0))) ∧
      (flags = false → (t.group g).uni.fpstat = (s.group g).uni.fpstat) ∧
      (t.group g).uni.fpstat &&& (s.group g).uni.fpstat = (s.group g).uni.fpstat ∧
      (t.group g).slices.map (fun x => (x.act, x.live, x.gang, x.stack, x.jp)) =
        (s.group g).slices.map fun x => (x.act, x.live, x.gang, x.stack, x.jp)) ∧
  (∀ (s : State) (g k d : Nat) (f : Nat → W32) (r l : Nat), l < 32 →
    let t := s.mapLanes (.gang g k) d f
    (t.group g).getV r l = (if r = d ∧ l ∈ (s.group g).lanes k then f l else (s.group g).getV r l) ∧
    (t.group g).p = (s.group g).p ∧ (t.group g).uni = (s.group g).uni ∧ (t.group g).slices = (s.group g).slices ∧
    (t.group g).gens = (s.group g).gens ∧ (∀ h, h ≠ g → t.group h = s.group h) ∧ t = { s with groups := t.groups })

/-- R8, R84, R184: what a store word leaves unchanged when it completes on SHARED or PRIVATE pages of HBM whose lines find room
in the L1: a store of a spine
or service thread changes the bytes it stores, as its own coherence point gives them, and no other byte there, at home, or at
any other point, and no register; a lane store changes none but the bytes its active lanes store. R174 to R177, R199, R202, R224: a store
word of any type, ordering and space whose checks pass changes no register of any thread, no presence, predicate or mode (only the note
that a store was lost), and nothing of grids, teams, contexts or queues; a plain one to a device, a peer or the host
by STRICT or PEER changes no byte but those it stores, and no cache; a plain STREAM store changes no other byte as STREAM
loads read it, and no L1; a SHARED or PRIVATE one, plain or a release, leaves every other byte of the partition as its own
coherence point gives it, where the STREAM buffer does not hold the line. R223: `sts` changes the bytes of its team's scratchpad space that its lanes store, and
no other byte of it, no other team, no register and no memory. R230: `xst` sends packets, or notes in `sr.XSTAT` that they were
lost, and changes nothing else. -/
def Obligations.StoreFrames : Prop :=
  (∀ (s s1 : State) (t : Bool) (d a : BitVec 6) (o : BitVec 8) (z : BitVec 2) (p : Phys), (∀ g k, s.cur ≠ .gang g k) →
    let u := s.unheld
    let n := 2 ^ z.toNat
    let x := s.getW s.cur a.toNat + s.wideImm o * BitVec.ofNat 64 n
    let cpt := s.cptOf s.cur
    s.begins (.ust t d a o z 0) = true → x.toNat < 2 ^ 48 → x.toNat % n = 0 → u.watched s.cur false false true x.toNat n = none →
    u.translate (u.spaceOf s.cur) x.toNat .store (levelOf s.cur == 0) = (s1, .ok p) →
    (p.ty = .shared ∨ p.ty = .priv) → p.pa % n = 0 → regionOf p.pa = .hbm → s1.owns (s1.partOfCpt cpt) p.pa = true →
    s1.makeRoom cpt p.pa = s1 →
    ∃ v, exec (.ust t d a o z 0) s = .next v ∧
      (∀ b, b < 2 ^ 52 → v.byteAt cpt b = if p.pa ≤ b ∧ b < p.pa + n
        then BitVec.ofNat 8 ((s.getW s.cur d.toNat).toNat / 2 ^ (8 * (b - p.pa))) else s1.byteAt cpt b) ∧
      (∀ c b, c ≠ cpt → b < 2 ^ 52 → v.byteAt c b = s1.byteAt c b) ∧ v.mem = s1.mem ∧ v.peerMem = s1.peerMem ∧
      (∀ th, v.uni th = s1.uni th) ∧ v.groups = s1.groups) ∧
  (∀ (s s1 : State) (t : Bool) (d a : BitVec 7) (w : BitVec 6) (z : BitVec 2) (ps : List (Nat × W64 × Phys)) (g k : Nat),
    s.cur = .gang g k →
    let u := s.unheld
    let n := 2 ^ z.toNat
    let cpt := s1.cptOf s.cur
    s.begins (.st t d a w z 0) = true → u.checkVirtual s.cur .store false true n (u.laneAddrs s.cur w a) = .ok s1 ps →
    s1.blocked s.cur (ps.map fun e => ({ lane := 0, addr := e.2.2.pa, size := n, ty := some e.2.2.ty, va := e.2.1 } : LaneAcc)) = false →
    (∀ e ∈ ps, (e.2.2.ty = .shared ∨ e.2.2.ty = .priv) ∧ e.2.2.pa % n = 0 ∧ regionOf e.2.2.pa = .hbm ∧
      s1.owns (s1.partOfCpt cpt) e.2.2.pa = true) →
    ((s1.sectorsOf cpt).length + ps.length ≤ 16 ∨
      ∀ e ∈ ps, ∃ x ∈ s1.sectorsOf cpt, sectorAddr x.1 / 128 = e.2.2.pa / 128) →
    ∃ v, exec (.st t d a w z 0) s = .next v ∧
      (∀ b, b < 2 ^ 52 → (∀ e ∈ ps, b < e.2.2.pa ∨ e.2.2.pa + n ≤ b) → v.byteAt cpt b = s1.byteAt cpt b) ∧
      (∀ c b, c ≠ cpt → b < 2 ^ 52 → v.byteAt c b = s1.byteAt c b) ∧ v.mem = s1.mem ∧ v.peerMem = s1.peerMem ∧
      (v.group g).v = (s1.group g).v ∧ (v.group g).uni = (s1.group g).uni ∧ (v.group g).p = (s1.group g).p) ∧
  (∀ (s s1 w : State) (i : Instr) (ord n : Nat) (xs : List (W64 × Phys × W64)),
    s.begins i = true → s.storesOf i = some (ord, n, s1, xs) → s1.storeWord s.cur ord n xs = .done w →
    let cpt := s1.cptOf s.cur
    let mine := fun (b : Nat) => s1.owns (s1.partOfCpt cpt) b = true
    let memory := fun (b : Nat) => regionOf b = .hbm ∨ regionOf b = .host
    let apart := fun (b : Nat) => b < 2 ^ 52 ∧ ∀ e ∈ xs, b < e.2.1.pa ∨ e.2.1.pa + n ≤ b
    exec i s = .next (s.after w) ∧
    w = { s1 with
      mem := w.mem, memKey := w.memKey, memPoison := w.memPoison, l2 := w.l2, dirs := w.dirs, hostHeld := w.hostHeld, l1 := w.l1, wc := w.wc
      sigs := w.sigs, accs := w.accs, peerMem := w.peerMem, devLog := w.devLog, gateDue := w.gateDue, reqNos := w.reqNos
      windows := w.windows, outs := w.outs, fresh := w.fresh, root := w.root, groups := w.groups, spines := w.spines, parts := w.parts } ∧
    (∀ g, w.group g = { s1.group g with slices := (w.group g).slices } ∧
      (w.group g).slices.map (fun x => { x with dropped := none, refused := none }) =
        (s1.group g).slices.map fun x => { x with dropped := none, refused := none }) ∧
    (∀ c, let x := (s1.spines.find? c).getD {}
      let y := (w.spines.find? c).getD {}
      y = { x with th := { x.th with dropped := y.th.dropped, refused := y.th.refused } }) ∧
    (∀ p, let x := s1.part p
      let y := w.part p
      y = { x with svc := { x.svc with dropped := y.svc.dropped, refused := y.svc.refused } }) ∧
    w.root = { s1.root with
      drops := w.root.drops, refusals := w.root.refusals
      th := { s1.root.th with dropped := w.root.th.dropped, refused := w.root.th.refused } } ∧
    (ord = 0 → (∀ e ∈ xs, e.2.1.direct = true ∧ (e.2.1.ty = .strict ∨ e.2.1.ty = .peer)) → w.l1 = s1.l1 ∧ w.wc = s1.wc ∧
      ∀ b, apart b → w.homeByte b = s1.homeByte b ∧ memByte w.peerMem b = memByte s1.peerMem b) ∧
    (ord = 0 → (∀ e ∈ xs, e.2.1.ty = .stream ∧ memory e.2.1.pa ∧ e.2.1.pa % n = 0) → w.l1 = s1.l1 ∧ w.peerMem = s1.peerMem ∧
      ∀ b, apart b → memory b → mine b →
        (w.loadBytes cpt ⟨b, .stream⟩ 1).2.1 = (s1.loadBytes cpt ⟨b, .stream⟩ 1).2.1) ∧
    ((∀ e ∈ xs, (e.2.1.ty = .shared ∨ e.2.1.ty = .priv) ∧ memory e.2.1.pa ∧ mine e.2.1.pa ∧ e.2.1.pa % n = 0) →
      ((s1.sectorsOf cpt).length + xs.length ≤ 16 ∨
        ∀ e ∈ xs, ∃ x ∈ s1.sectorsOf cpt, sectorAddr x.1 / 128 = e.2.1.pa / 128) →
      w.peerMem = s1.peerMem ∧
      ∀ b, apart b → memory b → mine b → ord = 0 ∨ s1.wc.find? (wcKey cpt b) = none → w.byteAt cpt b = s1.byteAt cpt b)) ∧
  (∀ (s v : State) (t : Bool) (d a : BitVec 7) (w : BitVec 6) (z : BitVec 2) (g k : Nat), s.cur = .gang g k →
    let u := s.unheld
    let n := 2 ^ z.toNat
    let xs := u.laneAddrs s.cur w a
    let tm := (s.group g).team
    s.begins (.sts t d a w z) = true → u.checkPool s.cur false n xs = none →
    u.blocked s.cur (xs.map fun e => { lane := e.1, addr := e.2.toNat, size := n, ty := none, va := e.2 }) = false →
    exec (.sts t d a w z) s = .next v →
      v = { s with groups := v.groups, teams := v.teams, pfx := none } ∧ (∀ h, h ≠ g → v.group h = s.group h) ∧
      v.group g = { s.group g with slices := (v.group g).slices, barHold := none, xbarHold := false } ∧
      (v.group g).slices.map (fun x => (x.act, x.live, x.gang, x.stack, x.jp)) =
        (s.group g).slices.map (fun x => (x.act, x.live, x.gang, x.stack, x.jp)) ∧
      (∀ h, h ≠ tm → v.team h = s.team h) ∧
      v.team tm = { s.team tm with
        spad := (v.team tm).spad, near := (v.team tm).near, spadPoison := (v.team tm).spadPoison
        unfenced := (v.team tm).unfenced, unasync := (v.team tm).unasync } ∧
      ∀ o, (∀ e ∈ xs, o < e.2.toNat ∨ e.2.toNat + n ≤ o) → v.poolByte tm o = s.poolByte tm o) ∧
  (∀ (s v : State) (t : Bool) (d a : BitVec 7) (w : BitVec 6) (z : BitVec 2) (g k : Nat), s.cur = .gang g k →
    let n := 2 ^ z.toNat
    let gr := s.grid (s.gridOf s.cur)
    let tgt := s.getW s.cur w.toNat
    let off := fun l => (tgt.setWidth 32 + s.unheld.laneReg s.cur a.toNat l : W32).toNat
    let tm := (s.group g).team
    s.begins (.xst t d a w z) = true → tgt.toNat / 2 ^ 32 < gr.count →
    (∀ l, l ∈ s.active s.cur → off l + n ≤ 1024 * gr.desc.exch ∧ off l % n = 0) →
    exec (.xst t d a w z) s = .next v →
      v = { s with groups := v.groups, teams := v.teams, xpkts := v.xpkts, pfx := v.pfx } ∧ (∀ h, h ≠ g → v.group h = s.group h) ∧
      v.group g = { s.group g with slices := (v.group g).slices, barHold := (v.group g).barHold, xbarHold := (v.group g).xbarHold } ∧
      (v.group g).slices.map (fun x => (x.act, x.live, x.gang, x.stack, x.jp)) =
        (s.group g).slices.map (fun x => (x.act, x.live, x.gang, x.stack, x.jp)) ∧
      v.xpkts.take s.xpkts.length = s.xpkts ∧ (∀ h, h ≠ tm → v.team h = s.team h) ∧
      v.team tm = { s.team tm with xstat := (v.team tm).xstat } ∧ (v.team tm).xstat ||| 2 = (s.team tm).xstat ||| 2)

/-- R369, R370, R381, R383: after reset the registers whose reset values the manual gives hold them: `sr.PWRCTL` and
`sr.PWRSTAT` are 4 (point 4), `sr.BOOTSTAT` has REDUCED alone, `sr.PKGID`, `sr.PEXPTAB` and `sr.PLSTAT` are 0; no thread runs
a word and a step leaves the device as it is until its first event. The memory's canonical form holds after reset; that a byte
no write has listed reads 0 (log entry 9), and that no event waits at reset (log entry 1), are the model's. -/
def Obligations.ResetState : Prop :=
  (∀ s : State, s = State.reset → s.root.pwrctl = 4 ∧ s.root.pwrstat = 4 ∧ s.root.bootstat = 0x100000 ∧ s.root.pkgid = 0 ∧ s.root.pexptab = 0 ∧
  s.root.plUp = 0 ∧ s.root.plNarrow = 0 ∧ (∀ t : ThreadId, s.runnable t = false) ∧ step s = .next s) ∧
  (State.reset.memoryOk = true ∧ ∀ a, memByte State.reset.mem a = 0)

/-- Every step keeps the canonical form of memory and of the peers' memory: addresses strictly rise and no listed byte is what
an unlisted address reads as, so that equal memories are equal data. -/
def Obligations.StepKeepsMemory : Prop :=
  ∀ s t : State, s.memoryOk = true → step s = .next t → t.memoryOk = true

end
end

