-- ==== Sys2Proof/Laws/Table.lean ====
section
/-! SUPPORT. Laws of sparse tables: a read after an insert, an erasure or a write with a default, and the canonical form. -/

namespace Sys2Proof.Machine

variable {α : Type}

@[simp] theorem Tbl.find?_nil (k : Nat) : Tbl.find? ([] : Tbl α) k = none := rfl

theorem Tbl.find?_erase (m : Tbl α) (k j : Nat) :
    Tbl.find? (Tbl.erase m k) j = if j = k then none else Tbl.find? m j := by
  induction m with
  | nil => simp [Tbl.erase, Tbl.find?]
  | cons e t ih =>
    obtain ⟨a, x⟩ := e
    by_cases h : a = k <;> by_cases hj : a = j <;> simp_all [Tbl.erase, Tbl.find?]

theorem Tbl.find?_place (m : Tbl α) (k : Nat) (v : α) (j : Nat) (h : Tbl.find? m k = none) :
    Tbl.find? (Tbl.place m k v) j = if j = k then some v else Tbl.find? m j := by
  induction m with
  | nil => by_cases hj : k = j <;> simp [Tbl.place, Tbl.find?, hj, eq_comm]
  | cons e t ih =>
    obtain ⟨a, x⟩ := e
    have hak : a ≠ k := by rintro rfl; simp [Tbl.find?] at h
    have ht : Tbl.find? t k = none := by simpa [Tbl.find?, hak] using h
    by_cases hlt : k < a
    · simp only [Tbl.place, hlt, if_true, Tbl.find?]
      by_cases hj : j = k <;> simp_all [eq_comm]
    · simp only [Tbl.place, hlt, if_false, Tbl.find?]
      by_cases hj : j = k <;> by_cases haj : a = j <;> simp_all

/-- A read after an insert. -/
theorem Tbl.find?_insert (m : Tbl α) (k : Nat) (v : α) (j : Nat) :
    Tbl.find? (Tbl.insert m k v) j = if j = k then some v else Tbl.find? m j := by
  rw [Tbl.insert, Tbl.find?_place _ _ _ _ (by simp [Tbl.find?_erase]), Tbl.find?_erase]
  split <;> rfl

@[simp] theorem Tbl.find?_insert_self (m : Tbl α) (k : Nat) (v : α) : Tbl.find? (Tbl.insert m k v) k = some v := by
  simp [Tbl.find?_insert]

/-- A read after a write with a default. -/
theorem Tbl.get_put [DecidableEq α] (d : α) (m : Tbl α) (k : Nat) (v : α) (j : Nat) :
    Tbl.get d (Tbl.put d m k v) j = if j = k then v else Tbl.get d m j := by
  by_cases hv : v = d <;> by_cases hj : j = k <;> simp [Tbl.put, Tbl.get, Tbl.find?_insert, Tbl.find?_erase, hv, hj]

@[simp] theorem Tbl.get_put_self [DecidableEq α] (d : α) (m : Tbl α) (k : Nat) (v : α) :
    Tbl.get d (Tbl.put d m k v) k = v := by
  simp [Tbl.get_put]

theorem Tbl.get_put_ne [DecidableEq α] (d : α) (m : Tbl α) {k j : Nat} (v : α) (h : j ≠ k) :
    Tbl.get d (Tbl.put d m k v) j = Tbl.get d m j := by
  simp [Tbl.get_put, h]

/-! ### The canonical form -/

/-- Every key of a table is above a bound. -/
def Tbl.above (n : Nat) (m : Tbl α) : Prop := ∀ e ∈ m, n < e.1

theorem Tbl.sorted_cons (a : Nat) (x : α) (t : Tbl α) :
    Tbl.sorted ((a, x) :: t) = true ↔ Tbl.above a t ∧ Tbl.sorted t = true := by
  induction t generalizing a x with
  | nil => simp [Tbl.sorted, Tbl.above]
  | cons e t ih =>
    obtain ⟨b, y⟩ := e
    simp only [Tbl.sorted, Bool.and_eq_true, decide_eq_true_eq]
    constructor
    · rintro ⟨hab, hs⟩
      refine ⟨?_, hs⟩
      intro e he
      rcases List.mem_cons.1 he with rfl | he
      · exact hab
      · exact lt_trans hab (((ih b y).1 hs).1 e he)
    · rintro ⟨ha, hs⟩
      exact ⟨ha (b, y) (by simp), hs⟩

theorem Tbl.mem_erase {m : Tbl α} {k : Nat} {e : Nat × α} (h : e ∈ Tbl.erase m k) : e ∈ m ∧ e.1 ≠ k := by
  induction m with
  | nil => simp [Tbl.erase] at h
  | cons c t ih =>
    obtain ⟨a, x⟩ := c
    by_cases hak : a = k
    · have := ih (by simpa [Tbl.erase, hak] using h)
      exact ⟨List.mem_cons_of_mem _ this.1, this.2⟩
    · rcases List.mem_cons.1 (by simpa [Tbl.erase, hak] using h) with rfl | h'
      · exact ⟨by simp, hak⟩
      · exact ⟨List.mem_cons_of_mem _ (ih h').1, (ih h').2⟩

theorem Tbl.sorted_erase {m : Tbl α} (k : Nat) (h : Tbl.sorted m = true) : Tbl.sorted (Tbl.erase m k) = true := by
  induction m with
  | nil => rfl
  | cons c t ih =>
    obtain ⟨a, x⟩ := c
    obtain ⟨ha, ht⟩ := (Tbl.sorted_cons a x t).1 h
    by_cases hak : a = k
    · simpa [Tbl.erase, hak] using ih ht
    · simp only [Tbl.erase, hak, if_false]
      exact (Tbl.sorted_cons a x _).2 ⟨fun e he => ha e (Tbl.mem_erase he).1, ih ht⟩

theorem Tbl.mem_place {m : Tbl α} {k : Nat} {v : α} {e : Nat × α} (h : e ∈ Tbl.place m k v) : e = (k, v) ∨ e ∈ m := by
  induction m with
  | nil => simpa [Tbl.place] using h
  | cons c t ih =>
    obtain ⟨a, x⟩ := c
    by_cases hka : k < a
    · simpa [Tbl.place, hka] using h
    · rcases List.mem_cons.1 (by simpa [Tbl.place, hka] using h) with rfl | h'
      · simp
      · rcases ih h' with rfl | h'' <;> simp_all

theorem Tbl.sorted_place {m : Tbl α} {k : Nat} (v : α) (hk : ∀ e ∈ m, e.1 ≠ k) (h : Tbl.sorted m = true) :
    Tbl.sorted (Tbl.place m k v) = true := by
  induction m with
  | nil => rfl
  | cons c t ih =>
    obtain ⟨a, x⟩ := c
    obtain ⟨ha, ht⟩ := (Tbl.sorted_cons a x t).1 h
    by_cases hka : k < a
    · simp only [Tbl.place, hka, if_true]
      refine (Tbl.sorted_cons k v _).2 ⟨?_, h⟩
      intro e he
      rcases List.mem_cons.1 he with rfl | he
      · exact hka
      · exact lt_trans hka (ha e he)
    · simp only [Tbl.place, hka, if_false]
      have hne : a ≠ k := hk (a, x) (by simp)
      refine (Tbl.sorted_cons a x _).2 ⟨?_, ih (fun e he => hk e (List.mem_cons_of_mem _ he)) ht⟩
      intro e he
      rcases Tbl.mem_place he with rfl | he
      · exact lt_of_le_of_ne (not_lt.1 hka) hne
      · exact ha e he

theorem Tbl.sorted_insert {m : Tbl α} (k : Nat) (v : α) (h : Tbl.sorted m = true) :
    Tbl.sorted (Tbl.insert m k v) = true :=
  Tbl.sorted_place v (fun _ he => (Tbl.mem_erase he).2) (Tbl.sorted_erase k h)

theorem Tbl.wf_erase [DecidableEq α] {d : α} {m : Tbl α} (k : Nat) (h : Tbl.wf d m = true) :
    Tbl.wf d (Tbl.erase m k) = true := by
  simp only [Tbl.wf, Bool.and_eq_true, List.all_eq_true, decide_eq_true_eq] at h ⊢
  exact ⟨Tbl.sorted_erase k h.1, fun e he => h.2 e (Tbl.mem_erase he).1⟩

/-- A write keeps the canonical form. -/
theorem Tbl.wf_put [DecidableEq α] {d : α} {m : Tbl α} (k : Nat) (v : α) (h : Tbl.wf d m = true) :
    Tbl.wf d (Tbl.put d m k v) = true := by
  by_cases hv : v = d
  · simpa [Tbl.put, hv] using Tbl.wf_erase k h
  · simp only [Tbl.put, hv, if_false]
    simp only [Tbl.wf, Bool.and_eq_true, List.all_eq_true, decide_eq_true_eq] at h ⊢
    refine ⟨Tbl.sorted_insert k v h.1, fun e he => ?_⟩
    rcases Tbl.mem_place he with rfl | he
    · exact hv
    · exact h.2 e (Tbl.mem_erase he).1

theorem Tbl.sorted_filter {m : Tbl α} (p : Nat × α → Bool) (h : Tbl.sorted m = true) :
    Tbl.sorted (m.filter p) = true := by
  induction m with
  | nil => rfl
  | cons c t ih =>
    obtain ⟨a, x⟩ := c
    obtain ⟨ha, ht⟩ := (Tbl.sorted_cons a x t).1 h
    by_cases hp : p (a, x) = true
    · rw [List.filter_cons_of_pos hp]
      exact (Tbl.sorted_cons a x _).2 ⟨fun e he => ha e (List.mem_filter.1 he).1, ih ht⟩
    · rw [List.filter_cons_of_neg hp]
      exact ih ht

/-- Leaving entries out keeps the canonical form. -/
theorem Tbl.wf_filter [DecidableEq α] {d : α} {m : Tbl α} (p : Nat × α → Bool) (h : Tbl.wf d m = true) :
    Tbl.wf d (m.filter p) = true := by
  simp only [Tbl.wf, Bool.and_eq_true, List.all_eq_true, decide_eq_true_eq] at h ⊢
  exact ⟨Tbl.sorted_filter p h.1, fun e he => h.2 e (List.mem_filter.1 he).1⟩

end Sys2Proof.Machine
end

