-- ==== Sys2Proof/Laws/State.lean ====
section
/-! SUPPORT. What the updates of the state leave alone, one lemma per field and update, and what the accessors read after
them. -/

namespace Sys2Proof.Machine

set_option Elab.async false

@[simp] theorem State.setGroup_cur (s : State) (g : Nat) (x : Group) : (s.setGroup g x).cur = s.cur := rfl
@[simp] theorem State.setGroup_pfx (s : State) (g : Nat) (x : Group) : (s.setGroup g x).pfx = s.pfx := rfl
@[simp] theorem State.setGroup_agenda (s : State) (g : Nat) (x : Group) : (s.setGroup g x).agenda = s.agenda := rfl
@[simp] theorem State.setGroup_time (s : State) (g : Nat) (x : Group) : (s.setGroup g x).time = s.time := rfl
@[simp] theorem State.setGroup_fresh (s : State) (g : Nat) (x : Group) : (s.setGroup g x).fresh = s.fresh := rfl
@[simp] theorem State.setGroup_nextId (s : State) (g : Nat) (x : Group) : (s.setGroup g x).nextId = s.nextId := rfl
@[simp] theorem State.setGroup_turns (s : State) (g : Nat) (x : Group) : (s.setGroup g x).turns = s.turns := rfl
@[simp] theorem State.setGroup_mem (s : State) (g : Nat) (x : Group) : (s.setGroup g x).mem = s.mem := rfl
@[simp] theorem State.setGroup_memKey (s : State) (g : Nat) (x : Group) : (s.setGroup g x).memKey = s.memKey := rfl
@[simp] theorem State.setGroup_l2 (s : State) (g : Nat) (x : Group) : (s.setGroup g x).l2 = s.l2 := rfl
@[simp] theorem State.setGroup_peerMem (s : State) (g : Nat) (x : Group) : (s.setGroup g x).peerMem = s.peerMem := rfl
@[simp] theorem State.setGroup_memPoison (s : State) (g : Nat) (x : Group) : (s.setGroup g x).memPoison = s.memPoison := rfl
@[simp] theorem State.setGroup_l1 (s : State) (g : Nat) (x : Group) : (s.setGroup g x).l1 = s.l1 := rfl
@[simp] theorem State.setGroup_wc (s : State) (g : Nat) (x : Group) : (s.setGroup g x).wc = s.wc := rfl
@[simp] theorem State.setGroup_sigs (s : State) (g : Nat) (x : Group) : (s.setGroup g x).sigs = s.sigs := rfl
@[simp] theorem State.setGroup_accs (s : State) (g : Nat) (x : Group) : (s.setGroup g x).accs = s.accs := rfl
@[simp] theorem State.setGroup_tlb (s : State) (g : Nat) (x : Group) : (s.setGroup g x).tlb = s.tlb := rfl
@[simp] theorem State.setGroup_icache (s : State) (g : Nat) (x : Group) : (s.setGroup g x).icache = s.icache := rfl
@[simp] theorem State.setGroup_parts (s : State) (g : Nat) (x : Group) : (s.setGroup g x).parts = s.parts := rfl
@[simp] theorem State.setGroup_ctxs (s : State) (g : Nat) (x : Group) : (s.setGroup g x).ctxs = s.ctxs := rfl
@[simp] theorem State.setGroup_grids (s : State) (g : Nat) (x : Group) : (s.setGroup g x).grids = s.grids := rfl
@[simp] theorem State.setGroup_teams (s : State) (g : Nat) (x : Group) : (s.setGroup g x).teams = s.teams := rfl
@[simp] theorem State.setGroup_spines (s : State) (g : Nat) (x : Group) : (s.setGroup g x).spines = s.spines := rfl
@[simp] theorem State.setGroup_splits (s : State) (g : Nat) (x : Group) : (s.setGroup g x).splits = s.splits := rfl
@[simp] theorem State.setGroup_reqs (s : State) (g : Nat) (x : Group) : (s.setGroup g x).reqs = s.reqs := rfl
@[simp] theorem State.setGroup_cmds (s : State) (g : Nat) (x : Group) : (s.setGroup g x).cmds = s.cmds := rfl
@[simp] theorem State.setGroup_streams (s : State) (g : Nat) (x : Group) : (s.setGroup g x).streams = s.streams := rfl
@[simp] theorem State.setGroup_hails (s : State) (g : Nat) (x : Group) : (s.setGroup g x).hails = s.hails := rfl
@[simp] theorem State.setGroup_peerHails (s : State) (g : Nat) (x : Group) : (s.setGroup g x).peerHails = s.peerHails := rfl
@[simp] theorem State.setGroup_xpkts (s : State) (g : Nat) (x : Group) : (s.setGroup g x).xpkts = s.xpkts := rfl
@[simp] theorem State.setGroup_links (s : State) (g : Nat) (x : Group) : (s.setGroup g x).links = s.links := rfl
@[simp] theorem State.setGroup_outs (s : State) (g : Nat) (x : Group) : (s.setGroup g x).outs = s.outs := rfl
@[simp] theorem State.setGroup_reqNos (s : State) (g : Nat) (x : Group) : (s.setGroup g x).reqNos = s.reqNos := rfl
@[simp] theorem State.setGroup_flows (s : State) (g : Nat) (x : Group) : (s.setGroup g x).flows = s.flows := rfl
@[simp] theorem State.setGroup_windows (s : State) (g : Nat) (x : Group) : (s.setGroup g x).windows = s.windows := rfl
@[simp] theorem State.setGroup_dirs (s : State) (g : Nat) (x : Group) : (s.setGroup g x).dirs = s.dirs := rfl
@[simp] theorem State.setGroup_biWait (s : State) (g : Nat) (x : Group) : (s.setGroup g x).biWait = s.biWait := rfl
@[simp] theorem State.setGroup_hostHeld (s : State) (g : Nat) (x : Group) : (s.setGroup g x).hostHeld = s.hostHeld := rfl
@[simp] theorem State.setGroup_gateDue (s : State) (g : Nat) (x : Group) : (s.setGroup g x).gateDue = s.gateDue := rfl
@[simp] theorem State.setGroup_devLog (s : State) (g : Nat) (x : Group) : (s.setGroup g x).devLog = s.devLog := rfl
@[simp] theorem State.setGroup_replies (s : State) (g : Nat) (x : Group) : (s.setGroup g x).replies = s.replies := rfl
@[simp] theorem State.setGroup_funcPart (s : State) (g : Nat) (x : Group) : (s.setGroup g x).funcPart = s.funcPart := rfl
@[simp] theorem State.setGroup_root (s : State) (g : Nat) (x : Group) : (s.setGroup g x).root = s.root := rfl

@[simp] theorem State.setTeam_cur (s : State) (k : Nat) (x : Team) : (s.setTeam k x).cur = s.cur := rfl
@[simp] theorem State.setTeam_pfx (s : State) (k : Nat) (x : Team) : (s.setTeam k x).pfx = s.pfx := rfl
@[simp] theorem State.setTeam_agenda (s : State) (k : Nat) (x : Team) : (s.setTeam k x).agenda = s.agenda := rfl
@[simp] theorem State.setTeam_time (s : State) (k : Nat) (x : Team) : (s.setTeam k x).time = s.time := rfl
@[simp] theorem State.setTeam_fresh (s : State) (k : Nat) (x : Team) : (s.setTeam k x).fresh = s.fresh := rfl
@[simp] theorem State.setTeam_nextId (s : State) (k : Nat) (x : Team) : (s.setTeam k x).nextId = s.nextId := rfl
@[simp] theorem State.setTeam_turns (s : State) (k : Nat) (x : Team) : (s.setTeam k x).turns = s.turns := rfl
@[simp] theorem State.setTeam_mem (s : State) (k : Nat) (x : Team) : (s.setTeam k x).mem = s.mem := rfl
@[simp] theorem State.setTeam_memKey (s : State) (k : Nat) (x : Team) : (s.setTeam k x).memKey = s.memKey := rfl
@[simp] theorem State.setTeam_l2 (s : State) (k : Nat) (x : Team) : (s.setTeam k x).l2 = s.l2 := rfl
@[simp] theorem State.setTeam_peerMem (s : State) (k : Nat) (x : Team) : (s.setTeam k x).peerMem = s.peerMem := rfl
@[simp] theorem State.setTeam_memPoison (s : State) (k : Nat) (x : Team) : (s.setTeam k x).memPoison = s.memPoison := rfl
@[simp] theorem State.setTeam_l1 (s : State) (k : Nat) (x : Team) : (s.setTeam k x).l1 = s.l1 := rfl
@[simp] theorem State.setTeam_wc (s : State) (k : Nat) (x : Team) : (s.setTeam k x).wc = s.wc := rfl
@[simp] theorem State.setTeam_sigs (s : State) (k : Nat) (x : Team) : (s.setTeam k x).sigs = s.sigs := rfl
@[simp] theorem State.setTeam_accs (s : State) (k : Nat) (x : Team) : (s.setTeam k x).accs = s.accs := rfl
@[simp] theorem State.setTeam_tlb (s : State) (k : Nat) (x : Team) : (s.setTeam k x).tlb = s.tlb := rfl
@[simp] theorem State.setTeam_icache (s : State) (k : Nat) (x : Team) : (s.setTeam k x).icache = s.icache := rfl
@[simp] theorem State.setTeam_parts (s : State) (k : Nat) (x : Team) : (s.setTeam k x).parts = s.parts := rfl
@[simp] theorem State.setTeam_ctxs (s : State) (k : Nat) (x : Team) : (s.setTeam k x).ctxs = s.ctxs := rfl
@[simp] theorem State.setTeam_grids (s : State) (k : Nat) (x : Team) : (s.setTeam k x).grids = s.grids := rfl
@[simp] theorem State.setTeam_groups (s : State) (k : Nat) (x : Team) : (s.setTeam k x).groups = s.groups := rfl
@[simp] theorem State.setTeam_spines (s : State) (k : Nat) (x : Team) : (s.setTeam k x).spines = s.spines := rfl
@[simp] theorem State.setTeam_splits (s : State) (k : Nat) (x : Team) : (s.setTeam k x).splits = s.splits := rfl
@[simp] theorem State.setTeam_reqs (s : State) (k : Nat) (x : Team) : (s.setTeam k x).reqs = s.reqs := rfl
@[simp] theorem State.setTeam_cmds (s : State) (k : Nat) (x : Team) : (s.setTeam k x).cmds = s.cmds := rfl
@[simp] theorem State.setTeam_streams (s : State) (k : Nat) (x : Team) : (s.setTeam k x).streams = s.streams := rfl
@[simp] theorem State.setTeam_hails (s : State) (k : Nat) (x : Team) : (s.setTeam k x).hails = s.hails := rfl
@[simp] theorem State.setTeam_peerHails (s : State) (k : Nat) (x : Team) : (s.setTeam k x).peerHails = s.peerHails := rfl
@[simp] theorem State.setTeam_xpkts (s : State) (k : Nat) (x : Team) : (s.setTeam k x).xpkts = s.xpkts := rfl
@[simp] theorem State.setTeam_links (s : State) (k : Nat) (x : Team) : (s.setTeam k x).links = s.links := rfl
@[simp] theorem State.setTeam_outs (s : State) (k : Nat) (x : Team) : (s.setTeam k x).outs = s.outs := rfl
@[simp] theorem State.setTeam_reqNos (s : State) (k : Nat) (x : Team) : (s.setTeam k x).reqNos = s.reqNos := rfl
@[simp] theorem State.setTeam_flows (s : State) (k : Nat) (x : Team) : (s.setTeam k x).flows = s.flows := rfl
@[simp] theorem State.setTeam_windows (s : State) (k : Nat) (x : Team) : (s.setTeam k x).windows = s.windows := rfl
@[simp] theorem State.setTeam_dirs (s : State) (k : Nat) (x : Team) : (s.setTeam k x).dirs = s.dirs := rfl
@[simp] theorem State.setTeam_biWait (s : State) (k : Nat) (x : Team) : (s.setTeam k x).biWait = s.biWait := rfl
@[simp] theorem State.setTeam_hostHeld (s : State) (k : Nat) (x : Team) : (s.setTeam k x).hostHeld = s.hostHeld := rfl
@[simp] theorem State.setTeam_gateDue (s : State) (k : Nat) (x : Team) : (s.setTeam k x).gateDue = s.gateDue := rfl
@[simp] theorem State.setTeam_devLog (s : State) (k : Nat) (x : Team) : (s.setTeam k x).devLog = s.devLog := rfl
@[simp] theorem State.setTeam_replies (s : State) (k : Nat) (x : Team) : (s.setTeam k x).replies = s.replies := rfl
@[simp] theorem State.setTeam_funcPart (s : State) (k : Nat) (x : Team) : (s.setTeam k x).funcPart = s.funcPart := rfl
@[simp] theorem State.setTeam_root (s : State) (k : Nat) (x : Team) : (s.setTeam k x).root = s.root := rfl

@[simp] theorem State.setGrid_cur (s : State) (k : Nat) (x : Grid) : (s.setGrid k x).cur = s.cur := rfl
@[simp] theorem State.setGrid_pfx (s : State) (k : Nat) (x : Grid) : (s.setGrid k x).pfx = s.pfx := rfl
@[simp] theorem State.setGrid_agenda (s : State) (k : Nat) (x : Grid) : (s.setGrid k x).agenda = s.agenda := rfl
@[simp] theorem State.setGrid_time (s : State) (k : Nat) (x : Grid) : (s.setGrid k x).time = s.time := rfl
@[simp] theorem State.setGrid_fresh (s : State) (k : Nat) (x : Grid) : (s.setGrid k x).fresh = s.fresh := rfl
@[simp] theorem State.setGrid_nextId (s : State) (k : Nat) (x : Grid) : (s.setGrid k x).nextId = s.nextId := rfl
@[simp] theorem State.setGrid_turns (s : State) (k : Nat) (x : Grid) : (s.setGrid k x).turns = s.turns := rfl
@[simp] theorem State.setGrid_mem (s : State) (k : Nat) (x : Grid) : (s.setGrid k x).mem = s.mem := rfl
@[simp] theorem State.setGrid_memKey (s : State) (k : Nat) (x : Grid) : (s.setGrid k x).memKey = s.memKey := rfl
@[simp] theorem State.setGrid_l2 (s : State) (k : Nat) (x : Grid) : (s.setGrid k x).l2 = s.l2 := rfl
@[simp] theorem State.setGrid_peerMem (s : State) (k : Nat) (x : Grid) : (s.setGrid k x).peerMem = s.peerMem := rfl
@[simp] theorem State.setGrid_memPoison (s : State) (k : Nat) (x : Grid) : (s.setGrid k x).memPoison = s.memPoison := rfl
@[simp] theorem State.setGrid_l1 (s : State) (k : Nat) (x : Grid) : (s.setGrid k x).l1 = s.l1 := rfl
@[simp] theorem State.setGrid_wc (s : State) (k : Nat) (x : Grid) : (s.setGrid k x).wc = s.wc := rfl
@[simp] theorem State.setGrid_sigs (s : State) (k : Nat) (x : Grid) : (s.setGrid k x).sigs = s.sigs := rfl
@[simp] theorem State.setGrid_accs (s : State) (k : Nat) (x : Grid) : (s.setGrid k x).accs = s.accs := rfl
@[simp] theorem State.setGrid_tlb (s : State) (k : Nat) (x : Grid) : (s.setGrid k x).tlb = s.tlb := rfl
@[simp] theorem State.setGrid_icache (s : State) (k : Nat) (x : Grid) : (s.setGrid k x).icache = s.icache := rfl
@[simp] theorem State.setGrid_parts (s : State) (k : Nat) (x : Grid) : (s.setGrid k x).parts = s.parts := rfl
@[simp] theorem State.setGrid_ctxs (s : State) (k : Nat) (x : Grid) : (s.setGrid k x).ctxs = s.ctxs := rfl
@[simp] theorem State.setGrid_teams (s : State) (k : Nat) (x : Grid) : (s.setGrid k x).teams = s.teams := rfl
@[simp] theorem State.setGrid_groups (s : State) (k : Nat) (x : Grid) : (s.setGrid k x).groups = s.groups := rfl
@[simp] theorem State.setGrid_spines (s : State) (k : Nat) (x : Grid) : (s.setGrid k x).spines = s.spines := rfl
@[simp] theorem State.setGrid_splits (s : State) (k : Nat) (x : Grid) : (s.setGrid k x).splits = s.splits := rfl
@[simp] theorem State.setGrid_reqs (s : State) (k : Nat) (x : Grid) : (s.setGrid k x).reqs = s.reqs := rfl
@[simp] theorem State.setGrid_cmds (s : State) (k : Nat) (x : Grid) : (s.setGrid k x).cmds = s.cmds := rfl
@[simp] theorem State.setGrid_streams (s : State) (k : Nat) (x : Grid) : (s.setGrid k x).streams = s.streams := rfl
@[simp] theorem State.setGrid_hails (s : State) (k : Nat) (x : Grid) : (s.setGrid k x).hails = s.hails := rfl
@[simp] theorem State.setGrid_peerHails (s : State) (k : Nat) (x : Grid) : (s.setGrid k x).peerHails = s.peerHails := rfl
@[simp] theorem State.setGrid_xpkts (s : State) (k : Nat) (x : Grid) : (s.setGrid k x).xpkts = s.xpkts := rfl
@[simp] theorem State.setGrid_links (s : State) (k : Nat) (x : Grid) : (s.setGrid k x).links = s.links := rfl
@[simp] theorem State.setGrid_outs (s : State) (k : Nat) (x : Grid) : (s.setGrid k x).outs = s.outs := rfl
@[simp] theorem State.setGrid_reqNos (s : State) (k : Nat) (x : Grid) : (s.setGrid k x).reqNos = s.reqNos := rfl
@[simp] theorem State.setGrid_flows (s : State) (k : Nat) (x : Grid) : (s.setGrid k x).flows = s.flows := rfl
@[simp] theorem State.setGrid_windows (s : State) (k : Nat) (x : Grid) : (s.setGrid k x).windows = s.windows := rfl
@[simp] theorem State.setGrid_dirs (s : State) (k : Nat) (x : Grid) : (s.setGrid k x).dirs = s.dirs := rfl
@[simp] theorem State.setGrid_biWait (s : State) (k : Nat) (x : Grid) : (s.setGrid k x).biWait = s.biWait := rfl
@[simp] theorem State.setGrid_hostHeld (s : State) (k : Nat) (x : Grid) : (s.setGrid k x).hostHeld = s.hostHeld := rfl
@[simp] theorem State.setGrid_gateDue (s : State) (k : Nat) (x : Grid) : (s.setGrid k x).gateDue = s.gateDue := rfl
@[simp] theorem State.setGrid_devLog (s : State) (k : Nat) (x : Grid) : (s.setGrid k x).devLog = s.devLog := rfl
@[simp] theorem State.setGrid_replies (s : State) (k : Nat) (x : Grid) : (s.setGrid k x).replies = s.replies := rfl
@[simp] theorem State.setGrid_funcPart (s : State) (k : Nat) (x : Grid) : (s.setGrid k x).funcPart = s.funcPart := rfl
@[simp] theorem State.setGrid_root (s : State) (k : Nat) (x : Grid) : (s.setGrid k x).root = s.root := rfl

@[simp] theorem State.modPart_cur (s : State) (p : Nat) (f : Part → Part) : (s.modPart p f).cur = s.cur := rfl
@[simp] theorem State.modPart_pfx (s : State) (p : Nat) (f : Part → Part) : (s.modPart p f).pfx = s.pfx := rfl
@[simp] theorem State.modPart_agenda (s : State) (p : Nat) (f : Part → Part) : (s.modPart p f).agenda = s.agenda := rfl
@[simp] theorem State.modPart_time (s : State) (p : Nat) (f : Part → Part) : (s.modPart p f).time = s.time := rfl
@[simp] theorem State.modPart_fresh (s : State) (p : Nat) (f : Part → Part) : (s.modPart p f).fresh = s.fresh := rfl
@[simp] theorem State.modPart_nextId (s : State) (p : Nat) (f : Part → Part) : (s.modPart p f).nextId = s.nextId := rfl
@[simp] theorem State.modPart_turns (s : State) (p : Nat) (f : Part → Part) : (s.modPart p f).turns = s.turns := rfl
@[simp] theorem State.modPart_mem (s : State) (p : Nat) (f : Part → Part) : (s.modPart p f).mem = s.mem := rfl
@[simp] theorem State.modPart_memKey (s : State) (p : Nat) (f : Part → Part) : (s.modPart p f).memKey = s.memKey := rfl
@[simp] theorem State.modPart_l2 (s : State) (p : Nat) (f : Part → Part) : (s.modPart p f).l2 = s.l2 := rfl
@[simp] theorem State.modPart_peerMem (s : State) (p : Nat) (f : Part → Part) : (s.modPart p f).peerMem = s.peerMem := rfl
@[simp] theorem State.modPart_memPoison (s : State) (p : Nat) (f : Part → Part) : (s.modPart p f).memPoison = s.memPoison := rfl
@[simp] theorem State.modPart_l1 (s : State) (p : Nat) (f : Part → Part) : (s.modPart p f).l1 = s.l1 := rfl
@[simp] theorem State.modPart_wc (s : State) (p : Nat) (f : Part → Part) : (s.modPart p f).wc = s.wc := rfl
@[simp] theorem State.modPart_sigs (s : State) (p : Nat) (f : Part → Part) : (s.modPart p f).sigs = s.sigs := rfl
@[simp] theorem State.modPart_accs (s : State) (p : Nat) (f : Part → Part) : (s.modPart p f).accs = s.accs := rfl
@[simp] theorem State.modPart_tlb (s : State) (p : Nat) (f : Part → Part) : (s.modPart p f).tlb = s.tlb := rfl
@[simp] theorem State.modPart_icache (s : State) (p : Nat) (f : Part → Part) : (s.modPart p f).icache = s.icache := rfl
@[simp] theorem State.modPart_ctxs (s : State) (p : Nat) (f : Part → Part) : (s.modPart p f).ctxs = s.ctxs := rfl
@[simp] theorem State.modPart_grids (s : State) (p : Nat) (f : Part → Part) : (s.modPart p f).grids = s.grids := rfl
@[simp] theorem State.modPart_teams (s : State) (p : Nat) (f : Part → Part) : (s.modPart p f).teams = s.teams := rfl
@[simp] theorem State.modPart_groups (s : State) (p : Nat) (f : Part → Part) : (s.modPart p f).groups = s.groups := rfl
@[simp] theorem State.modPart_spines (s : State) (p : Nat) (f : Part → Part) : (s.modPart p f).spines = s.spines := rfl
@[simp] theorem State.modPart_splits (s : State) (p : Nat) (f : Part → Part) : (s.modPart p f).splits = s.splits := rfl
@[simp] theorem State.modPart_reqs (s : State) (p : Nat) (f : Part → Part) : (s.modPart p f).reqs = s.reqs := rfl
@[simp] theorem State.modPart_cmds (s : State) (p : Nat) (f : Part → Part) : (s.modPart p f).cmds = s.cmds := rfl
@[simp] theorem State.modPart_streams (s : State) (p : Nat) (f : Part → Part) : (s.modPart p f).streams = s.streams := rfl
@[simp] theorem State.modPart_hails (s : State) (p : Nat) (f : Part → Part) : (s.modPart p f).hails = s.hails := rfl
@[simp] theorem State.modPart_peerHails (s : State) (p : Nat) (f : Part → Part) : (s.modPart p f).peerHails = s.peerHails := rfl
@[simp] theorem State.modPart_xpkts (s : State) (p : Nat) (f : Part → Part) : (s.modPart p f).xpkts = s.xpkts := rfl
@[simp] theorem State.modPart_links (s : State) (p : Nat) (f : Part → Part) : (s.modPart p f).links = s.links := rfl
@[simp] theorem State.modPart_outs (s : State) (p : Nat) (f : Part → Part) : (s.modPart p f).outs = s.outs := rfl
@[simp] theorem State.modPart_reqNos (s : State) (p : Nat) (f : Part → Part) : (s.modPart p f).reqNos = s.reqNos := rfl
@[simp] theorem State.modPart_flows (s : State) (p : Nat) (f : Part → Part) : (s.modPart p f).flows = s.flows := rfl
@[simp] theorem State.modPart_windows (s : State) (p : Nat) (f : Part → Part) : (s.modPart p f).windows = s.windows := rfl
@[simp] theorem State.modPart_dirs (s : State) (p : Nat) (f : Part → Part) : (s.modPart p f).dirs = s.dirs := rfl
@[simp] theorem State.modPart_biWait (s : State) (p : Nat) (f : Part → Part) : (s.modPart p f).biWait = s.biWait := rfl
@[simp] theorem State.modPart_hostHeld (s : State) (p : Nat) (f : Part → Part) : (s.modPart p f).hostHeld = s.hostHeld := rfl
@[simp] theorem State.modPart_gateDue (s : State) (p : Nat) (f : Part → Part) : (s.modPart p f).gateDue = s.gateDue := rfl
@[simp] theorem State.modPart_devLog (s : State) (p : Nat) (f : Part → Part) : (s.modPart p f).devLog = s.devLog := rfl
@[simp] theorem State.modPart_replies (s : State) (p : Nat) (f : Part → Part) : (s.modPart p f).replies = s.replies := rfl
@[simp] theorem State.modPart_funcPart (s : State) (p : Nat) (f : Part → Part) : (s.modPart p f).funcPart = s.funcPart := rfl
@[simp] theorem State.modPart_root (s : State) (p : Nat) (f : Part → Part) : (s.modPart p f).root = s.root := rfl

@[simp] theorem State.modCtx_cur (s : State) (p c : Nat) (f : Ctx → Ctx) : (s.modCtx p c f).cur = s.cur := rfl
@[simp] theorem State.modCtx_pfx (s : State) (p c : Nat) (f : Ctx → Ctx) : (s.modCtx p c f).pfx = s.pfx := rfl
@[simp] theorem State.modCtx_agenda (s : State) (p c : Nat) (f : Ctx → Ctx) : (s.modCtx p c f).agenda = s.agenda := rfl
@[simp] theorem State.modCtx_time (s : State) (p c : Nat) (f : Ctx → Ctx) : (s.modCtx p c f).time = s.time := rfl
@[simp] theorem State.modCtx_fresh (s : State) (p c : Nat) (f : Ctx → Ctx) : (s.modCtx p c f).fresh = s.fresh := rfl
@[simp] theorem State.modCtx_nextId (s : State) (p c : Nat) (f : Ctx → Ctx) : (s.modCtx p c f).nextId = s.nextId := rfl
@[simp] theorem State.modCtx_turns (s : State) (p c : Nat) (f : Ctx → Ctx) : (s.modCtx p c f).turns = s.turns := rfl
@[simp] theorem State.modCtx_mem (s : State) (p c : Nat) (f : Ctx → Ctx) : (s.modCtx p c f).mem = s.mem := rfl
@[simp] theorem State.modCtx_memKey (s : State) (p c : Nat) (f : Ctx → Ctx) : (s.modCtx p c f).memKey = s.memKey := rfl
@[simp] theorem State.modCtx_l2 (s : State) (p c : Nat) (f : Ctx → Ctx) : (s.modCtx p c f).l2 = s.l2 := rfl
@[simp] theorem State.modCtx_peerMem (s : State) (p c : Nat) (f : Ctx → Ctx) : (s.modCtx p c f).peerMem = s.peerMem := rfl
@[simp] theorem State.modCtx_memPoison (s : State) (p c : Nat) (f : Ctx → Ctx) : (s.modCtx p c f).memPoison = s.memPoison := rfl
@[simp] theorem State.modCtx_l1 (s : State) (p c : Nat) (f : Ctx → Ctx) : (s.modCtx p c f).l1 = s.l1 := rfl
@[simp] theorem State.modCtx_wc (s : State) (p c : Nat) (f : Ctx → Ctx) : (s.modCtx p c f).wc = s.wc := rfl
@[simp] theorem State.modCtx_sigs (s : State) (p c : Nat) (f : Ctx → Ctx) : (s.modCtx p c f).sigs = s.sigs := rfl
@[simp] theorem State.modCtx_accs (s : State) (p c : Nat) (f : Ctx → Ctx) : (s.modCtx p c f).accs = s.accs := rfl
@[simp] theorem State.modCtx_tlb (s : State) (p c : Nat) (f : Ctx → Ctx) : (s.modCtx p c f).tlb = s.tlb := rfl
@[simp] theorem State.modCtx_icache (s : State) (p c : Nat) (f : Ctx → Ctx) : (s.modCtx p c f).icache = s.icache := rfl
@[simp] theorem State.modCtx_parts (s : State) (p c : Nat) (f : Ctx → Ctx) : (s.modCtx p c f).parts = s.parts := rfl
@[simp] theorem State.modCtx_grids (s : State) (p c : Nat) (f : Ctx → Ctx) : (s.modCtx p c f).grids = s.grids := rfl
@[simp] theorem State.modCtx_teams (s : State) (p c : Nat) (f : Ctx → Ctx) : (s.modCtx p c f).teams = s.teams := rfl
@[simp] theorem State.modCtx_groups (s : State) (p c : Nat) (f : Ctx → Ctx) : (s.modCtx p c f).groups = s.groups := rfl
@[simp] theorem State.modCtx_spines (s : State) (p c : Nat) (f : Ctx → Ctx) : (s.modCtx p c f).spines = s.spines := rfl
@[simp] theorem State.modCtx_splits (s : State) (p c : Nat) (f : Ctx → Ctx) : (s.modCtx p c f).splits = s.splits := rfl
@[simp] theorem State.modCtx_reqs (s : State) (p c : Nat) (f : Ctx → Ctx) : (s.modCtx p c f).reqs = s.reqs := rfl
@[simp] theorem State.modCtx_cmds (s : State) (p c : Nat) (f : Ctx → Ctx) : (s.modCtx p c f).cmds = s.cmds := rfl
@[simp] theorem State.modCtx_streams (s : State) (p c : Nat) (f : Ctx → Ctx) : (s.modCtx p c f).streams = s.streams := rfl
@[simp] theorem State.modCtx_hails (s : State) (p c : Nat) (f : Ctx → Ctx) : (s.modCtx p c f).hails = s.hails := rfl
@[simp] theorem State.modCtx_peerHails (s : State) (p c : Nat) (f : Ctx → Ctx) : (s.modCtx p c f).peerHails = s.peerHails := rfl
@[simp] theorem State.modCtx_xpkts (s : State) (p c : Nat) (f : Ctx → Ctx) : (s.modCtx p c f).xpkts = s.xpkts := rfl
@[simp] theorem State.modCtx_links (s : State) (p c : Nat) (f : Ctx → Ctx) : (s.modCtx p c f).links = s.links := rfl
@[simp] theorem State.modCtx_outs (s : State) (p c : Nat) (f : Ctx → Ctx) : (s.modCtx p c f).outs = s.outs := rfl
@[simp] theorem State.modCtx_reqNos (s : State) (p c : Nat) (f : Ctx → Ctx) : (s.modCtx p c f).reqNos = s.reqNos := rfl
@[simp] theorem State.modCtx_flows (s : State) (p c : Nat) (f : Ctx → Ctx) : (s.modCtx p c f).flows = s.flows := rfl
@[simp] theorem State.modCtx_windows (s : State) (p c : Nat) (f : Ctx → Ctx) : (s.modCtx p c f).windows = s.windows := rfl
@[simp] theorem State.modCtx_dirs (s : State) (p c : Nat) (f : Ctx → Ctx) : (s.modCtx p c f).dirs = s.dirs := rfl
@[simp] theorem State.modCtx_biWait (s : State) (p c : Nat) (f : Ctx → Ctx) : (s.modCtx p c f).biWait = s.biWait := rfl
@[simp] theorem State.modCtx_hostHeld (s : State) (p c : Nat) (f : Ctx → Ctx) : (s.modCtx p c f).hostHeld = s.hostHeld := rfl
@[simp] theorem State.modCtx_gateDue (s : State) (p c : Nat) (f : Ctx → Ctx) : (s.modCtx p c f).gateDue = s.gateDue := rfl
@[simp] theorem State.modCtx_devLog (s : State) (p c : Nat) (f : Ctx → Ctx) : (s.modCtx p c f).devLog = s.devLog := rfl
@[simp] theorem State.modCtx_replies (s : State) (p c : Nat) (f : Ctx → Ctx) : (s.modCtx p c f).replies = s.replies := rfl
@[simp] theorem State.modCtx_funcPart (s : State) (p c : Nat) (f : Ctx → Ctx) : (s.modCtx p c f).funcPart = s.funcPart := rfl
@[simp] theorem State.modCtx_root (s : State) (p c : Nat) (f : Ctx → Ctx) : (s.modCtx p c f).root = s.root := rfl

@[simp] theorem State.setJetty_cur (s : State) (c j : Nat) (x : Jetty) : (s.setJetty c j x).cur = s.cur := rfl
@[simp] theorem State.setJetty_pfx (s : State) (c j : Nat) (x : Jetty) : (s.setJetty c j x).pfx = s.pfx := rfl
@[simp] theorem State.setJetty_agenda (s : State) (c j : Nat) (x : Jetty) : (s.setJetty c j x).agenda = s.agenda := rfl
@[simp] theorem State.setJetty_time (s : State) (c j : Nat) (x : Jetty) : (s.setJetty c j x).time = s.time := rfl
@[simp] theorem State.setJetty_fresh (s : State) (c j : Nat) (x : Jetty) : (s.setJetty c j x).fresh = s.fresh := rfl
@[simp] theorem State.setJetty_nextId (s : State) (c j : Nat) (x : Jetty) : (s.setJetty c j x).nextId = s.nextId := rfl
@[simp] theorem State.setJetty_turns (s : State) (c j : Nat) (x : Jetty) : (s.setJetty c j x).turns = s.turns := rfl
@[simp] theorem State.setJetty_mem (s : State) (c j : Nat) (x : Jetty) : (s.setJetty c j x).mem = s.mem := rfl
@[simp] theorem State.setJetty_memKey (s : State) (c j : Nat) (x : Jetty) : (s.setJetty c j x).memKey = s.memKey := rfl
@[simp] theorem State.setJetty_l2 (s : State) (c j : Nat) (x : Jetty) : (s.setJetty c j x).l2 = s.l2 := rfl
@[simp] theorem State.setJetty_peerMem (s : State) (c j : Nat) (x : Jetty) : (s.setJetty c j x).peerMem = s.peerMem := rfl
@[simp] theorem State.setJetty_memPoison (s : State) (c j : Nat) (x : Jetty) : (s.setJetty c j x).memPoison = s.memPoison := rfl
@[simp] theorem State.setJetty_l1 (s : State) (c j : Nat) (x : Jetty) : (s.setJetty c j x).l1 = s.l1 := rfl
@[simp] theorem State.setJetty_wc (s : State) (c j : Nat) (x : Jetty) : (s.setJetty c j x).wc = s.wc := rfl
@[simp] theorem State.setJetty_sigs (s : State) (c j : Nat) (x : Jetty) : (s.setJetty c j x).sigs = s.sigs := rfl
@[simp] theorem State.setJetty_accs (s : State) (c j : Nat) (x : Jetty) : (s.setJetty c j x).accs = s.accs := rfl
@[simp] theorem State.setJetty_tlb (s : State) (c j : Nat) (x : Jetty) : (s.setJetty c j x).tlb = s.tlb := rfl
@[simp] theorem State.setJetty_icache (s : State) (c j : Nat) (x : Jetty) : (s.setJetty c j x).icache = s.icache := rfl
@[simp] theorem State.setJetty_parts (s : State) (c j : Nat) (x : Jetty) : (s.setJetty c j x).parts = s.parts := rfl
@[simp] theorem State.setJetty_ctxs (s : State) (c j : Nat) (x : Jetty) : (s.setJetty c j x).ctxs = s.ctxs := rfl
@[simp] theorem State.setJetty_grids (s : State) (c j : Nat) (x : Jetty) : (s.setJetty c j x).grids = s.grids := rfl
@[simp] theorem State.setJetty_teams (s : State) (c j : Nat) (x : Jetty) : (s.setJetty c j x).teams = s.teams := rfl
@[simp] theorem State.setJetty_groups (s : State) (c j : Nat) (x : Jetty) : (s.setJetty c j x).groups = s.groups := rfl
@[simp] theorem State.setJetty_splits (s : State) (c j : Nat) (x : Jetty) : (s.setJetty c j x).splits = s.splits := rfl
@[simp] theorem State.setJetty_reqs (s : State) (c j : Nat) (x : Jetty) : (s.setJetty c j x).reqs = s.reqs := rfl
@[simp] theorem State.setJetty_cmds (s : State) (c j : Nat) (x : Jetty) : (s.setJetty c j x).cmds = s.cmds := rfl
@[simp] theorem State.setJetty_streams (s : State) (c j : Nat) (x : Jetty) : (s.setJetty c j x).streams = s.streams := rfl
@[simp] theorem State.setJetty_hails (s : State) (c j : Nat) (x : Jetty) : (s.setJetty c j x).hails = s.hails := rfl
@[simp] theorem State.setJetty_peerHails (s : State) (c j : Nat) (x : Jetty) : (s.setJetty c j x).peerHails = s.peerHails := rfl
@[simp] theorem State.setJetty_xpkts (s : State) (c j : Nat) (x : Jetty) : (s.setJetty c j x).xpkts = s.xpkts := rfl
@[simp] theorem State.setJetty_links (s : State) (c j : Nat) (x : Jetty) : (s.setJetty c j x).links = s.links := rfl
@[simp] theorem State.setJetty_outs (s : State) (c j : Nat) (x : Jetty) : (s.setJetty c j x).outs = s.outs := rfl
@[simp] theorem State.setJetty_reqNos (s : State) (c j : Nat) (x : Jetty) : (s.setJetty c j x).reqNos = s.reqNos := rfl
@[simp] theorem State.setJetty_flows (s : State) (c j : Nat) (x : Jetty) : (s.setJetty c j x).flows = s.flows := rfl
@[simp] theorem State.setJetty_windows (s : State) (c j : Nat) (x : Jetty) : (s.setJetty c j x).windows = s.windows := rfl
@[simp] theorem State.setJetty_dirs (s : State) (c j : Nat) (x : Jetty) : (s.setJetty c j x).dirs = s.dirs := rfl
@[simp] theorem State.setJetty_biWait (s : State) (c j : Nat) (x : Jetty) : (s.setJetty c j x).biWait = s.biWait := rfl
@[simp] theorem State.setJetty_hostHeld (s : State) (c j : Nat) (x : Jetty) : (s.setJetty c j x).hostHeld = s.hostHeld := rfl
@[simp] theorem State.setJetty_gateDue (s : State) (c j : Nat) (x : Jetty) : (s.setJetty c j x).gateDue = s.gateDue := rfl
@[simp] theorem State.setJetty_devLog (s : State) (c j : Nat) (x : Jetty) : (s.setJetty c j x).devLog = s.devLog := rfl
@[simp] theorem State.setJetty_replies (s : State) (c j : Nat) (x : Jetty) : (s.setJetty c j x).replies = s.replies := rfl
@[simp] theorem State.setJetty_funcPart (s : State) (c j : Nat) (x : Jetty) : (s.setJetty c j x).funcPart = s.funcPart := rfl
@[simp] theorem State.setJetty_root (s : State) (c j : Nat) (x : Jetty) : (s.setJetty c j x).root = s.root := rfl

@[simp] theorem State.setAcc_cur (s : State) (cpt : Nat) (a : Acc) : (s.setAcc cpt a).cur = s.cur := rfl
@[simp] theorem State.setAcc_pfx (s : State) (cpt : Nat) (a : Acc) : (s.setAcc cpt a).pfx = s.pfx := rfl
@[simp] theorem State.setAcc_agenda (s : State) (cpt : Nat) (a : Acc) : (s.setAcc cpt a).agenda = s.agenda := rfl
@[simp] theorem State.setAcc_time (s : State) (cpt : Nat) (a : Acc) : (s.setAcc cpt a).time = s.time := rfl
@[simp] theorem State.setAcc_fresh (s : State) (cpt : Nat) (a : Acc) : (s.setAcc cpt a).fresh = s.fresh := rfl
@[simp] theorem State.setAcc_nextId (s : State) (cpt : Nat) (a : Acc) : (s.setAcc cpt a).nextId = s.nextId := rfl
@[simp] theorem State.setAcc_turns (s : State) (cpt : Nat) (a : Acc) : (s.setAcc cpt a).turns = s.turns := rfl
@[simp] theorem State.setAcc_mem (s : State) (cpt : Nat) (a : Acc) : (s.setAcc cpt a).mem = s.mem := rfl
@[simp] theorem State.setAcc_memKey (s : State) (cpt : Nat) (a : Acc) : (s.setAcc cpt a).memKey = s.memKey := rfl
@[simp] theorem State.setAcc_l2 (s : State) (cpt : Nat) (a : Acc) : (s.setAcc cpt a).l2 = s.l2 := rfl
@[simp] theorem State.setAcc_peerMem (s : State) (cpt : Nat) (a : Acc) : (s.setAcc cpt a).peerMem = s.peerMem := rfl
@[simp] theorem State.setAcc_memPoison (s : State) (cpt : Nat) (a : Acc) : (s.setAcc cpt a).memPoison = s.memPoison := rfl
@[simp] theorem State.setAcc_l1 (s : State) (cpt : Nat) (a : Acc) : (s.setAcc cpt a).l1 = s.l1 := rfl
@[simp] theorem State.setAcc_wc (s : State) (cpt : Nat) (a : Acc) : (s.setAcc cpt a).wc = s.wc := rfl
@[simp] theorem State.setAcc_sigs (s : State) (cpt : Nat) (a : Acc) : (s.setAcc cpt a).sigs = s.sigs := rfl
@[simp] theorem State.setAcc_tlb (s : State) (cpt : Nat) (a : Acc) : (s.setAcc cpt a).tlb = s.tlb := rfl
@[simp] theorem State.setAcc_icache (s : State) (cpt : Nat) (a : Acc) : (s.setAcc cpt a).icache = s.icache := rfl
@[simp] theorem State.setAcc_parts (s : State) (cpt : Nat) (a : Acc) : (s.setAcc cpt a).parts = s.parts := rfl
@[simp] theorem State.setAcc_ctxs (s : State) (cpt : Nat) (a : Acc) : (s.setAcc cpt a).ctxs = s.ctxs := rfl
@[simp] theorem State.setAcc_grids (s : State) (cpt : Nat) (a : Acc) : (s.setAcc cpt a).grids = s.grids := rfl
@[simp] theorem State.setAcc_teams (s : State) (cpt : Nat) (a : Acc) : (s.setAcc cpt a).teams = s.teams := rfl
@[simp] theorem State.setAcc_groups (s : State) (cpt : Nat) (a : Acc) : (s.setAcc cpt a).groups = s.groups := rfl
@[simp] theorem State.setAcc_spines (s : State) (cpt : Nat) (a : Acc) : (s.setAcc cpt a).spines = s.spines := rfl
@[simp] theorem State.setAcc_splits (s : State) (cpt : Nat) (a : Acc) : (s.setAcc cpt a).splits = s.splits := rfl
@[simp] theorem State.setAcc_reqs (s : State) (cpt : Nat) (a : Acc) : (s.setAcc cpt a).reqs = s.reqs := rfl
@[simp] theorem State.setAcc_cmds (s : State) (cpt : Nat) (a : Acc) : (s.setAcc cpt a).cmds = s.cmds := rfl
@[simp] theorem State.setAcc_streams (s : State) (cpt : Nat) (a : Acc) : (s.setAcc cpt a).streams = s.streams := rfl
@[simp] theorem State.setAcc_hails (s : State) (cpt : Nat) (a : Acc) : (s.setAcc cpt a).hails = s.hails := rfl
@[simp] theorem State.setAcc_peerHails (s : State) (cpt : Nat) (a : Acc) : (s.setAcc cpt a).peerHails = s.peerHails := rfl
@[simp] theorem State.setAcc_xpkts (s : State) (cpt : Nat) (a : Acc) : (s.setAcc cpt a).xpkts = s.xpkts := rfl
@[simp] theorem State.setAcc_links (s : State) (cpt : Nat) (a : Acc) : (s.setAcc cpt a).links = s.links := rfl
@[simp] theorem State.setAcc_outs (s : State) (cpt : Nat) (a : Acc) : (s.setAcc cpt a).outs = s.outs := rfl
@[simp] theorem State.setAcc_reqNos (s : State) (cpt : Nat) (a : Acc) : (s.setAcc cpt a).reqNos = s.reqNos := rfl
@[simp] theorem State.setAcc_flows (s : State) (cpt : Nat) (a : Acc) : (s.setAcc cpt a).flows = s.flows := rfl
@[simp] theorem State.setAcc_windows (s : State) (cpt : Nat) (a : Acc) : (s.setAcc cpt a).windows = s.windows := rfl
@[simp] theorem State.setAcc_dirs (s : State) (cpt : Nat) (a : Acc) : (s.setAcc cpt a).dirs = s.dirs := rfl
@[simp] theorem State.setAcc_biWait (s : State) (cpt : Nat) (a : Acc) : (s.setAcc cpt a).biWait = s.biWait := rfl
@[simp] theorem State.setAcc_hostHeld (s : State) (cpt : Nat) (a : Acc) : (s.setAcc cpt a).hostHeld = s.hostHeld := rfl
@[simp] theorem State.setAcc_gateDue (s : State) (cpt : Nat) (a : Acc) : (s.setAcc cpt a).gateDue = s.gateDue := rfl
@[simp] theorem State.setAcc_devLog (s : State) (cpt : Nat) (a : Acc) : (s.setAcc cpt a).devLog = s.devLog := rfl
@[simp] theorem State.setAcc_replies (s : State) (cpt : Nat) (a : Acc) : (s.setAcc cpt a).replies = s.replies := rfl
@[simp] theorem State.setAcc_funcPart (s : State) (cpt : Nat) (a : Acc) : (s.setAcc cpt a).funcPart = s.funcPart := rfl
@[simp] theorem State.setAcc_root (s : State) (cpt : Nat) (a : Acc) : (s.setAcc cpt a).root = s.root := rfl

@[simp] theorem State.joinSig_cur (s : State) (line : Nat) (g : Sig) : (s.joinSig line g).cur = s.cur := rfl
@[simp] theorem State.joinSig_pfx (s : State) (line : Nat) (g : Sig) : (s.joinSig line g).pfx = s.pfx := rfl
@[simp] theorem State.joinSig_agenda (s : State) (line : Nat) (g : Sig) : (s.joinSig line g).agenda = s.agenda := rfl
@[simp] theorem State.joinSig_time (s : State) (line : Nat) (g : Sig) : (s.joinSig line g).time = s.time := rfl
@[simp] theorem State.joinSig_fresh (s : State) (line : Nat) (g : Sig) : (s.joinSig line g).fresh = s.fresh := rfl
@[simp] theorem State.joinSig_nextId (s : State) (line : Nat) (g : Sig) : (s.joinSig line g).nextId = s.nextId := rfl
@[simp] theorem State.joinSig_turns (s : State) (line : Nat) (g : Sig) : (s.joinSig line g).turns = s.turns := rfl
@[simp] theorem State.joinSig_mem (s : State) (line : Nat) (g : Sig) : (s.joinSig line g).mem = s.mem := rfl
@[simp] theorem State.joinSig_memKey (s : State) (line : Nat) (g : Sig) : (s.joinSig line g).memKey = s.memKey := rfl
@[simp] theorem State.joinSig_l2 (s : State) (line : Nat) (g : Sig) : (s.joinSig line g).l2 = s.l2 := rfl
@[simp] theorem State.joinSig_peerMem (s : State) (line : Nat) (g : Sig) : (s.joinSig line g).peerMem = s.peerMem := rfl
@[simp] theorem State.joinSig_memPoison (s : State) (line : Nat) (g : Sig) : (s.joinSig line g).memPoison = s.memPoison := rfl
@[simp] theorem State.joinSig_l1 (s : State) (line : Nat) (g : Sig) : (s.joinSig line g).l1 = s.l1 := rfl
@[simp] theorem State.joinSig_wc (s : State) (line : Nat) (g : Sig) : (s.joinSig line g).wc = s.wc := rfl
@[simp] theorem State.joinSig_accs (s : State) (line : Nat) (g : Sig) : (s.joinSig line g).accs = s.accs := rfl
@[simp] theorem State.joinSig_tlb (s : State) (line : Nat) (g : Sig) : (s.joinSig line g).tlb = s.tlb := rfl
@[simp] theorem State.joinSig_icache (s : State) (line : Nat) (g : Sig) : (s.joinSig line g).icache = s.icache := rfl
@[simp] theorem State.joinSig_parts (s : State) (line : Nat) (g : Sig) : (s.joinSig line g).parts = s.parts := rfl
@[simp] theorem State.joinSig_ctxs (s : State) (line : Nat) (g : Sig) : (s.joinSig line g).ctxs = s.ctxs := rfl
@[simp] theorem State.joinSig_grids (s : State) (line : Nat) (g : Sig) : (s.joinSig line g).grids = s.grids := rfl
@[simp] theorem State.joinSig_teams (s : State) (line : Nat) (g : Sig) : (s.joinSig line g).teams = s.teams := rfl
@[simp] theorem State.joinSig_groups (s : State) (line : Nat) (g : Sig) : (s.joinSig line g).groups = s.groups := rfl
@[simp] theorem State.joinSig_spines (s : State) (line : Nat) (g : Sig) : (s.joinSig line g).spines = s.spines := rfl
@[simp] theorem State.joinSig_splits (s : State) (line : Nat) (g : Sig) : (s.joinSig line g).splits = s.splits := rfl
@[simp] theorem State.joinSig_reqs (s : State) (line : Nat) (g : Sig) : (s.joinSig line g).reqs = s.reqs := rfl
@[simp] theorem State.joinSig_cmds (s : State) (line : Nat) (g : Sig) : (s.joinSig line g).cmds = s.cmds := rfl
@[simp] theorem State.joinSig_streams (s : State) (line : Nat) (g : Sig) : (s.joinSig line g).streams = s.streams := rfl
@[simp] theorem State.joinSig_hails (s : State) (line : Nat) (g : Sig) : (s.joinSig line g).hails = s.hails := rfl
@[simp] theorem State.joinSig_peerHails (s : State) (line : Nat) (g : Sig) : (s.joinSig line g).peerHails = s.peerHails := rfl
@[simp] theorem State.joinSig_xpkts (s : State) (line : Nat) (g : Sig) : (s.joinSig line g).xpkts = s.xpkts := rfl
@[simp] theorem State.joinSig_links (s : State) (line : Nat) (g : Sig) : (s.joinSig line g).links = s.links := rfl
@[simp] theorem State.joinSig_outs (s : State) (line : Nat) (g : Sig) : (s.joinSig line g).outs = s.outs := rfl
@[simp] theorem State.joinSig_reqNos (s : State) (line : Nat) (g : Sig) : (s.joinSig line g).reqNos = s.reqNos := rfl
@[simp] theorem State.joinSig_flows (s : State) (line : Nat) (g : Sig) : (s.joinSig line g).flows = s.flows := rfl
@[simp] theorem State.joinSig_windows (s : State) (line : Nat) (g : Sig) : (s.joinSig line g).windows = s.windows := rfl
@[simp] theorem State.joinSig_dirs (s : State) (line : Nat) (g : Sig) : (s.joinSig line g).dirs = s.dirs := rfl
@[simp] theorem State.joinSig_biWait (s : State) (line : Nat) (g : Sig) : (s.joinSig line g).biWait = s.biWait := rfl
@[simp] theorem State.joinSig_hostHeld (s : State) (line : Nat) (g : Sig) : (s.joinSig line g).hostHeld = s.hostHeld := rfl
@[simp] theorem State.joinSig_gateDue (s : State) (line : Nat) (g : Sig) : (s.joinSig line g).gateDue = s.gateDue := rfl
@[simp] theorem State.joinSig_devLog (s : State) (line : Nat) (g : Sig) : (s.joinSig line g).devLog = s.devLog := rfl
@[simp] theorem State.joinSig_replies (s : State) (line : Nat) (g : Sig) : (s.joinSig line g).replies = s.replies := rfl
@[simp] theorem State.joinSig_funcPart (s : State) (line : Nat) (g : Sig) : (s.joinSig line g).funcPart = s.funcPart := rfl
@[simp] theorem State.joinSig_root (s : State) (line : Nat) (g : Sig) : (s.joinSig line g).root = s.root := rfl

@[simp] theorem State.dropSector_cur (s : State) (cpt pa : Nat) : (s.dropSector cpt pa).cur = s.cur := rfl
@[simp] theorem State.dropSector_pfx (s : State) (cpt pa : Nat) : (s.dropSector cpt pa).pfx = s.pfx := rfl
@[simp] theorem State.dropSector_agenda (s : State) (cpt pa : Nat) : (s.dropSector cpt pa).agenda = s.agenda := rfl
@[simp] theorem State.dropSector_time (s : State) (cpt pa : Nat) : (s.dropSector cpt pa).time = s.time := rfl
@[simp] theorem State.dropSector_fresh (s : State) (cpt pa : Nat) : (s.dropSector cpt pa).fresh = s.fresh := rfl
@[simp] theorem State.dropSector_nextId (s : State) (cpt pa : Nat) : (s.dropSector cpt pa).nextId = s.nextId := rfl
@[simp] theorem State.dropSector_turns (s : State) (cpt pa : Nat) : (s.dropSector cpt pa).turns = s.turns := rfl
@[simp] theorem State.dropSector_mem (s : State) (cpt pa : Nat) : (s.dropSector cpt pa).mem = s.mem := rfl
@[simp] theorem State.dropSector_memKey (s : State) (cpt pa : Nat) : (s.dropSector cpt pa).memKey = s.memKey := rfl
@[simp] theorem State.dropSector_l2 (s : State) (cpt pa : Nat) : (s.dropSector cpt pa).l2 = s.l2 := rfl
@[simp] theorem State.dropSector_peerMem (s : State) (cpt pa : Nat) : (s.dropSector cpt pa).peerMem = s.peerMem := rfl
@[simp] theorem State.dropSector_memPoison (s : State) (cpt pa : Nat) : (s.dropSector cpt pa).memPoison = s.memPoison := rfl
@[simp] theorem State.dropSector_wc (s : State) (cpt pa : Nat) : (s.dropSector cpt pa).wc = s.wc := rfl
@[simp] theorem State.dropSector_sigs (s : State) (cpt pa : Nat) : (s.dropSector cpt pa).sigs = s.sigs := rfl
@[simp] theorem State.dropSector_accs (s : State) (cpt pa : Nat) : (s.dropSector cpt pa).accs = s.accs := rfl
@[simp] theorem State.dropSector_tlb (s : State) (cpt pa : Nat) : (s.dropSector cpt pa).tlb = s.tlb := rfl
@[simp] theorem State.dropSector_icache (s : State) (cpt pa : Nat) : (s.dropSector cpt pa).icache = s.icache := rfl
@[simp] theorem State.dropSector_parts (s : State) (cpt pa : Nat) : (s.dropSector cpt pa).parts = s.parts := rfl
@[simp] theorem State.dropSector_ctxs (s : State) (cpt pa : Nat) : (s.dropSector cpt pa).ctxs = s.ctxs := rfl
@[simp] theorem State.dropSector_grids (s : State) (cpt pa : Nat) : (s.dropSector cpt pa).grids = s.grids := rfl
@[simp] theorem State.dropSector_teams (s : State) (cpt pa : Nat) : (s.dropSector cpt pa).teams = s.teams := rfl
@[simp] theorem State.dropSector_groups (s : State) (cpt pa : Nat) : (s.dropSector cpt pa).groups = s.groups := rfl
@[simp] theorem State.dropSector_spines (s : State) (cpt pa : Nat) : (s.dropSector cpt pa).spines = s.spines := rfl
@[simp] theorem State.dropSector_splits (s : State) (cpt pa : Nat) : (s.dropSector cpt pa).splits = s.splits := rfl
@[simp] theorem State.dropSector_reqs (s : State) (cpt pa : Nat) : (s.dropSector cpt pa).reqs = s.reqs := rfl
@[simp] theorem State.dropSector_cmds (s : State) (cpt pa : Nat) : (s.dropSector cpt pa).cmds = s.cmds := rfl
@[simp] theorem State.dropSector_streams (s : State) (cpt pa : Nat) : (s.dropSector cpt pa).streams = s.streams := rfl
@[simp] theorem State.dropSector_hails (s : State) (cpt pa : Nat) : (s.dropSector cpt pa).hails = s.hails := rfl
@[simp] theorem State.dropSector_peerHails (s : State) (cpt pa : Nat) : (s.dropSector cpt pa).peerHails = s.peerHails := rfl
@[simp] theorem State.dropSector_xpkts (s : State) (cpt pa : Nat) : (s.dropSector cpt pa).xpkts = s.xpkts := rfl
@[simp] theorem State.dropSector_links (s : State) (cpt pa : Nat) : (s.dropSector cpt pa).links = s.links := rfl
@[simp] theorem State.dropSector_outs (s : State) (cpt pa : Nat) : (s.dropSector cpt pa).outs = s.outs := rfl
@[simp] theorem State.dropSector_reqNos (s : State) (cpt pa : Nat) : (s.dropSector cpt pa).reqNos = s.reqNos := rfl
@[simp] theorem State.dropSector_flows (s : State) (cpt pa : Nat) : (s.dropSector cpt pa).flows = s.flows := rfl
@[simp] theorem State.dropSector_windows (s : State) (cpt pa : Nat) : (s.dropSector cpt pa).windows = s.windows := rfl
@[simp] theorem State.dropSector_dirs (s : State) (cpt pa : Nat) : (s.dropSector cpt pa).dirs = s.dirs := rfl
@[simp] theorem State.dropSector_biWait (s : State) (cpt pa : Nat) : (s.dropSector cpt pa).biWait = s.biWait := rfl
@[simp] theorem State.dropSector_hostHeld (s : State) (cpt pa : Nat) : (s.dropSector cpt pa).hostHeld = s.hostHeld := rfl
@[simp] theorem State.dropSector_gateDue (s : State) (cpt pa : Nat) : (s.dropSector cpt pa).gateDue = s.gateDue := rfl
@[simp] theorem State.dropSector_devLog (s : State) (cpt pa : Nat) : (s.dropSector cpt pa).devLog = s.devLog := rfl
@[simp] theorem State.dropSector_replies (s : State) (cpt pa : Nat) : (s.dropSector cpt pa).replies = s.replies := rfl
@[simp] theorem State.dropSector_funcPart (s : State) (cpt pa : Nat) : (s.dropSector cpt pa).funcPart = s.funcPart := rfl
@[simp] theorem State.dropSector_root (s : State) (cpt pa : Nat) : (s.dropSector cpt pa).root = s.root := rfl

@[simp] theorem State.group_setGroup (s : State) (g : Nat) (x : Group) : (s.setGroup g x).group g = x := by
  simp [State.group, State.setGroup]

theorem State.group_setGroup_ne (s : State) {g h : Nat} (x : Group) (n : h ≠ g) : (s.setGroup g x).group h = s.group h := by
  simp [State.group, State.setGroup, Tbl.find?_insert, n]

@[simp] theorem State.team_setTeam (s : State) (k : Nat) (x : Team) : (s.setTeam k x).team k = x := by
  simp [State.team, State.setTeam]

@[simp] theorem State.grid_setGrid (s : State) (k : Nat) (x : Grid) : (s.setGrid k x).grid k = x := by
  simp [State.grid, State.setGrid]

@[simp] theorem State.team_setGroup (s : State) (g : Nat) (x : Group) (k : Nat) : (s.setGroup g x).team k = s.team k := rfl

@[simp] theorem State.group_setTeam (s : State) (k : Nat) (x : Team) (g : Nat) : (s.setTeam k x).group g = s.group g := rfl

/-- A jetty register after a write of one of its cluster. -/
@[simp] theorem State.jetty_setJetty (s : State) (c j : Nat) (x : Jetty) : (s.setJetty c j x).jetty c j = x := by
  simp [State.jetty, State.setJetty]

/-! ### Uniform registers -/

/-- R7: `w0` reads as zero. -/
@[simp] theorem Uni.getW_zero (u : Uni) : u.getW 0 = 0 := rfl

/-- R7: `k7` reads as 1. -/
@[simp] theorem Uni.getK_seven (u : Uni) : u.getK 7 = true := rfl

/-- R7: a write of `w0` is discarded. -/
@[simp] theorem Uni.putW_zero (u : Uni) (x : W64) : u.putW 0 x = u := rfl

/-- R7: a write of `k7` is discarded. -/
@[simp] theorem Uni.putK_seven (u : Uni) (b : Bool) : u.putK 7 b = u := rfl

theorem Uni.getW_putW (u : Uni) (r j : Nat) (x : W64) (h : r ≠ 0) :
    (u.putW r x).getW j = if j = r then x else u.getW j := by
  by_cases hj : j = 0
  · simp [Uni.getW, hj, Ne.symm h]
  · simp [Uni.putW, Uni.getW, h, hj, Tbl.get_put]

@[simp] theorem Uni.putW_k (u : Uni) (r : Nat) (x : W64) : (u.putW r x).k = u.k := by unfold Uni.putW; split <;> rfl
@[simp] theorem Uni.putW_fpctl (u : Uni) (r : Nat) (x : W64) : (u.putW r x).fpctl = u.fpctl := by
  unfold Uni.putW; split <;> rfl
@[simp] theorem Uni.putW_fpstat (u : Uni) (r : Nat) (x : W64) : (u.putW r x).fpstat = u.fpstat := by
  unfold Uni.putW; split <;> rfl
@[simp] theorem Uni.putK_w (u : Uni) (c : Nat) (b : Bool) : (u.putK c b).w = u.w := by unfold Uni.putK; split <;> rfl
@[simp] theorem Uni.putK_fpctl (u : Uni) (c : Nat) (b : Bool) : (u.putK c b).fpctl = u.fpctl := by
  unfold Uni.putK; split <;> rfl
@[simp] theorem Uni.putK_fpstat (u : Uni) (c : Nat) (b : Bool) : (u.putK c b).fpstat = u.fpstat := by
  unfold Uni.putK; split <;> rfl
@[simp] theorem Uni.getW_putK (u : Uni) (c : Nat) (b : Bool) (r : Nat) : (u.putK c b).getW r = u.getW r := by
  simp [Uni.getW]

/-! ### Lane registers -/

theorem Group.getV_putV (x : Group) (r l j m : Nat) (a : W32) :
    (x.putV r l a).getV j m = if 32 * j + m = 32 * r + l then a else x.getV j m := by
  simp [Group.putV, Group.getV, Tbl.get_put]

/-- R31: `p7` reads as 1. -/
@[simp] theorem Group.getP_seven (x : Group) (l : Nat) : x.getP 7 l = true := rfl

/-- R31: a write of `p7` is discarded. -/
@[simp] theorem Group.putP_seven (x : Group) (l : Nat) (b : Bool) : x.putP 7 l b = x := rfl

end Sys2Proof.Machine
end

