-- ==== Sys2Proof/Laws/Issue.lean ====
section
/-! SUPPORT. What a word comes to, once for all words: a word that begins and completes leaves the state of `State.after`,
and a word that its checks stop waits or traps (R12, R13, R49). -/

namespace Sys2Proof.Machine

theorem State.begins_iff (s : State) (i : Instr) :
    s.begins i = true ↔ gate i s = .run ∧ s.stepped s.cur = false ∧ s.haltReached s.cur = false ∧
      s.statusRegs s.cur i = [] ∧ (match s.cur with
        | .gang g _ => (s.operandRegs g).isEmpty
        | _ => true) = true := by
  simp only [State.begins, Bool.and_eq_true, decide_eq_true_eq, Bool.not_eq_true', and_assoc, List.isEmpty_iff]
  all_goals exact Iff.rfl

theorem State.touch_nil (s : State) (t : ThreadId) (lanes : List Nat) : s.touch t lanes [] = s := by
  cases t <;> rfl

theorem State.touch_free (s : State) (t : ThreadId) (lanes regs : List Nat)
    (h : ∀ g k, t = .gang g k → s.operandRegs g = []) : s.touch t lanes regs = s := by
  cases t with
  | gang g k =>
    have : (regs.filter fun r => (s.operandRegs g).contains r) = [] := by simp [h g k rfl]
    simp only [State.touch, this, List.foldl_nil]
  | _ => rfl

theorem State.noteOperand_nil (s pre : State) (t : ThreadId) (lanes : List Nat) : s.noteOperand pre t lanes [] = s := by
  cases t <;> rfl

theorem State.noteOperand_free (s pre : State) (t : ThreadId) (lanes regs : List Nat)
    (h : ∀ g k, t = .gang g k → s.operandRegs g = []) : s.noteOperand pre t lanes regs = s := by
  cases t with
  | gang g k =>
    have : (regs.filter fun r => (s.operandRegs g).contains r) = [] := by simp [h g k rfl]
    simp only [State.noteOperand, this, List.foldl_nil]
  | _ => rfl

theorem State.readStatus_free {s pre : State} {t : ThreadId} {i : Instr} (h : pre.statusRegs t i = []) : s.readStatus pre t i = s := by
  cases t with
  | gang g k => simp only [State.readStatus, h, if_true]
  | _ => rfl

theorem State.operandRegs_of_cmds {s t : State} (g : Nat) (h : t.cmds = s.cmds) : t.operandRegs g = s.operandRegs g := by
  simp [State.operandRegs, h]

@[simp] theorem State.clearHold_cmds (s : State) (t : ThreadId) : (s.clearHold t).cmds = s.cmds := by
  unfold State.clearHold
  cases t <;> simp only
  split <;> rfl

theorem State.begins_operandRegs {s : State} {i : Instr} (h : s.begins i = true) {g k : Nat} (hc : s.cur = .gang g k) :
    s.operandRegs g = [] := by
  have := ((s.begins_iff i).1 h).2.2.2.2
  rw [hc] at this
  simpa using this

/-- A word that begins reads the state with its ended hold forgotten. -/
theorem State.begun_of_begins {s : State} {i : Instr} (h : s.begins i = true) : s.begun i = s.unheld := by
  refine State.touch_free _ _ _ _ fun g k hc => ?_
  rw [State.operandRegs_of_cmds g (s.clearHold_cmds _)]
  exact State.begins_operandRegs h hc

/-- A word that begins comes to what its body comes to. -/
theorem issue_begins {s : State} {i : Instr} {body : ThreadId → State → Did} (h : s.begins i = true) :
    issue i s body = .next (settle i s (body s.cur s.unheld)) := by
  have hg : gate i s = .run := ((s.begins_iff i).1 h).1
  simp only [issue, hg, State.begun_of_begins h]

/-- A word whose checks trap takes the trap at its word. -/
theorem issue_trap {s : State} {i : Instr} {body : ThreadId → State → Did} {tr : Trap} (h : gate i s = .trap tr) :
    issue i s body = .next (s.trapped i tr) := by
  simp only [issue, h, settle, State.trapped]

/-- A word whose checks make it wait is not begun. -/
theorem issue_wait {s : State} {i : Instr} {body : ThreadId → State → Did} (h : gate i s = .wait) :
    issue i s body = .next (s.stay s) := by
  simp only [issue, h, settle, State.stay]

theorem Group.step_mapGang (x : Group) (k : Nat) (f : Slice → Slice) : (x.mapGang k f).step = x.step := rfl
theorem Group.mode_mapGang (x : Group) (k : Nat) (f : Slice → Slice) : (x.mapGang k f).mode = x.mode := rfl


theorem State.stepped_gang (s : State) (g k : Nat) : s.stepped (.gang g k) = (s.group g).step := by
  simp only [State.stepped, State.group]
  cases Tbl.find? s.groups g <;> rfl

theorem State.stepped_setGroup (s : State) (g k : Nat) (x : Group) : (s.setGroup g x).stepped (.gang g k) = x.step := by
  simp [State.stepped_gang]

theorem State.stepped_other (s : State) {t : ThreadId} (h : ∀ g k, t ≠ .gang g k) : s.stepped t = false := by
  cases t with
  | gang g k => exact absurd rfl (h g k)
  | _ => rfl

theorem State.stepped_setPc (s : State) (t : ThreadId) (a : Addr) : (s.setPc t a).stepped t = s.stepped t := by
  cases t with
  | gang g k => simp only [State.setPc, State.stepped_gang, State.group_setGroup, Group.step_mapGang]
  | _ => rfl

theorem State.stepped_setWaiting (s : State) (t : ThreadId) (b : Bool) : (s.setWaiting t b).stepped t = s.stepped t := by
  cases t with
  | gang g k => simp only [State.setWaiting, State.stepped_gang, State.group_setGroup, Group.step_mapGang]
  | _ => rfl

theorem State.setPc_cmds (s : State) (t : ThreadId) (a : Addr) : (s.setPc t a).cmds = s.cmds := by
  cases t <;> rfl
theorem State.setWaiting_cmds (s : State) (t : ThreadId) (b : Bool) : (s.setWaiting t b).cmds = s.cmds := by
  cases t <;> rfl

/-- The end of a word that completed at some place: nothing but its own boundary. -/
theorem State.finishWord_plain {s s' : State} {i : Instr} (h : s.begins i = true) (h1 : s'.stepped s.cur = false)
    (h2 : (shape i).vdst = [] ∨ ∀ g k, s.cur = .gang g k → s'.operandRegs g = []) (pc : Addr) :
    s'.finishWord s s.cur i pc = ({ s' with pfx := none }).setWaiting s.cur false := by
  have hh : s.haltReached s.cur = false := ((s.begins_iff i).1 h).2.2.1
  have hf : (shape i).vdst = [] ∨ ∀ g k, s.cur = .gang g k → (({ s' with pfx := none }).setWaiting s.cur false).operandRegs g = [] :=
    h2.imp id fun h4 g k hc => by
      rw [State.operandRegs_of_cmds (s := s') g (by rw [State.setWaiting_cmds])]
      exact h4 g k hc
  have hn : (({ s' with pfx := none }).setWaiting s.cur false).noteOperand s s.cur (s.active s.cur) (shape i).vdst =
      ({ s' with pfx := none }).setWaiting s.cur false := by
    rcases hf with hf | hf
    · rw [hf, State.noteOperand_nil]
    · exact State.noteOperand_free _ _ _ _ _ hf
  have ht : (({ s' with pfx := none }).setWaiting s.cur false).touch s.cur (s.active s.cur) (shape i).vdst =
      ({ s' with pfx := none }).setWaiting s.cur false := by
    rcases hf with hf | hf
    · rw [hf, State.touch_nil]
    · exact State.touch_free _ _ _ _ hf
  have hr : (({ s' with pfx := none }).setWaiting s.cur false).readStatus s s.cur i =
      ({ s' with pfx := none }).setWaiting s.cur false := State.readStatus_free ((s.begins_iff i).1 h).2.2.2.1
  have hs : (({ s' with pfx := none }).setWaiting s.cur false).stepped s.cur = false := by
    rw [State.stepped_setWaiting]; exact h1
  unfold State.finishWord
  simp only [hn, ht, hr, hs, hh, Bool.false_and, Bool.false_eq_true, if_false]

/-- A word that begins and completes leaves the state of `State.after`. -/
theorem settle_done {s s' : State} {i : Instr} (h : s.begins i = true) (h1 : s'.stepped s.cur = false)
    (h2 : (shape i).vdst = [] ∨ ∀ g k, s.cur = .gang g k → s'.operandRegs g = []) :
    settle i s (.done s') = s.after s' := by
  show (s'.setPc s.cur (s.pcOf s.cur + 4)).finishWord s s.cur i s.wordPc = _
  rw [State.finishWord_plain h (by rw [State.stepped_setPc]; exact h1)]
  · rfl
  · refine h2.imp id fun h4 g k hc => ?_
    rw [State.operandRegs_of_cmds g (State.setPc_cmds _ _ _)]
    exact h4 g k hc

/-- A transfer that begins and completes leaves the state of `State.afterJump`. -/
theorem settle_goto {s s' : State} {i : Instr} {a : Addr} (h : s.begins i = true) (h1 : s'.stepped s.cur = false)
    (h2 : (shape i).vdst = [] ∨ ∀ g k, s.cur = .gang g k → s'.operandRegs g = []) :
    settle i s (.goto s' a) = s.afterJump s' a := by
  show ((s'.setPc s.cur a).finishWord s s.cur i s.wordPc).landAt s.cur (s.gangMask s.cur) = _
  rw [State.finishWord_plain h (by rw [State.stepped_setPc]; exact h1)]
  · rfl
  · refine h2.imp id fun h4 g k hc => ?_
    rw [State.operandRegs_of_cmds g (State.setPc_cmds _ _ _)]
    exact h4 g k hc

/-- No word of a thread stops the model. -/
theorem issue_next (i : Instr) (s : State) (body : ThreadId → State → Did) : ∃ t, issue i s body = .next t := ⟨_, rfl⟩

end Sys2Proof.Machine
end

