-- ==== Sys2Proof/Laws/Memory.lean ====
section
/-! SUPPORT. Laws of memory: bytes after a write, and that every operation on memory keeps its canonical form. -/

namespace Sys2Proof.Machine

/-- A byte after a write of n bytes: the value's byte inside, the old byte outside. -/
theorem memByte_memWrite (m : List Host.Cell) (a n v b : Nat) :
    memByte (memWrite m a n v) b =
      if a ≤ b ∧ b < a + n then BitVec.ofNat 8 (v / 256 ^ (b - a)) else memByte m b := by
  induction n generalizing m a v with
  | zero => simp [memWrite]
  | succ n ih =>
    rw [memWrite, ih]
    by_cases hb : b = a
    · subst hb
      simp [memByte]
    · have hp : memByte (Tbl.put (0 : Byte) m a (BitVec.ofNat 8 v)) b = memByte m b := by simp [memByte, Tbl.get_put, hb]
      rw [hp]
      by_cases hin : a + 1 ≤ b ∧ b < a + 1 + n
      · have h2 : a ≤ b ∧ b < a + (n + 1) := by omega
        rw [if_pos hin, if_pos h2]
        obtain ⟨k, rfl⟩ : ∃ k, b = a + 1 + k := ⟨b - (a + 1), by omega⟩
        have e1 : a + 1 + k - (a + 1) = k := by omega
        have e2 : a + 1 + k - a = k + 1 := by omega
        rw [e1, e2, pow_succ, Nat.div_div_eq_div_mul, Nat.mul_comm 256]
      · have h2 : ¬ (a ≤ b ∧ b < a + (n + 1)) := by omega
        rw [if_neg hin, if_neg h2]

/-- Bytes outside a write are as before. -/
theorem memByte_memWrite_ne (m : List Host.Cell) {a n b : Nat} (v : Nat) (h : b < a ∨ a + n ≤ b) :
    memByte (memWrite m a n v) b = memByte m b := by
  rw [memByte_memWrite, if_neg (by omega)]

/-- A read of the bytes just written gives the value. -/
theorem memRead_memWrite (m : List Host.Cell) (a n v : Nat) : memRead (memWrite m a n v) a n = v % 256 ^ n := by
  suffices h : ∀ k b (m : List Host.Cell), (∀ i, i < k → memByte m (b + i) = BitVec.ofNat 8 (v / 256 ^ (b - a + i))) → a ≤ b →
      memRead m b k = v / 256 ^ (b - a) % 256 ^ k by
    have := h n a (memWrite m a n v) (fun i hi => by
      rw [memByte_memWrite, if_pos (by omega)]; simp) (le_refl a)
    simpa using this
  intro k
  induction k with
  | zero => intro b m _ _; simp [memRead, Nat.mod_one]
  | succ k ih =>
    intro b m hm hab
    rw [memRead]
    have h0 := hm 0 (Nat.succ_pos k)
    simp only [Nat.add_zero] at h0
    have h1 := ih (b + 1) m (fun i hi => by
      have := hm (i + 1) (by omega)
      rw [show b + 1 + i = b + (i + 1) by omega, this]
      congr 3; omega) (by omega)
    rw [h0, h1, show b + 1 - a = (b - a) + 1 by omega]
    simp only [BitVec.toNat_ofNat]
    rw [pow_succ 256 (b - a), ← Nat.div_div_eq_div_mul, pow_succ 256 k, Nat.mul_comm (256 ^ k), Nat.mod_mul]

/-- A write of bytes keeps the canonical form. -/
theorem memWrite_wf {m : List Host.Cell} (a n v : Nat) (h : Memory.wf m = true) : Memory.wf (memWrite m a n v) = true := by
  induction n generalizing m a v with
  | zero => simpa [memWrite] using h
  | succ n ih => exact ih _ _ (Tbl.wf_put _ _ h)

theorem reset_memoryOk : State.reset.memoryOk = true := by decide

@[simp] theorem State.noteWrite_mem (s : State) (pa n : Nat) : (s.noteWrite pa n).mem = s.mem := rfl

@[simp] theorem State.noteWrite_peerMem (s : State) (pa n : Nat) : (s.noteWrite pa n).peerMem = s.peerMem := rfl

/-- R345: what a block reads as under another key keeps the canonical form. -/
theorem recipher_wf (new old : BitVec 512) (pa : Nat) {m : List Host.Cell} (h : Memory.wf m = true) :
    Memory.wf (recipher new old pa m) = true := by
  unfold recipher
  generalize hf : (fun (a : List Host.Cell) i => _) = f
  suffices ∀ (l : List Nat) (a : List Host.Cell), Memory.wf a = true → Memory.wf (l.foldl f a) = true from this _ _ h
  intro l
  induction l with
  | nil => exact fun a ha => ha
  | cons i l ih =>
    intro a ha
    refine ih _ ?_
    subst hf
    exact memWrite_wf _ _ _ ha

/-- R345: a sector that is brought under its partition's key changes memory and the keys alone. -/
theorem State.rekey_eq (s : State) (pa : Nat) : ∃ m k, s.rekey pa = { s with mem := m, memKey := k } := by
  refine ⟨(s.rekey pa).mem, (s.rekey pa).memKey, ?_⟩
  unfold State.rekey
  split <;> rfl

theorem State.rekey_wf {s : State} (pa : Nat) (h : Memory.wf s.mem = true) : Memory.wf (s.rekey pa).mem = true := by
  unfold State.rekey
  cases s.foreign pa
  · exact h
  · exact recipher_wf _ _ _ h

/-- R366: an access to host memory is noted, nothing more. -/
theorem State.hostLog_eq (s : State) (pa n : Nat) (w : Bool) (v : W64) (tag : Nat) :
    ∃ d, s.hostLog pa n w v tag = { s with devLog := d } := by
  unfold State.hostLog; split <;> exact ⟨_, rfl⟩

/-- R189: what writing a sector of a slice back can change. -/
theorem State.sliceClean_eq (s : State) (key : Nat) : ∃ l d, s.sliceClean key = { s with l2 := l, devLog := d } := by
  unfold State.sliceClean
  split
  · split
    · rename_i x _ _
      obtain ⟨d, hd⟩ := State.hostLog_eq { s with l2 := s.l2.insert key { x with dirty := false } } (key % 2 ^ 46 * 64) 64 true 0 x.tag
      exact ⟨_, d, hd⟩
    · exact ⟨_, _, rfl⟩
  · exact ⟨_, _, rfl⟩

/-- R189, R365: what a line's leaving its slice can change. -/
theorem State.sliceEvict_eq (s : State) (k : Nat) : ∃ l d e, s.sliceEvict k = { s with l2 := l, devLog := d, dirs := e } := by
  obtain ⟨l1, d1, h1⟩ := s.sliceClean_eq (2 * k)
  obtain ⟨l2, d2, h2⟩ := (s.sliceClean (2 * k)).sliceClean_eq (2 * k + 1)
  refine ⟨(l2.erase (2 * k)).erase (2 * k + 1), d2, s.dirs.erase (k % 2 ^ 45), ?_⟩
  unfold State.sliceEvict
  rw [h2, h1]

/-- R189: what making room in a slice can change. -/
theorem State.sliceRoom_eq (s : State) (slice : Nat) :
    ∃ l d e f, s.sliceRoom slice = { s with l2 := l, devLog := d, dirs := e, fresh := f } := by
  unfold State.sliceRoom
  split
  · exact ⟨_, _, _, _, rfl⟩
  · dsimp only
    split
    · exact ⟨_, _, _, _, rfl⟩
    · obtain ⟨l, d, e, h⟩ := State.sliceEvict_eq (s.pick _).2 (s.pick ((((s.l2.filter fun e => e.2.slice == slice).map fun e => e.1 / 2).dedup))).1
      exact ⟨l, d, e, s.fresh + 1, h⟩

/-- R189, R365: an access at a home slice changes what slices hold and the directories over them, and draws free choices; no
byte of memory and nothing of any thread. -/
theorem State.sliceTouch_eq (s : State) (part pa : Nat) (w : Bool) (tag : Nat) :
    ∃ l d e f h, s.sliceTouch part pa w tag = { s with l2 := l, devLog := d, dirs := e, fresh := f, hostHeld := h } := by
  unfold State.sliceTouch
  split
  · exact ⟨_, _, _, _, _, rfl⟩
  · rename_i k p _
    dsimp only
    split
    · exact ⟨_, _, _, _, _, rfl⟩
    · obtain ⟨l, d, e, f, h⟩ := s.sliceRoom_eq (p.homeSlice (pa / 128))
      obtain ⟨d2, h2⟩ := (s.sliceRoom (p.homeSlice (pa / 128))).hostLog_eq (pa / 64 * 64) 64 false 0 tag
      rw [h2, h]
      exact ⟨_, _, _, _, _, rfl⟩

@[simp] theorem State.sliceTouch_mem (s : State) (part pa : Nat) (w : Bool) (tag : Nat) :
    (s.sliceTouch part pa w tag).mem = s.mem := by
  obtain ⟨l, d, e, f, h, q⟩ := s.sliceTouch_eq part pa w tag; rw [q]

@[simp] theorem State.sliceTouch_peerMem (s : State) (part pa : Nat) (w : Bool) (tag : Nat) :
    (s.sliceTouch part pa w tag).peerMem = s.peerMem := by
  obtain ⟨l, d, e, f, h, q⟩ := s.sliceTouch_eq part pa w tag; rw [q]

/-- Writing bytes into memory keeps the canonical form. -/
theorem memStore_wf {s : State} (pa n v : Nat) (h : Memory.wf s.mem = true) : Memory.wf (s.memStore pa n v).mem = true := by
  unfold State.memStore
  refine memWrite_wf _ _ _ ?_
  generalize sectorsFrom pa n = l
  induction l generalizing s with
  | nil => exact h
  | cons b l ih => exact ih (State.rekey_wf b h)

/-- A write at the home slice keeps the canonical form. -/
theorem homeWrite_wf {s : State} (pa n v part tag : Nat) (h : Memory.wf s.mem = true) :
    Memory.wf (s.homeWrite pa n v part tag).mem = true := by
  unfold State.homeWrite
  rw [State.noteWrite_mem]
  have h1 := memStore_wf pa n v h
  generalize s.memStore pa n v = t at h1
  generalize sectorsFrom pa n = l
  induction l generalizing t with
  | nil => exact h1
  | cons b l ih => exact ih _ (by rw [State.sliceTouch_mem]; exact h1)

/-- A write of masked bytes at the home slice keeps the canonical form. -/
theorem homeMask_wf {s : State} (base : Nat) (mask : BitVec 64) (data : BitVec 512) (part tag : Nat) (h : Memory.wf s.mem = true) :
    Memory.wf (s.homeMask base mask data part tag).mem = true := by
  unfold State.homeMask
  simp only [State.noteWrite_mem, State.sliceTouch_mem]
  suffices ∀ (l : List Nat) (m : List Host.Cell), Memory.wf m = true → Memory.wf (l.foldl (fun m i =>
      if mask.getLsbD i then memWrite m (base + i) 1 (data.toNat / 2 ^ (8 * i) % 256) else m) m) = true from
    this _ _ (State.rekey_wf base h)
  intro l
  induction l with
  | nil => exact fun m hm => hm
  | cons i l ih =>
    intro m hm
    refine ih _ ?_
    show Memory.wf (if mask.getLsbD i = true then memWrite m (base + i) 1 (data.toNat / 2 ^ (8 * i) % 256) else m) = true
    split
    · exact memWrite_wf _ _ _ hm
    · exact hm

/-- Leaving out the bytes of some channels keeps the canonical form. -/
theorem filter_wf {m : List Host.Cell} (p : Host.Cell → Bool) (h : Memory.wf m = true) : Memory.wf (m.filter p) = true :=
  Tbl.wf_filter p h

/-- R184: where a point holds fewer lines than a set has ways, any line finds room. -/
theorem State.makeRoom_of_few (s : State) (cpt pa : Nat) (h : (s.sectorsOf cpt).length < 16) : s.makeRoom cpt pa = s := by
  have hd : (((s.sectorsOf cpt).map fun e => sectorAddr e.1 / 128).dedup).length < 16 :=
    (List.dedup_sublist _).length_le.trans_lt (by simpa using h)
  simp only [makeRoom]
  rw [if_pos]
  split
  · simp [(List.length_filter_le _ _).trans_lt hd]
  · simp [hd]

end Sys2Proof.Machine
end

