-- ==== Sys2Proof/Laws/PerInstr.lean ====
section
/-! SUPPORT. The family `WordSize`: the number of every instruction is that of a 32-bit word (R24), one lemma per
instruction. -/


namespace Sys2Proof.Laws.WordSize

set_option Elab.async false

/-- The word of an instruction has 32 bits. -/
def Statement (i : Instr) : Prop := encodeNat i < 2 ^ 32

theorem bitOf_lt (b : Bool) : bitOf b < 2 := by cases b <;> decide

theorem add (t : Bool) (d : BitVec 7) (a : BitVec 7) (b : BitVec 7) (bs : BitVec 2) (m : Bool) : Statement (.add t d a b bs m) := by
  have h0 := bitOf_lt t
  have h1 := d.isLt
  have h2 := a.isLt
  have h3 := b.isLt
  have h4 := bs.isLt
  have h5 := bitOf_lt m
  show 0 + bitOf t * 16777216 + d.toNat * 131072 + a.toNat * 1024 + b.toNat * 8 + bs.toNat * 2 + bitOf m < 2 ^ 32
  omega

theorem sub (t : Bool) (d : BitVec 7) (a : BitVec 7) (b : BitVec 7) (bs : BitVec 2) (m : Bool) : Statement (.sub t d a b bs m) := by
  have h0 := bitOf_lt t
  have h1 := d.isLt
  have h2 := a.isLt
  have h3 := b.isLt
  have h4 := bs.isLt
  have h5 := bitOf_lt m
  show 33554432 + bitOf t * 16777216 + d.toNat * 131072 + a.toNat * 1024 + b.toNat * 8 + bs.toNat * 2 + bitOf m < 2 ^ 32
  omega

theorem mul (t : Bool) (d : BitVec 7) (a : BitVec 7) (b : BitVec 7) (bs : BitVec 2) : Statement (.mul t d a b bs) := by
  have h0 := bitOf_lt t
  have h1 := d.isLt
  have h2 := a.isLt
  have h3 := b.isLt
  have h4 := bs.isLt
  show 67108864 + bitOf t * 16777216 + d.toNat * 131072 + a.toNat * 1024 + b.toNat * 8 + bs.toNat * 2 < 2 ^ 32
  omega

theorem mulhi (t : Bool) (d : BitVec 7) (a : BitVec 7) (b : BitVec 7) (bs : BitVec 2) (m : Bool) : Statement (.mulhi t d a b bs m) := by
  have h0 := bitOf_lt t
  have h1 := d.isLt
  have h2 := a.isLt
  have h3 := b.isLt
  have h4 := bs.isLt
  have h5 := bitOf_lt m
  show 100663296 + bitOf t * 16777216 + d.toNat * 131072 + a.toNat * 1024 + b.toNat * 8 + bs.toNat * 2 + bitOf m < 2 ^ 32
  omega

theorem imad (t : Bool) (d : BitVec 7) (a : BitVec 7) (b : BitVec 7) (bs : BitVec 2) : Statement (.imad t d a b bs) := by
  have h0 := bitOf_lt t
  have h1 := d.isLt
  have h2 := a.isLt
  have h3 := b.isLt
  have h4 := bs.isLt
  show 134217728 + bitOf t * 16777216 + d.toNat * 131072 + a.toNat * 1024 + b.toNat * 8 + bs.toNat * 2 < 2 ^ 32
  omega

theorem and (t : Bool) (d : BitVec 7) (a : BitVec 7) (b : BitVec 7) (bs : BitVec 2) : Statement (.and t d a b bs) := by
  have h0 := bitOf_lt t
  have h1 := d.isLt
  have h2 := a.isLt
  have h3 := b.isLt
  have h4 := bs.isLt
  show 167772160 + bitOf t * 16777216 + d.toNat * 131072 + a.toNat * 1024 + b.toNat * 8 + bs.toNat * 2 < 2 ^ 32
  omega

theorem or (t : Bool) (d : BitVec 7) (a : BitVec 7) (b : BitVec 7) (bs : BitVec 2) : Statement (.or t d a b bs) := by
  have h0 := bitOf_lt t
  have h1 := d.isLt
  have h2 := a.isLt
  have h3 := b.isLt
  have h4 := bs.isLt
  show 201326592 + bitOf t * 16777216 + d.toNat * 131072 + a.toNat * 1024 + b.toNat * 8 + bs.toNat * 2 < 2 ^ 32
  omega

theorem xor (t : Bool) (d : BitVec 7) (a : BitVec 7) (b : BitVec 7) (bs : BitVec 2) : Statement (.xor t d a b bs) := by
  have h0 := bitOf_lt t
  have h1 := d.isLt
  have h2 := a.isLt
  have h3 := b.isLt
  have h4 := bs.isLt
  show 234881024 + bitOf t * 16777216 + d.toNat * 131072 + a.toNat * 1024 + b.toNat * 8 + bs.toNat * 2 < 2 ^ 32
  omega

theorem shl (t : Bool) (d : BitVec 7) (a : BitVec 7) (b : BitVec 7) (bs : BitVec 2) : Statement (.shl t d a b bs) := by
  have h0 := bitOf_lt t
  have h1 := d.isLt
  have h2 := a.isLt
  have h3 := b.isLt
  have h4 := bs.isLt
  show 268435456 + bitOf t * 16777216 + d.toNat * 131072 + a.toNat * 1024 + b.toNat * 8 + bs.toNat * 2 < 2 ^ 32
  omega

theorem shr (t : Bool) (d : BitVec 7) (a : BitVec 7) (b : BitVec 7) (bs : BitVec 2) (m : Bool) : Statement (.shr t d a b bs m) := by
  have h0 := bitOf_lt t
  have h1 := d.isLt
  have h2 := a.isLt
  have h3 := b.isLt
  have h4 := bs.isLt
  have h5 := bitOf_lt m
  show 301989888 + bitOf t * 16777216 + d.toNat * 131072 + a.toNat * 1024 + b.toNat * 8 + bs.toNat * 2 + bitOf m < 2 ^ 32
  omega

theorem min (t : Bool) (d : BitVec 7) (a : BitVec 7) (b : BitVec 7) (bs : BitVec 2) (m : Bool) : Statement (.min t d a b bs m) := by
  have h0 := bitOf_lt t
  have h1 := d.isLt
  have h2 := a.isLt
  have h3 := b.isLt
  have h4 := bs.isLt
  have h5 := bitOf_lt m
  show 335544320 + bitOf t * 16777216 + d.toNat * 131072 + a.toNat * 1024 + b.toNat * 8 + bs.toNat * 2 + bitOf m < 2 ^ 32
  omega

theorem max (t : Bool) (d : BitVec 7) (a : BitVec 7) (b : BitVec 7) (bs : BitVec 2) (m : Bool) : Statement (.max t d a b bs m) := by
  have h0 := bitOf_lt t
  have h1 := d.isLt
  have h2 := a.isLt
  have h3 := b.isLt
  have h4 := bs.isLt
  have h5 := bitOf_lt m
  show 369098752 + bitOf t * 16777216 + d.toNat * 131072 + a.toNat * 1024 + b.toNat * 8 + bs.toNat * 2 + bitOf m < 2 ^ 32
  omega

theorem icmp (t : Bool) (c : BitVec 4) (p : BitVec 3) (a : BitVec 7) (b : BitVec 7) (bs : BitVec 2) : Statement (.icmp t c p a b bs) := by
  have h0 := bitOf_lt t
  have h1 := c.isLt
  have h2 := p.isLt
  have h3 := a.isLt
  have h4 := b.isLt
  have h5 := bs.isLt
  show 402653184 + bitOf t * 16777216 + c.toNat * 1048576 + p.toNat * 131072 + a.toNat * 1024 + b.toNat * 8 + bs.toNat * 2 < 2 ^ 32
  omega

theorem sel (t : Bool) (d : BitVec 7) (a : BitVec 7) (b : BitVec 7) (p : BitVec 3) : Statement (.sel t d a b p) := by
  have h0 := bitOf_lt t
  have h1 := d.isLt
  have h2 := a.isLt
  have h3 := b.isLt
  have h4 := p.isLt
  show 436207616 + bitOf t * 16777216 + d.toNat * 131072 + a.toNat * 1024 + b.toNat * 8 + p.toNat < 2 ^ 32
  omega

theorem bfx (t : Bool) (d : BitVec 7) (a : BitVec 7) (b : BitVec 7) (bs : BitVec 2) : Statement (.bfx t d a b bs) := by
  have h0 := bitOf_lt t
  have h1 := d.isLt
  have h2 := a.isLt
  have h3 := b.isLt
  have h4 := bs.isLt
  show 469762048 + bitOf t * 16777216 + d.toNat * 131072 + a.toNat * 1024 + b.toNat * 8 + bs.toNat * 2 < 2 ^ 32
  omega

theorem bfi (t : Bool) (d : BitVec 7) (a : BitVec 7) (b : BitVec 7) (bs : BitVec 2) : Statement (.bfi t d a b bs) := by
  have h0 := bitOf_lt t
  have h1 := d.isLt
  have h2 := a.isLt
  have h3 := b.isLt
  have h4 := bs.isLt
  show 469762049 + bitOf t * 16777216 + d.toNat * 131072 + a.toNat * 1024 + b.toNat * 8 + bs.toNat * 2 < 2 ^ 32
  omega

theorem iun (t : Bool) (d : BitVec 7) (a : BitVec 7) (f : BitVec 7) (m : Bool) : Statement (.iun t d a f m) := by
  have h0 := bitOf_lt t
  have h1 := d.isLt
  have h2 := a.isLt
  have h3 := f.isLt
  have h4 := bitOf_lt m
  show 503316480 + bitOf t * 16777216 + d.toNat * 131072 + a.toNat * 1024 + f.toNat * 8 + bitOf m < 2 ^ 32
  omega

theorem addi (t : Bool) (d : BitVec 7) (a : BitVec 7) (imm : BitVec 10) : Statement (.addi t d a imm) := by
  have h0 := bitOf_lt t
  have h1 := d.isLt
  have h2 := a.isLt
  have h3 := imm.isLt
  show 536870912 + bitOf t * 16777216 + d.toNat * 131072 + a.toNat * 1024 + imm.toNat < 2 ^ 32
  omega

theorem andi (t : Bool) (d : BitVec 7) (a : BitVec 7) (imm : BitVec 10) : Statement (.andi t d a imm) := by
  have h0 := bitOf_lt t
  have h1 := d.isLt
  have h2 := a.isLt
  have h3 := imm.isLt
  show 570425344 + bitOf t * 16777216 + d.toNat * 131072 + a.toNat * 1024 + imm.toNat < 2 ^ 32
  omega

theorem ori (t : Bool) (d : BitVec 7) (a : BitVec 7) (imm : BitVec 10) : Statement (.ori t d a imm) := by
  have h0 := bitOf_lt t
  have h1 := d.isLt
  have h2 := a.isLt
  have h3 := imm.isLt
  show 603979776 + bitOf t * 16777216 + d.toNat * 131072 + a.toNat * 1024 + imm.toNat < 2 ^ 32
  omega

theorem xori (t : Bool) (d : BitVec 7) (a : BitVec 7) (imm : BitVec 10) : Statement (.xori t d a imm) := by
  have h0 := bitOf_lt t
  have h1 := d.isLt
  have h2 := a.isLt
  have h3 := imm.isLt
  show 637534208 + bitOf t * 16777216 + d.toNat * 131072 + a.toNat * 1024 + imm.toNat < 2 ^ 32
  omega

theorem shli (t : Bool) (d : BitVec 7) (a : BitVec 7) (imm : BitVec 5) : Statement (.shli t d a imm) := by
  have h0 := bitOf_lt t
  have h1 := d.isLt
  have h2 := a.isLt
  have h3 := imm.isLt
  show 671088640 + bitOf t * 16777216 + d.toNat * 131072 + a.toNat * 1024 + imm.toNat < 2 ^ 32
  omega

theorem shri (t : Bool) (d : BitVec 7) (a : BitVec 7) (x : Bool) (imm : BitVec 5) : Statement (.shri t d a x imm) := by
  have h0 := bitOf_lt t
  have h1 := d.isLt
  have h2 := a.isLt
  have h3 := bitOf_lt x
  have h4 := imm.isLt
  show 704643072 + bitOf t * 16777216 + d.toNat * 131072 + a.toNat * 1024 + bitOf x * 512 + imm.toNat < 2 ^ 32
  omega

theorem movi (t : Bool) (d : BitVec 7) (imm : BitVec 17) : Statement (.movi t d imm) := by
  have h0 := bitOf_lt t
  have h1 := d.isLt
  have h2 := imm.isLt
  show 738197504 + bitOf t * 16777216 + d.toNat * 131072 + imm.toNat < 2 ^ 32
  omega

theorem icmpi (t : Bool) (c : BitVec 4) (p : BitVec 3) (a : BitVec 7) (imm : BitVec 10) : Statement (.icmpi t c p a imm) := by
  have h0 := bitOf_lt t
  have h1 := c.isLt
  have h2 := p.isLt
  have h3 := a.isLt
  have h4 := imm.isLt
  show 771751936 + bitOf t * 16777216 + c.toNat * 1048576 + p.toNat * 131072 + a.toNat * 1024 + imm.toNat < 2 ^ 32
  omega

theorem fadd (t : Bool) (d : BitVec 7) (a : BitVec 7) (b : BitVec 7) (bs : BitVec 2) : Statement (.fadd t d a b bs) := by
  have h0 := bitOf_lt t
  have h1 := d.isLt
  have h2 := a.isLt
  have h3 := b.isLt
  have h4 := bs.isLt
  show 805306368 + bitOf t * 16777216 + d.toNat * 131072 + a.toNat * 1024 + b.toNat * 8 + bs.toNat * 2 < 2 ^ 32
  omega

theorem fsub (t : Bool) (d : BitVec 7) (a : BitVec 7) (b : BitVec 7) (bs : BitVec 2) : Statement (.fsub t d a b bs) := by
  have h0 := bitOf_lt t
  have h1 := d.isLt
  have h2 := a.isLt
  have h3 := b.isLt
  have h4 := bs.isLt
  show 838860800 + bitOf t * 16777216 + d.toNat * 131072 + a.toNat * 1024 + b.toNat * 8 + bs.toNat * 2 < 2 ^ 32
  omega

theorem fmul (t : Bool) (d : BitVec 7) (a : BitVec 7) (b : BitVec 7) (bs : BitVec 2) : Statement (.fmul t d a b bs) := by
  have h0 := bitOf_lt t
  have h1 := d.isLt
  have h2 := a.isLt
  have h3 := b.isLt
  have h4 := bs.isLt
  show 872415232 + bitOf t * 16777216 + d.toNat * 131072 + a.toNat * 1024 + b.toNat * 8 + bs.toNat * 2 < 2 ^ 32
  omega

theorem ffma (t : Bool) (d : BitVec 7) (a : BitVec 7) (b : BitVec 7) (bs : BitVec 2) : Statement (.ffma t d a b bs) := by
  have h0 := bitOf_lt t
  have h1 := d.isLt
  have h2 := a.isLt
  have h3 := b.isLt
  have h4 := bs.isLt
  show 905969664 + bitOf t * 16777216 + d.toNat * 131072 + a.toNat * 1024 + b.toNat * 8 + bs.toNat * 2 < 2 ^ 32
  omega

theorem fmin (t : Bool) (d : BitVec 7) (a : BitVec 7) (b : BitVec 7) (bs : BitVec 2) : Statement (.fmin t d a b bs) := by
  have h0 := bitOf_lt t
  have h1 := d.isLt
  have h2 := a.isLt
  have h3 := b.isLt
  have h4 := bs.isLt
  show 939524096 + bitOf t * 16777216 + d.toNat * 131072 + a.toNat * 1024 + b.toNat * 8 + bs.toNat * 2 < 2 ^ 32
  omega

theorem fmax (t : Bool) (d : BitVec 7) (a : BitVec 7) (b : BitVec 7) (bs : BitVec 2) : Statement (.fmax t d a b bs) := by
  have h0 := bitOf_lt t
  have h1 := d.isLt
  have h2 := a.isLt
  have h3 := b.isLt
  have h4 := bs.isLt
  show 973078528 + bitOf t * 16777216 + d.toNat * 131072 + a.toNat * 1024 + b.toNat * 8 + bs.toNat * 2 < 2 ^ 32
  omega

theorem fcmp (t : Bool) (c : BitVec 4) (p : BitVec 3) (a : BitVec 7) (b : BitVec 7) (bs : BitVec 2) : Statement (.fcmp t c p a b bs) := by
  have h0 := bitOf_lt t
  have h1 := c.isLt
  have h2 := p.isLt
  have h3 := a.isLt
  have h4 := b.isLt
  have h5 := bs.isLt
  show 1006632960 + bitOf t * 16777216 + c.toNat * 1048576 + p.toNat * 131072 + a.toNat * 1024 + b.toNat * 8 + bs.toNat * 2 < 2 ^ 32
  omega

theorem sfu (t : Bool) (d : BitVec 7) (a : BitVec 7) (f : BitVec 7) : Statement (.sfu t d a f) := by
  have h0 := bitOf_lt t
  have h1 := d.isLt
  have h2 := a.isLt
  have h3 := f.isLt
  show 1040187392 + bitOf t * 16777216 + d.toNat * 131072 + a.toNat * 1024 + f.toNat * 8 < 2 ^ 32
  omega

theorem cvt (t : Bool) (d : BitVec 7) (a : BitVec 7) (k : BitVec 4) (r : BitVec 3) (m : Bool) : Statement (.cvt t d a k r m) := by
  have h0 := bitOf_lt t
  have h1 := d.isLt
  have h2 := a.isLt
  have h3 := k.isLt
  have h4 := r.isLt
  have h5 := bitOf_lt m
  show 1073741824 + bitOf t * 16777216 + d.toNat * 131072 + a.toNat * 1024 + k.toNat * 64 + r.toNat * 8 + bitOf m < 2 ^ 32
  omega

theorem hadd2 (t : Bool) (d : BitVec 7) (a : BitVec 7) (b : BitVec 7) (bs : BitVec 2) (m : Bool) : Statement (.hadd2 t d a b bs m) := by
  have h0 := bitOf_lt t
  have h1 := d.isLt
  have h2 := a.isLt
  have h3 := b.isLt
  have h4 := bs.isLt
  have h5 := bitOf_lt m
  show 1107296256 + bitOf t * 16777216 + d.toNat * 131072 + a.toNat * 1024 + b.toNat * 8 + bs.toNat * 2 + bitOf m < 2 ^ 32
  omega

theorem hmul2 (t : Bool) (d : BitVec 7) (a : BitVec 7) (b : BitVec 7) (bs : BitVec 2) (m : Bool) : Statement (.hmul2 t d a b bs m) := by
  have h0 := bitOf_lt t
  have h1 := d.isLt
  have h2 := a.isLt
  have h3 := b.isLt
  have h4 := bs.isLt
  have h5 := bitOf_lt m
  show 1140850688 + bitOf t * 16777216 + d.toNat * 131072 + a.toNat * 1024 + b.toNat * 8 + bs.toNat * 2 + bitOf m < 2 ^ 32
  omega

theorem hfma2 (t : Bool) (d : BitVec 7) (a : BitVec 7) (b : BitVec 7) (bs : BitVec 2) (m : Bool) : Statement (.hfma2 t d a b bs m) := by
  have h0 := bitOf_lt t
  have h1 := d.isLt
  have h2 := a.isLt
  have h3 := b.isLt
  have h4 := bs.isLt
  have h5 := bitOf_lt m
  show 1174405120 + bitOf t * 16777216 + d.toNat * 131072 + a.toNat * 1024 + b.toNat * 8 + bs.toNat * 2 + bitOf m < 2 ^ 32
  omega

theorem shflPick (t : Bool) (d : BitVec 7) (a : BitVec 7) (b : BitVec 7) (bs : BitVec 2) : Statement (.shflPick t d a b bs) := by
  have h0 := bitOf_lt t
  have h1 := d.isLt
  have h2 := a.isLt
  have h3 := b.isLt
  have h4 := bs.isLt
  show 1207959552 + bitOf t * 16777216 + d.toNat * 131072 + a.toNat * 1024 + b.toNat * 8 + bs.toNat * 2 < 2 ^ 32
  omega

theorem shflSwap (t : Bool) (d : BitVec 7) (a : BitVec 7) (b : BitVec 7) (bs : BitVec 2) : Statement (.shflSwap t d a b bs) := by
  have h0 := bitOf_lt t
  have h1 := d.isLt
  have h2 := a.isLt
  have h3 := b.isLt
  have h4 := bs.isLt
  show 1207959553 + bitOf t * 16777216 + d.toNat * 131072 + a.toNat * 1024 + b.toNat * 8 + bs.toNat * 2 < 2 ^ 32
  omega

theorem shflBack (t : Bool) (d : BitVec 7) (a : BitVec 7) (b : BitVec 7) (bs : BitVec 2) : Statement (.shflBack t d a b bs) := by
  have h0 := bitOf_lt t
  have h1 := d.isLt
  have h2 := a.isLt
  have h3 := b.isLt
  have h4 := bs.isLt
  show 1241513984 + bitOf t * 16777216 + d.toNat * 131072 + a.toNat * 1024 + b.toNat * 8 + bs.toNat * 2 < 2 ^ 32
  omega

theorem shflFwd (t : Bool) (d : BitVec 7) (a : BitVec 7) (b : BitVec 7) (bs : BitVec 2) : Statement (.shflFwd t d a b bs) := by
  have h0 := bitOf_lt t
  have h1 := d.isLt
  have h2 := a.isLt
  have h3 := b.isLt
  have h4 := bs.isLt
  show 1241513985 + bitOf t * 16777216 + d.toNat * 131072 + a.toNat * 1024 + b.toNat * 8 + bs.toNat * 2 < 2 ^ 32
  omega

theorem vote (t : Bool) (d : BitVec 6) (a : BitVec 7) (f : BitVec 7) (m : Bool) : Statement (.vote t d a f m) := by
  have h0 := bitOf_lt t
  have h1 := d.isLt
  have h2 := a.isLt
  have h3 := f.isLt
  have h4 := bitOf_lt m
  show 1275068416 + bitOf t * 16777216 + d.toNat * 131072 + a.toNat * 1024 + f.toNat * 8 + bitOf m < 2 ^ 32
  omega

theorem redux (t : Bool) (d : BitVec 6) (a : BitVec 7) (f : BitVec 7) : Statement (.redux t d a f) := by
  have h0 := bitOf_lt t
  have h1 := d.isLt
  have h2 := a.isLt
  have h3 := f.isLt
  show 1308622848 + bitOf t * 16777216 + d.toNat * 131072 + a.toNat * 1024 + f.toNat * 8 < 2 ^ 32
  omega

theorem contribution (t : Bool) (j : BitVec 6) (a : BitVec 7) (f : BitVec 7) : Statement (.contribution t j a f) := by
  have h0 := bitOf_lt t
  have h1 := j.isLt
  have h2 := a.isLt
  have h3 := f.isLt
  show 1317011456 + bitOf t * 16777216 + j.toNat * 131072 + a.toNat * 1024 + f.toNat * 8 < 2 ^ 32
  omega

theorem scan (t : Bool) (d : BitVec 7) (a : BitVec 7) (f : BitVec 7) (m : Bool) : Statement (.scan t d a f m) := by
  have h0 := bitOf_lt t
  have h1 := d.isLt
  have h2 := a.isLt
  have h3 := f.isLt
  have h4 := bitOf_lt m
  show 1342177280 + bitOf t * 16777216 + d.toNat * 131072 + a.toNat * 1024 + f.toNat * 8 + bitOf m < 2 ^ 32
  omega

theorem cmpx (t : Bool) (d : BitVec 7) (a : BitVec 7) (k : BitVec 3) (j : BitVec 3) (m : Bool) : Statement (.cmpx t d a k j m) := by
  have h0 := bitOf_lt t
  have h1 := d.isLt
  have h2 := a.isLt
  have h3 := k.isLt
  have h4 := j.isLt
  have h5 := bitOf_lt m
  show 1375731718 + bitOf t * 16777216 + d.toNat * 131072 + a.toNat * 1024 + k.toNat * 64 + j.toNat * 8 + bitOf m < 2 ^ 32
  omega

theorem jpt (o : BitVec 21) : Statement (.jpt o) := by
  have h0 := o.isLt
  show 1438646272 + o.toNat < 2 ^ 32
  omega

theorem brd (p : BitVec 3) (n : Bool) (o : BitVec 21) : Statement (.brd p n o) := by
  have h0 := p.isLt
  have h1 := bitOf_lt n
  have h2 := o.isLt
  show 1442840576 + p.toNat * 4194304 + bitOf n * 2097152 + o.toNat < 2 ^ 32
  omega

theorem regang (t : Bool) (imm : BitVec 10) : Statement (.regang t imm) := by
  have h0 := bitOf_lt t
  have h1 := imm.isLt
  show 1476395008 + bitOf t * 16777216 + imm.toNat < 2 ^ 32
  omega

theorem exit (p : BitVec 3) (n : Bool) : Statement (.exit p n) := by
  have h0 := p.isLt
  have h1 := bitOf_lt n
  show 1509949440 + p.toNat * 4194304 + bitOf n * 2097152 < 2 ^ 32
  omega

theorem bar (t : Bool) (y : BitVec 2) (k : BitVec 2) (n : BitVec 4) : Statement (.bar t y k n) := by
  have h0 := bitOf_lt t
  have h1 := y.isLt
  have h2 := k.isLt
  have h3 := n.isLt
  show 1543503872 + bitOf t * 16777216 + y.toNat * 64 + k.toNat * 16 + n.toNat < 2 ^ 32
  omega

theorem ld (t : Bool) (d : BitVec 7) (a : BitVec 7) (w : BitVec 6) (z : BitVec 2) (o : BitVec 2) : Statement (.ld t d a w z o) := by
  have h0 := bitOf_lt t
  have h1 := d.isLt
  have h2 := a.isLt
  have h3 := w.isLt
  have h4 := z.isLt
  have h5 := o.isLt
  show 1577058304 + bitOf t * 16777216 + d.toNat * 131072 + a.toNat * 1024 + w.toNat * 16 + z.toNat * 4 + o.toNat < 2 ^ 32
  omega

theorem st (t : Bool) (d : BitVec 7) (a : BitVec 7) (w : BitVec 6) (z : BitVec 2) (o : BitVec 2) : Statement (.st t d a w z o) := by
  have h0 := bitOf_lt t
  have h1 := d.isLt
  have h2 := a.isLt
  have h3 := w.isLt
  have h4 := z.isLt
  have h5 := o.isLt
  show 1610612736 + bitOf t * 16777216 + d.toNat * 131072 + a.toNat * 1024 + w.toNat * 16 + z.toNat * 4 + o.toNat < 2 ^ 32
  omega

theorem lds (t : Bool) (d : BitVec 7) (a : BitVec 7) (w : BitVec 6) (z : BitVec 2) : Statement (.lds t d a w z) := by
  have h0 := bitOf_lt t
  have h1 := d.isLt
  have h2 := a.isLt
  have h3 := w.isLt
  have h4 := z.isLt
  show 1644167168 + bitOf t * 16777216 + d.toNat * 131072 + a.toNat * 1024 + w.toNat * 16 + z.toNat * 4 < 2 ^ 32
  omega

theorem sts (t : Bool) (d : BitVec 7) (a : BitVec 7) (w : BitVec 6) (z : BitVec 2) : Statement (.sts t d a w z) := by
  have h0 := bitOf_lt t
  have h1 := d.isLt
  have h2 := a.isLt
  have h3 := w.isLt
  have h4 := z.isLt
  show 1677721600 + bitOf t * 16777216 + d.toNat * 131072 + a.toNat * 1024 + w.toNat * 16 + z.toNat * 4 < 2 ^ 32
  omega

theorem ldp (t : Bool) (d : BitVec 7) (a : BitVec 7) (w : BitVec 6) (z : BitVec 2) : Statement (.ldp t d a w z) := by
  have h0 := bitOf_lt t
  have h1 := d.isLt
  have h2 := a.isLt
  have h3 := w.isLt
  have h4 := z.isLt
  show 1711276032 + bitOf t * 16777216 + d.toNat * 131072 + a.toNat * 1024 + w.toNat * 16 + z.toNat * 4 < 2 ^ 32
  omega

theorem stp (t : Bool) (d : BitVec 7) (a : BitVec 7) (w : BitVec 6) (z : BitVec 2) : Statement (.stp t d a w z) := by
  have h0 := bitOf_lt t
  have h1 := d.isLt
  have h2 := a.isLt
  have h3 := w.isLt
  have h4 := z.isLt
  show 1744830464 + bitOf t * 16777216 + d.toNat * 131072 + a.toNat * 1024 + w.toNat * 16 + z.toNat * 4 < 2 ^ 32
  omega

theorem atom (t : Bool) (d : BitVec 7) (a : BitVec 7) (w : BitVec 6) (c : BitVec 4) : Statement (.atom t d a w c) := by
  have h0 := bitOf_lt t
  have h1 := d.isLt
  have h2 := a.isLt
  have h3 := w.isLt
  have h4 := c.isLt
  show 1778384896 + bitOf t * 16777216 + d.toNat * 131072 + a.toNat * 1024 + w.toNat * 16 + c.toNat < 2 ^ 32
  omega

theorem red (t : Bool) (d : BitVec 7) (a : BitVec 7) (w : BitVec 6) (c : BitVec 4) : Statement (.red t d a w c) := by
  have h0 := bitOf_lt t
  have h1 := d.isLt
  have h2 := a.isLt
  have h3 := w.isLt
  have h4 := c.isLt
  show 1811939328 + bitOf t * 16777216 + d.toNat * 131072 + a.toNat * 1024 + w.toNat * 16 + c.toNat < 2 ^ 32
  omega

theorem xst (t : Bool) (d : BitVec 7) (a : BitVec 7) (w : BitVec 6) (z : BitVec 2) : Statement (.xst t d a w z) := by
  have h0 := bitOf_lt t
  have h1 := d.isLt
  have h2 := a.isLt
  have h3 := w.isLt
  have h4 := z.isLt
  show 1845493760 + bitOf t * 16777216 + d.toNat * 131072 + a.toNat * 1024 + w.toNat * 16 + z.toNat * 4 < 2 ^ 32
  omega

theorem svc (t : Bool) (imm : BitVec 10) : Statement (.svc t imm) := by
  have h0 := bitOf_lt t
  have h1 := imm.isLt
  show 1879048192 + bitOf t * 16777216 + imm.toNat < 2 ^ 32
  omega

theorem uadd (t : Bool) (d : BitVec 6) (a : BitVec 6) (b : BitVec 6) (bs : BitVec 2) (w : Bool) (f : BitVec 3) : Statement (.uadd t d a b bs w f) := by
  have h0 := bitOf_lt t
  have h1 := d.isLt
  have h2 := a.isLt
  have h3 := b.isLt
  have h4 := bs.isLt
  have h5 := bitOf_lt w
  have h6 := f.isLt
  show 2147483648 + bitOf t * 16777216 + d.toNat * 262144 + a.toNat * 4096 + b.toNat * 64 + bs.toNat * 16 + bitOf w * 8 + f.toNat < 2 ^ 32
  omega

theorem usub (t : Bool) (d : BitVec 6) (a : BitVec 6) (b : BitVec 6) (bs : BitVec 2) (w : Bool) (f : BitVec 3) : Statement (.usub t d a b bs w f) := by
  have h0 := bitOf_lt t
  have h1 := d.isLt
  have h2 := a.isLt
  have h3 := b.isLt
  have h4 := bs.isLt
  have h5 := bitOf_lt w
  have h6 := f.isLt
  show 2181038080 + bitOf t * 16777216 + d.toNat * 262144 + a.toNat * 4096 + b.toNat * 64 + bs.toNat * 16 + bitOf w * 8 + f.toNat < 2 ^ 32
  omega

theorem umul (t : Bool) (d : BitVec 6) (a : BitVec 6) (b : BitVec 6) (bs : BitVec 2) (w : Bool) : Statement (.umul t d a b bs w) := by
  have h0 := bitOf_lt t
  have h1 := d.isLt
  have h2 := a.isLt
  have h3 := b.isLt
  have h4 := bs.isLt
  have h5 := bitOf_lt w
  show 2214592512 + bitOf t * 16777216 + d.toNat * 262144 + a.toNat * 4096 + b.toNat * 64 + bs.toNat * 16 + bitOf w * 8 < 2 ^ 32
  omega

theorem umulh (t : Bool) (d : BitVec 6) (a : BitVec 6) (b : BitVec 6) (bs : BitVec 2) (w : Bool) (u : Bool) : Statement (.umulh t d a b bs w u) := by
  have h0 := bitOf_lt t
  have h1 := d.isLt
  have h2 := a.isLt
  have h3 := b.isLt
  have h4 := bs.isLt
  have h5 := bitOf_lt w
  have h6 := bitOf_lt u
  show 2248146944 + bitOf t * 16777216 + d.toNat * 262144 + a.toNat * 4096 + b.toNat * 64 + bs.toNat * 16 + bitOf w * 8 + bitOf u < 2 ^ 32
  omega

theorem udiv (t : Bool) (d : BitVec 6) (a : BitVec 6) (b : BitVec 6) (bs : BitVec 2) (w : Bool) (u : Bool) : Statement (.udiv t d a b bs w u) := by
  have h0 := bitOf_lt t
  have h1 := d.isLt
  have h2 := a.isLt
  have h3 := b.isLt
  have h4 := bs.isLt
  have h5 := bitOf_lt w
  have h6 := bitOf_lt u
  show 2281701376 + bitOf t * 16777216 + d.toNat * 262144 + a.toNat * 4096 + b.toNat * 64 + bs.toNat * 16 + bitOf w * 8 + bitOf u < 2 ^ 32
  omega

theorem urem (t : Bool) (d : BitVec 6) (a : BitVec 6) (b : BitVec 6) (bs : BitVec 2) (w : Bool) (u : Bool) : Statement (.urem t d a b bs w u) := by
  have h0 := bitOf_lt t
  have h1 := d.isLt
  have h2 := a.isLt
  have h3 := b.isLt
  have h4 := bs.isLt
  have h5 := bitOf_lt w
  have h6 := bitOf_lt u
  show 2315255808 + bitOf t * 16777216 + d.toNat * 262144 + a.toNat * 4096 + b.toNat * 64 + bs.toNat * 16 + bitOf w * 8 + bitOf u < 2 ^ 32
  omega

theorem uand (t : Bool) (d : BitVec 6) (a : BitVec 6) (b : BitVec 6) (bs : BitVec 2) : Statement (.uand t d a b bs) := by
  have h0 := bitOf_lt t
  have h1 := d.isLt
  have h2 := a.isLt
  have h3 := b.isLt
  have h4 := bs.isLt
  show 2348810240 + bitOf t * 16777216 + d.toNat * 262144 + a.toNat * 4096 + b.toNat * 64 + bs.toNat * 16 < 2 ^ 32
  omega

theorem uor (t : Bool) (d : BitVec 6) (a : BitVec 6) (b : BitVec 6) (bs : BitVec 2) : Statement (.uor t d a b bs) := by
  have h0 := bitOf_lt t
  have h1 := d.isLt
  have h2 := a.isLt
  have h3 := b.isLt
  have h4 := bs.isLt
  show 2382364672 + bitOf t * 16777216 + d.toNat * 262144 + a.toNat * 4096 + b.toNat * 64 + bs.toNat * 16 < 2 ^ 32
  omega

theorem uxor (t : Bool) (d : BitVec 6) (a : BitVec 6) (b : BitVec 6) (bs : BitVec 2) : Statement (.uxor t d a b bs) := by
  have h0 := bitOf_lt t
  have h1 := d.isLt
  have h2 := a.isLt
  have h3 := b.isLt
  have h4 := bs.isLt
  show 2415919104 + bitOf t * 16777216 + d.toNat * 262144 + a.toNat * 4096 + b.toNat * 64 + bs.toNat * 16 < 2 ^ 32
  omega

theorem ushl (t : Bool) (d : BitVec 6) (a : BitVec 6) (b : BitVec 6) (bs : BitVec 2) (w : Bool) : Statement (.ushl t d a b bs w) := by
  have h0 := bitOf_lt t
  have h1 := d.isLt
  have h2 := a.isLt
  have h3 := b.isLt
  have h4 := bs.isLt
  have h5 := bitOf_lt w
  show 2449473536 + bitOf t * 16777216 + d.toNat * 262144 + a.toNat * 4096 + b.toNat * 64 + bs.toNat * 16 + bitOf w * 8 < 2 ^ 32
  omega

theorem ushr (t : Bool) (d : BitVec 6) (a : BitVec 6) (b : BitVec 6) (bs : BitVec 2) (w : Bool) (u : Bool) : Statement (.ushr t d a b bs w u) := by
  have h0 := bitOf_lt t
  have h1 := d.isLt
  have h2 := a.isLt
  have h3 := b.isLt
  have h4 := bs.isLt
  have h5 := bitOf_lt w
  have h6 := bitOf_lt u
  show 2483027968 + bitOf t * 16777216 + d.toNat * 262144 + a.toNat * 4096 + b.toNat * 64 + bs.toNat * 16 + bitOf w * 8 + bitOf u < 2 ^ 32
  omega

theorem umin (t : Bool) (d : BitVec 6) (a : BitVec 6) (b : BitVec 6) (bs : BitVec 2) (u : Bool) : Statement (.umin t d a b bs u) := by
  have h0 := bitOf_lt t
  have h1 := d.isLt
  have h2 := a.isLt
  have h3 := b.isLt
  have h4 := bs.isLt
  have h5 := bitOf_lt u
  show 2516582400 + bitOf t * 16777216 + d.toNat * 262144 + a.toNat * 4096 + b.toNat * 64 + bs.toNat * 16 + bitOf u < 2 ^ 32
  omega

theorem umax (t : Bool) (d : BitVec 6) (a : BitVec 6) (b : BitVec 6) (bs : BitVec 2) (u : Bool) : Statement (.umax t d a b bs u) := by
  have h0 := bitOf_lt t
  have h1 := d.isLt
  have h2 := a.isLt
  have h3 := b.isLt
  have h4 := bs.isLt
  have h5 := bitOf_lt u
  show 2550136832 + bitOf t * 16777216 + d.toNat * 262144 + a.toNat * 4096 + b.toNat * 64 + bs.toNat * 16 + bitOf u < 2 ^ 32
  omega

theorem ucmp (t : Bool) (k : BitVec 3) (a : BitVec 6) (b : BitVec 6) (bs : BitVec 2) (c : BitVec 4) : Statement (.ucmp t k a b bs c) := by
  have h0 := bitOf_lt t
  have h1 := k.isLt
  have h2 := a.isLt
  have h3 := b.isLt
  have h4 := bs.isLt
  have h5 := c.isLt
  show 2583691264 + bitOf t * 16777216 + k.toNat * 262144 + a.toNat * 4096 + b.toNat * 64 + bs.toNat * 16 + c.toNat < 2 ^ 32
  omega

theorem usel (t : Bool) (d : BitVec 6) (a : BitVec 6) (b : BitVec 6) (bs : BitVec 2) (k : BitVec 3) : Statement (.usel t d a b bs k) := by
  have h0 := bitOf_lt t
  have h1 := d.isLt
  have h2 := a.isLt
  have h3 := b.isLt
  have h4 := bs.isLt
  have h5 := k.isLt
  show 2617245696 + bitOf t * 16777216 + d.toNat * 262144 + a.toNat * 4096 + b.toNat * 64 + bs.toNat * 16 + k.toNat < 2 ^ 32
  omega

theorem uun (t : Bool) (d : BitVec 6) (a : BitVec 6) (f : BitVec 6) (w : Bool) : Statement (.uun t d a f w) := by
  have h0 := bitOf_lt t
  have h1 := d.isLt
  have h2 := a.isLt
  have h3 := f.isLt
  have h4 := bitOf_lt w
  show 2650800128 + bitOf t * 16777216 + d.toNat * 262144 + a.toNat * 4096 + f.toNat * 64 + bitOf w * 8 < 2 ^ 32
  omega

theorem uaddi (t : Bool) (d : BitVec 6) (a : BitVec 6) (imm : BitVec 12) : Statement (.uaddi t d a imm) := by
  have h0 := bitOf_lt t
  have h1 := d.isLt
  have h2 := a.isLt
  have h3 := imm.isLt
  show 2684354560 + bitOf t * 16777216 + d.toNat * 262144 + a.toNat * 4096 + imm.toNat < 2 ^ 32
  omega

theorem uandi (t : Bool) (d : BitVec 6) (a : BitVec 6) (imm : BitVec 12) : Statement (.uandi t d a imm) := by
  have h0 := bitOf_lt t
  have h1 := d.isLt
  have h2 := a.isLt
  have h3 := imm.isLt
  show 2717908992 + bitOf t * 16777216 + d.toNat * 262144 + a.toNat * 4096 + imm.toNat < 2 ^ 32
  omega

theorem uori (t : Bool) (d : BitVec 6) (a : BitVec 6) (imm : BitVec 12) : Statement (.uori t d a imm) := by
  have h0 := bitOf_lt t
  have h1 := d.isLt
  have h2 := a.isLt
  have h3 := imm.isLt
  show 2751463424 + bitOf t * 16777216 + d.toNat * 262144 + a.toNat * 4096 + imm.toNat < 2 ^ 32
  omega

theorem uxori (t : Bool) (d : BitVec 6) (a : BitVec 6) (imm : BitVec 12) : Statement (.uxori t d a imm) := by
  have h0 := bitOf_lt t
  have h1 := d.isLt
  have h2 := a.isLt
  have h3 := imm.isLt
  show 2785017856 + bitOf t * 16777216 + d.toNat * 262144 + a.toNat * 4096 + imm.toNat < 2 ^ 32
  omega

theorem ushli (t : Bool) (d : BitVec 6) (a : BitVec 6) (imm : BitVec 6) : Statement (.ushli t d a imm) := by
  have h0 := bitOf_lt t
  have h1 := d.isLt
  have h2 := a.isLt
  have h3 := imm.isLt
  show 2818572288 + bitOf t * 16777216 + d.toNat * 262144 + a.toNat * 4096 + imm.toNat < 2 ^ 32
  omega

theorem ushri (t : Bool) (d : BitVec 6) (a : BitVec 6) (x : Bool) (imm : BitVec 6) : Statement (.ushri t d a x imm) := by
  have h0 := bitOf_lt t
  have h1 := d.isLt
  have h2 := a.isLt
  have h3 := bitOf_lt x
  have h4 := imm.isLt
  show 2852126720 + bitOf t * 16777216 + d.toNat * 262144 + a.toNat * 4096 + bitOf x * 64 + imm.toNat < 2 ^ 32
  omega

theorem umovi (t : Bool) (d : BitVec 6) (imm : BitVec 18) : Statement (.umovi t d imm) := by
  have h0 := bitOf_lt t
  have h1 := d.isLt
  have h2 := imm.isLt
  show 2885681152 + bitOf t * 16777216 + d.toNat * 262144 + imm.toNat < 2 ^ 32
  omega

theorem ucmpi (t : Bool) (k : BitVec 3) (a : BitVec 6) (c : BitVec 4) (imm : BitVec 8) : Statement (.ucmpi t k a c imm) := by
  have h0 := bitOf_lt t
  have h1 := k.isLt
  have h2 := a.isLt
  have h3 := c.isLt
  have h4 := imm.isLt
  show 2919235584 + bitOf t * 16777216 + k.toNat * 262144 + a.toNat * 4096 + c.toNat * 256 + imm.toNat < 2 ^ 32
  omega

theorem ufadd (t : Bool) (d : BitVec 6) (a : BitVec 6) (b : BitVec 6) (bs : BitVec 2) (p : Bool) (r : BitVec 3) : Statement (.ufadd t d a b bs p r) := by
  have h0 := bitOf_lt t
  have h1 := d.isLt
  have h2 := a.isLt
  have h3 := b.isLt
  have h4 := bs.isLt
  have h5 := bitOf_lt p
  have h6 := r.isLt
  show 2952790016 + bitOf t * 16777216 + d.toNat * 262144 + a.toNat * 4096 + b.toNat * 64 + bs.toNat * 16 + bitOf p * 8 + r.toNat < 2 ^ 32
  omega

theorem ufsub (t : Bool) (d : BitVec 6) (a : BitVec 6) (b : BitVec 6) (bs : BitVec 2) (p : Bool) (r : BitVec 3) : Statement (.ufsub t d a b bs p r) := by
  have h0 := bitOf_lt t
  have h1 := d.isLt
  have h2 := a.isLt
  have h3 := b.isLt
  have h4 := bs.isLt
  have h5 := bitOf_lt p
  have h6 := r.isLt
  show 2986344448 + bitOf t * 16777216 + d.toNat * 262144 + a.toNat * 4096 + b.toNat * 64 + bs.toNat * 16 + bitOf p * 8 + r.toNat < 2 ^ 32
  omega

theorem ufmul (t : Bool) (d : BitVec 6) (a : BitVec 6) (b : BitVec 6) (bs : BitVec 2) (p : Bool) (r : BitVec 3) : Statement (.ufmul t d a b bs p r) := by
  have h0 := bitOf_lt t
  have h1 := d.isLt
  have h2 := a.isLt
  have h3 := b.isLt
  have h4 := bs.isLt
  have h5 := bitOf_lt p
  have h6 := r.isLt
  show 3019898880 + bitOf t * 16777216 + d.toNat * 262144 + a.toNat * 4096 + b.toNat * 64 + bs.toNat * 16 + bitOf p * 8 + r.toNat < 2 ^ 32
  omega

theorem uffma (t : Bool) (d : BitVec 6) (a : BitVec 6) (b : BitVec 6) (bs : BitVec 2) (p : Bool) (r : BitVec 3) : Statement (.uffma t d a b bs p r) := by
  have h0 := bitOf_lt t
  have h1 := d.isLt
  have h2 := a.isLt
  have h3 := b.isLt
  have h4 := bs.isLt
  have h5 := bitOf_lt p
  have h6 := r.isLt
  show 3053453312 + bitOf t * 16777216 + d.toNat * 262144 + a.toNat * 4096 + b.toNat * 64 + bs.toNat * 16 + bitOf p * 8 + r.toNat < 2 ^ 32
  omega

theorem ufdiv (t : Bool) (d : BitVec 6) (a : BitVec 6) (b : BitVec 6) (bs : BitVec 2) (p : Bool) (r : BitVec 3) : Statement (.ufdiv t d a b bs p r) := by
  have h0 := bitOf_lt t
  have h1 := d.isLt
  have h2 := a.isLt
  have h3 := b.isLt
  have h4 := bs.isLt
  have h5 := bitOf_lt p
  have h6 := r.isLt
  show 3087007744 + bitOf t * 16777216 + d.toNat * 262144 + a.toNat * 4096 + b.toNat * 64 + bs.toNat * 16 + bitOf p * 8 + r.toNat < 2 ^ 32
  omega

theorem ufun (t : Bool) (d : BitVec 6) (a : BitVec 6) (f : BitVec 6) (p : Bool) (r : BitVec 3) : Statement (.ufun t d a f p r) := by
  have h0 := bitOf_lt t
  have h1 := d.isLt
  have h2 := a.isLt
  have h3 := f.isLt
  have h4 := bitOf_lt p
  have h5 := r.isLt
  show 3120562176 + bitOf t * 16777216 + d.toNat * 262144 + a.toNat * 4096 + f.toNat * 64 + bitOf p * 8 + r.toNat < 2 ^ 32
  omega

theorem ufcmp (t : Bool) (k : BitVec 3) (a : BitVec 6) (b : BitVec 6) (bs : BitVec 2) (p : Bool) (c : BitVec 3) : Statement (.ufcmp t k a b bs p c) := by
  have h0 := bitOf_lt t
  have h1 := k.isLt
  have h2 := a.isLt
  have h3 := b.isLt
  have h4 := bs.isLt
  have h5 := bitOf_lt p
  have h6 := c.isLt
  show 3154116608 + bitOf t * 16777216 + k.toNat * 262144 + a.toNat * 4096 + b.toNat * 64 + bs.toNat * 16 + bitOf p * 8 + c.toNat < 2 ^ 32
  omega

theorem ufcvt (t : Bool) (d : BitVec 6) (a : BitVec 6) (f : BitVec 6) (r : BitVec 3) : Statement (.ufcvt t d a f r) := by
  have h0 := bitOf_lt t
  have h1 := d.isLt
  have h2 := a.isLt
  have h3 := f.isLt
  have h4 := r.isLt
  show 3187671040 + bitOf t * 16777216 + d.toNat * 262144 + a.toNat * 4096 + f.toNat * 64 + r.toNat < 2 ^ 32
  omega

theorem uld (t : Bool) (d : BitVec 6) (a : BitVec 6) (o : BitVec 8) (z : BitVec 2) (q : BitVec 2) : Statement (.uld t d a o z q) := by
  have h0 := bitOf_lt t
  have h1 := d.isLt
  have h2 := a.isLt
  have h3 := o.isLt
  have h4 := z.isLt
  have h5 := q.isLt
  show 3221225472 + bitOf t * 16777216 + d.toNat * 262144 + a.toNat * 4096 + o.toNat * 16 + z.toNat * 4 + q.toNat < 2 ^ 32
  omega

theorem ust (t : Bool) (d : BitVec 6) (a : BitVec 6) (o : BitVec 8) (z : BitVec 2) (q : BitVec 2) : Statement (.ust t d a o z q) := by
  have h0 := bitOf_lt t
  have h1 := d.isLt
  have h2 := a.isLt
  have h3 := o.isLt
  have h4 := z.isLt
  have h5 := q.isLt
  show 3254779904 + bitOf t * 16777216 + d.toNat * 262144 + a.toNat * 4096 + o.toNat * 16 + z.toNat * 4 + q.toNat < 2 ^ 32
  omega

theorem uamo (t : Bool) (d : BitVec 6) (a : BitVec 6) (b : BitVec 6) (c : BitVec 4) (q : BitVec 2) : Statement (.uamo t d a b c q) := by
  have h0 := bitOf_lt t
  have h1 := d.isLt
  have h2 := a.isLt
  have h3 := b.isLt
  have h4 := c.isLt
  have h5 := q.isLt
  show 3288334336 + bitOf t * 16777216 + d.toNat * 262144 + a.toNat * 4096 + b.toNat * 64 + c.toNat * 4 + q.toNat < 2 ^ 32
  omega

theorem fence (t : Bool) (y : Bool) (sc : BitVec 3) (k : BitVec 2) : Statement (.fence t y sc k) := by
  have h0 := bitOf_lt t
  have h1 := bitOf_lt y
  have h2 := sc.isLt
  have h3 := k.isLt
  show 3321888768 + bitOf t * 16777216 + bitOf y * 32 + sc.toNat * 4 + k.toNat < 2 ^ 32
  omega

theorem cache (t : Bool) (a : BitVec 6) (f : BitVec 6) : Statement (.cache t a f) := by
  have h0 := bitOf_lt t
  have h1 := a.isLt
  have h2 := f.isLt
  show 3355443200 + bitOf t * 16777216 + a.toNat * 4096 + f.toNat < 2 ^ 32
  omega

theorem jwr (t : Bool) (d : BitVec 6) (a : BitVec 6) (m : BitVec 4) (c : BitVec 8) : Statement (.jwr t d a m c) := by
  have h0 := bitOf_lt t
  have h1 := d.isLt
  have h2 := a.isLt
  have h3 := m.isLt
  have h4 := c.isLt
  show 3388997632 + bitOf t * 16777216 + d.toNat * 262144 + a.toNat * 4096 + m.toNat * 256 + c.toNat < 2 ^ 32
  omega

theorem jrd (t : Bool) (d : BitVec 6) (a : BitVec 6) : Statement (.jrd t d a) := by
  have h0 := bitOf_lt t
  have h1 := d.isLt
  have h2 := a.isLt
  show 3422552064 + bitOf t * 16777216 + d.toNat * 262144 + a.toNat * 4096 < 2 ^ 32
  omega

theorem jrel (t : Bool) (a : BitVec 6) : Statement (.jrel t a) := by
  have h0 := bitOf_lt t
  have h1 := a.isLt
  show 3456106496 + bitOf t * 16777216 + a.toNat * 4096 < 2 ^ 32
  omega

theorem bra (k : BitVec 3) (n : Bool) (o : BitVec 21) : Statement (.bra k n o) := by
  have h0 := k.isLt
  have h1 := bitOf_lt n
  have h2 := o.isLt
  show 3489660928 + k.toNat * 4194304 + bitOf n * 2097152 + o.toNat < 2 ^ 32
  omega

theorem call (o : BitVec 21) : Statement (.call o) := by
  have h0 := o.isLt
  show 3552575488 + o.toNat < 2 ^ 32
  omega

theorem jmpr (t : Bool) (a : BitVec 6) (l : BitVec 12) : Statement (.jmpr t a l) := by
  have h0 := bitOf_lt t
  have h1 := a.isLt
  have h2 := l.isLt
  show 3556769792 + bitOf t * 16777216 + a.toNat * 4096 + l.toNat < 2 ^ 32
  omega

theorem jmpt (t : Bool) (a : BitVec 6) (n : BitVec 12) : Statement (.jmpt t a n) := by
  have h0 := bitOf_lt t
  have h1 := a.isLt
  have h2 := n.isLt
  show 3590324224 + bitOf t * 16777216 + a.toNat * 4096 + n.toNat < 2 ^ 32
  omega

theorem lpad (t : Bool) (l : BitVec 12) : Statement (.lpad t l) := by
  have h0 := bitOf_lt t
  have h1 := l.isLt
  show 3623878656 + bitOf t * 16777216 + l.toNat < 2 ^ 32
  omega

theorem spawn (t : Bool) (d : BitVec 6) (a : BitVec 6) (imm : Bool) (g : Bool) (c : Bool) (v : Bool) : Statement (.spawn t d a imm g c v) := by
  have h0 := bitOf_lt t
  have h1 := d.isLt
  have h2 := a.isLt
  have h3 := bitOf_lt imm
  have h4 := bitOf_lt g
  have h5 := bitOf_lt c
  have h6 := bitOf_lt v
  show 3657433088 + bitOf t * 16777216 + d.toNat * 262144 + a.toNat * 4096 + bitOf imm * 8 + bitOf g * 4 + bitOf c * 2 + bitOf v < 2 ^ 32
  omega

theorem join (t : Bool) (d : BitVec 6) (a : BitVec 6) (b : BitVec 6) : Statement (.join t d a b) := by
  have h0 := bitOf_lt t
  have h1 := d.isLt
  have h2 := a.isLt
  have h3 := b.isLt
  show 3690987520 + bitOf t * 16777216 + d.toNat * 262144 + a.toNat * 4096 + b.toNat * 64 < 2 ^ 32
  omega

theorem sr (t : Bool) (d : BitVec 6) (a : BitVec 6) (n : BitVec 12) : Statement (.sr t d a n) := by
  have h0 := bitOf_lt t
  have h1 := d.isLt
  have h2 := a.isLt
  have h3 := n.isLt
  show 3724541952 + bitOf t * 16777216 + d.toNat * 262144 + a.toNat * 4096 + n.toNat < 2 ^ 32
  omega

theorem cpy (t : Bool) (a : BitVec 6) (y : BitVec 2) (x : BitVec 2) : Statement (.cpy t a y x) := by
  have h0 := bitOf_lt t
  have h1 := a.isLt
  have h2 := y.isLt
  have h3 := x.isLt
  show 3758096384 + bitOf t * 16777216 + a.toNat * 4096 + y.toNat * 4 + x.toNat < 2 ^ 32
  omega

theorem gather (t : Bool) (a : BitVec 6) (y : BitVec 2) (x : Bool) : Statement (.gather t a y x) := by
  have h0 := bitOf_lt t
  have h1 := a.isLt
  have h2 := y.isLt
  have h3 := bitOf_lt x
  show 3791650816 + bitOf t * 16777216 + a.toNat * 4096 + y.toNat * 4 + bitOf x < 2 ^ 32
  omega

theorem binscat (t : Bool) (a : BitVec 6) (x : BitVec 2) : Statement (.binscat t a x) := by
  have h0 := bitOf_lt t
  have h1 := a.isLt
  have h2 := x.isLt
  show 3825205248 + bitOf t * 16777216 + a.toNat * 4096 + x.toNat < 2 ^ 32
  omega

theorem bclose (t : Bool) (d : BitVec 6) : Statement (.bclose t d) := by
  have h0 := bitOf_lt t
  have h1 := d.isLt
  show 3858759680 + bitOf t * 16777216 + d.toNat * 262144 < 2 ^ 32
  omega

theorem mwld (t : Bool) (d : BitVec 6) (a : BitVec 6) (l : BitVec 2) (sf : Bool) (f : BitVec 4) : Statement (.mwld t d a l sf f) := by
  have h0 := bitOf_lt t
  have h1 := d.isLt
  have h2 := a.isLt
  have h3 := l.isLt
  have h4 := bitOf_lt sf
  have h5 := f.isLt
  show 3892314112 + bitOf t * 16777216 + d.toNat * 262144 + a.toNat * 4096 + l.toNat * 64 + bitOf sf * 16 + f.toNat < 2 ^ 32
  omega

theorem mma (t : Bool) (d : BitVec 6) (a : BitVec 6) (r : BitVec 6) (z : Bool) (sf : Bool) (f : BitVec 4) : Statement (.mma t d a r z sf f) := by
  have h0 := bitOf_lt t
  have h1 := d.isLt
  have h2 := a.isLt
  have h3 := r.isLt
  have h4 := bitOf_lt z
  have h5 := bitOf_lt sf
  have h6 := f.isLt
  show 3925868544 + bitOf t * 16777216 + d.toNat * 262144 + a.toNat * 4096 + r.toNat * 64 + bitOf z * 32 + bitOf sf * 16 + f.toNat < 2 ^ 32
  omega

theorem maccZero (t : Bool) (d : BitVec 6) : Statement (.maccZero t d) := by
  have h0 := bitOf_lt t
  have h1 := d.isLt
  show 3959422976 + bitOf t * 16777216 + d.toNat * 262144 < 2 ^ 32
  omega

theorem maccLoad (t : Bool) (d : BitVec 6) (a : BitVec 6) : Statement (.maccLoad t d a) := by
  have h0 := bitOf_lt t
  have h1 := d.isLt
  have h2 := a.isLt
  show 3959422977 + bitOf t * 16777216 + d.toNat * 262144 + a.toNat * 4096 < 2 ^ 32
  omega

theorem maccStore (t : Bool) (d : BitVec 6) (a : BitVec 6) (c : BitVec 3) : Statement (.maccStore t d a c) := by
  have h0 := bitOf_lt t
  have h1 := d.isLt
  have h2 := a.isLt
  have h3 := c.isLt
  show 3959422978 + bitOf t * 16777216 + d.toNat * 262144 + a.toNat * 4096 + c.toNat * 64 < 2 ^ 32
  omega

theorem maccAdd (t : Bool) (d : BitVec 6) (b : BitVec 6) : Statement (.maccAdd t d b) := by
  have h0 := bitOf_lt t
  have h1 := d.isLt
  have h2 := b.isLt
  show 3959422979 + bitOf t * 16777216 + d.toNat * 262144 + b.toNat * 64 < 2 ^ 32
  omega

theorem maccScale (t : Bool) (d : BitVec 6) (a : BitVec 6) : Statement (.maccScale t d a) := by
  have h0 := bitOf_lt t
  have h1 := d.isLt
  have h2 := a.isLt
  show 3959422980 + bitOf t * 16777216 + d.toNat * 262144 + a.toNat * 4096 < 2 ^ 32
  omega

theorem maccRow (t : Bool) (d : BitVec 6) (a : BitVec 6) : Statement (.maccRow t d a) := by
  have h0 := bitOf_lt t
  have h1 := d.isLt
  have h2 := a.isLt
  show 3959422981 + bitOf t * 16777216 + d.toNat * 262144 + a.toNat * 4096 < 2 ^ 32
  omega

theorem maccClear (t : Bool) : Statement (.maccClear t) := by
  have h0 := bitOf_lt t
  show 3959422982 + bitOf t * 16777216 < 2 ^ 32
  omega

theorem mopfence (t : Bool) : Statement (.mopfence t) := by
  have h0 := bitOf_lt t
  show 3992977408 + bitOf t * 16777216 < 2 ^ 32
  omega

theorem cbload (t : Bool) (d : BitVec 6) (a : BitVec 6) : Statement (.cbload t d a) := by
  have h0 := bitOf_lt t
  have h1 := d.isLt
  have h2 := a.isLt
  show 4026531840 + bitOf t * 16777216 + d.toNat * 262144 + a.toNat * 4096 < 2 ^ 32
  omega

theorem meet (t : Bool) (d : BitVec 6) (a : BitVec 6) (b : BitVec 6) (c : BitVec 2) (v : Bool) (o : BitVec 2) : Statement (.meet t d a b c v o) := by
  have h0 := bitOf_lt t
  have h1 := d.isLt
  have h2 := a.isLt
  have h3 := b.isLt
  have h4 := c.isLt
  have h5 := bitOf_lt v
  have h6 := o.isLt
  show 4060086272 + bitOf t * 16777216 + d.toNat * 262144 + a.toNat * 4096 + b.toNat * 64 + c.toNat * 8 + bitOf v * 4 + o.toNat < 2 ^ 32
  omega

theorem ltagAlloc (t : Bool) (d : BitVec 6) : Statement (.ltagAlloc t d) := by
  have h0 := bitOf_lt t
  have h1 := d.isLt
  show 4093640704 + bitOf t * 16777216 + d.toNat * 262144 < 2 ^ 32
  omega

theorem ltagFree (t : Bool) (a : BitVec 6) : Statement (.ltagFree t a) := by
  have h0 := bitOf_lt t
  have h1 := a.isLt
  show 4093640705 + bitOf t * 16777216 + a.toNat * 4096 < 2 ^ 32
  omega

theorem strmOpen (t : Bool) (d : BitVec 6) (a : BitVec 6) : Statement (.strmOpen t d a) := by
  have h0 := bitOf_lt t
  have h1 := d.isLt
  have h2 := a.isLt
  show 4127195136 + bitOf t * 16777216 + d.toNat * 262144 + a.toNat * 4096 < 2 ^ 32
  omega

theorem strmStep (t : Bool) (d : BitVec 6) (a : BitVec 6) : Statement (.strmStep t d a) := by
  have h0 := bitOf_lt t
  have h1 := d.isLt
  have h2 := a.isLt
  show 4127195137 + bitOf t * 16777216 + d.toNat * 262144 + a.toNat * 4096 < 2 ^ 32
  omega

theorem strmScan (t : Bool) (d : BitVec 6) (a : BitVec 6) : Statement (.strmScan t d a) := by
  have h0 := bitOf_lt t
  have h1 := d.isLt
  have h2 := a.isLt
  show 4127195138 + bitOf t * 16777216 + d.toNat * 262144 + a.toNat * 4096 < 2 ^ 32
  omega

theorem strmSave (t : Bool) (d : BitVec 6) (a : BitVec 6) (h : Bool) : Statement (.strmSave t d a h) := by
  have h0 := bitOf_lt t
  have h1 := d.isLt
  have h2 := a.isLt
  have h3 := bitOf_lt h
  show 4127195139 + bitOf t * 16777216 + d.toNat * 262144 + a.toNat * 4096 + bitOf h * 64 < 2 ^ 32
  omega

theorem strmLoad (t : Bool) (d : BitVec 6) (a : BitVec 6) : Statement (.strmLoad t d a) := by
  have h0 := bitOf_lt t
  have h1 := d.isLt
  have h2 := a.isLt
  show 4127195140 + bitOf t * 16777216 + d.toNat * 262144 + a.toNat * 4096 < 2 ^ 32
  omega

theorem strmClose (t : Bool) (d : BitVec 6) (a : BitVec 6) : Statement (.strmClose t d a) := by
  have h0 := bitOf_lt t
  have h1 := d.isLt
  have h2 := a.isLt
  show 4127195141 + bitOf t * 16777216 + d.toNat * 262144 + a.toNat * 4096 < 2 ^ 32
  omega

theorem strmQuery (t : Bool) (d : BitVec 6) (a : BitVec 6) (q : Bool) : Statement (.strmQuery t d a q) := by
  have h0 := bitOf_lt t
  have h1 := d.isLt
  have h2 := a.isLt
  have h3 := bitOf_lt q
  show 4127195142 + bitOf t * 16777216 + d.toNat * 262144 + a.toNat * 4096 + bitOf q * 64 < 2 ^ 32
  omega

theorem xexp (t : Bool) (a : BitVec 6) : Statement (.xexp t a) := by
  have h0 := bitOf_lt t
  have h1 := a.isLt
  show 4160749568 + bitOf t * 16777216 + a.toNat * 4096 < 2 ^ 32
  omega

theorem xbar (t : Bool) : Statement (.xbar t) := by
  have h0 := bitOf_lt t
  show 4160749569 + bitOf t * 16777216 < 2 ^ 32
  omega

theorem xstat (t : Bool) (d : BitVec 6) : Statement (.xstat t d) := by
  have h0 := bitOf_lt t
  have h1 := d.isLt
  show 4160749570 + bitOf t * 16777216 + d.toNat * 262144 < 2 ^ 32
  omega

theorem hailSend (t : Bool) (d : BitVec 6) (a : BitVec 6) : Statement (.hailSend t d a) := by
  have h0 := bitOf_lt t
  have h1 := d.isLt
  have h2 := a.isLt
  show 4194304000 + bitOf t * 16777216 + d.toNat * 262144 + a.toNat * 4096 < 2 ^ 32
  omega

theorem hailMask (t : Bool) (d : BitVec 6) (a : BitVec 6) : Statement (.hailMask t d a) := by
  have h0 := bitOf_lt t
  have h1 := d.isLt
  have h2 := a.isLt
  show 4194304001 + bitOf t * 16777216 + d.toNat * 262144 + a.toNat * 4096 < 2 ^ 32
  omega

theorem hailTake (t : Bool) (d : BitVec 6) (a : BitVec 6) : Statement (.hailTake t d a) := by
  have h0 := bitOf_lt t
  have h1 := d.isLt
  have h2 := a.isLt
  show 4194304002 + bitOf t * 16777216 + d.toNat * 262144 + a.toNat * 4096 < 2 ^ 32
  omega

theorem hailRet (t : Bool) : Statement (.hailRet t) := by
  have h0 := bitOf_lt t
  show 4194304003 + bitOf t * 16777216 < 2 ^ 32
  omega

theorem hailPend (t : Bool) (d : BitVec 6) (a : BitVec 6) : Statement (.hailPend t d a) := by
  have h0 := bitOf_lt t
  have h1 := d.isLt
  have h2 := a.isLt
  show 4194304004 + bitOf t * 16777216 + d.toNat * 262144 + a.toNat * 4096 < 2 ^ 32
  omega

theorem hailPerm (t : Bool) (d : BitVec 6) (a : BitVec 6) : Statement (.hailPerm t d a) := by
  have h0 := bitOf_lt t
  have h1 := d.isLt
  have h2 := a.isLt
  show 4194304005 + bitOf t * 16777216 + d.toNat * 262144 + a.toNat * 4096 < 2 ^ 32
  omega

theorem sysTrap (t : Bool) (n : BitVec 6) : Statement (.sysTrap t n) := by
  have h0 := bitOf_lt t
  have h1 := n.isLt
  show 4227858432 + bitOf t * 16777216 + n.toNat * 64 < 2 ^ 32
  omega

theorem sysSvc (t : Bool) (n : BitVec 6) : Statement (.sysSvc t n) := by
  have h0 := bitOf_lt t
  have h1 := n.isLt
  show 4227858433 + bitOf t * 16777216 + n.toNat * 64 < 2 ^ 32
  omega

theorem sysEret (t : Bool) (a : BitVec 6) : Statement (.sysEret t a) := by
  have h0 := bitOf_lt t
  have h1 := a.isLt
  show 4227858434 + bitOf t * 16777216 + a.toNat * 4096 < 2 ^ 32
  omega

theorem sysBkpt (t : Bool) (n : BitVec 6) : Statement (.sysBkpt t n) := by
  have h0 := bitOf_lt t
  have h1 := n.isLt
  show 4227858435 + bitOf t * 16777216 + n.toNat * 64 < 2 ^ 32
  omega

theorem sysYield (t : Bool) : Statement (.sysYield t) := by
  have h0 := bitOf_lt t
  show 4227858436 + bitOf t * 16777216 < 2 ^ 32
  omega

theorem sysWaiti (t : Bool) (d : BitVec 6) (a : BitVec 6) : Statement (.sysWaiti t d a) := by
  have h0 := bitOf_lt t
  have h1 := d.isLt
  have h2 := a.isLt
  show 4227858437 + bitOf t * 16777216 + d.toNat * 262144 + a.toNat * 4096 < 2 ^ 32
  omega

theorem sysHalt (t : Bool) (d : BitVec 6) (a : BitVec 6) : Statement (.sysHalt t d a) := by
  have h0 := bitOf_lt t
  have h1 := d.isLt
  have h2 := a.isLt
  show 4227858438 + bitOf t * 16777216 + d.toNat * 262144 + a.toNat * 4096 < 2 ^ 32
  omega

theorem sysVdist (t : Bool) (d : BitVec 6) (a : BitVec 6) (b : BitVec 6) : Statement (.sysVdist t d a b) := by
  have h0 := bitOf_lt t
  have h1 := d.isLt
  have h2 := a.isLt
  have h3 := b.isLt
  show 4227858439 + bitOf t * 16777216 + d.toNat * 262144 + a.toNat * 4096 + b.toNat * 64 < 2 ^ 32
  omega

theorem sysVdie (t : Bool) (d : BitVec 6) (a : BitVec 6) : Statement (.sysVdie t d a) := by
  have h0 := bitOf_lt t
  have h1 := d.isLt
  have h2 := a.isLt
  show 4227858440 + bitOf t * 16777216 + d.toNat * 262144 + a.toNat * 4096 < 2 ^ 32
  omega

theorem sysFmap (t : Bool) (d : BitVec 6) (a : BitVec 6) : Statement (.sysFmap t d a) := by
  have h0 := bitOf_lt t
  have h1 := d.isLt
  have h2 := a.isLt
  show 4227858441 + bitOf t * 16777216 + d.toNat * 262144 + a.toNat * 4096 < 2 ^ 32
  omega

theorem sysFretry (t : Bool) (d : BitVec 6) (a : BitVec 6) : Statement (.sysFretry t d a) := by
  have h0 := bitOf_lt t
  have h1 := d.isLt
  have h2 := a.isLt
  show 4227858442 + bitOf t * 16777216 + d.toNat * 262144 + a.toNat * 4096 < 2 ^ 32
  omega

theorem sysFskip (t : Bool) (d : BitVec 6) (a : BitVec 6) : Statement (.sysFskip t d a) := by
  have h0 := bitOf_lt t
  have h1 := d.isLt
  have h2 := a.isLt
  show 4227858443 + bitOf t * 16777216 + d.toNat * 262144 + a.toNat * 4096 < 2 ^ 32
  omega

theorem sysFabort (t : Bool) (d : BitVec 6) (a : BitVec 6) : Statement (.sysFabort t d a) := by
  have h0 := bitOf_lt t
  have h1 := d.isLt
  have h2 := a.isLt
  show 4227858444 + bitOf t * 16777216 + d.toNat * 262144 + a.toNat * 4096 < 2 ^ 32
  omega

theorem sysCtxsw (t : Bool) (d : BitVec 6) (a : BitVec 6) : Statement (.sysCtxsw t d a) := by
  have h0 := bitOf_lt t
  have h1 := d.isLt
  have h2 := a.isLt
  show 4227858445 + bitOf t * 16777216 + d.toNat * 262144 + a.toNat * 4096 < 2 ^ 32
  omega

theorem sysCtxld (t : Bool) (d : BitVec 6) (a : BitVec 6) : Statement (.sysCtxld t d a) := by
  have h0 := bitOf_lt t
  have h1 := d.isLt
  have h2 := a.isLt
  show 4227858446 + bitOf t * 16777216 + d.toNat * 262144 + a.toNat * 4096 < 2 ^ 32
  omega

theorem sysCodefence (t : Bool) : Statement (.sysCodefence t) := by
  have h0 := bitOf_lt t
  show 4227858447 + bitOf t * 16777216 < 2 ^ 32
  omega

theorem immx (imm : BitVec 25) : Statement (.immx imm) := by
  have h0 := imm.isLt
  show 4261412864 + imm.toNat < 2 ^ 32
  omega

theorem fpctlReseed (v : W64) : Statement (.fpctlReseed v) := Nat.two_pow_pos 32

theorem tlbinvPage (part : Nat) (vpn : BitVec 36) (asid : BitVec 16) : Statement (.tlbinvPage part vpn asid) := Nat.two_pow_pos 32

theorem tlbinvAllpages (part : Nat) (asid : BitVec 16) : Statement (.tlbinvAllpages part asid) := Nat.two_pow_pos 32

theorem tlbinvAllasid (part : Nat) : Statement (.tlbinvAllasid part) := Nat.two_pow_pos 32

theorem ctxreqRequest (part ctx : Nat) : Statement (.ctxreqRequest part ctx) := Nat.two_pow_pos 32

theorem ctxreqNow (part ctx : Nat) : Statement (.ctxreqNow part ctx) := Nat.two_pow_pos 32

theorem ctxreqDestroy (part ctx : Nat) : Statement (.ctxreqDestroy part ctx) := Nat.two_pow_pos 32

theorem noticePop (part : Nat) (d : BitVec 6) : Statement (.noticePop part d) := Nat.two_pow_pos 32

theorem pwrctlPoint (point : BitVec 3) : Statement (.pwrctlPoint point) := Nat.two_pow_pos 32

theorem pwrctlGate (gate : BitVec 16) : Statement (.pwrctlGate gate) := Nat.two_pow_pos 32

theorem registerWrite (n : BitVec 12) (v : W64) : Statement (.registerWrite n v) := Nat.two_pow_pos 32

theorem gateTest (grid : Nat) : Statement (.gateTest grid) := Nat.two_pow_pos 32

theorem placementStep (part : Nat) : Statement (.placementStep part) := Nat.two_pow_pos 32

theorem groupRetire (group : Nat) : Statement (.groupRetire group) := Nat.two_pow_pos 32

theorem gridEnd (grid : Nat) : Statement (.gridEnd grid) := Nat.two_pow_pos 32

theorem loadReply (req : Nat) : Statement (.loadReply req) := Nat.two_pow_pos 32

theorem sliceAtomic (req : Nat) : Statement (.sliceAtomic req) := Nat.two_pow_pos 32

theorem dirtyWriteback (cpt sector : Nat) : Statement (.dirtyWriteback cpt sector) := Nat.two_pow_pos 32

theorem streamBufferFlush (cluster line : Nat) : Statement (.streamBufferFlush cluster line) := Nat.two_pow_pos 32

theorem accumulatorRotate (cpt : Nat) : Statement (.accumulatorRotate cpt) := Nat.two_pow_pos 32

theorem xstoreDelivery (src dst : Nat) : Statement (.xstoreDelivery src dst) := Nat.two_pow_pos 32

theorem cpyCollectiveStart (team : Nat) : Statement (.cpyCollectiveStart team) := Nat.two_pow_pos 32

theorem gatherRun (cmd : Nat) : Statement (.gatherRun cmd) := Nat.two_pow_pos 32

theorem binscatRun (cmd : Nat) : Statement (.binscatRun cmd) := Nat.two_pow_pos 32

theorem batchComplete (group batch : Nat) : Statement (.batchComplete group batch) := Nat.two_pow_pos 32

theorem weightLoad (team quad : Nat) : Statement (.weightLoad team quad) := Nat.two_pow_pos 32

theorem mmaTurn (group : Nat) : Statement (.mmaTurn group) := Nat.two_pow_pos 32

theorem maccTurn (group : Nat) : Statement (.maccTurn group) := Nat.two_pow_pos 32

theorem cbloadTurn (group : Nat) : Statement (.cbloadTurn group) := Nat.two_pow_pos 32

theorem meetTurn (group : Nat) : Statement (.meetTurn group) := Nat.two_pow_pos 32

theorem landingArrival (part index : Nat) : Statement (.landingArrival part index) := Nat.two_pow_pos 32

theorem landingTimeout (part index : Nat) : Statement (.landingTimeout part index) := Nat.two_pow_pos 32

theorem strmTurn (cmd : Nat) : Statement (.strmTurn cmd) := Nat.two_pow_pos 32

theorem hailAccept (part ctx : Nat) : Statement (.hailAccept part ctx) := Nat.two_pow_pos 32

theorem hostHailMessage (func : Nat) (size : Nat) (msg : BitVec 128) : Statement (.hostHailMessage func size msg) := Nat.two_pow_pos 32

theorem unpark (group : Nat) : Statement (.unpark group) := Nat.two_pow_pos 32

theorem preemptDeadline (part ctx : Nat) : Statement (.preemptDeadline part ctx) := Nat.two_pow_pos 32

theorem contextSave (part ctx : Nat) : Statement (.contextSave part ctx) := Nat.two_pow_pos 32

theorem contextRestore (part ctx : Nat) : Statement (.contextRestore part ctx) := Nat.two_pow_pos 32

theorem functionSwitch (part func : Nat) : Statement (.functionSwitch part func) := Nat.two_pow_pos 32

theorem serviceImageLoad (part : Nat) (entry : BitVec 48) : Statement (.serviceImageLoad part entry) := Nat.two_pow_pos 32

theorem borderChange (part base logk deadline : Nat) (pagesMigrated : Bool) : Statement (.borderChange part base logk deadline pagesMigrated) := Nat.two_pow_pos 32

theorem borderDeadline (part : Nat) : Statement (.borderDeadline part) := Nat.two_pow_pos 32

theorem partitionWindowEnd (short rich base logk : Nat) : Statement (.partitionWindowEnd short rich base logk) := Nat.two_pow_pos 32

theorem securityAlarm (die : Nat) (tamper : Bool) : Statement (.securityAlarm die tamper) := Nat.two_pow_pos 32

theorem flitReceive (link : Nat) (hdr ack : BitVec 16) (payload : BitVec 1984) (crc : BitVec 32) : Statement (.flitReceive link hdr ack payload crc) := Nat.two_pow_pos 32

theorem replayTimeout (link : Nat) : Statement (.replayTimeout link) := Nat.two_pow_pos 32

theorem linkRetrain (link : Nat) (lowHalf highHalf : Bool) : Statement (.linkRetrain link lowHalf highHalf) := Nat.two_pow_pos 32

theorem requestResend (port num : Nat) : Statement (.requestResend port num) := Nat.two_pow_pos 32

theorem peerAccess (port num : Nat) (place : WindowOffset) (kind size : Nat) (v : PeerOperands) :
    Statement (.peerAccess port num place kind size v) :=
  Nat.two_pow_pos 32

theorem hostSnoop (line : Nat) (inval : Bool) : Statement (.hostSnoop line inval) := Nat.two_pow_pos 32

theorem hostMemAccess (addr size : Nat) (write : Bool) (v : W64) : Statement (.hostMemAccess addr size write v) := Nat.two_pow_pos 32

theorem pointChangeDone : Statement (.pointChangeDone) := Nat.two_pow_pos 32

theorem diePowerOff (die : Nat) : Statement (.diePowerOff die) := Nat.two_pow_pos 32

theorem ungateDone (die : Nat) : Statement (.ungateDone die) := Nat.two_pow_pos 32

theorem thermalStep (tj : BitVec 8) : Statement (.thermalStep tj) := Nat.two_pow_pos 32

theorem thermalTrip (tj : BitVec 8) : Statement (.thermalTrip tj) := Nat.two_pow_pos 32

theorem powerUp (digest : BitVec 384) (verified : Bool) : Statement (.powerUp digest verified) := Nat.two_pow_pos 32

theorem dieTrained (base : Bool) (die : Nat) (ok : Bool) : Statement (.dieTrained base die ok) := Nat.two_pow_pos 32

theorem mctpMessage (kind : Nat) (v : W64) : Statement (.mctpMessage kind v) := Nat.two_pow_pos 32

theorem waitiTimeReached (th : ThreadId) : Statement (.waitiTimeReached th) := Nat.two_pow_pos 32

theorem packagePortTraining (port : Nat) (up narrow : Bool) (peer : BitVec 16) : Statement (.packagePortTraining port up narrow peer) := Nat.two_pow_pos 32

theorem cxlPortTraining (port rate width : Nat) : Statement (.cxlPortTraining port rate width) := Nat.two_pow_pos 32

theorem backInvalidationResponse (line : Nat) : Statement (.backInvalidationResponse line) := Nat.two_pow_pos 32

theorem bar0RegisterWrite (place : WindowOffset) (v : W64) : Statement (.bar0RegisterWrite place v) := Nat.two_pow_pos 32

theorem partitionCreation (part base logk : Nat) (key : BitVec 512) : Statement (.partitionCreation part base logk key) := Nat.two_pow_pos 32

end Sys2Proof.Laws.WordSize
end

