-- ==== Sys2Proof/Laws/Words.lean ====
section
/-! SUPPORT. What the register-writing operations leave alone, and what a word reads once an ended hold is forgotten: with
these a word that begins and completes is one rewriting with `issue_begins` and one with `settle_plain`. -/

namespace Sys2Proof.Machine

theorem State.clearHold_gang (s : State) (g k : Nat) : s.clearHold (.gang g k) = s ∨
   s.clearHold (.gang g k) = s.setGroup g {s.group g with barHold := none, xbarHold := false} := by
  unfold State.clearHold; simp only; split <;> simp

theorem State.unheld_stepped {s : State} {i : Instr} (h : s.begins i = true) : s.unheld.stepped s.cur = false := by
  have h0 := ((s.begins_iff i).1 h).2.1
  unfold State.unheld
  cases hc : s.cur with
  | gang g k =>
    rw [hc] at h0
    rcases State.clearHold_gang s g k with h1 | h1 <;> rw [h1]
    · exact h0
    · rw [State.stepped_setGroup]; rw [State.stepped_gang] at h0; exact h0
  | _ => rfl

theorem State.unheld_cmds (s : State) : s.unheld.cmds = s.cmds := State.clearHold_cmds _ _

theorem settle_plain {s s' : State} {i : Instr} (h : s.begins i = true) (h1 : s'.stepped s.cur = s.unheld.stepped s.cur)
    (h2 : s'.cmds = s.unheld.cmds) : settle i s (.done s') = s.after s' := by
  apply settle_done h
  · rw [h1, State.unheld_stepped h]
  · right; intro g k hc; rw [State.operandRegs_of_cmds g (h2.trans (State.unheld_cmds s))]; exact State.begins_operandRegs h hc

/-- A word whose body completes, given that its effect leaves the step flag and the commands alone. -/
theorem issue_plain {s s' : State} {i : Instr} {body : ThreadId → State → Did} (h : s.begins i = true)
    (hb : body s.cur s.unheld = .done s') (h1 : s'.stepped s.cur = s.unheld.stepped s.cur)
    (h2 : s'.cmds = s.unheld.cmds) :
    issue i s body = .next (s.after s') := by
  rw [issue_begins h, hb, settle_plain h h1 h2]

/-- A word whose body traps. -/
theorem issue_traps {s : State} {i : Instr} {body : ThreadId → State → Did} {tr : Trap} (h : s.begins i = true)
    (hb : body s.cur s.unheld = .trap tr) : issue i s body = .next (s.trapped i tr) := by
  rw [issue_begins h, hb]; rfl

/-- A word whose body finds it waiting. -/
theorem issue_waits {s s' : State} {i : Instr} {body : ThreadId → State → Did} (h : s.begins i = true)
    (hb : body s.cur s.unheld = .wait s') : issue i s body = .next (s.stay s') := by
  rw [issue_begins h, hb]; rfl

/-- A word whose body transfers control. -/
theorem issue_goto {s s' : State} {i : Instr} {a : Addr} {body : ThreadId → State → Did} (h : s.begins i = true)
    (hb : body s.cur s.unheld = .goto s' a) (h1 : s'.stepped s.cur = s.unheld.stepped s.cur)
    (h2 : s'.cmds = s.unheld.cmds) :
    issue i s body = .next (s.afterJump s' a) := by
  rw [issue_begins h, hb, settle_goto h (h1.trans (State.unheld_stepped h))]
  exact .inr fun g k hc => (State.operandRegs_of_cmds g (h2.trans (State.unheld_cmds s))).trans (State.begins_operandRegs h hc)

theorem Group.putLanes_step (x : Group) (r : Nat) (vs) : (x.putLanes r vs).step = x.step := by
  unfold Group.putLanes
  induction vs generalizing x with
  | nil => rfl
  | cons a t ih => simp only [List.foldl_cons]; rw [ih]; rfl

theorem State.mapLanes_cmds (s : State) (t d f) : (s.mapLanes t d f).cmds = s.cmds := by cases t <;> rfl
theorem State.mapLanes_stepped (s : State) (t d f) : (s.mapLanes t d f).stepped t = s.stepped t := by
  cases t with
  | gang g k => simp [State.mapLanes, Group.putLanes_step, State.stepped_gang]
  | _ => rfl
theorem Group.putP_step (x : Group) (c l b) : (x.putP c l b).step = x.step := by unfold Group.putP; split <;> rfl
theorem Group.foldPutP_step (ls : List Nat) (x : Group) (c : Nat) (f : Nat → Bool) : (ls.foldl (fun y l => y.putP c l (f l)) x).step = x.step := by
  induction ls generalizing x with
  | nil => rfl
  | cons a t ih => simp only [List.foldl_cons]; rw [ih, Group.putP_step]
theorem State.mapPreds_cmds (s : State) (t d f) : (s.mapPreds t d f).cmds = s.cmds := by cases t <;> rfl
theorem State.mapPreds_stepped (s : State) (t d f) : (s.mapPreds t d f).stepped t = s.stepped t := by
  cases t with
  | gang g k => simp only [State.mapPreds, State.stepped_gang, State.group_setGroup]; exact Group.foldPutP_step _ _ _ _
  | _ => rfl
theorem State.setUni_cmds (s : State) (t u) : (s.setUni t u).cmds = s.cmds := by cases t <;> rfl
theorem State.setUni_stepped (s : State) (t u) : (s.setUni t u).stepped t = s.stepped t := by
  cases t with
  | gang g k => simp [State.setUni, State.stepped_gang]
  | _ => rfl
theorem State.raiseFlags_cmds (s : State) (t u) : (s.raiseFlags t u).cmds = s.cmds := State.setUni_cmds _ _ _
theorem State.raiseFlags_stepped (s : State) (t u) : (s.raiseFlags t u).stepped t = s.stepped t := State.setUni_stepped _ _ _
theorem State.putW_cmds (s : State) (t r u) : (s.putW t r u).cmds = s.cmds := State.setUni_cmds _ _ _
theorem State.putW_stepped (s : State) (t r u) : (s.putW t r u).stepped t = s.stepped t := State.setUni_stepped _ _ _
theorem State.putK_cmds (s : State) (t r u) : (s.putK t r u).cmds = s.cmds := State.setUni_cmds _ _ _
theorem State.putK_stepped (s : State) (t r u) : (s.putK t r u).stepped t = s.stepped t := State.setUni_stepped _ _ _

theorem State.clearHold_uni (s : State) (t) : (s.clearHold t).uni t = s.uni t := by
  cases t with
  | gang g k => rcases State.clearHold_gang s g k with h | h <;> rw [h] <;> simp [State.uni]
  | _ => rfl
theorem State.unheld_uni (s : State) : s.unheld.uni s.cur = s.uni s.cur := State.clearHold_uni _ _
theorem State.unheld_pfx (s : State) : s.unheld.pfx = s.pfx := by
  unfold State.unheld
  cases s.cur with
  | gang g k => rcases State.clearHold_gang s g k with h | h <;> simp only [h] <;> rfl
  | _ => rfl
theorem State.unheld_wideImm (s : State) {n : Nat} (o : BitVec n) : s.unheld.wideImm o = s.wideImm o := by
  unfold State.wideImm; rw [State.unheld_pfx]
theorem State.unheld_active (s : State) : s.unheld.active s.cur = s.active s.cur := by
  unfold State.unheld
  cases s.cur with
  | gang g k => rcases State.clearHold_gang s g k with h | h <;> rw [h] <;> simp [State.active, Group.lanes]
  | _ => rfl

theorem satFlag_of_iff {p : Prop} {b : Bool} [Decidable p] (h : b = true ↔ p) : satFlag b = if p then (0x20 : Flags) else 0 := by
  unfold satFlag
  by_cases hp : p
  · simp [hp, h.2 hp]; rfl
  · have : b = false := by cases b; rfl; exact absurd (h.1 rfl) hp
    simp [hp, this]; rfl

theorem clampInt_eq (x : Int) : clampInt (-2^31) (2^31-1) x = max (-2^31) (min (2^31-1) x) := by
  unfold clampInt; split <;> [skip; split] <;> omega

end Sys2Proof.Machine
end

