-- ==== Sys2Proof/Tests/Slice0.lean ====
section
/-! SUPPORT. Tests of the model, one step or one function each, and a state and operands that meet the hypotheses of every
statement of Obligations.lean: the theorem `met_<Name>` is about the statement `Obligations.<Name>`, clause by clause, at the
ends of the ranges where clauses meet. -/

set_option Elab.async false

namespace Sys2Proof.Tests

open Sys2Proof.Machine

/-! ### Helpers -/

/-- A machine whose next word is `i` (assumption 17). -/
def here (i : Instr) : State := State.reset.withFetchWord 32 (encode i).toNat

/-- The state an outcome holds. -/
def out : Out → State
  | .next t => t
  | _ => State.reset

/-- Some uniform registers of the current thread set. -/
def withW (s : State) (rs : List (Nat × W64)) : State := rs.foldl (fun s e => s.putW s.cur e.1 e.2) s

/-- The group, team and partition of `here` changed. -/
def withG (s : State) (f : Group → Group) : State := s.setGroup 16 (f (s.group 16))
def withT (s : State) (f : Team → Team) : State := s.setTeam 1 (f (s.team 1))
def withP (s : State) (f : Part → Part) : State := s.modPart 0 f

/-- Another thread is the current one. -/
def asCur (t : ThreadId) (s : State) : State := { s with cur := t }

/-- A lane register set in every lane. -/
def withV (s : State) (d : Nat) (f : Nat → W32) : State := s.mapLanes s.cur d f

/-- `here` with registers. -/
def at' (i : Instr) (rs : List (Nat × W64)) : State := withW (here i) rs

/-- What a word does there. -/
def did (i : Instr) (rs : List (Nat × W64)) : State := out (exec i (at' i rs))

/-- The value a word leaves in a uniform register of the current thread. -/
def wOf (i : Instr) (rs : List (Nat × W64)) (d : Nat) : W64 := (did i rs).getW (at' i rs).cur d

/-- The value a lane word leaves in a lane: `v2` and `v3` hold x and y in every lane. -/
def vOf (i : Instr) (x y : W32) (d l : Nat) : W32 :=
  let s := withV (withV (here i) 2 fun _ => x) 3 fun _ => y
  (out (exec i s)).laneReg s.cur d l

/-- The SAT flag or the flags a word raises. -/
def flagsOf (i : Instr) (rs : List (Nat × W64)) : W64 := ((did i rs).uni (at' i rs).cur).fpstat

/-- A full jetty register of the current thread's cluster. -/
def fullJ (j : Nat) (s : State) : State := s.setJetty (s.cptOf s.cur) j { full := true, rc := 1 }

/-- An access of group 16 that has not been performed. -/
def pend (s : State) : State :=
  { s with
    nextId := s.nextId + 1
    reqs := [(s.nextId, { group := 16, gang := 0, dst := .nothing, op := none, ord := 0, todo :=
      [{ lane := 0, addr := 0x40000100, size := 4, ty := some .shared, va := 0x40000100 }] })] }

/-- The data of the request that was issued last has come. -/
def come (s : State) : State := out (exec (.loadReply (s.nextId - 1)) s)

/-- Every die has trained (R383). -/
def trained (s : State) : State := { s with root := { s.root with bootstat := 0x2FFFFF } }

/-- A translation came, to an address with a property. -/
def mapsTo (r : Except Nat Phys) (f : Phys → Bool) : Bool :=
  match r with
  | .ok p => f p
  | .error _ => false

/-- The worked encodings of the manual: R29 to R34, R52, R104, R113, R225, R251, R255, R256. -/
theorem test_worked_encodings :
    decode 0x3614083A = .ok (.ffma false 10 2 7 1) ∧ decode 0x00060411 = .ok (.add false 3 1 2 0 true) ∧
    decode 0x18220410 = .ok (.icmp false 2 1 1 2 0) ∧ decode 0x1A0A0432 = .ok (.sel false 5 1 6 2) ∧
    decode 0x400A1209 = .ok (.cvt false 5 4 8 1 true) ∧ decode 0x200813FF = .ok (.addi false 4 4 0x3FF) ∧
    decode 0x2C05FFFB = .ok (.movi false 2 0x1FFFB) ∧ decode 0xFE000012 = .ok (.immx 0x12) ∧
    decode 0x6A0C1C40 = .ok (.atom false 6 7 4 0) ∧ decode 0x6C0C1C40 = .ok (.red false 6 7 4 0) ∧
    decode 0xE810A010 = .ok (.mwld false 4 10 0 true 0) ∧ decode 0xE810A057 = .ok (.mwld false 4 10 1 true 7) ∧
    decode 0xEA0D4FD0 = .ok (.mma false 3 20 63 false true 0) ∧ decode 0xEE000000 = .ok (.mopfence false) ∧
    decode 0xDA250000 = .ok (.spawn false 9 16 false false false false) ∧
    decode 0xDC15A7C0 = .ok (.join false 5 26 31) := by decide +kernel

/-! ### Decoding

Each word is written out bit by bit, field by field, from the encoding of its row in the opcode table and the formats of R25,
R27, R34 and R35. -/

theorem test_decodes_1 :
    decode 0b0_000000_0_0001010_0010100_0100001_01_1 = .ok (.add false 10 20 33 1 true) ∧
    decode 0b0_000001_0_0001010_0010100_0100001_01_1 = .ok (.sub false 10 20 33 1 true) ∧
    decode 0b0_000010_0_0001010_0010100_0100001_01_0 = .ok (.mul false 10 20 33 1) ∧
    decode 0b0_000011_0_0001010_0010100_0100001_01_1 = .ok (.mulhi false 10 20 33 1 true) ∧
    decode 0b0_000100_0_0001010_0010100_0100001_01_0 = .ok (.imad false 10 20 33 1) ∧
    decode 0b0_000101_0_0001010_0010100_0100001_01_0 = .ok (.and false 10 20 33 1) ∧
    decode 0b0_000110_0_0001010_0010100_0100001_01_0 = .ok (.or false 10 20 33 1) ∧
    decode 0b0_000111_0_0001010_0010100_0100001_01_0 = .ok (.xor false 10 20 33 1) ∧
    decode 0b0_001000_0_0001010_0010100_0100001_01_0 = .ok (.shl false 10 20 33 1) ∧
    decode 0b0_001001_0_0001010_0010100_0100001_01_1 = .ok (.shr false 10 20 33 1 true) ∧
    decode 0b0_001010_0_0001010_0010100_0100001_01_1 = .ok (.min false 10 20 33 1 true) ∧
    decode 0b0_001011_0_0001010_0010100_0100001_01_1 = .ok (.max false 10 20 33 1 true) ∧
    decode 0b0_001100_0_0101_101_0010100_0100001_01_0 = .ok (.icmp false 5 5 20 33 1) ∧
    decode 0b0_001101_0_0001010_0010100_0100001_101 = .ok (.sel false 10 20 33 5) ∧
    decode 0b0_001110_0_0001010_0010100_0100001_01_0 = .ok (.bfx false 10 20 33 1) ∧
    decode 0b0_001110_0_0001010_0010100_0100001_01_1 = .ok (.bfi false 10 20 33 1) ∧
    decode 0b0_001111_0_0001010_0010100_0000101_00_1 = .ok (.iun false 10 20 5 true) ∧
    decode 0b0_010000_0_0001010_0010100_1001000101 = .ok (.addi false 10 20 581) ∧
    decode 0b0_010001_0_0001010_0010100_1001000101 = .ok (.andi false 10 20 581) ∧
    decode 0b0_010010_0_0001010_0010100_1001000101 = .ok (.ori false 10 20 581) := by decide +kernel

theorem test_decodes_2 :
    decode 0b0_010011_0_0001010_0010100_1001000101 = .ok (.xori false 10 20 581) ∧
    decode 0b0_010100_0_0001010_0010100_00000_00101 = .ok (.shli false 10 20 5) ∧
    decode 0b0_010101_0_0001010_0010100_1_0000_00101 = .ok (.shri false 10 20 true 5) ∧
    decode 0b0_010110_0_0001010_10000000001000101 = .ok (.movi false 10 65605) ∧
    decode 0b0_010111_0_0101_101_0010100_1001000101 = .ok (.icmpi false 5 5 20 581) ∧
    decode 0b0_011000_0_0001010_0010100_0100001_01_0 = .ok (.fadd false 10 20 33 1) ∧
    decode 0b0_011001_0_0001010_0010100_0100001_01_0 = .ok (.fsub false 10 20 33 1) ∧
    decode 0b0_011010_0_0001010_0010100_0100001_01_0 = .ok (.fmul false 10 20 33 1) ∧
    decode 0b0_011011_0_0001010_0010100_0100001_01_0 = .ok (.ffma false 10 20 33 1) ∧
    decode 0b0_011100_0_0001010_0010100_0100001_01_0 = .ok (.fmin false 10 20 33 1) ∧
    decode 0b0_011101_0_0001010_0010100_0100001_01_0 = .ok (.fmax false 10 20 33 1) ∧
    decode 0b0_011110_0_0101_101_0010100_0100001_01_0 = .ok (.fcmp false 5 5 20 33 1) ∧
    decode 0b0_011111_0_0001010_0010100_0000101_000 = .ok (.sfu false 10 20 5) ∧
    decode 0b0_100000_0_0001010_0010100_0101_101_00_1 = .ok (.cvt false 10 20 5 5 true) ∧
    decode 0b0_100001_0_0001010_0010100_0100001_01_1 = .ok (.hadd2 false 10 20 33 1 true) ∧
    decode 0b0_100010_0_0001010_0010100_0100001_01_1 = .ok (.hmul2 false 10 20 33 1 true) ∧
    decode 0b0_100011_0_0001010_0010100_0100001_01_1 = .ok (.hfma2 false 10 20 33 1 true) ∧
    decode 0b0_100100_0_0001010_0010100_0100001_01_0 = .ok (.shflPick false 10 20 33 1) ∧
    decode 0b0_100100_0_0001010_0010100_0100001_01_1 = .ok (.shflSwap false 10 20 33 1) ∧
    decode 0b0_100101_0_0001010_0010100_0100001_01_0 = .ok (.shflBack false 10 20 33 1) := by decide +kernel

theorem test_decodes_3 :
    decode 0b0_100101_0_0001010_0010100_0100001_01_1 = .ok (.shflFwd false 10 20 33 1) ∧
    decode 0b0_100110_0_0_001010_0010100_0000101_00_1 = .ok (.vote false 10 20 5 true) ∧
    decode 0b0_100111_0_0_001010_0010100_0000101_000 = .ok (.redux false 10 20 5) ∧
    decode 0b0_100111_0_1_000101_0010100_0000101_000 = .ok (.contribution false 5 20 5) ∧
    decode 0b0_101000_0_0001010_0010100_0000101_00_1 = .ok (.scan false 10 20 5 true) ∧
    decode 0b0_101001_0_0001010_0010100_0_101_101_11_1 = .ok (.cmpx false 10 20 5 5 true) ∧
    decode 0b0_1010101110_100000000000001000101 = .ok (.jpt 1048645) ∧
    decode 0b0_101011_101_1_100000000000001000101 = .ok (.brd 5 true 1048645) ∧
    decode 0b0_101100_0_00000000000000_1001000101 = .ok (.regang false 581) ∧
    decode 0b0_101101_101_1_000000000000000000000 = .ok (.exit 5 true) ∧
    decode 0b0_101110_0_0000000000000000_01_01_0101 = .ok (.bar false 1 1 5) ∧
    decode 0b0_101111_0_0001010_0010100_101000_10_01 = .ok (.ld false 10 20 40 2 1) ∧
    decode 0b0_110000_0_0001010_0010100_101000_10_01 = .ok (.st false 10 20 40 2 1) ∧
    decode 0b0_110001_0_0001010_0010100_101000_10_00 = .ok (.lds false 10 20 40 2) ∧
    decode 0b0_110010_0_0001010_0010100_101000_10_00 = .ok (.sts false 10 20 40 2) ∧
    decode 0b0_110011_0_0001010_0010100_101000_10_00 = .ok (.ldp false 10 20 40 2) ∧
    decode 0b0_110100_0_0001010_0010100_101000_10_00 = .ok (.stp false 10 20 40 2) ∧
    decode 0b0_110101_0_0001010_0010100_101000_0101 = .ok (.atom false 10 20 40 5) ∧
    decode 0b0_110110_0_0001010_0010100_101000_0101 = .ok (.red false 10 20 40 5) ∧
    decode 0b0_110111_0_0001010_0010100_101000_10_00 = .ok (.xst false 10 20 40 2) := by decide +kernel

theorem test_decodes_4 :
    decode 0b0_111000_0_00000000000000_1001000101 = .ok (.svc false 581) ∧
    decode 0b1_000000_0_001010_010100_100001_01_1_101 = .ok (.uadd false 10 20 33 1 true 5) ∧
    decode 0b1_000001_0_001010_010100_100001_01_1_101 = .ok (.usub false 10 20 33 1 true 5) ∧
    decode 0b1_000010_0_001010_010100_100001_01_1_000 = .ok (.umul false 10 20 33 1 true) ∧
    decode 0b1_000011_0_001010_010100_100001_01_1_00_1 = .ok (.umulh false 10 20 33 1 true true) ∧
    decode 0b1_000100_0_001010_010100_100001_01_1_00_1 = .ok (.udiv false 10 20 33 1 true true) ∧
    decode 0b1_000101_0_001010_010100_100001_01_1_00_1 = .ok (.urem false 10 20 33 1 true true) ∧
    decode 0b1_000110_0_001010_010100_100001_01_0000 = .ok (.uand false 10 20 33 1) ∧
    decode 0b1_000111_0_001010_010100_100001_01_0000 = .ok (.uor false 10 20 33 1) ∧
    decode 0b1_001000_0_001010_010100_100001_01_0000 = .ok (.uxor false 10 20 33 1) ∧
    decode 0b1_001001_0_001010_010100_100001_01_1_000 = .ok (.ushl false 10 20 33 1 true) ∧
    decode 0b1_001010_0_001010_010100_100001_01_1_00_1 = .ok (.ushr false 10 20 33 1 true true) ∧
    decode 0b1_001011_0_001010_010100_100001_01_000_1 = .ok (.umin false 10 20 33 1 true) ∧
    decode 0b1_001100_0_001010_010100_100001_01_000_1 = .ok (.umax false 10 20 33 1 true) ∧
    decode 0b1_001101_0_000_101_010100_100001_01_0101 = .ok (.ucmp false 5 20 33 1 5) ∧
    decode 0b1_001110_0_001010_010100_100001_01_0_101 = .ok (.usel false 10 20 33 1 5) ∧
    decode 0b1_001111_0_001010_010100_000101_00_1_000 = .ok (.uun false 10 20 5 true) ∧
    decode 0b1_010000_0_001010_010100_100001000101 = .ok (.uaddi false 10 20 2117) ∧
    decode 0b1_010001_0_001010_010100_100001000101 = .ok (.uandi false 10 20 2117) ∧
    decode 0b1_010010_0_001010_010100_100001000101 = .ok (.uori false 10 20 2117) := by decide +kernel

theorem test_decodes_5 :
    decode 0b1_010011_0_001010_010100_100001000101 = .ok (.uxori false 10 20 2117) ∧
    decode 0b1_010100_0_001010_010100_000000_000101 = .ok (.ushli false 10 20 5) ∧
    decode 0b1_010101_0_001010_010100_00000_1_000101 = .ok (.ushri false 10 20 true 5) ∧
    decode 0b1_010110_0_001010_100000000001000101 = .ok (.umovi false 10 131141) ∧
    decode 0b1_010111_0_000_101_010100_0101_00000101 = .ok (.ucmpi false 5 20 5 5) ∧
    decode 0b1_011000_0_001010_010100_100001_01_1_101 = .ok (.ufadd false 10 20 33 1 true 5) ∧
    decode 0b1_011001_0_001010_010100_100001_01_1_101 = .ok (.ufsub false 10 20 33 1 true 5) ∧
    decode 0b1_011010_0_001010_010100_100001_01_1_101 = .ok (.ufmul false 10 20 33 1 true 5) ∧
    decode 0b1_011011_0_001010_010100_100001_01_1_101 = .ok (.uffma false 10 20 33 1 true 5) ∧
    decode 0b1_011100_0_001010_010100_100001_01_1_101 = .ok (.ufdiv false 10 20 33 1 true 5) ∧
    decode 0b1_011101_0_001010_010100_000101_00_1_101 = .ok (.ufun false 10 20 5 true 5) ∧
    decode 0b1_011110_0_000_101_010100_100001_01_1_101 = .ok (.ufcmp false 5 20 33 1 true 5) ∧
    decode 0b1_011111_0_001010_010100_000101_000_101 = .ok (.ufcvt false 10 20 5 5) ∧
    decode 0b1_100000_0_001010_010100_00000001_10_01 = .ok (.uld false 10 20 1 2 1) ∧
    decode 0b1_100001_0_001010_010100_00000001_10_01 = .ok (.ust false 10 20 1 2 1) ∧
    decode 0b1_100010_0_001010_010100_100001_0101_01 = .ok (.uamo false 10 20 33 5 1) ∧
    decode 0b1_100011_0_000000000000000000_1_001_01 = .ok (.fence false true 1 1) ∧
    decode 0b1_100100_0_000000_010100_000000_000101 = .ok (.cache false 20 5) ∧
    decode 0b1_100101_0_001010_010100_0101_00000101 = .ok (.jwr false 10 20 5 5) ∧
    decode 0b1_100110_0_001010_010100_000000000000 = .ok (.jrd false 10 20) := by decide +kernel

theorem test_decodes_6 :
    decode 0b1_100111_0_000000_010100_000000000000 = .ok (.jrel false 20) ∧
    decode 0b1_101000_101_1_100000000000001000101 = .ok (.bra 5 true 1048645) ∧
    decode 0b1_1010011110_100000000000001000101 = .ok (.call 1048645) ∧
    decode 0b1_101010_0_000000_010100_000000000101 = .ok (.jmpr false 20 5) ∧
    decode 0b1_101011_0_000000_010100_000000000101 = .ok (.jmpt false 20 5) ∧
    decode 0b1_101100_0_000000000000_000000000101 = .ok (.lpad false 5) ∧
    decode 0b1_101101_0_001010_010100_00000000_1_1_1_1 = .ok (.spawn false 10 20 true true true true) ∧
    decode 0b1_101110_0_001010_010100_100001_000000 = .ok (.join false 10 20 33) ∧
    decode 0b1_101111_0_001010_010100_000000000101 = .ok (.sr false 10 20 5) ∧
    decode 0b1_110000_0_000000_010100_00000000_01_01 = .ok (.cpy false 20 1 1) ∧
    decode 0b1_110001_0_000000_010100_00000000_01_0_1 = .ok (.gather false 20 1 true) ∧
    decode 0b1_110010_0_000000_010100_0000000000_01 = .ok (.binscat false 20 1) ∧
    decode 0b1_110011_0_001010_000000000000000000 = .ok (.bclose false 10) ∧
    decode 0b1_110100_0_001010_010100_0000_01_0_1_0101 = .ok (.mwld false 10 20 1 true 5) ∧
    decode 0b1_110101_0_001010_010100_000101_1_1_0101 = .ok (.mma false 10 20 5 true true 5) ∧
    decode 0b1_110110_0_001010_000000000000000000 = .ok (.maccZero false 10) ∧
    decode 0b1_110110_0_001010_010100_000000000001 = .ok (.maccLoad false 10 20) ∧
    decode 0b1_110110_0_001010_010100_000_101_000010 = .ok (.maccStore false 10 20 5) ∧
    decode 0b1_110110_0_001010_000000_100001_000011 = .ok (.maccAdd false 10 33) ∧
    decode 0b1_110110_0_001010_010100_000000000100 = .ok (.maccScale false 10 20) := by decide +kernel

theorem test_decodes_7 :
    decode 0b1_110110_0_001010_010100_000000000101 = .ok (.maccRow false 10 20) ∧
    decode 0b1_110110_0_000000000000000000000110 = .ok (.maccClear false) ∧
    decode 0b1_110111_0_000000000000000000000000 = .ok (.mopfence false) ∧
    decode 0b1_111000_0_001010_010100_000000000000 = .ok (.cbload false 10 20) ∧
    decode 0b1_111001_0_001010_010100_100001_0_01_1_01 = .ok (.meet false 10 20 33 1 true 1) ∧
    decode 0b1_111010_0_001010_000000000000000000 = .ok (.ltagAlloc false 10) ∧
    decode 0b1_111010_0_000000_010100_000000000001 = .ok (.ltagFree false 20) ∧
    decode 0b1_111011_0_001010_010100_000000000000 = .ok (.strmOpen false 10 20) ∧
    decode 0b1_111011_0_001010_010100_000000000001 = .ok (.strmStep false 10 20) ∧
    decode 0b1_111011_0_001010_010100_000000000010 = .ok (.strmScan false 10 20) ∧
    decode 0b1_111011_0_001010_010100_00000_1_000011 = .ok (.strmSave false 10 20 true) ∧
    decode 0b1_111011_0_001010_010100_000000000100 = .ok (.strmLoad false 10 20) ∧
    decode 0b1_111011_0_001010_010100_000000000101 = .ok (.strmClose false 10 20) ∧
    decode 0b1_111011_0_001010_010100_00000_1_000110 = .ok (.strmQuery false 10 20 true) ∧
    decode 0b1_111100_0_000000_010100_000000000000 = .ok (.xexp false 20) ∧
    decode 0b1_111100_0_000000000000000000000001 = .ok (.xbar false) ∧
    decode 0b1_111100_0_001010_000000000000000010 = .ok (.xstat false 10) ∧
    decode 0b1_111101_0_001010_010100_000000000000 = .ok (.hailSend false 10 20) ∧
    decode 0b1_111101_0_001010_010100_000000000001 = .ok (.hailMask false 10 20) ∧
    decode 0b1_111101_0_001010_010100_000000000010 = .ok (.hailTake false 10 20) := by decide +kernel

theorem test_decodes_8 :
    decode 0b1_111101_0_000000000000000000000011 = .ok (.hailRet false) ∧
    decode 0b1_111101_0_001010_010100_000000000100 = .ok (.hailPend false 10 20) ∧
    decode 0b1_111101_0_001010_010100_000000000101 = .ok (.hailPerm false 10 20) ∧
    decode 0b1_111110_0_000000000000_000101_000000 = .ok (.sysTrap false 5) ∧
    decode 0b1_111110_0_000000000000_000101_000001 = .ok (.sysSvc false 5) ∧
    decode 0b1_111110_0_000000_010100_000000000010 = .ok (.sysEret false 20) ∧
    decode 0b1_111110_0_000000000000_000101_000011 = .ok (.sysBkpt false 5) ∧
    decode 0b1_111110_0_000000000000000000000100 = .ok (.sysYield false) ∧
    decode 0b1_111110_0_001010_010100_000000000101 = .ok (.sysWaiti false 10 20) ∧
    decode 0b1_111110_0_001010_010100_000000000110 = .ok (.sysHalt false 10 20) ∧
    decode 0b1_111110_0_001010_010100_100001_000111 = .ok (.sysVdist false 10 20 33) ∧
    decode 0b1_111110_0_001010_010100_000000001000 = .ok (.sysVdie false 10 20) ∧
    decode 0b1_111110_0_001010_010100_000000001001 = .ok (.sysFmap false 10 20) ∧
    decode 0b1_111110_0_001010_010100_000000001010 = .ok (.sysFretry false 10 20) ∧
    decode 0b1_111110_0_001010_010100_000000001011 = .ok (.sysFskip false 10 20) ∧
    decode 0b1_111110_0_001010_010100_000000001100 = .ok (.sysFabort false 10 20) ∧
    decode 0b1_111110_0_001010_010100_000000001101 = .ok (.sysCtxsw false 10 20) ∧
    decode 0b1_111110_0_001010_010100_000000001110 = .ok (.sysCtxld false 10 20) ∧
    decode 0b1_111110_0_000000000000000000001111 = .ok (.sysCodefence false) ∧
    decode 0b1_111111_1000000000000000001000101 = .ok (.immx 16777285) := by decide +kernel

/-! ### Words that begin

A word of every constructor, at operands that stand at the ends of their fields where they may. -/

def laneWords1 : List Instr :=
  [.add false 1 2 3 0 false, .sub false 1 2 3 0 true, .mul false 1 2 3 0, .mulhi false 1 2 3 0 true, .imad false 1 2 3 0,
   .and false 1 2 3 0, .or false 1 2 3 0, .xor false 1 2 3 0, .shl false 1 2 3 3, .shr false 1 2 3 3 true,
   .min false 1 2 3 0 false, .max false 1 2 3 1 true, .icmp false 11 7 2 3 0, .sel false 1 2 3 7, .bfx false 1 2 3 0,
   .bfi false 1 2 3 0, .iun false 1 0 9 false, .addi false 1 2 1023, .andi false 1 2 3, .ori false 1 2 3, .xori false 1 2 3,
   .shli false 1 2 31, .shri false 1 2 true 31, .movi false 127 0x1FFFF, .icmpi false 11 7 2 3]
def laneWords2 : List Instr :=
  [.fadd false 1 2 3 0, .fsub false 1 2 3 0, .fmul false 1 2 3 0, .ffma false 1 2 3 0, .fmin false 1 2 3 0, .fmax false 1 2 3 0,
   .fcmp false 7 7 2 3 0, .sfu false 1 2 14, .cvt false 1 2 4 5 false, .cvt false 1 2 15 4 true, .hadd2 false 1 2 3 0 false,
   .hmul2 false 1 2 3 0 true, .hfma2 false 1 2 3 0 true, .shflPick false 1 2 31 3, .shflSwap false 1 2 31 3,
   .shflBack false 1 2 31 3, .shflFwd false 1 2 31 3, .vote false 1 7 0 true, .redux false 1 2 10, .contribution false 63 2 10,
   .scan false 1 2 10 true, .cmpx false 1 2 5 4 true]
def laneWords3 : List Instr :=
  [.jpt 0x1FFFFF, .brd 7 true 0x1FFFFF, .regang false 1023, .exit 7 true, .bar false 0 2 15, .ld false 2 4 1 3 3, .st false 2 4 1 3 3,
   .lds false 2 4 1 3, .sts false 2 4 1 3, .ldp false 2 4 1 3, .stp false 2 4 1 3, .atom false 2 4 1 13, .red false 2 4 1 13,
   .xst false 2 4 1 3, .svc false 1023]
def laneWords : List Instr := laneWords1 ++ laneWords2 ++ laneWords3
def groupWords : List Instr :=
  [.jrel false 63, .cpy false 61 1 1, .gather false 58 1 true, .binscat false 58 1, .bclose false 63,
   .mwld false 1 62 0 true 7, .mma false 63 61 63 true true 5, .maccZero false 63, .maccLoad false 63 1, .maccStore false 63 1 4,
   .maccAdd false 63 1, .maccScale false 63 1, .maccRow false 63 1, .maccClear false, .mopfence false, .cbload false 3 1,
   .meet false 63 60 1 3 true 1, .strmOpen false 1 2, .strmStep false 1 61, .strmScan false 1 58, .strmSave false 1 62 true,
   .strmLoad false 1 62, .strmClose false 1 2, .strmQuery false 1 2 true, .xexp false 63, .xbar false, .xstat false 63]
def uniWords1 : List Instr :=
  [.uadd false 1 2 3 0 true 2, .usub false 1 2 3 0 false 1, .umul false 1 2 3 2 true, .umulh false 1 2 3 0 true true,
   .udiv false 1 2 0 0 true true, .urem false 1 2 0 0 false false, .uand false 1 2 3 0, .uor false 1 2 3 0, .uxor false 1 2 3 0,
   .ushl false 1 2 31 2 true, .ushr false 1 2 31 2 false true, .umin false 1 2 3 0 true, .umax false 1 2 3 0 false,
   .ucmp false 7 2 3 0 11, .usel false 1 2 3 0 7, .uun false 1 2 13 false, .uaddi false 63 2 0xFFF, .uandi false 1 2 3, .uori false 1 2 3,
   .uxori false 1 2 3, .ushli false 1 2 63, .ushri false 1 2 true 63, .umovi false 63 0x3FFFF, .ucmpi false 7 2 11 0xFF,
   .ufadd false 1 2 3 0 true 4, .ufsub false 1 2 3 0 false 0, .ufmul false 1 2 3 0 true 0, .uffma false 1 2 3 0 true 0,
   .ufdiv false 1 2 0 0 false 0, .ufun false 1 2 8 true 4, .ufcmp false 7 2 3 0 true 7, .ufcvt false 1 2 9 4]
def uniWords2 : List Instr :=
  [.uld false 1 2 0x80 3 0, .ust false 1 2 0x7F 3 0, .uamo false 1 2 4 9 0, .fence false true 4 3, .cache false 1 5, .jwr false 63 1 11 255,
   .jrd false 1 63, .bra 0 true 0x1FFFFF, .call 0x100000, .jmpr false 1 0xFFF, .jmpt false 1 0xFFF, .lpad false 0xFFE,
   .spawn false 1 49 true true true true, .join false 1 2 3, .sr false 1 0 0x001, .sr false 0 1 0x020, .ltagAlloc false 63, .ltagFree false 63,
   .hailSend false 1 62, .hailMask false 1 62, .hailTake false 62 1, .hailRet false, .hailPend false 1 63, .hailPerm false 1 62,
   .sysTrap false 63, .sysSvc false 63, .sysBkpt false 63, .sysYield false, .sysWaiti false 1 2, .sysVdist false 1 2 3, .sysVdie false 1 2,
   .sysFmap false 1 62, .sysFretry false 1 63, .sysFskip false 1 62, .sysFabort false 1 63, .sysCodefence false, .immx 0x1FFFFFF]
def uniWords : List Instr := uniWords1 ++ uniWords2
def serviceWords : List Instr :=
  [.sysEret false 61, .sysHalt false 1 62, .sysCtxsw false 1 62, .sysCtxld false 1 63, .sr false 1 0 0x245, .sr false 0 1 0x222, .sr false 0 1 0x820]

def words : List Instr := laneWords ++ groupWords ++ uniWords ++ serviceWords

/-- Every word begins where it is placed: the hypothesis `begins` of the statements of every instruction. -/
theorem met_begins_lane : ∀ i ∈ laneWords, (here i).begins i = true := by decide +kernel
theorem met_begins_group : ∀ i ∈ groupWords, (here i).begins i = true := by decide +kernel
theorem met_begins_uniform : ∀ i ∈ uniWords, (here i).begins i = true := by decide +kernel
theorem met_begins_service : ∀ i ∈ serviceWords, (here i).begins i = true := by decide +kernel

/-- The hypotheses of `DecodeOfEncode` and `EncodeOfDecode`. -/
theorem met_DecodeOfEncode : ∀ i ∈ words, i.hasWord = true ∧ i.wf = true := by decide +kernel
theorem met_EncodeOfDecode : ∀ i ∈ words, decode (encode i) = .ok i := by decide +kernel

/-! ### Well-formedness

One ill-formed term for each check. -/

def illFormedLane1 : List Instr :=
  [.add false 1 2 64 1 false, .sub false 1 2 127 2 false, .mul false 1 2 64 1, .mulhi false 1 2 64 2 true, .imad false 1 2 64 1,
   .and false 1 2 64 1, .or false 1 2 64 1, .xor false 1 2 64 2, .shl false 1 2 64 1, .shr false 1 2 64 1 true,
   .min false 1 2 64 1 false, .max false 1 2 64 2 true, .icmp false 0 1 2 64 1, .icmp false 12 1 2 3 0, .bfx false 1 2 64 1,
   .bfi false 1 2 64 2, .iun false 1 2 10 false, .iun false 1 2 0 true, .iun false 1 2 8 false, .icmpi false 12 1 2 3]
def illFormedLane2 : List Instr :=
  [.fadd false 1 2 64 1, .fsub false 1 2 64 1, .fmul false 1 2 64 2, .ffma false 1 2 64 1, .fmin false 1 2 64 1, .fmax false 1 2 64 2,
   .fcmp false 0 1 2 64 1, .fcmp false 8 1 2 3 0, .sfu false 1 2 15, .cvt false 1 2 4 6 false, .cvt false 1 2 5 5 false,
   .hadd2 false 1 2 64 1 false, .hmul2 false 1 2 64 2 true, .hfma2 false 1 2 64 1 false]
def illFormedLane3 : List Instr :=
  [.shflPick false 1 2 64 1, .shflSwap false 1 2 64 1, .shflBack false 1 2 64 2, .shflFwd false 1 2 64 1, .vote false 1 8 0 false,
   .vote false 1 0 3 true, .vote false 1 0 4 false, .redux false 1 2 11, .contribution false 1 2 11, .scan false 1 2 11 false,
   .cmpx false 1 2 6 5 false, .cmpx false 1 2 6 0 false, .cmpx false 1 2 3 3 false, .bar false 3 0 0, .bar false 0 3 0]
def illFormedLane4 : List Instr :=
  [.ld false 1 2 3 3 0, .st false 1 2 3 3 0, .lds false 1 2 3 3, .sts false 1 2 3 3, .ldp false 1 2 3 3, .stp false 1 2 3 3,
   .atom false 2 3 4 14, .atom false 1 3 4 9, .atom false 1 3 4 11, .red false 2 3 4 14, .red false 2 3 4 8, .red false 2 3 4 9,
   .red false 1 3 4 11, .xst false 1 2 3 3]
def illFormedLane : List Instr := illFormedLane1 ++ illFormedLane2 ++ illFormedLane3 ++ illFormedLane4

def illFormedUni1 : List Instr :=
  [.uadd false 1 2 3 3 false 0, .uadd false 1 2 3 0 false 3, .usub false 1 2 3 3 false 0, .usub false 1 2 3 0 false 7,
   .umul false 1 2 3 3 false, .umulh false 1 2 3 3 false false, .udiv false 1 2 3 3 false false, .urem false 1 2 3 3 true true,
   .uand false 1 2 3 3, .uor false 1 2 3 3, .uxor false 1 2 3 3, .ushl false 1 2 3 3 false, .ushr false 1 2 3 3 false false,
   .umin false 1 2 3 3 false, .umax false 1 2 3 3 true, .ucmp false 1 2 3 3 0, .ucmp false 1 2 3 0 12, .usel false 1 2 3 3 0,
   .uun false 1 2 14 false, .uun false 1 2 8 true, .ucmpi false 1 2 12 3]
def illFormedUni2 : List Instr :=
  [.ufadd false 1 2 3 3 false 0, .ufadd false 1 2 3 0 false 5, .ufsub false 1 2 3 3 false 0, .ufsub false 1 2 3 0 true 7,
   .ufmul false 1 2 3 3 false 0, .ufmul false 1 2 3 0 false 5, .uffma false 1 2 3 3 false 0, .uffma false 1 2 3 0 false 6,
   .ufdiv false 1 2 3 3 false 0, .ufdiv false 1 2 3 0 false 5, .ufun false 1 2 9 false 0, .ufun false 1 2 0 false 5,
   .ufcmp false 1 2 3 3 false 0, .ufcvt false 1 2 10 0, .ufcvt false 1 2 0 5]
def illFormedUni3 : List Instr :=
  [.uamo false 2 4 6 14 0, .uamo false 2 4 6 11 0, .uamo false 2 4 7 9 0, .fence false false 0 0, .fence false false 5 1,
   .cache false 2 6, .jwr false 1 2 12 1, .jwr false 1 2 0 0, .bra 7 true 1, .jmpt false 1 0, .lpad false 0xFFF,
   .spawn false 9 50 false false false false, .sr false 1 1 0x001, .sr false 1 0 0x7FF]
def illFormedUni : List Instr := illFormedUni1 ++ illFormedUni2 ++ illFormedUni3

def illFormedUnit1 : List Instr :=
  [.cpy false 62 0 0, .cpy false 1 2 0, .cpy false 1 0 2, .gather false 59 0 true, .gather false 1 2 true, .binscat false 59 0,
   .binscat false 1 2, .mwld false 4 0 0 false 8, .mwld false 4 0 0 true 3, .mwld false 4 0 0 false 7, .mwld false 4 63 0 true 0,
   .mwld false 4 1 0 false 0, .mwld false 4 0 1 false 0, .mma false 0 62 3 true false 0, .mma false 0 1 3 true false 7,
   .mma false 0 1 3 true true 3, .maccStore false 0 1 5, .cbload false 4 1, .meet false 0 1 2 0 false 3,
   .meet false 0 1 2 0 true 2, .meet false 0 61 2 0 false 0]
def illFormedUnit2 : List Instr :=
  [.strmStep false 1 62, .strmScan false 1 59, .strmSave false 1 63 false, .strmLoad false 1 63, .hailSend false 1 63,
   .hailMask false 1 63, .hailTake false 3 1, .hailTake false 0 1, .hailPerm false 1 63, .sysEret false 62, .sysHalt false 1 63,
   .sysFmap false 1 63, .sysFskip false 1 63, .sysCtxsw false 1 63]
def illFormedUnit : List Instr := illFormedUnit1 ++ illFormedUnit2

theorem test_ill_formed_lane : ∀ i ∈ illFormedLane, i.wf = false := by decide +kernel
theorem test_ill_formed_uniform : ∀ i ∈ illFormedUni, i.wf = false := by decide +kernel
theorem test_ill_formed_unit : ∀ i ∈ illFormedUnit, i.wf = false := by decide +kernel

/-- R49: an ill-formed word is an Illegal Instruction wherever it stands; the decoder refuses a reserved opcode and a reserved
bit that is not zero. -/
theorem test_ill_formed_words_trap :
    ∀ i ∈ illFormedLane ++ illFormedUni ++ illFormedUnit, gate i (here i) = .trap Trap.illegal := by decide +kernel
theorem test_refused_words :
    decode 0b0_111001_0_0000001_0000010_0000011_00_0 = .error (.laneOpcode 0x39) ∧
    decode 0b0_000010_0_0000001_0000010_0000011_00_1 = .error (.reservedField 2) := by decide +kernel

/-! ### The step and the checks of a word -/

/-- A word that decodes and one that does not, in a spine thread and in a gang. -/
theorem met_StepRunsDecodedWord :
    (∀ i ∈ [Instr.umovi false 5 7, .movi false 5 7], ∀ s ∈ [here i],
      s.beginSaves = s ∧ s.agenda = [] ∧ s.runnable s.cur = true ∧ s.meetWord s.cur = s ∧
      (s.fetchWord s.cur (s.pcOf s.cur)).2 = .word (encode i) ∧ decode (encode i) = .ok i) ∧
    (here (.umovi false 5 7)).cur = .spine 0 ∧ (here (.movi false 5 7)).cur = .gang 16 0 ∧
    (∀ s ∈ [State.reset.withFetchWord 32 0x72000000],
      s.beginSaves = s ∧ s.agenda = [] ∧ s.runnable s.cur = true ∧ s.cur = .spine 0 ∧ s.meetWord s.cur = s ∧
      (s.fetchWord s.cur (s.pcOf s.cur)).2 = .word 0x72000000 ∧ decode 0x72000000 = .error (.laneOpcode 0x39)) ∧
    (∀ s ∈ [({ here (.umovi false 5 7) with agenda := [.event .pointChangeDone, .thread (.spine 0)] } : State)],
      s.beginSaves = s ∧ s.pfx = none ∧ Instr.pointChangeDone.hasWord = false ∧ s.agenda.head? = some (.event .pointChangeDone) ∧
      s.agenda.tail.head? = some (.thread (.spine 0))) ∧
    (∀ s ∈ [({ here (.umovi false 5 7) with pfx := some 1 } : State)],
      s.pfx.isSome = true ∧ s.runnable s.cur = true ∧ s.meetWord s.cur = s) := by decide +kernel

theorem met_FetchReadsFourBytes : ∀ s ∈ [here (.umovi false 5 7), here (.movi false 5 7)],
    ∀ r ∈ [s.translate (s.spaceOf s.cur) placedPc.toNat .fetch (levelOf s.cur == 0)],
      mapsTo r.2 (fun p => p.ty == .shared && p.pa % 4 == 0 && decide (p.pa + 4 ≤ 2 ^ 40) &&
        r.1.owns (r.1.partOfCpt (r.1.cptOf s.cur)) p.pa && r.1.icache.find? (2 ^ 50 * r.1.fetchCore s.cur + p.pa / 4) == none &&
        r.1.sector? (r.1.cptOf s.cur) p.pa == none && !r.1.badAt p.pa &&
        (r.1.makeRoom (r.1.cptOf s.cur) p.pa).sector? (r.1.cptOf s.cur) p.pa == none &&
        (r.1.makeRoom (r.1.cptOf s.cur) p.pa).foreign p.pa == none) = true := by decide +kernel

/-- A word whose checks find a trap, one that waits, and an empty source with T 0 and T 1. -/
theorem met_ChecksOfAWord :
    (Instr.umovi false 1 1).hasWord = true ∧ gate (.umovi false 1 1) (here (.umovi false 1 1)) = .run ∧
    gate (.uadd false 1 2 3 3 false 0) (here (.uadd false 1 2 3 3 false 0)) = .trap Trap.illegal ∧
    (∀ t ∈ [false, true], ∀ i ∈ [Instr.uadd t 1 2 3 0 false 0], ∀ s ∈ [(here i).emptyW (here i).cur 2],
      s.held s.cur = false ∧ s.targetFull s.cur i = false ∧ misplaced s.cur (shape i) = false ∧ i.wf = true ∧ (s.pfx.isSome = true → (shape i).wide = true) ∧
      s.beyond s.cur (shape i) = false ∧ (shape i).level ≤ levelOf s.cur ∧ srGate i (levelOf s.cur) = none ∧
      s.noJetty s.cur (shape i) = none ∧ s.emptySource s.cur (shape i) = some 2 ∧
      gate i s = if t then .trap (Trap.emptyRead 2) else .wait) := by decide +kernel

/-- Each of the four grounds, and the two levels. -/
theorem met_IllegalAndPrivilegedWordsTrap :
    (∀ i ∈ [Instr.add false 1 2 3 0 false], ∀ s ∈ [asCur (.spine 0) (here i)],
      i.hasWord = true ∧ s.held s.cur = false ∧ s.targetFull s.cur i = false ∧ misplaced s.cur (shape i) = true) ∧
    (∀ i ∈ [Instr.add false 1 2 64 1 false],
      (here i).held (here i).cur = false ∧ i.wf = false) ∧
    (∀ i ∈ [Instr.umul false 1 2 3 0 false], ∀ s ∈ [({ here i with pfx := some 0 } : State)],
      s.held s.cur = false ∧ s.pfx.isSome = true ∧ (shape i).wide = false) ∧
    (∀ i ∈ [Instr.add false 127 2 3 0 false], ∀ s ∈ [withG (here i) fun x => { x with budget := 127 }],
      s.held s.cur = false ∧ s.beyond s.cur (shape i) = true ∧ (here i).beyond (here i).cur (shape i) = false) ∧
    (∀ i ∈ [Instr.sysEret false 61, .sysHalt false 1 62, .sysCtxsw false 1 62, .sysCtxld false 1 62, .sr false 1 0 0x222,
        .sr false 1 0 0x822], ∀ s ∈ [asCur (.spine 0) (here i)],
      levelOf s.cur = 0 ∧ s.held s.cur = false ∧ s.pfx = none ∧ i.wf = true) ∧
    0x200 ≤ (0x222 : BitVec 12).toNat := by decide +kernel

/-- A page of the trap area that translates. -/
theorem met_TrapRecords :
    (Trap.illegal).kind < 256 ∧
    (∀ s ∈ [(here (.umovi false 5 7)).modCtx 0 1 fun c => { c with info := { c.info with traparea := 0x40001000 } }],
      ∀ t ∈ [ThreadId.spine 0],
      mapsTo (s.translate (.ctx (s.partOf t) (s.ctxOf t) (1280 + s.partOf t)) ((s.ctx (s.partOf t) (s.ctxOf t)).info.traparea + 64 * s.recIndex t)
        .load false).2 (fun p => p.pa == 0x40001000 + 64 * s.recIndex t) = true) := by decide +kernel

theorem met_TrapsHaltTheirUnits :
    (∀ s ∈ [here (.umovi false 5 7)],
      (s.parts.find? (s.partOf (.spine 0))).isSome = true ∧ (s.spines.find? 0).isSome = true ∧
      (s.groups.find? 16).isSome = true ∧ (s.group 16).mode = .run ∧ (∀ h ∈ s.groupsOf (s.group 16).team, (s.group h).mode = .run) ∧
      (s.parts.find? 0).isSome = true) ∧
    (∀ s ∈ [withG (here (.movi false 5 7)) fun x => { x with mode := .halted }],
      ∀ h ∈ s.groupsOf (s.group 16).team, (s.group h).stopped = true) ∧
    Trap.illegal.kind ≠ 0x19 := by decide +kernel

/-! ### The uniform set -/

theorem met_RegistersAndOperandForms : (63 : Nat) < 64 ∧ (1 : Nat) ≠ 0 ∧ (2 : Nat) ≠ 1 := by decide +kernel

/-- The words of the uniform set begin also behind a prefix, in a gang, and with every operand form. -/
theorem met_UniformArithmetic :
    (∀ i ∈ [Instr.uadd false 1 2 3 0 false 0, .uadd false 1 2 3 1 true 1, .uadd false 1 2 63 2 true 2, .usub false 0 2 3 0 true 0,
        .usub false 1 2 3 2 false 1, .usub false 63 2 3 0 false 2, .umulh false 1 2 3 0 false false, .ushr false 1 2 3 0 true true,
        .ushl false 1 2 3 2 false, .umin false 1 2 3 0 false, .umax false 1 2 3 1 true],
      (fullJ 3 (here i)).begins i = true ∧ (fullJ 3 (asCur (.gang 16 0) (here i))).begins i = true) := by decide +kernel

theorem met_UniformArithmetic_division :
    ∀ i ∈ [Instr.udiv false 1 2 3 0 false false, .udiv false 1 2 3 0 true true, .urem false 1 2 3 2 true false,
      .urem false 1 2 0 0 false true], (here i).begins i = true := by decide +kernel

/-- A lowest and a highest bit for the counting functions. -/
theorem met_UnaryFunctions :
    (∀ w ∈ [false, true], let n := if w then 32 else 64
      (∀ i, i < n → (0 : W64).getLsbD i = false) ∧
      (∃ k, k < n ∧ (0x10 : W64).getLsbD (n - 1 - k) = true ∧ ∀ i, i < k → (0x10 : W64).getLsbD (n - 1 - i) = false) ∧
      (4 < n ∧ (0x10 : W64).getLsbD 4 = true ∧ ∀ i, i < 4 → (0x10 : W64).getLsbD i = false)) := by
  intro w _; cases w
  · exact ⟨by decide, ⟨59, by decide⟩, by decide⟩
  · exact ⟨by decide, ⟨27, by decide⟩, by decide⟩

/-- With and without a prefix. -/
theorem met_UniformImmediates :
    ∀ i ∈ [Instr.uaddi false 1 2 0x800, .uandi false 1 2 0x7FF, .uori false 1 2 0xFFF, .uxori false 63 2 1, .umovi false 1 0x20000],
      (here i).begins i = true ∧ ({ here i with pfx := some 0x1000000 } : State).begins i = true := by decide +kernel

/-- The reserved codes' lowest and highest, an ordered and an unordered pair, and no exception enabled. -/
theorem met_ConditionCodes :
    (∀ c ∈ [(12 : BitVec 4), 15], 12 ≤ c.toNat) ∧ (8 : BitVec 4).toNat = 8 ∧
    (here (.icmp false 12 1 2 3 0)).held (here (.icmp false 12 1 2 3 0)).cur = false ∧
    (fp32.read false 0x3F800000).isNan = false ∧ (fp32.read false 0x7FC00000).isNan = true ∧
    (fp32.read false 0x7F800001).isSnan = true ∧
    (∀ i ∈ [Instr.ufcmp false 1 2 3 0 false 7],
      (here i).begins i = true ∧ ((here i).uni (here i).cur).fpctl.extractLsb' 4 5 = 0) ∧
    (∀ i ∈ [Instr.icmp false 11 6 2 3 0, .icmpi false 0 0 2 3, .fcmp false 7 6 2 3 0], ∀ s ∈ [here i],
      s.begins i = true ∧ s.cur = .gang 16 0 ∧ s.pfx = none ∧ (s.uni s.cur).fpctl.extractLsb' 4 5 = 0 ∧
      0 ∈ s.unheld.active s.cur) := by decide +kernel

/-- An exception that is enabled and one that is not. -/
theorem met_UniformFloatWords :
    ∀ i ∈ [Instr.ufadd false 1 2 3 0 true 4, .ufsub false 1 2 3 2 false 0, .ufmul false 1 2 3 2 true 1, .uffma false 1 2 3 0 true 2,
      .ufdiv false 1 2 3 0 false 3, .ufun false 1 2 8 false 0, .ufcvt false 1 2 0 0, .ufcmp false 1 2 3 0 true 0],
      (here i).begins i = true ∧
      ((here i).setUni (here i).cur { (here i).uni (here i).cur with fpctl := 0x1F1 }).begins i = true := by decide +kernel

/-! ### The lane set, control and barriers -/

/-- Every operand form, the saturating forms, and the immediates with and without a prefix. -/
theorem met_LaneIntegerWords :
    (∀ i ∈ [Instr.add false 1 2 3 0 true, .sub false 1 2 3 1 true, .sub false 1 2 3 3 false, .mulhi false 1 2 3 2 false,
        .shr false 1 2 3 0 false, .min false 1 2 3 0 true, .max false 1 2 3 0 false, .iun false 1 2 1 true],
      (fullJ 3 (here i)).begins i = true ∧ (fullJ 3 (here i)).cur = .gang 16 0) ∧
    (∀ i ∈ [Instr.addi false 1 2 0x200, .andi false 1 2 1, .ori false 1 2 1, .xori false 1 2 1, .movi false 1 0x10000,
        .icmpi false 0 1 2 3],
      (here i).begins i = true ∧ ({ here i with pfx := some 0x1000000 } : State).begins i = true) ∧
    (here (.shri false 1 2 false 31)).begins (.shri false 1 2 false 31) = true := by decide +kernel

theorem met_LaneFieldsAndFunctions :
    (31 : Nat) < 32 ∧ (0x80000000 : W32).toInt = -2 ^ 31 ∧
    (0 < 32 ∧ (0x80000000 : W32).getLsbD (31 - 0) = true) ∧
    (31 < 32 ∧ (1 : W32).getLsbD (31 - 31) = true ∧ ∀ i, i < 31 → (1 : W32).getLsbD (31 - i) = false) := by decide +kernel

theorem met_LaneFloatWords :
    (∀ i ∈ [Instr.fadd false 1 2 3 0, .fsub false 1 2 3 3, .fmul false 1 2 3 1, .ffma false 1 2 3 2, .fmin false 1 2 3 0,
        .fmax false 1 2 3 0, .fcmp false 2 1 2 3 0, .sfu false 1 2 0, .hadd2 false 1 2 3 1 true, .hmul2 false 1 2 3 0 false,
        .hfma2 false 1 2 3 2 true, .cvt false 1 2 0 0 true, .cvt false 1 2 8 5 true],
      (fullJ 3 (here i)).begins i = true ∧
      (fullJ 3 ((here i).setUni (here i).cur { (here i).uni (here i).cur with fpctl := 0x1F1 })).begins i = true) ∧
    (0 : BitVec 3) ≠ 5 := by decide +kernel

/-- Lanes 0 and 1 of a pair, both active, and the upper one not. -/
theorem met_CrossLaneWords :
    (∀ i ∈ [Instr.shflPick false 1 2 3 0, .shflSwap false 1 2 3 1, .shflBack false 1 2 3 3, .shflFwd false 1 2 3 0, .vote false 1 2 1 true,
        .redux false 1 2 0, .scan false 1 2 7 false, .cmpx false 1 2 1 0 false],
      (here i).begins i = true ∧ (here i).cur = .gang 16 0) ∧
    (List.replicate 32 (0 : W32)).length = 32 ∧ (0 : Nat).testBit 4 = false ∧
    (∀ s ∈ [here (.cmpx false 1 2 5 4 true)], 0 ∈ s.active (.gang 16 0) ∧ 0 + 2 ^ 4 ∈ s.active (.gang 16 0)) ∧
    (∀ s ∈ [withG (here (.cmpx false 1 2 5 4 true)) fun x => { x with slices := x.slices.take 4 }],
      0 ∈ s.active (.gang 16 0) ∧ 0 + 2 ^ 4 ∉ s.active (.gang 16 0)) ∧
    ((here (.cmpx false 1 2 5 4 true)).groups.find? 16).isSome = true ∧ (1 : BitVec 7) ≠ 2 ∧ (63 : BitVec 6) ≠ 0 := by decide +kernel

/-- The code a jump test runs from: the word of `here` followed by others. -/
def code (ws : List W32) (s : State) : State :=
  (ws.zip (List.range ws.length)).foldl (fun s e => { s with mem := memWrite s.mem (0x40000004 + 4 * e.2) 4 e.1.toNat }) s

/-- A fetched word. -/
def fetched (s : State) (a : Nat) : W32 :=
  match (s.fetchWord s.cur (BitVec.ofNat 48 a)).2 with
  | .word w => w
  | _ => 0xFFFFFFFF

/-- Taken and not; past both ends of the address space; each check of a target; an index below and at N; a prefix before a
word that admits it and one that does not. -/
theorem met_TransfersAndPrefix :
    (∀ i ∈ [Instr.bra 0 true 0x1FFFFF, .bra 7 false 1, .call 0x100000, .lpad false 0], (here i).begins i = true) ∧
    (∀ a ∈ [(0x1000000000000 : Nat), 0x1000000000004, 0xFFFFFFFFFFFE, 0xFFFFFFFFFFFC, 0x40000004],
      (at' (.jmpr false 1 0xFFF) [(1, BitVec.ofNat 64 a)]).begins (.jmpr false 1 0xFFF) = true ∧
      (at' (.jmpr false 1 0) [(1, BitVec.ofNat 64 a)]).begins (.jmpr false 1 0) = true) ∧
    (2 ^ 48 ≤ (0x1000000000000 : W64).toNat ∧ (0xFFFFFFFFFFFE : W64).toNat < 2 ^ 48 ∧
      (0xFFFFFFFFFFFE : W64).toNat % 4 ≠ 0 ∧ (0xFFFFFFFFFFFC : W64).toNat % 4 = 0) := by decide +kernel

theorem met_TransfersAndPrefix_targets :
    (∀ w ∈ [Instr.lpad false 5, .lpad false 6, .exit 0 false],
      ∀ s ∈ [code [encode w] (at' (.jmpr false 1 5) [(1, 0x40000004)])],
      s.begins (.jmpr false 1 5) = true ∧ s.endOf s.cur ≠ some 0x40000004 ∧ fetched s.unheld 0x40000004 = encode w) ∧
    (∀ x ∈ [(0 : Nat), 1], ∀ s ∈ [code [5, 8, encode (.lpad false 5)] (at' (.jmpt false 1 1) [(1, BitVec.ofNat 64 x)])],
      s.begins (.jmpt false 1 1) = true ∧ fetched s.unheld 0x40000004 = 5 ∧ fetched s.unheld 0x40000008 = 8 ∧
      fetched s.unheld 0x40000008 = 8 ∧ s.endOf s.cur ≠ some 0x40000008) := by decide +kernel

theorem met_TransfersAndPrefix_words :
    (∀ h ∈ [(0xFFF : Nat), 0x1000], ∀ s ∈ [code [BitVec.ofNat 32 h] (at' (.jmpt false 1 1) [])],
      s.begins (.jmpt false 1 1) = true ∧ fetched s.unheld 0x40000004 = BitVec.ofNat 32 h) ∧
    (∀ i ∈ [Instr.uaddi false 1 2 3, .ushli false 1 2 3], ∀ s ∈ [code [encode i] (here (.immx 0x1FFFFFF))],
      s.begins (.immx 0x1FFFFFF) = true ∧ fetched s.unheld 0x40000004 = encode i ∧ decode (encode i) = .ok i ∧
      (shape i).wide = decide (i = .uaddi false 1 2 3)) := by decide +kernel

/-- A slice with lanes that differ in p0. -/
def split (s : State) : State := s.mapPreds (.gang 16 0) 0 fun l => l % 2 == 0

/-- A slice to name where a list is empty. -/
def aSlice : Slice := { pc := 0, act := 15, live := 15 }

/-- A full and an empty stack, a join point set and not, all the lanes taken, none, and some. -/
theorem met_DivergenceAndReconvergence :
    (here (.jpt 0x1FFFFF)).begins (.jpt 0x1FFFFF) = true ∧ (here (.jpt 1)).begins (.jpt 1) = true ∧
    (∀ s ∈ [here (.brd 7 false 1), split (withG (here (.brd 0 false 1)) fun x =>
        { x with slices := x.slices.map fun sl => { sl with jp := some 0x40000010 } })], s.begins (.brd 7 false 1) = true) ∧
    (∀ s ∈ [split (here (.brd 0 false 1))],
      s.begins (.brd 0 false 1) = true ∧ (s.unheld.slicesOf s.cur).head? = some (0, (s.group 16).slices.headD aSlice) ∧
      s.unheld.sliceCond s.cur 0 false 0 15 = 5 ∧ (5 : BitVec 4) ≠ 0 ∧ (5 : BitVec 4) ≠ 15 ∧
      ((s.group 16).slices.headD aSlice).jp = none) ∧
    (∀ s ∈ [split (withG (here (.brd 0 false 1)) fun x => { x with slices := x.slices.map fun sl =>
        { sl with jp := some 0x40000010, stack := List.replicate 8 ⟨0x40000020, 15, 0x40000030, 0⟩ } })],
      s.begins (.brd 0 false 1) = true ∧ ((s.group 16).slices.headD aSlice).jp.isSome = true ∧
      8 ≤ ((s.group 16).slices.headD aSlice).stack.length) ∧
    (∀ e ∈ [(⟨0x40000010, 15, 0x40000030, 5⟩ : Reconv), ⟨0x40000010, 15, 0x40000030, 0⟩],
      ∀ sl ∈ [({ pc := 0x40000010, act := 10, live := 15, stack := [e] } : Slice)],
      sl.stack = e :: [] ∧ sl.pc = e.rpc ∧ e.dpc ≠ e.rpc ∧ (e.dmask = 5 ∨ e.dmask = 0)) ∧
    (0x40000014 : Addr) ≠ 0x40000010 := by decide +kernel

/-- Stacks empty and not; slices that do not all wait, that wait at one word with one number, and that differ. -/
theorem met_RegangAndExit :
    (∀ s ∈ [here (.regang false 3)], s.begins (.regang false 3) = true ∧ (∀ e ∈ s.unheld.slicesOf s.cur, e.2.stack = []) ∧
      s.unheld.pendingAny s.cur 0 = false ∧ (pend s).begins (.regang false 3) = true ∧ (pend s).unheld.pendingAny s.cur 0 = true) ∧
    (∀ s ∈ [withG (here (.regang false 3)) fun x =>
        { x with slices := x.slices.map fun sl => { sl with stack := [⟨0x40000020, 15, 0x40000030, 0⟩] } }],
      s.begins (.regang false 3) = true ∧ ∃ e ∈ s.unheld.slicesOf s.cur, e.2.stack ≠ []) := by decide +kernel

/-- Slices that all wait at one word with one number. -/
def allWait : Group :=
  { team := 1, num := 0, budget := 8, gens := [], slices := List.replicate 8 { pc := 4, act := 15, live := 15, regang := some (4, 3, false) } }

theorem met_RegangAndExit_waiting :
    (∃ sl ∈ ((here (.regang false 3)).group 16).slices, sl.live ≠ 0 ∧ sl.regang = none) ∧
    (∃ sl ∈ allWait.slices, sl.live ≠ 0 ∧ ∀ y ∈ allWait.slices, y.live ≠ 0 → y.regang = some (4, 3, false) ∧ y.pc = sl.pc) ∧
    (((4 : Addr), (3 : BitVec 10), false) ≠ (4, 4, false)) := by decide +kernel

/-- The group inside and outside the party; a phase that is closed, open for the same party and for another; arrived. -/
theorem met_Barriers :
    (∀ k ∈ [(0 : BitVec 2), 1, 2], (here (.bar false 2 k 15)).begins (.bar false 2 k 15) = true ∧
      ((here (.bar false 2 k 15)).unheld.group 16).whole 0 = true ∧
      ((here (.bar false 2 k 15)).unheld.descOf 1).inParty 2 0 = true) ∧
    ((here (.bar false 1 0 0)).unheld.descOf 1).inParty 1 0 = false ∧
    (∀ b ∈ [({ isOpen := true, party := 2, arrived := 1 } : Barrier), { isOpen := true, party := 2 }, { isOpen := true, party := 1 }, {}],
      ∀ s ∈ [withT (here (.bar false 2 1 15)) fun x => { x with bars := x.bars.put {} 15 b }],
      s.begins (.bar false 2 1 15) = true ∧ (s.unheld.team 1).bars.get {} 15 = b ∧
      s.unheld.pendingAny s.cur 1 = false ∧ (pend s).begins (.bar false 2 1 15) = true ∧ (pend s).unheld.pendingAny s.cur 1 = true ∧
      (∀ m ∈ s.livingNums 1, (s.descOf 1).inParty 2 m = true)) := by decide +kernel

/-- Free and full; published and armed; the last reader and one before. -/
theorem met_Jetties :
    (∀ i ∈ [Instr.jwr false 63 1 0 1, .jwr false 63 1 11 255, .jrd false 1 63],
      ∀ x ∈ [({ full := false } : Jetty), { full := true }, { full := true, reduce := true }, { reduce := true, arr := 0, exp := 1 },
        { reduce := true, arr := 1, exp := 2 }],
      ((here i).setJetty 0 63 x).begins i = true ∧ ((here i).setJetty 0 63 x).unheld.jetty 0 63 = x) ∧
    (∀ x ∈ [({ full := true, rc := 1 } : Jetty), { full := true, rc := 2 }, { reduce := true }, {}],
      ∀ s ∈ [(here (.jrel false 63)).setJetty 0 63 x], s.begins (.jrel false 63) = true ∧ s.unheld.pendingAny s.cur 2 = false ∧
        (pend s).begins (.jrel false 63) = true ∧ (pend s).unheld.pendingAny s.cur 2 = true) ∧
    (∀ x ∈ [({ reduce := true, op := 10, exp := 1 } : Jetty), { reduce := true, op := 3, exp := 2, arr := 1 }, { full := true }, {}],
      ∀ s ∈ [(here (.contribution false 63 2 10)).setJetty 0 63 x],
      s.begins (.contribution false 63 2 10) = true ∧ s.cur = .gang 16 0 ∧ s.unheld.pendingAny s.cur 2 = false ∧
      (pend s).begins (.contribution false 63 2 10) = true ∧ (pend s).unheld.pendingAny s.cur 2 = true ∧
      (s.uni s.cur).enabled (s.unheld.reduxValue s.cur 2 10).2 = false) := by decide +kernel

/-! ### Memory -/

/-- A machine on one word with the current thread a service thread or a lane gang, at an address that maps. -/
def A : Nat := 0x40000100

/-- The checks of a lane word's addresses come out as far as the kind given: 0 all fine, 1 a trap of that kind, 2 a fault. -/
def checkKind (c : Checked) : Nat × Nat :=
  match c with
  | .ok _ ps => (0, ps.length)
  | .stop (.trap t) => (1, t.kind)
  | .stop (.fault k _ _) => (2, k)
  | _ => (3, 0)

/-- Each check fails where it is the first to: an address at and below 2^48, an unaligned one, an unmapped one, none; and a
leaf of each kind. -/
theorem met_MemoryChecks :
    (∀ e ∈ [((2 ^ 48 : Nat), 4, (1, 4)), (2 ^ 48 - 4, 4, (2, 1)), (2 ^ 48 - 2, 4, (1, 5)), (A, 4, (0, 1))],
      ∀ s ∈ [here (.umovi false 5 7)],
      checkKind (s.checkVirtual s.cur .load true false e.2.1 [(0, BitVec.ofNat 64 e.1)]) = e.2.2) ∧
    (∀ e ∈ [(0x11 : Nat), 0x13, 0x1F, 0x3F, 0x5F], (MemTy.ofCode ((BitVec.ofNat 64 e).toNat / 2 ^ 5 % 8)).isSome = true) ∧
    (MemTy.ofCode (0xFF / 2 ^ 5 % 8)).isSome = false ∧
    (∀ s ∈ [asCur (.service 0) (here (.umovi false 5 7))], s.translate (s.spaceOf s.cur) A .load false = (s, .ok ⟨A, .shared⟩) ∧
      s.watched s.cur false true false A 4 = none ∧ s.hostWait [⟨A, .shared⟩] = none ∧
      (({ s with hostHeld := [(A / 128, false)] } : State).hostWait [⟨A, .shared⟩]).isSome = true) := by decide +kernel

/-- A load, a store and an atomic that the checks let by. -/
theorem met_ScalarMemoryWords :
    (∀ i ∈ [Instr.uld false 1 2 0 0 0, .ust false 1 2 0 3 0, .uamo false 1 2 4 0 0, .uamo false 1 2 4 9 0],
      ∀ s ∈ [at' i [(2, BitVec.ofNat 64 A)]], s.cur = .spine 0 ∧ s.begins i = true ∧
      s.unheld.watched s.cur false true true A 8 = none ∧
      (∀ k ∈ [AccKind.load, .store, .atomic], ∀ r ∈ [s.unheld.translate (s.unheld.spaceOf s.cur) A k true],
        mapsTo r.2 (fun p => (r.1.snoopHost [p.pa / 128]).isNone && !(r.1.crowdedBy (r.1.cptOf s.cur) (r.1.targetOf 0 p) 1) && !(r.1.loadBytes (r.1.cptOf s.cur) p 8).2.2 &&
          (r.1.storeBytes (r.1.cptOf s.cur) p 8 5 (BitVec.ofNat 64 A)).2 == .stored &&
          (r.1.atomicBytes (r.1.cptOf s.cur) p 8 0 5 0).2.2.2 == .stored &&
          !(r.1.atomicBytes (r.1.cptOf s.cur) p 8 0 5 0).2.2.1) = true)) ∧
    A < 2 ^ 48 ∧ A % 8 = 0 := by decide +kernel

/-- `here` for a word of a gang, with `w3` at `A` and `v2` at 4 times the lane number. -/
def lanesAt (i : Instr) : State := withV (at' i [(3, BitVec.ofNat 64 A)]) 2 fun l => BitVec.ofNat 32 (8 * l)

theorem met_PendingAccesses :
    (∀ i ∈ [Instr.ld false 4 2 3 3 0, .lds false 4 2 3 0, .ldp false 4 2 3 0, .atom false 4 2 3 0, .atom false 4 2 3 11,
        .red false 4 2 3 0, .uld false 1 3 0 3 0],
      (lanesAt i).begins i = true ∨ (asCur (.gang 16 0) (lanesAt i)).begins i = true) ∧
    (∀ s ∈ [lanesAt (.ld false 4 2 3 3 0)],
      checkKind (s.unheld.checkVirtual s.cur .load true false 8 (s.unheld.laneAddrs s.cur 3 2)) = (0, 32) ∧
      checkKind (s.unheld.checkVirtual s.cur .atomic true true 8 (s.unheld.laneAddrs s.cur 3 2)) = (0, 32) ∧
      checkKind (s.unheld.checkUniform s.cur .load true false 8 (BitVec.ofNat 64 A)) = (0, 1)) ∧
    (∀ s ∈ [withV (here (.lds false 4 2 3 0)) 2 fun l => BitVec.ofNat 32 (4 * l)],
      s.unheld.checkPool s.cur true 1 (s.unheld.laneAddrs s.cur 3 2) = none) ∧
    (∀ s ∈ [out (exec (.ld false 4 2 3 3 0) (lanesAt (.ld false 4 2 3 3 0)))], ∀ e ∈ s.reqs,
      s.meetsOlder e.2.group e.1 e.2.todo = false ∧ e.2.op = none ∧ s.hostWait e.2.pages = none ∧ s.operandRegs e.2.group = []) ∧
    (out (exec (.ld false 4 2 3 3 0) (lanesAt (.ld false 4 2 3 3 0)))).reqs.length = 1 := by decide +kernel

/-- The checks of a PRIVATE access answer an address. -/
def answers {α β : Type} (r : Except α β) : Bool :=
  match r with
  | .ok _ => true
  | .error _ => false

/-- Every grid has a number of KiB of exchange region. -/
def withExch (n : Nat) (s : State) : State :=
  { s with grids := s.grids.map fun e => (e.1, { e.2 with desc := { e.2.desc with exch := n } }) }

theorem met_StoreWords :
    (∀ i ∈ [Instr.st false 4 2 3 3 0, .sts false 4 2 3 0, .stp false 4 2 3 0, .xst false 4 2 3 0], (lanesAt i).begins i = true) ∧
    (∀ s ∈ [lanesAt (.st false 4 2 3 3 0)],
      checkKind (s.unheld.checkVirtual s.cur .store false true 8 (s.unheld.laneAddrs s.cur 3 2)) = (0, 32) ∧
      s.blocked s.cur [{ lane := 0, addr := A, size := 8, ty := some .shared, va := BitVec.ofNat 64 A }] = false) ∧
    (∀ s ∈ [withV (here (.sts false 4 2 3 0)) 2 fun l => BitVec.ofNat 32 (4 * l)],
      s.unheld.checkPool s.cur false 1 (s.unheld.laneAddrs s.cur 3 2) = none) ∧
    (∀ s ∈ [withExch 1 (here (.xst false 4 2 3 0))],
      s.begins (.xst false 4 2 3 0) = true ∧ 0 < (s.grid (s.gridOf s.cur)).count ∧ s.teamOf (s.gridOf s.cur) 0 = some 1 ∧
      (s.team 1).placed = true ∧ 0 + 1 ≤ 1024 * (s.grid (s.gridOf s.cur)).desc.exch) := by decide +kernel

/-- The PRIVATE window of a group (R186), in a page of type PRIVATE: its words issue too. -/
def privPage (i : Instr) : State :=
  let s := (withV (withG (here i) fun x => { x with window := some 0 }) 2 fun l => BitVec.ofNat 32 (4 * (l / 32))).modCtx 0 1
    fun c => { c with info := { c.info with privbase := 0x80000000, plim := 4096, wmax := 1 } }
  { s with mem := memWrite s.mem 0x11010 8 0x8000003F }

theorem met_PendingAccesses_priv :
    (∀ e ∈ [(false, Instr.ldp false 4 2 3 2), (true, .stp false 4 2 3 2)], ∀ s ∈ [privPage e.2],
      s.begins e.2 = true ∧ answers (s.unheld.checkPriv s.cur e.1 false 4 (s.unheld.laneAddrs s.cur 3 2)) = true) := by decide +kernel

/-- A sector that the point holds and one that it does not; the ends of a sector. -/
theorem met_BytesThroughTheCache :
    (∀ e ∈ [((0x1000 : Nat), 1), (0x103F, 1), (0x1000, 64), (2 ^ 52 - 8, 8)], 0 < e.2 ∧ e.1 % 64 + e.2 ≤ 64 ∧ e.1 < 2 ^ 52) ∧
    (∀ s ∈ [(here (.umovi false 5 7)).cachedStore 0 .shared 0x1000 8 5 0],
      ∀ x ∈ s.sector? 0 0x1000, ∀ i, i < 8 → x.valid.getLsbD (0x1000 % 64 + i) = true) ∧
    (here (.umovi false 5 7)).makeRoom 0 0x1000 = here (.umovi false 5 7) ∧
    (here (.umovi false 5 7)).sector? 0 0x1000 = none := by decide +kernel

/-- The pending atomics of an `atom` word, and of both sizes. -/
theorem met_Atomics :
    (∀ s ∈ [out (exec (.atom false 4 2 3 0) (lanesAt (.atom false 4 2 3 0)))],
      s.reqs.length = 1 ∧ ∀ e ∈ s.reqs, e.2.op = some 0 ∧ e.2.todo.length = 32 ∧
        s.meetsOlder e.2.group e.1 (e.2.todo.take 1) = false ∧ s.crowdedBy 0 (s.homeDie (s.partOfCpt 0) A) 1 = false ∧ s.snoopHost [A / 128] = none ∧ e.2.ord < 2 ∧ e.2.dst ≠ .nothing) ∧
    (∀ s ∈ [here (.umovi false 5 7)], ∀ n ∈ [4, 8], A % n = 0 ∧ A < 2 ^ 40 ∧ s.owns (s.partOfCpt 0) A = true ∧
      s.sector? 0 A = none ∧ s.l1.find? (l1Key 0 (A / 128 * 128)) = none ∧ s.l1.find? (l1Key 0 (A / 128 * 128 + 64)) = none ∧
      s.foreign A = none) ∧
    (atomicNew 9 32 4 4 7 = some 7 ∧ atomicNew 9 32 4 5 7 = none) := by decide +kernel

/-- A release, an acquire and both at each scope's ends. -/
theorem met_FencesAndCacheEvents_fence :
    ∀ i ∈ [Instr.fence false false 0 1, .fence false true 4 3, .fence false false 2 2], ∀ s ∈ [here i],
      s.begins i = true ∧ s.unheld.pendingAny s.cur 4 = false ∧ s.unheld.lostReport s.cur 4 = none := by decide +kernel

/-- `here` with `w1` at `A`, an address of its line. -/
theorem met_FencesAndCacheEvents_cache :
    ∀ f ∈ [(0 : Nat), 1, 2, 3, 4, 5], ∀ i ∈ [Instr.cache false 1 (BitVec.ofNat 6 f)], ∀ s ∈ [at' i [(1, BitVec.ofNat 64 A)]],
      s.begins i = true ∧
      mapsTo (s.unheld.translate (s.unheld.spaceOf s.cur) (A / 128 * 128) .lineRead true).2 (fun _ => true) = true ∧
      mapsTo (s.unheld.translate (s.unheld.spaceOf s.cur) (A / 128 * 128) .lineWrite true).2 (fun _ => true) = true ∧
      mapsTo (s.unheld.translate (s.unheld.spaceOf s.cur) (A / 128 * 128) .zero true).2 (fun _ => true) = true ∧
      s.watched s.cur false false true (A / 128 * 128) 128 = none ∧
      s.blocked s.cur [{ lane := 0, addr := A / 128 * 128, size := 128, ty := some .shared, va := BitVec.ofNat 64 A }] = false := by
  decide +kernel

theorem met_FencesAndCacheEvents_address :
    (at' (.cache false 1 0) [(1, 0x1000000000000)]).begins (.cache false 1 0) = true := by decide +kernel

theorem met_FencesAndCacheEvents_sectors :
    (∀ s ∈ [(here (.umovi false 5 7)).cachedStore 0 .shared 0x1000 8 5 0],
      ∀ x ∈ s.l1.find? (l1Key 0 (0x40 * 64)), x.ty = .shared) ∧
    ((here (.umovi false 5 7)).cachedStore 0 .shared 0x1000 8 5 0).l1.find? (l1Key 0 (0x40 * 64)) ≠ none := by decide +kernel

theorem met_FencesAndCacheEvents_lease :
    ∀ s ∈ [({ here (.umovi false 5 7) with time := 32000 } : State).setAcc 0 { cur := 1 }],
      (s.acc 0).cur = 1 ∧
      ((s.acc 0).epoch + 1) * s.leaseNs (s.partOfCpt 0) ≤ s.time := by decide +kernel

theorem met_ReleaseAndAcquire :
    (∀ s ∈ [(here (.umovi false 5 7)).cachedStore 0 .shared 0x1000 8 5 0],
      s.owns (s.partOfCpt 0) 0x1000 = true ∧ s.l1.sorted = true ∧ (s.sectorsOf 0).length = 1 ∧
      ∀ e ∈ s.sectorsOf 0, e.2.ty = .shared ∧ e.2.dirty ≠ 0) := by decide +kernel

/-! ### Traps, calls, contexts and hails -/

/-- A program may run service level's words here: the partition's service thread is the current thread, with its page tables
those of physical addresses. -/
def svc (i : Instr) (rs : List (Nat × W64)) : State := withW (asCur (.service 0) (here i)) rs

/-- The record of a trap, a call, a page fault, and a vector that is pending. -/
def call1 : Call := { caller := .spine 0, lane := false, number := 3, payload := [] }

def fault1 : FaultRec :=
  { recid := 5, page := 0x80000, cause := 2, addr := 0x80000000, opener := .spine 16, command := false
    instr := .uld false 1 2 0 3 0 }

def withFault (s : State) : State :=
  let u := s.modCtx 0 1 fun c => { c with faults := [fault1] }
  { u with grids := u.grids.map fun e => (e.1, { e.2 with handler := some 5 }) }

/-- The lowest and the highest code of a trap and of a breakpoint. -/
theorem met_TrapHaltAndResumeWords :
    (∀ i ∈ [Instr.sysTrap false 0, .sysTrap true 63, .sysBkpt false 0, .sysBkpt false 63], (here i).begins i = true) := by
  decide +kernel

/-- Actions 0, 1 and 2, a reserved action and a reserved bit; all teams, the grid's one team, the first number that is no
team's; a grid that is there and one that is not. -/
theorem met_TrapHaltAndResumeWords_halt :
    (∀ e ∈ [((1 : Nat), 2 ^ 32 - 1), (1, 2 ^ 32), (1, 2 ^ 33), (1, 3 * 2 ^ 32), (1, 2 ^ 36), (2, 0), (2 ^ 32, 0)],
      ∀ s ∈ [svc (.sysHalt false 5 2) [(2, BitVec.ofNat 64 e.1), (3, BitVec.ofNat 64 e.2)]],
      s.begins (.sysHalt false 5 2) = true) ∧
    (∀ s ∈ [svc (.sysHalt false 5 2) []], s.unheld.gridNamed 0 1 = some 1 ∧ s.unheld.gridNamed 0 2 = none ∧
      (s.grid 1).count = 1) ∧
    (∀ m ∈ [Mode.halted, .parked .ready true], ∀ s ∈ [withG (svc (.sysHalt false 5 2) []) fun x => { x with mode := m }],
      (s.unheld.beginHalt 1 true 0).haltDone 1 true 0 = true ∧ (s.unheld.beginHalt 1 false 0).haltDone 1 false 0 = true) ∧
    (∀ s ∈ [withG (svc (.sysHalt false 5 2) []) fun x => { x with mode := .halting 8 0 }],
      (s.unheld.beginHalt 1 true 0).haltDone 1 true 0 = false) := by decide +kernel

/-- A unit that a halt does not stop yet: a group in the middle of parking. -/
theorem met_ResumeStates :
    (∀ s ∈ [withG (here (.umovi false 5 7)) fun x => { x with mode := .halted }], (s.group 16).mode = .halted) ∧
    (∀ s ∈ [withG (here (.umovi false 5 7)) fun x => { x with mode := .parked .ready true }],
      (s.group 16).mode = .parked .ready true) ∧
    ((here (.umovi false 5 7)).group 16).mode = .run ∧
    (∀ s ∈ [(here (.umovi false 5 7)).setScalar (.spine 0) { (here (.umovi false 5 7)).scalar (.spine 0) with mode := .halted }],
      (s.scalar (.spine 0)).mode = .halted ∧ s.openCall (.spine 0) = none ∧
      ∀ u ∈ [s.modPart 0 fun p => { p with calls := [(4, call1)] }], u.openCall (.spine 0) = some 4) := by decide +kernel

/-- The lowest and the highest number; a group all of whose slices stand together. -/
theorem met_ServiceCalls :
    (∀ i ∈ [Instr.sysSvc false 0, .sysSvc true 63], (here i).begins i = true) ∧
    (∀ i ∈ [Instr.svc false 0, .svc false 1023], ∀ s ∈ [here i], s.begins i = true ∧ s.cur = .gang 16 0 ∧
      (s.unheld.group 16).whole 0 = true ∧ s.unheld.mayPark s.cur = true) ∧
    (∀ s ∈ [svc (.sysEret false 2) [(2, 4)]], s.begins (.sysEret false 2) = true ∧ s.unheld.callOf s.cur 4 = none ∧
      ∀ u ∈ [s.modPart 0 fun p => { p with calls := [(4, call1)] }],
        u.unheld.callOf u.cur 4 = some call1 ∧ u.unheld.lostReport u.cur 3 = none) ∧
    (∀ s ∈ [here (.sysSvc false 0)], (s.parts.find? (s.partOf (.spine 0))).isSome = true ∧ (s.part 0).nextImage = none ∧
      ((s.modPart 0 fun p => { p with nextImage := some 0x40000000 }).part 0).nextImage ≠ none ∧
      ∀ u ∈ [s.setScalar (.spine 0) { s.scalar (.spine 0) with mode := .calling 4 }],
        call1.caller = .spine 0 ∧ (u.spines.find? 0).isSome = true ∧ (u.scalar (.spine 0)).mode = .calling 4) := by decide +kernel

/-- Before and at the time, and with a hail for the thread. -/
theorem met_WaitingAndQueryWords :
    (∀ i ∈ [Instr.sysYield false, .sysWaiti false 1 2, .sysCodefence false, .sysVdist false 1 2 3, .sysVdie false 1 2],
      (here i).begins i = true) ∧
    (∀ s ∈ [here (.sysWaiti false 1 2)],
      s.unheld.hailFor s.cur = false ∧ (s.getW s.cur 2).toNat ≤ s.time ∧ s.runnable (.spine 0) = true ∧
      (s.fetchWord (.spine 0) (s.pcOf (.spine 0))).2 = .word (encode (.sysWaiti false 1 2)) ∧
      (∀ u ∈ [withW s [(2, 1)]], u.time < (u.getW u.cur 2).toNat) ∧
      (∀ u ∈ [s.modVec 0 1 0 fun h => { h with pend := true, wake := true }], u.unheld.hailFor u.cur = true)) := by
  decide +kernel

/-- A page that a leaf with bit 9 maps, one that no level maps, an open record and none. -/
theorem met_FaultHandlerWords :
    (∀ i ∈ [Instr.sysFmap false 5 2, .sysFretry false 5 2, .sysFskip false 5 2, .sysFabort false 5 2],
      ∀ s ∈ [at' i [(2, 5 * 2 ^ 32)]], s.begins i = true ∧ s.unheld.handledRecord s.cur 2 = none ∧
      (withFault s).begins i = true ∧ (withFault s).unheld.handledRecord s.cur 2 = some fault1) ∧
    (∀ s ∈ [withFault (at' (.sysFmap false 5 2) [(2, 5 * 2 ^ 32)])],
      leafAddr (s.unheld.entryRead 0) (fault1.page * 4096) [1, 2, 3, 4] (s.unheld.ctx 0 1).info.root = none ∧
      s.partOf s.cur = 0 ∧ s.ctxOf s.cur = 1) := by decide +kernel

/-- The page tables of `here` with a last level whose leaf may be filled, and one that may not. -/
def filled (leaf : Nat) (s : State) : State :=
  { s with mem := memWrite (memWrite (memWrite s.mem 0x11010 8 0x12001) 0x12000 8 0x13001) 0x13000 8 leaf }

theorem met_FaultHandlerWords_leaf :
    (∀ s ∈ [filled 0x200 (withFault (at' (.sysFmap false 5 2) [(2, 5 * 2 ^ 32)]))],
      leafAddr (s.unheld.entryRead 0) (fault1.page * 4096) [1, 2, 3, 4] (s.unheld.ctx 0 1).info.root = some 0x13000 ∧
      (s.unheld.entryRead 0 0x13000).testBit 9 = true) ∧
    (∀ s ∈ [filled 0x400 (withFault (at' (.sysFmap false 5 2) [(2, 5 * 2 ^ 32)]))],
      (s.unheld.entryRead 0 0x13000).testBit 9 = false) ∧
    (∀ s ∈ [filled 0x200 (withFault (at' (.sysFmap false 5 2) [(2, 5 * 2 ^ 32), (3, 0x40000001)]))],
      answers (s.unheld.translateRange (s.unheld.spaceOf s.cur) .load true 0x40000001 4096).2 = true ∧
      (s.unheld.translateRange (s.unheld.spaceOf s.cur) .load true 0x40000001 4096).1.handledRecord s.cur 2 = some fault1 ∧
      s.unheld.mayEmulate { fault1 with command := true } = false ∧
      s.unheld.mayEmulate { fault1 with page := 0 } = true) := by decide +kernel
/-- Context 1 in a state of its own. -/
def phased (p : CtxPhase) (s : State) : State := s.modCtx 0 1 fun c => { c with phase := p }

/-- No context, the two that are none, and one of each state, with a request whose deadline has passed. -/
theorem met_ContextRequestsAndSwitches :
    (∀ s ∈ [here (.umovi false 5 7)], (s.ctx 0 1).phase = .resident ∧ (s.ctx 0 2).phase = .none ∧
      (s.ctxs.find? (ctxKey 0 1)).isSome = true) ∧
    (∀ s ∈ [(here (.umovi false 5 7)).modCtx 0 1 fun c => { c with phase := .saving, preq := some 0, preqRan := 10 ^ 9, forced := true }],
      (s.ctx 0 1).phase = .saving ∧ (s.ctx 0 1).preq.isSome = true ∧ (s.ctx 0 1).forced = true ∧ s.drained 0 1 = true ∧
      (s.part 0).halted = false ∧ 1000 * (s.part 0).pdl.toNat ≤ s.requestRan (s.ctx 0 1)) ∧
    ((phased .saved (here (.umovi false 5 7))).ctx 0 1).phase = .saved ∧ ((here (.umovi false 5 7)).part 0).halted = false := by decide +kernel

/-- The record of context 1 has a save area that is long enough (R335, R336). -/
def longArea (s : State) : State := { s with mem := memWrite s.mem ((s.part 0).ctxtab + 256 + 156) 4 0xFFFFFFFF }

/-- The words of a switch: no context, the highest number, one that is none, one that is there and resident. -/
theorem met_ContextRequestsAndSwitches_words :
    (∀ e ∈ [(0 : Nat), 1, 254, 255], ∀ i ∈ [Instr.sysCtxsw false 5 2, .sysCtxld false 5 2],
      (svc i [(2, BitVec.ofNat 64 e)]).begins i = true) ∧
    (∀ s ∈ [svc (.sysCtxsw false 5 2) []], (s.unheld.part 0).switching = none ∧ s.partOf s.cur = 0 ∧
      s.unheld.switchStatus 0 2 0 = 1 ∧ s.unheld.switchStatus 0 0 1 = 3 ∧ s.unheld.switchStatus 0 0 0 = 0 ∧
      ((s.unheld.startSwitch 0 0 0 true).finishSwitch 0 0 0).isSome = true ∧
      ∀ u ∈ [s.modPart 0 fun p => { p with switching := some (0, 0, none) }],
        (u.unheld.part 0).switching.isSome = true ∧ (u.unheld.finishSwitch 0 0 0).isSome = true) ∧
    (∀ s ∈ [longArea (phased .saved (svc (.sysCtxsw false 5 2) []))],
      s.unheld.switchStatus 0 0 1 = 0) ∧
    (∀ s ∈ [longArea (svc (.sysCtxsw false 5 2) [])],
      s.unheld.switchStatus 0 1 0 = 0 ∧ ((s.unheld.startSwitch 0 1 0 true).finishSwitch 0 1 0).isNone = true) := by decide +kernel

/-- The lowest and the highest destination; a register that refuses a value, one that takes it. -/
theorem met_SystemRegisters :
    (∀ i ∈ [Instr.sr false 1 0 0x010, .sr false 63 0 0x021, .sr false 0 2 0x021, .sr false 0 2 0x020], (here i).begins i = true) ∧
    (∀ s ∈ [here (.sr false 0 2 0x020)], (s.unheld.writeSr s.cur 0x020 0).isNone = true ∧
      (s.unheld.writeSr s.cur 0x020 1).isSome = true ∧ (s.unheld.writeSr s.cur 0x020 4).isSome = true ∧
      (s.unheld.writeSr s.cur 0x020 5).isNone = true ∧ srGate (.sr false 0 0 0x020) (levelOf s.cur) = none) ∧
    ((0x201 : W64).toNat % 8 = 1 ∧ (0x204 : W64).toNat % 8 = 4 ∧ (0x204 : W64).toNat / 2 ^ 10 % 2 ^ 22 = 0 ∧
      (0x201 : W64).getLsbD 9 = true) ∧
    (∀ p ∈ [0, 5], (here (.umovi false 5 7)).writePwrctl (setField (here (.umovi false 5 7)).root.pwrctl 0 3 p) ≠ none) ∧
    ((here (.umovi false 5 7)).writePwrctl (setField (here (.umovi false 5 7)).root.pwrctl 8 16 0xFFFF) ≠ none) := by
  decide +kernel

/-- A queue of notices at the two ends, a translation of one page and of another. -/
theorem met_SystemRegisters_queues :
    (∀ s ∈ [here (.umovi false 5 7)], (s.parts.find? 0).isSome = true ∧ (s.part 0).notices = [] ∧
      ((s.modPart 0 fun p => { p with notices := [⟨1, 2, 3⟩] }).part 0).notices = [⟨1, 2, 3⟩]) ∧
    (∀ n ∈ [1022, 1023], (∀ m ∈ List.replicate n (⟨1, 2, 3⟩ : Notice), m.kind ≠ 7) ∧
      (List.replicate n (⟨1, 2, 3⟩ : Notice)).length = n) ∧
    (∀ s ∈ [((here (.umovi false 5 7)).translate (.ctx 0 1 0) 0x40000000 .load true).1], s.tlb ≠ []) := by decide +kernel

/-- A target of this package and of a peer, of no context, of a link that is down and of a reserved form. -/
theorem met_Hails :
    (∀ s ∈ [at' (.hailSend false 5 2) [(2, 0x105)]], s.begins (.hailSend false 5 2) = true ∧
      hailTargetOk 0x105 = true ∧ hailTargetOk 0x205 = true ∧ hailTargetOk 0x1010005 = true ∧ hailTargetOk 0x20 = false ∧
      s.partOf s.cur = 0 ∧ s.ctxOf s.cur = 1 ∧ (s.ctx 0 1).phase ≠ .none ∧ (s.ctx 0 2).phase = .none ∧
      s.unheld.pendingAny s.cur 3 = false ∧ s.unheld.pendingAny s.cur 4 = false ∧ s.unheld.lostReport s.cur 3 = none ∧ s.unheld.lostReport s.cur 4 = none ∧
      s.root.plUp.getLsbD 0 = false ∧ ({ s with root := { s.root with plUp := 1 } } : State).root.plUp.getLsbD 0 = true ∧
      (0x1010005 : W64).getLsbD 16 = true ∧ (0x1010005 : W64).toNat / 2 ^ 17 % 16 = 0 ∧ (0x105 : W64).getLsbD 16 = false) ∧
    (∀ i ∈ [Instr.hailMask false 5 2, .hailTake false 4 2, .hailTake false 60 2, .hailRet false, .hailPend false 5 2,
        .hailPerm false 5 2],
      (here i).begins i = true) := by decide +kernel

/-- A taker with a vector it may take, with none, and in its service; the codes of `hail.perm`. -/
theorem met_Hails_takes :
    (∀ i ∈ [Instr.hailTake false 4 2], ∀ s ∈ [here i], s.unheld.servingOf s.cur = none ∧
      s.unheld.pickVector 0 1 1 = none ∧
      (∀ u ∈ [s.modVec 0 1 0 fun h => { h with pend := true }], u.unheld.pickVector 0 1 1 = some 0) ∧
      ((s.setServing s.cur (some 31) 0).unheld.servingOf s.cur = some 31) ∧
      (asCur (.gang 16 0) s).begins i = true ∧ ((asCur (.gang 16 0) s).unheld.group 16).whole 0 = true ∧
      s.unheld.hailLock 0 1 = false ∧
      ∀ u ∈ [({ s with mem := memWrite s.mem ((s.part 0).ctxtab + 256 + 14) 1 2 } : State)], u.unheld.hailLock 0 1 = true) ∧
    (hailPermOk 63 0 = true ∧ hailPermOk 0x13F 0xFFFFFFFFFFFFFFFF = true ∧ hailPermOk 0x21F 7 = true ∧ hailPermOk 0x220 7 = false ∧
      hailPermOk 0x21F 8 = false ∧ hailPermOk 0x300 0 = false) := by decide +kernel

/-- The vectors at both ends, the messages of a function, an empty and a full count. -/
theorem met_Hails_arrivals :
    (∀ s ∈ [{ here (.umovi false 5 7) with hails := [⟨0, 1, 31, 7, 1, 0⟩] }],
      (s.hails.find? (fun m => m.part == 0 && m.ctx == 1)).isSome = true ∧ (s.ctx 0 1).phase ≠ .none ∧
      s.permitted 0 1 2 31 = false ∧ s.permitted 0 1 1 31 = true ∧
      (s.ctxs.find? (ctxKey (s.partOf (.spine 0)) (s.ctxOf (.spine 0)))).isSome = true) ∧
    (({} : HVec).pend = false ∧ ({ pend := true, count := 0xFFFF } : HVec).pend = true) ∧
    (∀ s ∈ [({ here (.umovi false 5 7) with funcPart := [(5, 0)] } : State)], (s.homeOfFunc 5).isSome = true) := by decide +kernel
/-! ### Launch, placement and the exchange -/

/-- Registers of a spawn of one team from a descriptor at `A` + 0xF00: w18 IMG, w19 SHAPE, w20 JOIN, w24 SIZE. -/
def spawnAt (i : Instr) (regs : List (Nat × W64)) : State :=
  let s := at' i ([(18, 0x40001000), (19, 1), (20, 0x40002000), (24, 9)] ++ regs)
  { s with mem := memWrite s.mem 0x40001000 64 (0x1344B424D + 2 ^ 64 + 2 ^ 88) }

/-- The pages and descriptors of a spawn come, pass the checks, and a variant is selected or not. -/
def spawnComes (s : State) (v want : Bool) : Bool :=
  match s.spawnPages (.ctx 0 1 (s.fetchCore s.cur)) [(.load, 0x40001000), (.store, 0x40002000)] with
  | (s1, .ok ps) =>
    match s1.spawnImages (.ctx 0 1 (s.fetchCore s.cur)) 0x40001000 with
    | (s2, .ok im) => (ps.drop 1).all (fun p => p.ty == .shared) && im.check 0 == none && (im.pick v 9).isSome == want
        && s2.lostReport s.cur 3 == none
    | _ => false
  | _ => false

/-- The descriptor has a variant table of one entry, with a bound, and the variant stands 256 bytes on. -/
def oneVariant (b : Nat) (s : State) : State :=
  let m := memWrite (memWrite (memWrite s.mem 0x40001006 1 1) 0x40001040 8 b) 0x40001048 8 0x100
  { s with mem := memWrite m 0x40001100 64 (0x1344B424D + 2 ^ 64 + 2 ^ 88) }

/-- Every flag; a spawn that passes every check, without and with variants, of which none reaches. -/
theorem met_SpawnAndJoin :
    (∀ i ∈ [Instr.spawn false 5 10 false false false false, .spawn false 5 10 false false true true],
      ∀ s ∈ [spawnAt i []], s.begins i = true ∧ levelOf s.cur = 0 ∧ (s.unheld.spawnRec s.cur 10).ctx = 0 ∧
      (s.unheld.spawnRec s.cur 10).fieldsOk false false = true ∧ s.partOf s.cur = 0 ∧ s.ctxOf s.cur = 1 ∧
      (s.ctx 0 1).phase ≠ .none ∧ addrsTrap ((s.unheld.spawnRec s.cur 10).addrs false false) = none ∧
      spawnComes s.unheld false true = true) ∧
    (∀ s ∈ [spawnAt (.spawn false 5 10 true true true true) []],
      s.begins (.spawn false 5 10 true true true true) = true ∧
      (s.unheld.spawnRec s.cur 10).fieldsOk true true = false) := by decide +kernel

/-- A target context named at level 0, a reserved bit, an unaligned and an out-of-range address, a wrong signature, a variant
table whose one bound SIZE exceeds. -/
theorem met_SpawnAndJoin_traps :
    (∀ s ∈ [spawnAt (.spawn false 5 10 false false false false) [(19, 0x10000000001)]],
      (s.unheld.spawnRec s.cur 10).ctx = 1) ∧
    (∀ s ∈ [spawnAt (.spawn false 5 10 false false false false) [(19, 0x800000001)]],
      (s.unheld.spawnRec s.cur 10).fieldsOk false false = false) ∧
    (∀ x ∈ [(0x40001020 : Nat), 2 ^ 48], ∀ s ∈ [spawnAt (.spawn false 5 10 false false false false) [(18, BitVec.ofNat 64 x)]],
      (addrsTrap ((s.unheld.spawnRec s.cur 10).addrs false false)).isSome = true) ∧
    (∀ b ∈ [8, 9], ∀ s ∈ [oneVariant b (spawnAt (.spawn false 5 10 false false false true) [])],
      spawnComes s.unheld true (b == 9) = true) := by decide +kernel

/-- The queue of a priority at 63 and at 64 grids; a counter at and below its target. -/
theorem met_SpawnAndJoin_queue :
    (∀ n ∈ [63, 64], ∀ s ∈ [({ here (.umovi false 5 7) with grids := (List.range n).map fun k =>
        (k, { part := 0, ctx := 1, num := 1, desc := {}, args := [], phase := .gated }) } : State)],
      s.queueLength 0 0 = n) ∧
    (∀ s ∈ [at' (.join false 5 2 3) [(2, 0x40002000)]], s.begins (.join false 5 2 3) = true ∧
      checkKind (s.unheld.checkUniform s.cur .load true false 8 (s.unheld.getW s.cur 2)) = (0, 1) ∧
      (s.getW s.cur 3).toNat ≤ 0 ∧ ∀ u ∈ [withW s [(3, 1)]], 0 < (u.getW u.cur 3).toNat) := by decide +kernel

/-- A gated grid at the ends of its gate, and a grid that has ended but for its last check. -/
theorem met_PlacementAndRetirement :
    (∀ j ∈ [0, 1, 8, 9, 62, 63], j < 64) ∧
    (∀ s ∈ [here (.umovi false 5 7)], (s.grids.find? 1).isSome = true ∧ (s.groups.find? 16).isSome = true ∧
      (s.part 0).halted = false ∧ (∃ sl ∈ (s.group 16).slices, sl.live ≠ 0) ∧ s.openCmds 16 = [] ∧ s.openAtomics 16 = false ∧
      (s.grid 1).phase = .resident ∧ (s.grid 1).retired ≠ (s.grid 1).count) ∧
    (∀ s ∈ [withG (here (.umovi false 5 7)) fun x => { x with slices := x.slices.map fun sl => { sl with live := 0 } }],
      ∀ sl ∈ (s.group 16).slices, sl.live = 0) := by decide +kernel

/-- The one grid changed. -/
def withGrid (f : Grid → Grid) (s : State) : State := { s with grids := s.grids.map fun e => (e.1, f e.2) }

theorem met_PlacementAndRetirement_grid :
    (∀ s ∈ [withGrid (fun g => { g with phase := .gated, gate := some (0x40002000, 7), icnt := none, co := false }) (here (.umovi false 5 7))],
      (s.grid 1).phase = .gated ∧ (s.grid 1).gate = some (0x40002000, 7) ∧ (s.homeRead 0x40002000 8).1 < (7 : W64).toNat ∧
      (∀ u ∈ [({ s with mem := memWrite s.mem 0x40002000 8 7 } : State)], (7 : W64).toNat ≤ (u.homeRead 0x40002000 8).1) ∧
      0 < (s.grid 1).count ∧ (s.grid 1).co = false ∧ (s.grid 1).icnt = none) ∧
    (∀ s ∈ [withGrid (fun g => { g with retired := g.count, live := [], join := some 0x40002000 }) (here (.umovi false 5 7))],
      (s.grid 1).phase = .resident ∧ (s.grid 1).retired = (s.grid 1).count ∧ (s.grid 1).live = [] ∧
      (s.grid 1).join = some 0x40002000 ∧ (s.grid 1).handler = none) := by decide +kernel

/-- The counter of a phase at and beyond the ends of its range. -/
theorem met_ExchangeWords :
    (∀ s ∈ [at' (.xexp false 2) [(2, 0x7FFFFFFF)]], s.begins (.xexp false 2) = true ∧
      (∀ e ∈ [((0 : Int), true), (1, false)], ∀ u ∈ [withT s fun x => { x with xcount := e.1 }],
        decide ((u.unheld.team (u.unheld.teamKey u.cur)).xcount + ((u.unheld.getW u.cur 2).setWidth 32).toInt < 2 ^ 31) = e.2)) ∧
    (∀ s ∈ [at' (.xexp false 2) [(2, 0x80000000)]],
      (∀ e ∈ [((0 : Int), true), (-1, false)], ∀ u ∈ [withT s fun x => { x with xcount := e.1 }],
        decide (-2 ^ 31 ≤ (u.unheld.team (u.unheld.teamKey u.cur)).xcount + ((u.unheld.getW u.cur 2).setWidth 32).toInt) = e.2)) ∧
    (∀ s ∈ [withExch 1 (here (.xbar false))], s.cur = .gang 16 0 ∧ s.begins (.xbar false) = true ∧
      s.unheld.pendingAny s.cur 1 = false ∧ (pend s).begins (.xbar false) = true ∧ (pend s).unheld.pendingAny s.cur 1 = true ∧
      (s.unheld.group 16).whole 0 = true ∧ (s.unheld.team 1).xarrived.getLsbD 0 = false ∧
      ∀ u ∈ [withG s fun x => { x with slices := x.slices.zipIdx.map fun e => { e.1 with gang := e.2 } }],
        (u.unheld.group 16).whole 0 = false) ∧
    (here (.xstat false 5)).begins (.xstat false 5) = true := by decide +kernel

theorem met_ExchangeWords_swap :
    (∀ s ∈ [here (.umovi false 5 7)], (s.teams.find? 1).isSome = true ∧ (s.descOf 1).flags.getLsbD 0 = false ∧
      s.livingNums 1 = [0] ∧ (s.team 1).xcount = 0 ∧ ∀ u ∈ [withT s fun x => { x with xcount := -2 ^ 31 }], (u.team 1).xcount < 0) ∧
    (∀ s ∈ [({ here (.umovi false 5 7) with xpkts := [⟨0, 0, 16, 1, 1, 1, 1020, 4, 7⟩] } : State)],
      (s.xpkts.find? (fun p => p.src == 0 && p.dst == 0)).isSome = true) ∧
    (∀ c ∈ [(-2 ^ 31 + 4 : Int), -2 ^ 31 + 3], (decide (-2 ^ 31 ≤ c - 4)) = decide (c ≠ -2 ^ 31 + 3)) := by decide +kernel

/-! ### The engines -/

/-- 15 and 16 open batches, an empty and a full open batch. -/
theorem met_BatchesAndCommands :
    (∀ n ∈ [15, 16], ∀ s ∈ [withG (here (.bclose false 5)) fun x => { x with closed := List.replicate n ⟨0, [], 5⟩ }],
      s.cur = .gang 16 0 ∧ s.begins (.bclose false 5) = true ∧ (s.unheld.group 16).closed.length = n ∧
      (s.unheld.group 16).openBatch = []) ∧
    (∀ s ∈ [withG (here (.bclose false 5)) fun x => { x with openBatch := [1], closed := [⟨3, [1], 63⟩] }],
      (s.unheld.group 16).openBatch ≠ [] ∧ (s.groups.find? 16).isSome = true ∧
      (s.group 16).closed.find? (fun c => c.num == 3) = some ⟨3, [1], 63⟩ ∧ (∃ sl ∈ (s.group 16).slices, sl.live ≠ 0) ∧
      (∀ d ∈ [true, false], ∀ u ∈ [({ s with cmds := [(1, { group := 16, team := 1, kind := .maccClear, batch := 3, done := d })] } : State)],
        ∀ c ∈ [1].filterMap u.cmds.find?, c.done = d)) := by decide +kernel

/-- Ranges at and past the end of their space, and unaligned. -/
theorem met_BatchesAndCommands_ranges :
    (∀ e ∈ [((2 ^ 48 - 4 : Nat), 4), (2 ^ 48 - 3, 4), (2 ^ 48, 0), (2, 4)],
      ∀ r ∈ [({ spad := false, addr := BitVec.ofNat 64 e.1, len := e.2 } : Range)],
      r.spad = false ∧ decide (2 ^ 48 < r.addr.toNat + max r.len 1) = decide (e.1 ≠ 2 ^ 48 - 4 ∧ e.1 ≠ 2) ∧
      decide (r.addr.toNat % r.align = 0) = decide (e.1 ≠ 2 ∧ e.1 ≠ 2 ^ 48 - 3)) ∧
    (∀ s ∈ [here (.umovi false 5 7)], (s.descOf (s.group 16).team).spaceBytes = 8 * 65536) := by decide +kernel

/-- What a check of ranges comes to. -/
def pins (p : Pinned) : Bool :=
  match p with
  | .ok _ _ => true
  | .stop _ => false

/-- w2 to w7: a copy within scratchpad, a gather of 4 rows and a scatter of 4 tokens to one bin. -/
theorem met_CopyCommands :
    (∀ e ∈ [((4 : Nat), true), (2 ^ 21, true), (2, true), (2 ^ 22, true)],
      ∀ s ∈ [at' (.cpy false 2 1 0) [(2, 0x40002000), (3, 0), (4, BitVec.ofNat 64 e.1)]],
      s.cur = .gang 16 0 ∧ s.begins (.cpy false 2 1 0) = true ∧ s.unheld.copyFull 16 = false ∧
      (s.unheld.group 16).whole 0 = true ∧ s.unheld.batchFull 16 = false ∧ (s.getW s.cur 4).toNat = e.1) ∧
    (∀ s ∈ [at' (.cpy false 2 1 0) []], ∀ len ∈ [0, 4, 0x80000],
      pins (s.unheld.checkRanges s.cur [⟨false, 0x40002000, len, 4, .copyRead⟩, ⟨true, 0, len, 4, .copyWrite⟩]) = true) := by
  decide +kernel

theorem met_CopyCommands_full :
    (∀ s ∈ [({ here (.cpy false 2 1 0) with cmds := (List.range 64).map fun n =>
        (n, { group := 16, team := 1, kind := .cpy true true 0 0 4 0 [] [], batch := 0 }) } : State)],
      s.unheld.copyFull 16 = true) ∧
    (∀ s ∈ [withG (here (.cpy false 2 1 0)) fun x => { x with openBatch := List.range 64 }], s.unheld.batchFull 16 = true) := by
  decide +kernel

/-- The gather's and the scatter's smallest sizes. -/
theorem met_CopyCommands_gather :
    (∀ w ∈ [false, true], ∀ i ∈ [Instr.gather false 2 1 w],
      ∀ s ∈ [at' i [(2, 0x40002000), (3, 1), (4, 0x40003000), (5, 4), (6, 4), (7, 0)]],
      s.begins i = true ∧ s.unheld.copyFull 16 = false ∧ s.unheld.batchFull 16 = false ∧
      s.unheld.rangeTrap s.cur ⟨false, 0x40002000, if w then 8 else 4, if w then 8 else 4, .copyRead⟩ = none ∧
      s.unheld.rangeTrap s.cur ⟨false, 0x40003000, 0, 4, .copyRead⟩ = none ∧
      s.unheld.rangeTrap s.cur ⟨true, 0, 4, 4, .copyWrite⟩ = none ∧
      pins (s.unheld.checkRanges s.cur [⟨false, 0x40002000, if w then 8 else 4, if w then 8 else 4, .copyRead⟩,
        ⟨true, 0, 4, 4, .copyWrite⟩]) = true) := by decide +kernel

/-- One bin at 0x40004000 with base 0x40005000 and capacity `cap`. -/
def binsAt (cap : Nat) (s : State) : State :=
  { s with mem := memWrite (memWrite s.mem 0x40004000 8 0x40005000) 0x40004008 4 cap }

def scatterRanges : List Range :=
  [⟨true, 0, 4, 4, .copyRead⟩, ⟨false, 0x40003000, 4, 4, .copyRead⟩, ⟨false, 0x40004000, 16, 16, .atomic⟩]

/-- The pages of the scatter pin, in pages of type SHARED, and its one bin is as the statement's clauses want. -/
def scatterPins (s : State) (ok : Bool) : Bool :=
  match s.pinRanges s.cur scatterRanges with
  | (s1, .ok fs) =>
    let q := s1.readBins 16 (fs.getD 2 []) 0x40004000 1
    let bins := q.2
    let slots := bins.map fun b => (⟨false, BitVec.ofNat 64 b.2.1, b.2.2 * 4, 4, .copyWrite⟩ : Range)
    if ok then
      (bins.all fun b => decide (b.2.2 < 2 ^ 31 ∧ b.2.2 * 4 ≤ 2 ^ 21)) && slots.findSome? (q.1.rangeTrap s.cur) == none && (s1.snoopHost (engLines false (fs.getD 2 []) 0x40004000 4)).isNone &&
        framesTyped (fs.getD 2 []) [.shared] &&
        match q.1.pinRanges s.cur slots with
        | (s2, .ok _) => s2.watchRanges s.cur (scatterRanges ++ slots) == none
        | _ => false
    else bins.any fun b => decide (2 ^ 31 ≤ b.2.2 ∨ 2 ^ 21 < b.2.2 * 4)
  | _ => false

theorem met_CopyCommands_binscat :
    (∀ s ∈ [at' (.binscat false 2 1) [(2, 0), (3, 1), (4, 4), (5, 0x40003000), (6, 0x40004000), (7, 1)]],
      s.begins (.binscat false 2 1) = true ∧ s.unheld.copyFull 16 = false ∧ s.unheld.batchFull 16 = false ∧
      binscatCause 1 4 1 = 0 ∧ scatterRanges.findSome? (s.unheld.rangeTrap s.cur) = none ∧
      scatterPins (binsAt 2 s).unheld true = true ∧ scatterPins (binsAt (2 ^ 19 + 1) s).unheld false = true) := by decide +kernel

/-- A copy that all groups have supplied and one that they have not; a bin with room and a full one. -/
theorem met_CopyCommands_runs :
    (∀ s ∈ [withG (here (.umovi false 5 7)) fun x => { x with cpys := 1 }],
      s.cpyReady 1 = false ∧ (s.team 1).cpyStarted = 0 ∧
      ∀ u ∈ [({ s with cmds := [(1, { group := 16, team := 1, kind := .cpy true true 0 0 4 0 [] [], batch := 0 })] } : State)],
        u.cpyReady 1 = true ∧ u.slicesOfCpy 1 0 ≠ [] ∧ u.engineOff 1 = false ∧ u.olderPending 16 1 = false ∧
        (∀ e ∈ u.slicesOfCpy 1 0, u.olderPending e.2.group e.1 = false) ∧
        ∀ z ∈ [pend { u with nextId := 0 }], z.olderPending 16 1 = true ∧ z.cpyReady 1 = false) ∧
    ((here (.umovi false 5 7)).modPart 0 fun p => { p with halted := true }).engineOff 1 = true ∧
    (∀ c ∈ [({ group := 16, team := 1, kind := .gather true false 0x40002000 1 0x40003000 4 4 0 [] [], batch := 0 } : Cmd),
        { group := 16, team := 1, kind := .binscat true 0 1 4 0x40003000 0x40004000 [] [] [], batch := 0 }],
      c.done = false ∧ ({ c with done := true } : Cmd).done = true) ∧
    0x4000400C % 4 = 0 ∧
    (∀ e ∈ [((0 : Nat), 1), (2, 2)], ∀ s ∈ [({ here (.umovi false 5 7) with mem := memWrite [] 0x4000400C 4 e.1 } : State)],
      decide (((s.evictSector 0 0x40004000).evictSector 0 0x40004040).homeValue 0x4000400C 4 % 2 ^ 31 < e.2) = decide (e.1 = 0)) := by
  decide +kernel
/-- A command of group 16 of a kind. -/
def cmdOf (k : CmdKind) : Cmd := { group := 16, team := 1, kind := k, batch := 3 }

/-- The command stands at the head of the queue of group 16. -/
def queued (k : CmdKind) (s : State) : State :=
  let t := withG s fun x => { x with mq := [1] }
  { t with cmds := [(1, cmdOf k)] }

/-- A quad of four groups. -/
def quad (s : State) : State :=
  { s with groups := (List.range 4).map fun i => (16 + i, { s.group 16 with num := i }) }

/-- Reduced service ended (R383). -/
def fullService (s : State) : State := { s with root := { s.root with bootstat := 0x300000 &&& 0x200000 } }

/-- Every matrix word; its queue with 15 and with 16 commands. -/
theorem met_MatrixWords :
    (∀ i ∈ [Instr.mwld false 2 0 0 false 0, .mma false 0 4 0 true false 0, .maccZero false 0, .maccLoad false 63 2, .maccStore false 0 2 0,
        .maccAdd false 0 63, .maccScale false 0 2, .maccClear false, .cbload false 0 2, .maccRow false 0 2, .mopfence false],
      ∀ s ∈ [here i], s.cur = .gang 16 0 ∧ s.begins i = true) ∧
    (∀ n ∈ [15, 16], ∀ s ∈ [withG (here (.maccClear false)) fun x => { x with mq := List.range n }],
      s.mqFull 16 = decide (n = 16) ∧ engineOf (.maccClear false) = some .matrix ∧ (Instr.maccClear false).hasWord = true) := by
  decide +kernel

/-- An `mwld` of a quad, in a group alone, and with a lane inactive; an `mma` after an `mwld`, and before. -/
theorem met_MatrixWords_checks :
    (∀ s ∈ [here (.mwld false 2 0 0 false 0)], (s.mwldCheck 16 0 0 0).isSome = true ∧ (quad s).mwldCheck 16 0 0 0 = none) ∧
    (∀ s ∈ [fullService (here (.mma false 0 4 0 true false 0))],
      s.batchFull 16 = false ∧ s.tileHeld 16 0 = false ∧ s.reduced = false ∧
      (s.mmaCheck 16 s.cur 0 32 0 0 1 false 0).isSome = true ∧
      ∀ u ∈ [withG s fun x => { x with lastMwld := some (0, false) }],
        (u.mmaCheck 16 u.cur 0 32 0 0 1 false 0 = none) ∧ (u.mmaCheck 16 u.cur 0 65504 0 0 1 false 0 = none) ∧
        (mmaRanges 0 32 0 1 false 0).findSome? (u.rangeTrap u.cur) = none ∧
        ((mmaRanges 0x80000 32 0 1 false 0).findSome? (u.rangeTrap u.cur)).isSome = true ∧
        (Machine.pairOk 0 false 0 false = true) ∧
        ((withT u fun x => { x with heldTiles := [0] }).tileHeld 16 0 = true)) ∧
    ((32 : W64).toNat % 32 = 0 ∧ (65504 : W64).toNat ≤ 65504 ∧ ¬ (65536 : W64).toNat ≤ 65504 ∧ (33 : W64).toNat % 32 ≠ 0) := by
  decide +kernel

/-- The group-side checks of `macc` and `cbload` at their two outcomes; pending fills. -/
theorem met_MatrixWords_tiles :
    (∀ s ∈ [here (.maccZero false 0)], s.unheld.tileCheck 16 s.cur 0 [0] [⟨true, 0, 8192, 128, .copyRead⟩] = none ∧
      s.batchFull 16 = false ∧ (s.unheld.tileCheck 16 s.cur 0 [0] [⟨true, 64, 8192, 128, .copyRead⟩]).isSome = true ∧
      (s.unheld.tileCheck 16 s.cur 5 [0] []).isSome = true ∧ (s.unheld.group 16).vEmpty = 0 ∧ (s.unheld.group 16).uni.empty = 0 ∧
      ∀ u ∈ [withG s fun x => { x with vEmpty := 4 }], (u.unheld.group 16).vEmpty.getLsbD 2 = true) := by decide +kernel

/-- Each command at the head of the queue, the queue running and halted. -/
theorem met_MatrixTurns :
    (∀ k ∈ [CmdKind.mma 0 64 true false 0 0 32 0, .maccZero 63, .maccAdd 0 1, .maccClear, .cbload 0 0],
      ∀ s ∈ [queued k (here (.umovi false 5 7))], (s.mqHead 16).isSome = true ∧ s.engineOff 1 = false ∧ s.tileClosing 1 [0, 1, 63] = false ∧
      (s.group 16).mqHalted = false ∧ s.bookAwaited 1 1 0 = false ∧
      ((withG s fun x => { x with mstat := 2 }).group 16).mqHalted = true) ∧
    (∀ s ∈ [queued (.cbload 0 0) (here (.umovi false 5 7))],
      ∀ u ∈ [({ s with cmds := (0, cmdOf (.mwld 0 0 0 0 0 false 7)) :: s.cmds } : State)], u.bookAwaited 1 1 0 = true) := by
  decide +kernel

/-- A weight load whose four words stand at their heads, one that waits, and one whose words disagree. -/
def loads (n : Nat) (fmt : Nat → Nat) (s : State) : State :=
  { s with
    groups := (List.range 4).map fun i => (16 + i, { s.group 16 with num := i, mq := if i < n then [i] else [] })
    cmds := (List.range 4).map fun i => (i, { cmdOf (.mwld 0 2 0 0 0 false (fmt i)) with group := 16 + i }) }

theorem met_MatrixTurns_load :
    (∀ s ∈ [loads 4 (fun _ => 0) (here (.umovi false 5 7))], s.engineOff 1 = false ∧ s.quadWhole 1 0 = true ∧ (s.loadParts 1 0).length = 4 ∧
      ∀ p ∈ s.loadParts 1 0, s.loadCause (s.loadParts 1 0) p.2.2 = 0) ∧
    (∀ s ∈ [loads 3 (fun _ => 0) (here (.umovi false 5 7))], s.quadWhole 1 0 = true ∧ (s.loadParts 1 0).length < 4) ∧
    (∀ s ∈ [loads 4 (fun i => if i = 3 then 1 else 0) (here (.umovi false 5 7))], (s.loadParts 1 0).length = 4 ∧
      ∃ p ∈ s.loadParts 1 0, s.loadCause (s.loadParts 1 0) p.2.2 ≠ 0) := by decide +kernel

theorem met_MatrixTurns_tiles :
    (∀ s ∈ [here (.umovi false 5 7)], (s.groups.find? 16).isSome = true ∧ (s.group 16).wset = none ∧ (s.tile 1 63).valid = false) ∧
    (∀ s ∈ [withG (withT (here (.umovi false 5 7)) fun x => { x with tiles := [(63, { valid := true })], spad := (List.range 64).map fun i => (i, 1) }) fun x =>
        { x with wset := some ⟨0, false, [], [], false⟩ }],
      (s.tile 1 63).valid = true ∧ (s.group 16).wset = some ⟨0, false, [], [], false⟩ ∧
      ∀ e ∈ (s.mmaStream 16 1 true 5 0 32 0).scales, e.1 ≠ 0xFF ∧ e.2 ≠ 0xFF) ∧
    (15 < 16 ∧ (63 : Nat) < 64) := by decide +kernel

/-- The first and the last tag of a pool, allocated and free. -/
theorem met_LandingWords :
    (∀ i ∈ [Instr.ltagAlloc false 1, .ltagAlloc true 63, .ltagAlloc false 0], (here i).begins i = true ∧
      isGang (here i).cur = false ∧ (asCur (.gang 16 0) (here i)).begins i = true) ∧
    (∀ s ∈ [at' (.ltagFree false 2) [(2, 0x80010000)]], s.begins (.ltagFree false 2) = true ∧
      s.unheld.ownsTag 0 1 0x80010000 = false ∧ (s.parts.find? 0).isSome = true ∧ (s.part 0).ntags = 64 ∧
      ((s.part 0).tags.get {} 0).owner = none ∧
      ∀ u ∈ [s.modPart 0 fun p => { p with tags := (List.range 64).map fun i => (i, { gen := 1, owner := some 1 }) }],
        u.unheld.ownsTag 0 1 0x80010000 = true ∧ u.unheld.ownsTag 0 1 0x8001003F = true ∧ u.unheld.ownsTag 0 1 0x80010040 = false ∧
        ∀ i, i < 64 → ((u.part 0).tags.get {} i).owner ≠ none) := by decide +kernel

/-- A `meet` that passes its checks with 2 and with 16 parties, and one that holds a tile. -/
theorem met_LandingWords_meet :
    (∀ n ∈ [2, 16], ∀ s ∈ [at' (.meet false 0 10 5 0 false 0)
        [(10, 0x80010000), (11, 0x40002000), (12, 0x40001000), (13, BitVec.ofNat 64 n)]],
      s.cur = .gang 16 0 ∧ s.begins (.meet false 0 10 5 0 false 0) = true ∧ s.unheld.mqFull 16 = false ∧
      s.unheld.batchFull 16 = false ∧ s.unheld.tileHeld 16 0 = false ∧ (s.unheld.part 0).ntags = 64 ∧
      (s.unheld.part 0).classen.getLsbD 0 = true ∧
      pins (s.unheld.checkRanges s.cur [⟨false, 0x40002000, 8192, 128, .copyWrite⟩, ⟨false, 0x40001000, 8, 8, .atomic⟩]) = true) ∧
    (∀ s ∈ [withT (here (.meet false 0 10 5 0 false 0)) fun x => { x with heldTiles := [0] }], s.unheld.tileHeld 16 0 = true) := by
  decide +kernel

/-- An arrival of 2 parties for tag 7, and its entry. -/
def arr1 : Arrival :=
  { cmd := 1, group := 16, ctx := 1, tag := 0x80010007, op := 0, cvt := false, cls := 0, parties := 2, dest := 0x40002000
    done := 0x40001000, frames := [(0x40001, 0x40001 * 8), (0x40002, 0x40002 * 8), (0x40003, 0x40003 * 8)], el := [], poison := false
    sig := 0, dst := 5 }

/-- The partition's tag 7 is context 1's. -/
def tagged (s : State) : State := s.modPart 0 fun p => { p with tags := [(7, { gen := 1, owner := some 1 })] }

theorem met_LandingsCombineAndForward :
    (∀ s ∈ [queued (.meet 0 0 false 0 5 0x80010007 0x40002000 0x40001000 2 []) (here (.umovi false 5 7))],
      (s.mqHead 16).isSome = true ∧ s.engineOff 1 = false ∧ (s.part 0).arrivals = [] ∧ (s.group 16).mqHalted = false ∧ s.tileClosing 1 [0] = false ∧
      s.olderPending 16 1 = false ∧ (s.tile 1 0).valid = false ∧
      ((withT s fun x => { x with tiles := [(0, { valid := true })] }).tile 1 0).valid = true) ∧
    (∀ s ∈ [(here (.umovi false 5 7)).modPart 0 fun p => { p with arrivals := [arr1] }],
      (s.part 0).arrivals.find? (fun a => tagIndex a.tag == 7) = some arr1 ∧ (s.part 0).halted = false) ∧
    (∀ s ∈ [tagged (here (.umovi false 5 7))], s.ownsTag 0 1 0x80010007 = true ∧ s.ownsTag 0 1 0x80020007 = false ∧
      tagIndex arr1.tag = 7 ∧ (s.part 0).landings.find? 7 = none ∧ ((s.part 0).entryPlace 7).isSome = true ∧ arr1.parties ≠ 1 ∧
      (∀ e ∈ [arr1.entry 0 0], e.agrees arr1 = true ∧ e.arr + 1 = e.parties ∧ ({ e with parties := 3 } : Landing).agrees { arr1 with parties := 3 } = true ∧
        e.agrees { arr1 with op := 1 } = false ∧
        ∀ u ∈ [s.modPart 0 fun p => { p with landings := [(7, e)] }], (u.part 0).landings.find? 7 = some e ∧
          (e.since.isSome = true) ∧ ¬ 10000 ≤ e.count 0 ∧ 10000 ≤ e.count 10000)) ∧
    (∀ s ∈ [(here (.umovi false 5 7)).modPart 0 fun p => { p with tags := [(7, { gen := 1, owner := some 1, orphaned := true })] }],
      ((s.part 0).tags.get {} 7).orphaned = true) := by decide +kernel

/-- The places that a forward of that entry writes. -/
theorem met_LandingsCombineAndForward_forward :
    (∀ s ∈ [here (.umovi false 5 7)], s.sectorsOf 1023 = [] ∧
      (∀ o ∈ [(0 : Nat), 8191], (framePhys arr1.frames (arr1.dest.toNat + o)).pa = 0x40002000 + o ∧ s.owns 0 (0x40002000 + o) = true) ∧
      (framePhys arr1.frames arr1.done.toNat).pa = 0x40001000 ∧ s.owns 0 0x40001000 = true ∧ 0x40001000 + 8 ≤ 0x40002000 ∧
      0x40002000 % 128 = 0 ∧ 0x40001000 % 8 = 0) := by
  decide +kernel

/-- A stream of the team's slot 3 with an empty queue, one with 15 and with 16 commands. -/
def streamed (f : Stream → Stream) (s : State) : State :=
  s.setStream 1 3 (f { team := 1, outer := false, comp := false, n := 2048, tile := 0, gen := 9 })

theorem met_StreamWords :
    (∀ i ∈ [Instr.strmOpen false 5 10, .strmStep false 5 10, .strmScan false 5 10, .strmSave false 5 10 true, .strmLoad false 5 10,
        .strmClose false 5 10, .strmQuery false 5 10 false],
      ∀ s ∈ [at' i [(10, 0x900000300)]], s.cur = .gang 16 0 ∧ s.begins i = true ∧ s.unheld.strmFull 16 = false ∧
      s.unheld.batchFull 16 = false ∧ s.unheld.handleCause 16 0x900000300 = 12 ∧ s.unheld.handleCause 16 1 = 1 ∧
      (streamed id s).unheld.handleCause 16 0x900000300 = 0 ∧
      (streamed (fun x => { x with closing := true }) s).unheld.handleCause 16 0x900000300 = 12) ∧
    (∀ n ∈ [15, 16], ∀ s ∈ [streamed (fun x => { x with queue := List.range n }) (here (.umovi false 5 7))],
      s.queueFull 16 0x900000300 = decide (n = 16)) ∧
    handleReg (.strmStep false 5 10) = some 10 ∧ engineOf (.strmStep false 5 10) = some .stream ∧
    (((here (.strmStep false 5 10)).uni (here (.strmStep false 5 10)).cur).empty.getLsbD 10 = false) ∧
    (∀ s ∈ [({ here (.strmStep false 5 10) with cmds := (List.range 64).map fun n => (n, cmdOf (.strmStep 3 9 0 none 5)) } : State)],
      s.strmFull 16 = true) := by decide +kernel

theorem met_StreamWords_checks :
    (∀ s ∈ [streamed id (here (.strmStep false 5 10))],
      pins (s.unheld.checkSteps s.cur 16 0x900000300 0 0 (BitVec.allOnes 64) 0 1) = true ∧
      pins (s.unheld.checkSteps s.cur 16 0x900000300 0x80000 0 (BitVec.allOnes 64) 0 1) = false ∧
      pins (s.unheld.checkRecord s.cur 0x40002000 .copyWrite) = true ∧
      (s.streamOf (s.group 16).team (handleSlot 0x900000300)).isSome = true) ∧
    (∀ s ∈ [here (.strmOpen false 5 10)], (s.openCause 16 0 = 0 ∧ s.openCause 16 (BitVec.ofNat 64 (2047 * 2 ^ 16 + 2 ^ 8 + 63)) = 0 ∧
      s.openCause 16 (BitVec.ofNat 64 (2 ^ 9 + 63)) = 5 ∧ s.openCause 16 0x40 = 1 ∧
      (withT s fun x => { x with heldTiles := [1] }).openCause 16 (BitVec.ofNat 64 (2 ^ 9)) = 10) ∧
      (s.descOf (s.group 16).team).mtiles = 64) := by decide +kernel

/-- Commands of the stream at their turn. -/
theorem met_StreamTurns :
    (∀ e ∈ [(9 : Nat), 8], ∀ k ∈ [CmdKind.strmStep 3 (BitVec.ofNat 32 e) 0 none 5, .strmClose 3 9 5, .strmLoad 3 9 0 [] 5],
      ∀ s ∈ [({ streamed (fun x => { x with queue := [1] }) (here (.umovi false 5 7)) with cmds := [(1, cmdOf k)] } : State)],
      (s.cmds.find? 1).isSome = true ∧ (cmdOf k).done = false ∧ s.engineOn 1 = true ∧ (s.streamOf 1 3).isSome = true ∧
      k.isStream = true ∧ k.strmSlot = 3 ∧
      ∀ x ∈ s.streamOf 1 3, s.strmTurnIs x 1 = true ∧ s.strmTurnIs { x with queue := [0, 1] } 1 = false ∧ x.queue = [1] ∧
        decide (x.gen = BitVec.ofNat 32 e) = decide (e = 9) ∧ x.team = 1) ∧
    (∀ s ∈ [here (.umovi false 5 7)], s.openReady 1 (strmTiles 0 false) [] = true) := by decide +kernel

theorem met_StreamTurns_record :
    (recFits { team := 1, outer := false, comp := false, n := 2, tile := 0, gen := 9 }
      (recWords (recHeader false false 3 false false 0 9) [1, 2, 3]) = false) := by decide +kernel
/-! ### The package -/

/-- The lowest block and the highest; blocks that are no blocks; a halted partition in the way, and one that is not. -/
theorem met_PartitionEvents :
    (Machine.blockOk 0 2 = true ∧ Machine.blockOk 252 2 = true ∧ Machine.blockOk 0 8 = true ∧ Machine.blockOk 0 1 = false ∧
      Machine.blockOk 2 2 = false ∧ Machine.blockOk 128 8 = false ∧ Machine.blockOk 0 9 = false) ∧
    (∀ s ∈ [State.reset], s.blockFree 47 252 2 = true ∧ s.parts = []) ∧
    (∀ s ∈ [here (.umovi false 5 7)], s.blockFree 1 0 2 = false ∧ s.blockFree 1 4 2 = true ∧ (s.parts.find? 0).isSome = true ∧
      (s.part 0).border = none ∧ (s.part (s.partOf (.spine 0))).halted = false ∧
      ((s.modPart 0 fun p => { p with halted := true }).part 0).halted = true ∧
      (s.part 0).onBase 0 = true ∧ (s.part 0).onBase 3 = false) := by decide +kernel

/-- A change of borders begun, at its deadline and before, with a team on a departing cluster and with none. -/
theorem met_PartitionEvents_borders :
    (∀ s ∈ [(here (.umovi false 5 7)).modPart 0 fun p => { p with logk := 3, border := some ⟨4, 2, 7, false, none⟩, leaving := [0, 1, 2, 3] }],
      (s.part 0).border.isSome = true ∧ s.time < 7 ∧ 7 ≤ ({ s with time := 7 } : State).time ∧
      s.unitsOn 0 (s.part 0).leaving.contains = true ∧
      (∀ u ∈ [({ s with teams := [], spines := [] } : State)], u.unitsOn 0 (u.part 0).leaving.contains = false ∧
        u.ctxsOf 0 (· == .saving) = [] ∧ (u.finishBorder 0 (u.part 0) ⟨4, 2, 7, true, none⟩).isSome = true)) ∧
    (∀ s ∈ [({ here (.umovi false 5 7) with parts := [(0, { base := 0, logk := 2 }), (1, { base := 4, logk := 2 }), (2, { base := 8, logk := 3 })] } : State)],
      halvesOk { base := 4, logk := 2 } { base := 8, logk := 3 } 8 2 = false ∧
      halvesOk { base := 12, logk := 2 } { base := 0, logk := 3 } 4 2 = false ∧
      halvesOk { base := 8, logk := 2 } { base := 0, logk := 3 } 4 2 = false ∧
      halvesOk { base := 4, logk := 1 } { base := 0, logk := 2 } 0 1 = false ∧
      halvesOk { base := 12, logk := 2 } { base := 8, logk := 3 } 8 2 = true ∧
      (s.parts.find? 1).isSome = true ∧ (s.parts.find? 2).isSome = true) := by decide +kernel

/-- The findings of a window: a short partition beside an idle-rich one, whose halves fit and whose do not; not beside. -/
theorem met_PartitionEvents_moves :
    (∀ e ∈ [((0 : Nat), 4, 4, true), (4, 8, 8, false), (4, 8, 12, false)],
      ∀ p ∈ [({ base := e.1, logk := 2, short := true } : Part)], ∀ q ∈ [({ base := e.2.1, logk := 3, rich := true } : Part)],
      p.border = none ∧ q.border = none ∧ p.short = true ∧ q.rich = true ∧
      (p.base + 2 ^ p.logk = q.base ∨ q.base + 2 ^ q.logk = p.base) ∧ halvesOk p q e.2.2.1 2 = e.2.2.2 ∧
      (e.1 = 4 → ∀ b, b < 256 → halvesOk p q b p.logk = false)) ∧
    (∀ p ∈ [({ base := 0, logk := 2 } : Part)], ¬ (p.short = true)) := by decide +kernel

/-- Time passes below the end of a window and to it, with a team on a core. -/
theorem met_PartitionEvents_windows :
    ∀ s ∈ [here (.umovi false 5 7)], (s.parts.find? 0).isSome = true ∧ (s.tick 5).time = 5 ∧ 5 % 10000000 ≠ 0 ∧
      ∀ u ∈ [({ s with time := 9999998 } : State)], (u.tick 5).time = 10000000 := by decide +kernel

/-- Function switches with nothing resident, a context resident, and one being saved; a service image with and without calls. -/
theorem met_PartitionEvents_functions :
    (∀ s ∈ [here (.umovi false 5 7)], (s.part 0).func ≠ 63 ∧ (s.part 0).halted = false ∧ (s.part 0).switching = none ∧
      ((s.modPart 0 fun p => { p with switching := some (0, 0, none) }).part 0).switching.isSome = true ∧
      s.funcPart.find? 63 = none ∧ s.ctxsOf 0 (· == .resident) ≠ [] ∧ s.ctxsOf 0 (· == .saving) = [] ∧
      ((phased .saving s).ctxsOf 0 (· == .resident) = [] ∧ (phased .saving s).ctxsOf 0 (· == .saving) ≠ []) ∧
      ((phased .saved s).ctxsOf 0 (· == .resident) = [] ∧ (phased .saved s).ctxsOf 0 (· == .saving) = []) ∧
      (s.part 0).calls = [] ∧ (s.part 0).svc.mode = .run ∧
      (∀ u ∈ [s.modPart 0 fun p => { p with calls := [(4, call1)] }], ∃ e ∈ (u.part 0).calls, BitVec.ofNat 32 e.1 ∉ (u.part 0).late) ∧
      ((s.modPart 0 fun p => { p with svc := { p.svc with mode := .calling 4 } }).part 0).svc.mode = .calling 4) := by
  decide +kernel

/-- The settings of a partition with a context resident and with none, at the ends of their ranges. -/
theorem met_ContextRequestsAndSwitches_settings :
    (∀ s ∈ [here (.umovi false 5 7)], (s.parts.find? 0).isSome = true ∧
      s.ctxsOf 0 (fun x => x == .resident || x == .saving) ≠ [] ∧
      (phased .saved s).ctxsOf 0 (fun x => x == .resident || x == .saving) = []) ∧
    (∀ e ∈ [((3 : Nat), false), (4, true), (1024, true), (1025, false)], decide (4 ≤ e.1 ∧ e.1 ≤ 1024) = e.2) := by
  decide +kernel

/-- Two flits of a replay buffer. -/
def two (n : Nat) : List Flit := [{ seq := 1, payload := 0, resent := n }, { seq := 2, payload := 0 }]

/-- A good flit and a bad one, expected and not; links and a port that work, a number that is no link's, a failed one; replay
at its time; 15 and 16 resends; a reply due and made, and one that stands in its window. -/
theorem met_LinkEvents :
    (flitGood 5 7 1 (BitVec.ofNat 32 (crc32 (flitBytes 5 7 1))) = true ∧ flitGood 5 7 1 (BitVec.ofNat 32 (crc32 (flitBytes 5 7 1) + 1)) = false) ∧
    ((0x400 : BitVec 16).getLsbD 10 = true ∧ (0 : BitVec 16).getLsbD 10 = false ∧ (0 : BitVec 16).setWidth 10 = ({} : Link).expected ∧
      (1 : BitVec 16).setWidth 10 ≠ ({} : Link).expected) ∧
    (∀ s ∈ [({ here (.umovi false 5 7) with links := [(3, { replay := two 16 }), (4, { width := 0 }), (5, { replay := two 15, nakDue := true })] } : State)],
      (s.link 3).replay = [({ seq := 1, payload := 0, resent := 16 } : Flit)] ++ ({ seq := 2, payload := 0 } : Flit) :: [] ∧
      (s.link 3).progressAt + (if (s.link 3).port then 20000 else 1000) > s.time ∧ (s.link 64).port = true ∧ (s.link 3).port = false ∧
      (s.link 3).progressAt + 1000 ≤ ({ s with time := 1000 } : State).time ∧ (s.link 3).width ≠ 0 ∧ (s.link 4).width = 0 ∧
      (s.link 75).width ≠ 0 ∧ ¬ ((32 : Nat) < 32 ∨ (64 ≤ 32 ∧ 32 < 76)) ∧ (s.link 5).nakDue = true ∧ (s.link 3).nakDue = false ∧
      (∃ f ∈ (s.link 3).replay, 16 ≤ f.resent) ∧ (∀ f ∈ (s.link 5).replay, f.resent < 16)) ∧
    (∀ s ∈ [({ here (.umovi false 5 7) with outs := [(2 ^ 16 * 2 + 9, { far := 1, op := .store .shared 0x1000 8 7, sentAt := 0 })] } : State)],
      (s.outs.find? (2 ^ 16 * 2 + 9)).isSome = true ∧ s.outs.find? (2 ^ 16 * 2 + 8) = none ∧ s.time < 0 + 100000 ∧
      0 + 100000 ≤ ({ s with time := 100000 } : State).time ∧
      ∀ u ∈ [({ s with windows := [(2 ^ 20 * 1 + 2, [(9, 7, true)])] } : State)],
        (((u.windows.find? (2 ^ 20 * 1 + 2)).getD []).find? fun e => e.1 == 9) = some (9, 7, true)) := by decide +kernel

/-- An export entry that covers and permits and its limits; ports 11 and 12; a line of the host's; the ends of HBM. -/
theorem met_HostAndPeerEvents :
    (∀ s ∈ [({ here (.umovi false 5 7) with
        root := { (here (.umovi false 5 7)).root with plUp := 0x800 }
        mem := memWrite [] (16 * 47) 16 (2 ^ 64 + 2 ^ 96 + 2 ^ 97 + 0x40000000) } : State)],
      (∀ k ∈ [0, 1, 2, 15], (s.exportAddr 11 47 (2 ^ 21 - 8) k 8).isSome = true ∧ s.exportAddr 11 47 (2 ^ 21 - 7) k 8 = none ∧
        s.exportAddr 10 47 0 k 8 = none ∧ s.exportAddr 12 47 0 k 8 = none ∧ s.exportAddr 11 48 0 k 8 = none)) ∧
    (∀ s ∈ [({ here (.umovi false 5 7) with windows := [(2 ^ 25 + 11, [(9, 7, true)])] } : State)],
      ∀ w ∈ [(s.windows.find? (s.peerKey 11)).getD []],
        w.find? (fun e => e.1 == 9) = some (9, 7, true) ∧ w.find? (fun e => e.1 == 8) = none) ∧
    (∀ s ∈ [({ here (.umovi false 5 7) with l2 := [(2 * (2 ^ 48 / 128) + 1, { slice := 0, dirty := true })] } : State)],
      (2 * (2 ^ 48 / 128) + 1) % 2 ^ 46 / 2 = 2 ^ 48 / 128 ∧
      (s.l2.find? (2 * (2 ^ 48 / 128) + 1)) = some { slice := 0, dirty := true }) ∧
    (∀ s ∈ [here (.umovi false 5 7)], (s.parts.find? 0).isSome = true ∧ (ErrorPlace.home 3).parity = true ∧
      (ErrorPlace.tile 1 63).parity = false) ∧
    (2 ^ 40 < 2 ^ 40 - 7 + 8 ∧ ¬ 2 ^ 40 < 2 ^ 40 - 8 + 8) := by decide +kernel

/-- Regions of memory, with a line of each the statements name. -/
theorem met_HostAndPeerEvents_regions : ∃ line, regionOf (128 * line) = .host ∧ regionOf 0 = .hbm :=
  ⟨2 ^ 48 / 128, by decide +kernel⟩

/-- A change of point in progress and none; a die whose bit is set and empty, and one that is powered off; a trip. -/
theorem met_PowerAndBootEvents :
    (∀ s ∈ [State.reset], s.root.pauseAt = none ∧ s.gateBit 15 = false ∧ s.root.pwrstat.getLsbD 23 = false ∧ s.dieEmpty 15 = true ∧
      s.root.thermAt = none ∧ s.root.bootstat = 0x100000 ∧ s.root.th.mode = .idle ∧ s.root.bootstat.getLsbD 21 = false ∧
      (∀ u ∈ [({ s with root := { s.root with pwrctl := 0x800004, pauseAt := some 0, thermAt := some 0 } } : State)],
        u.root.pauseAt.isSome = true ∧ u.gateBit 15 = true ∧ u.time < 0 + 1000000) ∧
      (∀ u ∈ [({ s with root := { s.root with pwrstat := 0x800004, bootstat := 0x300000 } } : State)],
        u.root.pwrstat.getLsbD 23 = true ∧ u.gateBit 15 = false ∧ u.root.bootstat.getLsbD 21 = true ∧
        u.root.nextDie = some (true, 0)) ∧
      (s.writePwrctl 5).isSome = true ∧ s.writePwrctl 6 = none ∧
      (∀ u ∈ [({ s with root := { s.root with bootstat := 0x37FFFF } } : State)], u.root.nextDie = some (false, 15))) ∧
    ((⟨64, 0xEFFF⟩ : WindowOffset).owner ≤ 64 ∧ ¬ (0xF000 ≤ (⟨64, 0xEFFF⟩ : WindowOffset).offset) ∧
      (⟨0, 0xF000⟩ : WindowOffset).offset < 0x10000 ∧ 64 < (⟨65, 0⟩ : WindowOffset).owner ∧ 8 * 0x820 < 0xF000) := by
  decide +kernel

/-! ### Frames, reset and invariants -/

/-- A word of each shape of the frames begins in its thread. -/
theorem met_RegisterWordFrames :
    (∀ i ∈ [Instr.umul false 1 2 3 0 false, .umovi false 63 0, .ucmp false 6 1 2 0 11, .uadd false 1 2 3 0 true 0,
        .ufadd false 1 2 3 0 false 0, .ufcmp false 1 2 3 0 false 0],
      ∀ s ∈ [here i], s.begins i = true ∧ (asCur (.gang 16 0) s).begins i = true ∧ (asCur (.service 0) s).begins i = true ∧
      (asCur .monitor s).begins i = true ∧ (s.uni s.cur).fpctl.extractLsb' 4 5 = 0) ∧
    (∀ i ∈ [Instr.mul false 1 2 3 0, .shflPick false 7 2 3 0, .shflFwd false 1 2 3 0, .add false 0 2 3 0 true, .iun false 1 2 0 0],
      ∀ s ∈ [here i], s.cur = .gang 16 0 ∧ s.begins i = true) := by decide +kernel

/-- The stores of `met_ScalarMemoryWords` and `met_StoreWords` fall on SHARED pages of HBM that the partition owns. -/
theorem met_StoreFrames :
    (∀ s ∈ [at' (.ust false 1 2 0 3 0) [(2, BitVec.ofNat 64 A)]], s.cur = .spine 0 ∧ s.begins (.ust false 1 2 0 3 0) = true ∧
      s.unheld.watched s.cur false false true A 8 = none ∧
      ∀ r ∈ [s.unheld.translate (s.unheld.spaceOf s.cur) A .store true],
        mapsTo r.2 (fun p => p.ty == .shared && p.pa % 8 == 0 && regionOf p.pa == .hbm && r.1.owns (r.1.partOfCpt (r.1.cptOf s.cur)) p.pa &&
          decide ((r.1.sectorsOf (r.1.cptOf s.cur)).length < 16)) = true) ∧
    (∀ s ∈ [lanesAt (.st false 4 2 3 3 0)], s.cur = .gang 16 0 ∧ s.begins (.st false 4 2 3 3 0) = true ∧
      checkKind (s.unheld.checkVirtual s.cur .store false true 8 (s.unheld.laneAddrs s.cur 3 2)) = (0, 32) ∧
      (s.sectorsOf 0).length = 0 ∧
      ∀ u ∈ [(s.cachedStore 0 .shared A 8 5 0).cachedStore 0 .shared (A + 128) 8 5 0], ∀ l, l < 32 →
        ∃ x ∈ u.sectorsOf 0, sectorAddr x.1 / 128 = (A + 8 * l) / 128) ∧
    (∀ s ∈ [withG (lanesAt (.st false 4 2 3 3 0)) fun x => { x with slices := x.slices.take 1 }],
      checkKind (s.unheld.checkVirtual s.cur .store false true 8 (s.unheld.laneAddrs s.cur 3 2)) = (0, 4)) := by decide +kernel

/-- A point with few sectors has room for any line. -/
theorem met_StoreFrames_room : ∀ s cpt pa, (State.sectorsOf s cpt).length < 16 → s.makeRoom cpt pa = s :=
  State.makeRoom_of_few

/-- A good state, and a step from it. -/
theorem met_StepKeepsMemory : ∀ s ∈ [here (.umovi false 5 7)], s.memoryOk = true ∧ State.runs 1 s = true := by decide +kernel
/-! ### Results of one word

The expected values come from the rules named and from the worked examples of the spec's files. -/

/-- R36, R42, R43, R131 to R139: additions wrap and saturate; high products; shifts by the low five bits. -/
theorem test_lane_add_sub : vOf (.add false 1 2 3 0 false) 0x7FFFFFFF 1 1 31 = 0x80000000 ∧
    vOf (.add false 1 2 3 0 true) 0x7FFFFFFF 1 1 0 = 0x7FFFFFFF ∧ vOf (.sub false 1 2 3 0 false) 0 1 1 5 = 0xFFFFFFFF ∧
    vOf (.sub false 1 2 3 0 true) 0x80000000 1 1 5 = 0x80000000 ∧ vOf (.addi false 1 2 0x3FF) 5 0 1 9 = 4 := by decide +kernel

theorem test_lane_multiply : vOf (.mul false 1 2 3 0) 0x10001 0x10001 1 0 = 0x20001 ∧
    vOf (.mulhi false 1 2 3 0 false) 0xFFFFFFFF 0xFFFFFFFF 1 0 = 0 ∧
    vOf (.mulhi false 1 2 3 0 true) 0xFFFFFFFF 0xFFFFFFFF 1 0 = 0xFFFFFFFE ∧ vOf (.imad false 2 2 3 0) 7 6 2 0 = 49 := by
  decide +kernel

theorem test_lane_logic : vOf (.and false 1 2 3 0) 0xF0F0 0xFF00 1 0 = 0xF000 ∧ vOf (.or false 1 2 3 0) 0xF0F0 0xFF00 1 0 = 0xFFF0 ∧
    vOf (.xor false 1 2 3 0) 0xF0F0 0xFF00 1 0 = 0x0FF0 ∧ vOf (.shl false 1 2 3 0) 1 33 1 0 = 2 ∧
    vOf (.shr false 1 2 3 0 true) 0x80000000 31 1 0 = 0xFFFFFFFF ∧ vOf (.shr false 1 2 3 0 false) 0x80000000 31 1 0 = 1 ∧
    vOf (.min false 1 2 3 0 false) 0xFFFFFFFF 1 1 0 = 0xFFFFFFFF ∧ vOf (.max false 1 2 3 0 true) 0xFFFFFFFF 1 1 0 = 0xFFFFFFFF := by
  decide +kernel

/-- R57, R58, R65: arithmetic in FP32: rounding to nearest even, the canonical NaN, the sign of a zero sum. -/
theorem test_lane_float : vOf (.fadd false 1 2 3 0) 0x3F800000 0x3F800000 1 0 = 0x40000000 ∧
    vOf (.fadd false 1 2 3 0) 0x3F800000 0x33800000 1 0 = 0x3F800000 ∧ vOf (.fsub false 1 2 3 0) 0x3F800000 0x3F800000 1 0 = 0 ∧
    vOf (.fmul false 1 2 3 0) 0x7F800000 0 1 0 = 0x7FC00000 ∧ vOf (.ffma false 2 2 3 0) 0x40000000 0x40400000 2 0 = 0x41000000 := by
  decide +kernel

/-- The worked example "FP32 to E4M3" of number formats: 300, 450, 470, -470 and -500. -/
theorem test_cvt_e4m3 : vOf (.cvt false 1 2 8 1 false) 0x43960000 0 1 0 = 0x79 ∧ vOf (.cvt false 1 2 8 1 false) 0x43E10000 0 1 0 = 0x7E ∧
    vOf (.cvt false 1 2 8 4 false) 0x43E10000 0 1 0 = 0x7F ∧ vOf (.cvt false 1 2 8 1 false) 0x43EB0000 0 1 0 = 0x7F ∧
    vOf (.cvt false 1 2 8 1 true) 0x43EB0000 0 1 0 = 0x7E ∧ vOf (.cvt false 1 2 8 2 false) 0xC3EB0000 0 1 0 = 0xFE ∧
    vOf (.cvt false 1 2 8 2 false) 0xC3FA0000 0 1 0 = 0xFE := by decide +kernel

/-- R62 and the worked example "two stochastic conversions": the generators after a reseed and after each draw. -/
theorem test_stochastic_conversions :
    ∀ s ∈ [out (exec (.sr false 0 5 0x020) (asCur (.gang 16 0) (at' (.sr false 0 5 0x020) []) |> fun s => withW s [(5, 0x100000201)]))],
      (s.group 16).gens.head? = some 1 ∧ (s.group 16).gens.getD 1 0 = 0x9E3779B8 ∧
      ∀ u ∈ [out (exec (.cvt false 1 2 6 5 false) (withV s 2 fun _ => 0x3F80C000))],
        (u.group 16).gens.head? = some 0x42021 ∧ u.laneReg u.cur 1 0 = 0x3F80 ∧
        ∀ t ∈ [out (exec (.cvt false 1 2 6 5 false) u)], (t.group 16).gens.head? = some 0x4080601 ∧ t.laneReg t.cur 1 0 = 0x3F80 := by
  decide +kernel

/-- The worked example "one cmpx stage". -/
theorem test_cmpx_stage :
    ∀ s ∈ [come <| out (exec (.cmpx false 10 11 2 1 false) (withV (withV (here (.cmpx false 10 11 2 1 false)) 10
        fun l => ([5, 9, 3, 7, 2, 8, 6, 1] : List W32).getD l 0) 11 fun l => BitVec.ofNat 32 l))],
      (List.range 8).map (s.laneReg s.cur 10) = [3, 7, 5, 9, 6, 8, 2, 1] ∧
      (List.range 8).map (s.laneReg s.cur 11) = [2, 3, 0, 1, 6, 5, 4, 7] := by decide +kernel

/-- R133: shuffles and R142 to R144: votes and reductions over 32 lanes. -/
theorem test_lane_exchange :
    (∀ s ∈ [come <| out (exec (.shflSwap false 8 7 1 3) (withV (here (.shflSwap false 8 7 1 3)) 7 fun l => BitVec.ofNat 32 l))],
      s.laneReg s.cur 8 0 = 1 ∧ s.laneReg s.cur 8 31 = 30) ∧
    (∀ s ∈ [come <| out (exec (.redux false 4 3 0) (withV (here (.redux false 4 3 0)) 3 fun l => BitVec.ofNat 32 l))],
      s.getW s.cur 4 = 496) ∧
    (∀ s ∈ [come <| out (exec (.redux false 4 3 2) (withV (here (.redux false 4 3 2)) 3 fun l => BitVec.ofNat 32 l))],
      s.getW s.cur 4 = 31) := by decide +kernel

/-- R42, R72 to R76: the uniform integer words at 64 and 32 bits. -/
theorem test_uniform_integer : wOf (.uadd false 1 2 3 0 false 0) [(2, 0xFFFFFFFFFFFFFFFF), (3, 2)] 1 = 1 ∧
    wOf (.uadd false 1 2 3 0 true 1) [(2, 0x7FFFFFFF), (3, 1)] 1 = 0x7FFFFFFF ∧
    wOf (.uadd false 1 2 3 0 true 0) [(2, 0x7FFFFFFF), (3, 1)] 1 = 0xFFFFFFFF80000000 ∧
    wOf (.usub false 1 2 3 0 false 2) [(2, 1), (3, 2)] 1 = 0 ∧ wOf (.umul false 1 2 3 0 false) [(2, 7), (3, 6)] 1 = 42 ∧
    wOf (.umulh false 1 2 3 0 false true) [(2, 0xFFFFFFFFFFFFFFFF), (3, 2)] 1 = 1 ∧
    wOf (.umulh false 1 2 3 0 false false) [(2, 0xFFFFFFFFFFFFFFFF), (3, 2)] 1 = 0xFFFFFFFFFFFFFFFF := by decide +kernel

/-- R73: division: truncation, by zero, and the most negative number by -1. -/
theorem test_uniform_division : wOf (.udiv false 1 2 3 0 false false) [(2, 0xFFFFFFFFFFFFFFF9), (3, 2)] 1 = 0xFFFFFFFFFFFFFFFD ∧
    wOf (.urem false 1 2 3 0 false false) [(2, 0xFFFFFFFFFFFFFFF9), (3, 2)] 1 = 0xFFFFFFFFFFFFFFFF ∧
    wOf (.udiv false 1 2 3 0 false true) [(2, 7)] 1 = 0xFFFFFFFFFFFFFFFF ∧ wOf (.urem false 1 2 3 0 false true) [(2, 7)] 1 = 7 ∧
    wOf (.udiv false 1 2 3 0 false false) [(2, 0x8000000000000000), (3, 0xFFFFFFFFFFFFFFFF)] 1 = 0x8000000000000000 := by
  decide +kernel

theorem test_uniform_logic : wOf (.ushr false 1 2 3 0 false true) [(2, 0x8000000000000000), (3, 63)] 1 = 0xFFFFFFFFFFFFFFFF ∧
    wOf (.ushl false 1 2 3 0 false) [(2, 1), (3, 65)] 1 = 2 ∧ wOf (.umin false 1 2 3 0 true) [(2, 0xFFFFFFFFFFFFFFFF), (3, 5)] 1 = 5 ∧
    wOf (.umax false 1 2 3 0 false) [(2, 0xFFFFFFFFFFFFFFFF), (3, 5)] 1 = 5 ∧ wOf (.uun false 1 2 3 false) [(2, 1)] 1 = 63 ∧
    wOf (.uun false 1 2 7 false) [(2, 0x0102030405060708)] 1 = 0x0807060504030201 ∧
    wOf (.uun false 1 2 9 false) [(2, 0x8000)] 1 = 0xFFFFFFFFFFFF8000 := by decide +kernel

/-- The worked example "a 64-bit constant": each of its three words. -/
theorem test_constant_64 :
    (∀ s ∈ [out (exec (.umovi false 1 0x34567) { here (.umovi false 1 0x34567) with pfx := some 0x48 })],
      s.getW s.cur 1 = 0x01234567 ∧ s.pfx = none) ∧
    wOf (.ushli false 1 1 32) [(1, 0x01234567)] 1 = 0x0123456700000000 ∧
    (∀ s ∈ [out (exec (.uori false 1 1 0xDEF) { at' (.uori false 1 1 0xDEF) [(1, 0x0123456700000000)] with pfx := some 0x89ABC })],
      s.getW s.cur 1 = 0x0123456789ABCDEF) := by decide +kernel

/-- R43, R58: square root, division and the class mask; a division by zero raises its flag. -/
theorem test_uniform_float : wOf (.ufdiv false 1 2 3 0 true 1) [(2, 0x3FF0000000000000), (3, 0x4008000000000000)] 1 = 0x3FD5555555555555 ∧
    wOf (.ufun false 1 2 0 true 1) [(2, 0x4000000000000000)] 1 = 0x3FF6A09E667F3BCD ∧
    wOf (.ufcvt false 1 2 4 1) [(2, 0xFFFFFFFFFFFFFFFF)] 1 = 0xBFF0000000000000 ∧
    wOf (.ufcvt false 1 2 0 1) [(2, 0x3FF0000000000000)] 1 = 0x3F800000 := by decide +kernel

/-- R218, R221: a store and a load of the same bytes; R226: an atomic addition returns the old value. -/
theorem test_memory_words :
    (∀ s ∈ [out (exec (.ust false 3 2 0 3 0) (at' (.ust false 3 2 0 3 0) [(2, 0x40002000), (3, 0x1122334455667788)]))],
      (∀ u ∈ [out (exec (.uld false 4 2 0 3 0) s)], u.getW u.cur 4 = 0x1122334455667788) ∧
      (∀ u ∈ [out (exec (.uld false 4 2 0 0 0) s)], u.getW u.cur 4 = 0x88) ∧
      (∀ u ∈ [out (exec (.uamo false 5 2 3 0 0) s)], u.getW u.cur 5 = 0x1122334455667788 ∧
        memRead u.mem 0x40002000 8 = 0x22446688AACCEF10)) := by decide +kernel

/-- R84, R89: branches taken and not, a call and the exit of a gang's lanes. -/
theorem test_control :
    ((did (.bra 7 false 4) []).pcOf (.spine 0) = placedPc + 16 ∨ (did (.bra 7 false 4) []).pcOf (.spine 0) = placedPc + 20) ∧
    (did (.bra 0 false 4) []).pcOf (.spine 0) = placedPc + 4 ∧
    ((did (.exit 7 false) []).group 16).slices.all (fun x => x.live == 0) = true := by decide +kernel

/-- The worked example "distances". -/
theorem test_vdist : ∀ e ∈ [((4 : Nat), (0 : Nat)), (1, 1), (2, 2), (3, 3)],
    ∀ s ∈ [(trained (at' (.sysVdist false 1 2 3) [(2, 0), (3, BitVec.ofNat 64 e.1)])).modCtx 0 1 fun c =>
      { c with info := { c.info with vdtab := [0x80, 0x81, 0x85, 0x8D, 0x80] ++ List.replicate 11 0 } }],
    (out (exec (.sysVdist false 1 2 3) s)).getW s.cur 1 = BitVec.ofNat 64 e.2 := by decide +kernel

/-- The worked example "interleaved addresses": the pieces of a PRIVATE access. -/
theorem test_priv_pieces : privPieces 0x20002800 false (5, 68) = [(5, 0x20003094, 0)] ∧
    privPieces 0x20002800 false (0, 156) = [(0, 0x20003B80, 0)] := by decide +kernel

/-- The worked example "truncation and block order" of the matrix engine. -/
theorem test_truncation_and_block_order :
    (mmaElement ⟨[0x7C + 0x01 * 2 ^ 8 + 0x03 * 2 ^ 16 + 0xFC * 2 ^ 128 + 0x03 * 2 ^ 136], [(127, 127)], false⟩
      ⟨0, false, [(0, 0x7C), (32, 1), (64, 1), (512, 0x7C), (544, 1)], [], false⟩ 0 false true {} 0 0).1 = 0x37000000 := by
  decide +kernel

/-- The worked example "one compensated step against one plain step". -/
theorem test_compensated_steps :
    let f := fun (comp : Bool) (o : Cell) => stepCell comp o 0x3F800000 0x3F800000 0x33000000
    let o : Cell := ⟨0x3F800000, 0, false, false⟩
    (f true o).h = 0x3F800000 ∧ (f true o).c = 0x33000000 ∧ (f true (f true o)).h = 0x3F800000 ∧ (f true (f true o)).c = 0x33800000 ∧
    (f true (f true (f true o))).h = 0x3F800001 ∧ (f true (f true (f true o))).c = 0xB3000000 ∧
    (f true (f true (f true (f true o)))).h = 0x3F800001 ∧ (f true (f true (f true (f true o)))).c = 0 ∧
    (f false (f false (f false (f false o)))).h = 0x3F800000 := by decide +kernel

/-- R212, R255: a store, a fence, a store: an engine may read the value between them and not the one before both. -/
theorem test_fence_forbids_older_value :
    staleValues ((addNote (fenceNotes (addNote [] 3 10 0) 0 2) 3 11 0).get [] 3) 0 = [11] ∧
    staleValues ((addNote (addNote [] 3 10 0) 3 11 0).get [] 3) 0 = [10, 11] ∧
    (fenceNotes (fenceNotes (addNote [] 3 10 0) 0 1) 0 1).find? 3 = none := by decide +kernel

/-- R381, R382: a die with work whose bit is set reads DRAINING, an empty one does not. -/
theorem test_draining :
    ∀ s ∈ [({ here (.umovi false 5 7) with root := { (here (.umovi false 5 7)).root with pwrctl := 0x8104 } } : State)],
      s.pwrstat.getLsbD 24 = true ∧ s.pwrstat.getLsbD 31 = false ∧ s.root.pwrstat.getLsbD 31 = false := by decide +kernel

/-- R372: the counts of `sr.ERRCNT` saturate, and an error that parity finds is a corrected one. -/
theorem test_error_counts :
    ∀ s ∈ [(here (.umovi false 5 7)).modPart 0 fun p => { p with uncorr := 0xFFFFFFFF }],
      ((s.softError 0 (.memory 64) false).part 0).uncorr = 0xFFFFFFFF ∧ ((s.softError 0 (.code 5) false).part 0).corr = 1 ∧
      (s.softError 0 (.memory 64) false).badAt 64 = true := by decide +kernel

/-! ### Page types, lost stores and what else the clauses ask for -/

/-- `lanesAt` for a page at 2^31 with a leaf of its own (R179); `w2` and `w3` point into it. -/
def typed (leaf : Nat) (i : Instr) : State :=
  let s := withV (at' i [(2, 0x80000100), (3, 0x80000100)]) 2 fun l => BitVec.ofNat 32 (8 * l)
  { s with mem := memWrite s.mem 0x11010 8 leaf }

/-- Leaves of type SHARED, PRIVATE and STREAM in HBM, STRICT at the device, in host memory and at a peer, PEER at a peer and in host
memory, and SHARED in host memory. -/
def leaves : List Nat :=
  [0x4000001F, 0x4000003F, 0x4000007F, 2 ^ 40 * 0xF0 + 0x5F, 2 ^ 48 + 0x5F, 2 ^ 51 + 0x5F, 2 ^ 51 + 0x9F, 2 ^ 48 + 0x9F, 2 ^ 48 + 0x1F]

/-- The store word of `s` passes its checks, its store goes on, and its accesses have a property. -/
def storeGoes (s : State) (i : Instr) (f : State → List (W64 × Phys × W64) → Bool) : Bool :=
  match s.storesOf i with
  | some (ord, n, s1, xs) =>
    (match s1.storeWord s.cur ord n xs with
      | .done _ => f s1 xs
      | _ => false)
  | none => false

/-- The stores of `StoreFrames`: plain ones to pages of every type, by one thread and by lanes, and releases of every scope. -/
theorem met_StoreFrames_types :
    (∀ leaf ∈ leaves, ∀ i ∈ [Instr.ust false 1 2 0 3 0, .st false 4 2 3 3 0], ∀ s ∈ [typed leaf i],
      s.begins i = true ∧ storeGoes s i (fun _ xs => xs.length == 1 || xs.length == 32) = true) ∧
    (∀ leaf ∈ leaves.drop 3, ∀ s ∈ [typed leaf (.ust false 1 2 0 3 0)],
      leaf = 2 ^ 48 + 0x1F ∨ storeGoes s (.ust false 1 2 0 3 0) (fun _ xs => xs.all fun e => e.2.1.direct) = true) ∧
    (∀ s ∈ [typed 0x4000007F (.ust false 1 2 0 3 0)], storeGoes s (.ust false 1 2 0 3 0) (fun s1 xs => xs.all fun e =>
      e.2.1.ty == .stream && regionOf e.2.1.pa == .hbm && s1.owns 0 e.2.1.pa) = true) := by decide +kernel

theorem met_StoreFrames_releases :
    (∀ o ∈ [(0 : BitVec 2), 1, 2, 3], ∀ leaf ∈ [(0x4000001F : Nat), 0x4000003F],
      (∀ s ∈ [typed leaf (.ust false 1 2 0 3 o)], s.begins (.ust false 1 2 0 3 o) = true ∧
        storeGoes s (.ust false 1 2 0 3 o) (fun s1 _ => (s1.sectorsOf 0).length == 0 && s1.wc == []) = true) ∧
      (∀ s ∈ [typed leaf (.st false 4 2 3 3 o)], s.begins (.st false 4 2 3 3 o) = true ∧
        storeGoes s (.st false 4 2 3 3 o) (fun _ _ => true) = true)) ∧
    (∀ s ∈ [privPage (.stp false 4 2 3 2)], s.begins (.stp false 4 2 3 2) = true ∧
      storeGoes s (.stp false 4 2 3 2) (fun _ xs => xs.all fun e => e.2.1.ty == .priv) = true) := by decide +kernel

/-- The host may hold a line. -/
def heldLine (l : Nat) (s : State) : State := { s with hostHeld := [(l, false)] }

/-- A group that a barrier holds, and one that none holds, before words that do not decode; a fetch that the host's line holds up. -/
theorem met_StepRunsDecodedWord_held :
    (∀ s ∈ [withT (withG (asCur (.gang 16 0) (State.reset.withFetchWord 32 0x72000000)) fun x => { x with barHold := some 0 }) fun x =>
        { x with bars := [(0, { arrived := 1 })] }],
      s.beginSaves = s ∧ s.runnable s.cur = true ∧ s.meetWord s.cur = s ∧ s.held s.cur = true ∧
      (s.fetchWord s.cur (s.pcOf s.cur)).2 = .word 0x72000000 ∧ s.snoopHost (s.fetchLines s.cur (s.pcOf s.cur)) = none) ∧
    (∀ s ∈ [State.reset.withFetchWord 32 0x72000000], s.held s.cur = false) ∧
    (∀ s ∈ [heldLine (0x40000000 / 128) (here (.umovi false 5 7))],
      s.beginSaves = s ∧ s.runnable s.cur = true ∧ s.meetWord s.cur = s ∧
      (s.snoopHost (s.fetchLines s.cur (s.pcOf s.cur))).isSome = true) := by decide +kernel

/-- A page of the trap area in memory that the partition owns. -/
theorem met_TrapRecords_owned :
    ∀ s ∈ [(here (.umovi false 5 7)).modCtx 0 1 fun c => { c with info := { c.info with traparea := 0x40001000 } }],
      ∀ t ∈ [ThreadId.spine 0, .gang 16 0], ∀ pa ∈ [0x40001000 + 64 * s.recIndex t],
      (((s.dropSector (s.cptOf t) pa).evictSector (256 + realPart (s.partOf t)) pa).owns (realPart (s.partOf t)) pa) = true ∧
      isGang (.spine 0) = false := by decide +kernel

/-- Whether a read operand is finite. -/
def isFin (v : FVal) : Bool :=
  match v with
  | .fin .. => true
  | _ => false

/-- Finite operands of each format: a zero, a subnormal, 1 and the largest number. -/
theorem met_FloatResultsAreRounded :
    (∀ f ∈ [fp64, fp32, fp16, bf16], ∀ p ∈ [0, 1, f.bias * 2 ^ f.fbits, f.maxCode],
      isFin (f.read false p) = true ∧ isFin (f.read true p) = true) ∧
    fp32.read false 0x3F800000 = .fin false 0x800000 (-23) := by decide +kernel

/-- The exact operands and results that the clauses of `FloatResultsAreRounded` ask for: 1 is not zero; 1 + 1 is in the format's range;
the square of 2^127 is beyond it; 1 − 1 is zero. -/
theorem met_FloatResultsAreRounded_reals :
    let one : ℝ := (signedMant false 0x800000 : ℝ) * (2 : ℝ) ^ (-23 : Int)
    one = 1 ∧ one ≠ 0 ∧ one + one ≠ 0 ∧ one + -one = 0 ∧ (2 : ℝ) ^ (128 : Int) ≤ |(2 : ℝ) ^ (254 : Int)| ∧
    |one + one| ≤ (signedMant false 0xFFFFFF : ℝ) * (2 : ℝ) ^ (104 : Int) := by
  norm_num [signedMant]

/-- Lanes whose predicates and values differ and agree; no participant; every operation. -/
theorem met_CrossLaneWords_values :
    (∀ s ∈ [split (here (.vote false 1 0 1 false))], 0 ∈ s.active s.cur ∧ 1 ∈ s.active s.cur ∧ s.lanePred s.cur 0 0 = true ∧
      s.lanePred s.cur 0 1 = false ∧ s.laneReg s.cur 2 0 = s.laneReg s.cur 2 1 ∧
      ∀ u ∈ [withV s 2 fun l => BitVec.ofNat 32 l], u.laneReg u.cur 2 0 ≠ u.laneReg u.cur 2 1) ∧
    (here (.vote false 1 0 1 false)).active .monitor = [] ∧ (10 : Nat) < 11 := by decide +kernel

/-- Slices that wait at one address with one number, at two addresses, and with two numbers. -/
def waiting (rs : List (Addr × BitVec 10 × Bool)) (s : State) : State :=
  withG s fun x => { x with slices := rs.map fun r => { pc := r.1, act := 15, live := 15, regang := some r } }

theorem met_RegangAndExit_settles :
    (∀ s ∈ [waiting [(4, 3, false), (4, 3, true)] (here (.regang false 3))],
      (s.group 16).slices.filter (fun y => y.live != 0) = (s.group 16).slices ∧
      ∀ y ∈ (s.group 16).slices, y.pc = 4 ∧ y.regang = some (4, 3, false) ∨ y.pc = 4 ∧ y.regang = some (4, 3, true)) ∧
    (∀ rs ∈ [[((4 : Addr), (3 : BitVec 10), false), (8, 3, false)], [(4, 3, false), (4, 1023, false)]],
      ∀ s ∈ [waiting rs (here (.regang false 3))], (s.group 16).slices.length = 2 ∧
        (∀ y ∈ (s.group 16).slices, y.live ≠ 0 ∧ y.regang.isSome = true) ∧
        ((s.group 16).slices.map (·.regang)).dedup.length = 2) ∧
    (∀ i, i < 8 → (0xFF : BitVec 8).getLsbD i = true) := by decide +kernel

/-- A walk whose first entry's line the host may hold, and one whose lines it does not hold. -/
theorem met_MemoryChecks_walks :
    ∀ s ∈ [here (.umovi false 5 7)], ∀ ls ∈ [s.walkLines (s.spaceOf s.cur) A],
      ls ≠ [] ∧ s.snoopHost ls = none ∧ ((heldLine (0x10000 / 128) s).snoopHost ls).isSome = true := by decide +kernel

/-- Stores that no slice performs: at the device, in host memory and at a peer; an identifier left and none. -/
theorem met_ScalarMemoryWords_direct :
    (∀ leaf ∈ (leaves.drop 3).take 2, ∀ s ∈ [typed leaf (.ust false 1 2 0 3 0)],
      s.unheld.snoopHost (s.unheld.walkLines (s.unheld.spaceOf s.cur) 0x80000100) = none ∧
      ∀ r ∈ [s.unheld.translate (s.unheld.spaceOf s.cur) 0x80000100 .store true],
        mapsTo r.2 (fun p => p.direct && (r.1.targetOf 0 p).isSome && !(r.1.crowdedBy 0 (r.1.targetOf 0 p) 1) &&
          (r.1.storeBytes 0 p 8 5 0).2 == .stored) = true) ∧
    (∀ s ∈ [({ here (.umovi false 5 7) with outs := (List.range 256).map fun n => (n, { far := 5, op := .store .strict 0 8 0, sentAt := 0 }) } : State)],
      s.crowdedBy 0 (some 5) 1 = true ∧ s.crowdedBy 0 (some 4) 1 = false) := by decide +kernel

theorem met_StoreWords_targets :
    ∀ s ∈ [lanesAt (.st false 4 2 3 3 0)], ∀ xs ∈ [(List.range 32).map fun l => (BitVec.ofNat 64 A, (⟨A + 8 * l, .shared⟩ : Phys), (0 : W64))],
      s.fullTarget s.cur xs = false ∧ s.fullTarget s.cur (xs.map fun e => (e.1, ⟨2 ^ 48, .strict⟩, e.2.2)) = false := by decide +kernel

/-- The pending atomics of a `red` word, which keeps no old value; one at a slice of another die and one in host memory. -/
theorem met_Atomics_red :
    (∀ s ∈ [out (exec (.red false 4 2 3 0) (lanesAt (.red false 4 2 3 0)))],
      s.reqs.length = 1 ∧ ∀ e ∈ s.reqs, e.2.op = some 0 ∧ e.2.todo.length = 32 ∧ e.2.ord < 2 ∧ e.2.dst = .nothing ∧
        s.meetsOlder e.2.group e.1 (e.2.todo.take 1) = false) ∧ regionOf (2 ^ 48) = .host := by decide +kernel

/-- The current thread has lost stores: dropped, refused; its point's write-back was dropped. -/
def lostBy (dropped refused : Option W64) (s : State) : State :=
  s.setScalar s.cur { s.scalar s.cur with dropped := dropped, refused := refused }

theorem met_FencesAndCacheEvents_lost :
    (∀ s ∈ [lostBy (some 8) none (here (.fence false false 3 1))], s.begins (.fence false false 3 1) = true ∧
      s.unheld.pendingAny s.cur 3 = false ∧ s.unheld.snoopHost (s.unheld.releaseLines (s.cptOf s.cur) 3) = none ∧
      (s.unheld.lostReport s.cur 3).isSome = true ∧ (s.lost s.cur).1 = some 8) ∧
    (∀ s ∈ [lostBy none (some 8) (here (.fence false false 4 1))], (s.lost s.cur).1 = none ∧ (s.lost s.cur).2 = some 8 ∧
      (s.acc (s.cptOf s.cur)).dropped = none ∧ s.unheld.lostReport s.cur 3 = none ∧ (s.unheld.lostReport s.cur 4).isSome = true) ∧
    (∀ s ∈ [(here (.fence false false 3 1)).setAcc 0 { dropped := some 8 }], (s.lost s.cur).1 = none ∧
      (s.acc (s.cptOf s.cur)).dropped = some 8) ∧
    (∀ s ∈ [heldLine (0x1000 / 128) ((here (.fence false false 3 1)).cachedStore 0 .shared 0x1000 8 5 0)],
      s.begins (.fence false false 3 1) = true ∧ (s.unheld.snoopHost (s.unheld.releaseLines (s.cptOf s.cur) 3)).isSome = true) := by
  decide +kernel

theorem met_ReleaseAndAcquire_more :
    (∀ s ∈ [lostBy (some 8) none (here (.ust false 1 2 0 3 2))], ∀ xs ∈ [[(BitVec.ofNat 64 A, (⟨A, .shared⟩ : Phys), (0 : W64))]],
      s.blocked s.cur (xs.map fun e => toAcc 8 (0, e.1, e.2.1)) = false ∧ s.pendingAny s.cur (ordScope 2) = false ∧
      s.fullTarget s.cur xs = false ∧
      s.snoopHost (s.releaseLines (s.cptOf s.cur) (ordScope 2) ++ xs.map fun e => e.2.1.pa / 128) = none ∧
      (s.lostReport s.cur (ordScope 2)).isSome = true) ∧
    (∀ s ∈ [(here (.umovi false 5 7)).cachedStore 0 .priv 0x1000 8 5 0], ∃ e ∈ s.sectorsOf 0, e.2.ty = .priv) := by decide +kernel

theorem met_ServiceCalls_lost :
    ∀ s ∈ [lostBy (some 8) none ((svc (.sysEret false 2) [(2, 4)]).modPart 0 fun p => { p with calls := [(4, call1)] })],
      s.begins (.sysEret false 2) = true ∧ s.unheld.callOf s.cur 4 = some call1 ∧ (s.unheld.lostReport s.cur 3).isSome = true := by
  decide +kernel

/-- Takers that wait and a group whose own take waits for its commands; a halted partition; a lost store; a peer's port. -/
theorem met_Hails_more :
    (∀ s ∈ [withG (asCur (.gang 16 0) (here (.hailTake false 4 2))) fun x => { x with takeAt := some (4, 2, 1) }],
      s.begins (.hailTake false 4 2) = true ∧ s.unheld.hasTake s.cur = true ∧
      ((s.unheld.endService s.cur).serveTakers 0 1).hasTake s.cur = true ∧
      ∀ u ∈ [withW (s.modVec 0 1 0 fun h => { h with pend := true }) [(2, 1)]],
        ((u.unheld.endService u.cur).serveTakers 0 1).hasTake u.cur = false) ∧
    (∀ s ∈ [lostBy (some 8) none (at' (.hailSend false 5 2) [(2, 0x105)])], s.begins (.hailSend false 5 2) = true ∧
      s.unheld.snoopHost (s.unheld.releaseLines (s.cptOf s.cur) 3) = none ∧ (s.unheld.lostReport s.cur 3).isSome = true ∧
      (s.unheld.lostReport s.cur 4).isSome = true ∧ s.unheld.crowdedBy (s.cptOf s.cur) (some 16) 1 = false) ∧
    (asCur (.gang 16 0) (at' (.hailSend false 5 2) [(2, 0x105)])).begins (.hailSend false 5 2) = true ∧
    ((here (.umovi false 5 7)).part (realPart 0)).halted = false := by decide +kernel

/-- A gate's or a count's line holds 0, 1 and 2^32. -/
theorem met_SpawnAndJoin_counts :
    (∀ e ∈ [(0 : Nat), 1, 2 ^ 32], ∀ s ∈ [withGrid (fun g => { g with icnt := some 0x40002000, phase := .gated })
        ({ here (.umovi false 5 7) with mem := memWrite (here (.umovi false 5 7)).mem 0x40002000 8 e } : State)],
      (s.grids.find? 1).isSome = true ∧ (s.grid 1).icnt = some 0x40002000 ∧ (s.grid 1).co = false ∧ (s.grid 1).handler = none ∧
      (s.ownRead (realPart (s.grid 1).part) 0x40002000 8).1 = e) ∧
    (∀ s ∈ [trained (withGrid (fun g => { g with co := true, phase := .passed, status := some (.spine 0, 5), desc := { g.desc with mtiles := 0, ngroups := 1 } })
        (here (.umovi false 5 7)))], ∀ g ∈ s.grids.find? 1, g.co = true ∧ g.phase = .passed ∧ s.couldFit g = true ∧
      s.couldFit { g with count := 2 ^ 20 } = false ∧ (s.spines.find? 0).isSome = true) ∧
    (∀ s ∈ [lostBy (some 8) none (spawnAt (.spawn false 5 10 false false false false) [])],
      s.begins (.spawn false 5 10 false false false false) = true ∧ (s.unheld.lostReport s.cur 3).isSome = true) ∧
    (∀ s ∈ [at' (.join false 5 2 3) [(2, 0x40002000)]],
      s.blocked s.cur [{ lane := 0, addr := 0x40002000, size := 8, ty := some .shared, va := 0x40002000 }] = false) := by decide +kernel

/-- A partition halted and not; a counter that the partition owns, in a context that is not saved. -/
theorem met_PlacementAndRetirement_halted :
    (∀ s ∈ [here (.umovi false 5 7)], (s.part (realPart (s.team 1).part)).halted = false ∧
      ((s.modPart 0 fun p => { p with halted := true }).part (realPart (s.team 1).part)).halted = true ∧
      s.owns (realPart (s.grid 1).part) 0x40002000 = true ∧ (s.ctx (s.grid 1).part (s.grid 1).ctx).phase ≠ .saved ∧
      (s.ownRead 0 0x40002000 8).1 = 0) := by decide +kernel

/-- The swap of a team whose counter is below 0 and whose descriptor says overrun = trap. -/
theorem met_ExchangeWords_overrun :
    ∀ s ∈ [withGrid (fun g => { g with desc := { g.desc with flags := 1 } }) (withT (here (.umovi false 5 7)) fun x => { x with xcount := -1 })],
      (s.teams.find? 1).isSome = true ∧ (s.team 1).xcount < 0 ∧ (s.descOf 1).flags.getLsbD 0 = true ∧ s.groupsOf 1 = [16] := by
  decide +kernel

/-- A register that holds the status of a batch, read and written, and a word that names none. -/
theorem met_BatchesAndCommands_status :
    (∀ i ∈ [Instr.uadd false 1 5 0 0 false 0, .umovi false 5 7, .umovi false 6 7],
      ∀ s ∈ [withG (asCur (.gang 16 0) (here i)) fun x => { x with statusOf := [(5, 3)] }],
      gate i s = .run ∧ s.haltReached s.cur = false ∧ s.operandRegs 16 = [] ∧ s.stepped s.cur = false ∧
      (s.readStatus s s.cur i).stepped s.cur = false ∧
      (decide ((shape i).wsrc.filterMap (s.group 16).statusOf.find? = [3]) = decide (i = .uadd false 1 5 0 0 false 0)) ∧
      (decide (∀ r ∈ (shape i).wsrc ++ (shape i).wdst, (s.group 16).statusOf.find? r = none) = decide (i = .umovi false 6 7))) := by
  decide +kernel

/-- The frames of the page at `a`, as a command pins them. -/
def pageAt (s : State) (a : Nat) : Frames :=
  match s.translateRange (s.spaceOf (.gang 16 0)) .copyRead true a 4096 with
  | (_, .ok fr) => fr
  | _ => []

/-- A command of group 16 is outstanding. -/
def running (k : CmdKind) (begun : Tbl (Option Work)) (s : State) : State :=
  { s with cmds := [(1, { group := 16, team := 1, kind := k, batch := 3, begun := begun })] }

/-- A copy word whose row has begun, from and to lines that the host does not hold, and from one that it may hold. -/
theorem met_CopyCommands_words :
    ∀ s ∈ [asCur (.gang 16 0) (here (.umovi false 5 7))], ∀ fr ∈ [pageAt s 0x40002000],
      ∀ u ∈ [running (.cpy false true 0x40002000 0 8 0 fr []) [(0, some ⟨0x40002000, 0, fr⟩)] s], ∀ c ∈ u.cmds.find? 1,
        fr ≠ [] ∧ c.done = false ∧ 0 < c.kind.rows ∧ 1 < c.kind.rowWords ∧
        c.begun.find? 0 = some (some (⟨0x40002000, 0, fr⟩ : Work)) ∧
        c.moved.find? (0 * c.kind.rowWords + 1) = none ∧ c.begun.find? 1 = none ∧
        (∀ ls ∈ [engLines c.kind.ends.1 fr (0x40002000 + 4) 1 ++ engLines c.kind.ends.2.1 c.kind.ends.2.2 4 1],
          ls ≠ [] ∧ u.snoopHost ls = none ∧ ∀ l ∈ ls, ((heldLine l u).snoopHost ls).isSome = true) := by decide +kernel

/-- Rows of a gather that are read, that end past 2^48 and that have no translation. -/
theorem met_CopyCommands_rows :
    ∀ s ∈ [asCur (.gang 16 0) (here (.umovi false 5 7))], ∀ fr ∈ [pageAt s 0x40002000],
      ∀ tbase ∈ [(0x40003000 : Nat), 2 ^ 48 - 3, 0x80000000],
        ∀ u ∈ [running (.gather true false 0x40002000 1 tbase 4 4 0 fr []) [] s], ∀ c ∈ u.cmds.find? 1,
          c.begun.find? 0 = none ∧ u.snoopHost (engLines false fr (0x40002000 + 0 * 4) 1) = none ∧
          ∀ lo ∈ [u.engRead 16 false fr 0x40002000], lo.2 = (0, false) ∧
            decide (2 ^ 48 < tbase + 4) = decide (tbase = 2 ^ 48 - 3) ∧
            (tbase = 2 ^ 48 - 3 ∨ answers (lo.1.translateRange (lo.1.spaceOf (.gang 16 0)) .copyRead true tbase 4).2 =
              decide (tbase = 0x40003000)) := by decide +kernel

/-- Tokens of a binscat: a key past the bins, a bin with room and a full one, whose counter the partition owns. -/
theorem met_CopyCommands_tokens :
    ∀ s ∈ [asCur (.gang 16 0) (here (.umovi false 5 7))], ∀ fr ∈ [pageAt s 0x40003000],
      ∀ e ∈ [((0 : Nat), (2 : Nat)), (1, 2), (0, 0)],
        ∀ u ∈ [running (.binscat true 0 1 4 0x40003000 0x40004000 [(0x4000400C, 0x40005000, e.2)] [] fr) []
            ({ s with mem := memWrite s.mem 0x40003000 4 e.1 } : State)], ∀ c ∈ u.cmds.find? 1,
          0 = c.begun.length ∧ u.snoopHost (engLines false fr (0x40003000 + 4 * 0) 1) = none ∧
          ∀ k ∈ [u.engRead 16 false fr 0x40003000], k.2.1 = e.1 ∧
            decide ([((0x4000400C : Nat), (0x40005000 : Nat), e.2)][k.2.1]? = none) = decide (e.1 = 1) ∧
            k.1.owns (k.1.team 1).part 0x4000400C = true ∧ k.1.snoopHost [0x4000400C / 128] = none ∧
            (k.1.bumpBin (k.1.team 1).cluster 0x4000400C e.2 0).2.isSome = decide (e.2 = 2) := by decide +kernel

/-- A collective that has started and has words left; a halted partition, with a matrix command at the head of its queue. -/
theorem met_CopyCommands_off :
    (∀ s ∈ [withT (running (.cpy true true 0 0 4 0 [] []) [] (here (.umovi false 5 7))) fun x => { x with cpyStarted := 1 }],
      s.engineOff 1 = false ∧ (s.runningCpy 1).length = 1 ∧ (s.cmds.find? 1).isSome = true) ∧
    (here (.umovi false 5 7)).copyFull 16 = false := by decide +kernel

theorem met_MatrixTurns_off :
    ∀ s ∈ [withP (queued .maccClear (here (.umovi false 5 7))) fun p => { p with halted := true }],
      (s.group 16).mq ≠ [] ∧ s.engineOff (s.group 16).team = true := by decide +kernel

/-- Steps of an OUTER stream with its error terms; a load behind an access that its group issued before, and free. -/
theorem met_StreamTurns_outer :
    (∀ s ∈ [({ streamed (fun x => { x with queue := [1], outer := true, comp := true }) (here (.umovi false 5 7)) with
        cmds := [(1, cmdOf (.strmStep 3 9 0 none 5))] } : State)],
      (s.streamOf 1 3).isSome = true ∧ ∀ x ∈ s.streamOf 1 3, x.outer = true ∧ x.comp = true ∧ x.gen = 9 ∧ x.team = 1 ∧ x.n ≤ 2048) ∧
    (∀ s ∈ [asCur (.gang 16 0) (here (.umovi false 5 7))], ∀ k ∈ [CmdKind.strmLoad 3 9 0x40002000 [] 5],
        s.recordWait 1 (cmdOf k) = none ∧ s.olderPending 16 1 = false ∧
        ∀ u ∈ [pend { s with nextId := 0 }], u.olderPending 16 1 = true ∧ u.recordWait 1 (cmdOf k) = some u) := by decide +kernel

/-- Whether a value's bits stand for a finite number. -/
def isFinite32 (b : W32) : Bool := isFin (f32 b)

/-- Cells whose step stays in the format's range, and one whose step leaves it. -/
theorem met_StreamTurns_terms :
    isFinite32 (stepCell true ⟨0x3F800000, 0, false, false⟩ 0x3F800000 0x3F800000 0x3F800000).h = true ∧
    isFinite32 (stepCell true ⟨0x7F7FFFFF, 0, false, true⟩ 0x7F7FFFFF 0x3F800000 0x3F800000).h = false ∧
    isFinite32 (stepCell true ⟨0x7FC00000, 0, true, false⟩ 0x3F800000 0x3F800000 0x3F800000).h = false := by decide +kernel

/-- Posted requests whose links are quiet, and one whose link is sending a flit again; one that another thread awaits. -/
theorem met_LinkEvents_posted :
    ∀ o ∈ [({ far := 16, op := .store .shared 0x1000 8 7, sentAt := 0, poster := some (.thread (.spine 0)) } : Outstanding)],
      o.poster.isSome = true ∧ o.reply = none ∧ ({ o with poster := none } : Outstanding).poster = none ∧
      ({ o with reply := some (0, false) } : Outstanding).reply.isSome = true ∧
      linksTo 2 o.far = [64] ∧ (linksTo 2 1).length = 8 ∧ linksTo 2 4 = [] ∧
      (∀ s ∈ [({ here (.umovi false 5 7) with outs := [(2 ^ 16 * 2 + 9, o)] } : State)],
        s.outs.find? (2 ^ 16 * 2 + 9) = some o ∧ (∀ l ∈ linksTo 2 o.far, ∀ f ∈ (s.link l).replay, f.resent = 0)) ∧
      (∀ s ∈ [({ here (.umovi false 5 7) with links := [(64, { port := true, replay := two 1 })], outs := [(2 ^ 16 * 2 + 9, o)] } : State)],
        ∃ l ∈ linksTo 2 o.far, ∃ f ∈ (s.link l).replay, 0 < f.resent) := by decide +kernel

/-- Changes of point that go on and that wait: for the dies that are powered at POINT 0, and for a thermal limit. -/
theorem met_PowerAndBootEvents_points :
    let with_ := fun (p st : W64) (b : W64) (th : Option Nat) (c : Bool) =>
      ({ State.reset with time := 1000000, root := { State.reset.root with
        pwrctl := p, pwrstat := st, bootstat := b, pauseAt := some 0, thermAt := th, cooling := c } } : State)
    (∀ s ∈ [with_ 0 4 0x300000 none false], s.root.ungated (s.root.pwrstat.toNat / 2 ^ 8 % 2 ^ 16) = 16) ∧
    (∀ s ∈ [with_ 0xFF0000 0xFF0004 0x200000 none false, with_ 0xFF00 0xFF04 0x200000 none false],
      s.root.pauseAt.isSome = true ∧ s.root.bootstat.getLsbD 20 = false ∧ s.root.pwrctl.toNat % 8 = 0) ∧
    (∀ s ∈ [with_ 1 4 0x200000 (some 0) false], s.root.pwrctl.toNat % 8 < s.root.pwrstat.toNat % 8 ∧ 0 + 1000000 ≤ s.time ∧
      1 < s.root.pwrstat.toNat % 8) ∧
    (∀ s ∈ [with_ 1 4 0x200000 (some 1) true], s.time < 1 + 1000000 ∧ s.root.cooling = true) ∧
    100 < (101 : BitVec 8).toNat ∧ ¬ 100 < (100 : BitVec 8).toNat ∧ 95 ≤ (95 : BitVec 8).toNat ∧ ¬ 95 ≤ (94 : BitVec 8).toNat := by
  decide +kernel

/-- Lane words of the frames: floating-point ones, a stochastic conversion, compares, votes, folds, scans and exchanges. -/
theorem met_RegisterWordFrames_lanes :
    ∀ i ∈ [Instr.fadd false 1 2 3 0, .sfu false 1 2 0, .hfma2 false 1 2 3 4 0, .cvt false 1 2 4 5 false, .cvt false 1 2 0 0 false,
        .icmp false 0 1 2 3 0, .icmpi false 0 1 2 7, .fcmp false 0 1 2 3 0, .vote false 5 0 1 false, .redux false 5 2 7, .redux false 5 2 8,
        .scan false 5 2 10 true, .cmpx false 5 6 1 0 false, .cmpx false 5 6 5 4 true],
      ∀ s ∈ [here i], s.cur = .gang 16 0 ∧ s.begins i = true ∧ (s.uni s.cur).fpctl.extractLsb' 4 5 = 0 := by decide +kernel

/-- Stores to scratchpad space and to the exchange that pass their checks. -/
theorem met_StoreFrames_pools :
    (∀ s ∈ [withV (here (.sts false 4 2 3 2)) 2 fun l => BitVec.ofNat 32 (8 * l)], s.cur = .gang 16 0 ∧
      s.begins (.sts false 4 2 3 2) = true ∧ s.unheld.checkPool s.cur false 4 (s.unheld.laneAddrs s.cur 3 2) = none ∧
      s.unheld.blocked s.cur ((s.unheld.laneAddrs s.cur 3 2).map fun e =>
        { lane := e.1, addr := e.2.toNat, size := 4, ty := none, va := e.2 }) = false) ∧
    (∀ s ∈ [withGrid (fun g => { g with desc := { g.desc with exch := 1 } })
        (withV (here (.xst false 4 2 3 2)) 2 fun l => BitVec.ofNat 32 (4 * l))], s.cur = .gang 16 0 ∧
      s.begins (.xst false 4 2 3 2) = true ∧ (s.getW s.cur 3).toNat / 2 ^ 32 < (s.grid (s.gridOf s.cur)).count ∧
      ∀ l ∈ s.active s.cur, ∀ off ∈ [(((s.getW s.cur 3).setWidth 32 + s.unheld.laneReg s.cur 2 l : W32)).toNat],
        off + 4 ≤ 1024 * (s.grid (s.gridOf s.cur)).desc.exch ∧ off % 4 = 0) := by decide +kernel
/-! ### Ordered accesses, the host's lines and what else the clauses ask for -/

/-- An ordered access of a page finds nothing to wait for (R199, R202, R364, R367). -/
def quiet (q : BitVec 2) (s : State) (p : Phys) : Bool :=
  let sc := ordScope q.toNat
  !s.pendingAny s.cur sc && (s.snoopHost (s.releaseLines (s.cptOf s.cur) sc ++ [p.pa / 128])).isNone &&
    (s.lostReport s.cur sc).isNone && (s.releaseWait (s.cptOf s.cur) sc).isNone && !s.fullFor (s.cptOf s.cur) [p]

/-- A write-back of cluster 0 that is not acknowledged yet. -/
def unackedState (s : State) : State :=
  { s with outs := [(9, { far := 1, op := .store .shared 0x1000 8 7 0, sentAt := 0, poster := some .writeBack })] }

/-- Acquire loads, release stores and ordered atomics of a spine thread, of every scope. -/
theorem met_ScalarMemoryWords_ordered :
    ∀ q ∈ [(0 : BitVec 2), 1, 2, 3], ∀ i ∈ [Instr.uld false 1 2 0 3 q, .ust false 1 2 0 3 q, .uamo false 1 2 4 0 q],
      ∀ s ∈ [at' i [(2, BitVec.ofNat 64 A)]], s.begins i = true ∧
      (∀ k ∈ [AccKind.load, .store, .atomic], ∀ r ∈ [s.unheld.translate (s.unheld.spaceOf s.cur) A k true],
        mapsTo r.2 (fun p => quiet q r.1 p && (s.unheld.filledHeld (r.1.acquireLoad 0 (q == 3) p 8).1).isNone &&
          !(r.1.acquireLoad 0 (q == 3) p 8).2.2 && ((r.1.beginWide 0 (q == 3)).1.releaseStore 0 0 p 8 5 0).2 == .stored &&
          (r.1.orderedAtomic 0 (q == 3) p 8 0 5 0).2.2.2 == .stored && !(r.1.orderedAtomic 0 (q == 3) p 8 0 5 0).2.2.1 &&
          (s.unheld.filledHeld (r.1.orderedAtomic 0 (q == 3) p 8 0 5 0).1).isNone) = true) := by decide +kernel

theorem met_PendingAccesses_reply :
    ∀ s ∈ [out (exec (.ld false 4 2 3 3 0) (lanesAt (.ld false 4 2 3 3 0)))], ∀ e ∈ s.reqs,
      s.replyHeld 0 e.2 = false ∧ s.fullFor 0 e.2.pages = false ∧ s.filledHeld (out (exec (.loadReply e.1) s)) = none := by
  decide +kernel

/-- Release stores of group code, of every scope, in the lane set and the uniform set. -/
theorem met_StoreWords_release :
    ∀ q ∈ [(1 : BitVec 2), 2, 3],
      (∀ s ∈ [lanesAt (.st false 4 2 3 3 q)], s.begins (.st false 4 2 3 3 q) = true ∧ quiet q s.unheld ⟨A, .shared⟩ = true ∧
        checkKind (s.unheld.checkVirtual s.cur .store false true 8 (s.unheld.laneAddrs s.cur 3 2)) = (0, 32)) ∧
      (∀ s ∈ [asCur (.gang 16 0) (at' (.ust false 1 2 0 3 q) [])], s.begins (.ust false 1 2 0 3 q) = true ∧
        quiet q s.unheld ⟨A, .shared⟩ = true ∧
        checkKind (s.unheld.checkUniform s.cur .store false true 8 (BitVec.ofNat 64 A)) = (0, 1)) := by decide +kernel

/-- An atomic of device scope in group code, at its slice. -/
theorem met_Atomics_ordered :
    (∀ s ∈ [out (exec (.uamo false 1 2 4 0 2) (withW (asCur (.gang 16 0) (here (.uamo false 1 2 4 0 2))) [(2, BitVec.ofNat 64 A)]))],
      s.reqs.length = 1 ∧ s.l1.sorted = true ∧ regionOf A = .hbm ∧ ∀ e ∈ s.reqs, e.2.op = some 0 ∧ e.2.todo.length = 1 ∧ e.2.ord = 2 ∧
        e.2.dst ≠ .nothing ∧ s.meetsOlder e.2.group e.1 e.2.todo = false ∧ s.crowdedBy 0 (s.targetOf 0 ⟨A, .shared⟩) 1 = false ∧
        s.snoopHost (s.releaseLines 0 (ordScope 2) ++ [A / 128]) = none ∧ s.releaseWait 0 (ordScope 2) = none ∧
        s.filledHeld (out (exec (.sliceAtomic e.1) s)) = none) := by decide +kernel

/-- Write-backs acknowledged and not; a line of the host's that a `cache` word would fill; a STREAM line before and at its time. -/
theorem met_FencesAndCacheEvents_waits :
    (∀ s ∈ [here (.fence false false 3 2)], s.begins (.fence false false 3 2) = true ∧ s.unheld.releaseWait 0 3 = none ∧
      s.unheld.filledHeld (s.unheld.fenceActs 0 3 2) = none ∧ (unackedState s).begins (.fence false false 3 2) = true ∧
      ((unackedState s).unheld.releaseWait 0 3).isSome = true ∧ (unackedState s).unheld.pendingAny s.cur 3 = false) ∧
    (∀ f ∈ [(2 : BitVec 6), 4], ∀ s ∈ [(at' (.cache false 1 f) [(1, BitVec.ofNat 64 A)]).cachedStore 0 .shared A 8 5 0],
      s.begins (.cache false 1 f) = true ∧ ∀ r ∈ [s.unheld.translate (s.unheld.spaceOf s.cur) A .lineRead true],
        mapsTo r.2 (fun p => (s.unheld.filledHeld (r.1.cacheLine s.cur f.toNat (BitVec.ofNat 64 A) p)).isNone) = true ∧
        ∀ u ∈ [heldLine (A / 128) s], ∀ v ∈ [heldLine (A / 128) r.1],
          mapsTo r.2 (fun p => (u.unheld.filledHeld (v.cacheLine s.cur f.toNat (BitVec.ofNat 64 A) p)).isSome) = true) ∧
    (∀ n ∈ [999, 1000], ∀ s ∈ [({ here (.umovi false 5 7) with time := n, wc := [(wcKey 0 (5 * 128), { since := 0, mask := 1 })] } : State)],
      s.snoopHost [5] = none ∧ ∀ x ∈ s.wc.find? (wcKey 0 (5 * 128)), x.mask ≠ BitVec.allOnes 128 ∧
        decide (x.since + 1000 ≤ s.time) = decide (n = 1000)) := by decide +kernel

/-- A SHARED location that its cluster holds dirty, and one it does not hold. -/
theorem met_ReleaseAndAcquire_words :
    ∀ s ∈ [(here (.umovi false 5 7)).cachedStore 0 .shared 0x1000 8 5 0, here (.umovi false 5 7)],
      s.l1.sorted = true ∧ s.owns (s.partOfCpt 0) 0x1000 = true ∧ regionOf 0x1000 = .hbm ∧ s.foreign 0x1000 = none ∧
      0x1000 % 64 + 8 ≤ 64 := by decide +kernel

/-- The page is filled with zeros; the host holds the page's line and does not. -/
theorem met_FaultHandlerWords_host :
    ∀ s ∈ [filled 0x200 (withFault (at' (.sysFmap false 5 2) [(2, 5 * 2 ^ 32)]))],
      s.unheld.filledHeld (s.unheld.fillPage 0 0 0x13000 0 []) = none ∧
      ∀ u ∈ [heldLine (0x13000 / 128) s], (u.unheld.filledHeld (u.unheld.fillPage 0 0 0x13000 0 [])).isSome = true := by decide +kernel

/-- A gang without every slice of its group. -/
def halfGang (i : Instr) : State :=
  withG (asCur (.gang 16 0) (here i)) fun x => { x with slices := x.slices.mapIdx fun k sl => if k = 7 then { sl with gang := 1 } else sl }

theorem met_Gangs_split :
    ∀ i ∈ [Instr.bar false 2 0 0, .svc false 3, .hailTake false 4 2], (halfGang i).begins i = true ∧
      ((halfGang i).unheld.group 16).whole 0 = false ∧ (halfGang i).cur = .gang 16 0 := by decide +kernel

/-- A group that may not park yet; the write-backs of a reply's release acknowledged and not; a hail's identifier. -/
theorem met_ServiceCalls_waits :
    (∀ s ∈ [pend (here (.svc false 3))], s.begins (.svc false 3) = true ∧ (s.unheld.group 16).whole 0 = true ∧
      s.unheld.mayPark s.cur = false) ∧
    (∀ s ∈ [(svc (.sysEret false 2) [(2, 4)]).modPart 0 fun p => { p with calls := [(4, call1)] }],
      s.unheld.lostReport s.cur 3 = none ∧ s.unheld.releaseWait (s.cptOf s.cur) 3 = none ∧
      ∀ u ∈ [({ s with outs := [(2 ^ 16 * 256 + 9, { far := 1, op := .store .shared 0x1000 8 7 0, sentAt := 0, poster := some .writeBack })] } : State)],
        (u.unheld.releaseWait (u.cptOf u.cur) 3).isSome = true) ∧
    (∀ s ∈ [at' (.hailSend false 5 2) [(2, 0x105)]], s.unheld.crowdedBy 0 (some ((s.part 0).base / 64)) 1 = false ∧
      s.unheld.releaseWait 0 3 = none ∧ s.unheld.releaseWait 0 4 = none) := by decide +kernel

theorem met_SpawnAndJoin_waits :
    (∀ s ∈ [spawnAt (.spawn false 5 10 false false false false) []], s.hostHeld = [] ∧ s.unheld.filledHeld s.unheld = none ∧
      s.unheld.snoopHost (s.unheld.releaseLines 0 3) = none ∧ s.unheld.releaseWait 0 3 = none ∧ s.grids.length < 2 ^ 32 - 1 ∧
      s.unheld.gridLive 0 (s.unheld.gridNum 0) = false) ∧
    (∀ s ∈ [at' (.join false 5 2 3) [(2, 0x40002000)]],
      s.unheld.filledHeld (s.unheld.acquireLoad 0 false ⟨0x40002000, .shared⟩ 8).1 = none) := by decide +kernel

/-- The commands of a valid tile and of an invalid one; scratchpad with and without a store no fence covers; a group with a slice
that has exited; a halted queue. -/
theorem met_MatrixTurns_macc :
    (∀ k ∈ [CmdKind.maccLoad 3 128, .maccStore 3 4 0, .maccStore 3 0 0, .maccRow 3 63 4],
      ∀ s ∈ [queued k (here (.umovi false 5 7))], (s.mqHead 16).map (·.2.kind) = some k ∧ (s.group 16).mqHalted = false ∧
        (s.tile 1 3).valid = false ∧ ((withT s fun x => { x with tiles := [(3, { valid := true })] }).tile 1 3).valid = true ∧
        ((withG s fun x => { x with mstat := 2 }).group 16).mqHalted = true ∧ (s.groups.find? 16).isSome = true ∧
        (s.team (s.group 16).team).unfenced.get [] (128 / 4) = [] ∧
        (∀ sl ∈ (s.group 16).slices[0]?, sl.live = 15) ∧
        ∀ u ∈ [withG s fun x => { x with slices := x.slices.map Slice.finish }], ∀ sl ∈ (u.group 16).slices[0]?, sl.live = 0) := by
  decide +kernel

theorem met_LandingWords_host :
    ∀ s ∈ [at' (.meet false 0 10 5 0 false 0) [(10, 0x80010000), (11, 0x40002000), (12, 0x40001000), (13, 2)]],
      s.hostHeld = [] ∧ (s.unheld.filledHeld (s.unheld.pinRanges s.cur
        [⟨false, 0x40002000, 8192, 128, .copyWrite⟩, ⟨false, 0x40001000, 8, 8, .atomic⟩]).1).isNone = true := by decide +kernel

theorem met_LandingsCombineAndForward_waits :
    ∀ s ∈ [queued (.meet 0 0 false 0 5 0x80010007 0x40002000 0x40001000 2 []) (here (.umovi false 5 7))],
      s.crowdedBy 0 (some ((s.part 0).homeSlice 7 / 64)) 1 = false ∧ s.releaseWait 0 3 = none ∧
      ((unackedState s).releaseWait 0 3).isSome = true := by decide +kernel

/-- A save that has begun, one that waits for quiescence and none. -/
theorem met_StreamTurns_save :
    ∀ s ∈ [here (.umovi false 5 7)], s.saveBegun 1 = false ∧
      (∀ u ∈ [s.modCtx 0 1 fun c => { c with phase := .saving }], u.saveBegun 1 = false) ∧
      ∀ u ∈ [s.modCtx 0 1 fun c => { c with phase := .saving, forced := true }], u.saveBegun 1 = true ∧ u.engineOn 1 = true := by
  decide +kernel

/-- A line that the host holds and one it does not; a link that sends a request's flits again as its time comes. -/
theorem met_PeersAndResends :
    (∀ s ∈ [here (.umovi false 5 7)], s.snoopHost [3] = none ∧ ((heldLine 3 s).snoopHost [3]).isSome = true) ∧
    (∀ o ∈ [({ far := 16, op := .store .shared 0x1000 8 7 0, sentAt := 0, poster := some .writeBack } : Outstanding)],
      ∀ s ∈ [({ here (.umovi false 5 7) with time := 100000, links := [(64, { port := true, replay := two 1 })], outs := [(2 ^ 16 * 2 + 9, o)] } : State)],
        (∃ l ∈ linksTo 2 o.far, ∃ f ∈ (s.link l).replay, 0 < f.resent) ∧ o.reply = none ∧ o.sentAt + 100000 ≤ s.time) := by
  decide +kernel

/-- Eight and nine dies powered at point 0; a write that clears a gated die's bit while another die drains; 114 and 115 degrees. -/
theorem met_PowerAndBootEvents_ninth :
    let with_ := fun (p st : W64) => ({ State.reset with root := { State.reset.root with pwrctl := p, pwrstat := st } } : State)
    (∀ s ∈ [with_ 0xFE0000 0xFF0000], s.gateBit 8 = false ∧ s.root.pwrstat.getLsbD 16 = true ∧ s.root.pauseAt = none ∧
      s.root.pwrstat.toNat % 8 = 0 ∧ s.root.powered = 9 ∧ (with_ 0xFE0000 0xFF0001).root.pwrstat.toNat % 8 ≠ 0) ∧
    (∀ s ∈ [with_ 0xFF0000 0xFF0000], s.root.powered = 8 ∧
      (s.writePwrctl 0xFE8000).map (fun t => t.root.pwrctl.toNat % 8) = some 1 ∧
      (s.writePwrctl 0xFE0000).map (fun t => t.root.pwrctl.toNat % 8) = some 1 ∧
      (s.writePwrctl 0xFF0000).map (fun t => t.root.pwrctl.toNat % 8) = some 0) ∧
    115 ≤ (115 : BitVec 8).toNat ∧ (114 : BitVec 8).toNat < 115 := by decide +kernel

/-- R181: a C leaf at place 1 whose FRAME is 0 maps place 0 below it, modulo 2^52. -/
theorem test_block_leaf_wraps :
    (match leafCheck (blockLeaf 0xA3 1) 3 5 .load false with | .ok p => p.pa < 2 ^ 52 | .error _ => true) = true := by decide +kernel

/-- R310: bytes that cover a poisoned sector in two writes clear its mark, and a write of half of it does not. -/
theorem test_poison_by_halves :
    ∀ s ∈ [(here (.umovi false 5 7)).setBad 0x1000 true], s.badAt 0x1000 = true ∧ (s.memStore 0x1000 32 7).badAt 0x1000 = true ∧
      ((s.memStore 0x1000 32 7).memStore 0x1020 32 7).badAt 0x1000 = false := by decide +kernel

/-- R371: the mark of a lost store passes to a slice that stays when the lowest exits. -/
theorem test_mark_stays :
    ∀ s ∈ [(here (.exit 7 false)).markStore (.gang 16 0) 8 .dropped],
      ∀ u ∈ [withG s fun x => { x with slices := x.slices.mapIdx fun k sl => if k = 0 then sl.finish else sl }],
        ((u.regroup (.gang 16 0)).lost (.gang 16 0)).1 = some 8 := by decide +kernel

end Sys2Proof.Tests
end

section
/-! PROOFS. The decoder takes the word of every instruction back to it (R8, R24 to R35): a field of the word is read by division
and remainder, so each row of the opcode map is linear arithmetic on the number of the word. One lemma per instruction, as in
`Laws.WordSize`. -/

namespace Sys2Proof.Laws.DecodeWord

open Sys2Proof.Laws.WordSize (bitOf_lt)

theorem bits_iff {n w lo : Nat} {x : BitVec n} : bits n w lo = x ↔ w / 2 ^ lo % 2 ^ n = x.toNat := by
  constructor
  · rintro rfl
    simp [bits]
  · intro h
    exact BitVec.eq_of_toNat_eq (by simp [bits, h])

theorem flag_iff {w lo : Nat} {b : Bool} : flag w lo = b ↔ w / 2 ^ lo % 2 = bitOf b := by
  cases b <;> simp [flag, bitOf]

/-- R24: a word whose bit 31 is clear is one of the lane set. -/
theorem decode_lane {w : Nat} (h : w < 2 ^ 31) : decode (BitVec.ofNat 32 w) = decodeLane w := by
  have e : (BitVec.ofNat 32 w).toNat = w := by simp; omega
  simp only [decode, e, h, if_true]

/-- R24: a word whose bit 31 is set is one of the uniform set. -/
theorem decode_uniform {w : Nat} (h : 2 ^ 31 ≤ w) (h32 : w < 2 ^ 32) : decode (BitVec.ofNat 32 w) = decodeUniform w := by
  have e : (BitVec.ofNat 32 w).toNat = w := by simp; omega
  simp only [decode, e, not_lt.2 h, if_false]

theorem decode_add {word : Nat} (t : Bool) (d a b : BitVec 7) (bs : BitVec 2) (m : Bool) (hw : word = 0 + bitOf t * 16777216 + d.toNat * 131072 + a.toNat * 1024 + b.toNat * 8 + bs.toNat * 2 + bitOf m) :
    decode (BitVec.ofNat 32 word) = .ok (.add t d a b bs m) := by
  have ht := bitOf_lt t
  have hm := bitOf_lt m
  rw [decode_lane (by omega)]
  simp only [decodeLane, show word / 2 ^ 25 = 0 by omega]
  simp only [Except.ok.injEq, Instr.add.injEq, bits_iff, flag_iff]
  omega

theorem decode_sub {word : Nat} (t : Bool) (d a b : BitVec 7) (bs : BitVec 2) (m : Bool) (hw : word = 33554432 + bitOf t * 16777216 + d.toNat * 131072 + a.toNat * 1024 + b.toNat * 8 + bs.toNat * 2 + bitOf m) :
    decode (BitVec.ofNat 32 word) = .ok (.sub t d a b bs m) := by
  have ht := bitOf_lt t
  have hm := bitOf_lt m
  rw [decode_lane (by omega)]
  simp only [decodeLane, show word / 2 ^ 25 = 1 by omega]
  simp only [Except.ok.injEq, Instr.sub.injEq, bits_iff, flag_iff]
  omega

theorem decode_mul {word : Nat} (t : Bool) (d a b : BitVec 7) (bs : BitVec 2) (hw : word = 67108864 + bitOf t * 16777216 + d.toNat * 131072 + a.toNat * 1024 + b.toNat * 8 + bs.toNat * 2) :
    decode (BitVec.ofNat 32 word) = .ok (.mul t d a b bs) := by
  have ht := bitOf_lt t
  rw [decode_lane (by omega)]
  simp only [decodeLane, show word / 2 ^ 25 = 2 by omega]
  rw [if_pos (by simp only [fld]; omega)]
  simp only [Except.ok.injEq, Instr.mul.injEq, bits_iff, flag_iff]
  omega

theorem decode_mulhi {word : Nat} (t : Bool) (d a b : BitVec 7) (bs : BitVec 2) (m : Bool) (hw : word = 100663296 + bitOf t * 16777216 + d.toNat * 131072 + a.toNat * 1024 + b.toNat * 8 + bs.toNat * 2 + bitOf m) :
    decode (BitVec.ofNat 32 word) = .ok (.mulhi t d a b bs m) := by
  have ht := bitOf_lt t
  have hm := bitOf_lt m
  rw [decode_lane (by omega)]
  simp only [decodeLane, show word / 2 ^ 25 = 3 by omega]
  simp only [Except.ok.injEq, Instr.mulhi.injEq, bits_iff, flag_iff]
  omega

theorem decode_imad {word : Nat} (t : Bool) (d a b : BitVec 7) (bs : BitVec 2) (hw : word = 134217728 + bitOf t * 16777216 + d.toNat * 131072 + a.toNat * 1024 + b.toNat * 8 + bs.toNat * 2) :
    decode (BitVec.ofNat 32 word) = .ok (.imad t d a b bs) := by
  have ht := bitOf_lt t
  rw [decode_lane (by omega)]
  simp only [decodeLane, show word / 2 ^ 25 = 4 by omega]
  rw [if_pos (by simp only [fld]; omega)]
  simp only [Except.ok.injEq, Instr.imad.injEq, bits_iff, flag_iff]
  omega

theorem decode_and {word : Nat} (t : Bool) (d a b : BitVec 7) (bs : BitVec 2) (hw : word = 167772160 + bitOf t * 16777216 + d.toNat * 131072 + a.toNat * 1024 + b.toNat * 8 + bs.toNat * 2) :
    decode (BitVec.ofNat 32 word) = .ok (.and t d a b bs) := by
  have ht := bitOf_lt t
  rw [decode_lane (by omega)]
  simp only [decodeLane, show word / 2 ^ 25 = 5 by omega]
  rw [if_pos (by simp only [fld]; omega)]
  simp only [Except.ok.injEq, Instr.and.injEq, bits_iff, flag_iff]
  omega

theorem decode_or {word : Nat} (t : Bool) (d a b : BitVec 7) (bs : BitVec 2) (hw : word = 201326592 + bitOf t * 16777216 + d.toNat * 131072 + a.toNat * 1024 + b.toNat * 8 + bs.toNat * 2) :
    decode (BitVec.ofNat 32 word) = .ok (.or t d a b bs) := by
  have ht := bitOf_lt t
  rw [decode_lane (by omega)]
  simp only [decodeLane, show word / 2 ^ 25 = 6 by omega]
  rw [if_pos (by simp only [fld]; omega)]
  simp only [Except.ok.injEq, Instr.or.injEq, bits_iff, flag_iff]
  omega

theorem decode_xor {word : Nat} (t : Bool) (d a b : BitVec 7) (bs : BitVec 2) (hw : word = 234881024 + bitOf t * 16777216 + d.toNat * 131072 + a.toNat * 1024 + b.toNat * 8 + bs.toNat * 2) :
    decode (BitVec.ofNat 32 word) = .ok (.xor t d a b bs) := by
  have ht := bitOf_lt t
  rw [decode_lane (by omega)]
  simp only [decodeLane, show word / 2 ^ 25 = 7 by omega]
  rw [if_pos (by simp only [fld]; omega)]
  simp only [Except.ok.injEq, Instr.xor.injEq, bits_iff, flag_iff]
  omega

theorem decode_shl {word : Nat} (t : Bool) (d a b : BitVec 7) (bs : BitVec 2) (hw : word = 268435456 + bitOf t * 16777216 + d.toNat * 131072 + a.toNat * 1024 + b.toNat * 8 + bs.toNat * 2) :
    decode (BitVec.ofNat 32 word) = .ok (.shl t d a b bs) := by
  have ht := bitOf_lt t
  rw [decode_lane (by omega)]
  simp only [decodeLane, show word / 2 ^ 25 = 8 by omega]
  rw [if_pos (by simp only [fld]; omega)]
  simp only [Except.ok.injEq, Instr.shl.injEq, bits_iff, flag_iff]
  omega

theorem decode_shr {word : Nat} (t : Bool) (d a b : BitVec 7) (bs : BitVec 2) (m : Bool) (hw : word = 301989888 + bitOf t * 16777216 + d.toNat * 131072 + a.toNat * 1024 + b.toNat * 8 + bs.toNat * 2 + bitOf m) :
    decode (BitVec.ofNat 32 word) = .ok (.shr t d a b bs m) := by
  have ht := bitOf_lt t
  have hm := bitOf_lt m
  rw [decode_lane (by omega)]
  simp only [decodeLane, show word / 2 ^ 25 = 9 by omega]
  simp only [Except.ok.injEq, Instr.shr.injEq, bits_iff, flag_iff]
  omega

theorem decode_min {word : Nat} (t : Bool) (d a b : BitVec 7) (bs : BitVec 2) (m : Bool) (hw : word = 335544320 + bitOf t * 16777216 + d.toNat * 131072 + a.toNat * 1024 + b.toNat * 8 + bs.toNat * 2 + bitOf m) :
    decode (BitVec.ofNat 32 word) = .ok (.min t d a b bs m) := by
  have ht := bitOf_lt t
  have hm := bitOf_lt m
  rw [decode_lane (by omega)]
  simp only [decodeLane, show word / 2 ^ 25 = 10 by omega]
  simp only [Except.ok.injEq, Instr.min.injEq, bits_iff, flag_iff]
  omega

theorem decode_max {word : Nat} (t : Bool) (d a b : BitVec 7) (bs : BitVec 2) (m : Bool) (hw : word = 369098752 + bitOf t * 16777216 + d.toNat * 131072 + a.toNat * 1024 + b.toNat * 8 + bs.toNat * 2 + bitOf m) :
    decode (BitVec.ofNat 32 word) = .ok (.max t d a b bs m) := by
  have ht := bitOf_lt t
  have hm := bitOf_lt m
  rw [decode_lane (by omega)]
  simp only [decodeLane, show word / 2 ^ 25 = 11 by omega]
  simp only [Except.ok.injEq, Instr.max.injEq, bits_iff, flag_iff]
  omega

theorem decode_icmp {word : Nat} (t : Bool) (c : BitVec 4) (p : BitVec 3) (a b : BitVec 7) (bs : BitVec 2) (hw : word = 402653184 + bitOf t * 16777216 + c.toNat * 1048576 + p.toNat * 131072 + a.toNat * 1024 + b.toNat * 8 + bs.toNat * 2) :
    decode (BitVec.ofNat 32 word) = .ok (.icmp t c p a b bs) := by
  have ht := bitOf_lt t
  rw [decode_lane (by omega)]
  simp only [decodeLane, show word / 2 ^ 25 = 12 by omega]
  rw [if_pos (by simp only [fld]; omega)]
  simp only [Except.ok.injEq, Instr.icmp.injEq, bits_iff, flag_iff]
  omega

theorem decode_sel {word : Nat} (t : Bool) (d a b : BitVec 7) (p : BitVec 3) (hw : word = 436207616 + bitOf t * 16777216 + d.toNat * 131072 + a.toNat * 1024 + b.toNat * 8 + p.toNat) :
    decode (BitVec.ofNat 32 word) = .ok (.sel t d a b p) := by
  have ht := bitOf_lt t
  rw [decode_lane (by omega)]
  simp only [decodeLane, show word / 2 ^ 25 = 13 by omega]
  simp only [Except.ok.injEq, Instr.sel.injEq, bits_iff, flag_iff]
  omega

theorem decode_bfx {word : Nat} (t : Bool) (d a b : BitVec 7) (bs : BitVec 2) (hw : word = 469762048 + bitOf t * 16777216 + d.toNat * 131072 + a.toNat * 1024 + b.toNat * 8 + bs.toNat * 2) :
    decode (BitVec.ofNat 32 word) = .ok (.bfx t d a b bs) := by
  have ht := bitOf_lt t
  rw [decode_lane (by omega)]
  simp only [decodeLane, show word / 2 ^ 25 = 14 by omega]
  rw [if_pos (by simp only [fld]; omega)]
  simp only [Except.ok.injEq, Instr.bfx.injEq, bits_iff, flag_iff]
  omega

theorem decode_bfi {word : Nat} (t : Bool) (d a b : BitVec 7) (bs : BitVec 2) (hw : word = 469762049 + bitOf t * 16777216 + d.toNat * 131072 + a.toNat * 1024 + b.toNat * 8 + bs.toNat * 2) :
    decode (BitVec.ofNat 32 word) = .ok (.bfi t d a b bs) := by
  have ht := bitOf_lt t
  rw [decode_lane (by omega)]
  simp only [decodeLane, show word / 2 ^ 25 = 14 by omega]
  rw [if_neg (by simp only [fld]; omega), if_pos (by simp only [fld]; omega)]
  simp only [Except.ok.injEq, Instr.bfi.injEq, bits_iff, flag_iff]
  omega

theorem decode_iun {word : Nat} (t : Bool) (d a f : BitVec 7) (m : Bool) (hw : word = 503316480 + bitOf t * 16777216 + d.toNat * 131072 + a.toNat * 1024 + f.toNat * 8 + bitOf m) :
    decode (BitVec.ofNat 32 word) = .ok (.iun t d a f m) := by
  have ht := bitOf_lt t
  have hm := bitOf_lt m
  rw [decode_lane (by omega)]
  simp only [decodeLane, show word / 2 ^ 25 = 15 by omega]
  rw [if_pos (by simp only [fld]; omega)]
  simp only [Except.ok.injEq, Instr.iun.injEq, bits_iff, flag_iff]
  omega

theorem decode_addi {word : Nat} (t : Bool) (d a : BitVec 7) (imm : BitVec 10) (hw : word = 536870912 + bitOf t * 16777216 + d.toNat * 131072 + a.toNat * 1024 + imm.toNat) :
    decode (BitVec.ofNat 32 word) = .ok (.addi t d a imm) := by
  have ht := bitOf_lt t
  rw [decode_lane (by omega)]
  simp only [decodeLane, show word / 2 ^ 25 = 16 by omega]
  simp only [Except.ok.injEq, Instr.addi.injEq, bits_iff, flag_iff]
  omega

theorem decode_andi {word : Nat} (t : Bool) (d a : BitVec 7) (imm : BitVec 10) (hw : word = 570425344 + bitOf t * 16777216 + d.toNat * 131072 + a.toNat * 1024 + imm.toNat) :
    decode (BitVec.ofNat 32 word) = .ok (.andi t d a imm) := by
  have ht := bitOf_lt t
  rw [decode_lane (by omega)]
  simp only [decodeLane, show word / 2 ^ 25 = 17 by omega]
  simp only [Except.ok.injEq, Instr.andi.injEq, bits_iff, flag_iff]
  omega

theorem decode_ori {word : Nat} (t : Bool) (d a : BitVec 7) (imm : BitVec 10) (hw : word = 603979776 + bitOf t * 16777216 + d.toNat * 131072 + a.toNat * 1024 + imm.toNat) :
    decode (BitVec.ofNat 32 word) = .ok (.ori t d a imm) := by
  have ht := bitOf_lt t
  rw [decode_lane (by omega)]
  simp only [decodeLane, show word / 2 ^ 25 = 18 by omega]
  simp only [Except.ok.injEq, Instr.ori.injEq, bits_iff, flag_iff]
  omega

theorem decode_xori {word : Nat} (t : Bool) (d a : BitVec 7) (imm : BitVec 10) (hw : word = 637534208 + bitOf t * 16777216 + d.toNat * 131072 + a.toNat * 1024 + imm.toNat) :
    decode (BitVec.ofNat 32 word) = .ok (.xori t d a imm) := by
  have ht := bitOf_lt t
  rw [decode_lane (by omega)]
  simp only [decodeLane, show word / 2 ^ 25 = 19 by omega]
  simp only [Except.ok.injEq, Instr.xori.injEq, bits_iff, flag_iff]
  omega

theorem decode_shli {word : Nat} (t : Bool) (d a : BitVec 7) (imm : BitVec 5) (hw : word = 671088640 + bitOf t * 16777216 + d.toNat * 131072 + a.toNat * 1024 + imm.toNat) :
    decode (BitVec.ofNat 32 word) = .ok (.shli t d a imm) := by
  have ht := bitOf_lt t
  rw [decode_lane (by omega)]
  simp only [decodeLane, show word / 2 ^ 25 = 20 by omega]
  rw [if_pos (by simp only [fld]; omega)]
  simp only [Except.ok.injEq, Instr.shli.injEq, bits_iff, flag_iff]
  omega

theorem decode_shri {word : Nat} (t : Bool) (d a : BitVec 7) (x : Bool) (imm : BitVec 5) (hw : word = 704643072 + bitOf t * 16777216 + d.toNat * 131072 + a.toNat * 1024 + bitOf x * 512 + imm.toNat) :
    decode (BitVec.ofNat 32 word) = .ok (.shri t d a x imm) := by
  have ht := bitOf_lt t
  have hx := bitOf_lt x
  rw [decode_lane (by omega)]
  simp only [decodeLane, show word / 2 ^ 25 = 21 by omega]
  rw [if_pos (by simp only [fld]; omega)]
  simp only [Except.ok.injEq, Instr.shri.injEq, bits_iff, flag_iff]
  omega

theorem decode_movi {word : Nat} (t : Bool) (d : BitVec 7) (imm : BitVec 17) (hw : word = 738197504 + bitOf t * 16777216 + d.toNat * 131072 + imm.toNat) :
    decode (BitVec.ofNat 32 word) = .ok (.movi t d imm) := by
  have ht := bitOf_lt t
  rw [decode_lane (by omega)]
  simp only [decodeLane, show word / 2 ^ 25 = 22 by omega]
  simp only [Except.ok.injEq, Instr.movi.injEq, bits_iff, flag_iff]
  omega

theorem decode_icmpi {word : Nat} (t : Bool) (c : BitVec 4) (p : BitVec 3) (a : BitVec 7) (imm : BitVec 10) (hw : word = 771751936 + bitOf t * 16777216 + c.toNat * 1048576 + p.toNat * 131072 + a.toNat * 1024 + imm.toNat) :
    decode (BitVec.ofNat 32 word) = .ok (.icmpi t c p a imm) := by
  have ht := bitOf_lt t
  rw [decode_lane (by omega)]
  simp only [decodeLane, show word / 2 ^ 25 = 23 by omega]
  simp only [Except.ok.injEq, Instr.icmpi.injEq, bits_iff, flag_iff]
  omega

theorem decode_fadd {word : Nat} (t : Bool) (d a b : BitVec 7) (bs : BitVec 2) (hw : word = 805306368 + bitOf t * 16777216 + d.toNat * 131072 + a.toNat * 1024 + b.toNat * 8 + bs.toNat * 2) :
    decode (BitVec.ofNat 32 word) = .ok (.fadd t d a b bs) := by
  have ht := bitOf_lt t
  rw [decode_lane (by omega)]
  simp only [decodeLane, show word / 2 ^ 25 = 24 by omega]
  rw [if_pos (by simp only [fld]; omega)]
  simp only [Except.ok.injEq, Instr.fadd.injEq, bits_iff, flag_iff]
  omega

theorem decode_fsub {word : Nat} (t : Bool) (d a b : BitVec 7) (bs : BitVec 2) (hw : word = 838860800 + bitOf t * 16777216 + d.toNat * 131072 + a.toNat * 1024 + b.toNat * 8 + bs.toNat * 2) :
    decode (BitVec.ofNat 32 word) = .ok (.fsub t d a b bs) := by
  have ht := bitOf_lt t
  rw [decode_lane (by omega)]
  simp only [decodeLane, show word / 2 ^ 25 = 25 by omega]
  rw [if_pos (by simp only [fld]; omega)]
  simp only [Except.ok.injEq, Instr.fsub.injEq, bits_iff, flag_iff]
  omega

theorem decode_fmul {word : Nat} (t : Bool) (d a b : BitVec 7) (bs : BitVec 2) (hw : word = 872415232 + bitOf t * 16777216 + d.toNat * 131072 + a.toNat * 1024 + b.toNat * 8 + bs.toNat * 2) :
    decode (BitVec.ofNat 32 word) = .ok (.fmul t d a b bs) := by
  have ht := bitOf_lt t
  rw [decode_lane (by omega)]
  simp only [decodeLane, show word / 2 ^ 25 = 26 by omega]
  rw [if_pos (by simp only [fld]; omega)]
  simp only [Except.ok.injEq, Instr.fmul.injEq, bits_iff, flag_iff]
  omega

theorem decode_ffma {word : Nat} (t : Bool) (d a b : BitVec 7) (bs : BitVec 2) (hw : word = 905969664 + bitOf t * 16777216 + d.toNat * 131072 + a.toNat * 1024 + b.toNat * 8 + bs.toNat * 2) :
    decode (BitVec.ofNat 32 word) = .ok (.ffma t d a b bs) := by
  have ht := bitOf_lt t
  rw [decode_lane (by omega)]
  simp only [decodeLane, show word / 2 ^ 25 = 27 by omega]
  rw [if_pos (by simp only [fld]; omega)]
  simp only [Except.ok.injEq, Instr.ffma.injEq, bits_iff, flag_iff]
  omega

theorem decode_fmin {word : Nat} (t : Bool) (d a b : BitVec 7) (bs : BitVec 2) (hw : word = 939524096 + bitOf t * 16777216 + d.toNat * 131072 + a.toNat * 1024 + b.toNat * 8 + bs.toNat * 2) :
    decode (BitVec.ofNat 32 word) = .ok (.fmin t d a b bs) := by
  have ht := bitOf_lt t
  rw [decode_lane (by omega)]
  simp only [decodeLane, show word / 2 ^ 25 = 28 by omega]
  rw [if_pos (by simp only [fld]; omega)]
  simp only [Except.ok.injEq, Instr.fmin.injEq, bits_iff, flag_iff]
  omega

theorem decode_fmax {word : Nat} (t : Bool) (d a b : BitVec 7) (bs : BitVec 2) (hw : word = 973078528 + bitOf t * 16777216 + d.toNat * 131072 + a.toNat * 1024 + b.toNat * 8 + bs.toNat * 2) :
    decode (BitVec.ofNat 32 word) = .ok (.fmax t d a b bs) := by
  have ht := bitOf_lt t
  rw [decode_lane (by omega)]
  simp only [decodeLane, show word / 2 ^ 25 = 29 by omega]
  rw [if_pos (by simp only [fld]; omega)]
  simp only [Except.ok.injEq, Instr.fmax.injEq, bits_iff, flag_iff]
  omega

theorem decode_fcmp {word : Nat} (t : Bool) (c : BitVec 4) (p : BitVec 3) (a b : BitVec 7) (bs : BitVec 2) (hw : word = 1006632960 + bitOf t * 16777216 + c.toNat * 1048576 + p.toNat * 131072 + a.toNat * 1024 + b.toNat * 8 + bs.toNat * 2) :
    decode (BitVec.ofNat 32 word) = .ok (.fcmp t c p a b bs) := by
  have ht := bitOf_lt t
  rw [decode_lane (by omega)]
  simp only [decodeLane, show word / 2 ^ 25 = 30 by omega]
  rw [if_pos (by simp only [fld]; omega)]
  simp only [Except.ok.injEq, Instr.fcmp.injEq, bits_iff, flag_iff]
  omega

theorem decode_sfu {word : Nat} (t : Bool) (d a f : BitVec 7) (hw : word = 1040187392 + bitOf t * 16777216 + d.toNat * 131072 + a.toNat * 1024 + f.toNat * 8) :
    decode (BitVec.ofNat 32 word) = .ok (.sfu t d a f) := by
  have ht := bitOf_lt t
  rw [decode_lane (by omega)]
  simp only [decodeLane, show word / 2 ^ 25 = 31 by omega]
  rw [if_pos (by simp only [fld]; omega)]
  simp only [Except.ok.injEq, Instr.sfu.injEq, bits_iff, flag_iff]
  omega

theorem decode_cvt {word : Nat} (t : Bool) (d a : BitVec 7) (k : BitVec 4) (r : BitVec 3) (m : Bool) (hw : word = 1073741824 + bitOf t * 16777216 + d.toNat * 131072 + a.toNat * 1024 + k.toNat * 64 + r.toNat * 8 + bitOf m) :
    decode (BitVec.ofNat 32 word) = .ok (.cvt t d a k r m) := by
  have ht := bitOf_lt t
  have hm := bitOf_lt m
  rw [decode_lane (by omega)]
  simp only [decodeLane, show word / 2 ^ 25 = 32 by omega]
  rw [if_pos (by simp only [fld]; omega)]
  simp only [Except.ok.injEq, Instr.cvt.injEq, bits_iff, flag_iff]
  omega

theorem decode_hadd2 {word : Nat} (t : Bool) (d a b : BitVec 7) (bs : BitVec 2) (m : Bool) (hw : word = 1107296256 + bitOf t * 16777216 + d.toNat * 131072 + a.toNat * 1024 + b.toNat * 8 + bs.toNat * 2 + bitOf m) :
    decode (BitVec.ofNat 32 word) = .ok (.hadd2 t d a b bs m) := by
  have ht := bitOf_lt t
  have hm := bitOf_lt m
  rw [decode_lane (by omega)]
  simp only [decodeLane, show word / 2 ^ 25 = 33 by omega]
  simp only [Except.ok.injEq, Instr.hadd2.injEq, bits_iff, flag_iff]
  omega

theorem decode_hmul2 {word : Nat} (t : Bool) (d a b : BitVec 7) (bs : BitVec 2) (m : Bool) (hw : word = 1140850688 + bitOf t * 16777216 + d.toNat * 131072 + a.toNat * 1024 + b.toNat * 8 + bs.toNat * 2 + bitOf m) :
    decode (BitVec.ofNat 32 word) = .ok (.hmul2 t d a b bs m) := by
  have ht := bitOf_lt t
  have hm := bitOf_lt m
  rw [decode_lane (by omega)]
  simp only [decodeLane, show word / 2 ^ 25 = 34 by omega]
  simp only [Except.ok.injEq, Instr.hmul2.injEq, bits_iff, flag_iff]
  omega

theorem decode_hfma2 {word : Nat} (t : Bool) (d a b : BitVec 7) (bs : BitVec 2) (m : Bool) (hw : word = 1174405120 + bitOf t * 16777216 + d.toNat * 131072 + a.toNat * 1024 + b.toNat * 8 + bs.toNat * 2 + bitOf m) :
    decode (BitVec.ofNat 32 word) = .ok (.hfma2 t d a b bs m) := by
  have ht := bitOf_lt t
  have hm := bitOf_lt m
  rw [decode_lane (by omega)]
  simp only [decodeLane, show word / 2 ^ 25 = 35 by omega]
  simp only [Except.ok.injEq, Instr.hfma2.injEq, bits_iff, flag_iff]
  omega

theorem decode_shflPick {word : Nat} (t : Bool) (d a b : BitVec 7) (bs : BitVec 2) (hw : word = 1207959552 + bitOf t * 16777216 + d.toNat * 131072 + a.toNat * 1024 + b.toNat * 8 + bs.toNat * 2) :
    decode (BitVec.ofNat 32 word) = .ok (.shflPick t d a b bs) := by
  have ht := bitOf_lt t
  rw [decode_lane (by omega)]
  simp only [decodeLane, show word / 2 ^ 25 = 36 by omega]
  rw [if_pos (by simp only [fld]; omega)]
  simp only [Except.ok.injEq, Instr.shflPick.injEq, bits_iff, flag_iff]
  omega

theorem decode_shflSwap {word : Nat} (t : Bool) (d a b : BitVec 7) (bs : BitVec 2) (hw : word = 1207959553 + bitOf t * 16777216 + d.toNat * 131072 + a.toNat * 1024 + b.toNat * 8 + bs.toNat * 2) :
    decode (BitVec.ofNat 32 word) = .ok (.shflSwap t d a b bs) := by
  have ht := bitOf_lt t
  rw [decode_lane (by omega)]
  simp only [decodeLane, show word / 2 ^ 25 = 36 by omega]
  rw [if_neg (by simp only [fld]; omega), if_pos (by simp only [fld]; omega)]
  simp only [Except.ok.injEq, Instr.shflSwap.injEq, bits_iff, flag_iff]
  omega

theorem decode_shflBack {word : Nat} (t : Bool) (d a b : BitVec 7) (bs : BitVec 2) (hw : word = 1241513984 + bitOf t * 16777216 + d.toNat * 131072 + a.toNat * 1024 + b.toNat * 8 + bs.toNat * 2) :
    decode (BitVec.ofNat 32 word) = .ok (.shflBack t d a b bs) := by
  have ht := bitOf_lt t
  rw [decode_lane (by omega)]
  simp only [decodeLane, show word / 2 ^ 25 = 37 by omega]
  rw [if_pos (by simp only [fld]; omega)]
  simp only [Except.ok.injEq, Instr.shflBack.injEq, bits_iff, flag_iff]
  omega

theorem decode_shflFwd {word : Nat} (t : Bool) (d a b : BitVec 7) (bs : BitVec 2) (hw : word = 1241513985 + bitOf t * 16777216 + d.toNat * 131072 + a.toNat * 1024 + b.toNat * 8 + bs.toNat * 2) :
    decode (BitVec.ofNat 32 word) = .ok (.shflFwd t d a b bs) := by
  have ht := bitOf_lt t
  rw [decode_lane (by omega)]
  simp only [decodeLane, show word / 2 ^ 25 = 37 by omega]
  rw [if_neg (by simp only [fld]; omega), if_pos (by simp only [fld]; omega)]
  simp only [Except.ok.injEq, Instr.shflFwd.injEq, bits_iff, flag_iff]
  omega

theorem decode_vote {word : Nat} (t : Bool) (d : BitVec 6) (a f : BitVec 7) (m : Bool) (hw : word = 1275068416 + bitOf t * 16777216 + d.toNat * 131072 + a.toNat * 1024 + f.toNat * 8 + bitOf m) :
    decode (BitVec.ofNat 32 word) = .ok (.vote t d a f m) := by
  have ht := bitOf_lt t
  have hm := bitOf_lt m
  rw [decode_lane (by omega)]
  simp only [decodeLane, show word / 2 ^ 25 = 38 by omega]
  rw [if_pos (by simp only [fld]; omega)]
  simp only [Except.ok.injEq, Instr.vote.injEq, bits_iff, flag_iff]
  omega

theorem decode_redux {word : Nat} (t : Bool) (d : BitVec 6) (a f : BitVec 7) (hw : word = 1308622848 + bitOf t * 16777216 + d.toNat * 131072 + a.toNat * 1024 + f.toNat * 8) :
    decode (BitVec.ofNat 32 word) = .ok (.redux t d a f) := by
  have ht := bitOf_lt t
  rw [decode_lane (by omega)]
  simp only [decodeLane, show word / 2 ^ 25 = 39 by omega]
  rw [if_pos (by simp only [fld]; omega)]
  simp only [Except.ok.injEq, Instr.redux.injEq, bits_iff, flag_iff]
  omega

theorem decode_contribution {word : Nat} (t : Bool) (j : BitVec 6) (a f : BitVec 7) (hw : word = 1317011456 + bitOf t * 16777216 + j.toNat * 131072 + a.toNat * 1024 + f.toNat * 8) :
    decode (BitVec.ofNat 32 word) = .ok (.contribution t j a f) := by
  have ht := bitOf_lt t
  rw [decode_lane (by omega)]
  simp only [decodeLane, show word / 2 ^ 25 = 39 by omega]
  rw [if_neg (by simp only [fld]; omega), if_pos (by simp only [fld]; omega)]
  simp only [Except.ok.injEq, Instr.contribution.injEq, bits_iff, flag_iff]
  omega

theorem decode_scan {word : Nat} (t : Bool) (d a f : BitVec 7) (m : Bool) (hw : word = 1342177280 + bitOf t * 16777216 + d.toNat * 131072 + a.toNat * 1024 + f.toNat * 8 + bitOf m) :
    decode (BitVec.ofNat 32 word) = .ok (.scan t d a f m) := by
  have ht := bitOf_lt t
  have hm := bitOf_lt m
  rw [decode_lane (by omega)]
  simp only [decodeLane, show word / 2 ^ 25 = 40 by omega]
  rw [if_pos (by simp only [fld]; omega)]
  simp only [Except.ok.injEq, Instr.scan.injEq, bits_iff, flag_iff]
  omega

theorem decode_cmpx {word : Nat} (t : Bool) (d a : BitVec 7) (k j : BitVec 3) (m : Bool) (hw : word = 1375731718 + bitOf t * 16777216 + d.toNat * 131072 + a.toNat * 1024 + k.toNat * 64 + j.toNat * 8 + bitOf m) :
    decode (BitVec.ofNat 32 word) = .ok (.cmpx t d a k j m) := by
  have ht := bitOf_lt t
  have hm := bitOf_lt m
  rw [decode_lane (by omega)]
  simp only [decodeLane, show word / 2 ^ 25 = 41 by omega]
  rw [if_pos (by simp only [fld]; omega)]
  simp only [Except.ok.injEq, Instr.cmpx.injEq, bits_iff, flag_iff]
  omega

theorem decode_jpt {word : Nat} (o : BitVec 21) (hw : word = 1438646272 + o.toNat) :
    decode (BitVec.ofNat 32 word) = .ok (.jpt o) := by
  rw [decode_lane (by omega)]
  simp only [decodeLane, show word / 2 ^ 25 = 42 by omega]
  rw [if_pos (by simp only [fld]; omega)]
  simp only [Except.ok.injEq, Instr.jpt.injEq, bits_iff]
  omega

theorem decode_brd {word : Nat} (p : BitVec 3) (n : Bool) (o : BitVec 21) (hw : word = 1442840576 + p.toNat * 4194304 + bitOf n * 2097152 + o.toNat) :
    decode (BitVec.ofNat 32 word) = .ok (.brd p n o) := by
  have hn := bitOf_lt n
  rw [decode_lane (by omega)]
  simp only [decodeLane, show word / 2 ^ 25 = 43 by omega]
  simp only [Except.ok.injEq, Instr.brd.injEq, bits_iff, flag_iff]
  omega

theorem decode_regang {word : Nat} (t : Bool) (imm : BitVec 10) (hw : word = 1476395008 + bitOf t * 16777216 + imm.toNat) :
    decode (BitVec.ofNat 32 word) = .ok (.regang t imm) := by
  have ht := bitOf_lt t
  rw [decode_lane (by omega)]
  simp only [decodeLane, show word / 2 ^ 25 = 44 by omega]
  rw [if_pos (by simp only [fld]; omega)]
  simp only [Except.ok.injEq, Instr.regang.injEq, bits_iff, flag_iff]
  omega

theorem decode_exit {word : Nat} (p : BitVec 3) (n : Bool) (hw : word = 1509949440 + p.toNat * 4194304 + bitOf n * 2097152) :
    decode (BitVec.ofNat 32 word) = .ok (.exit p n) := by
  have hn := bitOf_lt n
  rw [decode_lane (by omega)]
  simp only [decodeLane, show word / 2 ^ 25 = 45 by omega]
  rw [if_pos (by simp only [fld]; omega)]
  simp only [Except.ok.injEq, Instr.exit.injEq, bits_iff, flag_iff]
  omega

theorem decode_bar {word : Nat} (t : Bool) (y k : BitVec 2) (n : BitVec 4) (hw : word = 1543503872 + bitOf t * 16777216 + y.toNat * 64 + k.toNat * 16 + n.toNat) :
    decode (BitVec.ofNat 32 word) = .ok (.bar t y k n) := by
  have ht := bitOf_lt t
  rw [decode_lane (by omega)]
  simp only [decodeLane, show word / 2 ^ 25 = 46 by omega]
  rw [if_pos (by simp only [fld]; omega)]
  simp only [Except.ok.injEq, Instr.bar.injEq, bits_iff, flag_iff]
  omega

theorem decode_ld {word : Nat} (t : Bool) (d a : BitVec 7) (w : BitVec 6) (z o : BitVec 2) (hw : word = 1577058304 + bitOf t * 16777216 + d.toNat * 131072 + a.toNat * 1024 + w.toNat * 16 + z.toNat * 4 + o.toNat) :
    decode (BitVec.ofNat 32 word) = .ok (.ld t d a w z o) := by
  have ht := bitOf_lt t
  rw [decode_lane (by omega)]
  simp only [decodeLane, show word / 2 ^ 25 = 47 by omega]
  simp only [Except.ok.injEq, Instr.ld.injEq, bits_iff, flag_iff]
  omega

theorem decode_st {word : Nat} (t : Bool) (d a : BitVec 7) (w : BitVec 6) (z o : BitVec 2) (hw : word = 1610612736 + bitOf t * 16777216 + d.toNat * 131072 + a.toNat * 1024 + w.toNat * 16 + z.toNat * 4 + o.toNat) :
    decode (BitVec.ofNat 32 word) = .ok (.st t d a w z o) := by
  have ht := bitOf_lt t
  rw [decode_lane (by omega)]
  simp only [decodeLane, show word / 2 ^ 25 = 48 by omega]
  simp only [Except.ok.injEq, Instr.st.injEq, bits_iff, flag_iff]
  omega

theorem decode_lds {word : Nat} (t : Bool) (d a : BitVec 7) (w : BitVec 6) (z : BitVec 2) (hw : word = 1644167168 + bitOf t * 16777216 + d.toNat * 131072 + a.toNat * 1024 + w.toNat * 16 + z.toNat * 4) :
    decode (BitVec.ofNat 32 word) = .ok (.lds t d a w z) := by
  have ht := bitOf_lt t
  rw [decode_lane (by omega)]
  simp only [decodeLane, show word / 2 ^ 25 = 49 by omega]
  rw [if_pos (by simp only [fld]; omega)]
  simp only [Except.ok.injEq, Instr.lds.injEq, bits_iff, flag_iff]
  omega

theorem decode_sts {word : Nat} (t : Bool) (d a : BitVec 7) (w : BitVec 6) (z : BitVec 2) (hw : word = 1677721600 + bitOf t * 16777216 + d.toNat * 131072 + a.toNat * 1024 + w.toNat * 16 + z.toNat * 4) :
    decode (BitVec.ofNat 32 word) = .ok (.sts t d a w z) := by
  have ht := bitOf_lt t
  rw [decode_lane (by omega)]
  simp only [decodeLane, show word / 2 ^ 25 = 50 by omega]
  rw [if_pos (by simp only [fld]; omega)]
  simp only [Except.ok.injEq, Instr.sts.injEq, bits_iff, flag_iff]
  omega

theorem decode_ldp {word : Nat} (t : Bool) (d a : BitVec 7) (w : BitVec 6) (z : BitVec 2) (hw : word = 1711276032 + bitOf t * 16777216 + d.toNat * 131072 + a.toNat * 1024 + w.toNat * 16 + z.toNat * 4) :
    decode (BitVec.ofNat 32 word) = .ok (.ldp t d a w z) := by
  have ht := bitOf_lt t
  rw [decode_lane (by omega)]
  simp only [decodeLane, show word / 2 ^ 25 = 51 by omega]
  rw [if_pos (by simp only [fld]; omega)]
  simp only [Except.ok.injEq, Instr.ldp.injEq, bits_iff, flag_iff]
  omega

theorem decode_stp {word : Nat} (t : Bool) (d a : BitVec 7) (w : BitVec 6) (z : BitVec 2) (hw : word = 1744830464 + bitOf t * 16777216 + d.toNat * 131072 + a.toNat * 1024 + w.toNat * 16 + z.toNat * 4) :
    decode (BitVec.ofNat 32 word) = .ok (.stp t d a w z) := by
  have ht := bitOf_lt t
  rw [decode_lane (by omega)]
  simp only [decodeLane, show word / 2 ^ 25 = 52 by omega]
  rw [if_pos (by simp only [fld]; omega)]
  simp only [Except.ok.injEq, Instr.stp.injEq, bits_iff, flag_iff]
  omega

theorem decode_atom {word : Nat} (t : Bool) (d a : BitVec 7) (w : BitVec 6) (c : BitVec 4) (hw : word = 1778384896 + bitOf t * 16777216 + d.toNat * 131072 + a.toNat * 1024 + w.toNat * 16 + c.toNat) :
    decode (BitVec.ofNat 32 word) = .ok (.atom t d a w c) := by
  have ht := bitOf_lt t
  rw [decode_lane (by omega)]
  simp only [decodeLane, show word / 2 ^ 25 = 53 by omega]
  simp only [Except.ok.injEq, Instr.atom.injEq, bits_iff, flag_iff]
  omega

theorem decode_red {word : Nat} (t : Bool) (d a : BitVec 7) (w : BitVec 6) (c : BitVec 4) (hw : word = 1811939328 + bitOf t * 16777216 + d.toNat * 131072 + a.toNat * 1024 + w.toNat * 16 + c.toNat) :
    decode (BitVec.ofNat 32 word) = .ok (.red t d a w c) := by
  have ht := bitOf_lt t
  rw [decode_lane (by omega)]
  simp only [decodeLane, show word / 2 ^ 25 = 54 by omega]
  simp only [Except.ok.injEq, Instr.red.injEq, bits_iff, flag_iff]
  omega

theorem decode_xst {word : Nat} (t : Bool) (d a : BitVec 7) (w : BitVec 6) (z : BitVec 2) (hw : word = 1845493760 + bitOf t * 16777216 + d.toNat * 131072 + a.toNat * 1024 + w.toNat * 16 + z.toNat * 4) :
    decode (BitVec.ofNat 32 word) = .ok (.xst t d a w z) := by
  have ht := bitOf_lt t
  rw [decode_lane (by omega)]
  simp only [decodeLane, show word / 2 ^ 25 = 55 by omega]
  rw [if_pos (by simp only [fld]; omega)]
  simp only [Except.ok.injEq, Instr.xst.injEq, bits_iff, flag_iff]
  omega

theorem decode_svc {word : Nat} (t : Bool) (imm : BitVec 10) (hw : word = 1879048192 + bitOf t * 16777216 + imm.toNat) :
    decode (BitVec.ofNat 32 word) = .ok (.svc t imm) := by
  have ht := bitOf_lt t
  rw [decode_lane (by omega)]
  simp only [decodeLane, show word / 2 ^ 25 = 56 by omega]
  rw [if_pos (by simp only [fld]; omega)]
  simp only [Except.ok.injEq, Instr.svc.injEq, bits_iff, flag_iff]
  omega

theorem decode_uadd {word : Nat} (t : Bool) (d a b : BitVec 6) (bs : BitVec 2) (w : Bool) (f : BitVec 3) (hw : word = 2147483648 + bitOf t * 16777216 + d.toNat * 262144 + a.toNat * 4096 + b.toNat * 64 + bs.toNat * 16 + bitOf w * 8 + f.toNat) :
    decode (BitVec.ofNat 32 word) = .ok (.uadd t d a b bs w f) := by
  have ht := bitOf_lt t
  have hw := bitOf_lt w
  rw [decode_uniform (by omega) (by omega)]
  simp only [decodeUniform, show word / 2 ^ 25 = 64 by omega]
  simp only [Except.ok.injEq, Instr.uadd.injEq, bits_iff, flag_iff]
  omega

theorem decode_usub {word : Nat} (t : Bool) (d a b : BitVec 6) (bs : BitVec 2) (w : Bool) (f : BitVec 3) (hw : word = 2181038080 + bitOf t * 16777216 + d.toNat * 262144 + a.toNat * 4096 + b.toNat * 64 + bs.toNat * 16 + bitOf w * 8 + f.toNat) :
    decode (BitVec.ofNat 32 word) = .ok (.usub t d a b bs w f) := by
  have ht := bitOf_lt t
  have hw := bitOf_lt w
  rw [decode_uniform (by omega) (by omega)]
  simp only [decodeUniform, show word / 2 ^ 25 = 65 by omega]
  simp only [Except.ok.injEq, Instr.usub.injEq, bits_iff, flag_iff]
  omega

theorem decode_umul {word : Nat} (t : Bool) (d a b : BitVec 6) (bs : BitVec 2) (w : Bool) (hw : word = 2214592512 + bitOf t * 16777216 + d.toNat * 262144 + a.toNat * 4096 + b.toNat * 64 + bs.toNat * 16 + bitOf w * 8) :
    decode (BitVec.ofNat 32 word) = .ok (.umul t d a b bs w) := by
  have ht := bitOf_lt t
  have hw := bitOf_lt w
  rw [decode_uniform (by omega) (by omega)]
  simp only [decodeUniform, show word / 2 ^ 25 = 66 by omega]
  rw [if_pos (by simp only [fld]; omega)]
  simp only [Except.ok.injEq, Instr.umul.injEq, bits_iff, flag_iff]
  omega

theorem decode_umulh {word : Nat} (t : Bool) (d a b : BitVec 6) (bs : BitVec 2) (w u : Bool) (hw : word = 2248146944 + bitOf t * 16777216 + d.toNat * 262144 + a.toNat * 4096 + b.toNat * 64 + bs.toNat * 16 + bitOf w * 8 + bitOf u) :
    decode (BitVec.ofNat 32 word) = .ok (.umulh t d a b bs w u) := by
  have ht := bitOf_lt t
  have hw := bitOf_lt w
  have hu := bitOf_lt u
  rw [decode_uniform (by omega) (by omega)]
  simp only [decodeUniform, show word / 2 ^ 25 = 67 by omega]
  rw [if_pos (by simp only [fld]; omega)]
  simp only [Except.ok.injEq, Instr.umulh.injEq, bits_iff, flag_iff]
  omega

theorem decode_udiv {word : Nat} (t : Bool) (d a b : BitVec 6) (bs : BitVec 2) (w u : Bool) (hw : word = 2281701376 + bitOf t * 16777216 + d.toNat * 262144 + a.toNat * 4096 + b.toNat * 64 + bs.toNat * 16 + bitOf w * 8 + bitOf u) :
    decode (BitVec.ofNat 32 word) = .ok (.udiv t d a b bs w u) := by
  have ht := bitOf_lt t
  have hw := bitOf_lt w
  have hu := bitOf_lt u
  rw [decode_uniform (by omega) (by omega)]
  simp only [decodeUniform, show word / 2 ^ 25 = 68 by omega]
  rw [if_pos (by simp only [fld]; omega)]
  simp only [Except.ok.injEq, Instr.udiv.injEq, bits_iff, flag_iff]
  omega

theorem decode_urem {word : Nat} (t : Bool) (d a b : BitVec 6) (bs : BitVec 2) (w u : Bool) (hw : word = 2315255808 + bitOf t * 16777216 + d.toNat * 262144 + a.toNat * 4096 + b.toNat * 64 + bs.toNat * 16 + bitOf w * 8 + bitOf u) :
    decode (BitVec.ofNat 32 word) = .ok (.urem t d a b bs w u) := by
  have ht := bitOf_lt t
  have hw := bitOf_lt w
  have hu := bitOf_lt u
  rw [decode_uniform (by omega) (by omega)]
  simp only [decodeUniform, show word / 2 ^ 25 = 69 by omega]
  rw [if_pos (by simp only [fld]; omega)]
  simp only [Except.ok.injEq, Instr.urem.injEq, bits_iff, flag_iff]
  omega

theorem decode_uand {word : Nat} (t : Bool) (d a b : BitVec 6) (bs : BitVec 2) (hw : word = 2348810240 + bitOf t * 16777216 + d.toNat * 262144 + a.toNat * 4096 + b.toNat * 64 + bs.toNat * 16) :
    decode (BitVec.ofNat 32 word) = .ok (.uand t d a b bs) := by
  have ht := bitOf_lt t
  rw [decode_uniform (by omega) (by omega)]
  simp only [decodeUniform, show word / 2 ^ 25 = 70 by omega]
  rw [if_pos (by simp only [fld]; omega)]
  simp only [Except.ok.injEq, Instr.uand.injEq, bits_iff, flag_iff]
  omega

theorem decode_uor {word : Nat} (t : Bool) (d a b : BitVec 6) (bs : BitVec 2) (hw : word = 2382364672 + bitOf t * 16777216 + d.toNat * 262144 + a.toNat * 4096 + b.toNat * 64 + bs.toNat * 16) :
    decode (BitVec.ofNat 32 word) = .ok (.uor t d a b bs) := by
  have ht := bitOf_lt t
  rw [decode_uniform (by omega) (by omega)]
  simp only [decodeUniform, show word / 2 ^ 25 = 71 by omega]
  rw [if_pos (by simp only [fld]; omega)]
  simp only [Except.ok.injEq, Instr.uor.injEq, bits_iff, flag_iff]
  omega

theorem decode_uxor {word : Nat} (t : Bool) (d a b : BitVec 6) (bs : BitVec 2) (hw : word = 2415919104 + bitOf t * 16777216 + d.toNat * 262144 + a.toNat * 4096 + b.toNat * 64 + bs.toNat * 16) :
    decode (BitVec.ofNat 32 word) = .ok (.uxor t d a b bs) := by
  have ht := bitOf_lt t
  rw [decode_uniform (by omega) (by omega)]
  simp only [decodeUniform, show word / 2 ^ 25 = 72 by omega]
  rw [if_pos (by simp only [fld]; omega)]
  simp only [Except.ok.injEq, Instr.uxor.injEq, bits_iff, flag_iff]
  omega

theorem decode_ushl {word : Nat} (t : Bool) (d a b : BitVec 6) (bs : BitVec 2) (w : Bool) (hw : word = 2449473536 + bitOf t * 16777216 + d.toNat * 262144 + a.toNat * 4096 + b.toNat * 64 + bs.toNat * 16 + bitOf w * 8) :
    decode (BitVec.ofNat 32 word) = .ok (.ushl t d a b bs w) := by
  have ht := bitOf_lt t
  have hw := bitOf_lt w
  rw [decode_uniform (by omega) (by omega)]
  simp only [decodeUniform, show word / 2 ^ 25 = 73 by omega]
  rw [if_pos (by simp only [fld]; omega)]
  simp only [Except.ok.injEq, Instr.ushl.injEq, bits_iff, flag_iff]
  omega

theorem decode_ushr {word : Nat} (t : Bool) (d a b : BitVec 6) (bs : BitVec 2) (w u : Bool) (hw : word = 2483027968 + bitOf t * 16777216 + d.toNat * 262144 + a.toNat * 4096 + b.toNat * 64 + bs.toNat * 16 + bitOf w * 8 + bitOf u) :
    decode (BitVec.ofNat 32 word) = .ok (.ushr t d a b bs w u) := by
  have ht := bitOf_lt t
  have hw := bitOf_lt w
  have hu := bitOf_lt u
  rw [decode_uniform (by omega) (by omega)]
  simp only [decodeUniform, show word / 2 ^ 25 = 74 by omega]
  rw [if_pos (by simp only [fld]; omega)]
  simp only [Except.ok.injEq, Instr.ushr.injEq, bits_iff, flag_iff]
  omega

theorem decode_umin {word : Nat} (t : Bool) (d a b : BitVec 6) (bs : BitVec 2) (u : Bool) (hw : word = 2516582400 + bitOf t * 16777216 + d.toNat * 262144 + a.toNat * 4096 + b.toNat * 64 + bs.toNat * 16 + bitOf u) :
    decode (BitVec.ofNat 32 word) = .ok (.umin t d a b bs u) := by
  have ht := bitOf_lt t
  have hu := bitOf_lt u
  rw [decode_uniform (by omega) (by omega)]
  simp only [decodeUniform, show word / 2 ^ 25 = 75 by omega]
  rw [if_pos (by simp only [fld]; omega)]
  simp only [Except.ok.injEq, Instr.umin.injEq, bits_iff, flag_iff]
  omega

theorem decode_umax {word : Nat} (t : Bool) (d a b : BitVec 6) (bs : BitVec 2) (u : Bool) (hw : word = 2550136832 + bitOf t * 16777216 + d.toNat * 262144 + a.toNat * 4096 + b.toNat * 64 + bs.toNat * 16 + bitOf u) :
    decode (BitVec.ofNat 32 word) = .ok (.umax t d a b bs u) := by
  have ht := bitOf_lt t
  have hu := bitOf_lt u
  rw [decode_uniform (by omega) (by omega)]
  simp only [decodeUniform, show word / 2 ^ 25 = 76 by omega]
  rw [if_pos (by simp only [fld]; omega)]
  simp only [Except.ok.injEq, Instr.umax.injEq, bits_iff, flag_iff]
  omega

theorem decode_ucmp {word : Nat} (t : Bool) (k : BitVec 3) (a b : BitVec 6) (bs : BitVec 2) (c : BitVec 4) (hw : word = 2583691264 + bitOf t * 16777216 + k.toNat * 262144 + a.toNat * 4096 + b.toNat * 64 + bs.toNat * 16 + c.toNat) :
    decode (BitVec.ofNat 32 word) = .ok (.ucmp t k a b bs c) := by
  have ht := bitOf_lt t
  rw [decode_uniform (by omega) (by omega)]
  simp only [decodeUniform, show word / 2 ^ 25 = 77 by omega]
  rw [if_pos (by simp only [fld]; omega)]
  simp only [Except.ok.injEq, Instr.ucmp.injEq, bits_iff, flag_iff]
  omega

theorem decode_usel {word : Nat} (t : Bool) (d a b : BitVec 6) (bs : BitVec 2) (k : BitVec 3) (hw : word = 2617245696 + bitOf t * 16777216 + d.toNat * 262144 + a.toNat * 4096 + b.toNat * 64 + bs.toNat * 16 + k.toNat) :
    decode (BitVec.ofNat 32 word) = .ok (.usel t d a b bs k) := by
  have ht := bitOf_lt t
  rw [decode_uniform (by omega) (by omega)]
  simp only [decodeUniform, show word / 2 ^ 25 = 78 by omega]
  rw [if_pos (by simp only [fld]; omega)]
  simp only [Except.ok.injEq, Instr.usel.injEq, bits_iff, flag_iff]
  omega

theorem decode_uun {word : Nat} (t : Bool) (d a f : BitVec 6) (w : Bool) (hw : word = 2650800128 + bitOf t * 16777216 + d.toNat * 262144 + a.toNat * 4096 + f.toNat * 64 + bitOf w * 8) :
    decode (BitVec.ofNat 32 word) = .ok (.uun t d a f w) := by
  have ht := bitOf_lt t
  have hw := bitOf_lt w
  rw [decode_uniform (by omega) (by omega)]
  simp only [decodeUniform, show word / 2 ^ 25 = 79 by omega]
  rw [if_pos (by simp only [fld]; omega)]
  simp only [Except.ok.injEq, Instr.uun.injEq, bits_iff, flag_iff]
  omega

theorem decode_uaddi {word : Nat} (t : Bool) (d a : BitVec 6) (imm : BitVec 12) (hw : word = 2684354560 + bitOf t * 16777216 + d.toNat * 262144 + a.toNat * 4096 + imm.toNat) :
    decode (BitVec.ofNat 32 word) = .ok (.uaddi t d a imm) := by
  have ht := bitOf_lt t
  rw [decode_uniform (by omega) (by omega)]
  simp only [decodeUniform, show word / 2 ^ 25 = 80 by omega]
  simp only [Except.ok.injEq, Instr.uaddi.injEq, bits_iff, flag_iff]
  omega

theorem decode_uandi {word : Nat} (t : Bool) (d a : BitVec 6) (imm : BitVec 12) (hw : word = 2717908992 + bitOf t * 16777216 + d.toNat * 262144 + a.toNat * 4096 + imm.toNat) :
    decode (BitVec.ofNat 32 word) = .ok (.uandi t d a imm) := by
  have ht := bitOf_lt t
  rw [decode_uniform (by omega) (by omega)]
  simp only [decodeUniform, show word / 2 ^ 25 = 81 by omega]
  simp only [Except.ok.injEq, Instr.uandi.injEq, bits_iff, flag_iff]
  omega

theorem decode_uori {word : Nat} (t : Bool) (d a : BitVec 6) (imm : BitVec 12) (hw : word = 2751463424 + bitOf t * 16777216 + d.toNat * 262144 + a.toNat * 4096 + imm.toNat) :
    decode (BitVec.ofNat 32 word) = .ok (.uori t d a imm) := by
  have ht := bitOf_lt t
  rw [decode_uniform (by omega) (by omega)]
  simp only [decodeUniform, show word / 2 ^ 25 = 82 by omega]
  simp only [Except.ok.injEq, Instr.uori.injEq, bits_iff, flag_iff]
  omega

theorem decode_uxori {word : Nat} (t : Bool) (d a : BitVec 6) (imm : BitVec 12) (hw : word = 2785017856 + bitOf t * 16777216 + d.toNat * 262144 + a.toNat * 4096 + imm.toNat) :
    decode (BitVec.ofNat 32 word) = .ok (.uxori t d a imm) := by
  have ht := bitOf_lt t
  rw [decode_uniform (by omega) (by omega)]
  simp only [decodeUniform, show word / 2 ^ 25 = 83 by omega]
  simp only [Except.ok.injEq, Instr.uxori.injEq, bits_iff, flag_iff]
  omega

theorem decode_ushli {word : Nat} (t : Bool) (d a imm : BitVec 6) (hw : word = 2818572288 + bitOf t * 16777216 + d.toNat * 262144 + a.toNat * 4096 + imm.toNat) :
    decode (BitVec.ofNat 32 word) = .ok (.ushli t d a imm) := by
  have ht := bitOf_lt t
  rw [decode_uniform (by omega) (by omega)]
  simp only [decodeUniform, show word / 2 ^ 25 = 84 by omega]
  rw [if_pos (by simp only [fld]; omega)]
  simp only [Except.ok.injEq, Instr.ushli.injEq, bits_iff, flag_iff]
  omega

theorem decode_ushri {word : Nat} (t : Bool) (d a : BitVec 6) (x : Bool) (imm : BitVec 6) (hw : word = 2852126720 + bitOf t * 16777216 + d.toNat * 262144 + a.toNat * 4096 + bitOf x * 64 + imm.toNat) :
    decode (BitVec.ofNat 32 word) = .ok (.ushri t d a x imm) := by
  have ht := bitOf_lt t
  have hx := bitOf_lt x
  rw [decode_uniform (by omega) (by omega)]
  simp only [decodeUniform, show word / 2 ^ 25 = 85 by omega]
  rw [if_pos (by simp only [fld]; omega)]
  simp only [Except.ok.injEq, Instr.ushri.injEq, bits_iff, flag_iff]
  omega

theorem decode_umovi {word : Nat} (t : Bool) (d : BitVec 6) (imm : BitVec 18) (hw : word = 2885681152 + bitOf t * 16777216 + d.toNat * 262144 + imm.toNat) :
    decode (BitVec.ofNat 32 word) = .ok (.umovi t d imm) := by
  have ht := bitOf_lt t
  rw [decode_uniform (by omega) (by omega)]
  simp only [decodeUniform, show word / 2 ^ 25 = 86 by omega]
  simp only [Except.ok.injEq, Instr.umovi.injEq, bits_iff, flag_iff]
  omega

theorem decode_ucmpi {word : Nat} (t : Bool) (k : BitVec 3) (a : BitVec 6) (c : BitVec 4) (imm : BitVec 8) (hw : word = 2919235584 + bitOf t * 16777216 + k.toNat * 262144 + a.toNat * 4096 + c.toNat * 256 + imm.toNat) :
    decode (BitVec.ofNat 32 word) = .ok (.ucmpi t k a c imm) := by
  have ht := bitOf_lt t
  rw [decode_uniform (by omega) (by omega)]
  simp only [decodeUniform, show word / 2 ^ 25 = 87 by omega]
  rw [if_pos (by simp only [fld]; omega)]
  simp only [Except.ok.injEq, Instr.ucmpi.injEq, bits_iff, flag_iff]
  omega

theorem decode_ufadd {word : Nat} (t : Bool) (d a b : BitVec 6) (bs : BitVec 2) (p : Bool) (r : BitVec 3) (hw : word = 2952790016 + bitOf t * 16777216 + d.toNat * 262144 + a.toNat * 4096 + b.toNat * 64 + bs.toNat * 16 + bitOf p * 8 + r.toNat) :
    decode (BitVec.ofNat 32 word) = .ok (.ufadd t d a b bs p r) := by
  have ht := bitOf_lt t
  have hp := bitOf_lt p
  rw [decode_uniform (by omega) (by omega)]
  simp only [decodeUniform, show word / 2 ^ 25 = 88 by omega]
  simp only [Except.ok.injEq, Instr.ufadd.injEq, bits_iff, flag_iff]
  omega

theorem decode_ufsub {word : Nat} (t : Bool) (d a b : BitVec 6) (bs : BitVec 2) (p : Bool) (r : BitVec 3) (hw : word = 2986344448 + bitOf t * 16777216 + d.toNat * 262144 + a.toNat * 4096 + b.toNat * 64 + bs.toNat * 16 + bitOf p * 8 + r.toNat) :
    decode (BitVec.ofNat 32 word) = .ok (.ufsub t d a b bs p r) := by
  have ht := bitOf_lt t
  have hp := bitOf_lt p
  rw [decode_uniform (by omega) (by omega)]
  simp only [decodeUniform, show word / 2 ^ 25 = 89 by omega]
  simp only [Except.ok.injEq, Instr.ufsub.injEq, bits_iff, flag_iff]
  omega

theorem decode_ufmul {word : Nat} (t : Bool) (d a b : BitVec 6) (bs : BitVec 2) (p : Bool) (r : BitVec 3) (hw : word = 3019898880 + bitOf t * 16777216 + d.toNat * 262144 + a.toNat * 4096 + b.toNat * 64 + bs.toNat * 16 + bitOf p * 8 + r.toNat) :
    decode (BitVec.ofNat 32 word) = .ok (.ufmul t d a b bs p r) := by
  have ht := bitOf_lt t
  have hp := bitOf_lt p
  rw [decode_uniform (by omega) (by omega)]
  simp only [decodeUniform, show word / 2 ^ 25 = 90 by omega]
  simp only [Except.ok.injEq, Instr.ufmul.injEq, bits_iff, flag_iff]
  omega

theorem decode_uffma {word : Nat} (t : Bool) (d a b : BitVec 6) (bs : BitVec 2) (p : Bool) (r : BitVec 3) (hw : word = 3053453312 + bitOf t * 16777216 + d.toNat * 262144 + a.toNat * 4096 + b.toNat * 64 + bs.toNat * 16 + bitOf p * 8 + r.toNat) :
    decode (BitVec.ofNat 32 word) = .ok (.uffma t d a b bs p r) := by
  have ht := bitOf_lt t
  have hp := bitOf_lt p
  rw [decode_uniform (by omega) (by omega)]
  simp only [decodeUniform, show word / 2 ^ 25 = 91 by omega]
  simp only [Except.ok.injEq, Instr.uffma.injEq, bits_iff, flag_iff]
  omega

theorem decode_ufdiv {word : Nat} (t : Bool) (d a b : BitVec 6) (bs : BitVec 2) (p : Bool) (r : BitVec 3) (hw : word = 3087007744 + bitOf t * 16777216 + d.toNat * 262144 + a.toNat * 4096 + b.toNat * 64 + bs.toNat * 16 + bitOf p * 8 + r.toNat) :
    decode (BitVec.ofNat 32 word) = .ok (.ufdiv t d a b bs p r) := by
  have ht := bitOf_lt t
  have hp := bitOf_lt p
  rw [decode_uniform (by omega) (by omega)]
  simp only [decodeUniform, show word / 2 ^ 25 = 92 by omega]
  simp only [Except.ok.injEq, Instr.ufdiv.injEq, bits_iff, flag_iff]
  omega

theorem decode_ufun {word : Nat} (t : Bool) (d a f : BitVec 6) (p : Bool) (r : BitVec 3) (hw : word = 3120562176 + bitOf t * 16777216 + d.toNat * 262144 + a.toNat * 4096 + f.toNat * 64 + bitOf p * 8 + r.toNat) :
    decode (BitVec.ofNat 32 word) = .ok (.ufun t d a f p r) := by
  have ht := bitOf_lt t
  have hp := bitOf_lt p
  rw [decode_uniform (by omega) (by omega)]
  simp only [decodeUniform, show word / 2 ^ 25 = 93 by omega]
  rw [if_pos (by simp only [fld]; omega)]
  simp only [Except.ok.injEq, Instr.ufun.injEq, bits_iff, flag_iff]
  omega

theorem decode_ufcmp {word : Nat} (t : Bool) (k : BitVec 3) (a b : BitVec 6) (bs : BitVec 2) (p : Bool) (c : BitVec 3) (hw : word = 3154116608 + bitOf t * 16777216 + k.toNat * 262144 + a.toNat * 4096 + b.toNat * 64 + bs.toNat * 16 + bitOf p * 8 + c.toNat) :
    decode (BitVec.ofNat 32 word) = .ok (.ufcmp t k a b bs p c) := by
  have ht := bitOf_lt t
  have hp := bitOf_lt p
  rw [decode_uniform (by omega) (by omega)]
  simp only [decodeUniform, show word / 2 ^ 25 = 94 by omega]
  rw [if_pos (by simp only [fld]; omega)]
  simp only [Except.ok.injEq, Instr.ufcmp.injEq, bits_iff, flag_iff]
  omega

theorem decode_ufcvt {word : Nat} (t : Bool) (d a f : BitVec 6) (r : BitVec 3) (hw : word = 3187671040 + bitOf t * 16777216 + d.toNat * 262144 + a.toNat * 4096 + f.toNat * 64 + r.toNat) :
    decode (BitVec.ofNat 32 word) = .ok (.ufcvt t d a f r) := by
  have ht := bitOf_lt t
  rw [decode_uniform (by omega) (by omega)]
  simp only [decodeUniform, show word / 2 ^ 25 = 95 by omega]
  rw [if_pos (by simp only [fld]; omega)]
  simp only [Except.ok.injEq, Instr.ufcvt.injEq, bits_iff, flag_iff]
  omega

theorem decode_uld {word : Nat} (t : Bool) (d a : BitVec 6) (o : BitVec 8) (z q : BitVec 2) (hw : word = 3221225472 + bitOf t * 16777216 + d.toNat * 262144 + a.toNat * 4096 + o.toNat * 16 + z.toNat * 4 + q.toNat) :
    decode (BitVec.ofNat 32 word) = .ok (.uld t d a o z q) := by
  have ht := bitOf_lt t
  rw [decode_uniform (by omega) (by omega)]
  simp only [decodeUniform, show word / 2 ^ 25 = 96 by omega]
  simp only [Except.ok.injEq, Instr.uld.injEq, bits_iff, flag_iff]
  omega

theorem decode_ust {word : Nat} (t : Bool) (d a : BitVec 6) (o : BitVec 8) (z q : BitVec 2) (hw : word = 3254779904 + bitOf t * 16777216 + d.toNat * 262144 + a.toNat * 4096 + o.toNat * 16 + z.toNat * 4 + q.toNat) :
    decode (BitVec.ofNat 32 word) = .ok (.ust t d a o z q) := by
  have ht := bitOf_lt t
  rw [decode_uniform (by omega) (by omega)]
  simp only [decodeUniform, show word / 2 ^ 25 = 97 by omega]
  simp only [Except.ok.injEq, Instr.ust.injEq, bits_iff, flag_iff]
  omega

theorem decode_uamo {word : Nat} (t : Bool) (d a b : BitVec 6) (c : BitVec 4) (q : BitVec 2) (hw : word = 3288334336 + bitOf t * 16777216 + d.toNat * 262144 + a.toNat * 4096 + b.toNat * 64 + c.toNat * 4 + q.toNat) :
    decode (BitVec.ofNat 32 word) = .ok (.uamo t d a b c q) := by
  have ht := bitOf_lt t
  rw [decode_uniform (by omega) (by omega)]
  simp only [decodeUniform, show word / 2 ^ 25 = 98 by omega]
  simp only [Except.ok.injEq, Instr.uamo.injEq, bits_iff, flag_iff]
  omega

theorem decode_fence {word : Nat} (t y : Bool) (sc : BitVec 3) (k : BitVec 2) (hw : word = 3321888768 + bitOf t * 16777216 + bitOf y * 32 + sc.toNat * 4 + k.toNat) :
    decode (BitVec.ofNat 32 word) = .ok (.fence t y sc k) := by
  have ht := bitOf_lt t
  have hy := bitOf_lt y
  rw [decode_uniform (by omega) (by omega)]
  simp only [decodeUniform, show word / 2 ^ 25 = 99 by omega]
  rw [if_pos (by simp only [fld]; omega)]
  simp only [Except.ok.injEq, Instr.fence.injEq, bits_iff, flag_iff]
  omega

theorem decode_cache {word : Nat} (t : Bool) (a f : BitVec 6) (hw : word = 3355443200 + bitOf t * 16777216 + a.toNat * 4096 + f.toNat) :
    decode (BitVec.ofNat 32 word) = .ok (.cache t a f) := by
  have ht := bitOf_lt t
  rw [decode_uniform (by omega) (by omega)]
  simp only [decodeUniform, show word / 2 ^ 25 = 100 by omega]
  rw [if_pos (by simp only [fld]; omega)]
  simp only [Except.ok.injEq, Instr.cache.injEq, bits_iff, flag_iff]
  omega

theorem decode_jwr {word : Nat} (t : Bool) (d a : BitVec 6) (m : BitVec 4) (c : BitVec 8) (hw : word = 3388997632 + bitOf t * 16777216 + d.toNat * 262144 + a.toNat * 4096 + m.toNat * 256 + c.toNat) :
    decode (BitVec.ofNat 32 word) = .ok (.jwr t d a m c) := by
  have ht := bitOf_lt t
  rw [decode_uniform (by omega) (by omega)]
  simp only [decodeUniform, show word / 2 ^ 25 = 101 by omega]
  simp only [Except.ok.injEq, Instr.jwr.injEq, bits_iff, flag_iff]
  omega

theorem decode_jrd {word : Nat} (t : Bool) (d a : BitVec 6) (hw : word = 3422552064 + bitOf t * 16777216 + d.toNat * 262144 + a.toNat * 4096) :
    decode (BitVec.ofNat 32 word) = .ok (.jrd t d a) := by
  have ht := bitOf_lt t
  rw [decode_uniform (by omega) (by omega)]
  simp only [decodeUniform, show word / 2 ^ 25 = 102 by omega]
  rw [if_pos (by simp only [fld]; omega)]
  simp only [Except.ok.injEq, Instr.jrd.injEq, bits_iff, flag_iff]
  omega

theorem decode_jrel {word : Nat} (t : Bool) (a : BitVec 6) (hw : word = 3456106496 + bitOf t * 16777216 + a.toNat * 4096) :
    decode (BitVec.ofNat 32 word) = .ok (.jrel t a) := by
  have ht := bitOf_lt t
  rw [decode_uniform (by omega) (by omega)]
  simp only [decodeUniform, show word / 2 ^ 25 = 103 by omega]
  rw [if_pos (by simp only [fld]; omega)]
  simp only [Except.ok.injEq, Instr.jrel.injEq, bits_iff, flag_iff]
  omega

theorem decode_bra {word : Nat} (k : BitVec 3) (n : Bool) (o : BitVec 21) (hw : word = 3489660928 + k.toNat * 4194304 + bitOf n * 2097152 + o.toNat) :
    decode (BitVec.ofNat 32 word) = .ok (.bra k n o) := by
  have hn := bitOf_lt n
  rw [decode_uniform (by omega) (by omega)]
  simp only [decodeUniform, show word / 2 ^ 25 = 104 by omega]
  simp only [Except.ok.injEq, Instr.bra.injEq, bits_iff, flag_iff]
  omega

theorem decode_call {word : Nat} (o : BitVec 21) (hw : word = 3552575488 + o.toNat) :
    decode (BitVec.ofNat 32 word) = .ok (.call o) := by
  rw [decode_uniform (by omega) (by omega)]
  simp only [decodeUniform, show word / 2 ^ 25 = 105 by omega]
  rw [if_pos (by simp only [fld]; omega)]
  simp only [Except.ok.injEq, Instr.call.injEq, bits_iff]
  omega

theorem decode_jmpr {word : Nat} (t : Bool) (a : BitVec 6) (l : BitVec 12) (hw : word = 3556769792 + bitOf t * 16777216 + a.toNat * 4096 + l.toNat) :
    decode (BitVec.ofNat 32 word) = .ok (.jmpr t a l) := by
  have ht := bitOf_lt t
  rw [decode_uniform (by omega) (by omega)]
  simp only [decodeUniform, show word / 2 ^ 25 = 106 by omega]
  rw [if_pos (by simp only [fld]; omega)]
  simp only [Except.ok.injEq, Instr.jmpr.injEq, bits_iff, flag_iff]
  omega

theorem decode_jmpt {word : Nat} (t : Bool) (a : BitVec 6) (n : BitVec 12) (hw : word = 3590324224 + bitOf t * 16777216 + a.toNat * 4096 + n.toNat) :
    decode (BitVec.ofNat 32 word) = .ok (.jmpt t a n) := by
  have ht := bitOf_lt t
  rw [decode_uniform (by omega) (by omega)]
  simp only [decodeUniform, show word / 2 ^ 25 = 107 by omega]
  rw [if_pos (by simp only [fld]; omega)]
  simp only [Except.ok.injEq, Instr.jmpt.injEq, bits_iff, flag_iff]
  omega

theorem decode_lpad {word : Nat} (t : Bool) (l : BitVec 12) (hw : word = 3623878656 + bitOf t * 16777216 + l.toNat) :
    decode (BitVec.ofNat 32 word) = .ok (.lpad t l) := by
  have ht := bitOf_lt t
  rw [decode_uniform (by omega) (by omega)]
  simp only [decodeUniform, show word / 2 ^ 25 = 108 by omega]
  rw [if_pos (by simp only [fld]; omega)]
  simp only [Except.ok.injEq, Instr.lpad.injEq, bits_iff, flag_iff]
  omega

theorem decode_spawn {word : Nat} (t : Bool) (d a : BitVec 6) (imm g c v : Bool) (hw : word = 3657433088 + bitOf t * 16777216 + d.toNat * 262144 + a.toNat * 4096 + bitOf imm * 8 + bitOf g * 4 + bitOf c * 2 + bitOf v) :
    decode (BitVec.ofNat 32 word) = .ok (.spawn t d a imm g c v) := by
  have ht := bitOf_lt t
  have himm := bitOf_lt imm
  have hg := bitOf_lt g
  have hc := bitOf_lt c
  have hv := bitOf_lt v
  rw [decode_uniform (by omega) (by omega)]
  simp only [decodeUniform, show word / 2 ^ 25 = 109 by omega]
  rw [if_pos (by simp only [fld]; omega)]
  simp only [Except.ok.injEq, Instr.spawn.injEq, bits_iff, flag_iff]
  omega

theorem decode_join {word : Nat} (t : Bool) (d a b : BitVec 6) (hw : word = 3690987520 + bitOf t * 16777216 + d.toNat * 262144 + a.toNat * 4096 + b.toNat * 64) :
    decode (BitVec.ofNat 32 word) = .ok (.join t d a b) := by
  have ht := bitOf_lt t
  rw [decode_uniform (by omega) (by omega)]
  simp only [decodeUniform, show word / 2 ^ 25 = 110 by omega]
  rw [if_pos (by simp only [fld]; omega)]
  simp only [Except.ok.injEq, Instr.join.injEq, bits_iff, flag_iff]
  omega

theorem decode_sr {word : Nat} (t : Bool) (d a : BitVec 6) (n : BitVec 12) (hw : word = 3724541952 + bitOf t * 16777216 + d.toNat * 262144 + a.toNat * 4096 + n.toNat) :
    decode (BitVec.ofNat 32 word) = .ok (.sr t d a n) := by
  have ht := bitOf_lt t
  rw [decode_uniform (by omega) (by omega)]
  simp only [decodeUniform, show word / 2 ^ 25 = 111 by omega]
  simp only [Except.ok.injEq, Instr.sr.injEq, bits_iff, flag_iff]
  omega

theorem decode_cpy {word : Nat} (t : Bool) (a : BitVec 6) (y x : BitVec 2) (hw : word = 3758096384 + bitOf t * 16777216 + a.toNat * 4096 + y.toNat * 4 + x.toNat) :
    decode (BitVec.ofNat 32 word) = .ok (.cpy t a y x) := by
  have ht := bitOf_lt t
  rw [decode_uniform (by omega) (by omega)]
  simp only [decodeUniform, show word / 2 ^ 25 = 112 by omega]
  rw [if_pos (by simp only [fld]; omega)]
  simp only [Except.ok.injEq, Instr.cpy.injEq, bits_iff, flag_iff]
  omega

theorem decode_gather {word : Nat} (t : Bool) (a : BitVec 6) (y : BitVec 2) (x : Bool) (hw : word = 3791650816 + bitOf t * 16777216 + a.toNat * 4096 + y.toNat * 4 + bitOf x) :
    decode (BitVec.ofNat 32 word) = .ok (.gather t a y x) := by
  have ht := bitOf_lt t
  have hx := bitOf_lt x
  rw [decode_uniform (by omega) (by omega)]
  simp only [decodeUniform, show word / 2 ^ 25 = 113 by omega]
  rw [if_pos (by simp only [fld]; omega)]
  simp only [Except.ok.injEq, Instr.gather.injEq, bits_iff, flag_iff]
  omega

theorem decode_binscat {word : Nat} (t : Bool) (a : BitVec 6) (x : BitVec 2) (hw : word = 3825205248 + bitOf t * 16777216 + a.toNat * 4096 + x.toNat) :
    decode (BitVec.ofNat 32 word) = .ok (.binscat t a x) := by
  have ht := bitOf_lt t
  rw [decode_uniform (by omega) (by omega)]
  simp only [decodeUniform, show word / 2 ^ 25 = 114 by omega]
  rw [if_pos (by simp only [fld]; omega)]
  simp only [Except.ok.injEq, Instr.binscat.injEq, bits_iff, flag_iff]
  omega

theorem decode_bclose {word : Nat} (t : Bool) (d : BitVec 6) (hw : word = 3858759680 + bitOf t * 16777216 + d.toNat * 262144) :
    decode (BitVec.ofNat 32 word) = .ok (.bclose t d) := by
  have ht := bitOf_lt t
  rw [decode_uniform (by omega) (by omega)]
  simp only [decodeUniform, show word / 2 ^ 25 = 115 by omega]
  rw [if_pos (by simp only [fld]; omega)]
  simp only [Except.ok.injEq, Instr.bclose.injEq, bits_iff, flag_iff]
  omega

theorem decode_mwld {word : Nat} (t : Bool) (d a : BitVec 6) (l : BitVec 2) (sf : Bool) (f : BitVec 4) (hw : word = 3892314112 + bitOf t * 16777216 + d.toNat * 262144 + a.toNat * 4096 + l.toNat * 64 + bitOf sf * 16 + f.toNat) :
    decode (BitVec.ofNat 32 word) = .ok (.mwld t d a l sf f) := by
  have ht := bitOf_lt t
  have hsf := bitOf_lt sf
  rw [decode_uniform (by omega) (by omega)]
  simp only [decodeUniform, show word / 2 ^ 25 = 116 by omega]
  rw [if_pos (by simp only [fld]; omega)]
  simp only [Except.ok.injEq, Instr.mwld.injEq, bits_iff, flag_iff]
  omega

theorem decode_mma {word : Nat} (t : Bool) (d a r : BitVec 6) (z sf : Bool) (f : BitVec 4) (hw : word = 3925868544 + bitOf t * 16777216 + d.toNat * 262144 + a.toNat * 4096 + r.toNat * 64 + bitOf z * 32 + bitOf sf * 16 + f.toNat) :
    decode (BitVec.ofNat 32 word) = .ok (.mma t d a r z sf f) := by
  have ht := bitOf_lt t
  have hz := bitOf_lt z
  have hsf := bitOf_lt sf
  rw [decode_uniform (by omega) (by omega)]
  simp only [decodeUniform, show word / 2 ^ 25 = 117 by omega]
  simp only [Except.ok.injEq, Instr.mma.injEq, bits_iff, flag_iff]
  omega

theorem decode_maccZero {word : Nat} (t : Bool) (d : BitVec 6) (hw : word = 3959422976 + bitOf t * 16777216 + d.toNat * 262144) :
    decode (BitVec.ofNat 32 word) = .ok (.maccZero t d) := by
  have ht := bitOf_lt t
  rw [decode_uniform (by omega) (by omega)]
  simp only [decodeUniform, show word / 2 ^ 25 = 118 by omega]
  rw [if_pos (by simp only [fld]; omega)]
  simp only [Except.ok.injEq, Instr.maccZero.injEq, bits_iff, flag_iff]
  omega

theorem decode_maccLoad {word : Nat} (t : Bool) (d a : BitVec 6) (hw : word = 3959422977 + bitOf t * 16777216 + d.toNat * 262144 + a.toNat * 4096) :
    decode (BitVec.ofNat 32 word) = .ok (.maccLoad t d a) := by
  have ht := bitOf_lt t
  rw [decode_uniform (by omega) (by omega)]
  simp only [decodeUniform, show word / 2 ^ 25 = 118 by omega]
  rw [if_neg (by simp only [fld]; omega), if_pos (by simp only [fld]; omega)]
  simp only [Except.ok.injEq, Instr.maccLoad.injEq, bits_iff, flag_iff]
  omega

theorem decode_maccStore {word : Nat} (t : Bool) (d a : BitVec 6) (c : BitVec 3) (hw : word = 3959422978 + bitOf t * 16777216 + d.toNat * 262144 + a.toNat * 4096 + c.toNat * 64) :
    decode (BitVec.ofNat 32 word) = .ok (.maccStore t d a c) := by
  have ht := bitOf_lt t
  rw [decode_uniform (by omega) (by omega)]
  simp only [decodeUniform, show word / 2 ^ 25 = 118 by omega]
  rw [if_neg (by simp only [fld]; omega), if_neg (by simp only [fld]; omega), if_pos (by simp only [fld]; omega)]
  simp only [Except.ok.injEq, Instr.maccStore.injEq, bits_iff, flag_iff]
  omega

theorem decode_maccAdd {word : Nat} (t : Bool) (d b : BitVec 6) (hw : word = 3959422979 + bitOf t * 16777216 + d.toNat * 262144 + b.toNat * 64) :
    decode (BitVec.ofNat 32 word) = .ok (.maccAdd t d b) := by
  have ht := bitOf_lt t
  rw [decode_uniform (by omega) (by omega)]
  simp only [decodeUniform, show word / 2 ^ 25 = 118 by omega]
  rw [if_neg (by simp only [fld]; omega), if_neg (by simp only [fld]; omega), if_neg (by simp only [fld]; omega), if_pos (by simp only [fld]; omega)]
  simp only [Except.ok.injEq, Instr.maccAdd.injEq, bits_iff, flag_iff]
  omega

theorem decode_maccScale {word : Nat} (t : Bool) (d a : BitVec 6) (hw : word = 3959422980 + bitOf t * 16777216 + d.toNat * 262144 + a.toNat * 4096) :
    decode (BitVec.ofNat 32 word) = .ok (.maccScale t d a) := by
  have ht := bitOf_lt t
  rw [decode_uniform (by omega) (by omega)]
  simp only [decodeUniform, show word / 2 ^ 25 = 118 by omega]
  rw [if_neg (by simp only [fld]; omega), if_neg (by simp only [fld]; omega), if_neg (by simp only [fld]; omega), if_neg (by simp only [fld]; omega), if_pos (by simp only [fld]; omega)]
  simp only [Except.ok.injEq, Instr.maccScale.injEq, bits_iff, flag_iff]
  omega

theorem decode_maccRow {word : Nat} (t : Bool) (d a : BitVec 6) (hw : word = 3959422981 + bitOf t * 16777216 + d.toNat * 262144 + a.toNat * 4096) :
    decode (BitVec.ofNat 32 word) = .ok (.maccRow t d a) := by
  have ht := bitOf_lt t
  rw [decode_uniform (by omega) (by omega)]
  simp only [decodeUniform, show word / 2 ^ 25 = 118 by omega]
  rw [if_neg (by simp only [fld]; omega), if_neg (by simp only [fld]; omega), if_neg (by simp only [fld]; omega), if_neg (by simp only [fld]; omega), if_neg (by simp only [fld]; omega), if_pos (by simp only [fld]; omega)]
  simp only [Except.ok.injEq, Instr.maccRow.injEq, bits_iff, flag_iff]
  omega

theorem decode_maccClear {word : Nat} (t : Bool) (hw : word = 3959422982 + bitOf t * 16777216) :
    decode (BitVec.ofNat 32 word) = .ok (.maccClear t) := by
  have ht := bitOf_lt t
  rw [decode_uniform (by omega) (by omega)]
  simp only [decodeUniform, show word / 2 ^ 25 = 118 by omega]
  rw [if_neg (by simp only [fld]; omega), if_neg (by simp only [fld]; omega), if_neg (by simp only [fld]; omega), if_neg (by simp only [fld]; omega), if_neg (by simp only [fld]; omega), if_neg (by simp only [fld]; omega), if_pos (by simp only [fld]; omega)]
  simp only [Except.ok.injEq, Instr.maccClear.injEq, flag_iff]
  omega

theorem decode_mopfence {word : Nat} (t : Bool) (hw : word = 3992977408 + bitOf t * 16777216) :
    decode (BitVec.ofNat 32 word) = .ok (.mopfence t) := by
  have ht := bitOf_lt t
  rw [decode_uniform (by omega) (by omega)]
  simp only [decodeUniform, show word / 2 ^ 25 = 119 by omega]
  rw [if_pos (by simp only [fld]; omega)]
  simp only [Except.ok.injEq, Instr.mopfence.injEq, flag_iff]
  omega

theorem decode_cbload {word : Nat} (t : Bool) (d a : BitVec 6) (hw : word = 4026531840 + bitOf t * 16777216 + d.toNat * 262144 + a.toNat * 4096) :
    decode (BitVec.ofNat 32 word) = .ok (.cbload t d a) := by
  have ht := bitOf_lt t
  rw [decode_uniform (by omega) (by omega)]
  simp only [decodeUniform, show word / 2 ^ 25 = 120 by omega]
  rw [if_pos (by simp only [fld]; omega)]
  simp only [Except.ok.injEq, Instr.cbload.injEq, bits_iff, flag_iff]
  omega

theorem decode_meet {word : Nat} (t : Bool) (d a b : BitVec 6) (c : BitVec 2) (v : Bool) (o : BitVec 2) (hw : word = 4060086272 + bitOf t * 16777216 + d.toNat * 262144 + a.toNat * 4096 + b.toNat * 64 + c.toNat * 8 + bitOf v * 4 + o.toNat) :
    decode (BitVec.ofNat 32 word) = .ok (.meet t d a b c v o) := by
  have ht := bitOf_lt t
  have hv := bitOf_lt v
  rw [decode_uniform (by omega) (by omega)]
  simp only [decodeUniform, show word / 2 ^ 25 = 121 by omega]
  rw [if_pos (by simp only [fld]; omega)]
  simp only [Except.ok.injEq, Instr.meet.injEq, bits_iff, flag_iff]
  omega

theorem decode_ltagAlloc {word : Nat} (t : Bool) (d : BitVec 6) (hw : word = 4093640704 + bitOf t * 16777216 + d.toNat * 262144) :
    decode (BitVec.ofNat 32 word) = .ok (.ltagAlloc t d) := by
  have ht := bitOf_lt t
  rw [decode_uniform (by omega) (by omega)]
  simp only [decodeUniform, show word / 2 ^ 25 = 122 by omega]
  rw [if_pos (by simp only [fld]; omega)]
  simp only [Except.ok.injEq, Instr.ltagAlloc.injEq, bits_iff, flag_iff]
  omega

theorem decode_ltagFree {word : Nat} (t : Bool) (a : BitVec 6) (hw : word = 4093640705 + bitOf t * 16777216 + a.toNat * 4096) :
    decode (BitVec.ofNat 32 word) = .ok (.ltagFree t a) := by
  have ht := bitOf_lt t
  rw [decode_uniform (by omega) (by omega)]
  simp only [decodeUniform, show word / 2 ^ 25 = 122 by omega]
  rw [if_neg (by simp only [fld]; omega), if_pos (by simp only [fld]; omega)]
  simp only [Except.ok.injEq, Instr.ltagFree.injEq, bits_iff, flag_iff]
  omega

theorem decode_strmOpen {word : Nat} (t : Bool) (d a : BitVec 6) (hw : word = 4127195136 + bitOf t * 16777216 + d.toNat * 262144 + a.toNat * 4096) :
    decode (BitVec.ofNat 32 word) = .ok (.strmOpen t d a) := by
  have ht := bitOf_lt t
  rw [decode_uniform (by omega) (by omega)]
  simp only [decodeUniform, show word / 2 ^ 25 = 123 by omega]
  rw [if_pos (by simp only [fld]; omega)]
  simp only [Except.ok.injEq, Instr.strmOpen.injEq, bits_iff, flag_iff]
  omega

theorem decode_strmStep {word : Nat} (t : Bool) (d a : BitVec 6) (hw : word = 4127195137 + bitOf t * 16777216 + d.toNat * 262144 + a.toNat * 4096) :
    decode (BitVec.ofNat 32 word) = .ok (.strmStep t d a) := by
  have ht := bitOf_lt t
  rw [decode_uniform (by omega) (by omega)]
  simp only [decodeUniform, show word / 2 ^ 25 = 123 by omega]
  rw [if_neg (by simp only [fld]; omega), if_pos (by simp only [fld]; omega)]
  simp only [Except.ok.injEq, Instr.strmStep.injEq, bits_iff, flag_iff]
  omega

theorem decode_strmScan {word : Nat} (t : Bool) (d a : BitVec 6) (hw : word = 4127195138 + bitOf t * 16777216 + d.toNat * 262144 + a.toNat * 4096) :
    decode (BitVec.ofNat 32 word) = .ok (.strmScan t d a) := by
  have ht := bitOf_lt t
  rw [decode_uniform (by omega) (by omega)]
  simp only [decodeUniform, show word / 2 ^ 25 = 123 by omega]
  rw [if_neg (by simp only [fld]; omega), if_neg (by simp only [fld]; omega), if_pos (by simp only [fld]; omega)]
  simp only [Except.ok.injEq, Instr.strmScan.injEq, bits_iff, flag_iff]
  omega

theorem decode_strmSave {word : Nat} (t : Bool) (d a : BitVec 6) (h : Bool) (hw : word = 4127195139 + bitOf t * 16777216 + d.toNat * 262144 + a.toNat * 4096 + bitOf h * 64) :
    decode (BitVec.ofNat 32 word) = .ok (.strmSave t d a h) := by
  have ht := bitOf_lt t
  have hh := bitOf_lt h
  rw [decode_uniform (by omega) (by omega)]
  simp only [decodeUniform, show word / 2 ^ 25 = 123 by omega]
  rw [if_neg (by simp only [fld]; omega), if_neg (by simp only [fld]; omega), if_neg (by simp only [fld]; omega), if_pos (by simp only [fld]; omega)]
  simp only [Except.ok.injEq, Instr.strmSave.injEq, bits_iff, flag_iff]
  omega

theorem decode_strmLoad {word : Nat} (t : Bool) (d a : BitVec 6) (hw : word = 4127195140 + bitOf t * 16777216 + d.toNat * 262144 + a.toNat * 4096) :
    decode (BitVec.ofNat 32 word) = .ok (.strmLoad t d a) := by
  have ht := bitOf_lt t
  rw [decode_uniform (by omega) (by omega)]
  simp only [decodeUniform, show word / 2 ^ 25 = 123 by omega]
  rw [if_neg (by simp only [fld]; omega), if_neg (by simp only [fld]; omega), if_neg (by simp only [fld]; omega), if_neg (by simp only [fld]; omega), if_pos (by simp only [fld]; omega)]
  simp only [Except.ok.injEq, Instr.strmLoad.injEq, bits_iff, flag_iff]
  omega

theorem decode_strmClose {word : Nat} (t : Bool) (d a : BitVec 6) (hw : word = 4127195141 + bitOf t * 16777216 + d.toNat * 262144 + a.toNat * 4096) :
    decode (BitVec.ofNat 32 word) = .ok (.strmClose t d a) := by
  have ht := bitOf_lt t
  rw [decode_uniform (by omega) (by omega)]
  simp only [decodeUniform, show word / 2 ^ 25 = 123 by omega]
  rw [if_neg (by simp only [fld]; omega), if_neg (by simp only [fld]; omega), if_neg (by simp only [fld]; omega), if_neg (by simp only [fld]; omega), if_neg (by simp only [fld]; omega), if_pos (by simp only [fld]; omega)]
  simp only [Except.ok.injEq, Instr.strmClose.injEq, bits_iff, flag_iff]
  omega

theorem decode_strmQuery {word : Nat} (t : Bool) (d a : BitVec 6) (q : Bool) (hw : word = 4127195142 + bitOf t * 16777216 + d.toNat * 262144 + a.toNat * 4096 + bitOf q * 64) :
    decode (BitVec.ofNat 32 word) = .ok (.strmQuery t d a q) := by
  have ht := bitOf_lt t
  have hq := bitOf_lt q
  rw [decode_uniform (by omega) (by omega)]
  simp only [decodeUniform, show word / 2 ^ 25 = 123 by omega]
  rw [if_neg (by simp only [fld]; omega), if_neg (by simp only [fld]; omega), if_neg (by simp only [fld]; omega), if_neg (by simp only [fld]; omega), if_neg (by simp only [fld]; omega), if_neg (by simp only [fld]; omega), if_pos (by simp only [fld]; omega)]
  simp only [Except.ok.injEq, Instr.strmQuery.injEq, bits_iff, flag_iff]
  omega

theorem decode_xexp {word : Nat} (t : Bool) (a : BitVec 6) (hw : word = 4160749568 + bitOf t * 16777216 + a.toNat * 4096) :
    decode (BitVec.ofNat 32 word) = .ok (.xexp t a) := by
  have ht := bitOf_lt t
  rw [decode_uniform (by omega) (by omega)]
  simp only [decodeUniform, show word / 2 ^ 25 = 124 by omega]
  rw [if_pos (by simp only [fld]; omega)]
  simp only [Except.ok.injEq, Instr.xexp.injEq, bits_iff, flag_iff]
  omega

theorem decode_xbar {word : Nat} (t : Bool) (hw : word = 4160749569 + bitOf t * 16777216) :
    decode (BitVec.ofNat 32 word) = .ok (.xbar t) := by
  have ht := bitOf_lt t
  rw [decode_uniform (by omega) (by omega)]
  simp only [decodeUniform, show word / 2 ^ 25 = 124 by omega]
  rw [if_neg (by simp only [fld]; omega), if_pos (by simp only [fld]; omega)]
  simp only [Except.ok.injEq, Instr.xbar.injEq, flag_iff]
  omega

theorem decode_xstat {word : Nat} (t : Bool) (d : BitVec 6) (hw : word = 4160749570 + bitOf t * 16777216 + d.toNat * 262144) :
    decode (BitVec.ofNat 32 word) = .ok (.xstat t d) := by
  have ht := bitOf_lt t
  rw [decode_uniform (by omega) (by omega)]
  simp only [decodeUniform, show word / 2 ^ 25 = 124 by omega]
  rw [if_neg (by simp only [fld]; omega), if_neg (by simp only [fld]; omega), if_pos (by simp only [fld]; omega)]
  simp only [Except.ok.injEq, Instr.xstat.injEq, bits_iff, flag_iff]
  omega

theorem decode_hailSend {word : Nat} (t : Bool) (d a : BitVec 6) (hw : word = 4194304000 + bitOf t * 16777216 + d.toNat * 262144 + a.toNat * 4096) :
    decode (BitVec.ofNat 32 word) = .ok (.hailSend t d a) := by
  have ht := bitOf_lt t
  rw [decode_uniform (by omega) (by omega)]
  simp only [decodeUniform, show word / 2 ^ 25 = 125 by omega]
  rw [if_pos (by simp only [fld]; omega)]
  simp only [Except.ok.injEq, Instr.hailSend.injEq, bits_iff, flag_iff]
  omega

theorem decode_hailMask {word : Nat} (t : Bool) (d a : BitVec 6) (hw : word = 4194304001 + bitOf t * 16777216 + d.toNat * 262144 + a.toNat * 4096) :
    decode (BitVec.ofNat 32 word) = .ok (.hailMask t d a) := by
  have ht := bitOf_lt t
  rw [decode_uniform (by omega) (by omega)]
  simp only [decodeUniform, show word / 2 ^ 25 = 125 by omega]
  rw [if_neg (by simp only [fld]; omega), if_pos (by simp only [fld]; omega)]
  simp only [Except.ok.injEq, Instr.hailMask.injEq, bits_iff, flag_iff]
  omega

theorem decode_hailTake {word : Nat} (t : Bool) (d a : BitVec 6) (hw : word = 4194304002 + bitOf t * 16777216 + d.toNat * 262144 + a.toNat * 4096) :
    decode (BitVec.ofNat 32 word) = .ok (.hailTake t d a) := by
  have ht := bitOf_lt t
  rw [decode_uniform (by omega) (by omega)]
  simp only [decodeUniform, show word / 2 ^ 25 = 125 by omega]
  rw [if_neg (by simp only [fld]; omega), if_neg (by simp only [fld]; omega), if_pos (by simp only [fld]; omega)]
  simp only [Except.ok.injEq, Instr.hailTake.injEq, bits_iff, flag_iff]
  omega

theorem decode_hailRet {word : Nat} (t : Bool) (hw : word = 4194304003 + bitOf t * 16777216) :
    decode (BitVec.ofNat 32 word) = .ok (.hailRet t) := by
  have ht := bitOf_lt t
  rw [decode_uniform (by omega) (by omega)]
  simp only [decodeUniform, show word / 2 ^ 25 = 125 by omega]
  rw [if_neg (by simp only [fld]; omega), if_neg (by simp only [fld]; omega), if_neg (by simp only [fld]; omega), if_pos (by simp only [fld]; omega)]
  simp only [Except.ok.injEq, Instr.hailRet.injEq, flag_iff]
  omega

theorem decode_hailPend {word : Nat} (t : Bool) (d a : BitVec 6) (hw : word = 4194304004 + bitOf t * 16777216 + d.toNat * 262144 + a.toNat * 4096) :
    decode (BitVec.ofNat 32 word) = .ok (.hailPend t d a) := by
  have ht := bitOf_lt t
  rw [decode_uniform (by omega) (by omega)]
  simp only [decodeUniform, show word / 2 ^ 25 = 125 by omega]
  rw [if_neg (by simp only [fld]; omega), if_neg (by simp only [fld]; omega), if_neg (by simp only [fld]; omega), if_neg (by simp only [fld]; omega), if_pos (by simp only [fld]; omega)]
  simp only [Except.ok.injEq, Instr.hailPend.injEq, bits_iff, flag_iff]
  omega

theorem decode_hailPerm {word : Nat} (t : Bool) (d a : BitVec 6) (hw : word = 4194304005 + bitOf t * 16777216 + d.toNat * 262144 + a.toNat * 4096) :
    decode (BitVec.ofNat 32 word) = .ok (.hailPerm t d a) := by
  have ht := bitOf_lt t
  rw [decode_uniform (by omega) (by omega)]
  simp only [decodeUniform, show word / 2 ^ 25 = 125 by omega]
  rw [if_neg (by simp only [fld]; omega), if_neg (by simp only [fld]; omega), if_neg (by simp only [fld]; omega), if_neg (by simp only [fld]; omega), if_neg (by simp only [fld]; omega), if_pos (by simp only [fld]; omega)]
  simp only [Except.ok.injEq, Instr.hailPerm.injEq, bits_iff, flag_iff]
  omega

theorem decode_sysTrap {word : Nat} (t : Bool) (n : BitVec 6) (hw : word = 4227858432 + bitOf t * 16777216 + n.toNat * 64) :
    decode (BitVec.ofNat 32 word) = .ok (.sysTrap t n) := by
  have ht := bitOf_lt t
  rw [decode_uniform (by omega) (by omega)]
  simp only [decodeUniform, show word / 2 ^ 25 = 126 by omega]
  rw [if_pos (by simp only [fld]; omega)]
  simp only [Except.ok.injEq, Instr.sysTrap.injEq, bits_iff, flag_iff]
  omega

theorem decode_sysSvc {word : Nat} (t : Bool) (n : BitVec 6) (hw : word = 4227858433 + bitOf t * 16777216 + n.toNat * 64) :
    decode (BitVec.ofNat 32 word) = .ok (.sysSvc t n) := by
  have ht := bitOf_lt t
  rw [decode_uniform (by omega) (by omega)]
  simp only [decodeUniform, show word / 2 ^ 25 = 126 by omega]
  rw [if_neg (by simp only [fld]; omega), if_pos (by simp only [fld]; omega)]
  simp only [Except.ok.injEq, Instr.sysSvc.injEq, bits_iff, flag_iff]
  omega

theorem decode_sysEret {word : Nat} (t : Bool) (a : BitVec 6) (hw : word = 4227858434 + bitOf t * 16777216 + a.toNat * 4096) :
    decode (BitVec.ofNat 32 word) = .ok (.sysEret t a) := by
  have ht := bitOf_lt t
  rw [decode_uniform (by omega) (by omega)]
  simp only [decodeUniform, show word / 2 ^ 25 = 126 by omega]
  rw [if_neg (by simp only [fld]; omega), if_neg (by simp only [fld]; omega), if_pos (by simp only [fld]; omega)]
  simp only [Except.ok.injEq, Instr.sysEret.injEq, bits_iff, flag_iff]
  omega

theorem decode_sysBkpt {word : Nat} (t : Bool) (n : BitVec 6) (hw : word = 4227858435 + bitOf t * 16777216 + n.toNat * 64) :
    decode (BitVec.ofNat 32 word) = .ok (.sysBkpt t n) := by
  have ht := bitOf_lt t
  rw [decode_uniform (by omega) (by omega)]
  simp only [decodeUniform, show word / 2 ^ 25 = 126 by omega]
  rw [if_neg (by simp only [fld]; omega), if_neg (by simp only [fld]; omega), if_neg (by simp only [fld]; omega), if_pos (by simp only [fld]; omega)]
  simp only [Except.ok.injEq, Instr.sysBkpt.injEq, bits_iff, flag_iff]
  omega

theorem decode_sysYield {word : Nat} (t : Bool) (hw : word = 4227858436 + bitOf t * 16777216) :
    decode (BitVec.ofNat 32 word) = .ok (.sysYield t) := by
  have ht := bitOf_lt t
  rw [decode_uniform (by omega) (by omega)]
  simp only [decodeUniform, show word / 2 ^ 25 = 126 by omega]
  rw [if_neg (by simp only [fld]; omega), if_neg (by simp only [fld]; omega), if_neg (by simp only [fld]; omega), if_neg (by simp only [fld]; omega), if_pos (by simp only [fld]; omega)]
  simp only [Except.ok.injEq, Instr.sysYield.injEq, flag_iff]
  omega

theorem decode_sysWaiti {word : Nat} (t : Bool) (d a : BitVec 6) (hw : word = 4227858437 + bitOf t * 16777216 + d.toNat * 262144 + a.toNat * 4096) :
    decode (BitVec.ofNat 32 word) = .ok (.sysWaiti t d a) := by
  have ht := bitOf_lt t
  rw [decode_uniform (by omega) (by omega)]
  simp only [decodeUniform, show word / 2 ^ 25 = 126 by omega]
  rw [if_neg (by simp only [fld]; omega), if_neg (by simp only [fld]; omega), if_neg (by simp only [fld]; omega), if_neg (by simp only [fld]; omega), if_neg (by simp only [fld]; omega), if_pos (by simp only [fld]; omega)]
  simp only [Except.ok.injEq, Instr.sysWaiti.injEq, bits_iff, flag_iff]
  omega

theorem decode_sysHalt {word : Nat} (t : Bool) (d a : BitVec 6) (hw : word = 4227858438 + bitOf t * 16777216 + d.toNat * 262144 + a.toNat * 4096) :
    decode (BitVec.ofNat 32 word) = .ok (.sysHalt t d a) := by
  have ht := bitOf_lt t
  rw [decode_uniform (by omega) (by omega)]
  simp only [decodeUniform, show word / 2 ^ 25 = 126 by omega]
  rw [if_neg (by simp only [fld]; omega), if_neg (by simp only [fld]; omega), if_neg (by simp only [fld]; omega), if_neg (by simp only [fld]; omega), if_neg (by simp only [fld]; omega), if_neg (by simp only [fld]; omega), if_pos (by simp only [fld]; omega)]
  simp only [Except.ok.injEq, Instr.sysHalt.injEq, bits_iff, flag_iff]
  omega

theorem decode_sysVdist {word : Nat} (t : Bool) (d a b : BitVec 6) (hw : word = 4227858439 + bitOf t * 16777216 + d.toNat * 262144 + a.toNat * 4096 + b.toNat * 64) :
    decode (BitVec.ofNat 32 word) = .ok (.sysVdist t d a b) := by
  have ht := bitOf_lt t
  rw [decode_uniform (by omega) (by omega)]
  simp only [decodeUniform, show word / 2 ^ 25 = 126 by omega]
  rw [if_neg (by simp only [fld]; omega), if_neg (by simp only [fld]; omega), if_neg (by simp only [fld]; omega), if_neg (by simp only [fld]; omega), if_neg (by simp only [fld]; omega), if_neg (by simp only [fld]; omega), if_neg (by simp only [fld]; omega), if_pos (by simp only [fld]; omega)]
  simp only [Except.ok.injEq, Instr.sysVdist.injEq, bits_iff, flag_iff]
  omega

theorem decode_sysVdie {word : Nat} (t : Bool) (d a : BitVec 6) (hw : word = 4227858440 + bitOf t * 16777216 + d.toNat * 262144 + a.toNat * 4096) :
    decode (BitVec.ofNat 32 word) = .ok (.sysVdie t d a) := by
  have ht := bitOf_lt t
  rw [decode_uniform (by omega) (by omega)]
  simp only [decodeUniform, show word / 2 ^ 25 = 126 by omega]
  rw [if_neg (by simp only [fld]; omega), if_neg (by simp only [fld]; omega), if_neg (by simp only [fld]; omega), if_neg (by simp only [fld]; omega), if_neg (by simp only [fld]; omega), if_neg (by simp only [fld]; omega), if_neg (by simp only [fld]; omega), if_neg (by simp only [fld]; omega), if_pos (by simp only [fld]; omega)]
  simp only [Except.ok.injEq, Instr.sysVdie.injEq, bits_iff, flag_iff]
  omega

theorem decode_sysFmap {word : Nat} (t : Bool) (d a : BitVec 6) (hw : word = 4227858441 + bitOf t * 16777216 + d.toNat * 262144 + a.toNat * 4096) :
    decode (BitVec.ofNat 32 word) = .ok (.sysFmap t d a) := by
  have ht := bitOf_lt t
  rw [decode_uniform (by omega) (by omega)]
  simp only [decodeUniform, show word / 2 ^ 25 = 126 by omega]
  rw [if_neg (by simp only [fld]; omega), if_neg (by simp only [fld]; omega), if_neg (by simp only [fld]; omega), if_neg (by simp only [fld]; omega), if_neg (by simp only [fld]; omega), if_neg (by simp only [fld]; omega), if_neg (by simp only [fld]; omega), if_neg (by simp only [fld]; omega), if_neg (by simp only [fld]; omega), if_pos (by simp only [fld]; omega)]
  simp only [Except.ok.injEq, Instr.sysFmap.injEq, bits_iff, flag_iff]
  omega

theorem decode_sysFretry {word : Nat} (t : Bool) (d a : BitVec 6) (hw : word = 4227858442 + bitOf t * 16777216 + d.toNat * 262144 + a.toNat * 4096) :
    decode (BitVec.ofNat 32 word) = .ok (.sysFretry t d a) := by
  have ht := bitOf_lt t
  rw [decode_uniform (by omega) (by omega)]
  simp only [decodeUniform, show word / 2 ^ 25 = 126 by omega]
  rw [if_neg (by simp only [fld]; omega), if_neg (by simp only [fld]; omega), if_neg (by simp only [fld]; omega), if_neg (by simp only [fld]; omega), if_neg (by simp only [fld]; omega), if_neg (by simp only [fld]; omega), if_neg (by simp only [fld]; omega), if_neg (by simp only [fld]; omega), if_neg (by simp only [fld]; omega), if_neg (by simp only [fld]; omega), if_pos (by simp only [fld]; omega)]
  simp only [Except.ok.injEq, Instr.sysFretry.injEq, bits_iff, flag_iff]
  omega

theorem decode_sysFskip {word : Nat} (t : Bool) (d a : BitVec 6) (hw : word = 4227858443 + bitOf t * 16777216 + d.toNat * 262144 + a.toNat * 4096) :
    decode (BitVec.ofNat 32 word) = .ok (.sysFskip t d a) := by
  have ht := bitOf_lt t
  rw [decode_uniform (by omega) (by omega)]
  simp only [decodeUniform, show word / 2 ^ 25 = 126 by omega]
  rw [if_neg (by simp only [fld]; omega), if_neg (by simp only [fld]; omega), if_neg (by simp only [fld]; omega), if_neg (by simp only [fld]; omega), if_neg (by simp only [fld]; omega), if_neg (by simp only [fld]; omega), if_neg (by simp only [fld]; omega), if_neg (by simp only [fld]; omega), if_neg (by simp only [fld]; omega), if_neg (by simp only [fld]; omega), if_neg (by simp only [fld]; omega), if_pos (by simp only [fld]; omega)]
  simp only [Except.ok.injEq, Instr.sysFskip.injEq, bits_iff, flag_iff]
  omega

theorem decode_sysFabort {word : Nat} (t : Bool) (d a : BitVec 6) (hw : word = 4227858444 + bitOf t * 16777216 + d.toNat * 262144 + a.toNat * 4096) :
    decode (BitVec.ofNat 32 word) = .ok (.sysFabort t d a) := by
  have ht := bitOf_lt t
  rw [decode_uniform (by omega) (by omega)]
  simp only [decodeUniform, show word / 2 ^ 25 = 126 by omega]
  rw [if_neg (by simp only [fld]; omega), if_neg (by simp only [fld]; omega), if_neg (by simp only [fld]; omega), if_neg (by simp only [fld]; omega), if_neg (by simp only [fld]; omega), if_neg (by simp only [fld]; omega), if_neg (by simp only [fld]; omega), if_neg (by simp only [fld]; omega), if_neg (by simp only [fld]; omega), if_neg (by simp only [fld]; omega), if_neg (by simp only [fld]; omega), if_neg (by simp only [fld]; omega), if_pos (by simp only [fld]; omega)]
  simp only [Except.ok.injEq, Instr.sysFabort.injEq, bits_iff, flag_iff]
  omega

theorem decode_sysCtxsw {word : Nat} (t : Bool) (d a : BitVec 6) (hw : word = 4227858445 + bitOf t * 16777216 + d.toNat * 262144 + a.toNat * 4096) :
    decode (BitVec.ofNat 32 word) = .ok (.sysCtxsw t d a) := by
  have ht := bitOf_lt t
  rw [decode_uniform (by omega) (by omega)]
  simp only [decodeUniform, show word / 2 ^ 25 = 126 by omega]
  rw [if_neg (by simp only [fld]; omega), if_neg (by simp only [fld]; omega), if_neg (by simp only [fld]; omega), if_neg (by simp only [fld]; omega), if_neg (by simp only [fld]; omega), if_neg (by simp only [fld]; omega), if_neg (by simp only [fld]; omega), if_neg (by simp only [fld]; omega), if_neg (by simp only [fld]; omega), if_neg (by simp only [fld]; omega), if_neg (by simp only [fld]; omega), if_neg (by simp only [fld]; omega), if_neg (by simp only [fld]; omega), if_pos (by simp only [fld]; omega)]
  simp only [Except.ok.injEq, Instr.sysCtxsw.injEq, bits_iff, flag_iff]
  omega

theorem decode_sysCtxld {word : Nat} (t : Bool) (d a : BitVec 6) (hw : word = 4227858446 + bitOf t * 16777216 + d.toNat * 262144 + a.toNat * 4096) :
    decode (BitVec.ofNat 32 word) = .ok (.sysCtxld t d a) := by
  have ht := bitOf_lt t
  rw [decode_uniform (by omega) (by omega)]
  simp only [decodeUniform, show word / 2 ^ 25 = 126 by omega]
  rw [if_neg (by simp only [fld]; omega), if_neg (by simp only [fld]; omega), if_neg (by simp only [fld]; omega), if_neg (by simp only [fld]; omega), if_neg (by simp only [fld]; omega), if_neg (by simp only [fld]; omega), if_neg (by simp only [fld]; omega), if_neg (by simp only [fld]; omega), if_neg (by simp only [fld]; omega), if_neg (by simp only [fld]; omega), if_neg (by simp only [fld]; omega), if_neg (by simp only [fld]; omega), if_neg (by simp only [fld]; omega), if_neg (by simp only [fld]; omega), if_pos (by simp only [fld]; omega)]
  simp only [Except.ok.injEq, Instr.sysCtxld.injEq, bits_iff, flag_iff]
  omega

theorem decode_sysCodefence {word : Nat} (t : Bool) (hw : word = 4227858447 + bitOf t * 16777216) :
    decode (BitVec.ofNat 32 word) = .ok (.sysCodefence t) := by
  have ht := bitOf_lt t
  rw [decode_uniform (by omega) (by omega)]
  simp only [decodeUniform, show word / 2 ^ 25 = 126 by omega]
  rw [if_neg (by simp only [fld]; omega), if_neg (by simp only [fld]; omega), if_neg (by simp only [fld]; omega), if_neg (by simp only [fld]; omega), if_neg (by simp only [fld]; omega), if_neg (by simp only [fld]; omega), if_neg (by simp only [fld]; omega), if_neg (by simp only [fld]; omega), if_neg (by simp only [fld]; omega), if_neg (by simp only [fld]; omega), if_neg (by simp only [fld]; omega), if_neg (by simp only [fld]; omega), if_neg (by simp only [fld]; omega), if_neg (by simp only [fld]; omega), if_neg (by simp only [fld]; omega), if_pos (by simp only [fld]; omega)]
  simp only [Except.ok.injEq, Instr.sysCodefence.injEq, flag_iff]
  omega

theorem decode_immx {word : Nat} (imm : BitVec 25) (hw : word = 4261412864 + imm.toNat) :
    decode (BitVec.ofNat 32 word) = .ok (.immx imm) := by
  rw [decode_uniform (by omega) (by omega)]
  simp only [decodeUniform, show word / 2 ^ 25 = 127 by omega]
  simp only [Except.ok.injEq, Instr.immx.injEq, bits_iff]
  omega

/-- R24 to R28, R34, R35: the word of an instruction decodes to it, with every operand. -/
theorem decode_encode (i : Instr) (hword : i.hasWord = true) : decode (BitVec.ofNat 32 (encodeNat i)) = .ok i := by
  cases i with
  | add t d a b bs m => exact decode_add t d a b bs m rfl
  | sub t d a b bs m => exact decode_sub t d a b bs m rfl
  | mul t d a b bs => exact decode_mul t d a b bs rfl
  | mulhi t d a b bs m => exact decode_mulhi t d a b bs m rfl
  | imad t d a b bs => exact decode_imad t d a b bs rfl
  | and t d a b bs => exact decode_and t d a b bs rfl
  | or t d a b bs => exact decode_or t d a b bs rfl
  | xor t d a b bs => exact decode_xor t d a b bs rfl
  | shl t d a b bs => exact decode_shl t d a b bs rfl
  | shr t d a b bs m => exact decode_shr t d a b bs m rfl
  | min t d a b bs m => exact decode_min t d a b bs m rfl
  | max t d a b bs m => exact decode_max t d a b bs m rfl
  | icmp t c p a b bs => exact decode_icmp t c p a b bs rfl
  | sel t d a b p => exact decode_sel t d a b p rfl
  | bfx t d a b bs => exact decode_bfx t d a b bs rfl
  | bfi t d a b bs => exact decode_bfi t d a b bs rfl
  | iun t d a f m => exact decode_iun t d a f m rfl
  | addi t d a imm => exact decode_addi t d a imm rfl
  | andi t d a imm => exact decode_andi t d a imm rfl
  | ori t d a imm => exact decode_ori t d a imm rfl
  | xori t d a imm => exact decode_xori t d a imm rfl
  | shli t d a imm => exact decode_shli t d a imm rfl
  | shri t d a x imm => exact decode_shri t d a x imm rfl
  | movi t d imm => exact decode_movi t d imm rfl
  | icmpi t c p a imm => exact decode_icmpi t c p a imm rfl
  | fadd t d a b bs => exact decode_fadd t d a b bs rfl
  | fsub t d a b bs => exact decode_fsub t d a b bs rfl
  | fmul t d a b bs => exact decode_fmul t d a b bs rfl
  | ffma t d a b bs => exact decode_ffma t d a b bs rfl
  | fmin t d a b bs => exact decode_fmin t d a b bs rfl
  | fmax t d a b bs => exact decode_fmax t d a b bs rfl
  | fcmp t c p a b bs => exact decode_fcmp t c p a b bs rfl
  | sfu t d a f => exact decode_sfu t d a f rfl
  | cvt t d a k r m => exact decode_cvt t d a k r m rfl
  | hadd2 t d a b bs m => exact decode_hadd2 t d a b bs m rfl
  | hmul2 t d a b bs m => exact decode_hmul2 t d a b bs m rfl
  | hfma2 t d a b bs m => exact decode_hfma2 t d a b bs m rfl
  | shflPick t d a b bs => exact decode_shflPick t d a b bs rfl
  | shflSwap t d a b bs => exact decode_shflSwap t d a b bs rfl
  | shflBack t d a b bs => exact decode_shflBack t d a b bs rfl
  | shflFwd t d a b bs => exact decode_shflFwd t d a b bs rfl
  | vote t d a f m => exact decode_vote t d a f m rfl
  | redux t d a f => exact decode_redux t d a f rfl
  | contribution t j a f => exact decode_contribution t j a f rfl
  | scan t d a f m => exact decode_scan t d a f m rfl
  | cmpx t d a k j m => exact decode_cmpx t d a k j m rfl
  | jpt o => exact decode_jpt o rfl
  | brd p n o => exact decode_brd p n o rfl
  | regang t imm => exact decode_regang t imm rfl
  | exit p n => exact decode_exit p n rfl
  | bar t y k n => exact decode_bar t y k n rfl
  | ld t d a w z o => exact decode_ld t d a w z o rfl
  | st t d a w z o => exact decode_st t d a w z o rfl
  | lds t d a w z => exact decode_lds t d a w z rfl
  | sts t d a w z => exact decode_sts t d a w z rfl
  | ldp t d a w z => exact decode_ldp t d a w z rfl
  | stp t d a w z => exact decode_stp t d a w z rfl
  | atom t d a w c => exact decode_atom t d a w c rfl
  | red t d a w c => exact decode_red t d a w c rfl
  | xst t d a w z => exact decode_xst t d a w z rfl
  | svc t imm => exact decode_svc t imm rfl
  | uadd t d a b bs w f => exact decode_uadd t d a b bs w f rfl
  | usub t d a b bs w f => exact decode_usub t d a b bs w f rfl
  | umul t d a b bs w => exact decode_umul t d a b bs w rfl
  | umulh t d a b bs w u => exact decode_umulh t d a b bs w u rfl
  | udiv t d a b bs w u => exact decode_udiv t d a b bs w u rfl
  | urem t d a b bs w u => exact decode_urem t d a b bs w u rfl
  | uand t d a b bs => exact decode_uand t d a b bs rfl
  | uor t d a b bs => exact decode_uor t d a b bs rfl
  | uxor t d a b bs => exact decode_uxor t d a b bs rfl
  | ushl t d a b bs w => exact decode_ushl t d a b bs w rfl
  | ushr t d a b bs w u => exact decode_ushr t d a b bs w u rfl
  | umin t d a b bs u => exact decode_umin t d a b bs u rfl
  | umax t d a b bs u => exact decode_umax t d a b bs u rfl
  | ucmp t k a b bs c => exact decode_ucmp t k a b bs c rfl
  | usel t d a b bs k => exact decode_usel t d a b bs k rfl
  | uun t d a f w => exact decode_uun t d a f w rfl
  | uaddi t d a imm => exact decode_uaddi t d a imm rfl
  | uandi t d a imm => exact decode_uandi t d a imm rfl
  | uori t d a imm => exact decode_uori t d a imm rfl
  | uxori t d a imm => exact decode_uxori t d a imm rfl
  | ushli t d a imm => exact decode_ushli t d a imm rfl
  | ushri t d a x imm => exact decode_ushri t d a x imm rfl
  | umovi t d imm => exact decode_umovi t d imm rfl
  | ucmpi t k a c imm => exact decode_ucmpi t k a c imm rfl
  | ufadd t d a b bs p r => exact decode_ufadd t d a b bs p r rfl
  | ufsub t d a b bs p r => exact decode_ufsub t d a b bs p r rfl
  | ufmul t d a b bs p r => exact decode_ufmul t d a b bs p r rfl
  | uffma t d a b bs p r => exact decode_uffma t d a b bs p r rfl
  | ufdiv t d a b bs p r => exact decode_ufdiv t d a b bs p r rfl
  | ufun t d a f p r => exact decode_ufun t d a f p r rfl
  | ufcmp t k a b bs p c => exact decode_ufcmp t k a b bs p c rfl
  | ufcvt t d a f r => exact decode_ufcvt t d a f r rfl
  | uld t d a o z q => exact decode_uld t d a o z q rfl
  | ust t d a o z q => exact decode_ust t d a o z q rfl
  | uamo t d a b c q => exact decode_uamo t d a b c q rfl
  | fence t y sc k => exact decode_fence t y sc k rfl
  | cache t a f => exact decode_cache t a f rfl
  | jwr t d a m c => exact decode_jwr t d a m c rfl
  | jrd t d a => exact decode_jrd t d a rfl
  | jrel t a => exact decode_jrel t a rfl
  | bra k n o => exact decode_bra k n o rfl
  | call o => exact decode_call o rfl
  | jmpr t a l => exact decode_jmpr t a l rfl
  | jmpt t a n => exact decode_jmpt t a n rfl
  | lpad t l => exact decode_lpad t l rfl
  | spawn t d a imm g c v => exact decode_spawn t d a imm g c v rfl
  | join t d a b => exact decode_join t d a b rfl
  | sr t d a n => exact decode_sr t d a n rfl
  | cpy t a y x => exact decode_cpy t a y x rfl
  | gather t a y x => exact decode_gather t a y x rfl
  | binscat t a x => exact decode_binscat t a x rfl
  | bclose t d => exact decode_bclose t d rfl
  | mwld t d a l sf f => exact decode_mwld t d a l sf f rfl
  | mma t d a r z sf f => exact decode_mma t d a r z sf f rfl
  | maccZero t d => exact decode_maccZero t d rfl
  | maccLoad t d a => exact decode_maccLoad t d a rfl
  | maccStore t d a c => exact decode_maccStore t d a c rfl
  | maccAdd t d b => exact decode_maccAdd t d b rfl
  | maccScale t d a => exact decode_maccScale t d a rfl
  | maccRow t d a => exact decode_maccRow t d a rfl
  | maccClear t => exact decode_maccClear t rfl
  | mopfence t => exact decode_mopfence t rfl
  | cbload t d a => exact decode_cbload t d a rfl
  | meet t d a b c v o => exact decode_meet t d a b c v o rfl
  | ltagAlloc t d => exact decode_ltagAlloc t d rfl
  | ltagFree t a => exact decode_ltagFree t a rfl
  | strmOpen t d a => exact decode_strmOpen t d a rfl
  | strmStep t d a => exact decode_strmStep t d a rfl
  | strmScan t d a => exact decode_strmScan t d a rfl
  | strmSave t d a h => exact decode_strmSave t d a h rfl
  | strmLoad t d a => exact decode_strmLoad t d a rfl
  | strmClose t d a => exact decode_strmClose t d a rfl
  | strmQuery t d a q => exact decode_strmQuery t d a q rfl
  | xexp t a => exact decode_xexp t a rfl
  | xbar t => exact decode_xbar t rfl
  | xstat t d => exact decode_xstat t d rfl
  | hailSend t d a => exact decode_hailSend t d a rfl
  | hailMask t d a => exact decode_hailMask t d a rfl
  | hailTake t d a => exact decode_hailTake t d a rfl
  | hailRet t => exact decode_hailRet t rfl
  | hailPend t d a => exact decode_hailPend t d a rfl
  | hailPerm t d a => exact decode_hailPerm t d a rfl
  | sysTrap t n => exact decode_sysTrap t n rfl
  | sysSvc t n => exact decode_sysSvc t n rfl
  | sysEret t a => exact decode_sysEret t a rfl
  | sysBkpt t n => exact decode_sysBkpt t n rfl
  | sysYield t => exact decode_sysYield t rfl
  | sysWaiti t d a => exact decode_sysWaiti t d a rfl
  | sysHalt t d a => exact decode_sysHalt t d a rfl
  | sysVdist t d a b => exact decode_sysVdist t d a b rfl
  | sysVdie t d a => exact decode_sysVdie t d a rfl
  | sysFmap t d a => exact decode_sysFmap t d a rfl
  | sysFretry t d a => exact decode_sysFretry t d a rfl
  | sysFskip t d a => exact decode_sysFskip t d a rfl
  | sysFabort t d a => exact decode_sysFabort t d a rfl
  | sysCtxsw t d a => exact decode_sysCtxsw t d a rfl
  | sysCtxld t d a => exact decode_sysCtxld t d a rfl
  | sysCodefence t => exact decode_sysCodefence t rfl
  | immx imm => exact decode_immx imm rfl
  | _ => exact Bool.noConfusion hword

/-- R8, R24: the four bytes of an instruction are read back as its word, and what follows them is left. -/
theorem decodeBytes_encodeBytes (i : Instr) (rest : List Byte) :
    decodeBytes (encodeBytes i ++ rest) = (decode (BitVec.ofNat 32 (encodeNat i))).map (·, rest) := by
  have hbytes : BitVec.ofNat 32 (encodeNat i % 256 + 256 * (encodeNat i / 256 % 256) + 65536 * (encodeNat i / 65536 % 256) +
      16777216 * (encodeNat i / 16777216 % 256)) = BitVec.ofNat 32 (encodeNat i) :=
    BitVec.eq_of_toNat_eq (by simp only [BitVec.toNat_ofNat]; omega)
  simp [decodeBytes, encodeBytes, List.range, List.range.loop, hbytes]

end Sys2Proof.Laws.DecodeWord

/-- Settles O1: the bytes are put together to the instruction's word, and each row of the opcode map reads its own fields back. -/
theorem decodeOfEncode : Obligations.DecodeOfEncode := by
  intro i rest hword _
  rw [Sys2Proof.Laws.DecodeWord.decodeBytes_encodeBytes, Sys2Proof.Laws.DecodeWord.decode_encode i hword]
  rfl

end

section
/-! PROOFS. The checks of a word (R49): every word goes through `issue`, and `gate` is decided by the checks in their order. -/

namespace Sys2Proof.Machine

/-- Every word goes through `issue`, with a body of its own. -/
theorem exec_eq_issue (i : Instr) (s : State) (hword : i.hasWord = true) :
    ∃ body : ThreadId → State → Did, exec i s = issue i s body := by
  cases i
  case fpctlReseed | tlbinvPage | tlbinvAllpages | tlbinvAllasid | ctxreqRequest | ctxreqNow | ctxreqDestroy |
    noticePop | pwrctlPoint | pwrctlGate | registerWrite | gateTest | placementStep | groupRetire | gridEnd |
    loadReply | sliceAtomic | dirtyWriteback | streamBufferFlush | accumulatorRotate | xstoreDelivery |
    cpyCollectiveStart | gatherRun | binscatRun | batchComplete | weightLoad | mmaTurn | maccTurn | cbloadTurn |
    meetTurn | landingArrival | landingTimeout | strmTurn | hailAccept | hostHailMessage | unpark | preemptDeadline |
    contextSave | contextRestore | functionSwitch | serviceImageLoad | borderChange | borderDeadline |
    partitionWindowEnd | securityAlarm | flitReceive | replayTimeout | linkRetrain | requestResend | peerAccess |
    hostSnoop | hostMemAccess | pointChangeDone | diePowerOff | ungateDone | thermalStep | thermalTrip | powerUp |
    dieTrained | mctpMessage | waitiTimeReached | packagePortTraining | cxlPortTraining | backInvalidationResponse |
    bar0RegisterWrite | partitionCreation =>
    exact Bool.noConfusion hword
  all_goals
    unfold exec
    exact ⟨_, rfl⟩

/-- R12: a word whose checks trap takes the trap at its word. -/
theorem exec_trap {i : Instr} {s : State} {tr : Trap} (hword : i.hasWord = true) (h : gate i s = .trap tr) :
    exec i s = .next (s.trapped i tr) := by
  obtain ⟨body, hbody⟩ := exec_eq_issue i s hword
  rw [hbody, issue_trap h]

/-- R13: a word whose checks make it wait is not begun. -/
theorem exec_wait {i : Instr} {s : State} (hword : i.hasWord = true) (h : gate i s = .wait) :
    exec i s = .next (s.stay s) := by
  obtain ⟨body, hbody⟩ := exec_eq_issue i s hword
  rw [hbody, issue_wait h]

/-- The checks of R49 that come before those of levels and registers. -/
def State.decodes (s : State) (i : Instr) : Prop :=
  s.held s.cur = false ∧ s.targetFull s.cur i = false ∧ misplaced s.cur (shape i) = false ∧ i.wf = true ∧
    (s.pfx.isSome = true → (shape i).wide = true) ∧ s.beyond s.cur (shape i) = false

/-- R49 steps 1 and 2: a hold and a full queue first, then the Illegal Instruction traps. -/
theorem gate_illegal {i : Instr} {s : State} (hheld : s.held s.cur = false) (hfull : s.targetFull s.cur i = false)
    (h : misplaced s.cur (shape i) = true ∨ i.wf = false ∨ (s.pfx.isSome = true ∧ (shape i).wide = false) ∨
      s.beyond s.cur (shape i) = true) : gate i s = .trap Trap.illegal := by
  unfold gate
  simp only [hheld, hfull, Bool.or_self, Bool.false_eq_true, if_false]
  split
  · rfl
  · rw [if_pos]
    simp_all [or_assoc]

/-- The checks of R49 that follow those of steps 1 and 2. -/
def State.laterChecks (s : State) (i : Instr) : Gate :=
  if levelOf s.cur < (shape i).level then .trap Trap.privilege
  else
    match srGate i (levelOf s.cur), s.noJetty s.cur (shape i) with
    | some tr, _ => .trap tr
    | none, some j => .trap { kind := 0x0C, cause := 4, index := j }
    | none, none =>
      match s.emptySource s.cur (shape i) with
      | some r => if (shape i).t then .trap (Trap.emptyRead r) else .wait
      | none =>
        match s.poisonedSource s.cur (shape i) with
        | some tr => .trap tr
        | none => if s.pendingTarget s.cur (shape i) || s.acquiring s.cur then .wait else .run

theorem gate_of_decodes {i : Instr} {s : State} (h : s.decodes i) : gate i s = s.laterChecks i := by
  obtain ⟨hheld, hfull, hplace, hwf, hpfx, hbeyond⟩ := h
  have hill : (!i.wf || (s.pfx.isSome && !(shape i).wide) || s.beyond s.cur (shape i)) = false := by
    simp only [hwf, hbeyond]
    simpa using hpfx
  unfold gate
  simp only [hheld, hfull, hplace, hill, Bool.or_self, Bool.false_eq_true, if_false]
  rfl

/-- A word that does not pass the checks of R49 steps 1 and 2 does not begin. -/
theorem gate_ne_run {i : Instr} {s : State} (h : ¬ s.decodes i) : gate i s ≠ .run := by
  by_cases hhold : (s.held s.cur || s.targetFull s.cur i) = true
  · simp [gate, hhold]
  · obtain ⟨hheld, hfull⟩ : s.held s.cur = false ∧ s.targetFull s.cur i = false := by simpa using hhold
    rw [gate_illegal hheld hfull]
    · simp
    · by_contra hn
      simp only [not_or, Bool.not_eq_true, Bool.not_eq_false, not_and] at hn
      exact h ⟨hheld, hfull, hn.1, hn.2.1, hn.2.2.1, hn.2.2.2⟩

/-- R49: a word begins exactly when every check passes. -/
theorem gate_eq_run_iff (i : Instr) (s : State) :
    gate i s = .run ↔ s.decodes i ∧ (shape i).level ≤ levelOf s.cur ∧ srGate i (levelOf s.cur) = none ∧
      s.noJetty s.cur (shape i) = none ∧ s.emptySource s.cur (shape i) = none ∧ s.poisonedSource s.cur (shape i) = none ∧
      s.pendingTarget s.cur (shape i) = false ∧ s.acquiring s.cur = false := by
  by_cases hd : s.decodes i
  · rw [gate_of_decodes hd, State.laterChecks]
    by_cases hl : levelOf s.cur < (shape i).level
    · simp [hl]
    · rw [if_neg hl]
      cases hsr : srGate i (levelOf s.cur) with
      | some tr => simp
      | none =>
        cases hj : s.noJetty s.cur (shape i) with
        | some j => simp
        | none =>
          cases he : s.emptySource s.cur (shape i) with
          | some r => cases (shape i).t <;> simp
          | none =>
            cases hp : s.poisonedSource s.cur (shape i) with
            | some tr => simp
            | none => simp [hd, not_lt.1 hl]
  · simp [gate_ne_run hd, hd]

/-- R10, R11: an empty source of a word that passes the checks before it. -/
theorem gate_empty {i : Instr} {s : State} {r : Nat} (h : s.decodes i) (hl : (shape i).level ≤ levelOf s.cur)
    (hsr : srGate i (levelOf s.cur) = none) (hj : s.noJetty s.cur (shape i) = none)
    (he : s.emptySource s.cur (shape i) = some r) :
    gate i s = if (shape i).t then .trap { kind := 0x03, index := r } else .wait := by
  rw [gate_of_decodes h, State.laterChecks, if_neg (not_lt.2 hl), hsr, hj, he]
  rfl

end Sys2Proof.Machine

open Sys2Proof Sys2Proof.Machine in
/-- Settles O7: the exact condition is the chain of checks of `gate`; a word that they stop goes through `issue`. -/
theorem checksOfAWord : Obligations.ChecksOfAWord := by
  refine ⟨fun i s => ?_, fun i s hword => ⟨fun tr h => exec_trap hword h, exec_wait hword⟩, ?_⟩
  · rw [gate_eq_run_iff]
    simp only [State.decodes, and_assoc]
  · intro i s r hword hheld hfull hplace hwf hpfx hbeyond hl hsr hj he
    have hgate := gate_empty ⟨hheld, hfull, hplace, hwf, hpfx, hbeyond⟩ hl hsr hj he
    cases ht : (shape i).t with
    | true => exact exec_trap hword (by rw [hgate, ht]; rfl)
    | false => exact exec_wait hword (by rw [hgate, ht]; rfl)

end

section
/-! PROOFS. Illegal and privileged words (R17, R20, R49). -/

namespace Sys2Proof.Machine

/-- R20: a register of the Supervisor or Monitor range is read at level 1 or 2. -/
theorem srRow_level {n rd wr : Nat} (hn : 0x200 ≤ n) (h : srRow n = some (rd, wr)) : 0 < rd := by
  have htable : ∀ e ∈ srTable, 0x200 ≤ e.1 → 0 < e.2.1 := by decide
  obtain ⟨e, he, hrow⟩ := Option.map_eq_some_iff.1 h
  have hnum : e.1 = n := by simpa using List.find?_some he
  have := htable e (List.mem_of_find?_eq_some he) (hnum ▸ hn)
  rwa [hrow] at this

/-- R20: a thread of User level that names such a register. -/
theorem srGate_privilege {t : Bool} {d a : BitVec 6} {n : BitVec 12} (hn : 0x200 ≤ n.toNat) (hwf : (Instr.sr t d a n).wf = true) :
    srGate (.sr t d a n) 0 = some Trap.privilege := by
  have hrow : (srRow n.toNat).isSome = true := (Bool.and_eq_true _ _ ▸ hwf : _ ∧ _).2
  obtain ⟨⟨rd, wr⟩, h⟩ := Option.isSome_iff_exists.1 hrow
  simp only [srGate, h, srRow_level hn h, if_true]

/-- A word that names no v register, no tile and no engine, and that every thread may execute, passes the checks of R49
steps 1 and 2 in a thread of User level. -/
theorem State.decodes_anywhere {s : State} {i : Instr} (huser : levelOf s.cur = 0) (hheld : s.held s.cur = false) (hpfx : s.pfx = none)
    (hwf : i.wf = true) (hengine : engineOf i = none) (hl1 : usesL1 i = false) (hlane : (shape i).lane = false)
    (hplace : (shape i).place = .anywhere) (hnames : (shape i).names = []) (htiles : (shape i).tiles = []) : s.decodes i := by
  refine ⟨hheld, ?_, ?_, hwf, by simp [hpfx], ?_⟩
  · cases s.cur <;> simp [State.targetFull, hengine, hl1]
  · cases hc : s.cur <;> simp_all [misplaced, levelOf]
  · cases s.cur <;> simp [State.beyond, hnames, htiles]

end Sys2Proof.Machine

open Sys2Proof Sys2Proof.Machine in
/-- Settles O8: `gate` answers with the trap, whose word goes through `issue`. -/
theorem illegalAndPrivilegedWordsTrap : Obligations.IllegalAndPrivilegedWordsTrap := by
  refine ⟨fun i s hword hheld hfull h => exec_trap hword (gate_illegal hheld hfull h), fun s t d a n huser hheld hpfx => ⟨?_, ?_⟩⟩
  · intro i hi hwf
    have hgate : gate i s = .trap Trap.privilege := by
      rcases hi with rfl | rfl | rfl | rfl <;>
      · rw [gate_of_decodes (State.decodes_anywhere huser hheld hpfx hwf rfl rfl rfl rfl rfl rfl), State.laterChecks, huser]
        rfl
    rcases hi with rfl | rfl | rfl | rfl <;> exact exec_trap rfl hgate
  · intro hn hwf
    refine exec_trap rfl ?_
    rw [gate_of_decodes (State.decodes_anywhere huser hheld hpfx hwf rfl rfl rfl rfl rfl rfl), State.laterChecks, huser,
      srGate_privilege hn hwf]
    rfl

end

section
/-! PROOFS. Uniform registers and operand forms (R6, R7, R11, R26, R28, R71, R129). -/

namespace Sys2Proof.Machine

/-- Bit j of a vector after bit i has been set to b. -/
theorem getLsbD_setBit {n : Nat} (x : BitVec n) (i j : Nat) (b : Bool) (hj : j < n) :
    (setBit x i b).getLsbD j = if j = i then b else x.getLsbD j := by
  have hbit : (BitVec.ofNat n (2 ^ i)).getLsbD j = decide (j = i) := by
    rw [BitVec.getLsbD_ofNat, Nat.testBit_two_pow, decide_eq_true hj, Bool.true_and]
    exact decide_eq_decide.2 eq_comm
  cases b <;> simp only [setBit, if_true, Bool.false_eq_true, if_false, BitVec.getLsbD_or, BitVec.getLsbD_and, BitVec.getLsbD_not, hbit]
  all_goals by_cases hij : j = i
  all_goals simp [hij, hj]

theorem Uni.empty_putW (u : Uni) (r j : Nat) (x : W64) (hj : j < 64) :
    (u.putW r x).empty.getLsbD j = if j = r ∧ r ≠ 0 then false else u.empty.getLsbD j := by
  by_cases hr : r = 0
  · simp [Uni.putW, hr]
  · simp [Uni.putW, hr, getLsbD_setBit _ _ _ _ hj]

theorem Uni.poison_putW (u : Uni) (r j : Nat) (x : W64) (hj : j < 64) :
    (u.putW r x).poison.getLsbD j = if j = r ∧ r ≠ 0 then false else u.poison.getLsbD j := by
  by_cases hr : r = 0
  · simp [Uni.putW, hr]
  · simp [Uni.putW, hr, getLsbD_setBit _ _ _ _ hj]

/-- R7: a predicate after a write of one; `k7` reads as 1. -/
theorem Uni.getK_putK (u : Uni) (c j : Nat) (b : Bool) (hj : j < 8) :
    (u.putK c b).getK j = if j = c ∧ c ≠ 7 then b else u.getK j := by
  by_cases hc : c = 7
  · simp [hc]
  · by_cases h7 : j = 7
    · simp [h7, Ne.symm hc]
    · simp [Uni.putK, Uni.getK, hc, h7, getLsbD_setBit _ _ _ _ hj]

end Sys2Proof.Machine

open Sys2Proof Sys2Proof.Machine in
/-- Settles O11: reads after writes register by register, and the operand forms by the selector. -/
theorem registersAndOperandForms : Obligations.RegistersAndOperandForms := by
  refine ⟨fun u r j x b hr hj => ⟨?_, rfl, ?_, rfl, fun h0 => ⟨?_, ?_⟩, fun hne => ⟨?_, ?_⟩⟩, ?_, ?_⟩
  · by_cases h0 : r = 0
    · simp [h0]
    · simp [Uni.getW_putW u r j x h0, h0]
  · exact Uni.getK_putK u _ _ b (Nat.mod_lt _ (by decide))
  · simp [Uni.empty_putW u r r x hr, h0]
  · simp [Uni.poison_putW u r r x hr, h0]
  · simp [Uni.empty_putW u r j x hj, hne]
  · simp [Uni.poison_putW u r j x hj, hne]
  · exact fun s t b => ⟨rfl, rfl, rfl⟩
  · intro s g k l b
    refine ⟨rfl, ?_, ?_, ?_⟩
    · show (s.getW (.gang g k) (b.toNat % 64)).setWidth 32 = _
      exact BitVec.eq_of_toNat_eq (by simp)
    · show ((s.jetty (s.cptOf (.gang g k)) (b.toNat % 64)).value).setWidth 32 = _
      exact BitVec.eq_of_toNat_eq (by simp)
    · rfl

end

section
/-! PROOFS. One step (R13, R49): what comes before the word of the current thread is fetched, and what the fetched word comes to. -/

namespace Sys2Proof.Machine

/-- What a step begins with: the state itself where `pfx` is set (R33), else that in which the saves that are due have begun (R332). -/
def State.beforeTurn (s : State) : State := if s.pfx.isSome then s else s.beginSaves

/-- A step with no turn before it runs the word of the current thread. -/
theorem step_runThread {s : State} (h : s.pfx.isSome = true ∨ s.beforeTurn.agenda = []) :
    step s = s.beforeTurn.runThread s.beforeTurn.cur := by
  cases hp : s.pfx.isSome with
  | true => simp only [step, State.advance, State.beforeTurn, hp, if_true]
  | false =>
    have ha : s.beginSaves.agenda = [] := by simpa [State.beforeTurn, hp] using h
    simp only [step, State.advance, State.beforeTurn, hp, Bool.false_eq_true, if_false, State.move, ha]

/-- A step with a turn before it runs that turn. -/
theorem step_runTurn {s : State} {turn : Turn} {rest : List Turn} (hp : s.pfx = none) (ha : s.beginSaves.agenda = turn :: rest) :
    step s = ({ s.beginSaves with agenda := rest } : State).runTurn turn := by
  simp only [step, State.advance, hp, Option.isSome_none, Bool.false_eq_true, if_false, State.move, ha]

section

variable {b s1 : State} (hrun : b.runnable b.cur = true) (hmeet : b.meetWord b.cur = b)

include hrun hmeet

/-- R367: a fetch of a line that the host may hold waits. -/
theorem prepare_snoops {u : State} (h : b.snoopHost (b.fetchLines b.cur (b.pcOf b.cur)) = some u) :
    b.prepare b.cur = .stop ((u.unbegun u.wordPc).setWaiting b.cur true) := by
  unfold State.prepare
  simp only [hrun, if_true, hmeet, h]

/-- R49: what a fetched word comes to. -/
theorem prepare_word {w : W32} (hs : b.snoopHost (b.fetchLines b.cur (b.pcOf b.cur)) = none)
    (hf : b.fetchWord b.cur (b.pcOf b.cur) = (s1, .word w)) :
    (∀ i, decode w = .ok i → b.prepare b.cur = .run i s1) ∧
    (∀ e, decode w = .error e → b.prepare b.cur = .stop
      (if b.held b.cur = true then (s1.unbegun s1.wordPc).setWaiting b.cur true
        else (s1.unbegun s1.wordPc).takeTrap b.cur Trap.illegal s1.wordPc s1.wordPc w)) := by
  unfold State.prepare
  simp only [hrun, if_true, hmeet, hs, hf]
  refine ⟨fun i hi => by simp only [hi], fun x hx => ?_⟩
  cases hheld : b.held b.cur <;> simp only [hx, Bool.false_eq_true, if_true, if_false]

end

end Sys2Proof.Machine

open Sys2Proof Sys2Proof.Machine in
/-- Settles O4: a step comes to `runThread` or `runTurn`, and `prepare` says what the fetched word comes to. -/
theorem stepRunsDecodedWord : Obligations.StepRunsDecodedWord := by
  refine ⟨fun s s1 w => ?_, fun s rest => ?_⟩
  · intro b hturn hrun hmeet
    have hstep : step s = b.runThread b.cur := step_runThread hturn
    refine ⟨fun u hu => ?_, fun hs hf => ?_⟩
    · rw [hstep, State.runThread, prepare_snoops hrun hmeet hu]
    · obtain ⟨hok, herr⟩ := prepare_word hrun hmeet hs hf
      refine ⟨fun i hi => ?_, fun e he hheld => ?_, fun e he hheld => ?_⟩
      · rw [hstep, State.runThread, hok i hi]
      · rw [hstep, State.runThread, herr e he, if_pos hheld]
      · rw [hstep, State.runThread, herr e he, if_neg (by simp [hheld])]
  · intro b hp
    refine ⟨fun e hword ha => ?_, fun t ha => ?_⟩
    · rw [step_runTurn hp ha, State.runTurn, hword]
      rfl
    · rw [step_runTurn hp ha, State.runTurn]

end

section
/-! PROOFS. Bytes of memory as numbers, and a fetch that fills its sector (R8, R14, R24, R184). -/

namespace Sys2Proof.Machine

/-! ### Reads of several bytes -/

theorem memRead_lt (m : List Host.Cell) (a n : Nat) : memRead m a n < 256 ^ n := by
  induction n generalizing a with
  | zero => simp [memRead]
  | succ n ih =>
    have hb := (memByte m a).isLt
    have := ih (a + 1)
    rw [memRead, Nat.pow_succ]
    omega

/-- A read of k + n bytes is one of k bytes and one of the n bytes that follow. -/
theorem memRead_add (m : List Host.Cell) (a k n : Nat) :
    memRead m a (k + n) = memRead m a k + 256 ^ k * memRead m (a + k) n := by
  induction k generalizing a with
  | zero => simp [memRead]
  | succ k ih =>
    rw [show k + 1 + n = (k + n) + 1 by omega, memRead, ih, memRead, show a + 1 + k = a + (k + 1) by omega]
    ring

/-- n bytes from place k of a longer read. -/
theorem memRead_slice (m : List Host.Cell) {a k n l : Nat} (h : k + n ≤ l) :
    memRead m a l / 256 ^ k % 256 ^ n = memRead m (a + k) n := by
  obtain ⟨r, rfl⟩ := Nat.exists_eq_add_of_le h
  rw [show k + n + r = k + (n + r) by omega, memRead_add, Nat.add_mul_div_left _ _ (by positivity),
    Nat.div_eq_of_lt (memRead_lt _ _ _), Nat.zero_add, memRead_add, Nat.add_mul_mod_self_left,
    Nat.mod_eq_of_lt (memRead_lt _ _ _)]

/-- R8, R24: the word at an address, its bytes the lowest first. -/
theorem ofNat_memRead_four (m : List Host.Cell) (a : Nat) :
    BitVec.ofNat 32 (memRead m a 4) = (memByte m (a + 3) ++ memByte m (a + 2)) ++ (memByte m (a + 1) ++ memByte m a) := by
  have h0 := (memByte m a).isLt
  have h1 := (memByte m (a + 1)).isLt
  have h2 := (memByte m (a + 2)).isLt
  have h3 := (memByte m (a + 3)).isLt
  apply BitVec.eq_of_toNat_eq
  have hlow : (memByte m (a + 1)).toNat <<< 8 + (memByte m a).toNat < 2 ^ 16 := by rw [Nat.shiftLeft_eq]; omega
  simp only [BitVec.toNat_append, BitVec.toNat_ofNat]
  rw [← Nat.shiftLeft_add_eq_or_of_lt h2, ← Nat.shiftLeft_add_eq_or_of_lt h0, ← Nat.shiftLeft_add_eq_or_of_lt hlow]
  simp only [Nat.shiftLeft_eq, memRead, Nat.add_assoc, Nat.reduceAdd]
  omega

/-! ### The sector of an address -/

theorem regionOf_of_lt {pa : Nat} (h : pa < 2 ^ 40) : regionOf pa = .hbm := by simp only [regionOf, h, if_true]

/-- R345: the addresses of a sector of HBM stand under one key. -/
theorem State.foreign_base (s : State) {pa : Nat} (h : pa < 2 ^ 40) : s.foreign (pa / 64 * 64) = s.foreign pa := by
  have hkey : s.keyOf (pa / 64 * 64) = s.keyOf pa := by
    have hchan : pa / 64 * 64 / 2 ^ 31 = pa / 2 ^ 31 := by omega
    simp only [State.keyOf, State.ownerOf, regionOf_of_lt h, regionOf_of_lt (show pa / 64 * 64 < 2 ^ 40 by omega), hchan]
  simp only [State.foreign, Nat.mul_div_cancel _ (show 0 < 64 by decide), hkey]

theorem State.homeValue_of_native {s : State} {pa : Nat} (n : Nat) (h : s.foreign pa = none) :
    s.homeValue pa n = memRead s.mem pa n := by
  simp only [State.homeValue, h]

section

variable (s : State) (part pa : Nat) (w : Bool) (tag : Nat)

/-- An access at a home slice leaves the sectors of the L1s alone. -/
theorem State.sector?_sliceTouch (cpt a : Nat) : (s.sliceTouch part pa w tag).sector? cpt a = s.sector? cpt a := by
  obtain ⟨_, _, _, _, _, q⟩ := s.sliceTouch_eq part pa w tag
  rw [q]
  rfl

theorem State.homeValue_sliceTouch (a n : Nat) : (s.sliceTouch part pa w tag).homeValue a n = s.homeValue a n := by
  obtain ⟨_, _, _, _, _, q⟩ := s.sliceTouch_eq part pa w tag
  rw [q]
  rfl

end

/-- A load of a sector that is not held fills it and gives its bytes as the home slice has them. -/
theorem State.cachedLoad_miss {s : State} {cpt pa n : Nat} {ty : MemTy} {tag : Nat} (h : s.sector? cpt pa = none)
    (h2 : (s.makeRoom cpt pa).sector? cpt pa = none) :
    (s.cachedLoad cpt ty pa n tag).2 =
      ((BitVec.ofNat 512 ((s.makeRoom cpt pa).homeValue (pa / 64 * 64) 64)).toNat / 2 ^ (8 * (pa % 64)) % 2 ^ (8 * n),
        s.badAt pa && !decide ((0 : BitVec 64) &&& byteMask (pa % 64) n = byteMask (pa % 64) n)) := by
  simp only [State.cachedLoad, h, State.fillSector, State.sector?_sliceTouch, h2, State.homeValue_sliceTouch]

/-- R184: a fetch by a core that holds no copy, of a page of SHARED memory, is a load through the L1. -/
theorem State.fetchWord_shared {s s1 : State} {t : ThreadId} {pc : Addr} {pa : Nat}
    (htr : s.translate (s.spaceOf t) pc.toNat .fetch (levelOf t == 0) = (s1, .ok ⟨pa, .shared⟩)) (hpa : pa < 2 ^ 40)
    (howns : s1.owns (s1.partOfCpt (s1.cptOf t)) pa = true)
    (hcopy : s1.icache.find? (2 ^ 50 * s1.fetchCore t + pa / 4) = none)
    (hclean : (s1.cachedLoad (s1.cptOf t) .shared pa 4 (s1.threadTag t)).2.2 = false) :
    (s.fetchWord t pc).2 = .word (BitVec.ofNat 32 (s1.cachedLoad (s1.cptOf t) .shared pa 4 (s1.threadTag t)).2.1) := by
  have hload : s1.loadBytes (s1.cptOf t) ⟨pa, .shared⟩ 4 (s1.threadTag t) =
      s1.cachedLoad (s1.cptOf t) .shared pa 4 (s1.threadTag t) := by
    simp only [State.loadBytes, howns, Bool.true_eq_false, false_and, if_false, regionOf_of_lt hpa]
  simp only [State.fetchWord, htr, hcopy, hload, hclean, Bool.false_eq_true, if_false]

end Sys2Proof.Machine

open Sys2Proof Sys2Proof.Machine in
/-- Settles O5: the fetch is a load that fills its sector, and the word's four bytes are a slice of the sector's 64. -/
theorem fetchReadsFourBytes : Obligations.FetchReadsFourBytes := by
  intro s s1 t pc pa htr halign hpa howns s2 hcopy hmiss hmiss2 hbad hkey
  have hlt : pa < 2 ^ 40 := by omega
  have hload := State.cachedLoad_miss (ty := .shared) (n := 4) (tag := s1.threadTag t) hmiss hmiss2
  rw [State.fetchWord_shared htr hlt howns hcopy (by rw [hload, hbad]; rfl), hload, ← ofNat_memRead_four]
  have hbase : s2.homeValue (pa / 64 * 64) 64 = memRead s2.mem (pa / 64 * 64) 64 :=
    State.homeValue_of_native 64 ((s2.foreign_base hlt).trans hkey)
  have hsector : memRead s2.mem (pa / 64 * 64) 64 % 2 ^ 512 = memRead s2.mem (pa / 64 * 64) 64 :=
    Nat.mod_eq_of_lt ((memRead_lt _ _ 64).trans_eq (by rw [show (256 : Nat) = 2 ^ 8 by rfl, ← pow_mul]))
  have hslice := memRead_slice s2.mem (a := pa / 64 * 64) (k := pa % 64) (n := 4) (l := 64) (by omega)
  rw [show pa / 64 * 64 + pa % 64 = pa by omega] at hslice
  rw [BitVec.toNat_ofNat, hbase, hsector, ← hslice, show (256 : Nat) = 2 ^ 8 by rfl, ← pow_mul, ← pow_mul]

end

section
/-! PROOFS. The physical address of a leaf (R180, R181): the model counts it modulo the 52 bits of a physical address. -/

namespace Sys2Proof.Machine

/-- A SHARED leaf whose FRAME is the last page of the address space. -/
def lastFrame : W64 := 0x000FFFFFFFFFF000

/-- The second page of a 1 GiB page that starts at the last frame lies at address 0, not at 2^52. -/
theorem leafCheck_lastFrame : leafCheck lastFrame 2 4096 .load false = .ok ⟨0, .shared⟩ := by rfl

end Sys2Proof.Machine

open Sys2Proof Sys2Proof.Machine in
/-- Refutes O27: in its last clause the address at a leaf is FRAME plus the offset in the page, with no reduction; for FRAME
0xFFFFFFFFFF000 at level 2 and the address 4096 that sum is 2^52, and the model's `leafCheck` gives 0. -/
theorem not_memoryChecks : ¬ Obligations.MemoryChecks := by
  rintro ⟨-, hleaf⟩
  obtain ⟨-, -, hok⟩ := hleaf lastFrame 2 4096 .load false .shared rfl
  have h := hok (by decide) rfl
  rw [leafCheck_lastFrame] at h
  have hpa : (0 : Nat) = lastFrame.toNat / 2 ^ 12 % 2 ^ 40 * 2 ^ 12 + 4096 % pageSize 2 :=
    congrArg Phys.pa (Except.ok.inj h)
  exact absurd hpa (by decide)

end

section
/-! PROOFS. The bytes of a sector (R8, R184): masks of bytes, merging, and what a store through a coherence point leaves each
byte as. -/

namespace Sys2Proof.Machine

/-! ### Masks of bytes -/

theorem getLsbD_byteMask {i n j : Nat} (hj : j < 64) : (byteMask i n).getLsbD j = decide (i ≤ j ∧ j < i + n) := by
  rw [byteMask, BitVec.getLsbD_ofNat, decide_eq_true hj, Bool.true_and, ← Nat.shiftLeft_eq, Nat.testBit_shiftLeft,
    Nat.testBit_two_pow_sub_one]
  by_cases h : i ≤ j
  · simp [h, show j - i < n ↔ j < i + n by omega]
  · simp [h]

/-- A bit of the mask of 512 bits: that of its byte. -/
theorem getLsbD_spread (m : BitVec 64) {b : Nat} (hb : b < 512) : (spread m).getLsbD b = m.getLsbD (b / 8) := by
  have hfold : ∀ (l : List Nat) (acc : BitVec 512),
      (l.foldl (fun acc i => if m.getLsbD i then acc ||| BitVec.ofNat 512 (255 * 2 ^ (8 * i)) else acc) acc).getLsbD b =
        (acc.getLsbD b || l.any fun i => m.getLsbD i && decide (b / 8 = i)) := by
    intro l
    induction l with
    | nil => simp
    | cons i l ih =>
      intro acc
      have hbyte : (BitVec.ofNat 512 (255 * 2 ^ (8 * i))).getLsbD b = decide (b / 8 = i) := by
        rw [BitVec.getLsbD_ofNat, decide_eq_true hb, Bool.true_and, ← Nat.shiftLeft_eq, Nat.testBit_shiftLeft,
          show 255 = 2 ^ 8 - 1 by rfl, Nat.testBit_two_pow_sub_one, ← Bool.decide_and, decide_eq_decide]
        omega
      rw [List.foldl_cons, ih, List.any_cons]
      cases hm : m.getLsbD i
      · simp
      · rw [if_pos rfl, BitVec.getLsbD_or, hbyte, Bool.true_and, Bool.or_assoc]
  rw [spread, hfold]
  have hmem : b / 8 ∈ List.range 64 := List.mem_range.2 (by omega)
  cases hm : m.getLsbD (b / 8) with
  | true =>
    have : (List.range 64).any (fun i => m.getLsbD i && decide (b / 8 = i)) = true := List.any_eq_true.2 ⟨_, hmem, by simp [hm]⟩
    simp [this]
  | false =>
    have : (List.range 64).any (fun i => m.getLsbD i && decide (b / 8 = i)) = false := by
      rw [List.any_eq_false]
      intro i _
      by_cases hi : b / 8 = i
      · simp [← hi, hm]
      · simp [hi]
    simp [this]

/-! ### Bytes of a sector -/

/-- Byte j of the 64 of a sector. -/
def sectorByte (x : BitVec 512) (j : Nat) : Byte := BitVec.ofNat 8 (x.toNat / 2 ^ (8 * j))

theorem getLsbD_sectorByte (x : BitVec 512) (j : Nat) {k : Nat} (hk : k < 8) :
    (sectorByte x j).getLsbD k = x.getLsbD (8 * j + k) := by
  rw [sectorByte, BitVec.getLsbD_ofNat, decide_eq_true hk, Bool.true_and, Nat.testBit_div_two_pow, Nat.add_comm]
  rfl

/-- Each byte of a merge comes from the first value or from the second. -/
theorem sectorByte_mergeBytes (m : BitVec 64) (x y : BitVec 512) {j : Nat} (hj : j < 64) :
    sectorByte (mergeBytes m x y) j = if m.getLsbD j then sectorByte x j else sectorByte y j := by
  apply BitVec.eq_of_getLsbD_eq
  intro k hk
  have hb : 8 * j + k < 512 := by omega
  have hspread : (spread m).getLsbD (8 * j + k) = m.getLsbD j := by
    rw [getLsbD_spread m hb, show (8 * j + k) / 8 = j by omega]
  rw [getLsbD_sectorByte _ _ hk, mergeBytes, BitVec.getLsbD_or, BitVec.getLsbD_and, BitVec.getLsbD_and, BitVec.getLsbD_not, hspread]
  cases m.getLsbD j <;> simp [getLsbD_sectorByte _ _ hk, hb]

/-- R8: byte k of the n bytes of a value that stand from place i of a sector. -/
theorem sectorByte_placed {i n k : Nat} (v : Nat) (hk : k < n) (hn : i + n ≤ 64) :
    sectorByte (BitVec.ofNat 512 (v % 2 ^ (8 * n) * 2 ^ (8 * i))) (i + k) = BitVec.ofNat 8 (v / 2 ^ (8 * k)) := by
  apply BitVec.eq_of_getLsbD_eq
  intro b hb
  rw [getLsbD_sectorByte _ _ hb, BitVec.getLsbD_ofNat, BitVec.getLsbD_ofNat, decide_eq_true (show 8 * (i + k) + b < 512 by omega),
    decide_eq_true hb, Bool.true_and, Bool.true_and, ← Nat.shiftLeft_eq, Nat.testBit_shiftLeft, Nat.testBit_mod_two_pow,
    Nat.testBit_div_two_pow, decide_eq_true (show 8 * i ≤ 8 * (i + k) + b by omega), Bool.true_and,
    show 8 * (i + k) + b - 8 * i = b + 8 * k by omega, decide_eq_true (show b + 8 * k < 8 * n by omega), Bool.true_and]

/-- Byte k of n bytes read from place i of a sector. -/
theorem ofNat_slice (x : BitVec 512) {i n k : Nat} (hk : k < n) :
    BitVec.ofNat 8 (x.toNat / 2 ^ (8 * i) % 2 ^ (8 * n) / 2 ^ (8 * k)) = sectorByte x (i + k) := by
  apply BitVec.eq_of_getLsbD_eq
  intro b hb
  rw [getLsbD_sectorByte _ _ hb, BitVec.getLsbD_ofNat, decide_eq_true hb, Bool.true_and, Nat.testBit_div_two_pow,
    Nat.testBit_mod_two_pow, Nat.testBit_div_two_pow, decide_eq_true (show b + 8 * k < 8 * n by omega), Bool.true_and]
  exact congrArg (Nat.testBit x.toNat) (by omega)

/-! ### Addresses of one sector -/

/-- R173: an address lies in the region of its sector. -/
theorem regionOf_congr {a b : Nat} (h : a / 64 = b / 64) : regionOf a = regionOf b := by
  have h40 : a < 2 ^ 40 ↔ b < 2 ^ 40 := by omega
  have hdev : a / 2 ^ 40 = 0xF0 ↔ b / 2 ^ 40 = 0xF0 := by omega
  have h48 : a < 2 ^ 48 ↔ b < 2 ^ 48 := by omega
  have h51 : a < 2 ^ 51 ↔ b < 2 ^ 51 := by omega
  have h52 : a < 2 ^ 52 ↔ b < 2 ^ 52 := by omega
  simp only [regionOf, h40, hdev, h48, h51, h52]

/-- R345: the addresses of a sector stand under one key. -/
theorem State.keyOf_congr (s : State) {a b : Nat} (h : a / 64 = b / 64) : s.keyOf a = s.keyOf b := by
  have hchan : a / 2 ^ 31 = b / 2 ^ 31 := by omega
  simp only [State.keyOf, State.ownerOf, regionOf_congr h, hchan]

theorem State.foreign_congr (s : State) {a b : Nat} (h : a / 64 = b / 64) : s.foreign a = s.foreign b := by
  simp only [State.foreign, h, s.keyOf_congr h]

theorem recipher_congr (new old : BitVec 512) (m : List Host.Cell) {a b : Nat} (h : a / 64 = b / 64) :
    recipher new old a m = recipher new old b m := by
  have hunit : a % 2 ^ 52 / 128 = b % 2 ^ 52 / 128 := by omega
  simp only [recipher, h, hunit]

/-- R345: the bytes of a sector, as its partition reads them, come from one memory. -/
theorem State.homeValue_sector (s : State) (pa : Nat) :
    ∃ m : List Host.Cell, ∀ a n, a / 64 = pa / 64 → s.homeValue a n = memRead m a n := by
  cases hf : s.foreign pa with
  | none =>
    exact ⟨s.mem, fun a n ha => State.homeValue_of_native n ((s.foreign_congr ha).trans hf)⟩
  | some k =>
    refine ⟨recipher (s.keyOf pa) k pa s.mem, fun a n ha => ?_⟩
    simp only [State.homeValue, s.foreign_congr ha, hf, s.keyOf_congr ha, recipher_congr _ _ _ ha]

/-- Byte j of a sector as the home slice gives it. -/
theorem State.sectorByte_home (s : State) (pa : Nat) {j : Nat} (hj : j < 64) :
    sectorByte (BitVec.ofNat 512 (s.homeValue (pa / 64 * 64) 64)) j = s.homeByte (pa / 64 * 64 + j) := by
  obtain ⟨m, hm⟩ := s.homeValue_sector pa
  rw [State.homeByte, hm _ 64 (by omega), hm _ 1 (by omega)]
  have hlt : memRead m (pa / 64 * 64) 64 < 2 ^ 512 :=
    (memRead_lt _ _ 64).trans_eq (by rw [show (256 : Nat) = 2 ^ 8 by rfl, ← pow_mul])
  have hslice := memRead_slice m (a := pa / 64 * 64) (k := j) (n := 1) (l := 64) (by omega)
  rw [← hslice, show (256 : Nat) = 2 ^ 8 by rfl, ← pow_mul]
  apply BitVec.eq_of_toNat_eq
  simp only [sectorByte, BitVec.toNat_ofNat, Nat.mod_eq_of_lt hlt]
  simp

/-! ### A store through a coherence point -/

theorem l1Key_inj {c d a b : Nat} (ha : a < 2 ^ 52) (hb : b < 2 ^ 52) : l1Key c a = l1Key d b ↔ c = d ∧ a / 64 = b / 64 := by
  simp only [l1Key]
  omega

/-- What a coherence point holds of a sector, as a store finds it: what counts as present, else a sector without valid bytes. -/
def State.storeFinds (s : State) (cpt : Nat) (ty : MemTy) (pa : Nat) (va : W64) (tag : Nat) : Sector :=
  (s.sector? cpt pa).getD { ty := ty, data := 0, valid := 0, dirty := 0, stamp := s.time, since := s.time, va := va, tag := tag }

/-- R184: the sector that a store leaves. -/
def State.storeLeaves (s : State) (cpt : Nat) (ty : MemTy) (pa n v : Nat) (va : W64) (tag : Nat) : Sector :=
  let x := s.storeFinds cpt ty pa va tag
  { x with
    data := mergeBytes (byteMask (pa % 64) n) (BitVec.ofNat 512 (v % 2 ^ (8 * n) * 2 ^ (8 * (pa % 64)))) x.data
    valid := x.valid ||| byteMask (pa % 64) n
    dirty := x.dirty ||| byteMask (pa % 64) n
    va := va - BitVec.ofNat 64 (va.toNat % 64)
    tag := tag
    since := if x.dirty = 0 then s.time else x.since }

section

variable (s : State) (cpt : Nat) (ty : MemTy) (pa n v : Nat) (va : W64) (tag : Nat)

/-- R184: a store that needs no room changes one sector of its point. -/
theorem State.cachedStore_eq (hroom : s.makeRoom cpt pa = s) :
    s.cachedStore cpt ty pa n v va tag = { s with l1 := s.l1.insert (l1Key cpt pa) (s.storeLeaves cpt ty pa n v va tag) } := by
  unfold State.cachedStore
  rw [hroom]
  rfl

/-- The lease of the sector that a store leaves may have passed only where the bytes valid before were the dirty ones (R201). -/
theorem State.valid_storeLeaves (h : s.lapsed cpt (s.storeLeaves cpt ty pa n v va tag) = true) :
    (s.storeLeaves cpt ty pa n v va tag).valid = (s.storeLeaves cpt ty pa n v va tag).dirty := by
  suffices hx : (s.storeFinds cpt ty pa va tag).valid = (s.storeFinds cpt ty pa va tag).dirty from
    congrArg (· ||| byteMask (pa % 64) n) hx
  have hlapsed : s.lapsed cpt (s.storeFinds cpt ty pa va tag) = true := h
  unfold State.storeFinds at hlapsed ⊢
  cases hz : s.l1.find? (l1Key cpt pa) with
  | none => simp only [State.sector?, hz, Option.getD_none]
  | some z =>
    cases hlz : s.lapsed cpt z with
    | false => simp [State.sector?, hz, hlz] at hlapsed
    | true =>
      by_cases hd : z.dirty = 0
      · simp only [State.sector?, hz, hlz, hd, if_true, Option.getD_none]
      · simp only [State.sector?, hz, hlz, hd, if_true, if_false, Option.getD_some]

theorem dirty_storeLeaves_ne_zero (hn : 0 < n) : (s.storeLeaves cpt ty pa n v va tag).dirty ≠ 0 := by
  intro h0
  have hbit : (s.storeLeaves cpt ty pa n v va tag).dirty.getLsbD (pa % 64) = true := by
    show ((s.storeFinds cpt ty pa va tag).dirty ||| byteMask (pa % 64) n).getLsbD (pa % 64) = true
    rw [BitVec.getLsbD_or, getLsbD_byteMask (Nat.mod_lt _ (by decide))]
    simp [hn]
  rw [h0] at hbit
  simp at hbit

theorem Sector.setValid_dirty {x : Sector} (h : x.valid = x.dirty) : { x with valid := x.dirty } = x := by
  cases x
  cases h
  rfl

/-- What the points hold after a store: the stored sector at its own place, every other as before. -/
theorem State.sector?_cachedStore (hn : 0 < n) (hpa : pa < 2 ^ 52) (hroom : s.makeRoom cpt pa = s) (c a : Nat) (ha : a < 2 ^ 52) :
    (s.cachedStore cpt ty pa n v va tag).sector? c a =
      if c = cpt ∧ a / 64 = pa / 64 then some (s.storeLeaves cpt ty pa n v va tag) else s.sector? c a := by
  rw [s.cachedStore_eq cpt ty pa n v va tag hroom]
  by_cases hk : c = cpt ∧ a / 64 = pa / 64
  · have hkey : l1Key c a = l1Key cpt pa := (l1Key_inj ha hpa).2 hk
    have hd := dirty_storeLeaves_ne_zero s cpt ty pa n v va tag hn
    have hv := s.valid_storeLeaves cpt ty pa n v va tag
    rw [if_pos hk, ← hk.1] at *
    simp only [State.sector?, hkey, Tbl.find?_insert_self]
    cases hl : s.lapsed c (s.storeLeaves c ty pa n v va tag) with
    | false => exact if_neg fun h => Bool.false_ne_true (hl.symm.trans h)
    | true => exact (if_pos hl).trans ((if_neg hd).trans (congrArg some (Sector.setValid_dirty (hv hl))))
  · have hkey : l1Key c a ≠ l1Key cpt pa := fun h => hk ((l1Key_inj ha hpa).1 h)
    rw [if_neg hk]
    simp only [State.sector?, Tbl.find?_insert, hkey, if_false]
    rfl

/-- A byte of a point, by what a store to its sector finds. -/
theorem State.byteAt_storeFinds {a : Nat} (ha : a < 2 ^ 52) (hpa : pa < 2 ^ 52) (hk : a / 64 = pa / 64) :
    s.byteAt cpt a = if (s.storeFinds cpt ty pa va tag).valid.getLsbD (a % 64) then
      sectorByte (s.storeFinds cpt ty pa va tag).data (a % 64) else s.homeByte a := by
  have hsec : s.sector? cpt a = s.sector? cpt pa := by
    simp only [State.sector?, (l1Key_inj (c := cpt) (d := cpt) ha hpa).2 ⟨rfl, hk⟩]
  unfold State.byteAt State.storeFinds
  rw [hsec]
  cases s.sector? cpt pa with
  | none => simp
  | some x => rfl

/-- R8, R184: every byte of every point after a store that needs no room. -/
theorem State.byteAt_cachedStore (hn : 0 < n) (hfit : pa % 64 + n ≤ 64) (hpa : pa < 2 ^ 52) (hroom : s.makeRoom cpt pa = s)
    (c a : Nat) (ha : a < 2 ^ 52) :
    (s.cachedStore cpt ty pa n v va tag).byteAt c a =
      if c = cpt ∧ pa ≤ a ∧ a < pa + n then BitVec.ofNat 8 (v / 2 ^ (8 * (a - pa))) else s.byteAt c a := by
  have hhome : (s.cachedStore cpt ty pa n v va tag).homeByte a = s.homeByte a := by
    rw [s.cachedStore_eq cpt ty pa n v va tag hroom]
    rfl
  have hsec := s.sector?_cachedStore cpt ty pa n v va tag hn hpa hroom c a ha
  by_cases hk : c = cpt ∧ a / 64 = pa / 64
  · obtain ⟨rfl, hk⟩ := hk
    have hj : a % 64 < 64 := Nat.mod_lt _ (by decide)
    have hmask : (byteMask (pa % 64) n).getLsbD (a % 64) = decide (pa ≤ a ∧ a < pa + n) := by
      rw [getLsbD_byteMask hj, decide_eq_decide]
      omega
    rw [if_pos ⟨rfl, hk⟩] at hsec
    have hnew : (s.cachedStore c ty pa n v va tag).byteAt c a =
        if (s.storeLeaves c ty pa n v va tag).valid.getLsbD (a % 64) then
          sectorByte (s.storeLeaves c ty pa n v va tag).data (a % 64) else s.homeByte a := by
      simp only [State.byteAt, hsec, hhome, sectorByte]
    rw [hnew, s.byteAt_storeFinds c ty pa va tag ha hpa hk]
    simp only [State.storeLeaves, sectorByte_mergeBytes _ _ _ hj, BitVec.getLsbD_or, hmask]
    by_cases hin : pa ≤ a ∧ a < pa + n
    · have hplace : a % 64 = pa % 64 + (a - pa) := by omega
      have hbyte := sectorByte_placed v (i := pa % 64) (n := n) (k := a - pa) (by omega) (by omega)
      simp only [hin, and_self, decide_true, Bool.or_true, if_true]
      rw [hplace, hbyte]
    · simp [hin]
  · rw [if_neg hk] at hsec
    have hout : ¬ (c = cpt ∧ pa ≤ a ∧ a < pa + n) := fun h => hk ⟨h.1, by omega⟩
    rw [if_neg hout]
    simp only [State.byteAt, hsec, hhome]

end

/-! ### A load through a coherence point -/

/-- R8, R184: the bytes of a load, where every byte of it that the point's sector lacks is one of a sector not held. -/
theorem State.byte_cachedLoad {s : State} {cpt pa n : Nat} (ty : MemTy) (tag : Nat) (hfit : pa % 64 + n ≤ 64)
    (hroom : s.makeRoom cpt pa = s)
    (hvalid : ∀ x, s.sector? cpt pa = some x → ∀ i, i < n → x.valid.getLsbD (pa % 64 + i) = true) {i : Nat} (hi : i < n) :
    BitVec.ofNat 8 ((s.cachedLoad cpt ty pa n tag).2.1 / 2 ^ (8 * i)) = s.byteAt cpt (pa + i) := by
  have hk : (pa + i) / 64 = pa / 64 := by omega
  have hsec : s.sector? cpt (pa + i) = s.sector? cpt pa := by
    simp only [State.sector?, l1Key, hk]
  have hplace : (pa + i) % 64 = pa % 64 + i := by omega
  cases hx : s.sector? cpt pa with
  | none =>
    have hmiss := State.cachedLoad_miss (ty := ty) (n := n) (tag := tag) hx (by rw [hroom]; exact hx)
    rw [hmiss, hroom, ofNat_slice _ hi, State.sectorByte_home _ _ (by omega)]
    simp only [State.byteAt, hsec, hx]
    exact congrArg s.homeByte (by omega)
  | some x =>
    have hv := hvalid x hx
    have hcover : x.valid &&& byteMask (pa % 64) n = byteMask (pa % 64) n := by
      apply BitVec.eq_of_getLsbD_eq
      intro j hj
      rw [BitVec.getLsbD_and, getLsbD_byteMask hj]
      by_cases hin : pa % 64 ≤ j ∧ j < pa % 64 + n
      · have := hv (j - pa % 64) (by omega)
        rw [show pa % 64 + (j - pa % 64) = j by omega] at this
        simp [this]
      · simp [hin]
    have hload : (s.cachedLoad cpt ty pa n tag).2.1 = x.data.toNat / 2 ^ (8 * (pa % 64)) % 2 ^ (8 * n) := by
      simp only [State.cachedLoad, hx, hcover, if_true]
    rw [hload, ofNat_slice _ hi]
    simp only [State.byteAt, hsec, hx, hplace, hv i hi, if_true]
    rfl

/-- A load changes no byte of memory, where it needs no room. -/
theorem State.cachedLoad_mem {s : State} {cpt pa : Nat} (ty : MemTy) (n tag : Nat) (hroom : s.makeRoom cpt pa = s) :
    (s.cachedLoad cpt ty pa n tag).1.mem = s.mem := by
  have hfill : (s.fillSector cpt ty pa tag).1.mem = s.mem := by
    simp only [State.fillSector, hroom, State.sliceTouch_mem]
  unfold State.cachedLoad
  cases s.sector? cpt pa with
  | none => exact hfill
  | some x =>
    dsimp only
    split
    · rfl
    · exact hfill

end Sys2Proof.Machine

open Sys2Proof Sys2Proof.Machine in
/-- Settles O31, by the laws of one store and of one load through a coherence point. -/
theorem bytesThroughTheCache : Obligations.BytesThroughTheCache := by
  intro s cpt pa n v ty va hn hfit hpa hroom t
  have hbyte := s.byteAt_cachedStore cpt ty pa n v va 0 hn hfit hpa hroom
  refine ⟨fun a ha => ?_, fun c a hc ha => ?_, ?_, fun hvalid i hi => ?_, ?_⟩
  · rw [hbyte cpt a ha]
    simp only [true_and]
  · rw [hbyte c a ha, if_neg (fun h => hc h.1)]
  · show s.cachedStore cpt ty pa n v va 0 = { s with l1 := (s.cachedStore cpt ty pa n v va 0).l1 }
    rw [s.cachedStore_eq cpt ty pa n v va 0 hroom]
  · exact State.byte_cachedLoad ty 0 hfit hroom hvalid hi
  · exact State.cachedLoad_mem ty n 0 hroom

end

section
/-! PROOFS. Waiting and query words (R14, R313, R332, R360), and what forgetting an ended hold leaves as it was (R153, R233). -/

namespace Sys2Proof.Machine

/-! ### A hold that has ended is forgotten -/

/-- Forgetting a hold changes nothing of a group but the hold. -/
theorem State.group_unheld (s : State) (g : Nat) :
    ∃ b x, s.unheld.group g = { s.group g with barHold := b, xbarHold := x } := by
  unfold State.unheld
  cases s.cur with
  | gang h k =>
    rcases State.clearHold_gang s h k with e | e <;> rw [e]
    · exact ⟨_, _, rfl⟩
    · by_cases hg : g = h
      · rw [hg, State.group_setGroup]
        exact ⟨_, _, rfl⟩
      · rw [State.group_setGroup_ne _ _ hg]
        exact ⟨_, _, rfl⟩
  | _ => exact ⟨_, _, rfl⟩

/-- Forgetting a hold changes groups alone. -/
theorem State.clearHold_eq (s : State) (t : ThreadId) : s.clearHold t = { s with groups := (s.clearHold t).groups } := by
  cases t with
  | gang h k => rcases State.clearHold_gang s h k with e | e <;> rw [e] <;> rfl
  | _ => rfl

theorem State.unheld_eq (s : State) : s.unheld = { s with groups := s.unheld.groups } := s.clearHold_eq s.cur

section

variable (s : State) (t : ThreadId)

theorem State.teamOf_unheld (g : Nat) : s.unheld.team (s.unheld.group g).team = s.team (s.group g).team := by
  obtain ⟨b, x, h⟩ := s.group_unheld g
  rw [h, s.unheld_eq]
  rfl

theorem State.partOf_unheld : s.unheld.partOf t = s.partOf t := by
  cases t with
  | gang g k => exact congrArg Team.part (s.teamOf_unheld g)
  | _ => rw [s.unheld_eq]; rfl

theorem State.ctxOf_unheld : s.unheld.ctxOf t = s.ctxOf t := by
  cases t with
  | gang g k => exact congrArg Team.ctx (s.teamOf_unheld g)
  | _ => rw [s.unheld_eq]; rfl

theorem State.cptOf_unheld : s.unheld.cptOf t = s.cptOf t := by
  cases t with
  | gang g k => exact congrArg Team.cluster (s.teamOf_unheld g)
  | _ => rfl

theorem State.fetchCore_unheld : s.unheld.fetchCore t = s.fetchCore t := by
  cases t with
  | gang g k => exact congrArg (fun x : Team => 4 * x.cluster + x.core) (s.teamOf_unheld g)
  | _ => rfl

theorem State.pcOf_unheld : s.unheld.pcOf t = s.pcOf t := by
  cases t with
  | gang g k =>
    obtain ⟨b, x, h⟩ := s.group_unheld g
    simp only [State.pcOf, h]
  | _ => rw [s.unheld_eq]; rfl

theorem State.getW_unheld (r : Nat) : s.unheld.getW s.cur r = s.getW s.cur r := by
  simp only [State.getW, State.unheld_uni]

theorem State.hailFor_unheld : s.unheld.hailFor t = s.hailFor t := by
  simp only [State.hailFor, State.partOf_unheld, State.ctxOf_unheld]
  rw [s.unheld_eq]
  rfl

theorem State.time_unheld : s.unheld.time = s.time := by
  rw [s.unheld_eq]

end

/-! ### The words -/

section

variable {s : State} {i : Instr} {body : ThreadId → State → Did}

/-- A word that writes one uniform register and completes. -/
theorem issue_putW {r : Nat} {x : W64} (h : s.begins i = true) (hb : body s.cur s.unheld = .done (s.unheld.putW s.cur r x)) :
    issue i s body = .next (s.after (s.unheld.putW s.cur r x)) :=
  issue_plain h hb (State.putW_stepped _ _ _ _) (State.putW_cmds _ _ _ _)

end

/-- R332: a thread that yields keeps its step flag. -/
theorem State.yieldThread_stepped (s : State) (t : ThreadId) : (s.yieldThread t).stepped t = s.stepped t := by
  cases t with
  | gang g k => simp only [State.yieldThread, State.stepped_gang, State.group_setGroup, Group.step_mapGang]
  | _ => rfl

theorem State.yieldThread_cmds (s : State) (t : ThreadId) : (s.yieldThread t).cmds = s.cmds := by
  cases t <;> rfl

section

variable {s : State} {t : Bool} {d a b : BitVec 6}

theorem execSysYield_begins (h : s.begins (.sysYield t) = true) :
    exec (.sysYield t) s =
      .next (s.after (if s.unheld.requested s.cur then s.unheld.yieldThread s.cur else s.unheld)) := by
  show execSysYield t s = _
  unfold execSysYield
  refine issue_plain h rfl ?_ ?_
  · split
    · exact State.yieldThread_stepped _ _
    · rfl
  · split
    · exact State.yieldThread_cmds _ _
    · rfl

/-- R313: `sys.waiti` while a hail is deliverable. -/
theorem execSysWaiti_hail (h : s.begins (.sysWaiti t d a) = true) (hh : s.unheld.hailFor s.cur = true) :
    exec (.sysWaiti t d a) s = .next (s.after (s.unheld.putW s.cur d.toNat 1)) := by
  show execSysWaiti t d a s = _
  unfold execSysWaiti
  exact issue_putW h (if_pos hh)

/-- R313: `sys.waiti` once its time has come. -/
theorem execSysWaiti_timeOut (h : s.begins (.sysWaiti t d a) = true) (hh : s.unheld.hailFor s.cur = false)
    (ht : (s.getW s.cur a.toNat).toNat ≤ s.time) :
    execSysWaiti t d a s = .next (s.after (s.unheld.putW s.cur d.toNat 0)) := by
  unfold execSysWaiti
  refine issue_putW h ?_
  rw [if_neg (by simp [hh]), State.getW_unheld, State.time_unheld, if_pos ht]

/-- R313: `sys.waiti` before its time. -/
theorem execSysWaiti_waits (h : s.begins (.sysWaiti t d a) = true) (hh : s.unheld.hailFor s.cur = false)
    (ht : s.time < (s.getW s.cur a.toNat).toNat) : exec (.sysWaiti t d a) s = .next (s.stay s.unheld) := by
  show execSysWaiti t d a s = _
  unfold execSysWaiti
  refine issue_waits h ?_
  rw [if_neg (by simp [hh]), State.getW_unheld, State.time_unheld, if_neg (not_le.2 ht)]

/-- R313: the event of a thread that waits in `sys.waiti` runs its word. -/
theorem exec_waitiTimeReached {th : ThreadId} {w : W32} (hw : (s.fetchWord th (s.pcOf th)).2 = .word w)
    (hdec : decode w = .ok (.sysWaiti t d a)) (hrun : s.runnable th = true) (hh : s.hailFor th = false) (ht : (s.getW th a.toNat).toNat ≤ s.time) :
    exec (.waitiTimeReached th) s = execSysWaiti t d a { s with cur := th } := by
  show execWaitiTimeReached th s = _
  unfold execWaitiTimeReached
  simp only [hw, hdec, hrun, hh, ht, Bool.not_false, Bool.and_self, decide_true, if_true]

theorem execSysCodefence_begins (h : s.begins (.sysCodefence t) = true) :
    exec (.sysCodefence t) s = .next (s.after { s.unheld with
      icache := s.unheld.icache.filter fun e => e.1 / 2 ^ 50 != s.fetchCore s.cur }) := by
  show execSysCodefence t s = _
  unfold execSysCodefence
  rw [issue_plain (s' := s.unheld.codefence s.cur) h rfl (by cases s.cur <;> rfl) rfl, State.codefence, State.fetchCore_unheld]

/-- R360: the distance of two dies, by their base dies. -/
theorem dieDistance_eq (p q : Nat) :
    dieDistance p q = if p = q then 0 else if p / 4 = q / 4 then 1 else if p / 4 + q / 4 = 3 then 3 else 2 := by
  unfold dieDistance adjacentBase
  by_cases h : p / 4 + q / 4 = 3 <;> simp [h]

theorem execSysVdist_begins (h : s.begins (.sysVdist t d a b) = true) :
    exec (.sysVdist t d a b) s = .next (s.after (s.unheld.putW s.cur d.toNat
      (match s.unheld.dieFor s.cur ((s.getW s.cur a.toNat).toNat % 16), s.unheld.dieFor s.cur ((s.getW s.cur b.toNat).toNat % 16) with
        | some p, some q => BitVec.ofNat 64 (if p = q then 0 else if p / 4 = q / 4 then 1 else if p / 4 + q / 4 = 3 then 3 else 2)
        | _, _ => BitVec.allOnes 64))) := by
  show execSysVdist t d a b s = _
  unfold execSysVdist
  simp only [← dieDistance_eq, ← State.getW_unheld]
  exact issue_putW h rfl

theorem execSysVdie_begins (h : s.begins (.sysVdie t d a) = true) :
    exec (.sysVdie t d a) s = .next (s.after (s.unheld.putW s.cur d.toNat
      (match s.unheld.dieFor s.cur ((s.getW s.cur a.toNat).toNat % 16) with
        | some p => s.unheld.vdieStatus s.cur p
        | none => 0))) := by
  show execSysVdie t d a s = _
  unfold execSysVdie
  simp only [← State.getW_unheld]
  exact issue_putW h rfl

end

end Sys2Proof.Machine

open Sys2Proof Sys2Proof.Machine in
/-- Settles O37, word by word. -/
theorem waitingAndQueryWords : Obligations.WaitingAndQueryWords := by
  intro s t d a b th u v put
  refine ⟨execSysYield_begins, fun h => ⟨execSysWaiti_hail h, execSysWaiti_timeOut h, execSysWaiti_waits h⟩, ?_,
    execSysCodefence_begins, execSysVdist_begins, execSysVdie_begins⟩
  intro h hw hrun hh ht
  have hdec : decode (encode (.sysWaiti t d a)) = .ok (.sysWaiti t d a) := by
    rw [encode, Laws.DecodeWord.decode_encode _ rfl]
  rw [exec_waitiTimeReached hw hdec hrun hh ht]
  refine execSysWaiti_timeOut h ?_ ht
  exact (State.hailFor_unheld v th).trans hh

end

section
/-! PROOFS. What the operations on memory leave alone: of the state all but memory, the caches, the directories, the request
numbers and the counts of dropped and refused packets; and they keep memory's canonical form. -/

namespace Sys2Proof.Machine

/-! ### The part of the state in front of memory -/

/-- The state with everything that an operation on memory may change cleared. -/
def State.front (s : State) : State :=
  { s with
    mem := [], memKey := [], l2 := [], peerMem := [], memPoison := [], l1 := [], wc := [], sigs := [], accs := [], outs := []
    reqNos := [], windows := [], dirs := [], hostHeld := [], gateDue := [], devLog := [], fresh := 0
    root := { s.root with drops := 0, refusals := 0 } }

/-- One state comes from another by operations on memory. -/
structure State.MemStep (s t : State) : Prop where
  front : t.front = s.front
  ok : s.memoryOk = true → t.memoryOk = true

namespace State.MemStep

theorem refl (s : State) : s.MemStep s := ⟨rfl, id⟩

theorem trans {s t u : State} (h : s.MemStep t) (k : t.MemStep u) : s.MemStep u :=
  ⟨k.front.trans h.front, k.ok ∘ h.ok⟩

theorem foldl {α : Type} {f : State → α → State} (hf : ∀ (t : State) x, t.MemStep (f t x)) (l : List α) (s : State) :
    s.MemStep (l.foldl f s) := by
  induction l generalizing s with
  | nil => exact refl s
  | cons x l ih => exact (hf s x).trans (ih _)

variable {s t : State} (h : s.MemStep t)
include h

theorem groups_eq : t.groups = s.groups := (congrArg State.groups h.front :)
theorem teams_eq : t.teams = s.teams := (congrArg State.teams h.front :)
theorem spines_eq : t.spines = s.spines := (congrArg State.spines h.front :)
theorem parts_eq : t.parts = s.parts := (congrArg State.parts h.front :)
theorem ctxs_eq : t.ctxs = s.ctxs := (congrArg State.ctxs h.front :)
theorem grids_eq : t.grids = s.grids := (congrArg State.grids h.front :)
theorem cmds_eq : t.cmds = s.cmds := (congrArg State.cmds h.front :)
theorem time_eq : t.time = s.time := (congrArg State.time h.front :)
theorem tlb_eq : t.tlb = s.tlb := (congrArg State.tlb h.front :)

end State.MemStep

section

variable (s : State)

theorem State.memStep_memStore (pa n v : Nat) : s.MemStep (s.memStore pa n v) := by
  have rekeys : ∀ l : List Nat, (l.foldl State.rekey s).front = s.front ∧ (l.foldl State.rekey s).peerMem = s.peerMem := by
    intro l
    induction l generalizing s with
    | nil => exact ⟨rfl, rfl⟩
    | cons b l ih =>
      obtain ⟨m, k, e⟩ := s.rekey_eq b
      obtain ⟨hf, hp⟩ := ih (s.rekey b)
      exact ⟨hf.trans (by rw [e]; rfl), hp.trans (by rw [e])⟩
  obtain ⟨hf, hp⟩ := rekeys (sectorsFrom pa n)
  refine ⟨hf, fun h => ?_⟩
  obtain ⟨hm, hq⟩ := (Bool.and_eq_true_iff ..).1 h
  exact (Bool.and_eq_true_iff ..).2 ⟨memStore_wf pa n v hm, (congrArg Memory.wf hp).trans hq⟩

theorem State.memStep_hostLog (pa n : Nat) (w : Bool) (v : W64) (tag : Nat) : s.MemStep (s.hostLog pa n w v tag) := by
  obtain ⟨d, e⟩ := s.hostLog_eq pa n w v tag
  rw [e]
  exact ⟨rfl, id⟩

theorem State.memStep_sliceClean (key : Nat) : s.MemStep (s.sliceClean key) := by
  obtain ⟨l, d, e⟩ := s.sliceClean_eq key
  rw [e]
  exact ⟨rfl, id⟩

theorem State.memStep_sliceEvict (k : Nat) : s.MemStep (s.sliceEvict k) := by
  obtain ⟨l, d, x, e⟩ := s.sliceEvict_eq k
  rw [e]
  exact ⟨rfl, id⟩

theorem State.memStep_sliceTouch (part pa : Nat) (w : Bool) (tag : Nat) : s.MemStep (s.sliceTouch part pa w tag) := by
  obtain ⟨l, d, x, f, h, e⟩ := s.sliceTouch_eq part pa w tag
  rw [e]
  exact ⟨rfl, id⟩

theorem State.memStep_noteWrite (pa n : Nat) : s.MemStep (s.noteWrite pa n) := ⟨rfl, id⟩

theorem State.memStep_homeWrite (pa n v part tag : Nat) : s.MemStep (s.homeWrite pa n v part tag) :=
  ((s.memStep_memStore pa n v).trans (.foldl (fun t b => t.memStep_sliceTouch part b true tag) _ _)).trans (memStep_noteWrite _ _ _)

theorem State.memStep_homeMask (base : Nat) (mask : BitVec 64) (data : BitVec 512) (part tag : Nat) :
    s.MemStep (s.homeMask base mask data part tag) := by
  obtain ⟨m, k, e⟩ := s.rekey_eq base
  obtain ⟨l, d, x, f, y, e2⟩ := State.sliceTouch_eq
    { s.rekey base with
      mem := (List.range 64).foldl
        (fun m i => if mask.getLsbD i then memWrite m (base + i) 1 (data.toNat / 2 ^ (8 * i) % 256) else m) (s.rekey base).mem
      memPoison := wipeBad (s.rekey base).memPoison base mask } part base true tag
  refine ⟨?_, fun h => ?_⟩
  · unfold State.homeMask
    simp only [e2]
    rw [e]
    rfl
  · obtain ⟨hm, hp⟩ := (Bool.and_eq_true_iff ..).1 h
    refine (Bool.and_eq_true_iff ..).2 ⟨homeMask_wf base mask data part tag hm, ?_⟩
    unfold State.homeMask
    simp only [e2]
    rw [e]
    exact hp

theorem State.memStep_countDrop : s.MemStep s.countDrop := ⟨rfl, id⟩

theorem State.memStep_countRefusal : s.MemStep s.countRefusal := ⟨rfl, id⟩

theorem State.memStep_draw : s.MemStep s.draw.2 := ⟨rfl, id⟩

theorem State.memStep_pick (l : List Nat) : s.MemStep (s.pick l).2 := ⟨rfl, id⟩

theorem State.memStep_setAcc (cpt : Nat) (a : Acc) : s.MemStep (s.setAcc cpt a) := ⟨rfl, id⟩

theorem State.memStep_joinSig (line : Nat) (g : Sig) : s.MemStep (s.joinSig line g) := ⟨rfl, id⟩

theorem State.memStep_setBad (pa : Nat) (b : Bool) : s.MemStep (s.setBad pa b) := ⟨rfl, id⟩

theorem State.memStep_identify (port far : Nat) (r : W64) (bad : Bool) : s.MemStep (s.identify port far r bad) := ⟨rfl, id⟩

theorem State.memStep_requestOf (part cpt : Nat) (p : Phys) (r : W64) (bad : Bool) : s.MemStep (s.requestOf part cpt p r bad) := by
  unfold State.requestOf
  split
  · exact memStep_identify _ _ _ _ _
  · exact .refl s

theorem State.memStep_requestTo (cpt : Nat) (p : Phys) (r : W64) (bad : Bool) : s.MemStep (s.requestTo cpt p r bad) :=
  memStep_requestOf _ _ _ _ _ _

theorem State.memStep_requestAt (cpt line : Nat) (r : W64) (bad : Bool) : s.MemStep (s.requestAt cpt line r bad) := by
  unfold State.requestAt
  split
  · exact memStep_identify _ _ _ _ _
  · exact .refl s

theorem State.memStep_post (by_ : Poster) (cpt far : Nat) (op : FarOp) (r : W64) (bad : Bool) :
    s.MemStep (s.post by_ cpt far op r bad) := ⟨rfl, id⟩

theorem State.memStep_postLate (by_ : Poster) (cpt far : Nat) (op : FarOp) : s.MemStep (s.postLate by_ cpt far op) := by
  unfold State.postLate
  refine MemStep.trans ?_ (memStep_post _ _ _ _ _ _ _)
  split
  · split
    · exact ⟨rfl, id⟩
    · exact .refl s
  · exact .refl s

theorem State.memStep_postAt (by_ : Poster) (cpt line : Nat) (op : FarOp) : s.MemStep (s.postAt by_ cpt line op) := by
  unfold State.postAt
  split
  · exact memStep_postLate _ _ _ _ _
  · exact .refl s

theorem State.memStep_noteWritten (cpt line : Nat) : s.MemStep (s.noteWritten cpt line) := by
  unfold State.noteWritten
  split
  · exact memStep_setAcc _ _ _
  · exact .refl s

theorem State.memStep_signWrite (cpt line : Nat) : s.MemStep (s.signWrite cpt line) := by
  unfold State.signWrite
  refine MemStep.trans ?_ (memStep_noteWritten _ _ _)
  split
  · exact memStep_joinSig _ _ _
  · exact .refl s

theorem State.memStep_wroteLine (cpt base : Nat) (l : WcLine) : s.MemStep (s.wroteLine cpt base l) :=
  (s.memStep_postAt _ _ _ _).trans (memStep_signWrite _ _ _)

theorem State.memStep_dropWriteBack (cpt : Nat) (va : W64) : s.MemStep (s.dropWriteBack cpt va) := ⟨rfl, id⟩

/-- A write of bytes to a peer's memory keeps its canonical form. -/
theorem State.peerWrite_ok {s : State} (a n v : Nat) (h : s.memoryOk = true) :
    State.memoryOk { s with peerMem := memWrite s.peerMem a n v } = true := by
  obtain ⟨hm, hp⟩ := (Bool.and_eq_true_iff ..).1 h
  exact (Bool.and_eq_true_iff ..).2 ⟨hm, memWrite_wf a n v hp⟩

/-! ### Caches and the STREAM buffer -/

theorem State.memStep_writeBack (cpt pa : Nat) : s.MemStep (s.writeBack cpt pa) := by
  unfold State.writeBack
  split
  · exact .refl s
  · split
    · exact .refl s
    · dsimp only
      split
      · refine MemStep.trans ?_ (memStep_wroteLine _ _ _ _)
        refine MemStep.trans ?_ (memStep_homeMask _ _ _ _ _ _)
        exact ⟨rfl, id⟩
      · exact ⟨rfl, id⟩

theorem State.memStep_dropSector (cpt pa : Nat) : s.MemStep (s.dropSector cpt pa) := ⟨rfl, id⟩

theorem State.memStep_evictSector (cpt pa : Nat) : s.MemStep (s.evictSector cpt pa) :=
  (s.memStep_writeBack cpt pa).trans (memStep_dropSector _ _ _)

theorem State.memStep_evictLine (cpt a b : Nat) : s.MemStep ((s.evictSector cpt a).evictSector cpt b) :=
  (s.memStep_evictSector cpt a).trans (memStep_evictSector _ _ _)

theorem State.memStep_writeBackAll (cpt : Nat) (p : Sector → Bool) : s.MemStep (s.writeBackAll cpt p) := by
  refine .foldl (fun t e => ?_) _ _
  split
  · exact t.memStep_writeBack _ _
  · exact .refl t

theorem State.memStep_evictAll (cpt : Nat) (p : Nat → Sector → Bool) : s.MemStep (s.evictAll cpt p) := by
  refine .foldl (fun t e => ?_) _ _
  split
  · exact t.memStep_evictSector _ _
  · exact .refl t

theorem State.memStep_homeHalves (base : Nat) (l : WcLine) (part : Nat) : s.MemStep (s.homeHalves base l part) := by
  refine .foldl (fun t h => ?_) _ _
  dsimp only
  split
  · exact .refl t
  · split
    · exact t.memStep_homeMask _ _ _ _ _
    · exact (t.memStep_homeMask _ _ _ _ _).trans (memStep_setBad _ _ _)

theorem State.memStep_flushLine (cpt key : Nat) : s.MemStep (s.flushLine cpt key) := by
  unfold State.flushLine
  split
  · exact .refl s
  · dsimp only
    split
    · refine MemStep.trans ?_ (memStep_wroteLine _ _ _ _)
      refine MemStep.trans ?_ (memStep_homeHalves _ _ _ _)
      exact ⟨rfl, id⟩
    · exact ⟨rfl, id⟩

theorem State.memStep_flushStream (cpt : Nat) : s.MemStep (s.flushStream cpt) := .foldl (fun t _ => t.memStep_flushLine _ _) _ _

theorem State.memStep_streamStore (cpt pa n v : Nat) (va : W64) (tag : Nat) (bad : Bool) :
    s.MemStep (s.streamStore cpt pa n v va tag bad) := by
  unfold State.streamStore
  extract_lets key held s1 l i bitsM data mask bytes s2
  have room : s.MemStep s1 := by
    dsimp only [s1]
    split
    · split
      · exact s.memStep_flushLine cpt _
      · exact .refl s
    · exact .refl s
  have stored : s.MemStep s2 := room.trans ⟨rfl, id⟩
  split
  · exact stored.trans (memStep_flushLine _ _ _)
  · exact stored

theorem State.memStep_makeRoom (cpt pa : Nat) : s.MemStep (s.makeRoom cpt pa) := by
  unfold State.makeRoom
  extract_lets line lines near set c
  generalize (if cpt < 256 then 16 else 2048) = ways
  split
  · exact .refl s
  · split
    · exact .refl s
    · exact (s.memStep_pick set).trans (memStep_evictLine _ _ _ _)

theorem State.memStep_fillSector (cpt : Nat) (ty : MemTy) (pa tag : Nat) : s.MemStep (s.fillSector cpt ty pa tag).1 :=
  ((s.memStep_makeRoom cpt pa).trans (memStep_sliceTouch _ _ _ _ _)).trans ⟨rfl, id⟩

theorem State.memStep_cachedLoad (cpt : Nat) (ty : MemTy) (pa n tag : Nat) : s.MemStep (s.cachedLoad cpt ty pa n tag).1 := by
  unfold State.cachedLoad
  dsimp only
  split
  · split
    · exact .refl s
    · exact s.memStep_fillSector _ _ _ _
  · exact s.memStep_fillSector _ _ _ _

theorem State.memStep_cachedStore (cpt : Nat) (ty : MemTy) (pa n v : Nat) (va : W64) (tag : Nat) :
    s.MemStep (s.cachedStore cpt ty pa n v va tag) :=
  (s.memStep_makeRoom cpt pa).trans ⟨rfl, id⟩

theorem State.memStep_loadBytes (cpt : Nat) (p : Phys) (n tag : Nat) : s.MemStep (s.loadBytes cpt p n tag).1 := by
  unfold State.loadBytes
  split
  · exact s.memStep_countDrop
  · split
    · split
      · exact s.memStep_requestTo _ _ _ _
      · exact s.memStep_countRefusal
    · refine MemStep.trans ?_ (memStep_requestTo _ _ _ _ _)
      exact ⟨rfl, id⟩
    · split
      · exact s.memStep_cachedLoad _ _ _ _ _
      · exact s.memStep_cachedLoad _ _ _ _ _
      · dsimp only
        split <;> exact s.memStep_sliceTouch _ _ _ _
      · exact (s.memStep_hostLog _ _ _ _ _).trans (memStep_requestTo _ _ _ _ _)

theorem State.memStep_storeBytes (cpt : Nat) (p : Phys) (n v : Nat) (va : W64) (tag : Nat) :
    s.MemStep (s.storeBytes cpt p n v va tag).1 := by
  unfold State.storeBytes
  split
  · exact s.memStep_countDrop
  · split
    · split
      · exact ⟨rfl, fun h => peerWrite_ok _ _ _ h⟩
      · exact s.memStep_countRefusal
    · exact ⟨rfl, id⟩
    · split
      · exact s.memStep_cachedStore _ _ _ _ _ _ _
      · exact s.memStep_cachedStore _ _ _ _ _ _ _
      · exact s.memStep_streamStore _ _ _ _ _ _ _
      · exact (s.memStep_hostLog _ _ _ _ _).trans (memStep_memStore _ _ _ _)

theorem State.memStep_homeAtomic (cpt pa n code b c tag : Nat) : s.MemStep (s.homeAtomic cpt pa n code b c tag).1 := by
  unfold State.homeAtomic
  extract_lets line s1 old s2
  have left : s.MemStep s1 := s.memStep_evictLine _ _ _
  have done : s1.MemStep s2 := by
    dsimp only [s2]
    split
    · exact s1.memStep_homeWrite _ _ _ _ _
    · exact s1.memStep_sliceTouch _ _ _ _
  exact (left.trans done).trans (memStep_signWrite _ _ _)

theorem State.memStep_hostAtomic (cpt pa n code b c tag : Nat) : s.MemStep (s.hostAtomic cpt pa n code b c tag).1 := by
  unfold State.hostAtomic
  extract_lets line s0 old s1
  have left : s.MemStep s1 := (s.memStep_evictLine _ _ _).trans (memStep_hostLog _ _ _ _ _ _)
  dsimp only
  split
  · exact (left.trans (memStep_hostLog _ _ _ _ _ _)).trans (memStep_memStore _ _ _ _)
  · exact left

theorem State.memStep_atomicBytes (cpt : Nat) (p : Phys) (n code b c tag : Nat) :
    s.MemStep (s.atomicBytes cpt p n code b c tag).1 := by
  unfold State.atomicBytes
  split
  · exact s.memStep_countDrop
  · split
    · split
      · dsimp only
        split
        · exact ⟨rfl, fun h => peerWrite_ok _ _ _ h⟩
        · exact .refl s
      · exact s.memStep_countRefusal
    · dsimp only
      split
      · exact s.memStep_hostAtomic _ _ _ _ _ _ _
      · exact s.memStep_homeAtomic _ _ _ _ _ _ _

/-! ### Releases and acquires -/

theorem State.memStep_releaseClean (cpt : Nat) : s.MemStep (s.releaseClean cpt).1 :=
  (s.memStep_writeBackAll _ _).trans (memStep_flushStream _ _)

theorem State.memStep_cleanHost (cpt : Nat) : s.MemStep (s.cleanHost cpt) := by
  unfold State.cleanHost
  refine .foldl (fun t e => ?_) _ _
  refine MemStep.trans ?_ (memStep_postLate _ _ _ _ _)
  exact t.memStep_sliceClean e.1

theorem State.memStep_beginWide (cpt : Nat) (sys : Bool) : s.MemStep (s.beginWide cpt sys).1 := by
  unfold State.beginWide
  dsimp only
  split
  · exact (s.memStep_releaseClean cpt).trans (memStep_cleanHost _ _)
  · exact s.memStep_releaseClean cpt

theorem State.memStep_updateCopy (cpt pa n v : Nat) : s.MemStep (s.updateCopy cpt pa n v) := by
  unfold State.updateCopy
  split
  · exact .refl s
  · exact ⟨rfl, id⟩

theorem State.memStep_releaseStore (cpt : Nat) (g : Sig) (p : Phys) (n v : Nat) (va : W64) (tag : Nat) :
    s.MemStep (s.releaseStore cpt g p n v va tag).1 := by
  unfold State.releaseStore
  split
  · exact s.memStep_countDrop
  · split
    · refine MemStep.trans ?_ (memStep_updateCopy _ _ _ _ _)
      refine MemStep.trans ?_ (memStep_noteWritten _ _ _)
      exact ((s.memStep_homeWrite _ _ _ _ _).trans (memStep_postAt _ _ _ _ _)).trans (memStep_joinSig _ _ _)
    · dsimp only
      split
      · exact s.memStep_storeBytes _ _ _ _ _ _
      · exact (s.memStep_storeBytes _ _ _ _ _ _).trans (memStep_joinSig _ _ _)

theorem State.memStep_foldSig (cpt : Nat) (g : Sig) : s.MemStep (s.foldSig cpt g) :=
  (s.memStep_evictAll _ _).trans (memStep_setAcc _ _ _)

theorem State.memStep_foldAll (cpt : Nat) : s.MemStep (s.foldAll cpt) := s.memStep_foldSig _ _

theorem State.memStep_foldEvery (cpt : Nat) (fence : Bool) : s.MemStep (s.foldEvery cpt fence) :=
  (s.memStep_draw.trans (memStep_evictAll _ _ _)).trans (memStep_foldAll _ _)

theorem State.memStep_foldHail (cpt : Nat) (g : Sig) : s.MemStep (s.foldHail cpt g) := by
  unfold State.foldHail
  split
  · exact s.memStep_foldEvery _ _
  · exact s.memStep_foldSig _ _

theorem State.memStep_acquireRead (cpt : Nat) (p : Phys) (n tag : Nat) : s.MemStep (s.acquireRead cpt p n tag).1 := by
  unfold State.acquireRead
  split
  · exact (s.memStep_evictSector _ _).trans (memStep_sliceTouch _ _ _ _ _)
  · exact s.memStep_loadBytes _ _ _ _

theorem State.memStep_acquireLoad (cpt : Nat) (sys : Bool) (p : Phys) (n tag : Nat) :
    s.MemStep (s.acquireLoad cpt sys p n tag).1 := by
  unfold State.acquireLoad
  extract_lets r s1
  have read : s.MemStep s1 := by
    dsimp only [s1]
    split
    · exact s.memStep_acquireRead _ _ _ _
    · exact (s.memStep_acquireRead _ _ _ _).trans (memStep_foldSig _ _ _)
  dsimp only
  split
  · exact read.trans (memStep_foldEvery _ _ _)
  · exact read

theorem State.memStep_fenceRelease (cpt : Nat) (sys : Bool) : s.MemStep (s.fenceRelease cpt sys) :=
  (s.memStep_beginWide _ _).trans (memStep_setAcc _ _ _)

theorem State.memStep_replacePending (cpt : Nat) (g : Sig) : s.MemStep (s.replacePending cpt g) := by
  unfold State.replacePending
  split
  · exact s.memStep_setAcc _ _
  · exact .refl s

theorem State.memStep_releaseDevice (cpt : Nat) : s.MemStep (s.releaseDevice cpt).1 :=
  (s.memStep_releaseClean _).trans (memStep_replacePending _ _ _)

theorem State.memStep_orderedAtomic (cpt : Nat) (sys : Bool) (p : Phys) (n code b c tag : Nat) :
    s.MemStep (s.orderedAtomic cpt sys p n code b c tag).1 := by
  have begun := (s.memStep_beginWide cpt sys).trans (memStep_atomicBytes _ cpt p n code b c tag)
  unfold State.orderedAtomic
  dsimp only
  have folded : ∀ b : Prop, ∀ _ : Decidable b, ∀ t : State, s.MemStep t → ∀ line g seen,
      s.MemStep (((if b then t else t.joinSig line g).replacePending cpt g).foldSig cpt seen) := by
    intro b _ t ht line g seen
    refine MemStep.trans (MemStep.trans ?_ (memStep_replacePending _ _ _)) (memStep_foldSig _ _ _)
    split
    · exact ht
    · exact ht.trans (memStep_joinSig _ _ _)
  split
  · exact (folded _ _ _ begun _ _ _).trans (memStep_foldEvery _ _ _)
  · exact folded _ _ _ begun _ _ _

theorem State.memStep_releasePart (part : Nat) : s.MemStep (s.releasePart part).1 := by
  unfold State.releasePart
  extract_lets cpts
  have : ∀ (l : List Nat) (acc : State × Sig), s.MemStep acc.1 → s.MemStep (l.foldl (fun acc c =>
      let (t, g) := acc.1.releaseDevice c
      (t, acc.2 ||| g)) acc).1 := by
    intro l
    induction l with
    | nil => exact fun acc h => h
    | cons c l ih => exact fun acc h => ih _ (h.trans (memStep_releaseDevice _ _))
  exact this _ _ (.refl s)

/-! ### Translation, which fills the places that hold translations besides -/

/-- The state with the held translations cleared too. -/
def State.walkFront (s : State) : State := { s.front with tlb := [], icache := [] }

/-- One state comes from another by operations on memory, walks and fetches. -/
structure State.WalkStep (s t : State) : Prop where
  front : t.walkFront = s.walkFront
  ok : s.memoryOk = true → t.memoryOk = true

theorem State.MemStep.walk {s t : State} (h : s.MemStep t) : s.WalkStep t :=
  ⟨congrArg (fun x : State => { x with tlb := [], icache := [] }) h.front, h.ok⟩

namespace State.WalkStep

theorem refl (s : State) : s.WalkStep s := ⟨rfl, id⟩

theorem trans {s t u : State} (h : s.WalkStep t) (k : t.WalkStep u) : s.WalkStep u :=
  ⟨k.front.trans h.front, k.ok ∘ h.ok⟩

theorem foldl {α : Type} {f : State → α → State} (hf : ∀ (t : State) x, t.WalkStep (f t x)) (l : List α) (s : State) :
    s.WalkStep (l.foldl f s) := by
  induction l generalizing s with
  | nil => exact refl s
  | cons x l ih => exact (hf s x).trans (ih _)

theorem foldr {α : Type} {f : α → State → State} (hf : ∀ (t : State) x, t.WalkStep (f x t)) (l : List α) (s : State) :
    s.WalkStep (l.foldr f s) := by
  induction l with
  | nil => exact refl s
  | cons x l ih => exact ih.trans (hf _ x)

variable {s t : State} (h : s.WalkStep t)
include h

theorem groups_eq : t.groups = s.groups := (congrArg State.groups h.front :)
theorem teams_eq : t.teams = s.teams := (congrArg State.teams h.front :)
theorem spines_eq : t.spines = s.spines := (congrArg State.spines h.front :)
theorem parts_eq : t.parts = s.parts := (congrArg State.parts h.front :)
theorem cmds_eq : t.cmds = s.cmds := (congrArg State.cmds h.front :)

theorem stepped_eq (th : ThreadId) : t.stepped th = s.stepped th := by
  simp only [State.stepped, State.group, h.groups_eq]

end State.WalkStep

theorem State.memStep_siteTouch (part cpt : Nat) (p : Phys) (n tag : Nat) : s.MemStep (s.siteTouch part cpt p n tag) := by
  unfold State.siteTouch
  split
  · exact s.memStep_countDrop
  · dsimp only
    split
    · split
      · exact s.memStep_requestOf _ _ _ _ _
      · exact s.memStep_countRefusal
    · refine MemStep.trans ?_ (memStep_requestOf _ _ _ _ _ _)
      exact ⟨rfl, id⟩
    · split
      · exact (s.memStep_hostLog _ _ _ _ _).trans (memStep_requestOf _ _ _ _ _ _)
      · exact .foldl (fun t b => t.memStep_sliceTouch _ _ _ _) _ _

theorem State.walkStep_hold (place part asid va : Nat) (e : TlbEnt) : s.WalkStep (s.hold place part asid va e) := by
  unfold State.hold
  dsimp only
  split <;> exact ⟨rfl, id⟩

theorem State.walkStep_heldLeaf (part asid va : Nat) (ps : List Nat) : s.WalkStep (s.heldLeaf part asid va ps).1 := by
  induction ps with
  | nil => exact .refl s
  | cons p ps ih =>
    unfold State.heldLeaf
    split
    · exact .refl s
    · split
      case h_1 h => rw [h] at ih; exact ih.trans (walkStep_hold _ _ _ _ _ _)
      case h_2 h => rw [h] at ih; exact ih

theorem State.memStep_chooseLeaf (part : Nat) (w : Walked) : s.MemStep (s.chooseLeaf part w).1 := by
  unfold State.chooseLeaf
  split
  · split
    · exact .refl s
    · split <;> exact ⟨rfl, id⟩
  · exact .refl s

theorem State.walkStep_walkTo (part asid root va core tag : Nat) : s.WalkStep (s.walkTo part asid root va core tag).1 := by
  unfold State.walkTo
  dsimp only
  generalize walk (s.entryRead (realPart part)) va [] [1, 2, 3, 4] root = w
  have reads : s.WalkStep (w.reads.foldr (fun a t => t.entryTouch (realPart part) (corePoint core) tag a) s) :=
    .foldr (fun t a => (t.memStep_siteTouch _ _ _ _ _).walk) _ _
  have leaf := reads.trans (memStep_chooseLeaf _ (realPart part) w).walk
  split
  case h_1 h => rw [h] at leaf; exact leaf
  case h_2 h => rw [h] at leaf; exact leaf.trans (.foldr (fun t p => t.walkStep_hold _ _ _ _ _) _ _)

theorem State.walkStep_translate (sp : Space) (va : Nat) (k : AccKind) (user : Bool) : s.WalkStep (s.translate sp va k user).1 := by
  cases sp with
  | physical => exact .refl s
  | ctx part c core =>
    have held := s.walkStep_heldLeaf part (s.ctx part c).info.asid va (tlbPlaces core)
    unfold State.translate
    dsimp only
    split
    case h_1 h => rw [h] at held; exact held
    case h_2 s1 h =>
      rw [h] at held
      have walked := held.trans (s1.walkStep_walkTo part (s.ctx part c).info.asid (s.ctx part c).info.root va core (s.tagOf part c))
      split
      case h_1 h => rw [h] at walked; exact walked
      case h_2 h => rw [h] at walked; exact walked

theorem State.walkStep_holdCode (core key : Nat) (w : W32) : s.WalkStep (s.holdCode core key w) := by
  unfold State.holdCode
  dsimp only
  split <;> exact ⟨rfl, id⟩

theorem State.memStep_siteWrite (part cpt : Nat) (p : Phys) (n v tag : Nat) : s.MemStep (s.siteWrite part cpt p n v tag) := by
  unfold State.siteWrite
  split
  · exact s.memStep_countDrop
  · split
    · split
      · refine MemStep.trans ?_ (memStep_requestOf _ _ _ _ _ _)
        exact ⟨rfl, fun h => peerWrite_ok _ _ _ h⟩
      · exact s.memStep_countRefusal
    · refine MemStep.trans ?_ (memStep_requestOf _ _ _ _ _ _)
      exact ⟨rfl, id⟩
    · split
      · exact ((s.memStep_hostLog _ _ _ _ _).trans (memStep_memStore _ _ _ _)).trans (memStep_requestOf _ _ _ _ _ _)
      · exact (s.memStep_homeWrite _ _ _ _ _).trans (memStep_requestOf _ _ _ _ _ _)

theorem State.walkStep_deviceWrite (part ctx cpt va n v : Nat) : s.WalkStep (s.deviceWrite part ctx cpt va n v) := by
  have walked := s.walkStep_translate (.ctx part ctx (1280 + realPart part)) va .load false
  unfold State.deviceWrite
  split
  case h_1 h =>
    rw [h] at walked
    refine walked.trans (MemStep.walk ?_)
    exact ((memStep_dropSector _ _ _).trans (memStep_evictSector _ _ _)).trans (memStep_siteWrite _ _ _ _ _ _ _)
  case h_2 h => rw [h] at walked; exact walked

theorem State.walkStep_writeRecord (t : ThreadId) (bits : Nat) : s.WalkStep (s.writeRecord t bits) := s.walkStep_deviceWrite _ _ _ _ _ _

theorem State.walkStep_fetchWord (t : ThreadId) (pc : Addr) : s.WalkStep (s.fetchWord t pc).1 := by
  have walked := s.walkStep_translate (s.spaceOf t) pc.toNat .fetch (levelOf t == 0)
  unfold State.fetchWord
  split
  case h_1 h => rw [h] at walked; exact walked
  case h_2 s1 p h =>
    rw [h] at walked
    have loaded := walked.trans (s1.memStep_loadBytes (s1.cptOf t) p 4 (s1.threadTag t)).walk
    dsimp only
    split
    · exact walked
    · split
      · exact loaded
      · exact loaded.trans (walkStep_holdCode _ _ _ _)

end

end Sys2Proof.Machine
end

section
/-! PROOFS. Direct and indirect transfers and `pfx` (R32, R33, R87 to R92). -/

namespace Sys2Proof.Machine

/-! ### Targets of transfers -/

/-- A place counted from a program counter, as an integer on 64 bits. -/
theorem pcRelative_eq {n : Nat} (pc : Addr) (o : BitVec n) :
    pc.setWidth 64 + o.signExtend 64 * 4 = BitVec.ofInt 64 (pc.toNat + 4 * o.toInt) := by
  rw [BitVec.ofInt_add, BitVec.ofInt_mul, BitVec.mul_comm, BitVec.signExtend, BitVec.ofInt_natCast, BitVec.ofNat_toNat]
  rfl

theorem branchTarget_eq (pc : Addr) (o : BitVec 21) : branchTarget pc o = BitVec.ofInt 64 (pc.toNat + 4 * o.toInt) := pcRelative_eq pc o

/-- A place counted from a program counter in words fits on 64 bits with its sign. -/
theorem pcRelative_bounds {n : Nat} (hn : n ≤ 32) (pc : Addr) (o : BitVec n) :
    -2 ^ 62 ≤ (pc.toNat : Int) + 4 * o.toInt ∧ (pc.toNat : Int) + 4 * o.toInt < 2 ^ 62 := by
  have hpc := pc.isLt
  have hlo := BitVec.le_two_mul_toInt (x := o)
  have hhi := BitVec.two_mul_toInt_lt (x := o)
  have hpow : (2 : Int) ^ n ≤ 2 ^ 32 := pow_le_pow_right₀ (by decide) hn
  omega

theorem inRange_ofInt {z : Int} (h : -2 ^ 62 ≤ z ∧ z < 2 ^ 62) : inRange (BitVec.ofInt 64 z) = decide (0 ≤ z ∧ z < 2 ^ 48) := by
  simp only [inRange, BitVec.toNat_ofInt, decide_eq_decide]
  omega

theorem setWidth_ofInt_range {z : Int} (h : 0 ≤ z ∧ z < 2 ^ 48) : (BitVec.ofInt 64 z).setWidth 48 = BitVec.ofInt 48 z := by
  apply BitVec.eq_of_toNat_eq
  rw [BitVec.toNat_setWidth, BitVec.toNat_ofInt, BitVec.toNat_ofInt]
  omega

theorem setWidth_of_inRange {x : W64} (h : x.toNat < 2 ^ 48) : (x.setWidth 48).setWidth 64 = x := by
  apply BitVec.eq_of_toNat_eq
  rw [BitVec.toNat_setWidth, BitVec.toNat_setWidth]
  omega

theorem inRange_iff {x : W64} : inRange x = true ↔ x.toNat < 2 ^ 48 := decide_eq_true_iff

/-! ### Direct transfers -/

theorem takeBranch_eq (s : State) (pc : Addr) (o : BitVec 21) :
    takeBranch s (branchTarget pc o) = if 0 ≤ (pc.toNat : Int) + 4 * o.toInt ∧ (pc.toNat : Int) + 4 * o.toInt < 2 ^ 48
      then .goto s (BitVec.ofInt 48 (pc.toNat + 4 * o.toInt)) else .trap (Trap.addressRange (BitVec.ofInt 64 (pc.toNat + 4 * o.toInt))) := by
  rw [branchTarget_eq, takeBranch, inRange_ofInt (pcRelative_bounds (by decide) pc o)]
  simp only [decide_eq_true_eq]
  split
  case isTrue h => rw [setWidth_ofInt_range h]
  case isFalse => rfl

section

variable {s s' : State} {i : Instr} {body : ThreadId → State → Did} (h : s.begins i = true)
include h

/-- A word whose body takes a direct branch. -/
theorem issue_takeBranch {pc : Addr} {o : BitVec 21} (hb : body s.cur s.unheld = takeBranch s' (branchTarget pc o))
    (h1 : s'.stepped s.cur = s.unheld.stepped s.cur) (h2 : s'.cmds = s.unheld.cmds) :
    issue i s body = .next (if 0 ≤ (pc.toNat : Int) + 4 * o.toInt ∧ (pc.toNat : Int) + 4 * o.toInt < 2 ^ 48
      then s.afterJump s' (BitVec.ofInt 48 (pc.toNat + 4 * o.toInt))
      else s.trapped i { kind := 0x04, addr := BitVec.ofInt 64 (pc.toNat + 4 * o.toInt) }) := by
  rw [takeBranch_eq] at hb
  split at hb
  case isTrue hr => rw [if_pos hr, issue_goto h hb h1 h2]
  case isFalse hr => rw [if_neg hr, issue_traps h hb]; rfl

/-- A word that goes to a place once it has fetched there. -/
theorem issue_goto_walk {a : Addr} (hb : body s.cur s.unheld = .goto s' a) (hw : s.unheld.WalkStep s') :
    issue i s body = .next (s.afterJump s' a) := issue_goto h hb (hw.stepped_eq _) hw.cmds_eq

end

section

variable {s : State} {k : BitVec 3} {n t : Bool} {o : BitVec 21} {l : BitVec 12}

theorem execBra_begins (h : s.begins (.bra k n o) = true) :
    exec (.bra k n o) s = if (s.uni s.cur).getK k.toNat = n then .next (s.after s.unheld) else
      .next (if 0 ≤ ((s.pcOf s.cur).toNat : Int) + 4 * o.toInt ∧ ((s.pcOf s.cur).toNat : Int) + 4 * o.toInt < 2 ^ 48
        then s.afterJump s.unheld (BitVec.ofInt 48 ((s.pcOf s.cur).toNat + 4 * o.toInt))
        else s.trapped (.bra k n o) { kind := 0x04, addr := BitVec.ofInt 64 ((s.pcOf s.cur).toNat + 4 * o.toInt) }) := by
  show execBra k n o s = _
  unfold execBra
  rw [← State.unheld_uni s, ← State.pcOf_unheld s s.cur]
  split
  case isTrue hk => exact issue_plain h (if_neg (by simp [hk])) rfl rfl
  case isFalse hk => exact issue_takeBranch h (if_pos (by simp [hk])) rfl rfl

theorem execCall_begins (h : s.begins (.call o) = true) :
    exec (.call o) s =
      .next (if 0 ≤ ((s.pcOf s.cur).toNat : Int) + 4 * o.toInt ∧ ((s.pcOf s.cur).toNat : Int) + 4 * o.toInt < 2 ^ 48
        then s.afterJump (s.unheld.putW s.cur 63 (BitVec.ofInt 64 (((s.pcOf s.cur).toNat + 4) % 2 ^ 48)))
          (BitVec.ofInt 48 ((s.pcOf s.cur).toNat + 4 * o.toInt))
        else s.trapped (.call o) { kind := 0x04, addr := BitVec.ofInt 64 ((s.pcOf s.cur).toNat + 4 * o.toInt) }) := by
  have hret : (s.pcOf s.cur + 4).setWidth 64 = BitVec.ofInt 64 (((s.pcOf s.cur).toNat + 4) % 2 ^ 48) := by
    apply BitVec.eq_of_toNat_eq
    rw [BitVec.toNat_setWidth, BitVec.toNat_add, BitVec.toNat_ofInt]
    have h4 : (4 : Addr).toNat = 4 := rfl
    omega
  show execCall o s = _
  unfold execCall
  rw [← hret, ← State.pcOf_unheld s s.cur]
  exact issue_takeBranch h rfl (State.putW_stepped _ _ _ _) (State.putW_cmds _ _ _ _)

theorem execLpad_begins (h : s.begins (.lpad t l) = true) : exec (.lpad t l) s = .next (s.after s.unheld) := by
  show execLpad t l s = _
  unfold execLpad
  exact issue_plain h rfl rfl rfl

end

/-! ### Landing pads -/

/-- R89: a word is a pad with a label exactly when it is the word of `lpad` and the label is not the reserved one. -/
theorem padLabel_eq_some_iff {w : W32} {m : BitVec 12} : padLabel w = some m ↔ m ≠ 0xFFF ∧ ∃ q, w = encode (.lpad q m) := by
  have hq : ∀ q : Bool, bitOf q = q.toNat := fun q => by cases q <;> rfl
  have word : ∀ q, (encode (.lpad q m)).toNat = 3623878656 + q.toNat * 16777216 + m.toNat := by
    intro q
    show (BitVec.ofNat 32 (3623878656 + bitOf q * 16777216 + m.toNat)).toNat = _
    have hm := m.isLt
    have hb := q.toNat_le
    rw [hq, BitVec.toNat_ofNat]
    omega
  have hm := m.isLt
  have hmne : m ≠ 0xFFF ↔ m.toNat ≠ 0xFFF := by rw [Ne, ← BitVec.toNat_inj]; rfl
  unfold padLabel
  rw [hmne]
  constructor
  · intro h
    split at h
    case isFalse => cases h
    case isTrue hw =>
      obtain ⟨hop, hres, hlab⟩ := hw
      obtain rfl := Option.some.inj h
      refine ⟨by rwa [BitVec.toNat_setWidth], decide (w.toNat / 2 ^ 24 % 2 = 1), BitVec.eq_of_toNat_eq ?_⟩
      rw [word, BitVec.toNat_setWidth]
      have hbit : (decide (w.toNat / 2 ^ 24 % 2 = 1)).toNat = w.toNat / 2 ^ 24 % 2 := by
        rcases Nat.mod_two_eq_zero_or_one (w.toNat / 2 ^ 24) with e | e <;> rw [e] <;> rfl
      omega
  · rintro ⟨hne, q, rfl⟩
    have hb := q.toNat_le
    rw [word, if_pos (by omega)]
    congr 1
    apply BitVec.eq_of_toNat_eq
    rw [BitVec.toNat_setWidth, word]
    omega

theorem State.endOf_unheld (s : State) (t : ThreadId) : s.unheld.endOf t = s.endOf t := by
  cases t with
  | gang g k =>
    obtain ⟨b, x, h⟩ := s.group_unheld g
    simp only [State.endOf, h]
  | _ => rw [s.unheld_eq]; rfl

section

variable {s s1 : State} {t : ThreadId} {a : Addr} {l m : BitVec 12} {w : W32}
  (he : s.endOf t ≠ some a) (hf : s.fetchWord t a = (s1, .word w))
include he hf

theorem padTarget_pad (hl : padLabel w = some l) : padTarget s t a l = .goto s1 a := by
  simp only [padTarget, if_neg he, hf, hl, if_true]

theorem padTarget_otherPad (hl : padLabel w = some m) (hm : m ≠ l) :
    padTarget s t a l = .trap (Trap.controlFlow 2 (a.setWidth 64)) := by
  simp only [padTarget, if_neg he, hf, hl, if_neg hm]

theorem padTarget_noPad (hl : padLabel w = none) : padTarget s t a l = .trap (Trap.controlFlow 1 (a.setWidth 64)) := by
  simp only [padTarget, if_neg he, hf, hl]

end

/-! ### Indirect transfers -/

section

variable {s : State} {t : Bool} {a : BitVec 6} {l : BitVec 12} (h : s.begins (.jmpr t a l) = true)
include h

theorem execJmpr_outOfRange (hx : 2 ^ 48 ≤ (s.getW s.cur a.toNat).toNat) :
    exec (.jmpr t a l) s = .next (s.trapped (.jmpr t a l) { kind := 0x04, addr := s.getW s.cur a.toNat }) := by
  show execJmpr t a l s = _
  unfold execJmpr
  rw [← State.getW_unheld] at hx ⊢
  have hr : inRange (s.unheld.getW s.cur a.toNat) = false := decide_eq_false (not_lt.2 hx)
  exact issue_traps h (if_pos (by rw [hr]; rfl))

variable (hx : (s.getW s.cur a.toNat).toNat < 2 ^ 48)
include hx

theorem execJmpr_misaligned (hm : (s.getW s.cur a.toNat).toNat % 4 ≠ 0) :
    exec (.jmpr t a l) s = .next (s.trapped (.jmpr t a l) { kind := 0x05, addr := s.getW s.cur a.toNat }) := by
  show execJmpr t a l s = _
  unfold execJmpr
  rw [← State.getW_unheld] at hx hm ⊢
  refine issue_traps h ?_
  simp only [inRange_iff.2 hx, Bool.not_true, Bool.false_eq_true, if_false, if_pos hm]
  rfl

variable (hm : (s.getW s.cur a.toNat).toNat % 4 = 0)
include hm

/-- R90: an aligned address below 2^48 with the label that any pad has. -/
theorem execJmpr_any (hl : l = 0xFFF) : exec (.jmpr t a l) s = .next (s.afterJump s.unheld ((s.getW s.cur a.toNat).setWidth 48)) := by
  show execJmpr t a l s = _
  unfold execJmpr
  rw [← State.getW_unheld] at hx hm ⊢
  refine issue_goto h ?_ rfl rfl
  simp only [inRange_iff.2 hx, Bool.not_true, Bool.false_eq_true, if_false, hm, ne_eq, not_true_eq_false, if_pos hl]

/-- R90: an aligned address below 2^48 with a label goes on to the pad there. -/
theorem execJmpr_label (hl : l ≠ 0xFFF) :
    exec (.jmpr t a l) s = issue (.jmpr t a l) s fun th u => padTarget u th ((s.getW s.cur a.toNat).setWidth 48) l := by
  show execJmpr t a l s = _
  unfold execJmpr
  rw [← State.getW_unheld] at hx hm ⊢
  rw [issue_begins h, issue_begins h]
  simp only [inRange_iff.2 hx, Bool.not_true, Bool.false_eq_true, if_false, hm, ne_eq, not_true_eq_false, if_neg hl]

end

section

variable {s s1 : State} {t : Bool} {a : BitVec 6} {n : BitVec 12} {w : W32} (h : s.begins (.jmpt t a n) = true)
  (hf : s.unheld.fetchWord s.cur (s.pcOf s.cur + 4) = (s1, .word w))
include h hf

theorem execJmpt_header (hw : 2 ^ 12 ≤ w.toNat ∨ w.toNat = 0xFFF) :
    exec (.jmpt t a n) s = .next (s.trapped (.jmpt t a n) { kind := 0x07, cause := 3, addr := (s.pcOf s.cur + 4).setWidth 64 }) := by
  show execJmpt t a n s = _
  unfold execJmpt
  rw [← State.pcOf_unheld s s.cur] at hf ⊢
  refine issue_traps h ?_
  simp only [hf]
  rw [if_pos (by omega)]
  rfl

variable (hw : w.toNat < 0xFFF)
include hw

theorem execJmpt_past (hx : n.toNat ≤ (s1.getW s.cur a.toNat).toNat) :
    exec (.jmpt t a n) s = .next (s.afterJump s1 (s.pcOf s.cur + 8 + 4 * n.setWidth 48)) := by
  show execJmpt t a n s = _
  unfold execJmpt
  rw [← State.pcOf_unheld s s.cur] at hf ⊢
  refine issue_goto_walk h ?_ (hf ▸ s.unheld.walkStep_fetchWord s.cur (s.unheld.pcOf s.cur + 4) :)
  simp only [hf]
  rw [if_neg (by omega), if_pos hx]

theorem execJmpt_entry (hx : (s1.getW s.cur a.toNat).toNat < n.toNat) {s2 s3 : State} {e : W32} {q : Bool}
    (hf2 : s1.fetchWord s.cur (s.pcOf s.cur + 8 + 4 * (s1.getW s.cur a.toNat).setWidth 48) = (s2, .word e))
    (hlo : 0 ≤ ((s.pcOf s.cur).toNat : Int) + 4 * e.toInt) (hhi : ((s.pcOf s.cur).toNat : Int) + 4 * e.toInt < 2 ^ 48)
    (hend : s2.endOf s.cur ≠ some (BitVec.ofInt 48 ((s.pcOf s.cur).toNat + 4 * e.toInt)))
    (hf3 : s2.fetchWord s.cur (BitVec.ofInt 48 ((s.pcOf s.cur).toNat + 4 * e.toInt)) = (s3, .word (encode (.lpad q (w.setWidth 12))))) :
    exec (.jmpt t a n) s = .next (s.afterJump s3 (BitVec.ofInt 48 ((s.pcOf s.cur).toNat + 4 * e.toInt))) := by
  have hlab : (w.setWidth 12 : BitVec 12) ≠ 0xFFF := by
    rw [Ne, ← BitVec.toNat_inj, BitVec.toNat_setWidth]
    have hF : (0xFFF : BitVec 12).toNat = 0xFFF := rfl
    omega
  have hpad := padTarget_pad hend hf3 (padLabel_eq_some_iff.2 ⟨hlab, q, rfl⟩)
  show execJmpt t a n s = _
  unfold execJmpt
  rw [← State.pcOf_unheld s s.cur] at *
  have walk1 : s.unheld.WalkStep s1 := (hf ▸ s.unheld.walkStep_fetchWord s.cur (s.unheld.pcOf s.cur + 4) :)
  have walk2 : s1.WalkStep s2 := (hf2 ▸ s1.walkStep_fetchWord s.cur _ :)
  have walk3 : s2.WalkStep s3 := (hf3 ▸ s2.walkStep_fetchWord s.cur _ :)
  refine issue_goto_walk h ?_ ((walk1.trans walk2).trans walk3)
  simp only [hf]
  rw [if_neg (by omega), if_neg (not_le.2 hx)]
  simp only [hf2]
  rw [pcRelative_eq, inRange_ofInt (pcRelative_bounds (by decide) _ e), setWidth_ofInt_range ⟨hlo, hhi⟩,
    decide_eq_true ⟨hlo, hhi⟩, if_neg (by decide)]
  exact hpad

end

/-! ### The word `pfx` -/

section

variable {s s1 : State} {imm : BitVec 25} {w : W32} (h : s.begins (.immx imm) = true)
  (hf : s.unheld.fetchWord s.cur (s.pcOf s.cur + 4) = (s1, .word w))
include h hf

theorem execImmx_wide {i : Instr} (hdec : decode w = .ok i) (hwide : (shape i).wide = true) :
    exec (.immx imm) s = .next { s1.setPc s.cur (s.pcOf s.cur + 4) with pfx := some imm } := by
  show execImmx imm s = _
  unfold execImmx
  rw [issue_begins h]
  simp only [State.pcOf_unheld, hf, hdec, hwide, if_true]
  rfl

theorem execImmx_illegal (hill : ∀ i, decode w = .ok i → (shape i).wide = false) :
    exec (.immx imm) s = .next (s.trapped (.immx imm) { kind := 0x01 }) := by
  show execImmx imm s = _
  unfold execImmx
  refine issue_traps h ?_
  simp only [State.pcOf_unheld, hf]
  split
  case h_1 i hdec => rw [if_neg (by simp [hill i hdec])]; rfl
  case h_2 => rfl

end

end Sys2Proof.Machine

open Sys2Proof Sys2Proof.Machine in
/-- Settles O22, word by word. -/
theorem transfersAndPrefix : Obligations.TransfersAndPrefix := by
  refine ⟨fun s k n t o l => ⟨execBra_begins, execCall_begins, execLpad_begins⟩, ?_,
    fun s s1 imm w h hf => ⟨fun i => execImmx_wide h hf, execImmx_illegal h hf⟩⟩
  intro s t a l n u x pc i j
  refine ⟨fun h => ⟨execJmpr_outOfRange h, execJmpr_misaligned h, execJmpr_any h, ?_⟩,
    fun h s1 w hf => ⟨execJmpt_header h hf, execJmpt_past h hf, fun hw hx s2 s3 e q => execJmpt_entry h hf hw hx⟩⟩
  intro hx hm hl hend s1 w hf
  rw [execJmpr_label h hx hm hl]
  rw [← State.endOf_unheld] at hend
  have walk : u.WalkStep s1 := (hf ▸ u.walkStep_fetchWord s.cur (x.setWidth 48) :)
  refine ⟨?_, ?_, ?_⟩
  · rintro ⟨q, hw⟩
    exact issue_goto_walk h (padTarget_pad hend hf (padLabel_eq_some_iff.2 ⟨hl, q, hw⟩)) walk
  · intro q m hml hm hw
    rw [issue_traps h (padTarget_otherPad hend hf (padLabel_eq_some_iff.2 ⟨hm, q, hw⟩) hml), setWidth_of_inRange hx]
    rfl
  · intro hno
    have hnone : padLabel w = none := by
      refine Option.eq_none_iff_forall_ne_some.2 fun m hm => ?_
      obtain ⟨hne, q, hw⟩ := padLabel_eq_some_iff.1 hm
      exact hno q m hne hw
    rw [issue_traps h (padTarget_noPad hend hf hnone), setWidth_of_inRange hx]
    rfl

end

section
/-! PROOFS. System registers (R18 to R20, R62, R69, R93, R182, R338): a write of one leaves the step flags of groups alone, so
that `sr` completes with its effect. -/

namespace Sys2Proof.Machine

/-- A read of a table after a change of an entry. -/
theorem Tbl.find?_modify {α : Type} (m : Tbl α) (k : Nat) (f : α → α) (j : Nat) :
    (m.modify k f).find? j = if j = k then (m.find? k).map f else m.find? j := by
  unfold Tbl.modify
  cases h : m.find? k with
  | none =>
    dsimp only
    split
    case isTrue hj => rw [hj, h]; rfl
    case isFalse => rfl
  | some x => rw [Tbl.find?_insert]; rfl

theorem State.part_modPart {s : State} {p : Nat} (f : Part → Part) (h : (s.parts.find? p).isSome = true) :
    (s.modPart p f).part p = f (s.part p) := by
  obtain ⟨x, hx⟩ := Option.isSome_iff_exists.1 h
  simp only [State.part, State.modPart, Tbl.find?_modify, if_true, hx, Option.map_some, Option.getD_some]

/-! ### Step flags (R308) -/

/-- Every group has the step flag that it has in another state. -/
def State.SameSteps (s t : State) : Prop := ∀ g, (t.group g).step = (s.group g).step

namespace State.SameSteps

theorem refl (s : State) : s.SameSteps s := fun _ => rfl

theorem trans {s t u : State} (h : s.SameSteps t) (k : t.SameSteps u) : s.SameSteps u := fun g => (k g).trans (h g)

theorem of_groups {s t : State} (h : t.groups = s.groups) : s.SameSteps t := fun g => by simp only [State.group, h]

theorem of_memStep {s t : State} (h : s.MemStep t) : s.SameSteps t := of_groups h.groups_eq

theorem of_walkStep {s t : State} (h : s.WalkStep t) : s.SameSteps t := of_groups h.groups_eq

theorem foldl {α : Type} {f : State → α → State} (hf : ∀ (t : State) x, t.SameSteps (f t x)) (l : List α) (s : State) :
    s.SameSteps (l.foldl f s) := by
  induction l generalizing s with
  | nil => exact refl s
  | cons x l ih => exact (hf s x).trans (ih _)

theorem stepped {s t : State} (h : s.SameSteps t) (th : ThreadId) : t.stepped th = s.stepped th := by
  cases th with
  | gang g k => rw [State.stepped_gang, State.stepped_gang, h g]
  | _ => rfl

end State.SameSteps

section

variable (s : State)

theorem State.sameSteps_setGroup {g : Nat} {x : Group} (h : x.step = (s.group g).step) : s.SameSteps (s.setGroup g x) := by
  intro j
  by_cases hj : j = g
  · rw [hj, State.group_setGroup, h]
  · rw [State.group_setGroup_ne _ _ hj]

theorem State.sameSteps_setScalar (t : ThreadId) (x : Scalar) : s.SameSteps (s.setScalar t x) := by
  cases t <;> exact .of_groups rfl

theorem State.sameSteps_setUni (t : ThreadId) (u : Uni) : s.SameSteps (s.setUni t u) := by
  cases t with
  | gang g k => exact s.sameSteps_setGroup rfl
  | _ => exact s.sameSteps_setScalar _ _

theorem State.sameSteps_setPc (t : ThreadId) (a : Addr) : s.SameSteps (s.setPc t a) := by
  cases t with
  | gang g k => exact s.sameSteps_setGroup rfl
  | _ => exact s.sameSteps_setScalar _ _

theorem State.sameSteps_setWaiting (t : ThreadId) (b : Bool) : s.SameSteps (s.setWaiting t b) := by
  cases t with
  | gang g k => exact s.sameSteps_setGroup rfl
  | _ => exact s.sameSteps_setScalar _ _

theorem State.sameSteps_setServing (t : ThreadId) (v : Option Nat) (ret : Addr) : s.SameSteps (s.setServing t v ret) := by
  cases t with
  | gang g k => exact s.sameSteps_setGroup rfl
  | _ => exact s.sameSteps_setScalar _ _

theorem State.sameSteps_notify (part kind ctx arg : Nat) : s.SameSteps (s.notify part kind ctx arg) := .of_groups rfl

theorem State.sameSteps_modVec (part ctx v : Nat) (f : HVec → HVec) : s.SameSteps (s.modVec part ctx v f) := .of_groups rfl

theorem State.sameSteps_setTeam (k : Nat) (x : Team) : s.SameSteps (s.setTeam k x) := .of_groups rfl

theorem State.sameSteps_finishHalt (team : Nat) : s.SameSteps (s.finishHalt team) := by
  unfold State.finishHalt
  dsimp only
  split
  · exact .refl s
  · split
    · refine .trans ?_ (State.sameSteps_notify _ _ _ _ _)
      refine .trans ?_ (State.sameSteps_setTeam _ _ _)
      exact .of_memStep (s.memStep_releasePart _)
    · exact .refl s

/-- A Single-Step trap leaves the step flags as they are. -/
theorem State.sameSteps_singleStep {g k : Nat} {pc resume : Addr} {word : W32} :
    s.SameSteps (s.takeTrap (.gang g k) { kind := 0x19 } pc resume word) := by
  unfold State.takeTrap
  dsimp only
  rw [if_pos rfl]
  refine .trans ?_ (State.sameSteps_finishHalt _ _)
  refine .trans ?_ (State.sameSteps_notify _ _ _ _ _)
  refine .trans ?_ (.of_memStep (memStep_releasePart _ _))
  refine .trans ?_ (State.sameSteps_setGroup _ rfl)
  exact .of_walkStep (s.walkStep_writeRecord _ _)

theorem State.sameSteps_stepParked (t : ThreadId) (pc : Addr) : s.SameSteps (s.stepParked t pc) := by
  cases t with
  | gang g k =>
    unfold State.stepParked
    dsimp only
    split
    · split
      · exact s.sameSteps_singleStep
      · exact .refl s
    · exact .refl s
  | _ => exact .refl s

theorem State.sameSteps_parkedFor (g : Nat) (why : Park) : s.SameSteps (s.parkedFor g why) := by
  unfold State.parkedFor
  split
  · exact s.sameSteps_setGroup rfl
  · exact .refl s

theorem State.sameSteps_deliverTo (t : ThreadId) (d v : Nat) (ret : Addr) : s.SameSteps (s.deliverTo t d v ret).1 := by
  unfold State.deliverTo
  dsimp only
  refine .trans ?_ (.of_memStep (memStep_foldHail _ _ _))
  refine .trans ?_ (State.sameSteps_setServing _ _ _ _)
  refine .trans ?_ (State.sameSteps_modVec _ _ _ _ _)
  refine .trans ?_ (State.sameSteps_setUni _ _ _)
  exact s.sameSteps_setUni _ _

theorem State.sameSteps_modifyGroup (g : Nat) (f : Group → Group) (h : ∀ x, (f x).step = x.step) :
    s.SameSteps { s with groups := s.groups.modify g f } := by
  intro j
  simp only [State.group, Tbl.find?_modify]
  split
  case isTrue hj =>
    rw [hj]
    cases s.groups.find? g with
    | none => rfl
    | some x => exact h x
  case isFalse => rfl

theorem State.sameSteps_serveTaker (x : Nat × ThreadId × Nat × Nat) : s.SameSteps (s.serveTaker x) := by
  obtain ⟨n, t, d, a⟩ := x
  unfold State.serveTaker
  dsimp only
  split
  · exact .refl s
  · rename_i v _
    have gone : s.SameSteps (((s.deliverTo t d v (s.pcOf t)).1.setPc t (s.deliverTo t d v (s.pcOf t)).2).setWaiting t false) :=
      ((s.sameSteps_deliverTo t d v _).trans (State.sameSteps_setPc _ _ _)).trans (State.sameSteps_setWaiting _ _ _)
    split
    · refine .trans (gone.trans ?_) (State.sameSteps_stepParked _ _ _)
      refine .trans ?_ (State.sameSteps_parkedFor _ _ _)
      exact State.sameSteps_modifyGroup _ _ _ fun x => rfl
    · exact gone.trans (State.sameSteps_setScalar _ _ _)

theorem State.sameSteps_serveTakers (part ctx : Nat) : s.SameSteps (s.serveTakers part ctx) := by
  unfold State.serveTakers
  split
  · exact .foldl (fun t x => t.sameSteps_serveTaker x) _ _
  · split
    · exact .refl s
    · exact .foldl (fun t x => t.sameSteps_serveTaker x) _ _
  · exact .refl s

theorem State.sameSteps_setHmask (part ctx : Nat) (m : W32) : s.SameSteps (s.setHmask part ctx m) := by
  refine .trans ?_ (State.sameSteps_serveTakers _ _ _)
  exact .foldl (fun t v => t.sameSteps_modVec _ _ _ _) _ _

theorem State.sameSteps_writeFpctl (t : ThreadId) (v : W64) : s.SameSteps (s.writeFpctl t v) := by
  unfold State.writeFpctl
  dsimp only
  split
  · split
    · exact (s.sameSteps_setUni _ _).trans (State.sameSteps_setGroup _ rfl)
    · exact s.sameSteps_setUni _ _
  · exact s.sameSteps_setUni _ _

/-- R20: a write of a User register leaves the step flags alone. -/
theorem State.sameSteps_writeSr {t : ThreadId} {n : Nat} {v : W64} {w : State} (hn : n < 0x200) (h : s.writeSr t n v = some w) :
    s.SameSteps w := by
  unfold State.writeSr at h
  dsimp only at h
  split at h
  · split at h
    · cases h; exact s.sameSteps_writeFpctl _ _
    · cases h
  · cases h; exact s.sameSteps_setUni _ _
  · cases h
    split
    · exact .of_groups rfl
    · exact .refl s
  · cases h
    split
    · exact s.sameSteps_setHmask _ _ _
    · exact .refl s
  · cases h
    split
    · exact s.sameSteps_setGroup rfl
    · exact .refl s
  iterate 8 exact absurd hn (by decide)
  · cases h; exact .refl s

end

/-! ### The word `sr` -/

theorem State.readSr_stepped (s : State) (t th : ThreadId) (n : Nat) : (s.readSr t n).1.stepped th = s.stepped th := by
  unfold State.readSr
  split
  · unfold State.popNotice
    split <;> split <;> rfl
  · split <;> rfl

section

variable {s : State} {t : Bool} {d a : BitVec 6} {n : BitVec 12}

/-- R18, R20: in group code an `sr` word that begins names a User register. -/
theorem srNumber_lt_of_gang {g k : Nat} (hc : s.cur = .gang g k) (h : s.begins (.sr t d a n) = true) : n.toNat < 0x200 := by
  by_contra hn
  obtain ⟨hdec, -, hsr, -⟩ := (gate_eq_run_iff _ s).1 ((s.begins_iff _).1 h).1
  obtain ⟨-, -, -, hwf, -⟩ := hdec
  rw [hc, show levelOf (.gang g k) = 0 from rfl, srGate_privilege (not_lt.1 hn) hwf] at hsr
  cases hsr

theorem execSr_reads (h : s.begins (.sr t d a n) = true) (hd : d ≠ 0) :
    exec (.sr t d a n) s =
      .next (s.after ((s.unheld.readSr s.cur n.toNat).1.putW s.cur d.toNat (s.unheld.readSr s.cur n.toNat).2)) := by
  show execSr t d a n s = _
  unfold execSr
  rw [issue_begins h]
  simp only [if_neg hd]
  rw [settle_done h]
  · rw [State.putW_stepped, State.readSr_stepped, State.unheld_stepped h]
  · exact .inl rfl

theorem execSr_writes (h : s.begins (.sr t 0 a n) = true) {w : State}
    (hw : s.unheld.writeSr s.cur n.toNat (s.getW s.cur a.toNat) = some w) : exec (.sr t 0 a n) s = .next (s.after w) := by
  show execSr t 0 a n s = _
  unfold execSr
  rw [issue_begins h]
  simp only [State.getW_unheld, hw, if_true]
  rw [settle_done h]
  · cases hc : s.cur with
    | gang g k =>
      rw [← hc, (State.sameSteps_writeSr _ (srNumber_lt_of_gang hc h) hw).stepped, State.unheld_stepped h]
    | _ => exact State.stepped_other _ (by simp)
  · exact .inl rfl

theorem execSr_refused (h : s.begins (.sr t 0 a n) = true)
    (hw : s.unheld.writeSr s.cur n.toNat (s.getW s.cur a.toNat) = none) :
    exec (.sr t 0 a n) s = .next (s.trapped (.sr t 0 a n) { kind := 0x01 }) := by
  show execSr t 0 a n s = _
  unfold execSr
  refine issue_traps h ?_
  simp only [State.getW_unheld, hw, if_true]
  rfl

end

/-! ### Registers and the effects of writing them -/

theorem fpctlOk_iff {v : W64} : fpctlOk v = true ↔ 1 ≤ v.toNat % 8 ∧ v.toNat % 8 ≤ 4 ∧ v.toNat / 2 ^ 10 % 2 ^ 22 = 0 := by
  simp only [fpctlOk, Bool.and_eq_true, decide_eq_true_eq, and_assoc]

theorem isSome_writeSr_fpctl {s : State} {t : ThreadId} {v : W64} : (s.writeSr t 0x020 v).isSome = fpctlOk v := by
  show (if fpctlOk v then some (s.writeFpctl t v) else none).isSome = _
  cases fpctlOk v <;> rfl

section

variable {s : State} {n : BitVec 12} {v : W64} {w : State}

theorem execRegisterWrite_some (hg : srGate (.sr false 0 0 n) (levelOf s.cur) = none) (h : s.writeSr s.cur n.toNat v = some w) :
    exec (.registerWrite n v) s = .next w := by
  show execRegisterWrite n v s = _
  simp only [execRegisterWrite, hg, h, event, Option.isNone_none, if_true, Option.getD_some]

theorem execFpctlReseed_ok (hv : fpctlOk v = true) (h9 : v.getLsbD 9 = true) :
    exec (.fpctlReseed v) s = .next (s.writeFpctl s.cur v) := by
  show execFpctlReseed v s = _
  simp only [execFpctlReseed, hv, h9, event, Bool.and_self, if_true]

theorem execPwrctlPoint_some {point : BitVec 3} (h : s.writePwrctl (setField s.root.pwrctl 0 3 point.toNat) = some w) :
    exec (.pwrctlPoint point) s = .next w := by
  show execPwrctlPoint point s = _
  rw [execPwrctlPoint, h]
  rfl

theorem execPwrctlGate_some {gate : BitVec 16} (h : s.writePwrctl (setField s.root.pwrctl 8 16 gate.toNat) = some w) :
    exec (.pwrctlGate gate) s = .next w := by
  show execPwrctlGate gate s = _
  rw [execPwrctlGate, h]
  rfl

end

section

variable {s : State} {p : Nat}

theorem State.popNotice_nil (h : (s.part p).notices = []) : s.popNotice (.service p) = (s, ones64) := by
  simp only [State.popNotice, State.partOf, h]

theorem State.popNotice_cons {n : Notice} {rest : List Notice} (h : (s.part p).notices = n :: rest) :
    s.popNotice (.service p) = (s.modPart p fun q => { q with notices := rest }, n.word) := by
  simp only [State.popNotice, State.partOf, h]

end

/-- R338: a queue whose last entry is not the overflow entry has room up to its last place, which the overflow entry takes. -/
theorem pushNotice_eq {q : List Notice} {n : Notice} (hq : ∀ m, m ∈ q → m.kind ≠ 7) :
    pushNotice q n = if q.length < 1023 then q ++ [n] else q ++ [⟨7, 0xFF, 1⟩] := by
  unfold pushNotice
  split
  case h_1 l hl => rw [if_neg (hq l (List.mem_of_getLast? hl))]
  case h_2 hl => rw [List.getLast?_eq_none_iff.1 hl]; rfl

section

variable {s : State} {part vpn asid : Nat} {e : Nat × TlbEnt} (he : e ∈ s.tlb)
include he

theorem State.mem_dropPage_tlb : e ∈ (s.dropPage part vpn asid).tlb ↔
    ¬ (tlbOwner e.1 = 2 ^ 16 * part + asid ∧ e.1 % 2 ^ 36 = 4096 * vpn / pageSize e.2.level) := by
  simp [State.dropPage, he, imp_iff_not_or]

theorem State.mem_dropAsid_tlb : e ∈ (s.dropAsid part asid).tlb ↔ tlbOwner e.1 ≠ 2 ^ 16 * part + asid := by
  simp [State.dropAsid, he]

theorem State.mem_dropAllAsid_tlb : e ∈ (s.dropAllAsid part).tlb ↔ tlbOwner e.1 / 2 ^ 16 ≠ part := by
  simp [State.dropAllAsid, he]

end

end Sys2Proof.Machine

open Sys2Proof Sys2Proof.Machine in
/-- Settles O40, word by word and register by register. -/
theorem systemRegisters : Obligations.SystemRegisters := by
  refine ⟨?_, ?_, ?_, ?_, ?_⟩
  · intro s t d a n part v vpn asid point gate u x
    exact ⟨execSr_reads, fun h => ⟨fun w hw => execSr_writes h hw, execSr_refused h⟩, fun hg w hw => execRegisterWrite_some hg hw,
      fun h1 h4 hr h9 => execFpctlReseed_ok (fpctlOk_iff.2 ⟨h1, h4, hr⟩) h9, rfl, rfl, rfl, rfl,
      fun _ w hw => execPwrctlPoint_some hw, fun w hw => execPwrctlGate_some hw⟩
  · intro s t v
    refine ⟨rfl, rfl, rfl, rfl, rfl, by rw [isSome_writeSr_fpctl, fpctlOk_iff], ?_, ?_⟩
    · rintro g k rfl
      exact ⟨rfl, rfl⟩
    · intro hng
      cases t with
      | gang g k => exact absurd rfl (hng g k)
      | _ => exact ⟨rfl, rfl⟩
  · intro s p hp
    refine ⟨State.popNotice_nil, fun n rest h => ?_⟩
    rw [State.popNotice_cons h, State.part_modPart _ hp]
    exact ⟨rfl, rfl⟩
  · intro q n _ hq
    rw [pushNotice_eq hq]
    exact ⟨fun hl => if_pos hl, fun hl => if_neg (not_lt.2 hl)⟩
  · intro s part vpn asid e he
    exact ⟨State.mem_dropPage_tlb he, State.mem_dropAsid_tlb he, State.mem_dropAllAsid_tlb he⟩

end

section
/-! PROOFS. Divergence and reconvergence within a slice (R147 to R149). -/

namespace Sys2Proof.Machine

/-! ### What forgetting a hold leaves of a gang -/

theorem State.mapSlices_stepped (s : State) (t : ThreadId) (f : Nat → Slice → Slice) :
    (s.mapSlices t f).stepped t = s.stepped t := by
  cases t with
  | gang g k => simp only [State.mapSlices, State.stepped_gang, State.group_setGroup]
  | _ => rfl

theorem State.mapSlices_cmds (s : State) (t : ThreadId) (f : Nat → Slice → Slice) : (s.mapSlices t f).cmds = s.cmds := by
  cases t <;> rfl

theorem Group.step_regroup (x : Group) (k : Nat) : (x.regroup k).step = x.step := by
  unfold Group.regroup Group.handMarks
  dsimp only
  split <;> rfl

theorem State.regroup_stepped (s : State) (t : ThreadId) : (s.regroup t).stepped t = s.stepped t := by
  cases t with
  | gang g k => simp only [State.regroup, State.stepped_gang, State.group_setGroup, Group.step_regroup]
  | _ => rfl

/-- A word that begins and sets its slices' program counters itself leaves the state of `State.afterMoved`. -/
theorem settle_moved {s s' : State} {i : Instr} {jumped : BitVec 8} (h : s.begins i = true) (h1 : s'.stepped s.cur = false)
    (h2 : (shape i).vdst = []) : settle i s (.moved s' jumped) = s.afterMoved s' jumped := by
  show (s'.finishWord s s.cur i s.wordPc).landAt s.cur jumped = _
  rw [State.finishWord_plain h h1 (.inl h2)]
  rfl

/-! ### Branches of a slice -/

section

variable (sl : Slice) (pc tgt : Addr) {tk : BitVec 4}

theorem Slice.branch_all : sl.branch pc tgt sl.act = { sl with pc := tgt } := if_pos rfl

theorem Slice.branch_none (h : sl.act ≠ 0) : sl.branch pc tgt 0 = { sl with pc := pc + 4 } := by
  rw [Slice.branch, if_neg h.symm, if_pos rfl]

theorem Slice.branch_split (h : tk ≠ sl.act) (h0 : tk ≠ 0) {j : Addr} (hj : sl.jp = some j) :
    sl.branch pc tgt tk = { sl with act := sl.act &&& ~~~tk, pc := pc + 4, stack := ⟨j, sl.act, tgt, tk⟩ :: sl.stack } := by
  rw [Slice.branch, if_neg h, if_neg h0, hj]
  rfl

end

/-- R148: no slice of a gang splits that may not. -/
theorem brdTrap_eq_none {tk : Nat → Slice → BitVec 4} {l : List (Nat × Slice)}
    (h : ∀ e, e ∈ l → tk e.1 e.2 = 0 ∨ tk e.1 e.2 = e.2.act ∨ (e.2.jp.isSome = true ∧ e.2.stack.length < 8)) :
    brdTrap tk l = none := by
  induction l with
  | nil => rfl
  | cons e l ih =>
    obtain ⟨i, sl⟩ := e
    have rest := ih fun e he => h e (List.mem_cons_of_mem _ he)
    unfold brdTrap
    split
    case isTrue hsplit =>
      obtain ⟨hjp, hfull⟩ := ((h (i, sl) List.mem_cons_self).resolve_left hsplit.2).resolve_left hsplit.1
      rw [if_neg (by simpa [Option.isNone_iff_eq_none, ← Option.isSome_iff_ne_none] using hjp), if_neg (by simpa using hfull), rest]
    case isFalse => exact rest

/-- The numbers below 8 of the slices for which a test holds, as a mask. -/
theorem getLsbD_maskOf (l : List (Nat × Slice)) (f : Nat → Slice → Bool) {i : Nat} (hi : i < 8) :
    (maskOf l f).getLsbD i = true ↔ ∃ e, e ∈ l ∧ e.1 = i ∧ f e.1 e.2 = true := by
  have fold : ∀ (l : List (Nat × Slice)) (m : BitVec 8),
      (l.foldl (fun m e => if f e.1 e.2 then setBit m e.1 true else m) m).getLsbD i = true ↔
        m.getLsbD i = true ∨ ∃ e, e ∈ l ∧ e.1 = i ∧ f e.1 e.2 = true := by
    intro l
    induction l with
    | nil => simp
    | cons e l ih =>
      intro m
      rw [List.foldl_cons, ih]
      by_cases hf : f e.1 e.2 = true
      · rw [if_pos hf, getLsbD_setBit _ _ _ _ hi]
        by_cases he : e.1 = i
        · have hfi : f i e.2 = true := he ▸ hf
          simp [he, hfi]
        · simp [he, Ne.symm he]
      · simp [hf]
  rw [maskOf, fold]
  simp

theorem maskOf_eq {l : List (Nat × Slice)} {f : Nat → Slice → Bool} {m : BitVec 8}
    (h : ∀ i, i < 8 → (m.getLsbD i = true ↔ ∃ e, e ∈ l ∧ e.1 = i ∧ f e.1 e.2 = true)) : maskOf l f = m := by
  refine BitVec.eq_of_getLsbD_eq fun i hi => ?_
  rw [Bool.eq_iff_iff, getLsbD_maskOf l f hi, h i hi]

/-! ### The words -/

section

variable {s : State} {o : BitVec 21} {p : BitVec 3} {n : Bool}

theorem execJpt_begins (h : s.begins (.jpt o) = true) :
    exec (.jpt o) s =
      .next (if 0 ≤ ((s.pcOf s.cur).toNat : Int) + 4 * o.toInt ∧ ((s.pcOf s.cur).toNat : Int) + 4 * o.toInt < 2 ^ 48 then
        s.after (s.unheld.mapSlices s.cur fun _ sl => { sl with jp := some (BitVec.ofInt 48 ((s.pcOf s.cur).toNat + 4 * o.toInt)) })
      else s.trapped (.jpt o) { kind := 0x04, addr := BitVec.ofInt 64 ((s.pcOf s.cur).toNat + 4 * o.toInt) }) := by
  show execJpt o s = _
  unfold execJpt
  rw [← State.pcOf_unheld s s.cur]
  split
  case isTrue hr =>
    refine issue_plain h ?_ (State.mapSlices_stepped _ _ _) (State.mapSlices_cmds _ _ _)
    simp only [branchTarget_eq, inRange_ofInt (pcRelative_bounds (by decide) _ o), hr, setWidth_ofInt_range hr,
      and_self, decide_true, if_true]
  case isFalse hr =>
    refine issue_traps h ?_
    simp only [branchTarget_eq, inRange_ofInt (pcRelative_bounds (by decide) _ o), decide_eq_false hr, Bool.false_eq_true, if_false]
    rfl

section

variable (h : s.begins (.brd p n o) = true) (hlo : 0 ≤ ((s.pcOf s.cur).toNat : Int) + 4 * o.toInt)
  (hhi : ((s.pcOf s.cur).toNat : Int) + 4 * o.toInt < 2 ^ 48)
include h hlo hhi

theorem execBrd_moves {m : BitVec 8}
    (hsplit : ∀ e, e ∈ s.unheld.slicesOf s.cur → s.unheld.sliceCond s.cur p.toNat n e.1 e.2.act = 0 ∨
      s.unheld.sliceCond s.cur p.toNat n e.1 e.2.act = e.2.act ∨ (e.2.jp.isSome = true ∧ e.2.stack.length < 8))
    (hm : ∀ i, i < 8 → (m.getLsbD i = true ↔
      ∃ e, e ∈ s.unheld.slicesOf s.cur ∧ e.1 = i ∧ s.unheld.sliceCond s.cur p.toNat n e.1 e.2.act = e.2.act)) :
    exec (.brd p n o) s = .next (s.afterMoved ((s.unheld.mapSlices s.cur fun i sl =>
      sl.branch (s.pcOf s.cur) (BitVec.ofInt 48 ((s.pcOf s.cur).toNat + 4 * o.toInt))
        (s.unheld.sliceCond s.cur p.toNat n i sl.act)).regroup s.cur) m) := by
  show execBrd p n o s = _
  unfold execBrd
  rw [issue_begins h]
  simp only [branchTarget_eq, State.pcOf_unheld, inRange_ofInt (pcRelative_bounds (by decide) _ o), hlo, hhi,
    setWidth_ofInt_range ⟨hlo, hhi⟩, and_self, decide_true, Bool.not_true, Bool.false_and, Bool.false_eq_true, if_false]
  rw [brdTrap_eq_none (tk := fun i sl => s.unheld.sliceCond s.cur p.toNat n i sl.act) hsplit]
  dsimp only
  rw [maskOf_eq (m := m) (by simpa using hm), settle_moved h _ rfl]
  rw [State.regroup_stepped, State.mapSlices_stepped, State.unheld_stepped h]

/-- R148: the first slice of the gang splits where it may not. -/
theorem execBrd_traps {i : Nat} {sl : Slice} {rest : List (Nat × Slice)} {tr : Trap}
    (hl : s.unheld.slicesOf s.cur = (i, sl) :: rest) (h0 : s.unheld.sliceCond s.cur p.toNat n i sl.act ≠ 0)
    (ha : s.unheld.sliceCond s.cur p.toNat n i sl.act ≠ sl.act)
    (htr : (if sl.jp.isNone then some (Trap.convergence 3) else if 8 ≤ sl.stack.length then some { kind := 0x0A, index := i } else none) =
      some tr) :
    exec (.brd p n o) s = .next (s.trapped (.brd p n o) tr) := by
  have hfirst : brdTrap (fun i sl => s.unheld.sliceCond s.cur p.toNat n i sl.act) (s.unheld.slicesOf s.cur) = some tr := by
    rw [hl, brdTrap, if_pos ⟨ha, h0⟩]
    split at htr
    case isTrue hj => rw [if_pos hj, htr]
    case isFalse hj =>
      split at htr
      case isTrue hf => rw [if_neg hj, if_pos hf, htr]
      case isFalse => cases htr
  show execBrd p n o s = _
  unfold execBrd
  refine issue_traps h ?_
  simp only [branchTarget_eq, State.pcOf_unheld, inRange_ofInt (pcRelative_bounds (by decide) _ o), hlo, hhi,
    and_self, decide_true, Bool.not_true, Bool.false_and, Bool.false_eq_true, if_false, hfirst]

end

end

/-! ### Reconvergence -/

/-- A slice that does not stand at the join point on top of its stack stays as it is. -/
theorem Slice.reconverge_of_head {x : Slice} (n : Nat) (h : ∀ f, f ∈ x.stack.head? → f.rpc ≠ x.pc) : x.reconverge n = x := by
  cases n with
  | zero => rfl
  | succ n =>
    rw [Slice.reconverge]
    split
    case h_1 => rfl
    case h_2 top l hx => exact if_neg (h top (by rw [hx]; rfl))

section

variable {sl : Slice} {e : Reconv} {rest : List Reconv} (n : Nat) (hs : sl.stack = e :: rest)
include hs

theorem Slice.reconverge_elsewhere (h : sl.pc ≠ e.rpc) : sl.reconverge (n + 1) = sl := by
  refine Slice.reconverge_of_head _ fun f hf => ?_
  rw [hs] at hf
  obtain rfl : e = f := Option.some.inj hf
  exact h.symm

theorem Slice.reconverge_deferred (h : sl.pc = e.rpc) (hd : e.dmask ≠ 0) (hpc : e.dpc ≠ e.rpc) :
    sl.reconverge (n + 1) = { sl with pc := e.dpc, act := e.dmask, jp := some e.rpc, stack := { e with dmask := 0 } :: rest } := by
  rw [Slice.reconverge, hs]
  dsimp only
  rw [if_pos h.symm, if_pos hd, Slice.reconverge_of_head]
  intro f hf
  obtain rfl : { e with dmask := 0 } = f := Option.some.inj hf
  exact hpc.symm

theorem Slice.reconverge_joined (h : sl.pc = e.rpc) (hd : e.dmask = 0) (hr : ∀ f, f ∈ rest.head? → f.rpc ≠ sl.pc) :
    sl.reconverge (n + 1) = { sl with act := e.saved, jp := some e.rpc, stack := rest } := by
  rw [Slice.reconverge, hs]
  dsimp only
  rw [if_pos h.symm, if_neg (not_not.2 hd), Slice.reconverge_of_head]
  exact hr

end

end Sys2Proof.Machine

open Sys2Proof Sys2Proof.Machine in
/-- Settles O23: the words of divergence, the branch of one slice, and the check of R149. -/
theorem divergenceAndReconvergence : Obligations.DivergenceAndReconvergence := by
  refine ⟨⟨fun s g k o _ h => execJpt_begins h, fun s g k p n o _ h hlo hhi hsplit m hm => execBrd_moves h hlo hhi hsplit hm,
    fun sl pc tgt tk => ⟨sl.branch_all pc tgt, sl.branch_none pc tgt, fun h h0 j hj => sl.branch_split pc tgt h h0 hj⟩, ?_⟩,
    fun sl e rest n hs => ⟨Slice.reconverge_elsewhere n hs, Slice.reconverge_deferred n hs, Slice.reconverge_joined n hs⟩⟩
  intro s g k p n o i sl rest _ h u tk hlo hhi hl h0 ha
  refine ⟨fun hj => execBrd_traps h hlo hhi hl h0 ha ?_, fun hj hf => execBrd_traps h hlo hhi hl h0 ha ?_⟩
  · rw [if_pos (by rw [hj]; rfl)]
    rfl
  · rw [if_neg (by simpa [Option.isNone_iff_eq_none, ← Option.isSome_iff_ne_none] using hj), if_pos hf]

end

section
/-! PROOFS. Placement, the start of threads, gates, and how groups and grids end (R104, R109 to R112, R156, R157, R161). -/

namespace Sys2Proof.Machine

/-! ### The registers of a new thread -/

/-- The registers that a new thread starts with, from `w1` up to the n-th ARG word. -/
theorem getW_putArgs (u : Uni) (args : List W64) (n : Nat) {j : Nat} (hj : j ≠ 0) :
    ((List.range n).foldl (fun u i => u.putW (i + 1) (args.getD i 0)) u).getW j =
      if j ≤ n then args.getD (j - 1) 0 else u.getW j := by
  induction n with
  | zero => rw [if_neg (by omega)]; rfl
  | succ n ih =>
    rw [List.range_succ, List.foldl_append, List.foldl_cons, List.foldl_nil, Uni.getW_putW _ _ _ _ n.succ_ne_zero]
    by_cases h : j = n + 1
    · simp [h]
    · rw [ih]
      have hle : j ≤ n + 1 ↔ j ≤ n := by omega
      simp [h, hle]

/-- R23, R109: `w1` to `w8` are the ARG words, `w62` and `w63` as given, and every other register is zero. -/
theorem getW_startUni (info : CtxRec) (args : List W64) (w62 : W64) (e : Addr) (j : Nat) :
    (startUni info args w62 e).getW j = if j = 0 then 0 else if j ≤ 8 then args.getD (j - 1) 0
      else if j = 62 then w62 else if j = 63 then e.setWidth 64 else 0 := by
  unfold startUni
  dsimp only
  rw [Uni.getW_putW _ _ _ _ (by decide), Uni.getW_putW _ _ _ _ (by decide)]
  by_cases h0 : j = 0
  · subst h0; rfl
  · rw [getW_putArgs _ _ _ h0, Uni.getW, if_neg h0, if_neg h0]
    by_cases h8 : j ≤ 8
    · rw [if_neg (by omega), if_neg (by omega), if_pos h8, if_pos h8]
    · rw [if_neg h8, if_neg h8]
      by_cases h63 : j = 63
      · rw [if_pos h63, if_neg (by omega), if_pos h63]
      · rw [if_neg h63, if_neg h63]
        rfl

/-- Registers that are all full and clean. -/
def Uni.ready (u : Uni) : Prop := u.empty = 0 ∧ u.poison = 0

theorem Uni.ready_putW {u : Uni} (h : u.ready) (r : Nat) (x : W64) : (u.putW r x).ready := by
  obtain ⟨he, hp⟩ := h
  unfold Uni.putW
  split
  · exact ⟨he, hp⟩
  · simp [Uni.ready, he, hp, setBit]

theorem ready_startUni (info : CtxRec) (args : List W64) (w62 : W64) (e : Addr) : (startUni info args w62 e).ready := by
  have args8 : ∀ (l : List Nat) (u : Uni), u.ready → (l.foldl (fun u i => u.putW (i + 1) (args.getD i 0)) u).ready := by
    intro l
    induction l with
    | nil => exact fun u h => h
    | cons i l ih => exact fun u h => ih _ (Uni.ready_putW h _ _)
  exact Uni.ready_putW (Uni.ready_putW (args8 _ _ ⟨rfl, rfl⟩) _ _) _ _

/-! ### Placing a team -/

theorem State.seatGroups_eq (s : State) (cluster core s0 : Nat) (mk : Nat → Nat → Nat → Group) (team : Nat) (ns : List Nat) :
    ∃ m, s.seatGroups cluster core s0 mk team ns = { s with groups := m } := by
  induction ns generalizing s with
  | nil => exact ⟨_, rfl⟩
  | cons n ns ih =>
    obtain ⟨m, h⟩ := ih (s.setGroup (16 * team + n) (mk n ((s0 + n) % 4) ((s.freeSlot cluster core ((s0 + n) % 4)).getD 0)))
    exact ⟨m, h.trans rfl⟩

/-- Two states with the same grids and teams. -/
def State.SameWork (s t : State) : Prop := t.grids = s.grids ∧ t.teams = s.teams

theorem State.SameWork.trans {s t u : State} (h : s.SameWork t) (k : t.SameWork u) : s.SameWork u :=
  ⟨k.1.trans h.1, k.2.trans h.2⟩

theorem State.WalkStep.sameWork {s t : State} (h : s.WalkStep t) : s.SameWork t :=
  ⟨(congrArg State.grids h.front :), h.teams_eq⟩

theorem State.sameWork_setGroup (s : State) (g : Nat) (x : Group) : s.SameWork (s.setGroup g x) := ⟨rfl, rfl⟩

theorem State.sameWork_stopGroup (s : State) (g skid : Nat) : s.SameWork (s.stopGroup g skid) := by
  refine State.SameWork.trans ?_ (State.sameWork_setGroup _ _ _)
  exact (s.walkStep_writeRecord _ _).sameWork

theorem State.sameWork_haltAtPlacement (s : State) (team : Nat) (g : Grid) (num : Nat) : s.SameWork (s.haltAtPlacement team g num) := by
  have fold : ∀ (l : List Nat) (s : State), s.SameWork (l.foldl (fun t k => t.stopGroup k 0) s) := by
    intro l
    induction l with
    | nil => exact fun s => ⟨rfl, rfl⟩
    | cons k l ih => exact fun s => (s.sameWork_stopGroup k 0).trans (ih _)
  unfold State.haltAtPlacement
  split
  · exact fold _ s
  · exact ⟨rfl, rfl⟩

theorem State.sameWork_setWakes (s : State) (g : Grid) : s.SameWork (s.setWakes g) := by
  unfold State.setWakes
  split <;> exact ⟨rfl, rfl⟩

/-- R156: the grid and the team that placing a team leaves. -/
theorem State.placeTeam_work (s : State) (k : Nat) (y : Spot) (ws : List (Option Nat)) :
    ((s.placeTeam k y ws).grid k).placed = (s.grid k).placed + 1 ∧
    ((s.placeTeam k y ws).grid k).phase = (if (s.grid k).placed + 1 = (s.grid k).count then .resident else .placing) ∧
    ((s.placeTeam k y ws).team s.nextId).num = (s.grid k).placed ∧ ((s.placeTeam k y ws).team s.nextId).grid = k ∧
    ((s.placeTeam k y ws).team s.nextId).cluster = y.cluster ∧ ((s.placeTeam k y ws).team s.nextId).core = y.core := by
  unfold State.placeTeam
  extract_lets g info team s0 base tm s1 mk s2 fresh s3 g1
  have teams : s3.teams = s1.teams := by
    obtain ⟨m, h⟩ := s1.seatGroups_eq y.cluster y.core s0 mk team (List.range g.desc.ngroups)
    dsimp only [s3, s2]
    rw [h]
    split <;> rfl
  obtain ⟨hgrids, hteams⟩ : (s3.setGrid k g1).SameWork
      ((((s3.setGrid k g1).setWakes g).foldSig y.cluster g.sig).haltAtPlacement team g g.placed) := by
    refine State.SameWork.trans ?_ (State.sameWork_haltAtPlacement _ _ _ _)
    refine State.SameWork.trans (State.sameWork_setWakes _ g) ?_
    exact (State.memStep_foldSig _ _ _).walk.sameWork
  have hgrid : State.grid ((((s3.setGrid k g1).setWakes g).foldSig y.cluster g.sig).haltAtPlacement team g g.placed) k = g1 := by
    rw [State.grid, hgrids]
    exact State.grid_setGrid s3 k g1
  have hteam : State.team ((((s3.setGrid k g1).setWakes g).foldSig y.cluster g.sig).haltAtPlacement team g g.placed) team = tm := by
    rw [State.team, hteams]
    show (s3.teams.find? team).getD Team.absent = _
    rw [teams]
    exact State.team_setTeam _ team tm
  rw [hgrid, hteam]
  exact ⟨rfl, rfl, rfl, rfl, rfl, rfl⟩

/-! ### Gates -/

section

variable {s : State} {k pa : Nat} {v : W64} (hg : (s.grid k).gate = some (pa, v))
include hg

theorem State.testGate_halted (hh : (s.part (realPart (s.grid k).part)).halted = true) : s.testGate k = s := by
  simp only [State.testGate, hg, hh, if_true]

variable (hh : (s.part (realPart (s.grid k).part)).halted = false)
include hh

theorem State.testGate_below (hv : (s.ownRead (realPart (s.grid k).part) pa 8).1 < v.toNat) :
    s.testGate k = s.counterTouch (s.grid k) pa := by
  simp only [State.testGate, hg, hh, Bool.false_eq_true, if_false, if_neg (not_le.2 hv)]

theorem State.testGate_reached (hv : v.toNat ≤ (s.ownRead (realPart (s.grid k).part) pa 8).1) :
    s.testGate k = ((s.counterTouch (s.grid k) pa).setGrid k
      { s.grid k with sig := (s.grid k).sig ||| s.sigOf (pa / 128) }).enterPassed k := by
  simp only [State.testGate, hg, hh, Bool.false_eq_true, if_false, if_pos hv]

end

/-- R158: a grid of a fixed count that is not empty, nor placed whole or not at all, enters PASSED. -/
theorem State.enterPassed_phase {s : State} {k : Nat} (hi : (s.grid k).icnt = none) (hc : 0 < (s.grid k).count)
    (hco : (s.grid k).co = false) : ((s.enterPassed k).grid k).phase = .passed := by
  unfold State.enterPassed
  simp only [hi]
  rw [if_neg (Nat.pos_iff_ne_zero.1 hc)]
  unfold State.testFit
  rw [State.grid] at hco
  simp [State.setGrid, State.grid, hco]

/-! ### How groups and grids end -/

theorem State.tryRetireGroup_eq {s : State} {g : Nat} {x : Group} (h : s.groups.find? g = some x) :
    s.tryRetireGroup g = if (∀ sl ∈ x.slices, sl.live = 0) ∧ s.openCmds g = [] ∧ s.openAtomics g = false ∧
      (s.part (realPart (s.team x.team).part)).halted = false then (s.removeGroup g).tryRetireTeam x.team else s := by
  simp [State.tryRetireGroup, h, and_assoc]

theorem State.tryEndGrid_eq {s : State} {k : Nat} {g : Grid} (h : s.grids.find? k = some g) :
    s.tryEndGrid k = if g.phase = .resident ∧ g.retired = g.count ∧ g.live = [] ∧ (s.part (realPart g.part)).halted = false
      then s.endGrid k else s := by
  simp [State.tryEndGrid, h, and_assoc]

/-! ### The join counter -/

theorem State.ctx_modCtx_phase (s : State) (part ctx : Nat) {f : Ctx → Ctx} (hf : ∀ c, (f c).phase = c.phase) :
    ((s.modCtx part ctx f).ctx part ctx).phase = (s.ctx part ctx).phase := by
  simp only [State.ctx, State.modCtx, Tbl.find?_modify, if_true]
  cases s.ctxs.find? (ctxKey part ctx) with
  | none => rfl
  | some c => exact hf c

theorem State.phase_clearServing (s : State) (part ctx : Nat) (vs : List Nat) :
    ((s.clearServing part ctx vs).ctx part ctx).phase = (s.ctx part ctx).phase := s.ctx_modCtx_phase part ctx fun _ => rfl

theorem State.dropSpines_mem (s : State) (part ctx k : Nat) (clusters : List Nat) :
    (s.dropSpines part ctx k clusters).mem = s.mem := by
  unfold State.dropSpines
  induction clusters generalizing s with
  | nil => rfl
  | cons c l ih =>
    rw [List.foldl_cons, ih]
    split <;> rfl

theorem State.homeWrite_mem (s : State) (pa n v part tag : Nat) : (s.homeWrite pa n v part tag).mem = (s.memStore pa n v).mem := by
  unfold State.homeWrite
  rw [State.noteWrite_mem]
  generalize s.memStore pa n v = t
  generalize sectorsFrom pa n = l
  induction l generalizing t with
  | nil => rfl
  | cons b l ih => rw [List.foldl_cons, ih, State.sliceTouch_mem]

theorem State.memRead_homeWrite (s : State) (pa n v part tag : Nat) :
    memRead (s.homeWrite pa n v part tag).mem pa n = v % 256 ^ n := by
  rw [State.homeWrite_mem]
  exact memRead_memWrite _ _ _ _

theorem State.requestAt_mem (s : State) (cpt line : Nat) (r : W64) (bad : Bool) : (s.requestAt cpt line r bad).mem = s.mem := by
  unfold State.requestAt
  split <;> rfl

/-- R112: the join counter's new value. -/
theorem State.memRead_countJoin {s : State} {part pa : Nat} (add : Nat) (sig : Sig) (tag : Nat) (h : s.owns part pa = true) :
    memRead (s.countJoin part pa add sig tag).mem pa 8 = (s.homeValue pa 8 + add) % 2 ^ 64 := by
  rw [State.countJoin, if_pos h, State.joinSig_mem, State.requestAt_mem, State.memRead_homeWrite]
  exact Nat.mod_mod _ _

theorem State.MemStep.owns_eq {s t : State} (h : s.MemStep t) (part pa : Nat) : t.owns part pa = s.owns part pa := by
  simp only [State.owns, h.parts_eq]

theorem State.memStep_countJoin (s : State) (part pa add : Nat) (sig : Sig) (tag : Nat) :
    s.MemStep (s.countJoin part pa add sig tag) := by
  unfold State.countJoin
  split
  · refine MemStep.trans ?_ (memStep_joinSig _ _ _)
    exact (s.memStep_homeWrite _ _ _ _ _).trans (memStep_requestAt _ _ _ _ _)
  · exact s.memStep_countDrop

section

variable {s : State} {k pa : Nat} (hn : (s.grid k).handler = none)
include hn

theorem State.grids_endGrid : (s.endGrid k).grids.find? k = none := by
  unfold State.endGrid
  simp only [hn, Tbl.find?_erase, if_true]

theorem State.memRead_endGrid (hj : (s.grid k).join = some pa) (ho : s.owns (realPart (s.grid k).part) pa = true)
    (hc : (s.ctx (s.grid k).part (s.grid k).ctx).phase ≠ .saved) :
    memRead (s.endGrid k).mem pa 8 = ((s.releasePart (realPart (s.grid k).part)).1.homeValue pa 8 +
      (if (s.grid k).aborted then 2 ^ 32 + 1 else 1)) % 2 ^ 64 := by
  have released := s.memStep_releasePart (realPart (s.grid k).part)
  rw [← released.owns_eq] at ho
  rw [← memRead_countJoin _ (s.releasePart (realPart (s.grid k).part)).2 (s.tagOf (s.grid k).part (s.grid k).ctx) ho]
  have counted := released.trans (memStep_countJoin _ (realPart (s.grid k).part) pa
    (if (s.grid k).aborted then 2 ^ 32 + 1 else 1) (s.releasePart (realPart (s.grid k).part)).2
    (s.tagOf (s.grid k).part (s.grid k).ctx))
  have phase : ((State.clearServing ((s.releasePart (realPart (s.grid k).part)).1.countJoin (realPart (s.grid k).part) pa
      (if (s.grid k).aborted then 2 ^ 32 + 1 else 1) (s.releasePart (realPart (s.grid k).part)).2
      (s.tagOf (s.grid k).part (s.grid k).ctx)) (s.grid k).part (s.grid k).ctx (s.servedBy k)).ctx (s.grid k).part
      (s.grid k).ctx).phase ≠ .saved := by
    rw [State.phase_clearServing, State.ctx, counted.ctxs_eq]
    exact hc
  unfold State.endGrid
  simp only [hj, hn, State.dropSpines_mem, State.writeHails, if_neg phase]
  rfl

end

end Sys2Proof.Machine

open Sys2Proof Sys2Proof.Machine in
/-- Settles O43: the start of threads, the placed team, the gate's test, and the ends of groups and grids. -/
theorem placementAndRetirement : Obligations.PlacementAndRetirement := by
  refine ⟨⟨fun s part => rfl, ?_, ?_⟩, ?_, ?_, ?_, ?_, ?_⟩
  · intro info g k team num key cluster sched slot window j _ x y want
    obtain ⟨hxe, hxp⟩ : x.uni.ready := ready_startUni _ _ _ _
    obtain ⟨hye, hyp⟩ : y.th.uni.ready := ready_startUni _ _ _ _
    refine ⟨getW_startUni _ _ _ _ _, getW_startUni _ _ _ _ _, hxe, hxp, hye, hyp, List.length_replicate, ?_, rfl, rfl, rfl, rfl⟩
    intro sl hsl
    rw [List.eq_of_mem_replicate hsl]
    exact ⟨rfl, rfl, rfl⟩
  · intro s k y ws _ g t
    exact s.placeTeam_work k y ws
  · intro s k g pa v hg hp hgate t
    show execGateTest k s = _
    simp only [execGateTest, hg, hp, hgate, event]
    rfl
  · intro s k pa v hg p
    refine ⟨State.testGate_halted hg, State.testGate_below hg, fun hh hv hi hc hco => ?_⟩
    rw [State.testGate_reached hg hh hv]
    refine State.enterPassed_phase ?_ ?_ ?_ <;> rwa [State.grid_setGrid]
  · intro s g x hx off
    have heq : exec (.groupRetire g) s = .next (s.tryRetireGroup g) := rfl
    rw [heq, State.tryRetireGroup_eq hx]
    refine ⟨fun hl hc ha ho => congrArg _ (if_pos ⟨hl, hc, ha, ho⟩), fun h => congrArg _ (if_neg ?_)⟩
    rintro ⟨hl, hc, ha, ho⟩
    rcases h with ⟨sl, hsl, hlive⟩ | h | h | h
    · exact hlive (hl sl hsl)
    · exact h hc
    · exact absurd (ha.symm.trans h) (by decide)
    · exact absurd (ho.symm.trans h) (by decide)
  · intro s k g hg off
    have heq : exec (.gridEnd k) s = .next (s.tryEndGrid k) := rfl
    rw [heq, State.tryEndGrid_eq hg]
    refine ⟨fun hp hr hl ho => congrArg _ (if_pos ⟨hp, hr, hl, ho⟩), fun h => congrArg _ (if_neg ?_)⟩
    rintro ⟨hp, hr, hl, ho⟩
    rcases h with h | h | h | h
    · exact h hp
    · exact h hr
    · exact h hl
    · exact absurd (ho.symm.trans h) (by decide)
  · intro s k pa hj hn
    exact ⟨State.grids_endGrid hn, State.memRead_endGrid hn hj⟩

end

section
/-! PROOFS. That memory stays in canonical form: what is shared by the lemmas about every operation. -/

namespace Sys2Proof.Machine

/-- Memory and the peers' memory are in canonical form. -/
def State.Ok (s : State) : Prop := s.memoryOk = true

section

variable {α β : Type} {s t : State}

theorem State.ok_of_eq (h : s.Ok) (hm : t.mem = s.mem) (hp : t.peerMem = s.peerMem) : t.Ok := by
  unfold State.Ok State.memoryOk at *
  rw [hm, hp]
  exact h

theorem State.ok_fst {p : State × α} {a : α} (e : p = (s, a)) (h : p.1.Ok) : s.Ok := by
  rw [e] at h
  exact h

theorem State.ok_snd {p : α × State} {a : α} (e : p = (a, s)) (h : p.2.Ok) : s.Ok := by
  rw [e] at h
  exact h

theorem State.ok_getD {o : Option State} (ho : ∀ t, o = some t → t.Ok) (h : s.Ok) : (o.getD s).Ok := by
  cases o with
  | none => exact h
  | some t => exact ho t rfl

theorem State.ok_ite_some {c : Prop} [Decidable c] {o : Option State} (e : (if c then o else none) = some t)
    (ho : o = some t → t.Ok) : t.Ok := by
  split at e
  · exact ho e
  · cases e

theorem State.ok_orElse {o p : Option State} (e : (o.orElse fun _ => p) = some t) (ho : o = some t → t.Ok) (hp : p = some t → t.Ok) :
    t.Ok := by
  cases o with
  | none => exact hp e
  | some u => exact ho e

theorem State.ok_foldl {f : State → α → State} (hf : ∀ t x, t.Ok → (f t x).Ok) (h : s.Ok) (l : List α) : (l.foldl f s).Ok := by
  induction l generalizing s with
  | nil => exact h
  | cons x l ih => exact ih (hf s x h)

theorem State.ok_foldl_fst {f : State × β → α → State × β} (hf : ∀ p x, p.1.Ok → (f p x).1.Ok) {p : State × β} (h : p.1.Ok)
    (l : List α) : (l.foldl f p).1.Ok := by
  induction l generalizing p with
  | nil => exact h
  | cons x l ih => exact ih (hf p x h)

end

/-- What a word's body comes to is a state with memory in canonical form, where it is a state. -/
def Did.Ok : Did → Prop
  | .done s => s.Ok
  | .goto s _ => s.Ok
  | .moved s _ => s.Ok
  | .unit s => s.Ok
  | .wait s => s.Ok
  | .trap _ => True
  | .report s _ => s.Ok
  | .after s _ => s.Ok
  | .fault _ _ _ => True

/-- The checks of a memory word leave memory in canonical form. -/
def Checked.Ok : Checked → Prop
  | .ok s _ => s.Ok
  | .stop d => d.Ok

theorem Checked.ok_of {c : Checked} {s : State} {ps : List (Nat × W64 × Phys)} (e : c = .ok s ps) (h : c.Ok) : s.Ok := by
  rw [e] at h
  exact h

theorem Checked.stop_of {c : Checked} {d : Did} (e : c = .stop d) (h : c.Ok) : d.Ok := by
  rw [e] at h
  exact h

/-- The checks of a command's ranges leave memory in canonical form. -/
def Pinned.Ok : Pinned → Prop
  | .ok s _ => s.Ok
  | .stop d => d.Ok

theorem Pinned.ok_of {c : Pinned} {s : State} {fs : List Frames} (e : c = .ok s fs) (h : c.Ok) : s.Ok := by
  rw [e] at h
  exact h

theorem Pinned.stop_of {c : Pinned} {d : Did} (e : c = .stop d) (h : c.Ok) : d.Ok := by
  rw [e] at h
  exact h

theorem Did.ok_of_done {d : Did} {s : State} (e : d = .done s) (h : d.Ok) : s.Ok := by
  rw [e] at h
  exact h

/-- An instruction leaves memory in canonical form. -/
def Out.Ok (o : Out) : Prop := ∀ t, o = .next t → t.Ok

theorem event_ok {s : State} (h : s.Ok) : Out.Ok (event s) := fun _ e => Host.Outcome.next.inj e ▸ h

end Sys2Proof.Machine
end

section
/-! PROOFS. That memory stays in canonical form: the operations that words and events share. -/

namespace Sys2Proof.Machine

theorem State.snoopHost_ok {s t : State} {lines : List Nat} (e : s.snoopHost lines = some t) (h : s.Ok) : t.Ok := by
  unfold State.snoopHost at e
  split at e
  · cases e
  · split at e
    · cases e
    · cases e; exact ok_of_eq h rfl rfl

theorem State.filledHeld_ok {s t u : State} (e : s.filledHeld t = some u) (h : s.Ok) (_ : t.Ok) : u.Ok := by
  unfold State.filledHeld at e
  split at e
  · cases e
  · cases e; exact ok_of_eq h rfl rfl

theorem State.unlessFills_ok {s t : State} (h : s.Ok) (h1 : t.Ok) : (s.unlessFills t).Ok :=
  ok_getD (fun _ e => filledHeld_ok e h h1) h1

theorem State.carryPending_ok {s : State} {cpt line : Nat} (h : s.Ok) : (s.carryPending cpt line).Ok :=
  (memStep_signWrite _ _ _).ok ((memStep_requestAt _ _ _ _ _).ok h)

theorem State.releaseWait_ok {s t : State} {cpt scope : Nat} (e : s.releaseWait cpt scope = some t) (h : s.Ok) : t.Ok := by
  unfold State.releaseWait at e
  split at e
  · cases e
  · dsimp only at e
    split at e
    · cases e; exact (memStep_beginWide _ _ _).ok h
    · cases e

theorem State.fenceAcquire_ok {s : State} {cpt : Nat} (h : s.Ok) : (s.fenceAcquire cpt).Ok :=
  (memStep_foldAll _ _).ok h

theorem State.setGroup_ok {s : State} {g : Nat} {x : Group} (h : s.Ok) : (s.setGroup g x).Ok :=
  ok_of_eq h rfl rfl

theorem State.setTeam_ok {s : State} {t : Nat} {x : Team} (h : s.Ok) : (s.setTeam t x).Ok :=
  ok_of_eq h rfl rfl

theorem State.setGrid_ok {s : State} {g : Nat} {x : Grid} (h : s.Ok) : (s.setGrid g x).Ok :=
  ok_of_eq h rfl rfl

theorem State.modPart_ok {s : State} {p : Nat} {f : Part → Part} (h : s.Ok) : (s.modPart p f).Ok :=
  ok_of_eq h rfl rfl

theorem State.modCtx_ok {s : State} {p c : Nat} {f : Ctx → Ctx} (h : s.Ok) : (s.modCtx p c f).Ok :=
  ok_of_eq h rfl rfl

theorem State.setScalar_ok {s : State} {t : ThreadId} {x : Scalar} (h : s.Ok) : (s.setScalar t x).Ok := by
  unfold State.setScalar
  split
  · exact ok_of_eq h rfl rfl
  · exact modPart_ok h
  · exact ok_of_eq h rfl rfl
  · exact h

theorem State.setUni_ok {s : State} {t : ThreadId} {u : Uni} (h : s.Ok) : (s.setUni t u).Ok := by
  unfold State.setUni
  split
  · exact setGroup_ok h
  · exact setScalar_ok h

theorem State.putW_ok {s : State} {t : ThreadId} {r : Nat} {x : W64} (h : s.Ok) : (s.putW t r x).Ok :=
  setUni_ok h

theorem State.putK_ok {s : State} {t : ThreadId} {c : Nat} {b : Bool} (h : s.Ok) : (s.putK t c b).Ok :=
  setUni_ok h

theorem State.emptyW_ok {s : State} {t : ThreadId} {r : Nat} (h : s.Ok) : (s.emptyW t r).Ok :=
  setUni_ok h

theorem State.setPc_ok {s : State} {t : ThreadId} {a : Addr} (h : s.Ok) : (s.setPc t a).Ok := by
  unfold State.setPc
  split
  · exact setGroup_ok h
  · exact setScalar_ok h

theorem State.setWaiting_ok {s : State} {t : ThreadId} {b : Bool} (h : s.Ok) : (s.setWaiting t b).Ok := by
  unfold State.setWaiting
  split
  · exact setGroup_ok h
  · exact setScalar_ok h

theorem State.fillW_ok {s : State} {t : ThreadId} {r : Nat} {x : W64} (h : s.Ok) : (s.fillW t r x).Ok := by
  unfold State.fillW
  split
  · extract_lets s1
    have hs1 : s1.Ok := putW_ok h
    split
    · exact setUni_ok hs1
    · exact hs1
  · exact h

theorem State.notify_ok {s : State} {part kind ctx arg : Nat} (h : s.Ok) : (s.notify part kind ctx arg).Ok :=
  modPart_ok h

theorem State.countLerr_ok {s : State} {part : Nat} (h : s.Ok) : (s.countLerr part).Ok :=
  modPart_ok h

theorem State.stopGroup_ok {s : State} {g skid : Nat} (h : s.Ok) : (s.stopGroup g skid).Ok := by
  unfold State.stopGroup
  extract_lets x t pc s1
  have hs1 : s1.Ok := (walkStep_writeRecord _ _ _).ok h
  exact setGroup_ok hs1

theorem State.finishHalt_ok {s : State} {team : Nat} (h : s.Ok) : (s.finishHalt team).Ok := by
  unfold State.finishHalt
  extract_lets x
  split
  · exact h
  · split
    · exact notify_ok (setTeam_ok ((memStep_releasePart _ _).ok h))
    · exact h

theorem State.reachHalt_ok {s : State} {g : Nat} (h : s.Ok) : (s.reachHalt g).Ok := by
  unfold State.reachHalt
  split
  · exact h
  · split
    · split
      · rename_i e
        extract_lets left
        split
        · exact stopGroup_ok (ok_snd e ((memStep_draw _).ok h))
        · exact setGroup_ok (ok_snd e ((memStep_draw _).ok h))
    · exact stopGroup_ok h
    · exact h

theorem State.broadcast_ok {s : State} {team origin : Nat} (h : s.Ok) : (s.broadcast team origin).Ok := by
  unfold State.broadcast
  refine ok_foldl (fun t x ht => ?_) h _
  split
  · exact ht
  · exact reachHalt_ok ht

theorem State.takeTrap_ok {s : State} {t : ThreadId} {tr : Trap} {pc resume : Addr} {word : W32} {recid : Nat} (h : s.Ok) :
    (s.takeTrap t tr pc resume word recid).Ok := by
  unfold State.takeTrap
  split
  · extract_lets s1 s2 i team
    have hs1 : s1.Ok := (walkStep_writeRecord _ _ _).ok h
    have hi : i.Ok := setGroup_ok hs1
    split
    · exact finishHalt_ok (notify_ok ((memStep_releasePart _ _).ok hi))
    · exact finishHalt_ok (broadcast_ok (setTeam_ok hi))
  · extract_lets s1 s2
    have hs1 : s1.Ok := (walkStep_writeRecord _ _ _).ok h
    exact notify_ok ((memStep_releasePart _ _).ok (setScalar_ok hs1))
  · extract_lets s1 p
    have hp : p.Ok := setScalar_ok h
    exact ok_of_eq hp rfl rfl

theorem State.endSkid_ok {s : State} {g : Nat} (h : s.Ok) : (s.endSkid g).Ok := by
  unfold State.endSkid
  split
  · exact finishHalt_ok (stopGroup_ok h)
  · exact h

theorem State.resumeGroup_ok {s : State} {g : Nat} {step : Bool} (h : s.Ok) : (s.resumeGroup g step).Ok := by
  unfold State.resumeGroup
  split
  · exact setGroup_ok h
  · exact setGroup_ok h
  · exact h

theorem State.resumeSpine_ok {s : State} {c : Nat} (h : s.Ok) : (s.resumeSpine c).Ok := by
  unfold State.resumeSpine
  split
  · extract_lets m
    exact setScalar_ok h
  · exact h

theorem State.setJetty_ok {s : State} {cluster j : Nat} {x : Jetty} (h : s.Ok) : (s.setJetty cluster j x).Ok := by
  unfold State.setJetty
  extract_lets sp
  exact ok_of_eq h rfl rfl

theorem State.raiseFlags_ok {s : State} {t : ThreadId} {f : Flags} (h : s.Ok) : (s.raiseFlags t f).Ok :=
  setUni_ok h

theorem State.writePiecesAt_ok {s : State} {part ctx at_ : Nat} {ps : List Nat} (h : s.Ok) :
    (s.writePiecesAt part ctx at_ ps).Ok := by
  unfold State.writePiecesAt
  extract_lets info
  exact ok_foldl (fun _ _ ht => (walkStep_deviceWrite _ _ _ _ _ _ _).ok ht) h _

theorem State.writeHails_ok {s : State} {part ctx : Nat} (h : s.Ok) : (s.writeHails part ctx).Ok := by
  unfold State.writeHails
  split
  · exact writePiecesAt_ok h
  · exact h

theorem State.translatePages_ok {s : State} {sp : Space} {k : AccKind} {user : Bool} {fr : Frames} {va n : Nat} (h : s.Ok) :
    (s.translatePages sp k user fr va n).1.Ok := by
  induction n generalizing s fr va with
  | zero => exact h
  | succ n ih =>
    unfold State.translatePages
    split
    · rename_i e
      exact ih (ok_fst e ((walkStep_translate _ _ _ _ _).ok h))
    · rename_i e
      exact ok_fst e ((walkStep_translate _ _ _ _ _).ok h)

theorem State.translateRange_ok {s : State} {sp : Space} {k : AccKind} {user : Bool} {va n : Nat} (h : s.Ok) :
    (s.translateRange sp k user va n).1.Ok := by
  unfold State.translateRange
  split
  · dsimp only
    exact h
  · exact translatePages_ok h

theorem State.touchFrames_ok {s : State} {part cpt tag : Nat} {fr : Frames} {va n : Nat} (h : s.Ok) :
    (s.touchFrames part cpt tag fr va n).Ok :=
  ok_foldl (fun _ _ ht => (memStep_siteTouch _ _ _ _ _ _).ok ht) h _

theorem State.readImage_ok {s : State} {sp : Space} {user : Bool} {va n : Nat} (h : s.Ok) : (s.readImage sp user va n).1.Ok := by
  unfold State.readImage
  extract_lets at_
  split
  · rename_i e
    dsimp only
    exact touchFrames_ok (ok_fst e (translateRange_ok h))
  · rename_i e
    dsimp only
    exact ok_fst e (translateRange_ok h)

theorem State.loadDesc_ok {s : State} {sp : Space} {user : Bool} {base : Nat} (h : s.Ok) : (s.loadDesc sp user base).1.Ok := by
  unfold State.loadDesc
  split
  · rename_i e
    dsimp only
    exact ok_fst e (readImage_ok h)
  · rename_i e
    extract_lets d
    split
    · dsimp only
      exact ok_fst e (readImage_ok h)
    · split
      · rename_i e1
        dsimp only
        exact ok_fst e1 (readImage_ok (ok_fst e (readImage_ok h)))
      · rename_i e1
        dsimp only
        exact ok_fst e1 (readImage_ok (ok_fst e (readImage_ok h)))

theorem State.loadVariants_ok {s : State} {sp : Space} {user : Bool} {l : List (Nat × Option Nat)} (h : s.Ok) :
    (s.loadVariants sp user l).1.Ok := by
  induction l generalizing s with
  | nil => exact h
  | cons x l ih =>
    obtain ⟨b, o⟩ := x
    cases o with
    | none =>
      unfold State.loadVariants
      split <;> (rename_i e; exact ok_fst e (ih h))
    | some a =>
      unfold State.loadVariants
      split
      · rename_i e
        exact ok_fst e (loadDesc_ok h)
      · rename_i e
        have h1 := ok_fst e (loadDesc_ok h)
        split <;> (rename_i e1; exact ok_fst e1 (ih h1))

theorem State.addGrid_ok {s : State} {g : Grid} (h : s.Ok) : (s.addGrid g).1.Ok := by
  unfold State.addGrid
  extract_lets k num s1
  have hs1 : s1.Ok := ok_of_eq h rfl rfl
  dsimp only
  exact modPart_ok hs1

theorem State.fillStatus_ok {s : State} {st : Option (ThreadId × Nat)} {v : W64} (h : s.Ok) : (s.fillStatus st v).Ok := by
  unfold State.fillStatus
  split
  · exact fillW_ok h
  · exact h

theorem State.clearServing_ok {s : State} {part ctx : Nat} {vs : List Nat} (h : s.Ok) : (s.clearServing part ctx vs).Ok :=
  modCtx_ok h

theorem State.dropRecord_ok {s : State} {part ctx : Nat} {recid : W32} (h : s.Ok) : (s.dropRecord part ctx recid).Ok :=
  modCtx_ok h

theorem State.abortRecord_ok {s : State} {part ctx : Nat} {recid : W32} (h : s.Ok) : (s.abortRecord part ctx recid).Ok := by
  unfold State.abortRecord
  split
  · exact h
  · extract_lets s1 pc
    have hs1 : s1.Ok := dropRecord_ok h
    split
    · exact hs1
    · exact takeTrap_ok hs1

theorem State.renameThread_ok {s : State} {part ctx : Nat} {old new : ThreadId} (h : s.Ok) :
    (s.renameThread part ctx old new).Ok := by
  unfold State.renameThread
  extract_lets mv s1 s2
  have hs1 : s1.Ok := ok_of_eq h rfl rfl
  have hs2 : s2.Ok := modPart_ok hs1
  exact modCtx_ok hs2

theorem State.dropSpines_ok {s : State} {part ctx k : Nat} {clusters : List Nat} (h : s.Ok) :
    (s.dropSpines part ctx k clusters).Ok := by
  unfold State.dropSpines
  refine ok_foldl (fun t x ht => ?_) h _
  split
  · exact renameThread_ok (ok_of_eq ht rfl rfl)
  · exact ht

theorem State.endGrid_ok {s : State} {k : Nat} (h : s.Ok) : (s.endGrid k).Ok := by
  unfold State.endGrid
  extract_lets g
  split
  · rename_i e
    extract_lets s2 s3 s4
    have hs2 : s2.Ok := by
      dsimp only [s2]
      split
      · exact (memStep_countJoin _ _ _ _ _ _).ok (ok_fst e ((memStep_releasePart _ _).ok h))
      · exact ok_fst e ((memStep_releasePart _ _).ok h)
    have hs3 : s3.Ok := dropSpines_ok (writeHails_ok (clearServing_ok hs2))
    have hs4 : s4.Ok := ok_of_eq hs3 rfl rfl
    split
    · exact abortRecord_ok hs4
    · exact hs4

theorem State.tryEndGrid_ok {s : State} {k : Nat} (h : s.Ok) : (s.tryEndGrid k).Ok := by
  unfold State.tryEndGrid
  split
  · exact h
  · split
    · exact endGrid_ok h
    · exact h

theorem State.testFit_ok {s : State} {k : Nat} (h : s.Ok) : (s.testFit k).Ok := by
  unfold State.testFit
  split
  · exact h
  · split
    · extract_lets __src
      have h__src : __src.Ok := fillStatus_ok h
      exact ok_of_eq h__src rfl rfl
    · exact h

theorem State.retestFits_ok {s : State} {part : Nat} (h : s.Ok) : (s.retestFits part).Ok :=
  ok_foldl (fun _ _ ht => testFit_ok ht) h _

theorem State.counterTouch_ok {s : State} {g : Grid} {pa : Nat} (h : s.Ok) : (s.counterTouch g pa).Ok :=
  (memStep_siteTouch _ _ _ _ _ _).ok h

theorem State.enterPassed_ok {s : State} {k : Nat} (h : s.Ok) : (s.enterPassed k).Ok := by
  unfold State.enterPassed
  extract_lets g
  split
  · rename_i e
    extract_lets g2 s2
    have hs2 : s2.Ok := by
      dsimp only [s2]
      refine setGrid_ok (ok_fst e ?_)
      split
      · dsimp only
        exact h
      · extract_lets n g1 s0
        have hs0 : s0.Ok := counterTouch_ok h
        dsimp only
        split
        · exact hs0
        · exact countLerr_ok hs0
    split
    · refine endGrid_ok ?_
      split
      · exact fillStatus_ok (ok_of_eq hs2 rfl rfl)
      · exact ok_of_eq hs2 rfl rfl
    · exact testFit_ok (ok_of_eq hs2 rfl rfl)

theorem State.testGate_ok {s : State} {k : Nat} (h : s.Ok) : (s.testGate k).Ok := by
  unfold State.testGate
  extract_lets g
  split
  · exact enterPassed_ok h
  · split
    · exact h
    · extract_lets s1
      have hs1 : s1.Ok := counterTouch_ok h
      split
      · exact enterPassed_ok (setGrid_ok hs1)
      · exact hs1

theorem State.spawnImages_ok {s : State} {sp : Space} {img : Nat} (h : s.Ok) : (s.spawnImages sp img).1.Ok := by
  unfold State.spawnImages
  split
  · rename_i e
    dsimp only
    exact ok_fst e (loadDesc_ok h)
  · rename_i e
    split
    · rename_i e1
      dsimp only
      exact ok_fst e1 (readImage_ok (ok_fst e (loadDesc_ok h)))
    · rename_i e1
      split
      · rename_i e2
        dsimp only
        exact ok_fst e2 (loadVariants_ok (ok_fst e1 (readImage_ok (ok_fst e (loadDesc_ok h)))))
      · rename_i e2
        dsimp only
        exact ok_fst e2 (loadVariants_ok (ok_fst e1 (readImage_ok (ok_fst e (loadDesc_ok h)))))

theorem State.launchHandler_ok {s : State} {part ctx : Nat} {recid : W32} {args : List W64} (h : s.Ok) :
    (s.launchHandler part ctx recid args).Ok := by
  unfold State.launchHandler
  extract_lets info fail
  split
  · rename_i e
    exact abortRecord_ok (countLerr_ok (ok_fst e (spawnImages_ok h)))
  · rename_i e
    split
    · exact abortRecord_ok (countLerr_ok (ok_fst e (spawnImages_ok h)))
    · extract_lets g
      exact addGrid_ok (ok_fst e (spawnImages_ok h))

theorem State.openRecord_ok {s : State} {t : ThreadId} {i : Instr} {pfx : Option (BitVec 25)} {cause : Nat} {va : W64} {lanes : W32} {command : Bool} (h : s.Ok) :
    (s.openRecord t i pfx cause va lanes command).Ok := by
  unfold State.openRecord
  extract_lets part ctx page
  split
  · exact modCtx_ok h
  · exact launchHandler_ok (modCtx_ok (ok_of_eq h rfl rfl))

theorem State.settleBarrier_ok {s : State} {team n : Nat} (h : s.Ok) : (s.settleBarrier team n).Ok := by
  unfold State.settleBarrier
  extract_lets x b members
  split
  · exact setTeam_ok h
  · exact h

theorem State.raiseOverrun_ok {s : State} {team : Nat} {lastover : W64} (h : s.Ok) : (s.raiseOverrun team lastover).Ok := by
  unfold State.raiseOverrun
  split
  · exact h
  · extract_lets t pc
    exact takeTrap_ok h

theorem State.swapBanks_ok {s : State} {team : Nat} (h : s.Ok) : (s.swapBanks team).Ok := by
  unfold State.swapBanks
  extract_lets x below phase low last low' stat s1
  have hs1 : s1.Ok := setTeam_ok h
  split
  · exact raiseOverrun_ok hs1
  · exact hs1

theorem State.settleExchange_ok {s : State} {team : Nat} (h : s.Ok) : (s.settleExchange team).Ok := by
  unfold State.settleExchange
  split
  · exact swapBanks_ok h
  · exact h

theorem State.dropStreams_ok {s : State} {team : Nat} (h : s.Ok) : (s.dropStreams team).Ok :=
  ok_of_eq h rfl rfl

theorem State.tryRetireTeam_ok {s : State} {team : Nat} (h : s.Ok) : (s.tryRetireTeam team).Ok := by
  unfold State.tryRetireTeam
  split
  · exact h
  · split
    · extract_lets s1
      have hs1 : s1.Ok := dropStreams_ok h
      exact tryEndGrid_ok (setGrid_ok (ok_of_eq hs1 rfl rfl))
    · exact h

theorem State.removeGroup_ok {s : State} {g : Nat} (h : s.Ok) : (s.removeGroup g).Ok := by
  unfold State.removeGroup
  extract_lets x t bars gr s1 lost s2 s3
  have hs1 : s1.Ok := setGrid_ok h
  have hs2 : s2.Ok := ok_of_eq hs1 rfl rfl
  have hs3 : s3.Ok := setTeam_ok hs2
  exact settleExchange_ok (ok_foldl (fun _ _ ht => settleBarrier_ok ht) hs3 _)

theorem State.tryRetireGroup_ok {s : State} {g : Nat} (h : s.Ok) : (s.tryRetireGroup g).Ok := by
  unfold State.tryRetireGroup
  split
  · exact h
  · split
    · exact tryRetireTeam_ok (removeGroup_ok h)
    · exact h

theorem State.endSpine_ok {s : State} {c : Nat} (h : s.Ok) : (s.endSpine c).Ok := by
  unfold State.endSpine
  extract_lets x gr
  exact tryEndGrid_ok (setGrid_ok (setScalar_ok h))

theorem State.settleRegang_ok {s : State} {g : Nat} (h : s.Ok) : (s.settleRegang g).Ok := by
  unfold State.settleRegang
  extract_lets x
  split
  · exact h
  · exact setGroup_ok h
  · extract_lets sl t w
    exact takeTrap_ok (setGroup_ok h)

theorem State.landGroup_ok {s : State} {g : Nat} {jumped : BitVec 8} (h : s.Ok) : (s.landGroup g jumped).Ok := by
  unfold State.landGroup
  extract_lets x slices
  exact finishHalt_ok (tryRetireGroup_ok (settleRegang_ok (setGroup_ok h)))

theorem State.reconvergeGang_ok {s : State} {g k : Nat} (h : s.Ok) : (s.reconvergeGang g k).Ok := by
  unfold State.reconvergeGang
  extract_lets x y
  split
  · exact h
  · exact landGroup_ok (setGroup_ok h)

theorem State.clearHold_ok {s : State} {t : ThreadId} (h : s.Ok) : (s.clearHold t).Ok := by
  unfold State.clearHold
  split
  · extract_lets x
    split
    · exact h
    · exact setGroup_ok h
  · exact h

theorem State.unbegun_ok {s : State} {pc : Addr} (h : s.Ok) : (s.unbegun pc).Ok := by
  unfold State.unbegun
  split
  · extract_lets __src
    have h__src : __src.Ok := setPc_ok h
    exact ok_of_eq h__src rfl rfl
  · exact h

theorem State.countSkid_ok {s : State} {t : ThreadId} (h : s.Ok) : (s.countSkid t).Ok := by
  unfold State.countSkid
  split
  · split
    · split
      · exact h
      · split
        · exact stopGroup_ok h
        · exact setGroup_ok h
    · exact h
  · exact h

theorem State.finishHaltOf_ok {s pre : State} {t : ThreadId} (h : s.Ok) (_ : pre.Ok) : (s.finishHaltOf pre t).Ok := by
  unfold State.finishHaltOf
  split
  · exact finishHalt_ok h
  · exact h

theorem State.touch_ok {s : State} {t : ThreadId} {lanes regs : List Nat} (h : s.Ok) : (s.touch t lanes regs).Ok := by
  unfold State.touch
  split
  · exact ok_foldl (fun t x ht => ok_foldl (fun _ _ ht => setGroup_ok ((memStep_draw _).ok ht)) ht _) h _
  · exact h

theorem State.noteOperand_ok {s pre : State} {t : ThreadId} {lanes regs : List Nat} (h : s.Ok) (_ : pre.Ok) :
    (s.noteOperand pre t lanes regs).Ok := by
  unfold State.noteOperand
  split
  · exact ok_foldl (fun t x ht => ok_foldl (fun _ _ ht => setGroup_ok ht) ht _) h _
  · exact h

theorem State.readStatus_ok {s pre : State} {t : ThreadId} {i : Instr} (h : s.Ok) (_ : pre.Ok) : (s.readStatus pre t i).Ok := by
  unfold State.readStatus
  split
  · split
    · exact h
    · extract_lets x old ns s1
      have hs1 : s1.Ok := setTeam_ok h
      exact setGroup_ok hs1
  · exact h

theorem State.begun_ok {s : State} {i : Instr} (h : s.Ok) : (s.begun i).Ok :=
  touch_ok (clearHold_ok h)

theorem State.finishWord_ok {s pre : State} {t : ThreadId} {i : Instr} {pc : Addr} (h : s.Ok) (h1 : pre.Ok) :
    (s.finishWord pre t i pc).Ok := by
  unfold State.finishWord
  extract_lets s1
  have hs1 : s1.Ok := readStatus_ok (touch_ok (noteOperand_ok (setWaiting_ok (ok_of_eq h rfl rfl)) h1)) h1
  split
  · exact takeTrap_ok hs1
  · split
    · exact finishHaltOf_ok (countSkid_ok hs1) h1
    · exact hs1

theorem State.landAt_ok {s : State} {t : ThreadId} {jumped : BitVec 8} (h : s.Ok) : (s.landAt t jumped).Ok := by
  unfold State.landAt
  split
  · split
    · exact landGroup_ok h
    · exact h
  · split
    · exact endSpine_ok h
    · exact h
  · exact h

theorem settle_ok {i : Instr} {s : State} {d : Did} (h : s.Ok) (hd : d.Ok) : (settle i s d).Ok := by
  cases d with
  | done t => exact State.finishWord_ok (State.setPc_ok hd) h
  | goto t a => exact State.landAt_ok (State.finishWord_ok (State.setPc_ok hd) h)
  | moved t jumped => exact State.landAt_ok (State.finishWord_ok hd h)
  | unit t => exact hd
  | wait t => exact State.setWaiting_ok (State.unbegun_ok hd)
  | trap tr => exact State.takeTrap_ok (State.unbegun_ok h)
  | report t tr => exact State.takeTrap_ok (State.unbegun_ok hd)
  | after t tr => exact State.takeTrap_ok (State.setWaiting_ok (State.ok_of_eq (State.setPc_ok hd) rfl rfl))
  | fault c va lanes =>
    unfold settle
    dsimp only
    split
    · exact State.setWaiting_ok (State.openRecord_ok (State.unbegun_ok h))
    · exact State.takeTrap_ok (State.unbegun_ok h)

/-- A word leaves memory in canonical form when its body does. -/
theorem issue_ok {i : Instr} {s : State} {body : ThreadId → State → Did} (h : s.Ok) (hb : ∀ th u, u.Ok → (body th u).Ok) :
    Out.Ok (issue i s body) := by
  refine event_ok (settle_ok h ?_)
  split
  · exact hb _ _ (State.begun_ok h)
  · exact h
  · trivial

end Sys2Proof.Machine
end

section
/-! PROOFS. That memory stays in canonical form: the lane words. -/

namespace Sys2Proof.Machine

theorem State.mapLanes_ok {s : State} {t : ThreadId} {r : Nat} {f : Nat → W32} (h : s.Ok) : (s.mapLanes t r f).Ok := by
  unfold State.mapLanes
  split
  · exact setGroup_ok h
  · exact h

theorem State.mapPreds_ok {s : State} {t : ThreadId} {c : Nat} {f : Nat → Bool} (h : s.Ok) : (s.mapPreds t c f).Ok := by
  unfold State.mapPreds
  split
  · exact setGroup_ok h
  · exact h

theorem State.laneBin_ok {s : State} {t : ThreadId} {d a b : BitVec 7} {bs : BitVec 2} {f : W32 → W32 → W32} (h : s.Ok) :
    (s.laneBin t d a b bs f).Ok :=
  mapLanes_ok h

theorem State.laneUn_ok {s : State} {t : ThreadId} {d a : BitVec 7} {f : W32 → W32} (h : s.Ok) : (s.laneUn t d a f).Ok :=
  mapLanes_ok h

theorem State.laneSat_ok {s : State} {t : ThreadId} {d : BitVec 7} {f : Nat → W32 × Bool} (h : s.Ok) : (s.laneSat t d f).Ok :=
  raiseFlags_ok (mapLanes_ok h)

theorem execAdd_ok {t : Bool} {d a b : BitVec 7} {bs : BitVec 2} {m : Bool} {s : State} (h : s.Ok) :
    Out.Ok (execAdd t d a b bs m s) := by
  unfold execAdd
  refine issue_ok h fun th u hu => ?_
  split
  · exact State.laneSat_ok hu
  · exact State.laneBin_ok hu

theorem execSub_ok {t : Bool} {d a b : BitVec 7} {bs : BitVec 2} {m : Bool} {s : State} (h : s.Ok) :
    Out.Ok (execSub t d a b bs m s) := by
  unfold execSub
  refine issue_ok h fun th u hu => ?_
  split
  · exact State.laneSat_ok hu
  · exact State.laneBin_ok hu

theorem execMul_ok {t : Bool} {d a b : BitVec 7} {bs : BitVec 2} {s : State} (h : s.Ok) : Out.Ok (execMul t d a b bs s) :=
  issue_ok h fun _ _ hu => State.laneBin_ok hu

theorem execMulhi_ok {t : Bool} {d a b : BitVec 7} {bs : BitVec 2} {m : Bool} {s : State} (h : s.Ok) :
    Out.Ok (execMulhi t d a b bs m s) :=
  issue_ok h fun _ _ hu => State.laneBin_ok hu

theorem execImad_ok {t : Bool} {d a b : BitVec 7} {bs : BitVec 2} {s : State} (h : s.Ok) : Out.Ok (execImad t d a b bs s) :=
  issue_ok h fun _ _ hu => State.mapLanes_ok hu

theorem execAnd_ok {t : Bool} {d a b : BitVec 7} {bs : BitVec 2} {s : State} (h : s.Ok) : Out.Ok (execAnd t d a b bs s) :=
  issue_ok h fun _ _ hu => State.laneBin_ok hu

theorem execOr_ok {t : Bool} {d a b : BitVec 7} {bs : BitVec 2} {s : State} (h : s.Ok) : Out.Ok (execOr t d a b bs s) :=
  issue_ok h fun _ _ hu => State.laneBin_ok hu

theorem execXor_ok {t : Bool} {d a b : BitVec 7} {bs : BitVec 2} {s : State} (h : s.Ok) : Out.Ok (execXor t d a b bs s) :=
  issue_ok h fun _ _ hu => State.laneBin_ok hu

theorem execShl_ok {t : Bool} {d a b : BitVec 7} {bs : BitVec 2} {s : State} (h : s.Ok) : Out.Ok (execShl t d a b bs s) :=
  issue_ok h fun _ _ hu => State.laneBin_ok hu

theorem execShr_ok {t : Bool} {d a b : BitVec 7} {bs : BitVec 2} {m : Bool} {s : State} (h : s.Ok) :
    Out.Ok (execShr t d a b bs m s) :=
  issue_ok h fun _ _ hu => State.laneBin_ok hu

theorem execMin_ok {t : Bool} {d a b : BitVec 7} {bs : BitVec 2} {m : Bool} {s : State} (h : s.Ok) :
    Out.Ok (execMin t d a b bs m s) :=
  issue_ok h fun _ _ hu => State.laneBin_ok hu

theorem execMax_ok {t : Bool} {d a b : BitVec 7} {bs : BitVec 2} {m : Bool} {s : State} (h : s.Ok) :
    Out.Ok (execMax t d a b bs m s) :=
  issue_ok h fun _ _ hu => State.laneBin_ok hu

theorem execIcmp_ok {t : Bool} {c : BitVec 4} {p : BitVec 3} {a b : BitVec 7} {bs : BitVec 2} {s : State} (h : s.Ok) :
    Out.Ok (execIcmp t c p a b bs s) :=
  issue_ok h fun _ _ hu => State.mapPreds_ok hu

theorem execSel_ok {t : Bool} {d a b : BitVec 7} {p : BitVec 3} {s : State} (h : s.Ok) : Out.Ok (execSel t d a b p s) :=
  issue_ok h fun _ _ hu => State.mapLanes_ok hu

theorem execBfx_ok {t : Bool} {d a b : BitVec 7} {bs : BitVec 2} {s : State} (h : s.Ok) : Out.Ok (execBfx t d a b bs s) :=
  issue_ok h fun _ _ hu => State.laneBin_ok hu

theorem execBfi_ok {t : Bool} {d a b : BitVec 7} {bs : BitVec 2} {s : State} (h : s.Ok) : Out.Ok (execBfi t d a b bs s) :=
  issue_ok h fun _ _ hu => State.laneBin_ok hu

theorem execIun_ok {t : Bool} {d a f : BitVec 7} {m : Bool} {s : State} (h : s.Ok) : Out.Ok (execIun t d a f m s) :=
  issue_ok h fun _ _ hu => State.laneSat_ok hu

theorem execAddi_ok {t : Bool} {d a : BitVec 7} {imm : BitVec 10} {s : State} (h : s.Ok) : Out.Ok (execAddi t d a imm s) :=
  issue_ok h fun _ _ hu => State.laneUn_ok hu

theorem execAndi_ok {t : Bool} {d a : BitVec 7} {imm : BitVec 10} {s : State} (h : s.Ok) : Out.Ok (execAndi t d a imm s) :=
  issue_ok h fun _ _ hu => State.laneUn_ok hu

theorem execOri_ok {t : Bool} {d a : BitVec 7} {imm : BitVec 10} {s : State} (h : s.Ok) : Out.Ok (execOri t d a imm s) :=
  issue_ok h fun _ _ hu => State.laneUn_ok hu

theorem execXori_ok {t : Bool} {d a : BitVec 7} {imm : BitVec 10} {s : State} (h : s.Ok) : Out.Ok (execXori t d a imm s) :=
  issue_ok h fun _ _ hu => State.laneUn_ok hu

theorem execShli_ok {t : Bool} {d a : BitVec 7} {imm : BitVec 5} {s : State} (h : s.Ok) : Out.Ok (execShli t d a imm s) :=
  issue_ok h fun _ _ hu => State.laneUn_ok hu

theorem execShri_ok {t : Bool} {d a : BitVec 7} {x : Bool} {imm : BitVec 5} {s : State} (h : s.Ok) :
    Out.Ok (execShri t d a x imm s) :=
  issue_ok h fun _ _ hu => State.laneUn_ok hu

theorem execMovi_ok {t : Bool} {d : BitVec 7} {imm : BitVec 17} {s : State} (h : s.Ok) : Out.Ok (execMovi t d imm s) :=
  issue_ok h fun _ _ hu => State.mapLanes_ok hu

theorem execIcmpi_ok {t : Bool} {c : BitVec 4} {p : BitVec 3} {a : BitVec 7} {imm : BitVec 10} {s : State} (h : s.Ok) :
    Out.Ok (execIcmpi t c p a imm s) :=
  issue_ok h fun _ _ hu => State.mapPreds_ok hu

theorem State.laneFloat_ok {s : State} {t : ThreadId} {d : BitVec 7} {f : Nat → W32 × Flags} (h : s.Ok) :
    (s.laneFloat t d f).Ok := by
  unfold State.laneFloat
  extract_lets rs
  split
  · trivial
  · exact raiseFlags_ok (mapLanes_ok h)

theorem State.floatBin_ok {s : State} {t : ThreadId} {d a b : BitVec 7} {bs : BitVec 2} {f : Rm → Bool → Nat → Nat → Nat × Flags} (h : s.Ok) :
    (s.floatBin t d a b bs f).Ok := by
  unfold State.floatBin
  extract_lets u
  exact laneFloat_ok h

theorem execFadd_ok {t : Bool} {d a b : BitVec 7} {bs : BitVec 2} {s : State} (h : s.Ok) : Out.Ok (execFadd t d a b bs s) :=
  issue_ok h fun _ _ hu => State.floatBin_ok hu

theorem execFsub_ok {t : Bool} {d a b : BitVec 7} {bs : BitVec 2} {s : State} (h : s.Ok) : Out.Ok (execFsub t d a b bs s) :=
  issue_ok h fun _ _ hu => State.floatBin_ok hu

theorem execFmul_ok {t : Bool} {d a b : BitVec 7} {bs : BitVec 2} {s : State} (h : s.Ok) : Out.Ok (execFmul t d a b bs s) :=
  issue_ok h fun _ _ hu => State.floatBin_ok hu

theorem execFfma_ok {t : Bool} {d a b : BitVec 7} {bs : BitVec 2} {s : State} (h : s.Ok) : Out.Ok (execFfma t d a b bs s) :=
  issue_ok h fun _ _ hu => State.laneFloat_ok hu

theorem execFmin_ok {t : Bool} {d a b : BitVec 7} {bs : BitVec 2} {s : State} (h : s.Ok) : Out.Ok (execFmin t d a b bs s) :=
  issue_ok h fun _ _ hu => State.floatBin_ok hu

theorem execFmax_ok {t : Bool} {d a b : BitVec 7} {bs : BitVec 2} {s : State} (h : s.Ok) : Out.Ok (execFmax t d a b bs s) :=
  issue_ok h fun _ _ hu => State.floatBin_ok hu

theorem execFcmp_ok {t : Bool} {c : BitVec 4} {p : BitVec 3} {a b : BitVec 7} {bs : BitVec 2} {s : State} (h : s.Ok) :
    Out.Ok (execFcmp t c p a b bs s) := by
  unfold execFcmp
  refine issue_ok h fun th u hu => ?_
  extract_lets one rs
  split
  · trivial
  · exact State.raiseFlags_ok (State.mapPreds_ok hu)

theorem execSfu_ok {t : Bool} {d a f : BitVec 7} {s : State} (h : s.Ok) : Out.Ok (execSfu t d a f s) :=
  issue_ok h fun _ _ hu => State.laneFloat_ok hu

theorem State.stepGens_ok {s : State} {t : ThreadId} (h : s.Ok) : (s.stepGens t).Ok := by
  unfold State.stepGens
  split
  · extract_lets x
    exact setGroup_ok h
  · exact h

theorem execCvt_ok {t : Bool} {d a : BitVec 7} {k : BitVec 4} {r : BitVec 3} {m : Bool} {s : State} (h : s.Ok) :
    Out.Ok (execCvt t d a k r m s) := by
  unfold execCvt
  refine issue_ok h fun th u hu => ?_
  extract_lets u1 one
  split
  · rename_i e
    split
    · exact State.stepGens_ok (Did.ok_of_done e (State.laneFloat_ok hu))
    · exact Did.ok_of_done e (State.laneFloat_ok hu)
  · exact State.laneFloat_ok hu

theorem State.packedBin_ok {s : State} {t : ThreadId} {m : Bool} {d a b : BitVec 7} {bs : BitVec 2} {op : Rm → Bool → Nat → Nat → Nat × Flags} (h : s.Ok) :
    (s.packedBin t m d a b bs op).Ok := by
  unfold State.packedBin
  extract_lets u
  exact laneFloat_ok h

theorem execHadd2_ok {t : Bool} {d a b : BitVec 7} {bs : BitVec 2} {m : Bool} {s : State} (h : s.Ok) :
    Out.Ok (execHadd2 t d a b bs m s) :=
  issue_ok h fun _ _ hu => State.packedBin_ok hu

theorem execHmul2_ok {t : Bool} {d a b : BitVec 7} {bs : BitVec 2} {m : Bool} {s : State} (h : s.Ok) :
    Out.Ok (execHmul2 t d a b bs m s) :=
  issue_ok h fun _ _ hu => State.packedBin_ok hu

theorem execHfma2_ok {t : Bool} {d a b : BitVec 7} {bs : BitVec 2} {m : Bool} {s : State} (h : s.Ok) :
    Out.Ok (execHfma2 t d a b bs m s) := by
  unfold execHfma2
  refine issue_ok h fun th u hu => ?_
  extract_lets u1
  exact State.laneFloat_ok hu

theorem State.pushReq_ok {s : State} {g : Nat} {r : Req} (h : s.Ok) : (s.pushReq g r).Ok := by
  unfold State.pushReq
  extract_lets s1
  have hs1 : s1.Ok := setGroup_ok h
  exact ok_of_eq hs1 rfl rfl

theorem State.pushResult_ok {s : State} {t : ThreadId} {dst : Dest} {vals : Tbl W64} (h : s.Ok) :
    (s.pushResult t dst vals).Ok := by
  unfold State.pushResult
  split
  · exact pushReq_ok h
  · exact h

theorem State.crossLanes_ok {s : State} {t : ThreadId} {d : BitVec 7} {f : Nat → W32} (h : s.Ok) : (s.crossLanes t d f).Ok :=
  pushResult_ok h

theorem State.crossUni_ok {s : State} {t : ThreadId} {d : Nat} {x : W64} (h : s.Ok) : (s.crossUni t d x).Ok :=
  pushResult_ok h

theorem State.shuffle_ok {s : State} {t : ThreadId} {p : Pick} {d a b : BitVec 7} {bs : BitVec 2} (h : s.Ok) :
    (s.shuffle t p d a b bs).Ok :=
  crossLanes_ok h

theorem execShflPick_ok {t : Bool} {d a b : BitVec 7} {bs : BitVec 2} {s : State} (h : s.Ok) :
    Out.Ok (execShflPick t d a b bs s) :=
  issue_ok h fun _ _ hu => State.shuffle_ok hu

theorem execShflSwap_ok {t : Bool} {d a b : BitVec 7} {bs : BitVec 2} {s : State} (h : s.Ok) :
    Out.Ok (execShflSwap t d a b bs s) :=
  issue_ok h fun _ _ hu => State.shuffle_ok hu

theorem execShflBack_ok {t : Bool} {d a b : BitVec 7} {bs : BitVec 2} {s : State} (h : s.Ok) :
    Out.Ok (execShflBack t d a b bs s) :=
  issue_ok h fun _ _ hu => State.shuffle_ok hu

theorem execShflFwd_ok {t : Bool} {d a b : BitVec 7} {bs : BitVec 2} {s : State} (h : s.Ok) : Out.Ok (execShflFwd t d a b bs s) :=
  issue_ok h fun _ _ hu => State.shuffle_ok hu

theorem execVote_ok {t : Bool} {d : BitVec 6} {a f : BitVec 7} {m : Bool} {s : State} (h : s.Ok) :
    Out.Ok (execVote t d a f m s) :=
  issue_ok h fun _ _ hu => State.crossUni_ok hu

theorem execRedux_ok {t : Bool} {d : BitVec 6} {a f : BitVec 7} {s : State} (h : s.Ok) : Out.Ok (execRedux t d a f s) := by
  unfold execRedux
  refine issue_ok h fun th u hu => ?_
  extract_lets r
  split
  · trivial
  · exact State.raiseFlags_ok (State.crossUni_ok hu)

theorem execContribution_ok {t : Bool} {j : BitVec 6} {a f : BitVec 7} {s : State} (h : s.Ok) :
    Out.Ok (execContribution t j a f s) := by
  unfold execContribution
  refine issue_ok h fun th u hu => ?_
  extract_lets x r
  split
  · trivial
  · split
    · trivial
    · split
      · trivial
      · split
        · split
          · trivial
          · exact hu
        · split
          · exact hu
          · exact State.raiseFlags_ok (State.setJetty_ok ((State.memStep_flushStream _ _).ok hu))

theorem execScan_ok {t : Bool} {d a f : BitVec 7} {m : Bool} {s : State} (h : s.Ok) : Out.Ok (execScan t d a f m s) := by
  unfold execScan
  refine issue_ok h fun th u hu => ?_
  extract_lets r
  split
  · trivial
  · exact State.raiseFlags_ok (State.crossLanes_ok hu)

theorem execCmpx_ok {t : Bool} {d a : BitVec 7} {k j : BitVec 3} {m : Bool} {s : State} (h : s.Ok) :
    Out.Ok (execCmpx t d a k j m s) := by
  unfold execCmpx
  refine issue_ok h fun th u hu => ?_
  extract_lets from_
  exact State.pushResult_ok hu

theorem State.mapSlices_ok {s : State} {t : ThreadId} {f : Nat → Slice → Slice} (h : s.Ok) : (s.mapSlices t f).Ok := by
  unfold State.mapSlices
  split
  · extract_lets x
    exact setGroup_ok h
  · exact h

theorem State.regroup_ok {s : State} {t : ThreadId} (h : s.Ok) : (s.regroup t).Ok := by
  unfold State.regroup
  split
  · exact setGroup_ok h
  · exact h

theorem execJpt_ok {o : BitVec 21} {s : State} (h : s.Ok) : Out.Ok (execJpt o s) := by
  unfold execJpt
  refine issue_ok h fun th u hu => ?_
  extract_lets a
  split
  · exact State.mapSlices_ok hu
  · trivial

theorem execBrd_ok {p : BitVec 3} {n : Bool} {o : BitVec 21} {s : State} (h : s.Ok) : Out.Ok (execBrd p n o s) := by
  unfold execBrd
  refine issue_ok h fun th u hu => ?_
  extract_lets a tk
  split
  · trivial
  · split
    · trivial
    · exact State.regroup_ok (State.mapSlices_ok hu)

theorem execRegang_ok {t : Bool} {imm : BitVec 10} {s : State} (h : s.Ok) : Out.Ok (execRegang t imm s) := by
  unfold execRegang
  refine issue_ok h fun th u hu => ?_
  split
  · trivial
  · split
    · exact hu
    · extract_lets s1
      have hs1 : s1.Ok := State.mapSlices_ok hu
      split
      · exact State.settleRegang_ok hs1
      · exact hs1

theorem execExit_ok {p : BitVec 3} {n : Bool} {s : State} (h : s.Ok) : Out.Ok (execExit p n s) := by
  unfold execExit
  refine issue_ok h fun th u hu => ?_
  extract_lets out s1
  have hs1 : s1.Ok := State.regroup_ok (State.mapSlices_ok hu)
  split
  · exact State.settleRegang_ok hs1
  · exact hs1

theorem execBar_ok {t : Bool} {y k : BitVec 2} {n : BitVec 4} {s : State} (h : s.Ok) : Out.Ok (execBar t y k n s) := by
  unfold execBar
  refine issue_ok h fun th u hu => ?_
  split
  next g gg =>
    extract_lets x tm b hold noted
    have hhold : ∀ v : State, v.Ok → (hold v).Ok := fun v hv => by
      dsimp only [hold]
      split
      · exact hv
      · exact State.setGroup_ok hv
    clear_value hold
    split
    · trivial
    · split
      · trivial
      · split
        · exact hhold _ (State.setTeam_ok hu)
        · split
          · exact hu
          · split
            · trivial
            · split
              · exact hu
              · exact State.settleBarrier_ok (State.setTeam_ok (hhold _ hu))
  · exact hu

end Sys2Proof.Machine
end

section
/-! PROOFS. That memory stays in canonical form: the memory words. -/

namespace Sys2Proof.Machine

theorem State.poolWrite_ok {s : State} {team o n v : Nat} (h : s.Ok) : (s.poolWrite team o n v).Ok := by
  induction n generalizing s o v with
  | zero => exact h
  | succ n ih => exact ih (setTeam_ok h)

theorem State.setPoolBad_ok {s : State} {team o : Nat} {b : Bool} (h : s.Ok) : (s.setPoolBad team o b).Ok :=
  setTeam_ok h

theorem State.noteStore_ok {s : State} {g o n : Nat} (h : s.Ok) : (s.noteStore g o n).Ok := by
  unfold State.noteStore
  extract_lets x
  exact setTeam_ok h

theorem State.noteEngine_ok {s : State} {g o batch : Nat} (h : s.Ok) : (s.noteEngine g o batch).Ok := by
  unfold State.noteEngine
  extract_lets x tm
  exact setTeam_ok h

theorem State.forgetNotes_ok {s : State} {team o n : Nat} (h : s.Ok) : (s.forgetNotes team o n).Ok := by
  unfold State.forgetNotes
  extract_lets keep
  exact setTeam_ok h

theorem State.translateAll_ok {s : State} {sp : Space} {k : AccKind} {user : Bool} {l : List (Nat × W64)} (h : s.Ok) :
    (s.translateAll sp k user l).1.Ok := by
  induction l generalizing s with
  | nil => exact h
  | cons x l ih => exact ih ((walkStep_translate _ _ _ _ _).ok h)

theorem State.hostWait_ok {s t : State} {ps : List Phys} (e : s.hostWait ps = some t) (h : s.Ok) : t.Ok := snoopHost_ok e h

theorem State.doneUnlessFills_ok {s t : State} (h : s.Ok) (h1 : t.Ok) : (s.doneUnlessFills t).Ok := by
  unfold State.doneUnlessFills
  split
  · rename_i e
    exact filledHeld_ok e h h1
  · exact h1

theorem State.checkPages_ok {s : State} {t : ThreadId} {k : AccKind} {rd wr : Bool} {n : Nat} {xs : List (Nat × W64)} (h : s.Ok) :
    (s.checkPages t k rd wr n xs).Ok := by
  unfold State.checkPages
  split
  · rename_i e
    exact snoopHost_ok e h
  · rename_i e
    extract_lets r
    have hr : r.1.Ok := translateAll_ok h
    split
    · trivial
    · split
      · split
        · rename_i e1
          exact ok_ite_some e1 (fun e => hostWait_ok e hr)
        · exact hr
      · trivial

theorem State.checkVirtual_ok {s : State} {t : ThreadId} {k : AccKind} {rd wr : Bool} {n : Nat} {xs : List (Nat × W64)} (h : s.Ok) :
    (s.checkVirtual t k rd wr n xs).Ok := by
  unfold State.checkVirtual
  split
  · trivial
  · split
    · trivial
    · exact checkPages_ok h

theorem State.markStore_ok {s : State} {t : ThreadId} {va : W64} {e : StoreEnd} (h : s.Ok) : (s.markStore t va e).Ok := by
  unfold State.markStore
  split
  · exact h
  · split
    · exact h
    · split
      · exact setGroup_ok h
      · exact setScalar_ok h
  · split
    · exact h
    · split
      · exact setGroup_ok h
      · exact setScalar_ok h

theorem State.clearLost_ok {s : State} {t : ThreadId} {peer : Bool} (h : s.Ok) : (s.clearLost t peer).Ok := by
  unfold State.clearLost
  split
  · extract_lets x
    exact setGroup_ok h
  · extract_lets x
    exact setScalar_ok h

theorem State.lostReport_ok {s t : State} {th : ThreadId} {scope : Nat} {tr : Trap} (e : s.lostReport th scope = some (t, tr)) (h : s.Ok) :
    t.Ok := by
  unfold State.lostReport at e
  dsimp only at e
  split at e
  · cases e
  · split at e
    · cases e; exact clearLost_ok h
    · cases e; exact ok_of_eq h rfl rfl
    · split at e
      · cases e; exact clearLost_ok h
      · cases e
    · cases e

theorem State.writePieces_ok {s : State} {part ctx cpt base : Nat} {l : List (Nat × Nat)} (h : s.Ok) :
    (s.writePieces part ctx cpt base l).Ok :=
  ok_foldl (fun _ _ ht => (walkStep_deviceWrite _ _ _ _ _ _ _).ok ht) h _

theorem State.parkGroup_ok {s : State} {g : Nat} {why : Park} (h : s.Ok) : (s.parkGroup g why).Ok := by
  unfold State.parkGroup
  extract_lets x t s1 s2
  have hs1 : s1.Ok := writePieces_ok h
  split
  · exact finishHalt_ok (stopGroup_ok (setGroup_ok hs1))
  · exact setGroup_ok hs1

theorem State.parkedFor_ok {s : State} {g : Nat} {why : Park} (h : s.Ok) : (s.parkedFor g why).Ok := by
  unfold State.parkedFor
  split
  · exact setGroup_ok h
  · exact h

theorem State.stepParked_ok {s : State} {t : ThreadId} {pc : Addr} (h : s.Ok) : (s.stepParked t pc).Ok := by
  unfold State.stepParked
  split
  · split
    · split
      · exact takeTrap_ok h
      · exact h
    · exact h
  · exact h

theorem State.deviceRead_ok {s : State} {part ctx va : Nat} (h : s.Ok) : (s.deviceRead part ctx va).1.Ok := by
  unfold State.deviceRead
  split
  · rename_i e
    dsimp only
    exact (memStep_siteTouch _ _ _ _ _ _).ok (ok_fst e ((walkStep_translate _ _ _ _ _).ok h))
  · rename_i e
    dsimp only
    exact ok_fst e ((walkStep_translate _ _ _ _ _).ok h)

theorem State.reloadPark_ok {s : State} {g : Nat} (h : s.Ok) : (s.reloadPark g).Ok := by
  unfold State.reloadPark
  extract_lets t base s1
  have hs1 : s1.Ok := by
    dsimp only [s1]
    refine ok_foldl (fun t x ht => ?_) h _
    split
    · rename_i e
      exact ok_fst e (deviceRead_ok ht)
    · rename_i e
      exact setGroup_ok (ok_fst e (deviceRead_ok ht))
  refine ok_foldl (fun t x ht => ?_) hs1 _
  split
  · rename_i e
    exact ok_fst e (deviceRead_ok ht)
  · rename_i e
    extract_lets u u1
    exact setGroup_ok (ok_fst e (deviceRead_ok ht))

theorem State.unparkGroup_ok {s : State} {g : Nat} (h : s.Ok) : (s.unparkGroup g).Ok := by
  unfold State.unparkGroup
  extract_lets x tm
  split
  · split
    · split
      · exact setGroup_ok h
      · exact h
    · exact h
  · exact h

theorem State.modVec_ok {s : State} {part ctx v : Nat} {f : HVec → HVec} (h : s.Ok) : (s.modVec part ctx v f).Ok :=
  modCtx_ok h

theorem State.wake_ok {s : State} {part ctx v : Nat} (h : s.Ok) : (s.wake part ctx v).Ok := by
  unfold State.wake
  split
  · exact notify_ok h
  · exact modCtx_ok h
  · exact h

theorem State.acceptHail_ok {s : State} {m : HailMsg} (h : s.Ok) : (s.acceptHail m).Ok := by
  unfold State.acceptHail
  split
  · exact countLerr_ok h
  · split
    · exact modCtx_ok h
    · extract_lets s1 x
      have hs1 : s1.Ok := modVec_ok h
      split
      · exact wake_ok hs1
      · exact hs1

theorem State.setServing_ok {s : State} {t : ThreadId} {v : Option Nat} {ret : Addr} (h : s.Ok) : (s.setServing t v ret).Ok := by
  unfold State.setServing
  split
  · exact setGroup_ok h
  · exact setScalar_ok h

theorem State.endService_ok {s : State} {t : ThreadId} (h : s.Ok) : (s.endService t).Ok := by
  unfold State.endService
  split
  · exact setServing_ok (modVec_ok h)
  · exact h

theorem State.putLater_ok {s : State} {t : ThreadId} {d : Nat} {v : W64} (h : s.Ok) : (s.putLater t d v).Ok := by
  unfold State.putLater
  split
  · exact pushResult_ok h
  · exact putW_ok h

theorem State.deliverTo_ok {s : State} {t : ThreadId} {d v : Nat} {ret : Addr} {atOnce : Bool} (h : s.Ok) :
    (s.deliverTo t d v ret atOnce).1.Ok := by
  unfold State.deliverTo
  extract_lets part ctx x put s1 s2 s3
  have hs1 : s1.Ok := by
    dsimp only [s1]
    dsimp only [put]
    split
    · exact putLater_ok (putLater_ok h)
    · exact putW_ok (putW_ok h)
  have hs2 : s2.Ok := modVec_ok hs1
  have hs3 : s3.Ok := (memStep_foldHail _ _ _).ok (setServing_ok hs2)
  dsimp only
  exact hs3

theorem State.serveTaker_ok {s : State} {x : Nat × ThreadId × Nat × Nat} (h : s.Ok) : (s.serveTaker x).Ok := by
  obtain ⟨n, t, d, m⟩ := x
  unfold State.serveTaker
  dsimp only
  split
  · exact h
  next v _ =>
    have h1 : (((s.deliverTo t d v (s.pcOf t)).1.setPc t (s.deliverTo t d v (s.pcOf t)).2).setWaiting t false).Ok :=
      setWaiting_ok (setPc_ok (deliverTo_ok h))
    split
    · exact stepParked_ok (parkedFor_ok (ok_of_eq h1 rfl rfl))
    · exact setScalar_ok h1

theorem State.serveTakers_ok {s : State} {part ctx : Nat} (h : s.Ok) : (s.serveTakers part ctx).Ok := by
  unfold State.serveTakers
  split
  · exact ok_foldl (fun _ _ ht => serveTaker_ok ht) h _
  · split
    · exact h
    · exact ok_foldl (fun _ _ ht => serveTaker_ok ht) h _
  · exact h

theorem State.syncTimers_ok {s : State} (h : s.Ok) : s.syncTimers.Ok :=
  ok_of_eq h rfl rfl

theorem State.raiseRequest_ok {s : State} {part ctx : Nat} {why : BitVec 2} {now : Bool} (h : s.Ok) :
    (s.raiseRequest part ctx why now).Ok :=
  modCtx_ok h

theorem State.destroyCtx_ok {s : State} {part ctx : Nat} (h : s.Ok) : (s.destroyCtx part ctx).Ok := by
  unfold State.destroyCtx
  extract_lets mine myTeam s1 s2 a
  have hs1 : s1.Ok := ok_of_eq h rfl rfl
  have hs2 : s2.Ok := modPart_ok hs1
  exact (memStep_siteWrite _ _ _ _ _ _ _).ok ((memStep_evictSector _ _ _).ok hs2)

theorem State.ctxReq_ok {s : State} {part ctx : Nat} {now destroy : Bool} (h : s.Ok) : (s.ctxReq part ctx now destroy).Ok := by
  unfold State.ctxReq
  split
  · exact countLerr_ok h
  · split
    · exact countLerr_ok h
    · split
      · exact destroyCtx_ok h
      · exact countLerr_ok h
    · split
      · exact countLerr_ok h
      · exact raiseRequest_ok h
    · split
      · exact countLerr_ok h
      · split
        · exact raiseRequest_ok h
        · exact h

theorem execCtxreqRequest_ok {part ctx : Nat} {s : State} (h : s.Ok) : Out.Ok (execCtxreqRequest part ctx s) :=
  event_ok (State.ctxReq_ok h)

theorem execCtxreqNow_ok {part ctx : Nat} {s : State} (h : s.Ok) : Out.Ok (execCtxreqNow part ctx s) :=
  event_ok (State.ctxReq_ok h)

theorem execCtxreqDestroy_ok {part ctx : Nat} {s : State} (h : s.Ok) : Out.Ok (execCtxreqDestroy part ctx s) :=
  event_ok (State.ctxReq_ok h)

theorem execPreemptDeadline_ok {part ctx : Nat} {s : State} (h : s.Ok) : Out.Ok (execPreemptDeadline part ctx s) := by
  unfold execPreemptDeadline
  extract_lets c
  refine event_ok ?_
  split
  · exact State.modCtx_ok h
  · exact h

theorem State.beginRelease_ok {s : State} {t : ThreadId} {ord : Nat} (h : s.Ok) : (s.beginRelease t ord).1.Ok := by
  unfold State.beginRelease
  split
  · dsimp only
    exact h
  · split
    · dsimp only
      exact (memStep_flushStream _ _).ok h
    · exact (memStep_beginWide _ _ _).ok h

theorem State.storeOne_ok {s : State} {t : ThreadId} {ord : Nat} {g : Sig} {p : Phys} {n : Nat} {v va : W64} (h : s.Ok) :
    (s.storeOne t ord g p n v va).Ok := by
  unfold State.storeOne
  extract_lets r s1
  have hr : r.1.Ok := by
    dsimp only [r]
    split
    · exact (memStep_storeBytes _ _ _ _ _ _ _).ok h
    · exact (memStep_releaseStore _ _ _ _ _ _ _ _).ok h
  have hs1 : s1.Ok := by
    dsimp only [s1]
    split
    · split
      · exact (memStep_post _ _ _ _ _ _ _).ok hr
      · exact hr
    · exact hr
  exact markStore_ok hs1

theorem State.storeWord_ok {s : State} {t : ThreadId} {ord n : Nat} {xs : List (W64 × Phys × W64)} (h : s.Ok) :
    (s.storeWord t ord n xs).Ok := by
  unfold State.storeWord
  extract_lets accs
  split
  · exact h
  · split
    · rename_i e
      exact snoopHost_ok (Option.ite_none_left_eq_some.1 e).2 h
    · split
      · rename_i e1
        exact lostReport_ok (Option.ite_none_left_eq_some.1 e1).2 h
      · split
        · rename_i e2
          exact releaseWait_ok e2 h
        · split
          · exact ok_foldl (fun _ _ ht => storeOne_ok ht) (beginRelease_ok h) _
          · exact (memStep_replacePending _ _ _).ok (ok_foldl (fun _ _ ht => storeOne_ok ht) (beginRelease_ok h) _)

theorem execLd_ok {t : Bool} {d a : BitVec 7} {w : BitVec 6} {z o : BitVec 2} {s : State} (h : s.Ok) :
    Out.Ok (execLd t d a w z o s) := by
  unfold execLd
  refine issue_ok h fun th u hu => ?_
  split
  · split
    · rename_i e
      exact Checked.stop_of e (State.checkVirtual_ok hu)
    · rename_i e
      exact State.pushReq_ok (Checked.ok_of e (State.checkVirtual_ok hu))
  · exact hu

theorem execSt_ok {t : Bool} {d a : BitVec 7} {w : BitVec 6} {z o : BitVec 2} {s : State} (h : s.Ok) :
    Out.Ok (execSt t d a w z o s) := by
  unfold execSt
  refine issue_ok h fun th u hu => ?_
  split
  · rename_i e
    exact Checked.stop_of e (State.checkVirtual_ok hu)
  · rename_i e
    exact State.storeWord_ok (Checked.ok_of e (State.checkVirtual_ok hu))

theorem execLds_ok {t : Bool} {d a : BitVec 7} {w : BitVec 6} {z : BitVec 2} {s : State} (h : s.Ok) :
    Out.Ok (execLds t d a w z s) := by
  unfold execLds
  refine issue_ok h fun th u hu => ?_
  split
  · extract_lets xs
    split
    · trivial
    · exact State.pushReq_ok hu
  · exact hu

theorem execSts_ok {t : Bool} {d a : BitVec 7} {w : BitVec 6} {z : BitVec 2} {s : State} (h : s.Ok) :
    Out.Ok (execSts t d a w z s) := by
  unfold execSts
  refine issue_ok h fun th u hu => ?_
  split
  · extract_lets xs
    split
    · trivial
    · split
      · exact hu
      · exact State.ok_foldl (fun _ _ ht => State.poolWrite_ok (State.noteStore_ok ht)) hu _
  · exact hu

theorem State.ok_of_checkPriv_ok {s t : State} {th : ThreadId} {store pair : Bool} {n : Nat} {xs : List (Nat × W64)}
    {ps : List (Nat × W64 × Nat × Phys)} (e : s.checkPriv th store pair n xs = .ok (t, ps)) (h : s.Ok) : t.Ok := by
  unfold State.checkPriv at e
  split at e
  · dsimp only at e
    split at e
    · cases e
    · split at e
      · cases e
      · split at e
        · cases e
        · rename_i e1
          cases e
          exact Checked.ok_of e1 (checkPages_ok h)
  · cases e

theorem State.ok_of_checkPriv_error {s : State} {th : ThreadId} {store pair : Bool} {n : Nat} {xs : List (Nat × W64)} {d : Did}
    (e : s.checkPriv th store pair n xs = .error d) (h : s.Ok) : d.Ok := by
  unfold State.checkPriv at e
  split at e
  · dsimp only at e
    split at e
    · cases e; trivial
    · split at e
      · cases e; trivial
      · split at e
        · rename_i e1
          cases e
          exact Checked.stop_of e1 (checkPages_ok h)
        · cases e
  · cases e; exact h

theorem execLdp_ok {t : Bool} {d a : BitVec 7} {w : BitVec 6} {z : BitVec 2} {s : State} (h : s.Ok) :
    Out.Ok (execLdp t d a w z s) := by
  unfold execLdp
  refine issue_ok h fun th u hu => ?_
  split
  · split
    · rename_i e
      exact State.ok_of_checkPriv_error e hu
    · rename_i e
      exact State.pushReq_ok (State.ok_of_checkPriv_ok e hu)
  · exact hu

theorem execStp_ok {t : Bool} {d a : BitVec 7} {w : BitVec 6} {z : BitVec 2} {s : State} (h : s.Ok) :
    Out.Ok (execStp t d a w z s) := by
  unfold execStp
  refine issue_ok h fun th u hu => ?_
  split
  · rename_i e
    exact State.ok_of_checkPriv_error e hu
  · rename_i e
    exact State.storeWord_ok (State.ok_of_checkPriv_ok e hu)

theorem State.atomWord_ok {s : State} {t : ThreadId} {keep : Bool} {d a : BitVec 7} {w : BitVec 6} {c : BitVec 4} (h : s.Ok) :
    (s.atomWord t keep d a w c).Ok := by
  unfold State.atomWord
  split
  · split
    · rename_i e
      exact Checked.stop_of e (checkVirtual_ok h)
    · rename_i e
      extract_lets accs
      split
      · exact h
      · split
        · exact Checked.ok_of e (checkVirtual_ok h)
        · exact pushReq_ok (Checked.ok_of e (checkVirtual_ok h))
  · exact h

theorem execAtom_ok {t : Bool} {d a : BitVec 7} {w : BitVec 6} {c : BitVec 4} {s : State} (h : s.Ok) :
    Out.Ok (execAtom t d a w c s) :=
  issue_ok h fun _ _ hu => State.atomWord_ok hu

theorem execRed_ok {t : Bool} {d a : BitVec 7} {w : BitVec 6} {c : BitVec 4} {s : State} (h : s.Ok) :
    Out.Ok (execRed t d a w c s) :=
  issue_ok h fun _ _ hu => State.atomWord_ok hu

theorem execXst_ok {t : Bool} {d a : BitVec 7} {w : BitVec 6} {z : BitVec 2} {s : State} (h : s.Ok) :
    Out.Ok (execXst t d a w z s) := by
  unfold execXst
  refine issue_ok h fun th u hu => ?_
  split
  · extract_lets n tgt own gr xs num
    split
    · trivial
    · split
      · trivial
      · split
        · trivial
        · split
          · split
            · exact hu
            · split
              · extract_lets pkts
                exact State.ok_of_eq hu rfl rfl
              · exact hu
          · split
            · exact hu
            · split
              · exact hu
              · exact State.setTeam_ok hu
  · exact hu

theorem State.readAcc_ok {s : State} {cpt team ord tag : Nat} {x : LaneAcc} (h : s.Ok) : (s.readAcc cpt team ord tag x).1.Ok := by
  unfold State.readAcc
  split
  · dsimp only
    exact h
  · split
    · exact (memStep_loadBytes _ _ _ _ _).ok h
    · exact (memStep_acquireLoad _ _ _ _ _ _).ok h

theorem State.readAll_ok {s : State} {cpt team tag : Nat} {r : Req} {l : List LaneAcc} (h : s.Ok) :
    (s.readAll cpt team tag r l).1.Ok := by
  induction l generalizing s r with
  | nil => exact h
  | cons x l ih => exact ih (readAcc_ok h)

theorem execLoadReply_ok {req : Nat} {s : State} (h : s.Ok) : Out.Ok (execLoadReply req s) := by
  unfold execLoadReply
  split
  · exact event_ok h
  · split
    · exact event_ok h
    · split
      · rename_i e
        exact event_ok (State.hostWait_ok e h)
      · extract_lets t q s1 lanes
        have hq : q.1.Ok := State.readAll_ok h
        have hs1 : s1.Ok := hq
        have hlanes : lanes.Ok := State.ok_of_eq hs1 rfl rfl
        exact event_ok (State.unlessFills_ok h (State.touch_ok (State.noteOperand_ok (State.setGroup_ok hlanes) h)))

theorem State.sendAtomic_ok {s : State} {t : ThreadId} {x : LaneAcc} {op : Nat} {keep : Bool} {old : W64} {bad : Bool} (h : s.Ok) :
    (s.sendAtomic t x op keep old bad).Ok := by
  unfold State.sendAtomic
  extract_lets cpt o
  split
  · exact h
  · split
    · extract_lets __src
      have h__src : __src.Ok := (memStep_identify _ _ _ _ _).ok h
      exact ok_of_eq h__src rfl rfl
    · exact (memStep_post _ _ _ _ _ _ _).ok h

theorem execSliceAtomic_ok {req : Nat} {s : State} (h : s.Ok) : Out.Ok (execSliceAtomic req s) := by
  unfold execSliceAtomic
  split
  · exact event_ok h
  next r _ =>
    split
    next op x rest _ _ =>
      extract_lets t cpt q s1 keep out taken r1 s2
      have hq : q.1.Ok := by
        dsimp only [q]
        split
        · exact (State.memStep_atomicBytes _ _ _ _ _ _ _ _).ok h
        · exact (State.memStep_orderedAtomic _ _ _ _ _ _ _ _ _).ok h
      have hs1 : s1.Ok := State.markStore_ok hq
      have hs2 : s2.Ok := by
        dsimp only [s2]
        split
        · exact State.sendAtomic_ok hs1
        · exact hs1
      split
      · exact event_ok h
      · split
        · rename_i e
          exact event_ok (State.snoopHost_ok e h)
        · split
          · rename_i e
            exact event_ok (State.releaseWait_ok (Option.ite_none_left_eq_some.1 e).2 h)
          · exact event_ok (State.unlessFills_ok h (State.tryRetireGroup_ok (State.ok_of_eq hs2 rfl rfl)))
    · exact event_ok h

theorem State.landPkt_ok {s1 : State} {p : XPkt} (h : s1.Ok) : (s1.landPkt p).Ok := by
  unfold State.landPkt
  split
  · exact settleExchange_ok (setTeam_ok h)
  · split
    · exact setTeam_ok h
    · exact h

theorem State.deliverPkt_ok {s : State} {p : XPkt} (h : s.Ok) : (s.deliverPkt p).Ok :=
  landPkt_ok ((memStep_post _ _ _ _ _ _ _).ok (ok_of_eq h rfl rfl))

theorem execXstoreDelivery_ok {src dst : Nat} {s : State} (h : s.Ok) : Out.Ok (execXstoreDelivery src dst s) := by
  unfold execXstoreDelivery
  split
  · exact event_ok h
  · exact event_ok (State.deliverPkt_ok h)

theorem State.checkUniform_ok {s : State} {t : ThreadId} {k : AccKind} {rd wr : Bool} {n : Nat} {a : W64} (h : s.Ok) :
    (s.checkUniform t k rd wr n a).Ok := by
  unfold State.checkUniform
  split
  · trivial
  · trivial
  · exact checkVirtual_ok h

theorem State.loadNow_ok {s : State} {t : ThreadId} {ord : Nat} {p : Phys} {n d : Nat} (h : s.Ok) :
    (s.loadNow t ord p n d).Ok := by
  unfold State.loadNow
  extract_lets q s1
  have hq : q.1.Ok := by
    dsimp only [q]
    split
    · exact (memStep_loadBytes _ _ _ _ _).ok h
    · exact (memStep_acquireLoad _ _ _ _ _ _).ok h
  have hs1 : s1.Ok := putW_ok hq
  split
  · exact setUni_ok hs1
  · exact hs1

theorem execUld_ok {t : Bool} {d a : BitVec 6} {o : BitVec 8} {z q : BitVec 2} {s : State} (h : s.Ok) :
    Out.Ok (execUld t d a o z q s) := by
  unfold execUld
  refine issue_ok h fun th u hu => ?_
  extract_lets n
  split
  · rename_i e
    exact Checked.stop_of e (State.checkUniform_ok hu)
  · rename_i e
    split
    · exact State.pushReq_ok (Checked.ok_of e (State.checkUniform_ok hu))
    · split
      · exact hu
      · exact State.doneUnlessFills_ok hu (State.ok_foldl (fun _ _ ht => State.loadNow_ok ht) (Checked.ok_of e (State.checkUniform_ok hu)) _)

theorem execUst_ok {t : Bool} {d a : BitVec 6} {o : BitVec 8} {z q : BitVec 2} {s : State} (h : s.Ok) :
    Out.Ok (execUst t d a o z q s) := by
  unfold execUst
  refine issue_ok h fun th u hu => ?_
  extract_lets n
  split
  · rename_i e
    exact Checked.stop_of e (State.checkUniform_ok hu)
  · rename_i e
    exact State.storeWord_ok (Checked.ok_of e (State.checkUniform_ok hu))

theorem State.atomicNow_ok {s : State} {t : ThreadId} {ord : Nat} {p : Phys} {va : W64} {code : Nat} {b c : W64} {d : Nat} (h : s.Ok) :
    (s.atomicNow t ord p va code b c d).Ok := by
  unfold State.atomicNow
  extract_lets q old s1
  have hq : q.1.Ok := by
    dsimp only [q]
    split
    · exact (memStep_atomicBytes _ _ _ _ _ _ _ _).ok h
    · exact (memStep_orderedAtomic _ _ _ _ _ _ _ _ _).ok h
  have hs1 : s1.Ok := putW_ok (markStore_ok ((memStep_requestTo _ _ _ _ _).ok hq))
  split
  · exact setUni_ok hs1
  · exact hs1

theorem execUamo_ok {t : Bool} {d a b : BitVec 6} {c : BitVec 4} {q : BitVec 2} {s : State} (h : s.Ok) :
    Out.Ok (execUamo t d a b c q s) := by
  unfold execUamo
  refine issue_ok h fun th u hu => ?_
  split
  · rename_i e
    exact Checked.stop_of e (State.checkUniform_ok hu)
  next s1 ps e =>
    have hs1 : s1.Ok := Checked.ok_of e (State.checkUniform_ok hu)
    extract_lets x y accs s2
    have hs2 : s2.Ok := by
      dsimp only [s2]
      split
      · exact (State.memStep_flushStream _ _).ok hs1
      · exact hs1
    clear_value s2
    split
    · exact hu
    · split
      · rename_i e1
        exact State.snoopHost_ok (Option.ite_none_left_eq_some.1 e1).2 hs1
      · split
        · rename_i e1
          exact State.lostReport_ok (Option.ite_none_left_eq_some.1 e1).2 hs1
        · split
          · rename_i e1
            exact State.releaseWait_ok (Option.ite_none_left_eq_some.1 e1).2 hs1
          · split
            · exact State.pushReq_ok hs2
            · exact State.doneUnlessFills_ok hu (State.ok_foldl (fun _ _ ht => State.atomicNow_ok ht) hs2 _)

theorem State.fenceActs_ok {s : State} {cpt : Nat} {scope : ScopeNo} {k : BitVec 2} (h : s.Ok) :
    (s.fenceActs cpt scope k).Ok := by
  unfold State.fenceActs
  extract_lets s1 s2
  have hs1 : s1.Ok := by
    dsimp only [s1]
    split
    · exact (memStep_flushStream _ _).ok h
    · exact h
  have hs2 : s2.Ok := by
    dsimp only [s2]
    split
    · exact (memStep_fenceRelease _ _ _).ok hs1
    · exact hs1
  split
  · split
    · exact (memStep_foldEvery _ _ _).ok hs2
    · exact fenceAcquire_ok hs2
  · exact hs2

theorem State.fenceAsync_ok {s : State} {t : ThreadId} (h : s.Ok) : (s.fenceAsync t).Ok := by
  unfold State.fenceAsync
  split
  · extract_lets x
    exact setTeam_ok h
  · exact h

theorem execFence_ok {t y : Bool} {sc : BitVec 3} {k : BitVec 2} {s : State} (h : s.Ok) : Out.Ok (execFence t y sc k s) := by
  unfold execFence
  refine issue_ok h fun th u hu => ?_
  split
  · exact hu
  · split
    · rename_i e
      exact State.snoopHost_ok e hu
    · rename_i e
      split
      · rename_i e1
        exact State.lostReport_ok e1 hu
      · split
        · rename_i e2
          exact State.ok_ite_some e2 (fun e => State.releaseWait_ok e hu)
        · refine State.doneUnlessFills_ok hu (State.fenceActs_ok ?_)
          split
          · exact State.fenceAsync_ok hu
          · exact hu

theorem State.cacheLine_ok {s : State} {t : ThreadId} {f : Nat} {va : W64} {p : Phys} (h : s.Ok) : (s.cacheLine t f va p).Ok := by
  unfold State.cacheLine
  extract_lets cpt line
  split
  · exact h
  · split
    · exact (memStep_writeBack _ _ _).ok ((memStep_writeBack _ _ _).ok h)
    · exact (memStep_dropSector _ _ _).ok ((memStep_dropSector _ _ _).ok h)
    · exact (memStep_evictSector _ _ _).ok ((memStep_evictSector _ _ _).ok h)
    · exact markStore_ok (markStore_ok ((memStep_storeBytes _ _ _ _ _ _ _).ok ((memStep_storeBytes _ _ _ _ _ _ _).ok h)))

theorem execCache_ok {t : Bool} {a f : BitVec 6} {s : State} (h : s.Ok) : Out.Ok (execCache t a f s) := by
  unfold execCache
  refine issue_ok h fun th u hu => ?_
  extract_lets x va
  split
  · trivial
  · split
    · exact hu
    · split
      · trivial
      · rename_i e
        split
        · trivial
        · split
          · exact hu
          · exact State.doneUnlessFills_ok hu (State.cacheLine_ok (State.ok_fst e ((State.walkStep_translate _ _ _ _ _).ok hu)))

theorem execDirtyWriteback_ok {cpt sector : Nat} {s : State} (h : s.Ok) : Out.Ok (execDirtyWriteback cpt sector s) := by
  unfold execDirtyWriteback
  split
  · refine event_ok ?_
    split
    · refine State.ok_getD (fun t e => ?_) ((State.memStep_writeBack _ _ _).ok h)
      exact State.snoopHost_ok e h
    · exact h
  · exact event_ok h

theorem execStreamBufferFlush_ok {cluster line : Nat} {s : State} (h : s.Ok) : Out.Ok (execStreamBufferFlush cluster line s) := by
  unfold execStreamBufferFlush
  split
  · exact event_ok h
  · split
    · refine event_ok (State.ok_getD (fun t e => ?_) ((State.memStep_flushLine _ _ _).ok h))
      exact State.snoopHost_ok e h
    · exact event_ok h

theorem execAccumulatorRotate_ok {cpt : Nat} {s : State} (h : s.Ok) : Out.Ok (execAccumulatorRotate cpt s) := by
  unfold execAccumulatorRotate
  extract_lets a
  refine event_ok ?_
  split
  · exact (State.memStep_setAcc _ _ _).ok h
  · exact h

end Sys2Proof.Machine
end

section
/-! PROOFS. That memory stays in canonical form: the copy and matrix engines. -/

namespace Sys2Proof.Machine

theorem State.pinRanges_ok {s : State} {t : ThreadId} {l : List Range} (h : s.Ok) : (s.pinRanges t l).1.Ok := by
  induction l generalizing s with
  | nil => exact h
  | cons r l ih =>
    unfold State.pinRanges
    have h1 : (if r.spad then (s, .ok []) else s.translateRange (s.spaceOf t) r.kind true r.addr.toNat r.len).1.Ok := by
      split
      · exact h
      · exact translateRange_ok h
    split
    · rename_i e
      exact ok_fst e h1
    · rename_i e
      have h2 := ih (ok_fst e h1)
      split <;> (rename_i e1; exact ok_fst e1 h2)

theorem State.pinnedOr_ok {s s1 : State} {fs : List Frames} (h : s.Ok) (h1 : s1.Ok) : (s.pinnedOr s1 fs).Ok := by
  unfold State.pinnedOr
  split
  · rename_i e
    exact filledHeld_ok e h h1
  · exact h1

theorem State.checkRanges_ok {s : State} {t : ThreadId} {rs : List Range} (h : s.Ok) : (s.checkRanges t rs).Ok := by
  unfold State.checkRanges
  split
  · trivial
  · split
    · trivial
    · rename_i e
      split
      · trivial
      · exact pinnedOr_ok h (ok_fst e (pinRanges_ok h))

theorem State.issueCmd_ok {s : State} {g : Nat} {k : CmdKind} (h : s.Ok) : (s.issueCmd g k).1.Ok := by
  unfold State.issueCmd
  extract_lets x id c s1
  have hs1 : s1.Ok := ok_of_eq h rfl rfl
  dsimp only
  exact setGroup_ok hs1

theorem State.modCmd_ok {s : State} {id : Nat} {f : Cmd → Cmd} (h : s.Ok) : (s.modCmd id f).Ok :=
  ok_of_eq h rfl rfl

theorem State.completeCmd_ok {s : State} {id : Nat} (h : s.Ok) : (s.completeCmd id).Ok :=
  modCmd_ok h

theorem State.holdStatus_ok {s : State} {g d : Nat} {n : BitVec 16} (h : s.Ok) : (s.holdStatus g d n).Ok :=
  setGroup_ok h

theorem State.forgetOperands_ok {s : State} {g : Nat} (h : s.Ok) : (s.forgetOperands g).Ok := by
  unfold State.forgetOperands
  split
  · exact h
  · exact setGroup_ok h

theorem State.settleBatch_ok {s : State} {g : Nat} {n : BitVec 16} (h : s.Ok) : (s.settleBatch g n).Ok := by
  unfold State.settleBatch
  dsimp only
  split
  · exact h
  · split
    · refine tryRetireGroup_ok (forgetOperands_ok ?_)
      split
      · exact ok_of_eq h rfl rfl
      · exact holdStatus_ok (putW_ok (ok_of_eq h rfl rfl))
    · exact h

theorem execBclose_ok {t : Bool} {d : BitVec 6} {s : State} (h : s.Ok) : Out.Ok (execBclose t d s) := by
  unfold execBclose
  refine issue_ok h fun th u hu => ?_
  split
  · extract_lets x
    split
    · exact hu
    · split
      · exact State.settleBatch_ok (State.emptyW_ok (State.setGroup_ok hu))
      · exact State.emptyW_ok (State.setGroup_ok hu)
  · exact hu

theorem execBatchComplete_ok {group batch : Nat} {s : State} (h : s.Ok) : Out.Ok (execBatchComplete group batch s) := by
  unfold execBatchComplete
  refine event_ok ?_
  split
  · exact State.settleBatch_ok h
  · exact h

theorem State.engRead_ok {s : State} {g : Nat} {spad : Bool} {fr : Frames} {a : Nat} (h : s.Ok) :
    (s.engRead g spad fr a).1.Ok := by
  unfold State.engRead
  extract_lets team
  split
  · dsimp only
    exact ok_of_eq h rfl rfl
  · exact (memStep_loadBytes _ _ _ _ _).ok h

theorem State.engWrite_ok {s : State} {g : Nat} {spad : Bool} {fr : Frames} {a v : Nat} {bad : Bool} {batch : Nat} (h : s.Ok) :
    (s.engWrite g spad fr a v bad batch).Ok := by
  unfold State.engWrite
  extract_lets team
  split
  · split
    · exact setPoolBad_ok (poolWrite_ok (noteEngine_ok h))
    · exact poolWrite_ok (noteEngine_ok h)
  · split
    · exact (memStep_streamStore _ _ _ _ _ _ _ _).ok h
    · split
      · exact (memStep_setBad _ _ _).ok ((memStep_evictSector _ _ _).ok (markStore_ok ((memStep_storeBytes _ _ _ _ _ _ _).ok h)))
      · exact markStore_ok ((memStep_storeBytes _ _ _ _ _ _ _).ok h)

theorem State.issueCpy_ok {s : State} {g : Nat} {sSpad dSpad : Bool} {src dst : W64} {len : Nat} {fs : List Frames} (h : s.Ok) :
    (s.issueCpy g sSpad dSpad src dst len fs).Ok := by
  unfold State.issueCpy
  extract_lets k s1
  have hs1 : s1.Ok := issueCmd_ok h
  exact setGroup_ok hs1

theorem execCpy_ok {t : Bool} {a : BitVec 6} {y x : BitVec 2} {s : State} (h : s.Ok) : Out.Ok (execCpy t a y x s) := by
  unfold execCpy
  refine issue_ok h fun th u hu => ?_
  split
  · extract_lets src dst len sSpad dSpad
    split
    · exact hu
    · split
      · trivial
      · split
        · trivial
        · split
          · trivial
          · split
            · trivial
            · split
              · rename_i e
                exact Pinned.stop_of e (State.checkRanges_ok hu)
              · rename_i e
                exact State.issueCpy_ok (Pinned.ok_of e (State.checkRanges_ok hu))
  · exact hu

theorem execGather_ok {t : Bool} {a : BitVec 6} {y : BitVec 2} {x : Bool} {s : State} (h : s.Ok) :
    Out.Ok (execGather t a y x s) := by
  unfold execGather
  refine issue_ok h fun th u hu => ?_
  split
  · extract_lets r width nidx row dSpad c
    split
    · exact hu
    · split
      · trivial
      · split
        · trivial
        · split
          · trivial
          · split
            · rename_i e
              exact Pinned.stop_of e (State.checkRanges_ok hu)
            · rename_i e
              exact State.issueCmd_ok (Pinned.ok_of e (State.checkRanges_ok hu))
  · exact hu

theorem State.readBins_ok {s : State} {g : Nat} {fr : Frames} {bins n : Nat} (h : s.Ok) : (s.readBins g fr bins n).1.Ok := by
  induction n with
  | zero => exact h
  | succ n ih =>
    unfold State.readBins
    extract_lets r t p part u e
    refine (memStep_siteTouch _ _ _ _ _ _).ok ?_
    dsimp only [u]
    split
    · exact (memStep_evictSector _ _ _).ok ih
    · exact ih

theorem execBinscat_ok {t : Bool} {a : BitVec 6} {x : BitVec 2} {s : State} (h : s.Ok) : Out.Ok (execBinscat t a x s) := by
  unfold execBinscat
  refine issue_ok h fun th u hu => ?_
  split
  · extract_lets r ntok tsize nbins sSpad c
    split
    · exact hu
    · split
      · trivial
      · split
        · trivial
        · split
          · trivial
          · split
            · trivial
            · rename_i e
              extract_lets tab
              split
              · rename_i e1
                exact State.snoopHost_ok e1 (State.ok_fst e (State.pinRanges_ok hu))
              · split
                · trivial
                · split
                  · trivial
                  · split
                    · trivial
                    · rename_i e2
                      split
                      · trivial
                      · split
                        · trivial
                        · split
                          · rename_i e3
                            exact State.filledHeld_ok e3 hu (State.ok_fst e2 (State.pinRanges_ok (State.readBins_ok (State.ok_fst e (State.pinRanges_ok hu)))))
                          · exact State.issueCmd_ok (State.ok_fst e2 (State.pinRanges_ok (State.readBins_ok (State.ok_fst e (State.pinRanges_ok hu)))))
  · exact hu

theorem State.beginWork_ok {s : State} {id row : Nat} {w : Option Work} {f : Cmd → Cmd} (h : s.Ok) :
    (s.beginWork id row w f).Ok :=
  modCmd_ok h

theorem State.beginRow_ok {s : State} {id g : Nat} {x64 : Bool} {idx tbase stride row dst : Nat} {fi : Frames} {low : Option (Nat × Bool)} {i : Nat} (h : s.Ok) :
    (s.beginRow id g x64 idx tbase stride row dst fi low i).Ok := by
  unfold State.beginRow
  extract_lets first at_
  split
  · rename_i e
    exact snoopHost_ok e h
  · split
    · exact modCmd_ok (engRead_ok h)
    · split
      · exact beginWork_ok (engRead_ok h)
      · split
        · rename_i e1
          exact snoopHost_ok e1 (engRead_ok h)
        · split
          · rename_i e2
            exact beginWork_ok (ok_fst e2 (translateRange_ok (engRead_ok h)))
          · rename_i e2
            exact beginWork_ok (ok_fst e2 (translateRange_ok (engRead_ok h)))

theorem State.bumpBin_ok {s : State} {cpt cnt cap tag : Nat} (h : s.Ok) : (s.bumpBin cpt cnt cap tag).1.Ok := by
  unfold State.bumpBin
  extract_lets line s1 old part
  have hs1 : s1.Ok := (memStep_evictSector _ _ _).ok ((memStep_evictSector _ _ _).ok h)
  split
  · dsimp only
    exact carryPending_ok ((memStep_homeWrite _ _ _ _ _ _).ok hs1)
  · dsimp only
    exact carryPending_ok ((memStep_homeWrite _ _ _ _ _ _).ok hs1)

theorem State.beginToken_ok {s : State} {id g tok tsize keys : Nat} {bin : List (Nat × Nat × Nat)} {ft fk : Frames} {t : Nat} (h : s.Ok) :
    (s.beginToken id g tok tsize keys bin ft fk t).Ok := by
  unfold State.beginToken
  split
  · rename_i e
    exact snoopHost_ok e h
  · extract_lets k tm drop
    have hk : k.1.Ok := engRead_ok h
    split
    · exact beginWork_ok hk
    · split
      · exact beginWork_ok ((memStep_countDrop _).ok hk)
      · split
        · rename_i e1
          exact snoopHost_ok e1 hk
        · split
          · rename_i e2
            exact beginWork_ok (ok_fst e2 (bumpBin_ok hk))
          · rename_i e2
            exact beginWork_ok (ok_fst e2 (bumpBin_ok hk))

theorem State.beginPart_ok {s : State} {id : Nat} {c : Cmd} {row : Nat} (h : s.Ok) : (s.beginPart id c row).Ok := by
  unfold State.beginPart
  split
  · exact h
  · split
    · exact beginWork_ok h
    · exact beginRow_ok h
    · split
      · exact beginToken_ok h
      · exact h
    · exact h

theorem State.copyWord_ok {s : State} {id row word : Nat} (h : s.Ok) : (s.copyWord id row word).Ok := by
  unfold State.copyWord
  split
  · exact h
  · split
    · exact h
    · extract_lets k
      split
      · exact beginPart_ok h
      · exact h
      · extract_lets src dst
        split
        · exact h
        · split
          · rename_i e
            exact snoopHost_ok e h
          · exact modCmd_ok (engWrite_ok (engRead_ok h))

theorem State.finishCopy_ok {s : State} {id : Nat} (h : s.Ok) : (s.finishCopy id).Ok := by
  unfold State.finishCopy
  split
  · split
    · exact tryRetireGroup_ok (completeCmd_ok h)
    · exact h
  · exact h

theorem State.copyRest_ok {s : State} {id : Nat} (h : s.Ok) : (s.copyRest id).Ok := by
  unfold State.copyRest
  split
  · exact h
  · exact finishCopy_ok (ok_foldl (fun t x ht => ok_foldl (fun _ _ ht => copyWord_ok ht) ht _) h _)

theorem State.startCpy_ok {s : State} {team : Nat} (h : s.Ok) : (s.startCpy team).Ok := by
  unfold State.startCpy
  extract_lets k s1
  refine ok_foldl (fun t x ht => ?_) (setTeam_ok h) _
  split
  · exact finishCopy_ok ht
  · exact ht

theorem execCpyCollectiveStart_ok {team : Nat} {s : State} (h : s.Ok) : Out.Ok (execCpyCollectiveStart team s) := by
  unfold execCpyCollectiveStart
  split
  · exact event_ok h
  · extract_lets rest s1
    have hs1 : s1.Ok := State.ok_foldl (fun _ _ ht => State.copyRest_ok ht) h _
    refine event_ok ?_
    split
    · exact State.ok_foldl (fun _ _ ht => State.copyRest_ok ht) (State.startCpy_ok hs1) _
    · exact hs1

theorem State.stepCopy_ok {s : State} {id row word : Nat} (h : s.Ok) : (s.stepCopy id row word).Ok := by
  unfold State.stepCopy
  split
  · exact h
  · extract_lets next s1
    have hs1 : s1.Ok := by
      dsimp only [s1]
      split
      · exact startCpy_ok h
      · exact h
    split
    · exact finishCopy_ok (copyWord_ok hs1)
    · exact hs1

theorem execGatherRun_ok {cmd : Nat} {s : State} (h : s.Ok) : Out.Ok (execGatherRun cmd s) := by
  unfold execGatherRun
  split
  · exact event_ok h
  · split
    · refine event_ok ?_
      split
      · exact State.copyRest_ok h
      · exact h
    · exact event_ok h

theorem execBinscatRun_ok {cmd : Nat} {s : State} (h : s.Ok) : Out.Ok (execBinscatRun cmd s) := by
  unfold execBinscatRun
  split
  · exact event_ok h
  · split
    · refine event_ok ?_
      split
      · exact State.copyRest_ok h
      · exact h
    · exact event_ok h

theorem State.issueMatrix_ok {s : State} {g : Nat} {k : CmdKind} (h : s.Ok) : (s.issueMatrix g k).Ok := by
  unfold State.issueMatrix
  extract_lets r
  have hr : r.1.Ok := issueCmd_ok h
  exact setGroup_ok hr

theorem State.issueMwld_ok {s : State} {g : Nat} {th : ThreadId} {d a : BitVec 6} {slot : Nat} {sf : Bool} {f : Nat} (h : s.Ok) :
    (s.issueMwld g th d a slot sf f).Ok := by
  unfold State.issueMwld
  extract_lets x s1
  have hs1 : s1.Ok := issueMatrix_ok h
  exact setGroup_ok hs1

theorem execMwld_ok {t : Bool} {d a : BitVec 6} {l : BitVec 2} {sf : Bool} {f : BitVec 4} {s : State} (h : s.Ok) :
    Out.Ok (execMwld t d a l sf f s) := by
  unfold execMwld
  refine issue_ok h fun th u hu => ?_
  split
  · split
    · exact hu
    · split
      · trivial
      · exact State.issueMwld_ok hu
  · exact hu

theorem execMma_ok {t : Bool} {d a r : BitVec 6} {z sf : Bool} {f : BitVec 4} {s : State} (h : s.Ok) :
    Out.Ok (execMma t d a r z sf f s) := by
  unfold execMma
  refine issue_ok h fun th u hu => ?_
  split
  · extract_lets off stride soff
    split
    · exact hu
    · split
      · trivial
      · exact State.issueMatrix_ok hu
  · exact hu

theorem State.queueMatrix_ok {s : State} {th : ThreadId} {cause : Nat} {tiles : List Nat} {rs : List Range} {k : CmdKind} (h : s.Ok) :
    (s.queueMatrix th cause tiles rs k).Ok := by
  unfold State.queueMatrix
  split
  · split
    · exact h
    · split
      · trivial
      · exact issueMatrix_ok h
  · exact h

theorem execMaccZero_ok {t : Bool} {d : BitVec 6} {s : State} (h : s.Ok) : Out.Ok (execMaccZero t d s) :=
  issue_ok h fun _ _ hu => State.queueMatrix_ok hu

theorem execMaccLoad_ok {t : Bool} {d a : BitVec 6} {s : State} (h : s.Ok) : Out.Ok (execMaccLoad t d a s) := by
  unfold execMaccLoad
  refine issue_ok h fun th u hu => ?_
  extract_lets off
  exact State.queueMatrix_ok hu

theorem execMaccStore_ok {t : Bool} {d a : BitVec 6} {c : BitVec 3} {s : State} (h : s.Ok) :
    Out.Ok (execMaccStore t d a c s) := by
  unfold execMaccStore
  refine issue_ok h fun th u hu => ?_
  extract_lets off
  exact State.queueMatrix_ok hu

theorem execMaccAdd_ok {t : Bool} {d b : BitVec 6} {s : State} (h : s.Ok) : Out.Ok (execMaccAdd t d b s) :=
  issue_ok h fun _ _ hu => State.queueMatrix_ok hu

theorem execMaccScale_ok {t : Bool} {d a : BitVec 6} {s : State} (h : s.Ok) : Out.Ok (execMaccScale t d a s) :=
  issue_ok h fun _ _ hu => State.queueMatrix_ok hu

theorem execMaccRow_ok {t : Bool} {d a : BitVec 6} {s : State} (h : s.Ok) : Out.Ok (execMaccRow t d a s) := by
  unfold execMaccRow
  refine issue_ok h fun th u hu => ?_
  split
  · extract_lets v row x cause
    split
    · exact hu
    · split
      · trivial
      · split
        · exact hu
        · exact State.setGroup_ok (State.issueMatrix_ok hu)
  · exact hu

theorem execMaccClear_ok {t : Bool} {s : State} (h : s.Ok) : Out.Ok (execMaccClear t s) :=
  issue_ok h fun _ _ hu => State.queueMatrix_ok hu

theorem execCbload_ok {t : Bool} {d a : BitVec 6} {s : State} (h : s.Ok) : Out.Ok (execCbload t d a s) := by
  unfold execCbload
  refine issue_ok h fun th u hu => ?_
  extract_lets off cause
  exact State.queueMatrix_ok hu

theorem execMopfence_ok {t : Bool} {s : State} (h : s.Ok) : Out.Ok (execMopfence t s) := by
  unfold execMopfence
  refine issue_ok h fun th u hu => ?_
  split
  · extract_lets x
    split
    · exact hu
    · exact State.setTeam_ok (State.setGroup_ok hu)
  · exact hu

theorem State.endMatrix_ok {s : State} {g id : Nat} (h : s.Ok) : (s.endMatrix g id).Ok :=
  completeCmd_ok (setGroup_ok h)

theorem State.setTile_ok {s : State} {team m : Nat} {x : Tile} (h : s.Ok) : (s.setTile team m x).Ok :=
  setTeam_ok h

theorem State.tileError_ok {s : State} {g id : Nat} {c : Cmd} {cause m opc : Nat} (h : s.Ok) :
    (s.tileError g id c cause m opc).Ok := by
  unfold State.tileError
  extract_lets s1
  have hs1 : s1.Ok := setGroup_ok h
  exact endMatrix_ok (setTile_ok hs1)

theorem State.passDraws_ok {s : State} (h : s.Ok) : s.passDraws.Ok :=
  ok_of_eq h rfl rfl

theorem State.loadError_ok {s : State} {p : Nat × Nat × Cmd} {cause : Nat} (h : s.Ok) : (s.loadError p cause).Ok := by
  unfold State.loadError
  extract_lets x d
  refine endMatrix_ok ?_
  split
  · exact h
  · exact setGroup_ok h

theorem State.loadOk_ok {s : State} {w : WeightSet} {p : Nat × Nat × Cmd} (h : s.Ok) : (s.loadOk w p).Ok := by
  unfold State.loadOk
  extract_lets x s1
  have hs1 : s1.Ok := setGroup_ok h
  exact endMatrix_ok (modCmd_ok hs1)

theorem State.weightLoad_ok {s : State} {team q : Nat} (h : s.Ok) : (s.weightLoad team q).Ok := by
  unfold State.weightLoad
  generalize s.loadParts team q = parts
  dsimp only
  split
  · exact ok_foldl (fun _ _ ht => loadError_ok ht) h _
  · split
    · exact h
    · split
      · exact ok_foldl (fun _ _ ht => loadError_ok ht) h _
      · split
        · exact passDraws_ok (ok_foldl (fun _ _ ht => loadOk_ok ht) h _)
        · exact h

theorem execWeightLoad_ok {team quad : Nat} {s : State} (h : s.Ok) : Out.Ok (execWeightLoad team quad s) := by
  unfold execWeightLoad
  extract_lets s1
  have hs1 : s1.Ok := by
    dsimp only [s1]
    split
    · exact h
    · exact State.weightLoad_ok h
  exact event_ok (State.ok_foldl (fun _ _ ht => State.tryRetireGroup_ok ht) hs1 _)

theorem State.runMma_ok {s : State} {g id : Nat} {c : Cmd} {m rows : Nat} {z sf : Bool} {f off stride soff : Nat} (h : s.Ok) :
    (s.runMma g id c m rows z sf f off stride soff).Ok := by
  unfold State.runMma
  dsimp only
  split
  · exact tileError_ok h
  · split
    · exact tileError_ok h
    · split
      · exact passDraws_ok (tileError_ok h)
      · refine passDraws_ok (endMatrix_ok (modCmd_ok ?_))
        split
        · exact setGroup_ok (setTile_ok h)
        · exact setTile_ok h

theorem execMmaTurn_ok {group : Nat} {s : State} (h : s.Ok) : Out.Ok (execMmaTurn group s) := by
  unfold execMmaTurn
  split
  · exact event_ok h
  · split
    · split
      · exact event_ok h
      · refine event_ok (State.tryRetireGroup_ok ?_)
        split
        · exact State.endMatrix_ok h
        · exact State.runMma_ok h
    · exact event_ok h

theorem State.writeTile_ok {s : State} {team : Nat} {x : Tile} {c off : Nat} (h : s.Ok) : (s.writeTile team x c off).Ok := by
  unfold State.writeTile
  extract_lets n s1
  have hs1 : s1.Ok := ok_foldl (fun _ _ ht => poolWrite_ok ht) h _
  exact ok_foldl (fun _ _ ht => setPoolBad_ok ht) (forgetNotes_ok hs1) _

theorem State.fillRow_ok {s : State} {g x : Nat} {value : Option (Tile × Nat)} (h : s.Ok) : (s.fillRow g x value).Ok := by
  unfold State.fillRow
  extract_lets y z
  exact setGroup_ok h

theorem State.runMacc_ok {s : State} {g : Nat} {c : Cmd} (h : s.Ok) : (s.runMacc g c).1.Ok := by
  unfold State.runMacc
  split
  · dsimp only
    exact setTile_ok h
  · extract_lets x
    dsimp only
    exact passDraws_ok (setTile_ok h)
  · dsimp only
    exact writeTile_ok h
  · extract_lets x y z
    dsimp only
    exact setTile_ok h
  · extract_lets x
    dsimp only
    exact setTile_ok h
  · dsimp only
    exact fillRow_ok h
  · dsimp only
    exact setGroup_ok h
  · dsimp only
    exact h

theorem State.freeRow_ok {s : State} {g : Nat} {k : CmdKind} (h : s.Ok) : (s.freeRow g k).Ok := by
  unfold State.freeRow
  split
  · exact fillRow_ok h
  · exact h

theorem State.maccTurn_ok {s : State} {g id : Nat} {c : Cmd} (h : s.Ok) : (s.maccTurn g id c).Ok := by
  unfold State.maccTurn
  extract_lets t
  split
  · exact endMatrix_ok (freeRow_ok h)
  · split
    · exact tileError_ok (freeRow_ok h)
    · exact endMatrix_ok (modCmd_ok (runMacc_ok h))

theorem execMaccTurn_ok {group : Nat} {s : State} (h : s.Ok) : Out.Ok (execMaccTurn group s) := by
  unfold execMaccTurn
  split
  · exact event_ok h
  · split
    · exact event_ok (State.tryRetireGroup_ok (State.maccTurn_ok h))
    · exact event_ok h

theorem State.loadBook_ok {s : State} {g team slot off : Nat} (h : s.Ok) : (s.loadBook g team slot off).1.Ok := by
  unfold State.loadBook
  extract_lets book bad x
  dsimp only
  exact passDraws_ok (setTeam_ok h)

theorem execCbloadTurn_ok {group : Nat} {s : State} (h : s.Ok) : Out.Ok (execCbloadTurn group s) := by
  unfold execCbloadTurn
  split
  · exact event_ok h
  · split
    · split
      · exact event_ok h
      · split
        · exact event_ok (State.tryRetireGroup_ok (State.endMatrix_ok h))
        · split
          · exact event_ok h
          · extract_lets r
            have hr : r.1.Ok := State.loadBook_ok h
            exact event_ok (State.tryRetireGroup_ok (State.endMatrix_ok (State.modCmd_ok hr)))
    · exact event_ok h

theorem State.allocTag_ok {s : State} {part owner : Nat} (h : s.Ok) : (s.allocTag part owner).1.Ok := by
  unfold State.allocTag
  split
  · dsimp only
    exact h
  · extract_lets k gen
    dsimp only
    exact modPart_ok ((memStep_draw _).ok h)

theorem execLtagAlloc_ok {t : Bool} {d : BitVec 6} {s : State} (h : s.Ok) : Out.Ok (execLtagAlloc t d s) := by
  unfold execLtagAlloc
  refine issue_ok h fun th u hu => ?_
  extract_lets r
  have hr : r.1.Ok := State.allocTag_ok hu
  split
  · exact State.pushResult_ok hr
  · exact State.putW_ok hr

theorem State.freeTag_ok {s : State} {part index : Nat} (h : s.Ok) : (s.freeTag part index).Ok :=
  modPart_ok h

theorem execLtagFree_ok {t : Bool} {a : BitVec 6} {s : State} (h : s.Ok) : Out.Ok (execLtagFree t a s) := by
  unfold execLtagFree
  refine issue_ok h fun th u hu => ?_
  extract_lets v x
  split
  · trivial
  · exact State.freeTag_ok hu

theorem State.meetCheck_ok {s : State} {g : Nat} {th : ThreadId} {m : Nat} {tag dest done parties : W64} {cvt : Bool} {cls : BitVec 2} (h : s.Ok) :
    (s.meetCheck g th m tag dest done parties cvt cls).Ok := by
  unfold State.meetCheck
  extract_lets rs c
  split
  · trivial
  · split
    · trivial
    · split
      · trivial
      · split
        · trivial
        · split
          · trivial
          · rename_i e
            split
            · trivial
            · split
              · trivial
              · exact pinnedOr_ok h (ok_fst e (pinRanges_ok h))

theorem execMeet_ok {t : Bool} {d a b : BitVec 6} {c : BitVec 2} {v : Bool} {o : BitVec 2} {s : State} (h : s.Ok) :
    Out.Ok (execMeet t d a b c v o s) := by
  unfold execMeet
  refine issue_ok h fun th u hu => ?_
  split
  · extract_lets r
    split
    · exact hu
    · split
      · rename_i e
        exact Pinned.stop_of e (State.meetCheck_ok hu)
      · rename_i e
        extract_lets fr
        exact State.emptyW_ok (State.issueMatrix_ok (Pinned.ok_of e (State.meetCheck_ok hu)))
  · exact hu

theorem State.fillMeet_ok {s : State} {g b : Nat} {v : W64} (h : s.Ok) : (s.fillMeet g b v).Ok := by
  unfold State.fillMeet
  split
  · exact h
  · exact fillW_ok h

theorem State.sendTile_ok {s : State} {g id : Nat} {c : Cmd} (h : s.Ok) : (s.sendTile g id c).Ok := by
  unfold State.sendTile
  split
  · extract_lets tm x r a
    have hr : r.1.Ok := (memStep_releaseDevice _ _).ok h
    exact modPart_ok (modCmd_ok hr)
  · exact h

theorem State.meetTurn_ok {s : State} {g id : Nat} {c : Cmd} (h : s.Ok) : (s.meetTurn g id c).Ok := by
  unfold State.meetTurn
  split
  · split
    · exact h
    · split
      · exact endMatrix_ok (fillMeet_ok h)
      · split
        · exact h
        · split
          · exact tileError_ok (fillMeet_ok h)
          · refine ok_getD (fun t e => ?_) (sendTile_ok h)
            exact releaseWait_ok e h
  · exact h

theorem execMeetTurn_ok {group : Nat} {s : State} (h : s.Ok) : Out.Ok (execMeetTurn group s) := by
  unfold execMeetTurn
  split
  · exact event_ok h
  · refine event_ok ?_
    split
    · exact h
    · exact State.tryRetireGroup_ok (State.meetTurn_ok h)

theorem State.landWrite_ok {s : State} {part tag pa n v : Nat} {bad : Bool} (h : s.Ok) :
    (s.landWrite part tag pa n v bad).Ok := by
  unfold State.landWrite
  split
  · extract_lets s1
    have hs1 : s1.Ok := (memStep_homeWrite _ _ _ _ _ _).ok h
    split
    · exact (memStep_setBad _ _ _).ok hs1
    · exact hs1
  · exact (memStep_countDrop _).ok h

theorem State.forward_ok {s : State} {part index : Nat} {e : Landing} {complete : Bool} (h : s.Ok) :
    (s.forward part index e complete).Ok := by
  unfold State.forward
  extract_lets n val at_ tag s1 sig pa s2
  have hs1 : s1.Ok := ok_foldl (fun _ _ ht => landWrite_ok ht) h _
  have hs2 : s2.Ok := by
    dsimp only [s2]
    split
    · exact (memStep_joinSig _ _ _).ok ((memStep_requestAt _ _ _ _ _).ok ((memStep_homeAtomic _ _ _ _ _ _ _ _).ok hs1))
    · exact (memStep_countDrop _).ok hs1
  exact modPart_ok hs2

theorem State.arrive_ok {s : State} {part : Nat} {x : Arrival} (h : s.Ok) : (s.arrive part x).1.Ok := by
  unfold State.arrive
  extract_lets i p keep
  split
  · dsimp only
    exact h
  · split
    · dsimp only
      exact h
    · split
      · split
        · dsimp only
          exact h
        · dsimp only [keep]
          split
          · exact forward_ok (modPart_ok h)
          · exact modPart_ok h
      · split
        · dsimp only [keep]
          split
          · exact forward_ok (modPart_ok h)
          · exact modPart_ok h
        · dsimp only
          exact h

theorem execLandingArrival_ok {part index : Nat} {s : State} (h : s.Ok) : Out.Ok (execLandingArrival part index s) := by
  unfold execLandingArrival
  extract_lets p
  split
  · exact event_ok h
  · split
    · exact event_ok h
    · extract_lets s0 r last s1
      have hs0 : s0.Ok := (State.memStep_post _ _ _ _ _ _ _).ok h
      have hr : r.1.Ok := State.arrive_ok (State.modPart_ok hs0)
      have hs1 : s1.Ok := State.fillMeet_ok hr
      exact event_ok (State.tryRetireGroup_ok (State.endMatrix_ok hs1))

theorem execLandingTimeout_ok {part index : Nat} {s : State} (h : s.Ok) : Out.Ok (execLandingTimeout part index s) := by
  unfold execLandingTimeout
  split
  · exact event_ok h
  · refine event_ok ?_
    split
    · exact State.forward_ok h
    · exact h

theorem State.freezeLandings_ok {s : State} {part ctx : Nat} (h : s.Ok) : (s.freezeLandings part ctx).Ok :=
  modPart_ok h

theorem State.resumeLandings_ok {s : State} {part ctx : Nat} (h : s.Ok) : (s.resumeLandings part ctx).Ok :=
  modPart_ok h

end Sys2Proof.Machine
end

section
/-! PROOFS. That memory stays in canonical form: placement and streams. -/

namespace Sys2Proof.Machine

theorem State.seatGroups_ok {s : State} {cluster core s0 : Nat} {mk : Nat → Nat → Nat → Group} {team : Nat} {l : List Nat} (h : s.Ok) :
    (s.seatGroups cluster core s0 mk team l).Ok := by
  induction l generalizing s with
  | nil => exact h
  | cons n l ih => exact ih (setGroup_ok h)

theorem State.setWakes_ok {s : State} {g : Grid} (h : s.Ok) : (s.setWakes g).Ok := by
  unfold State.setWakes
  split
  · exact modCtx_ok h
  · exact h

theorem State.haltAtPlacement_ok {s : State} {team : Nat} {g : Grid} {num : Nat} (h : s.Ok) :
    (s.haltAtPlacement team g num).Ok := by
  unfold State.haltAtPlacement
  split
  · exact ok_foldl (fun _ _ ht => stopGroup_ok ht) h _
  · exact h

theorem State.placeTeam_ok {s : State} {k : Nat} {x : Spot} {windows : List (Option Nat)} (h : s.Ok) :
    (s.placeTeam k x windows).Ok := by
  unfold State.placeTeam
  extract_lets g info team s0 base tm s1 mk s2 fresh s3 g1
  have hs1 : s1.Ok := setTeam_ok (ok_of_eq h rfl rfl)
  have hs2 : s2.Ok := seatGroups_ok hs1
  have hs3 : s3.Ok := by
    dsimp only [s3]
    split
    · exact ok_of_eq hs2 rfl rfl
    · exact hs2
  exact haltAtPlacement_ok ((memStep_foldSig _ _ _).ok (setWakes_ok (setGrid_ok hs3)))

theorem State.placeSome_ok {s : State} {k : Nat} {above : List (Nat × Grid)} {fuel : Nat} (h : s.Ok) :
    (s.placeSome k above fuel).1.Ok := by
  induction fuel generalizing s with
  | zero => exact h
  | succ n ih =>
    unfold State.placeSome
    dsimp only
    split
    · exact h
    · split
      · exact ih (placeTeam_ok h)
      · exact h

theorem State.placeGrid_ok {s : State} {k : Nat} {above : List (Nat × Grid)} (h : s.Ok) : (s.placeGrid k above).1.Ok := by
  unfold State.placeGrid
  extract_lets g r
  have hr : r.1.Ok := placeSome_ok h
  split
  · split
    · dsimp only
      exact fillStatus_ok hr
    · dsimp only
      exact h
  · exact hr

theorem State.placePrio_ok {s : State} {above : List (Nat × Grid)} {l : List Nat} (h : s.Ok) : (s.placePrio above l).1.Ok := by
  induction l generalizing s with
  | nil => exact h
  | cons k l ih =>
    unfold State.placePrio
    split
    · rename_i e
      exact ih (ok_fst e (placeGrid_ok h))
    · rename_i e
      exact ok_fst e (placeGrid_ok h)

theorem State.placeAll_ok {s : State} {part : Nat} {above : List (Nat × Grid)} {l : List Nat} (h : s.Ok) :
    (s.placeAll part above l).Ok := by
  induction l generalizing s above with
  | nil => exact h
  | cons p l ih =>
    unfold State.placeAll
    split
    · rename_i e
      exact ih (ok_fst e (placePrio_ok h))
    · rename_i e
      have h1 := ok_fst e (placePrio_ok h)
      split
      · exact h1
      · exact ih h1

theorem State.returnTeam_ok {s : State} {team : Nat} {y : Spot} (h : s.Ok) : (s.returnTeam team y).Ok := by
  unfold State.returnTeam
  extract_lets x g keys nums s0 base s1 s2
  have hs1 : s1.Ok := setTeam_ok (ok_of_eq h rfl rfl)
  have hs2 : s2.Ok := by
    dsimp only [s2]
    refine ok_foldl (fun t x ht => ?_) hs1 _
    extract_lets
    split
    · exact setGroup_ok ht
    · exact setGroup_ok ht
  exact (memStep_setAcc _ _ _).ok hs2

theorem State.moveSpine_ok {s : State} {part ctx old new : Nat} (h : s.Ok) : (s.moveSpine part ctx old new).Ok := by
  unfold State.moveSpine
  split
  · exact h
  · extract_lets mvn
    exact renameThread_ok (ok_of_eq h rfl rfl)

/-- A fold that may fail leaves memory in canonical form where it comes to a state. -/
theorem State.ok_of_foldl_some {α : Type} {f : Option State → α → Option State}
    (hf : ∀ o x, (∀ t, o = some t → t.Ok) → ∀ u, f o x = some u → u.Ok) {o : Option State} (h : ∀ t, o = some t → t.Ok) {l : List α}
    {u : State} (e : l.foldl f o = some u) : u.Ok := by
  induction l generalizing o with
  | nil => exact h u e
  | cons x l ih => exact ih (hf o x h) e

theorem State.returnShare_ok {s : State} {part ctx share : Nat} (h : s.Ok) : (s.returnShare part ctx share).Ok := by
  unfold State.returnShare
  extract_lets teams info spine vdie p room
  clear_value vdie spine
  have hroom : ∀ cl t, room cl = some t → t.Ok := fun cl t e => by
    dsimp only [room] at e
    split at e
    · cases e
    · refine ok_of_foldl_some ?_ ?_ e
      · intro o x ho u e
        split at e
        · cases e
        · split at e
          · cases e
            exact returnTeam_ok (ho _ rfl)
          · cases e
      · intro t e
        cases e
        refine (memStep_setAcc _ _ _).ok ?_
        split
        · exact setScalar_ok (moveSpine_ok h)
        · exact h
  split
  · exact h
  · split
    · rename_i e
      obtain ⟨cl, -, e⟩ := List.exists_of_findSome?_eq_some e
      exact hroom cl _ e
    · exact h

theorem State.returnAll_ok {s : State} {part ctx : Nat} (h : s.Ok) : (s.returnAll part ctx).Ok :=
  ok_foldl (fun _ _ ht => returnShare_ok ht) h _

theorem State.placementStep_ok {s : State} {part : Nat} (h : s.Ok) : (s.placementStep part).Ok := by
  unfold State.placementStep
  extract_lets cs s1
  have hs1 : s1.Ok := ok_foldl (fun _ _ ht => returnAll_ok ht) h _
  split
  · exact hs1
  · split
    · exact hs1
    · exact placeAll_ok hs1

theorem State.setStream_ok {s : State} {team slot : Nat} {x : Stream} (h : s.Ok) : (s.setStream team slot x).Ok :=
  ok_of_eq h rfl rfl

theorem State.acceptStrm_ok {s : State} {g : Nat} {th : ThreadId} {h : W64} {d : Nat} {k : CmdKind} (hs : s.Ok) :
    (s.acceptStrm g th h d k).Ok := by
  unfold State.acceptStrm
  extract_lets team r s1
  have hr : r.1.Ok := issueCmd_ok hs
  have hs1 : s1.Ok := by
    dsimp only [s1]
    split
    · exact setStream_ok hr
    · exact hr
  exact emptyW_ok hs1

theorem State.strmWord_ok {s : State} {th : ThreadId} {a : W64} {d : Nat} {check : Nat → Pinned} {k : List Frames → CmdKind} (h : s.Ok)
    (hc : ∀ g, (check g).Ok) : (s.strmWord th a d check k).Ok := by
  unfold State.strmWord
  split
  next g _ =>
    split
    · exact h
    · split
      · trivial
      · split
        · trivial
        · split
          · rename_i e
            exact Pinned.stop_of e (hc g)
          · rename_i e
            have h1 := Pinned.ok_of e (hc g)
            split
            · exact h
            · exact acceptStrm_ok h1
  · exact h

theorem State.holdTiles_ok {s : State} {team : Nat} {ms : List Nat} (h : s.Ok) : (s.holdTiles team ms).Ok :=
  setTeam_ok h

theorem State.freeTiles_ok {s : State} {team : Nat} {ms : List Nat} (h : s.Ok) : (s.freeTiles team ms).Ok :=
  setTeam_ok h

theorem execStrmOpen_ok {t : Bool} {d a : BitVec 6} {s : State} (h : s.Ok) : Out.Ok (execStrmOpen t d a s) := by
  unfold execStrmOpen
  refine issue_ok h fun th u hu => ?_
  split
  · extract_lets x c
    split
    · exact hu
    · split
      · trivial
      · split
        · trivial
        · exact State.emptyW_ok (State.holdTiles_ok (State.issueCmd_ok hu))
  · exact hu

theorem State.checkSteps_ok {s : State} {th : ThreadId} {g : Nat} {h off stride out ostride : W64} {steps : Nat} (hs : s.Ok) :
    (s.checkSteps th g h off stride out ostride steps).Ok := by
  unfold State.checkSteps
  split
  · exact hs
  · split
    · trivial
    · split
      · trivial
      · exact hs

theorem execStrmStep_ok {t : Bool} {d a : BitVec 6} {s : State} (h : s.Ok) : Out.Ok (execStrmStep t d a s) :=
  issue_ok h fun _ _ hu => State.strmWord_ok hu fun _ => State.checkSteps_ok hu

theorem execStrmScan_ok {t : Bool} {d a : BitVec 6} {s : State} (h : s.Ok) : Out.Ok (execStrmScan t d a s) := by
  unfold execStrmScan
  refine issue_ok h fun th u hu => State.strmWord_ok hu fun g => ?_
  dsimp only
  split
  · trivial
  · exact State.checkSteps_ok hu

theorem State.checkRecord_ok {s : State} {th : ThreadId} {addr : W64} {k : AccKind} {c : Pinned} (e : s.checkRecord th addr k = c)
    (h : s.Ok) : c.Ok := by
  subst e
  unfold State.checkRecord
  generalize ([⟨false, addr, 16448, 64, k⟩] : List Range) = rs
  dsimp only
  cases rs.findSome? (s.rangeTrap th) with
  | some tr => trivial
  | none =>
    have hp : (s.pinRanges th rs).1.Ok := pinRanges_ok h
    revert hp
    generalize s.pinRanges th rs = p
    intro hp
    obtain ⟨s1, e⟩ := p
    cases e with
    | error e => trivial
    | ok fs =>
      dsimp only
      split
      · trivial
      · split
        · trivial
        · exact pinnedOr_ok h hp

theorem execStrmSave_ok {t : Bool} {d a : BitVec 6} {h : Bool} {s : State} (hs : s.Ok) : Out.Ok (execStrmSave t d a h s) := by
  unfold execStrmSave
  refine issue_ok hs fun th u hu => State.strmWord_ok hu fun _ => ?_
  generalize e : u.checkRecord th (u.getW th (a.toNat + 1)) .copyWrite = c
  exact State.checkRecord_ok e hu

theorem execStrmLoad_ok {t : Bool} {d a : BitVec 6} {s : State} (h : s.Ok) : Out.Ok (execStrmLoad t d a s) := by
  unfold execStrmLoad
  refine issue_ok h fun th u hu => State.strmWord_ok hu fun _ => ?_
  generalize e : u.checkRecord th (u.getW th (a.toNat + 1)) .copyRead = c
  exact State.checkRecord_ok e hu

theorem State.startClose_ok {s : State} {team slot : Nat} (h : s.Ok) : (s.startClose team slot).Ok := by
  unfold State.startClose
  split
  · exact h
  · exact freeTiles_ok (setStream_ok h)

theorem execStrmClose_ok {t : Bool} {d a : BitVec 6} {s : State} (h : s.Ok) : Out.Ok (execStrmClose t d a s) := by
  unfold execStrmClose
  refine issue_ok h fun th u hu => ?_
  dsimp only
  generalize (match th with
    | .gang g _ => (u.group g).team
    | _ => 0) = team
  have hw := State.strmWord_ok (th := th) (a := u.getW th a.toNat) (d := d.toNat) (check := fun _ => .ok u [])
    (k := fun _ => .strmClose (handleSlot (u.getW th a.toNat)) (handleGen (u.getW th a.toNat)) d.toNat) hu fun _ => hu
  split
  · rename_i e
    exact State.startClose_ok (Did.ok_of_done e hw)
  · exact hw

theorem execStrmQuery_ok {t : Bool} {d a : BitVec 6} {q : Bool} {s : State} (h : s.Ok) : Out.Ok (execStrmQuery t d a q s) :=
  issue_ok h fun _ _ hu => State.strmWord_ok hu fun _ => hu

theorem State.putCells_ok {s : State} {x : Stream} {bad : Bool} {cs : List Cell} (h : s.Ok) : (s.putCells x bad cs).Ok := by
  unfold State.putCells
  extract_lets s1
  have hs1 : s1.Ok := setTile_ok h
  split
  · exact setTile_ok hs1
  · exact hs1

theorem State.writeY_ok {s : State} {g off : Nat} {bad : Bool} {y : List W32} (h : s.Ok) : (s.writeY g off bad y).Ok := by
  unfold State.writeY
  extract_lets team
  refine forgetNotes_ok (ok_foldl (fun t x ht => ?_) h _)
  extract_lets o u
  have hu : u.Ok := poolWrite_ok ht
  split
  · exact setPoolBad_ok hu
  · exact hu

theorem State.endStrm_ok {s : State} {id : Nat} {c : Cmd} {d : Nat} {v : W64} (h : s.Ok) : (s.endStrm id c d v).Ok := by
  unfold State.endStrm
  extract_lets s1
  have hs1 : s1.Ok := by
    dsimp only [s1]
    split
    · exact h
    · exact fillW_ok h
  exact completeCmd_ok hs1

theorem State.dequeue_ok {s : State} {team slot id : Nat} (h : s.Ok) : (s.dequeue team slot id).Ok :=
  ok_of_eq h rfl rfl

theorem State.failOpen_ok {s : State} {id : Nat} {c : Cmd} {code d : Nat} {tiles : List Nat} (h : s.Ok) :
    (s.failOpen id c code d tiles).Ok := by
  unfold State.failOpen
  extract_lets v
  exact endStrm_ok (freeTiles_ok ((memStep_draw _).ok h))

theorem State.runOpen_ok {s : State} {id : Nat} {c : Cmd} {tile : Nat} {outer comp zero : Bool} {n d : Nat} (h : s.Ok) :
    (s.runOpen id c tile outer comp zero n d).Ok := by
  unfold State.runOpen
  extract_lets tiles
  split
  · exact failOpen_ok h
  · split
    · exact failOpen_ok h
    · extract_lets s1 s2 s3
      have hs1 : s1.Ok := setStream_ok ((memStep_draw _).ok h)
      have hs2 : s2.Ok := by
        dsimp only [s2]
        split
        · exact putCells_ok hs1
        · exact hs1
      have hs3 : s3.Ok := ok_foldl (fun _ _ ht => setTile_ok ht) hs2 _
      exact endStrm_ok hs3

theorem State.readWords_ok {s : State} {g : Nat} {fr : Frames} {a n : Nat} (h : s.Ok) : (s.readWords g fr a n).1.Ok := by
  induction n generalizing s a with
  | zero => exact h
  | succ n ih => exact ih (engRead_ok h)

theorem State.writeWords_ok {s : State} {g : Nat} {fr : Frames} {a : Nat} {bad : Bool} {ws : List Nat} (h : s.Ok) :
    (s.writeWords g fr a bad ws).Ok :=
  ok_foldl (fun _ _ ht => engWrite_ok ht) h _

theorem State.runChunk_ok {s : State} {id : Nat} {c : Cmd} {slot : Nat} {x : Stream} {array : Bool} {off stride steps : Nat} {out : Option Nat} {ostride d : Nat} (h : s.Ok) :
    (s.runChunk id c slot x array off stride steps out ostride d).Ok := by
  unfold State.runChunk
  extract_lets offs ops cs r bad y s1 s2
  have hs1 : s1.Ok := setStream_ok (putCells_ok (passDraws_ok h))
  have hs2 : s2.Ok := by
    dsimp only [s2]
    split
    · exact hs1
    · exact ok_foldl (fun _ _ ht => writeY_ok ht) hs1 _
  exact endStrm_ok (modCmd_ok hs2)

theorem State.runSave_ok {s : State} {id : Nat} {c : Cmd} {slot : Nat} {x : Stream} {hold : Bool} {addr : Nat} {fr : Frames} {d : Nat} (h : s.Ok) :
    (s.runSave id c slot x hold addr fr d).Ok := by
  unfold State.runSave
  extract_lets bad s1 y
  have hs1 : s1.Ok := writeWords_ok h
  exact endStrm_ok (modCmd_ok (setStream_ok hs1))

theorem State.runLoad_ok {s : State} {id : Nat} {c : Cmd} {slot : Nat} {x : Stream} {addr : Nat} {fr : Frames} {d : Nat} (h : s.Ok) :
    (s.runLoad id c slot x addr fr d).Ok := by
  unfold State.runLoad
  extract_lets r
  have hr : r.1.Ok := readWords_ok h
  split
  · exact endStrm_ok (modCmd_ok (setStream_ok (putCells_ok hr)))
  · exact endStrm_ok (modCmd_ok hr)

theorem State.runClose_ok {s : State} {id : Nat} {c : Cmd} {slot : Nat} {x : Stream} {d : Nat} (h : s.Ok) :
    (s.runClose id c slot x d).Ok := by
  unfold State.runClose
  extract_lets s1 s2 rest s3
  have hs1 : s1.Ok := endStrm_ok h
  have hs2 : s2.Ok := ok_of_eq hs1 rfl rfl
  have hs3 : s3.Ok := by
    dsimp only [s3]
    refine ok_foldl (fun t x ht => ?_) hs2 _
    split
    · exact endStrm_ok ht
    · exact ht
  refine ok_foldl (fun t x ht => ?_) hs3 _
  split
  · exact tryRetireGroup_ok ht
  · exact ht

theorem State.strmTurn_ok {s : State} {id : Nat} {c : Cmd} {slot : Nat} {x : Stream} (h : s.Ok) :
    (s.strmTurn id c slot x).Ok := by
  unfold State.strmTurn
  extract_lets s0 y stale
  have hs0 : s0.Ok := dequeue_ok h
  have hstale : stale.Ok := endStrm_ok hs0
  split
  · split
    · exact runChunk_ok hs0
    · exact hstale
  · split
    · exact runChunk_ok hs0
    · exact hstale
  · split
    · exact runSave_ok hs0
    · exact hstale
  · exact runLoad_ok hs0
  · exact runClose_ok hs0
  · exact endStrm_ok hs0
  · exact h

theorem State.recordWait_ok {s t : State} {id : Nat} {c : Cmd} (e : s.recordWait id c = some t) (h : s.Ok) : t.Ok := by
  have hw : (if s.olderPending c.group id then some s else s.snoopHost c.kind.recordLines) = some t → t.Ok := fun e => by
    split at e
    · cases e; exact h
    · exact snoopHost_ok e h
  unfold State.recordWait at e
  split at e
  · exact hw e
  · exact hw e
  · cases e

theorem execStrmTurn_ok {cmd : Nat} {s : State} (h : s.Ok) : Out.Ok (execStrmTurn cmd s) := by
  unfold execStrmTurn
  split
  · exact event_ok h
  · split
    · exact event_ok h
    · split
      · split
        · exact event_ok (State.tryRetireGroup_ok (State.runOpen_ok h))
        · exact event_ok h
      · split
        · exact event_ok h
        · split
          · split
            · rename_i e
              exact event_ok (State.recordWait_ok e h)
            · exact event_ok (State.tryRetireGroup_ok (State.strmTurn_ok h))
          · exact event_ok h

end Sys2Proof.Machine
end

section
/-! PROOFS. That memory stays in canonical form: contexts, hails and power. -/

namespace Sys2Proof.Machine

theorem State.loadBulk_ok {s : State} {k : Nat} {ps : Pieces} (h : s.Ok) : (s.loadBulk k ps).Ok := by
  unfold State.loadBulk
  extract_lets x z a n f b tiles mark marks1 marks2 marks3 s1
  have hs1 : s1.Ok := setTeam_ok h
  refine ok_foldl_fst (fun p x hp => ?_) hs1 _
  split
  · dsimp only
    exact setGroup_ok hp
  · exact hp

theorem State.loadStrm_ok {s : State} {key : Nat} {x : Stream} {ps : Pieces} (h : s.Ok) : (s.loadStrm key x ps).Ok := by
  unfold State.loadStrm
  extract_lets words n ws
  split
  · exact ok_of_eq (putCells_ok h) rfl rfl
  · exact h

theorem State.placeSection_ok {s : State} {part ctx i : Nat} {a : Unit_} (h : s.Ok) : (s.placeSection part ctx i a).Ok := by
  unfold State.placeSection
  split
  · exact ok_of_eq h rfl rfl
  · exact ok_of_eq h rfl rfl
  · exact ok_of_eq h rfl rfl
  · exact ok_of_eq h rfl rfl
  · exact modCtx_ok h

theorem State.writeSection_ok {s : State} {part ctx : Nat} {acc : State × Nat} {u : Unit_} (h : acc.1.Ok) :
    (s.writeSection part ctx acc u).1.Ok :=
  writePiecesAt_ok (placeSection_ok h)

theorem State.writeSections_ok {s : State} {part ctx : Nat} (h : s.Ok) : (s.writeSections part ctx).Ok :=
  writePiecesAt_ok (ok_foldl_fst (fun _ _ hp => writeSection_ok hp) h _)

theorem State.loadUnit_ok {a s : State} {part ctx : Nat} {u : Unit_} (_ : a.Ok) (h1 : s.Ok) : (a.loadUnit s part ctx u).Ok := by
  unfold State.loadUnit
  extract_lets ps
  split
  · exact ok_of_eq h1 rfl rfl
  · extract_lets s1 s2
    have hs1 : s1.Ok := ok_of_eq h1 rfl rfl
    have hs2 : s2.Ok := ok_foldl (fun _ _ ht => setGroup_ok ht) hs1 _
    exact loadBulk_ok hs2
  · exact h1
  · split
    · exact loadStrm_ok h1
    · exact h1
  · exact modCtx_ok h1

theorem State.loadSections_ok {s : State} {part ctx : Nat} (h : s.Ok) : (s.loadSections part ctx).Ok :=
  ok_foldl (fun _ _ ht => loadUnit_ok h ht) h _

theorem State.landAll_ok {s : State} {part ctx : Nat} (h : s.Ok) : (s.landAll part ctx).Ok :=
  ok_foldl (fun _ _ ht => deliverPkt_ok ht) h _

theorem State.cleanClusters_ok {s : State} {part ctx : Nat} (h : s.Ok) : (s.cleanClusters part ctx).Ok := by
  unfold State.cleanClusters
  extract_lets p
  exact ok_foldl (fun _ _ ht => (memStep_flushStream _ _).ok ((memStep_evictAll _ _ _).ok ht)) h _

theorem State.liftSpine_ok {s : State} {part ctx c : Nat} (h : s.Ok) : (s.liftSpine part ctx c).Ok := by
  unfold State.liftSpine
  extract_lets x n m s1
  have hs1 : s1.Ok := ok_of_eq h rfl rfl
  exact moveSpine_ok (setScalar_ok hs1)

theorem State.liftTeam_ok {s : State} {k : Nat} (h : s.Ok) : (s.liftTeam k).Ok := by
  unfold State.liftTeam
  split
  · exact setTeam_ok (ok_of_eq h rfl rfl)
  · exact h

theorem State.liftUnits_ok {s : State} {part ctx : Nat} (h : s.Ok) : (s.liftUnits part ctx).Ok := by
  unfold State.liftUnits
  extract_lets s1 s2
  have hs1 : s1.Ok := ok_foldl (fun _ _ ht => setGroup_ok ht) h _
  have hs2 : s2.Ok := ok_foldl (fun _ _ ht => liftSpine_ok ht) hs1 _
  exact ok_foldl (fun _ _ ht => liftTeam_ok ht) hs2 _

theorem State.saveCtx_ok {s : State} {part ctx : Nat} (h : s.Ok) : (s.saveCtx part ctx).Ok := by
  unfold State.saveCtx
  extract_lets s1 s2 due again s3 s4
  have hs1 : s1.Ok := writeSections_ok (liftUnits_ok (freezeLandings_ok (landAll_ok h)))
  have hs2 : s2.1.Ok := (memStep_releasePart _ _).ok (cleanClusters_ok hs1)
  clear_value s2 due again
  have hs4 : s4.Ok := notify_ok (modCtx_ok hs2)
  clear_value s4
  split
  · exact notify_ok hs4
  · exact hs4

theorem State.beginSaves_ok {s : State} (h : s.Ok) : s.beginSaves.Ok := by
  unfold State.beginSaves
  extract_lets due
  split
  · exact ok_of_eq h rfl rfl
  · exact h

theorem State.trySave_ok {s : State} {part ctx : Nat} (h : s.Ok) : (s.trySave part ctx).Ok := by
  unfold State.trySave
  extract_lets c
  split
  · exact saveCtx_ok h
  · exact h

theorem execContextSave_ok {part ctx : Nat} {s : State} (h : s.Ok) : Out.Ok (execContextSave part ctx s) :=
  event_ok (State.trySave_ok h)

theorem State.unyield_ok {s : State} {part ctx : Nat} (h : s.Ok) : (s.unyield part ctx).Ok := by
  unfold State.unyield
  extract_lets s1
  have hs1 : s1.Ok := ok_foldl (fun _ _ ht => setGroup_ok ht) h _
  exact ok_of_eq hs1 rfl rfl

theorem State.restoreCtx_ok {s : State} {part ctx : Nat} (h : s.Ok) : (s.restoreCtx part ctx).Ok := by
  unfold State.restoreCtx
  extract_lets was c s0 s1 s2 s3
  have hs1 : s1.Ok := ok_of_eq h rfl rfl
  have hs2 : s2.Ok := by
    dsimp only [s2]
    split
    · exact loadSections_ok hs1
    · exact hs1
  have hs3 : s3.Ok := returnAll_ok (resumeLandings_ok (unyield_ok hs2))
  split
  · exact notify_ok (serveTakers_ok hs3)
  · exact serveTakers_ok hs3

theorem execContextRestore_ok {part ctx : Nat} {s : State} (h : s.Ok) : Out.Ok (execContextRestore part ctx s) := by
  unfold execContextRestore
  refine event_ok ?_
  split
  · exact State.serveTakers_ok (State.returnAll_ok h)
  · exact h

theorem State.startSwitch_ok {s : State} {part out inc : Nat} {timed : Bool} (h : s.Ok) :
    (s.startSwitch part out inc timed).Ok := by
  unfold State.startSwitch
  extract_lets s1
  have hs1 : s1.Ok := by
    dsimp only [s1]
    split
    · exact h
    · exact raiseRequest_ok h
  exact modPart_ok hs1

theorem State.finishSwitch_ok {s t : State} {part out inc : Nat} (e : s.finishSwitch part out inc = some t) (h : s.Ok) :
    t.Ok := by
  unfold State.finishSwitch at e
  dsimp only at e
  split at e
  · cases e
  · cases e
    split
    · exact modPart_ok h
    · exact restoreCtx_ok (modPart_ok h)

theorem State.switchWord_ok {s : State} {t : ThreadId} {d out inc : Nat} {timed : Bool} (h : s.Ok) :
    (s.switchWord t d out inc timed).Ok := by
  unfold State.switchWord
  extract_lets part go st
  have hgo : ∀ u : State, u.Ok → (go u).Ok := fun u hu => by
    dsimp only [go]
    split
    · rename_i e
      exact putW_ok (finishSwitch_ok e hu)
    · exact hu
  split
  · exact hgo _ h
  · split
    · exact putW_ok h
    · exact hgo _ (startSwitch_ok h)

theorem execSysCtxsw_ok {t : Bool} {d a : BitVec 6} {s : State} (h : s.Ok) : Out.Ok (execSysCtxsw t d a s) := by
  unfold execSysCtxsw
  refine issue_ok h fun th u hu => ?_
  extract_lets out inc
  split
  · trivial
  · exact State.switchWord_ok hu

theorem execSysCtxld_ok {t : Bool} {d a : BitVec 6} {s : State} (h : s.Ok) : Out.Ok (execSysCtxld t d a s) := by
  unfold execSysCtxld
  refine issue_ok h fun th u hu => ?_
  extract_lets inc
  split
  · trivial
  · split
    · exact State.putW_ok hu
    · exact State.switchWord_ok hu

theorem State.sendRelease_ok {s : State} {t : ThreadId} {remote : Bool} (h : s.Ok) : (s.sendRelease t remote).1.Ok := by
  unfold State.sendRelease
  extract_lets cpt r
  have hr : r.1.Ok := (memStep_releaseDevice _ _).ok h
  dsimp only
  split
  · exact (memStep_cleanHost _ _).ok hr
  · exact hr

theorem execHailSend_ok {t : Bool} {d a : BitVec 6} {s : State} (h : s.Ok) : Out.Ok (execHailSend t d a s) := by
  unfold execHailSend
  refine issue_ok h fun th u hu => ?_
  extract_lets x pay n port part ctx remote r far near r1 s1
  have hs1 : s1.Ok := by
    dsimp only [s1]
    split
    · exact (State.memStep_post _ _ _ _ _ _ _).ok (State.ok_of_eq (State.sendRelease_ok hu) rfl rfl)
    · exact (State.memStep_post _ _ _ _ _ _ _).ok (State.ok_of_eq (State.sendRelease_ok hu) rfl rfl)
  clear_value s1
  generalize (if remote then 4 else 3) = scope
  generalize (if remote then 16 + port else (u.part part).base / 64) = far
  split
  · exact State.putLater_ok hu
  · split
    · exact State.putLater_ok hu
    · split
      · exact State.putLater_ok hu
      · split
        · exact hu
        · split
          · exact hu
          · split
            · rename_i e
              exact State.snoopHost_ok e hu
            · split
              · rename_i e
                exact State.lostReport_ok e hu
              · split
                · rename_i e
                  exact State.releaseWait_ok e hu
                · exact State.putLater_ok hs1

theorem State.setHmask_ok {s : State} {part ctx : Nat} {m : W32} (h : s.Ok) : (s.setHmask part ctx m).Ok :=
  serveTakers_ok (ok_foldl (fun _ _ ht => modVec_ok ht) h _)

theorem execHailMask_ok {t : Bool} {d a : BitVec 6} {s : State} (h : s.Ok) : Out.Ok (execHailMask t d a s) := by
  unfold execHailMask
  refine issue_ok h fun th u hu => ?_
  extract_lets old set clear
  exact State.putLater_ok (State.setHmask_ok hu)

theorem State.waitTake_ok {s : State} {t : ThreadId} {d a : Nat} (h : s.Ok) : (s.waitTake t d a).Ok := by
  unfold State.waitTake
  extract_lets s1
  have hs1 : s1.Ok := ok_of_eq h rfl rfl
  split
  · extract_lets n
    split
    · exact parkGroup_ok hs1
    · exact setGroup_ok hs1
  · exact setScalar_ok hs1

theorem State.clearTake_ok {s : State} {t : ThreadId} (h : s.Ok) : (s.clearTake t).Ok := by
  unfold State.clearTake
  split
  · split
    · exact setGroup_ok h
    · exact h
  · exact h

theorem execHailTake_ok {t : Bool} {d a : BitVec 6} {s : State} (h : s.Ok) : Out.Ok (execHailTake t d a s) := by
  unfold execHailTake
  refine issue_ok h fun th u hu => ?_
  extract_lets whole
  split
  · trivial
  · split
    · exact State.serveTakers_ok (State.endService_ok hu)
    · split
      · extract_lets r
        have hr : r.1.Ok := State.deliverTo_ok (State.serveTakers_ok (State.endService_ok hu))
        exact State.clearTake_ok hr
      · exact State.waitTake_ok (State.serveTakers_ok (State.endService_ok hu))

theorem execHailRet_ok {t : Bool} {s : State} (h : s.Ok) : Out.Ok (execHailRet t s) := by
  unfold execHailRet
  refine issue_ok h fun th u hu => ?_
  split
  · exact hu
  · exact State.serveTakers_ok (State.endService_ok hu)

theorem execHailPend_ok {t : Bool} {d a : BitVec 6} {s : State} (h : s.Ok) : Out.Ok (execHailPend t d a s) := by
  unfold execHailPend
  refine issue_ok h fun th u hu => ?_
  extract_lets sel v
  exact State.putLater_ok hu

theorem execHailPerm_ok {t : Bool} {d a : BitVec 6} {s : State} (h : s.Ok) : Out.Ok (execHailPerm t d a s) := by
  unfold execHailPerm
  refine issue_ok h fun th u hu => ?_
  dsimp only
  split
  · trivial
  · split
    · exact State.putLater_ok hu
    · split
      · exact State.putLater_ok (State.modVec_ok hu)
      · refine State.putLater_ok ?_
        split
        · exact State.modCtx_ok hu
        · exact hu

theorem execHailAccept_ok {part ctx : Nat} {s : State} (h : s.Ok) : Out.Ok (execHailAccept part ctx s) := by
  unfold execHailAccept
  split
  · exact event_ok h
  · split
    · exact event_ok (State.serveTakers_ok h)
    · exact event_ok (State.serveTakers_ok (State.writeHails_ok (State.acceptHail_ok (State.ok_of_eq h rfl rfl))))

theorem State.peerHail_ok {s : State} {port fromPart fromCtx part ctx vec : Nat} {payload : W64} (h : s.Ok) :
    (s.peerHail port fromPart fromCtx part ctx vec payload).Ok := by
  unfold State.peerHail
  split
  · extract_lets id
    exact ok_of_eq h rfl rfl
  · exact h

theorem execHostHailMessage_ok {func size : Nat} {msg : BitVec 128} {s : State} (h : s.Ok) :
    Out.Ok (execHostHailMessage func size msg s) := by
  unfold execHostHailMessage
  split
  · exact event_ok h
  · extract_lets n
    split
    · exact event_ok (State.countLerr_ok h)
    · exact event_ok (State.ok_of_eq h rfl rfl)

theorem State.refresh_ok {s : State} (h : s.Ok) : s.refresh.Ok := by
  unfold State.refresh
  extract_lets r gate gated busy back
  exact ok_of_eq h rfl rfl

theorem State.startPoint_ok {s : State} (h : s.Ok) : s.startPoint.Ok := by
  unfold State.startPoint
  extract_lets s1 p
  have hs1 : s1.Ok := syncTimers_ok h
  exact refresh_ok (ok_of_eq hs1 rfl rfl)

theorem State.writePwrctl_ok {s t : State} {v : W64} (e : s.writePwrctl v = some t) (h : s.Ok) : t.Ok := by
  unfold State.writePwrctl at e
  dsimp only at e
  split at e
  · cases e
  · cases e
    exact startPoint_ok (ok_of_eq h rfl rfl)

theorem execPwrctlPoint_ok {point : BitVec 3} {s : State} (h : s.Ok) : Out.Ok (execPwrctlPoint point s) :=
  event_ok (State.ok_getD (fun _ e => State.writePwrctl_ok e h) h)

theorem execPwrctlGate_ok {gate : BitVec 16} {s : State} (h : s.Ok) : Out.Ok (execPwrctlGate gate s) :=
  event_ok (State.ok_getD (fun _ e => State.writePwrctl_ok e h) h)

theorem execPointChangeDone_ok {s : State} (h : s.Ok) : Out.Ok (execPointChangeDone s) := by
  unfold execPointChangeDone
  split
  · exact event_ok h
  · extract_lets s1 r
    have hs1 : s1.Ok := State.syncTimers_ok h
    exact event_ok (State.refresh_ok (State.ok_of_eq hs1 rfl rfl))

theorem State.powerOff_ok {s : State} {d : Nat} (h : s.Ok) : (s.powerOff d).Ok := by
  unfold State.powerOff
  extract_lets clusters s1 off
  have hs1 : s1.Ok := ok_foldl (fun _ _ ht => (memStep_evictAll _ _ _).ok ((memStep_flushStream _ _).ok ht)) h _
  clear_value s1
  exact ok_of_eq hs1 rfl rfl

theorem execDiePowerOff_ok {die : Nat} {s : State} (h : s.Ok) : Out.Ok (execDiePowerOff die s) := by
  unfold execDiePowerOff
  extract_lets s1
  have hs1 : s1.Ok := State.powerOff_ok h
  clear_value s1
  split
  · exact event_ok (State.startPoint_ok (State.ok_of_eq hs1 rfl rfl))
  · exact event_ok h

theorem execUngateDone_ok {die : Nat} {s : State} (h : s.Ok) : Out.Ok (execUngateDone die s) := by
  unfold execUngateDone
  split
  · exact event_ok (State.refresh_ok (State.ok_of_eq h rfl rfl))
  · exact event_ok h

theorem execPowerUp_ok {digest : BitVec 384} {verified : Bool} {s : State} (h : s.Ok) :
    Out.Ok (execPowerUp digest verified s) := by
  unfold execPowerUp
  extract_lets r
  split
  · exact event_ok h
  · exact event_ok (State.ok_of_eq h rfl rfl)

theorem State.endReduced_ok {s : State} (h : s.Ok) : s.endReduced.Ok := by
  unfold State.endReduced
  split
  · extract_lets s1
    have hs1 : s1.Ok := syncTimers_ok h
    exact ok_of_eq hs1 rfl rfl
  · exact h

theorem execDieTrained_ok {base : Bool} {die : Nat} {ok : Bool} {s : State} (h : s.Ok) :
    Out.Ok (execDieTrained base die ok s) := by
  unfold execDieTrained
  split
  · exact event_ok (State.endReduced_ok (State.ok_of_eq h rfl rfl))
  · exact event_ok h

theorem execBar0RegisterWrite_ok {place : WindowOffset} {v : W64} {s : State} (h : s.Ok) :
    Out.Ok (execBar0RegisterWrite place v s) := by
  refine event_ok ?_
  split
  · exact h
  · split
    · split
      · exact State.countLerr_ok h
      · exact h
    · split
      · exact State.ok_getD (fun _ e => State.writePwrctl_ok e h) h
      · exact h

theorem State.barRead_ok {s : State} {func offset : Nat} (h : s.Ok) : (s.barRead func offset).Ok := by
  unfold State.barRead
  split
  · exact h
  · split
    · exact ok_of_eq h rfl rfl
    · extract_lets __src
      have h__src : __src.Ok := (memStep_draw _).ok h
      exact ok_of_eq h__src rfl rfl

theorem execMctpMessage_ok {kind : Nat} {v : W64} {s : State} (h : s.Ok) : Out.Ok (execMctpMessage kind v s) := by
  refine event_ok ?_
  split
  · exact State.ok_getD (fun _ e => State.writePwrctl_ok e h) h
  · split
    · split
      · exact State.ok_of_eq h rfl rfl
      · exact h
    · exact h

end Sys2Proof.Machine
end

section
/-! PROOFS. That memory stays in canonical form: calls, debugging, links and spawns. -/

namespace Sys2Proof.Machine

theorem State.writeCall_ok {s : State} {part pa : Nat} {ws : List W64} (h : s.Ok) : (s.writeCall part pa ws).Ok := by
  unfold State.writeCall
  extract_lets s1
  have hs1 : s1.Ok := (memStep_evictSector _ _ _).ok ((memStep_evictSector _ _ _).ok h)
  exact (memStep_siteWrite _ _ _ _ _ _ _).ok ((memStep_siteWrite _ _ _ _ _ _ _).ok hs1)

theorem State.callService_ok {s : State} {t : ThreadId} {c : Call} (h : s.Ok) : (s.callService t c).1.Ok := by
  unfold State.callService
  extract_lets part p id s1 s2
  have hs1 : s1.Ok := modPart_ok h
  have hs2 : s2.Ok := writeCall_ok hs1
  dsimp only
  split
  · exact hs2
  · exact notify_ok hs2

theorem State.callNotice_ok {s : State} {part : Nat} {id : W32} (h : s.Ok) : (s.callNotice part id).Ok := by
  unfold State.callNotice
  split
  · exact notify_ok h
  · exact h

theorem State.handImage_ok {s : State} {part : Nat} (h : s.Ok) : (s.handImage part).Ok := by
  unfold State.handImage
  extract_lets p calling
  split
  · exact h
  · split
    · exact h
    · extract_lets s1
      have hs1 : s1.Ok := modPart_ok h
      exact ok_foldl (fun _ _ ht => callNotice_ok ht) hs1 _

theorem State.callMonitor_ok {s : State} {c : Call} (h : s.Ok) : (s.callMonitor c).1.Ok := by
  unfold State.callMonitor
  extract_lets id
  dsimp only
  exact ok_of_eq h rfl rfl

theorem State.makeCall_ok {s : State} {t : ThreadId} {n : Nat} (h : s.Ok) : (s.makeCall t n).Ok := by
  unfold State.makeCall
  extract_lets c
  split
  · extract_lets r s1
    have hr : r.1.Ok := callService_ok (parkGroup_ok h)
    have hs1 : s1.Ok := parkedFor_ok hr
    exact emptyW_ok (emptyW_ok hs1)
  · exact emptyW_ok (emptyW_ok (setScalar_ok (callService_ok h)))
  · extract_lets s1
    exact emptyW_ok (emptyW_ok (setScalar_ok (callMonitor_ok h)))

theorem execSysSvc_ok {t : Bool} {n : BitVec 6} {s : State} (h : s.Ok) : Out.Ok (execSysSvc t n s) := by
  unfold execSysSvc
  refine issue_ok h fun th u hu => ?_
  split
  · exact State.makeCall_ok hu
  · exact hu

theorem execSvc_ok {t : Bool} {imm : BitVec 10} {s : State} (h : s.Ok) : Out.Ok (execSvc t imm s) := by
  unfold execSvc
  refine issue_ok h fun th u hu => ?_
  split
  · extract_lets x
    split
    · trivial
    · split
      · exact hu
      · exact State.parkedFor_ok (State.callService_ok (State.parkGroup_ok hu))
  · exact hu

theorem State.takeReply_ok {s : State} {c : Call} {v1 v2 : W64} {g : Sig} (h : s.Ok) : (s.takeReply c v1 v2 g).Ok := by
  unfold State.takeReply
  extract_lets t s1 s2 s3 there
  have hs1 : s1.Ok := by
    dsimp only [s1]
    clear_value t
    split
    · split
      · exact reloadPark_ok h
      · exact putW_ok (putW_ok h)
    · exact putW_ok (putW_ok h)
  have hs2 : s2.Ok := setWaiting_ok (setPc_ok hs1)
  have hs3 : s3.Ok := by
    dsimp only [s3]
    clear_value s2 t
    split
    · refine stepParked_ok ?_
      split
      · exact setGroup_ok hs2
      · exact hs2
    · split
      · exact setScalar_ok hs2
      · exact hs2
  clear_value s3
  split
  · exact h
  · split
    · exact (memStep_foldSig _ _ _).ok hs3
    · exact hs3

theorem State.closeCall_ok {s : State} {t : ThreadId} {id : W32} (h : s.Ok) : (s.closeCall t id).Ok := by
  unfold State.closeCall
  split
  · exact ok_of_eq h rfl rfl
  · exact modPart_ok h

theorem execSysEret_ok {t : Bool} {a : BitVec 6} {s : State} (h : s.Ok) : Out.Ok (execSysEret t a s) := by
  unfold execSysEret
  refine issue_ok h fun th u hu => ?_
  extract_lets id
  split
  · trivial
  · split
    · rename_i e
      exact State.lostReport_ok e hu
    · split
      · rename_i e1
        exact State.releaseWait_ok e1 hu
      · exact State.takeReply_ok (State.closeCall_ok ((State.memStep_releaseDevice _ _).ok hu))

theorem execUnpark_ok {group : Nat} {s : State} (h : s.Ok) : Out.Ok (execUnpark group s) :=
  event_ok (State.unparkGroup_ok h)

theorem execSysTrap_ok {t : Bool} {n : BitVec 6} {s : State} (h : s.Ok) : Out.Ok (execSysTrap t n s) :=
  issue_ok h fun _ _ hu => hu

theorem execSysBkpt_ok {t : Bool} {n : BitVec 6} {s : State} (h : s.Ok) : Out.Ok (execSysBkpt t n s) :=
  issue_ok h fun _ _ hu => hu

theorem State.haltSpine_ok {s : State} {c : Nat} (h : s.Ok) : (s.haltSpine c).Ok := by
  unfold State.haltSpine
  extract_lets t
  split
  · exact h
  · exact h
  · exact setScalar_ok ((walkStep_writeRecord _ _ _).ok h)

theorem State.haltTeam_ok {s : State} {team : Nat} (h : s.Ok) : (s.haltTeam team).Ok := by
  unfold State.haltTeam
  split
  · exact broadcast_ok h
  · refine ok_foldl (fun t x ht => ?_) h _
    split
    · exact ht
    · exact stopGroup_ok ht

theorem State.beginHalt_ok {s : State} {k : Nat} {all : Bool} {num : Nat} (h : s.Ok) : (s.beginHalt k all num).Ok := by
  unfold State.beginHalt
  extract_lets g s1 s2
  have hs1 : s1.Ok := setGrid_ok h
  have hs2 : s2.Ok := ok_foldl (fun _ _ ht => haltTeam_ok ht) hs1 _
  exact ok_foldl (fun _ _ ht => haltSpine_ok ht) hs2 _

theorem State.resumeNamed_ok {s : State} {k : Nat} {all : Bool} {num : Nat} {freeze : Bool} {flags : BitVec 16} (h : s.Ok) :
    (s.resumeNamed k all num freeze flags).1.Ok := by
  unfold State.resumeNamed
  extract_lets gs cs s1
  have hs1 : s1.Ok := ok_foldl (fun _ _ ht => resumeGroup_ok ht) h _
  dsimp only
  exact ok_foldl (fun _ _ ht => resumeSpine_ok ht) hs1 _

theorem State.endGroup_ok {s : State} {g : Nat} (h : s.Ok) : (s.endGroup g).Ok := by
  unfold State.endGroup
  split
  · exact h
  · exact tryRetireGroup_ok (setGroup_ok h)

theorem State.abortGrid_ok {s : State} {k : Nat} (h : s.Ok) : (s.abortGrid k).Ok := by
  unfold State.abortGrid
  extract_lets g s1
  have hs1 : s1.Ok := by
    dsimp only [s1]
    split
    · split
      · exact fillStatus_ok h
      · exact h
    · exact h
  split
  · exact endGrid_ok (setGrid_ok hs1)
  · exact tryEndGrid_ok (ok_foldl (fun _ _ ht => endGroup_ok ht) (ok_foldl (fun _ _ ht => setScalar_ok ht) (setGrid_ok hs1) _) _)

theorem execSysHalt_ok {t : Bool} {d a : BitVec 6} {s : State} (h : s.Ok) : Out.Ok (execSysHalt t d a s) := by
  unfold execSysHalt
  refine issue_ok h fun th u hu => ?_
  extract_lets x y num all action
  split
  · trivial
  · split
    · exact State.putW_ok hu
    · split
      · exact State.putW_ok hu
      · split
        · extract_lets s1
          have hs1 : s1.Ok := State.beginHalt_ok hu
          split
          · exact State.putW_ok ((State.memStep_releasePart _ _).ok hs1)
          · exact hs1
        · split
          · extract_lets r
            have hr : r.1.Ok := State.resumeNamed_ok hu
            exact State.putW_ok hr
          · exact State.putW_ok (State.abortGrid_ok hu)

theorem execXexp_ok {t : Bool} {a : BitVec 6} {s : State} (h : s.Ok) : Out.Ok (execXexp t a s) := by
  unfold execXexp
  refine issue_ok h fun th u hu => ?_
  extract_lets k x c
  split
  · trivial
  · exact State.setTeam_ok hu

theorem execXbar_ok {t : Bool} {s : State} (h : s.Ok) : Out.Ok (execXbar t s) := by
  unfold execXbar
  refine issue_ok h fun th u hu => ?_
  split
  · extract_lets x tm
    split
    · trivial
    · split
      · exact hu
      · exact State.settleExchange_ok (State.setTeam_ok (State.setGroup_ok (State.setPc_ok hu)))
  · exact hu

theorem execXstat_ok {t : Bool} {d : BitVec 6} {s : State} (h : s.Ok) : Out.Ok (execXstat t d s) :=
  issue_ok h fun _ _ hu => State.putW_ok hu

theorem State.evictPage_ok {s : State} {frame : Nat} (h : s.Ok) : (s.evictPage frame).Ok := by
  unfold State.evictPage
  refine ok_foldl (fun t x ht => ?_) h _
  split
  · exact (memStep_evictSector _ _ _).ok ht
  · exact ht

theorem State.fillPage_ok {s : State} {part tag ea v : Nat} {bad : List Nat} (h : s.Ok) : (s.fillPage part tag ea v bad).Ok := by
  unfold State.fillPage
  extract_lets leaf p s1 s2
  have hs1 : s1.Ok := (memStep_siteWrite _ _ _ _ _ _ _).ok (evictPage_ok h)
  have hs2 : s2.Ok := by
    dsimp only [s2]
    split
    · exact ok_foldl (fun _ _ ht => (memStep_setBad _ _ _).ok ht) hs1 _
    · exact hs1
  exact (memStep_siteWrite _ _ _ _ _ _ _).ok hs2

theorem State.fillFrom_ok {s : State} {part tag ea : Nat} {fr : Frames} {src : W64} (h : s.Ok) :
    (s.fillFrom part tag ea fr src).Ok := by
  unfold State.fillFrom
  split
  · exact fillPage_ok h
  · exact fillPage_ok (touchFrames_ok h)

theorem execSysFmap_ok {t : Bool} {d a : BitVec 6} {s : State} (h : s.Ok) : Out.Ok (execSysFmap t d a s) := by
  unfold execSysFmap
  refine issue_ok h fun th u hu => ?_
  extract_lets src part ctx
  split
  · trivial
  · split
    · trivial
    · rename_i e
      split
      · refine State.putW_ok (State.ok_fst e ?_)
        split
        · dsimp only
          exact hu
        · exact State.translateRange_ok hu
      · split
        · refine State.putW_ok (State.ok_fst e ?_)
          split
          · dsimp only
            exact hu
          · exact State.translateRange_ok hu
        · split
          · extract_lets u1
            have hu1 : u1.Ok := by
              dsimp only [u1]
              refine State.fillFrom_ok (State.ok_fst e ?_)
              split
              · dsimp only
                exact hu
              · exact State.translateRange_ok hu
            split
            · rename_i e1
              exact State.filledHeld_ok e1 hu hu1
            · exact State.putW_ok (State.dropRecord_ok hu1)
          · refine State.putW_ok (State.ok_fst e ?_)
            split
            · dsimp only
              exact hu
            · exact State.translateRange_ok hu

theorem execSysFretry_ok {t : Bool} {d a : BitVec 6} {s : State} (h : s.Ok) : Out.Ok (execSysFretry t d a s) := by
  unfold execSysFretry
  refine issue_ok h fun th u hu => ?_
  split
  · exact State.putW_ok hu
  · exact State.putW_ok (State.dropRecord_ok hu)

theorem State.skipLanes_ok {s : State} {t : ThreadId} {d : BitVec 7} {pair : Bool} {n : Nat} {v : W64} (h : s.Ok) :
    (s.skipLanes t d pair n v).Ok := by
  unfold State.skipLanes
  split
  · extract_lets lo x
    exact setGroup_ok h
  · exact h

theorem State.stepSkipped_ok {s : State} {t : ThreadId} {f : FaultRec} {pc : Addr} (h : s.Ok) : (s.stepSkipped t f pc).Ok := by
  unfold State.stepSkipped
  split
  · split
    · exact takeTrap_ok h
    · exact h
  · exact h

theorem State.skipWord_ok {s : State} {f : FaultRec} {v : W64} (h : s.Ok) : (s.skipWord f v).Ok := by
  unfold State.skipWord
  extract_lets t s1
  have hs1 : s1.Ok := by
    dsimp only [s1]
    split
    · exact skipLanes_ok h
    · exact skipLanes_ok h
    · exact skipLanes_ok h
    · exact putW_ok h
    · exact putW_ok h
    · exact putW_ok h
    · exact h
  exact stepSkipped_ok (setWaiting_ok (setPc_ok hs1))

theorem execSysFskip_ok {t : Bool} {d a : BitVec 6} {s : State} (h : s.Ok) : Out.Ok (execSysFskip t d a s) := by
  unfold execSysFskip
  refine issue_ok h fun th u hu => ?_
  split
  · exact State.putW_ok hu
  · split
    · extract_lets s1
      have hs1 : s1.Ok := State.dropRecord_ok hu
      refine State.putW_ok ?_
      split
      · exact State.skipWord_ok hs1
      · exact hs1
    · exact State.putW_ok hu

theorem execSysFabort_ok {t : Bool} {d a : BitVec 6} {s : State} (h : s.Ok) : Out.Ok (execSysFabort t d a s) := by
  unfold execSysFabort
  refine issue_ok h fun th u hu => ?_
  split
  · exact State.putW_ok hu
  · exact State.putW_ok (State.abortRecord_ok hu)

theorem execJwr_ok {t : Bool} {d a : BitVec 6} {m : BitVec 4} {c : BitVec 8} {s : State} (h : s.Ok) :
    Out.Ok (execJwr t d a m c s) := by
  unfold execJwr
  refine issue_ok h fun th u hu => ?_
  extract_lets x
  split
  · split
    · trivial
    · exact hu
  · exact State.setJetty_ok ((State.memStep_flushStream _ _).ok hu)

theorem execJrd_ok {t : Bool} {d a : BitVec 6} {s : State} (h : s.Ok) : Out.Ok (execJrd t d a s) := by
  unfold execJrd
  refine issue_ok h fun th u hu => ?_
  extract_lets x
  split
  · trivial
  · split
    · split
      · trivial
      · exact hu
    · exact State.putW_ok (State.setJetty_ok hu)

theorem execJrel_ok {t : Bool} {a : BitVec 6} {s : State} (h : s.Ok) : Out.Ok (execJrel t a s) := by
  unfold execJrel
  refine issue_ok h fun th u hu => ?_
  extract_lets x
  split
  · trivial
  · split
    · split
      · trivial
      · exact hu
    · split
      · exact hu
      · exact State.setJetty_ok ((State.memStep_flushStream _ _).ok hu)

theorem State.setLink_ok {s : State} {l : Nat} {x : Link} (h : s.Ok) : (s.setLink l x).Ok :=
  ok_of_eq h rfl rfl

theorem State.pullFailed_ok {s : State} {pair : Nat} (h : s.Ok) : (s.pullFailed pair).Ok := by
  unfold State.pullFailed
  split
  · exact h
  · refine ok_foldl (fun t x ht => ?_) h _
    extract_lets x1
    split
    · exact setLink_ok (setLink_ok ht)
    · exact ht

theorem execFlitReceive_ok {link : Nat} {hdr ack : BitVec 16} {payload : BitVec 1984} {crc : BitVec 32} {s : State} (h : s.Ok) :
    Out.Ok (execFlitReceive link hdr ack payload crc s) := by
  unfold execFlitReceive
  extract_lets x
  split
  · exact event_ok h
  · split
    · refine event_ok ?_
      split
      · exact State.setLink_ok h
      · exact State.pullFailed_ok (State.setLink_ok h)
    · exact event_ok (State.setLink_ok h)

theorem execReplayTimeout_ok {link : Nat} {s : State} (h : s.Ok) : Out.Ok (execReplayTimeout link s) := by
  unfold execReplayTimeout
  extract_lets x
  refine event_ok ?_
  split
  · exact State.setLink_ok h
  · exact h

theorem State.failModule_ok {s : State} {link : Nat} {x : Link} (h : s.Ok) : (s.failModule link x).Ok := by
  unfold State.failModule
  extract_lets s1
  have hs1 : s1.Ok := setLink_ok h
  split
  · exact pullFailed_ok hs1
  · exact ok_of_eq hs1 rfl rfl

theorem State.setPort_ok {s : State} {port : Nat} {up narrow : Bool} (h : s.Ok) : (s.setPort port up narrow).Ok :=
  ok_of_eq h rfl rfl

theorem State.retrained_ok {s : State} {link : Nat} {x : Link} {width : Nat} (h : s.Ok) : (s.retrained link x width).Ok := by
  unfold State.retrained
  extract_lets y s1
  have hs1 : s1.Ok := setLink_ok h
  split
  · exact setPort_ok hs1
  · exact hs1

theorem execLinkRetrain_ok {link : Nat} {lowHalf highHalf : Bool} {s : State} (h : s.Ok) :
    Out.Ok (execLinkRetrain link lowHalf highHalf s) := by
  unfold execLinkRetrain
  extract_lets x
  split
  · exact event_ok h
  · split
    · exact event_ok (State.retrained_ok h)
    · split
      · exact event_ok (State.retrained_ok h)
      · split
        · exact event_ok (State.setPort_ok (State.setLink_ok h))
        · exact event_ok (State.failModule_ok h)

theorem State.moduleOf_ok {s : State} {pair flow : Nat} (h : s.Ok) : (s.moduleOf pair flow).1.Ok := by
  unfold State.moduleOf
  generalize (modulesOf pair).filter (fun l => decide (0 < (s.link l).width)) = ls
  dsimp only
  split
  · exact h
  · split
    · exact h
    · exact ok_of_eq ((memStep_pick s ls).ok h) rfl rfl

theorem State.sendFlit_ok {s : State} {pair flow : Nat} {payload : BitVec 1984} (h : s.Ok) :
    (s.sendFlit pair flow payload).Ok := by
  unfold State.sendFlit
  extract_lets r
  have hr : r.1.Ok := by
    dsimp only [r]
    split
    · exact moduleOf_ok h
    · dsimp only
      exact h
  split
  · exact h
  · extract_lets x
    split
    · exact h
    · exact setLink_ok hr

theorem State.sendIdle_ok {s : State} {link : Nat} (h : s.Ok) : (s.sendIdle link).Ok := by
  unfold State.sendIdle
  split
  · exact setLink_ok h
  · exact h

theorem State.farPerform_ok {s : State} {port : Nat} {o : FarOp} (h : s.Ok) : (s.farPerform port o).1.Ok := by
  unfold State.farPerform
  split
  · dsimp only
    split
    · exact (memStep_storeBytes _ _ _ _ _ _ _).ok h
    · exact (memStep_homeWrite _ _ _ _ _ _).ok h
  · extract_lets r
    have hr : r.1.Ok := (memStep_atomicBytes _ _ _ _ _ _ _ _).ok h
    dsimp only
    exact hr
  · dsimp only
    exact ok_of_eq h rfl rfl
  · dsimp only
    exact ok_of_eq h rfl rfl
  · dsimp only
    exact (memStep_homeHalves _ _ _ _).ok h
  · dsimp only
    exact landPkt_ok h
  · dsimp only
    exact arrive_ok h

theorem State.farServe_ok {s : State} {port num : Nat} {o : Outstanding} (h : s.Ok) : (s.farServe port num o).1.Ok := by
  unfold State.farServe
  extract_lets key w
  split
  · dsimp only
    exact h
  · dsimp only
    exact ok_of_eq (farPerform_ok h) rfl rfl

theorem execRequestResend_ok {port num : Nat} {s : State} (h : s.Ok) : Out.Ok (execRequestResend port num s) := by
  unfold execRequestResend
  extract_lets key
  split
  · exact event_ok h
  · split
    · extract_lets r
      have hr : r.1.Ok := State.farServe_ok h
      exact event_ok (State.ok_of_eq hr rfl rfl)
    · exact event_ok h

theorem State.acknowledge_ok {s : State} {port num : Nat} (h : s.Ok) : (s.acknowledge port num).Ok := by
  unfold State.acknowledge
  extract_lets key
  split
  · split
    · exact ok_of_eq h rfl rfl
    · exact h
  · exact h

theorem State.peerPerform_ok {s : State} {pa kind size : Nat} {v c : W64} (h : s.Ok) : (s.peerPerform pa kind size v c).1.Ok := by
  unfold State.peerPerform
  split
  · dsimp only
    exact h
  · split
    · dsimp only
      exact (memStep_homeWrite _ _ _ _ _ _).ok h
    · extract_lets r
      have hr : r.1.Ok := (memStep_homeAtomic _ _ _ _ _ _ _ _).ok h
      dsimp only
      exact hr

theorem State.peerExport_ok {s : State} {port part len perm : Nat} (h : s.Ok) : (s.peerExport port part len perm).Ok := by
  unfold State.peerExport
  split
  · exact ok_of_eq h rfl rfl
  · exact h

theorem execPeerAccess_ok {port num : Nat} {place : WindowOffset} {kind size : Nat} {v : PeerOperands} {s : State} (h : s.Ok) :
    Out.Ok (execPeerAccess port num place kind size v s) := by
  unfold execPeerAccess
  split
  · exact event_ok (State.ok_of_eq ((State.memStep_countRefusal _).ok h) rfl rfl)
  · extract_lets key w answer
    split
    · exact event_ok (State.ok_of_eq h rfl rfl)
    · split
      · rename_i e
        exact event_ok (State.snoopHost_ok e h)
      · exact event_ok (State.ok_of_eq (State.ok_of_eq (State.peerPerform_ok h) rfl rfl) rfl rfl)

theorem execPackagePortTraining_ok {port : Nat} {up narrow : Bool} {peer : BitVec 16} {s : State} (h : s.Ok) :
    Out.Ok (execPackagePortTraining port up narrow peer s) := by
  unfold execPackagePortTraining
  split
  · exact event_ok h
  · extract_lets x s1
    have hs1 : s1.Ok := by
      dsimp only [s1]
      refine State.setPort_ok ?_
      split
      · exact State.retrained_ok h
      · exact State.setLink_ok h
    exact event_ok (State.ok_of_eq hs1 rfl rfl)

theorem execCxlPortTraining_ok {port rate width : Nat} {s : State} (h : s.Ok) :
    Out.Ok (execCxlPortTraining port rate width s) := by
  unfold execCxlPortTraining
  refine event_ok ?_
  split
  · exact State.ok_of_eq h rfl rfl
  · exact h

theorem execHostSnoop_ok {line : Nat} {inval : Bool} {s : State} (h : s.Ok) : Out.Ok (execHostSnoop line inval s) := by
  unfold execHostSnoop
  extract_lets held
  refine event_ok ?_
  split
  · split
    · exact State.ok_foldl (fun _ _ ht => (State.memStep_sliceEvict _ _).ok ht) h _
    · exact State.ok_foldl (fun _ _ ht => (State.memStep_sliceClean _ _).ok ht) h _
  · exact h

theorem State.recall_ok {s : State} {line : Nat} (h : s.Ok) : (s.recall line).Ok :=
  (memStep_sliceEvict _ _).ok h

theorem execHostMemAccess_ok {addr size : Nat} {write : Bool} {v : W64} {s : State} (h : s.Ok) :
    Out.Ok (execHostMemAccess addr size write v s) := by
  unfold execHostMemAccess
  extract_lets lines s1 s2
  have hs2 : s2.Ok := State.ok_of_eq (s := s1) (State.ok_foldl (fun _ _ ht => State.recall_ok ht) h _) rfl rfl
  clear_value s2
  split
  · refine event_ok ?_
    split
    · exact (State.memStep_noteWrite _ _ _).ok ((State.memStep_memStore _ _ _ _).ok hs2)
    · exact State.ok_of_eq hs2 rfl rfl
  · exact fun _ e => nomatch e

theorem execBackInvalidationResponse_ok {line : Nat} {s : State} (h : s.Ok) : Out.Ok (execBackInvalidationResponse line s) :=
  event_ok (State.ok_of_eq h rfl rfl)

theorem State.spawnPages_ok {s : State} {sp : Space} {l : List (AccKind × W64)} (h : s.Ok) : (s.spawnPages sp l).1.Ok := by
  induction l generalizing s with
  | nil => exact h
  | cons x l ih =>
    have h1 := (walkStep_translate s sp x.2.toNat x.1 true).ok h
    unfold State.spawnPages
    split
    · rename_i e
      exact ok_fst e h1
    · rename_i e
      have h2 := ih (ok_fst e h1)
      split <;> (rename_i e1; exact ok_fst e1 h2)

theorem State.enterQueue_ok {s : State} {t : ThreadId} {d : BitVec 6} {g : Grid} (h : s.Ok) : (s.enterQueue t d g).Ok := by
  unfold State.enterQueue
  split
  · exact putW_ok h
  · extract_lets st q s1
    have hq : q.1.Ok := addGrid_ok h
    have hs1 : s1.Ok := by
      dsimp only [s1]
      split
      · exact emptyW_ok hq
      · exact putW_ok hq
    exact testGate_ok hs1

theorem execSpawn_ok {t : Bool} {d a : BitVec 6} {imm g c v : Bool} {s : State} (h : s.Ok) :
    Out.Ok (execSpawn t d a imm g c v s) := by
  unfold execSpawn
  refine issue_ok h fun th u hu => ?_
  extract_lets r part ctx sp counters
  clear_value r ctx sp counters
  split
  · trivial
  · split
    · trivial
    · split
      · trivial
      · split
        · trivial
        · split
          · trivial
          next s1 ps e1 =>
            have hs1 : s1.Ok := State.ok_fst e1 (State.spawnPages_ok hu)
            split
            · trivial
            · trivial
            next s2 im e2 =>
              have hs2 : s2.Ok := State.ok_fst e2 (State.spawnImages_ok hs1)
              split
              · rename_i e
                exact State.filledHeld_ok e hu hs2
              · split
                · trivial
                · split
                  · trivial
                  · split
                    · rename_i e
                      exact State.lostReport_ok e hs2
                    · split
                      · rename_i e
                        exact State.ok_orElse e (fun e => State.snoopHost_ok e hs2) fun e => State.releaseWait_ok e hs2
                      · have hq := (State.memStep_releaseDevice s2 (s2.cptOf th)).ok hs2
                        split
                        · exact State.putW_ok hq
                        · exact State.enterQueue_ok hq

theorem execJoin_ok {t : Bool} {d a b : BitVec 6} {s : State} (h : s.Ok) : Out.Ok (execJoin t d a b s) := by
  unfold execJoin
  refine issue_ok h fun th u hu => ?_
  split
  · rename_i e
    exact Checked.stop_of e (State.checkUniform_ok hu)
  · rename_i e
    split
    · split
      · trivial
      · split
        · exact hu
        · extract_lets q
          have hq : q.1.Ok := (State.memStep_acquireLoad _ _ _ _ _ _).ok (Checked.ok_of e (State.checkUniform_ok hu))
          split
          · refine State.doneUnlessFills_ok hu ?_
            split
            · exact State.setUni_ok (State.putW_ok hq)
            · exact State.putW_ok hq
          · exact State.unlessFills_ok hu hq
    · exact hu

theorem execGateTest_ok {grid : Nat} {s : State} (h : s.Ok) : Out.Ok (execGateTest grid s) := by
  unfold execGateTest
  split
  · exact event_ok h
  · split
    · extract_lets s1
      have hs1 : s1.Ok := State.ok_foldl (fun _ _ ht => State.testGate_ok ht) h _
      exact event_ok (State.ok_of_eq hs1 rfl rfl)
    · exact event_ok h

theorem execPlacementStep_ok {part : Nat} {s : State} (h : s.Ok) : Out.Ok (execPlacementStep part s) := by
  unfold execPlacementStep
  refine event_ok ?_
  split
  · exact h
  · exact State.placementStep_ok h

theorem execGroupRetire_ok {group : Nat} {s : State} (h : s.Ok) : Out.Ok (execGroupRetire group s) :=
  event_ok (State.tryRetireGroup_ok h)

theorem execGridEnd_ok {grid : Nat} {s : State} (h : s.Ok) : Out.Ok (execGridEnd grid s) :=
  event_ok (State.tryEndGrid_ok h)

end Sys2Proof.Machine
end

section
/-! PROOFS. That memory stays in canonical form: system registers, partitions and the uniform words. -/

namespace Sys2Proof.Machine

theorem State.popNotice_ok {s : State} {t : ThreadId} (h : s.Ok) : (s.popNotice t).1.Ok := by
  unfold State.popNotice
  split
  · split
    · dsimp only
      exact h
    · dsimp only
      exact ok_of_eq h rfl rfl
  · split
    · dsimp only
      exact h
    · dsimp only
      exact modPart_ok h

theorem State.readSr_ok {s : State} {t : ThreadId} {n : Nat} (h : s.Ok) : (s.readSr t n).1.Ok := by
  unfold State.readSr
  split
  · exact popNotice_ok h
  · split
    · dsimp only
      exact h
    · dsimp only
      exact h

theorem State.writeFpctl_ok {s : State} {t : ThreadId} {v : W64} (h : s.Ok) : (s.writeFpctl t v).Ok := by
  unfold State.writeFpctl
  extract_lets s1
  split
  · split
    · exact setGroup_ok (setUni_ok h)
    · exact setUni_ok h
  · exact setUni_ok h

theorem State.dropPage_ok {s : State} {part vpn asid : Nat} (h : s.Ok) : (s.dropPage part vpn asid).Ok :=
  ok_of_eq h rfl rfl

theorem State.dropAsid_ok {s : State} {part asid : Nat} (h : s.Ok) : (s.dropAsid part asid).Ok :=
  ok_of_eq h rfl rfl

theorem State.dropAllAsid_ok {s : State} {part : Nat} (h : s.Ok) : (s.dropAllAsid part).Ok :=
  ok_of_eq h rfl rfl

theorem State.writeTlbinv_ok {s : State} {part : Nat} {v : W64} (h : s.Ok) : (s.writeTlbinv part v).Ok := by
  unfold State.writeTlbinv
  extract_lets vpn asid
  split
  · exact dropAllAsid_ok h
  · split
    · exact dropAsid_ok h
    · exact dropPage_ok h

theorem State.writeSr_ok {s t : State} {th : ThreadId} {n : Nat} {v : W64} (e : s.writeSr th n v = some t) (h : s.Ok) : t.Ok := by
  unfold State.writeSr at e
  dsimp only at e
  split at e
  · split at e
    · cases e; exact writeFpctl_ok h
    · cases e
  · cases e; exact setUni_ok h
  · cases e
    split
    · exact setTeam_ok h
    · exact h
  · cases e
    split
    · exact setHmask_ok h
    · exact h
  · cases e
    split
    · exact setGroup_ok h
    · exact h
  · split at e
    · cases e
    · cases e; exact writeTlbinv_ok h
  · split at e
    · cases e
    · cases e; exact ctxReq_ok h
  · cases e; exact modPart_ok h
  · cases e; exact modPart_ok h
  · cases e; exact ok_of_eq h rfl rfl
  · cases e; exact ok_of_eq h rfl rfl
  · cases e; exact ok_of_eq h rfl rfl
  · exact writePwrctl_ok e h
  · cases e; exact h

theorem execSr_ok {t : Bool} {d a : BitVec 6} {n : BitVec 12} {s : State} (h : s.Ok) : Out.Ok (execSr t d a n s) := by
  refine issue_ok h fun th u hu => ?_
  dsimp only
  split
  · split
    · rename_i e
      exact State.writeSr_ok e hu
    · trivial
  · exact State.putW_ok (State.readSr_ok hu)

theorem execRegisterWrite_ok {n : BitVec 12} {v : W64} {s : State} (h : s.Ok) : Out.Ok (execRegisterWrite n v s) := by
  refine event_ok ?_
  split
  · exact State.ok_getD (fun _ e => State.writeSr_ok e h) h
  · exact h

theorem execFpctlReseed_keepsOk {v : W64} {s : State} (h : s.Ok) : Out.Ok (execFpctlReseed v s) := by
  refine event_ok ?_
  split
  · exact State.writeFpctl_ok h
  · exact h

theorem execTlbinvPage_ok {part : Nat} {vpn : BitVec 36} {asid : BitVec 16} {s : State} (h : s.Ok) :
    Out.Ok (execTlbinvPage part vpn asid s) :=
  event_ok (State.dropPage_ok h)

theorem execTlbinvAllpages_ok {part : Nat} {asid : BitVec 16} {s : State} (h : s.Ok) : Out.Ok (execTlbinvAllpages part asid s) :=
  event_ok (State.dropAsid_ok h)

theorem execTlbinvAllasid_ok {part : Nat} {s : State} (h : s.Ok) : Out.Ok (execTlbinvAllasid part s) :=
  event_ok (State.dropAllAsid_ok h)

theorem execNoticePop_ok {part : Nat} {d : BitVec 6} {s : State} (h : s.Ok) : Out.Ok (execNoticePop part d s) := by
  unfold execNoticePop
  extract_lets r
  have hr : r.1.Ok := State.popNotice_ok h
  exact event_ok (State.putW_ok hr)

theorem State.yieldThread_ok {s : State} {t : ThreadId} (h : s.Ok) : (s.yieldThread t).Ok := by
  unfold State.yieldThread
  split
  · exact setGroup_ok h
  · exact setScalar_ok h

theorem execSysYield_ok {t : Bool} {s : State} (h : s.Ok) : Out.Ok (execSysYield t s) := by
  unfold execSysYield
  refine issue_ok h fun th u hu => ?_
  split
  · exact State.yieldThread_ok hu
  · exact hu

theorem execSysWaiti_ok {t : Bool} {d a : BitVec 6} {s : State} (h : s.Ok) : Out.Ok (execSysWaiti t d a s) := by
  unfold execSysWaiti
  refine issue_ok h fun th u hu => ?_
  split
  · exact State.putW_ok hu
  · split
    · exact State.putW_ok hu
    · exact hu

theorem execWaitiTimeReached_ok {th : ThreadId} {s : State} (h : s.Ok) : Out.Ok (execWaitiTimeReached th s) := by
  unfold execWaitiTimeReached
  split
  · split
    · split
      · exact execSysWaiti_ok (State.ok_of_eq h rfl rfl)
      · exact event_ok h
    · exact event_ok h
  · exact event_ok h

theorem State.codefence_ok {s : State} {t : ThreadId} (h : s.Ok) : (s.codefence t).Ok :=
  ok_of_eq h rfl rfl

theorem execSysCodefence_ok {t : Bool} {s : State} (h : s.Ok) : Out.Ok (execSysCodefence t s) :=
  issue_ok h fun _ _ hu => State.codefence_ok hu

theorem execSysVdist_ok {t : Bool} {d a b : BitVec 6} {s : State} (h : s.Ok) : Out.Ok (execSysVdist t d a b s) := by
  unfold execSysVdist
  refine issue_ok h fun th u hu => ?_
  extract_lets v
  exact State.putW_ok hu

theorem execSysVdie_ok {t : Bool} {d a : BitVec 6} {s : State} (h : s.Ok) : Out.Ok (execSysVdie t d a s) := by
  unfold execSysVdie
  refine issue_ok h fun th u hu => ?_
  extract_lets v
  exact State.putW_ok hu

theorem State.scrub_ok {s : State} {chans : List Nat} (h : s.Ok) : (s.scrub chans).Ok := by
  obtain ⟨hm, hp⟩ := (Bool.and_eq_true_iff ..).1 h
  exact (Bool.and_eq_true_iff ..).2 ⟨filter_wf _ hm, hp⟩

theorem State.purgePart_ok {s : State} {part : Nat} (h : s.Ok) : (s.purgePart part).Ok := by
  unfold State.purgePart
  extract_lets team block cpt
  exact ok_of_eq h rfl rfl

theorem State.createPart_ok {s : State} {part base logk : Nat} {key : BitVec 512} (h : s.Ok) :
    (s.createPart part base logk key).Ok := by
  unfold State.createPart
  extract_lets s1 chans held d0 d1 d2 p
  have h1 : s1.Ok := purgePart_ok h
  have h2 : d2.2.Ok := (memStep_draw _).ok ((memStep_draw _).ok ((memStep_draw _).ok h1))
  clear_value d2 p
  exact ok_of_eq (scrub_ok h2) rfl rfl

theorem execPartitionCreation_ok {part base logk : Nat} {key : BitVec 512} {s : State} (h : s.Ok) :
    Out.Ok (execPartitionCreation part base logk key s) := by
  unfold execPartitionCreation
  extract_lets may
  refine event_ok ?_
  split
  · exact State.createPart_ok h
  · exact h

theorem State.moveSlices_ok {s : State} {p q : Part} (h : s.Ok) : (s.moveSlices p q).Ok := by
  unfold State.moveSlices
  extract_lets here
  exact ok_foldl (fun _ _ ht => (memStep_sliceEvict _ _).ok ht) h _

theorem State.finishBorder_ok {s t : State} {part : Nat} {p : Part} {b : Border} (e : s.finishBorder part p b = some t) (h : s.Ok) :
    t.Ok := by
  unfold State.finishBorder at e
  dsimp only at e
  split at e
  · cases e
  · cases e
    refine ok_foldl (fun t c ht => ?_) (retestFits_ok (notify_ok (modPart_ok (scrub_ok (moveSlices_ok
      (ok_foldl (fun _ _ ht => (memStep_flushStream _ _).ok ((memStep_evictAll _ _ _).ok ht)) h _)))))) _
    split
    · exact restoreCtx_ok ht
    · exact ht

theorem State.takeBlock_ok {s : State} {recv base logk : Nat} (h : s.Ok) : (s.takeBlock recv base logk).Ok :=
  retestFits_ok (modPart_ok h)

theorem State.advanceBorder_ok {s : State} {part : Nat} (h : s.Ok) : (s.advanceBorder part).Ok := by
  unfold State.advanceBorder
  split
  · exact h
  · split
    · exact h
    · split
      · exact h
      · split
        · exact h
        · rename_i e
          split
          · exact takeBlock_ok (finishBorder_ok e h)
          · exact finishBorder_ok e h

theorem State.startBorder_ok {s : State} {part : Nat} {b : Border} (h : s.Ok) : (s.startBorder part b).Ok :=
  modPart_ok h

theorem execBorderChange_ok {part base logk deadline : Nat} {pagesMigrated : Bool} {s : State} (h : s.Ok) :
    Out.Ok (execBorderChange part base logk deadline pagesMigrated s) := by
  unfold execBorderChange
  split
  · exact event_ok h
  · split
    · exact event_ok (State.advanceBorder_ok (State.modPart_ok h))
    · split
      · exact event_ok (State.advanceBorder_ok (State.startBorder_ok h))
      · exact event_ok (State.notify_ok h)

theorem execBorderDeadline_ok {part : Nat} {s : State} (h : s.Ok) : Out.Ok (execBorderDeadline part s) := by
  unfold execBorderDeadline
  split
  · exact event_ok h
  · split
    · exact event_ok h
    · split
      · exact event_ok h
      · extract_lets hit
        refine event_ok (State.advanceBorder_ok (State.ok_foldl (fun t x ht => ?_) h _))
        split
        · exact State.modCtx_ok (State.raiseRequest_ok ht)
        · exact ht

theorem execPartitionWindowEnd_ok {short rich base logk : Nat} {s : State} (h : s.Ok) :
    Out.Ok (execPartitionWindowEnd short rich base logk s) := by
  unfold execPartitionWindowEnd
  split
  · split
    · exact event_ok (State.advanceBorder_ok h)
    · split
      · exact event_ok h
      · extract_lets s1
        have hs1 : s1.Ok := State.modPart_ok h
        split
        · exact event_ok (State.advanceBorder_ok (State.startBorder_ok hs1))
        · split
          · exact event_ok h
          · exact event_ok (State.modPart_ok hs1)
  · exact event_ok h

theorem State.renumber_ok {s : State} {old new : Nat} (h : s.Ok) : (s.renumber old new).Ok := by
  unfold State.renumber
  extract_lets ctxs saved mv callers
  exact ok_of_eq h rfl rfl

theorem State.swapFunction_ok {s : State} {part func : Nat} (h : s.Ok) : (s.swapFunction part func).Ok := by
  unfold State.swapFunction
  extract_lets p out inc s1 away fresh f s2 here s3 back
  have hs1 : s1.Ok := (memStep_evictAll _ _ _).ok ((memStep_draw _).ok h)
  have hhere : here.Ok := renumber_ok (renumber_ok hs1)
  have hback : back.Ok := ok_of_eq hhere rfl rfl
  exact ok_foldl (fun _ _ ht => restoreCtx_ok ht) hback _

theorem State.advanceSwitch_ok {s : State} {part func : Nat} (h : s.Ok) : (s.advanceSwitch part func).Ok := by
  unfold State.advanceSwitch
  split
  · exact h
  · split
    · exact ok_foldl (fun _ _ ht => modCtx_ok (raiseRequest_ok ht)) h _
    · split
      · exact swapFunction_ok h
      · exact h

theorem execFunctionSwitch_ok {part func : Nat} {s : State} (h : s.Ok) : Out.Ok (execFunctionSwitch part func s) := by
  unfold execFunctionSwitch
  split
  · exact event_ok h
  · extract_lets elsewhere
    split
    · exact event_ok h
    · exact event_ok (State.advanceSwitch_ok (State.modPart_ok h))

theorem execServiceImageLoad_ok {part : Nat} {entry : BitVec 48} {s : State} (h : s.Ok) :
    Out.Ok (execServiceImageLoad part entry s) :=
  event_ok (State.handImage_ok (State.modPart_ok h))

theorem State.configPart_ok {s : State} {part lease pdl ntags ovfgen target : Nat} {classen : BitVec 4} (h : s.Ok) :
    (s.configPart part lease pdl ntags ovfgen target classen).Ok := by
  unfold State.configPart
  extract_lets free s1
  have hs1 : s1.Ok := modPart_ok h
  exact ok_of_eq hs1 rfl rfl

theorem State.bindDies_ok {s : State} {part ctx : Nat} {tab : List Byte} (h : s.Ok) : (s.bindDies part ctx tab).Ok := by
  unfold State.bindDies
  extract_lets ph
  split
  · exact (memStep_siteWrite _ _ _ _ _ _ _).ok ((memStep_evictSector _ _ _).ok h)
  · exact h

theorem State.haltPart_ok {s : State} {part : Nat} {erase : Bool} (h : s.Ok) : (s.haltPart part erase).Ok := by
  unfold State.haltPart
  extract_lets team p cpt
  exact ok_of_eq h rfl rfl

theorem execSecurityAlarm_ok {die : Nat} {tamper : Bool} {s : State} (h : s.Ok) : Out.Ok (execSecurityAlarm die tamper s) := by
  unfold execSecurityAlarm
  split
  · exact event_ok h
  · extract_lets hit s1 r training
    have hs1 : s1.Ok := State.ok_foldl (fun _ _ ht => State.haltPart_ok ht) h _
    exact event_ok (State.ok_of_eq hs1 rfl rfl)

theorem State.thermalHalt_ok {s : State} {tj : BitVec 8} (h : s.Ok) : (s.thermalHalt tj).Ok := by
  unfold State.thermalHalt
  extract_lets s1
  have hs1 : s1.Ok := ok_foldl (fun _ _ ht => haltPart_ok ht) h _
  exact ok_of_eq hs1 rfl rfl

theorem execThermalStep_ok {tj : BitVec 8} {s : State} (h : s.Ok) : Out.Ok (execThermalStep tj s) := by
  unfold execThermalStep
  extract_lets s1 cur want hot due back next therm s2
  have hs1 : s1.Ok := State.syncTimers_ok h
  refine event_ok ?_
  split
  · exact State.thermalHalt_ok (State.refresh_ok (State.ok_of_eq hs1 rfl rfl))
  · exact State.refresh_ok (State.ok_of_eq hs1 rfl rfl)

theorem execThermalTrip_ok {tj : BitVec 8} {s : State} (h : s.Ok) : Out.Ok (execThermalTrip tj s) := by
  unfold execThermalTrip
  split
  · exact event_ok h
  · exact event_ok (State.thermalHalt_ok (State.ok_of_eq h rfl rfl))

theorem takeBranch_ok {s : State} {a : W64} (h : s.Ok) : (takeBranch s a).Ok := by
  unfold takeBranch
  split
  · exact h
  · trivial

theorem execBra_ok {k : BitVec 3} {n : Bool} {o : BitVec 21} {s : State} (h : s.Ok) : Out.Ok (execBra k n o s) := by
  unfold execBra
  refine issue_ok h fun th u hu => ?_
  split
  · exact takeBranch_ok hu
  · exact hu

theorem execCall_ok {o : BitVec 21} {s : State} (h : s.Ok) : Out.Ok (execCall o s) :=
  issue_ok h fun _ _ hu => takeBranch_ok (State.putW_ok hu)

theorem padTarget_ok {s : State} {t : ThreadId} {a : Addr} {label : BitVec 12} (h : s.Ok) : (padTarget s t a label).Ok := by
  unfold padTarget
  split
  · trivial
  · split
    · trivial
    · trivial
    · rename_i e
      split
      · trivial
      · split
        · exact State.ok_fst e ((State.walkStep_fetchWord _ _ _).ok h)
        · trivial

theorem execJmpr_ok {t : Bool} {a : BitVec 6} {l : BitVec 12} {s : State} (h : s.Ok) : Out.Ok (execJmpr t a l s) := by
  unfold execJmpr
  refine issue_ok h fun th u hu => ?_
  extract_lets x
  split
  · trivial
  · split
    · trivial
    · split
      · exact hu
      · exact padTarget_ok hu

theorem execJmpt_ok {t : Bool} {a : BitVec 6} {n : BitVec 12} {s : State} (h : s.Ok) : Out.Ok (execJmpt t a n s) := by
  unfold execJmpt
  refine issue_ok h fun th u hu => ?_
  extract_lets pc
  split
  · trivial
  · trivial
  · rename_i e
    extract_lets x
    split
    · trivial
    · split
      · exact State.ok_fst e ((State.walkStep_fetchWord _ _ _).ok hu)
      · split
        · trivial
        · trivial
        · rename_i e1
          extract_lets tgt
          split
          · trivial
          · exact padTarget_ok (State.ok_fst e1 ((State.walkStep_fetchWord _ _ _).ok (State.ok_fst e ((State.walkStep_fetchWord _ _ _).ok hu))))

theorem execLpad_ok {t : Bool} {l : BitVec 12} {s : State} (h : s.Ok) : Out.Ok (execLpad t l s) :=
  issue_ok h fun _ _ hu => hu

theorem execImmx_ok {imm : BitVec 25} {s : State} (h : s.Ok) : Out.Ok (execImmx imm s) := by
  unfold execImmx
  refine issue_ok h fun th u hu => ?_
  extract_lets pc
  split
  · trivial
  · trivial
  · rename_i e
    split
    · split
      · exact State.ok_of_eq (State.setPc_ok (State.ok_fst e ((State.walkStep_fetchWord _ _ _).ok hu))) rfl rfl
      · trivial
    · trivial

theorem State.uniFloat_ok {s : State} {t : ThreadId} {d : BitVec 6} {x : W64 × Flags} (h : s.Ok) : (s.uniFloat t d x).Ok := by
  unfold State.uniFloat
  split
  · trivial
  · exact raiseFlags_ok (putW_ok h)

theorem State.uniFloatBin_ok {s : State} {t : ThreadId} {d a b : BitVec 6} {bs : BitVec 2} {p : Bool} {r : BitVec 3} {f : Fmt → Rm → Bool → Nat → Nat → Nat × Flags} (h : s.Ok) :
    (s.uniFloatBin t d a b bs p r f).Ok := by
  unfold State.uniFloatBin
  extract_lets u
  exact uniFloat_ok h

theorem execUfadd_ok {t : Bool} {d a b : BitVec 6} {bs : BitVec 2} {p : Bool} {r : BitVec 3} {s : State} (h : s.Ok) :
    Out.Ok (execUfadd t d a b bs p r s) :=
  issue_ok h fun _ _ hu => State.uniFloatBin_ok hu

theorem execUfsub_ok {t : Bool} {d a b : BitVec 6} {bs : BitVec 2} {p : Bool} {r : BitVec 3} {s : State} (h : s.Ok) :
    Out.Ok (execUfsub t d a b bs p r s) :=
  issue_ok h fun _ _ hu => State.uniFloatBin_ok hu

theorem execUfmul_ok {t : Bool} {d a b : BitVec 6} {bs : BitVec 2} {p : Bool} {r : BitVec 3} {s : State} (h : s.Ok) :
    Out.Ok (execUfmul t d a b bs p r s) :=
  issue_ok h fun _ _ hu => State.uniFloatBin_ok hu

theorem execUffma_ok {t : Bool} {d a b : BitVec 6} {bs : BitVec 2} {p : Bool} {r : BitVec 3} {s : State} (h : s.Ok) :
    Out.Ok (execUffma t d a b bs p r s) :=
  issue_ok h fun _ _ hu => State.uniFloatBin_ok hu

theorem execUfdiv_ok {t : Bool} {d a b : BitVec 6} {bs : BitVec 2} {p : Bool} {r : BitVec 3} {s : State} (h : s.Ok) :
    Out.Ok (execUfdiv t d a b bs p r s) :=
  issue_ok h fun _ _ hu => State.uniFloatBin_ok hu

theorem execUfun_ok {t : Bool} {d a f : BitVec 6} {p : Bool} {r : BitVec 3} {s : State} (h : s.Ok) :
    Out.Ok (execUfun t d a f p r s) := by
  unfold execUfun
  refine issue_ok h fun th u hu => ?_
  extract_lets u1
  exact State.uniFloat_ok hu

theorem execUfcmp_ok {t : Bool} {k : BitVec 3} {a b : BitVec 6} {bs : BitVec 2} {p : Bool} {c : BitVec 3} {s : State} (h : s.Ok) :
    Out.Ok (execUfcmp t k a b bs p c s) := by
  unfold execUfcmp
  refine issue_ok h fun th u hu => ?_
  extract_lets u1 x
  split
  · trivial
  · exact State.raiseFlags_ok (State.putK_ok hu)

theorem execUfcvt_ok {t : Bool} {d a f : BitVec 6} {r : BitVec 3} {s : State} (h : s.Ok) : Out.Ok (execUfcvt t d a f r s) := by
  unfold execUfcvt
  refine issue_ok h fun th u hu => ?_
  extract_lets u1
  exact State.uniFloat_ok hu

theorem State.uniBin_ok {s : State} {t : ThreadId} {d a b : BitVec 6} {bs : BitVec 2} {f : W64 → W64 → W64} (h : s.Ok) :
    (s.uniBin t d a b bs f).Ok :=
  putW_ok h

theorem State.uniUn_ok {s : State} {t : ThreadId} {d a : BitVec 6} {f : W64 → W64} (h : s.Ok) : (s.uniUn t d a f).Ok :=
  putW_ok h

theorem State.uniSum_ok {s : State} {t : ThreadId} {d a b : BitVec 6} {bs : BitVec 2} {w : Bool} {f : BitVec 3} {op : ℤ → ℤ → ℤ} (h : s.Ok) :
    (s.uniSum t d a b bs w f op).Ok := by
  unfold State.uniSum
  extract_lets r
  exact raiseFlags_ok (putW_ok h)

theorem execUadd_ok {t : Bool} {d a b : BitVec 6} {bs : BitVec 2} {w : Bool} {f : BitVec 3} {s : State} (h : s.Ok) :
    Out.Ok (execUadd t d a b bs w f s) :=
  issue_ok h fun _ _ hu => State.uniSum_ok hu

theorem execUsub_ok {t : Bool} {d a b : BitVec 6} {bs : BitVec 2} {w : Bool} {f : BitVec 3} {s : State} (h : s.Ok) :
    Out.Ok (execUsub t d a b bs w f s) :=
  issue_ok h fun _ _ hu => State.uniSum_ok hu

theorem execUmul_ok {t : Bool} {d a b : BitVec 6} {bs : BitVec 2} {w : Bool} {s : State} (h : s.Ok) :
    Out.Ok (execUmul t d a b bs w s) :=
  issue_ok h fun _ _ hu => State.uniBin_ok hu

theorem execUmulh_ok {t : Bool} {d a b : BitVec 6} {bs : BitVec 2} {w u : Bool} {s : State} (h : s.Ok) :
    Out.Ok (execUmulh t d a b bs w u s) :=
  issue_ok h fun _ _ hu => State.uniBin_ok hu

theorem execUdiv_ok {t : Bool} {d a b : BitVec 6} {bs : BitVec 2} {w u : Bool} {s : State} (h : s.Ok) :
    Out.Ok (execUdiv t d a b bs w u s) :=
  issue_ok h fun _ _ hu => State.uniBin_ok hu

theorem execUrem_ok {t : Bool} {d a b : BitVec 6} {bs : BitVec 2} {w u : Bool} {s : State} (h : s.Ok) :
    Out.Ok (execUrem t d a b bs w u s) :=
  issue_ok h fun _ _ hu => State.uniBin_ok hu

theorem execUand_ok {t : Bool} {d a b : BitVec 6} {bs : BitVec 2} {s : State} (h : s.Ok) : Out.Ok (execUand t d a b bs s) :=
  issue_ok h fun _ _ hu => State.uniBin_ok hu

theorem execUor_ok {t : Bool} {d a b : BitVec 6} {bs : BitVec 2} {s : State} (h : s.Ok) : Out.Ok (execUor t d a b bs s) :=
  issue_ok h fun _ _ hu => State.uniBin_ok hu

theorem execUxor_ok {t : Bool} {d a b : BitVec 6} {bs : BitVec 2} {s : State} (h : s.Ok) : Out.Ok (execUxor t d a b bs s) :=
  issue_ok h fun _ _ hu => State.uniBin_ok hu

theorem execUshl_ok {t : Bool} {d a b : BitVec 6} {bs : BitVec 2} {w : Bool} {s : State} (h : s.Ok) :
    Out.Ok (execUshl t d a b bs w s) :=
  issue_ok h fun _ _ hu => State.uniBin_ok hu

theorem execUshr_ok {t : Bool} {d a b : BitVec 6} {bs : BitVec 2} {w u : Bool} {s : State} (h : s.Ok) :
    Out.Ok (execUshr t d a b bs w u s) :=
  issue_ok h fun _ _ hu => State.uniBin_ok hu

theorem execUmin_ok {t : Bool} {d a b : BitVec 6} {bs : BitVec 2} {u : Bool} {s : State} (h : s.Ok) :
    Out.Ok (execUmin t d a b bs u s) :=
  issue_ok h fun _ _ hu => State.uniBin_ok hu

theorem execUmax_ok {t : Bool} {d a b : BitVec 6} {bs : BitVec 2} {u : Bool} {s : State} (h : s.Ok) :
    Out.Ok (execUmax t d a b bs u s) :=
  issue_ok h fun _ _ hu => State.uniBin_ok hu

theorem execUcmp_ok {t : Bool} {k : BitVec 3} {a b : BitVec 6} {bs : BitVec 2} {c : BitVec 4} {s : State} (h : s.Ok) :
    Out.Ok (execUcmp t k a b bs c s) :=
  issue_ok h fun _ _ hu => State.putK_ok hu

theorem execUsel_ok {t : Bool} {d a b : BitVec 6} {bs : BitVec 2} {k : BitVec 3} {s : State} (h : s.Ok) :
    Out.Ok (execUsel t d a b bs k s) :=
  issue_ok h fun _ _ hu => State.uniBin_ok hu

theorem execUun_ok {t : Bool} {d a f : BitVec 6} {w : Bool} {s : State} (h : s.Ok) : Out.Ok (execUun t d a f w s) :=
  issue_ok h fun _ _ hu => State.uniUn_ok hu

theorem execUaddi_ok {t : Bool} {d a : BitVec 6} {imm : BitVec 12} {s : State} (h : s.Ok) : Out.Ok (execUaddi t d a imm s) :=
  issue_ok h fun _ _ hu => State.uniUn_ok hu

theorem execUandi_ok {t : Bool} {d a : BitVec 6} {imm : BitVec 12} {s : State} (h : s.Ok) : Out.Ok (execUandi t d a imm s) :=
  issue_ok h fun _ _ hu => State.uniUn_ok hu

theorem execUori_ok {t : Bool} {d a : BitVec 6} {imm : BitVec 12} {s : State} (h : s.Ok) : Out.Ok (execUori t d a imm s) :=
  issue_ok h fun _ _ hu => State.uniUn_ok hu

theorem execUxori_ok {t : Bool} {d a : BitVec 6} {imm : BitVec 12} {s : State} (h : s.Ok) : Out.Ok (execUxori t d a imm s) :=
  issue_ok h fun _ _ hu => State.uniUn_ok hu

theorem execUshli_ok {t : Bool} {d a imm : BitVec 6} {s : State} (h : s.Ok) : Out.Ok (execUshli t d a imm s) :=
  issue_ok h fun _ _ hu => State.uniUn_ok hu

theorem execUshri_ok {t : Bool} {d a : BitVec 6} {x : Bool} {imm : BitVec 6} {s : State} (h : s.Ok) :
    Out.Ok (execUshri t d a x imm s) :=
  issue_ok h fun _ _ hu => State.uniUn_ok hu

theorem execUmovi_ok {t : Bool} {d : BitVec 6} {imm : BitVec 18} {s : State} (h : s.Ok) : Out.Ok (execUmovi t d imm s) :=
  issue_ok h fun _ _ hu => State.putW_ok hu

theorem execUcmpi_ok {t : Bool} {k : BitVec 3} {a : BitVec 6} {c : BitVec 4} {imm : BitVec 8} {s : State} (h : s.Ok) :
    Out.Ok (execUcmpi t k a c imm s) :=
  issue_ok h fun _ _ hu => State.putK_ok hu

end Sys2Proof.Machine
end

section
/-! PROOFS. That memory stays in canonical form: the step. -/

namespace Sys2Proof.Machine

theorem exec_ok {i : Instr} {s : State} (h : s.Ok) : Out.Ok (exec i s) := by
  cases i with
  | add => exact execAdd_ok h
  | sub => exact execSub_ok h
  | mul => exact execMul_ok h
  | mulhi => exact execMulhi_ok h
  | imad => exact execImad_ok h
  | and => exact execAnd_ok h
  | or => exact execOr_ok h
  | xor => exact execXor_ok h
  | shl => exact execShl_ok h
  | shr => exact execShr_ok h
  | min => exact execMin_ok h
  | max => exact execMax_ok h
  | icmp => exact execIcmp_ok h
  | sel => exact execSel_ok h
  | bfx => exact execBfx_ok h
  | bfi => exact execBfi_ok h
  | iun => exact execIun_ok h
  | addi => exact execAddi_ok h
  | andi => exact execAndi_ok h
  | ori => exact execOri_ok h
  | xori => exact execXori_ok h
  | shli => exact execShli_ok h
  | shri => exact execShri_ok h
  | movi => exact execMovi_ok h
  | icmpi => exact execIcmpi_ok h
  | fadd => exact execFadd_ok h
  | fsub => exact execFsub_ok h
  | fmul => exact execFmul_ok h
  | ffma => exact execFfma_ok h
  | fmin => exact execFmin_ok h
  | fmax => exact execFmax_ok h
  | fcmp => exact execFcmp_ok h
  | sfu => exact execSfu_ok h
  | cvt => exact execCvt_ok h
  | hadd2 => exact execHadd2_ok h
  | hmul2 => exact execHmul2_ok h
  | hfma2 => exact execHfma2_ok h
  | shflPick => exact execShflPick_ok h
  | shflSwap => exact execShflSwap_ok h
  | shflBack => exact execShflBack_ok h
  | shflFwd => exact execShflFwd_ok h
  | vote => exact execVote_ok h
  | redux => exact execRedux_ok h
  | contribution => exact execContribution_ok h
  | scan => exact execScan_ok h
  | cmpx => exact execCmpx_ok h
  | jpt => exact execJpt_ok h
  | brd => exact execBrd_ok h
  | regang => exact execRegang_ok h
  | exit => exact execExit_ok h
  | bar => exact execBar_ok h
  | ld => exact execLd_ok h
  | st => exact execSt_ok h
  | lds => exact execLds_ok h
  | sts => exact execSts_ok h
  | ldp => exact execLdp_ok h
  | stp => exact execStp_ok h
  | atom => exact execAtom_ok h
  | red => exact execRed_ok h
  | xst => exact execXst_ok h
  | svc => exact execSvc_ok h
  | uadd => exact execUadd_ok h
  | usub => exact execUsub_ok h
  | umul => exact execUmul_ok h
  | umulh => exact execUmulh_ok h
  | udiv => exact execUdiv_ok h
  | urem => exact execUrem_ok h
  | uand => exact execUand_ok h
  | uor => exact execUor_ok h
  | uxor => exact execUxor_ok h
  | ushl => exact execUshl_ok h
  | ushr => exact execUshr_ok h
  | umin => exact execUmin_ok h
  | umax => exact execUmax_ok h
  | ucmp => exact execUcmp_ok h
  | usel => exact execUsel_ok h
  | uun => exact execUun_ok h
  | uaddi => exact execUaddi_ok h
  | uandi => exact execUandi_ok h
  | uori => exact execUori_ok h
  | uxori => exact execUxori_ok h
  | ushli => exact execUshli_ok h
  | ushri => exact execUshri_ok h
  | umovi => exact execUmovi_ok h
  | ucmpi => exact execUcmpi_ok h
  | ufadd => exact execUfadd_ok h
  | ufsub => exact execUfsub_ok h
  | ufmul => exact execUfmul_ok h
  | uffma => exact execUffma_ok h
  | ufdiv => exact execUfdiv_ok h
  | ufun => exact execUfun_ok h
  | ufcmp => exact execUfcmp_ok h
  | ufcvt => exact execUfcvt_ok h
  | uld => exact execUld_ok h
  | ust => exact execUst_ok h
  | uamo => exact execUamo_ok h
  | fence => exact execFence_ok h
  | cache => exact execCache_ok h
  | jwr => exact execJwr_ok h
  | jrd => exact execJrd_ok h
  | jrel => exact execJrel_ok h
  | bra => exact execBra_ok h
  | call => exact execCall_ok h
  | jmpr => exact execJmpr_ok h
  | jmpt => exact execJmpt_ok h
  | lpad => exact execLpad_ok h
  | spawn => exact execSpawn_ok h
  | join => exact execJoin_ok h
  | sr => exact execSr_ok h
  | cpy => exact execCpy_ok h
  | gather => exact execGather_ok h
  | binscat => exact execBinscat_ok h
  | bclose => exact execBclose_ok h
  | mwld => exact execMwld_ok h
  | mma => exact execMma_ok h
  | maccZero => exact execMaccZero_ok h
  | maccLoad => exact execMaccLoad_ok h
  | maccStore => exact execMaccStore_ok h
  | maccAdd => exact execMaccAdd_ok h
  | maccScale => exact execMaccScale_ok h
  | maccRow => exact execMaccRow_ok h
  | maccClear => exact execMaccClear_ok h
  | mopfence => exact execMopfence_ok h
  | cbload => exact execCbload_ok h
  | meet => exact execMeet_ok h
  | ltagAlloc => exact execLtagAlloc_ok h
  | ltagFree => exact execLtagFree_ok h
  | strmOpen => exact execStrmOpen_ok h
  | strmStep => exact execStrmStep_ok h
  | strmScan => exact execStrmScan_ok h
  | strmSave => exact execStrmSave_ok h
  | strmLoad => exact execStrmLoad_ok h
  | strmClose => exact execStrmClose_ok h
  | strmQuery => exact execStrmQuery_ok h
  | xexp => exact execXexp_ok h
  | xbar => exact execXbar_ok h
  | xstat => exact execXstat_ok h
  | hailSend => exact execHailSend_ok h
  | hailMask => exact execHailMask_ok h
  | hailTake => exact execHailTake_ok h
  | hailRet => exact execHailRet_ok h
  | hailPend => exact execHailPend_ok h
  | hailPerm => exact execHailPerm_ok h
  | sysTrap => exact execSysTrap_ok h
  | sysSvc => exact execSysSvc_ok h
  | sysEret => exact execSysEret_ok h
  | sysBkpt => exact execSysBkpt_ok h
  | sysYield => exact execSysYield_ok h
  | sysWaiti => exact execSysWaiti_ok h
  | sysHalt => exact execSysHalt_ok h
  | sysVdist => exact execSysVdist_ok h
  | sysVdie => exact execSysVdie_ok h
  | sysFmap => exact execSysFmap_ok h
  | sysFretry => exact execSysFretry_ok h
  | sysFskip => exact execSysFskip_ok h
  | sysFabort => exact execSysFabort_ok h
  | sysCtxsw => exact execSysCtxsw_ok h
  | sysCtxld => exact execSysCtxld_ok h
  | sysCodefence => exact execSysCodefence_ok h
  | immx => exact execImmx_ok h
  | fpctlReseed => exact execFpctlReseed_keepsOk h
  | tlbinvPage => exact execTlbinvPage_ok h
  | tlbinvAllpages => exact execTlbinvAllpages_ok h
  | tlbinvAllasid => exact execTlbinvAllasid_ok h
  | ctxreqRequest => exact execCtxreqRequest_ok h
  | ctxreqNow => exact execCtxreqNow_ok h
  | ctxreqDestroy => exact execCtxreqDestroy_ok h
  | noticePop => exact execNoticePop_ok h
  | pwrctlPoint => exact execPwrctlPoint_ok h
  | pwrctlGate => exact execPwrctlGate_ok h
  | registerWrite => exact execRegisterWrite_ok h
  | gateTest => exact execGateTest_ok h
  | placementStep => exact execPlacementStep_ok h
  | groupRetire => exact execGroupRetire_ok h
  | gridEnd => exact execGridEnd_ok h
  | loadReply => exact execLoadReply_ok h
  | sliceAtomic => exact execSliceAtomic_ok h
  | dirtyWriteback => exact execDirtyWriteback_ok h
  | streamBufferFlush => exact execStreamBufferFlush_ok h
  | accumulatorRotate => exact execAccumulatorRotate_ok h
  | xstoreDelivery => exact execXstoreDelivery_ok h
  | cpyCollectiveStart => exact execCpyCollectiveStart_ok h
  | gatherRun => exact execGatherRun_ok h
  | binscatRun => exact execBinscatRun_ok h
  | batchComplete => exact execBatchComplete_ok h
  | weightLoad => exact execWeightLoad_ok h
  | mmaTurn => exact execMmaTurn_ok h
  | maccTurn => exact execMaccTurn_ok h
  | cbloadTurn => exact execCbloadTurn_ok h
  | meetTurn => exact execMeetTurn_ok h
  | landingArrival => exact execLandingArrival_ok h
  | landingTimeout => exact execLandingTimeout_ok h
  | strmTurn => exact execStrmTurn_ok h
  | hailAccept => exact execHailAccept_ok h
  | hostHailMessage => exact execHostHailMessage_ok h
  | unpark => exact execUnpark_ok h
  | preemptDeadline => exact execPreemptDeadline_ok h
  | contextSave => exact execContextSave_ok h
  | contextRestore => exact execContextRestore_ok h
  | functionSwitch => exact execFunctionSwitch_ok h
  | serviceImageLoad => exact execServiceImageLoad_ok h
  | borderChange => exact execBorderChange_ok h
  | borderDeadline => exact execBorderDeadline_ok h
  | partitionWindowEnd => exact execPartitionWindowEnd_ok h
  | securityAlarm => exact execSecurityAlarm_ok h
  | flitReceive => exact execFlitReceive_ok h
  | replayTimeout => exact execReplayTimeout_ok h
  | linkRetrain => exact execLinkRetrain_ok h
  | requestResend => exact execRequestResend_ok h
  | peerAccess => exact execPeerAccess_ok h
  | hostSnoop => exact execHostSnoop_ok h
  | hostMemAccess => exact execHostMemAccess_ok h
  | pointChangeDone => exact execPointChangeDone_ok h
  | diePowerOff => exact execDiePowerOff_ok h
  | ungateDone => exact execUngateDone_ok h
  | thermalStep => exact execThermalStep_ok h
  | thermalTrip => exact execThermalTrip_ok h
  | powerUp => exact execPowerUp_ok h
  | dieTrained => exact execDieTrained_ok h
  | mctpMessage => exact execMctpMessage_ok h
  | waitiTimeReached => exact execWaitiTimeReached_ok h
  | packagePortTraining => exact execPackagePortTraining_ok h
  | cxlPortTraining => exact execCxlPortTraining_ok h
  | backInvalidationResponse => exact execBackInvalidationResponse_ok h
  | bar0RegisterWrite => exact execBar0RegisterWrite_ok h
  | partitionCreation => exact execPartitionCreation_ok h

theorem State.poisonAt_ok {s : State} {a : ErrorPlace} (h : s.Ok) : (s.poisonAt a).Ok := by
  unfold State.poisonAt
  split
  · exact (memStep_setBad _ _ _).ok h
  · exact (memStep_setBad _ _ _).ok ((memStep_evictSector _ _ _).ok h)
  · exact modPart_ok h
  · split
    · exact setPoolBad_ok h
    · exact h
  · split
    · exact setTeam_ok h
    · exact h
  · split
    · exact setGroup_ok h
    · exact h
  · split
    · exact setTile_ok h
    · exact h
  · exact h
  · exact h
  · exact h

theorem State.dropEntry_ok {s : State} {a : ErrorPlace} (h : s.Ok) : (s.dropEntry a).Ok := by
  unfold State.dropEntry
  split
  · exact ok_of_eq h rfl rfl
  · exact ok_of_eq h rfl rfl
  · exact recall_ok h
  · exact h
  · exact h
  · exact h
  · exact h
  · exact h
  · exact h
  · exact h

theorem State.softError_ok {s : State} {part : Nat} {place : ErrorPlace} {corrected : Bool} (h : s.Ok) :
    (s.softError part place corrected).Ok := by
  unfold State.softError
  extract_lets fixed s1
  have hs1 : s1.Ok := modPart_ok h
  split
  · exact dropEntry_ok hs1
  · split
    · exact hs1
    · exact poisonAt_ok hs1

theorem State.meetWord_ok {s : State} {t : ThreadId} (h : s.Ok) : (s.meetWord t).Ok := by
  unfold State.meetWord
  split
  · split
    · exact h
    · exact reconvergeGang_ok h
  · exact handImage_ok h
  · exact h

/-- What a turn comes to before its word executes holds memory in canonical form. -/
def Ready.Ok : Ready → Prop
  | .run _ s => s.Ok
  | .stop s => s.Ok

theorem State.prepare_ok {s : State} {t : ThreadId} (h : s.Ok) : (s.prepare t).Ok := by
  unfold State.prepare
  extract_lets s1 pc stop
  have hs1 : s1.Ok := meetWord_ok (ok_of_eq h rfl rfl)
  clear_value s1 pc
  have hstop : ∀ s2 after : State, s2.Ok → after.Ok → (stop s2 after).Ok := fun s2 after h2 ha => by
    dsimp only [stop]
    split
    · exact setWaiting_ok (unbegun_ok h2)
    · exact ha
  clear_value stop
  split
  · split
    · split
      · rename_i e
        exact setWaiting_ok (unbegun_ok (snoopHost_ok e hs1))
      · have hf := (walkStep_fetchWord s1 t pc).ok hs1
        split
        · rename_i e
          have h2 := ok_fst e hf
          exact hstop _ _ h2 (settle_ok h2 trivial)
        · rename_i e
          have h2 := ok_fst e hf
          exact hstop _ _ h2 (takeTrap_ok h2)
        · rename_i e
          have h2 := ok_fst e hf
          split
          · exact h2
          · exact hstop _ _ h2 (takeTrap_ok (unbegun_ok h2))
    · exact hs1
  · exact h

theorem State.runThread_ok {s : State} {t : ThreadId} (h : s.Ok) : Out.Ok (s.runThread t) := by
  have hp := s.prepare_ok (t := t) h
  unfold State.runThread
  split
  · rename_i e
    rw [e] at hp
    exact exec_ok hp
  · rename_i e
    rw [e] at hp
    exact event_ok hp

theorem State.serveSlot_ok {s : State} {core sched : Nat} (h : s.Ok) : (s.serveSlot core sched).Ok := by
  unfold State.serveSlot
  extract_lets here ready live prio best placed
  split
  · exact h
  · extract_lets lanes unis chosen y __src
    have h__src : __src.Ok := setGroup_ok h
    exact ok_of_eq h__src rfl rfl

theorem State.tick_ok {s : State} {n : Nat} (h : s.Ok) : (s.tick n).Ok := State.ok_of_eq h rfl rfl

theorem State.prefetch_ok {s : State} {t : ThreadId} {va : W64} (h : s.Ok) : (s.prefetch t va).Ok := by
  unfold State.prefetch
  split
  · split
    · rename_i e
      split
      · exact (memStep_cachedLoad _ _ _ _ _ _).ok (ok_fst e ((walkStep_translate _ _ _ _ _).ok h))
      · exact ok_fst e ((walkStep_translate _ _ _ _ _).ok h)
    · rename_i e
      exact ok_fst e ((walkStep_translate _ _ _ _ _).ok h)
  · exact h

theorem State.runTurn_ok {s : State} {x : Turn} (h : s.Ok) : Out.Ok (s.runTurn x) := by
  cases x with
  | thread t => exact runThread_ok h
  | slot core sched => exact event_ok (serveSlot_ok h)
  | event e =>
    change Out.Ok (if e.hasWord then .next s else exec e s)
    split
    · exact event_ok h
    · exact exec_ok h
  | tick ns => exact event_ok (tick_ok h)
  | evict cpt sector => exact event_ok ((memStep_evictSector _ _ _).ok h)
  | evictTlb key => exact event_ok (ok_of_eq h rfl rfl)
  | evictCode key => exact event_ok (ok_of_eq h rfl rfl)
  | stopSkid g => exact event_ok (endSkid_ok h)
  | copyWord cmd row word => exact event_ok (stepCopy_ok h)
  | prefetch t va => exact event_ok (prefetch_ok h)
  | evictSlice key => exact event_ok ((memStep_sliceEvict _ _).ok h)
  | sendFlit pair flow payload => exact event_ok (sendFlit_ok h)
  | sendIdle link => exact event_ok (sendIdle_ok h)
  | configPart part lease pdl ntags ovfgen target classen => exact event_ok (configPart_ok h)
  | bindDies part ctx tab => exact event_ok (bindDies_ok h)
  | acknowledge port num => exact event_ok (acknowledge_ok h)
  | peerExport port part len perm => exact event_ok (peerExport_ok h)
  | peerHail port fp fc part ctx vec payload => exact event_ok (peerHail_ok h)
  | barRead func offset => exact event_ok (barRead_ok h)
  | softError part place corrected => exact event_ok (softError_ok h)

theorem State.move_ok {s : State} (h : s.Ok) : Out.Ok s.move := by
  unfold State.move
  split
  · exact runThread_ok h
  · exact runTurn_ok (ok_of_eq h rfl rfl)

theorem State.advance_ok {s : State} (h : s.Ok) : Out.Ok s.advance := by
  unfold State.advance
  split
  · exact runThread_ok h
  · exact move_ok (beginSaves_ok h)

/-- Settles O60: every function that a step runs leaves memory in canonical form, and the step is made of them. -/
theorem stepKeepsMemory : Obligations.StepKeepsMemory := by
  unfold Obligations.StepKeepsMemory
  intro s t hs e
  exact State.advance_ok (s := s) hs t e

end Sys2Proof.Machine
end

section
/-! PROOFS. What register words leave unchanged (R7, R11, R70, R71): the uniform set. -/

namespace Sys2Proof.Machine

/-! ### Uniform registers -/

/-- What writes of `w[w]` and `k[k]` and, where `flags`, raised flags leave of a thread's uniform registers. -/
structure Uni.Frame (w k : Option Nat) (flags : Bool) (a b : Uni) : Prop where
  regs : ∀ r, r < 64 → w ≠ some r →
    b.getW r = a.getW r ∧ b.empty.getLsbD r = a.empty.getLsbD r ∧ b.poison.getLsbD r = a.poison.getLsbD r
  preds : ∀ c, c < 8 → k ≠ some c → b.getK c = a.getK c
  fpctl : b.fpctl = a.fpctl
  fpstat : flags = false → b.fpstat = a.fpstat
  kept : b.fpstat &&& a.fpstat = a.fpstat

namespace Uni.Frame

variable {w k : Option Nat} {flags : Bool} {a b c : Uni}

theorem refl (w k : Option Nat) (flags : Bool) (a : Uni) : Frame w k flags a a :=
  ⟨fun _ _ _ => ⟨rfl, rfl, rfl⟩, fun _ _ _ => rfl, rfl, fun _ => rfl, BitVec.and_self⟩

theorem trans (h : Frame w k flags a b) (j : Frame w k flags b c) : Frame w k flags a c where
  regs r hr hw := by
    obtain ⟨h1, h2, h3⟩ := h.regs r hr hw
    obtain ⟨j1, j2, j3⟩ := j.regs r hr hw
    exact ⟨j1.trans h1, j2.trans h2, j3.trans h3⟩
  preds i hi hk := (j.preds i hi hk).trans (h.preds i hi hk)
  fpctl := j.fpctl.trans h.fpctl
  fpstat hf := (j.fpstat hf).trans (h.fpstat hf)
  kept := by
    rw [← h.kept, ← BitVec.and_assoc, j.kept]

theorem putW (k : Option Nat) (flags : Bool) (a : Uni) (r : Nat) (x : W64) : Frame (some r) k flags a (a.putW r x) := by
  refine ⟨fun j hj hw => ?_, fun _ _ _ => ?_, ?_, fun _ => ?_, ?_⟩
  · have hjr : j ≠ r := fun e => hw (e ▸ rfl)
    refine ⟨?_, ?_, ?_⟩
    · by_cases hr : r = 0
      · simp [Uni.putW, hr]
      · simp [Uni.putW, Uni.getW, hr, Tbl.get_put_ne _ _ _ hjr]
    · rw [Uni.empty_putW _ _ _ _ hj, if_neg (fun e : j = r ∧ _ => hjr e.1)]
    · rw [Uni.poison_putW _ _ _ _ hj, if_neg (fun e : j = r ∧ _ => hjr e.1)]
  all_goals
    unfold Uni.putW
    split
  all_goals simp [Uni.getK]

theorem putK (w : Option Nat) (flags : Bool) (a : Uni) (i : Nat) (x : Bool) : Frame w (some i) flags a (a.putK i x) := by
  refine ⟨fun j hj hw => ?_, fun j hj hk => ?_, ?_, fun _ => ?_, ?_⟩
  · unfold Uni.putK
    split <;> exact ⟨rfl, rfl, rfl⟩
  · rw [Uni.getK_putK _ _ _ _ hj, if_neg (fun e : j = i ∧ _ => hk (e.1 ▸ rfl))]
  all_goals
    unfold Uni.putK
    split
  all_goals simp

theorem raiseFlags (w k : Option Nat) (a : Uni) (f : Flags) : Frame w k true a (a.raiseFlags f) :=
  ⟨fun _ _ _ => ⟨rfl, rfl, rfl⟩, fun _ _ _ => rfl, rfl, nofun, by
    show (a.fpstat ||| f.setWidth 64) &&& a.fpstat = a.fpstat
    ext i hi
    simp only [BitVec.getElem_and, BitVec.getElem_or]
    cases a.fpstat[i] <;> simp⟩

end Uni.Frame

/-! ### The current thread alone -/

/-- What a slice keeps when its program counter moves on. -/
def Slice.shape (x : Slice) : BitVec 4 × BitVec 4 × Nat × List Reconv × Option Addr := (x.act, x.live, x.gang, x.stack, x.jp)

theorem Group.shape_mapGang (x : Group) (k : Nat) {f : Slice → Slice} (h : ∀ sl, (f sl).shape = sl.shape) :
    (x.mapGang k f).slices.map Slice.shape = x.slices.map Slice.shape := by
  simp only [Group.mapGang, List.map_map]
  refine List.map_congr_left fun sl _ => ?_
  simp only [Function.comp_apply]
  split
  · exact h sl
  · rfl

/-- The second state differs from the first in the thread's own registers, program counters and notes alone, and in `pfx`. -/
def State.OwnStep (th : ThreadId) (s t : State) : Prop :=
  match th with
  | .gang g _ => t = { s with groups := t.groups, pfx := t.pfx } ∧ (∀ h, h ≠ g → t.group h = s.group h) ∧
      t.group g = { s.group g with uni := (t.group g).uni, slices := (t.group g).slices } ∧
      (t.group g).slices.map Slice.shape = (s.group g).slices.map Slice.shape
  | .spine c => t = { s with spines := t.spines, pfx := t.pfx } ∧ ∀ h, h ≠ c → t.spines.find? h = s.spines.find? h
  | .service p => t = { s with parts := t.parts, pfx := t.pfx } ∧ (∀ q, q ≠ p → t.parts.find? q = s.parts.find? q) ∧
      t.part p = { s.part p with svc := (t.part p).svc }
  | .monitor => t = { s with root := { s.root with th := t.root.th }, pfx := t.pfx }

namespace State.OwnStep

variable {s t u : State} {th : ThreadId}

theorem trans (h : OwnStep th s t) (j : OwnStep th t u) : OwnStep th s u := by
  cases th with
  | gang g k =>
    obtain ⟨h1, h2, h3, h4⟩ := h
    obtain ⟨j1, j2, j3, j4⟩ := j
    refine ⟨?_, fun i hi => (j2 i hi).trans (h2 i hi), ?_, j4.trans h4⟩
    · rw [h1] at j1
      exact j1
    · rw [h3] at j3
      exact j3
  | spine c =>
    obtain ⟨h1, h2⟩ := h
    obtain ⟨j1, j2⟩ := j
    refine ⟨?_, fun i hi => (j2 i hi).trans (h2 i hi)⟩
    rw [h1] at j1
    exact j1
  | service p =>
    obtain ⟨h1, h2, h3⟩ := h
    obtain ⟨j1, j2, j3⟩ := j
    refine ⟨?_, fun i hi => (j2 i hi).trans (h2 i hi), ?_⟩
    · rw [h1] at j1
      exact j1
    · rw [h3] at j3
      exact j3
  | monitor =>
    unfold OwnStep at *
    rw [h] at j
    exact j

theorem of_setGroup (s : State) (g k : Nat) (u : Uni) (l : List Slice)
    (hl : l.map Slice.shape = (s.group g).slices.map Slice.shape) :
    OwnStep (.gang g k) s (s.setGroup g { s.group g with uni := u, slices := l }) := by
  refine ⟨rfl, fun h hh => group_setGroup_ne _ _ hh, ?_, ?_⟩ <;> rw [group_setGroup]
  exact hl

theorem of_setScalar (s : State) {th : ThreadId} (hth : isGang th = false) (x : Scalar) : OwnStep th s (s.setScalar th x) := by
  cases th with
  | gang g k => cases hth
  | spine c => exact ⟨rfl, fun h hh => by simp [setScalar, Tbl.find?_insert, hh]⟩
  | service p =>
    refine ⟨rfl, fun q hq => by simp [setScalar, modPart, Tbl.find?_modify, hq], ?_⟩
    cases hp : s.parts.find? p <;> simp [setScalar, modPart, part, Tbl.find?_modify, hp]
  | monitor => exact rfl

theorem setUni (s : State) (th : ThreadId) (u : Uni) : OwnStep th s (s.setUni th u) := by
  cases th with
  | gang g k => exact of_setGroup s g k u _ rfl
  | _ => exact of_setScalar s rfl _

theorem setPc (s : State) (th : ThreadId) (a : Addr) : OwnStep th s (s.setPc th a) := by
  cases th with
  | gang g k => exact of_setGroup s g k _ _ (Group.shape_mapGang _ k fun _ => rfl)
  | _ => exact of_setScalar s rfl _

theorem setWaiting (s : State) (th : ThreadId) (b : Bool) : OwnStep th s (s.setWaiting th b) := by
  cases th with
  | gang g k => exact of_setGroup s g k _ _ (Group.shape_mapGang _ k fun _ => rfl)
  | _ => exact of_setScalar s rfl _

theorem setPfx (s : State) (th : ThreadId) (p : Option (BitVec 25)) : OwnStep th s { s with pfx := p } := by
  cases th with
  | gang g k => exact ⟨rfl, fun _ _ => rfl, rfl, rfl⟩
  | spine c => exact ⟨rfl, fun _ _ => rfl⟩
  | service p => exact ⟨rfl, fun _ _ => rfl, rfl⟩
  | monitor => exact rfl

theorem cmds_eq (h : OwnStep th s t) : t.cmds = s.cmds := by
  cases th with
  | monitor => exact (congrArg State.cmds h :)
  | _ => exact (congrArg State.cmds h.1 :)

theorem stepped_eq (h : OwnStep th s t) : t.stepped th = s.stepped th := by
  cases th with
  | gang g k =>
    obtain ⟨-, -, h3, -⟩ := h
    rw [State.stepped_gang, State.stepped_gang, h3]
  | _ => rfl

end State.OwnStep

theorem State.ownStep_after (s u : State) : OwnStep s.cur u (s.after u) :=
  ((OwnStep.setPc u s.cur _).trans (.setPfx _ _ none)).trans (.setWaiting _ _ false)

theorem State.pfx_after (s u : State) : (s.after u).pfx = none := by
  unfold State.after State.setWaiting
  cases s.cur <;> rfl

theorem State.scalar_setScalar (s : State) {th : ThreadId} (hth : isGang th = false) (x : Scalar) :
    (s.setScalar th x).scalar th = x ∨ s.setScalar th x = s := by
  cases th with
  | gang g k => cases hth
  | spine c => exact .inl (by simp [setScalar, scalar])
  | service p =>
    cases hp : s.parts.find? p with
    | none => exact .inr (by simp [setScalar, modPart, Tbl.modify, hp])
    | some q => exact .inl (by simp [setScalar, scalar, modPart, Tbl.find?_modify, hp])
  | monitor => exact .inl rfl

section

variable {th : ThreadId} (hth : isGang th = false)
include hth

theorem State.uni_of_scalar (s : State) : s.uni th = (s.scalar th).uni := by
  cases th with
  | gang g k => cases hth
  | _ => rfl

theorem State.setUni_of_scalar (s : State) (x : Uni) : s.setUni th x = s.setScalar th { s.scalar th with uni := x } := by
  cases th with
  | gang g k => cases hth
  | _ => rfl

theorem State.setPc_of_scalar (s : State) (a : Addr) : s.setPc th a = s.setScalar th { s.scalar th with pc := a } := by
  cases th with
  | gang g k => cases hth
  | _ => rfl

theorem State.setWaiting_of_scalar (s : State) (b : Bool) : s.setWaiting th b = s.setScalar th { s.scalar th with waiting := b } := by
  cases th with
  | gang g k => cases hth
  | _ => rfl

theorem State.uni_setScalar (s : State) {x : Scalar} (hx : x.uni = (s.scalar th).uni) : (s.setScalar th x).uni th = s.uni th := by
  rcases s.scalar_setScalar hth x with h | h
  · rw [uni_of_scalar hth, h, hx, uni_of_scalar hth]
  · rw [h]

end

theorem gang_or_scalar (th : ThreadId) : (∃ g k, th = .gang g k) ∨ isGang th = false := by
  cases th with
  | gang g k => exact .inl ⟨g, k, rfl⟩
  | _ => exact .inr rfl

/-- A thread's uniform registers are as set, or the thread is not there. -/
theorem State.uni_setUni (s : State) (th : ThreadId) (x : Uni) : (s.setUni th x).uni th = x ∨ s.setUni th x = s := by
  rcases gang_or_scalar th with ⟨g, k, rfl⟩ | h
  · exact .inl (by simp [setUni, uni])
  · rw [setUni_of_scalar h, uni_of_scalar h]
    exact (s.scalar_setScalar h _).imp (congrArg Scalar.uni) id

theorem State.uni_setPc (s : State) (th : ThreadId) (a : Addr) : (s.setPc th a).uni th = s.uni th := by
  rcases gang_or_scalar th with ⟨g, k, rfl⟩ | h
  · simp [setPc, uni, Group.mapGang]
  · rw [setPc_of_scalar h]
    exact s.uni_setScalar h rfl

theorem State.uni_setWaiting (s : State) (th : ThreadId) (b : Bool) : (s.setWaiting th b).uni th = s.uni th := by
  rcases gang_or_scalar th with ⟨g, k, rfl⟩ | h
  · simp [setWaiting, uni, Group.mapGang]
  · rw [setWaiting_of_scalar h]
    exact s.uni_setScalar h rfl

theorem State.uni_after (s u : State) : (s.after u).uni s.cur = u.uni s.cur := by
  unfold State.after
  rw [uni_setWaiting]
  exact u.uni_setPc _ _

theorem State.uniFrame_setUni {w k : Option Nat} {flags : Bool} {s : State} {th : ThreadId} {x : Uni}
    (h : Uni.Frame w k flags (s.uni th) x) : Uni.Frame w k flags (s.uni th) ((s.setUni th x).uni th) := by
  rcases s.uni_setUni th x with e | e
  · rw [e]
    exact h
  · rw [e]
    exact .refl _ _ _ _

/-! ### The words of the uniform set -/

/-- A word that writes `w[w]`, `k[k]` and, where `flags`, flags has completed. -/
structure State.UniWord (s t : State) (w k : Option Nat) (flags : Bool) : Prop where
  uni : Uni.Frame w k flags (s.uni s.cur) (t.uni s.cur)
  own : OwnStep s.cur s.unheld t
  pfx : t.pfx = none

section

variable {s t u : State} {i : Instr} {body : ThreadId → State → Did} {w k : Option Nat} {flags : Bool}

theorem uniWord_of_done (hb : s.begins i = true) (he : issue i s body = .next t) (hd : body s.cur s.unheld = .done u)
    (hu : State.OwnStep s.cur s.unheld u) (hf : Uni.Frame w k flags (s.unheld.uni s.cur) (u.uni s.cur)) : s.UniWord t w k flags := by
  rw [issue_plain hb hd hu.stepped_eq hu.cmds_eq] at he
  cases he
  rw [State.unheld_uni] at hf
  exact ⟨by rw [State.uni_after]; exact hf, hu.trans (s.ownStep_after u), s.pfx_after u⟩

theorem uniWord_putW {r : Nat} {x : W64} (hb : s.begins i = true) (he : issue i s body = .next t)
    (hd : body s.cur s.unheld = .done (s.unheld.putW s.cur r x)) : s.UniWord t (some r) none false :=
  uniWord_of_done hb he hd (.setUni _ _ _) (State.uniFrame_setUni (.putW _ _ _ _ _))

theorem uniWord_putK {c : Nat} {x : Bool} (hb : s.begins i = true) (he : issue i s body = .next t)
    (hd : body s.cur s.unheld = .done (s.unheld.putK s.cur c x)) : s.UniWord t none (some c) false :=
  uniWord_of_done hb he hd (.setUni _ _ _) (State.uniFrame_setUni (.putK _ _ _ _ _))

theorem uniWord_putW_raiseFlags {r : Nat} {x : W64} {f : Flags} (hb : s.begins i = true) (he : issue i s body = .next t)
    (hd : body s.cur s.unheld = .done ((s.unheld.putW s.cur r x).raiseFlags s.cur f)) : s.UniWord t (some r) none true :=
  uniWord_of_done hb he hd ((State.OwnStep.setUni _ _ _).trans (.setUni _ _ _))
    ((State.uniFrame_setUni (.putW _ _ _ _ _)).trans (State.uniFrame_setUni (.raiseFlags _ _ _ _)))

theorem Uni.enabled_eq_false {u : Uni} (h : u.fpctl.extractLsb' 4 5 = 0) (f : Flags) : u.enabled f = false := by
  simp [Uni.enabled, h]

theorem State.uniFloat_done {s : State} {th : ThreadId} (h : (s.uni th).fpctl.extractLsb' 4 5 = 0) (d : BitVec 6) (x : W64 × Flags) :
    s.uniFloat th d x = .done ((s.putW th d.toNat x.1).raiseFlags th x.2) := by
  simp [State.uniFloat, Uni.enabled_eq_false h]

theorem uniWord_uniFloat {d : BitVec 6} {x : W64 × Flags} (h : (s.uni s.cur).fpctl.extractLsb' 4 5 = 0) (hb : s.begins i = true)
    (he : issue i s body = .next t) (hd : body s.cur s.unheld = s.unheld.uniFloat s.cur d x) : s.UniWord t (some d.toNat) none true :=
  uniWord_putW_raiseFlags hb he (hd.trans (State.uniFloat_done (by rw [State.unheld_uni]; exact h) d x))

theorem uniWord_ufcmp {s t : State} {q : Bool} {k : BitVec 3} {a b : BitVec 6} {bs : BitVec 2} {p : Bool} {c : BitVec 3}
    (h : (s.uni s.cur).fpctl.extractLsb' 4 5 = 0) (hb : s.begins (.ufcmp q k a b bs p c) = true)
    (he : exec (.ufcmp q k a b bs p c) s = .next t) : s.UniWord t none (some k.toNat) true := by
  have he : execUfcmp q k a b bs p c s = .next t := he
  unfold execUfcmp at he
  rw [← State.unheld_uni] at h
  exact uniWord_of_done hb he (by simp only [Uni.enabled_eq_false h, Bool.false_eq_true, if_false]; rfl)
    ((State.OwnStep.setUni _ _ _).trans (.setUni _ _ _))
    ((State.uniFrame_setUni (.putK _ _ _ _ _)).trans (State.uniFrame_setUni (.raiseFlags _ _ _ _)))

end

/-! ### What the rest of the device keeps -/

theorem State.sameBut_trans {s t u : State} (h : s.sameBut t) (j : t.sameBut u) : s.sameBut u := by
  unfold sameBut at *
  rw [h] at j
  exact j

theorem State.OwnStep.sameBut {th : ThreadId} {s t : State} (h : OwnStep th s t) : s.sameBut t := by
  unfold State.sameBut
  cases th with
  | monitor =>
    have h1 : t = { s with root := { s.root with th := t.root.th }, pfx := t.pfx } := h
    rw [h1]
  | _ =>
    have h1 := h.1
    rw [h1]

theorem State.sameBut_unheld (s : State) : s.sameBut s.unheld := by
  unfold sameBut
  rw [s.unheld_eq]


theorem State.UniWord.sameBut {s t : State} {w k : Option Nat} {flags : Bool} (h : s.UniWord t w k flags) : s.sameBut t :=
  State.sameBut_trans s.sameBut_unheld h.own.sameBut

/-- A hold that has ended is forgotten, and nothing else. -/
theorem State.inGroup_unheld {s : State} {g k : Nat} (hc : s.cur = .gang g k) :
    s.unheld.group g = { s.group g with barHold := none, xbarHold := false } ∧ ∀ h, h ≠ g → s.unheld.group h = s.group h := by
  unfold State.unheld
  rw [hc]
  unfold State.clearHold
  dsimp only
  split
  next e =>
    refine ⟨?_, fun _ _ => rfl⟩
    obtain ⟨e1, e2⟩ := e
    rw [← e1, ← e2]
  · exact ⟨group_setGroup _ _ _, fun h hh => group_setGroup_ne _ _ hh⟩

theorem State.unheld_of_scalar {s : State} (h : isGang s.cur = false) : s.unheld = s := by
  unfold State.unheld State.clearHold
  split
  · simp_all [isGang]
  · rfl

namespace State.UniWord

variable {s t : State} {w k : Option Nat} {flags : Bool} (h : s.UniWord t w k flags)
include h

theorem gang {g n : Nat} (hc : s.cur = .gang g n) :
    t = { s with groups := t.groups, pfx := none } ∧ (∀ h, h ≠ g → t.group h = s.group h) ∧
      t.group g = { s.group g with uni := (t.group g).uni, slices := (t.group g).slices, barHold := none, xbarHold := false } ∧
      (t.group g).slices.map Slice.shape = (s.group g).slices.map Slice.shape := by
  obtain ⟨-, ho, hp⟩ := h
  rw [hc] at ho
  obtain ⟨h1, h2, h3, h4⟩ := ho
  obtain ⟨u1, u2⟩ := inGroup_unheld hc
  rw [s.unheld_eq, hp] at h1
  rw [u1] at h3 h4
  exact ⟨h1, fun i hi => (h2 i hi).trans (u2 i hi), h3, h4⟩

theorem spine {c : Nat} (hc : s.cur = .spine c) :
    t = { s with spines := t.spines, pfx := none } ∧ ∀ h, h ≠ c → t.spines.find? h = s.spines.find? h := by
  obtain ⟨-, ho, hp⟩ := h
  rw [unheld_of_scalar (by rw [hc]; rfl), hc] at ho
  obtain ⟨h1, h2⟩ := ho
  rw [hp] at h1
  exact ⟨h1, h2⟩

theorem service {p : Nat} (hc : s.cur = .service p) :
    t = { s with parts := t.parts, pfx := none } ∧ (∀ q, q ≠ p → t.parts.find? q = s.parts.find? q) ∧
      t.part p = { s.part p with svc := (t.part p).svc } := by
  obtain ⟨-, ho, hp⟩ := h
  rw [unheld_of_scalar (by rw [hc]; rfl), hc] at ho
  obtain ⟨h1, h2, h3⟩ := ho
  rw [hp] at h1
  exact ⟨h1, h2, h3⟩

theorem monitor (hc : s.cur = .monitor) : t = { s with root := { s.root with th := t.root.th }, pfx := none } := by
  obtain ⟨-, ho, hp⟩ := h
  rw [unheld_of_scalar (by rw [hc]; rfl), hc] at ho
  unfold OwnStep at ho
  rw [hp] at ho
  exact ho

end State.UniWord

end Sys2Proof.Machine
end

section
/-! PROOFS. What register words leave unchanged (R7, R129, R130, R132, R136 to R146): the lane set. -/

namespace Sys2Proof.Machine

/-! ### Registers of lanes -/

theorem Group.mem_lanes_lt {x : Group} {k l : Nat} (h : l ∈ x.lanes k) : l < 32 :=
  List.mem_range.1 (List.mem_filter.1 h).1

theorem Group.putLanes_eq (x : Group) (r : Nat) (vals : List (Nat × W32)) :
    ∃ v vo vp, x.putLanes r vals = { x with v := v, vOld := vo, vPoison := vp } := by
  unfold Group.putLanes
  induction vals generalizing x with
  | nil => exact ⟨_, _, _, rfl⟩
  | cons e vals ih =>
    obtain ⟨v, vo, vp, h⟩ := ih (x.putV r e.1 e.2)
    exact ⟨v, vo, vp, h⟩

/-- R129: what an element is once one value has been written to each of some lanes. -/
theorem Group.getV_putLanes (x : Group) (r : Nat) (f : Nat → W32) {ls : List Nat} (hls : ∀ m, m ∈ ls → m < 32) (j : Nat) {l : Nat} (hl : l < 32) :
    (x.putLanes r (ls.map fun m => (m, f m))).getV j l = if j = r ∧ l ∈ ls then f l else x.getV j l := by
  induction ls generalizing x with
  | nil => simp [Group.putLanes]
  | cons m ls ih =>
    have hm := hls m List.mem_cons_self
    have hi : 32 * j + l = 32 * r + m ↔ j = r ∧ l = m := by omega
    refine (ih (x.putV r m (f m)) fun n hn => hls n (List.mem_cons_of_mem _ hn)).trans ?_
    rw [Group.getV_putV]
    by_cases hj : j = r <;> by_cases hlm : l = m <;> by_cases hmem : l ∈ ls <;> simp_all

theorem Group.foldPutP_eq (x : Group) (c : Nat) (f : Nat → Bool) (ls : List Nat) :
    ∃ p, ls.foldl (fun y l => y.putP c l (f l)) x = { x with p := p } := by
  induction ls generalizing x with
  | nil => exact ⟨_, rfl⟩
  | cons m ls ih =>
    obtain ⟨p, h⟩ := ih (x.putP c m (f m))
    have hp : ∃ q, x.putP c m (f m) = { x with p := q } := by
      unfold Group.putP
      split
      · exact ⟨_, rfl⟩
      · exact ⟨_, rfl⟩
    obtain ⟨q, hq⟩ := hp
    rw [List.foldl_cons, h, hq]
    exact ⟨p, rfl⟩

theorem Group.getP_putP_ne (x : Group) {c j l m : Nat} (b : Bool) (hj : j < 8) (hl : l < 32) (hm : m < 32) (h : j ≠ c ∨ l ≠ m) :
    (x.putP c m b).getP j l = x.getP j l := by
  unfold Group.putP Group.getP
  split
  · rfl
  · split
    · rfl
    · rw [getLsbD_setBit _ _ _ _ (by omega), if_neg (by omega)]

/-- R132: the predicates that a write of one to each of some lanes leaves. -/
theorem Group.getP_foldPutP (x : Group) (c : Nat) (f : Nat → Bool) {ls : List Nat} (hls : ∀ m, m ∈ ls → m < 32) {j l : Nat} (hj : j < 8)
    (hl : l < 32) (h : j ≠ c ∨ l ∉ ls) : (ls.foldl (fun y m => y.putP c m (f m)) x).getP j l = x.getP j l := by
  induction ls generalizing x with
  | nil => rfl
  | cons m ls ih =>
    rw [List.foldl_cons, ih _ (fun n hn => hls n (List.mem_cons_of_mem _ hn)) (h.imp id fun h => fun hn => h (List.mem_cons_of_mem _ hn))]
    exact x.getP_putP_ne _ hj hl (hls m List.mem_cons_self) (h.imp id fun h e => h (e ▸ List.mem_cons_self))

/-! ### One group -/

/-- The second state differs from the first in one group, in the requests and their numbers, and in `pfx` alone. -/
structure State.InGroup (g : Nat) (s t : State) : Prop where
  rest : t = { s with groups := t.groups, reqs := t.reqs, nextId := t.nextId, pfx := t.pfx }
  groups : ∀ h, h ≠ g → t.group h = s.group h

namespace State.InGroup

variable {g : Nat} {s t u : State}

theorem trans (h : InGroup g s t) (j : InGroup g t u) : InGroup g s u := by
  refine ⟨?_, fun i hi => (j.groups i hi).trans (h.groups i hi)⟩
  have h1 := j.rest
  rw [h.rest] at h1
  exact h1

theorem setGroup (s : State) (g : Nat) (x : Group) : InGroup g s (s.setGroup g x) := ⟨rfl, fun _ hh => group_setGroup_ne _ _ hh⟩

theorem setPc (s : State) (g k : Nat) (a : Addr) : InGroup g s (s.setPc (.gang g k) a) := setGroup s g _

theorem setWaiting (s : State) (g k : Nat) (b : Bool) : InGroup g s (s.setWaiting (.gang g k) b) := setGroup s g _

theorem setPfx (s : State) (g : Nat) (p : Option (BitVec 25)) : InGroup g s { s with pfx := p } := ⟨rfl, fun _ _ => rfl⟩

theorem cmds_eq (h : InGroup g s t) : t.cmds = s.cmds := (congrArg State.cmds h.rest :)

end State.InGroup

/-- The group once its gang has gone on to the next word. -/
def Group.boundary (x : Group) (k : Nat) (a : Addr) : Group :=
  (x.mapGang k fun sl => { sl with pc := a }).mapGang k fun sl => { sl with waiting := false }

theorem Group.shape_boundary (x : Group) (k : Nat) (a : Addr) : (x.boundary k a).slices.map Slice.shape = x.slices.map Slice.shape :=
  (Group.shape_mapGang _ k (f := fun sl => { sl with waiting := false }) fun _ => rfl).trans
    (x.shape_mapGang k (f := fun sl => { sl with pc := a }) fun _ => rfl)

theorem State.inGroup_clearHold {s : State} {g k : Nat} (hc : s.cur = .gang g k) : State.InGroup g s s.unheld :=
  ⟨by rw [s.unheld_eq], (inGroup_unheld hc).2⟩

theorem State.inGroup_after {s : State} {g k : Nat} (hc : s.cur = .gang g k) (u : State) : State.InGroup g u (s.after u) := by
  unfold State.after
  rw [hc]
  exact ((InGroup.setPc u g k _).trans (.setPfx _ g none)).trans (.setWaiting _ g k false)

/-- A word of a group has completed with its body's effect, and the gang stands at the next word. -/
structure State.GroupWord (g k : Nat) (s u t : State) : Prop where
  rest : State.InGroup g s t
  pfx : t.pfx = none
  reqs : t.reqs = u.reqs
  nextId : t.nextId = u.nextId
  group : t.group g = (u.group g).boundary k (s.pcOf s.cur + 4)

theorem groupWord_of_done {s t u : State} {i : Instr} {body : ThreadId → State → Did} {g k : Nat} (hc : s.cur = .gang g k)
    (hb : s.begins i = true) (he : issue i s body = .next t) (hd : body s.cur s.unheld = .done u) (hu : State.InGroup g s.unheld u)
    (hs : (u.group g).step = (s.unheld.group g).step) : State.GroupWord g k s u t := by
  rw [issue_plain hb hd (by rw [hc, State.stepped_gang, State.stepped_gang, hs]) hu.cmds_eq] at he
  cases he
  refine ⟨((State.inGroup_clearHold hc).trans hu).trans (State.inGroup_after hc u), s.pfx_after u, ?_, ?_, ?_⟩
  all_goals
    unfold State.after State.setPc State.setWaiting
    rw [hc]
  · rfl
  · rfl
  · refine (State.group_setGroup _ _ _).trans ?_
    exact congrArg (fun x => x.mapGang k fun sl => { sl with waiting := false }) (u.group_setGroup g _)

/-! ### Words of one result per lane -/

/-- What a lane word leaves of its group: elements of `v[d]` in the gang's lanes alone may differ, flags but those of `m` are as they
were and none is cleared, and generators of other lanes are as they were, of all lanes unless the word steps them. -/
structure Group.LaneFrame (k d : Nat) (m : W64) (steps : Bool) (x y : Group) : Prop where
  rest : y = { x with v := y.v, vOld := y.vOld, vPoison := y.vPoison, uni := y.uni, gens := y.gens }
  vals : ∀ r l, l < 32 → r ≠ d ∨ l ∉ x.lanes k → y.getV r l = x.getV r l
  uni : y.uni = { x.uni with fpstat := y.uni.fpstat }
  flags : y.uni.fpstat ||| m = x.uni.fpstat ||| m
  kept : y.uni.fpstat &&& x.uni.fpstat = x.uni.fpstat
  gens : ∀ l, l < 32 → l ∉ x.lanes k → y.gen l = x.gen l
  still : steps = false → y.gens = x.gens

namespace Group.LaneFrame

variable {k d : Nat} {m : W64} {steps : Bool} {x y z : Group}

theorem slices_eq (h : LaneFrame k d m steps x y) : y.slices = x.slices := (congrArg Group.slices h.rest :)

theorem lanes_eq (h : LaneFrame k d m steps x y) : y.lanes k = x.lanes k := by
  unfold Group.lanes
  rw [h.slices_eq]

theorem step_eq (h : LaneFrame k d m steps x y) : y.step = x.step := (congrArg Group.step h.rest :)

theorem trans (h : LaneFrame k d m steps x y) (j : LaneFrame k d m steps y z) : LaneFrame k d m steps x z := by
  refine ⟨?_, fun r l hl hr => ?_, ?_, j.flags.trans h.flags, ?_, fun l hl hn => ?_, fun e => (j.still e).trans (h.still e)⟩
  · have h1 := j.rest
    rw [h.rest] at h1
    exact h1
  · exact (j.vals r l hl (by rw [h.lanes_eq]; exact hr)).trans (h.vals r l hl hr)
  · have h1 := j.uni
    rw [h.uni] at h1
    exact h1
  · rw [← h.kept, ← BitVec.and_assoc, j.kept]
  · exact (j.gens l hl (by rw [h.lanes_eq]; exact hn)).trans (h.gens l hl hn)

theorem putLanes (m : W64) (steps : Bool) (x : Group) (k d : Nat) (f : Nat → W32) :
    LaneFrame k d m steps x (x.putLanes d ((x.lanes k).map fun l => (l, f l))) := by
  have hv := fun r l (hl : l < 32) => x.getV_putLanes d f (ls := x.lanes k) (fun _ => mem_lanes_lt) r hl
  obtain ⟨v, vo, vp, h⟩ := x.putLanes_eq d ((x.lanes k).map fun l => (l, f l))
  rw [h] at hv ⊢
  refine ⟨rfl, fun r l hl hr => ?_, rfl, rfl, BitVec.and_self, fun _ _ _ => rfl, fun _ => rfl⟩
  rw [hv r l hl, if_neg]
  rintro ⟨h1, h2⟩
  exact hr.elim (fun e => e h1) fun e => e h2

theorem raiseFlags (steps : Bool) (x : Group) (k d : Nat) {f : Flags} {m : W64} (hf : f.setWidth 64 ||| m = m) :
    LaneFrame k d m steps x { x with uni := x.uni.raiseFlags f } :=
  ⟨rfl, fun _ _ _ _ => rfl, rfl, (BitVec.or_assoc _ _ _).trans (congrArg _ hf), (Uni.Frame.raiseFlags none none x.uni f).kept,
    fun _ _ _ => rfl, fun _ => rfl⟩

theorem stepGens (m : W64) (x : Group) (k d : Nat) (l : List Nat) (hl : l = x.lanes k) :
    LaneFrame k d m true x { x with gens := (List.range 32).map fun i => if l.contains i then genStep (x.gen i) else x.gen i } := by
  refine ⟨rfl, fun _ _ _ _ => rfl, rfl, rfl, BitVec.and_self, fun i hi hn => ?_, nofun⟩
  simp [Group.gen, List.getD, hi, hl, hn]

end Group.LaneFrame

/-- What a compare leaves of its group: predicates but those of `p[c]` in the gang's lanes, and the flags. -/
structure Group.PredFrame (k c : Nat) (m : W64) (x y : Group) : Prop where
  rest : y = { x with p := y.p, uni := y.uni }
  preds : ∀ q l, q < 8 → l < 32 → q ≠ c ∨ l ∉ x.lanes k → y.getP q l = x.getP q l
  uni : y.uni = { x.uni with fpstat := y.uni.fpstat }
  flags : y.uni.fpstat ||| m = x.uni.fpstat ||| m
  kept : y.uni.fpstat &&& x.uni.fpstat = x.uni.fpstat

theorem Group.predFrame_foldPutP (m : W64) (x : Group) (k c : Nat) (f : Nat → Bool) :
    PredFrame k c m x ((x.lanes k).foldl (fun y l => y.putP c l (f l)) x) := by
  have hp := fun q l (hq : q < 8) (hl : l < 32) => x.getP_foldPutP c f (ls := x.lanes k) (fun _ => mem_lanes_lt) hq hl
  obtain ⟨p, h⟩ := x.foldPutP_eq c f (x.lanes k)
  rw [h] at hp ⊢
  exact ⟨rfl, fun q l hq hl hn => hp q l hq hl hn, rfl, rfl, BitVec.and_self⟩

theorem Group.PredFrame.raiseFlags {k c : Nat} {m : W64} {x y : Group} {f : Flags} (h : PredFrame k c m x y) (hf : f.setWidth 64 ||| m = m) :
    PredFrame k c m x { y with uni := y.uni.raiseFlags f } := by
  refine ⟨?_, h.preds, ?_, ?_, ?_⟩
  · have h1 := h.rest
    rw [h1]
  · have h1 := h.uni
    rw [h1]
    rfl
  · exact ((BitVec.or_assoc _ _ _).trans (congrArg _ hf)).trans h.flags
  · rw [← h.kept, ← BitVec.and_assoc]
    exact congrArg (· &&& x.uni.fpstat) (Uni.Frame.raiseFlags none none y.uni f).kept

/-- One step of a lane word's effect on its group. -/
structure State.LaneStep (g k d : Nat) (m : W64) (steps : Bool) (s u : State) : Prop where
  rest : State.InGroup g s u
  reqs : u.reqs = s.reqs
  nextId : u.nextId = s.nextId
  group : Group.LaneFrame k d m steps (s.group g) (u.group g)

namespace State.LaneStep

variable {g k d : Nat} {m : W64} {steps : Bool} {s t u : State}

theorem trans (h : LaneStep g k d m steps s t) (j : LaneStep g k d m steps t u) : LaneStep g k d m steps s u :=
  ⟨h.rest.trans j.rest, j.reqs.trans h.reqs, j.nextId.trans h.nextId, h.group.trans j.group⟩

theorem setGroup {x : Group} (h : Group.LaneFrame k d m steps (s.group g) x) : LaneStep g k d m steps s (s.setGroup g x) :=
  ⟨.setGroup s g x, rfl, rfl, by rw [group_setGroup]; exact h⟩

theorem mapLanes (s : State) (g k d : Nat) (m : W64) (steps : Bool) (f : Nat → W32) :
    LaneStep g k d m steps s (s.mapLanes (.gang g k) d f) :=
  setGroup (.putLanes m steps _ k d f)

theorem raiseFlags (s : State) (g k d : Nat) (steps : Bool) {f : Flags} (hf : f.setWidth 64 ||| m = m) :
    LaneStep g k d m steps s (s.raiseFlags (.gang g k) f) :=
  setGroup (.raiseFlags steps _ k d hf)

theorem stepGens (s : State) (g k d : Nat) (m : W64) : LaneStep g k d m true s (s.stepGens (.gang g k)) :=
  setGroup (.stepGens m _ k d _ rfl)

end State.LaneStep

/-- A lane word of one result per lane has completed. -/
structure State.LaneWord (g k d : Nat) (m : W64) (steps : Bool) (s t : State) : Prop where
  rest : t = { s with groups := t.groups, pfx := none }
  groups : ∀ h, h ≠ g → t.group h = s.group h
  group : t.group g = { s.group g with
    v := (t.group g).v, uni := (t.group g).uni, slices := (t.group g).slices, barHold := none, xbarHold := false
    gens := (t.group g).gens, vOld := (t.group g).vOld, vPoison := (t.group g).vPoison }
  vals : ∀ r l, l < 32 → r ≠ d ∨ l ∉ (s.group g).lanes k → (t.group g).getV r l = (s.group g).getV r l
  uni : (t.group g).uni = { (s.group g).uni with fpstat := (t.group g).uni.fpstat }
  flags : (t.group g).uni.fpstat ||| m = (s.group g).uni.fpstat ||| m
  kept : (t.group g).uni.fpstat &&& (s.group g).uni.fpstat = (s.group g).uni.fpstat
  gens : ∀ l, l < 32 → l ∉ (s.group g).lanes k → (t.group g).gen l = (s.group g).gen l
  still : steps = false → (t.group g).gens = (s.group g).gens
  shape : (t.group g).slices.map Slice.shape = (s.group g).slices.map Slice.shape

section

variable {s t u : State} {i : Instr} {body : ThreadId → State → Did} {g k d : Nat} {m : W64} {steps : Bool}

theorem laneWord_of_done (hc : s.cur = .gang g k) (hb : s.begins i = true) (he : issue i s body = .next t)
    (hd : body s.cur s.unheld = .done u) (hu : State.LaneStep g k d m steps s.unheld u) : State.LaneWord g k d m steps s t := by
  obtain ⟨hr, hp, hq, hn, hg⟩ := groupWord_of_done hc hb he hd hu.rest hu.group.step_eq
  obtain ⟨hx, -⟩ := State.inGroup_unheld hc
  have hq := hq.trans (hu.reqs.trans (congrArg State.reqs s.unheld_eq))
  have hn := hn.trans (hu.nextId.trans (congrArg State.nextId s.unheld_eq))
  obtain ⟨h1, h2, h3, h4, h5, h6, h7⟩ := hu.group
  rw [hx] at h1 h2 h3 h4 h5 h6 h7
  have hs : ((u.group g).boundary k (s.pcOf s.cur + 4)).slices.map Slice.shape = (s.group g).slices.map Slice.shape := by
    rw [Group.shape_boundary, hu.group.slices_eq, hx]
  refine ⟨?_, hr.groups, ?_, ?_, ?_, ?_, ?_, ?_, ?_, ?_⟩
  · have h := hr.rest
    rw [hp, hq, hn] at h
    exact h
  all_goals rw [hg]
  · generalize u.group g = y at h1
    rw [h1]
    rfl
  · exact h2
  · exact h3
  · exact h4
  · exact h5
  · exact h6
  · exact h7
  · exact hs

theorem laneWord_mapLanes {f : Nat → W32} (hc : s.cur = .gang g k) (hb : s.begins i = true) (he : issue i s body = .next t)
    (hd : body s.cur s.unheld = .done (s.unheld.mapLanes s.cur d f)) : State.LaneWord g k d m steps s t :=
  laneWord_of_done hc hb he hd (by rw [hc]; exact .mapLanes _ _ _ _ _ _ _)

theorem laneWord_mapLanes_raiseFlags {f : Nat → W32} {fl : Flags} (hf : fl.setWidth 64 ||| m = m) (hc : s.cur = .gang g k)
    (hb : s.begins i = true) (he : issue i s body = .next t)
    (hd : body s.cur s.unheld = .done ((s.unheld.mapLanes s.cur d f).raiseFlags s.cur fl)) : State.LaneWord g k d m steps s t :=
  laneWord_of_done hc hb he hd (by rw [hc]; exact (State.LaneStep.mapLanes _ _ _ _ _ _ _).trans (.raiseFlags _ _ _ _ _ hf))

theorem satFlag_or (b : Bool) : (satFlag b).setWidth 64 ||| (0x20 : W64) = 0x20 := by
  cases b <;> rfl

theorem laneWord_laneSat {x : BitVec 7} {f : Nat → W32 × Bool} (hc : s.cur = .gang g k) (hb : s.begins i = true)
    (he : issue i s body = .next t) (hd : body s.cur s.unheld = .done (s.unheld.laneSat s.cur x f)) :
    State.LaneWord g k x.toNat 0x20 steps s t :=
  laneWord_mapLanes_raiseFlags (satFlag_or _) hc hb he hd

/-- A word that saturates in one of its forms. -/
theorem laneWord_laneSat_or_laneBin {x a b : BitVec 7} {bs : BitVec 2} {sat : Bool} {f : Nat → W32 × Bool} {f' : W32 → W32 → W32}
    (hc : s.cur = .gang g k) (hb : s.begins i = true) (he : issue i s body = .next t)
    (hd : body s.cur s.unheld = .done (if sat then s.unheld.laneSat s.cur x f else s.unheld.laneBin s.cur x a b bs f')) :
    State.LaneWord g k x.toNat 0x20 steps s t := by
  cases sat with
  | true => exact laneWord_laneSat hc hb he hd
  | false => exact laneWord_mapLanes hc hb he hd

theorem State.laneFloat_done {s : State} {th : ThreadId} (h : (s.uni th).fpctl.extractLsb' 4 5 = 0) (x : BitVec 7) (f : Nat → W32 × Flags) :
    ∃ fl, s.laneFloat th x f = .done ((s.mapLanes th x.toNat fun l => (f l).1).raiseFlags th fl) :=
  ⟨_, by simp only [State.laneFloat, Uni.enabled_eq_false h, Bool.false_eq_true, if_false]; rfl⟩

/-- No flag lies outside a word of ones. -/
theorem setWidth_or_allOnes (fl : Flags) : fl.setWidth 64 ||| BitVec.allOnes 64 = BitVec.allOnes 64 := BitVec.or_allOnes

theorem laneWord_laneFloat {x : BitVec 7} {f : Nat → W32 × Flags} (h : (s.uni s.cur).fpctl.extractLsb' 4 5 = 0) (hc : s.cur = .gang g k)
    (hb : s.begins i = true) (he : issue i s body = .next t) (hd : body s.cur s.unheld = s.unheld.laneFloat s.cur x f) :
    State.LaneWord g k x.toNat (BitVec.allOnes 64) steps s t := by
  obtain ⟨fl, hfl⟩ := State.laneFloat_done (s := s.unheld) (by rw [State.unheld_uni]; exact h) x f
  exact laneWord_mapLanes_raiseFlags (setWidth_or_allOnes fl) hc hb he (hd.trans hfl)

theorem laneWord_cvt {q sat : Bool} {x a : BitVec 7} {c : BitVec 4} {r : BitVec 3} (h : (s.uni s.cur).fpctl.extractLsb' 4 5 = 0)
    (hc : s.cur = .gang g k) (hb : s.begins (.cvt q x a c r sat) = true) (he : exec (.cvt q x a c r sat) s = .next t) :
    State.LaneWord g k x.toNat (BitVec.allOnes 64) (decide (r = 5)) s t := by
  have he : execCvt q x a c r sat s = .next t := he
  unfold execCvt at he
  obtain ⟨fl, hfl⟩ := State.laneFloat_done (s := s.unheld) (th := s.cur) (by rw [State.unheld_uni]; exact h) x
    fun l => laneValue (cvtOp c.toNat ((s.unheld.uni s.cur).rounding r.toNat)
      (if r = 5 then some (s.unheld.randomBits s.cur l) else none) (s.unheld.uni s.cur).ftz sat (s.unheld.laneReg s.cur a.toNat l))
  refine laneWord_of_done hc hb he (by dsimp only; rw [hfl]) ?_
  rw [hc]
  have h1 := (State.LaneStep.mapLanes s.unheld g k x.toNat (BitVec.allOnes 64) (decide (r = 5)) (fun l =>
    (laneValue (cvtOp c.toNat ((s.unheld.uni (.gang g k)).rounding r.toNat)
      (if r = 5 then some (s.unheld.randomBits (.gang g k) l) else none) (s.unheld.uni (.gang g k)).ftz sat
      (s.unheld.laneReg (.gang g k) a.toNat l))).1)).trans (.raiseFlags _ _ _ _ _ (setWidth_or_allOnes fl))
  by_cases hr : r = 5
  · subst hr
    exact h1.trans (.stepGens _ _ _ _ _)
  · rw [if_neg hr]
    exact h1

end

end Sys2Proof.Machine
end

section
/-! PROOFS. What register words leave unchanged (R130, R132, R140 to R145): compares and the words of several lanes. -/

namespace Sys2Proof.Machine

/-! ### Compares -/

/-- A compare of the lane set has completed. -/
structure State.PredWord (g k c : Nat) (m : W64) (s t : State) : Prop where
  rest : t = { s with groups := t.groups, pfx := none }
  groups : ∀ h, h ≠ g → t.group h = s.group h
  group : t.group g = { s.group g with
    p := (t.group g).p, uni := (t.group g).uni, slices := (t.group g).slices, barHold := none, xbarHold := false }
  preds : ∀ q l, q < 8 → l < 32 → q ≠ c ∨ l ∉ (s.group g).lanes k → (t.group g).getP q l = (s.group g).getP q l
  uni : (t.group g).uni = { (s.group g).uni with fpstat := (t.group g).uni.fpstat }
  flags : (t.group g).uni.fpstat ||| m = (s.group g).uni.fpstat ||| m
  kept : (t.group g).uni.fpstat &&& (s.group g).uni.fpstat = (s.group g).uni.fpstat
  shape : (t.group g).slices.map Slice.shape = (s.group g).slices.map Slice.shape

section

variable {s t u : State} {i : Instr} {body : ThreadId → State → Did} {g k c : Nat} {m : W64}

theorem predWord_of_done (hc : s.cur = .gang g k) (hb : s.begins i = true) (he : issue i s body = .next t)
    (hd : body s.cur s.unheld = .done u) (hu : State.InGroup g s.unheld u) (hq : u.reqs = s.unheld.reqs) (hn : u.nextId = s.unheld.nextId)
    (hf : Group.PredFrame k c m (s.unheld.group g) (u.group g)) : State.PredWord g k c m s t := by
  have hsl : (u.group g).slices = (s.unheld.group g).slices := (congrArg Group.slices hf.rest :)
  obtain ⟨hr, hp, hq', hn', hg⟩ := groupWord_of_done hc hb he hd hu (congrArg Group.step hf.rest :)
  obtain ⟨hx, -⟩ := State.inGroup_unheld hc
  have hq := hq'.trans (hq.trans (congrArg State.reqs s.unheld_eq))
  have hn := hn'.trans (hn.trans (congrArg State.nextId s.unheld_eq))
  have hs : ((u.group g).boundary k (s.pcOf s.cur + 4)).slices.map Slice.shape = (s.group g).slices.map Slice.shape := by
    rw [Group.shape_boundary, hsl, hx]
  obtain ⟨h1, h2, h3, h4, h5⟩ := hf
  rw [hx] at h1 h2 h3 h4 h5
  refine ⟨?_, hr.groups, ?_, ?_, ?_, ?_, ?_, ?_⟩
  · have h := hr.rest
    rw [hp, hq, hn] at h
    exact h
  all_goals rw [hg]
  · generalize u.group g = y at h1
    rw [h1]
    rfl
  · exact h2
  · exact h3
  · exact h4
  · exact h5
  · exact hs

theorem predWord_mapPreds {f : Nat → Bool} (hc : s.cur = .gang g k) (hb : s.begins i = true) (he : issue i s body = .next t)
    (hd : body s.cur s.unheld = .done (s.unheld.mapPreds s.cur c f)) : State.PredWord g k c m s t := by
  rw [hc] at hd
  refine predWord_of_done hc hb he (by rw [hc]; exact hd) (.setGroup _ _ _) rfl rfl ?_
  rw [State.group_setGroup]
  exact Group.predFrame_foldPutP m _ k c f

theorem predWord_fcmp {q : Bool} {c' : BitVec 4} {p : BitVec 3} {a b : BitVec 7} {bs : BitVec 2}
    (h : (s.uni s.cur).fpctl.extractLsb' 4 5 = 0) (hc : s.cur = .gang g k) (hb : s.begins (.fcmp q c' p a b bs) = true)
    (he : exec (.fcmp q c' p a b bs) s = .next t) : State.PredWord g k p.toNat (BitVec.allOnes 64) s t := by
  have he : execFcmp q c' p a b bs s = .next t := he
  unfold execFcmp at he
  rw [← State.unheld_uni] at h
  refine predWord_of_done hc hb he (by simp only [Uni.enabled_eq_false h, Bool.false_eq_true, if_false]; rfl) ?_ ?_ ?_ ?_
  all_goals rw [hc]
  · exact (State.InGroup.setGroup _ _ _).trans (.setGroup _ _ _)
  · rfl
  · rfl
  · refine (congrArg (Group.PredFrame _ _ _ _) (State.group_setGroup _ _ _)).mpr ?_
    refine Group.PredFrame.raiseFlags ?_ (setWidth_or_allOnes _)
    refine (congrArg (Group.PredFrame _ _ _ _) (State.group_setGroup _ _ _)).mpr ?_
    exact Group.predFrame_foldPutP _ _ k _ _

end

/-! ### Words whose destination fills later -/

/-- The uniform register that a request fills. -/
def Dest.uniReg : Dest → Option Nat
  | .w r => some r
  | _ => none

theorem Group.foldl_emptyV (x : Group) (l : List Nat) :
    l.foldl Group.emptyV x = { x with vEmpty := l.foldl (fun m r => setBit m r true) x.vEmpty } := by
  induction l generalizing x with
  | nil => rfl
  | cons r l ih => exact ih (x.emptyV r)

/-- R11, R86: a group with the destination of a request empty. -/
theorem Group.emptyDest_eq (x : Group) (d : Dest) : x.emptyDest d =
    { x with
      vEmpty := d.regs.foldl (fun m r => setBit m r true) x.vEmpty
      uni := { x.uni with empty := (x.emptyDest d).uni.empty } } := by
  cases d with
  | v r pair =>
    have h : x.emptyDest (.v r pair) = _ := x.foldl_emptyV (regPair pair r)
    rw [h]
    rfl
  | w r =>
    unfold Group.emptyDest Uni.emptyW
    dsimp only
    split <;> rfl
  | _ => rfl

theorem Uni.empty_emptyW (u : Uni) (n : Nat) {r : Nat} (hr : r < 64) :
    (u.emptyW n).empty.getLsbD r = (u.empty.getLsbD r || (r == n && r != 0)) := by
  unfold Uni.emptyW
  by_cases hn : n = 0
  · subst hn
    by_cases h0 : r = 0 <;> simp [h0]
  · rw [if_neg hn, getLsbD_setBit _ _ _ _ hr]
    by_cases h : r = n
    · simp [h, hn]
    · simp [h]

theorem Group.empty_emptyDest (x : Group) (d : Dest) {r : Nat} (hr : r < 64) :
    (x.emptyDest d).uni.empty.getLsbD r = (x.uni.empty.getLsbD r || (d.uniReg == some r && r != 0)) := by
  cases d with
  | v n pair =>
    rw [show x.emptyDest (.v n pair) = _ from x.foldl_emptyV _]
    simp [Dest.uniReg]
  | w n =>
    rw [show (x.emptyDest (.w n)).uni = x.uni.emptyW n from rfl, Uni.empty_emptyW _ _ hr]
    simp [Dest.uniReg, Bool.beq_comm (a := n)]
  | _ => simp [Group.emptyDest, Group.emptyV, Dest.uniReg]

/-- What a word of several lanes leaves of its group before its result comes: its destination is empty, and flags of `m` may be set. -/
structure Group.CrossFrame (d : Dest) (m : W64) (x y : Group) : Prop where
  rest : y = { x with uni := y.uni, vEmpty := d.regs.foldl (fun m r => setBit m r true) x.vEmpty }
  uni : y.uni = { x.uni with fpstat := y.uni.fpstat, empty := y.uni.empty }
  empty : ∀ r, r < 64 → y.uni.empty.getLsbD r = (x.uni.empty.getLsbD r || (d.uniReg == some r && r != 0))
  flags : y.uni.fpstat ||| m = x.uni.fpstat ||| m
  kept : y.uni.fpstat &&& x.uni.fpstat = x.uni.fpstat

theorem Group.crossFrame_emptyDest (x : Group) (d : Dest) (m : W64) : CrossFrame d m x (x.emptyDest d) := by
  have hr := x.emptyDest_eq d
  have hu : (x.emptyDest d).uni = { x.uni with empty := (x.emptyDest d).uni.empty } := (congrArg Group.uni hr :)
  have hs : (x.emptyDest d).uni.fpstat = x.uni.fpstat := (congrArg Uni.fpstat hu :)
  refine ⟨?_, ?_, fun r => x.empty_emptyDest d, by rw [hs], by rw [hs, BitVec.and_self]⟩
  · rw [← hu] at hr
    exact hr
  · rw [hs]
    exact hu

theorem Group.CrossFrame.raiseFlags {d : Dest} {m : W64} {x y : Group} {f : Flags} (h : CrossFrame d m x y) (hf : f.setWidth 64 ||| m = m) :
    CrossFrame d m x { y with uni := y.uni.raiseFlags f } := by
  refine ⟨?_, ?_, h.empty, ((BitVec.or_assoc _ _ _).trans (congrArg _ hf)).trans h.flags, ?_⟩
  · have h1 := h.rest
    rw [h1]
  · have h1 := h.uni
    rw [h1]
    rfl
  · rw [← h.kept, ← BitVec.and_assoc]
    exact congrArg (· &&& x.uni.fpstat) (Uni.Frame.raiseFlags none none y.uni f).kept

/-- A request is under way and its destination empty. -/
structure State.CrossStep (g : Nat) (d : Dest) (m : W64) (s u : State) : Prop where
  rest : State.InGroup g s u
  reqs : ∀ n, n ≠ s.nextId → u.reqs.find? n = s.reqs.find? n
  nextId : u.nextId = s.nextId + 1
  group : Group.CrossFrame d m (s.group g) (u.group g)

namespace State.CrossStep

variable {g k : Nat} {d : Dest} {m : W64} {s u : State}

theorem pushResult (s : State) (g k : Nat) (d : Dest) (m : W64) (vals : Tbl W64) :
    CrossStep g d m s (s.pushResult (.gang g k) d vals) := by
  refine ⟨(State.InGroup.setGroup s g _).trans ⟨rfl, fun _ _ => rfl⟩, fun n hn => ?_, rfl, ?_⟩
  · exact (Tbl.find?_insert _ _ _ _).trans (if_neg hn)
  · refine (congrArg (Group.CrossFrame d m _) (State.group_setGroup s g _)).mpr ?_
    exact Group.crossFrame_emptyDest _ _ _

theorem raiseFlags (h : CrossStep g d m s u) (k : Nat) {f : Flags} (hf : f.setWidth 64 ||| m = m) :
    CrossStep g d m s (u.raiseFlags (.gang g k) f) := by
  refine ⟨h.rest.trans (.setGroup _ _ _), h.reqs, h.nextId, ?_⟩
  refine (congrArg (Group.CrossFrame d m _) (State.group_setGroup u g _)).mpr ?_
  exact h.group.raiseFlags hf

end State.CrossStep

/-- A word of several lanes has issued: its destination is empty, its result is to come, and it may have raised flags. -/
structure State.CrossWord (g : Nat) (d : Dest) (m : W64) (s t : State) : Prop where
  rest : t = { s with groups := t.groups, reqs := t.reqs, nextId := s.nextId + 1, pfx := none }
  groups : ∀ h, h ≠ g → t.group h = s.group h
  reqs : ∀ n, n ≠ s.nextId → t.reqs.find? n = s.reqs.find? n
  group : t.group g = { s.group g with
    slices := (t.group g).slices, uni := (t.group g).uni, barHold := none, xbarHold := false
    vEmpty := d.regs.foldl (fun m r => setBit m r true) (s.group g).vEmpty }
  uni : (t.group g).uni = { (s.group g).uni with fpstat := (t.group g).uni.fpstat, empty := (t.group g).uni.empty }
  empty : ∀ r, r < 64 → (t.group g).uni.empty.getLsbD r = ((s.group g).uni.empty.getLsbD r || (d.uniReg == some r && r != 0))
  flags : (t.group g).uni.fpstat ||| m = (s.group g).uni.fpstat ||| m
  kept : (t.group g).uni.fpstat &&& (s.group g).uni.fpstat = (s.group g).uni.fpstat
  shape : (t.group g).slices.map Slice.shape = (s.group g).slices.map Slice.shape

section

variable {s t u : State} {i : Instr} {body : ThreadId → State → Did} {g k : Nat} {m : W64} {d : Dest} {vals : Tbl W64} {fl : Flags}

theorem crossWord_of_done (hc : s.cur = .gang g k) (hb : s.begins i = true) (he : issue i s body = .next t)
    (hd : body s.cur s.unheld = .done u) (hu : State.CrossStep g d m s.unheld u) : State.CrossWord g d m s t := by
  obtain ⟨hr, hp, hq, hn, hg⟩ := groupWord_of_done hc hb he hd hu.rest (congrArg Group.step hu.group.rest :)
  obtain ⟨hx, -⟩ := State.inGroup_unheld hc
  have hn0 : s.unheld.nextId = s.nextId := (congrArg State.nextId s.unheld_eq :)
  have hq0 : s.unheld.reqs = s.reqs := (congrArg State.reqs s.unheld_eq :)
  have hn := hn.trans (hu.nextId.trans (congrArg (· + 1) hn0))
  have hs : ((u.group g).boundary k (s.pcOf s.cur + 4)).slices.map Slice.shape = (s.group g).slices.map Slice.shape := by
    rw [Group.shape_boundary, show (u.group g).slices = (s.unheld.group g).slices from (congrArg Group.slices hu.group.rest :), hx]
  obtain ⟨h1, h2, h3, h4, h5⟩ := hu.group
  rw [hx] at h1 h2 h3 h4 h5
  refine ⟨?_, hr.groups, fun n hne => ?_, ?_, ?_, ?_, ?_, ?_, ?_⟩
  · have h := hr.rest
    rw [hp, hn] at h
    exact h
  · rw [hq, hu.reqs n (by rw [hn0]; exact hne), hq0]
  all_goals rw [hg]
  · generalize u.group g = y at h1
    rw [h1]
    rfl
  · exact h2
  · exact h3
  · exact h4
  · exact h5
  · exact hs

theorem crossWord_pushResult (hc : s.cur = .gang g k) (hb : s.begins i = true) (he : issue i s body = .next t)
    (hd : body s.cur s.unheld = .done (s.unheld.pushResult s.cur d vals)) : State.CrossWord g d m s t :=
  crossWord_of_done hc hb he hd (by rw [hc]; exact .pushResult _ _ _ _ _ _)

/-- A word that traps on an enabled exception of its result, where none is enabled. -/
theorem crossWord_fold {tr : Trap} (hf : fl.setWidth 64 ||| m = m) (hen : (s.unheld.uni s.cur).enabled fl = false) (hc : s.cur = .gang g k)
    (hb : s.begins i = true) (he : issue i s body = .next t)
    (hd : body s.cur s.unheld = if (s.unheld.uni s.cur).enabled fl then .trap tr
      else .done ((s.unheld.pushResult s.cur d vals).raiseFlags s.cur fl)) : State.CrossWord g d m s t := by
  rw [hen] at hd
  exact crossWord_of_done hc hb he hd (by rw [hc]; exact (State.CrossStep.pushResult _ _ _ _ _ _).raiseFlags k hf)

end

/-! ### Folds of integers raise no flag -/

section

variable {code : Nat} (hc : code < 8) (ftz : Bool)
include hc

theorem foldOp_flags (x y : W32) : (foldOp code ftz x y).2 = 0 := by
  match code, hc with
  | 0, _ | 1, _ | 2, _ | 3, _ | 4, _ | 5, _ | 6, _ | 7, _ => rfl

theorem foldLevel_flags (l : List W32) : (foldLevel code ftz l).2 = 0 := by
  match l with
  | [] | [_] => rfl
  | x :: y :: rest => simp [foldLevel, foldOp_flags hc, foldLevel_flags rest]

theorem foldTree_flags (n : Nat) (x : List W32 × Flags) : (foldTree code ftz n x).2 = x.2 := by
  induction n generalizing x with
  | zero => rfl
  | succ n ih => simp [foldTree, ih, foldLevel_flags hc]

theorem scanStep_flags (n : Nat) (x : List W32) : (scanStep code ftz n x).2 = 0 := by
  have h : ∀ l : List (W32 × Flags), (∀ y ∈ l, y.2 = 0) → l.foldl (fun f y => f ||| y.2) (0 : Flags) = 0 := by
    intro l hl
    induction l with
    | nil => rfl
    | cons y l ih =>
      rw [List.foldl_cons, hl y (List.mem_cons_self ..), BitVec.or_self]
      exact ih fun z hz => hl z (List.mem_cons_of_mem _ hz)
  refine h _ fun y hy => ?_
  obtain ⟨l, -, rfl⟩ := List.mem_map.mp hy
  split
  · exact foldOp_flags hc _ _ _
  · rfl

theorem scanValues_flags (ex : Bool) (x : List W32) : (scanValues code ftz ex x).2 = 0 := by
  simp [scanValues, scanStep_flags hc]

end

/-- No exception of a fold is enabled: it is one of integers, or none is enabled at all. -/
theorem Uni.enabled_fold {u : Uni} {code : Nat} {f : Flags} (h : code < 8 ∨ u.fpctl.extractLsb' 4 5 = 0) (hf : code < 8 → f = 0) :
    u.enabled f = false := by
  rcases h with h | h
  · rw [hf h]
    simp [Uni.enabled]
  · exact Uni.enabled_eq_false h f

end Sys2Proof.Machine
end

section
/-! PROOFS. What register words leave unchanged (R7, R11, R70, R129 to R146): the words of both sets. -/

namespace Sys2Proof.Machine

/-! ### Words that raise no flag -/

/-- Registers of the same fields but for the flags, and the same flags, are equal. -/
theorem Uni.eq_of_fpstat {a b : Uni} (h : b = { a with fpstat := b.fpstat }) (hf : b.fpstat ||| 0 = a.fpstat ||| 0) : b = a := by
  have hf : b.fpstat = a.fpstat := by simpa using hf
  rw [h, hf]

/-- The flags a word may raise, as a mask. -/
def flagMask (flags : Bool) (m : W64) : W64 := bif flags then m else 0

theorem Uni.eq_of_flagMask {a b : Uni} {flags : Bool} {m : W64} (h : b = { a with fpstat := b.fpstat })
    (hf : b.fpstat ||| flagMask flags m = a.fpstat ||| flagMask flags m) :
    b = if flags then { a with fpstat := b.fpstat } else a := by
  cases flags with
  | true => exact h
  | false => exact eq_of_fpstat h hf

section

variable {s t : State} {g k d : Nat} {m : W64} {steps flags : Bool}

theorem State.LaneWord.group_still (h : LaneWord g k d m steps s t) (hs : steps = false) : t.group g = { s.group g with
    v := (t.group g).v, uni := (t.group g).uni, slices := (t.group g).slices, barHold := none, xbarHold := false
    vOld := (t.group g).vOld, vPoison := (t.group g).vPoison } := by
  have h1 := h.group
  rw [h.still hs] at h1
  exact h1

theorem State.LaneWord.vEmpty_eq (h : LaneWord g k d m steps s t) : (t.group g).vEmpty = (s.group g).vEmpty :=
  (congrArg Group.vEmpty h.group :)

theorem State.LaneWord.fpstat_or (h : LaneWord g k d (flagMask flags m) steps s t) : (t.group g).uni.fpstat ||| m = (s.group g).uni.fpstat ||| m := by
  cases flags with
  | true => exact h.flags
  | false => rw [Uni.eq_of_fpstat h.uni h.flags]

theorem State.CrossWord.uni_eq {r : Nat} (h : CrossWord g (.v r false) 0 s t) : (t.group g).uni = (s.group g).uni := by
  have he : (t.group g).uni.empty = (s.group g).uni.empty := BitVec.eq_of_getLsbD_eq fun i hi => by
    rw [h.empty i hi]
    simp [Dest.uniReg]
  have hu := h.uni
  rw [he] at hu
  exact Uni.eq_of_fpstat hu h.flags

theorem State.CrossWord.fpstat_eq {x : Dest} (h : CrossWord g x 0 s t) : (t.group g).uni.fpstat = (s.group g).uni.fpstat := by
  simpa using h.flags

/-- A word of one lane register per lane changes its group's elements of that register in the gang's lanes, and nothing else. -/
theorem State.mapLanes_frame (s : State) (g k d : Nat) (f : Nat → W32) {r l : Nat} (hl : l < 32) :
    let t := s.mapLanes (.gang g k) d f
    (t.group g).getV r l = (if r = d ∧ l ∈ (s.group g).lanes k then f l else (s.group g).getV r l) ∧
    (t.group g).p = (s.group g).p ∧ (t.group g).uni = (s.group g).uni ∧ (t.group g).slices = (s.group g).slices ∧
    (t.group g).gens = (s.group g).gens ∧ (∀ h, h ≠ g → t.group h = s.group h) ∧ t = { s with groups := t.groups } := by
  have hv := (s.group g).getV_putLanes d f (ls := (s.group g).lanes k) (fun _ => Group.mem_lanes_lt) r hl
  obtain ⟨v, vo, vp, h⟩ := (s.group g).putLanes_eq d (((s.group g).lanes k).map fun l => (l, f l))
  have hg : (s.mapLanes (.gang g k) d f).group g = _ := State.group_setGroup s g _
  dsimp only
  rw [hg]
  refine ⟨hv, ?_, ?_, ?_, ?_, fun i hi => group_setGroup_ne _ _ hi, rfl⟩
  all_goals rw [h]

end

end Sys2Proof.Machine
end

section
/-! PROOFS. Register words and what they leave (RegisterWordFrames). -/

open Sys2Proof Sys2Proof.Machine in
/-- Settles O57: every word has its body's effect on the thread's own registers alone (`UniWord`, `LaneWord`, `PredWord`,
`CrossWord`), and then the gang or thread goes on to the next word. -/
theorem registerWordFrames : Obligations.RegisterWordFrames := by
  unfold Obligations.RegisterWordFrames
  refine ⟨?_, ?_, ?_, ?_, ?_, ?_, ?_⟩
  · intro s t i w k flags hi hb he
    have h : s.UniWord t w k flags := by
      split at hi
      · obtain ⟨rfl, rfl, rfl⟩ := hi
        exact uniWord_putW hb (show execUmul _ _ _ _ _ _ s = _ from he) rfl
      · obtain ⟨rfl, rfl, rfl⟩ := hi
        exact uniWord_putW hb (show execUmulh _ _ _ _ _ _ _ s = _ from he) rfl
      · obtain ⟨rfl, rfl, rfl⟩ := hi
        exact uniWord_putW hb (show execUdiv _ _ _ _ _ _ _ s = _ from he) rfl
      · obtain ⟨rfl, rfl, rfl⟩ := hi
        exact uniWord_putW hb (show execUrem _ _ _ _ _ _ _ s = _ from he) rfl
      · obtain ⟨rfl, rfl, rfl⟩ := hi
        exact uniWord_putW hb (show execUand _ _ _ _ _ s = _ from he) rfl
      · obtain ⟨rfl, rfl, rfl⟩ := hi
        exact uniWord_putW hb (show execUor _ _ _ _ _ s = _ from he) rfl
      · obtain ⟨rfl, rfl, rfl⟩ := hi
        exact uniWord_putW hb (show execUxor _ _ _ _ _ s = _ from he) rfl
      · obtain ⟨rfl, rfl, rfl⟩ := hi
        exact uniWord_putW hb (show execUshl _ _ _ _ _ _ s = _ from he) rfl
      · obtain ⟨rfl, rfl, rfl⟩ := hi
        exact uniWord_putW hb (show execUshr _ _ _ _ _ _ _ s = _ from he) rfl
      · obtain ⟨rfl, rfl, rfl⟩ := hi
        exact uniWord_putW hb (show execUmin _ _ _ _ _ _ s = _ from he) rfl
      · obtain ⟨rfl, rfl, rfl⟩ := hi
        exact uniWord_putW hb (show execUmax _ _ _ _ _ _ s = _ from he) rfl
      · obtain ⟨rfl, rfl, rfl⟩ := hi
        exact uniWord_putW hb (show execUsel _ _ _ _ _ _ s = _ from he) rfl
      · obtain ⟨rfl, rfl, rfl⟩ := hi
        exact uniWord_putW hb (show execUun _ _ _ _ _ s = _ from he) rfl
      · obtain ⟨rfl, rfl, rfl⟩ := hi
        exact uniWord_putW hb (show execUaddi _ _ _ _ s = _ from he) rfl
      · obtain ⟨rfl, rfl, rfl⟩ := hi
        exact uniWord_putW hb (show execUandi _ _ _ _ s = _ from he) rfl
      · obtain ⟨rfl, rfl, rfl⟩ := hi
        exact uniWord_putW hb (show execUori _ _ _ _ s = _ from he) rfl
      · obtain ⟨rfl, rfl, rfl⟩ := hi
        exact uniWord_putW hb (show execUxori _ _ _ _ s = _ from he) rfl
      · obtain ⟨rfl, rfl, rfl⟩ := hi
        exact uniWord_putW hb (show execUshli _ _ _ _ s = _ from he) rfl
      · obtain ⟨rfl, rfl, rfl⟩ := hi
        exact uniWord_putW hb (show execUshri _ _ _ _ _ s = _ from he) rfl
      · obtain ⟨rfl, rfl, rfl⟩ := hi
        exact uniWord_putW hb (show execUmovi _ _ _ s = _ from he) rfl
      · obtain ⟨rfl, rfl, rfl⟩ := hi
        exact uniWord_putK hb (show execUcmp _ _ _ _ _ _ s = _ from he) rfl
      · obtain ⟨rfl, rfl, rfl⟩ := hi
        exact uniWord_putK hb (show execUcmpi _ _ _ _ _ s = _ from he) rfl
      · obtain ⟨rfl, rfl, rfl⟩ := hi
        exact uniWord_putW_raiseFlags hb (show execUadd _ _ _ _ _ _ _ s = _ from he) rfl
      · obtain ⟨rfl, rfl, rfl⟩ := hi
        exact uniWord_putW_raiseFlags hb (show execUsub _ _ _ _ _ _ _ s = _ from he) rfl
      · obtain ⟨rfl, rfl, rfl, hx⟩ := hi
        exact uniWord_uniFloat hx hb (show execUfadd _ _ _ _ _ _ _ s = _ from he) rfl
      · obtain ⟨rfl, rfl, rfl, hx⟩ := hi
        exact uniWord_uniFloat hx hb (show execUfsub _ _ _ _ _ _ _ s = _ from he) rfl
      · obtain ⟨rfl, rfl, rfl, hx⟩ := hi
        exact uniWord_uniFloat hx hb (show execUfmul _ _ _ _ _ _ _ s = _ from he) rfl
      · obtain ⟨rfl, rfl, rfl, hx⟩ := hi
        exact uniWord_uniFloat hx hb (show execUffma _ _ _ _ _ _ _ s = _ from he) rfl
      · obtain ⟨rfl, rfl, rfl, hx⟩ := hi
        exact uniWord_uniFloat hx hb (show execUfdiv _ _ _ _ _ _ _ s = _ from he) rfl
      · obtain ⟨rfl, rfl, rfl, hx⟩ := hi
        exact uniWord_uniFloat hx hb (show execUfun _ _ _ _ _ _ s = _ from he) rfl
      · obtain ⟨rfl, rfl, rfl, hx⟩ := hi
        exact uniWord_uniFloat hx hb (show execUfcvt _ _ _ _ _ s = _ from he) rfl
      · obtain ⟨rfl, rfl, rfl, hx⟩ := hi
        exact uniWord_ufcmp hx hb he
      · exact hi.elim
    have hs := h.sameBut
    exact ⟨h.uni.regs, h.uni.preds, h.uni.fpctl, h.uni.fpstat, h.uni.kept, (congrArg State.mem hs :), (congrArg State.l1 hs :), hs,
      fun g n hc => h.gang hc, fun c hc => h.spine hc, fun p hc => h.service hc, h.monitor⟩
  · intro s t i g k d flags hc hi hb he
    have h : State.LaneWord g k d (flagMask flags 0x20) false s t := by
      split at hi
      · obtain ⟨rfl, rfl⟩ := hi
        exact laneWord_mapLanes hc hb (show execMul _ _ _ _ _ s = _ from he) rfl
      · obtain ⟨rfl, rfl⟩ := hi
        exact laneWord_mapLanes hc hb (show execMulhi _ _ _ _ _ _ s = _ from he) rfl
      · obtain ⟨rfl, rfl⟩ := hi
        exact laneWord_mapLanes hc hb (show execImad _ _ _ _ _ s = _ from he) rfl
      · obtain ⟨rfl, rfl⟩ := hi
        exact laneWord_mapLanes hc hb (show execAnd _ _ _ _ _ s = _ from he) rfl
      · obtain ⟨rfl, rfl⟩ := hi
        exact laneWord_mapLanes hc hb (show execOr _ _ _ _ _ s = _ from he) rfl
      · obtain ⟨rfl, rfl⟩ := hi
        exact laneWord_mapLanes hc hb (show execXor _ _ _ _ _ s = _ from he) rfl
      · obtain ⟨rfl, rfl⟩ := hi
        exact laneWord_mapLanes hc hb (show execShl _ _ _ _ _ s = _ from he) rfl
      · obtain ⟨rfl, rfl⟩ := hi
        exact laneWord_mapLanes hc hb (show execShr _ _ _ _ _ _ s = _ from he) rfl
      · obtain ⟨rfl, rfl⟩ := hi
        exact laneWord_mapLanes hc hb (show execMin _ _ _ _ _ _ s = _ from he) rfl
      · obtain ⟨rfl, rfl⟩ := hi
        exact laneWord_mapLanes hc hb (show execMax _ _ _ _ _ _ s = _ from he) rfl
      · obtain ⟨rfl, rfl⟩ := hi
        exact laneWord_mapLanes hc hb (show execSel _ _ _ _ _ s = _ from he) rfl
      · obtain ⟨rfl, rfl⟩ := hi
        exact laneWord_mapLanes hc hb (show execBfx _ _ _ _ _ s = _ from he) rfl
      · obtain ⟨rfl, rfl⟩ := hi
        exact laneWord_mapLanes hc hb (show execBfi _ _ _ _ _ s = _ from he) rfl
      · obtain ⟨rfl, rfl⟩ := hi
        exact laneWord_mapLanes hc hb (show execAddi _ _ _ _ s = _ from he) rfl
      · obtain ⟨rfl, rfl⟩ := hi
        exact laneWord_mapLanes hc hb (show execAndi _ _ _ _ s = _ from he) rfl
      · obtain ⟨rfl, rfl⟩ := hi
        exact laneWord_mapLanes hc hb (show execOri _ _ _ _ s = _ from he) rfl
      · obtain ⟨rfl, rfl⟩ := hi
        exact laneWord_mapLanes hc hb (show execXori _ _ _ _ s = _ from he) rfl
      · obtain ⟨rfl, rfl⟩ := hi
        exact laneWord_mapLanes hc hb (show execShli _ _ _ _ s = _ from he) rfl
      · obtain ⟨rfl, rfl⟩ := hi
        exact laneWord_mapLanes hc hb (show execShri _ _ _ _ _ s = _ from he) rfl
      · obtain ⟨rfl, rfl⟩ := hi
        exact laneWord_mapLanes hc hb (show execMovi _ _ _ s = _ from he) rfl
      · obtain ⟨rfl, rfl⟩ := hi
        exact laneWord_laneSat_or_laneBin hc hb (show execAdd _ _ _ _ _ _ s = _ from he) rfl
      · obtain ⟨rfl, rfl⟩ := hi
        exact laneWord_laneSat_or_laneBin hc hb (show execSub _ _ _ _ _ _ s = _ from he) rfl
      · obtain ⟨rfl, rfl⟩ := hi
        exact laneWord_laneSat hc hb (show execIun _ _ _ _ _ s = _ from he) rfl
      · exact hi.elim
    refine ⟨h.rest, h.groups, ?_, h.vals, Uni.eq_of_flagMask h.uni h.flags, h.fpstat_or, h.shape⟩
    rw [h.vEmpty_eq]
    exact h.group_still rfl
  · intro s t i g k d hc hi hb he
    have h : State.CrossWord g (.v d false) 0 s t := by
      split at hi
      · subst hi
        exact crossWord_pushResult hc hb (show execShflPick _ _ _ _ _ s = _ from he) rfl
      · subst hi
        exact crossWord_pushResult hc hb (show execShflSwap _ _ _ _ _ s = _ from he) rfl
      · subst hi
        exact crossWord_pushResult hc hb (show execShflBack _ _ _ _ _ s = _ from he) rfl
      · subst hi
        exact crossWord_pushResult hc hb (show execShflFwd _ _ _ _ _ s = _ from he) rfl
      · exact hi.elim
    refine ⟨h.rest, h.groups, h.reqs, ?_, h.shape⟩
    have h1 := h.group
    rw [h.uni_eq] at h1
    exact h1
  · intro s t i g k d steps hc hi hx hb he
    have h : State.LaneWord g k d (BitVec.allOnes 64) steps s t := by
      split at hi
      · obtain ⟨rfl, rfl⟩ := hi
        exact laneWord_laneFloat hx hc hb (show execFadd _ _ _ _ _ s = _ from he) rfl
      · obtain ⟨rfl, rfl⟩ := hi
        exact laneWord_laneFloat hx hc hb (show execFsub _ _ _ _ _ s = _ from he) rfl
      · obtain ⟨rfl, rfl⟩ := hi
        exact laneWord_laneFloat hx hc hb (show execFmul _ _ _ _ _ s = _ from he) rfl
      · obtain ⟨rfl, rfl⟩ := hi
        exact laneWord_laneFloat hx hc hb (show execFfma _ _ _ _ _ s = _ from he) rfl
      · obtain ⟨rfl, rfl⟩ := hi
        exact laneWord_laneFloat hx hc hb (show execFmin _ _ _ _ _ s = _ from he) rfl
      · obtain ⟨rfl, rfl⟩ := hi
        exact laneWord_laneFloat hx hc hb (show execFmax _ _ _ _ _ s = _ from he) rfl
      · obtain ⟨rfl, rfl⟩ := hi
        exact laneWord_laneFloat hx hc hb (show execSfu _ _ _ _ s = _ from he) rfl
      · obtain ⟨rfl, rfl⟩ := hi
        exact laneWord_laneFloat hx hc hb (show execHadd2 _ _ _ _ _ _ s = _ from he) rfl
      · obtain ⟨rfl, rfl⟩ := hi
        exact laneWord_laneFloat hx hc hb (show execHmul2 _ _ _ _ _ _ s = _ from he) rfl
      · obtain ⟨rfl, rfl⟩ := hi
        exact laneWord_laneFloat hx hc hb (show execHfma2 _ _ _ _ _ _ s = _ from he) rfl
      · obtain ⟨rfl, rfl⟩ := hi
        exact laneWord_cvt hx hc hb he
      · exact hi.elim
    refine ⟨h.rest, h.groups, ?_, h.vals, h.uni, h.kept, h.still, h.gens, h.shape⟩
    rw [h.vEmpty_eq]
    exact h.group
  · intro s t i g k c flags hc hi hb he
    have h : State.PredWord g k c (flagMask flags (BitVec.allOnes 64)) s t := by
      split at hi
      · obtain ⟨rfl, rfl⟩ := hi
        exact predWord_mapPreds hc hb (show execIcmp _ _ _ _ _ _ s = _ from he) rfl
      · obtain ⟨rfl, rfl⟩ := hi
        exact predWord_mapPreds hc hb (show execIcmpi _ _ _ _ _ s = _ from he) rfl
      · obtain ⟨rfl, rfl, hx⟩ := hi
        exact predWord_fcmp hx hc hb he
      · exact hi.elim
    exact ⟨h.rest, h.groups, h.group, h.preds, Uni.eq_of_flagMask h.uni h.flags, h.kept, h.shape⟩
  · intro s t i g k w v flags hc hi hb he
    have h : ∃ d m, State.CrossWord g d m s t ∧ d.uniReg = w ∧ d.regs = v ∧ (flags = false → m = 0) := by
      split at hi
      · obtain ⟨rfl, rfl, rfl⟩ := hi
        exact ⟨.w _, 0, crossWord_pushResult hc hb (show execVote _ _ _ _ _ s = _ from he) rfl, rfl, rfl, fun _ => rfl⟩
      · obtain ⟨rfl, rfl, rfl, hx⟩ := hi
        rw [← State.unheld_uni] at hx
        exact ⟨.w _, _, crossWord_fold (setWidth_or_allOnes _)
          (Uni.enabled_fold hx fun h8 => foldTree_flags h8 _ _ _) hc hb (show execRedux _ _ _ _ s = _ from he) rfl, rfl, rfl, nofun⟩
      · obtain ⟨rfl, rfl, rfl, hx⟩ := hi
        rw [← State.unheld_uni] at hx
        exact ⟨.v _ false, _, crossWord_fold (setWidth_or_allOnes _)
          (Uni.enabled_fold hx fun h8 => scanValues_flags h8 _ _ _) hc hb (show execScan _ _ _ _ _ s = _ from he) rfl, rfl, rfl, nofun⟩
      · obtain ⟨rfl, rfl, rfl⟩ := hi
        exact ⟨.two _ _, 0, crossWord_pushResult hc hb (show execCmpx _ _ _ _ _ _ s = _ from he) rfl, rfl, rfl, fun _ => rfl⟩
      · exact hi.elim
    obtain ⟨d, m, h, rfl, rfl, hm⟩ := h
    exact ⟨h.rest, h.groups, h.reqs, h.group, h.uni, h.empty, fun hf => (hm hf ▸ h).fpstat_eq, h.kept, h.shape⟩
  · intro s g k d f r l hl
    exact s.mapLanes_frame g k d f hl
end

section
/-! PROOFS. A store word whose walk waits for the host (R367). -/

namespace Sys2Proof.Machine

/-- A spine thread about to store the byte 1 at virtual address 0, which a leaf of level 2 maps to SHARED address 0; the host may hold
the line of the level 1 table. -/
def walkWaits : State where
  cur := .spine 0
  mem := [(0x1000, 0x01), (0x1001, 0x20), (0x2000, 0x17)]
  ctxs := [(1, { info := { root := 0x1000 } })]
  spines := [(0, { th := { uni := { w := [(1, 1)] }, mode := .run, ctx := 1 } })]
  hostHeld := [(0x20, false)]

/-- The address is translated, the table's line having left the host. -/
theorem translate_walkWaits :
    (walkWaits.translate (.ctx 0 1 1024) 0 .store true).2 = .ok ⟨0, .shared⟩ := by rfl

/-- R367: the word waits for the host's answer. -/
theorem snoopHost_walkWaits : walkWaits.snoopHost (walkWaits.walkLines (.ctx 0 1 1024) 0) = some { walkWaits with biWait := [0x20] } := by rfl

/-- The word is not begun, so nothing is stored. -/
theorem exec_walkWaits : exec (.ust false 1 0 0 0 0) walkWaits = .next (walkWaits.stay { walkWaits with biWait := [0x20] }) := by rfl

theorem begins_walkWaits : walkWaits.begins (.ust false 1 0 0 0 0) = true := by rfl

end Sys2Proof.Machine

open Sys2Proof Sys2Proof.Machine in
/-- Refutes O58: its first clause has no premise on the lines that the walk for the address reads. A word waits while the host may
hold one of them (R367), as O28 has it and as `walkWaits` does: it stores nothing, where the clause has the byte 1 at address 0. -/
theorem not_storeFrames : ¬ Obligations.StoreFrames := by
  unfold Obligations.StoreFrames
  rintro ⟨hscalar, -⟩
  obtain ⟨v, he, hbytes, -⟩ := hscalar walkWaits (walkWaits.translate (.ctx 0 1 1024) 0 .store true).1 false 1 0 0 0 ⟨0, .shared⟩ nofun
    begins_walkWaits (by decide) (by decide) rfl (Prod.ext rfl translate_walkWaits) (.inl rfl) rfl rfl rfl rfl
  have hv : v = walkWaits.stay { walkWaits with biWait := [0x20] } := by
    rw [exec_walkWaits] at he
    cases he
    rfl
  have hstored : v.byteAt 0 0 = 1 := hbytes 0 (by decide)
  rw [hv] at hstored
  exact absurd hstored (by decide)
end

section
/-! PROOFS. A word that decodes is the word of its instruction (R24, R34, R35): the opcode of a row of the opcode map, its fields and
the bits that it wants zero tile the 32 bits of a word. Each field is the difference of what stands above its lowest bit and what
stands above its highest, so the sum that `encodeNat` makes of the fields telescopes. -/

namespace Sys2Proof.Laws.DecodeWord

/-- The bits of a word from bit k on, as a number. -/
def above (w k : Nat) : Int := (w / 2 ^ k : Nat)

theorem above_zero (w : Nat) : above w 0 = w := by simp [above]

theorem slice_eq_above (w lo n : Nat) : ((w / 2 ^ lo % 2 ^ n : Nat) : Int) = above w lo - 2 ^ n * above w (lo + n) := by
  rw [above, above, Nat.pow_add, ← Nat.div_div_eq_div_mul, eq_sub_iff_add_eq]
  exact_mod_cast Nat.mod_add_div _ _

theorem toNat_bits (n w lo : Nat) : ((bits n w lo).toNat : Int) = above w lo - 2 ^ n * above w (lo + n) := by
  rw [← slice_eq_above, bits_iff.1 rfl]

theorem bitOf_flag (w lo : Nat) : (bitOf (flag w lo) : Int) = above w lo - 2 * above w (lo + 1) := by
  rw [← flag_iff.1 rfl]
  exact slice_eq_above w lo 1

theorem fld_eq_iff (w lo n c : Nat) : fld w lo n = c ↔ above w lo - 2 ^ n * above w (lo + n) = c := by
  rw [← slice_eq_above, fld, Nat.cast_inj]

/-- An answer of the decoder for the word of a number: an instruction that has that word, or none. -/
def Exact (w : Nat) : Except Reject Instr → Prop
  | .ok i => i.hasWord = true ∧ (encodeNat i : Int) = w
  | .error _ => True

theorem exact_ite {w : Nat} {c : Prop} [Decidable c] {x y : Except Reject Instr} (hx : c → Exact w x) (hy : Exact w y) :
    Exact w (if c then x else y) := by
  split
  · exact hx ‹_›
  · exact hy

/-- Each row of the lane set; what stands above bit 25 is its opcode. -/
theorem exact_decodeLane (w : Nat) : Exact w (decodeLane w) := by
  have hop : above w 25 = (w / 2 ^ 25 : Nat) := rfl
  unfold decodeLane
  generalize w / 2 ^ 25 = op at hop
  split
  all_goals repeat' refine exact_ite (fun hfixed => ?_) ?_
  all_goals dsimp only [Exact]
  all_goals refine ⟨rfl, ?_⟩
  all_goals
    unfold encodeNat
    simp only [Nat.cast_add, Nat.cast_mul, Nat.cast_ofNat, toNat_bits, bitOf_flag, fld_eq_iff, Nat.reduceAdd, above_zero] at *
    omega

/-- Each row of the uniform set. -/
theorem exact_decodeUniform (w : Nat) : Exact w (decodeUniform w) := by
  have hop : above w 25 = (w / 2 ^ 25 : Nat) := rfl
  unfold decodeUniform
  generalize w / 2 ^ 25 = op at hop
  split
  all_goals repeat' refine exact_ite (fun hfixed => ?_) ?_
  all_goals dsimp only [Exact]
  all_goals refine ⟨rfl, ?_⟩
  all_goals
    unfold encodeNat
    simp only [Nat.cast_add, Nat.cast_mul, Nat.cast_ofNat, toNat_bits, bitOf_flag, fld_eq_iff, Nat.reduceAdd, above_zero] at *
    omega

/-- R24: bit 31 selects the set. -/
theorem exact_decode (w : W32) : Exact w.toNat (decode w) :=
  exact_ite (fun _ => exact_decodeLane _) (exact_decodeUniform _)

/-- A word decodes to the instruction that it is the word of. -/
theorem decode_of_encode {w : W32} {i : Instr} (hword : i.hasWord = true) (h : encode i = w) : decode w = .ok i :=
  h ▸ decode_encode i hword

end Sys2Proof.Laws.DecodeWord

open Sys2Proof Sys2Proof.Laws.DecodeWord in
/-- Settles O2: every row of the opcode map is exact. -/
theorem encodeOfDecode : Obligations.EncodeOfDecode := by
  intro w i h
  obtain ⟨hword, hnum⟩ : Exact w.toNat (.ok i) := h ▸ exact_decode w
  exact ⟨hword, by rw [encode, Nat.cast_inj.1 hnum, BitVec.ofNat_toNat, BitVec.setWidth_eq]⟩

open Sys2Proof Sys2Proof.Laws.DecodeWord in
/-- Settles O3: each word is the word of the instruction that it stands for. -/
theorem wordsDecodeAsWritten : Obligations.WordsDecodeAsWritten := by
  unfold Obligations.WordsDecodeAsWritten
  refine ⟨?_, ?_, ?_, ?_, ?_, ?_, ?_, ?_, ?_, ?_, ?_, ?_, ?_, ?_, ?_, ?_, ?_⟩
  all_goals exact decode_of_encode rfl rfl
end

section
/-! PROOFS. Immediates (R32, R78, R135): the value that a word's own bits have behind the 25 bits of `pfx` and without them. -/

namespace Sys2Proof.Machine

/-- The integer that a word's immediate stands for (R32): behind the 25 bits of `pfx`, or alone. -/
def State.immInt (s : State) {n : Nat} (own : BitVec n) : Int :=
  match s.pfx with
  | some p => p.toInt * 2 ^ n + own.toNat
  | none => own.toInt

theorem State.wideImm_eq_ofInt (s : State) {n : Nat} (own : BitVec n) : s.wideImm own = BitVec.ofInt 64 (s.immInt own) := by
  unfold State.wideImm State.immInt
  cases s.pfx with
  | none => rfl
  | some p =>
    show BitVec.ofInt 64 (p ++ own).toInt = _
    rw [BitVec.toInt_append, if_neg (by decide), Int.mul_comm]

/-- R135: an immediate of the lane set is cut to 32 bits. -/
theorem State.setWidth_wideImm (s : State) {n : Nat} (own : BitVec n) :
    (s.wideImm own).setWidth 32 = BitVec.ofInt 32 (s.immInt own) := by
  rw [State.wideImm_eq_ofInt]
  apply BitVec.eq_of_toNat_eq
  simp only [BitVec.toNat_setWidth, BitVec.toNat_ofInt]
  omega

end Sys2Proof.Machine

open Sys2Proof Sys2Proof.Machine in
/-- Settles O15, word by word: each writes one uniform register. -/
theorem uniformImmediates : Obligations.UniformImmediates := by
  intro s t x d a m i c v wide put
  have hv : s.unheld.getW s.cur a.toNat = v := State.getW_unheld _ _
  have hwide : ∀ {n : Nat} (own : BitVec n), s.unheld.wideImm own = wide own := by
    intro n own
    rw [State.unheld_wideImm, State.wideImm_eq_ofInt]
    simp only [State.immInt, wide]
    cases s.pfx <;> rfl
  refine ⟨fun hb => ?_, fun hb => ?_, fun hb => ?_, fun hb => ?_, fun hb => ?_, fun hb => ?_, fun hb => ?_⟩
  · exact (show execUaddi t d a i s = _ from issue_putW hb rfl).trans (by rw [hv, hwide])
  · exact (show execUandi t d a i s = _ from issue_putW hb rfl).trans (by rw [hv, hwide])
  · exact (show execUori t d a i s = _ from issue_putW hb rfl).trans (by rw [hv, hwide])
  · exact (show execUxori t d a i s = _ from issue_putW hb rfl).trans (by rw [hv, hwide])
  · exact (show execUshli t d a m s = _ from issue_putW hb rfl).trans (by rw [hv])
  · exact (show execUshri t d a x m s = _ from issue_putW hb rfl).trans (by rw [hv]; rfl)
  · exact (show execUmovi t d c s = _ from issue_putW hb rfl).trans (by rw [hwide])
end

section
/-! PROOFS. The integer words of the lane set (R131 to R135): results of every active lane, and the flag of a clamp. -/

namespace Sys2Proof.Machine

/-! ### Results -/

/-- R131: bits [63:32] of the signed product. -/
theorem mulHigh_signed (x y : W32) : mulHigh false x y = BitVec.ofInt 32 (x.toInt * y.toInt / 2 ^ 32) := by
  have h : x.signExtend 64 * y.signExtend 64 = BitVec.ofInt 64 (x.toInt * y.toInt) := (BitVec.ofInt_mul _ _).symm
  show ((x.signExtend 64 * y.signExtend 64) >>> 32).setWidth 32 = _
  rw [h]
  apply BitVec.eq_of_toNat_eq
  simp only [BitVec.toNat_setWidth, BitVec.toNat_ushiftRight, BitVec.toNat_ofInt, Nat.shiftRight_eq_div_pow]
  omega

/-- R131: bits [63:32] of the unsigned product. -/
theorem mulHigh_unsigned (x y : W32) : mulHigh true x y = BitVec.ofNat 32 (x.toNat * y.toNat / 2 ^ 32) := by
  have hlt : x.toNat * y.toNat < 2 ^ 32 * 2 ^ 32 := Nat.mul_lt_mul'' x.isLt y.isLt
  show ((x.setWidth 64 * y.setWidth 64) >>> 32).setWidth 32 = _
  apply BitVec.eq_of_toNat_eq
  simp only [BitVec.toNat_setWidth, BitVec.toNat_ushiftRight, BitVec.toNat_mul, BitVec.toNat_ofNat, Nat.shiftRight_eq_div_pow,
    Nat.mod_eq_of_lt (show x.toNat < 2 ^ 64 by omega), Nat.mod_eq_of_lt (show y.toNat < 2 ^ 64 by omega)]
  omega

theorem pickMin_eq {n : Nat} (u : Bool) (x y : BitVec n) :
    pickMin u x y = if u then BitVec.ofNat n (min x.toNat y.toNat) else BitVec.ofInt n (min x.toInt y.toInt) := by
  cases u with
  | false =>
    by_cases h : x.toInt ≤ y.toInt
    · simp [pickMin, BitVec.sle, h]
    · simp [pickMin, BitVec.sle, h, min_eq_right (le_of_not_ge h)]
  | true =>
    by_cases h : x.toNat ≤ y.toNat
    · simp [pickMin, BitVec.ule, h]
    · simp [pickMin, BitVec.ule, h, min_eq_right (le_of_not_ge h)]

theorem pickMax_eq {n : Nat} (u : Bool) (x y : BitVec n) :
    pickMax u x y = if u then BitVec.ofNat n (max x.toNat y.toNat) else BitVec.ofInt n (max x.toInt y.toInt) := by
  cases u with
  | false =>
    by_cases h : y.toInt ≤ x.toInt
    · simp [pickMax, BitVec.sle, h]
    · simp [pickMax, BitVec.sle, h, max_eq_right (le_of_not_ge h)]
  | true =>
    by_cases h : y.toNat ≤ x.toNat
    · simp [pickMax, BitVec.ule, h]
    · simp [pickMax, BitVec.ule, h, max_eq_right (le_of_not_ge h)]

/-- R53: the value of a clamp. -/
theorem sat32_fst (x : Int) : (sat32 x).1 = BitVec.ofInt 32 (max (-2 ^ 31) (min (2 ^ 31 - 1) x)) :=
  congrArg (BitVec.ofInt 32) (clampInt_eq x)

/-- R53: a clamp changes what a register does not hold. -/
theorem sat32_snd_iff (x : Int) : (sat32 x).2 = true ↔ x < -2 ^ 31 ∨ 2 ^ 31 ≤ x := by
  show decide (clampInt (-2 ^ 31) (2 ^ 31 - 1) x ≠ x) = true ↔ _
  rw [clampInt_eq, decide_eq_true_iff]
  omega

/-! ### Words -/

section

variable {s : State} {i : Instr} {body : ThreadId → State → Did} {r : Nat} (hb : s.begins i = true)
include hb

theorem issue_mapLanes {f f' : Nat → W32} (hd : body s.cur s.unheld = .done (s.unheld.mapLanes s.cur r f)) (hf : ∀ l, f l = f' l) :
    issue i s body = .next (s.after (s.unheld.mapLanes s.cur r f')) := by
  rw [← funext hf]
  exact issue_plain hb hd (State.mapLanes_stepped _ _ _ _) (State.mapLanes_cmds _ _ _ _)

theorem issue_mapPreds {f f' : Nat → Bool} (hd : body s.cur s.unheld = .done (s.unheld.mapPreds s.cur r f)) (hf : ∀ l, f l = f' l) :
    issue i s body = .next (s.after (s.unheld.mapPreds s.cur r f')) := by
  rw [← funext hf]
  exact issue_plain hb hd (State.mapPreds_stepped _ _ _ _) (State.mapPreds_cmds _ _ _ _)

/-- R131, R134: a word whose result may be clamped raises SAT where one of its lanes was. -/
theorem issue_laneSat {d : BitVec 7} {f : Nat → W32 × Bool} {v : Nat → W32} {clamped : Nat → Prop}
    [Decidable (∃ l ∈ s.unheld.active s.cur, clamped l)] (hd : body s.cur s.unheld = .done (s.unheld.laneSat s.cur d f))
    (hv : ∀ l, (f l).1 = v l) (hc : ∀ l, (f l).2 = true ↔ clamped l) :
    issue i s body = .next (s.after ((s.unheld.mapLanes s.cur d.toNat v).raiseFlags s.cur
      (if ∃ l ∈ s.unheld.active s.cur, clamped l then 0x20 else 0))) := by
  have hany : ((s.unheld.active s.cur).any fun l => (f l).2) = true ↔ ∃ l ∈ s.unheld.active s.cur, clamped l := by
    simp only [List.any_eq_true, hc]
  rw [← satFlag_of_iff hany, ← funext hv]
  refine issue_plain hb hd ?_ ?_
  · exact (State.raiseFlags_stepped _ _ _).trans (State.mapLanes_stepped _ _ _ _)
  · exact (State.raiseFlags_cmds _ _ _).trans (State.mapLanes_cmds _ _ _ _)

/-- R53, R131: a word that saturates. -/
theorem issue_sat32 {d : BitVec 7} {f : Nat → Int} (hd : body s.cur s.unheld = .done (s.unheld.laneSat s.cur d fun l => sat32 (f l))) :
    issue i s body = .next (s.after ((s.unheld.mapLanes s.cur d.toNat fun l =>
      BitVec.ofInt 32 (max (-2 ^ 31) (min (2 ^ 31 - 1) (f l)))).raiseFlags s.cur
        (if ∃ l ∈ s.unheld.active s.cur, f l < -2 ^ 31 ∨ 2 ^ 31 ≤ f l then 0x20 else 0))) :=
  issue_laneSat hb hd (fun l => sat32_fst (f l)) fun l => sat32_snd_iff (f l)

end

end Sys2Proof.Machine

open Sys2Proof Sys2Proof.Machine in
/-- Settles O18, word by word: each writes one value or one predicate per active lane. -/
theorem laneIntegerWords : Obligations.LaneIntegerWords := by
  refine ⟨?_, ?_⟩
  · intro s g k t m d a b f bs c p _ u x y z put sat preds
    refine ⟨fun hb => ?_, fun hb => ?_, fun hb => ?_, fun hb => ?_, fun hb => ?_, fun hb => ?_, fun hb => ?_, fun hb => ?_, fun hb => ?_,
      fun hb => ?_, fun hb => ?_, fun hb => ?_, fun hb => ?_, fun hb => ?_, fun hb => ?_, fun hb => ?_, fun hb => ?_, fun hb => ?_,
      fun hb => ?_, fun hb => ?_⟩
    · exact show execAdd t d a b bs false s = _ from issue_mapLanes hb rfl fun _ => rfl
    · exact show execSub t d a b bs false s = _ from issue_mapLanes hb rfl fun _ => rfl
    · exact show execAdd t d a b bs true s = _ from issue_sat32 hb rfl
    · exact show execSub t d a b bs true s = _ from issue_sat32 hb rfl
    · exact show execMul t d a b bs s = _ from issue_mapLanes hb rfl fun _ => rfl
    · exact show execMulhi t d a b bs false s = _ from issue_mapLanes hb rfl fun _ => mulHigh_signed _ _
    · exact show execMulhi t d a b bs true s = _ from issue_mapLanes hb rfl fun _ => mulHigh_unsigned _ _
    · exact show execImad t d a b bs s = _ from issue_mapLanes hb rfl fun _ => rfl
    · exact show execAnd t d a b bs s = _ from issue_mapLanes hb rfl fun _ => rfl
    · exact show execOr t d a b bs s = _ from issue_mapLanes hb rfl fun _ => rfl
    · exact show execXor t d a b bs s = _ from issue_mapLanes hb rfl fun _ => rfl
    · exact show execShl t d a b bs s = _ from issue_mapLanes hb rfl fun _ => rfl
    · exact show execShr t d a b bs m s = _ from issue_mapLanes hb rfl fun _ => rfl
    · exact show execMin t d a b bs m s = _ from issue_mapLanes hb rfl fun _ => pickMin_eq _ _ _
    · exact show execMax t d a b bs m s = _ from issue_mapLanes hb rfl fun _ => pickMax_eq _ _ _
    · exact show execIcmp t c p a b bs s = _ from issue_mapPreds hb rfl fun _ => rfl
    · exact show execSel t d a b p s = _ from issue_mapLanes hb rfl fun _ => rfl
    · exact show execBfx t d a b bs s = _ from issue_mapLanes hb rfl fun _ => rfl
    · exact show execBfi t d a b bs s = _ from issue_mapLanes hb rfl fun _ => rfl
    · exact show execIun t d a f m s = _ from issue_laneSat hb rfl (fun _ => rfl) fun _ => Iff.rfl
  · intro s g k t e d a i h j c p _ u x wide put
    have hwide : ∀ {n : Nat} (own : BitVec n), (s.unheld.wideImm own).setWidth 32 = wide own := by
      intro n own
      rw [State.unheld_wideImm, State.setWidth_wideImm]
      simp only [State.immInt, wide]
      cases s.pfx <;> rfl
    refine ⟨fun hb => ?_, fun hb => ?_, fun hb => ?_, fun hb => ?_, fun hb => ?_, fun hb => ?_, fun hb => ?_, fun hb => ?_⟩
    · exact show execAddi t d a i s = _ from issue_mapLanes hb rfl fun l => congrArg (x l + ·) (hwide i)
    · exact show execAndi t d a i s = _ from issue_mapLanes hb rfl fun l => congrArg (x l &&& ·) (hwide i)
    · exact show execOri t d a i s = _ from issue_mapLanes hb rfl fun l => congrArg (x l ||| ·) (hwide i)
    · exact show execXori t d a i s = _ from issue_mapLanes hb rfl fun l => congrArg (x l ^^^ ·) (hwide i)
    · exact show execShli t d a h s = _ from issue_mapLanes hb rfl fun _ => rfl
    · exact show execShri t d a e h s = _ from issue_mapLanes hb rfl fun _ => rfl
    · exact show execMovi t d j s = _ from issue_mapLanes hb rfl fun _ => hwide j
    · exact show execIcmpi t c p a i s = _ from issue_mapPreds hb rfl fun l => congrArg (intCond c.toNat (x l)) (hwide i)
end

section
/-! PROOFS. A compare of a thread that is not there (R82). -/

namespace Sys2Proof.Machine

/-- A service thread of a partition that does not exist. -/
def absentService : State where
  cur := .service 0

/-- `ufcmp.eq k0, w1, w1`, in FP32. -/
def compareEqual : Instr := .ufcmp false 0 1 1 0 false 0

theorem begins_absentService : absentService.begins compareEqual = true := by rfl

/-- The word completes; there is no thread to take the predicate. -/
theorem getK_exec_absentService {t : State} (h : exec compareEqual absentService = .next t) : (t.uni absentService.cur).getK 0 = false := by
  cases h
  rfl

end Sys2Proof.Machine

open Sys2Proof Sys2Proof.Machine in
/-- Refutes O16: its last clause has no premise that the current thread is there. For a service thread of a partition that does not
exist `ufcmp` completes, writing to no thread, so that k0 still reads as 0 where the condition, 0 = 0, holds. -/
theorem not_conditionCodes : ¬ Obligations.ConditionCodes := by
  unfold Obligations.ConditionCodes
  rintro ⟨-, -, -, -, hclause⟩
  obtain ⟨hufcmp, -⟩ := hclause absentService false false 0 0 0 0 0 0 1 1 0 0 0 0 rfl
  obtain ⟨t, he, hk⟩ := hufcmp begins_absentService
  have hholds : (t.uni absentService.cur).getK 0 = true := hk (by decide)
  rw [getK_exec_absentService he] at hholds
  cases hholds
end

section
/-! PROOFS. Floating-point words of the uniform set (R79 to R83): a word delivers, or traps where an exception is enabled (R68). -/

namespace Sys2Proof.Machine

theorem Uni.enabled_iff (u : Uni) (f : Flags) :
    u.enabled f = true ↔ (u.fpctl.toNat / 2 ^ 4 % 2 ^ 5) &&& (f.toNat % 2 ^ 5) ≠ 0 := by
  unfold Uni.enabled
  rw [bne_iff_ne, ne_eq, ← BitVec.toNat_inj, BitVec.and_comm]
  simp [Nat.shiftRight_eq_div_pow]

/-- R79: operand B of a floating-point word does not depend on a hold that has ended. -/
theorem State.uniFloatOperand_unheld (s : State) (p : Bool) (b : BitVec 6) (bs : BitVec 2) :
    s.unheld.uniFloatOperand s.cur p b bs = s.uniFloatOperand s.cur p b bs := by
  have hjetty : ∀ c j, s.unheld.jetty c j = s.jetty c j := by
    intro c j
    rw [s.unheld_eq]
    rfl
  simp only [State.uniFloatOperand, State.uniOperand, State.getW_unheld, State.cptOf_unheld, hjetty]

/-- R68: a word of the uniform set with the effect `s'` completes, or takes the trap of the flags that it raises. -/
def State.floated (s : State) (i : Instr) (fl : Flags) (s' : State) : State :=
  if ((s.uni s.cur).fpctl.toNat / 2 ^ 4 % 2 ^ 5) &&& (fl.toNat % 2 ^ 5) ≠ 0 then s.trapped i { kind := 0x08, fpx := fl.toNat % 32 }
  else s.after s'

section

variable {s s' : State} {i : Instr} {body : ThreadId → State → Did} (hb : s.begins i = true)
include hb

/-- R68: a floating-point word traps where an exception that it raises is enabled, and else completes. -/
theorem issue_enabled {fl : Flags} {tr : Trap} {traps : Prop} [Decidable traps]
    (hd : body s.cur s.unheld = if (s.unheld.uni s.cur).enabled fl then .trap tr else .done s')
    (htraps : (s.uni s.cur).enabled fl = true ↔ traps)
    (hstep : s'.stepped s.cur = s.unheld.stepped s.cur) (hcmds : s'.cmds = s.unheld.cmds) :
    issue i s body = .next (if traps then s.trapped i tr else s.after s') := by
  rw [State.unheld_uni] at hd
  split
  case isTrue h => exact issue_traps hb (hd.trans (if_pos (htraps.2 h)))
  case isFalse h => exact issue_plain hb (hd.trans (if_neg fun he => h (htraps.1 he))) hstep hcmds

/-- A word whose result goes to `w[d]`. -/
theorem issue_uniFloat {d : BitVec 6} {v v' : W64 × Flags} (hd : body s.cur s.unheld = s.unheld.uniFloat s.cur d v) (hv : v = v') :
    issue i s body = .next (s.floated i v'.2 ((s.unheld.putW s.cur d.toNat v'.1).raiseFlags s.cur v'.2)) := by
  subst hv
  refine issue_enabled hb hd (Uni.enabled_iff _ _) ?_ ?_
  · exact (State.raiseFlags_stepped _ _ _).trans (State.putW_stepped _ _ _ _)
  · exact (State.raiseFlags_cmds _ _ _).trans (State.putW_cmds _ _ _ _)

/-- R79, R80: a word of two operands. -/
theorem issue_uniFloatBin {d a b : BitVec 6} {bs : BitVec 2} {p : Bool} {r : BitVec 3}
    {f : Fmt → Rm → Bool → Nat → Nat → Nat × Flags} (hd : body s.cur s.unheld = s.unheld.uniFloatBin s.cur d a b bs p r f) :
    let v := f (uniFmt p) ((s.uni s.cur).rounding r.toNat) (s.uni s.cur).ftz (uniPattern p (s.getW s.cur a.toNat))
      (s.uniFloatOperand s.cur p b bs)
    issue i s body = .next (s.floated i v.2 ((s.unheld.putW s.cur d.toNat (BitVec.ofNat 64 v.1)).raiseFlags s.cur v.2)) :=
  issue_uniFloat hb (v' := uniValue _) hd (by rw [State.unheld_uni, State.getW_unheld, State.uniFloatOperand_unheld])

end

end Sys2Proof.Machine

open Sys2Proof Sys2Proof.Machine in
/-- Settles O17, word by word. -/
theorem uniformFloatWords : Obligations.UniformFloatWords := by
  intro s t p d a b bs r f k c u fmt rm pat x y z out num
  refine ⟨fun hb => ?_, fun hb => ?_, fun hb => ?_, fun hb => ?_, fun hb => ?_, fun hb => ?_, fun hb => ?_, fun hb => ?_⟩
  · exact show execUfadd t d a b bs p r s = _ from issue_uniFloatBin hb rfl
  · exact show execUfsub t d a b bs p r s = _ from issue_uniFloatBin hb rfl
  · exact show execUfmul t d a b bs p r s = _ from issue_uniFloatBin hb rfl
  · have hz : uniPattern p (s.unheld.getW s.cur d.toNat) = z := congrArg _ (State.getW_unheld s _)
    refine show execUffma t d a b bs p r s = _ from (issue_uniFloatBin hb rfl).trans ?_
    rw [hz]
    rfl
  · exact show execUfdiv t d a b bs p r s = _ from issue_uniFloatBin hb rfl
  · exact show execUfun t d a f p r s = _ from
      issue_uniFloat hb (v' := uniValue (fmt.unary f.toNat rm u.ftz x)) rfl (by rw [State.unheld_uni, State.getW_unheld]; rfl)
  · exact show execUfcvt t d a f r s = _ from
      issue_uniFloat hb (v' := uniConvert f.toNat rm u.ftz (s.getW s.cur a.toNat)) rfl (by rw [State.unheld_uni, State.getW_unheld])
  · have hv : (uniFmt p).cond (s.unheld.uni s.cur).ftz c.toNat (uniPattern p (s.unheld.getW s.cur a.toNat))
        (s.unheld.uniFloatOperand s.cur p b bs) = fmt.cond u.ftz c.toNat x y := by
      rw [State.unheld_uni, State.getW_unheld, State.uniFloatOperand_unheld]
      rfl
    refine show execUfcmp t k a b bs p c s = _ from (issue_enabled hb rfl (Uni.enabled_iff _ _) ?_ ?_).trans ?_
    · exact (State.raiseFlags_stepped _ _ _).trans (State.putK_stepped _ _ _ _)
    · exact (State.raiseFlags_cmds _ _ _).trans (State.putK_cmds _ _ _ _)
    · rw [hv]
      rfl
end

section
/-! PROOFS. Floating-point words of the lane set (R136 to R139): the results of every active lane, or one trap for all that they raise
(R67, R68). -/

namespace Sys2Proof.Machine

/-! ### What the lanes raise -/

theorem flagsOf_map (ls : List Nat) (f : Nat → W32 × Flags) :
    flagsOf (ls.map fun l => (l, f l)) = ls.foldl (fun acc l => acc ||| (f l).2) 0 :=
  List.foldl_map

/-- R300: SAT alone is no exception. -/
theorem setWidth_five_bne_zero (fl : Flags) : (fl.setWidth 5 != (0 : BitVec 5)) = (fl.toNat % 32 != 0) := by
  rw [Bool.eq_iff_iff, bne_iff_ne, bne_iff_ne, ne_eq, ne_eq, ← BitVec.toNat_inj, BitVec.toNat_setWidth]
  rfl

theorem lanesRaised_map (ls : List Nat) (f : Nat → W32 × Flags) :
    lanesRaised (ls.map fun l => (l, f l)) = laneMask (ls.filter fun l => (f l).2.toNat % 32 != 0) := by
  simp only [lanesRaised, setWidth_five_bne_zero, List.filter_map, List.map_map]
  exact congrArg laneMask (List.map_id _)

/-! ### Packed halves (R139) -/

theorem half_eq (x : W32) (e : Nat) : half x e = x.toNat / 65536 ^ e % 65536 := by
  exact congrArg (x.toNat / · % 65536) (Nat.pow_mul 2 16 e)

theorem packTwo_eq (f : Nat → Nat × Flags) :
    packTwo f = (BitVec.ofNat 32 ((f 0).1 + 65536 * (f 1).1), (f 0).2 ||| (f 1).2) := by
  rw [packTwo, Nat.mul_comm]

/-! ### Words -/

/-- R62: stepping generators leaves the step flag. -/
theorem State.stepGens_stepped (s : State) (t : ThreadId) : (s.stepGens t).stepped t = s.stepped t := by
  cases t with
  | gang g k => simp only [State.stepGens, State.stepped_gang, State.group_setGroup]
  | _ => rfl

theorem State.stepGens_cmds (s : State) (t : ThreadId) : (s.stepGens t).cmds = s.cmds := by cases t <;> rfl

/-- R67: the flags that the active lanes raise. -/
def State.laneFlags (s : State) (fl : Nat → Flags) : Flags := (s.unheld.active s.cur).foldl (fun acc l => acc ||| fl l) 0

/-- R68: a word of the lane set with the effect `s'` completes, or takes one trap for the flags that its lanes raise; that the trap
names the lanes that raised any exception is log entry 21. -/
def State.laneFloated (s : State) (i : Instr) (fl : Nat → Flags) (s' : State) : State :=
  if decide (((s.laneFlags fl).toNat % 32) &&& ((s.uni s.cur).fpctl.toNat / 2 ^ 4 % 32) ≠ 0) then
    s.trapped i { kind := 0x08, fpx := (s.laneFlags fl).toNat % 32
                  lanes := laneMask ((s.unheld.active s.cur).filter fun l => (fl l).toNat % 32 != 0) }
  else s.after s'

section

variable {s s' : State} {i : Instr} {body : ThreadId → State → Did} (hb : s.begins i = true)
include hb

/-- A word of one result per lane traps once, with the flags of every lane, where one that a lane raises is enabled. -/
theorem issue_lanesEnabled {f : Nat → W32 × Flags} {fl : Nat → Flags}
    (hd : body s.cur s.unheld =
      let rs := (s.unheld.active s.cur).map fun l => (l, f l)
      if (s.unheld.uni s.cur).enabled (flagsOf rs) then .trap (Trap.floating (flagsOf rs) (lanesRaised rs)) else .done s')
    (hfl : ∀ l, (f l).2 = fl l) (hstep : s'.stepped s.cur = s.unheld.stepped s.cur) (hcmds : s'.cmds = s.unheld.cmds) :
    issue i s body = .next (s.laneFloated i fl s') := by
  simp only [flagsOf_map, lanesRaised_map, hfl] at hd
  exact issue_enabled hb hd (by rw [Uni.enabled_iff, Nat.and_comm, decide_eq_true_iff]; rfl) hstep hcmds

/-- R136: a word whose results go to `v[d]`. -/
theorem issue_laneFloat {d : BitVec 7} {f : Nat → W32 × Flags} {v : Nat → Nat × Flags}
    (hd : body s.cur s.unheld = s.unheld.laneFloat s.cur d f) (hv : ∀ l, f l = laneValue (v l)) :
    issue i s body = .next (s.laneFloated i (fun l => (v l).2)
      ((s.unheld.mapLanes s.cur d.toNat fun l => BitVec.ofNat 32 (v l).1).raiseFlags s.cur (s.laneFlags fun l => (v l).2))) := by
  obtain rfl : f = fun l => laneValue (v l) := funext hv
  refine issue_lanesEnabled hb (f := fun l => laneValue (v l)) ?_ (fun _ => rfl) ?_ ?_
  · rw [hd]
    simp only [State.laneFloat, flagsOf_map]
    rfl
  · exact (State.raiseFlags_stepped _ _ _).trans (State.mapLanes_stepped _ _ _ _)
  · exact (State.raiseFlags_cmds _ _ _).trans (State.mapLanes_cmds _ _ _ _)

end

/-- R138: a conversion steps the generators as it completes, where it is stochastic. -/
theorem exec_cvt {s : State} {t m : Bool} {d a : BitVec 7} {k : BitVec 4} {r : BitVec 3} {v : Nat → Nat × Flags}
    (hb : s.begins (.cvt t d a k r m) = true)
    (hv : ∀ l, cvtOp k.toNat ((s.uni s.cur).rounding r.toNat) (if r = 5 then some (s.unheld.randomBits s.cur l) else none)
      (s.uni s.cur).ftz m (s.unheld.laneReg s.cur a.toNat l) = v l) :
    let s' := (s.unheld.mapLanes s.cur d.toNat fun l => BitVec.ofNat 32 (v l).1).raiseFlags s.cur (s.laneFlags fun l => (v l).2)
    exec (.cvt t d a k r m) s =
      .next (s.laneFloated (.cvt t d a k r m) (fun l => (v l).2) (if r = 5 then s'.stepGens s.cur else s')) := by
  intro s'
  have hstep : s'.stepped s.cur = s.unheld.stepped s.cur :=
    (State.raiseFlags_stepped _ _ _).trans (State.mapLanes_stepped _ _ _ _)
  have hcmds : s'.cmds = s.unheld.cmds := (State.raiseFlags_cmds _ _ _).trans (State.mapLanes_cmds _ _ _ _)
  refine show execCvt t d a k r m s = _ from issue_lanesEnabled hb (f := fun l => laneValue (v l)) ?_ (fun _ => rfl) ?_ ?_
  · simp only [State.unheld_uni, hv, State.laneFloat, flagsOf_map]
    split_ifs <;> rfl
  · split
    · exact (State.stepGens_stepped _ _).trans hstep
    · exact hstep
  · split
    · exact (State.stepGens_cmds _ _).trans hcmds
    · exact hcmds

end Sys2Proof.Machine

open Sys2Proof Sys2Proof.Machine in
/-- Settles O20, word by word. -/
theorem laneFloatWords : Obligations.LaneFloatWords := by
  intro s g k t m d a b f bs c p r _ u q x y z hy raised trapped traps out two half' i1 i2 i3 i4 i5 i6 i7 i8 i9 i10 i11 i12
  have hq : s.unheld.uni s.cur = q := State.unheld_uni s
  refine ⟨fun hb => ?_, fun hb => ?_, fun hb => ?_, fun hb => ?_, fun hb => ?_, fun hb => ?_, fun hb => ?_, fun hb => ?_, fun hb => ?_,
    fun hb => ?_, fun hb => ?_, fun hr hb => ?_, fun hr hb => ?_⟩
  · exact show execFadd t d a b bs s = _ from issue_laneFloat hb rfl fun l => by rw [hq]
  · exact show execFsub t d a b bs s = _ from issue_laneFloat hb rfl fun l => by rw [hq]
  · exact show execFmul t d a b bs s = _ from issue_laneFloat hb rfl fun l => by rw [hq]
  · exact show execFfma t d a b bs s = _ from issue_laneFloat hb rfl fun l => by rw [hq]
  · exact show execFmin t d a b bs s = _ from issue_laneFloat hb rfl fun l => by rw [hq]
  · exact show execFmax t d a b bs s = _ from issue_laneFloat hb rfl fun l => by rw [hq]
  · refine show execFcmp t c p a b bs s = _ from
      issue_lanesEnabled hb (f := fun l => (0, (fp32.cond q.ftz c.toNat (x l).toNat (y l)).2)) ?_ (fun _ => rfl) ?_ ?_
    · simp only [hq, flagsOf_map]
      rfl
    · exact (State.raiseFlags_stepped _ _ _).trans (State.mapPreds_stepped _ _ _ _)
    · exact (State.raiseFlags_cmds _ _ _).trans (State.mapPreds_cmds _ _ _ _)
  · exact show execSfu t d a f s = _ from issue_laneFloat hb rfl fun l => by rw [hq]
  · exact show execHadd2 t d a b bs m s = _ from issue_laneFloat hb rfl fun l => by rw [packTwo_eq, hq]; simp only [half_eq]; rfl
  · exact show execHmul2 t d a b bs m s = _ from issue_laneFloat hb rfl fun l => by rw [packTwo_eq, hq]; simp only [half_eq]; rfl
  · exact show execHfma2 t d a b bs m s = _ from issue_laneFloat hb rfl fun l => by rw [packTwo_eq, hq]; simp only [half_eq]; rfl
  · refine (exec_cvt hb fun l => by rw [if_neg hr]).trans ?_
    simp only [if_neg hr]
    rfl
  · subst hr
    exact exec_cvt hb fun l => rfl
end

section
/-! PROOFS. The numbers of an IEEE format (R55): magnitude codes rise with the numbers, and a pattern is a sign and such a code. -/

namespace Sys2Proof.Machine

/-! ### Values -/

/-- The real number that an exact value is; 0 for an infinity and a NaN. -/
noncomputable def FVal.toReal : FVal → ℝ
  | .fin n m e => (signedMant n m : ℝ) * (2 : ℝ) ^ e
  | _ => 0

/-- Whether a value is a number. -/
def FVal.finite : FVal → Bool
  | .fin .. => true
  | _ => false

/-- The sign of a pattern. -/
def Fmt.neg (f : Fmt) (p : Nat) : Bool := p / f.signWeight % 2 == 1

/-- 1 with a sign. -/
def signOf (n : Bool) : ℝ := if n then -1 else 1

theorem abs_signOf (n : Bool) : |signOf n| = 1 := by cases n <;> simp [signOf]

theorem abs_signOf_mul (n : Bool) (x : ℝ) : |signOf n * x| = |x| := by rw [abs_mul, abs_signOf, one_mul]

theorem signedMant_cast (n : Bool) (m : Nat) : (signedMant n m : ℝ) = signOf n * m := by
  cases n <;> simp [signedMant, signOf]

theorem FVal.toReal_fin (n : Bool) (m : Nat) (e : Int) : (FVal.fin n m e).toReal = signOf n * (m * (2 : ℝ) ^ e) := by
  rw [FVal.toReal, signedMant_cast, mul_assoc]

theorem FVal.abs_toReal_fin (n : Bool) (m : Nat) (e : Int) : |(FVal.fin n m e).toReal| = m * (2 : ℝ) ^ e := by
  rw [FVal.toReal_fin, abs_signOf_mul, abs_of_nonneg (by positivity)]

theorem FVal.toReal_fin_neg_iff {n : Bool} {m : Nat} {e : Int} (h : (FVal.fin n m e).toReal ≠ 0) :
    (FVal.fin n m e).toReal < 0 ↔ n = true := by
  rw [FVal.toReal_fin] at h ⊢
  have hpos : 0 < (m : ℝ) * (2 : ℝ) ^ e := lt_of_le_of_ne (by positivity) fun h0 => h (by rw [← h0, mul_zero])
  cases n <;> simp [signOf, hpos, hpos.le]

/-- A real number is its magnitude with its sign. -/
theorem eq_signOf_mul_abs {q : ℝ} {n : Bool} (hn : n = true ↔ q < 0) : q = signOf n * |q| := by
  cases n with
  | false => rw [abs_of_nonneg (not_lt.1 fun h => by simpa using hn.2 h)]; simp [signOf]
  | true => rw [abs_of_neg (hn.1 rfl)]; simp [signOf]

/-! ### The formats of R80 and R136 -/

/-- R55: an IEEE format whose exponents are biased by the middle one. -/
structure Fmt.Ieee (f : Fmt) : Prop where
  beyond : f.beyond = .ieee
  fbits : 0 < f.fbits
  ebits : 2 ^ f.ebits = 2 * f.bias + 2
  bias : 0 < f.bias

theorem ieee_formats {f : Fmt} (h : f = fp64 ∨ f = fp32 ∨ f = fp16 ∨ f = bf16) : f.Ieee := by
  rcases h with rfl | rfl | rfl | rfl <;> exact ⟨rfl, by decide, by decide, by decide⟩

/-! ### Magnitude codes -/

/-- The exponent of a magnitude code above that of the subnormals. -/
def Fmt.shift (f : Fmt) (c : Nat) : Nat := c / 2 ^ f.fbits - 1

/-- The magnitude of a code, where codes beyond the largest number count on. -/
noncomputable def Fmt.mag (f : Fmt) (c : Nat) : ℝ :=
  ((c - f.shift c * 2 ^ f.fbits : Nat) : ℝ) * (2 : ℝ) ^ (f.minExp + f.shift c)

section

variable {f : Fmt}

/-- Between two powers of two the magnitudes are the multiples of one power. -/
theorem Fmt.mag_add {l k : Nat} (hk : k ≤ 2 * 2 ^ f.fbits) (hl : l = 0 ∨ 2 ^ f.fbits ≤ k) :
    f.mag (l * 2 ^ f.fbits + k) = k * (2 : ℝ) ^ (f.minExp + l) := by
  have hB : 0 < 2 ^ f.fbits := Nat.two_pow_pos _
  have hdiv : (l * 2 ^ f.fbits + k) / 2 ^ f.fbits = l + k / 2 ^ f.fbits := by
    rw [Nat.add_comm, Nat.add_mul_div_right _ _ hB, Nat.add_comm]
  unfold Fmt.mag Fmt.shift
  rw [hdiv]
  rcases Nat.lt_or_ge k (2 ^ f.fbits) with h1 | h1
  · obtain rfl : l = 0 := hl.resolve_right (Nat.not_le.2 h1)
    simp [Nat.div_eq_of_lt h1]
  · rcases Nat.lt_or_ge k (2 * 2 ^ f.fbits) with h2 | h2
    · have h3 : k / 2 ^ f.fbits = 1 := Nat.div_eq_of_lt_le (by omega) (by omega)
      rw [h3, Nat.add_sub_cancel, Nat.add_sub_cancel_left]
    · obtain rfl : k = 2 * 2 ^ f.fbits := Nat.le_antisymm hk h2
      rw [Nat.mul_div_cancel _ hB, show l + 2 - 1 = l + 1 by omega,
        show l * 2 ^ f.fbits + 2 * 2 ^ f.fbits - (l + 1) * 2 ^ f.fbits = 2 ^ f.fbits by rw [← Nat.add_mul, ← Nat.sub_mul]; simp]
      push_cast
      rw [← add_assoc, zpow_add_one₀ two_ne_zero]
      ring

theorem Fmt.mag_lt_succ (f : Fmt) (c : Nat) : f.mag c < f.mag (c + 1) := by
  have hB : 0 < 2 ^ f.fbits := Nat.two_pow_pos _
  obtain ⟨l, k, rfl, hk, hl⟩ : ∃ l k, c = l * 2 ^ f.fbits + k ∧ k < 2 * 2 ^ f.fbits ∧ (l = 0 ∨ 2 ^ f.fbits ≤ k) := by
    rcases Nat.lt_or_ge c (2 ^ f.fbits) with h | h
    · exact ⟨0, c, by simp, by omega, .inl rfl⟩
    · obtain ⟨j, hj⟩ : ∃ j, c / 2 ^ f.fbits = j + 1 := ⟨_, (Nat.succ_pred_eq_of_pos (Nat.div_pos h hB)).symm⟩
      have hdm := Nat.div_add_mod' c (2 ^ f.fbits)
      have hmod := Nat.mod_lt c hB
      rw [hj, Nat.add_mul] at hdm
      exact ⟨j, 2 ^ f.fbits + c % 2 ^ f.fbits, by omega, by omega, .inr (by omega)⟩
  rw [Nat.add_assoc, Fmt.mag_add (by omega) hl, Fmt.mag_add (by omega) (hl.imp_right fun h => by omega)]
  push_cast
  exact mul_lt_mul_of_pos_right (lt_add_one _) (by positivity)

theorem Fmt.mag_strictMono (f : Fmt) : StrictMono f.mag := strictMono_nat_of_lt_succ f.mag_lt_succ

@[simp] theorem Fmt.mag_zero (f : Fmt) : f.mag 0 = 0 := by simp [Fmt.mag, Fmt.shift]

theorem Fmt.mag_nonneg (f : Fmt) (c : Nat) : 0 ≤ f.mag c := by
  rw [← f.mag_zero]
  exact f.mag_strictMono.monotone (Nat.zero_le c)

/-- The least normal number (R64). -/
theorem Fmt.mag_least (f : Fmt) : f.mag (2 ^ f.fbits) = (2 : ℝ) ^ (1 - (f.bias : Int)) := by
  have h := Fmt.mag_add (f := f) (l := 0) (k := 2 ^ f.fbits) (by omega) (.inl rfl)
  rw [Nat.zero_mul, Nat.zero_add] at h
  rw [h, Nat.cast_pow, Nat.cast_ofNat, ← zpow_natCast, ← zpow_add₀ two_ne_zero]
  congr 1
  simp only [Fmt.minExp]
  omega

theorem Fmt.exponent_eq (f : Fmt) (p : Nat) : p / 2 ^ f.fbits % 2 ^ f.ebits = p % f.signWeight / 2 ^ f.fbits := by
  rw [Fmt.signWeight, Nat.pow_add, Nat.mul_comm, Nat.mod_mul_right_div_self]

theorem Fmt.fraction_eq (f : Fmt) (p : Nat) : p % 2 ^ f.fbits = p % f.signWeight % 2 ^ f.fbits :=
  (Nat.mod_mod_of_dvd _ (pow_dvd_pow 2 (Nat.le_add_left _ _))).symm

variable (hf : f.Ieee)
include hf

theorem Fmt.Ieee.maxCode_succ : f.maxCode + 1 = (2 * f.bias + 1) * 2 ^ f.fbits := by
  have hB : 0 < 2 ^ f.fbits := Nat.two_pow_pos _
  have hpos : 0 < (2 * f.bias + 1) * 2 ^ f.fbits := Nat.mul_pos (Nat.succ_pos _) hB
  simp only [Fmt.maxCode, hf.beyond, hf.ebits]
  rw [show 2 * f.bias + 2 - 1 = 2 * f.bias + 1 by omega]
  omega

theorem Fmt.Ieee.signWeight_eq : f.signWeight = (2 * f.bias + 2) * 2 ^ f.fbits := by
  rw [Fmt.signWeight, Nat.pow_add, hf.ebits]

theorem Fmt.Ieee.maxCode_lt : f.maxCode < f.signWeight := by
  have h := hf.maxCode_succ
  have : (2 * f.bias + 1) * 2 ^ f.fbits ≤ (2 * f.bias + 2) * 2 ^ f.fbits := Nat.mul_le_mul_right _ (by omega)
  rw [hf.signWeight_eq]
  omega

theorem Fmt.Ieee.even_fbits : 2 ^ f.fbits % 2 = 0 := by
  rw [Nat.pow_mod, Nat.mod_self, Nat.zero_pow hf.fbits]

/-- R55, R61: what follows the largest number would be 2^(emax+1). -/
theorem Fmt.Ieee.mag_maxCode_succ : f.mag (f.maxCode + 1) = (2 : ℝ) ^ (f.bias + 1) := by
  rw [hf.maxCode_succ, Nat.add_mul, Nat.one_mul, Fmt.mag_add (by omega) (.inr (Nat.le_refl _)), Nat.cast_pow, Nat.cast_ofNat,
    ← zpow_natCast, ← zpow_natCast, ← zpow_add₀ two_ne_zero]
  congr 1
  simp only [Fmt.minExp]
  omega

/-! ### Patterns -/

/-- The exponent field of a number is not all ones. -/
theorem Fmt.Ieee.exponent_lt_iff (c : Nat) : c / 2 ^ f.fbits < 2 ^ f.ebits - 1 ↔ c ≤ f.maxCode := by
  rw [Nat.div_lt_iff_lt_mul (Nat.two_pow_pos _), hf.ebits, show 2 * f.bias + 2 - 1 = 2 * f.bias + 1 by omega, ← hf.maxCode_succ]
  omega

/-- R55: a pattern with a number's magnitude code is that magnitude with the pattern's sign. -/
theorem Fmt.Ieee.unpack_of_le {p : Nat} (h : p % f.signWeight ≤ f.maxCode) :
    f.unpack p = .fin (f.neg p) (p % f.signWeight - f.shift (p % f.signWeight) * 2 ^ f.fbits)
      (f.minExp + f.shift (p % f.signWeight)) := by
  have hexp := (hf.exponent_lt_iff _).2 h
  simp only [Fmt.unpack, hf.beyond, true_and, f.exponent_eq p, f.fraction_eq p, hexp.ne, if_false, reduceCtorEq, false_and]
  generalize p % f.signWeight = c
  have hdm := Nat.div_add_mod' c (2 ^ f.fbits)
  simp only [Fmt.shift]
  split
  case isTrue h0 =>
    rw [h0] at hdm ⊢
    rw [← hdm]
    simp [Fmt.neg]
  case isFalse h0 =>
    obtain ⟨j, hj⟩ : ∃ j, c / 2 ^ f.fbits = j + 1 := Nat.exists_eq_succ_of_ne_zero h0
    rw [hj, Nat.add_mul] at hdm
    rw [hj, Nat.add_sub_cancel, show c - j * 2 ^ f.fbits = c % 2 ^ f.fbits + 2 ^ f.fbits by omega,
      show f.minExp + (j + 1 : Nat) - 1 = f.minExp + j by omega]
    rfl

theorem Fmt.Ieee.finite_unpack (p : Nat) : (f.unpack p).finite = true ↔ p % f.signWeight ≤ f.maxCode := by
  refine ⟨fun h => ?_, fun h => by rw [hf.unpack_of_le h]; rfl⟩
  by_contra hc
  rw [← hf.exponent_lt_iff] at hc
  have hlt : p % f.signWeight / 2 ^ f.fbits < 2 ^ f.ebits := by
    rw [← f.exponent_eq]
    exact Nat.mod_lt _ (Nat.two_pow_pos _)
  simp only [Fmt.unpack, hf.beyond, true_and, f.exponent_eq p, show p % f.signWeight / 2 ^ f.fbits = 2 ^ f.ebits - 1 by omega,
    if_true] at h
  split at h <;> cases h

/-- The real number that a pattern is. -/
noncomputable def Fmt.val (f : Fmt) (p : Nat) : ℝ := (f.unpack p).toReal

theorem Fmt.Ieee.val_eq {p : Nat} (h : (f.unpack p).finite = true) : f.val p = signOf (f.neg p) * f.mag (p % f.signWeight) := by
  rw [Fmt.val, hf.unpack_of_le ((hf.finite_unpack p).1 h), FVal.toReal_fin]
  rfl

theorem Fmt.Ieee.abs_val {p : Nat} (h : (f.unpack p).finite = true) : |f.val p| = f.mag (p % f.signWeight) := by
  rw [hf.val_eq h, abs_signOf_mul, abs_of_nonneg (f.mag_nonneg _)]

end

/-! ### Patterns that the model packs -/

section

variable {f : Fmt} {n : Bool} {c : Nat}

theorem Fmt.pack_lt (h : c < f.signWeight) : f.pack n c < 2 * f.signWeight := by
  cases n <;> simp [Fmt.pack] <;> omega

theorem Fmt.pack_mod (h : c < f.signWeight) : f.pack n c % f.signWeight = c := by
  cases n <;> simp [Fmt.pack, Nat.mod_eq_of_lt h]

theorem Fmt.pack_div (h : c < f.signWeight) : f.pack n c / f.signWeight = n.toNat := by
  have hW : 0 < f.signWeight := Nat.zero_lt_of_lt h
  cases n <;> simp [Fmt.pack, Nat.div_eq_of_lt h, Nat.add_div_left, hW]

theorem Fmt.neg_pack (h : c < f.signWeight) : f.neg (f.pack n c) = n := by
  rw [Fmt.neg, Fmt.pack_div h]
  cases n <;> rfl

theorem Fmt.Ieee.pack_mod_two (hf : f.Ieee) : f.pack n c % 2 = c % 2 := by
  have h : f.signWeight % 2 = 0 := by rw [hf.signWeight_eq, Nat.mul_mod, hf.even_fbits, Nat.mul_zero]
  cases n <;> simp [Fmt.pack, Nat.add_mod, h]

theorem Fmt.Ieee.finite_pack (hf : f.Ieee) (h : c ≤ f.maxCode) : (f.unpack (f.pack n c)).finite = true := by
  rw [hf.finite_unpack, Fmt.pack_mod (h.trans_lt hf.maxCode_lt)]
  exact h

theorem Fmt.Ieee.val_pack (hf : f.Ieee) (h : c ≤ f.maxCode) : f.val (f.pack n c) = signOf n * f.mag c := by
  have hW := h.trans_lt hf.maxCode_lt
  rw [hf.val_eq (hf.finite_pack h), Fmt.neg_pack hW, Fmt.pack_mod hW]

theorem Fmt.Ieee.val_maxCode (hf : f.Ieee) : f.val f.maxCode = f.mag f.maxCode := by
  have h := hf.val_pack (n := false) (Nat.le_refl _)
  simpa [Fmt.pack, signOf] using h

end

end Sys2Proof.Machine
end

section
/-! PROOFS. The table of R60: of the two magnitudes around a value the mode picks one, and with the sign it is the mode's number. -/

namespace Sys2Proof.Machine

/-- R60: the mode takes the upper neighbour `hi` of the magnitude v, and not the lower one `lo`, whose code is c. -/
def Rm.Up (rm : Rm) (n : Bool) (c : Nat) (lo v hi : ℝ) : Prop :=
  match rm with
  | .rne => lo + hi < 2 * v ∨ lo + hi = 2 * v ∧ c % 2 = 1
  | .rtz => False
  | .rdn => n = true ∧ lo ≠ v
  | .rup => n = false ∧ lo ≠ v

/-- v lies at or above the value of code c and below that of its successor, and the mode picks code r of the two. -/
structure Picks (g : Nat → ℝ) (rm : Rm) (n : Bool) (v : ℝ) (c r : Nat) : Prop where
  lo : g c ≤ v
  hi : v < g (c + 1)
  pick : (rm.Up n c (g c) v (g (c + 1)) ∧ r = c + 1) ∨ (¬ rm.Up n c (g c) v (g (c + 1)) ∧ r = c)

/-- A value that has a code keeps it. -/
theorem Rm.ne_of_up {rm : Rm} {n : Bool} {c : Nat} {lo v hi : ℝ} (h : rm.Up n c lo v hi) (hlt : lo < hi) : lo ≠ v := by
  rintro rfl
  cases rm with
  | rne => rcases h with h | h <;> linarith
  | rtz => exact h
  | rdn => exact h.2 rfl
  | rup => exact h.2 rfl

section

variable {g : Nat → ℝ} {rm : Rm} {n : Bool} {v : ℝ} {c r : Nat} (h : Picks g rm n v c r)
include h

theorem Picks.lo_eq_iff : g c = v ↔ g r = v := by
  rcases h.pick with ⟨hup, rfl⟩ | ⟨-, rfl⟩
  · exact ⟨fun e => absurd e (Rm.ne_of_up hup (h.lo.trans_lt h.hi)), fun e => absurd e h.hi.ne'⟩
  · exact Iff.rfl

/-- A rounding does not pass a value that has a code. -/
theorem Picks.le_of_le (hg : StrictMono g) {k : Nat} (hv : v ≤ g k) : r ≤ k := by
  have hck : c ≤ k := hg.le_iff_le.1 (h.lo.trans hv)
  rcases h.pick with ⟨hup, rfl⟩ | ⟨-, rfl⟩
  · have hne := Rm.ne_of_up hup (h.lo.trans_lt h.hi)
    exact hg.lt_iff_lt.1 ((lt_of_le_of_ne h.lo hne).trans_le hv)
  · exact hck

theorem Picks.le_pick : c ≤ r := by
  rcases h.pick with ⟨-, rfl⟩ | ⟨-, rfl⟩ <;> omega

/-- The same rounding in other units, counted from a code that is even. -/
theorem Picks.scale {g' : Nat → ℝ} {u : ℝ} {a : Nat} (hu : 0 < u) (ha : a % 2 = 0) (hc : g' (a + c) = g c * u)
    (hc1 : g' (a + c + 1) = g (c + 1) * u) : Picks g' rm n (v * u) (a + c) (a + r) := by
  have hup : rm.Up n (a + c) (g c * u) (v * u) (g (c + 1) * u) ↔ rm.Up n c (g c) v (g (c + 1)) := by
    cases rm with
    | rne =>
      simp only [Rm.Up, ← add_mul, ← mul_assoc, mul_lt_mul_iff_left₀ hu, mul_left_inj' hu.ne', show (a + c) % 2 = c % 2 by omega]
    | rtz => exact Iff.rfl
    | rdn => simp only [Rm.Up, ne_eq, mul_left_inj' hu.ne']
    | rup => simp only [Rm.Up, ne_eq, mul_left_inj' hu.ne']
  refine ⟨?_, ?_, ?_⟩
  · rw [hc]
    exact mul_le_mul_of_nonneg_right h.lo hu.le
  · rw [hc1]
    exact mul_lt_mul_of_pos_right h.hi hu
  · rw [hc, hc1, hup]
    exact h.pick.imp (And.imp_right (congrArg (a + ·))) (And.imp_right (congrArg (a + ·)))

end

/-! ### The nearest and the directed choices (R60) -/

/-- No code lies between two neighbours. -/
theorem strictMono_le_or_ge {g : Nat → ℝ} (hg : StrictMono g) (c k : Nat) : g k ≤ g c ∨ g (c + 1) ≤ g k := by
  rcases Nat.lt_or_ge c k with hk | hk
  · exact .inr (hg.monotone hk)
  · exact .inl (hg.monotone hk)

section

variable {g : Nat → ℝ} {rm : Rm} {n : Bool} {v : ℝ} {c r : Nat} (hg : StrictMono g) (h : Picks g rm n v c r)
include hg h

theorem Picks.nearest (hrm : rm = .rne) (k : Nat) : |g r - v| ≤ |g k - v| := by
  subst hrm
  have hlo := h.lo
  have hhi := h.hi
  rcases h.pick with ⟨hup, rfl⟩ | ⟨hup, rfl⟩ <;> simp only [Rm.Up, not_or, not_lt] at hup
  · have h2 : g c + g (c + 1) ≤ 2 * v := hup.elim le_of_lt fun e => e.1.le
    rw [abs_of_pos (sub_pos.2 hhi)]
    rcases strictMono_le_or_ge hg c k with hk | hk
    · rw [abs_of_nonpos (by linarith)]
      linarith
    · rw [abs_of_nonneg (by linarith)]
      linarith
  · have h2 := hup.1
    rw [abs_of_nonpos (sub_nonpos.2 hlo)]
    rcases strictMono_le_or_ge hg r k with hk | hk
    · rw [abs_of_nonpos (by linarith)]
      linarith
    · rw [abs_of_nonneg (by linarith)]
      linarith

/-- R60: of two nearest codes the even one is picked. -/
theorem Picks.even_of_tie (hrm : rm = .rne) {k : Nat} (hne : g k ≠ g r) (htie : |g k - v| = |g r - v|) : r % 2 = 0 := by
  subst hrm
  have hlo := h.lo
  have hhi := h.hi
  rcases h.pick with ⟨hup, rfl⟩ | ⟨hup, rfl⟩ <;> simp only [Rm.Up, not_or, not_lt] at hup
  · rw [abs_of_pos (sub_pos.2 hhi)] at htie
    have hodd : c % 2 = 1 := by
      rcases hup with hup | hup
      · rcases strictMono_le_or_ge hg c k with hk | hk
        · rw [abs_of_nonpos (by linarith)] at htie
          linarith
        · rw [abs_of_nonneg (by linarith)] at htie
          exact absurd (by linarith) hne
      · exact hup.2
    omega
  · obtain ⟨h2, h3⟩ := hup
    rw [abs_of_nonpos (sub_nonpos.2 hlo)] at htie
    rcases strictMono_le_or_ge hg r k with hk | hk
    · rw [abs_of_nonpos (by linarith)] at htie
      exact absurd (by linarith) hne
    · rw [abs_of_nonneg (by linarith)] at htie
      have : ¬ r % 2 = 1 := fun ho => h3 ⟨by linarith, ho⟩
      omega

/-- The mode rounds toward zero: the greatest code not above v is picked. -/
theorem Picks.inward (hrm : ∀ lo hi, ¬ rm.Up n c lo v hi) : g r ≤ v ∧ ∀ k, g k ≤ v → g k ≤ g r := by
  obtain rfl : r = c := (h.pick.resolve_left fun e => hrm _ _ e.1).2
  refine ⟨h.lo, fun k hk => hg.monotone ?_⟩
  have : k < r + 1 := hg.lt_iff_lt.1 (hk.trans_lt h.hi)
  omega

/-- The mode rounds away from zero: the least code not below v is picked. -/
theorem Picks.outward (hrm : ∀ lo hi, rm.Up n c lo v hi ↔ lo ≠ v) : v ≤ g r ∧ ∀ k, v ≤ g k → g r ≤ g k := by
  rcases h.pick with ⟨hup, rfl⟩ | ⟨hup, rfl⟩ <;> rw [hrm] at hup
  · have hlt := lt_of_le_of_ne h.lo hup
    exact ⟨h.hi.le, fun k hk => hg.monotone (Nat.succ_le_of_lt (hg.lt_iff_lt.1 (hlt.trans_le hk)))⟩
  · have he := not_not.1 hup
    exact ⟨he.ge, fun k hk => by rwa [he]⟩

end

/-! ### The table of R60 -/

section

variable {f : Fmt} {rm : Rm} {n : Bool} {q : ℝ} {c r : Nat}

/-- R60: the pattern r is what the mode's row says of q, among all numbers of the format. -/
def Fmt.Best (f : Fmt) (rm : Rm) (q : ℝ) (r : Nat) : Prop :=
  r < 2 * f.signWeight ∧ (f.unpack r).finite = true ∧ match rm with
  | .rne => (∀ p, (f.unpack p).finite = true → |f.val r - q| ≤ |f.val p - q|) ∧
    ∀ p, (f.unpack p).finite = true → |f.val p - q| = |f.val r - q| → f.val p ≠ f.val r → r % 2 = 0
  | .rtz => |f.val r| ≤ |q| ∧ 0 ≤ f.val r * q ∧
    ∀ p, (f.unpack p).finite = true → 0 ≤ f.val p * q → |f.val p| ≤ |q| → |f.val p| ≤ |f.val r|
  | .rdn => f.val r ≤ q ∧ ∀ p, (f.unpack p).finite = true → f.val p ≤ q → f.val p ≤ f.val r
  | .rup => q ≤ f.val r ∧ ∀ p, (f.unpack p).finite = true → q ≤ f.val p → f.val r ≤ f.val p

theorem signOf_mul_signOf (n : Bool) : signOf n * signOf n = 1 := by cases n <;> simp [signOf]

theorem signOf_mul_eq_abs (hn : n = true ↔ q < 0) : signOf n * q = |q| := by
  rw [eq_signOf_mul_abs hn, ← mul_assoc, signOf_mul_signOf, one_mul, abs_signOf_mul, abs_abs]

theorem signOf_mul_val_pack (hf : f.Ieee) (hr : r ≤ f.maxCode) : signOf n * f.val (f.pack n r) = f.mag r := by
  rw [hf.val_pack hr, ← mul_assoc, signOf_mul_signOf, one_mul]

theorem Fmt.Ieee.mag_eq_of_nonneg (hf : f.Ieee) {p : Nat} (hp : (f.unpack p).finite = true) (h : 0 ≤ signOf n * f.val p) :
    f.mag (p % f.signWeight) = signOf n * f.val p := by
  rw [← hf.abs_val hp, ← abs_of_nonneg h, abs_signOf_mul]

section

variable (hf : f.Ieee) (h : Picks f.mag rm n |q| c r)
include hf h

/-- Rounding toward zero: of the numbers not beyond q in its direction, the farthest. -/
theorem Picks.inward_val (hr : r ≤ f.maxCode) (hn : n = true ↔ q < 0) (hrm : ∀ lo hi, ¬ rm.Up n c lo |q| hi) :
    signOf n * f.val (f.pack n r) ≤ signOf n * q ∧ ∀ p, (f.unpack p).finite = true → signOf n * f.val p ≤ signOf n * q →
      signOf n * f.val p ≤ signOf n * f.val (f.pack n r) := by
  obtain ⟨hle, hmax⟩ := h.inward f.mag_strictMono hrm
  rw [signOf_mul_val_pack hf hr, signOf_mul_eq_abs hn]
  refine ⟨hle, fun p hp hpq => ?_⟩
  rcases le_or_gt 0 (signOf n * f.val p) with h0 | h0
  · rw [← hf.mag_eq_of_nonneg hp h0] at hpq ⊢
    exact hmax _ hpq
  · exact h0.le.trans (f.mag_nonneg r)

/-- Rounding away from zero: of the numbers not before q in its direction, the nearest. -/
theorem Picks.outward_val (hr : r ≤ f.maxCode) (hn : n = true ↔ q < 0) (hrm : ∀ lo hi, rm.Up n c lo |q| hi ↔ lo ≠ |q|) :
    signOf n * q ≤ signOf n * f.val (f.pack n r) ∧ ∀ p, (f.unpack p).finite = true → signOf n * q ≤ signOf n * f.val p →
      signOf n * f.val (f.pack n r) ≤ signOf n * f.val p := by
  obtain ⟨hle, hmin⟩ := h.outward f.mag_strictMono hrm
  rw [signOf_mul_val_pack hf hr, signOf_mul_eq_abs hn]
  refine ⟨hle, fun p hp hpq => ?_⟩
  have hmag := hf.mag_eq_of_nonneg hp ((abs_nonneg q).trans hpq)
  rw [← hmag] at hpq ⊢
  exact hmin _ hpq

omit h in
theorem Fmt.Ieee.abs_val_pack_sub (hr : r ≤ f.maxCode) (hn : n = true ↔ q < 0) : |f.val (f.pack n r) - q| = |f.mag r - abs q| := by
  conv_lhs => rw [hf.val_pack hr, eq_signOf_mul_abs hn, ← mul_sub, abs_signOf_mul]

/-- R60: round to nearest, of two nearest numbers the even one. -/
theorem Picks.best_rne (hr : r ≤ f.maxCode) (hn : n = true ↔ q < 0) (hq : q ≠ 0) (hrm : rm = .rne) :
    (∀ p, (f.unpack p).finite = true → |f.val (f.pack n r) - q| ≤ |f.val p - q|) ∧
    ∀ p, (f.unpack p).finite = true → |f.val p - q| = |f.val (f.pack n r) - q| → f.val p ≠ f.val (f.pack n r) →
      f.pack n r % 2 = 0 := by
  have hle : ∀ p, (f.unpack p).finite = true → |f.mag (p % f.signWeight) - abs q| ≤ |f.val p - q| := by
    intro p hp
    rw [← hf.abs_val hp]
    exact abs_abs_sub_abs_le _ _
  have hdist := hf.abs_val_pack_sub hr hn
  refine ⟨fun p hp => hdist ▸ (h.nearest f.mag_strictMono hrm _).trans (hle p hp), fun p hp htie hne => ?_⟩
  rw [hf.pack_mod_two]
  refine h.even_of_tie f.mag_strictMono hrm (k := p % f.signWeight) (fun he => ?_)
    (le_antisymm ((hle p hp).trans (htie.trans hdist).le) (h.nearest f.mag_strictMono hrm _))
  have habs : |f.val p| = |f.val (f.pack n r)| := by
    rw [hf.abs_val hp, he, hf.val_pack hr, abs_signOf_mul, abs_of_nonneg (f.mag_nonneg r)]
  have hopp := (abs_eq_abs.1 habs).resolve_left hne
  have hpos : 0 < f.mag r := lt_of_le_of_ne (f.mag_nonneg r) fun h0 => by
    rw [hopp, hf.val_pack hr, ← h0] at hne
    simp at hne
  have hfar : |f.val p - q| = f.mag r + abs q := by
    conv_lhs => rw [hopp, ← neg_add', abs_neg, hf.val_pack hr, eq_signOf_mul_abs hn, ← mul_add, abs_signOf_mul]
    exact abs_of_pos (add_pos hpos (abs_pos.2 hq))
  rw [hfar, hdist] at htie
  have hq0 := abs_pos.2 hq
  rcases abs_cases (f.mag r - abs q) with h1 | h1 <;> linarith

end

/-- The code that a mode picks for a magnitude is, with the sign, the mode's number. -/
theorem Picks.best (hf : f.Ieee) (h : Picks f.mag rm n |q| c r) (hr : r ≤ f.maxCode) (hn : n = true ↔ q < 0) (hq : q ≠ 0) :
    f.Best rm q (f.pack n r) := by
  refine ⟨Fmt.pack_lt (hr.trans_lt hf.maxCode_lt), hf.finite_pack hr, ?_⟩
  cases rm with
  | rne => exact h.best_rne hf hr hn hq rfl
  | rtz =>
    obtain ⟨hle, hmax⟩ := h.inward f.mag_strictMono fun _ _ => id
    have habs := hf.abs_val (hf.finite_pack (n := n) hr)
    rw [Fmt.pack_mod (hr.trans_lt hf.maxCode_lt)] at habs
    refine ⟨habs ▸ hle, ?_, fun p hp _ hpq => ?_⟩
    · rw [hf.val_pack hr, mul_right_comm, signOf_mul_eq_abs hn]
      exact mul_nonneg (abs_nonneg q) (f.mag_nonneg r)
    · rw [habs]
      rw [hf.abs_val hp] at hpq ⊢
      exact hmax _ hpq
  | rdn =>
    cases n with
    | false => simpa [signOf] using h.inward_val hf hr hn fun _ _ => by simp [Rm.Up]
    | true => simpa [signOf] using h.outward_val hf hr hn fun _ _ => by simp [Rm.Up]
  | rup =>
    cases n with
    | false => simpa [signOf] using h.outward_val hf hr hn fun _ _ => by simp [Rm.Up]
    | true => simpa [signOf] using h.inward_val hf hr hn fun _ _ => by simp [Rm.Up]

end

end Sys2Proof.Machine
end

section
/-! PROOFS. What `roundInt` does (R60), to a number that is exact and to one whose last bit is sticky. -/

namespace Sys2Proof.Machine

/-! ### What a natural number and an exponent stand for -/

/-- m × 2^e stands for v: it is v, or its last bit is a sticky one, which says that v lies on one side of where the bits
before it end. At least `bits` bits come before the last two. -/
def Stands (bits m : Nat) (e : Int) (v : ℝ) : Prop :=
  v = m * (2 : ℝ) ^ e ∨
    (m % 2 = 1 ∧ 2 ^ (bits + 2) ≤ m ∧ ((m : ℝ) - 1) * (2 : ℝ) ^ e < v ∧ v < ((m : ℝ) + 1) * (2 : ℝ) ^ e)

section

variable {bits m : Nat} {e : Int} {v : ℝ}

/-- A value in other units. -/
theorem Stands.mul_zpow (h : Stands bits m e v) (l : Int) : Stands bits m (e + l) (v * (2 : ℝ) ^ l) := by
  have hl : 0 < (2 : ℝ) ^ l := by positivity
  rcases h with rfl | ⟨hodd, hm, hlo, hhi⟩
  · exact .inl (by rw [zpow_add₀ two_ne_zero, mul_assoc])
  · refine .inr ⟨hodd, hm, ?_, ?_⟩ <;> rw [zpow_add₀ two_ne_zero, ← mul_assoc]
    · exact mul_lt_mul_of_pos_right hlo hl
    · exact mul_lt_mul_of_pos_right hhi hl

theorem Stands.ne_zero (h : Stands bits m e v) (hv : v ≠ 0) : m ≠ 0 := by
  rintro rfl
  rcases h with rfl | ⟨hodd, -⟩
  · simp at hv
  · cases hodd

/-- A value lies between the powers of two that its number lies between. -/
theorem Stands.log_le (h : Stands bits m e v) (hm : m ≠ 0) : (2 : ℝ) ^ ((Nat.log2 m : Int) + e) ≤ v := by
  have h2 : 2 ^ Nat.log2 m ≤ m := Nat.log2_self_le hm
  rw [zpow_add₀ two_ne_zero, zpow_natCast]
  rcases h with rfl | ⟨hodd, hbits, hlo, -⟩
  · exact mul_le_mul_of_nonneg_right (by exact_mod_cast h2) (by positivity)
  · refine le_trans (mul_le_mul_of_nonneg_right ?_ (by positivity)) hlo.le
    have hne : m ≠ 2 ^ Nat.log2 m := by
      intro he
      have hlog : Nat.log2 m ≠ 0 := fun h0 => by
        rw [h0] at he
        have := Nat.pow_le_pow_right Nat.two_pos (Nat.le_add_left 2 bits)
        omega
      rw [he, Nat.pow_mod, Nat.mod_self, Nat.zero_pow (Nat.pos_of_ne_zero hlog)] at hodd
      cases hodd
    have h3 : 2 ^ Nat.log2 m + 1 ≤ m := by omega
    have h4 : (2 : ℝ) ^ Nat.log2 m + 1 ≤ m := by exact_mod_cast h3
    linarith

theorem Stands.lt_log (h : Stands bits m e v) : v < (2 : ℝ) ^ ((Nat.log2 m : Int) + e + 1) := by
  have h2 : m < 2 ^ (Nat.log2 m + 1) := Nat.lt_log2_self
  rw [add_right_comm, zpow_add₀ two_ne_zero, ← Nat.cast_succ, zpow_natCast]
  rcases h with rfl | ⟨hodd, hbits, -, hhi⟩
  · exact mul_lt_mul_of_pos_right (by exact_mod_cast h2) (by positivity)
  · exact hhi.trans_le (mul_le_mul_of_nonneg_right (by exact_mod_cast h2) (by positivity))

theorem add_two_le_log2 (hbits : 2 ^ (bits + 2) ≤ m) : bits + 2 ≤ Nat.log2 m :=
  (Nat.le_log2 (by have := Nat.two_pow_pos (bits + 2); omega)).2 hbits

end

/-! ### `roundInt` -/

theorem picks_ite {g : Nat → ℝ} {rm : Rm} {n : Bool} {v : ℝ} {c : Nat} {up : Prop} [Decidable up]
    (hlo : g c ≤ v) (hhi : v < g (c + 1))
    (hup : up ↔ rm.Up n c (g c) v (g (c + 1))) : Picks g rm n v c (if up then c + 1 else c) := by
  refine ⟨hlo, hhi, ?_⟩
  split
  case isTrue h => exact .inl ⟨hup.1 h, rfl⟩
  case isFalse h => exact .inr ⟨fun h' => h (hup.2 h'), rfl⟩

/-- What the quotient b and the remainder r of a division by d say of a value x in the place of the dividend: where x lies between
the multiples of d and their midpoints. -/
structure Cut (b r d : Nat) (x : ℝ) : Prop where
  lo : (b : ℝ) * d ≤ x
  hi : x < ((b : ℝ) + 1) * d
  whole : r = 0 ↔ (b : ℝ) * d = x
  above : d < 2 * r ↔ (2 * (b : ℝ) + 1) * d < 2 * x
  half : 2 * r = d ↔ (2 * (b : ℝ) + 1) * d = 2 * x

theorem cut_exact {d : Nat} (hd : 0 < d) (m : Nat) : Cut (m / d) (m % d) d m := by
  have hdm : m / d * d + m % d = m := Nat.div_add_mod' m d
  have hlt := Nat.mod_lt m hd
  generalize m / d = b at hdm ⊢
  generalize m % d = r at hdm hlt ⊢
  subst hdm
  have hlt' : (r : ℝ) < d := by exact_mod_cast hlt
  have hr : (0 : ℝ) ≤ r := r.cast_nonneg
  push_cast
  refine ⟨by linarith, by linarith, ?_, ?_, ?_⟩
  · rw [← Nat.cast_inj (R := ℝ)]
    push_cast
    constructor <;> intro h <;> linarith
  · rw [← Nat.cast_lt (α := ℝ)]
    push_cast
    constructor <;> intro h <;> linarith
  · rw [← Nat.cast_inj (R := ℝ)]
    push_cast
    constructor <;> intro h <;> linarith

theorem cut_sticky {d j : Nat} (hd : d = 4 * j) (hj : 0 < j) {m : Nat} (hodd : m % 2 = 1) {x : ℝ} (hlo : (m : ℝ) - 1 < x)
    (hhi : x < m + 1) : Cut (m / d) (m % d) d x := by
  have hdm : m / d * d + m % d = m := Nat.div_add_mod' m d
  have hlt : m % d < d := Nat.mod_lt m (by omega)
  have hr : m % d % 2 = 1 := by rw [Nat.mod_mod_of_dvd _ ⟨2 * j, by omega⟩, hodd]
  generalize m / d = b at hdm ⊢
  generalize m % d = r at hdm hlt hr ⊢
  subst hdm
  push_cast at hlo hhi
  have h1 : (1 : ℝ) ≤ r := by exact_mod_cast (show 1 ≤ r by omega)
  have h2 : (r : ℝ) + 1 ≤ d := by exact_mod_cast hlt
  have hdown : 2 * r ≤ d → 2 * (r : ℝ) + 2 ≤ d := fun h => by exact_mod_cast (show 2 * r + 2 ≤ d by omega)
  have hup : d < 2 * r → (d : ℝ) + 2 ≤ 2 * r := fun h => by exact_mod_cast (show d + 2 ≤ 2 * r by omega)
  refine ⟨by linarith, by linarith, ⟨fun h => by omega, fun h => by linarith⟩, ⟨fun h => ?_, fun h => ?_⟩,
    ⟨fun h => by omega, fun h => ?_⟩⟩
  · linarith [hup h]
  · by_contra hc
    linarith [hdown (Nat.not_lt.1 hc)]
  · rcases Nat.lt_or_ge d (2 * r) with h3 | h3
    · linarith [hup h3]
    · linarith [hdown h3]

/-- Where the last bits of a number are dropped, those that are left are cut from the value that the number stands for. -/
theorem Stands.cut {bits m j : Nat} {k : Int} {y : ℝ} (h : Stands bits m k y) (hj : -k = j) (hk : 2 ^ (bits + 2) ≤ m → k ≤ -2) :
    Cut (m / 2 ^ j) (m % 2 ^ j) (2 ^ j) (y * (2 ^ j : Nat)) := by
  have hscale : (2 : ℝ) ^ k * (2 ^ j : Nat) = 1 := by
    rw [Nat.cast_pow, Nat.cast_ofNat, ← zpow_natCast, ← hj, ← zpow_add₀ two_ne_zero, add_neg_cancel, zpow_zero]
  have hd : (0 : ℝ) < (2 ^ j : Nat) := by positivity
  rcases h with rfl | ⟨hodd, hm, hlo, hhi⟩
  · rw [mul_assoc, hscale, mul_one]
    exact cut_exact (Nat.two_pow_pos _) m
  · obtain ⟨i, rfl⟩ : ∃ i, j = i + 2 := ⟨j - 2, by have := hk hm; omega⟩
    refine cut_sticky (j := 2 ^ i) (by ring) (Nat.two_pow_pos _) hodd ?_ ?_
    · have h1 := mul_lt_mul_of_pos_right hlo hd
      rwa [mul_assoc, hscale, mul_one] at h1
    · have h1 := mul_lt_mul_of_pos_right hhi hd
      rwa [mul_assoc, hscale, mul_one] at h1

/-- A number with a sticky bit is not rounded in place. -/
theorem Stands.eq_of_nonneg {bits m : Nat} {k : Int} {y : ℝ} (h : Stands bits m k y) (h0 : 0 ≤ k)
    (hk : 2 ^ (bits + 2) ≤ m → k ≤ -2) : ((m * 2 ^ k.toNat : Nat) : ℝ) = y := by
  rcases h with rfl | ⟨-, hm, -⟩
  · obtain ⟨j, rfl⟩ := Int.eq_ofNat_of_zero_le h0
    simp
  · have := hk hm
    omega

/-- R60: the integer of `roundInt` is the one that the mode picks for the value, and it is marked where it is not the value. -/
theorem roundInt_picks (rm : Rm) (n : Bool) {bits m : Nat} {k : Int} {y : ℝ} (h : Stands bits m k y)
    (hk : 2 ^ (bits + 2) ≤ m → k ≤ -2) :
    ∃ b, Picks (Nat.cast : Nat → ℝ) rm n y b (roundInt rm n m k).1 ∧ ((roundInt rm n m k).2 = true ↔ (b : ℝ) ≠ y) := by
  rcases le_or_gt 0 k with h0 | h0
  · have hy := h.eq_of_nonneg h0 hk
    have hlt : ((m * 2 ^ k.toNat : Nat) : ℝ) < (m * 2 ^ k.toNat + 1 : Nat) := by exact_mod_cast Nat.lt_succ_self _
    simp only [roundInt, if_pos h0]
    exact ⟨m * 2 ^ k.toNat, ⟨hy.le, hy ▸ hlt, .inr ⟨fun hup => Rm.ne_of_up hup hlt hy, rfl⟩⟩, by simp [hy]⟩
  · obtain ⟨j, hj⟩ : ∃ j : Nat, -k = j := ⟨(-k).toNat, by omega⟩
    have hcut := h.cut hj hk
    obtain ⟨hlo, hhi, hexact, habove, hhalf⟩ := hcut
    simp only [roundInt, if_neg (Int.not_le.2 h0), hj, Int.toNat_natCast]
    generalize m / 2 ^ j = b at *
    generalize m % 2 ^ j = r at *
    have hd : (0 : ℝ) < (2 ^ j : Nat) := by positivity
    rw [mul_le_mul_iff_left₀ hd] at hlo
    rw [mul_lt_mul_iff_left₀ hd] at hhi
    rw [mul_left_inj' hd.ne'] at hexact
    rw [← mul_assoc, mul_lt_mul_iff_left₀ hd] at habove
    rw [← mul_assoc, mul_left_inj' hd.ne'] at hhalf
    have hsum : (b : ℝ) + ((b + 1 : Nat) : ℝ) = 2 * b + 1 := by
      push_cast
      ring
    refine ⟨b, picks_ite hlo (by exact_mod_cast hhi) ?_, by simp [hexact]⟩
    cases rm <;> simp only [Rm.Up, hsum]
    case rne => simp [habove, hhalf]
    case rtz => simp
    case rdn => simp [hexact]
    case rup => simp [hexact]

end Sys2Proof.Machine
end

section
/-! PROOFS. `RoundTo` (R60, R61, R64) is the table's number of the value that its arguments stand for, with its flags. -/

namespace Sys2Proof.Machine

/-! ### The parts of `RoundTo` -/

/-- The exponent of the last bit that a number of the format keeps of m × 2^e. -/
def Fmt.lsb (f : Fmt) (m : Nat) (e : Int) : Int := max ((Nat.log2 m : Int) + e - f.fbits) f.minExp

/-- The magnitude code of the rounded value, were exponents unbounded above. -/
def Fmt.code (f : Fmt) (rm : Rm) (n : Bool) (m : Nat) (e : Int) : Nat :=
  (f.lsb m e - f.minExp).toNat * 2 ^ f.fbits + (roundInt rm n m (e - f.lsb m e)).1

/-- Whether the value is not one of the format. -/
def Fmt.inexact (f : Fmt) (rm : Rm) (n : Bool) (m : Nat) (e : Int) : Bool := (roundInt rm n m (e - f.lsb m e)).2

/-- R64: tiny after rounding, with an unbounded exponent. -/
def Fmt.tiny (f : Fmt) (rm : Rm) (n : Bool) (m : Nat) (e : Int) : Bool :=
  let free := (Nat.log2 m : Int) + e - f.fbits
  decide (free < f.minExp) && decide (scale (roundInt rm n m (e - free)).1 (free - f.minExp) < 2 ^ f.fbits)

section

variable {f : Fmt} {rm : Rm} {ftz sat n : Bool} {m : Nat} {e : Int} {v : ℝ}

theorem Fmt.roundTo_zero : f.roundTo rm ftz sat n 0 e = (f.pack n 0, Flags.none) := rfl

theorem Fmt.roundTo_of_ne_zero (hm : m ≠ 0) : f.roundTo rm ftz sat n m e =
    if f.maxCode < f.code rm n m e then f.overflow rm n sat
    else if f.tiny rm n m e && ftz && f.ftz then (f.pack n 0, Flags.ufnx)
    else (f.pack n (f.code rm n m e), (if f.inexact rm n m e then Flags.nx else Flags.none) |||
      (if f.tiny rm n m e && f.inexact rm n m e then Flags.ufnx else Flags.none)) := by
  rw [Fmt.roundTo, if_neg hm]
  rfl

/-- R64: no value from the least normal number on is tiny. -/
theorem Fmt.tiny_of_least_le (h : Stands f.fbits m e v) (hv : (2 : ℝ) ^ (1 - (f.bias : Int)) ≤ v) : f.tiny rm n m e = false := by
  have h1 := (zpow_lt_zpow_iff_right₀ one_lt_two).1 (hv.trans_lt h.lt_log)
  have h2 : ¬ (Nat.log2 m : Int) + e - f.fbits < f.minExp := by
    simp only [Fmt.minExp]
    omega
  simp [Fmt.tiny, h2]

variable (h : Stands f.fbits m e v) (hm : m ≠ 0)
include h hm

/-- R60: the code is what the mode picks for the value among all magnitudes. -/
theorem Fmt.code_picks (hf : f.Ieee) (rm : Rm) (n : Bool) :
    ∃ c, Picks f.mag rm n v c (f.code rm n m e) ∧ (f.inexact rm n m e = true ↔ f.mag c ≠ v) := by
  obtain ⟨l, hl⟩ : ∃ l : Nat, f.lsb m e = f.minExp + l := ⟨(f.lsb m e - f.minExp).toNat, by simp only [Fmt.lsb]; omega⟩
  have hu : 0 < (2 : ℝ) ^ (f.lsb m e) := by positivity
  have hy := h.mul_zpow (-f.lsb m e)
  obtain ⟨b, hb, hex⟩ := roundInt_picks rm n hy fun hbits => by
    have := add_two_le_log2 hbits
    simp only [Fmt.lsb]
    omega
  have hv : v * (2 : ℝ) ^ (-f.lsb m e) * (2 : ℝ) ^ f.lsb m e = v := by
    rw [zpow_neg, mul_assoc, inv_mul_cancel₀ hu.ne', mul_one]
  have hlt : b < 2 * 2 ^ f.fbits := by
    have h1 := (hb.lo.trans_lt hy.lt_log).trans_le
      (zpow_le_zpow_right₀ one_le_two (show _ ≤ ((f.fbits + 1 : Nat) : Int) by simp only [Fmt.lsb]; omega))
    rw [zpow_natCast] at h1
    rw [← pow_succ']
    exact_mod_cast h1
  have hnorm : l = 0 ∨ 2 ^ f.fbits ≤ b := by
    refine or_iff_not_imp_left.2 fun hl0 => Nat.le_of_lt_succ ?_
    have h1 := ((zpow_le_zpow_right₀ (a := (2 : ℝ)) one_le_two
      (show (f.fbits : Int) ≤ _ by simp only [Fmt.lsb] at hl ⊢; omega)).trans (hy.log_le hm)).trans_lt hb.hi
    rw [zpow_natCast] at h1
    exact_mod_cast h1
  have hmag : f.mag (l * 2 ^ f.fbits + b) = b * (2 : ℝ) ^ f.lsb m e := by rw [Fmt.mag_add hlt.le hnorm, hl]
  have hmag1 : f.mag (l * 2 ^ f.fbits + b + 1) = ((b + 1 : Nat) : ℝ) * (2 : ℝ) ^ f.lsb m e := by
    rw [Nat.add_assoc, Fmt.mag_add hlt (hnorm.imp_right Nat.le_succ_of_le), hl]
  have hp := hb.scale hu (by rw [Nat.mul_mod, hf.even_fbits, Nat.mul_zero]) hmag hmag1
  rw [hv] at hp
  refine ⟨l * 2 ^ f.fbits + b, ?_, ?_⟩
  · rw [Fmt.code, show (f.lsb m e - f.minExp).toNat = l by omega]
    exact hp
  · rw [hmag, ← hv, ne_eq, mul_left_inj' hu.ne']
    exact hex

/-- R64: a value of at most half the least normal number is tiny, however it is rounded. -/
theorem Fmt.tiny_of_le_half (hf : f.Ieee) (hv : v ≤ (2 : ℝ) ^ (-(f.bias : Int))) : f.tiny rm n m e = true := by
  have htop := (zpow_le_zpow_iff_right₀ one_lt_two).1 ((h.log_le hm).trans hv)
  have hfb := hf.fbits
  obtain ⟨free, hfree⟩ : ∃ x, x = (Nat.log2 m : Int) + e - f.fbits := ⟨_, rfl⟩
  obtain ⟨k, hk⟩ : ∃ k : Nat, f.minExp - free = k := ⟨(f.minExp - free).toNat, by simp only [Fmt.minExp]; omega⟩
  have hk0 : 0 < k := by
    simp only [Fmt.minExp] at hk
    omega
  obtain ⟨b, hb, -⟩ := roundInt_picks rm n (h.mul_zpow (-free)) fun hbits => by
    have := add_two_le_log2 hbits
    omega
  have hle : (roundInt rm n m (e - free)).1 ≤ 2 ^ (k + f.fbits - 1) := by
    refine hb.le_of_le Nat.strictMono_cast ?_
    refine (mul_le_mul_of_nonneg_right hv (by positivity)).trans_eq ?_
    rw [← zpow_add₀ two_ne_zero, Nat.cast_pow, Nat.cast_ofNat, ← zpow_natCast]
    congr 1
    simp only [Fmt.minExp] at hk
    omega
  have hlt : scale (roundInt rm n m (e - free)).1 (free - f.minExp) < 2 ^ f.fbits := by
    rw [scale, if_neg (by omega), show (-(free - f.minExp)).toNat = k by omega, Nat.div_lt_iff_lt_mul (Nat.two_pow_pos _), ← Nat.pow_add]
    exact hle.trans_lt (Nat.pow_lt_pow_right Nat.one_lt_two (by omega))
  simp only [Fmt.tiny, ← hfree, hlt, decide_true, Bool.and_true, decide_eq_true_eq]
  omega

end

/-! ### `RoundTo` (R60, R61, R64) -/

/-- R60, R61, R64: r is the delivered pattern with its flags for the exact value q: the mode's number, with q's sign, and Inexact
where it is not q, for a q within the format, and not tiny where tiny results are flushed; the entry of the overflow table from
2^(emax+1) on; under FTZ a zero where q is at most half the least normal number. -/
def Fmt.Rounded (f : Fmt) (rm : Rm) (flush : Bool) (q : ℝ) (r : Nat × Flags) : Prop :=
  ∀ n : Bool, (n = true ↔ q < 0) → q ≠ 0 →
    (|q| ≤ f.val f.maxCode → flush = false ∨ (2 : ℝ) ^ (1 - (f.bias : Int)) ≤ |q| →
      f.Best rm q r.1 ∧ r.1 / f.signWeight = n.toNat ∧ (r.2.getLsbD 4 = true ↔ f.val r.1 ≠ q) ∧ r.2.getLsbD 2 = false) ∧
    ((2 : ℝ) ^ (f.bias + 1) ≤ |q| → r.2 = Flags.ofnx ∧ r.1 = f.pack n (match rm with
      | .rne => f.infCode
      | .rtz => f.maxCode
      | .rdn => if n then f.infCode else f.maxCode
      | .rup => if n then f.maxCode else f.infCode)) ∧
    (flush = true → |q| ≤ (2 : ℝ) ^ (1 - (f.bias : Int)) / 2 → r = (f.pack n 0, Flags.ufnx))

section

variable {f : Fmt} {rm : Rm} {ftz n : Bool} {m : Nat} {e : Int} {q : ℝ}

theorem Fmt.Ieee.overflow_eq (hf : f.Ieee) : f.overflow rm n false = (f.pack n (match rm with
      | .rne => f.infCode
      | .rtz => f.maxCode
      | .rdn => if n then f.infCode else f.maxCode
      | .rup => if n then f.maxCode else f.infCode), Flags.ofnx) := by
  cases rm <;> cases n <;> simp [Fmt.overflow, hf.beyond]

/-- A number is the value itself where its lower neighbour is. -/
theorem Picks.lo_eq_iff_val_eq (hf : f.Ieee) {c r : Nat} (h : Picks f.mag rm n |q| c r) (hr : r ≤ f.maxCode) (hn : n = true ↔ q < 0) :
    f.mag c = |q| ↔ f.val (f.pack n r) = q := by
  rw [h.lo_eq_iff, hf.val_pack hr]
  conv_rhs => rw [eq_signOf_mul_abs hn]
  exact (mul_right_inj' (by cases n <;> simp [signOf])).symm

/-- The flags of a result that does not overflow. -/
theorem getLsbD_resultFlags (tiny inexact : Bool) :
    ((if inexact then Flags.nx else Flags.none) ||| (if tiny && inexact then Flags.ufnx else Flags.none) : Flags).getLsbD 4 = inexact ∧
    ((if inexact then Flags.nx else Flags.none) ||| (if tiny && inexact then Flags.ufnx else Flags.none) : Flags).getLsbD 2 = false := by
  cases tiny <;> cases inexact <;> decide

theorem Fmt.Ieee.least_le_maxCode (hf : f.Ieee) : 2 ^ f.fbits ≤ f.maxCode := by
  have hb := hf.bias
  have hpos := Nat.two_pow_pos f.fbits
  have h := Nat.mul_le_mul_right (2 ^ f.fbits) (show 3 ≤ 2 * f.bias + 1 by omega)
  rw [← hf.maxCode_succ] at h
  omega

/-- R60, R61, R64: `RoundTo` of the value that its arguments stand for. -/
theorem Fmt.roundTo_rounded (hf : f.Ieee) (h : Stands f.fbits m e |q|) (hn : n = true ↔ q < 0) :
    f.Rounded rm (ftz && f.ftz) q (f.roundTo rm ftz false n m e) := by
  intro n' hn' hq
  obtain rfl : n' = n := Bool.eq_iff_iff.2 (hn'.trans hn.symm)
  have hm := h.ne_zero (abs_ne_zero.2 hq)
  obtain ⟨c, hp, hex⟩ := Fmt.code_picks h hm hf rm n'
  rw [Fmt.roundTo_of_ne_zero hm]
  refine ⟨fun hle hflush => ?_, fun hge => ?_, fun hflush hle => ?_⟩
  · rw [hf.val_maxCode] at hle
    have hr := hp.le_of_le f.mag_strictMono hle
    have hnot : (f.tiny rm n' m e && ftz && f.ftz) = false := by
      rcases hflush with h0 | h0
      · rw [Bool.and_assoc, h0, Bool.and_false]
      · rw [Fmt.tiny_of_least_le h h0]
        rfl
    rw [if_neg (Nat.not_lt.2 hr), hnot, if_neg Bool.false_ne_true]
    refine ⟨hp.best hf hr hn hq, Fmt.pack_div (hr.trans_lt hf.maxCode_lt), ?_, ?_⟩
    · rw [(getLsbD_resultFlags _ _).1]
      exact hex.trans (not_congr (hp.lo_eq_iff_val_eq hf hr hn))
    · exact (getLsbD_resultFlags _ _).2
  · have hlt : f.maxCode + 1 < c + 1 := by
      rw [← f.mag_strictMono.lt_iff_lt, hf.mag_maxCode_succ]
      exact hge.trans_lt hp.hi
    rw [if_pos (lt_of_lt_of_le (Nat.lt_of_succ_lt_succ hlt) hp.le_pick), hf.overflow_eq]
    exact ⟨rfl, rfl⟩
  · have hhalf : |q| ≤ (2 : ℝ) ^ (-(f.bias : Int)) := by
      refine hle.trans_eq ?_
      rw [sub_eq_add_neg, zpow_add₀ two_ne_zero, zpow_one]
      ring
    have hr : f.code rm n' m e ≤ 2 ^ f.fbits := by
      refine hp.le_of_le f.mag_strictMono (hhalf.trans ?_)
      rw [f.mag_least]
      exact zpow_le_zpow_right₀ one_le_two (by omega)
    have hr := hr.trans hf.least_le_maxCode
    rw [if_neg (Nat.not_lt.2 hr), Fmt.tiny_of_le_half h hm hf hhalf, Bool.true_and, if_pos hflush]

/-- R60: the rounding of an exact value of the model. -/
theorem Fmt.roundTo_fin_rounded (hf : f.Ieee) :
    f.Rounded rm (ftz && f.ftz) (FVal.fin n m e).toReal (f.roundTo rm ftz false n m e) := by
  intro n' hn' hq
  exact Fmt.roundTo_rounded hf (.inl (FVal.abs_toReal_fin n m e)) (FVal.toReal_fin_neg_iff hq).symm n' hn' hq

end

end Sys2Proof.Machine
end

section
/-! PROOFS. Sums, products, fused products, quotients and roots (R80, R81, R136): what the model rounds is the exact result, or
stands for it. -/

namespace Sys2Proof.Machine

/-! ### Sums and products (R80, R136) -/

theorem FVal.exists_of_finite {v : FVal} (h : v.finite = true) : ∃ n m e, v = .fin n m e := by
  cases v with
  | fin n m e => exact ⟨n, m, e, rfl⟩
  | _ => cases h

theorem FVal.ne_zero_of_toReal {n : Bool} {m : Nat} {e : Int} (h : (FVal.fin n m e).toReal ≠ 0) : m ≠ 0 := by
  rintro rfl
  exact h (by simp [FVal.toReal_fin])

theorem FVal.toReal_fin_pos_iff {n : Bool} {m : Nat} {e : Int} (h : (FVal.fin n m e).toReal ≠ 0) :
    0 < (FVal.fin n m e).toReal ↔ n = false := by
  rw [← not_iff_not, not_lt, h.le_iff_lt, FVal.toReal_fin_neg_iff h, Bool.not_eq_false]

theorem mul_zpow_sub_toNat {e g : Int} (h : g ≤ e) (m : ℝ) : m * 2 ^ (e - g).toNat * (2 : ℝ) ^ g = m * (2 : ℝ) ^ e := by
  rw [mul_assoc, ← zpow_natCast, ← zpow_add₀ two_ne_zero]
  congr 2
  omega

theorem FVal.toReal_negate (v : FVal) : v.negate.toReal = -v.toReal := by
  cases v with
  | fin n m e => cases n <;> simp [FVal.negate, FVal.toReal_fin, signOf]
  | _ => simp [FVal.negate, FVal.toReal]

theorem FVal.finite_negate (v : FVal) : v.negate.finite = v.finite := by cases v <;> rfl

theorem FVal.toReal_mul (n k : Bool) (m p : Nat) (e g : Int) :
    (FVal.fin (n != k) (m * p) (e + g)).toReal = (FVal.fin n m e).toReal * (FVal.fin k p g).toReal := by
  rw [FVal.toReal_fin, FVal.toReal_fin, FVal.toReal_fin, zpow_add₀ two_ne_zero, Nat.cast_mul]
  cases n <;> cases k <;> simp [signOf] <;> ring

theorem signedMant_natAbs (x : Int) : signedMant (decide (x < 0)) x.natAbs = x := by
  unfold signedMant
  by_cases h : x < 0
  · rw [if_pos (decide_eq_true h)]
    omega
  · rw [if_neg (by simpa using h)]
    omega

/-- The aligned sum, in units of the lower exponent. -/
def alignedSum (na : Bool) (ma : Nat) (ea : Int) (nb : Bool) (mb : Nat) (eb : Int) : Int :=
  signedMant na (ma * 2 ^ (ea - min ea eb).toNat) + signedMant nb (mb * 2 ^ (eb - min ea eb).toNat)

section

variable (na : Bool) (ma : Nat) (ea : Int) (nb : Bool) (mb : Nat) (eb : Int)

theorem alignedSum_cast : (alignedSum na ma ea nb mb eb : ℝ) * (2 : ℝ) ^ min ea eb =
    (FVal.fin na ma ea).toReal + (FVal.fin nb mb eb).toReal := by
  rw [alignedSum, Int.cast_add, signedMant_cast, signedMant_cast, FVal.toReal_fin, FVal.toReal_fin, add_mul]
  push_cast
  rw [← mul_zpow_sub_toNat (min_le_left ea eb) (ma : ℝ), ← mul_zpow_sub_toNat (min_le_right ea eb) (mb : ℝ)]
  ring

theorem exactSum_eq (rm : Rm) : exactSum rm na ma ea nb mb eb =
    if alignedSum na ma ea nb mb eb = 0 then (if na = nb then na else decide (rm = .rdn), 0, min ea eb)
    else (decide (alignedSum na ma ea nb mb eb < 0), (alignedSum na ma ea nb mb eb).natAbs, min ea eb) := rfl

/-- R60: the exact sum is exact. -/
theorem toReal_exactSum (rm : Rm) : let r := exactSum rm na ma ea nb mb eb
    (FVal.fin r.1 r.2.1 r.2.2).toReal = (FVal.fin na ma ea).toReal + (FVal.fin nb mb eb).toReal := by
  rw [← alignedSum_cast, exactSum_eq]
  split
  case isTrue h => simp [h, FVal.toReal_fin]
  case isFalse h =>
    show (signedMant (decide (_ < 0)) _ : ℝ) * _ = _
    rw [signedMant_natAbs]

/-- R60: the sign of an exact zero sum. -/
theorem exactSum_of_zero (rm : Rm) (h : (FVal.fin na ma ea).toReal + (FVal.fin nb mb eb).toReal = 0) :
    exactSum rm na ma ea nb mb eb = (if na = nb then na else decide (rm = .rdn), 0, min ea eb) := by
  rw [← alignedSum_cast, mul_eq_zero, or_iff_left (by positivity), Int.cast_eq_zero] at h
  rw [exactSum_eq, if_pos h]

end

section

variable {f : Fmt} {rm : Rm} {ftz : Bool} (hf : f.Ieee)
include hf

theorem Fmt.addVal_rounded {a b : FVal} (ha : a.finite = true) (hb : b.finite = true) :
    f.Rounded rm (ftz && f.ftz) (a.toReal + b.toReal) (f.addVal rm ftz a b) := by
  obtain ⟨na, ma, ea, rfl⟩ := FVal.exists_of_finite ha
  obtain ⟨nb, mb, eb, rfl⟩ := FVal.exists_of_finite hb
  rw [← toReal_exactSum _ _ _ _ _ _ rm]
  exact Fmt.roundTo_fin_rounded hf

variable {a b d : Nat}

theorem Fmt.addF_rounded (ha : (f.read ftz a).finite = true) (hb : (f.read ftz b).finite = true) :
    f.Rounded rm (ftz && f.ftz) ((f.read ftz a).toReal + (f.read ftz b).toReal) (f.addF rm ftz a b) :=
  Fmt.addVal_rounded hf ha hb

theorem Fmt.subF_rounded (ha : (f.read ftz a).finite = true) (hb : (f.read ftz b).finite = true) :
    f.Rounded rm (ftz && f.ftz) ((f.read ftz a).toReal - (f.read ftz b).toReal) (f.subF rm ftz a b) := by
  rw [sub_eq_add_neg, ← FVal.toReal_negate]
  exact Fmt.addVal_rounded hf ha ((FVal.finite_negate _).trans hb)

theorem Fmt.mulF_rounded (ha : (f.read ftz a).finite = true) (hb : (f.read ftz b).finite = true) :
    f.Rounded rm (ftz && f.ftz) ((f.read ftz a).toReal * (f.read ftz b).toReal) (f.mulF rm ftz a b) := by
  unfold Fmt.mulF
  obtain ⟨n, m, e, hx⟩ := FVal.exists_of_finite ha
  obtain ⟨k, p, g, hy⟩ := FVal.exists_of_finite hb
  rw [hx, hy, ← FVal.toReal_mul]
  exact Fmt.roundTo_fin_rounded hf

theorem Fmt.fmaF_rounded (ha : (f.read ftz a).finite = true) (hb : (f.read ftz b).finite = true) (hd : (f.read ftz d).finite = true) :
    f.Rounded rm (ftz && f.ftz) ((f.read ftz a).toReal * (f.read ftz b).toReal + (f.read ftz d).toReal) (f.fmaF rm ftz a b d) := by
  unfold Fmt.fmaF
  obtain ⟨n, m, e, hx⟩ := FVal.exists_of_finite ha
  obtain ⟨k, p, g, hy⟩ := FVal.exists_of_finite hb
  rw [hx, hy, ← FVal.toReal_mul]
  exact Fmt.addVal_rounded hf rfl hd

end

/-! ### Quotients and roots (R80, R81, R137) -/

/-- A whole part with one bit for what follows it stands for twice the value. -/
theorem stands_sticky {bits k : Nat} {w : ℝ} (hlo : (k : ℝ) ≤ w) (hhi : w < k + 1) (hbits : 2 ^ (bits + 1) ≤ k) (whole : Prop)
    [Decidable whole] (hexact : whole ↔ (k : ℝ) = w) (e : Int) :
    Stands bits (2 * k + if whole then 0 else 1) (e - 1) (w * (2 : ℝ) ^ e) := by
  have he : (2 : ℝ) ^ e = 2 * (2 : ℝ) ^ (e - 1) := by
    rw [← zpow_one_add₀ two_ne_zero]
    congr 1
    omega
  have hpos : 0 < (2 : ℝ) ^ (e - 1) := by positivity
  rw [he, ← mul_assoc]
  split
  case isTrue h =>
    rw [← hexact.1 h]
    exact .inl (by push_cast; ring)
  case isFalse h =>
    have hlt : (k : ℝ) < w := lt_of_le_of_ne hlo fun heq => h (hexact.2 heq)
    refine .inr ⟨by omega, ?_, mul_lt_mul_of_pos_right ?_ hpos, mul_lt_mul_of_pos_right ?_ hpos⟩
    · rw [Nat.pow_succ]
      omega
    · push_cast
      linarith
    · push_cast
      linarith

/-- The whole part of a quotient. -/
theorem cast_div_spec (a : Nat) {b : Nat} (hb : 0 < b) :
    ((a / b : Nat) : ℝ) ≤ a / b ∧ (a : ℝ) / b < (a / b : Nat) + 1 ∧ (a % b = 0 ↔ ((a / b : Nat) : ℝ) = a / b) := by
  have hb' : (0 : ℝ) < b := by exact_mod_cast hb
  obtain ⟨hlo, hhi, hexact, -, -⟩ := cut_exact hb a
  exact ⟨(le_div_iff₀ hb').2 hlo, (div_lt_iff₀ hb').2 hhi, hexact.trans (eq_div_iff hb'.ne').symm⟩

/-- Each half of `isqrt` keeps the root of what stands above two bits. -/
theorem isqrt_spec (k : Nat) : ∀ n, n < 4 ^ k → isqrt n k * isqrt n k ≤ n ∧ n < (isqrt n k + 1) * (isqrt n k + 1) := by
  induction k with
  | zero =>
    intro n hn
    simp only [isqrt]
    omega
  | succ k ih =>
    intro n hn
    rw [Nat.pow_succ] at hn
    obtain ⟨hlo, hhi⟩ := ih (n / 4) (Nat.div_lt_of_lt_mul (by omega))
    simp only [isqrt]
    generalize isqrt (n / 4) k = r at *
    have h1 : 4 * (r * r) ≤ n := by omega
    have h2 : n < 4 * ((r + 1) * (r + 1)) := by omega
    split
    case isTrue h => exact ⟨h, by nlinarith⟩
    case isFalse h => exact ⟨by nlinarith, by omega⟩

section

variable {bits m p : Nat} (hm : m ≠ 0)
include hm

/-- R80: enough bits of a quotient, and one bit for the rest. -/
theorem stickyDiv_stands (hp : p ≠ 0) (e g : Int) : let s := bits + 4 + Nat.log2 p
    Stands bits (stickyDiv (m * 2 ^ s) p) (e - g - s - 1) (m * (2 : ℝ) ^ e / (p * (2 : ℝ) ^ g)) := by
  intro s
  obtain ⟨hlo, hhi, hexact⟩ := cast_div_spec (m * 2 ^ s) (Nat.pos_of_ne_zero hp)
  have hbits : 2 ^ (bits + 1) ≤ m * 2 ^ s / p := by
    rw [Nat.le_div_iff_mul_le (Nat.pos_of_ne_zero hp)]
    calc 2 ^ (bits + 1) * p ≤ 2 ^ (bits + 1) * 2 ^ (Nat.log2 p + 1) := Nat.mul_le_mul_left _ Nat.lt_log2_self.le
      _ = 2 ^ (bits + 1 + (Nat.log2 p + 1)) := (Nat.pow_add _ _ _).symm
      _ ≤ 2 ^ s := Nat.pow_le_pow_right Nat.two_pos (by omega)
      _ ≤ m * 2 ^ s := Nat.le_mul_of_pos_left _ (Nat.pos_of_ne_zero hm)
  have hval : ((m * 2 ^ s : Nat) : ℝ) / p * (2 : ℝ) ^ (e - g - s) = m * (2 : ℝ) ^ e / (p * (2 : ℝ) ^ g) := by
    have hp' : (p : ℝ) ≠ 0 := Nat.cast_ne_zero.2 hp
    rw [zpow_sub₀ two_ne_zero, zpow_sub₀ two_ne_zero, zpow_natCast]
    push_cast
    field_simp
  rw [← hval]
  exact stands_sticky hlo hhi hbits _ hexact _

/-- R81: enough bits of a root, and one bit for the rest. -/
theorem isqrt_stands (e : Int) : let s := 2 * (bits + 4) + (e % 2).toNat
    let x := m * 2 ^ s
    let r := isqrt x (Nat.log2 x / 2 + 1)
    Stands bits (2 * r + if r * r = x then 0 else 1) ((e - s) / 2 - 1) (Real.sqrt (m * (2 : ℝ) ^ e)) := by
  intro s x r
  obtain ⟨h, hh⟩ : ∃ h : Int, e = 2 * h + s := ⟨(e - s) / 2, by omega⟩
  obtain ⟨hlo, hhi⟩ : r * r ≤ x ∧ x < (r + 1) * (r + 1) := isqrt_spec _ x (by
    rw [show 4 = 2 ^ 2 from rfl, ← Nat.pow_mul]
    exact Nat.lt_log2_self.trans_le (Nat.pow_le_pow_right Nat.two_pos (by omega)))
  have hbits : 2 ^ (bits + 1) ≤ r := by
    have hx : 2 ^ (bits + 4) * 2 ^ (bits + 4) ≤ x := by
      rw [← Nat.pow_add]
      exact (Nat.pow_le_pow_right Nat.two_pos (by omega)).trans (Nat.le_mul_of_pos_left _ (Nat.pos_of_ne_zero hm))
    have hr : 2 ^ (bits + 4) < r + 1 := Nat.mul_self_lt_mul_self_iff.1 (hx.trans_lt hhi)
    exact (Nat.pow_le_pow_right Nat.two_pos (by omega)).trans (Nat.le_of_lt_succ hr)
  have hexact : r * r = x ↔ (r : ℝ) = Real.sqrt x := by
    rw [eq_comm (a := (r : ℝ)), Real.sqrt_eq_iff_mul_self_eq x.cast_nonneg r.cast_nonneg]
    exact_mod_cast eq_comm
  have hval : Real.sqrt x * (2 : ℝ) ^ h = Real.sqrt (m * (2 : ℝ) ^ e) := by
    have hsq : (m : ℝ) * (2 : ℝ) ^ e = x * ((2 : ℝ) ^ h * (2 : ℝ) ^ h) := by
      rw [← zpow_add₀ two_ne_zero, ← two_mul, hh, zpow_add₀ two_ne_zero, zpow_natCast, Nat.cast_mul, Nat.cast_pow, Nat.cast_ofNat]
      ring
    rw [hsq, Real.sqrt_mul x.cast_nonneg, Real.sqrt_mul_self (by positivity)]
  rw [← hval, show (e - s) / 2 = h by omega]
  refine stands_sticky (Real.le_sqrt_of_sq_le ?_) ((Real.sqrt_lt' (by positivity)).2 ?_) hbits _ hexact h
  · rw [sq]
    exact_mod_cast hlo
  · rw [sq]
    exact_mod_cast hhi

end

section

variable {f : Fmt} {rm : Rm} {ftz : Bool} (hf : f.Ieee) {a b : Nat} (ha : (f.read ftz a).finite = true)
include hf ha

theorem Fmt.divF_rounded (hb : (f.read ftz b).finite = true) (hy0 : (f.read ftz b).toReal ≠ 0) :
    f.Rounded rm (ftz && f.ftz) ((f.read ftz a).toReal / (f.read ftz b).toReal) (f.divF rm ftz a b) := by
  obtain ⟨n, m, e, hx⟩ := FVal.exists_of_finite ha
  obtain ⟨k, p, g, hy⟩ := FVal.exists_of_finite hb
  rw [Fmt.divF, hx, hy]
  rw [hy] at hy0
  intro n' hn' hq
  have hp := FVal.ne_zero_of_toReal hy0
  have hx0 := (div_ne_zero_iff.1 hq).1
  have hm := FVal.ne_zero_of_toReal hx0
  have hstands := stickyDiv_stands (bits := f.fbits) hm hp e g
  rw [← FVal.abs_toReal_fin n, ← FVal.abs_toReal_fin k, ← abs_div] at hstands
  dsimp only
  rw [if_neg hp, if_neg hm]
  refine Fmt.roundTo_rounded hf hstands ?_ n' hn' hq
  rw [div_neg_iff, FVal.toReal_fin_neg_iff hx0, FVal.toReal_fin_neg_iff hy0, FVal.toReal_fin_pos_iff hx0, FVal.toReal_fin_pos_iff hy0]
  cases n <;> cases k <;> decide

theorem Fmt.sqrtF_rounded (hx0 : 0 ≤ (f.read ftz a).toReal) :
    f.Rounded rm (ftz && f.ftz) (Real.sqrt (f.read ftz a).toReal) (f.sqrtF rm ftz a) := by
  obtain ⟨n, m, e, hx⟩ := FVal.exists_of_finite ha
  rw [Fmt.sqrtF, hx]
  rw [hx] at hx0
  intro n' hn' hq
  have hpos := Real.sqrt_ne_zero'.1 hq
  have hm := FVal.ne_zero_of_toReal hpos.ne'
  obtain rfl : n = false := Bool.eq_false_iff.2 fun h => hpos.not_gt ((FVal.toReal_fin_neg_iff hpos.ne').2 h)
  have hstands := isqrt_stands (bits := f.fbits) hm e
  rw [← FVal.abs_toReal_fin false, abs_of_pos hpos, ← abs_of_nonneg (Real.sqrt_nonneg (FVal.toReal _))] at hstands
  dsimp only
  rw [if_neg hm, if_neg Bool.false_ne_true]
  exact Fmt.roundTo_rounded hf hstands (by simp [Real.sqrt_nonneg]) n' hn' hq

end

/-! ### Zero sums -/

theorem Fmt.unpack_sign {f : Fmt} {p : Nat} {n : Bool} {m : Nat} {e : Int} (h : f.unpack p = .fin n m e) : n = f.neg p := by
  simp only [Fmt.unpack] at h
  split_ifs at h <;> cases h <;> rfl

/-- R64: reading keeps the sign of a number. -/
theorem Fmt.read_sign {f : Fmt} {ftz : Bool} {p : Nat} {n : Bool} {m : Nat} {e : Int} (h : f.read ftz p = .fin n m e) :
    n = f.neg p := by
  unfold Fmt.read at h
  split at h
  case h_1 heq =>
    rw [← Fmt.unpack_sign heq]
    split_ifs at h <;> cases h <;> rfl
  case h_2 => exact Fmt.unpack_sign h

/-- R60: an exact zero sum. -/
theorem Fmt.addF_of_zero {f : Fmt} {rm : Rm} {ftz : Bool} {a b : Nat} (ha : (f.read ftz a).finite = true)
    (hb : (f.read ftz b).finite = true) (h : (f.read ftz a).toReal + (f.read ftz b).toReal = 0) :
    f.addF rm ftz a b = (f.pack (if f.neg a = f.neg b then f.neg a else decide (rm = .rdn)) 0, 0) := by
  obtain ⟨n, m, e, hx⟩ := FVal.exists_of_finite ha
  obtain ⟨k, p, g, hy⟩ := FVal.exists_of_finite hb
  rw [hx, hy] at h
  rw [← Fmt.read_sign hx, ← Fmt.read_sign hy, Fmt.addF, hx, hy, Fmt.addVal, exactSum_of_zero _ _ _ _ _ _ rm h]
  exact Fmt.roundTo_zero

end Sys2Proof.Machine

open Sys2Proof Sys2Proof.Machine in
/-- Settles O13: every operation is `RoundTo` of its exact result, or of a number that a sticky bit lets stand for it. -/
theorem floatResultsAreRounded : Obligations.FloatResultsAreRounded := by
  intro f rm ftz a b d hformat real finite val isNum x y z least flush best rounded neg ha hb
  have hf := ieee_formats hformat
  exact ⟨Fmt.addF_rounded hf ha hb, Fmt.subF_rounded hf ha hb, Fmt.mulF_rounded hf ha hb, Fmt.fmaF_rounded hf ha hb,
    Fmt.divF_rounded hf ha hb, Fmt.sqrtF_rounded hf ha, Fmt.addF_of_zero ha hb⟩
end

section
/-! PROOFS. The integer words of the uniform set (R71 to R75): each writes the result on 64 bits, or on a word, of its two operands. -/

namespace Sys2Proof.Machine

/-! ### Results -/

theorem clampInt_eq_max_min {lo hi : Int} (h : lo ≤ hi) (x : Int) : clampInt lo hi x = max lo (min hi x) := by
  unfold clampInt
  split
  · omega
  · split <;> omega

/-- R73: a signed sum that is clamped. -/
theorem satTo_signed (n : Nat) (e : Int) :
    satTo n true e = (BitVec.ofInt n (max (-2 ^ (n - 1)) (min (2 ^ (n - 1) - 1) e)),
      decide (max (-2 ^ (n - 1)) (min (2 ^ (n - 1) - 1) e) ≠ e)) := by
  have hpow : (0 : Int) < 2 ^ (n - 1) := by positivity
  have hclamp := clampInt_eq_max_min (show (-2 ^ (n - 1) : Int) ≤ 2 ^ (n - 1) - 1 by omega) e
  simp only [satTo, if_true, hclamp]

/-- R73: an unsigned sum that is clamped. -/
theorem satTo_unsigned (n : Nat) (e : Int) :
    satTo n false e = (BitVec.ofInt n (max 0 (min (2 ^ n - 1) e)), decide (max 0 (min (2 ^ n - 1) e) ≠ e)) := by
  have hpow : (0 : Int) < 2 ^ n := by positivity
  have hclamp := clampInt_eq_max_min (show (0 : Int) ≤ 2 ^ n - 1 by omega) e
  simp only [satTo, Bool.false_eq_true, if_false, hclamp]

/-- R73: a sum or difference clamped as a signed integer of 64 bits or of a word. -/
theorem sumWord_signed (w : Bool) (op : Int → Int → Int) (a b : W64) :
    let n := if w then 32 else 64
    let e := op (if w then (a.setWidth 32).toInt else a.toInt) (if w then (b.setWidth 32).toInt else b.toInt)
    let c := max (-2 ^ (n - 1)) (min (2 ^ (n - 1) - 1) e)
    sumWord w 1 op a b = (if w then (BitVec.ofInt 32 c).signExtend 64 else BitVec.ofInt 64 c, decide (c ≠ e)) := by
  cases w with
  | false => exact satTo_signed 64 _
  | true => exact congrArg (fun r : W32 × Bool => (r.1.signExtend 64, r.2)) (satTo_signed 32 _)

/-- R73: a sum or difference clamped as an unsigned integer of 64 bits or of a word. -/
theorem sumWord_unsigned (w : Bool) (op : Int → Int → Int) (a b : W64) :
    let n := if w then 32 else 64
    let e := op (if w then ((a.setWidth 32).toNat : Int) else (a.toNat : Int))
      (if w then ((b.setWidth 32).toNat : Int) else (b.toNat : Int))
    let c := max 0 (min (2 ^ n - 1) e)
    sumWord w 2 op a b = (if w then (BitVec.ofInt 32 c).signExtend 64 else BitVec.ofInt 64 c, decide (c ≠ e)) := by
  cases w with
  | false => exact satTo_unsigned 64 _
  | true => exact congrArg (fun r : W32 × Bool => (r.1.signExtend 64, r.2)) (satTo_unsigned 32 _)

/-- The integer that a pattern stands for, unsigned or signed. -/
def patternInt (u : Bool) {n : Nat} (a : BitVec n) : Int := if u then (a.toNat : Int) else a.toInt

theorem patternInt_eq_zero_iff (u : Bool) {n : Nat} (a : BitVec n) : patternInt u a = 0 ↔ a = 0 := by
  cases u with
  | false => rw [← BitVec.toInt_inj, BitVec.ofNat_eq_ofNat, BitVec.toInt_zero]; rfl
  | true => rw [← BitVec.toNat_inj]; exact Int.natCast_eq_zero

theorem ofInt_patternInt (u : Bool) {n : Nat} (a : BitVec n) : BitVec.ofInt n (patternInt u a) = a := by
  cases u with
  | false => exact BitVec.ofInt_toInt
  | true => exact (BitVec.ofInt_natCast _ _).trans ((BitVec.ofNat_toNat _ _).trans (BitVec.setWidth_eq _))

/-- R74: the quotient of the integers, and all ones for a division by zero. -/
theorem quotient_eq (u : Bool) {n : Nat} (a b : BitVec n) :
    quotient u a b = BitVec.ofInt n (if patternInt u b = 0 then -1 else (patternInt u a).tdiv (patternInt u b)) := by
  by_cases hb : b = 0
  · rw [if_pos ((patternInt_eq_zero_iff u b).2 hb), quotient, if_pos hb, BitVec.ofInt_neg]
    exact BitVec.neg_one_eq_allOnes.symm
  · rw [if_neg (mt (patternInt_eq_zero_iff u b).1 hb), quotient, if_neg hb]
    cases u with
    | false => rfl
    | true =>
      show a / b = BitVec.ofInt n ((a.toNat : Int).tdiv b.toNat)
      rw [← Int.ofNat_tdiv, BitVec.ofInt_natCast]
      exact BitVec.udiv_def

/-- R74: the remainder, and the dividend itself for a division by zero. -/
theorem remainder_eq (u : Bool) {n : Nat} (a b : BitVec n) :
    remainder u a b = BitVec.ofInt n (if patternInt u b = 0 then patternInt u a
      else patternInt u a - (patternInt u a).tdiv (patternInt u b) * patternInt u b) := by
  by_cases hb : b = 0
  · rw [if_pos ((patternInt_eq_zero_iff u b).2 hb), remainder, if_pos hb, ofInt_patternInt]
  · have hmod : patternInt u a - (patternInt u a).tdiv (patternInt u b) * patternInt u b = (patternInt u a).tmod (patternInt u b) := by
      rw [Int.tmod_def, Int.mul_comm]
    rw [if_neg (mt (patternInt_eq_zero_iff u b).1 hb), remainder, if_neg hb, hmod]
    cases u with
    | false => rfl
    | true =>
      show a % b = BitVec.ofInt n ((a.toNat : Int).tmod b.toNat)
      rw [← Int.ofNat_tmod, BitVec.ofInt_natCast]
      exact BitVec.umod_def

/-- R75: on a word a shift amount counts modulo 32. -/
theorem toNat_setWidth_mod_32 (y : W64) : (y.setWidth 32).toNat % 32 = y.toNat % 32 := by
  rw [BitVec.toNat_setWidth]
  omega

/-! ### Words -/

/-- R71: operand B does not depend on a hold that has ended. -/
theorem State.uniOperand_unheld (s : State) (b : BitVec 6) (bs : BitVec 2) : s.unheld.uniOperand s.cur b bs = s.uniOperand s.cur b bs := by
  have hjetty : ∀ c j, s.unheld.jetty c j = s.jetty c j := by
    intro c j
    rw [s.unheld_eq]
    rfl
  simp only [State.uniOperand, State.getW_unheld, State.cptOf_unheld, hjetty]

section

variable {s : State} {i : Instr} {body : ThreadId → State → Did} {d a b : BitVec 6} {bs : BitVec 2} (hb : s.begins i = true)
include hb

/-- R71: a word of two operands and one result. -/
theorem issue_uniBin {f : W64 → W64 → W64} {v : W64} (hd : body s.cur s.unheld = .done (s.unheld.uniBin s.cur d a b bs f))
    (hv : f (s.getW s.cur a.toNat) (s.uniOperand s.cur b bs) = v) :
    issue i s body = .next (s.after (s.unheld.putW s.cur d.toNat v)) := by
  rw [← hv, ← State.getW_unheld, ← State.uniOperand_unheld]
  exact issue_putW hb hd

/-- R73: a sum or difference, of which the result and SAT are known. -/
theorem issue_uniSum {w : Bool} {f : BitVec 3} {op : Int → Int → Int} {v : W64} {sat : Bool}
    (hd : body s.cur s.unheld = .done (s.unheld.uniSum s.cur d a b bs w f op))
    (hv : sumWord w f.toNat op (s.getW s.cur a.toNat) (s.uniOperand s.cur b bs) = (v, sat)) :
    issue i s body = .next (s.after ((s.unheld.putW s.cur d.toNat v).raiseFlags s.cur (if sat then 0x20 else 0))) := by
  rw [← State.getW_unheld, ← State.uniOperand_unheld] at hv
  refine issue_plain hb (hd.trans ?_) ?_ ?_
  · unfold State.uniSum
    rw [hv]
    rfl
  · exact (State.raiseFlags_stepped _ _ _).trans (State.putW_stepped _ _ _ _)
  · exact (State.raiseFlags_cmds _ _ _).trans (State.putW_cmds _ _ _ _)

end

end Sys2Proof.Machine

open Sys2Proof Sys2Proof.Machine in
/-- Settles O12, word by word. -/
theorem uniformArithmetic : Obligations.UniformArithmetic := by
  refine ⟨?_, ?_, ?_⟩
  · intro s t w d a b bs k x y xl yl put
    refine ⟨fun hb => ?_, fun hb => ?_, fun hb => ?_, fun hb => ?_, fun hb => ?_, fun hb => ?_, fun hb => ?_, fun hb => ?_, fun hb => ?_,
      fun hb => ?_, fun hb => ?_, fun hb => ?_, fun hb => ?_, fun hb => ?_⟩
    · exact show execUmul t d a b bs w s = _ from issue_uniBin hb rfl rfl
    · exact show execUmulh t d a b bs w true s = _ from issue_uniBin hb rfl rfl
    · exact show execUmulh t d a b bs w false s = _ from issue_uniBin hb rfl rfl
    · exact show execUand t d a b bs s = _ from issue_uniBin hb rfl rfl
    · exact show execUor t d a b bs s = _ from issue_uniBin hb rfl rfl
    · exact show execUxor t d a b bs s = _ from issue_uniBin hb rfl rfl
    · rw [← toNat_setWidth_mod_32]
      exact show execUshl t d a b bs w s = _ from issue_uniBin hb rfl rfl
    · rw [← toNat_setWidth_mod_32]
      exact show execUshr t d a b bs w false s = _ from issue_uniBin hb rfl rfl
    · rw [← toNat_setWidth_mod_32]
      exact show execUshr t d a b bs w true s = _ from issue_uniBin hb rfl rfl
    · exact show execUmin t d a b bs false s = _ from issue_uniBin hb rfl (pickMin_eq _ _ _)
    · exact show execUmin t d a b bs true s = _ from issue_uniBin hb rfl (pickMin_eq _ _ _)
    · exact show execUmax t d a b bs false s = _ from issue_uniBin hb rfl (pickMax_eq _ _ _)
    · exact show execUmax t d a b bs true s = _ from issue_uniBin hb rfl (pickMax_eq _ _ _)
    · have hk : (s.unheld.uni s.cur).getK k.toNat = (s.uni s.cur).getK k.toNat := by rw [State.unheld_uni]
      exact show execUsel t d a b bs k s = _ from issue_uniBin hb rfl (by rw [hk])
  · intro s t w d a b bs x y n sx sy ux uy deliver signed unsigned
    refine ⟨fun hb => ?_, fun hb => ?_, fun hb => ?_, fun hb => ?_, fun hb => ?_, fun hb => ?_⟩
    · refine show execUadd t d a b bs w 0 s = _ from issue_uniSum hb rfl ?_
      cases w <;> rfl
    · refine show execUsub t d a b bs w 0 s = _ from issue_uniSum hb rfl ?_
      cases w <;> rfl
    · exact show execUadd t d a b bs w 1 s = _ from issue_uniSum hb rfl (sumWord_signed w (· + ·) x y)
    · exact show execUsub t d a b bs w 1 s = _ from issue_uniSum hb rfl (sumWord_signed w (· - ·) x y)
    · exact show execUadd t d a b bs w 2 s = _ from issue_uniSum hb rfl (sumWord_unsigned w (· + ·) x y)
    · exact show execUsub t d a b bs w 2 s = _ from issue_uniSum hb rfl (sumWord_unsigned w (· - ·) x y)
  · intro s t w u d a b bs x y vx vy q r put
    refine ⟨fun hb => ?_, fun hb => ?_⟩
    · refine show execUdiv t d a b bs w u s = _ from issue_uniBin hb rfl ?_
      cases w with
      | false => exact quotient_eq u x y
      | true => exact congrArg (BitVec.signExtend 64) (quotient_eq u (x.setWidth 32) (y.setWidth 32))
    · refine show execUrem t d a b bs w u s = _ from issue_uniBin hb rfl ?_
      cases w with
      | false => exact remainder_eq u x y
      | true => exact congrArg (BitVec.signExtend 64) (remainder_eq u (x.setWidth 32) (y.setWidth 32))
end

section
/-! PROOFS. The functions of `uun` (R77), on n bits and then on 64 bits or on a word. -/

namespace Sys2Proof.Machine

/-! ### Leading and trailing zeros -/

theorem clz_of_zero {n : Nat} {x : BitVec n} (h : ∀ i, i < n → x.getLsbD i = false) : clz x = n := by
  have hx : x = 0 := BitVec.eq_of_getLsbD_eq fun i hi => by rw [h i hi]; simp
  rw [clz, if_pos hx]

/-- The k bits above the highest one. -/
theorem clz_of_highest {n k : Nat} {x : BitVec n} (hk : k < n) (hone : x.getLsbD (n - 1 - k) = true)
    (hzero : ∀ i, i < k → x.getLsbD (n - 1 - i) = false) : clz x = k := by
  have hx : x ≠ 0 := by
    rintro rfl
    simp at hone
  have hlow : 2 ^ (n - 1 - k) ≤ x.toNat := Nat.ge_two_pow_of_testBit hone
  have hhigh : x.toNat < 2 ^ (n - 1 - k + 1) := by
    refine Nat.lt_pow_two_of_testBit _ fun i hi => ?_
    by_cases hin : i < n
    · have h := hzero (n - 1 - i) (by omega)
      rwa [show n - 1 - (n - 1 - i) = i by omega] at h
    · exact BitVec.getLsbD_of_ge x i (not_lt.1 hin)
  have hlog : x.toNat.log2 = n - 1 - k := (Nat.log2_eq_iff (by omega)).2 ⟨hlow, hhigh⟩
  rw [clz, if_neg hx, hlog]
  omega

/-- What a loop that gathers single bits has gathered. -/
theorem getLsbD_foldl_bits {n : Nat} (x : BitVec n) (k j : Nat) (hj : j < n) :
    ((List.range k).foldl (fun acc i => if x.getLsbD i then acc ||| BitVec.ofNat n (2 ^ (n - 1 - i)) else acc) 0).getLsbD j =
      (decide (n - 1 - j < k) && x.getLsbD (n - 1 - j)) := by
  induction k with
  | zero => simp
  | succ k ih =>
    rw [List.range_succ, List.foldl_append, List.foldl_cons, List.foldl_nil]
    by_cases hjk : n - 1 - j = k
    · have hbit : (BitVec.ofNat n (2 ^ (n - 1 - k))).getLsbD j = true := by
        rw [BitVec.getLsbD_ofNat, Nat.testBit_two_pow, decide_eq_true hj, decide_eq_true (by omega), Bool.true_and]
      cases hx : x.getLsbD k with
      | true => rw [if_pos rfl, BitVec.getLsbD_or, hbit, Bool.or_true, hjk, hx, decide_eq_true (Nat.lt_succ_self k), Bool.true_and]
      | false => rw [if_neg (by decide), ih, hjk, hx, Bool.and_false, Bool.and_false]
    · have hlt : decide (n - 1 - j < k + 1) = decide (n - 1 - j < k) := decide_eq_decide.2 (by omega)
      rw [hlt, ← ih]
      split
      case isTrue hx =>
        have hk : k < n := BitVec.lt_of_getLsbD hx
        rw [BitVec.getLsbD_or, BitVec.getLsbD_ofNat, Nat.testBit_two_pow, decide_eq_false (show ¬ n - 1 - k = j by omega),
          Bool.and_false, Bool.or_false]
      case isFalse => rfl

theorem getLsbD_bitReverse {n : Nat} (x : BitVec n) {j : Nat} (hj : j < n) :
    (bitReverse x).getLsbD j = x.getLsbD (n - 1 - j) := by
  rw [bitReverse, getLsbD_foldl_bits x n j hj, decide_eq_true (by omega), Bool.true_and]

theorem ctz_of_zero {n : Nat} {x : BitVec n} (h : ∀ i, i < n → x.getLsbD i = false) : ctz x = n :=
  clz_of_zero fun i hi => (getLsbD_bitReverse x hi).trans (h _ (by omega))

/-- The k bits below the lowest one. -/
theorem ctz_of_lowest {n k : Nat} {x : BitVec n} (hk : k < n) (hone : x.getLsbD k = true)
    (hzero : ∀ i, i < k → x.getLsbD i = false) : ctz x = k := by
  have hbit : ∀ i, i < n → (bitReverse x).getLsbD (n - 1 - i) = x.getLsbD i := fun i hi => by
    rw [getLsbD_bitReverse x (by omega), show n - 1 - (n - 1 - i) = i by omega]
  exact clz_of_highest hk ((hbit k hk).trans hone) fun i hi => (hbit i (by omega)).trans (hzero i hi)

/-! ### Bytes -/

/-- The bytes of a number, k of them from the lowest on, in the opposite order. -/
def swappedBytes (x : Nat) : Nat → Nat
  | 0 => 0
  | k + 1 => 2 ^ 8 * swappedBytes x k + x / 2 ^ (8 * k) % 256

theorem testBit_swappedBytes (x : Nat) {k i j : Nat} (hi : i < k) (hj : j < 8) :
    (swappedBytes x k).testBit (8 * i + j) = x.testBit (8 * (k - 1 - i) + j) := by
  induction k generalizing i with
  | zero => omega
  | succ k ih =>
    rw [swappedBytes, Nat.testBit_two_pow_mul_add _ (Nat.mod_lt _ (by decide))]
    cases i with
    | zero =>
      rw [if_pos (by omega), Nat.testBit_mod_two_pow, decide_eq_true (show 8 * 0 + j < 8 by omega), Bool.true_and,
        Nat.testBit_div_two_pow, show 8 * 0 + j + 8 * k = 8 * (k + 1 - 1 - 0) + j by omega]
    | succ i =>
      rw [if_neg (by omega), show 8 * (i + 1) + j - 8 = 8 * i + j by omega, ih (by omega),
        show k + 1 - 1 - (i + 1) = k - 1 - i by omega]

/-- The loop of `byteSwap`, each byte put at its place from the top down. -/
theorem foldl_bytes (x m : Nat) {k : Nat} (hk : k ≤ m) :
    (List.range k).foldl (fun acc i => acc + x / 2 ^ (8 * i) % 256 * 2 ^ (8 * m - 8 - 8 * i)) 0 =
      swappedBytes x k * 2 ^ (8 * (m - k)) := by
  induction k with
  | zero => simp [swappedBytes]
  | succ k ih =>
    have hpow : (2 : Nat) ^ (8 * (m - k)) = 2 ^ 8 * 2 ^ (8 * (m - (k + 1))) := by
      rw [← Nat.pow_add]
      congr 1
      omega
    rw [List.range_succ, List.foldl_append, ih (by omega)]
    simp only [List.foldl_cons, List.foldl_nil]
    rw [hpow, swappedBytes, show 8 * m - 8 - 8 * k = 8 * (m - (k + 1)) by omega]
    ring

theorem getLsbD_byteSwap {n : Nat} (x : BitVec n) {i j : Nat} (hn : n % 8 = 0) (hi : i < n / 8) (hj : j < 8) :
    (byteSwap x).getLsbD (8 * i + j) = x.getLsbD (8 * (n / 8 - 1 - i) + j) := by
  have hbytes := foldl_bytes x.toNat (n / 8) (le_refl _)
  rw [show 8 * (n / 8) = n by omega, Nat.sub_self, Nat.mul_zero, Nat.pow_zero, Nat.mul_one] at hbytes
  rw [byteSwap, hbytes, BitVec.getLsbD_ofNat, decide_eq_true (show 8 * i + j < n by omega), Bool.true_and]
  exact testBit_swappedBytes _ hi hj

/-! ### Functions on 64 bits or on a word -/

/-- R71: the bits that a word works on. -/
abbrev wordBits (w : Bool) : Nat := if w then 32 else 64

theorem setWidth_onWord (w : Bool) (g : {n : Nat} → BitVec n → BitVec n → BitVec n) (x y : W64) :
    (onWord w g x y).setWidth (wordBits w) = g (x.setWidth (wordBits w)) (y.setWidth (wordBits w)) := by
  cases w with
  | false =>
    show (g x y).setWidth 64 = g (x.setWidth 64) (y.setWidth 64)
    simp only [BitVec.setWidth_eq]
  | true =>
    show ((g (x.setWidth 32) (y.setWidth 32)).signExtend 64).setWidth 32 = _
    refine BitVec.eq_of_getLsbD_eq fun i hi => ?_
    rw [BitVec.getLsbD_setWidth, BitVec.getLsbD_signExtend, if_pos hi, decide_eq_true hi, decide_eq_true (show i < 64 by omega),
      Bool.true_and, Bool.true_and]
    rfl

/-- A count of bits is the same number on a word and on 64 bits. -/
theorem onWord_of_count {w : Bool} {g : {n : Nat} → BitVec n → BitVec n → BitVec n} {x y : W64} {c : Nat} (hc : c ≤ wordBits w)
    (h : g (x.setWidth (wordBits w)) (y.setWidth (wordBits w)) = BitVec.ofNat (wordBits w) c) : onWord w g x y = BitVec.ofNat 64 c := by
  cases w with
  | false =>
    have h64 : g (x.setWidth 64) (y.setWidth 64) = BitVec.ofNat 64 c := h
    rwa [BitVec.setWidth_eq, BitVec.setWidth_eq] at h64
  | true =>
    have hsmall : c ≤ 32 := hc
    have hlow : (BitVec.ofNat 32 c).msb = false := by
      rw [BitVec.msb_eq_false_iff_two_mul_lt, BitVec.toNat_ofNat]
      omega
    show (g (x.setWidth 32) (y.setWidth 32)).signExtend 64 = _
    rw [show g (x.setWidth 32) (y.setWidth 32) = BitVec.ofNat 32 c from h, BitVec.signExtend_eq_setWidth_of_msb_false hlow]
    refine BitVec.eq_of_toNat_eq ?_
    rw [BitVec.toNat_setWidth, BitVec.toNat_ofNat, BitVec.toNat_ofNat]
    omega

/-- R77: codes 0 to 7 work on 64 bits or on a word. -/
theorem unaryWord_eq_onWord {f : Nat} (hf : f < 8) (w : Bool) (x : W64) : unaryWord f w x = onWord w (fun x _ => uniUnary f x) x x := by
  interval_cases f <;> rfl

theorem setWidth_unaryWord {f : Nat} (hf : f < 8) (w : Bool) (x : W64) :
    (unaryWord f w x).setWidth (wordBits w) = uniUnary f (x.setWidth (wordBits w)) := by
  rw [unaryWord_eq_onWord hf, setWidth_onWord]

/-- R77: with W = 1 the result is that of the word, sign-extended. -/
theorem unaryWord_signExtend {f : Nat} (hf : f < 8) (x : W64) : unaryWord f true x = ((unaryWord f true x).setWidth 32).signExtend 64 := by
  have hword : (unaryWord f true x).setWidth 32 = uniUnary f (x.setWidth 32) := setWidth_unaryWord hf true x
  rw [hword]
  exact unaryWord_eq_onWord hf true x

/-! ### The table of R77 -/

section

variable {w : Bool} {x : W64}

theorem getLsbD_unaryWord {f i : Nat} (hf : f < 8) (hi : i < wordBits w) :
    (unaryWord f w x).getLsbD i = (uniUnary f (x.setWidth (wordBits w))).getLsbD i := by
  rw [← setWidth_unaryWord hf, BitVec.getLsbD_setWidth, decide_eq_true hi, Bool.true_and]

theorem toNat_unaryWord {f : Nat} (hf : f < 8) :
    (unaryWord f w x).toNat % 2 ^ wordBits w = (uniUnary f (x.setWidth (wordBits w))).toNat := by
  rw [← setWidth_unaryWord hf, BitVec.toNat_setWidth]

theorem unaryWord_of_count {f c : Nat} (hf : f < 8) (hc : c ≤ wordBits w)
    (h : uniUnary f (x.setWidth (wordBits w)) = BitVec.ofNat (wordBits w) c) : unaryWord f w x = BitVec.ofNat 64 c :=
  (unaryWord_eq_onWord hf w x).trans (onWord_of_count hc h)

theorem getLsbD_operand {i : Nat} (hi : i < wordBits w) : (x.setWidth (wordBits w)).getLsbD i = x.getLsbD i := by
  rw [BitVec.getLsbD_setWidth, decide_eq_true hi, Bool.true_and]

theorem getLsbD_unaryWord_not {i : Nat} (hi : i < wordBits w) : (unaryWord 0 w x).getLsbD i = !x.getLsbD i := by
  refine (getLsbD_unaryWord (by decide) hi).trans ((BitVec.getLsbD_not ..).trans ?_)
  rw [getLsbD_operand hi, decide_eq_true hi, Bool.true_and]

theorem toNat_unaryWord_neg :
    (unaryWord 1 w x).toNat % 2 ^ wordBits w = (2 ^ wordBits w - x.toNat % 2 ^ wordBits w) % 2 ^ wordBits w := by
  refine (toNat_unaryWord (by decide)).trans ((BitVec.toNat_neg _).trans ?_)
  rw [BitVec.toNat_setWidth]

theorem toNat_unaryWord_abs :
    (unaryWord 2 w x).toNat % 2 ^ wordBits w = (if x.getLsbD (wordBits w - 1) then 2 ^ wordBits w - x.toNat % 2 ^ wordBits w
      else x.toNat % 2 ^ wordBits w) % 2 ^ wordBits w := by
  have hmsb : (x.setWidth (wordBits w)).msb = x.getLsbD (wordBits w - 1) := by
    rw [BitVec.msb_eq_getLsbD_last, getLsbD_operand (by cases w <;> decide)]
  have habs : uniUnary 2 (x.setWidth (wordBits w)) =
      if x.getLsbD (wordBits w - 1) then -x.setWidth (wordBits w) else x.setWidth (wordBits w) := by
    rw [← hmsb]
    rfl
  rw [toNat_unaryWord (by decide), habs]
  split
  · rw [BitVec.toNat_neg, BitVec.toNat_setWidth]
  · rw [BitVec.toNat_setWidth, Nat.mod_mod]

theorem unaryWord_popCount : unaryWord 5 w x = BitVec.ofNat 64 ((List.range (wordBits w)).filter fun i => x.getLsbD i).length := by
  have hcount : popCount (x.setWidth (wordBits w)) = (List.range (wordBits w)).countP fun i => x.getLsbD i :=
    List.countP_congr fun i hi => by rw [getLsbD_operand (List.mem_range.1 hi)]
  rw [← List.countP_eq_length_filter]
  exact unaryWord_of_count (by decide) (List.countP_le_length.trans List.length_range.le) (congrArg (BitVec.ofNat _) hcount)

theorem getLsbD_unaryWord_reverse {i : Nat} (hi : i < wordBits w) :
    (unaryWord 6 w x).getLsbD i = x.getLsbD (wordBits w - 1 - i) :=
  (getLsbD_unaryWord (by decide) hi).trans ((getLsbD_bitReverse _ hi).trans (getLsbD_operand (by omega)))

theorem getLsbD_unaryWord_swap {i j : Nat} (hi : i < wordBits w / 8) (hj : j < 8) :
    (unaryWord 7 w x).getLsbD (8 * i + j) = x.getLsbD (8 * (wordBits w / 8 - 1 - i) + j) := by
  have hbytes : wordBits w % 8 = 0 := by cases w <;> rfl
  refine (getLsbD_unaryWord (by decide) ?_).trans ((getLsbD_byteSwap _ hbytes hi hj).trans (getLsbD_operand ?_)) <;> omega

theorem unaryWord_zeros (h : ∀ i, i < wordBits w → x.getLsbD i = false) :
    unaryWord 3 w x = BitVec.ofNat 64 (wordBits w) ∧ unaryWord 4 w x = BitVec.ofNat 64 (wordBits w) := by
  have hzero : ∀ i, i < wordBits w → (x.setWidth (wordBits w)).getLsbD i = false := fun i hi => (getLsbD_operand hi).trans (h i hi)
  exact ⟨unaryWord_of_count (by decide) le_rfl (congrArg (BitVec.ofNat _) (clz_of_zero hzero)),
    unaryWord_of_count (by decide) le_rfl (congrArg (BitVec.ofNat _) (ctz_of_zero hzero))⟩

section

variable {k : Nat} (hk : k < wordBits w)
include hk

theorem unaryWord_clz (hone : x.getLsbD (wordBits w - 1 - k) = true) (hzero : ∀ i, i < k → x.getLsbD (wordBits w - 1 - i) = false) :
    unaryWord 3 w x = BitVec.ofNat 64 k := by
  have hclz : clz (x.setWidth (wordBits w)) = k :=
    clz_of_highest hk ((getLsbD_operand (by omega)).trans hone) fun i hi => (getLsbD_operand (by omega)).trans (hzero i hi)
  exact unaryWord_of_count (by decide) hk.le (congrArg (BitVec.ofNat _) hclz)

theorem unaryWord_ctz (hone : x.getLsbD k = true) (hzero : ∀ i, i < k → x.getLsbD i = false) :
    unaryWord 4 w x = BitVec.ofNat 64 k := by
  have hctz : ctz (x.setWidth (wordBits w)) = k :=
    ctz_of_lowest hk ((getLsbD_operand hk).trans hone) fun i hi => (getLsbD_operand (hi.trans hk)).trans (hzero i hi)
  exact unaryWord_of_count (by decide) hk.le (congrArg (BitVec.ofNat _) hctz)

end

end

/-- R77: codes 11 to 13 extend the low n bits with zeros. -/
theorem setWidth_setWidth_eq_ofNat (x : W64) {n : Nat} : (x.setWidth n).setWidth 64 = BitVec.ofNat 64 (x.toNat % 2 ^ n) := by
  rw [← BitVec.toNat_setWidth, BitVec.ofNat_toNat]

end Sys2Proof.Machine

open Sys2Proof Sys2Proof.Machine in
/-- Settles O14, function by function. -/
theorem unaryFunctions : Obligations.UnaryFunctions := by
  refine ⟨?_, ?_, ?_⟩
  · intro s t w d a f hb
    rw [← State.getW_unheld]
    exact show execUun t d a f w s = _ from issue_putW hb rfl
  · intro w x n r
    refine ⟨?_, fun i hi => ⟨getLsbD_unaryWord_not hi, getLsbD_unaryWord_reverse hi⟩, fun i j => getLsbD_unaryWord_swap,
      toNat_unaryWord_neg, toNat_unaryWord_abs, unaryWord_popCount, unaryWord_zeros, fun k => unaryWord_clz, fun k => unaryWord_ctz⟩
    rintro rfl f hf
    exact unaryWord_signExtend hf x
  · intro x
    exact ⟨rfl, rfl, rfl, setWidth_setWidth_eq_ofNat x, setWidth_setWidth_eq_ofNat x, setWidth_setWidth_eq_ofNat x⟩
end

section
/-! PROOFS. What walks and operations on memory leave of threads, and what the checks of an access come to (R84, R180, R219, R309). -/

namespace Sys2Proof.Machine

/-! ### Threads behind walks and operations on memory -/

namespace State.WalkStep

variable {s t : State} (h : s.WalkStep t)
include h

theorem ctxs_eq : t.ctxs = s.ctxs := (congrArg State.ctxs h.front :)
theorem monitor_eq : t.root.th = s.root.th := (congrArg (fun x : State => x.root.th) h.front :)

theorem group_eq (g : Nat) : t.group g = s.group g := by simp only [State.group, h.groups_eq]
theorem team_eq (n : Nat) : t.team n = s.team n := by simp only [State.team, h.teams_eq]

theorem scalar_eq (th : ThreadId) : t.scalar th = s.scalar th := by
  cases th with
  | gang g k => rfl
  | spine c => simp only [State.scalar, h.spines_eq]
  | service p => simp only [State.scalar, h.parts_eq]
  | monitor => exact h.monitor_eq

theorem getW_eq (th : ThreadId) (r : Nat) : t.getW th r = s.getW th r := by
  cases th with
  | gang g k => simp only [State.getW, State.uni, h.group_eq]
  | _ => simp only [State.getW, State.uni, h.scalar_eq]

theorem partOf_eq (th : ThreadId) : t.partOf th = s.partOf th := by
  cases th with
  | gang g k => simp only [State.partOf, h.group_eq, h.team_eq]
  | spine c => simp only [State.partOf, h.scalar_eq]
  | _ => rfl

theorem ctxOf_eq (th : ThreadId) : t.ctxOf th = s.ctxOf th := by
  cases th with
  | gang g k => simp only [State.ctxOf, h.group_eq, h.team_eq]
  | spine c => simp only [State.ctxOf, h.scalar_eq]
  | _ => rfl

theorem threadTag_eq (th : ThreadId) : t.threadTag th = s.threadTag th := by
  simp only [State.threadTag, State.tagOf, State.ctx, h.partOf_eq, h.ctxOf_eq, h.ctxs_eq]

end State.WalkStep

/-! ### Checks that let an access by -/

theorem laneFails_eq_none {xs : List (Nat × W64)} {bad : W64 → Bool} (mk : W64 → W32 → Trap) (h : ∀ e ∈ xs, bad e.2 = false) :
    laneFails xs bad mk = none := by
  have hnone : (xs.filter fun e => bad e.2) = [] := List.filter_eq_nil_iff.2 fun e he => by simp [h e he]
  simp only [laneFails, hnone]

theorem State.walkStep_translateAll (s : State) (sp : Space) (k : AccKind) (user : Bool) (xs : List (Nat × W64)) :
    s.WalkStep (s.translateAll sp k user xs).1 := by
  induction xs generalizing s with
  | nil => exact .refl s
  | cons e xs ih => exact (s.walkStep_translate _ _ _ _).trans (ih _)

section

variable {s s1 : State} {t : ThreadId} {k : AccKind} {rd wr : Bool} {n : Nat}

theorem State.walkStep_of_checkPages {xs : List (Nat × W64)} {ps : List (Nat × W64 × Phys)}
    (h : s.checkPages t k rd wr n xs = .ok s1 ps) : s.WalkStep s1 := by
  unfold State.checkPages at h
  split at h
  · cases h
  · dsimp only at h
    split at h
    · cases h
    · split at h
      · split at h
        · cases h
        · cases h
          exact s.walkStep_translateAll _ _ _ _
      · cases h

theorem State.walkStep_of_checkVirtual {xs : List (Nat × W64)} {ps : List (Nat × W64 × Phys)}
    (h : s.checkVirtual t k rd wr n xs = .ok s1 ps) : s.WalkStep s1 := by
  unfold State.checkVirtual at h
  split at h
  · cases h
  · split at h
    · cases h
    · exact walkStep_of_checkPages h

theorem State.walkStep_of_checkUniform {a : W64} {ps : List (Nat × W64 × Phys)}
    (h : s.checkUniform t k rd wr n a = .ok s1 ps) : s.WalkStep s1 := by
  unfold State.checkUniform at h
  split at h
  · cases h
  · cases h
  · exact walkStep_of_checkVirtual h

theorem State.walkStep_of_checkPriv {store pair : Bool} {xs : List (Nat × W64)} {ps : List (Nat × W64 × Nat × Phys)}
    (h : s.checkPriv t store pair n xs = .ok (s1, ps)) : s.WalkStep s1 := by
  unfold State.checkPriv at h
  split at h
  · dsimp only at h
    split at h
    · cases h
    · split at h
      · cases h
      · split at h
        · cases h
        · rename_i hpages
          cases h
          exact walkStep_of_checkPages hpages
  · cases h

/-- What the checks of one access of n bytes ask for: its address is in range and aligned, it meets no watchpoint, the host holds no
line of its walk, it translates, and the host holds no line that it reads. -/
def State.Admits (s : State) (t : ThreadId) (a : W64) (k : AccKind) (rd wr : Bool) (n : Nat) (s1 : State) (p : Phys) : Prop :=
  a.toNat < 2 ^ 48 ∧ a.toNat % n = 0 ∧ s.watched t false rd wr a.toNat n = none ∧
    s.snoopHost (s.walkLines (s.spaceOf t) a.toNat) = none ∧ s.translate (s.spaceOf t) a.toNat k (levelOf t == 0) = (s1, .ok p) ∧
    (rd = true → s1.snoopHost [p.pa / 128] = none)

theorem State.checkUniform_of_admits {a : W64} {p : Phys} (h : s.Admits t a k rd wr n s1 p) :
    s.checkUniform t k rd wr n a = .ok s1 [(0, a, p)] := by
  obtain ⟨hrange, halign, hwatch, hwalk, htr, hread⟩ := h
  have hpages : s.checkPages t k rd wr n [(0, a)] = .ok s1 [(0, a, p)] := by
    have hall : s.translateAll (s.spaceOf t) k (levelOf t == 0) [(0, a)] = (s1, [(0, a, .ok p)]) := by
      simp only [State.translateAll, htr]
    have hhost : (if rd && !isGang t then s1.hostWait [p] else none) = none := by
      split
      case isTrue hrd => exact hread ((Bool.and_eq_true _ _).mp hrd).1
      case isFalse => rfl
    simp only [State.checkPages, List.flatMap_cons, List.flatMap_nil, List.append_nil, hwalk, hall, gather?, List.filterMap_cons,
      List.filterMap_nil, hwatch, Option.map_none, List.map_cons, List.map_nil, hhost]
  have hvirtual : s.checkVirtual t k rd wr n [(0, a)] = .ok s1 [(0, a, p)] := by
    rw [State.checkVirtual, laneFails_eq_none, laneFails_eq_none, hpages]
    · simpa using halign
    · simpa [inRange] using hrange
  rw [State.checkUniform, hvirtual]

end

end Sys2Proof.Machine
end

section
/-! PROOFS. The memory words of a spine or service thread (R84, R184, R190, R199, R202, R203, R207, R222, R227, R364, R367). -/

namespace Sys2Proof.Machine

/-! ### Words of scalar threads -/

theorem isGang_of_ne {t : ThreadId} (h : ∀ g k, t ≠ .gang g k) : isGang t = false := by
  cases t with
  | gang g k => exact absurd rfl (h g k)
  | _ => rfl

section

variable {s s' : State} {t : ThreadId} (hth : isGang t = false)
include hth

theorem State.blocked_of_scalar (xs : List LaneAcc) : s.blocked t xs = false := by
  cases t with
  | gang g k => cases hth
  | _ => rfl

theorem State.cptOf_of_scalar : s'.cptOf t = s.cptOf t := by
  cases t with
  | gang g k => cases hth
  | _ => rfl

theorem ownThread_of_scalar : ownThread t = t := by
  cases t with
  | gang g k => cases hth
  | _ => rfl

end

/-- A word of a scalar thread completes. -/
theorem issue_scalar {s s' : State} {i : Instr} {body : ThreadId → State → Did} (hb : s.begins i = true) (hth : isGang s.cur = false)
    (hd : body s.cur s.unheld = .done s') : issue i s body = .next (s.after s') := by
  have hne : ∀ g k, s.cur ≠ .gang g k := fun g k hc => by
    rw [hc] at hth
    cases hth
  rw [issue_begins hb, hd, settle_done hb (State.stepped_other _ hne) (.inr fun g k hc => absurd hc (hne g k))]

theorem State.doneUnlessFills_done {s t : State} (h : s.filledHeld t = none) : s.doneUnlessFills t = .done t := by
  rw [State.doneUnlessFills, h]

/-- The scope field as a number. -/
theorem beq_three_toNat (q : BitVec 2) : (q.toNat == 3) = (q == 3) := by
  revert q
  decide

/-- A word of device or system scope, by its field as a number. -/
theorem ite_lt_two {α : Type} (ord : Nat) (a b : α) : (if ord < 2 then a else b) = if decide (2 ≤ ord) then b else a := by
  by_cases h : ord < 2
  · rw [if_pos h, if_neg (by simpa using h)]
  · rw [if_neg h, if_pos (by simpa using not_lt.1 h)]

/-! ### What a load, a store and an atomic do once the checks have let them by -/

section

variable (s : State) (t : ThreadId) (ord n : Nat) (p : Phys)

/-- R84, R203: the bytes of a load, plain or an acquire, as its word reads them. -/
def State.loadBy : State × Nat × Bool :=
  if decide (2 ≤ ord) then s.acquireLoad (s.cptOf t) (ord == 3) p n (s.threadTag t) else s.loadBytes (s.cptOf t) p n (s.threadTag t)

theorem State.loadNow_of_clean (d : Nat) (hclean : (s.loadBy t ord n p).2.2 = false) :
    s.loadNow t ord p n d = (s.loadBy t ord n p).1.putW t d (BitVec.ofNat 64 (s.loadBy t ord n p).2.1) := by
  unfold State.loadNow
  rw [ite_lt_two]
  exact if_neg (by rw [← State.loadBy, hclean]; decide)

/-- R202: a store, plain or release, as its word makes it. -/
def State.storeBy (g : Sig) (v va : W64) : State × StoreEnd :=
  if decide (2 ≤ ord) then s.releaseStore (s.cptOf t) g p n v.toNat va (s.threadTag t)
  else s.storeBytes (s.cptOf t) p n v.toNat va (s.threadTag t)

section

variable {g : Sig} {v va : W64} (hend : (s.storeBy t ord n p g v va).2 = .stored)
include hend

/-- R189: a store that a slice performs, or the L1 takes. -/
theorem State.storeOne_of_slice (hdirect : p.direct = false) : s.storeOne t ord g p n v va = (s.storeBy t ord n p g v va).1 := by
  unfold State.storeOne
  rw [ite_lt_two, ← State.storeBy]
  dsimp only
  rw [hend, hdirect]
  rfl

/-- R364: a store that no slice performs is outstanding until it is acknowledged. -/
theorem State.storeOne_of_direct {far : Nat} (hdirect : p.direct = true)
    (hfar : s.targetOf (s.partOfCpt (s.cptOf t)) p = some far) :
    s.storeOne t ord g p n v va = (s.storeBy t ord n p g v va).1.post (.thread (ownThread t)) (s.cptOf t) far
      (.store p.ty p.pa n v (s.threadTag t)) 0 := by
  unfold State.storeOne
  rw [ite_lt_two, ← State.storeBy]
  dsimp only
  rw [hend, hdirect, hfar]
  rfl

end

/-- R227: an atomic, plain or ordered, as its word performs it. -/
def State.atomicBy (code : Nat) (b c : W64) : State × Nat × Bool × StoreEnd :=
  if decide (2 ≤ ord) then s.orderedAtomic (s.cptOf t) (ord == 3) p 8 code b.toNat c.toNat (s.threadTag t)
  else s.atomicBytes (s.cptOf t) p 8 code b.toNat c.toNat (s.threadTag t)

theorem State.atomicNow_of_clean {code d : Nat} {va b c : W64} (hclean : (s.atomicBy t ord p code b c).2.2.1 = false)
    (hend : (s.atomicBy t ord p code b c).2.2.2 = .stored) :
    s.atomicNow t ord p va code b c d =
      ((s.atomicBy t ord p code b c).1.requestTo (s.cptOf t) p (BitVec.ofNat 64 (s.atomicBy t ord p code b c).2.1)).putW t d
        (BitVec.ofNat 64 (s.atomicBy t ord p code b c).2.1) := by
  unfold State.atomicNow
  rw [ite_lt_two, ← State.atomicBy]
  dsimp only
  rw [hclean, hend]
  rfl

end

/-! ### Identifiers, and what an ordered access waits for -/

section

variable {s : State} {cpt : Nat} {p : Phys}

theorem State.fullFor_of_slice (h : p.direct = false) : s.fullFor cpt [p] = false := by
  simp [State.fullFor, h]

theorem State.fullFor_of_direct {far : Nat} (hdirect : p.direct = true) (hfar : s.targetOf (s.partOfCpt cpt) p = some far)
    (hfree : s.crowdedBy cpt far 1 = false) : s.fullFor cpt [p] = false := by
  simp [State.fullFor, hdirect, hfar, hfree]

end

/-- R199, R202: nothing holds an ordered access up: no earlier access is pending, the host holds no line that it writes back, no lost
store is to be reported, and its write-backs are acknowledged. -/
def State.Clear (s : State) (t : ThreadId) (q : BitVec 2) (lines : List Nat) : Prop :=
  q = 0 ∨ (s.pendingAny t (ordScope q.toNat) = false ∧
    s.snoopHost (s.releaseLines (s.cptOf t) (ordScope q.toNat) ++ lines) = none ∧ s.lostReport t (ordScope q.toNat) = none ∧
    s.releaseWait (s.cptOf t) (ordScope q.toNat) = none)

/-- What a release does before its store, as its word writes it. -/
theorem State.beginRelease_eq (s : State) (t : ThreadId) (q : BitVec 2) : s.beginRelease t q.toNat =
    if q = 0 then (s, 0) else if q = 1 then (s.flushStream (s.cptOf t), 0) else s.beginWide (s.cptOf t) (q == 3) := by
  rw [← beq_three_toNat]
  simp only [State.beginRelease, ← BitVec.toNat_inj]
  rfl

theorem State.memStep_beginRelease (s : State) (t : ThreadId) (ord : Nat) : s.MemStep (s.beginRelease t ord).1 := by
  unfold State.beginRelease
  split
  · exact .refl s
  · split
    · exact s.memStep_flushStream _
    · exact s.memStep_beginWide _ _

/-- R202: a store word of one address that nothing holds up. -/
theorem State.storeWord_of_clear {s : State} {t : ThreadId} (hth : isGang t = false) {q : BitVec 2} {n : Nat} {x v : W64} {p : Phys}
    (hclear : s.Clear t q [p.pa / 128]) (hfull : s.fullFor (s.cptOf t) [p] = false) :
    let b := s.beginRelease t q.toNat
    let w := b.1.storeOne t q.toNat b.2 p n v x
    s.storeWord t q.toNat n [(x, p, v)] = .done (if decide (2 ≤ q.toNat) then w.replacePending (s.cptOf t) b.2 else w) := by
  extract_lets b w
  have hblocked := State.blocked_of_scalar (s := s) hth
  rw [← ite_lt_two]
  rcases hclear with rfl | ⟨hpend, hlines, hlost, hwait⟩
  · simp only [State.storeWord, State.fullTarget, hblocked, List.map_cons, List.map_nil, hfull]
    rfl
  · have hwaits : s.releaseWait (s.cptOf t) (if q.toNat = 0 then 0 else ordScope q.toNat) = none := by
      split
      · rfl
      · exact hwait
    simp only [State.storeWord, State.fullTarget, hblocked, List.map_cons, List.map_nil, hfull, hpend, hlines, hlost, hwaits,
      ite_self, Bool.and_false, Bool.or_false, Bool.false_eq_true, if_false]
    rfl

/-! ### The words -/

section

variable {s s1 : State} {t : Bool} {d a b : BitVec 6} {o : BitVec 8} {z q : BitVec 2} {c : BitVec 4} {x : W64} {p : Phys}
  (hth : isGang s.cur = false)
include hth

theorem execUld_scalar (hb : s.begins (.uld t d a o z q) = true)
    (hcheck : s.unheld.checkUniform s.cur .load true false (accSize z) (s.unheld.uniAddr s.cur a o (accSize z)) = .ok s1 [(0, x, p)])
    (hfull : s1.fullFor (s1.cptOf s.cur) [p] = false)
    (hheld : s.unheld.filledHeld (s1.loadNow s.cur q.toNat p (accSize z) d.toNat) = none) :
    exec (.uld t d a o z q) s = .next (s.after (s1.loadNow s.cur q.toNat p (accSize z) d.toNat)) := by
  refine show execUld t d a o z q s = _ from issue_scalar hb hth ?_
  simp only [hcheck]
  split
  case h_1 hc => rw [hc] at hth; cases hth
  case h_2 =>
    simp only [List.map_cons, List.map_nil, hfull, Bool.false_eq_true, if_false, List.foldl_cons, List.foldl_nil]
    exact State.doneUnlessFills_done hheld

theorem execUst_scalar {s2 : State} (hb : s.begins (.ust t d a o z q) = true)
    (hcheck : s.unheld.checkUniform s.cur .store false true (accSize z) (s.unheld.uniAddr s.cur a o (accSize z)) = .ok s1 [(0, x, p)])
    (hstore : s1.storeWord s.cur q.toNat (accSize z) [(x, p, s1.getW s.cur d.toNat)] = .done s2) :
    exec (.ust t d a o z q) s = .next (s.after s2) := by
  refine show execUst t d a o z q s = _ from issue_scalar hb hth ?_
  simp only [hcheck]
  exact hstore

theorem execUamo_scalar {f : State} (hb : s.begins (.uamo t d a b c q) = true)
    (hcheck : s.unheld.checkUniform s.cur .atomic true true 8 (s.unheld.getW s.cur a.toNat) = .ok s1 [(0, x, p)])
    (hclear : s1.Clear s.cur q []) (hfull : s1.fullFor (s1.cptOf s.cur) [p] = false)
    (hf : (if q = 1 then s1.flushStream (s1.cptOf s.cur) else s1).atomicNow s.cur q.toNat p x c.toNat (s1.getW s.cur b.toNat)
      (if c = 9 then s1.getW s.cur (b.toNat + 1) else 0) d.toNat = f) (hheld : s.unheld.filledHeld f = none) :
    exec (.uamo t d a b c q) s = .next (s.after f) := by
  have hpend : (q != 0 && s1.pendingAny s.cur (ordScope q.toNat)) = false := by
    rcases hclear with rfl | ⟨hpend, -, -, -⟩
    · rfl
    · rw [hpend, Bool.and_false]
  have hlines : (if q = 0 then none else s1.snoopHost (s1.releaseLines (s1.cptOf s.cur) (ordScope q.toNat))) = none := by
    rcases hclear with rfl | ⟨-, hlines, -, -⟩
    · rfl
    · rw [List.append_nil] at hlines
      rw [hlines, ite_self]
  have hlost : (if q = 0 then none else s1.lostReport s.cur (ordScope q.toNat)) = none := by
    rcases hclear with rfl | ⟨-, -, hlost, -⟩
    · rfl
    · rw [hlost, ite_self]
  have hwait : (if isGang s.cur || q = 0 then none else s1.releaseWait (s1.cptOf s.cur) (ordScope q.toNat)) = none := by
    rcases hclear with rfl | ⟨-, -, -, hwait⟩
    · exact if_pos (by simp)
    · rw [hwait, ite_self]
  refine show execUamo t d a b c q s = _ from issue_scalar hb hth ?_
  simp only [hcheck, List.map_cons, List.map_nil, State.blocked_of_scalar hth, hpend, hfull, Bool.and_false, Bool.or_false,
    Bool.false_eq_true, if_false, hlines, hlost, hwait]
  split
  case h_1 hc => rw [hc] at hth; cases hth
  case h_2 =>
    simp only [List.foldl_cons, List.foldl_nil, hf]
    exact State.doneUnlessFills_done hheld

end

end Sys2Proof.Machine

open Sys2Proof Sys2Proof.Machine in
/-- Settles O28, word by word. -/
theorem scalarMemoryWords : Obligations.ScalarMemoryWords := by
  intro s s1 t d a b o z c p hne u n x y fine tag cpt wide clear
  have hth : isGang s.cur = false := isGang_of_ne hne
  have hcpt : ∀ w : State, w.cptOf s.cur = cpt := fun w => State.cptOf_of_scalar hth
  have haddr : u.uniAddr s.cur a o (accSize z) = x := by
    rw [State.uniAddr, State.getW_unheld, State.unheld_wideImm]
    rfl
  have hwalk : ∀ {v : W64} {k : AccKind} {rd wr : Bool} {n : Nat}, fine v k rd wr n → u.WalkStep s1 := fun hfine =>
    State.walkStep_of_checkUniform (State.checkUniform_of_admits hfine)
  refine ⟨?_, ?_, ?_⟩
  · intro q hb hfine hfull r v hclean hheld
    have hr : s1.loadBy s.cur q.toNat n p = r := by rw [State.loadBy, beq_three_toNat, hcpt]
    have hv : s1.loadNow s.cur q.toNat p n d.toNat = v := by
      rw [← hr] at hclean
      rw [State.loadNow_of_clean _ _ _ _ _ _ hclean, hr]
    rw [← hv] at hheld ⊢
    exact execUld_scalar hth hb (by rw [haddr]; exact State.checkUniform_of_admits hfine) (by rw [hcpt]; exact hfull) hheld
  · intro q hb hfine hclear v b r done hend
    have hb' : s1.beginRelease s.cur q.toNat = b := by rw [State.beginRelease_eq, hcpt]
    have htag : b.1.threadTag s.cur = tag := by
      rw [← hb']
      exact (s1.memStep_beginRelease s.cur q.toNat).walk.threadTag_eq s.cur
    have hr : b.1.storeBy s.cur q.toNat n p b.2 v x = r := by rw [State.storeBy, hcpt, htag]
    have hvalue : s1.getW s.cur d.toNat = v := ((hwalk hfine).getW_eq _ _).trans (State.getW_unheld _ _)
    have hclears : s1.Clear s.cur q [p.pa / 128] := by rw [State.Clear, hcpt]; exact hclear
    have hstore := fun hfull => State.storeWord_of_clear hth (n := n) (x := x) (v := v) hclears hfull
    rw [hb', hcpt] at hstore
    have hexec := fun hfull => execUst_scalar hth hb
      (by rw [haddr]; exact State.checkUniform_of_admits hfine) (by rw [hvalue]; exact hstore hfull)
    refine ⟨fun hdirect => ?_, fun far hdirect hfar hfar' hfree => ?_⟩
    · rw [hexec (State.fullFor_of_slice hdirect), State.storeOne_of_slice _ _ _ _ _ (by rw [hr]; exact hend) hdirect, hr]
    · rw [hexec (State.fullFor_of_direct hdirect hfar hfree),
        State.storeOne_of_direct _ _ _ _ _ (by rw [hr]; exact hend) hdirect (by rw [hcpt]; exact hfar'), hr, hcpt, htag,
        ownThread_of_scalar hth]
  · intro q hb hfine hclear hfull v b1 b2 r old f hclean hend hheld
    have hflush : s1.WalkStep v := by
      dsimp only [v]
      split
      · exact (s1.memStep_flushStream cpt).walk
      · exact .refl s1
    have hget : ∀ j, s1.getW s.cur j = s.getW s.cur j := fun j => ((hwalk hfine).getW_eq _ j).trans (State.getW_unheld _ _)
    have hsecond : (if c = 9 then s.getW s.cur (b.toNat + 1) else 0).toNat = b2 := apply_ite BitVec.toNat _ _ _
    have hr : v.atomicBy s.cur q.toNat p c.toNat (s.getW s.cur b.toNat) (if c = 9 then s.getW s.cur (b.toNat + 1) else 0) = r := by
      rw [State.atomicBy, beq_three_toNat, hcpt, hflush.threadTag_eq, hsecond]
    have hf : v.atomicNow s.cur q.toNat p y c.toNat (s1.getW s.cur b.toNat) (if c = 9 then s1.getW s.cur (b.toNat + 1) else 0)
        d.toNat = f := by
      simp only [hget]
      rw [← hr] at hclean hend
      rw [State.atomicNow_of_clean _ _ _ _ hclean hend, hr, hcpt]
    refine execUamo_scalar hth hb (by rw [State.getW_unheld]; exact State.checkUniform_of_admits hfine) ?_ ?_ ?_ hheld
    · rw [State.Clear, hcpt]
      exact hclear
    · rw [hcpt]
      exact hfull
    · rw [hcpt]
      exact hf
end

section
/-! PROOFS. The loads and atomics of group code (R86, R218, R220 to R225): their words issue, and their replies fill. -/

namespace Sys2Proof.Machine

/-! ### Words that issue -/

theorem Group.step_emptyDest (x : Group) (d : Dest) : (x.emptyDest d).step = x.step := (congrArg Group.step (x.emptyDest_eq d) :)

theorem State.pushReq_stepped (s : State) (g k : Nat) (r : Req) : (s.pushReq g r).stepped (.gang g k) = s.stepped (.gang g k) := by
  rw [State.stepped_gang, State.stepped_gang]
  exact (congrArg Group.step (State.group_setGroup s g _)).trans (Group.step_emptyDest _ _)

/-- R225: the accesses of an atomic word. -/
def State.atomAccs (s : State) (t : ThreadId) (d : BitVec 7) (c : BitVec 4) (ps : List (Nat × W64 × Phys)) : List LaneAcc :=
  ps.map fun e => { toAcc (atomSize c) e with
    b := s.laneData t d (c == 11) e.1
    c := if c = 9 then (s.laneReg t (d.toNat + 1) e.1).setWidth 64 else 0 }

section

variable {s s1 : State} {i : Instr} {body : ThreadId → State → Did} {g k : Nat} (hc : s.cur = .gang g k)
include hc

/-- R86, R130: a word of group code issues its request. -/
theorem issue_pushReq {r : Req} (hb : s.begins i = true) (hw : s.unheld.WalkStep s1)
    (hd : body (.gang g k) s.unheld = .done (s1.pushReq g r)) : issue i s body = .next (s.after (s1.pushReq g r)) := by
  refine issue_plain hb (hc ▸ hd) ?_ hw.cmds_eq
  rw [hc, State.pushReq_stepped]
  exact hw.stepped_eq _

variable {t : Bool} {d a : BitVec 7} {w e b : BitVec 6} {z o : BitVec 2} {c : BitVec 4} {j : BitVec 8} {ps : List (Nat × W64 × Phys)}

/-- R221: a load from virtual memory. -/
theorem execLd_issues (hb : s.begins (.ld t d a w z o) = true)
    (hcheck : s.unheld.checkVirtual s.cur .load true false (accSize z) (s.unheld.laneAddrs s.cur w a) = .ok s1 ps) :
    exec (.ld t d a w z o) s = .next (s.after (s1.pushReq g { group := g, gang := k, dst := .v d.toNat (z == 3)
                                                              todo := ps.map (toAcc (accSize z)), op := none, ord := o.toNat })) := by
  refine show execLd t d a w z o s = _ from issue_pushReq hc hb (State.walkStep_of_checkVirtual hcheck) ?_
  rw [hc] at hcheck
  simp only [hcheck]

/-- R223: a load from scratchpad space. -/
theorem execLds_issues (hb : s.begins (.lds t d a w z) = true)
    (hcheck : s.unheld.checkPool s.cur true (accSize z) (s.unheld.laneAddrs s.cur w a) = none) :
    exec (.lds t d a w z) s = .next (s.after (s.unheld.pushReq g
      { group := g, gang := k, dst := .v d.toNat (z == 3), todo := (s.unheld.laneAddrs s.cur w a).map (poolAcc (accSize z))
        op := none, ord := 0 })) := by
  refine show execLds t d a w z s = _ from issue_pushReq hc hb (.refl _) ?_
  rw [hc] at hcheck ⊢
  simp only [hcheck]

/-- R224: a load through the window of the group. -/
theorem execLdp_issues {pp : List (Nat × W64 × Nat × Phys)} (hb : s.begins (.ldp t d a w z) = true)
    (hcheck : s.unheld.checkPriv s.cur false (z == 3) (accSize z) (s.unheld.laneAddrs s.cur w a) = .ok (s1, pp)) :
    exec (.ldp t d a w z) s = .next (s.after (s1.pushReq g
      { group := g, gang := k, dst := .v d.toNat (z == 3), todo := pp.map (privAcc (min (accSize z) 4)), op := none, ord := 0 })) := by
  refine show execLdp t d a w z s = _ from issue_pushReq hc hb (State.walkStep_of_checkPriv hcheck) ?_
  rw [hc] at hcheck
  simp only [hcheck]

/-- R86: a uniform load of group code. -/
theorem execUld_issues (hb : s.begins (.uld t e b j z o) = true)
    (hcheck : s.unheld.checkUniform s.cur .load true false (accSize z) (s.unheld.uniAddr s.cur b j (accSize z)) = .ok s1 ps) :
    exec (.uld t e b j z o) s = .next (s.after (s1.pushReq g { group := g, gang := k, dst := .w e.toNat
                                                               todo := ps.map (toAcc (accSize z)), op := none, ord := o.toNat })) := by
  refine show execUld t e b j z o s = _ from issue_pushReq hc hb (State.walkStep_of_checkUniform hcheck) ?_
  rw [hc] at hcheck
  simp only [hcheck]

/-- R225: an atomic word whose accesses nothing holds up, and which has a result or an access. -/
theorem issue_atomWord {keep : Bool} (hb : s.begins i = true)
    (hcheck : s.unheld.checkVirtual s.cur .atomic true true (atomSize c) (s.unheld.laneAddrs s.cur w a) = .ok s1 ps)
    (hfree : s1.blocked s.cur (s1.atomAccs s.cur d c ps) = false) (hany : keep = false → s1.atomAccs s.cur d c ps ≠ []) :
    (issue i s fun th s => s.atomWord th keep d a w c) = .next (s.after (s1.pushReq g
      { group := g, gang := k, dst := if keep then .v d.toNat (c == 11) else .nothing, todo := s1.atomAccs s.cur d c ps
        op := some c.toNat, ord := 0 })) := by
  refine issue_pushReq hc hb (State.walkStep_of_checkVirtual hcheck) ?_
  rw [hc] at hcheck hfree hany ⊢
  have hsome : ((s1.atomAccs (.gang g k) d c ps).isEmpty && !keep) = false := by
    cases keep with
    | false => simpa using hany rfl
    | true => exact Bool.and_false _
  simp only [State.atomWord, hcheck]
  exact (if_neg (by rw [← State.atomAccs, hfree]; decide)).trans (if_neg (by rw [← State.atomAccs, hsome]; decide))

end

/-! ### Replies -/

theorem State.memStep_readAcc (s : State) (cpt team ord tag : Nat) (x : LaneAcc) : s.MemStep (s.readAcc cpt team ord tag x).1 := by
  unfold State.readAcc
  split
  · exact .refl s
  · split
    · exact s.memStep_loadBytes _ _ _ _
    · exact s.memStep_acquireLoad _ _ _ _ _

theorem State.memStep_readAll (s : State) (cpt team tag : Nat) (r : Req) (xs : List LaneAcc) :
    s.MemStep (s.readAll cpt team tag r xs).1 := by
  induction xs generalizing s r with
  | nil => exact .refl s
  | cons x xs ih => exact (s.memStep_readAcc _ _ _ _ _).trans (ih _ _)

theorem State.unlessFills_eq {s t : State} (h : s.filledHeld t = none) : s.unlessFills t = t := by
  rw [State.unlessFills, h]
  rfl

/-- R214: a reply to a group none of whose registers a weight load still reads fills them and does nothing else. -/
theorem State.noteOperand_touch_free {s t : State} {g k : Nat} {lanes regs : List Nat} (hcmds : t.cmds = s.cmds)
    (hregs : s.operandRegs g = []) :
    (t.noteOperand s (.gang g k) lanes regs).touch (.gang g k) lanes regs = t := by
  have hfree : ∀ h j, ThreadId.gang g k = .gang h j → t.operandRegs h = [] := by
    rintro h j ⟨⟩
    rw [State.operandRegs_of_cmds g hcmds, hregs]
  rw [State.noteOperand_free _ _ _ _ _ hfree, State.touch_free _ _ _ _ hfree]

/-- R220, R364: the request has been answered: it is gone with the identifiers that it used, and its destination has its data. -/
def State.answered (s : State) (n : Nat) (r : Req) : State :=
  let t := ThreadId.gang r.group r.gang
  let q := s.readAll (s.cptOf t) (s.group r.group).team (s.threadTag t) r r.todo
  ({ q.1 with
    reqs := q.1.reqs.erase n
    outs := r.sent.foldl (fun m i => m.erase (2 ^ 16 * s.cptOf t + i)) q.1.outs } : State).setGroup r.group
      ((q.1.group r.group).fillDest q.2)

theorem State.answered_cmds (s : State) (n : Nat) (r : Req) : (s.answered n r).cmds = s.cmds :=
  (s.memStep_readAll _ _ _ r r.todo).cmds_eq

/-- R220: a reply that nothing holds up. -/
theorem execLoadReply_answers {s : State} {n : Nat} {r : Req} (hreq : s.reqs.find? n = some r)
    (holder : s.meetsOlder r.group n r.todo = false) (hdone : r.op = none ∨ r.todo = []) (hhost : s.hostWait r.pages = none)
    (hregs : s.operandRegs r.group = []) (hlink : s.replyHeld (s.cptOf (.gang r.group r.gang)) r = false)
    (hfull : s.fullFor (s.cptOf (.gang r.group r.gang)) r.pages = false) (hheld : s.filledHeld (s.answered n r) = none) :
    exec (.loadReply n) s = .next (s.answered n r) := by
  have hatomic : (r.op.isSome && !r.todo.isEmpty) = false := by
    rcases hdone with h | h <;> simp [h]
  show execLoadReply n s = _
  unfold execLoadReply
  simp only [hreq, holder, hatomic, hlink, hfull, hhost, Bool.or_self, Bool.false_eq_true, if_false]
  refine congrArg Host.Outcome.next (Eq.trans (congrArg s.unlessFills ?_) (State.unlessFills_eq hheld))
  exact State.noteOperand_touch_free (s.answered_cmds n r) hregs

end Sys2Proof.Machine

open Sys2Proof Sys2Proof.Machine in
/-- Settles O29: every word issues its request, and a reply that nothing holds up fills its destination. -/
theorem pendingAccesses : Obligations.PendingAccesses := by
  refine ⟨?_, ?_⟩
  · intro s s1 g k t d a w z o c e b i ps hc u n xs push at_ accs
    refine ⟨execLd_issues hc, execLds_issues hc, fun pp => execLdp_issues hc, execUld_issues hc,
      fun hcheck hfree => ⟨fun hb => ?_, fun hb hany => ?_⟩⟩
    · exact show execAtom t d a w c s = _ from issue_atomWord hc hb hcheck hfree nofun
    · exact show execRed t d a w c s = _ from issue_atomWord hc hb hcheck hfree fun _ => hany
  · intro s n r hreq holder hdone hhost hregs t hlink hfull q v
    exact execLoadReply_answers hreq holder hdone hhost hregs hlink hfull
end

section
/-! PROOFS. `regang` and `exit` (R98, R150, R151, R195): what the waiting slices of a group come to, and the two words. -/

namespace Sys2Proof.Machine

/-! ### A trap leaves the step flags alone (R308) -/

section

variable (s : State)

theorem State.sameSteps_stopGroup (g skid : Nat) : s.SameSteps (s.stopGroup g skid) := by
  refine .trans (.of_walkStep (s.walkStep_writeRecord _ _)) (State.sameSteps_setGroup _ rfl)

theorem State.sameSteps_reachHalt (g : Nat) : s.SameSteps (s.reachHalt g) := by
  have drawn : s.SameSteps s.draw.2 := .of_groups rfl
  unfold State.reachHalt
  split
  · exact .refl s
  · split
    · dsimp only
      split
      · exact drawn.trans (State.sameSteps_stopGroup _ _ _)
      · exact drawn.trans (State.sameSteps_setGroup _ rfl)
    · exact s.sameSteps_stopGroup _ _
    · exact .refl s

theorem State.sameSteps_broadcast (team origin : Nat) : s.SameSteps (s.broadcast team origin) := by
  refine .foldl (fun t g => ?_) _ _
  split
  · exact .refl t
  · exact t.sameSteps_reachHalt g

/-- R297 to R299: the record, the halt and its broadcast leave every group its step flag. -/
theorem State.sameSteps_takeTrap_gang (g k : Nat) (tr : Trap) (pc resume : Addr) (word : W32) :
    s.SameSteps (s.takeTrap (.gang g k) tr pc resume word) := by
  unfold State.takeTrap
  dsimp only
  split
  · refine .trans ?_ (State.sameSteps_finishHalt _ _)
    refine .trans ?_ (State.sameSteps_notify _ _ _ _ _)
    refine .trans ?_ (.of_memStep (State.memStep_releasePart _ _))
    refine .trans ?_ (State.sameSteps_setGroup _ rfl)
    exact .of_walkStep (s.walkStep_writeRecord _ _)
  · refine .trans ?_ (State.sameSteps_finishHalt _ _)
    refine .trans ?_ (State.sameSteps_broadcast _ _ _)
    refine .trans ?_ (State.sameSteps_setTeam _ _ _)
    refine .trans ?_ (State.sameSteps_setGroup _ rfl)
    exact .of_walkStep (s.walkStep_writeRecord _ _)

theorem State.sameSteps_settleRegang (g : Nat) : s.SameSteps (s.settleRegang g) := by
  unfold State.settleRegang
  dsimp only
  split
  · exact .refl s
  · exact s.sameSteps_setGroup rfl
  · refine .trans ?_ (State.sameSteps_takeTrap_gang _ _ _ _ _ _ _)
    exact s.sameSteps_setGroup rfl

end

/-! ### What the waiting slices of a group come to (R98) -/

section

variable {x : Group}

/-- R98: a living slice that does not wait. -/
theorem Group.regangState_stay {sl : Slice} (hmem : sl ∈ x.slices) (hlive : sl.live ≠ 0) (hnone : sl.regang = none) :
    x.regangState = .stay := by
  have hliving : sl ∈ x.slices.filter fun sl => sl.live != 0 := List.mem_filter.2 ⟨hmem, by simpa using hlive⟩
  unfold Group.regangState
  dsimp only
  split
  case h_1 => rfl
  case h_2 =>
    rw [if_pos (List.any_eq_true.2 ?_)]
    exact ⟨sl, hliving, by rw [hnone]; rfl⟩

variable {sl : Slice} {rest : List Slice} (hliving : x.slices.filter (fun y => y.live != 0) = sl :: rest)
include hliving

/-- The living slice that comes first is the lowest. -/
theorem Group.find?_living : x.slices.find? (fun y => y.live != 0) = some sl := by
  rw [← List.head?_filter, hliving]
  rfl

theorem Group.lowGang_of_living : x.lowGang = sl.gang := by
  rw [Group.lowGang, Group.find?_living hliving]
  rfl

/-- R98: every living slice waits. -/
theorem Group.regangState_of_waiting (h : ∀ y ∈ sl :: rest, y.regang.isSome = true) :
    x.regangState = if rest.all (fun y => y.sameRegang sl) then .join (sl.pc + 4)
      else .differ (x.slices.findIdx fun y => y.live != 0) := by
  have hall : ((sl :: rest).any fun y => y.regang.isNone) = false := by
    rw [List.any_eq_false]
    intro y hy
    simpa using Option.isSome_iff_ne_none.1 (h y hy)
  unfold Group.regangState
  simp only [hliving, hall, Bool.false_eq_true, if_false]

/-- R98: all living slices wait at one address with one number. -/
theorem Group.regangState_join {a : Addr} {n : BitVec 10} (h : ∀ y ∈ sl :: rest, ∃ b, y.regang = some (a, n, b)) :
    x.regangState = .join (sl.pc + 4) := by
  rw [Group.regangState_of_waiting hliving fun y hy => by obtain ⟨b, hb⟩ := h y hy; rw [hb]; rfl, if_pos]
  rw [List.all_eq_true]
  intro y hy
  obtain ⟨b, hb⟩ := h y (List.mem_cons_of_mem _ hy)
  obtain ⟨c, hc⟩ := h sl List.mem_cons_self
  simp [Slice.sameRegang, hb, hc]

/-- R98: all living slices wait, and one not where or not with the number that the lowest does. -/
theorem Group.regangState_differ {a : Addr} {n : BitVec 10} {b : Bool} (hsl : sl.regang = some (a, n, b))
    (hrest : ∀ y ∈ rest, y.regang.isSome = true)
    (hdiff : ∃ y c m d, y ∈ rest ∧ y.regang = some (c, m, d) ∧ (c ≠ a ∨ m ≠ n)) :
    x.regangState = .differ (x.slices.findIdx fun y => y.live != 0) := by
  rw [Group.regangState_of_waiting hliving fun y hy => ?_, if_neg]
  · obtain ⟨y, c, m, d, hy, hreg, hne⟩ := hdiff
    rw [List.all_eq_true]
    intro hall
    have := hall y hy
    simp only [Slice.sameRegang, hreg, hsl, Option.map_some, beq_iff_eq, Option.some.injEq, Prod.mk.injEq] at this
    exact hne.elim (· this.1) (· this.2)
  · rcases List.mem_cons.1 hy with rfl | hy
    · rw [hsl]; rfl
    · exact hrest y hy

end

section

variable {s : State} {g : Nat}

theorem State.settleRegang_stay {sl : Slice} (hmem : sl ∈ (s.group g).slices) (hlive : sl.live ≠ 0) (hnone : sl.regang = none) :
    s.settleRegang g = s := by
  simp only [State.settleRegang, Group.regangState_stay hmem hlive hnone]

variable {sl : Slice} {rest : List Slice} {a : Addr} {n : BitVec 10}
  (hliving : (s.group g).slices.filter (fun y => y.live != 0) = sl :: rest)
include hliving

theorem State.settleRegang_join (h : ∀ y ∈ sl :: rest, ∃ b, y.regang = some (a, n, b)) :
    s.settleRegang g = s.setGroup g { s.group g with slices := (s.group g).slices.map fun y =>
      if y.live = 0 then y else { y with regang := none, pc := sl.pc + 4, gang := sl.gang, waiting := false } } := by
  simp only [State.settleRegang, Group.regangState_join hliving h, Group.lowGang_of_living hliving, bne_iff_ne, ne_eq, ite_not]

theorem State.settleRegang_differ {b : Bool} (hsl : sl.regang = some (a, n, b)) (hrest : ∀ y ∈ rest, y.regang.isSome = true)
    (hdiff : ∃ y c m d, y ∈ rest ∧ y.regang = some (c, m, d) ∧ (c ≠ a ∨ m ≠ n)) :
    s.settleRegang g = (s.setGroup g { s.group g with slices := (s.group g).slices.map fun y => { y with regang := none } }).takeTrap
      (.gang g sl.gang) { kind := 0x09, cause := 1 } sl.pc sl.pc (encode (.regang b n)) := by
  have hlowest : (s.group g).slices.getD ((s.group g).slices.findIdx fun y => y.live != 0) { pc := 0, act := 0, live := 0 } = sl := by
    rw [List.getD_eq_getElem?_getD, ← List.find?_eq_getElem?_findIdx, Group.find?_living hliving]
    rfl
  simp only [State.settleRegang, Group.regangState_differ hliving hsl hrest hdiff, hlowest, hsl]
  rfl

end

/-! ### The words -/

/-- What a word's slices come to leaves the step flag of its thread off. -/
theorem State.stepped_settleRegang {s : State} {i : Instr} {g : Nat} {t : State} (h : s.begins i = true)
    (ht : t.stepped s.cur = s.unheld.stepped s.cur) : (t.settleRegang g).stepped s.cur = false := by
  rw [(t.sameSteps_settleRegang g).stepped, ht, State.unheld_stepped h]

section

variable {s : State} {t n : Bool} {imm : BitVec 10} {p : BitVec 3}

/-- R98, R195: the slices of the gang wait, once the group's earlier accesses have been performed. -/
theorem execRegang_arrives {g k : Nat} (hc : s.cur = .gang g k) (h : s.begins (.regang t imm) = true)
    (hs : ∀ e ∈ s.unheld.slicesOf s.cur, e.2.stack = []) (hp : s.unheld.pendingAny s.cur 0 = false) :
    exec (.regang t imm) s = .next (s.afterMoved
      ((s.unheld.mapSlices s.cur fun _ sl => { sl with regang := some (sl.pc, imm, t) }).settleRegang g) 0) := by
  have hstack : ((s.unheld.slicesOf s.cur).any fun e => !e.2.stack.isEmpty) = false := by simpa using hs
  show execRegang t imm s = _
  unfold execRegang
  rw [issue_begins h]
  simp only [hc]
  rw [← hc]
  simp only [hstack, hp, Bool.false_eq_true, if_false]
  rw [settle_moved h (State.stepped_settleRegang h (State.mapSlices_stepped _ _ _)) rfl]

theorem execRegang_waits (h : s.begins (.regang t imm) = true) (hs : ∀ e ∈ s.unheld.slicesOf s.cur, e.2.stack = [])
    (hp : s.unheld.pendingAny s.cur 0 = true) : exec (.regang t imm) s = .next (s.stay s.unheld) := by
  have hstack : ((s.unheld.slicesOf s.cur).any fun e => !e.2.stack.isEmpty) = false := by simpa using hs
  refine show execRegang t imm s = _ from issue_waits h ?_
  simp only [hstack, hp, Bool.false_eq_true, if_false, if_true]

/-- R151: a slice of the gang has a stacked entry. -/
theorem execRegang_traps (h : s.begins (.regang t imm) = true) (hs : ∃ e, e ∈ s.unheld.slicesOf s.cur ∧ e.2.stack ≠ []) :
    exec (.regang t imm) s = .next (s.trapped (.regang t imm) { kind := 0x09, cause := 2 }) := by
  have hstack : ((s.unheld.slicesOf s.cur).any fun e => !e.2.stack.isEmpty) = true := by simpa using hs
  refine show execRegang t imm s = _ from issue_traps h ?_
  simp only [hstack, if_true]
  rfl

/-- R150: lanes of the gang exit. -/
theorem execExit_exits {g k : Nat} (hc : s.cur = .gang g k) (h : s.begins (.exit p n) = true) {m : BitVec 8}
    (hm : ∀ i, i < 8 → (m.getLsbD i = true ↔
      ∃ e, e ∈ s.unheld.slicesOf s.cur ∧ e.1 = i ∧ s.unheld.sliceCond s.cur p.toNat n e.1 e.2.act = e.2.act)) :
    exec (.exit p n) s = .next (s.afterMoved
      (((s.unheld.mapSlices s.cur fun i sl => sl.exitLanes (s.pcOf s.cur) (s.unheld.sliceCond s.cur p.toNat n i sl.act)).regroup
        s.cur).settleRegang g) m) := by
  show execExit p n s = _
  unfold execExit
  rw [issue_begins h]
  simp only [State.pcOf_unheld, hc]
  rw [← hc, maskOf_eq (m := m) (by simpa using hm), settle_moved h (State.stepped_settleRegang h ?_) rfl]
  rw [State.regroup_stepped, State.mapSlices_stepped]

end

end Sys2Proof.Machine

open Sys2Proof Sys2Proof.Machine in
/-- Settles O24: the two words, and the outcomes of the slices that wait. -/
theorem regangAndExit : Obligations.RegangAndExit := by
  refine ⟨?_, ?_⟩
  · intro s g k t n imm p hc u
    exact ⟨fun h => ⟨execRegang_arrives hc h, execRegang_waits h, execRegang_traps h⟩, fun h m hm => execExit_exits hc h hm⟩
  · intro s g x free
    refine ⟨fun ⟨sl, hmem, hlive, hnone⟩ => State.settleRegang_stay hmem hlive hnone, ?_, ?_⟩
    · intro a n sl rest hliving h
      refine State.settleRegang_join (a := a) (n := n) hliving fun y hy => ?_
      obtain ⟨hmem, hlive⟩ := List.mem_filter.1 (hliving ▸ hy)
      exact (h y hmem (by simpa using hlive)).2
    · intro sl rest a n b hliving hsl hrest hdiff
      exact State.settleRegang_differ hliving hsl hrest hdiff

end

section
/-! PROOFS. Launch queues (R104, R106, R107, R155, R158, R162): identifiers of grids, how a grid enters its queue and PASSED, and the
test of a co-resident grid. -/

namespace Sys2Proof.Machine

/-! ### Identifiers of grids (R106) -/

/-- The identifiers that follow one another from any one on differ, until all have been used. -/
theorem gridNumAfter_inj {num : W32} {i j : Nat} (hi : i < 2 ^ 32 - 1) (hj : j < 2 ^ 32 - 1)
    (h : gridNumAfter num i = gridNumAfter num j) : i = j := by
  have toNat : ∀ n : Nat, (BitVec.ofNat 32 (n % (2 ^ 32 - 1) + 1)).toNat = n % (2 ^ 32 - 1) + 1 := fun n => by
    rw [BitVec.toNat_ofNat, Nat.mod_eq_of_lt]
    omega
  have hnat := congrArg BitVec.toNat h
  rw [gridNumAfter, gridNumAfter, toNat, toNat] at hnat
  omega

section

variable {s : State} {part : Nat}

theorem State.gridLive_eq_true {num : W32} :
    s.gridLive part num = true ↔ ∃ e ∈ s.grids, realPart e.2.part = realPart part ∧ e.2.num = num := by
  simp [State.gridLive]

/-- More identifiers than there are grids: one of them is free. -/
theorem State.exists_free_gridNum (due : W32) (hlen : s.grids.length < 2 ^ 32 - 1) :
    ∃ n ∈ (List.range (s.grids.length + 1)).map (gridNumAfter due), s.gridLive part n = false := by
  by_contra hall
  have hsub : (List.range (s.grids.length + 1)).map (gridNumAfter due) ⊆ s.grids.map fun e => e.2.num := by
    intro n hn
    have hlive : s.gridLive part n = true := by
      by_contra hfree
      exact hall ⟨n, hn, by simpa using hfree⟩
    obtain ⟨e, he, -, hnum⟩ := State.gridLive_eq_true.1 hlive
    exact List.mem_map.2 ⟨e, he, hnum⟩
  have hnodup : ((List.range (s.grids.length + 1)).map (gridNumAfter due)).Nodup := by
    refine List.Nodup.map_on ?_ List.nodup_range
    intro i hi j hj
    rw [List.mem_range] at hi hj
    exact gridNumAfter_inj (by omega) (by omega)
  have hle := (hnodup.subperm hsub).length_le
  simp at hle

/-- R106: no grid of the partition that has not ended has the identifier that comes next. -/
theorem State.gridLive_gridNum (hlen : s.grids.length < 2 ^ 32 - 1) : s.gridLive part (s.gridNum part) = false := by
  obtain ⟨m, hm, hfree⟩ := State.exists_free_gridNum (part := part) (s.part part).nextGrid hlen
  unfold State.gridNum
  dsimp only
  cases hfind : ((List.range (s.grids.length + 1)).map (gridNumAfter (s.part part).nextGrid)).find? fun n => !s.gridLive part n with
  | some n => simpa using List.find?_some hfind
  | none => simpa [hfree] using List.find?_eq_none.1 hfind m hm

end

/-! ### What the registers of a status leave alone -/

section

variable (s : State) (t : ThreadId) (r : Nat) (x : W64)

theorem State.setUni_grids (u : Uni) : (s.setUni t u).grids = s.grids := by
  cases t <;> rfl

theorem State.setUni_agenda (u : Uni) : (s.setUni t u).agenda = s.agenda := by
  cases t <;> rfl

theorem State.fillW_grids : (s.fillW t r x).grids = s.grids := by
  unfold State.fillW
  dsimp only
  split
  · split
    · rw [State.setUni_grids]
      exact s.setUni_grids _ _
    · exact s.setUni_grids _ _
  · rfl

theorem State.fillStatus_grids (st : Option (ThreadId × Nat)) : (s.fillStatus st x).grids = s.grids := by
  cases st with
  | none => rfl
  | some e => exact s.fillW_grids _ _ _

/-- A spine thread's uniform registers are as set. -/
theorem State.uni_setUni_spine (c : Nat) (u : Uni) : (s.setUni (.spine c) u).uni (.spine c) = u := by
  simp [State.setUni, State.uni, State.setScalar, State.scalar]

variable {s r}

/-- R106: a status fills its register of a spine thread that is there. -/
theorem State.getW_fillW_spine {c : Nat} (hc : (s.spines.find? c).isSome = true) (hr : 0 < r) :
    (s.fillW (.spine c) r x).getW (.spine c) r = x := by
  have hput : ((s.uni (.spine c)).putW r x).getW r = x := by
    rw [Uni.getW_putW _ _ _ _ hr.ne', if_pos rfl]
  unfold State.fillW
  rw [if_pos (show s.isThere (.spine c) = true from hc)]
  dsimp only
  split
  · rw [State.getW, State.uni_setUni_spine, State.putW, State.uni_setUni_spine]
    exact hput
  · rw [State.getW, State.putW, State.uni_setUni_spine, hput]

end

/-! ### Co-resident grids (R162) -/

section

variable {s : State} {k : Nat} {g : Grid} (hg : s.grids.find? k = some g)
include hg

theorem State.testFit_of_separate (hco : g.co = false) : s.testFit k = s := by
  simp only [State.testFit, hg, hco, Bool.false_and, Bool.false_eq_true, if_false]

theorem State.testFit_of_fits (h : s.couldFit g = true) : s.testFit k = s := by
  simp only [State.testFit, hg, h, Bool.not_true, Bool.and_false, Bool.false_eq_true, if_false]

/-- R162: a waiting grid that can never fit leaves its queue with its status. -/
theorem State.testFit_of_never (hco : g.co = true) (hp : g.phase = .passed) (h : s.couldFit g = false) :
    s.testFit k = { s.fillStatus g.status (spawnStatus 3 0) with grids := s.grids.erase k } := by
  simp only [State.testFit, hg, hco, hp, h, Bool.not_false, Bool.and_true, beq_self_eq_true, if_true]

end

/-! ### How a grid enters PASSED (R107, R156 to R158) -/

section

variable {s : State} {k : Nat}

/-- A grid of a fixed count that is placed team by team. -/
theorem State.enterPassed_fixed (hi : (s.grid k).icnt = none) (hc : 0 < (s.grid k).count) (hco : (s.grid k).co = false) :
    s.enterPassed k =
      { s.setGrid k { s.grid k with phase := .passed, order := s.nextId } with nextId := s.nextId + 1 } := by
  unfold State.enterPassed
  simp only [hi]
  rw [if_neg hc.ne']
  exact State.testFit_of_separate (Tbl.find?_insert_self _ _ _) hco

variable {pa : Nat} (hi : (s.grid k).icnt = some pa)
include hi

/-- R107: the count is the counter's. -/
theorem State.enterPassed_counted (h0 : 0 < (s.ownRead (realPart (s.grid k).part) pa 8).1)
    (h32 : (s.ownRead (realPart (s.grid k).part) pa 8).1 < 2 ^ 32) (hco : (s.grid k).co = false) :
    s.enterPassed k =
      { (s.counterTouch (s.grid k) pa).setGrid k
          { s.grid k with
            sig := (s.grid k).sig ||| s.sigOf (pa / 128), count := (s.ownRead (realPart (s.grid k).part) pa 8).1
            phase := .passed, order := (s.counterTouch (s.grid k) pa).nextId } with
        nextId := (s.counterTouch (s.grid k) pa).nextId + 1 } := by
  unfold State.enterPassed
  simp only [hi, if_pos h32]
  rw [if_neg h0.ne']
  exact State.testFit_of_separate (Tbl.find?_insert_self _ _ _) hco

/-- R107, R158: a grid that counts no team, or 2^32 or more, ends. -/
theorem State.enterPassed_ends (hn : (s.ownRead (realPart (s.grid k).part) pa 8).1 = 0 ∨
      2 ^ 32 ≤ (s.ownRead (realPart (s.grid k).part) pa 8).1) (hh : (s.grid k).handler = none) :
    (s.enterPassed k).grids.find? k = none := by
  have hcount : (if (s.ownRead (realPart (s.grid k).part) pa 8).1 < 2 ^ 32 then
      (s.ownRead (realPart (s.grid k).part) pa 8).1 else 0) = 0 := by
    split <;> omega
  unfold State.enterPassed
  simp only [hi, hcount, if_true]
  refine State.grids_endGrid ?_
  split
  · rw [State.grid, State.fillStatus_grids]
    simp [State.setGrid, hh]
  · simpa [State.grid, State.setGrid] using hh

end

/-! ### The launch queue (R104, R106, R155) -/

section

variable (s : State) (th : ThreadId) (d : BitVec 6) (g : Grid)

/-- The grid as its queue holds it. -/
def Grid.queued (g : Grid) (th : ThreadId) (d : BitVec 6) : Grid :=
  { g with status := if d = 0 then none else some (th, d.toNat), phase := if g.gate = none then .passed else .gated }

/-- A new grid has the next key and the next identifier. -/
theorem State.find?_addGrid :
    (s.addGrid g).1.grids.find? s.nextId = some { g with num := s.gridNum g.part, order := s.nextId } :=
  Tbl.find?_insert_self _ _ _

variable {s g}

/-- R155: a full queue refuses. -/
theorem State.enterQueue_full (h : 64 ≤ s.queueLength g.part g.prio) : s.enterQueue th d g = s.putW th d.toNat (spawnStatus 2 0) :=
  if_pos h

/-- R104: a queue with room takes the grid, whose status is there at once or is to come. -/
theorem State.enterQueue_room (h : s.queueLength g.part g.prio < 64) :
    s.enterQueue th d g =
      (if g.co = true then (s.addGrid (g.queued th d)).1.emptyW th d.toNat
        else (s.addGrid (g.queued th d)).1.putW th d.toNat (BitVec.ofNat 64 ((s.gridNum g.part).toNat * 2 ^ 32))).testGate s.nextId := by
  have hphase : (if g.gate.isSome = true then GridPhase.gated else .passed) = if g.gate = none then .passed else .gated := by
    cases g.gate <;> rfl
  have hnum : ((s.addGrid (g.queued th d)).1.grid s.nextId).num = s.gridNum g.part := by
    rw [State.grid, State.find?_addGrid]
    rfl
  have hstatus : spawnStatus 0 (s.gridNum g.part) = BitVec.ofNat 64 ((s.gridNum g.part).toNat * 2 ^ 32) := by
    rw [spawnStatus, Nat.zero_add]
  rw [← hstatus, ← hnum]
  unfold State.enterQueue
  rw [if_neg (not_le.2 h), hphase]
  rfl

/-- R104, R158: a grid with no gate and a fixed count is PASSED at once. -/
theorem State.enterQueue_passed (h : s.queueLength g.part g.prio < 64) (hco : g.co = false) (hgate : g.gate = none)
    (hi : g.icnt = none) (hc : 0 < g.count) :
    (s.enterQueue th d g).grids.find? s.nextId =
        some { g.queued th d with num := s.gridNum g.part, phase := .passed, order := s.nextId + 1 } ∧
      (s.enterQueue th d g).agenda = s.agenda := by
  rw [State.enterQueue_room th d h, hco, if_neg Bool.false_ne_true]
  generalize hq : (s.addGrid (g.queued th d)).1.putW th d.toNat (BitVec.ofNat 64 ((s.gridNum g.part).toNat * 2 ^ 32)) = q
  have hgrid : q.grid s.nextId = { g.queued th d with num := s.gridNum g.part, order := s.nextId } := by
    rw [← hq, State.grid, State.putW, State.setUni_grids, State.find?_addGrid]
    rfl
  have hnext : q.nextId = s.nextId + 1 := by
    rw [← hq]
    cases th <;> rfl
  have hagenda : q.agenda = s.agenda := by
    rw [← hq]
    exact State.setUni_agenda _ _ _
  have hgateless : q.testGate s.nextId = q.enterPassed s.nextId := by
    unfold State.testGate
    simp only [hgrid, Grid.queued, hgate]
  rw [hgateless, State.enterPassed_fixed (by rw [hgrid]; exact hi) (by rw [hgrid]; exact hc) (by rw [hgrid]; exact hco), hgrid, hnext]
  exact ⟨Tbl.find?_insert_self _ _ _, hagenda⟩

end

end Sys2Proof.Machine
end

section
/-! PROOFS. The words `spawn` and `join` (R104 to R107, R113, R162, R202, R342, R367). -/

namespace Sys2Proof.Machine

/-- R49 step 1: a word of spine and service threads begins in none of group code. -/
theorem State.isGang_of_begins {s : State} {i : Instr} (hb : s.begins i = true) (hplace : (shape i).place = .scalar) :
    isGang s.cur = false := by
  obtain ⟨⟨-, -, hmis, -⟩, -⟩ := (gate_eq_run_iff i s).1 ((s.begins_iff i).1 hb).1
  cases hc : s.cur with
  | gang g k => simp [hc, misplaced, hplace] at hmis
  | _ => rfl

/-! ### `spawn` -/

theorem any_ne_shared_eq_false {ps : List Phys} (h : ∀ p ∈ ps, p.ty = .shared) : (ps.any fun p => p.ty != .shared) = false := by
  simpa using h

/-- R103, R104: the grid of a spawn record whose counters are at the places `ps`: IMG, JOIN, then GATEA and ICNT where they are. -/
def SpawnRec.grid (r : SpawnRec) (imm g c : Bool) (part ctx : Nat) (desc : Desc) (ps : List Phys) (sig : Sig) : Grid :=
  let pa := fun n => (ps.getD n ⟨0, .shared⟩).pa
  { part := part, ctx := ctx, num := 0, desc := desc, args := r.args, count := r.shp.toNat % 2 ^ 32
    prio := r.shp.toNat / 2 ^ 32 % 8, books := r.shp.toNat / 2 ^ 36 % 8, mask := BitVec.ofNat 16 (r.shp.toNat / 2 ^ 48)
    join := some (pa 1), gate := if g then some (pa 2, r.gatev) else none
    icnt := if imm then some (pa (if g then 3 else 2)) else none, co := c, sig := sig }

/-- R104 steps 1 to 5: a spawn record whose fields, context and addresses pass their checks, whose counters and descriptors come, and
which fills no line that the host may hold. -/
structure State.SpawnLoads (s : State) (r : SpawnRec) (imm g : Bool) (part ctx : Nat) (s2 : State) (ps : List Phys)
    (im : SpawnImages) : Prop where
  level : ¬ (levelOf s.cur = 0 ∧ r.ctx ≠ 0)
  part_eq : s.unheld.partOf s.cur = part
  ctx_eq : (if r.ctx = 0 then s.unheld.ctxOf s.cur else r.ctx) = ctx
  fields : r.fieldsOk imm g = true
  there : ¬ (ctx = 0 ∨ (s.unheld.ctx part ctx).phase = .none)
  addrs : addrsTrap (r.addrs imm g) = none
  loads : ∃ s1, s.unheld.spawnPages (.ctx part ctx (s.unheld.fetchCore s.cur)) ([(AccKind.load, r.img), (.store, r.join)] ++
      (if g then [(.load, r.gatea)] else []) ++ (if imm then [(.load, r.icnt)] else [])) = (s1, .ok ps) ∧
    s1.spawnImages (.ctx part ctx (s.unheld.fetchCore s.cur)) r.img.toNat = (s2, .ok im)
  held : s.unheld.filledHeld s2 = none

section

variable {s : State} {t imm g c v : Bool} {d a : BitVec 6} {r : SpawnRec} {part ctx : Nat}
  (hb : s.begins (.spawn t d a imm g c v) = true) (hr : s.unheld.spawnRec s.cur a.toNat = r)
include hb hr

/-- R104 step 1: user code that names a context. -/
theorem execSpawn_privilege (hl : levelOf s.cur = 0 ∧ r.ctx ≠ 0) :
    exec (.spawn t d a imm g c v) s = .next (s.trapped (.spawn t d a imm g c v) Trap.privilege) := by
  refine show execSpawn t d a imm g c v s = _ from issue_traps hb ?_
  simp only [hr, if_pos hl]

section

variable (hl : ¬ (levelOf s.cur = 0 ∧ r.ctx ≠ 0))
include hl

/-- R103, R104 step 2: a reserved field or a field that must be 0 is not. -/
theorem execSpawn_fields (hf : r.fieldsOk imm g = false) :
    exec (.spawn t d a imm g c v) s = .next (s.trapped (.spawn t d a imm g c v) (Trap.commandCheck 1)) := by
  refine show execSpawn t d a imm g c v s = _ from issue_traps hb ?_
  simp only [hr, if_neg hl, hf, Bool.not_false, if_true]

variable (hf : r.fieldsOk imm g = true) (hpart : s.unheld.partOf s.cur = part)
  (hctx : (if r.ctx = 0 then s.unheld.ctxOf s.cur else r.ctx) = ctx)
include hf hpart hctx

/-- R104 step 3: no context, or one that is not there. -/
theorem execSpawn_context (hc : ctx = 0 ∨ (s.unheld.ctx part ctx).phase = .none) :
    exec (.spawn t d a imm g c v) s = .next (s.trapped (.spawn t d a imm g c v) (Trap.commandCheck 6)) := by
  refine show execSpawn t d a imm g c v s = _ from issue_traps hb ?_
  simp only [hr, hpart, hctx, if_neg hl, hf, Bool.not_true, Bool.false_eq_true, if_false, if_pos hc]

/-- R104 step 4: an address out of range or not aligned. -/
theorem execSpawn_addrs (hc : ¬ (ctx = 0 ∨ (s.unheld.ctx part ctx).phase = .none)) {tr : Trap}
    (ha : addrsTrap (r.addrs imm g) = some tr) :
    exec (.spawn t d a imm g c v) s = .next (s.trapped (.spawn t d a imm g c v) tr) := by
  refine show execSpawn t d a imm g c v s = _ from issue_traps hb ?_
  simp only [hr, hpart, hctx, if_neg hl, hf, Bool.not_true, Bool.false_eq_true, if_false, if_neg hc, ha]

end

variable {s2 : State} {ps : List Phys} {im : SpawnImages} (hload : s.SpawnLoads r imm g part ctx s2 ps im)
include hload

/-- R104 step 6: a counter that is not in a SHARED page. -/
theorem execSpawn_types (hty : ∃ p ∈ ps.drop 1, p.ty ≠ .shared) :
    exec (.spawn t d a imm g c v) s = .next (s.trapped (.spawn t d a imm g c v) (Trap.commandCheck 3)) := by
  obtain ⟨hl, hpart, hctx, hf, hc, ha, ⟨s1, hpages, himages⟩, hheld⟩ := hload
  have hany : ((ps.drop 1).any fun p => p.ty != .shared) = true := by simpa using hty
  refine show execSpawn t d a imm g c v s = _ from issue_traps hb ?_
  simp only [hr, hpart, hctx, if_neg hl, hf, Bool.not_true, Bool.false_eq_true, if_false, if_neg hc, ha, hpages, himages, hheld,
    hany, if_true]

variable (hty : ∀ p ∈ ps.drop 1, p.ty = .shared)
include hty

/-- R104 step 7: a descriptor whose content fails. -/
theorem execSpawn_images {k : Nat} (hk : im.check (s.unheld.ctx part ctx).info.sslot = some k) :
    exec (.spawn t d a imm g c v) s = .next (s.trapped (.spawn t d a imm g c v) (Trap.commandCheck k)) := by
  obtain ⟨hl, hpart, hctx, hf, hc, ha, ⟨s1, hpages, himages⟩, hheld⟩ := hload
  refine show execSpawn t d a imm g c v s = _ from issue_traps hb ?_
  simp only [hr, hpart, hctx, if_neg hl, hf, Bool.not_true, Bool.false_eq_true, if_false, if_neg hc, ha, hpages, himages, hheld,
    any_ne_shared_eq_false hty, hk]

variable (hk : im.check (s.unheld.ctx part ctx).info.sslot = none)
include hk

/-- R342: a lost store is reported. -/
theorem execSpawn_lost {s4 : State} {tr : Trap} (hlost : s2.lostReport s.cur 3 = some (s4, tr)) :
    exec (.spawn t d a imm g c v) s =
      .next ((s4.unbegun s.wordPc).takeTrap s.cur tr s.wordPc s.wordPc (encode (.spawn t d a imm g c v))) := by
  obtain ⟨hl, hpart, hctx, hf, hc, ha, ⟨s1, hpages, himages⟩, hheld⟩ := hload
  show execSpawn t d a imm g c v s = _
  unfold execSpawn
  rw [issue_begins hb]
  simp only [hr, hpart, hctx, if_neg hl, hf, Bool.not_true, Bool.false_eq_true, if_false, if_neg hc, ha, hpages, himages, hheld,
    any_ne_shared_eq_false hty, hk, hlost]
  rfl

variable (hlost : s2.lostReport s.cur 3 = none) (hhost : s2.snoopHost (s2.releaseLines (s2.cptOf s.cur) 3) = none)
  (hwait : s2.releaseWait (s2.cptOf s.cur) 3 = none)
include hlost hhost hwait

/-- R105, R106: no bound reaches SIZE. -/
theorem execSpawn_noVariant (hpick : im.pick v r.size.toNat = none) :
    exec (.spawn t d a imm g c v) s =
      .next (s.after ((s2.releaseDevice (s2.cptOf s.cur)).1.putW s.cur d.toNat (spawnStatus 4 0))) := by
  obtain ⟨hl, hpart, hctx, hf, hc, ha, ⟨s1, hpages, himages⟩, hheld⟩ := hload
  refine show execSpawn t d a imm g c v s = _ from issue_scalar hb (State.isGang_of_begins hb rfl) ?_
  simp only [hr, hpart, hctx, if_neg hl, hf, Bool.not_true, Bool.false_eq_true, if_false, if_neg hc, ha, hpages, himages, hheld,
    any_ne_shared_eq_false hty, hk, hlost, hhost, hwait, Option.orElse, hpick]

/-- R104 to R107: the grid enters its queue. -/
theorem execSpawn_enters {desc : Desc} (hpick : im.pick v r.size.toNat = some desc) :
    exec (.spawn t d a imm g c v) s = .next (s.after ((s2.releaseDevice (s2.cptOf s.cur)).1.enterQueue s.cur d
      (r.grid imm g c part ctx desc ps (s2.releaseDevice (s2.cptOf s.cur)).2))) := by
  obtain ⟨hl, hpart, hctx, hf, hc, ha, ⟨s1, hpages, himages⟩, hheld⟩ := hload
  refine show execSpawn t d a imm g c v s = _ from issue_scalar hb (State.isGang_of_begins hb rfl) ?_
  simp only [hr, hpart, hctx, if_neg hl, hf, Bool.not_true, Bool.false_eq_true, if_false, if_neg hc, ha, hpages, himages, hheld,
    any_ne_shared_eq_false hty, hk, hlost, hhost, hwait, Option.orElse, hpick]
  rfl

end

/-! ### `join` -/

section

variable {s s1 : State} {t : Bool} {d a b : BitVec 6} {va : W64} {p : Phys} {l : Nat} {ps : List (Nat × W64 × Phys)}
  (hb : s.begins (.join t d a b) = true)
  (hcheck : s.unheld.checkUniform s.cur .load true false 8 (s.unheld.getW s.cur a.toNat) = .ok s1 ((l, va, p) :: ps))
include hb hcheck

/-- R113: a counter that is not in a SHARED page. -/
theorem execJoin_type (hty : p.ty ≠ .shared) :
    exec (.join t d a b) s = .next (s.trapped (.join t d a b) (Trap.commandCheck 3)) := by
  refine show execJoin t d a b s = _ from issue_traps hb ?_
  simp only [hcheck, if_pos hty]

variable (hfree : s1.blocked s.cur
    [{ lane := 0, addr := p.pa, size := 8, ty := some p.ty, va := s.unheld.getW s.cur a.toNat }] = false)
  (hty : p.ty = .shared) {q : State × Nat × Bool} (hq : s1.acquireLoad (s1.cptOf s.cur) false p 8 (s1.threadTag s.cur) = q)
include hfree hty hq

/-- R113: the counter has reached its target. -/
theorem execJoin_reached (hv : (s1.getW s.cur b.toNat).toNat ≤ q.2.1) {u : State}
    (hu : (if q.2.2 then (q.1.putW s.cur d.toNat (BitVec.ofNat 64 q.2.1)).setUni s.cur
        (((q.1.putW s.cur d.toNat (BitVec.ofNat 64 q.2.1)).uni s.cur).poisonW d.toNat)
      else q.1.putW s.cur d.toNat (BitVec.ofNat 64 q.2.1)) = u) (hheld : s.unheld.filledHeld u = none) :
    exec (.join t d a b) s = .next (s.after u) := by
  have hread : s.unheld.SameSteps q.1 := by
    rw [← hq]
    exact (State.SameSteps.of_walkStep (State.walkStep_of_checkUniform hcheck)).trans (.of_memStep (s1.memStep_acquireLoad _ _ _ _ _))
  have hput : s.unheld.SameSteps u := by
    rw [← hu]
    split
    · exact (hread.trans (State.sameSteps_setUni _ _ _)).trans (State.sameSteps_setUni _ _ _)
    · exact hread.trans (State.sameSteps_setUni _ _ _)
  rw [hty] at hfree
  show execJoin t d a b s = _
  unfold execJoin
  rw [issue_begins hb]
  simp only [hcheck, hty, ne_eq, not_true_eq_false, if_false, hfree, Bool.false_eq_true, hq, if_pos hv, hu]
  rw [State.doneUnlessFills_done hheld, settle_done hb _ (.inl rfl)]
  rw [hput.stepped, State.unheld_stepped hb]

/-- R113: the counter is below its target. -/
theorem execJoin_below (hv : q.2.1 < (s1.getW s.cur b.toNat).toNat) (hheld : s.unheld.filledHeld q.1 = none) :
    exec (.join t d a b) s = .next (s.stay q.1) := by
  rw [hty] at hfree
  refine show execJoin t d a b s = _ from issue_waits hb ?_
  simp only [hcheck, hty, ne_eq, not_true_eq_false, if_false, hfree, Bool.false_eq_true, hq, if_neg (not_le.2 hv),
    State.unlessFills_eq hheld]

end

end Sys2Proof.Machine

open Sys2Proof Sys2Proof.Machine in
/-- Settles O42: `spawn` check by check, the launch queue, the count of a grid, the test of a co-resident one, and `join`. -/
theorem spawnAndJoin : Obligations.SpawnAndJoin := by
  intro s t imm g c v d a s1 s2 ps im i u r part ctx info traps counters sp q s3 pa hb
  have level (hl : levelOf s.cur ≠ 0 ∨ r.ctx = 0) : ¬ (levelOf s.cur = 0 ∧ r.ctx ≠ 0) := fun h => hl.elim (· h.1) h.2
  refine ⟨fun hl hc => execSpawn_privilege hb rfl ⟨hl, hc⟩, fun hl hf => execSpawn_fields hb rfl (level hl) hf,
    fun hl hf hc => execSpawn_context hb rfl (level hl) hf rfl rfl hc, fun hl hf hc hp => ?_, ?_, ?_, ?_, ?_⟩
  · have there : ¬ (ctx = 0 ∨ (u.ctx part ctx).phase = .none) := fun h => h.elim hc hp
    refine ⟨fun tr ha => execSpawn_addrs hb rfl (level hl) hf rfl rfl there ha, fun ha hpages himages hheld => ?_⟩
    have loaded : s.SpawnLoads r imm g part ctx s2 ps im := ⟨level hl, rfl, rfl, hf, there, ha, ⟨s1, hpages, himages⟩, hheld⟩
    exact ⟨execSpawn_types hb rfl loaded, fun hty => ⟨fun k hk => execSpawn_images hb rfl loaded hty hk,
      fun s4 tr hk hlost => execSpawn_lost hb rfl loaded hty hk hlost, fun hk hlost hhost hwait =>
        ⟨fun hpick => execSpawn_noVariant hb rfl loaded hty hk hlost hhost hwait hpick,
          fun desc hpick => execSpawn_enters hb rfl loaded hty hk hlost hhost hwait hpick⟩⟩⟩
  · intro s th d g
    refine ⟨State.enterQueue_full th d, fun h hco hgate hi hc => ?_, fun hlen e he hpart hnum => ?_,
      fun h => ⟨rfl, State.enterQueue_room th d h⟩⟩
    · obtain ⟨hgrid, hagenda⟩ := State.enterQueue_passed th d h hco hgate hi hc
      simp only [State.grid, hgrid]
      exact ⟨rfl, rfl, rfl, hagenda⟩
    · have hfree := State.gridLive_gridNum (part := g.part) hlen
      rw [State.gridLive_eq_true.2 ⟨e, he, hpart, hnum⟩] at hfree
      cases hfree
  · intro s k pa _ hi n t
    refine ⟨fun h0 h32 hco => ?_, State.enterPassed_ends hi⟩
    simp only [t, State.enterPassed_counted hi h0 h32 hco, State.grid, State.setGrid, Tbl.find?_insert_self]
    exact ⟨rfl, rfl⟩
  · intro s k g hg hco hp
    refine ⟨State.testFit_of_fits hg, fun h => ?_⟩
    rw [State.testFit_of_never hg hco hp h]
    refine ⟨by rw [Tbl.find?_erase, if_pos rfl], fun c r hstatus hc hr _ => ?_⟩
    rw [hstatus]
    exact State.getW_fillW_spine _ hc hr
  · intro s t d a b s1 x ps hb hcheck q hfree got
    obtain ⟨l, va, p⟩ := x
    exact ⟨execJoin_type hb hcheck, fun hty hv hheld => execJoin_reached hb hcheck hfree hty rfl hv rfl hheld,
      fun hty hv hheld => execJoin_below hb hcheck hfree hty rfl hv hheld⟩

end

section
/-! PROOFS. The jetty words and contributions (R115, R116, R119 to R126, R143, R176). -/

namespace Sys2Proof.Machine

/-! ### States of a jetty register (R116) -/

section

variable (x : Jetty)

theorem Jetty.busy_iff : x.busy = true ↔ x.full = true ∨ (x.reduce = true ∧ x.arr ≠ 0) := by
  simp only [Jetty.busy, Bool.or_eq_true, Bool.and_eq_true, bne_iff_ne]

theorem Jetty.not_busy (hfull : x.full = false) (h : x.reduce = false ∨ x.arr = 0) : ¬ x.busy = true := by
  rw [Jetty.busy_iff]
  rintro (hf | ⟨hreduce, harr⟩)
  · exact Bool.noConfusion (hfull.symm.trans hf)
  · exact h.elim (fun hr => Bool.noConfusion (hr.symm.trans hreduce)) harr

theorem Jetty.armed_iff : x.armed = true ↔ x.reduce = true ∧ x.full = false ∧ x.exp ≠ 0 := by
  simp only [Jetty.armed, Bool.and_eq_true, Bool.not_eq_true', bne_iff_ne, and_assoc]

/-- An Armed register is not Published. -/
theorem Jetty.not_published_of_armed {x : Jetty} (h : x.armed = true) : (!x.reduce && x.full) = false := by
  rw [((Jetty.armed_iff x).1 h).1]
  rfl

end

/-- R121: the reader that takes a count of one is the last. -/
theorem sub_one_bne_zero (c : BitVec 8) : (c - 1 != 0) = decide (c ≠ 1) := by
  rw [Bool.eq_iff_iff, bne_iff_ne, decide_eq_true_iff]
  exact sub_ne_zero

/-! ### Words on a jetty register -/

section

variable {s : State} {i : Instr} {body : ThreadId → State → Did} (hb : s.begins i = true)
include hb

/-- R10, R126: a word that finds its register not ready waits with T 0 and traps with T 1. -/
theorem issue_unready {t : Bool} {tr : Trap} (hd : body s.cur s.unheld = if t then .trap tr else .wait s.unheld) :
    issue i s body = .next (if t then s.trapped i tr else s.stay s.unheld) := by
  cases t with
  | false => exact issue_waits hb hd
  | true => exact issue_traps hb hd

/-- R176: a word that releases writes the STREAM buffer out and then its register. -/
theorem issue_releaseJetty {c j : Nat} {x : Jetty}
    (hd : body s.cur s.unheld = .done ((s.unheld.flushStream c).setJetty c j x)) :
    issue i s body = .next (s.after ((s.unheld.flushStream c).setJetty c j x)) :=
  have hflush := (s.unheld.memStep_flushStream c).walk
  issue_plain hb hd (hflush.stepped_eq s.cur) hflush.cmds_eq

end

section

variable {s : State} {t : Bool} {d a : BitVec 6} {m : BitVec 4} {c : BitVec 8} {x : Jetty}

section

variable (hb : s.begins (.jwr t d a m c) = true) (hx : s.unheld.jetty (s.cptOf s.cur) d.toNat = x)
include hb hx

/-- R119: `jwr` to a free register. -/
theorem execJwr_free (hfree : ¬ x.busy = true) :
    exec (.jwr t d a m c) s = .next (s.after ((s.unheld.flushStream (s.cptOf s.cur)).setJetty (s.cptOf s.cur) d.toNat
      (x.write (s.getW s.cur a.toNat) m c))) := by
  refine show execJwr t d a m c s = _ from issue_releaseJetty hb ?_
  simp only [State.cptOf_unheld, State.getW_unheld, hx, if_neg hfree]

/-- R119, R125: `jwr` to a register that is not free. -/
theorem execJwr_busy (hbusy : x.busy = true) :
    exec (.jwr t d a m c) s = .next (if t then s.trapped (.jwr t d a m c) (Trap.jettyBusy d.toNat) else s.stay s.unheld) := by
  refine show execJwr t d a m c s = _ from issue_unready hb ?_
  simp only [State.cptOf_unheld, hx, if_pos hbusy]

end

section

variable (hb : s.begins (.jrd t d a) = true) (hx : s.unheld.jetty (s.cptOf s.cur) a.toNat = x)
include hb hx

/-- R124: `jrd` of a Reduced register takes its value and leaves it Idle. -/
theorem execJrd_reduced (hreduce : x.reduce = true) (hfull : x.full = true) :
    exec (.jrd t d a) s = .next (s.after ((s.unheld.setJetty (s.cptOf s.cur) a.toNat { x with full := false, arr := 0, exp := 0 }).putW
      s.cur d.toNat x.value)) := by
  refine show execJrd t d a s = _ from issue_plain hb ?_ (State.putW_stepped _ _ _ _) (State.putW_cmds _ _ _ _)
  simp only [State.cptOf_unheld, hx, hreduce, hfull, Bool.not_true, Bool.false_and, Bool.false_eq_true, if_false]

/-- R124, R125: `jrd` of a Published register. -/
theorem execJrd_published (hreduce : x.reduce = false) (hfull : x.full = true) :
    exec (.jrd t d a) s = .next (s.trapped (.jrd t d a) (Trap.jettyMisuse 3 a.toNat)) := by
  refine show execJrd t d a s = _ from issue_traps hb ?_
  simp only [State.cptOf_unheld, hx, hreduce, hfull, Bool.not_false, Bool.and_true, if_true]

/-- R124, R126: `jrd` of a register that holds no value yet. -/
theorem execJrd_empty (hfull : x.full = false) :
    exec (.jrd t d a) s = .next (if t then s.trapped (.jrd t d a) (Trap.emptyRead a.toNat) else s.stay s.unheld) := by
  refine show execJrd t d a s = _ from issue_unready hb ?_
  simp only [State.cptOf_unheld, hx, hfull, Bool.and_false, Bool.false_eq_true, if_false, Bool.not_false, if_true]

end

section

variable (hb : s.begins (.jrel t a) = true) (hx : s.unheld.jetty (s.cptOf s.cur) a.toNat = x)
include hb hx

/-- R121, R125: `jrel` of a register of a reduction. -/
theorem execJrel_reduce (hreduce : x.reduce = true) :
    exec (.jrel t a) s = .next (s.trapped (.jrel t a) (Trap.jettyMisuse 1 a.toNat)) := by
  refine show execJrel t a s = _ from issue_traps hb ?_
  simp only [State.cptOf_unheld, hx, hreduce, if_true]

section

variable (hreduce : x.reduce = false)
include hreduce

/-- R121, R126: `jrel` of a register that is Idle. -/
theorem execJrel_empty (hfull : x.full = false) :
    exec (.jrel t a) s = .next (if t then s.trapped (.jrel t a) (Trap.emptyRead a.toNat) else s.stay s.unheld) := by
  refine show execJrel t a s = _ from issue_unready hb ?_
  simp only [State.cptOf_unheld, hx, hreduce, hfull, Bool.false_eq_true, if_false, Bool.not_false, if_true]

/-- R176, R199: `jrel` releases once the group's earlier accesses are no longer pending. -/
theorem execJrel_pending (hfull : x.full = true) (hpend : s.unheld.pendingAny s.cur 2 = true) :
    exec (.jrel t a) s = .next (s.stay s.unheld) := by
  refine show execJrel t a s = _ from issue_waits hb ?_
  simp only [State.cptOf_unheld, hx, hreduce, hfull, hpend, Bool.false_eq_true, if_false, Bool.not_true, if_true]

/-- R121: `jrel` of a Published register counts one reader off. -/
theorem execJrel_published (hfull : x.full = true) (hpend : s.unheld.pendingAny s.cur 2 = false) :
    exec (.jrel t a) s = .next (s.after ((s.unheld.flushStream (s.cptOf s.cur)).setJetty (s.cptOf s.cur) a.toNat
      { x with rc := x.rc - 1, full := decide (x.rc ≠ 1) })) := by
  refine show execJrel t a s = _ from issue_releaseJetty hb ?_
  simp only [State.cptOf_unheld, hx, hreduce, hfull, hpend, Bool.false_eq_true, if_false, Bool.not_true, sub_one_bne_zero]

end

end

end

/-! ### Contributions -/

section

variable {s : State} {t : Bool} {j : BitVec 6} {a f : BitVec 7} {x : Jetty}
  (hb : s.begins (.contribution t j a f) = true) (hx : s.unheld.jetty (s.cptOf s.cur) j.toNat = x)
  (hquiet : (s.uni s.cur).enabled (s.unheld.reduxValue s.cur a.toNat f.toNat).2 = false)
include hb hx hquiet

/-- R122, R125: a contribution to a Published register. -/
theorem execContribution_published (hreduce : x.reduce = false) (hfull : x.full = true) :
    exec (.contribution t j a f) s = .next (s.trapped (.contribution t j a f) (Trap.jettyMisuse 2 j.toNat)) := by
  refine show execContribution t j a f s = _ from issue_traps hb ?_
  simp only [State.cptOf_unheld, State.unheld_uni, hx, hquiet, hreduce, hfull, Bool.false_eq_true, if_false, Bool.not_false,
    Bool.and_true, if_true]

/-- R122, R126: a contribution to a register that is Idle or already Reduced. -/
theorem execContribution_unready (harmed : x.armed = false) (h : x.reduce = true ∨ x.full = false) :
    exec (.contribution t j a f) s =
      .next (if t then s.trapped (.contribution t j a f) (Trap.jettyBusy j.toNat) else s.stay s.unheld) := by
  have hkind : (!x.reduce && x.full) = false := by
    rcases h with h | h <;> rw [h]
    · rfl
    · exact Bool.and_false _
  refine show execContribution t j a f s = _ from issue_unready hb ?_
  simp only [State.cptOf_unheld, State.unheld_uni, hx, hquiet, hkind, harmed, Bool.false_and, Bool.false_eq_true, if_false,
    Bool.not_false, if_true]

section

variable (harmed : x.armed = true)
include harmed

/-- R122, R125: a contribution of another operation than the register's. -/
theorem execContribution_otherOp (hop : f.toNat ≠ x.op.toNat) :
    exec (.contribution t j a f) s = .next (s.trapped (.contribution t j a f) (Trap.jettyMisuse 3 j.toNat)) := by
  refine show execContribution t j a f s = _ from issue_traps hb ?_
  simp only [State.cptOf_unheld, State.unheld_uni, hx, hquiet, Jetty.not_published_of_armed harmed, harmed, bne_iff_ne.2 hop,
    Bool.false_eq_true, if_false, Bool.and_true, if_true]

section

variable (hop : f.toNat = x.op.toNat)
include hop

/-- R176, R199: a contribution releases once the group's earlier accesses are no longer pending. -/
theorem execContribution_pending (hpend : s.unheld.pendingAny s.cur 2 = true) :
    exec (.contribution t j a f) s = .next (s.stay s.unheld) := by
  refine show execContribution t j a f s = _ from issue_waits hb ?_
  simp only [State.cptOf_unheld, State.unheld_uni, hx, hquiet, Jetty.not_published_of_armed harmed, harmed, bne_eq_false_iff_eq.2 hop,
    hpend, Bool.false_eq_true, if_false, Bool.and_false, Bool.not_true, if_true]

/-- R122, R123, R143: a contribution to an Armed register of its operation. -/
theorem execContribution_armed (hpend : s.unheld.pendingAny s.cur 2 = false) :
    let r := s.unheld.reduxValue s.cur a.toNat f.toNat
    exec (.contribution t j a f) s = .next (s.after (((s.unheld.flushStream (s.cptOf s.cur)).setJetty (s.cptOf s.cur) j.toNat
      (x.contribute r.1)).raiseFlags s.cur r.2)) := by
  intro r
  have hflush := (s.unheld.memStep_flushStream (s.cptOf s.cur)).walk
  refine show execContribution t j a f s = _ from issue_plain hb ?_ ?_ ?_
  · simp only [State.cptOf_unheld, State.unheld_uni, hx, hquiet, Jetty.not_published_of_armed harmed, harmed, bne_eq_false_iff_eq.2 hop,
      hpend, Bool.false_eq_true, if_false, Bool.and_false, Bool.not_true, r]
  · exact (State.raiseFlags_stepped _ _ _).trans (hflush.stepped_eq s.cur)
  · exact (State.raiseFlags_cmds _ _ _).trans hflush.cmds_eq

end

end

end

end Sys2Proof.Machine

open Sys2Proof Sys2Proof.Machine in
/-- Settles O26: each word by the state of its register, Idle, Published, Armed or Reduced (R116). -/
theorem jetties : Obligations.Jetties := by
  refine ⟨fun s t d a m c => ?_, fun s g k t j a f _ hb => ?_⟩
  · intro u cpt x y unready
    refine ⟨fun hb => ⟨fun hfull h => execJwr_free hb rfl (x.not_busy hfull h), fun h => ?_⟩,
      fun hb => ⟨execJrd_reduced hb rfl, execJrd_published hb rfl, fun hfull => ?_⟩,
      fun hb => ⟨execJrel_pending hb rfl, execJrel_published hb rfl, execJrel_reduce hb rfl, fun hreduce hfull => ?_⟩⟩
    · rw [execJwr_busy hb rfl (x.busy_iff.2 h)]
      cases t <;> rfl
    · rw [execJrd_empty hb rfl hfull]
      cases t <;> rfl
    · rw [execJrel_empty hb rfl hreduce hfull]
      cases t <;> rfl
  · intro u i x r armed hquiet
    refine ⟨fun h => execContribution_pending hb rfl hquiet (x.armed_iff.2 h),
      fun h => execContribution_armed hb rfl hquiet (x.armed_iff.2 h),
      fun h => execContribution_otherOp hb rfl hquiet (x.armed_iff.2 h), execContribution_published hb rfl hquiet, fun h => ?_⟩
    exact execContribution_unready hb rfl hquiet (Bool.eq_false_iff.2 (mt x.armed_iff.1 h))

end

section
/-! PROOFS. Bit fields and the functions of `iun` (R53, R133, R134). -/

namespace Sys2Proof.Machine

/-! ### Fields (R133) -/

section

variable (a b : W32)

theorem fieldLen_pos : 0 < fieldLen b := by
  have hpos : b.toNat % 32 < 32 := Nat.mod_lt _ (by decide)
  refine Nat.lt_min.2 ⟨?_, Nat.sub_pos_of_lt hpos⟩
  split <;> omega

theorem fieldLen_le : fieldLen b ≤ 32 := (Nat.min_le_right _ _).trans (Nat.sub_le _ _)

theorem testBit_div_mod_two_pow (x p n i : Nat) : (x / 2 ^ p % 2 ^ n).testBit i = (decide (i < n) && x.testBit (p + i)) := by
  rw [Nat.testBit_mod_two_pow, Nat.testBit_div_two_pow, Nat.add_comm]

/-- A number of n bits is at least half of 2^n where its top bit is set. -/
theorem two_pow_le_iff_testBit {x n : Nat} (hn : 0 < n) (hx : x < 2 ^ n) : 2 ^ (n - 1) ≤ x ↔ x.testBit (n - 1) = true :=
  ⟨fun h => Nat.testBit_of_two_pow_le_and_two_pow_add_one_gt h (by rwa [Nat.sub_add_cancel hn]), Nat.ge_two_pow_of_testBit⟩

/-- Ones above the low n bits of a number: its sign extension to 32 bits. -/
theorem testBit_add_ones {x n i : Nat} (hn : n ≤ 32) (hx : x < 2 ^ n) (hi : i < 32) :
    (x + 2 ^ 32 - 2 ^ n).testBit i = if i < n then x.testBit i else true := by
  have hpow : 2 ^ 32 = 2 ^ n * 2 ^ (32 - n) := by rw [← Nat.pow_add, Nat.add_sub_cancel' hn]
  have hpos : 0 < 2 ^ (32 - n) := Nat.two_pow_pos _
  have hones : x + 2 ^ 32 - 2 ^ n = 2 ^ n * (2 ^ (32 - n) - 1) + x := by
    rw [hpow, Nat.mul_sub, Nat.mul_one, Nat.add_comm, Nat.sub_add_comm (Nat.le_mul_of_pos_right _ hpos)]
  rw [hones, Nat.testBit_two_pow_mul_add _ hx, Nat.testBit_two_pow_sub_one]
  split
  case isTrue => rfl
  case isFalse hni => exact decide_eq_true (Nat.sub_lt_sub_right (not_lt.1 hni) hi)

/-- R133: a field is extended by its top bit where b[13] is set, else by zeros. -/
theorem getLsbD_fieldExtract {i : Nat} (hi : i < 32) :
    (fieldExtract a b).getLsbD i =
      if i < fieldLen b then a.getLsbD (b.toNat % 32 + i) else b.getLsbD 13 && a.getLsbD (b.toNat % 32 + fieldLen b - 1) := by
  have hn := fieldLen_pos b
  have hx : a.toNat / 2 ^ (b.toNat % 32) % 2 ^ fieldLen b < 2 ^ fieldLen b := Nat.mod_lt _ (Nat.two_pow_pos _)
  have htop : 2 ^ (fieldLen b - 1) ≤ a.toNat / 2 ^ (b.toNat % 32) % 2 ^ fieldLen b ↔
      a.getLsbD (b.toNat % 32 + fieldLen b - 1) = true := by
    rw [two_pow_le_iff_testBit hn hx, testBit_div_mod_two_pow, decide_eq_true (Nat.sub_lt hn Nat.one_pos), Bool.true_and,
      ← Nat.add_sub_assoc hn]
    rfl
  have hlow := testBit_div_mod_two_pow a.toNat (b.toNat % 32) (fieldLen b) i
  unfold fieldExtract
  simp only [htop, Bool.decide_eq_true]
  cases hsign : b.getLsbD 13 && a.getLsbD (b.toNat % 32 + fieldLen b - 1) with
  | true =>
    rw [if_pos rfl, BitVec.getLsbD_ofNat, decide_eq_true hi, Bool.true_and, testBit_add_ones (fieldLen_le b) hx hi, hlow]
    split
    case isTrue h => rw [decide_eq_true h, Bool.true_and, BitVec.testBit_toNat]
    case isFalse => rfl
  | false =>
    rw [if_neg Bool.false_ne_true, BitVec.getLsbD_ofNat, decide_eq_true hi, Bool.true_and, hlow]
    split
    case isTrue h => rw [decide_eq_true h, Bool.true_and, BitVec.testBit_toNat]
    case isFalse h => rw [decide_eq_false h, Bool.false_and]

/-- R133: the low bits placed in a clear word. -/
theorem getLsbD_fieldDeposit {i : Nat} (hi : i < 32) :
    (fieldDeposit a b).getLsbD i =
      (decide (b.toNat % 32 ≤ i) && decide (i < b.toNat % 32 + fieldLen b) && a.getLsbD (i - b.toNat % 32)) := by
  rw [fieldDeposit, BitVec.getLsbD_ofNat, decide_eq_true hi, Bool.true_and, Nat.testBit_mul_two_pow, Nat.testBit_mod_two_pow,
    BitVec.testBit_toNat, Bool.and_assoc]
  by_cases hpos : b.toNat % 32 ≤ i
  · rw [decide_eq_decide.2 (show i - b.toNat % 32 < fieldLen b ↔ i < b.toNat % 32 + fieldLen b by omega)]
  · rw [decide_eq_false hpos, Bool.false_and, Bool.false_and]

end

/-! ### Functions of one operand (R134) -/

/-- R53: a value that a register holds is not clamped. -/
theorem sat32_of_holds {x : Int} (hlow : -2 ^ 31 ≤ x) (hhigh : x < 2 ^ 31) : sat32 x = (BitVec.ofInt 32 x, false) := by
  have hclamp : clampInt (-2 ^ 31) (2 ^ 31 - 1) x = x := by
    rw [clampInt_eq]
    omega
  refine Prod.ext (congrArg (BitVec.ofInt 32) hclamp) ?_
  exact decide_eq_false (not_not_intro hclamp)

variable (a : W32)

/-- R134: a negation saturates at the one value whose opposite no register holds. -/
theorem sat32_neg : sat32 (-a.toInt) = if a.toInt = -2 ^ 31 then (0x7FFFFFFF, true) else (-a, false) := by
  have hlow : -2 ^ 31 ≤ a.toInt := a.le_toInt
  have hhigh : a.toInt < 2 ^ 31 := BitVec.toInt_lt
  split
  case isTrue h => rw [h]; rfl
  case isFalse h => rw [sat32_of_holds (by omega) (by omega), BitVec.ofInt_neg, BitVec.ofInt_toInt]

/-- R134: so does an absolute value. -/
theorem sat32_abs : sat32 (if a.toInt < 0 then -a.toInt else a.toInt) =
    if a.toInt = -2 ^ 31 then (0x7FFFFFFF, true) else (if a.toInt < 0 then -a else a, false) := by
  have hlow : -2 ^ 31 ≤ a.toInt := a.le_toInt
  have hhigh : a.toInt < 2 ^ 31 := BitVec.toInt_lt
  by_cases hneg : a.toInt < 0
  · rw [if_pos hneg, if_pos hneg]
    exact sat32_neg a
  · rw [if_neg hneg, if_neg hneg, if_neg (by omega), sat32_of_holds (by omega) hhigh, BitVec.ofInt_toInt]

theorem toNat_popCount : (BitVec.ofNat 32 (popCount a)).toNat = ((List.range 32).filter fun i => a.getLsbD i).length := by
  have hle : popCount a ≤ 32 := List.countP_le_length.trans List.length_range.le
  rw [BitVec.toNat_ofNat, Nat.mod_eq_of_lt (by omega)]
  exact List.countP_eq_length_filter

end Sys2Proof.Machine

open Sys2Proof Sys2Proof.Machine in
/-- Settles O19: bit by bit for the fields, code by code for `iun`. -/
theorem laneFieldsAndFunctions : Obligations.LaneFieldsAndFunctions := by
  refine ⟨fun a b i hi => ⟨getLsbD_fieldExtract a b hi, getLsbD_fieldDeposit a b hi⟩, fun a m l => ?_⟩
  have habs : laneUnary 2 false l a = (if a.toInt < 0 then -a else a, false) := by
    show (if a.msb then -a else a, false) = _
    simp only [BitVec.msb_eq_toInt, decide_eq_true_eq]
  refine ⟨rfl, rfl, sat32_neg a, habs, sat32_abs a, fun i hi => getLsbD_bitReverse a hi, toNat_popCount a, ?_, ?_, rfl, rfl, rfl, rfl⟩
  · rintro rfl
    rfl
  · intro n hn hone hzero
    have hclz : clz a = n := clz_of_highest hn hone hzero
    exact congrArg (fun c => (BitVec.ofNat 32 c, false)) hclz

end

section
/-! PROOFS. Barriers (R152 to R154): the words of a barrier and the completion of a phase. -/

namespace Sys2Proof.Machine

/-! ### The completion of a phase (R153) -/

/-- Every living group of a barrier's party has arrived. -/
def State.partyArrived (s : State) (team : Nat) (b : Barrier) : Prop :=
  ∀ m, m ∈ s.livingNums team → (s.descOf team).inParty b.party.toNat m = true → b.arrived.getLsbD m = true

section

variable (s : State) (team n : Nat)

theorem State.partyArrived_iff (b : Barrier) :
    (((s.livingNums team).filter ((s.descOf team).inParty b.party.toNat)).all fun m => b.arrived.getLsbD m) = true ↔
      s.partyArrived team b := by
  simp only [List.all_eq_true, List.mem_filter, and_imp, State.partyArrived]

/-- R153: the phase completes. -/
theorem State.settleBarrier_completes {b : Barrier} (hb : (s.team team).bars.get {} n = b) (hopen : b.isOpen = true)
    (hall : s.partyArrived team b) :
    s.settleBarrier team n = s.setTeam team
      ({ s.team team with bars := (s.team team).bars.put {} n { b with arrived := 0, isOpen := false, phase := b.phase + 1 } }.mapNoted
        fun m => crossNotes m (s.holders team n) n) := by
  unfold State.settleBarrier
  simp only [hb]
  rw [if_pos (by rw [hopen, (s.partyArrived_iff team b).2 hall]; rfl)]

/-- R153: until the party has arrived at an open phase nothing changes. -/
theorem State.settleBarrier_waits {b : Barrier} (hb : (s.team team).bars.get {} n = b)
    (h : b.isOpen = false ∨ ¬ s.partyArrived team b) : s.settleBarrier team n = s := by
  unfold State.settleBarrier
  simp only [hb]
  refine if_neg fun hdone => ?_
  obtain ⟨hopen, hall⟩ := (Bool.and_eq_true _ _).mp hdone
  exact h.elim (fun hc => Bool.noConfusion (hc.symm.trans hopen)) (· ((s.partyArrived_iff team b).1 hall))

theorem State.sameSteps_settleBarrier : s.SameSteps (s.settleBarrier team n) := by
  unfold State.settleBarrier
  dsimp only
  split
  · exact s.sameSteps_setTeam _ _
  · exact .refl s

theorem State.settleBarrier_cmds : (s.settleBarrier team n).cmds = s.cmds := by
  unfold State.settleBarrier
  dsimp only
  split <;> rfl

end

/-! ### The words -/

/-- R153: the group is held at a barrier. -/
def State.holdAt (s : State) (g n : Nat) : State := s.setGroup g { s.group g with barHold := some n }

theorem State.sameSteps_holdAt (s : State) (g n : Nat) : s.SameSteps (s.holdAt g n) := s.sameSteps_setGroup rfl

/-- R153: the barrier once a group has arrived at its phase, which its arrival opens where it is closed. -/
def Barrier.joined (b : Barrier) (y : BitVec 2) (m : Nat) : Barrier :=
  { b with isOpen := true, party := if b.isOpen then b.party else y, arrived := b.arrived ||| BitVec.ofNat 16 (2 ^ m) }

/-- R153: a phase that a group of a party may open or join. -/
theorem Barrier.joins {b : Barrier} {y : BitVec 2} (h : b.isOpen = false ∨ b.party = y) : (b.isOpen && b.party != y) = false := by
  rcases h with h | h <;> simp [h]

/-- R153, R154: group number m of a team arrives at barrier n with the party y. -/
def State.arriveAt (s : State) (team : Nat) (tm : Team) (m n : Nat) (y : BitVec 2) : State :=
  (s.setTeam team { tm.mapNoted fun c => publishNotes c m n with
    bars := tm.bars.put {} n ((tm.bars.get {} n).joined y m) }).settleBarrier team n

section

variable {s u : State} {g k : Nat} {t : Bool} {y kd : BitVec 2} {n : BitVec 4} {x : Group} {tm : Team} {b : Barrier}
  (hc : s.cur = .gang g k) (hb : s.begins (.bar t y kd n) = true) (hu : s.unheld = u) (hx : u.group g = x)
include hc hb hu hx

/-- R154: a gang that does not hold every slice of its group. -/
theorem execBar_parted (hwhole : x.whole k = false) :
    exec (.bar t y kd n) s = .next (s.trapped (.bar t y kd n) (Trap.convergence 4)) := by
  refine show execBar t y kd n s = _ from issue_traps hb ?_
  simp only [hc, hu, hx, hwhole, Bool.not_false, if_true]

variable (hwhole : x.whole k = true)
include hwhole

/-- R153: a group outside the party. -/
theorem execBar_outsider (hparty : (u.descOf x.team).inParty y.toNat x.num = false) :
    exec (.bar t y kd n) s = .next (s.trapped (.bar t y kd n) (Trap.barrierMisuse 1 n.toNat)) := by
  refine show execBar t y kd n s = _ from issue_traps hb ?_
  simp only [hc, hu, hx, hwhole, hparty, Bool.not_true, Bool.not_false, Bool.false_eq_true, if_false, if_true]

variable (hparty : (u.descOf x.team).inParty y.toNat x.num = true) (htm : u.team x.team = tm)
  (hbar : tm.bars.get {} n.toNat = b)
include hparty htm hbar

/-- R153: `hold`. -/
theorem execBar_hold (hkd : kd = 2) :
    exec (.bar t y kd n) s = .next (s.after ((u.setTeam x.team
      (if b.arrived.getLsbD x.num then tm else tm.mapNoted fun m => holdNotes m x.num n.toNat)).holdAt g n.toNat)) := by
  subst hu hkd
  refine show execBar t y 2 n s = _ from issue_plain hb ?_ ?_ rfl
  · simp only [hc, hx, hwhole, hparty, htm, hbar, Bool.not_true, Bool.false_eq_true, if_false, if_true]
    rfl
  · exact ((State.sameSteps_setTeam _ _ _).trans (State.sameSteps_holdAt _ _ _)).stepped _

section

variable (hkd : kd ≠ 2)
include hkd

/-- R153: a group whose bit stands waits for the end of the phase. -/
theorem execBar_arrived (harr : b.arrived.getLsbD x.num = true) : exec (.bar t y kd n) s = .next (s.stay u) := by
  refine show execBar t y kd n s = _ from issue_waits hb ?_
  simp only [hc, hu, hx, hwhole, hparty, htm, hbar, harr, if_neg hkd, Bool.not_true, Bool.false_eq_true, if_false, if_true]

variable (harr : b.arrived.getLsbD x.num = false)
include harr

/-- R153: an open phase of another party. -/
theorem execBar_otherParty (hopen : b.isOpen = true) (hother : b.party ≠ y) :
    exec (.bar t y kd n) s = .next (s.trapped (.bar t y kd n) (Trap.barrierMisuse 2 n.toNat)) := by
  refine show execBar t y kd n s = _ from issue_traps hb ?_
  simp only [hc, hu, hx, hwhole, hparty, htm, hbar, harr, hopen, if_neg hkd, bne_iff_ne.2 hother, Bool.and_self, Bool.not_true,
    Bool.false_eq_true, if_false, if_true]

variable (hjoin : b.isOpen = false ∨ b.party = y)
include hjoin

/-- R154: the arrival is a release, which waits for the group's earlier accesses. -/
theorem execBar_pending (hpend : u.pendingAny s.cur 1 = true) : exec (.bar t y kd n) s = .next (s.stay u) := by
  rw [hc] at hpend
  refine show execBar t y kd n s = _ from issue_waits hb ?_
  simp only [hc, hu, hx, hwhole, hparty, htm, hbar, harr, Barrier.joins hjoin, hpend, if_neg hkd, Bool.not_true,
    Bool.false_eq_true, if_false, if_true]

/-- R153: `board` and `cross` arrive, and `cross` holds the group. -/
theorem execBar_arrives (hpend : u.pendingAny s.cur 1 = false) :
    exec (.bar t y kd n) s = .next (s.after ((if kd = 1 then u else u.holdAt g n.toNat).arriveAt x.team tm x.num n.toNat y)) := by
  subst hu hx hbar
  rw [hc] at hpend
  have hheld : s.unheld.SameSteps (if kd = 1 then s.unheld else s.unheld.holdAt g n.toNat) := by
    split
    · exact .refl _
    · exact s.unheld.sameSteps_holdAt _ _
  have hheldCmds : (if kd = 1 then s.unheld else s.unheld.holdAt g n.toNat).cmds = s.unheld.cmds := by
    split <;> rfl
  refine show execBar t y kd n s = _ from issue_plain hb ?_ ?_ ?_
  · simp only [hc, hwhole, hparty, htm, harr, Barrier.joins hjoin, hpend, if_neg hkd, Bool.not_true,
      Bool.false_eq_true, if_false]
    rfl
  · exact (hheld.trans ((State.sameSteps_setTeam _ _ _).trans (State.sameSteps_settleBarrier _ _ _))).stepped _
  · exact (State.settleBarrier_cmds _ _ _).trans hheldCmds

end

end

end Sys2Proof.Machine

open Sys2Proof Sys2Proof.Machine in
/-- Settles O25: the word check by check, and the end of a phase. -/
theorem barriers : Obligations.Barriers := by
  refine ⟨fun s g k t y kd n hc hb => ?_, fun s team n => ?_⟩
  · intro u
    refine ⟨execBar_parted hc hb rfl rfl, fun hwhole => ?_⟩
    intro x tm b held b1 arrive
    refine ⟨execBar_outsider hc hb rfl rfl hwhole, fun hparty => ⟨execBar_hold hc hb rfl rfl hwhole hparty rfl rfl, ?_, ?_, ?_⟩⟩
    · rintro hkd (harr | ⟨hjoin, hpend⟩)
      · exact execBar_arrived hc hb rfl rfl hwhole hparty rfl rfl hkd harr
      · cases harr : b.arrived.getLsbD x.num with
        | true => exact execBar_arrived hc hb rfl rfl hwhole hparty rfl rfl hkd harr
        | false => exact execBar_pending hc hb rfl rfl hwhole hparty rfl rfl hkd harr hjoin hpend
    · exact execBar_otherParty hc hb rfl rfl hwhole hparty rfl rfl
    · exact execBar_arrives hc hb rfl rfl hwhole hparty rfl rfl
  · intro b t all
    refine ⟨fun hopen hall => ?_, State.settleBarrier_waits s team n rfl⟩
    have ht : t = _ := State.settleBarrier_completes s team n rfl hopen hall
    rw [ht, State.team_setTeam]
    exact ⟨Tbl.get_put_self _ _ _ _, fun m hm => Tbl.get_put_ne _ _ _ hm, rfl⟩

end

section
/-! PROOFS. Results that fill later (R130, R140): a cross-lane word issues with its destination empty, and its request fills it. -/

namespace Sys2Proof.Machine

/-! ### Words that issue -/

theorem State.pushResult_stepped (s : State) (t : ThreadId) (d : Dest) (vals : Tbl W64) :
    (s.pushResult t d vals).stepped t = s.stepped t := by
  cases t with
  | gang g k => exact s.pushReq_stepped g k _
  | _ => rfl

theorem State.pushResult_cmds (s : State) (t : ThreadId) (d : Dest) (vals : Tbl W64) : (s.pushResult t d vals).cmds = s.cmds := by
  cases t <;> rfl

section

variable {s : State} {i : Instr} {body : ThreadId → State → Did} (hb : s.begins i = true)
include hb

/-- R130: a cross-lane word. -/
theorem issue_pushResult {d : Dest} {vals : Tbl W64} (hd : body s.cur s.unheld = .done (s.unheld.pushResult s.cur d vals)) :
    issue i s body = .next (s.after (s.unheld.pushResult s.cur d vals)) :=
  issue_plain hb hd (State.pushResult_stepped _ _ _ _) (State.pushResult_cmds _ _ _ _)

/-- R141: a shuffle whose source lane is `src l`, where there is one. -/
theorem issue_shuffle {p : Pick} {d a b : BitVec 7} {bs : BitVec 2} {ok : Nat → Bool} {src : Nat → Nat}
    (hd : body s.cur s.unheld = .done (s.unheld.shuffle s.cur p d a b bs))
    (hsrc : ∀ l, p.source l (s.unheld.laneOperand s.cur b bs l) = if ok l then some (src l) else none) :
    issue i s body = .next (s.after (s.unheld.crossLanes s.cur d fun l =>
      if ok l && (s.active s.cur).contains (src l) then s.unheld.laneReg s.cur a.toNat (src l) else s.unheld.laneReg s.cur d.toNat l)) := by
  have hshuffle : s.unheld.shuffle s.cur p d a b bs = s.unheld.crossLanes s.cur d fun l =>
      if ok l && (s.active s.cur).contains (src l) then s.unheld.laneReg s.cur a.toNat (src l)
      else s.unheld.laneReg s.cur d.toNat l := by
    refine congrArg (s.unheld.crossLanes s.cur d) (funext fun l => ?_)
    rw [hsrc l, State.unheld_active]
    cases ok l <;> rfl
  rw [hshuffle] at hd
  exact issue_pushResult hb hd

/-- R143, R144: a fold traps with every participant where it raises an enabled exception, and else issues. -/
theorem issue_fold {fl : Flags} {d : Dest} {vals : Tbl W64}
    (hd : body s.cur s.unheld = if (s.unheld.uni s.cur).enabled fl then .trap (s.unheld.foldTrap s.cur fl)
      else .done ((s.unheld.pushResult s.cur d vals).raiseFlags s.cur fl)) :
    issue i s body = .next (if ((fl.toNat % 32) &&& ((s.uni s.cur).fpctl.toNat / 2 ^ 4 % 32)) ≠ 0
      then s.trapped i { kind := 0x08, fpx := fl.toNat % 32, lanes := laneMask (s.active s.cur) }
      else s.after ((s.unheld.pushResult s.cur d vals).raiseFlags s.cur fl)) := by
  rw [← State.unheld_active]
  refine issue_enabled hb hd ?_ ?_ ?_
  · exact (Uni.enabled_iff _ _).trans (by rw [Nat.and_comm]; rfl)
  · exact (State.raiseFlags_stepped _ _ _).trans (State.pushResult_stepped _ _ _ _)
  · exact (State.raiseFlags_cmds _ _ _).trans (State.pushResult_cmds _ _ _ _)

end

/-! ### Destinations -/

section

variable (s : State) (g k : Nat) (d : Dest) (vals : Tbl W64)

/-- The request of a cross-lane word. -/
def State.resultReq : Req :=
  { group := g, gang := k, dst := d, todo := [], op := none, ord := 0, got := vals, slices := (s.group g).sliceMask k }

theorem State.find?_reqs_pushResult :
    (s.pushResult (.gang g k) d vals).reqs.find? s.nextId = some (s.resultReq g k d vals) :=
  Tbl.find?_insert_self _ _ _

theorem State.group_pushResult : (s.pushResult (.gang g k) d vals).group g = (s.group g).emptyDest d :=
  State.group_setGroup _ _ _

end

section

variable (x : Group)

theorem Group.getV_emptyDest (d : Dest) (r l : Nat) : (x.emptyDest d).getV r l = x.getV r l := by
  rw [x.emptyDest_eq d]
  rfl

variable {r : Req} {ls : List Nat} {f : Nat → W64} (hgot : r.got = ls.map fun l => (l, f l))
include hgot

theorem Group.fillV_eq (n sh : Nat) :
    ∃ vp, x.fillV r n sh = { x.putLanes n (ls.map fun l => (l, ((f l) >>> sh).setWidth 32)) with
      vEmpty := setBit x.vEmpty n false, vPoison := vp } := by
  have hput : r.got.foldl (fun y e => y.putV n e.1 ((e.2 >>> sh).setWidth 32)) x =
      x.putLanes n (ls.map fun l => (l, ((f l) >>> sh).setWidth 32)) := by
    rw [hgot, Group.putLanes, List.foldl_map, List.foldl_map]
  obtain ⟨v, vo, vp, hrest⟩ := x.putLanes_eq n (ls.map fun l => (l, ((f l) >>> sh).setWidth 32))
  have hempty : (x.putLanes n (ls.map fun l => (l, ((f l) >>> sh).setWidth 32))).vEmpty = x.vEmpty := by rw [hrest]
  unfold Group.fillV
  simp only [hput, hempty]
  exact ⟨_, rfl⟩

/-- R130, R220: a register takes the data of the lanes that the request names. -/
theorem Group.getV_fillV (hls : ∀ l, l ∈ ls → l < 32) (n sh j : Nat) {l : Nat} (hl : l < 32) :
    (x.fillV r n sh).getV j l = if j = n ∧ l ∈ ls then ((f l) >>> sh).setWidth 32 else x.getV j l := by
  obtain ⟨vp, h⟩ := x.fillV_eq hgot n sh
  rw [h]
  exact x.getV_putLanes n (fun l => ((f l) >>> sh).setWidth 32) hls j hl

/-- R130, R220: and is full. -/
theorem Group.getLsbD_vEmpty_fillV (n sh : Nat) {j : Nat} (hj : j < 128) :
    (x.fillV r n sh).vEmpty.getLsbD j = if j = n then false else x.vEmpty.getLsbD j := by
  obtain ⟨vp, h⟩ := x.fillV_eq hgot n sh
  rw [h]
  exact getLsbD_setBit _ _ _ _ hj

end

theorem State.mem_active_lt {s : State} {t : ThreadId} {l : Nat} (h : l ∈ s.active t) : l < 32 := by
  cases t with
  | gang g k => exact Group.mem_lanes_lt h
  | _ => exact absurd h List.not_mem_nil

/-- What a doubleword of two values holds. -/
theorem low_append (h f : W32) : ((h ++ f) >>> 0).setWidth 32 = f := by
  rw [BitVec.ushiftRight_zero]
  exact BitVec.setWidth_append_eq_right

theorem high_append (h f : W32) : ((h ++ f) >>> 32).setWidth 32 = h := by
  refine BitVec.eq_of_getLsbD_eq fun i hi => ?_
  rw [BitVec.getLsbD_setWidth, decide_eq_true hi, Bool.true_and, BitVec.getLsbD_ushiftRight, BitVec.getLsbD_append,
    if_neg (Nat.not_lt.2 (Nat.le_add_right _ _)), Nat.add_sub_cancel_left]

/-- R142, R143: the uniform register of a vote or a fold. -/
theorem State.fills_crossUni (s : State) (g k : Nat) {e : BitVec 6} (he : e ≠ 0) (x : W64) :
    let y := ((s.crossUni (.gang g k) e.toNat x).group g).fillDest (s.resultReq g k (.w e.toNat) [(0, x)])
    ((s.crossUni (.gang g k) e.toNat x).group g).uni.empty.getLsbD e.toNat = true ∧ y.uni.empty.getLsbD e.toNat = false ∧
      y.uni.getW e.toNat = x := by
  have hne : e.toNat ≠ 0 := mt (BitVec.eq_of_toNat_eq (y := 0)) he
  rw [State.crossUni, State.group_pushResult]
  refine ⟨?_, ?_, ?_⟩
  · exact (Uni.empty_emptyW _ _ e.isLt).trans (by simp [hne])
  · exact (Uni.empty_putW _ _ _ _ e.isLt).trans (if_pos ⟨rfl, hne⟩)
  · exact (Uni.getW_putW _ _ _ _ hne).trans (if_pos rfl)

section

variable (s : State) (g k : Nat) {l : Nat} (hl : l < 32)
include hl

/-- R130: the lane register of a cross-lane word. -/
theorem State.fills_crossLanes (d : BitVec 7) (f : Nat → W32) :
    let y := ((s.crossLanes (.gang g k) d f).group g).fillDest
      (s.resultReq g k (.v d.toNat false) (s.byLane (.gang g k) fun l => (f l).setWidth 64))
    ((s.crossLanes (.gang g k) d f).group g).vEmpty.getLsbD d.toNat = true ∧ y.vEmpty.getLsbD d.toNat = false ∧
      y.getV d.toNat l = if l ∈ s.active (.gang g k) then f l else (s.group g).getV d.toNat l := by
  have hgot : (s.resultReq g k (.v d.toNat false) (s.byLane (.gang g k) fun l => (f l).setWidth 64)).got =
    (s.active (.gang g k)).map fun l => (l, (f l).setWidth 64) := rfl
  rw [State.crossLanes, State.group_pushResult]
  refine ⟨?_, ?_, ?_⟩
  · exact (getLsbD_setBit _ _ _ _ d.isLt).trans (if_pos rfl)
  · exact (Group.getLsbD_vEmpty_fillV _ hgot _ _ d.isLt).trans (if_pos rfl)
  · refine (Group.getV_fillV _ hgot (fun _ => State.mem_active_lt) d.toNat 0 d.toNat hl).trans ?_
    rw [Group.getV_emptyDest, BitVec.ushiftRight_zero, BitVec.setWidth_setWidth_of_le _ (by decide), BitVec.setWidth_eq]
    exact if_congr (and_iff_right rfl) rfl rfl

/-- R145: the two lane registers of a compare-exchange. -/
theorem State.fills_two {d a : BitVec 7} (hda : d ≠ a) (f h : Nat → W32) :
    let both := s.pushResult (.gang g k) (.two d.toNat a.toNat) (s.byLane (.gang g k) fun i => h i ++ f i)
    let r := s.resultReq g k (.two d.toNat a.toNat) (s.byLane (.gang g k) fun i => h i ++ f i)
    let y := (both.group g).fillDest r
    (both.group g).vEmpty.getLsbD d.toNat = true ∧ (both.group g).vEmpty.getLsbD a.toNat = true ∧
      y.vEmpty.getLsbD d.toNat = false ∧ y.vEmpty.getLsbD a.toNat = false ∧
      y.getV d.toNat l = (if l ∈ s.active (.gang g k) then f l else (s.group g).getV d.toNat l) ∧
      y.getV a.toNat l = if l ∈ s.active (.gang g k) then h l else (s.group g).getV a.toNat l := by
  intro both r y
  have hne : d.toNat ≠ a.toNat := mt BitVec.eq_of_toNat_eq hda
  have hgot : r.got = (s.active (.gang g k)).map fun l => (l, h l ++ f l) := rfl
  have hget := fun x n sh j => Group.getV_fillV x hgot (fun _ => State.mem_active_lt) n sh j hl
  have hempty := fun x n sh (j : BitVec 7) => Group.getLsbD_vEmpty_fillV x hgot n sh j.isLt
  have hy : y = (((s.group g).emptyDest (.two d.toNat a.toNat)).fillV r d.toNat 0).fillV r a.toNat 32 :=
    congrArg (Group.fillDest · r) (State.group_pushResult _ _ _ _ _)
  have hboth : both.group g = ((s.group g).emptyV d.toNat).emptyV a.toNat := State.group_pushResult _ _ _ _ _
  rw [hy, hboth]
  refine ⟨?_, ?_, ?_, ?_, ?_, ?_⟩
  · simp [Group.emptyV, getLsbD_setBit _ _ _ _ d.isLt]
  · simp [Group.emptyV, getLsbD_setBit _ _ _ _ a.isLt]
  · rw [hempty, hempty, if_pos rfl, ite_self]
  · rw [hempty, if_pos rfl]
  · rw [hget, if_neg (fun h => hne h.1), hget, Group.getV_emptyDest, low_append]
    exact if_congr (and_iff_right rfl) rfl rfl
  · rw [hget, hget, Group.getV_emptyDest, high_append, if_neg (c := a.toNat = d.toNat ∧ _) fun h => hne h.1.symm]
    exact if_congr (and_iff_right rfl) rfl rfl

end

end Sys2Proof.Machine
end

section
/-! PROOFS. Votes (R142). -/

namespace Sys2Proof.Machine

theorem getLsbD_laneMask (ls : List Nat) {l : Nat} (hl : l < 32) : (laneMask ls).getLsbD l = true ↔ l ∈ ls := by
  have fold : ∀ (ls : List Nat) (m : W32), (ls.foldl (fun m l => setBit m l true) m).getLsbD l = true ↔ m.getLsbD l = true ∨ l ∈ ls := by
    intro ls
    induction ls with
    | nil => simp
    | cons n ls ih =>
      intro m
      rw [List.foldl_cons, ih, getLsbD_setBit _ _ _ _ hl, List.mem_cons]
      by_cases h : l = n <;> simp [h]
  rw [laneMask, fold]
  simp

/-- A vote that answers a test with 1 or 0. -/
theorem vote_of_iff {b : Bool} {p : Prop} (h : b = true ↔ p) :
    (p → (if b then 1 else 0 : W64) = 1) ∧ (¬ p → (if b then 1 else 0 : W64) = 0) :=
  ⟨fun hp => if_pos (h.2 hp), fun hp => if_neg (mt h.1 hp)⟩

section

variable (s : State) (t : ThreadId) (a : Nat) (inv : Bool)

/-- R142: any participant. -/
theorem State.voteValue_any :
    ((∃ l, l ∈ s.active t ∧ s.lanePred t a l ≠ inv) → s.voteValue t a 0 inv = 1) ∧
      (¬ (∃ l, l ∈ s.active t ∧ s.lanePred t a l ≠ inv) → s.voteValue t a 0 inv = 0) :=
  vote_of_iff (b := (s.active t).any fun l => s.lanePred t a l != inv) (by simp only [List.any_eq_true, bne_iff_ne])

/-- R142: all participants. -/
theorem State.voteValue_all :
    ((∀ l, l ∈ s.active t → s.lanePred t a l ≠ inv) → s.voteValue t a 1 inv = 1) ∧
      (¬ (∀ l, l ∈ s.active t → s.lanePred t a l ≠ inv) → s.voteValue t a 1 inv = 0) :=
  vote_of_iff (b := (s.active t).all fun l => s.lanePred t a l != inv) (by simp only [List.all_eq_true, bne_iff_ne])

/-- R142: the mask of those that hold, and above it that of the participants. -/
theorem State.getLsbD_voteValue {l : Nat} (hl : l < 32) :
    ((s.voteValue t a 2 inv).getLsbD l = true ↔ l ∈ s.active t ∧ s.lanePred t a l ≠ inv) ∧
      ((s.voteValue t a 2 inv).getLsbD (32 + l) = true ↔ l ∈ s.active t) := by
  have hballot : s.voteValue t a 2 inv =
      laneMask (s.active t) ++ laneMask ((s.active t).filter fun l => s.lanePred t a l != inv) := rfl
  rw [hballot, BitVec.getLsbD_append, if_pos hl, BitVec.getLsbD_append, if_neg (by omega), Nat.add_sub_cancel_left,
    getLsbD_laneMask _ hl, getLsbD_laneMask _ hl, List.mem_filter, bne_iff_ne]
  exact ⟨Iff.rfl, Iff.rfl⟩

/-- All of some lanes hold what the first of them holds exactly when any two of them hold the same. -/
theorem all_eq_first_iff (v : Nat → W32) (l : Nat) (rest : List Nat) :
    (rest.all fun n => v n == v l) = true ↔ ∀ m n, m ∈ l :: rest → n ∈ l :: rest → v m = v n := by
  simp only [List.all_eq_true, beq_iff_eq]
  constructor
  · intro h
    have hfirst : ∀ m, m ∈ l :: rest → v m = v l := fun m hm => (List.mem_cons.1 hm).elim (fun he => by rw [he]) (h m)
    exact fun m n hm hn => (hfirst m hm).trans (hfirst n hn).symm
  · exact fun h n hn => h n l (List.mem_cons_of_mem _ hn) List.mem_cons_self

/-- R142: all participants hold one value, as no participant does. -/
theorem State.voteValue_uni :
    ((∀ l n, l ∈ s.active t → n ∈ s.active t → s.laneReg t a l = s.laneReg t a n) → s.voteValue t a 3 inv = 1) ∧
      (¬ (∀ l n, l ∈ s.active t → n ∈ s.active t → s.laneReg t a l = s.laneReg t a n) → s.voteValue t a 3 inv = 0) := by
  unfold State.voteValue
  dsimp only
  cases hls : s.active t with
  | nil => exact ⟨fun _ => rfl, fun h => absurd (fun l n hl => absurd hl List.not_mem_nil) h⟩
  | cons l rest => exact vote_of_iff (all_eq_first_iff (s.laneReg t a) l rest)

end

end Sys2Proof.Machine
end

section
/-! PROOFS. Folds and scans (R119, R143, R144): the tree and the five steps as functions of the lane, and what they come to where the
operation is associative. -/

namespace Sys2Proof.Machine

/-! ### Operations (R119) -/

theorem toInt_pickMin (x y : W32) : (pickMin false x y).toInt = min x.toInt y.toInt := by
  rcases min_choice x.toInt y.toInt with h | h
  · simp [pickMin_eq, h]
  · simp [pickMin_eq, h]

theorem toInt_pickMax (x y : W32) : (pickMax false x y).toInt = max x.toInt y.toInt := by
  rcases max_choice x.toInt y.toInt with h | h
  · simp [pickMax_eq, h]
  · simp [pickMax_eq, h]

theorem toNat_pickMin (x y : W32) : (pickMin true x y).toNat = min x.toNat y.toNat := by
  rcases min_choice x.toNat y.toNat with h | h
  · simp [pickMin_eq, h]
  · simp [pickMin_eq, h]

theorem toNat_pickMax (x y : W32) : (pickMax true x y).toNat = max x.toNat y.toNat := by
  rcases max_choice x.toNat y.toNat with h | h
  · simp [pickMax_eq, h]
  · simp [pickMax_eq, h]

/-- The value of an operation (R143). -/
def foldFn (code : Nat) (ftz : Bool) (x y : W32) : W32 := (foldOp code ftz x y).1

section

variable {code : Nat} (hcode : code < 8) (ftz : Bool)
include hcode

/-- An operation on integers has no use for FTZ. -/
theorem foldFn_eq_false : foldFn code ftz = foldFn code false := by
  match code, hcode with
  | 0, _ | 1, _ | 2, _ | 3, _ | 4, _ | 5, _ | 6, _ | 7, _ => rfl

theorem foldFn_assoc (x y z : W32) : foldFn code ftz (foldFn code ftz x y) z = foldFn code ftz x (foldFn code ftz y z) := by
  match code, hcode with
  | 0, _ => exact BitVec.add_assoc x y z
  | 1, _ => exact BitVec.eq_of_toInt_eq (by simp only [foldFn, foldOp, toInt_pickMin, min_assoc])
  | 2, _ => exact BitVec.eq_of_toInt_eq (by simp only [foldFn, foldOp, toInt_pickMax, max_assoc])
  | 3, _ => exact BitVec.eq_of_toNat_eq (by simp only [foldFn, foldOp, toNat_pickMin, min_assoc])
  | 4, _ => exact BitVec.eq_of_toNat_eq (by simp only [foldFn, foldOp, toNat_pickMax, max_assoc])
  | 5, _ => exact BitVec.and_assoc x y z
  | 6, _ => exact BitVec.or_assoc x y z
  | 7, _ => exact BitVec.xor_assoc x y z

theorem foldFn_comm (x y : W32) : foldFn code ftz x y = foldFn code ftz y x := by
  match code, hcode with
  | 0, _ => exact BitVec.add_comm x y
  | 1, _ => exact BitVec.eq_of_toInt_eq (by simp only [foldFn, foldOp, toInt_pickMin, min_comm])
  | 2, _ => exact BitVec.eq_of_toInt_eq (by simp only [foldFn, foldOp, toInt_pickMax, max_comm])
  | 3, _ => exact BitVec.eq_of_toNat_eq (by simp only [foldFn, foldOp, toNat_pickMin, min_comm])
  | 4, _ => exact BitVec.eq_of_toNat_eq (by simp only [foldFn, foldOp, toNat_pickMax, max_comm])
  | 5, _ => exact BitVec.and_comm x y
  | 6, _ => exact BitVec.or_comm x y
  | 7, _ => exact BitVec.xor_comm x y

theorem foldFn_id_left (x : W32) : foldFn code ftz (foldId code) x = x := by
  have hlow : -2 ^ 31 ≤ x.toInt := x.le_toInt
  have hhigh : x.toInt < 2 ^ 31 := BitVec.toInt_lt
  have hnat : x.toNat < 2 ^ 32 := x.isLt
  match code, hcode with
  | 0, _ => exact BitVec.zero_add x
  | 1, _ =>
    refine BitVec.eq_of_toInt_eq ((toInt_pickMin _ _).trans (min_eq_right ?_))
    rw [show (foldId 1).toInt = 2 ^ 31 - 1 from rfl]
    omega
  | 2, _ =>
    refine BitVec.eq_of_toInt_eq ((toInt_pickMax _ _).trans (max_eq_right ?_))
    rwa [show (foldId 2).toInt = -2 ^ 31 from rfl]
  | 3, _ =>
    refine BitVec.eq_of_toNat_eq ((toNat_pickMin _ _).trans (min_eq_right ?_))
    rw [show (foldId 3).toNat = 2 ^ 32 - 1 from rfl]
    omega
  | 4, _ => exact BitVec.eq_of_toNat_eq ((toNat_pickMax _ _).trans (max_eq_right (Nat.zero_le _)))
  | 5, _ => exact BitVec.allOnes_and
  | 6, _ => exact BitVec.zero_or
  | 7, _ => exact BitVec.zero_xor

theorem foldFn_id_right (x : W32) : foldFn code ftz x (foldId code) = x :=
  (foldFn_comm hcode ftz x _).trans (foldFn_id_left hcode ftz x)

end

/-! ### Values by lane -/

/-- The values of the 32 lanes. -/
def laneList (x : Nat → W32) : List W32 := (List.range 32).map x

theorem getD_laneList (x : Nat → W32) {l : Nat} (hl : l < 32) : (laneList x).getD l 0 = x l := by
  simp [laneList, List.getD, hl]

theorem laneList_getD {x : List W32} (hx : x.length = 32) : laneList (fun l => x.getD l 0) = x := by
  refine List.ext_getElem (by simp [laneList, hx]) fun l h1 h2 => ?_
  simp [laneList, List.getD, h2]

/-! ### The tree (R143) -/

/-- R143: one level of the tree by lane: a lane whose number is a multiple of 2n takes its own value and that of lane l + n. -/
def treeStep (op : W32 → W32 → W32) (n : Nat) (x : Nat → W32) : Nat → W32 := fun l =>
  if l % (2 * n) = 0 then op (x l) (x (l + n)) else x l

/-- The levels of the tree from the distance n on. -/
def treeSteps (op : W32 → W32 → W32) : Nat → Nat → (Nat → W32) → Nat → W32
  | 0, _, x => x
  | k + 1, n, x => treeSteps op k (2 * n) (treeStep op n x)

section

variable (code : Nat) (ftz : Bool)

theorem foldLevel_range (m : Nat) (f : Nat → W32) :
    (foldLevel code ftz ((List.range (2 * m)).map f)).1 =
      (List.range m).map fun i => foldFn code ftz (f (2 * i)) (f (2 * i + 1)) := by
  induction m generalizing f with
  | zero => rfl
  | succ m ih =>
    rw [show 2 * (m + 1) = 2 * m + 1 + 1 from rfl, List.range_succ_eq_map, List.range_succ_eq_map, List.range_succ_eq_map]
    simp only [List.map_cons, List.map_map, foldLevel]
    exact congrArg (List.cons _) (ih fun i => f (i + 2))

/-- The values of the lanes at distance n, folded: those at distance 2n. -/
theorem foldLevel_lanes (m n : Nat) (x : Nat → W32) :
    (foldLevel code ftz ((List.range (2 * m)).map fun i => x (i * n))).1 =
      (List.range m).map fun i => treeStep (foldFn code ftz) n x (i * (2 * n)) := by
  rw [foldLevel_range]
  refine List.map_congr_left fun i _ => ?_
  rw [treeStep, if_pos (Nat.mul_mod_left _ _), show 2 * i * n = i * (2 * n) by ring, show (2 * i + 1) * n = i * (2 * n) + n by ring]

theorem foldTree_lanes (k n : Nat) (x : Nat → W32) (fl : Flags) :
    (foldTree code ftz k ((List.range (2 ^ k)).map fun i => x (i * n), fl)).1 =
      [treeSteps (foldFn code ftz) k n x 0] := by
  induction k generalizing n x fl with
  | zero => simp [foldTree, treeSteps]
  | succ k ih =>
    rw [Nat.pow_succ', foldTree, treeSteps]
    dsimp only
    rw [foldLevel_lanes, ih]

end

section

variable (s : State) (t : ThreadId) (a code : Nat)

/-- What a fold takes of a lane: its register, or the identity where it is not active. -/
def State.laneInput (l : Nat) : W32 := if l ∈ s.active t then s.laneReg t a l else foldId code

theorem State.foldInput_eq : s.foldInput t a code = laneList (s.laneInput t a code) := by
  simp only [State.foldInput, List.contains_iff_mem]
  rfl

/-- R143: the tree of the rule leaves one value. -/
theorem State.foldTree_foldInput (ftz : Bool) :
    (foldTree code ftz 5 (s.foldInput t a code, 0)).1 = [treeSteps (foldFn code ftz) 5 1 (s.laneInput t a code) 0] := by
  have hlanes : s.foldInput t a code = (List.range (2 ^ 5)).map fun i => s.laneInput t a code (i * 1) := by
    rw [State.foldInput_eq]
    simp only [Nat.mul_one]
    rfl
  rw [hlanes, foldTree_lanes]

theorem State.reduxValue_eq_treeSteps :
    (s.reduxValue t a code).1 = treeSteps (foldFn code (s.uni t).ftz) 5 1 (s.laneInput t a code) 0 := by
  rw [State.reduxValue, State.foldTree_foldInput]
  rfl

end

/-! ### The five steps of a scan (R144) -/

/-- R144: one step of a scan by lane. -/
def prefixStep (op : W32 → W32 → W32) (x : Nat → W32) (n : Nat) : Nat → W32 := fun l => if n ≤ l then op (x (l - n)) (x l) else x l

section

variable (code : Nat) (ftz : Bool)

theorem scanStep_laneList (n : Nat) (x : Nat → W32) :
    (scanStep code ftz n (laneList x)).1 = laneList (prefixStep (foldFn code ftz) x n) := by
  rw [scanStep]
  dsimp only
  rw [List.map_map]
  refine List.map_congr_left fun l hl => ?_
  have hl : l < 32 := List.mem_range.1 hl
  have hlow : l - n < 32 := by omega
  simp only [Function.comp_apply, prefixStep, getD_laneList x hl, getD_laneList x hlow]
  split <;> rfl

theorem foldl_scanStep (ns : List Nat) (x : Nat → W32) (fl : Flags) :
    (ns.foldl (fun acc n =>
      let y := scanStep code ftz n acc.1
      (y.1, acc.2 ||| y.2)) (laneList x, fl)).1 = laneList (ns.foldl (prefixStep (foldFn code ftz)) x) := by
  induction ns generalizing x fl with
  | nil => rfl
  | cons n ns ih =>
    rw [List.foldl_cons, List.foldl_cons]
    dsimp only
    rw [scanStep_laneList, ih]

/-- R144: a scan, inclusive or exclusive. -/
theorem getD_scanValues (ex : Bool) (x : Nat → W32) {l : Nat} (hl : l < 32) :
    let pre := [1, 2, 4, 8, 16].foldl (prefixStep (foldFn code ftz)) x
    (scanValues code ftz ex (laneList x)).1.getD l 0 = if ex then (if l = 0 then foldId code else pre (l - 1)) else pre l := by
  intro pre
  have hsteps : (scanValues code ftz ex (laneList x)).1 =
      if ex then foldId code :: (laneList pre).dropLast else laneList pre := by
    rw [← foldl_scanStep code ftz _ x 0]
    rfl
  rw [hsteps]
  cases ex with
  | false => exact getD_laneList pre hl
  | true =>
    cases l with
    | zero => rfl
    | succ l =>
      have hdrop : (laneList pre).dropLast = (List.range 31).map pre := by
        rw [laneList, List.range_succ, List.map_append]
        exact List.dropLast_concat
      simp only [if_true, hdrop, List.getD_cons_succ, Nat.add_one_ne_zero, if_false, Nat.add_sub_cancel]
      simp [List.getD, show l < 31 by omega]

end

/-! ### Associative operations (R143, R144) -/

section

variable {code : Nat} (hcode : code < 8) (ftz : Bool)
include hcode

/-- A level of the tree leaves the fold of its values. -/
theorem foldl_foldLevel (e : W32) (xs : List W32) :
    (foldLevel code ftz xs).1.foldl (foldFn code ftz) e = xs.foldl (foldFn code ftz) e := by
  match xs with
  | [] | [_] => rfl
  | x :: y :: rest =>
    show (foldLevel code ftz rest).1.foldl (foldFn code ftz) (foldFn code ftz e (foldFn code ftz x y)) = _
    rw [foldl_foldLevel, ← foldFn_assoc hcode]
    rfl

theorem foldl_foldTree (e : W32) (k : Nat) (xs : List W32) (fl : Flags) :
    (foldTree code ftz k (xs, fl)).1.foldl (foldFn code ftz) e = xs.foldl (foldFn code ftz) e := by
  induction k generalizing xs fl with
  | zero => rfl
  | succ k ih =>
    rw [foldTree]
    dsimp only
    rw [ih, foldl_foldLevel hcode]

/-- A fold over two lists is the operation on the two folds. -/
theorem foldl_append_foldFn (xs ys : List W32) :
    (xs ++ ys).foldl (foldFn code ftz) (foldId code) =
      foldFn code ftz (xs.foldl (foldFn code ftz) (foldId code)) (ys.foldl (foldFn code ftz) (foldId code)) := by
  rw [List.foldl_append]
  generalize xs.foldl (foldFn code ftz) (foldId code) = e
  induction ys generalizing e with
  | nil => exact (foldFn_id_right hcode ftz e).symm
  | cons y ys ih => rw [List.foldl_cons, List.foldl_cons, ih, foldFn_id_left hcode, ih y, foldFn_assoc hcode]

end

theorem State.active_eq_filter (s : State) (t : ThreadId) : s.active t = (List.range 32).filter fun l => decide (l ∈ s.active t) := by
  cases t with
  | gang g k =>
    refine List.filter_congr fun l hl => ?_
    rw [Bool.eq_iff_iff, decide_eq_true_iff]
    exact ⟨fun h => List.mem_filter.2 ⟨hl, h⟩, fun h => (List.mem_filter.1 h).2⟩
  | _ => exact (List.filter_eq_nil_iff.2 fun l _ => by simp [State.active]).symm

/-- R143: the fold of an operation on integers, lane by lane. -/
theorem State.reduxValue_eq_foldl (s : State) (t : ThreadId) (a : Nat) {code : Nat} (hcode : code < 8) :
    (s.reduxValue t a code).1 = (s.active t).foldl (fun acc l => foldFn code false acc (s.laneReg t a l)) (foldId code) := by
  have htree := foldl_foldTree hcode (s.uni t).ftz (foldId code) 5 (s.foldInput t a code) 0
  rw [s.foldTree_foldInput, List.foldl_cons, List.foldl_nil, foldFn_id_left hcode, ← s.reduxValue_eq_treeSteps, s.foldInput_eq,
    laneList, List.foldl_map, foldFn_eq_false hcode] at htree
  rw [htree, s.active_eq_filter, List.foldl_filter]
  congr 1
  funext acc l
  by_cases hl : l ∈ s.active t
  · rw [State.laneInput, if_pos hl, if_pos (decide_eq_true hl)]
  · rw [State.laneInput, if_neg hl, if_neg (by simpa using hl), foldFn_id_right hcode]

/-- The least of some values and a first one. -/
theorem foldl_pickMin (v : Nat → W32) (ls : List Nat) (e : W32) :
    let r := ls.foldl (fun acc l => pickMin true acc (v l)) e
    (r = e ∨ ∃ l, l ∈ ls ∧ r = v l) ∧ r.toNat ≤ e.toNat ∧ ∀ l, l ∈ ls → r.toNat ≤ (v l).toNat := by
  induction ls generalizing e with
  | nil => exact ⟨.inl rfl, le_rfl, fun l hl => absurd hl List.not_mem_nil⟩
  | cons n ls ih =>
    obtain ⟨hmem, hfirst, hrest⟩ := ih (pickMin true e (v n))
    rw [toNat_pickMin] at hfirst
    have hpick : pickMin true e (v n) = e ∨ pickMin true e (v n) = v n := ite_eq_or_eq _ _ _
    refine ⟨?_, hfirst.trans (min_le_left _ _), fun l hl => ?_⟩
    · rcases hmem with h | ⟨l, hl, h⟩
      · exact hpick.imp h.trans fun hn => ⟨n, List.mem_cons_self, h.trans hn⟩
      · exact .inr ⟨l, List.mem_cons_of_mem _ hl, h⟩
    · rcases List.mem_cons.1 hl with rfl | hl
      · exact hfirst.trans (min_le_right _ _)
      · exact hrest l hl

/-- R143: the unsigned minimum of the active lanes. -/
theorem State.reduxValue_minu (s : State) (t : ThreadId) (a : Nat) :
    ((s.reduxValue t a 3).1 = 0xFFFFFFFF ∨ ∃ l, l ∈ s.active t ∧ (s.reduxValue t a 3).1 = s.laneReg t a l) ∧
      ∀ l, l ∈ s.active t → (s.reduxValue t a 3).1.toNat ≤ (s.laneReg t a l).toNat := by
  rw [s.reduxValue_eq_foldl t a (show 3 < 8 by decide)]
  obtain ⟨hmem, -, hle⟩ := foldl_pickMin (s.laneReg t a) (s.active t) (foldId 3)
  exact ⟨hmem, hle⟩

/-! ### A scan as a running fold (R144) -/

/-- The n values up to the one at l, or as many as there are. -/
def window (xs : List W32) (n l : Nat) : List W32 := (xs.take (l + 1)).drop (l + 1 - n)

/-- A window that begins at the first value. -/
theorem window_of_lt {xs : List W32} {l n m : Nat} (hn : l < n) (hm : l < m) : window xs n l = window xs m l := by
  rw [window, window, show l + 1 - n = 0 by omega, show l + 1 - m = 0 by omega]

section

variable {xs : List W32} {l : Nat} (hl : l < xs.length)
include hl

theorem window_one : window xs 1 l = [xs.getD l 0] := by
  rw [window, Nat.add_sub_cancel, List.drop_take, Nat.add_sub_cancel_left, List.drop_eq_getElem_cons hl, List.take_one]
  simp [List.getD, hl]

theorem window_two_mul {n : Nat} (hn : n ≤ l) : window xs (2 * n) l = window xs n (l - n) ++ window xs n l := by
  have hfront : xs.take (l - n + 1) = (xs.take (l + 1)).take (l + 1 - n) := by
    rw [List.take_take, Nat.min_eq_left (by omega), show l + 1 - n = l - n + 1 by omega]
  have hlen : l + 1 - 2 * n ≤ ((xs.take (l + 1)).take (l + 1 - n)).length := by
    simp only [List.length_take]
    omega
  rw [window, window, window, hfront, show l - n + 1 - n = l + 1 - 2 * n by omega, ← List.drop_append_of_le_length hlen,
    List.take_append_drop]

end

section

variable {code : Nat} (hcode : code < 8) (ftz : Bool) {xs : List W32}
include hcode

/-- A step of a scan doubles the window. -/
theorem prefixStep_window {x : Nat → W32} {n : Nat}
    (hx : ∀ l, l < xs.length → x l = (window xs n l).foldl (foldFn code ftz) (foldId code)) :
    ∀ l, l < xs.length → prefixStep (foldFn code ftz) x n l = (window xs (2 * n) l).foldl (foldFn code ftz) (foldId code) := by
  intro l hl
  unfold prefixStep
  split
  case isTrue hn => rw [window_two_mul hl hn, foldl_append_foldFn hcode, hx l hl, hx (l - n) (by omega)]
  case isFalse hn => rw [hx l hl, window_of_lt (not_le.1 hn) (show l < 2 * n by omega)]

/-- R144: an inclusive scan of 32 values. -/
theorem foldl_prefixStep (hlen : xs.length = 32) {l : Nat} (hl : l < 32) :
    [1, 2, 4, 8, 16].foldl (prefixStep (foldFn code ftz)) (fun l => xs.getD l 0) l =
      (xs.take (l + 1)).foldl (foldFn code ftz) (foldId code) := by
  have hone : ∀ l, l < xs.length → xs.getD l 0 = (window xs 1 l).foldl (foldFn code ftz) (foldId code) := by
    intro l hl
    rw [window_one hl]
    exact (foldFn_id_left hcode ftz _).symm
  have hstep := fun (x : Nat → W32) n => prefixStep_window (xs := xs) (x := x) (n := n) hcode ftz
  have hall := hstep _ 16 (hstep _ 8 (hstep _ 4 (hstep _ 2 (hstep _ 1 hone)))) l (hlen ▸ hl)
  rw [window, Nat.sub_eq_zero_of_le (show l + 1 ≤ 2 * 16 by omega), List.drop_zero] at hall
  exact hall

theorem getD_scanValues_foldl (hlen : xs.length = 32) {l : Nat} (hl : l < 32) :
    (scanValues code ftz false xs).1.getD l 0 = (xs.take (l + 1)).foldl (foldFn code ftz) (foldId code) ∧
      (scanValues code ftz true xs).1.getD l 0 = (xs.take l).foldl (foldFn code ftz) (foldId code) := by
  have hscan := fun ex => getD_scanValues code ftz ex (fun l => xs.getD l 0) hl
  rw [laneList_getD hlen] at hscan
  refine ⟨(hscan false).trans (foldl_prefixStep hcode ftz hlen hl), (hscan true).trans ?_⟩
  cases l with
  | zero => rfl
  | succ l => exact foldl_prefixStep hcode ftz hlen (Nat.lt_of_succ_lt hl)

end

end Sys2Proof.Machine
end

section
/-! PROOFS. Compare-exchange (R145). -/

namespace Sys2Proof.Machine

/-- A key as a number, signed or unsigned. -/
def laneKey (u : Bool) (r : W32) : Int := if u then (r.toNat : Int) else r.toInt

theorem laneLess_iff (u : Bool) (p q : W32) : (if u then p.ult q else p.slt q) = true ↔ laneKey u p < laneKey u q := by
  cases u with
  | false => exact BitVec.slt_iff_toInt_lt
  | true => exact BitVec.ult_iff_lt.trans (BitVec.lt_def.trans Int.ofNat_lt.symm)

/-- A bit that is clear, set. -/
theorem xor_two_pow {l j : Nat} (hj : j < 5) (hl : l < 32) (h : l.testBit j = false) :
    l ^^^ 2 ^ j = l + 2 ^ j ∧ (l + 2 ^ j) ^^^ 2 ^ j = l := by
  have hadd : ∀ j < 5, ∀ l < 32, l.testBit j = false → l ^^^ 2 ^ j = l + 2 ^ j := by decide
  have hl := hadd j hj l hl h
  exact ⟨hl, by rw [← hl, Nat.xor_assoc, Nat.xor_self, Nat.xor_zero]⟩

section

variable (s : State) (t : ThreadId) (d kk j : Nat) (u : Bool) {l : Nat}

/-- R145: a pair of active lanes, the lower one l and the other n, whose keys stand the wrong way round: they rise where bit kk of l is
clear, and fall where it is set. -/
def State.exchanges (l n : Nat) : Prop :=
  (l ∈ s.active t ∧ n ∈ s.active t) ∧
    if l.testBit kk then laneKey u (s.laneReg t d l) < laneKey u (s.laneReg t d n)
    else laneKey u (s.laneReg t d n) < laneKey u (s.laneReg t d l)

variable {s t d kk j u} (hj : j < 5) (hl : l < 32) (hbit : l.testBit j = false)
include hj hl hbit

/-- R145: each lane of a pair that exchanges has the other for its partner. -/
theorem State.cmpxPartner_pair {i o : Nat} (hi : (i = l ∧ o = l + 2 ^ j) ∨ (i = l + 2 ^ j ∧ o = l)) :
    (s.exchanges t d kk u l (l + 2 ^ j) → s.cmpxPartner t d kk j u i = some o) ∧
      (¬ s.exchanges t d kk u l (l + 2 ^ j) → s.cmpxPartner t d kk j u i = none) := by
  obtain ⟨hup, hdown⟩ := xor_two_pow hj hl hbit
  have hxor : i ^^^ 2 ^ j = o := by
    rcases hi with ⟨rfl, rfl⟩ | ⟨rfl, rfl⟩
    · exact hup
    · exact hdown
  have hlow : min i o = l := by
    rcases hi with ⟨rfl, rfl⟩ | ⟨rfl, rfl⟩
    · exact min_eq_left (Nat.le_add_right _ _)
    · exact min_eq_right (Nat.le_add_right _ _)
  have hactive : ((s.active t).contains i && (s.active t).contains o) = true ↔ l ∈ s.active t ∧ l + 2 ^ j ∈ s.active t := by
    rw [Bool.and_eq_true, List.contains_iff_mem, List.contains_iff_mem]
    rcases hi with ⟨rfl, rfl⟩ | ⟨rfl, rfl⟩
    · exact Iff.rfl
    · exact and_comm
  have horder : (if !l.testBit kk then
        (if u then (s.laneReg t d (l + 2 ^ j)).ult (s.laneReg t d l) else (s.laneReg t d (l + 2 ^ j)).slt (s.laneReg t d l))
      else if u then (s.laneReg t d l).ult (s.laneReg t d (l + 2 ^ j)) else (s.laneReg t d l).slt (s.laneReg t d (l + 2 ^ j))) = true ↔
      if l.testBit kk then laneKey u (s.laneReg t d l) < laneKey u (s.laneReg t d (l + 2 ^ j))
        else laneKey u (s.laneReg t d (l + 2 ^ j)) < laneKey u (s.laneReg t d l) := by
    cases l.testBit kk
    · exact laneLess_iff u _ _
    · exact laneLess_iff u _ _
  unfold State.cmpxPartner
  simp only [hxor, hlow]
  refine ⟨fun h => ?_, fun h => ?_⟩
  · rw [if_pos (hactive.2 h.1), if_pos (horder.2 h.2)]
  · split
    case isTrue ha => exact if_neg fun ho => h ⟨hactive.1 ha, horder.1 ho⟩
    case isFalse => rfl

/-- R145: a pair exchanges or stays as it is. -/
theorem State.cmpx_pair :
    let from_ := fun i => (s.cmpxPartner t d kk j u i).getD i
    (s.exchanges t d kk u l (l + 2 ^ j) → from_ l = l + 2 ^ j ∧ from_ (l + 2 ^ j) = l) ∧
      (¬ s.exchanges t d kk u l (l + 2 ^ j) → from_ l = l ∧ from_ (l + 2 ^ j) = l + 2 ^ j) := by
  obtain ⟨hlow, hlow'⟩ := State.cmpxPartner_pair (s := s) (t := t) (d := d) (kk := kk) (u := u) hj hl hbit (.inl ⟨rfl, rfl⟩)
  obtain ⟨hhigh, hhigh'⟩ := State.cmpxPartner_pair (s := s) (t := t) (d := d) (kk := kk) (u := u) hj hl hbit (.inr ⟨rfl, rfl⟩)
  refine ⟨fun h => ?_, fun h => ?_⟩
  · simp only [hlow h, hhigh h, Option.getD_some, and_self]
  · simp only [hlow' h, hhigh' h, Option.getD_none, and_self]

/-- R145: a pair of active lanes leaves with its keys in order, and stays where they are equal. -/
theorem State.cmpx_sorts (hactive : l ∈ s.active t ∧ l + 2 ^ j ∈ s.active t) :
    let from_ := fun i => (s.cmpxPartner t d kk j u i).getD i
    let key := fun i => laneKey u (s.laneReg t d i)
    ((from_ l = l ∧ from_ (l + 2 ^ j) = l + 2 ^ j) ∨ (from_ l = l + 2 ^ j ∧ from_ (l + 2 ^ j) = l)) ∧
      (if l.testBit kk then key (from_ (l + 2 ^ j)) ≤ key (from_ l) else key (from_ l) ≤ key (from_ (l + 2 ^ j))) ∧
      (key l = key (l + 2 ^ j) → from_ l = l ∧ from_ (l + 2 ^ j) = l + 2 ^ j) ∧
      (kk = 5 → key (from_ l) ≤ key (from_ (l + 2 ^ j))) := by
  intro from_ key
  obtain ⟨hswap, hstay⟩ := State.cmpx_pair (s := s) (t := t) (d := d) (kk := kk) (u := u) hj hl hbit
  have hsorted : if l.testBit kk then key (from_ (l + 2 ^ j)) ≤ key (from_ l) else key (from_ l) ≤ key (from_ (l + 2 ^ j)) := by
    by_cases h : s.exchanges t d kk u l (l + 2 ^ j)
    · obtain ⟨h1, h2⟩ := hswap h
      have horder := h.2
      simp only [from_, h1, h2]
      split
      case isTrue hdesc => exact (if_pos hdesc ▸ horder).le
      case isFalse hdesc => exact (if_neg hdesc ▸ horder).le
    · obtain ⟨h1, h2⟩ := hstay h
      have horder := fun ho => h ⟨hactive, ho⟩
      simp only [from_, h1, h2]
      split
      case isTrue hdesc => exact not_lt.1 fun hlt => horder (by rwa [if_pos hdesc])
      case isFalse hdesc => exact not_lt.1 fun hlt => horder (by rwa [if_neg hdesc])
  refine ⟨?_, hsorted, fun heq => hstay fun h => ?_, fun hk => ?_⟩
  · by_cases h : s.exchanges t d kk u l (l + 2 ^ j)
    · exact .inr (hswap h)
    · exact .inl (hstay h)
  · have horder := h.2
    split at horder
    · exact horder.ne heq
    · exact horder.ne heq.symm
  · have hbit5 : l.testBit kk = false := by
      rw [hk]
      exact Nat.testBit_lt_two_pow hl
    rw [hbit5, if_neg Bool.false_ne_true] at hsorted
    exact hsorted

end

end Sys2Proof.Machine

open Sys2Proof Sys2Proof.Machine in
/-- Settles O21: the words, their destinations, and what votes, folds, scans and exchanges give. -/
theorem crossLaneWords : Obligations.CrossLaneWords := by
  refine ⟨?_, ?_, ?_, ?_, ?_, ⟨fun s t a => ⟨?_, ?_, ?_, ?_⟩, ?_, ?_, ?_⟩⟩
  · intro s g k t m d a b f e bs kk j hc u ls x n z put from_ folds red sc swap
    have hls : s.active s.cur = ls := by rw [hc]; rfl
    have hq : s.unheld.uni s.cur = s.uni s.cur := s.unheld_uni
    simp only [put, from_, folds, ← hls]
    refine ⟨fun hb => ?_, fun hb => ?_, fun hb => ?_, fun hb => ?_, fun hb => ?_, fun hb => ?_, fun hb => ?_, fun hb => ?_⟩
    · exact show execShflPick t d a b bs s = _ from issue_shuffle hb (ok := fun _ => true) rfl fun l => rfl
    · exact show execShflSwap t d a b bs s = _ from issue_shuffle hb (ok := fun _ => true) rfl fun l => rfl
    · exact show execShflBack t d a b bs s = _ from
        issue_shuffle hb (ok := fun l => decide (n l ≤ l)) rfl fun l => by simp only [decide_eq_true_eq]; rfl
    · exact show execShflFwd t d a b bs s = _ from
        issue_shuffle hb (ok := fun l => decide (l + n l < 32)) rfl fun l => by simp only [decide_eq_true_eq]; rfl
    · exact show execVote t e a f m s = _ from issue_pushResult hb rfl
    · exact show execRedux t e a f s = _ from issue_fold hb rfl
    · refine show execScan t d a f m s = _ from issue_fold hb ?_
      simp only [hq]
      rfl
    · exact show execCmpx t d a kk j m s = _ from issue_pushResult hb rfl
  · intro s g k l d a e f h x _ hl t filled one uni both old
    obtain ⟨hempty, hfull⟩ := State.fills_crossLanes s g k hl d f
    refine ⟨hempty, ⟨_, State.find?_reqs_pushResult .., rfl, rfl, hfull⟩, fun he => ?_, fun hda => ?_⟩
    · obtain ⟨hempty, hfull⟩ := State.fills_crossUni s g k he x
      exact ⟨hempty, _, State.find?_reqs_pushResult .., rfl, rfl, hfull⟩
    · obtain ⟨hd, ha, hfull⟩ := State.fills_two s g k hl hda f h
      exact ⟨hd, ha, _, State.find?_reqs_pushResult .., rfl, rfl, hfull⟩
  · intro s t a inv holds m some all same
    obtain ⟨hany, hnone⟩ := s.voteValue_any t a inv
    obtain ⟨hall, hnot⟩ := s.voteValue_all t a inv
    obtain ⟨huni, hdiffer⟩ := s.voteValue_uni t a inv
    exact ⟨hany, hnone, hall, hnot, huni, hdiffer, fun l => s.getLsbD_voteValue t a inv⟩
  · intro f x y
    exact ⟨rfl, toInt_pickMin x y, toInt_pickMax x y, toNat_pickMin x y, toNat_pickMax x y, rfl, rfl, rfl, rfl, rfl, rfl⟩
  · intro s t a code l ex _ hl ftz op x0 tree pre
    refine ⟨s.reduxValue_eq_treeSteps t a code, ?_⟩
    rw [State.foldInput_eq]
    exact getD_scanValues code ftz ex _ hl
  · exact s.reduxValue_eq_foldl t a (code := 0) (by decide)
  · exact s.reduxValue_eq_foldl t a (code := 6) (by decide)
  · exact (s.reduxValue_minu t a).1
  · exact (s.reduxValue_minu t a).2
  · intro s t a code hcode
    exact s.reduxValue_eq_foldl t a hcode
  · intro x ftz code l hlen hcode hl op
    exact getD_scanValues_foldl hcode ftz hlen hl
  · intro s g k d a kk j l u hkk hj hl hbit t n from_ key old new desc
    refine ⟨State.cmpx_sorts hj hl hbit, fun h => (State.cmpx_pair hj hl hbit).2 fun hex => ?_⟩
    exact h.elim (· hex.1.1) (· hex.1.2)

end

section
/-! PROOFS. Words that command an engine (R164, R239 to R241): they wait while a queue that they target is full, and a word that
begins issues its command with the step flags of groups as they were. -/

namespace Sys2Proof.Machine

/-- R164: a word that targets a full queue waits. -/
theorem exec_targetFull {i : Instr} {s : State} (hword : i.hasWord = true) (h : s.targetFull s.cur i = true) :
    exec i s = .next (s.stay s) :=
  exec_wait hword (by simp [gate, h])

/-- R164: a word that begins targets no full queue. -/
theorem State.targetFull_of_begins {s : State} {i : Instr} (h : s.begins i = true) : s.targetFull s.cur i = false := by
  obtain ⟨⟨_, hfull, _⟩, _⟩ := (gate_eq_run_iff i s).1 ((s.begins_iff i).1 h).1
  exact hfull

/-- R11: a word that begins has no empty source. -/
theorem State.emptySource_of_begins {s : State} {i : Instr} (h : s.begins i = true) : s.emptySource s.cur (shape i) = none := by
  obtain ⟨_, _, _, _, hempty, _⟩ := (gate_eq_run_iff i s).1 ((s.begins_iff i).1 h).1
  exact hempty

/-- R11: a uniform register that a word with no empty source reads is full, or `w0`. -/
theorem State.filled_of_emptySource {s : State} {t : ThreadId} {sh : Shape} (h : s.emptySource t sh = none) {n : Nat} (hn : n ∈ sh.wsrc) :
    n = 0 ∨ (s.uni t).empty.getLsbD n = false := by
  have hw : sh.wsrc.find? (fun r => r != 0 && (s.uni t).empty.getLsbD r) = none := by
    by_contra hsome
    obtain ⟨r, hr⟩ := Option.ne_none_iff_exists'.1 hsome
    simp only [State.emptySource, hr, Option.orElse_some, reduceCtorEq] at h
  have := List.find?_eq_none.1 hw n hn
  simpa [or_iff_not_imp_left] using this

/-- A word that names no v register as its destination begins and completes with the step flags as they were. -/
theorem issue_command {s s' : State} {i : Instr} {body : ThreadId → State → Did} (hb : s.begins i = true)
    (hv : (shape i).vdst = []) (hd : body s.cur s.unheld = .done s') (hs : s.unheld.SameSteps s') :
    issue i s body = .next (s.after s') := by
  rw [issue_begins hb, hd, settle_done hb ((hs.stepped s.cur).trans (State.unheld_stepped hb)) (.inl hv)]

section

variable (s : State)

theorem State.sameSteps_issueCmd (g : Nat) (k : CmdKind) : s.SameSteps (s.issueCmd g k).1 := by
  refine .trans (.of_groups rfl) (State.sameSteps_setGroup _ ?_)
  rfl

theorem State.sameSteps_emptyW (t : ThreadId) (r : Nat) : s.SameSteps (s.emptyW t r) := s.sameSteps_setUni _ _

theorem State.sameSteps_issueMatrix (g : Nat) (k : CmdKind) : s.SameSteps (s.issueMatrix g k) :=
  (s.sameSteps_issueCmd g k).trans (State.sameSteps_setGroup _ rfl)

theorem State.sameSteps_issueMwld (g : Nat) (th : ThreadId) (d a : BitVec 6) (slot : Nat) (sf : Bool) (f : Nat) :
    s.SameSteps (s.issueMwld g th d a slot sf f) :=
  (s.sameSteps_issueMatrix g _).trans (State.sameSteps_setGroup _ rfl)

/-! ### The queues, with an ended hold forgotten -/

theorem State.mqFull_unheld (g : Nat) : s.unheld.mqFull g = s.mqFull g := by
  obtain ⟨b, x, h⟩ := s.group_unheld g
  simp only [State.mqFull, h]

theorem State.teamNo_unheld (g : Nat) : (s.unheld.group g).team = (s.group g).team := by
  obtain ⟨b, x, h⟩ := s.group_unheld g
  rw [h]

theorem State.strmFull_unheld (g : Nat) : s.unheld.strmFull g = s.strmFull g := by
  simp only [State.strmFull, State.teamNo_unheld]
  rw [s.unheld_eq]
  rfl

theorem State.queueFull_unheld (g : Nat) (h : W64) : s.unheld.queueFull g h = s.queueFull g h := by
  simp only [State.queueFull, State.teamNo_unheld]
  rw [s.unheld_eq]
  rfl

end

end Sys2Proof.Machine

end

section
/-! PROOFS. The matrix words (R249 to R258). -/

namespace Sys2Proof.Machine

section

variable {s : State} {i : Instr} {g k : Nat} (hc : s.cur = .gang g k)
include hc

theorem State.targetFull_matrix (hi : engineOf i = some .matrix) : s.targetFull s.cur i = s.mqFull g := by
  simp only [State.targetFull, hc, hi]

variable (hb : s.begins i = true)
include hb

theorem State.mqFull_of_begins (hi : engineOf i = some .matrix) : s.unheld.mqFull g = false := by
  rw [s.mqFull_unheld, ← State.targetFull_matrix hc hi]
  exact State.targetFull_of_begins hb

/-- R164, R258: a `macc` or `cbload` word that begins. -/
theorem issue_queueMatrix {body : ThreadId → State → Did} {cause : Nat} {tiles : List Nat} {rs : List Range} {c : CmdKind}
    (he : exec i s = issue i s body) (hi : engineOf i = some .matrix) (hv : (shape i).vdst = [])
    (hd : body s.cur s.unheld = s.unheld.queueMatrix s.cur cause tiles rs c) :
    (∀ tr, s.unheld.tileCheck g s.cur cause tiles rs = some tr → exec i s = .next (s.trapped i tr)) ∧
      (s.unheld.tileCheck g s.cur cause tiles rs = none → exec i s = .next (s.after (s.unheld.issueMatrix g c))) := by
  have hq : s.unheld.queueMatrix s.cur cause tiles rs c =
      (s.unheld.tileCheck g s.cur cause tiles rs).elim (.done (s.unheld.issueMatrix g c)) .trap := by
    rw [hc]
    simp only [State.queueMatrix, State.mqFull_of_begins hc hb hi, Bool.false_eq_true, if_false]
    cases s.unheld.tileCheck g (.gang g k) cause tiles rs <;> rfl
  rw [hq] at hd
  rw [he]
  refine ⟨fun tr h => issue_traps hb ?_, fun h => issue_command hb hv ?_ (s.unheld.sameSteps_issueMatrix g c)⟩
  · rw [hd, h]
    rfl
  · rw [hd, h]
    rfl

end

section

variable {s : State} {t z sf : Bool} {d a rows : BitVec 6} {slot : BitVec 2} {f : BitVec 4} {g k : Nat} (hc : s.cur = .gang g k)
include hc

/-- R251, R252: an `mwld` that begins and fails a check. -/
theorem execMwld_traps (hb : s.begins (.mwld t d a slot sf f) = true) {tr : Trap}
    (h : s.unheld.mwldCheck g k slot.toNat f.toNat = some tr) :
    execMwld t d a slot sf f s = .next (s.trapped (.mwld t d a slot sf f) tr) :=
  issue_traps hb (by simp only [hc, State.mqFull_of_begins hc hb rfl, h, Bool.false_eq_true, if_false])

theorem execMwld_issues (hb : s.begins (.mwld t d a slot sf f) = true)
    (h : s.unheld.mwldCheck g k slot.toNat f.toNat = none) :
    execMwld t d a slot sf f s = .next (s.after (s.unheld.issueMwld g s.cur d a slot.toNat sf f.toNat)) :=
  issue_command hb rfl (by simp only [hc, State.mqFull_of_begins hc hb rfl, h, Bool.false_eq_true, if_false])
    (s.unheld.sameSteps_issueMwld _ _ _ _ _ _ _)

end

section

variable {s : State} {t z sf : Bool} {d a rows : BitVec 6} {f : BitVec 4} {g k : Nat} (hc : s.cur = .gang g k)
  (hb : s.begins (.mma t d a rows z sf f) = true)
include hc hb

/-- R256: an `mma` that begins and fails a check. -/
theorem execMma_traps {tr : Trap}
    (h : s.unheld.mmaCheck g s.cur (s.unheld.getW s.cur a.toNat) (s.unheld.getW s.cur (a.toNat + 1))
      (s.unheld.getW s.cur (a.toNat + 2)) d.toNat (rows.toNat + 1) sf f.toNat = some tr) :
    execMma t d a rows z sf f s = .next (s.trapped (.mma t d a rows z sf f) tr) := by
  rw [hc] at h
  exact issue_traps hb (by simp only [hc, State.mqFull_of_begins hc hb rfl, h, Bool.false_eq_true, if_false])

theorem execMma_issues
    (h : s.unheld.mmaCheck g s.cur (s.unheld.getW s.cur a.toNat) (s.unheld.getW s.cur (a.toNat + 1))
      (s.unheld.getW s.cur (a.toNat + 2)) d.toNat (rows.toNat + 1) sf f.toNat = none) :
    execMma t d a rows z sf f s = .next (s.after (s.unheld.issueMatrix g (.mma d.toNat (rows.toNat + 1) z sf f.toNat
      (s.unheld.getW s.cur a.toNat).toNat (s.unheld.getW s.cur (a.toNat + 1)).toNat (s.unheld.getW s.cur (a.toNat + 2)).toNat))) := by
  rw [hc] at h
  exact issue_command hb rfl (by simp only [hc, State.mqFull_of_begins hc hb rfl, h, Bool.false_eq_true, if_false])
    (s.unheld.sameSteps_issueMatrix _ _)

end

/-- R258: the cause of a `macc.row` whose operand has bits that are not zero, or names a register beyond the budget. -/
def State.rowCause (s : State) (g v : Nat) : Nat :=
  if v / 64 % 4 ≠ 0 ∨ v / 2 ^ 15 ≠ 0 then 1 else if (s.group g).budget ≤ v / 256 % 128 then 5 else 0

/-- R258: a `macc.row` has issued: its register is empty. -/
def State.issueRow (s : State) (g d v : Nat) : State :=
  let q := s.issueMatrix g (.maccRow d (v % 64) (v / 256 % 128))
  q.setGroup g { q.group g with vEmpty := setBit (q.group g).vEmpty (v / 256 % 128) true }

theorem State.sameSteps_issueRow (s : State) (g d v : Nat) : s.SameSteps (s.issueRow g d v) :=
  (s.sameSteps_issueMatrix g _).trans (State.sameSteps_setGroup _ rfl)

section

variable {s : State} {t : Bool} {d a : BitVec 6} {g k : Nat} (hc : s.cur = .gang g k) (hb : s.begins (.maccRow t d a) = true)
include hc hb

theorem execMaccRow_traps {tr : Trap}
    (h : s.unheld.tileCheck g s.cur (s.unheld.rowCause g (s.unheld.getW s.cur a.toNat).toNat) [d.toNat] [] = some tr) :
    execMaccRow t d a s = .next (s.trapped (.maccRow t d a) tr) := by
  unfold State.rowCause at h
  rw [hc] at h
  exact issue_traps hb (by simp only [hc, State.mqFull_of_begins hc hb rfl, h, Bool.false_eq_true, if_false])

variable (h : s.unheld.tileCheck g s.cur (s.unheld.rowCause g (s.unheld.getW s.cur a.toNat).toNat) [d.toNat] [] = none)
include h

/-- R258: the register's fill is still pending. -/
theorem execMaccRow_waits
    (he : (s.unheld.group g).vEmpty.getLsbD ((s.unheld.getW s.cur a.toNat).toNat / 256 % 128) = true) :
    execMaccRow t d a s = .next (s.stay s.unheld) := by
  unfold State.rowCause at h
  rw [hc] at h he
  exact issue_waits hb (by simp only [hc, State.mqFull_of_begins hc hb rfl, h, he, Bool.false_eq_true, if_false, if_true])

theorem execMaccRow_issues
    (he : (s.unheld.group g).vEmpty.getLsbD ((s.unheld.getW s.cur a.toNat).toNat / 256 % 128) = false) :
    execMaccRow t d a s = .next (s.after (s.unheld.issueRow g d.toNat (s.unheld.getW s.cur a.toNat).toNat)) := by
  unfold State.rowCause at h
  rw [hc] at h he ⊢
  refine issue_command hb rfl ?_ (s.unheld.sameSteps_issueRow _ _ _)
  simp only [hc, State.mqFull_of_begins hc hb rfl, h, he, Bool.false_eq_true, if_false]
  rfl

end

section

variable {s : State} {t : Bool} {g k : Nat} (hc : s.cur = .gang g k) (hb : s.begins (.mopfence t) = true)
include hc hb

/-- R255: a fill of the group is pending. -/
theorem execMopfence_waits (h : (s.unheld.group g).vEmpty ≠ 0 ∨ (s.unheld.group g).uni.empty ≠ 0) :
    execMopfence t s = .next (s.stay s.unheld) :=
  issue_waits hb (by simp only [hc, h, if_true])

theorem execMopfence_completes (h : ¬ ((s.unheld.group g).vEmpty ≠ 0 ∨ (s.unheld.group g).uni.empty ≠ 0)) :
    execMopfence t s = .next (s.after ((s.unheld.setGroup g { s.unheld.group g with vOld := [] }).setTeam (s.unheld.group g).team
      { s.unheld.team (s.unheld.group g).team with
        unfenced := fenceNotes (s.unheld.team (s.unheld.group g).team).unfenced (s.unheld.group g).num
          (s.unheld.descOf (s.unheld.group g).team).ngroups })) :=
  issue_command hb rfl (by simp only [hc, h, if_false])
    (.trans (s.unheld.sameSteps_setGroup (x := { s.unheld.group g with vOld := [] }) rfl) (State.sameSteps_setTeam _ _ _))

end

/-! ### The checks -/

theorem State.quadWhole_iff (s : State) (team q : Nat) :
    s.quadWhole team q = true ↔ ∀ i ∈ List.range 4, (s.groups.find? (16 * team + 4 * q + i)).isSome = true := by
  unfold State.quadWhole
  exact List.all_eq_true

theorem reducedFmt_eq_false_iff (f : Nat) : reducedFmt f = false ↔ f ≠ 0 ∧ f ≠ 1 ∧ f ≠ 3 := by
  simp [reducedFmt, and_assoc]

/-- R251 to R253: the checks of `mwld`, with their causes. -/
theorem State.mwldCheck_eq (s : State) (g k slot f : Nat) :
    s.mwldCheck g k slot f =
      if ¬ ((s.group g).allActive k = true) then some (Trap.convergence 7)
      else if 64 ≤ (s.group g).openBatch.length then some (Trap.commandCheck 7)
      else if f = 7 ∧ s.booksOf g ≤ slot then some (Trap.commandCheck 5)
      else if ¬ (∀ i ∈ List.range 4, (s.groups.find? (16 * (s.group g).team + 4 * ((s.group g).num / 4) + i)).isSome = true) then
        some (Trap.commandCheck 9)
      else if s.root.bootstat.getLsbD 20 = true ∧ f ≠ 0 ∧ f ≠ 1 ∧ f ≠ 3 then some (Trap.commandCheck 13)
      else none := by
  simp only [State.mwldCheck, State.batchFull, State.reduced, decide_eq_true_eq, reducedFmt_eq_false_iff, ← State.quadWhole_iff,
    Bool.not_eq_true]

/-- R250: the permitted pairs. -/
theorem pairOk_iff (f w : Nat) (sf sw : Bool) : pairOk f sf w sw = true ↔
    ((f = 0 ∨ f = 1) ∧ (w = 0 ∨ w = 1)) ∨ (f = 2 ∧ w = 2 ∧ sf = sw) ∨ (f = 3 ∧ w = 3) ∨ (f = 4 ∧ w = 4) ∨
      (f = 5 ∧ (w = 5 ∨ w = 7)) ∨ (f = 6 ∧ w = 6) := by
  by_cases hf : f ≤ 6
  · interval_cases f <;> simp [pairOk] <;> omega
  · simp [pairOk, show ¬ f ≤ 1 by omega, show f ≠ 0 by omega, show f ≠ 1 by omega, show f ≠ 2 by omega, show f ≠ 3 by omega,
      show f ≠ 4 by omega, show f ≠ 5 by omega, show f ≠ 6 by omega]

section

variable {s : State} {g : Nat} {th : ThreadId} (hbatch : s.batchFull g = false)
include hbatch

theorem State.tileCheck_cause {cause : Nat} (tiles : List Nat) (rs : List Range) (h : cause ≠ 0) :
    s.tileCheck g th cause tiles rs = some (Trap.commandCheck cause) := by
  simp only [State.tileCheck, hbatch, h, Bool.false_eq_true, if_false, ne_eq, not_false_eq_true, if_true]

theorem State.tileCheck_held {tiles : List Nat} (rs : List Range) (h : ∃ m ∈ tiles, s.tileHeld g m = true) :
    s.tileCheck g th 0 tiles rs = some (Trap.commandCheck 10) := by
  simp only [State.tileCheck, hbatch, List.any_eq_true.2 h, Bool.false_eq_true, if_false, if_true, ne_eq, not_true_eq_false]

theorem State.tileCheck_range {tiles : List Nat} {rs : List Range} {tr : Trap} (h : ∀ m ∈ tiles, s.tileHeld g m = false)
    (hr : rs.findSome? (s.rangeTrap th) = some tr) : s.tileCheck g th 0 tiles rs = some tr := by
  have hfree : tiles.any (s.tileHeld g) = false := List.any_eq_false.2 fun m hm => by simp [h m hm]
  simp only [State.tileCheck, hbatch, hfree, hr, Bool.false_eq_true, if_false, ne_eq, not_true_eq_false]

end

/-! ### The checks of `mma` (R256) -/

/-- R250: the group's latest `mwld` pairs with an `mma` of a format. -/
def State.Paired (s : State) (g f : Nat) (sf : Bool) : Prop := ∃ e, (s.group g).lastMwld = some e ∧ pairOk f sf e.1 e.2 = true

section

variable {s : State} {g : Nat} {th : ThreadId} {off stride soff : W64} {m rows : Nat} {sf : Bool} {f : Nat}
  (hbatch : s.batchFull g = false)
include hbatch

/-- R256 step 3: a scale offset where there are no scales. -/
theorem State.mmaCheck_scale (h : sf = false) (hs : soff ≠ 0) :
    s.mmaCheck g th off stride soff m rows sf f = some (Trap.commandCheck 1) := by
  unfold State.mmaCheck
  rw [hbatch, if_neg Bool.false_ne_true, if_pos ⟨h, hs⟩]

variable (hsoff : ¬ (sf = false ∧ soff ≠ 0))
include hsoff

theorem State.mmaCheck_stride (h : stride.toNat % 32 ≠ 0 ∨ 65504 < stride.toNat) :
    s.mmaCheck g th off stride soff m rows sf f = some (Trap.commandCheck 5) := by
  unfold State.mmaCheck
  rw [hbatch, if_neg Bool.false_ne_true, if_neg hsoff, if_pos h]

variable (hstride : ¬ (stride.toNat % 32 ≠ 0 ∨ 65504 < stride.toNat))
include hstride

theorem State.mmaCheck_held (h : s.tileHeld g m = true) :
    s.mmaCheck g th off stride soff m rows sf f = some (Trap.commandCheck 10) := by
  unfold State.mmaCheck
  rw [hbatch, if_neg Bool.false_ne_true, if_neg hsoff, if_neg hstride, if_pos h]

variable (hheld : s.tileHeld g m = false)
include hheld

theorem State.mmaCheck_pair (h : ¬ s.Paired g f sf) :
    s.mmaCheck g th off stride soff m rows sf f = some (Trap.commandCheck 8) := by
  unfold State.mmaCheck
  rw [hbatch, if_neg Bool.false_ne_true, if_neg hsoff, if_neg hstride, hheld, if_neg Bool.false_ne_true, if_pos]
  cases hw : (s.group g).lastMwld with
  | none => rfl
  | some e => exact Bool.eq_false_iff.2 fun hp => h ⟨e, hw, hp⟩

/-- R256: the checks of the ranges and of the watchpoints come last. -/
theorem State.mmaCheck_ranges (h : s.Paired g f sf) (hr : s.reduced = false) :
    s.mmaCheck g th off stride soff m rows sf f = ((mmaRanges off stride soff rows sf f).findSome? (s.rangeTrap th)).elim
      (s.watchRanges th (mmaBytes off stride soff rows sf f)) some := by
  obtain ⟨e, hw, hp⟩ := h
  unfold State.mmaCheck
  rw [hbatch, if_neg Bool.false_ne_true, if_neg hsoff, if_neg hstride, hheld, if_neg Bool.false_ne_true, hw,
    if_neg (Bool.eq_false_iff.not_left.2 hp), if_neg (by simp [hr])]
  cases (mmaRanges off stride soff rows sf f).findSome? (s.rangeTrap th) <;> rfl

end

end Sys2Proof.Machine

open Sys2Proof Sys2Proof.Machine in
/-- Settles O47: each word waits, traps by its first failing check or issues; the checks are those of `mwldCheck`, `mmaCheck` and
`tileCheck` in their order. -/
theorem matrixWords : Obligations.MatrixWords := by
  refine ⟨?_, ⟨?_, ?_, pairOk_iff, ?_⟩⟩
  · intro s t z sf d a b rows slot f cv g k hc u w runs
    refine ⟨?_, fun hb => ?_, fun hb => ?_, fun hb => ?_, fun hb => ?_, fun hb => ?_, fun hb => ?_, fun hb => ?_, fun hb => ?_,
      fun hb => ?_, fun hb => ?_, fun hb => ?_⟩
    · exact fun i hi hword hfull => exec_targetFull hword ((State.targetFull_matrix hc hi).trans hfull)
    · exact ⟨fun tr h => execMwld_traps hc hb h, execMwld_issues hc hb⟩
    · exact ⟨fun tr h => execMma_traps hc hb h, execMma_issues hc hb⟩
    · exact issue_queueMatrix hc hb (show exec _ s = execMaccZero t d s from rfl) rfl rfl rfl
    · exact issue_queueMatrix hc hb (show exec _ s = execMaccLoad t d a s from rfl) rfl rfl rfl
    · exact issue_queueMatrix hc hb (show exec _ s = execMaccStore t d a cv s from rfl) rfl rfl rfl
    · exact issue_queueMatrix hc hb (show exec _ s = execMaccAdd t d b s from rfl) rfl rfl rfl
    · exact issue_queueMatrix hc hb (show exec _ s = execMaccScale t d a s from rfl) rfl rfl rfl
    · exact issue_queueMatrix hc hb (show exec _ s = execMaccClear t s from rfl) rfl rfl rfl
    · exact issue_queueMatrix hc hb (show exec _ s = execCbload t d a s from rfl) rfl rfl (by simp only [w, hc]; rfl)
    · exact ⟨fun tr h => execMaccRow_traps hc hb h, fun h => ⟨execMaccRow_waits hc hb h, execMaccRow_issues hc hb h⟩⟩
    · exact ⟨execMopfence_waits hc hb, fun hv hu => execMopfence_completes hc hb (not_or.2 ⟨not_not.2 hv, not_not.2 hu⟩)⟩
  · exact State.mwldCheck_eq
  · intro s g th off stride soff m rows sf f cc paired hbatch
    refine ⟨State.mmaCheck_scale hbatch, fun hs => ?_⟩
    have hsoff : ¬ (sf = false ∧ soff ≠ 0) := by
      rintro ⟨h0, h1⟩
      exact hs.elim (by simp [h0]) h1
    refine ⟨State.mmaCheck_stride hbatch hsoff, fun hmod hle => ?_⟩
    have hstride : ¬ (stride.toNat % 32 ≠ 0 ∨ 65504 < stride.toNat) := by omega
    refine ⟨State.mmaCheck_held hbatch hsoff hstride, State.mmaCheck_pair hbatch hsoff hstride, fun hheld hpair hred => ?_⟩
    rw [State.mmaCheck_ranges hbatch hsoff hstride hheld hpair hred]
    refine ⟨fun tr h => ?_, fun h => ?_⟩
    · rw [h]
      rfl
    · rw [h]
      rfl
  · intro s g th cause tiles rs hbatch
    refine ⟨State.tileCheck_cause hbatch tiles rs, fun h0 hheld => ?_, fun h0 hfree tr hr => ?_⟩
    · rw [h0]
      exact State.tileCheck_held hbatch rs hheld
    · rw [h0]
      exact State.tileCheck_range hbatch hfree hr

end

section
/-! PROOFS. The `strm` words (R278 to R288). -/

namespace Sys2Proof.Machine

/-! ### Full queues -/

section

variable {s : State} {i : Instr} {g k : Nat} (hc : s.cur = .gang g k) (hi : engineOf i = some .stream)
include hc hi

/-- R164, R278: what a stream word targets. -/
theorem State.targetFull_stream : s.targetFull s.cur i = true ↔ s.strmFull g = true ∨
    ∃ n, handleReg i = some n ∧ (n = 0 ∨ (s.uni s.cur).empty.getLsbD n = false) ∧ s.queueFull g (s.getW s.cur n) = true := by
  simp only [State.targetFull, hc, hi, Bool.or_eq_true]
  cases handleReg i with
  | none => simp
  | some r => simp

variable (hb : s.begins i = true)
include hb

theorem State.strmFull_of_begins : s.unheld.strmFull g = false := by
  have hfull := mt (State.targetFull_stream hc hi).2 (Bool.eq_false_iff.1 (State.targetFull_of_begins hb))
  rw [s.strmFull_unheld]
  exact Bool.eq_false_iff.2 fun h => hfull (.inl h)

/-- R164: the queue of the stream that a word names by a register that it reads. -/
theorem State.queueFull_of_begins {n : Nat} (hr : handleReg i = some n) (hn : n ∈ (shape i).wsrc) :
    s.unheld.queueFull g (s.unheld.getW s.cur n) = false := by
  have hfull := mt (State.targetFull_stream hc hi).2 (Bool.eq_false_iff.1 (State.targetFull_of_begins hb))
  have hfilled : n = 0 ∨ (s.uni s.cur).empty.getLsbD n = false := State.filled_of_emptySource (State.emptySource_of_begins hb) hn
  rw [s.queueFull_unheld, s.getW_unheld]
  exact Bool.eq_false_iff.2 fun h => hfull (.inr ⟨n, hr, hfilled, h⟩)

end

/-! ### Words that name a stream -/

section

variable {s : State} {g k : Nat} {h : W64} {d : Nat} {check : Nat → Pinned} {c : List Frames → CmdKind}

theorem State.strmWord_batch (hfull : s.strmFull g = false) (hbatch : s.batchFull g = true) :
    s.strmWord (.gang g k) h d check c = .trap (Trap.commandCheck 7) := by
  simp only [State.strmWord, hfull, hbatch, Bool.false_eq_true, if_false, if_true]

variable (hfull : s.strmFull g = false) (hbatch : s.batchFull g = false)
include hfull hbatch

theorem State.strmWord_handle (hh : s.handleCause g h ≠ 0) :
    s.strmWord (.gang g k) h d check c = .trap (Trap.commandCheck (s.handleCause g h)) := by
  simp only [State.strmWord, hfull, hbatch, Bool.false_eq_true, if_false, hh, ne_eq, not_false_eq_true, if_true]

variable (hh : s.handleCause g h = 0)
include hh

theorem State.strmWord_stops {x : Did} (hk : check g = .stop x) : s.strmWord (.gang g k) h d check c = x := by
  simp only [State.strmWord, hfull, hbatch, Bool.false_eq_true, if_false, hh, ne_eq, not_true_eq_false, hk]

theorem State.strmWord_accepts {s1 : State} {fs : List Frames} (hk : check g = .ok s1 fs) (hq : s1.queueFull g h = false) :
    s.strmWord (.gang g k) h d check c = .done (s1.acceptStrm g (.gang g k) h d (c fs)) := by
  simp only [State.strmWord, hfull, hbatch, Bool.false_eq_true, if_false, hh, ne_eq, not_true_eq_false, hk, hq]

end

section

variable (s : State)

theorem State.sameSteps_setStream (team slot : Nat) (x : Stream) : s.SameSteps (s.setStream team slot x) := .of_groups rfl

theorem State.sameSteps_acceptStrm (g : Nat) (th : ThreadId) (h : W64) (d : Nat) (c : CmdKind) :
    s.SameSteps (s.acceptStrm g th h d c) := by
  refine .trans ?_ (State.sameSteps_emptyW _ th d)
  split
  · exact (s.sameSteps_issueCmd g c).trans (State.sameSteps_setStream _ _ _ _)
  · exact s.sameSteps_issueCmd g c

theorem State.sameSteps_startClose (team slot : Nat) : s.SameSteps (s.startClose team slot) := by
  unfold State.startClose
  split
  · exact .refl s
  · exact (s.sameSteps_setStream _ _ _).trans (State.sameSteps_setTeam _ _ _)

/-! ### The checks that may walk tables (R239, R287) -/

theorem State.walkStep_translatePages (sp : Space) (k : AccKind) (user : Bool) (fr : Frames) (va n : Nat) :
    s.WalkStep (s.translatePages sp k user fr va n).1 := by
  induction n generalizing s fr va with
  | zero => exact .refl s
  | succ n ih =>
    have walked := s.walkStep_translate sp va k user
    unfold State.translatePages
    split
    case h_1 h => rw [h] at walked; exact walked.trans (ih _ _ _)
    case h_2 h => rw [h] at walked; exact walked

theorem State.walkStep_translateRange (sp : Space) (k : AccKind) (user : Bool) (va n : Nat) :
    s.WalkStep (s.translateRange sp k user va n).1 := by
  unfold State.translateRange
  split
  · exact .refl s
  · exact s.walkStep_translatePages _ _ _ _ _ _

theorem State.walkStep_pinRanges (t : ThreadId) (rs : List Range) : s.WalkStep (s.pinRanges t rs).1 := by
  induction rs generalizing s with
  | nil => exact .refl s
  | cons r rest ih =>
    have walked : s.WalkStep (if r.spad then (s, .ok []) else s.translateRange (s.spaceOf t) r.kind true r.addr.toNat r.len).1 := by
      split
      · exact .refl s
      · exact s.walkStep_translateRange _ _ _ _ _
    unfold State.pinRanges
    split
    case h_1 h => rw [h] at walked; exact walked
    case h_2 s1 f h =>
      rw [h] at walked
      have pinned := walked.trans (ih s1)
      split
      case h_1 e => rw [e] at pinned; exact pinned
      case h_2 e => rw [e] at pinned; exact pinned

/-- R239: checks that pass leave the step flags of groups as they were. -/
inductive Pinned.KeepsSteps (s : State) : Pinned → Prop
  | ok {t : State} {fs : List Frames} (h : s.SameSteps t) : KeepsSteps s (.ok t fs)
  | stop (d : Did) : KeepsSteps s (.stop d)

theorem Pinned.KeepsSteps.sameSteps {s t : State} {fs : List Frames} (h : (Pinned.ok t fs).KeepsSteps s) : s.SameSteps t := by
  cases h
  assumption

theorem State.keepsSteps_pinnedOr {s1 : State} {fs : List Frames} (h : s.SameSteps s1) : (s.pinnedOr s1 fs).KeepsSteps s := by
  unfold State.pinnedOr
  split
  · exact .stop _
  · exact .ok h

/-- R287: the checks of a record's range change what a walk changes. -/
theorem State.keepsSteps_checkRecord (t : ThreadId) (addr : W64) (k : AccKind) : (s.checkRecord t addr k).KeepsSteps s := by
  unfold State.checkRecord
  generalize ([⟨false, addr, 16448, 64, k⟩] : List Range) = rs
  have walked := s.walkStep_pinRanges t rs
  revert walked
  dsimp only
  cases rs.findSome? (s.rangeTrap t) with
  | some tr => exact fun _ => .stop _
  | none =>
    generalize s.pinRanges t rs = p
    intro walked
    obtain ⟨s1, e⟩ := p
    cases e with
    | error e => exact .stop _
    | ok fs =>
      dsimp only
      split
      · exact .stop _
      · split
        · exact .stop _
        · exact s.keepsSteps_pinnedOr (.of_walkStep walked)

/-- R283: the checks of steps read the state alone. -/
theorem State.keepsSteps_checkSteps (t : ThreadId) (g : Nat) (h off stride out ostride : W64) (steps : Nat) :
    (s.checkSteps t g h off stride out ostride steps).KeepsSteps s := by
  unfold State.checkSteps
  split
  · exact .ok (.refl s)
  · split
    · exact .stop _
    · split
      · exact .stop _
      · exact .ok (.refl s)

end

/-- R284: the limits of a scan. -/
theorem scanBad_eq_false_iff (stride steps ostride : W64) : scanBad stride steps ostride = false ↔
    stride.toNat % 128 = 0 ∧ ostride.toNat % 128 = 0 ∧ 1 ≤ steps.toNat ∧ steps.toNat ≤ 64 := by
  simp [scanBad, and_assoc, Nat.one_le_iff_ne_zero]

section

variable {s : State} {i : Instr} {g k : Nat} (hc : s.cur = .gang g k) (hb : s.begins i = true)
include hc hb

/-- R279: a word that names a stream and begins traps by its first failing check, or is accepted. -/
theorem issue_strmWord {body : ThreadId → State → Did} {h : W64} {d : Nat} {check : Nat → Pinned} {p : Pinned}
    {c : List Frames → CmdKind} {s1 : State} {fs : List Frames} (he : exec i s = issue i s body)
    (hi : engineOf i = some .stream) (hv : (shape i).vdst = []) (hd : body s.cur s.unheld = s.unheld.strmWord s.cur h d check c)
    (hp : check g = p) (hs : p.KeepsSteps s.unheld) :
    (s.unheld.batchFull g = true → exec i s = .next (s.trapped i (Trap.commandCheck 7))) ∧
    (s.unheld.batchFull g = false →
      (s.unheld.handleCause g h ≠ 0 → exec i s = .next (s.trapped i (Trap.commandCheck (s.unheld.handleCause g h)))) ∧
      (s.unheld.handleCause g h = 0 →
        (∀ tr, p = .stop (.trap tr) → exec i s = .next (s.trapped i tr)) ∧
        (p = .ok s1 fs → s1.queueFull g h = false → exec i s = .next (s.after (s1.acceptStrm g s.cur h d (c fs)))))) := by
  have hfull := State.strmFull_of_begins hc hi hb
  rw [hc] at hd
  rw [he]
  refine ⟨fun hbatch => issue_traps hb ?_, fun hbatch => ⟨fun hh => issue_traps hb ?_, fun hh => ⟨fun tr hk => issue_traps hb ?_,
    fun hk hq => issue_command hb hv ?_
      (.trans (hk ▸ hs : (Pinned.ok s1 fs).KeepsSteps s.unheld).sameSteps (s1.sameSteps_acceptStrm _ _ _ _ _))⟩⟩⟩
  · rw [hc, hd, State.strmWord_batch hfull hbatch]
  · rw [hc, hd, State.strmWord_handle hfull hbatch hh]
  · rw [hc, hd, State.strmWord_stops hfull hbatch hh (hp.trans hk)]
  · rw [hc, hd, State.strmWord_accepts hfull hbatch hh (hp.trans hk) hq]

end

/-! ### Opening and closing -/

section

variable {s : State} {t : Bool} {d a : BitVec 6} {g k : Nat} (hc : s.cur = .gang g k) (hb : s.begins (.strmOpen t d a) = true)
include hc hb

theorem execStrmOpen_batch (hbatch : s.unheld.batchFull g = true) :
    execStrmOpen t d a s = .next (s.trapped (.strmOpen t d a) (Trap.commandCheck 7)) :=
  issue_traps hb (by simp only [hc, State.strmFull_of_begins hc rfl hb, hbatch, Bool.false_eq_true, if_false, if_true])

variable (hbatch : s.unheld.batchFull g = false)
include hbatch

theorem execStrmOpen_traps (h : s.unheld.openCause g (s.unheld.getW s.cur a.toNat) ≠ 0) :
    execStrmOpen t d a s = .next (s.trapped (.strmOpen t d a)
      (Trap.commandCheck (s.unheld.openCause g (s.unheld.getW s.cur a.toNat)))) := by
  rw [hc] at h
  exact issue_traps hb (by simp only [hc, State.strmFull_of_begins hc rfl hb, hbatch, h, Bool.false_eq_true, if_false, if_true,
    ne_eq, not_false_eq_true])

/-- R281: an open is accepted: it holds its tiles from then on. -/
theorem execStrmOpen_opens (h : s.unheld.openCause g (s.unheld.getW s.cur a.toNat) = 0) :
    let x := parseCfg (s.unheld.getW s.cur a.toNat)
    let v := (s.unheld.issueCmd g (.strmOpen x.tile x.outer x.comp x.zero x.n d.toNat (s.unheld.group g).mq)).1
    execStrmOpen t d a s = .next (s.after
      ((v.holdTiles (s.unheld.group g).team (strmTiles x.tile x.comp)).emptyW s.cur d.toNat)) := by
  intro x v
  refine issue_command hb rfl ?_ (((s.unheld.sameSteps_issueCmd g _).trans (State.sameSteps_setTeam _ _ _)).trans
    (State.sameSteps_emptyW _ _ _))
  simp only [v, x]
  rw [hc] at h ⊢
  simp only [State.strmFull_of_begins hc rfl hb, hbatch, h, Bool.false_eq_true, if_false, ne_eq, not_true_eq_false]

end

section

variable {s : State} {t : Bool} {d a : BitVec 6} {g k : Nat} (hc : s.cur = .gang g k) (hb : s.begins (.strmClose t d a) = true)
  (hbatch : s.unheld.batchFull g = false)
include hc hb hbatch

theorem execStrmClose_traps (h : s.unheld.handleCause g (s.unheld.getW s.cur a.toNat) ≠ 0) :
    execStrmClose t d a s = .next (s.trapped (.strmClose t d a)
      (Trap.commandCheck (s.unheld.handleCause g (s.unheld.getW s.cur a.toNat)))) := by
  refine issue_traps hb ?_
  rw [hc] at h ⊢
  dsimp only
  rw [State.strmWord_handle (State.strmFull_of_begins hc rfl hb) hbatch h]

/-- R278, R288, R290: a close is accepted and gives up its stream's tiles. -/
theorem execStrmClose_closes (h : s.unheld.handleCause g (s.unheld.getW s.cur a.toNat) = 0) :
    let x := s.unheld.getW s.cur a.toNat
    execStrmClose t d a s = .next (s.after ((s.unheld.acceptStrm g s.cur x d.toNat
      (.strmClose (handleSlot x) (handleGen x) d.toNat)).startClose (s.unheld.group g).team (handleSlot x))) := by
  intro x
  have hq : s.unheld.queueFull g x = false := State.queueFull_of_begins hc rfl hb rfl (List.mem_singleton_self _)
  refine issue_command hb rfl ?_ ((s.unheld.sameSteps_acceptStrm _ _ _ _ _).trans (State.sameSteps_startClose _ _ _))
  simp only [x] at hq ⊢
  rw [hc] at h hq ⊢
  dsimp only
  rw [State.strmWord_accepts (State.strmFull_of_begins hc rfl hb) hbatch h rfl hq]

end

/-! ### Handles, settings and queues -/

/-- R280: a handle's bits outside SLOT and GEN are zero. -/
theorem handleOk_iff (h : W64) : handleOk h = true ↔ h.toNat % 2 ^ 8 = 0 ∧ h.toNat / 2 ^ 13 % 2 ^ 19 = 0 := by
  simp [handleOk]

/-- R280: a handle names an open stream of the team that is not closing. -/
theorem State.handleCause_eq (s : State) (g : Nat) {h : W64} (hok : handleOk h = true) :
    s.handleCause g h = (s.streamOf (s.group g).team (handleSlot h)).elim 12 fun x => if x.closing then 12 else 0 := by
  unfold State.handleCause
  rw [hok, if_neg (by simp)]
  cases s.streamOf (s.group g).team (handleSlot h) <;> rfl

/-- R278: a stream's tiles are its first, and with COMP the next. -/
theorem any_strmTiles (f : Nat → Bool) (m : Nat) (comp : Bool) :
    (strmTiles m comp).any f = true ↔ f m = true ∨ (comp = true ∧ f (m + 1) = true) := by
  cases comp <;> simp [strmTiles]

/-- R281: what of a CFG is cause 5. -/
theorem cfgBad_eq_false_iff (x : W64) (mt : Nat) :
    (((parseCfg x).outer && (parseCfg x).n != 2048) ||
      (strmTiles (parseCfg x).tile (parseCfg x).comp).any fun m => decide (mt ≤ m)) = false ↔
    (x.getLsbD 8 = true → x.toNat / 2 ^ 16 % 2 ^ 11 + 1 = 2048) ∧ x.toNat % 64 < mt ∧
      (x.getLsbD 9 = true → x.toNat % 64 + 1 < mt) := by
  rw [Bool.or_eq_false_iff, Bool.eq_false_iff (b := List.any ..), ne_eq, any_strmTiles]
  simp [parseCfg]

section

variable {s : State} {g : Nat} {x : W64}

theorem State.openCause_reserved (h : ¬ (x.toNat / 2 ^ 6 % 4 = 0 ∧ x.toNat / 2 ^ 11 % 2 ^ 5 = 0 ∧ x.toNat / 2 ^ 27 = 0)) :
    s.openCause g x = 1 :=
  if_pos (by simpa only [not_and_or] using h)

variable (hzero : x.toNat / 2 ^ 6 % 4 = 0 ∧ x.toNat / 2 ^ 11 % 2 ^ 5 = 0 ∧ x.toNat / 2 ^ 27 = 0)
include hzero

/-- R281: the limits of a CFG whose reserved bits are zero, then its tiles. -/
theorem State.openCause_eq : s.openCause g x =
    if ((parseCfg x).outer && (parseCfg x).n != 2048) ||
      (strmTiles (parseCfg x).tile (parseCfg x).comp).any fun m => decide ((s.descOf (s.group g).team).mtiles ≤ m) then 5
    else if (strmTiles (parseCfg x).tile (parseCfg x).comp).any (s.tileHeld g) then 10 else 0 :=
  if_neg (by simpa only [not_or, not_not] using hzero)

end

section

variable (s : State) (g : Nat) (th : ThreadId) (d : Nat) (c : CmdKind)

theorem State.setUni_streams (t : ThreadId) (u : Uni) : (s.setUni t u).streams = s.streams := by
  cases t <;> rfl

/-- R279: an accepted command joins its stream's queue. -/
theorem State.acceptStrm_queue {h : W64} {x : Stream} (hx : s.streamOf (s.group g).team (handleSlot h) = some x) :
    (s.acceptStrm g th h d c).streamOf (s.group g).team (handleSlot h) = some { x with queue := x.queue ++ [s.nextId] } := by
  have hx1 : (s.issueCmd g c).1.streamOf (s.group g).team (handleSlot h) = some x := hx
  simp only [State.acceptStrm, hx1, State.emptyW]
  simp only [State.streamOf, State.setUni_streams, State.setStream, Tbl.find?_insert_self]
  rfl

theorem State.acceptStrm_cmd (h : W64) : (s.acceptStrm g th h d c).cmds.find? s.nextId =
    some { group := g, team := (s.group g).team, kind := c, batch := (s.group g).batchNo } := by
  unfold State.acceptStrm
  dsimp only
  rw [State.emptyW, State.setUni_cmds]
  split
  · exact Tbl.find?_insert_self ..
  · exact Tbl.find?_insert_self ..

end

end Sys2Proof.Machine

open Sys2Proof Sys2Proof.Machine in
/-- Settles O51: each word waits, traps by its first failing check or is accepted; the causes are those of `handleCause` and
`openCause` in their order. -/
theorem streamWords : Obligations.StreamWords := by
  refine ⟨?_, ⟨?_, ?_, ?_⟩⟩
  · intro s s1 t h q d a g k fs hc u r slot gen out runs
    refine ⟨fun i hi hword hfull => exec_targetFull hword ((State.targetFull_stream hc hi).2 hfull), fun hb => ?_, fun hb => ?_,
      fun hb => ?_, fun hb => ?_, fun hb => ?_, fun hb _ _ => ?_, fun hb hbatch => ?_⟩
    · intro c v
      refine ⟨execStrmOpen_batch hc hb, fun hbatch => ⟨?_, ?_⟩⟩
      · exact execStrmOpen_traps hc hb hbatch
      · exact execStrmOpen_opens hc hb hbatch
    · exact issue_strmWord (c := fun _ => .strmStep slot gen (r 1).toNat (out (r 2)) d.toNat) hc hb
        (show exec _ s = execStrmStep t d a s from rfl) rfl rfl rfl rfl (u.keepsSteps_checkSteps ..)
    · have hcheck : (if scanBad (r 2) (r 3) (r 5) then .stop (.trap (Trap.commandCheck 5))
          else u.checkSteps s.cur g (r 0) (r 1) (r 2) (r 4) (r 5) (r 3).toNat) =
          if (r 2).toNat % 128 = 0 ∧ (r 5).toNat % 128 = 0 ∧ 1 ≤ (r 3).toNat ∧ (r 3).toNat ≤ 64 then
            u.checkSteps s.cur g (r 0) (r 1) (r 2) (r 4) (r 5) (r 3).toNat
          else .stop (.trap (Trap.commandCheck 5)) := by
        simp only [← scanBad_eq_false_iff, Bool.eq_false_iff, ne_eq, ite_not]
      have hkeeps : (if scanBad (r 2) (r 3) (r 5) then .stop (.trap (Trap.commandCheck 5))
          else u.checkSteps s.cur g (r 0) (r 1) (r 2) (r 4) (r 5) (r 3).toNat : Pinned).KeepsSteps u := by
        split
        · exact .stop _
        · exact u.keepsSteps_checkSteps ..
      rw [← hcheck]
      exact issue_strmWord (c := fun _ => .strmScan slot gen (r 1).toNat (r 2).toNat (r 3).toNat (out (r 4)) (r 5).toNat d.toNat) hc hb
        (show exec _ s = execStrmScan t d a s from rfl) rfl rfl rfl rfl hkeeps
    · exact issue_strmWord (c := fun fs => .strmSave slot gen h (r 1).toNat (fs.getD 0 []) d.toNat) hc hb
        (show exec _ s = execStrmSave t d a h s from rfl) rfl rfl rfl rfl (u.keepsSteps_checkRecord ..)
    · exact issue_strmWord (c := fun fs => .strmLoad slot gen (r 1).toNat (fs.getD 0 []) d.toNat) hc hb
        (show exec _ s = execStrmLoad t d a s from rfl) rfl rfl rfl rfl (u.keepsSteps_checkRecord ..)
    · exact issue_strmWord (c := fun _ => .strmQuery slot gen q d.toNat) hc hb
        (show exec _ s = execStrmQuery t d a q s from rfl) rfl rfl rfl rfl (.ok (.refl u))
    · exact ⟨execStrmClose_traps hc hb hbatch, execStrmClose_closes hc hb hbatch⟩
  · intro s g h x zero
    refine ⟨fun hz => if_pos (Bool.eq_false_iff.2 (mt (handleOk_iff h).1 hz)), fun hz hx => ?_, fun y hz hy => ?_⟩
    · rw [s.handleCause_eq g ((handleOk_iff h).2 hz), show s.streamOf (s.group g).team (handleSlot h) = none from hx]
      rfl
    · rw [s.handleCause_eq g ((handleOk_iff h).2 hz), show s.streamOf (s.group g).team (handleSlot h) = some y from hy]
      rfl
  · intro s g x m mt comp zero fits held
    have hbad := cfgBad_eq_false_iff x mt
    have hheld := any_strmTiles (s.tileHeld g) (parseCfg x).tile (parseCfg x).comp
    refine ⟨State.openCause_reserved, fun hz hf => ?_, fun hz hf hh => ?_, fun hz hf hh => ?_⟩
    · rw [State.openCause_eq hz, if_pos (Bool.not_eq_false _ ▸ hbad.not.2 hf)]
    · rw [State.openCause_eq hz, if_neg (Bool.eq_false_iff.1 (hbad.2 hf)), if_pos (hheld.2 hh)]
    · rw [State.openCause_eq hz, if_neg (Bool.eq_false_iff.1 (hbad.2 hf)), if_neg (hheld.not.2 hh)]
  · intro s g th h d k x hx v
    exact ⟨by rw [s.acceptStrm_queue g th d k hx]; rfl, by rw [s.acceptStrm_cmd g th d k h]; rfl⟩

end

section
/-! PROOFS. Partitions: their creation, and what halts them (R342, R345, R346, R384). -/

namespace Sys2Proof.Machine

/-! ### Tables -/

section

variable {α : Type}

theorem Tbl.mem_of_find? {m : Tbl α} {k : Nat} {x : α} (h : m.find? k = some x) : (k, x) ∈ m := by
  induction m with
  | nil => cases h
  | cons e t ih =>
    obtain ⟨a, y⟩ := e
    by_cases ha : a = k
    · rw [Tbl.find?, if_pos ha] at h
      cases h
      rw [ha]
      exact List.mem_cons_self
    · rw [Tbl.find?, if_neg ha] at h
      exact List.mem_cons_of_mem _ (ih h)

/-- An entry found among those that a test keeps passes the test. -/
theorem Tbl.of_find?_filter {m : Tbl α} {p : Nat × α → Bool} {k : Nat} {x : α} (h : Tbl.find? (m.filter p) k = some x) :
    p (k, x) = true :=
  (List.mem_filter.1 (Tbl.mem_of_find? h)).2

/-- A table none of whose entries of a key passes a test holds no entry of it after the test. -/
theorem Tbl.find?_filter_eq_none {m : Tbl α} {p : Nat × α → Bool} {k : Nat} (h : ∀ x, p (k, x) = false) :
    Tbl.find? (m.filter p) k = none := by
  cases hx : Tbl.find? (m.filter p) k with
  | none => rfl
  | some x => exact absurd (Tbl.of_find?_filter hx) (Bool.eq_false_iff.1 (h x))

theorem Tbl.find?_map {β : Type} (m : Tbl α) (f : Nat → α → β) (k : Nat) :
    Tbl.find? (m.map fun e => (e.1, f e.1 e.2)) k = (m.find? k).map (f k) := by
  induction m with
  | nil => rfl
  | cons e t ih =>
    obtain ⟨a, y⟩ := e
    by_cases ha : a = k
    · subst ha
      simp [Tbl.find?]
    · simp only [List.map_cons, Tbl.find?, if_neg ha, ih]

end

/-! ### Creation (R342, R345) -/

/-- R342: the blocks of clusters. -/
theorem blockOk_iff (base logk : Nat) : blockOk base logk = true ↔ 2 ≤ logk ∧ logk ≤ 8 ∧ 2 ^ logk ∣ base ∧ base + 2 ^ logk ≤ 256 := by
  rw [blockOk, decide_eq_true_iff, Nat.dvd_iff_mod_eq_zero]

section

variable (s : State) (part base logk : Nat) (key : BitVec 512)

/-- R342, R345: the partition that a creation leaves under its number. -/
theorem State.createPart_part : let p := (s.createPart part base logk key).part part
    p.base = base ∧ p.logk = logk ∧ p.key = key ∧ p.halted = false ∧
      ∀ c ∈ p.chans, ∀ e ∈ s.realParts, e.1 ≠ part → c ∉ e.2.chans := by
  intro p
  have hp : (s.createPart part base logk key).parts.find? part = some p := by
    simp only [p, State.part]
    simp only [State.createPart, Tbl.find?_insert_self, Option.getD_some]
  simp only [State.createPart, Tbl.find?_insert_self, Option.some.injEq] at hp
  rw [← hp]
  refine ⟨rfl, rfl, rfl, rfl, fun c hc e he hne hmem => ?_⟩
  have hheld := (List.mem_filter.1 hc).2
  simp only [Bool.not_eq_true', List.contains_eq_mem, decide_eq_false_iff_not] at hheld
  exact hheld (List.mem_flatMap.2 ⟨e, List.mem_filter.2 ⟨he, by simpa using hne⟩, hmem⟩)

/-- R345: a created partition has no team. -/
theorem State.createPart_team {k : Nat} (h : ((s.createPart part base logk key).teams.find? k).isSome = true) :
    ((s.createPart part base logk key).team k).part ≠ part := by
  obtain ⟨x, hx⟩ := Option.isSome_iff_exists.1 h
  have hne : (x.part != part) = true := Tbl.of_find?_filter (p := fun e : Nat × Team => e.2.part != part) hx
  rw [State.team, hx]
  simpa using hne

/-- R345: a created partition has no context. -/
theorem State.createPart_ctx {c : Nat} (hc : c < 256) : (s.createPart part base logk key).ctxs.find? (256 * part + c) = none := by
  refine Tbl.find?_filter_eq_none (m := s.ctxs) (p := fun e => e.1 / 256 != part) fun x => ?_
  have : (256 * part + c) / 256 = part := by omega
  simp [this]

/-- R345, R346: when a partition is created. -/
theorem execPartitionCreation_eq : execPartitionCreation part base logk key s = .next
    (if part < 48 ∧ blockOk base logk = true ∧ s.blockFree part base logk = true ∧
      (∀ p, s.parts.find? part = some p → p.halted = true) then s.createPart part base logk key else s) := by
  unfold execPartitionCreation event
  cases s.parts.find? part <;> simp [and_assoc]

end

/-! ### Halts (R346, R384) -/

/-- R346: what a halt makes of a partition. -/
def Part.halt (erase : Bool) (p : Part) : Part := { p with halted := true, arrivals := [], key := if erase then 0 else p.key }

section

variable (s : State) (ks : List Nat) (erase : Bool)

/-- R346: the partitions of a list have halted. -/
theorem State.parts_haltParts (k : Nat) : (ks.foldl (fun t k => t.haltPart k erase) s).parts.find? k =
    if k ∈ ks then (s.parts.find? k).map (Part.halt erase) else s.parts.find? k := by
  induction ks generalizing s with
  | nil => rfl
  | cons j ks ih =>
    have hj : (s.haltPart j erase).parts.find? k = if k = j then (s.parts.find? j).map (Part.halt erase) else s.parts.find? k :=
      Tbl.find?_modify ..
    have htwice : Part.halt erase ∘ Part.halt erase = Part.halt erase := by
      funext p
      cases erase <;> rfl
    rw [List.foldl_cons, ih, hj]
    by_cases hk : k = j
    · subst hk
      by_cases hmem : k ∈ ks <;> simp [hmem, htwice]
    · simp [hk]

theorem State.root_haltParts : (ks.foldl (fun t k => t.haltPart k erase) s).root = s.root := by
  induction ks generalizing s with
  | nil => rfl
  | cons j ks ih => exact ih (s.haltPart j erase)

theorem State.mem_haltParts : (ks.foldl (fun t k => t.haltPart k erase) s).mem = s.mem := by
  induction ks generalizing s with
  | nil => rfl
  | cons j ks ih => exact ih (s.haltPart j erase)

end

section

variable (s : State)

theorem State.mem_realParts {k : Nat} {p : Part} (hk : k < 48) (hp : s.parts.find? k = some p) : (k, p) ∈ s.realParts :=
  List.mem_filter.2 ⟨Tbl.mem_of_find? hp, decide_eq_true hk⟩

/-- R346: the numbers of the partitions that an alarm halts. -/
def State.alarmed (die : Nat) (tamper : Bool) : List Nat := (s.realParts.filter fun e => tamper || e.2.onBase die).map (·.1)

theorem State.mem_alarmed {die k : Nat} {tamper : Bool} {p : Part} (hk : k < 48) (hp : s.parts.find? k = some p)
    (h : tamper = true ∨ p.onBase die = true) : k ∈ s.alarmed die tamper :=
  List.mem_map.2 ⟨(k, p), List.mem_filter.2 ⟨s.mem_realParts hk hp, by simpa using h⟩, rfl⟩

theorem State.not_mem_alarmed {die k : Nat} {tamper : Bool} (hk : 48 ≤ k) : k ∉ s.alarmed die tamper := by
  intro h
  obtain ⟨e, he, rfl⟩ := List.mem_map.1 h
  have := (List.mem_filter.1 (List.mem_filter.1 he).1).2
  exact absurd (of_decide_eq_true this) (not_lt.2 hk)

theorem State.halt_of_find? {k : Nat} {p : Part} {erase : Bool} (h : s.parts.find? k = some (p.halt erase)) :
    (s.part k).halted = true ∧ (s.part k).key = if erase then 0 else p.key := by
  rw [State.part, h]
  exact ⟨rfl, rfl⟩

/-- R346: the alarm. -/
theorem execSecurityAlarm_spec {die : Nat} (tamper : Bool) (hdie : die < 4) : ∃ t, execSecurityAlarm die tamper s = .next t ∧
    (∀ k p, k < 48 → s.parts.find? k = some p → (tamper = true ∨ p.onBase die = true) →
      (t.part k).halted = true ∧ (t.part k).key = 0) ∧
    (∀ k, 48 ≤ k → t.parts.find? k = s.parts.find? k) ∧
    t.root.seccfg.getLsbD (die + 1) = true ∧ t.root.reports = s.root.reports ++ [.securityAlarm die tamper] ∧
    (s.root.bootstat.getLsbD 20 = true → t.root.bootstat = 0x100000 ∧ t.root.th.mode = .idle) := by
  have hparts := s.parts_haltParts (s.alarmed die tamper) true
  have hroot := s.root_haltParts (s.alarmed die tamper) true
  rw [execSecurityAlarm, if_neg (not_le.2 hdie)]
  refine ⟨_, rfl, fun k p hk hp h => ?_, fun k hk => ?_, ?_, ?_, fun htrain => ?_⟩
  · have ht := hparts k
    rw [if_pos (s.mem_alarmed hk hp h), hp] at ht
    exact State.halt_of_find? _ ht
  · have ht := hparts k
    rw [if_neg (s.not_mem_alarmed hk)] at ht
    exact ht
  · rw [BitVec.getLsbD_or, BitVec.getLsbD_ofNat, Nat.testBit_two_pow_self]
    simp [show die + 1 < 64 by omega]
  · exact congrArg (fun r : Root => r.reports ++ _) hroot
  · have hbit : (State.root _).bootstat.getLsbD 20 = true := (congrArg (fun r : Root => r.bootstat.getLsbD 20) hroot).trans htrain
    exact ⟨if_pos hbit, congrArg Scalar.mode (if_pos hbit)⟩

/-- R384: every partition halts with its key, and memory stays. -/
theorem State.thermalHalt_spec (tj : BitVec 8) :
    (∀ k p, k < 48 → s.parts.find? k = some p → ((s.thermalHalt tj).part k).halted = true ∧ ((s.thermalHalt tj).part k).key = p.key) ∧
    (s.thermalHalt tj).root.reports = s.root.reports ++ [.thermalTrip tj] ∧ (s.thermalHalt tj).mem = s.mem := by
  refine ⟨fun k p hk hp => ?_, ?_, s.mem_haltParts _ _⟩
  · have ht := s.parts_haltParts (s.realParts.map (·.1)) false k
    rw [if_pos (List.mem_map.2 ⟨_, s.mem_realParts hk hp, rfl⟩), hp] at ht
    exact State.halt_of_find? _ ht
  · exact congrArg (fun r : Root => r.reports ++ [Report.thermalTrip tj]) (s.root_haltParts _ _)

/-- R384: the halt after any write of `sr.PWRSTAT`. -/
theorem State.thermalHalt_pwrstat (w : W64) (tj : BitVec 8) :
    let t := ({ s with root := { s.root with pwrstat := w } } : State).thermalHalt tj
    (∀ k p, k < 48 → s.parts.find? k = some p → (t.part k).halted = true ∧ (t.part k).key = p.key) ∧
    t.root.reports = s.root.reports ++ [.thermalTrip tj] ∧ t.mem = s.mem :=
  State.thermalHalt_spec { s with root := { s.root with pwrstat := w } } tj

/-- R384: the trip. -/
theorem execThermalTrip_spec {tj : BitVec 8} (htj : 115 ≤ tj.toNat) : ∃ t, execThermalTrip tj s = .next t ∧
    (∀ k p, k < 48 → s.parts.find? k = some p → (t.part k).halted = true ∧ (t.part k).key = p.key) ∧
    t.root.reports = s.root.reports ++ [.thermalTrip tj] ∧ t.mem = s.mem := by
  rw [execThermalTrip, if_neg (not_lt.2 htj)]
  exact ⟨_, rfl, s.thermalHalt_pwrstat (setField s.root.pwrstat 40 8 tj.toNat) tj⟩

/-- R346, R384: no thread of a halted partition issues. -/
theorem State.runnable_of_halted {t : ThreadId} (ht : t ≠ .monitor) (h : (s.part (s.partOf t)).halted = true) :
    s.runnable t = false := by
  have hhalted : s.partHalted t = true := by
    cases t with
    | monitor => exact absurd rfl ht
    | _ => exact h
  simp only [State.runnable, hhalted, Bool.not_true, Bool.and_false, Bool.false_and]

end

end Sys2Proof.Machine

end

section
/-! PROOFS. Borders, windows, virtual functions and service images (R165, R166, R340 to R344). -/

namespace Sys2Proof.Machine

/-! ### Borders (R343) -/

theorem mem_blockClusters (base logk c : Nat) : c ∈ blockClusters base logk ↔ base ≤ c ∧ c < base + 2 ^ logk := by
  simp only [blockClusters, List.mem_map, List.mem_range]
  constructor
  · rintro ⟨i, hi, rfl⟩
    omega
  · rintro ⟨hlo, hhi⟩
    exact ⟨c - base, by omega, by omega⟩

section

variable {s : State} {part : Nat} {p : Part} (hp : s.parts.find? part = some p)
include hp

theorem State.part_of_find? : s.part part = p := by
  rw [State.part, hp]
  rfl

theorem State.part_modPart_of_find? (f : Part → Part) : (s.modPart part f).part part = f p := by
  rw [State.part_modPart f (by rw [hp]; rfl), State.part_of_find? hp]

/-- R343 step 1: the clusters that depart. -/
theorem State.mem_leaving_startBorder (b : Border) (c : Nat) : c ∈ ((s.startBorder part b).part part).leaving ↔
    p.base ≤ c ∧ c < p.base + 2 ^ p.logk ∧ (c < b.base ∨ b.base + 2 ^ b.logk ≤ c) := by
  rw [State.startBorder, State.part_modPart_of_find? hp, List.mem_filter, mem_blockClusters]
  simp only [inBlock, Bool.not_eq_true', decide_eq_false_iff_not]
  omega

section

variable {base logk deadline : Nat} {pages : Bool}

theorem execBorderChange_begins (hn : p.border = none) (hok : blockOk base logk = true ∧ s.blockFree part base logk = true) :
    execBorderChange part base logk deadline pages s = .next ((s.startBorder part
      ⟨base, logk, s.time + (if deadline = 0 then 1000000 else deadline), pages, none⟩).advanceBorder part) := by
  simp only [execBorderChange, hp, hn, hok, event, Option.isSome_none, Bool.false_eq_true, if_false, Bool.and_self, if_true]

theorem execBorderChange_refused (hn : p.border = none) (hok : ¬ (blockOk base logk = true ∧ s.blockFree part base logk = true)) :
    execBorderChange part base logk deadline pages s = .next (s.notify part 6 0 2) := by
  simp only [execBorderChange, hp, hn, event, Option.isSome_none, Bool.false_eq_true, if_false, Bool.and_eq_true, hok]

theorem execBorderChange_again (hb : p.border.isSome = true) :
    execBorderChange part base logk deadline pages s = .next ((s.modPart part fun q => { q with
      border := q.border.map fun b => { b with pagesMigrated := b.pagesMigrated || pages } }).advanceBorder part) := by
  simp only [execBorderChange, hp, hb, event, if_true]

end

section

variable {x : Border} (hx : p.border = some x)
include hx

theorem execBorderDeadline_early (h : s.time < x.deadline) : execBorderDeadline part s = .next s := by
  simp only [execBorderDeadline, hp, hx, h, event, if_true]

/-- R343 step 2: at the deadline. -/
theorem execBorderDeadline_passed (h : x.deadline ≤ s.time) :
    let hit := fun c => (s.ctxTeams part c).any (fun k => (s.team k).placed && p.leaving.contains (s.team k).cluster) ||
      (s.ctxSpines part c).any p.leaving.contains
    let t := (s.ctxsOf part (· == .resident)).foldl (fun t c =>
      if hit c then (t.raiseRequest part c 2 false).modCtx part c fun x => { x with resume := true } else t) s
    execBorderDeadline part s = .next (t.advanceBorder part) := by
  simp only [execBorderDeadline, hp, hx, not_lt.2 h, event, if_false]

theorem State.advanceBorder_waits
    (h : s.unitsOn part p.leaving.contains = true ∨ s.ctxsOf part (· == .saving) ≠ []) : s.advanceBorder part = s := by
  simp only [State.advanceBorder, hp, hx]
  exact if_pos (by simpa using h)

/-- R343: a change ends once its clusters are empty. -/
theorem State.advanceBorder_ends {t : State} (hunits : s.unitsOn part p.leaving.contains = false)
    (hsaving : s.ctxsOf part (· == .saving) = []) (hf : s.finishBorder part p x = some t) (hr : x.recv = none) :
    s.advanceBorder part = t := by
  simp only [State.advanceBorder, hp, hx, hunits, hsaving, hf, hr, List.isEmpty_nil, Bool.not_true, Bool.or_self, Bool.false_eq_true,
    if_false]

end

end

/-! ### The end of a window (R166) -/

/-- R165, R166: what a window has found of two partitions side by side. -/
theorem found_iff (p q : Part) : (p.short && q.rich && sideBySide p q) = true ↔
    p.short = true ∧ q.rich = true ∧ (p.base + 2 ^ p.logk = q.base ∨ q.base + 2 ^ q.logk = p.base) := by
  simp [sideBySide, and_assoc]

section

variable {s : State} {short rich base logk : Nat} {p q : Part} (hp : s.parts.find? short = some p) (hq : s.parts.find? rich = some q)
include hp hq

theorem execPartitionWindowEnd_moving (h : p.border.isSome = true ∨ q.border.isSome = true) :
    execPartitionWindowEnd short rich base logk s = .next (s.advanceBorder rich) := by
  simp only [execPartitionWindowEnd, hp, hq, event, Bool.or_eq_true, h, if_true]

variable (hpb : p.border = none) (hqb : q.border = none)
include hpb hqb

theorem execPartitionWindowEnd_unfound
    (h : ¬ (p.short = true ∧ q.rich = true ∧ (p.base + 2 ^ p.logk = q.base ∨ q.base + 2 ^ q.logk = p.base))) :
    execPartitionWindowEnd short rich base logk s = .next s := by
  have hfound : (p.short && q.rich && sideBySide p q) = false := Bool.eq_false_iff.2 (mt (found_iff p q).1 h)
  simp only [execPartitionWindowEnd, hp, hq, hpb, hqb, hfound, event, Option.isSome_none, Bool.or_self, Bool.false_eq_true, if_false,
    Bool.not_false, if_true]

variable (hfound : p.short = true ∧ q.rich = true ∧ (p.base + 2 ^ p.logk = q.base ∨ q.base + 2 ^ q.logk = p.base))
include hfound

theorem execPartitionWindowEnd_moves (h : halvesOk p q base logk = true) :
    execPartitionWindowEnd short rich base logk s = .next (((s.modPart short fun p => { p with short := false }).startBorder rich
      ⟨if base = q.base then q.base + 2 ^ logk else q.base, logk, s.time + 1000000, false, some short⟩).advanceBorder rich) := by
  simp only [execPartitionWindowEnd, hp, hq, hpb, hqb, (found_iff p q).2 hfound, h, event, Option.isSome_none, Bool.or_self,
    Bool.false_eq_true, if_false, Bool.not_true, if_true]

theorem execPartitionWindowEnd_missed (hnone : ∀ b, b < 256 → halvesOk p q b p.logk = false) (h : halvesOk p q base logk = false) :
    execPartitionWindowEnd short rich base logk s = .next ((s.modPart short fun p => { p with short := false }).modPart short
      fun p => { p with missed := p.missed + 1 }) := by
  have hany : ((List.range 256).any fun b => halvesOk p q b p.logk) = false :=
    List.any_eq_false.2 fun b hb => Bool.eq_false_iff.1 (hnone b (List.mem_range.1 hb))
  simp only [execPartitionWindowEnd, hp, hq, hpb, hqb, (found_iff p q).2 hfound, h, hany, event, Option.isSome_none,
    Bool.or_self, Bool.false_eq_true, if_false, Bool.not_true]

end

/-! ### The windows (R165) -/

theorem foldl_min_le (l : List Nat) (a : Nat) : l.foldl min a ≤ a ∧ ∀ x ∈ l, l.foldl min a ≤ x := by
  induction l generalizing a with
  | nil => simp
  | cons y l ih =>
    obtain ⟨hmin, hmem⟩ := ih (min a y)
    refine ⟨hmin.trans (min_le_left a y), fun x hx => ?_⟩
    rcases List.mem_cons.1 hx with rfl | hx
    · exact hmin.trans (min_le_right a x)
    · exact hmem x hx

section

variable (s : State) (n : Nat)

theorem State.time_le_tick : s.time ≤ (s.tick n).time := le_max_left ..

theorem State.tick_le : (s.tick n).time ≤ s.time + n :=
  max_le (Nat.le_add_right ..) (foldl_min_le s.deadlines (s.time + n)).1

/-- R165: time does not pass the end of a window. -/
theorem State.tick_le_window : (s.tick n).time ≤ max s.time ((s.time / 10000000 + 1) * 10000000) := by
  refine max_le_max le_rfl ((foldl_min_le s.deadlines (s.time + n)).2 _ ?_)
  exact List.mem_append_right _ (List.mem_singleton.2 rfl)

/-- R165: a partition after time has passed. -/
theorem State.find?_tick {k : Nat} {p : Part} (hp : s.parts.find? k = some p) : (s.tick n).parts.find? k =
    some (if s.time < (s.tick n).time ∧ (s.tick n).time % 10000000 = 0 then (s.account ((s.tick n).time - s.time) k p).endWindow
      else s.account ((s.tick n).time - s.time) k p) := by
  refine (Tbl.find?_map s.parts (fun k p => if s.time < (s.tick n).time ∧ (s.tick n).time % windowNs = 0 then
    (s.account ((s.tick n).time - s.time) k p).endWindow else s.account ((s.tick n).time - s.time) k p) k).trans ?_
  rw [hp]
  rfl

/-- R165: what of a window goes on. -/
theorem State.account_spec (dt k : Nat) (p : Part) :
    let busy := (s.busyCores k).length
    let waits := ∃ e ∈ s.grids, e.2.part = k ∧ (e.2.phase = .passed ∨ e.2.phase = .placing)
    let q := s.account dt k p
    q.use = p.use + dt * busy ∧ (q.kept = true ↔ p.kept = true ∧ waits) ∧
      (q.airy = true ↔ p.airy = true ∧ 4 * busy ≤ 3 * (4 * (s.clustersIn k).length)) ∧ q.short = p.short ∧ q.rich = p.rich ∧
      q.target = p.target := by
  refine ⟨rfl, ?_, ?_, rfl, rfl, rfl⟩
  · simp only [State.account, Bool.and_eq_true, List.any_eq_true, Bool.or_eq_true, beq_iff_eq]
  · simp only [State.account, Bool.and_eq_true, decide_eq_true_eq]

end

/-! ### Virtual functions (R340, R341) -/

section

variable {s : State} {part func : Nat}

/-- R340: when a switch of functions may be asked for. -/
def State.MaySwitch (s : State) (part func : Nat) (p : Part) : Prop :=
  func < 64 ∧ part < 48 ∧ p.halted = false ∧ p.func ≠ func ∧ ∀ q, s.funcPart.find? func = some q → q = part

theorem execFunctionSwitch_begins {p : Part} (hp : s.parts.find? part = some p) (h : s.MaySwitch part func p) :
    execFunctionSwitch part func s = .next ((s.modPart part fun q => { q with toFunc := some func }).advanceSwitch part func) := by
  obtain ⟨hfunc, hpart, hhalted, hother, hhere⟩ := h
  simp only [execFunctionSwitch, hp, event]
  refine if_neg ?_
  cases hf : s.funcPart.find? func with
  | none => simp [hfunc, hpart, hhalted, hother]
  | some q => simp [hfunc, hpart, hhalted, hother, hhere q hf]

theorem execFunctionSwitch_ignored {p : Part} (hp : s.parts.find? part = some p) (h : ¬ s.MaySwitch part func p) :
    execFunctionSwitch part func s = .next s := by
  simp only [execFunctionSwitch, hp, event]
  refine if_pos ?_
  by_contra hn
  simp only [Bool.or_eq_true, decide_eq_true_eq, beq_iff_eq, not_or, not_le, Bool.not_eq_true] at hn
  obtain ⟨⟨⟨⟨hfunc, hpart⟩, hhalted⟩, hother⟩, hhere⟩ := hn
  refine h ⟨hfunc, hpart, hhalted, hother, fun q hq => ?_⟩
  rw [hq] at hhere
  simpa using hhere

theorem State.advanceSwitch_running (h : (s.part part).switching.isSome = true) : s.advanceSwitch part func = s :=
  if_pos h

variable (h : (s.part part).switching = none)
include h

theorem State.advanceSwitch_preempts (hr : s.ctxsOf part (· == .resident) ≠ []) : s.advanceSwitch part func =
    (s.ctxsOf part (· == .resident)).foldl (fun t k =>
      (t.raiseRequest part k 1 false).modCtx part k fun x => { x with resume := true }) s := by
  obtain ⟨c, cs, hcs⟩ := List.exists_cons_of_ne_nil hr
  simp only [State.advanceSwitch, h, hcs, Option.isSome_none, Bool.false_eq_true, if_false]

variable (hr : s.ctxsOf part (· == .resident) = [])
include hr

theorem State.advanceSwitch_swaps (hs : s.ctxsOf part (· == .saving) = []) : s.advanceSwitch part func = s.swapFunction part func := by
  simp only [State.advanceSwitch, h, hr, hs, Option.isSome_none, Bool.false_eq_true, if_false, List.isEmpty_nil, if_true]

theorem State.advanceSwitch_waits (hs : s.ctxsOf part (· == .saving) ≠ []) : s.advanceSwitch part func = s := by
  simp only [State.advanceSwitch, h, hr, List.isEmpty_iff, hs, Option.isSome_none, Bool.false_eq_true, if_false]

end

/-! ### Service images (R344) -/

/-- Calls accepted before a new image, a running `sys.ctxsw`, or a call of the service core itself. -/
def Part.serves (p : Part) : Prop :=
  (∃ e ∈ p.calls, BitVec.ofNat 32 e.1 ∉ p.late) ∨ p.switching.isSome = true ∨ ∃ r, p.svc.mode = .calling r

section

variable {s : State} {part : Nat} {e : Addr} (he : (s.part part).nextImage = some e)
include he

theorem State.handImage_waits (h : (s.part part).serves) : s.handImage part = s := by
  simp only [State.handImage, he]
  refine if_pos ?_
  rcases h with ⟨c, hc, hl⟩ | hs | ⟨r, hr⟩
  · have hany : ((s.part part).calls.any fun c => !(s.part part).late.contains (BitVec.ofNat 32 c.1)) = true :=
      List.any_eq_true.2 ⟨c, hc, by simpa using hl⟩
    rw [hany, Bool.true_or, Bool.true_or]
  · rw [hs, Bool.or_true, Bool.true_or]
  · rw [hr, Bool.or_true]

/-- R344: the image takes over and the calls that queued for it are made known. -/
theorem State.handImage_takes (h : ¬ (s.part part).serves) : s.handImage part =
    (s.part part).late.foldl (fun t id => t.callNotice part id) (s.modPart part fun q => { q with
      image := some e, nextImage := none, late := [], lateAt := none
      svc := { q.svc with pc := e, mode := .run, part := part, waiting := false } }) := by
  obtain ⟨hcalls, hswitch, hmode⟩ : _ ∧ _ ∧ _ := by simpa only [Part.serves, not_or] using h
  have hany : ((s.part part).calls.any fun c => !(s.part part).late.contains (BitVec.ofNat 32 c.1)) = false :=
    List.any_eq_false.2 fun c hc hl => hcalls ⟨c, hc, by simpa using hl⟩
  simp only [State.handImage, he, hany, Bool.eq_false_iff.2 hswitch, Bool.or_self, Bool.false_or]
  cases hm : (s.part part).svc.mode with
  | calling r => exact absurd ⟨r, hm⟩ hmode
  | _ => rfl

end

/-- R338: the notice of a call adds to the partition's notices alone. -/
theorem State.callNotices_part (s : State) (part : Nat) (ids : List W32) :
    ∃ l, (ids.foldl (fun t id => t.callNotice part id) s).part part = { s.part part with notices := l } := by
  induction ids generalizing s with
  | nil => exact ⟨_, rfl⟩
  | cons id ids ih =>
    have hone : ∃ l, (s.callNotice part id).part part = { s.part part with notices := l } := by
      unfold State.callNotice
      split
      case h_2 => exact ⟨_, rfl⟩
      case h_1 c hc =>
        cases hp : s.parts.find? part with
        | none => rw [State.part, hp] at hc; cases hc
        | some p => exact ⟨_, State.part_modPart _ (by rw [hp]; rfl)⟩
    obtain ⟨l, hl⟩ := ih (s.callNotice part id)
    obtain ⟨l1, hl1⟩ := hone
    exact ⟨l, by rw [List.foldl_cons, hl, hl1]⟩

/-- R344: a new image, once it is loaded. -/
theorem execServiceImageLoad_spec {s : State} {part : Nat} {p : Part} (entry : BitVec 48) (hp : s.parts.find? part = some p) :
    ∃ t, execServiceImageLoad part entry s = .next t ∧
      (p.serves → (t.part part).nextImage = some entry ∧ (t.part part).image = p.image ∧ (t.part part).svc = p.svc) ∧
      (¬ p.serves → (t.part part).nextImage = none ∧ (t.part part).image = some entry ∧
        (t.part part).svc = { p.svc with pc := entry, mode := .run, part := part, waiting := false }) := by
  have hpart := State.part_modPart_of_find? hp fun p => { p with nextImage := some entry }
  have hnext : ((s.modPart part fun p => { p with nextImage := some entry }).part part).nextImage = some entry := by rw [hpart]
  have hserves : ((s.modPart part fun p => { p with nextImage := some entry }).part part).serves ↔ p.serves := by rw [hpart]; rfl
  refine ⟨_, rfl, fun h => ?_, fun h => ?_⟩
  · rw [State.handImage_waits hnext (hserves.2 h), hpart]
    exact ⟨rfl, rfl, rfl⟩
  · rw [State.handImage_takes hnext (mt hserves.1 h)]
    obtain ⟨l, hl⟩ := State.callNotices_part ((s.modPart part fun p => { p with nextImage := some entry }).modPart part fun q => { q with
      image := some entry, nextImage := none, late := [], lateAt := none
      svc := { q.svc with pc := entry, mode := .run, part := part, waiting := false } }) part _
    rw [hl, State.part_modPart _ (by rw [State.modPart, Tbl.find?_modify, if_pos rfl, hp]; rfl), hpart]
    exact ⟨rfl, rfl, rfl⟩

end Sys2Proof.Machine

open Sys2Proof Sys2Proof.Machine in
/-- Settles O53: each event's cases, by the rules of its partitions above. -/
theorem partitionEvents : Obligations.PartitionEvents := by
  refine ⟨⟨?_, blockOk_iff, ?_, ?_, ?_, ?_⟩, ⟨?_, ?_, ?_⟩, ⟨?_, ?_⟩⟩
  · intro s part base logk key ok
    refine ⟨fun h => ?_, fun h => ?_, ?_⟩
    · exact (execPartitionCreation_eq ..).trans (by rw [if_pos h])
    · exact (execPartitionCreation_eq ..).trans (by rw [if_neg h])
    · intro t p
      obtain ⟨hbase, hlogk, hkey, hhalted, hchans⟩ := s.createPart_part part base logk key
      exact ⟨hbase, hlogk, hkey, hhalted, fun k => s.createPart_team part base logk key, fun c => s.createPart_ctx part base logk key,
        hchans⟩
  · exact fun s die tamper h => if_pos h
  · exact fun s die tamper h => execSecurityAlarm_spec s tamper h
  · exact fun s tj => ⟨fun h => if_pos h, fun h => execThermalTrip_spec s h⟩
  · exact fun s t ht h => s.runnable_of_halted ht h
  · intro s part base logk deadline pages p hp b ok
    exact ⟨execBorderChange_begins hp, execBorderChange_refused hp, execBorderChange_again hp, State.mem_leaving_startBorder hp b,
      fun x hx => ⟨execBorderDeadline_early hp hx, execBorderDeadline_passed hp hx, State.advanceBorder_waits hp hx,
        fun t => State.advanceBorder_ends hp hx⟩⟩
  · intro s short rich base logk p q hp hq
    exact ⟨execPartitionWindowEnd_moving hp hq, fun hpb hqb => ⟨execPartitionWindowEnd_unfound hp hq hpb hqb,
      execPartitionWindowEnd_moves hp hq hpb hqb, execPartitionWindowEnd_missed hp hq hpb hqb⟩⟩
  · intro s k n p hp t dt busy cores waits
    obtain ⟨huse, hkept, hairy, hshort, hrich, htarget⟩ := s.account_spec dt k p
    refine ⟨s.time_le_tick n, s.tick_le n, s.tick_le_window n, fun h => ?_, fun hlt h => ?_⟩
    · refine ⟨s.account dt k p, ?_, huse, hkept, hairy, hshort, hrich⟩
      rw [s.find?_tick n hp, if_neg fun hend => h hend.2]
    · refine ⟨(s.account dt k p).endWindow, ?_, rfl, ?_, hairy, rfl, rfl⟩
      · rw [s.find?_tick n hp, if_pos ⟨hlt, h⟩]
      · simp only [Part.endWindow, Bool.and_eq_true, decide_eq_true_eq, huse, hkept, htarget]
        rfl
  · intro s part func p hp may u
    exact ⟨execFunctionSwitch_ignored hp, execFunctionSwitch_begins hp, State.advanceSwitch_running,
      fun h => ⟨State.advanceSwitch_preempts h, State.advanceSwitch_swaps h, State.advanceSwitch_waits h⟩⟩
  · exact fun s part entry p hp => execServiceImageLoad_spec entry hp

end

section
/-! PROOFS. What write-backs leave: of the cluster's sectors (R201), of memory (R189, R345), and of the signatures and accumulators
(R202 to R206). -/

namespace Sys2Proof.Machine

/-! ### Entries of a table -/

theorem Tbl.find?_of_mem {α : Type} {m : Tbl α} (hm : m.sorted = true) {e : Nat × α} (he : e ∈ m) : m.find? e.1 = some e.2 := by
  induction m with
  | nil => cases he
  | cons c t ih =>
    obtain ⟨a, x⟩ := c
    obtain ⟨habove, ht⟩ := (Tbl.sorted_cons a x t).1 hm
    rcases List.mem_cons.1 he with rfl | he
    · exact if_pos rfl
    · exact (if_neg (habove e he).ne).trans (ih ht he)

/-! ### What writing a line at its slice leaves alone -/

/-- The state with everything cleared that requests, signatures and what the slices hold may change, but no byte written. -/
def State.kept (s : State) : State :=
  { s with
    l2 := [], sigs := [], accs := [], outs := [], reqNos := [], windows := [], dirs := [], hostHeld := [], gateDue := [], devLog := []
    fresh := 0 }

section

variable (s : State)

theorem State.kept_sliceTouch (part pa : Nat) (w : Bool) (tag : Nat) : (s.sliceTouch part pa w tag).kept = s.kept := by
  obtain ⟨l, d, x, f, h, e⟩ := s.sliceTouch_eq part pa w tag
  rw [e]
  rfl

theorem State.kept_postLate (by_ : Poster) (cpt far : Nat) (op : FarOp) : (s.postLate by_ cpt far op).kept = s.kept := by
  unfold State.postLate
  split
  · split <;> rfl
  · rfl

theorem State.kept_postAt (by_ : Poster) (cpt line : Nat) (op : FarOp) : (s.postAt by_ cpt line op).kept = s.kept := by
  unfold State.postAt
  split
  · exact s.kept_postLate _ _ _ _
  · rfl

theorem State.kept_noteWritten (cpt line : Nat) : (s.noteWritten cpt line).kept = s.kept := by
  unfold State.noteWritten
  split <;> rfl

theorem State.kept_signWrite (cpt line : Nat) : (s.signWrite cpt line).kept = s.kept := by
  unfold State.signWrite
  rw [State.kept_noteWritten]
  split <;> rfl

theorem State.kept_wroteLine (cpt base : Nat) (l : WcLine) : (s.wroteLine cpt base l).kept = s.kept :=
  (State.kept_signWrite _ _ _).trans (s.kept_postAt _ _ _ _)

theorem State.kept_homeWrite (pa n v part tag : Nat) : (s.homeWrite pa n v part tag).kept = (s.memStore pa n v).kept := by
  show ((sectorsFrom pa n).foldl (fun t b => t.sliceTouch part b true tag) (s.memStore pa n v)).kept = _
  generalize s.memStore pa n v = t
  induction sectorsFrom pa n generalizing t with
  | nil => rfl
  | cons b l ih => exact (ih _).trans (t.kept_sliceTouch _ _ _ _)

theorem State.l1_homeMask (base : Nat) (mask : BitVec 64) (data : BitVec 512) (part tag : Nat) :
    (s.homeMask base mask data part tag).l1 = s.l1 := by
  obtain ⟨m, k, e⟩ := s.rekey_eq base
  refine (congrArg State.l1 (State.kept_sliceTouch _ part base true tag) :).trans ?_
  rw [e]
  rfl

/-! ### Sectors after a write-back -/

theorem State.writeBack_of_clean {cpt pa : Nat} (h : ∀ x, s.l1.find? (l1Key cpt pa) = some x → x.dirty = 0) :
    s.writeBack cpt pa = s := by
  unfold State.writeBack
  split
  · rfl
  · rename_i x hx
    exact if_pos (h x hx)

theorem State.l1_writeBack_of_dirty {cpt pa : Nat} {x : Sector} (hx : s.l1.find? (l1Key cpt pa) = some x) (hd : x.dirty ≠ 0) :
    (s.writeBack cpt pa).l1 = s.l1.insert (l1Key cpt pa) { x with dirty := 0 } := by
  simp only [State.writeBack, hx, if_neg hd]
  split
  · exact (congrArg State.l1 (State.kept_wroteLine _ _ _ _) :).trans (State.l1_homeMask _ _ _ _ _ _)
  · rfl

/-- R201: a write-back leaves its sector clean and every other as it was. -/
theorem State.find?_writeBack (cpt pa k : Nat) : (s.writeBack cpt pa).l1.find? k =
    if k = l1Key cpt pa then (s.l1.find? k).map fun x => { x with dirty := 0 } else s.l1.find? k := by
  cases hx : s.l1.find? (l1Key cpt pa) with
  | none =>
    rw [s.writeBack_of_clean fun x h => by rw [hx] at h; cases h]
    split
    case isTrue hk => rw [hk, hx]; rfl
    case isFalse => rfl
  | some x =>
    by_cases hd : x.dirty = 0
    · rw [s.writeBack_of_clean fun y h => by rw [hx] at h; cases h; exact hd]
      split
      case isTrue hk => rw [hk, hx, ← hd]; rfl
      case isFalse => rfl
    · rw [s.l1_writeBack_of_dirty hx hd, Tbl.find?_insert]
      split
      case isTrue hk => rw [hk, hx]; rfl
      case isFalse => rfl

theorem State.sorted_writeBack (cpt pa : Nat) (h : s.l1.sorted = true) : (s.writeBack cpt pa).l1.sorted = true := by
  by_cases hc : ∀ x, s.l1.find? (l1Key cpt pa) = some x → x.dirty = 0
  · rw [s.writeBack_of_clean hc]
    exact h
  · simp only [not_forall] at hc
    obtain ⟨x, hx, hd⟩ := hc
    rw [s.l1_writeBack_of_dirty hx hd]
    exact Tbl.sorted_insert _ _ h

theorem State.find?_evictSector (cpt pa k : Nat) : (s.evictSector cpt pa).l1.find? k =
    if k = l1Key cpt pa then none else s.l1.find? k := by
  show ((s.writeBack cpt pa).l1.erase (l1Key cpt pa)).find? k = _
  rw [Tbl.find?_erase, s.find?_writeBack]
  split <;> rfl

theorem State.sorted_evictSector (cpt pa : Nat) (h : s.l1.sorted = true) : (s.evictSector cpt pa).l1.sorted = true :=
  Tbl.sorted_erase _ (s.sorted_writeBack cpt pa h)

end

/-! ### Every sector of a point that passes a test -/

section

variable {cpt : Nat} {op : State → Nat → State}

/-- The key of a sector of a point, from the sector's address. -/
theorem l1Key_sectorAddr {k : Nat} (h : k / 2 ^ 46 = cpt) : l1Key cpt (sectorAddr k) = k := by
  simp only [l1Key, sectorAddr]
  omega

/-- Sectors after an operation on each that passes a test, one that acts on its own sector alone, and once. -/
theorem State.find?_foldSectors {g : Sector → Option Sector}
    (hop : ∀ t pa k, (op t pa).l1.find? k = if k = l1Key cpt pa then (t.l1.find? k).bind g else t.l1.find? k)
    (hg : ∀ x, (g x).bind g = g x) (p : Nat × Sector → Bool) {l : List (Nat × Sector)} (hl : ∀ e ∈ l, e.1 / 2 ^ 46 = cpt) (s : State)
    (k : Nat) : (l.foldl (fun t e => if p e then op t (sectorAddr e.1) else t) s).l1.find? k =
      if l.any fun e => p e && e.1 == k then (s.l1.find? k).bind g else s.l1.find? k := by
  induction l generalizing s with
  | nil => rfl
  | cons e l ih =>
    have hkey := l1Key_sectorAddr (hl e List.mem_cons_self)
    rw [List.foldl_cons, ih fun e he => hl e (List.mem_cons_of_mem _ he), List.any_cons]
    cases hp : p e with
    | false => rw [if_neg Bool.false_ne_true, Bool.false_and, Bool.false_or]
    | true =>
      rw [if_pos rfl, Bool.true_and, hop, hkey]
      by_cases hk : e.1 = k
      · rw [if_pos hk.symm, beq_iff_eq.2 hk, Bool.true_or, if_pos rfl, Option.bind_assoc]
        simp only [hg, ite_self]
      · rw [if_neg (Ne.symm hk), beq_eq_false_iff_ne.2 hk, Bool.false_or]

theorem State.sorted_foldSectors (hop : ∀ t pa, t.l1.sorted = true → (op t pa).l1.sorted = true) (p : Nat × Sector → Bool)
    (l : List (Nat × Sector)) {s : State} (h : s.l1.sorted = true) :
    (l.foldl (fun t e => if p e then op t (sectorAddr e.1) else t) s).l1.sorted = true := by
  induction l generalizing s with
  | nil => exact h
  | cons e l ih =>
    rw [List.foldl_cons]
    refine ih ?_
    split
    · exact hop _ _ h
    · exact h

end

section

variable (s : State) (cpt : Nat)

theorem State.mem_sectorsOf {s : State} {cpt : Nat} (h : s.l1.sorted = true) {e : Nat × Sector} :
    e ∈ s.sectorsOf cpt ↔ s.l1.find? e.1 = some e.2 ∧ e.1 / 2 ^ 46 = cpt := by
  simp only [State.sectorsOf, List.mem_filter, beq_iff_eq]
  exact and_congr_left fun _ => ⟨Tbl.find?_of_mem h, Tbl.mem_of_find?⟩

theorem State.point_of_mem_sectorsOf {s : State} {cpt : Nat} : ∀ e ∈ s.sectorsOf cpt, e.1 / 2 ^ 46 = cpt := fun e he => by
  simpa using (List.mem_filter.1 he).2

theorem State.find?_writeBackAll (p : Sector → Bool) (k : Nat) : (s.writeBackAll cpt p).l1.find? k =
    if (s.sectorsOf cpt).any fun e => p e.2 && e.1 == k then (s.l1.find? k).map fun x => { x with dirty := 0 } else s.l1.find? k := by
  simp only [Option.map_eq_bind]
  refine State.find?_foldSectors (op := fun t a => t.writeBack cpt a) (fun t pa k => ?_) (fun x => rfl) (fun e => p e.2)
    State.point_of_mem_sectorsOf s k
  rw [t.find?_writeBack, Option.map_eq_bind]

theorem State.find?_evictAll (p : Nat → Sector → Bool) (k : Nat) : (s.evictAll cpt p).l1.find? k =
    if (s.sectorsOf cpt).any fun e => p (sectorAddr e.1) e.2 && e.1 == k then none else s.l1.find? k := by
  have hfold := State.find?_foldSectors (op := fun t a => t.evictSector cpt a) (g := fun _ => none)
    (fun t pa k => by rw [t.find?_evictSector, Option.bind_fun_none]) (fun x => rfl) (fun e => p (sectorAddr e.1) e.2)
    (State.point_of_mem_sectorsOf (s := s)) s k
  rw [Option.bind_fun_none] at hfold
  exact hfold

theorem State.sorted_writeBackAll (p : Sector → Bool) (h : s.l1.sorted = true) : (s.writeBackAll cpt p).l1.sorted = true :=
  State.sorted_foldSectors (op := fun t a => t.writeBack cpt a) (fun t pa => t.sorted_writeBack cpt pa) (fun e => p e.2) _ h

theorem State.sorted_evictAll (p : Nat → Sector → Bool) (h : s.l1.sorted = true) : (s.evictAll cpt p).l1.sorted = true :=
  State.sorted_foldSectors (op := fun t a => t.evictSector cpt a) (fun t pa => t.sorted_evictSector cpt pa)
    (fun e => p (sectorAddr e.1) e.2) _ h

variable {s cpt}

/-- R201: after the write-back of every sector that passes a test, those that pass it are clean. -/
theorem State.dirty_writeBackAll {p : Sector → Bool} (h : s.l1.sorted = true) {e : Nat × Sector}
    (he : e ∈ (s.writeBackAll cpt p).sectorsOf cpt) (hpe : p e.2 = true) : e.2.dirty = 0 := by
  obtain ⟨hfind, hcpt⟩ := (State.mem_sectorsOf (s.sorted_writeBackAll cpt p h)).1 he
  rw [s.find?_writeBackAll] at hfind
  split at hfind
  case isTrue =>
    obtain ⟨x, -, hx⟩ := Option.map_eq_some_iff.1 hfind
    rw [← hx]
  case isFalse hany =>
    have hmem : e ∈ s.sectorsOf cpt := (State.mem_sectorsOf h).2 ⟨hfind, hcpt⟩
    exact absurd (List.any_eq_true.2 ⟨e, hmem, by simp [hpe]⟩) hany

/-- The sectors of a point that the eviction of every one that passes a test leaves. -/
theorem State.mem_sectorsOf_evictAll (h : s.l1.sorted = true) (p : Nat → Sector → Bool) {e : Nat × Sector} :
    e ∈ (s.evictAll cpt p).sectorsOf cpt ↔ e ∈ s.sectorsOf cpt ∧ p (sectorAddr e.1) e.2 = false := by
  rw [State.mem_sectorsOf (s.sorted_evictAll cpt p h), s.find?_evictAll, State.mem_sectorsOf h]
  split
  case isTrue hany =>
    obtain ⟨f, hf, hpf⟩ := List.any_eq_true.1 hany
    obtain ⟨hp, hkey⟩ := (Bool.and_eq_true _ _).mp hpf
    have hfind := ((State.mem_sectorsOf h).1 hf).1
    rw [eq_of_beq hkey] at hfind hp
    refine ⟨fun hne => absurd hne.1 nofun, fun ⟨⟨hin, _⟩, hno⟩ => ?_⟩
    rw [← Option.some.inj (hin.symm.trans hfind), hno] at hp
    cases hp
  case isFalse hany =>
    have hno : ∀ x, (e.1, x) ∈ s.sectorsOf cpt → p (sectorAddr e.1) x = false := by simpa using hany
    exact ⟨fun hin => ⟨hin, hno e.2 ((State.mem_sectorsOf h).2 hin)⟩, And.left⟩

/-- A sector that is not held is not held after an eviction. -/
theorem State.find?_evictAll_eq_none {p : Nat → Sector → Bool} {k : Nat} (h : s.l1.find? k = none) :
    (s.evictAll cpt p).l1.find? k = none := by
  rw [s.find?_evictAll, h, ite_self]

end

/-! ### The STREAM buffer holds no sector -/

section

variable (s : State)

theorem State.l1_homeHalves (base : Nat) (l : WcLine) (part : Nat) : (s.homeHalves base l part).l1 = s.l1 := by
  unfold State.homeHalves
  generalize [0, 1] = hs
  induction hs generalizing s with
  | nil => rfl
  | cons i hs ih =>
    rw [List.foldl_cons, ih]
    dsimp only
    split
    · rfl
    · split <;> exact s.l1_homeMask _ _ _ _ _

theorem State.l1_flushLine (cpt key : Nat) : (s.flushLine cpt key).l1 = s.l1 := by
  unfold State.flushLine
  split
  · rfl
  · dsimp only
    split
    · exact (congrArg State.l1 (State.kept_wroteLine _ _ _ _) :).trans (State.l1_homeHalves _ _ _ _)
    · rfl

theorem State.l1_flushStream (cpt : Nat) : (s.flushStream cpt).l1 = s.l1 := by
  unfold State.flushStream
  generalize s.wc.filter (fun e => e.1 / 2 ^ 45 == cpt) = ls
  induction ls generalizing s with
  | nil => rfl
  | cons e ls ih => exact (ih _).trans (s.l1_flushLine _ _)

end

end Sys2Proof.Machine
end

section
/-! PROOFS. Releases and acquires (R201 to R207): what stands at home after a release, and which sectors and signatures an acquire
leaves. -/

namespace Sys2Proof.Machine

/-! ### Bytes at home -/

section

variable (s : State)

/-- A byte that no step of a fold writes. -/
theorem memByte_foldl_eq {f : List Host.Cell → Nat → List Host.Cell} {b : Nat} {l : List Nat}
    (hf : ∀ i ∈ l, ∀ m, memByte (f m i) b = memByte m b) (m : List Host.Cell) : memByte (l.foldl f m) b = memByte m b := by
  induction l generalizing m with
  | nil => rfl
  | cons i l ih =>
    rw [List.foldl_cons, ih fun j hj => hf j (List.mem_cons_of_mem _ hj), hf i List.mem_cons_self]

/-- R345: what a sector reads as under another key differs inside the sector alone. -/
theorem memByte_recipher_ne (new old : BitVec 512) {pa b : Nat} (m : List Host.Cell) (h : b < pa / 64 * 64 ∨ pa / 64 * 64 + 64 ≤ b) :
    memByte (recipher new old pa m) b = memByte m b := by
  refine memByte_foldl_eq (fun i hi a => ?_) m
  have hi := List.mem_range.1 hi
  exact memByte_memWrite_ne _ _ (by omega)

theorem State.memByte_rekey_ne {pa b : Nat} (h : b < pa / 64 * 64 ∨ pa / 64 * 64 + 64 ≤ b) :
    memByte (s.rekey pa).mem b = memByte s.mem b := by
  unfold State.rekey
  split
  · rfl
  · exact memByte_recipher_ne _ _ _ h

theorem Tbl.find?_put_self {α : Type} [DecidableEq α] (d : α) (m : Tbl α) (k : Nat) (v : α) :
    (m.put d k v).find? k = if v = d then none else some v := by
  unfold Tbl.put
  split
  · rw [Tbl.find?_erase, if_pos rfl]
  · exact Tbl.find?_insert_self _ _ _

theorem State.memKey_rekey (pa : Nat) : (s.rekey pa).memKey = s.memKey.put 0 (pa / 64) (s.keyOf pa) := by
  unfold State.rekey
  split <;> rfl

variable {s}

/-- R345: a sector that has been written stands under its partition's key. -/
theorem State.foreign_of_rekeyed {t : State} {pa a : Nat} (hkeys : t.memKey = (s.rekey pa).memKey) (hparts : t.parts = s.parts)
    (ha : a / 64 = pa / 64) : t.foreign a = none := by
  have hkey : t.keyOf a = s.keyOf pa := by
    rw [t.keyOf_congr ha]
    simp only [State.keyOf, State.ownerOf, hparts]
  simp only [State.foreign, hkeys, s.memKey_rekey, ha, Tbl.find?_put_self, hkey]
  split
  · rfl
  · rename_i k hk
    split at hk
    · cases hk
    · exact if_pos (Option.some.inj hk).symm

/-- n bytes of one sector meet that sector alone. -/
theorem sectorsFrom_of_fits {pa n : Nat} (hn : 0 < n) (hfit : pa % 64 + n ≤ 64) : sectorsFrom pa n = [pa / 64 * 64] := by
  have hlast : (pa + n - 1) / 64 - pa / 64 + 1 = 1 := by omega
  rw [sectorsFrom, hlast]
  rfl

/-- R345: a write inside one sector that stands under its partition's key. -/
theorem State.memStore_of_native {pa n : Nat} (v : Nat) (hn : 0 < n) (hfit : pa % 64 + n ≤ 64) (h : s.foreign pa = none) :
    (s.memStore pa n v).mem = memWrite s.mem pa n v ∧ (s.memStore pa n v).memKey = (s.rekey pa).memKey := by
  have hsector : pa / 64 * 64 / 64 = pa / 64 := by omega
  have hbase : s.foreign (pa / 64 * 64) = none := (s.foreign_congr hsector).trans h
  have hmem : (s.rekey (pa / 64 * 64)).mem = s.mem := by simp only [State.rekey, hbase]
  have hkeys : (s.rekey (pa / 64 * 64)).memKey = (s.rekey pa).memKey := by
    rw [s.memKey_rekey, s.memKey_rekey, hsector, s.keyOf_congr hsector]
  simp only [State.memStore, sectorsFrom_of_fits hn hfit, List.foldl_cons, List.foldl_nil, hmem, hkeys, and_self]

/-- R189: memory after the bytes of a mask of a sector have been written one by one. -/
theorem memByte_foldMask (mask : BitVec 64) (data : BitVec 512) (base : Nat) (l : List Nat) (m : List Host.Cell) (b : Nat) :
    memByte (l.foldl (fun m i => if mask.getLsbD i then memWrite m (base + i) 1 (data.toNat / 2 ^ (8 * i) % 256) else m) m) b =
      if l.any fun i => mask.getLsbD i && base + i == b then BitVec.ofNat 8 (data.toNat / 2 ^ (8 * (b - base))) else memByte m b := by
  induction l generalizing m with
  | nil => rfl
  | cons i l ih =>
    rw [List.foldl_cons, ih, List.any_cons]
    cases hm : mask.getLsbD i with
    | false => simp
    | true =>
      by_cases hb : base + i = b
      · have hi : b - base = i := by omega
        have hbyte : BitVec.ofNat 8 (data.toNat / 2 ^ (8 * i) % 256) = BitVec.ofNat 8 (data.toNat / 2 ^ (8 * i)) :=
          BitVec.eq_of_toNat_eq (by simp)
        simp [hb, hi, memByte_memWrite, hbyte]
      · have hstays := memByte_memWrite_ne m (n := 1) (data.toNat / 2 ^ (8 * i) % 256) (show b < base + i ∨ base + i + 1 ≤ b by omega)
        rw [if_pos rfl, hstays, beq_eq_false_iff_ne.2 hb, Bool.and_false, Bool.false_or]

/-- R189: memory after the bytes of a mask of a sector have been written at its home slice. -/
theorem State.mem_homeMask (s : State) (base : Nat) (mask : BitVec 64) (data : BitVec 512) (part tag : Nat) :
    (s.homeMask base mask data part tag).mem = (List.range 64).foldl
      (fun m i => if mask.getLsbD i then memWrite m (base + i) 1 (data.toNat / 2 ^ (8 * i) % 256) else m) (s.rekey base).mem :=
  (congrArg State.mem (State.kept_sliceTouch _ part base true tag) :)

/-- R201: a dirty sector of the partition is written back: its dirty bytes stand at home, and the other bytes of memory stay. -/
theorem State.writeBack_spec {cpt pa : Nat} {x : Sector} (hpa : pa % 64 = 0) (hx : s.l1.find? (l1Key cpt pa) = some x)
    (hd : x.dirty ≠ 0) (howns : s.owns (s.partOfCpt cpt) pa = true) :
    (s.writeBack cpt pa).l1.find? (l1Key cpt pa) = some { x with dirty := 0 } ∧
    (∀ i, i < 64 → x.dirty.getLsbD i = true →
      memByte (s.writeBack cpt pa).mem (pa + i) = BitVec.ofNat 8 (x.data.toNat / 2 ^ (8 * i))) ∧
    ∀ a, a < pa ∨ pa + 64 ≤ a → memByte (s.writeBack cpt pa).mem a = memByte s.mem a := by
  have hbase : pa / 64 * 64 = pa := by omega
  have hmem : (s.writeBack cpt pa).mem = (List.range 64).foldl
      (fun m i => if x.dirty.getLsbD i then memWrite m (pa + i) 1 (x.data.toNat / 2 ^ (8 * i) % 256) else m)
      (State.rekey { s with l1 := s.l1.insert (l1Key cpt pa) { x with dirty := 0 } } pa).mem := by
    simp only [State.writeBack, hx, if_neg hd, hbase]
    refine (congrArg State.mem (if_pos howns)).trans ?_
    exact (congrArg State.mem (State.kept_wroteLine _ _ _ _) :).trans (State.mem_homeMask _ _ _ _ _ _)
  refine ⟨?_, fun i hi hbit => ?_, fun a ha => ?_⟩
  · rw [s.find?_writeBack, if_pos rfl, hx]
    rfl
  · rw [hmem, memByte_foldMask, if_pos, Nat.add_sub_cancel_left]
    exact List.any_eq_true.2 ⟨i, List.mem_range.2 hi, by simp [hbit]⟩
  · rw [hmem, memByte_foldMask, if_neg, State.memByte_rekey_ne _ (by omega)]
    rw [List.any_eq_true]
    rintro ⟨i, hi, hia⟩
    simp only [List.mem_range, Bool.and_eq_true, beq_iff_eq] at hi hia
    omega

end

/-! ### Signatures -/

section

variable (s : State) (cpt : Nat)

/-- What an accumulator holds beside its epoch is read back. -/
theorem State.acc_setAcc (a : Acc) : ∃ n, (s.setAcc cpt a).acc cpt = { a with epoch := n } := by
  unfold State.acc State.setAcc
  dsimp only
  split
  case isTrue h =>
    rw [Tbl.find?_erase, if_pos rfl, h]
    exact ⟨_, rfl⟩
  case isFalse =>
    refine ⟨a.epoch, ?_⟩
    rw [Tbl.find?_insert_self]
    rfl

theorem State.cur_setAcc (a : Acc) : ((s.setAcc cpt a).acc cpt).cur = a.cur := by
  obtain ⟨n, h⟩ := s.acc_setAcc cpt a
  rw [h]

theorem State.pending_setAcc (a : Acc) : ((s.setAcc cpt a).acc cpt).pending = a.pending := by
  obtain ⟨n, h⟩ := s.acc_setAcc cpt a
  rw [h]

/-- R205: a signature that joins that of a line. -/
theorem State.sigOf_joinSig (line : Nat) (g : Sig) : (s.joinSig line g).sigOf line = s.sigOf line ||| g := Tbl.get_put_self _ _ _ _

theorem and_not_or_right (x y : Sig) : y &&& ~~~(x ||| y) = 0 := by
  apply BitVec.eq_of_getLsbD_eq
  intro i hi
  rw [BitVec.getLsbD_and, BitVec.getLsbD_not, BitVec.getLsbD_or]
  cases y.getLsbD i <;> simp

theorem and_not_or_left (x y : Sig) : x &&& ~~~(x ||| y) = 0 := by
  rw [BitVec.or_comm]
  exact and_not_or_right y x

theorem and_not_allOnes (x : Sig) : x &&& ~~~BitVec.allOnes 512 = 0 := by
  apply BitVec.eq_of_getLsbD_eq
  intro i hi
  simp

theorem sigH1_lt (line : Nat) : sigH1 line < 512 := BitVec.isLt _

theorem sigH2_lt (line : Nat) : sigH2 line < 512 := BitVec.isLt _

/-- R204: all ones match every line. -/
theorem sigMatches_ones (line : Nat) : sigMatches line Sig.ones = true := by
  rw [sigMatches, Sig.ones, BitVec.getLsbD_allOnes, BitVec.getLsbD_allOnes, decide_eq_true (sigH1_lt line), decide_eq_true (sigH2_lt line)]
  rfl

theorem getLsbD_ofNat_two_pow {i : Nat} (h : i < 512) : (BitVec.ofNat 512 (2 ^ i)).getLsbD i = true := by
  rw [BitVec.getLsbD_ofNat, Nat.testBit_two_pow_self, decide_eq_true h, Bool.true_and]

/-- R204: a signature that has the bits of a line matches it, whatever else it has. -/
theorem sigMatches_foldBits {α : Type} (f : α → Nat) {l : List α} {e : α} (he : e ∈ l) (g : Sig) :
    sigMatches (f e) (l.foldl (fun g e => g ||| sigBits (f e)) g) = true := by
  have hbits : ∀ (l : List α) (g : Sig) (i : Nat), (l.foldl (fun g e => g ||| sigBits (f e)) g).getLsbD i =
      (g.getLsbD i || l.any fun e => (sigBits (f e)).getLsbD i) := by
    intro l
    induction l with
    | nil => simp
    | cons e l ih => intro g i; rw [List.foldl_cons, ih, List.any_cons, BitVec.getLsbD_or, Bool.or_assoc]
  have h1 : (sigBits (f e)).getLsbD (sigH1 (f e)) = true := by
    rw [sigBits, BitVec.getLsbD_or, getLsbD_ofNat_two_pow (sigH1_lt _), Bool.true_or]
  have h2 : (sigBits (f e)).getLsbD (sigH2 (f e)) = true := by
    rw [sigBits, BitVec.getLsbD_or, getLsbD_ofNat_two_pow (sigH2_lt _), Bool.or_true]
  rw [sigMatches, hbits, hbits, List.any_eq_true.2 ⟨e, he, h1⟩, List.any_eq_true.2 ⟨e, he, h2⟩, Bool.or_true, Bool.or_true]
  rfl

end

/-! ### Releases (R202, R204) -/

section

variable {s : State} {cpt : Nat}

/-- R204: the signature that a release fence leaves pending is the release's. -/
theorem State.pending_fenceRelease : ((s.fenceRelease cpt).acc cpt).pending = some (s.releaseClean cpt).2 :=
  State.pending_setAcc _ _ _

theorem State.l1_fenceRelease : (s.fenceRelease cpt).l1 = (s.writeBackAll cpt fun x => x.ty == .shared).l1 :=
  State.l1_flushStream _ _

/-- R202: after a release fence the cluster holds no dirty SHARED sector. -/
theorem State.clean_fenceRelease (h : s.l1.sorted = true) {e : Nat × Sector} (he : e ∈ (s.fenceRelease cpt).sectorsOf cpt)
    (hty : e.2.ty = .shared) : e.2.dirty = 0 := by
  rw [State.sectorsOf, State.l1_fenceRelease] at he
  exact State.dirty_writeBackAll (p := fun x => x.ty == .shared) h he (beq_iff_eq.2 hty)

/-- R202: the signature of a release covers the line of every dirty SHARED sector. -/
theorem State.sigMatches_releaseClean {e : Nat × Sector} (he : e ∈ s.sectorsOf cpt) (hty : e.2.ty = .shared) (hd : e.2.dirty ≠ 0) :
    sigMatches (sectorAddr e.1 / 128) (s.releaseClean cpt).2 = true :=
  sigMatches_foldBits (fun e : Nat × Sector => sectorAddr e.1 / 128)
    (List.mem_filter.2 ⟨he, (Bool.and_eq_true _ _).mpr ⟨beq_iff_eq.2 hty, bne_iff_ne.2 hd⟩⟩) _

end

/-! ### Acquires (R203, R204, R207) -/

section

variable {s : State} {cpt : Nat}

/-- R203: a fold leaves the sectors that are not of SHARED lines that match. -/
theorem State.mem_sectorsOf_foldSig (h : s.l1.sorted = true) (g : Sig) {e : Nat × Sector} :
    e ∈ (s.foldSig cpt g).sectorsOf cpt ↔
      e ∈ s.sectorsOf cpt ∧ ¬ (e.2.ty = .shared ∧ sigMatches (sectorAddr e.1 / 128) g = true) := by
  refine (State.mem_sectorsOf_evictAll h _).trans (and_congr_right fun _ => ?_)
  rw [← Bool.not_eq_true, Bool.and_eq_true, beq_iff_eq]

theorem State.sorted_foldSig (h : s.l1.sorted = true) (g : Sig) : (s.foldSig cpt g).l1.sorted = true := s.sorted_evictAll cpt _ h

/-- R203: the accumulator takes the signature that is folded. -/
theorem State.cur_foldSig (g : Sig) : ∃ c, ((s.foldSig cpt g).acc cpt).cur = c ||| g := ⟨_, State.cur_setAcc _ _ _⟩

/-- R204: after an acquire fence the cluster holds no SHARED sector. -/
theorem State.mem_sectorsOf_foldAll (h : s.l1.sorted = true) {e : Nat × Sector} :
    e ∈ (s.foldAll cpt).sectorsOf cpt ↔ e ∈ s.sectorsOf cpt ∧ e.2.ty ≠ .shared := by
  refine (State.mem_sectorsOf_foldSig h _).trans (and_congr_right fun _ => ?_)
  simp [sigMatches_ones]

theorem State.cur_foldAll (s : State) (cpt : Nat) : ((s.foldAll cpt).acc cpt).cur = BitVec.allOnes 512 := by
  obtain ⟨c, hc⟩ := State.cur_foldSig (s := s) (cpt := cpt) Sig.ones
  rw [State.foldAll, hc]
  exact BitVec.or_allOnes

/-- R207: the PRIVATE lines leave at a system acquire, by a free choice (log entry 24). -/
def State.letsPrivateGo (s : State) : Bool := s.draw.1.getLsbD 0

/-- R174, R207: the sectors that a system acquire leaves. -/
theorem State.mem_sectorsOf_foldEvery (h : s.l1.sorted = true) (fence : Bool) {e : Nat × Sector} :
    e ∈ (s.foldEvery cpt fence).sectorsOf cpt ↔ e ∈ s.sectorsOf cpt ∧ e.2.ty = .priv ∧
      (s.letsPrivateGo = true → fence = true ∧ e.2.dirty ≠ 0) := by
  refine (State.mem_sectorsOf_foldAll (State.sorted_evictAll s.draw.2 cpt _ h)).trans ?_
  rw [State.mem_sectorsOf_evictAll (s := s.draw.2) h, and_assoc]
  refine and_congr_right fun _ => ?_
  rw [← State.letsPrivateGo]
  constructor
  · rintro ⟨hkeep, -⟩
    simpa using hkeep
  · rintro ⟨hty, hgo⟩
    rw [hty]
    exact ⟨by simpa using hgo, nofun⟩

theorem State.cur_foldEvery (s : State) (cpt : Nat) (fence : Bool) : ((s.foldEvery cpt fence).acc cpt).cur = BitVec.allOnes 512 :=
  State.cur_foldAll _ _

/-- R174, R207: the PRIVATE sectors stay or every sector leaves. -/
theorem State.foldEvery_all_or_none (h : s.l1.sorted = true) :
    (∀ e, e ∈ s.sectorsOf cpt → e.2.ty = .priv → e ∈ (s.foldEvery cpt).sectorsOf cpt) ∨ (s.foldEvery cpt).sectorsOf cpt = [] := by
  simp only [List.eq_nil_iff_forall_not_mem, State.mem_sectorsOf_foldEvery h, Bool.false_eq_true, false_and, imp_false]
  cases s.letsPrivateGo with
  | false => exact .inl fun e he hty => ⟨he, hty, nofun⟩
  | true => exact .inr fun e he => he.2.2 rfl

theorem State.sector?_of_find?_eq_none {pa : Nat} (h : s.l1.find? (l1Key cpt pa) = none) : s.sector? cpt pa = none := by
  simp only [State.sector?, h]

/-- A sector that is not held is not held after a fold. -/
theorem State.find?_foldSig_eq_none {k : Nat} (h : s.l1.find? k = none) (g : Sig) : (s.foldSig cpt g).l1.find? k = none :=
  State.find?_evictAll_eq_none h

theorem State.find?_foldEvery_eq_none {k : Nat} (h : s.l1.find? k = none) (fence : Bool) :
    (s.foldEvery cpt fence).l1.find? k = none :=
  State.find?_foldSig_eq_none (State.find?_evictAll_eq_none (s := s.draw.2) h) _

/-- R203, R207: an acquire load of a SHARED location reads it at its home slice, its own sector gone, and folds the signature of its
line, at system scope every line. -/
theorem State.acquireLoad_shared {n tag : Nat} {sys : Bool} {p : Phys} (hty : p.ty = .shared)
    (howns : s.owns (s.partOfCpt cpt) p.pa = true) (hregion : regionOf p.pa ≠ .peer) :
    let u := s.evictSector cpt p.pa
    let f := (u.sliceTouch (s.partOfCpt cpt) p.pa false tag).foldSig cpt (u.sigOf (p.pa / 128))
    s.acquireLoad cpt sys p n tag = (if sys then f.foldEvery cpt else f, u.homeValue p.pa n, u.badAt p.pa) := by
  intro u f
  have hread : s.acquireRead cpt p n tag = (u.sliceTouch (s.partOfCpt cpt) p.pa false tag, u.homeValue p.pa n, u.badAt p.pa) := by
    rw [State.acquireRead, if_pos ⟨hty, howns⟩]
    have hpart : u.partOfCpt cpt = s.partOfCpt cpt := by
      simp only [State.partOfCpt, State.partOfCluster, (s.memStep_evictSector cpt p.pa).parts_eq, u]
    rw [← hpart]
    rfl
  have hsig : (u.sliceTouch (s.partOfCpt cpt) p.pa false tag).sigOf (p.pa / 128) = u.sigOf (p.pa / 128) := by
    obtain ⟨_, _, _, _, _, e⟩ := u.sliceTouch_eq (s.partOfCpt cpt) p.pa false tag
    rw [e]
    rfl
  simp only [State.acquireLoad, hread, if_neg hregion, hsig]
  rfl

/-- R203, R207: what an acquire load of a SHARED location folds, and which sectors it leaves. -/
theorem State.acquireLoad_folds {n tag : Nat} {sys : Bool} {p : Phys} (h : s.l1.sorted = true) (hty : p.ty = .shared)
    (howns : s.owns (s.partOfCpt cpt) p.pa = true) (hregion : regionOf p.pa ≠ .peer) :
    let g := (s.evictSector cpt p.pa).sigOf (p.pa / 128)
    let q := s.acquireLoad cpt sys p n tag
    g &&& ~~~(q.1.acc cpt).cur = 0 ∧ q.1.sector? cpt p.pa = none ∧
      (∀ e, e ∈ q.1.sectorsOf cpt → e.2.ty = .shared → sigMatches (sectorAddr e.1 / 128) g = false ∧ sys = false) ∧
      (sys = true → (q.1.acc cpt).cur = BitVec.allOnes 512) := by
  intro g q
  have hq : q = _ := State.acquireLoad_shared hty howns hregion
  have hl1 : ((s.evictSector cpt p.pa).sliceTouch (s.partOfCpt cpt) p.pa false tag).l1 = (s.evictSector cpt p.pa).l1 :=
    (congrArg State.l1 (State.kept_sliceTouch _ _ _ _ _) :)
  have hsorted : ((s.evictSector cpt p.pa).sliceTouch (s.partOfCpt cpt) p.pa false tag).l1.sorted = true := by
    rw [hl1]
    exact s.sorted_evictSector cpt p.pa h
  have hgone : ((s.evictSector cpt p.pa).sliceTouch (s.partOfCpt cpt) p.pa false tag).l1.find? (l1Key cpt p.pa) = none := by
    rw [hl1, s.find?_evictSector, if_pos rfl]
  generalize (s.evictSector cpt p.pa).sliceTouch (s.partOfCpt cpt) p.pa false tag = u at hq hsorted hgone
  have hgone' := State.find?_foldSig_eq_none (cpt := cpt) hgone g
  rw [hq]
  cases sys with
  | false =>
    obtain ⟨c, hc⟩ := State.cur_foldSig (s := u) (cpt := cpt) g
    refine ⟨?_, ?_, fun e he hshared => ⟨?_, rfl⟩, nofun⟩
    · exact (congrArg (g &&& ~~~·) hc).trans (and_not_or_right c g)
    · exact State.sector?_of_find?_eq_none hgone'
    · exact Bool.eq_false_iff.2 fun hm => ((State.mem_sectorsOf_foldSig hsorted g).1 he).2 ⟨hshared, hm⟩
  | true =>
    have hall := State.cur_foldEvery (u.foldSig cpt g) cpt false
    refine ⟨?_, ?_, fun e he hshared => ?_, fun _ => hall⟩
    · exact (congrArg (g &&& ~~~·) hall).trans (and_not_allOnes g)
    · exact State.sector?_of_find?_eq_none (State.find?_foldEvery_eq_none hgone' false)
    · have := ((State.mem_sectorsOf_foldEvery (State.sorted_foldSig hsorted g) false).1 he).2.1
      rw [hshared] at this
      cases this

end

/-! ### Release stores (R202, R205) -/

section

variable (s : State)

theorem State.sigs_postAt (by_ : Poster) (cpt line : Nat) (op : FarOp) : (s.postAt by_ cpt line op).sigs = s.sigs := by
  unfold State.postAt State.postLate
  split
  · dsimp only
    split
    · split <;> rfl
    · rfl
  · rfl

theorem State.sigs_noteWritten (cpt line : Nat) : (s.noteWritten cpt line).sigs = s.sigs := by
  unfold State.noteWritten
  split <;> rfl

theorem State.sigs_homeWrite (pa n v part tag : Nat) : (s.homeWrite pa n v part tag).sigs = s.sigs := by
  have hstore : (s.memStore pa n v).sigs = s.sigs := by
    show ((sectorsFrom pa n).foldl State.rekey s).sigs = _
    induction sectorsFrom pa n generalizing s with
    | nil => rfl
    | cons b l ih =>
      obtain ⟨m, k, e⟩ := s.rekey_eq b
      exact (ih _).trans (by rw [e])
  refine Eq.trans ?_ hstore
  show ((sectorsFrom pa n).foldl (fun t b => t.sliceTouch part b true tag) (s.memStore pa n v)).sigs = _
  generalize s.memStore pa n v = t
  induction sectorsFrom pa n generalizing t with
  | nil => rfl
  | cons b l ih =>
    obtain ⟨_, _, _, _, _, e⟩ := t.sliceTouch_eq part b true tag
    exact (ih _).trans (congrArg State.sigs e :)

theorem State.homeByte_of_native {a : Nat} (h : s.foreign a = none) : s.homeByte a = memByte s.mem a := by
  rw [State.homeByte, State.homeValue_of_native 1 h]
  apply BitVec.eq_of_toNat_eq
  simp [memRead]

end

section

variable {s : State} {cpt : Nat}

/-- R202: the copy of a released location in the cluster's L1 reads as stored, where the bytes at home do. -/
theorem State.byteAt_updateCopy {pa n v i : Nat} (hfit : pa % 64 + n ≤ 64) (hi : i < n)
    (hhome : s.homeByte (pa + i) = BitVec.ofNat 8 (v / 2 ^ (8 * i))) :
    (s.updateCopy cpt pa n v).byteAt cpt (pa + i) = BitVec.ofNat 8 (v / 2 ^ (8 * i)) := by
  have hkey : l1Key cpt (pa + i) = l1Key cpt pa := by simp only [l1Key]; omega
  have hplace : (pa + i) % 64 = pa % 64 + i := by omega
  have hhome' : (s.updateCopy cpt pa n v).homeByte (pa + i) = BitVec.ofNat 8 (v / 2 ^ (8 * i)) := by
    rw [← hhome]
    unfold State.updateCopy
    split <;> rfl
  cases hx : s.l1.find? (l1Key cpt pa) with
  | none =>
    have hl1 : (s.updateCopy cpt pa n v).l1 = s.l1 := by simp only [State.updateCopy, hx]
    simp only [State.byteAt, State.sector?, hkey, hl1, hx, hhome']
  | some x =>
    have hbyte : sectorByte (mergeBytes (byteMask (pa % 64) n) (BitVec.ofNat 512 (v % 2 ^ (8 * n) * 2 ^ (8 * (pa % 64)))) x.data)
        ((pa + i) % 64) = BitVec.ofNat 8 (v / 2 ^ (8 * i)) := by
      rw [sectorByte_mergeBytes _ _ _ (by omega), hplace, getLsbD_byteMask (by omega), if_pos (by simp [hi]), sectorByte_placed v hi hfit]
    have hl1 : (s.updateCopy cpt pa n v).l1.find? (l1Key cpt pa) = some { x with
        data := mergeBytes (byteMask (pa % 64) n) (BitVec.ofNat 512 (v % 2 ^ (8 * n) * 2 ^ (8 * (pa % 64)))) x.data
        valid := x.valid ||| byteMask (pa % 64) n } := by
      simp only [State.updateCopy, hx, Tbl.find?_insert_self]
    rw [sectorByte] at hbyte
    simp only [State.byteAt, State.sector?, hkey, hl1, hhome']
    split
    · rename_i y hy
      have hdata : y.data = mergeBytes (byteMask (pa % 64) n) (BitVec.ofNat 512 (v % 2 ^ (8 * n) * 2 ^ (8 * (pa % 64)))) x.data := by
        split at hy
        · split at hy
          · cases hy
          · cases hy; rfl
        · cases hy; rfl
      rw [hdata, hbyte, ite_self]
    · rfl

/-- R202, R205: the write of a release store of a SHARED location of the partition. -/
theorem State.releaseStore_shared {g : Sig} {pa n v tag : Nat} {va : W64} (hn : 0 < n) (hfit : pa % 64 + n ≤ 64)
    (hforeign : s.foreign pa = none) (howns : s.owns (s.partOfCpt cpt) pa = true) :
    let q := s.releaseStore cpt g ⟨pa, .shared⟩ n v va tag
    q.2 = .stored ∧ q.1.mem = memWrite s.mem pa n v ∧ q.1.sigOf (pa / 128) = s.sigOf (pa / 128) ||| g ∧
      ∀ i, i < n → q.1.byteAt cpt (pa + i) = BitVec.ofNat 8 (v / 2 ^ (8 * i)) := by
  intro q
  obtain ⟨t, ht⟩ : ∃ t, t = (((s.homeWrite pa n v (s.partOfCpt cpt) tag).postAt .unit cpt (pa / 128)
    (.store .shared pa n (BitVec.ofNat 64 v) tag)).joinSig (pa / 128) g).noteWritten cpt (pa / 128) := ⟨_, rfl⟩
  have hq : q = (t.updateCopy cpt pa n v, .stored) := by
    rw [ht]
    exact (if_neg (by rw [howns]; decide)).trans (if_pos (.inl rfl))
  have hkept : t.kept = (s.memStore pa n v).kept := by
    rw [ht, State.kept_noteWritten]
    exact (State.kept_postAt _ _ _ _ _).trans (s.kept_homeWrite _ _ _ _ _)
  have hparts : t.parts = s.parts := (congrArg State.parts hkept :).trans (s.memStep_memStore pa n v).parts_eq
  have hsigs : t.sigOf (pa / 128) = s.sigOf (pa / 128) ||| g := by
    have hjoin := State.sigOf_joinSig ((s.homeWrite pa n v (s.partOfCpt cpt) tag).postAt .unit cpt (pa / 128)
      (.store .shared pa n (BitVec.ofNat 64 v) tag)) (pa / 128) g
    rw [State.sigOf, State.sigOf, State.sigs_postAt, State.sigs_homeWrite] at hjoin
    rw [ht, State.sigOf, State.sigs_noteWritten]
    exact hjoin
  obtain ⟨hstored, hkeyed⟩ := State.memStore_of_native v hn hfit hforeign
  have hmem : t.mem = memWrite s.mem pa n v := (congrArg State.mem hkept :).trans hstored
  have hkeys : t.memKey = (s.rekey pa).memKey := (congrArg State.memKey hkept :).trans hkeyed
  have hcopy : ∃ l, t.updateCopy cpt pa n v = { t with l1 := l } := by
    unfold State.updateCopy
    split
    · exact ⟨t.l1, rfl⟩
    · exact ⟨_, rfl⟩
  obtain ⟨l, hl⟩ := hcopy
  rw [hq]
  refine ⟨rfl, ?_, ?_, fun i hi => State.byteAt_updateCopy hfit hi ?_⟩
  · dsimp only
    rw [hl, hmem]
  · dsimp only
    rw [hl]
    exact hsigs
  · rw [t.homeByte_of_native (State.foreign_of_rekeyed hkeys hparts (by omega)), hmem, memByte_memWrite, if_pos (by omega),
      Nat.add_sub_cancel_left, pow_mul]
    rfl

end

/-! ### Lost stores (R342, R371) -/

/-- R342, R371: a release that would otherwise go on reports a lost store in its place. -/
theorem State.storeWord_reports {s s1 : State} {t : ThreadId} {ord n : Nat} {xs : List (W64 × Phys × W64)} {tr : Trap} (hord : 0 < ord)
    (hblocked : s.blocked t (xs.map fun e => toAcc n (0, e.1, e.2.1)) = false) (hpend : s.pendingAny t (ordScope ord) = false)
    (hfull : s.fullTarget t xs = false)
    (hhost : s.snoopHost (s.releaseLines (s.cptOf t) (ordScope ord) ++ xs.map fun e => e.2.1.pa / 128) = none)
    (hlost : s.lostReport t (ordScope ord) = some (s1, tr)) : s.storeWord t ord n xs = .report s1 tr := by
  have hpos : ord ≠ 0 := hord.ne'
  simp only [State.storeWord, hblocked, hpend, hfull, hhost, hlost, if_neg hpos, Bool.and_false, Bool.or_false, Bool.false_eq_true,
    if_false]

end Sys2Proof.Machine

open Sys2Proof Sys2Proof.Machine in
/-- Settles O34: a write-back, a release fence and the folds of an acquire sector by sector, then the acquire load, the release store
and the report of a lost store. -/
theorem releaseAndAcquire : Obligations.ReleaseAndAcquire := by
  refine ⟨?_, ?_, ?_, ?_, ?_⟩
  · intro s cpt pa x _ halign hx howns hd
    exact State.writeBack_spec halign hx hd howns
  · intro s cpt h
    refine ⟨fun e => State.clean_fenceRelease h,
      fun e he hty hd => ⟨_, State.pending_fenceRelease, State.sigMatches_releaseClean he hty hd⟩,
      fun e he => ((State.mem_sectorsOf_foldAll h).1 he).2, fun e he => ((State.mem_sectorsOf_foldEvery h _).1 he).2.1,
      fun e he hty hd => (State.mem_sectorsOf_foldEvery h _).2 ⟨he, hty, fun _ => ⟨rfl, hd⟩⟩, State.foldEvery_all_or_none h,
      s.cur_foldEvery cpt _, s.cur_foldAll cpt⟩
  · intro s cpt n tag sys p h hty howns hregion u g q
    exact ⟨congrArg Prod.snd (State.acquireLoad_shared hty howns hregion), State.acquireLoad_folds h hty howns hregion⟩
  · intro s cpt pa n v tag g va hn hfit _ hforeign howns q
    obtain ⟨hend, hmem, hsig, hbytes⟩ := State.releaseStore_shared (g := g) (v := v) (tag := tag) (va := va) hn hfit hforeign howns
    refine ⟨hend, ?_, fun a ha => ?_, ?_, ?_, hbytes⟩
    · rw [hmem, memRead_memWrite, pow_mul]
      rfl
    · rw [hmem, memByte_memWrite_ne _ _ ha]
    · rw [hsig]
      exact and_not_or_right _ _
    · rw [hsig]
      exact and_not_or_left _ _
  · intro s s1 t ord n xs tr hord
    exact State.storeWord_reports hord

end

section
/-! PROOFS. The stores of group code (R176, R202, R207, R218 to R224, R230, R364): a store leaves the step flags of groups alone, so that its
word completes with it. -/

namespace Sys2Proof.Machine

/-! ### Step flags behind stores (R308) -/

theorem Group.step_mapLowest (x : Group) (k : Nat) (f : Slice → Slice) : (x.mapLowest k f).step = x.step := by
  unfold Group.mapLowest
  split <;> rfl

section

variable (s : State)

/-- R342, R371: the note of a lost store. -/
theorem State.sameSteps_markStore (t : ThreadId) (va : W64) (e : StoreEnd) : s.SameSteps (s.markStore t va e) := by
  cases e with
  | stored => exact .refl s
  | dropped =>
    unfold State.markStore
    dsimp only
    split
    · exact .refl s
    · cases t with
      | gang g k => exact s.sameSteps_setGroup (Group.step_mapLowest _ _ _)
      | _ => exact s.sameSteps_setScalar _ _
  | refused =>
    unfold State.markStore
    dsimp only
    split
    · exact .refl s
    · cases t with
      | gang g k => exact s.sameSteps_setGroup (Group.step_mapLowest _ _ _)
      | _ => exact s.sameSteps_setScalar _ _

theorem State.memStep_storeBy (t : ThreadId) (ord n : Nat) (p : Phys) (g : Sig) (v va : W64) :
    s.MemStep (s.storeBy t ord n p g v va).1 := by
  unfold State.storeBy
  split
  · exact s.memStep_releaseStore _ _ _ _ _ _ _
  · exact s.memStep_storeBytes _ _ _ _ _ _

/-- R176, R364: one store of a word whose access has no far end. -/
theorem State.storeOne_of_none {t : ThreadId} {p : Phys} (hfar : s.targetOf (s.partOfCpt (s.cptOf t)) p = none) (ord n : Nat) (g : Sig)
    (v va : W64) :
    s.storeOne t ord g p n v va = (s.storeBy t ord n p g v va).1.markStore t va (s.storeBy t ord n p g v va).2 := by
  unfold State.storeOne
  rw [ite_lt_two, ← State.storeBy, hfar]
  dsimp only
  rw [ite_self]

/-- R207, R364: one store of a word; one that no slice performs is outstanding until it is acknowledged. -/
theorem State.storeOne_of_some {t : ThreadId} {p : Phys} {far : Nat} (hfar : s.targetOf (s.partOfCpt (s.cptOf t)) p = some far)
    (ord n : Nat) (g : Sig) (v va : W64) :
    let r := s.storeBy t ord n p g v va
    s.storeOne t ord g p n v va = (if p.direct = true ∧ r.2 = .stored then r.1.post (.thread (ownThread t)) (s.cptOf t) far
      (.store p.ty p.pa n v (s.threadTag t)) 0 else r.1).markStore t va r.2 := by
  intro r
  unfold State.storeOne
  rw [ite_lt_two, ← State.storeBy, hfar]
  simp only [Bool.and_eq_true, beq_iff_eq, r]

theorem State.sameSteps_storeOne (t : ThreadId) (ord n : Nat) (p : Phys) (g : Sig) (v va : W64) :
    s.SameSteps (s.storeOne t ord g p n v va) := by
  have hstore := s.memStep_storeBy t ord n p g v va
  cases hfar : s.targetOf (s.partOfCpt (s.cptOf t)) p with
  | none =>
    rw [s.storeOne_of_none hfar]
    exact .trans (.of_memStep hstore) (State.sameSteps_markStore _ _ _ _)
  | some far =>
    rw [s.storeOne_of_some hfar]
    refine .trans (.of_memStep ?_) (State.sameSteps_markStore _ _ _ _)
    split
    · exact hstore.trans (State.memStep_post _ _ _ _ _ _ _)
    · exact hstore

theorem State.sameSteps_noteStore (g o n : Nat) : s.SameSteps (s.noteStore g o n) := s.sameSteps_setTeam _ _

theorem State.sameSteps_poolWrite (team o n v : Nat) : s.SameSteps (s.poolWrite team o n v) := by
  induction n generalizing s o v with
  | zero => exact .refl s
  | succ n ih => exact (s.sameSteps_setTeam _ _).trans (ih _ _ _)

end

/-! ### A store word that nothing holds up -/

/-- R202, R222: the stores of a word, in ascending lane order, behind what a release does before them. -/
def State.storesAll (s : State) (t : ThreadId) (q : BitVec 2) (n : Nat) (xs : List (W64 × Phys × W64)) : State :=
  let r := s.beginRelease t q.toNat
  let v := xs.foldl (fun a e => a.storeOne t q.toNat r.2 e.2.1 n e.2.2 e.1) r.1
  if 2 ≤ q.toNat then v.replacePending (s.cptOf t) r.2 else v

/-- No pending access holds a store word up, identifiers are free for it, and nothing holds its release up. -/
def State.Stores (s : State) (t : ThreadId) (q : BitVec 2) (n : Nat) (xs : List (W64 × Phys × W64)) : Prop :=
  s.blocked t (xs.map fun e => toAcc n (0, e.1, e.2.1)) = false ∧ s.fullTarget t xs = false ∧
    s.Clear t q (xs.map fun e => e.2.1.pa / 128)

theorem State.storeWord_of_stores {s : State} {t : ThreadId} {q : BitVec 2} {n : Nat} {xs : List (W64 × Phys × W64)}
    (h : s.Stores t q n xs) : s.storeWord t q.toNat n xs = .done (s.storesAll t q n xs) := by
  obtain ⟨hblocked, hfull, hclear⟩ := h
  have hend : ∀ v : State, ∀ g, (if q.toNat < 2 then v else v.replacePending (s.cptOf t) g) =
      if 2 ≤ q.toNat then v.replacePending (s.cptOf t) g else v := fun v g => by
    rw [ite_lt_two]
    simp only [decide_eq_true_eq]
  rcases hclear with rfl | ⟨hpend, hlines, hlost, hwait⟩
  · simp only [State.storeWord, hblocked, hfull]
    rfl
  · have hwaits : s.releaseWait (s.cptOf t) (if q.toNat = 0 then 0 else ordScope q.toNat) = none := by
      split
      · rfl
      · exact hwait
    simp only [State.storeWord, hblocked, hfull, hpend, hlines, hlost, hwaits, ite_self, Bool.and_false, Bool.or_false,
      Bool.false_eq_true, if_false, hend]
    rfl

theorem State.sameSteps_storesAll (s : State) (t : ThreadId) (q : BitVec 2) (n : Nat) (xs : List (W64 × Phys × W64)) :
    s.SameSteps (s.storesAll t q n xs) := by
  have hstores := (State.SameSteps.of_memStep (s.memStep_beginRelease t q.toNat)).trans
    (.foldl (fun v (e : W64 × Phys × W64) => v.sameSteps_storeOne t q.toNat n e.2.1 (s.beginRelease t q.toNat).2 e.2.2 e.1) xs _)
  unfold State.storesAll
  dsimp only
  split
  · exact hstores.trans (.of_memStep (State.memStep_replacePending _ _ _))
  · exact hstores

/-! ### The words -/

section

variable {s s1 : State} {t : Bool} {d a : BitVec 7} {w e b : BitVec 6} {z o : BitVec 2} {j : BitVec 8} {ps : List (Nat × W64 × Phys)}

/-- A store word whose checks let its accesses by, and whose stores nothing holds up. -/
theorem issue_stores {i : Instr} {body : ThreadId → State → Did} {q : BitVec 2} {n : Nat} {xs : List (W64 × Phys × W64)}
    (hb : s.begins i = true) (hv : (shape i).vdst = []) (hw : s.unheld.WalkStep s1) (hready : s1.Stores s.cur q n xs)
    (hd : body s.cur s.unheld = s1.storeWord s.cur q.toNat n xs) :
    issue i s body = .next (s.after (s1.storesAll s.cur q n xs)) :=
  issue_command hb hv (hd.trans (State.storeWord_of_stores hready))
    ((State.SameSteps.of_walkStep hw).trans (s1.sameSteps_storesAll _ _ _ _))

/-- R221: a store to virtual memory. -/
theorem execSt_stores (hb : s.begins (.st t d a w z o) = true)
    (hcheck : s.unheld.checkVirtual s.cur .store false true (accSize z) (s.unheld.laneAddrs s.cur w a) = .ok s1 ps)
    (hready : s1.Stores s.cur o (accSize z) (ps.map fun e => (e.2.1, e.2.2, s1.laneData s.cur d (z == 3) e.1))) :
    exec (.st t d a w z o) s = .next (s.after (s1.storesAll s.cur o (accSize z)
      (ps.map fun e => (e.2.1, e.2.2, s1.laneData s.cur d (z == 3) e.1)))) := by
  refine show execSt t d a w z o s = _ from issue_stores hb rfl (State.walkStep_of_checkVirtual hcheck) hready ?_
  simp only [hcheck]

/-- R84, R86: a uniform store. -/
theorem execUst_stores (hb : s.begins (.ust t e b j z o) = true)
    (hcheck : s.unheld.checkUniform s.cur .store false true (accSize z) (s.unheld.uniAddr s.cur b j (accSize z)) = .ok s1 ps)
    (hready : s1.Stores s.cur o (accSize z) (ps.map fun f => (f.2.1, f.2.2, s1.getW s.cur e.toNat))) :
    exec (.ust t e b j z o) s = .next (s.after (s1.storesAll s.cur o (accSize z)
      (ps.map fun f => (f.2.1, f.2.2, s1.getW s.cur e.toNat)))) := by
  refine show execUst t e b j z o s = _ from issue_stores hb rfl (State.walkStep_of_checkUniform hcheck) hready ?_
  simp only [hcheck]

/-- R224: a store through the window of the group. -/
theorem execStp_stores {pp : List (Nat × W64 × Nat × Phys)} (hb : s.begins (.stp t d a w z) = true)
    (hcheck : s.unheld.checkPriv s.cur true (z == 3) (accSize z) (s.unheld.laneAddrs s.cur w a) = .ok (s1, pp))
    (hready : s1.Stores s.cur 0 (min (accSize z) 4)
      (pp.map fun e => (e.2.1, e.2.2.2, s1.laneData s.cur d (z == 3) e.1 >>> e.2.2.1))) :
    exec (.stp t d a w z) s = .next (s.after (s1.storesAll s.cur 0 (min (accSize z) 4)
      (pp.map fun e => (e.2.1, e.2.2.2, s1.laneData s.cur d (z == 3) e.1 >>> e.2.2.1)))) := by
  refine show execStp t d a w z s = _ from issue_stores hb rfl (State.walkStep_of_checkPriv hcheck) hready ?_
  simp only [hcheck]
  rfl

variable {g k : Nat} (hc : s.cur = .gang g k)
include hc

/-- R223: a store to scratchpad space. -/
theorem execSts_stores (hb : s.begins (.sts t d a w z) = true)
    (hcheck : s.unheld.checkPool s.cur false (accSize z) (s.unheld.laneAddrs s.cur w a) = none)
    (hfree : s.unheld.blocked s.cur ((s.unheld.laneAddrs s.cur w a).map (poolAcc (accSize z))) = false) :
    exec (.sts t d a w z) s = .next (s.after ((s.unheld.laneAddrs s.cur w a).foldl (fun y e =>
      (y.noteStore g e.2.toNat (accSize z)).poolWrite (s.group g).team e.2.toNat (accSize z)
        (s.unheld.laneData s.cur d (z == 3) e.1).toNat) s.unheld)) := by
  refine show execSts t d a w z s = _ from issue_command hb rfl ?_ ?_
  · rw [hc] at hcheck hfree ⊢
    simp only [hcheck, hfree, State.teamNo_unheld, Bool.false_eq_true, if_false]
  · exact .foldl (fun v (e : Nat × W64) => (v.sameSteps_noteStore _ _ _).trans (State.sameSteps_poolWrite _ _ _ _ _)) _ _

end

/-! ### Exchange stores (R230) -/

/-- R230: the place in the far bank that a lane of an `xst` names. -/
def State.xstPlace (s : State) (t : ThreadId) (w : BitVec 6) (a : BitVec 7) (l : Nat) : W32 :=
  (s.getW t w.toNat).setWidth 32 + s.laneReg t a.toNat l

/-- R230: the packet of a lane of an `xst` to a team. -/
def State.xstPacket (s : State) (g k : Nat) (w : BitVec 6) (d a : BitVec 7) (z : BitVec 2) (team l : Nat) : XPkt :=
  { src := s.cptOf (.gang g k), dst := (s.team team).cluster, group := g, slices := (s.group g).sliceMask k
    sender := (s.group g).team, team := team, off := (s.xstPlace (.gang g k) w a l).toNat, size := accSize z
    data := s.laneData (.gang g k) d (z == 3) l }

section

variable (s : State)

theorem State.gridOf_unheld (t : ThreadId) : s.unheld.gridOf t = s.gridOf t := by
  cases t with
  | gang g k => exact congrArg Team.grid (s.teamOf_unheld g)
  | _ => rw [s.unheld_eq]; rfl

theorem State.grid_unheld (n : Nat) : s.unheld.grid n = s.grid n := by
  rw [s.unheld_eq]
  rfl

theorem State.team_unheld (n : Nat) : s.unheld.team n = s.team n := by
  rw [s.unheld_eq]
  rfl

theorem State.teamOf_grid_unheld (n num : Nat) : s.unheld.teamOf n num = s.teamOf n num := by
  rw [s.unheld_eq]
  rfl

theorem State.xpkts_unheld : s.unheld.xpkts = s.xpkts := by rw [s.unheld_eq]

theorem State.sliceMask_unheld (g k : Nat) : (s.unheld.group g).sliceMask k = (s.group g).sliceMask k := by
  obtain ⟨b, x, h⟩ := s.group_unheld g
  rw [h]
  rfl

end

/-- R230: an exchange store sends a packet for each active lane. -/
theorem execXst_sends {s : State} {t : Bool} {d a : BitVec 7} {w : BitVec 6} {z : BitVec 2} {g k team : Nat}
    (hc : s.cur = .gang g k) (hb : s.begins (.xst t d a w z) = true)
    (hnum : (s.unheld.getW s.cur w.toNat).toNat / 2 ^ 32 < (s.unheld.grid (s.unheld.gridOf s.cur)).count)
    (hplace : ∀ l ∈ s.unheld.active s.cur,
      (s.unheld.xstPlace s.cur w a l).toNat + accSize z ≤ 1024 * (s.unheld.grid (s.unheld.gridOf s.cur)).desc.exch ∧
        (s.unheld.xstPlace s.cur w a l).toNat % accSize z = 0)
    (hteam : s.unheld.teamOf (s.unheld.gridOf s.cur) ((s.unheld.getW s.cur w.toNat).toNat / 2 ^ 32) = some team)
    (hplaced : (s.unheld.team team).placed = true)
    (hfree : s.unheld.crowdedBy (s.unheld.cptOf s.cur) (some ((s.unheld.team team).cluster / 64)) (s.unheld.active s.cur).length = false) :
    exec (.xst t d a w z) s = .next (s.after { s.unheld with
      xpkts := s.unheld.xpkts ++ (s.unheld.active s.cur).map (s.unheld.xstPacket g k w d a z team) }) := by
  refine show execXst t d a w z s = _ from issue_command hb rfl ?_ (.of_groups rfl)
  rw [hc] at hnum hplace hteam hfree ⊢
  generalize s.unheld = u at *
  have hwide : ∀ l, ((u.xstPlace (.gang g k) w a l).setWidth 64).toNat = (u.xstPlace (.gang g k) w a l).toNat := fun l =>
    BitVec.toNat_setWidth_of_le (by decide)
  have htarget : ∀ mk, laneFails (((u.active (.gang g k)).map fun l => (l, (u.xstPlace (.gang g k) w a l).setWidth 64)).map
      fun e => (e.1, u.getW (.gang g k) w.toNat)) (fun x => decide ((u.grid (u.gridOf (.gang g k))).count ≤ x.toNat / 2 ^ 32)) mk = none :=
    fun mk => laneFails_eq_none mk fun e he => by
      obtain ⟨f, -, rfl⟩ := List.mem_map.1 he
      simpa using hnum
  have hrange : ∀ mk, laneFails ((u.active (.gang g k)).map fun l => (l, (u.xstPlace (.gang g k) w a l).setWidth 64))
      (fun o => decide (1024 * (u.grid (u.gridOf (.gang g k))).desc.exch < o.toNat + accSize z)) mk = none :=
    fun mk => laneFails_eq_none mk fun e he => by
      obtain ⟨l, hl, rfl⟩ := List.mem_map.1 he
      simpa [hwide] using (hplace l hl).1
  have halign : ∀ mk, laneFails ((u.active (.gang g k)).map fun l => (l, (u.xstPlace (.gang g k) w a l).setWidth 64))
      (fun o => o.toNat % accSize z != 0) mk = none :=
    fun mk => laneFails_eq_none mk fun e he => by
      obtain ⟨l, hl, rfl⟩ := List.mem_map.1 he
      simpa [hwide] using (hplace l hl).2
  simp only [State.xstPlace] at htarget hrange halign
  simp only [htarget, hrange, halign, hteam, List.length_map, hfree, hplaced, Bool.false_eq_true, if_false, if_true]
  rw [List.map_map, List.map_congr_left fun l _ => congrArg (fun o => { u.xstPacket g k w d a z team l with off := o }) (hwide l).symm]
  rfl

end Sys2Proof.Machine

open Sys2Proof Sys2Proof.Machine in
/-- Settles O30: word by word, once what the obligation writes for one store is the model's. -/
theorem storeWords : Obligations.StoreWords := by
  intro s s1 g k t d a w z q e b i ps hc u n xs gr tgt off acc one ready all full part word
  have hone : ∀ q sig n v x, one q sig n v x = v.storeOne s.cur q.toNat sig x.2.1 n x.2.2 x.1 := by
    intro q sig n v x
    have hown : ownThread s.cur = .gang g 0 := by rw [hc]; rfl
    have hby : v.storeBy s.cur q.toNat n x.2.1 sig x.2.2 x.1 = if 2 ≤ q.toNat then
        v.releaseStore (v.cptOf s.cur) sig x.2.1 n x.2.2.toNat x.1 (v.threadTag s.cur)
      else v.storeBytes (v.cptOf s.cur) x.2.1 n x.2.2.toNat x.1 (v.threadTag s.cur) := by
      simp only [State.storeBy, decide_eq_true_eq]
    dsimp only [one]
    rw [← hby]
    cases hfar : v.targetOf (v.partOfCpt (v.cptOf s.cur)) x.2.1 with
    | none => exact (v.storeOne_of_none hfar _ _ _ _ _).symm
    | some far =>
      rw [v.storeOne_of_some hfar, hown]
  have hall : ∀ q n xs, all q n xs = .next (s.after (s1.storesAll s.cur q n xs)) := by
    intro q n xs
    have hfold : ∀ sig, one q sig n = fun v x => v.storeOne s.cur q.toNat sig x.2.1 n x.2.2 x.1 := fun sig =>
      funext fun v => funext fun x => hone q sig n v x
    simp only [all, hfold, State.storesAll, State.beginRelease_eq]
  refine ⟨fun hb hcheck h => ?_, fun hb hcheck h => ?_, fun hb hcheck hfree => ?_, fun pp hb hcheck h => ?_, ?_⟩
  · rw [hall]
    exact execSt_stores hb hcheck h
  · rw [hall]
    exact execUst_stores hb hcheck h
  · exact execSts_stores hc hb hcheck hfree
  · rw [hall]
    exact execStp_stores hb hcheck h
  · intro team hb hnum hplace hteam hplaced hfree
    have hword : s.unheld.getW s.cur w.toNat = tgt := s.getW_unheld _
    have hoff : ∀ l, (s.unheld.xstPlace s.cur w a l).toNat = off l := fun l => by
      simp only [State.xstPlace, hword, off, u]
    have hpacket : ∀ l, s.unheld.xstPacket g k w d a z team l =
        { src := s.cptOf s.cur, dst := (s.team team).cluster, group := g, slices := (s.group g).sliceMask k, sender := (s.group g).team
          team := team, off := off l, size := n, data := u.laneData s.cur d (z == 3) l } := fun l => by
      simp only [← hoff, hc, State.xstPacket, State.cptOf_unheld, State.team_unheld, State.sliceMask_unheld, State.teamNo_unheld, u, n,
        accSize]
    refine (execXst_sends (team := team) hc hb ?_ ?_ ?_ ?_ ?_).trans ?_
    · rw [hword, State.gridOf_unheld, State.grid_unheld]
      exact hnum
    · simp only [hoff, State.unheld_active, State.gridOf_unheld, State.grid_unheld]
      exact hplace
    · rw [hword, State.gridOf_unheld, State.teamOf_grid_unheld]
      exact hteam
    · rw [State.team_unheld]
      exact hplaced
    · rw [State.cptOf_unheld, State.team_unheld, State.unheld_active]
      exact hfree
    · rw [State.unheld_active, State.xpkts_unheld, funext hpacket]

end

section
/-! PROOFS. Fences, the functions of `cache` and the events of the caches (R176, R199 to R207, R228, R229, R342, R367, R371). -/

namespace Sys2Proof.Machine

/-! ### Step flags behind fences and `cache` (R308) -/

section

variable (s : State)

theorem State.memStep_fenceActs (cpt : Nat) (scope : ScopeNo) (k : BitVec 2) : s.MemStep (s.fenceActs cpt scope k) := by
  unfold State.fenceActs
  extract_lets s1 s2
  have hflush : s.MemStep s1 := by
    dsimp only [s1]
    split
    · exact s.memStep_flushStream cpt
    · exact .refl s
  have hrelease : s.MemStep s2 := by
    dsimp only [s2]
    split
    · exact hflush.trans (State.memStep_fenceRelease _ _ _)
    · exact hflush
  split
  · split
    · exact hrelease.trans (State.memStep_foldEvery _ _ _)
    · exact hrelease.trans (State.memStep_foldAll _ _)
  · exact hrelease

theorem State.sameSteps_fenceAsync (t : ThreadId) : s.SameSteps (s.fenceAsync t) := by
  cases t with
  | gang g k => exact s.sameSteps_setTeam _ _
  | _ => exact .refl s

theorem State.sameSteps_cacheLine (t : ThreadId) (f : Nat) (va : W64) (p : Phys) : s.SameSteps (s.cacheLine t f va p) := by
  unfold State.cacheLine
  extract_lets cpt line r q
  split
  · exact .refl s
  · split
    · exact .of_memStep ((s.memStep_writeBack cpt line).trans (State.memStep_writeBack _ _ _))
    · exact .of_memStep ((s.memStep_dropSector cpt line).trans (State.memStep_dropSector _ _ _))
    · exact .of_memStep (s.memStep_evictLine cpt line _)
    · refine .trans ?_ (State.sameSteps_markStore _ _ _ _)
      refine .trans ?_ (State.sameSteps_markStore _ _ _ _)
      exact .of_memStep ((s.memStep_storeBytes _ _ _ _ _ _).trans (State.memStep_storeBytes _ _ _ _ _ _ _))

end

/-! ### `fence` (R228) -/

section

variable {s s2 : State} {t y : Bool} {sc : BitVec 3} {k : BitVec 2} (hb : s.begins (.fence t y sc k) = true)
  (hpend : s.unheld.pendingAny s.cur sc.toNat = false)
include hb hpend

/-- R367: a fence waits while the host may hold a line that it writes. -/
theorem execFence_host (hhost : s.unheld.snoopHost (s.unheld.releaseLines (s.cptOf s.cur) sc.toNat) = some s2) :
    exec (.fence t y sc k) s = .next (s.stay s2) := by
  rw [← State.cptOf_unheld] at hhost
  refine show execFence t y sc k s = _ from issue_waits hb ?_
  simp only [hpend, Bool.false_eq_true, if_false, hhost]

variable (hhost : s.unheld.snoopHost (s.unheld.releaseLines (s.cptOf s.cur) sc.toNat) = none)
include hhost

/-- R342, R371: a fence that finds a store lost takes its report. -/
theorem execFence_lost {tr : Trap} (hlost : s.unheld.lostReport s.cur sc.toNat = some (s2, tr)) :
    exec (.fence t y sc k) s =
      .next ((s2.unbegun s.wordPc).takeTrap s.cur tr s.wordPc s.wordPc (encode (.fence t y sc k))) := by
  rw [← State.cptOf_unheld] at hhost
  show execFence t y sc k s = _
  unfold execFence
  rw [issue_begins hb]
  simp only [hpend, Bool.false_eq_true, if_false, hhost, hlost]
  rfl

variable (hlost : s.unheld.lostReport s.cur sc.toNat = none)
include hlost

/-- R202, R207: a fence that is a release has not begun before its write-backs are acknowledged. -/
theorem execFence_unacked (hk : k.getLsbD 1 = true) (hwait : s.unheld.releaseWait (s.cptOf s.cur) sc.toNat = some s2) :
    exec (.fence t y sc k) s = .next (s.stay s2) := by
  rw [← State.cptOf_unheld] at hhost hwait
  refine show execFence t y sc k s = _ from issue_waits hb ?_
  simp only [hpend, Bool.false_eq_true, if_false, hhost, hlost, hk, if_true, hwait]

/-- R199, R204, R228: a fence that nothing holds up. -/
theorem execFence_completes (hwait : k.getLsbD 1 = false ∨ s.unheld.releaseWait (s.cptOf s.cur) sc.toNat = none)
    (hheld : s.unheld.filledHeld
      ((if y then s.unheld.fenceAsync s.cur else s.unheld).fenceActs (s.cptOf s.cur) sc.toNat k) = none) :
    exec (.fence t y sc k) s =
      .next (s.after ((if y then s.unheld.fenceAsync s.cur else s.unheld).fenceActs (s.cptOf s.cur) sc.toNat k)) := by
  rw [← State.cptOf_unheld] at hhost hwait hheld ⊢
  have hacked : (if k.getLsbD 1 then s.unheld.releaseWait (s.unheld.cptOf s.cur) sc.toNat else none) = none := by
    rcases hwait with hk | hwait
    · rw [hk]
      rfl
    · rw [hwait, ite_self]
  refine show execFence t y sc k s = _ from issue_command hb rfl ?_ ?_
  · simp only [hpend, Bool.false_eq_true, if_false, hhost, hlost, hacked]
    exact State.doneUnlessFills_done hheld
  · refine .trans ?_ (.of_memStep (State.memStep_fenceActs _ _ _ _))
    split
    · exact State.sameSteps_fenceAsync _ _
    · exact .refl _

end

/-! ### `cache` (R229) -/

/-- The address of the line of an address. -/
def lineVa (x : W64) : W64 := x - BitVec.ofNat 64 (x.toNat % 128)

/-- R180, R198, R229, R309: nothing stops a `cache` function that translates: its line translates to a place, it meets no watchpoint
where it zeroes, and no earlier access to the line is pending where it takes the line from the L1 or zeroes it. -/
structure State.CacheActs (s : State) (t : ThreadId) (x : W64) (f : BitVec 6) (s1 : State) (p : Phys) : Prop where
  range : x.toNat < 2 ^ 48
  func : 2 ≤ f.toNat
  translated : s.translate (s.spaceOf t) (lineVa x).toNat (cacheKind f.toNat) (levelOf t == 0) = (s1, .ok p)
  unwatched : f = 5 → s1.watched t false false true (lineVa x).toNat 128 = none
  free : f = 3 ∨ f = 4 ∨ f = 5 →
    s1.blocked t [{ lane := 0, addr := p.pa, size := 128, ty := some p.ty, va := lineVa x }] = false

section

variable {s s1 : State} {t : Bool} {a f : BitVec 6} (hb : s.begins (.cache t a f) = true)
include hb

/-- R21: an address out of range. -/
theorem execCache_range (hrange : 2 ^ 48 ≤ (s.getW s.cur a.toNat).toNat) :
    exec (.cache t a f) s = .next (s.trapped (.cache t a f) { kind := 0x04, addr := s.getW s.cur a.toNat }) := by
  have hout : inRange (s.getW s.cur a.toNat) = false := decide_eq_false (not_lt.2 hrange)
  refine show execCache t a f s = _ from issue_traps hb ?_
  simp only [State.getW_unheld, hout, Bool.not_false, if_true]
  rfl

/-- R229: the hints do nothing. -/
theorem execCache_hint (hrange : (s.getW s.cur a.toNat).toNat < 2 ^ 48) (hf : f.toNat < 2) :
    exec (.cache t a f) s = .next (s.after s.unheld) := by
  have hin : inRange (s.getW s.cur a.toNat) = true := decide_eq_true hrange
  refine show execCache t a f s = _ from issue_command hb rfl ?_ (.refl _)
  simp only [State.getW_unheld, hin, Bool.not_true, Bool.false_eq_true, if_false, if_pos hf]

variable {p : Phys} (hacts : s.unheld.CacheActs s.cur (s.getW s.cur a.toNat) f s1 p)
include hacts

/-- R229: what a function that nothing stops comes to: it acts on its line, unless that fills one that the host may hold. -/
theorem execCache_acts : exec (.cache t a f) s = .next (settle (.cache t a f) s
    (s.unheld.doneUnlessFills (s1.cacheLine s.cur f.toNat (lineVa (s.getW s.cur a.toNat)) p))) := by
  obtain ⟨hrange, hfunc, htranslated, hunwatched, hfree⟩ := hacts
  have hin : inRange (s.getW s.cur a.toNat) = true := decide_eq_true hrange
  have hwatch : (if f = 5 then s1.watched s.cur false false true (lineVa (s.getW s.cur a.toNat)).toNat 128 else none) = none := by
    split
    case isTrue hf => exact hunwatched hf
    case isFalse => rfl
  have hgo : ¬ ((f = 3 ∨ f = 4 ∨ f = 5) ∧
      s1.blocked s.cur [{ lane := 0, addr := p.pa, size := 128, ty := some p.ty, va := lineVa (s.getW s.cur a.toNat) }] = true) :=
    fun ⟨hf, hblocked⟩ => by rw [hfree hf] at hblocked; cases hblocked
  unfold lineVa at *
  show execCache t a f s = _
  unfold execCache
  rw [issue_begins hb]
  simp only [State.getW_unheld, hin, Bool.not_true, Bool.false_eq_true, if_false, if_neg (not_lt.2 hfunc), htranslated, hwatch, if_neg hgo]

theorem execCache_completes
    (hheld : s.unheld.filledHeld (s1.cacheLine s.cur f.toNat (lineVa (s.getW s.cur a.toNat)) p) = none) :
    exec (.cache t a f) s = .next (s.after (s1.cacheLine s.cur f.toNat (lineVa (s.getW s.cur a.toNat)) p)) := by
  have hwalk : s.unheld.WalkStep s1 := by
    have htranslate := s.unheld.walkStep_translate (s.unheld.spaceOf s.cur) (lineVa (s.getW s.cur a.toNat)).toNat
      (cacheKind f.toNat) (levelOf s.cur == 0)
    rw [hacts.translated] at htranslate
    exact htranslate
  have hsteps := (State.SameSteps.of_walkStep hwalk).trans
    (s1.sameSteps_cacheLine s.cur f.toNat (lineVa (s.getW s.cur a.toNat)) p)
  rw [execCache_acts hb hacts, State.doneUnlessFills_done hheld,
    settle_done hb ((hsteps.stepped s.cur).trans (State.unheld_stepped hb)) (.inl rfl)]

/-- R367: a function that would fill a line that the host may hold waits. -/
theorem execCache_waits {s2 : State}
    (hheld : s.unheld.filledHeld (s1.cacheLine s.cur f.toNat (lineVa (s.getW s.cur a.toNat)) p) = some s2) :
    exec (.cache t a f) s = .next (s.stay s2) := by
  rw [execCache_acts hb hacts, State.doneUnlessFills, hheld]
  rfl

end

/-! ### Reports of lost stores (R342, R371) -/

section

variable {s : State} {t : ThreadId} {scope : Nat} {a : W64}

theorem State.lostReport_of_narrow (h : scope < 3) : s.lostReport t scope = none := if_pos h

variable (h : 3 ≤ scope)
include h

/-- R342: the thread's own dropped store comes first. -/
theorem State.lostReport_of_thread (hlost : (s.lost t).1 = some a) :
    s.lostReport t scope = some (s.clearLost t false, { kind := 0x16, addr := a }) := by
  simp only [State.lostReport, if_neg (not_lt.2 h), hlost]

variable (hnone : (s.lost t).1 = none)
include hnone

/-- R342: then the cluster's dropped write-back. -/
theorem State.lostReport_of_cluster (hdropped : (s.acc (s.cptOf t)).dropped = some a) : s.lostReport t scope =
    some (s.setAcc (s.cptOf t) { s.acc (s.cptOf t) with dropped := none }, { kind := 0x16, addr := a }) := by
  simp only [State.lostReport, if_neg (not_lt.2 h), hnone, hdropped]

variable (hkept : (s.acc (s.cptOf t)).dropped = none)
include hkept

/-- R371: last, at system scope, the thread's refused store. -/
theorem State.lostReport_of_refused (hrefused : (s.lost t).2 = some a) : s.lostReport t scope =
    if scope = 4 then some (s.clearLost t true, { kind := 0x16, addr := a }) else none := by
  simp only [State.lostReport, if_neg (not_lt.2 h), hnone, hkept, hrefused]

theorem State.lostReport_of_nothing (hrefused : (s.lost t).2 = none) : s.lostReport t scope = none := by
  simp only [State.lostReport, if_neg (not_lt.2 h), hnone, hkept, hrefused]

end

/-! ### Events of the caches (R176, R201, R206) -/

section

variable {s : State} {cpt : Nat}

/-- R201: a SHARED sector is written back; a clean one stays as it is. -/
theorem execDirtyWriteback_shared {sector : Nat} {x : Sector} (hx : s.l1.find? (l1Key cpt (sector * 64)) = some x) (hty : x.ty = .shared)
    (hhost : s.snoopHost [sector / 2] = none) :
    exec (.dirtyWriteback cpt sector) s = .next (s.writeBack cpt (sector * 64)) := by
  show execDirtyWriteback cpt sector s = _
  simp only [execDirtyWriteback, hx, hhost, Option.getD_none, event]
  by_cases hd : x.dirty = 0
  · rw [if_neg (fun h => h.2 hd), s.writeBack_of_clean fun z hz => by rw [hx] at hz; cases hz; exact hd]
  · rw [if_pos ⟨hty, hd⟩]

/-- R176: a line of the STREAM buffer goes when it is due. -/
theorem execStreamBufferFlush_due {line : Nat} {x : WcLine} (hx : s.wc.find? (wcKey cpt (line * 128)) = some x)
    (hdue : x.mask = BitVec.allOnes 128 ∨ x.since + 1000 ≤ s.time) (hhost : s.snoopHost [line] = none) :
    exec (.streamBufferFlush cpt line) s = .next (s.flushLine cpt (wcKey cpt (line * 128))) := by
  show execStreamBufferFlush cpt line s = _
  simp only [execStreamBufferFlush, hx, if_pos hdue, hhost, Option.getD_none, event]

theorem execStreamBufferFlush_early {line : Nat} {x : WcLine} (hx : s.wc.find? (wcKey cpt (line * 128)) = some x)
    (hdue : ¬ (x.mask = BitVec.allOnes 128 ∨ x.since + 1000 ≤ s.time)) : exec (.streamBufferFlush cpt line) s = .next s := by
  show execStreamBufferFlush cpt line s = _
  simp only [execStreamBufferFlush, hx, if_neg hdue, event]

/-- R206: the accumulator rotates when its time has come. -/
theorem execAccumulatorRotate_due (hdue : ((s.acc cpt).epoch + 1) * s.leaseNs (s.partOfCpt cpt) ≤ s.time) :
    exec (.accumulatorRotate cpt) s = .next (s.setAcc cpt { s.acc cpt with
      prev := (s.acc cpt).cur, cur := 0, wrotePrev := (s.acc cpt).wrote, wrote := 0, epoch := (s.acc cpt).epoch + 1 }) :=
  congrArg Host.Outcome.next (if_pos hdue)

end

end Sys2Proof.Machine

open Sys2Proof Sys2Proof.Machine in
/-- Settles O33: the words case by case, the reports in their order, and the events. -/
theorem fencesAndCacheEvents : Obligations.FencesAndCacheEvents := by
  refine ⟨fun s s1 t y sc k a f p => ?_, fun s t scope => ?_, fun s cpt sector line => ?_⟩
  · intro u x va
    refine ⟨fun hb hpend => ⟨fun s2 => execFence_host hb hpend, fun hhost => ⟨fun hlost => ⟨fun s2 =>
      execFence_unacked hb hpend hhost hlost, execFence_completes hb hpend hhost hlost⟩, fun s2 tr => execFence_lost hb hpend hhost⟩⟩,
      fun hb => ⟨execCache_range hb, execCache_hint hb, fun hrange hlow hhigh htr hfree => ?_, fun hrange hf htr hwatch hfree hheld => ?_⟩⟩
    · have hkind : cacheKind f.toNat = if f = 3 then .lineWrite else .lineRead := by
        have h5 : f.toNat ≠ 5 := by omega
        simp only [cacheKind, if_neg h5, ← BitVec.toNat_inj]
        rfl
      have hacts : u.CacheActs s.cur x f s1 p := by
        refine ⟨hrange, hlow, by rw [hkind]; exact htr, fun h => ?_, fun h => hfree.resolve_left fun h2 => ?_⟩
        · rw [h] at hhigh
          exact absurd hhigh (by decide)
        · rw [h2] at h
          exact absurd h (by decide)
      exact ⟨execCache_completes hb hacts, fun s2 => execCache_waits hb hacts⟩
    · subst hf
      exact execCache_completes hb ⟨hrange, by decide, htr, fun _ => hwatch, fun _ => hfree⟩ hheld
  · exact ⟨State.lostReport_of_narrow, fun h => ⟨fun a => State.lostReport_of_thread h, fun hnone =>
      ⟨fun a => State.lostReport_of_cluster h hnone, fun hkept => ⟨fun a => State.lostReport_of_refused h hnone hkept,
        State.lostReport_of_nothing h hnone hkept⟩⟩⟩⟩
  · exact ⟨fun x => execDirtyWriteback_shared, fun x hx => ⟨execStreamBufferFlush_due hx, execStreamBufferFlush_early hx⟩,
      execAccumulatorRotate_due⟩

end

section
/-! PROOFS. Which steps stop (R173, R367): a word goes through `issue` and an event through `event`, on every branch; a host access beyond
HBM alone does not. -/

namespace Sys2Proof.Machine

/-- The model goes on. -/
def Out.Goes (o : Out) : Prop := ∃ t, o = .next t

theorem event_goes (s : State) : Out.Goes (event s) := ⟨s, rfl⟩

/-! ### Events with branches -/

section

variable (s : State)

theorem execLoadReply_goes (req : Nat) : Out.Goes (execLoadReply req s) := by
  unfold execLoadReply
  split
  · exact event_goes _
  · split
    · exact event_goes _
    · split <;> exact event_goes _

theorem execSliceAtomic_goes (req : Nat) : Out.Goes (execSliceAtomic req s) := by
  unfold execSliceAtomic
  split
  · exact event_goes _
  · split
    · extract_lets t cpt
      split
      · exact event_goes _
      · split
        · exact event_goes _
        · split <;> exact event_goes _
    · exact event_goes _

theorem execDirtyWriteback_goes (cpt sector : Nat) : Out.Goes (execDirtyWriteback cpt sector s) := by
  unfold execDirtyWriteback
  split <;> exact event_goes _

theorem execStreamBufferFlush_goes (cluster line : Nat) : Out.Goes (execStreamBufferFlush cluster line s) := by
  unfold execStreamBufferFlush
  split
  · exact event_goes _
  · split <;> exact event_goes _

theorem execXstoreDelivery_goes (src dst : Nat) : Out.Goes (execXstoreDelivery src dst s) := by
  unfold execXstoreDelivery
  split <;> exact event_goes _

theorem execCpyCollectiveStart_goes (team : Nat) : Out.Goes (execCpyCollectiveStart team s) := by
  unfold execCpyCollectiveStart
  split <;> exact event_goes _

theorem execGatherRun_goes (cmd : Nat) : Out.Goes (execGatherRun cmd s) := by
  unfold execGatherRun
  split
  · exact event_goes _
  · split <;> exact event_goes _

theorem execBinscatRun_goes (cmd : Nat) : Out.Goes (execBinscatRun cmd s) := by
  unfold execBinscatRun
  split
  · exact event_goes _
  · split <;> exact event_goes _

theorem execMmaTurn_goes (group : Nat) : Out.Goes (execMmaTurn group s) := by
  unfold execMmaTurn
  split
  · exact event_goes _
  · split
    · split <;> exact event_goes _
    · exact event_goes _

theorem execMaccTurn_goes (group : Nat) : Out.Goes (execMaccTurn group s) := by
  unfold execMaccTurn
  split
  · exact event_goes _
  · split <;> exact event_goes _

theorem execCbloadTurn_goes (group : Nat) : Out.Goes (execCbloadTurn group s) := by
  unfold execCbloadTurn
  split
  · exact event_goes _
  · split
    · split
      · exact event_goes _
      · split
        · exact event_goes _
        · split <;> exact event_goes _
    · exact event_goes _

theorem execMeetTurn_goes (group : Nat) : Out.Goes (execMeetTurn group s) := by
  unfold execMeetTurn
  split <;> exact event_goes _

theorem execLandingArrival_goes (part index : Nat) : Out.Goes (execLandingArrival part index s) := by
  unfold execLandingArrival
  extract_lets p
  split
  · exact event_goes _
  · split <;> exact event_goes _

theorem execLandingTimeout_goes (part index : Nat) : Out.Goes (execLandingTimeout part index s) := by
  unfold execLandingTimeout
  split <;> exact event_goes _

theorem execStrmTurn_goes (cmd : Nat) : Out.Goes (execStrmTurn cmd s) := by
  unfold execStrmTurn
  split
  · exact event_goes _
  · split
    · exact event_goes _
    · split
      · split <;> exact event_goes _
      · split
        · exact event_goes _
        · split
          · split <;> exact event_goes _
          · exact event_goes _

theorem execHailAccept_goes (part ctx : Nat) : Out.Goes (execHailAccept part ctx s) := by
  unfold execHailAccept
  split
  · exact event_goes _
  · split <;> exact event_goes _

theorem execHostHailMessage_goes (func size : Nat) (msg : BitVec 128) : Out.Goes (execHostHailMessage func size msg s) := by
  unfold execHostHailMessage
  split
  · exact event_goes _
  · extract_lets n
    split <;> exact event_goes _

theorem execPointChangeDone_goes : Out.Goes (execPointChangeDone s) := by
  unfold execPointChangeDone
  split <;> exact event_goes _

theorem execDiePowerOff_goes (die : Nat) : Out.Goes (execDiePowerOff die s) := by
  unfold execDiePowerOff
  split <;> exact event_goes _

theorem execUngateDone_goes (die : Nat) : Out.Goes (execUngateDone die s) := by
  unfold execUngateDone
  split <;> exact event_goes _

theorem execPowerUp_goes (digest : BitVec 384) (verified : Bool) : Out.Goes (execPowerUp digest verified s) := by
  unfold execPowerUp
  extract_lets r
  split <;> exact event_goes _

theorem execDieTrained_goes (base : Bool) (die : Nat) (ok : Bool) : Out.Goes (execDieTrained base die ok s) := by
  unfold execDieTrained
  split <;> exact event_goes _

theorem execFlitReceive_goes (link : Nat) (hdr ack : BitVec 16) (payload : BitVec 1984) (crc : BitVec 32) :
    Out.Goes (execFlitReceive link hdr ack payload crc s) := by
  unfold execFlitReceive
  extract_lets x
  split
  · exact event_goes _
  · split <;> exact event_goes _

theorem execLinkRetrain_goes (link : Nat) (low high : Bool) : Out.Goes (execLinkRetrain link low high s) := by
  unfold execLinkRetrain
  extract_lets x y
  split
  · exact event_goes _
  · split
    · exact event_goes _
    · split
      · exact event_goes _
      · split <;> exact event_goes _

theorem execRequestResend_goes (port num : Nat) : Out.Goes (execRequestResend port num s) := by
  unfold execRequestResend
  extract_lets key
  split
  · exact event_goes _
  · split <;> exact event_goes _

theorem execPeerAccess_goes (port num : Nat) (place : WindowOffset) (kind size : Nat) (v : PeerOperands) :
    Out.Goes (execPeerAccess port num place kind size v s) := by
  unfold execPeerAccess
  split
  · exact event_goes _
  · extract_lets key w answer
    split
    · exact event_goes _
    · split <;> exact event_goes _

theorem execPackagePortTraining_goes (port : Nat) (up narrow : Bool) (peer : BitVec 16) :
    Out.Goes (execPackagePortTraining port up narrow peer s) := by
  unfold execPackagePortTraining
  split <;> exact event_goes _

theorem execGateTest_goes (grid : Nat) : Out.Goes (execGateTest grid s) := by
  unfold execGateTest
  split
  · exact event_goes _
  · split <;> exact event_goes _

/-- R313: the thread's word is issued again. -/
theorem execWaitiTimeReached_goes (th : ThreadId) : Out.Goes (execWaitiTimeReached th s) := by
  unfold execWaitiTimeReached
  split
  · split
    · split
      · exact issue_next _ _ _
      · exact event_goes _
    · exact event_goes _
  · exact event_goes _

theorem execBorderChange_goes (part base logk deadline : Nat) (migrated : Bool) :
    Out.Goes (execBorderChange part base logk deadline migrated s) := by
  unfold execBorderChange
  split
  · exact event_goes _
  · split
    · exact event_goes _
    · split <;> exact event_goes _

theorem execBorderDeadline_goes (part : Nat) : Out.Goes (execBorderDeadline part s) := by
  unfold execBorderDeadline
  split
  · exact event_goes _
  · split
    · exact event_goes _
    · split <;> exact event_goes _

theorem execPartitionWindowEnd_goes (short rich base logk : Nat) : Out.Goes (execPartitionWindowEnd short rich base logk s) := by
  unfold execPartitionWindowEnd
  split
  · split
    · exact event_goes _
    · split
      · exact event_goes _
      · extract_lets s1 keep
        split
        · exact event_goes _
        · split <;> exact event_goes _
  · exact event_goes _

theorem execFunctionSwitch_goes (part func : Nat) : Out.Goes (execFunctionSwitch part func s) := by
  unfold execFunctionSwitch
  split
  · exact event_goes _
  · extract_lets elsewhere
    split <;> exact event_goes _

theorem execSecurityAlarm_goes (die : Nat) (tamper : Bool) : Out.Goes (execSecurityAlarm die tamper s) := by
  unfold execSecurityAlarm
  split <;> exact event_goes _

theorem execThermalTrip_goes (tj : BitVec 8) : Out.Goes (execThermalTrip tj s) := by
  unfold execThermalTrip
  split <;> exact event_goes _

end

/-! ### Words and events -/

/-- R173, R367: a host access beyond HBM stops the model. -/
theorem execHostMemAccess_cases (s : State) (a n : Nat) (w : Bool) (v : W64) :
    Out.Goes (execHostMemAccess a n w v s) ∨ 2 ^ 40 < a + n ∧ execHostMemAccess a n w v s = .fault (.noSuchMemory a) := by
  unfold execHostMemAccess
  split
  case isTrue => exact .inl (event_goes _)
  case isFalse h => exact .inr ⟨not_le.1 h, rfl⟩

/-- Every word and every other event goes on: those that are not named are one call of `issue` or of `event`. -/
theorem exec_goes {i : Instr} (s : State) (hi : ∀ a n w v, i ≠ .hostMemAccess a n w v) : Out.Goes (exec i s) := by
  cases i with
  | hostMemAccess a n w v => exact absurd rfl (hi a n w v)
  | loadReply => exact execLoadReply_goes s _
  | sliceAtomic => exact execSliceAtomic_goes s _
  | dirtyWriteback => exact execDirtyWriteback_goes s _ _
  | streamBufferFlush => exact execStreamBufferFlush_goes s _ _
  | xstoreDelivery => exact execXstoreDelivery_goes s _ _
  | cpyCollectiveStart => exact execCpyCollectiveStart_goes s _
  | gatherRun => exact execGatherRun_goes s _
  | binscatRun => exact execBinscatRun_goes s _
  | mmaTurn => exact execMmaTurn_goes s _
  | maccTurn => exact execMaccTurn_goes s _
  | cbloadTurn => exact execCbloadTurn_goes s _
  | meetTurn => exact execMeetTurn_goes s _
  | landingArrival => exact execLandingArrival_goes s _ _
  | landingTimeout => exact execLandingTimeout_goes s _ _
  | strmTurn => exact execStrmTurn_goes s _
  | hailAccept => exact execHailAccept_goes s _ _
  | hostHailMessage => exact execHostHailMessage_goes s _ _ _
  | pointChangeDone => exact execPointChangeDone_goes s
  | diePowerOff => exact execDiePowerOff_goes s _
  | ungateDone => exact execUngateDone_goes s _
  | powerUp => exact execPowerUp_goes s _ _
  | dieTrained => exact execDieTrained_goes s _ _ _
  | flitReceive => exact execFlitReceive_goes s _ _ _ _ _
  | linkRetrain => exact execLinkRetrain_goes s _ _ _
  | requestResend => exact execRequestResend_goes s _ _
  | peerAccess => exact execPeerAccess_goes s _ _ _ _ _ _
  | packagePortTraining => exact execPackagePortTraining_goes s _ _ _ _
  | gateTest => exact execGateTest_goes s _
  | waitiTimeReached => exact execWaitiTimeReached_goes s _
  | borderChange => exact execBorderChange_goes s _ _ _ _ _
  | borderDeadline => exact execBorderDeadline_goes s _
  | partitionWindowEnd => exact execPartitionWindowEnd_goes s _ _ _ _
  | functionSwitch => exact execFunctionSwitch_goes s _ _
  | securityAlarm => exact execSecurityAlarm_goes s _ _
  | thermalTrip => exact execThermalTrip_goes s _
  | _ => exact ⟨_, rfl⟩

/-- R173, R367: what an instruction comes to. -/
theorem exec_cases (i : Instr) (s : State) : Out.Goes (exec i s) ∨
    ∃ a n w v, i = .hostMemAccess a n w v ∧ 2 ^ 40 < a + n ∧ exec i s = .fault (.noSuchMemory a) := by
  by_cases hi : ∃ a n w v, i = .hostMemAccess a n w v
  · obtain ⟨a, n, w, v, rfl⟩ := hi
    exact (execHostMemAccess_cases s a n w v).imp id fun h => ⟨a, n, w, v, rfl, h⟩
  · exact .inl (exec_goes s fun a n w v h => hi ⟨a, n, w, v, h⟩)

/-! ### Steps -/

/-- The model goes on, or stops for a host access beyond HBM. -/
def Out.GoesOrNamed (o : Out) : Prop := Out.Goes o ∨ ∃ a, o = .fault (.noSuchMemory a)

theorem exec_goesOrNamed (i : Instr) (s : State) : Out.GoesOrNamed (exec i s) :=
  (exec_cases i s).imp id fun ⟨a, _, _, _, _, _, h⟩ => ⟨a, h⟩

theorem State.runThread_goesOrNamed (s : State) (t : ThreadId) : Out.GoesOrNamed (s.runThread t) := by
  unfold State.runThread
  split
  · exact exec_goesOrNamed _ _
  · exact .inl (event_goes _)

/-- A turn is a word of a thread, an event, or a step that goes on. -/
theorem State.runTurn_goesOrNamed (s : State) (x : Turn) : Out.GoesOrNamed (s.runTurn x) := by
  cases x with
  | thread t => exact s.runThread_goesOrNamed t
  | event e =>
    change Out.GoesOrNamed (if e.hasWord then .next s else exec e s)
    split
    · exact .inl (event_goes _)
    · exact exec_goesOrNamed _ _
  | _ => exact .inl ⟨_, rfl⟩

theorem step_goesOrNamed (s : State) : Out.GoesOrNamed (step s) := by
  unfold step State.advance
  split
  · exact s.runThread_goesOrNamed _
  · unfold State.move
    split
    · exact State.runThread_goesOrNamed _ _
    · exact State.runTurn_goesOrNamed _ _

end Sys2Proof.Machine

open Sys2Proof Sys2Proof.Machine in
/-- Settles O6: every branch of every event but the host's access goes on, and a step is one word or one event. -/
theorem onlyHostAccessStops : Obligations.OnlyHostAccessStops := ⟨exec_cases, step_goesOrNamed⟩

end

section
/-! PROOFS. Service calls and their replies (R202, R304 to R307, R342): the words, what enters a queue, and what a reply leaves. -/

namespace Sys2Proof.Machine

/-! ### Step flags behind a reply (R308) -/

section

variable (s : State)

theorem State.walkStep_deviceRead (part ctx va : Nat) : s.WalkStep (s.deviceRead part ctx va).1 := by
  have hwalk := s.walkStep_translate (.ctx part ctx (1280 + realPart part)) va .load false
  unfold State.deviceRead
  split
  · rename_i s1 p htr
    rw [htr] at hwalk
    exact hwalk.trans (s1.memStep_siteTouch _ _ _ _ _).walk
  · rename_i s1 e htr
    rw [htr] at hwalk
    exact hwalk

/-- R306: a group whose registers are read again keeps its step flag. -/
theorem State.sameSteps_reloadPark (g : Nat) : s.SameSteps (s.reloadPark g) := by
  have hread : ∀ (a : State) (part ctx va : Nat) {b : State} {o : Option (Nat × Bool)},
      a.deviceRead part ctx va = (b, o) → a.SameSteps b := fun a part ctx va b o h => by
    have hwalk := a.walkStep_deviceRead part ctx va
    rw [h] at hwalk
    exact .of_walkStep hwalk
  unfold State.reloadPark
  extract_lets t base s1
  have hlanes : s.SameSteps s1 := by
    refine .foldl (fun a i => ?_) _ _
    split
    · rename_i b hb
      exact hread a _ _ _ hb
    · rename_i b v bad hb
      exact (hread a _ _ _ hb).trans (b.sameSteps_setGroup rfl)
  refine hlanes.trans (.foldl (fun a i => ?_) _ _)
  split
  · rename_i b hb
    exact hread a _ _ _ hb
  · rename_i b v bad hb
    exact (hread a _ _ _ hb).trans (b.sameSteps_setGroup rfl)

theorem State.sameSteps_putW (t : ThreadId) (r : Nat) (x : W64) : s.SameSteps (s.putW t r x) := s.sameSteps_setUni _ _

theorem State.sameSteps_takeReply (c : Call) (v1 v2 : W64) (g : Sig) : s.SameSteps (s.takeReply c v1 v2 g) := by
  have hput : ∀ t, s.SameSteps ((s.putW t 1 v1).putW t 2 v2) := fun t =>
    (s.sameSteps_putW _ _ _).trans (State.sameSteps_putW _ _ _ _)
  have hgone : ∀ (u : State) (t : ThreadId) (a : Addr), u.SameSteps ((u.setPc t a).setWaiting t false) := fun u t a =>
    (u.sameSteps_setPc t a).trans (State.sameSteps_setWaiting _ _ _)
  unfold State.takeReply
  extract_lets t s1 s2 s3 here
  clear_value here t
  split
  · exact .refl s
  · have h1 : s.SameSteps s1 := by
      dsimp only [s1]
      split
      · split
        · exact s.sameSteps_reloadPark _
        · exact hput _
      · exact hput _
    have h3 : s2.SameSteps s3 := by
      dsimp only [s3]
      split
      · refine .trans ?_ (State.sameSteps_stepParked _ _ _)
        split
        · exact s2.sameSteps_setGroup rfl
        · exact .refl s2
      · split
        · exact s2.sameSteps_setScalar _ _
        · exact .refl s2
    have hreply := (h1.trans (hgone s1 t _)).trans h3
    split
    · exact hreply.trans (.of_memStep (s3.memStep_foldSig _ _))
    · exact hreply

theorem State.sameSteps_closeCall (t : ThreadId) (id : W32) : s.SameSteps (s.closeCall t id) := by
  cases t <;> exact .of_groups rfl

end

/-! ### The words (R304 to R307) -/

section

variable {s : State} {t : Bool} {n a : BitVec 6} {m : BitVec 10}

theorem execSysSvc_waits (hb : s.begins (.sysSvc t n) = true) : exec (.sysSvc t n) s =
    .next (s.stay (if s.unheld.mayPark s.cur then s.unheld.makeCall s.cur n.toNat else s.unheld)) :=
  show execSysSvc t n s = _ from issue_waits hb rfl

section

variable {g k : Nat} (hc : s.cur = .gang g k) (hb : s.begins (.svc t m) = true)
include hc hb

/-- R306: a gang that does not hold every slice of its group. -/
theorem execSvc_parted (hwhole : (s.unheld.group g).whole k = false) :
    exec (.svc t m) s = .next (s.trapped (.svc t m) (Trap.convergence 8)) := by
  refine show execSvc t m s = _ from issue_traps hb ?_
  simp only [hc, hwhole, if_true]

variable (hwhole : (s.unheld.group g).whole k = true)
include hwhole

/-- R304: a group that may not park yet. -/
theorem execSvc_waits (hpark : s.unheld.mayPark s.cur = false) : exec (.svc t m) s = .next (s.stay s.unheld) := by
  rw [hc] at hpark
  refine show execSvc t m s = _ from issue_waits hb ?_
  simp only [hc, hwhole, Bool.true_eq_false, if_false, hpark, if_true]

/-- R306: the call of the active lanes. -/
theorem execSvc_calls (hpark : s.unheld.mayPark s.cur = true) :
    let u := s.unheld
    let c : Call := { caller := s.cur, lane := true, number := m.toNat
                      payload := [BitVec.ofNat 64 m.toNat, (laneMask ((u.group g).lanes k)).setWidth 64, BitVec.ofNat 64 (u.parkAddr g)] }
    let r := (u.parkGroup g .ready).callService s.cur c
    exec (.svc t m) s = .next (s.stay (r.1.parkedFor g (.call r.2.toNat))) := by
  intro u c r
  rw [hc] at hpark
  refine show execSvc t m s = _ from issue_waits hb ?_
  simp only [c, r, u, hc, hwhole, hpark, Bool.true_eq_false, if_false]

end

section

variable (hb : s.begins (.sysEret t a) = true)
include hb

/-- R307: a reply that names no open call. -/
theorem execSysEret_unopened (hcall : s.unheld.callOf s.cur ((s.getW s.cur a.toNat).setWidth 32) = none) :
    exec (.sysEret t a) s = .next (s.trapped (.sysEret t a) (Trap.commandCheck 1)) := by
  refine show execSysEret t a s = _ from issue_traps hb ?_
  simp only [State.getW_unheld, hcall]

variable {c : Call} (hcall : s.unheld.callOf s.cur ((s.getW s.cur a.toNat).setWidth 32) = some c)
include hcall

/-- R342: a reply whose release finds a store lost takes its report. -/
theorem execSysEret_lost {s1 : State} {tr : Trap} (hlost : s.unheld.lostReport s.cur 3 = some (s1, tr)) :
    exec (.sysEret t a) s =
      .next ((s1.unbegun s.wordPc).takeTrap s.cur tr s.wordPc s.wordPc (encode (.sysEret t a))) := by
  show execSysEret t a s = _
  unfold execSysEret
  rw [issue_begins hb]
  simp only [State.getW_unheld, hcall, hlost]
  rfl

variable (hlost : s.unheld.lostReport s.cur 3 = none)
include hlost

/-- R202: a reply waits for the acknowledgement of the write-backs before it. -/
theorem execSysEret_unacked {s2 : State} (hwait : s.unheld.releaseWait (s.cptOf s.cur) 3 = some s2) :
    exec (.sysEret t a) s = .next (s.stay s2) := by
  rw [← State.cptOf_unheld] at hwait
  refine show execSysEret t a s = _ from issue_waits hb ?_
  simp only [State.getW_unheld, hcall, hlost, hwait]

/-- R307: a reply closes its call, and the caller takes it. -/
theorem execSysEret_replies (hwait : s.unheld.releaseWait (s.cptOf s.cur) 3 = none) :
    let r := s.unheld.releaseDevice (s.cptOf s.cur)
    exec (.sysEret t a) s = .next (s.after ((r.1.closeCall s.cur ((s.getW s.cur a.toNat).setWidth 32)).takeReply c
      (s.getW s.cur (a.toNat + 1)) (s.getW s.cur (a.toNat + 2)) r.2)) := by
  intro r
  refine show execSysEret t a s = _ from issue_command hb rfl ?_ ?_
  · simp only [State.getW_unheld, hcall, hlost, State.cptOf_unheld, hwait]
    rfl
  · refine .trans ?_ (State.sameSteps_takeReply _ _ _ _ _)
    refine .trans ?_ (State.sameSteps_closeCall _ _ _)
    exact .of_memStep (State.memStep_releaseDevice _ _)

end

end

/-! ### The call of a spine thread (R305) -/

theorem State.memStep_writeCall (s : State) (part pa : Nat) (ws : List W64) : s.MemStep (s.writeCall part pa ws) :=
  (((s.memStep_evictSector _ _).trans (State.memStep_evictSector _ _ _)).trans (State.memStep_siteWrite _ _ _ _ _ _ _)).trans
    (State.memStep_siteWrite _ _ _ _ _ _ _)

/-- R305, R338: a partition with one more call. -/
def Part.takesCall (p : Part) (time : Nat) (id : W32) (c : Call) : Part :=
  { p with
    nextCall := id + 1, calls := p.calls.insert id.toNat c
    late := if p.nextImage.isSome then p.late ++ [id] else p.late
    lateAt := if p.nextImage.isSome then some (p.lateAt.getD time) else p.lateAt }

section

variable {s : State} {p : Part} (t : ThreadId) (hp : s.parts.find? (s.partOf t) = some p) (c : Call)
include hp

/-- R305: a call enters the queue and is written to memory; its notice follows, unless a new image is to take over. -/
theorem State.callService_eq : s.callService t c =
    let s1 := (s.modPart (s.partOf t) fun q => q.takesCall s.time p.nextCall c).writeCall (s.partOf t) (p.callAddr p.nextCall)
      (callWords c (s.ctxOf t) (s.recIndex t))
    (if p.nextImage.isSome then s1 else s1.notify (s.partOf t) 5 (s.ctxOf t) p.nextCall.toNat, p.nextCall) := by
  rw [← State.part_of_find? hp]
  rfl

theorem State.callService_id : (s.callService t c).2 = p.nextCall := by rw [State.callService_eq t hp]

/-- R305, R344: the partition's queue after a call, and its notice, which waits while a new image is to take over. -/
theorem State.part_callService : (s.callService t c).1.part (s.partOf t) =
    { p.takesCall s.time p.nextCall c with
      notices := if p.nextImage = none then pushNotice p.notices ⟨5, BitVec.ofNat 8 (s.ctxOf t), BitVec.ofNat 32 p.nextCall.toNat⟩
        else p.notices } := by
  have hwritten : ∀ ws, ((s.modPart (s.partOf t) fun q => q.takesCall s.time p.nextCall c).writeCall (s.partOf t)
      (p.callAddr p.nextCall) ws).parts.find? (s.partOf t) = some (p.takesCall s.time p.nextCall c) := fun ws => by
    rw [(State.memStep_writeCall _ _ _ _).parts_eq, State.modPart, Tbl.find?_modify, if_pos rfl, hp, Option.map_some]
  rw [State.callService_eq t hp]
  cases himage : p.nextImage with
  | none =>
    show (State.notify _ _ _ _ _).part _ = _
    rw [State.notify, State.part_modPart_of_find? (hwritten _), if_pos rfl]
    rfl
  | some e =>
    refine (State.part_of_find? (hwritten _)).trans ?_
    rw [if_neg (Option.some_ne_none e)]
    rfl

end

theorem State.callService_spines (s : State) (t : ThreadId) (c : Call) : (s.callService t c).1.spines = s.spines := by
  simp only [State.callService]
  split
  · exact (State.memStep_writeCall _ _ _ _).spines_eq
  · exact (State.memStep_writeCall _ _ _ _).spines_eq

section

variable (s : State) (c : Nat)

theorem State.scalar_setScalar_spine (x : Scalar) : (s.setScalar (.spine c) x).scalar (.spine c) = x := by
  simp [State.setScalar, State.scalar]

theorem State.scalar_setUni_spine (u : Uni) :
    (s.setUni (.spine c) u).scalar (.spine c) = { s.scalar (.spine c) with uni := u } := s.scalar_setScalar_spine c _

theorem State.setScalar_spine_parts (x : Scalar) : (s.setScalar (.spine c) x).parts = s.parts := rfl

theorem State.setUni_spine_parts (u : Uni) : (s.setUni (.spine c) u).parts = s.parts := rfl

variable {s c} (n : Nat)

theorem State.part_makeCall : (s.makeCall (.spine c) n).part (s.partOf (.spine c)) =
    ((s.callService (.spine c) { caller := .spine c, lane := false, number := n, payload := s.callPayload (.spine c) }).1).part
      (s.partOf (.spine c)) := by
  simp only [State.makeCall, State.part, State.emptyW, State.setUni_spine_parts, State.setScalar_spine_parts]

variable {p : Part} (hp : s.parts.find? (s.partOf (.spine c)) = some p)
include hp

/-- R305: a spine thread that has called waits for the reply, its results empty. -/
theorem State.scalar_makeCall : (s.makeCall (.spine c) n).scalar (.spine c) =
    { s.scalar (.spine c) with mode := .calling p.nextCall.toNat, uni := ((s.uni (.spine c)).emptyW 1).emptyW 2 } := by
  have hsame : ∀ k, (s.callService (.spine c) k).1.scalar (.spine c) = s.scalar (.spine c) := fun k => by
    simp only [State.scalar, State.callService_spines]
  simp only [State.makeCall, State.callService_id _ hp, State.emptyW, State.scalar_setUni_spine, State.scalar_setScalar_spine, State.uni, hsame]

end

/-! ### The reply to a spine thread (R307) -/

/-- R307: a spine thread that has its reply goes on after its word, with its results full. -/
theorem State.scalar_takeReply {s : State} {c req : Nat} {k : Call} {v1 v2 : W64} {g : Sig} (hk : k.caller = .spine c)
    (hc : (s.spines.find? c).isSome = true) (hmode : (s.scalar (.spine c)).mode = .calling req) :
    (s.takeReply k v1 v2 g).scalar (.spine c) = { s.scalar (.spine c) with
      uni := ((s.uni (.spine c)).putW 1 v1).putW 2 v2, pc := (s.scalar (.spine c)).pc + 4, waiting := false, mode := .run } := by
  have hthere : s.isThere (.spine c) = true := hc
  have hfold : ∀ (b : Prop) [Decidable b] (u : State) (cpt : Nat),
      (if b then u.foldSig cpt g else u).scalar (.spine c) = u.scalar (.spine c) := fun b _ u cpt => by
    split
    · exact (u.memStep_foldSig cpt g).walk.scalar_eq _
    · rfl
  simp only [State.takeReply, hk, hthere, Bool.true_eq_false, if_false, hfold]
  simp only [State.setWaiting, State.setPc, State.putW, State.pcOf, State.scalar_setUni_spine, State.scalar_setScalar_spine, State.uni, hmode]

end Sys2Proof.Machine

open Sys2Proof Sys2Proof.Machine in
/-- Settles O36: the words case by case, the entry of a call in its partition's queue, and the thread that has its reply. -/
theorem serviceCalls : Obligations.ServiceCalls := by
  refine ⟨fun s t n a m group => ?_, fun s c n p hp => ?_, fun s c req k v1 v2 g hk hc hmode => ?_⟩
  · intro u
    exact ⟨execSysSvc_waits, fun g k hc hb hwhole hpark => execSvc_calls hc hb hwhole hpark,
      fun g k hc hb => ⟨execSvc_parted hc hb, execSvc_waits hc hb⟩,
      fun hb => ⟨execSysEret_unopened hb, fun c s2 hcall hlost hwait => execSysEret_unacked hb hcall hlost hwait,
        fun c hcall hlost hwait => execSysEret_replies hb hcall hlost hwait, fun c s1 tr hcall hlost => execSysEret_lost hb hcall hlost⟩, rfl⟩
  · intro t
    have hth : t.scalar (.spine c) = _ := State.scalar_makeCall n hp
    have hpart : t.part (s.partOf (.spine c)) = _ := (State.part_makeCall n).trans (State.part_callService _ hp _)
    have hempty : ∀ r, r < 64 → (t.uni (.spine c)).empty.getLsbD r = _ := fun r hr => by
      rw [show t.uni (.spine c) = (t.scalar (.spine c)).uni from rfl, hth, Uni.empty_emptyW _ _ hr, Uni.empty_emptyW _ _ hr]
    rw [hempty 1 (by decide), hempty 2 (by decide), hpart, hth]
    exact ⟨rfl, by simp, by simp, rfl, Tbl.find?_insert_self _ _ _, rfl⟩
  · intro t
    have hth : t.scalar (.spine c) = _ := State.scalar_takeReply hk hc hmode
    have huni : t.uni (.spine c) = ((s.uni (.spine c)).putW 1 v1).putW 2 v2 := congrArg Scalar.uni hth
    simp only [State.getW, huni, Uni.getW_putW _ _ _ _ (Nat.succ_ne_zero _), Uni.empty_putW _ _ _ _ (show 1 < 64 by decide)]
    exact ⟨rfl, rfl, rfl, congrArg Scalar.mode hth, congrArg Scalar.pc hth⟩

end

section
/-! PROOFS. What the service of waiting takers leaves of threads (R325), and registers that a word fills at its end (R320). -/

namespace Sys2Proof.Machine

/-! ### The context of a thread -/

/-- Every thread belongs to the partition and the context that it belongs to in another state: groups to their teams, teams and scalar
threads to their contexts. -/
structure State.SameHomes (s t : State) : Prop where
  group : ∀ g, (t.group g).team = (s.group g).team
  team : ∀ k, (t.team k).part = (s.team k).part ∧ (t.team k).ctx = (s.team k).ctx
  scalar : ∀ th, (t.scalar th).part = (s.scalar th).part ∧ (t.scalar th).ctx = (s.scalar th).ctx

namespace State.SameHomes

theorem refl (s : State) : s.SameHomes s := ⟨fun _ => rfl, fun _ => ⟨rfl, rfl⟩, fun _ => ⟨rfl, rfl⟩⟩

theorem trans {s t u : State} (h : s.SameHomes t) (k : t.SameHomes u) : s.SameHomes u :=
  ⟨fun g => (k.group g).trans (h.group g), fun n => ⟨(k.team n).1.trans (h.team n).1, (k.team n).2.trans (h.team n).2⟩,
    fun th => ⟨(k.scalar th).1.trans (h.scalar th).1, (k.scalar th).2.trans (h.scalar th).2⟩⟩

theorem of_walkStep {s t : State} (h : s.WalkStep t) : s.SameHomes t :=
  ⟨fun g => congrArg Group.team (h.group_eq g), fun k => ⟨congrArg Team.part (h.team_eq k), congrArg Team.ctx (h.team_eq k)⟩,
    fun th => ⟨congrArg Scalar.part (h.scalar_eq th), congrArg Scalar.ctx (h.scalar_eq th)⟩⟩

theorem of_memStep {s t : State} (h : s.MemStep t) : s.SameHomes t := of_walkStep h.walk

theorem foldl {α : Type} {f : State → α → State} (hf : ∀ (t : State) x, t.SameHomes (f t x)) (l : List α) (s : State) :
    s.SameHomes (l.foldl f s) := by
  induction l generalizing s with
  | nil => exact refl s
  | cons x l ih => exact (hf s x).trans (ih _)

variable {s t : State} (h : s.SameHomes t)
include h

theorem partOf_eq (th : ThreadId) : t.partOf th = s.partOf th := by
  cases th with
  | gang g k => exact (h.team _).1.trans (by rw [h.group g]; rfl)
  | spine c => exact (h.scalar _).1
  | _ => rfl

theorem ctxOf_eq (th : ThreadId) : t.ctxOf th = s.ctxOf th := by
  cases th with
  | gang g k => exact (h.team _).2.trans (by rw [h.group g]; rfl)
  | spine c => exact (h.scalar _).2
  | _ => rfl

end State.SameHomes

section

variable (s : State)

theorem State.sameHomes_setGroup {g : Nat} {x : Group} (h : x.team = (s.group g).team) : s.SameHomes (s.setGroup g x) := by
  refine ⟨fun j => ?_, fun _ => ⟨rfl, rfl⟩, fun th => by cases th <;> exact ⟨rfl, rfl⟩⟩
  by_cases hj : j = g
  · rw [hj, State.group_setGroup, h]
  · rw [State.group_setGroup_ne _ _ hj]

theorem State.sameHomes_modifyGroup (g : Nat) (f : Group → Group) (h : ∀ x, (f x).team = x.team) :
    s.SameHomes { s with groups := s.groups.modify g f } := by
  refine ⟨fun j => ?_, fun _ => ⟨rfl, rfl⟩, fun th => by cases th <;> exact ⟨rfl, rfl⟩⟩
  simp only [State.group, Tbl.find?_modify]
  split
  case isTrue hj =>
    rw [hj]
    cases s.groups.find? g with
    | none => rfl
    | some x => exact h x
  case isFalse => rfl

theorem State.sameHomes_setTeam {k : Nat} {x : Team} (hpart : x.part = (s.team k).part) (hctx : x.ctx = (s.team k).ctx) :
    s.SameHomes (s.setTeam k x) := by
  refine ⟨fun _ => rfl, fun j => ?_, fun th => by cases th <;> exact ⟨rfl, rfl⟩⟩
  by_cases hj : j = k
  · rw [hj, State.team_setTeam]
    exact ⟨hpart, hctx⟩
  · have hother : (s.setTeam k x).team j = s.team j := by simp only [State.team, State.setTeam, Tbl.find?_insert, if_neg hj]
    rw [hother]
    exact ⟨rfl, rfl⟩

/-- A partition's service thread aside, a change of a partition changes no thread. -/
theorem State.sameHomes_modPart (p : Nat) {f : Part → Part}
    (h : ∀ q, (f q).svc.part = q.svc.part ∧ (f q).svc.ctx = q.svc.ctx) : s.SameHomes (s.modPart p f) := by
  refine ⟨fun _ => rfl, fun _ => ⟨rfl, rfl⟩, fun th => ?_⟩
  cases th with
  | service q =>
    simp only [State.scalar, State.modPart, Tbl.find?_modify]
    by_cases hq : q = p
    · rw [if_pos hq, hq]
      cases s.parts.find? p with
      | none => exact ⟨rfl, rfl⟩
      | some x => exact h x
    · rw [if_neg hq]
      exact ⟨rfl, rfl⟩
  | _ => exact ⟨rfl, rfl⟩

theorem State.sameHomes_setScalar (t : ThreadId) (x : Scalar) (hpart : x.part = (s.scalar t).part) (hctx : x.ctx = (s.scalar t).ctx) :
    s.SameHomes (s.setScalar t x) := by
  have hother : ∀ c, c ≠ t → (s.setScalar t x).scalar c = s.scalar c := fun c hc => by
    cases t <;> cases c <;>
      simp_all [State.setScalar, State.scalar, State.modPart, Tbl.find?_insert, Tbl.find?_modify]
  refine ⟨fun g => by cases t <;> rfl, fun k => by cases t <;> exact ⟨rfl, rfl⟩, fun c => ?_⟩
  by_cases hc : c = t
  · subst hc
    rcases gang_or_scalar c with ⟨g, k, rfl⟩ | hth
    · exact ⟨rfl, rfl⟩
    · rcases s.scalar_setScalar hth x with h | h <;> rw [h]
      · exact ⟨hpart, hctx⟩
      · exact ⟨rfl, rfl⟩
  · rw [hother c hc]
    exact ⟨rfl, rfl⟩

theorem State.sameHomes_setUni (t : ThreadId) (u : Uni) : s.SameHomes (s.setUni t u) := by
  rcases gang_or_scalar t with ⟨g, k, rfl⟩ | h
  · exact s.sameHomes_setGroup rfl
  · rw [State.setUni_of_scalar h]
    exact s.sameHomes_setScalar _ _ rfl rfl

theorem State.sameHomes_setPc (t : ThreadId) (a : Addr) : s.SameHomes (s.setPc t a) := by
  rcases gang_or_scalar t with ⟨g, k, rfl⟩ | h
  · exact s.sameHomes_setGroup rfl
  · rw [State.setPc_of_scalar h]
    exact s.sameHomes_setScalar _ _ rfl rfl

theorem State.sameHomes_setWaiting (t : ThreadId) (b : Bool) : s.SameHomes (s.setWaiting t b) := by
  rcases gang_or_scalar t with ⟨g, k, rfl⟩ | h
  · exact s.sameHomes_setGroup rfl
  · rw [State.setWaiting_of_scalar h]
    exact s.sameHomes_setScalar _ _ rfl rfl

theorem State.setServing_of_scalar {t : ThreadId} (h : isGang t = false) (v : Option Nat) (ret : Addr) :
    s.setServing t v ret = s.setScalar t { s.scalar t with serving := v, retpc := ret } := by
  cases t with
  | gang g k => cases h
  | _ => rfl

theorem State.sameHomes_setServing (t : ThreadId) (v : Option Nat) (ret : Addr) : s.SameHomes (s.setServing t v ret) := by
  rcases gang_or_scalar t with ⟨g, k, rfl⟩ | h
  · exact s.sameHomes_setGroup rfl
  · rw [s.setServing_of_scalar h]
    exact s.sameHomes_setScalar _ _ rfl rfl

theorem State.sameHomes_modVec (part ctx v : Nat) (f : HVec → HVec) : s.SameHomes (s.modVec part ctx v f) :=
  ⟨fun _ => rfl, fun _ => ⟨rfl, rfl⟩, fun th => by cases th <;> exact ⟨rfl, rfl⟩⟩

theorem State.sameHomes_notify (part kind ctx arg : Nat) : s.SameHomes (s.notify part kind ctx arg) :=
  s.sameHomes_modPart part fun _ => ⟨rfl, rfl⟩

theorem State.sameHomes_finishHalt (team : Nat) : s.SameHomes (s.finishHalt team) := by
  unfold State.finishHalt
  extract_lets x
  split
  · exact .refl s
  · split
    · refine .trans ?_ (State.sameHomes_notify _ _ _ _ _)
      have hrelease := (s.memStep_releasePart x.part).walk
      refine (State.SameHomes.of_walkStep hrelease).trans (State.sameHomes_setTeam _ ?_ ?_) <;> rw [hrelease.team_eq]
    · exact .refl s

/-- R308: a Single-Step trap moves no thread. -/
theorem State.sameHomes_singleStep {g k : Nat} {pc resume : Addr} {word : W32} :
    s.SameHomes (s.takeTrap (.gang g k) { kind := 0x19 } pc resume word) := by
  unfold State.takeTrap
  dsimp only
  rw [if_pos rfl]
  refine .trans ?_ (State.sameHomes_finishHalt _ _)
  refine .trans ?_ (State.sameHomes_notify _ _ _ _ _)
  refine .trans ?_ (.of_memStep (memStep_releasePart _ _))
  exact .trans (.of_walkStep (s.walkStep_writeRecord _ _)) (State.sameHomes_setGroup _ rfl)

theorem State.sameHomes_stepParked (t : ThreadId) (pc : Addr) : s.SameHomes (s.stepParked t pc) := by
  cases t with
  | gang g k =>
    unfold State.stepParked
    dsimp only
    split
    · split
      · exact s.sameHomes_singleStep
      · exact .refl s
    · exact .refl s
  | _ => exact .refl s

theorem State.sameHomes_parkedFor (g : Nat) (why : Park) : s.SameHomes (s.parkedFor g why) := by
  unfold State.parkedFor
  split
  · exact s.sameHomes_setGroup rfl
  · exact .refl s

theorem State.sameHomes_deliverTo (t : ThreadId) (d v : Nat) (ret : Addr) : s.SameHomes (s.deliverTo t d v ret).1 := by
  unfold State.deliverTo
  dsimp only
  refine .trans ?_ (.of_memStep (memStep_foldHail _ _ _))
  refine .trans ?_ (State.sameHomes_setServing _ _ _ _)
  refine .trans ?_ (State.sameHomes_modVec _ _ _ _ _)
  exact (s.sameHomes_setUni _ _).trans (State.sameHomes_setUni _ _ _)

theorem State.sameHomes_serveTaker (x : Nat × ThreadId × Nat × Nat) : s.SameHomes (s.serveTaker x) := by
  obtain ⟨n, t, d, a⟩ := x
  unfold State.serveTaker
  dsimp only
  split
  · exact .refl s
  · rename_i v _
    have gone : s.SameHomes (((s.deliverTo t d v (s.pcOf t)).1.setPc t (s.deliverTo t d v (s.pcOf t)).2).setWaiting t false) :=
      ((s.sameHomes_deliverTo t d v _).trans (State.sameHomes_setPc _ _ _)).trans (State.sameHomes_setWaiting _ _ _)
    split
    · refine .trans (gone.trans ?_) (State.sameHomes_stepParked _ _ _)
      refine .trans ?_ (State.sameHomes_parkedFor _ _ _)
      exact State.sameHomes_modifyGroup _ _ _ fun x => rfl
    · exact gone.trans (State.sameHomes_setScalar _ _ _ rfl rfl)

theorem State.sameHomes_serveTakers (part ctx : Nat) : s.SameHomes (s.serveTakers part ctx) := by
  unfold State.serveTakers
  split
  · exact .foldl (fun t x => t.sameHomes_serveTaker x) _ _
  · split
    · exact .refl s
    · exact .foldl (fun t x => t.sameHomes_serveTaker x) _ _
  · exact .refl s

theorem State.sameHomes_endService (t : ThreadId) : s.SameHomes (s.endService t) := by
  unfold State.endService
  split
  · exact (s.sameHomes_modVec _ _ _ _).trans (State.sameHomes_setServing _ _ _ _)
  · exact .refl s

theorem State.sameSteps_endService (t : ThreadId) : s.SameSteps (s.endService t) := by
  unfold State.endService
  split
  · exact (s.sameSteps_modVec _ _ _ _).trans (State.sameSteps_setServing _ _ _ _)
  · exact .refl s

/-! ### Registers that a word fills at its end (R320) -/

theorem State.sameSteps_pushReq (g : Nat) (r : Req) : s.SameSteps (s.pushReq g r) := by
  refine .trans ?_ (.of_groups rfl)
  exact s.sameSteps_setGroup (Group.step_emptyDest _ _)

theorem State.sameSteps_putLater (t : ThreadId) (d : Nat) (v : W64) : s.SameSteps (s.putLater t d v) := by
  unfold State.putLater
  split
  · cases t with
    | gang g k => exact s.sameSteps_pushReq g _
    | _ => exact .refl s
  · exact s.sameSteps_setUni _ _

theorem State.sameSteps_deliverAtOnce (t : ThreadId) (d v : Nat) (ret : Addr) : s.SameSteps (s.deliverTo t d v ret true).1 := by
  unfold State.deliverTo
  dsimp only
  refine .trans ?_ (.of_memStep (memStep_foldHail _ _ _))
  refine .trans ?_ (State.sameSteps_setServing _ _ _ _)
  refine .trans ?_ (State.sameSteps_modVec _ _ _ _ _)
  exact (s.sameSteps_putLater _ _ _).trans (State.sameSteps_putLater _ _ _ _)

theorem State.sameSteps_clearTake (t : ThreadId) : s.SameSteps (s.clearTake t) := by
  cases t with
  | gang g k =>
    unfold State.clearTake
    dsimp only
    split
    · exact s.sameSteps_setGroup rfl
    · exact .refl s
  | _ => exact .refl s

end

theorem Tbl.erase_erase {α : Type} (m : Tbl α) (k : Nat) : (m.erase k).erase k = m.erase k := by
  induction m with
  | nil => rfl
  | cons e m ih =>
    obtain ⟨a, x⟩ := e
    by_cases h : a = k <;> simp [Tbl.erase, h, ih]

theorem Tbl.erase_place {α : Type} (m : Tbl α) (k : Nat) (v : α) : (m.place k v).erase k = m.erase k := by
  induction m with
  | nil => simp [Tbl.place, Tbl.erase]
  | cons e m ih =>
    obtain ⟨a, x⟩ := e
    by_cases h : k < a
    · simp [Tbl.place, Tbl.erase, h]
    · simp [Tbl.place, Tbl.erase, h, ih]

/-- An entry written twice holds what was written last. -/
theorem Tbl.insert_insert {α : Type} (m : Tbl α) (k : Nat) (v w : α) : (m.insert k v).insert k w = m.insert k w := by
  rw [Tbl.insert, Tbl.insert, Tbl.erase_place, Tbl.erase_erase, Tbl.insert]

theorem State.setGroup_setGroup (s : State) (g : Nat) (x y : Group) : (s.setGroup g x).setGroup g y = s.setGroup g y := by
  simp only [State.setGroup, Tbl.insert_insert]

/-- R7: what follows a word of group code whose result goes to `w0`. -/
theorem State.after_putW_zero {s : State} {g k : Nat} (hc : s.cur = .gang g k) (v : State) (r : W64) :
    s.after (v.putW (.gang g k) 0 r) = s.after v := by
  have hpc : ∀ a, (v.putW (.gang g k) 0 r).setPc (.gang g k) a = v.setPc (.gang g k) a := fun a => by
    simp only [State.setPc, State.putW, State.setUni, Uni.putW_zero, State.uni, State.group_setGroup, State.setGroup_setGroup]
  simp only [State.after, hc, hpc]

end Sys2Proof.Machine

end

section
/-! PROOFS. The hail words (R216, R320 to R329, R342). -/

namespace Sys2Proof.Machine

section

variable {s s' : State} {i : Instr} {body : ThreadId → State → Did}

/-- A word without a v destination that transfers control with the step flags as they were. -/
theorem issue_transfer {a : Addr} (hb : s.begins i = true) (hv : (shape i).vdst = []) (hd : body s.cur s.unheld = .goto s' a)
    (hs : s.unheld.SameSteps s') : issue i s body = .next (s.afterJump s' a) := by
  rw [issue_begins hb, hd, settle_goto hb ((hs.stepped s.cur).trans (State.unheld_stepped hb)) (.inl hv)]

/-- A word that takes the report of a lost store. -/
theorem issue_reports {tr : Trap} (hb : s.begins i = true) (hd : body s.cur s.unheld = .report s' tr) :
    issue i s body = .next ((s'.unbegun s.wordPc).takeTrap s.cur tr s.wordPc s.wordPc (encode i)) := by
  rw [issue_begins hb, hd]
  rfl

/-- R320: a word that gives a value at its end. -/
theorem issue_putLater {d : Nat} {r : W64} (hb : s.begins i = true) (hv : (shape i).vdst = [])
    (hd : body s.cur s.unheld = .done (s'.putLater s.cur d r)) (hs : s.unheld.SameSteps s') :
    issue i s body = .next (s.after (s'.putLater s.cur d r)) :=
  issue_command hb hv hd (hs.trans (State.sameSteps_putLater _ _ _ _))

end

section

variable (s : State) (t : ThreadId)

theorem State.ctx_unheld (part c : Nat) : s.unheld.ctx part c = s.ctx part c := by
  rw [s.unheld_eq]
  rfl

theorem State.part_unheld (p : Nat) : s.unheld.part p = s.part p := by
  rw [s.unheld_eq]
  rfl

theorem State.root_unheld : s.unheld.root = s.root := by
  rw [s.unheld_eq]

theorem State.senderId_unheld : s.unheld.senderId t = s.senderId t := by
  simp only [State.senderId, State.partOf_unheld, State.ctxOf_unheld]

end

/-! ### `hail.send` (R321) -/

section

variable {s : State} {t : Bool} {d a : BitVec 6}

/-- R318: a hail to a context of the sender's partition. -/
def State.nearHail (s : State) (th : ThreadId) (a : BitVec 6) (g : Sig) : HailMsg :=
  let x := s.getW th a.toNat
  ⟨s.partOf th, x.toNat / 2 ^ 8 % 256, x.toNat % 32, s.getW th (a.toNat + 1), s.senderId th, g⟩

/-- R321: a hail to a peer package. -/
def State.farHail (s : State) (th : ThreadId) (a : BitVec 6) : PeerHail :=
  let x := s.getW th a.toNat
  ⟨x.toNat / 2 ^ 17 % 16, x.toNat / 2 ^ 21 % 64, x.toNat / 2 ^ 8 % 256, x.toNat % 32, s.getW th (a.toNat + 1), s.senderId th⟩

/-- R202, R216: the state of a send within the device, its release made. -/
def State.sendsNear (s : State) (th : ThreadId) (a : BitVec 6) : State :=
  let r := s.releaseDevice (s.cptOf th)
  let m := s.nearHail th a r.2
  ({ r.1 with hails := r.1.hails ++ [m] } : State).post .unit (s.cptOf th) ((s.part (s.partOf th)).base / 64) (.message m) 0

/-- R207, R321: the state of a send to a peer package, its release of system scope made. -/
def State.sendsFar (s : State) (th : ThreadId) (a : BitVec 6) : State :=
  let v := (s.releaseDevice (s.cptOf th)).1.cleanHost (s.cptOf th)
  let h := s.farHail th a
  ({ v with peerHails := v.peerHails ++ [h] } : State).post (.thread (ownThread th)) (s.cptOf th) (16 + h.port) (.hail h) 0

theorem State.sameSteps_sendsNear (s : State) (th : ThreadId) (a : BitVec 6) : s.SameSteps (s.sendsNear th a) := by
  refine .trans ?_ (.of_memStep (State.memStep_post _ _ _ _ _ _ _))
  exact (State.SameSteps.of_memStep (s.memStep_releaseDevice _)).trans (.of_groups rfl)

theorem State.sameSteps_sendsFar (s : State) (th : ThreadId) (a : BitVec 6) : s.SameSteps (s.sendsFar th a) := by
  refine .trans ?_ (.of_memStep (State.memStep_post _ _ _ _ _ _ _))
  exact (State.SameSteps.of_memStep ((s.memStep_releaseDevice _).trans (State.memStep_cleanHost _ _))).trans (.of_groups rfl)

variable (hb : s.begins (.hailSend t d a) = true)
include hb

/-- R321: a target beyond its limits. -/
theorem execHailSend_refused (hok : hailTargetOk (s.getW s.cur a.toNat) = false) :
    exec (.hailSend t d a) s = .next (s.after (s.unheld.putLater s.cur d.toNat 3)) := by
  refine show execHailSend t d a s = _ from issue_putLater hb rfl ?_ (.refl _)
  simp only [State.getW_unheld, hok, if_true]

variable (hok : hailTargetOk (s.getW s.cur a.toNat) = true)
include hok

/-- R321: a port that is down. -/
theorem execHailSend_down (hfar : (s.getW s.cur a.toNat).getLsbD 16 = true)
    (hdown : s.root.plUp.getLsbD ((s.getW s.cur a.toNat).toNat / 2 ^ 17 % 16) = false) :
    exec (.hailSend t d a) s = .next (s.after (s.unheld.putLater s.cur d.toNat 2)) := by
  refine show execHailSend t d a s = _ from issue_putLater hb rfl ?_ (.refl _)
  simp only [State.getW_unheld, State.root_unheld, hok, hfar, hdown, Bool.true_eq_false, if_false, Bool.not_false, Bool.and_self, if_true]

/-- R321: a context that is not there. -/
theorem execHailSend_nobody (hnear : (s.getW s.cur a.toNat).getLsbD 16 = false)
    (hphase : (s.ctx (s.partOf s.cur) ((s.getW s.cur a.toNat).toNat / 2 ^ 8 % 256)).phase = .none) :
    exec (.hailSend t d a) s = .next (s.after (s.unheld.putLater s.cur d.toNat 1)) := by
  refine show execHailSend t d a s = _ from issue_putLater hb rfl ?_ (.refl _)
  simp only [State.getW_unheld, State.partOf_unheld, State.ctx_unheld, hok, hnear, hphase, Bool.true_eq_false, if_false, Bool.false_and,
    Bool.false_eq_true, Bool.not_false, beq_self_eq_true, Bool.and_self, if_true]

section

variable (hnear : (s.getW s.cur a.toNat).getLsbD 16 = false)
  (hphase : (s.ctx (s.partOf s.cur) ((s.getW s.cur a.toNat).toNat / 2 ^ 8 % 256)).phase ≠ .none)
  (hpend : s.unheld.pendingAny s.cur 3 = false)
  (hcrowd : s.unheld.crowdedBy (s.cptOf s.cur) (some ((s.part (s.partOf s.cur)).base / 64)) 1 = false)
  (hhost : s.unheld.snoopHost (s.unheld.releaseLines (s.cptOf s.cur) 3) = none)
include hnear hphase hpend hcrowd hhost

/-- R342: a send within the device that finds a store lost. -/
theorem execHailSend_lostNear {s1 : State} {tr : Trap} (hlost : s.unheld.lostReport s.cur 3 = some (s1, tr)) :
    exec (.hailSend t d a) s =
      .next ((s1.unbegun s.wordPc).takeTrap s.cur tr s.wordPc s.wordPc (encode (.hailSend t d a))) := by
  refine show execHailSend t d a s = _ from issue_reports hb ?_
  simp only [State.getW_unheld, State.partOf_unheld, State.ctx_unheld, State.part_unheld, State.cptOf_unheld, hok, hnear, hpend, hcrowd,
    hhost, hlost, beq_false_of_ne hphase, Bool.true_eq_false, Bool.false_eq_true, if_false, Bool.false_and, Bool.and_false]

/-- R216, R318: a send within the device. -/
theorem execHailSend_near (hlost : s.unheld.lostReport s.cur 3 = none) (hwait : s.unheld.releaseWait (s.cptOf s.cur) 3 = none) :
    exec (.hailSend t d a) s = .next (s.after ((s.unheld.sendsNear s.cur a).putLater s.cur d.toNat 0)) := by
  refine show execHailSend t d a s = _ from issue_putLater hb rfl ?_ (State.sameSteps_sendsNear _ _ _)
  simp only [State.getW_unheld, State.partOf_unheld, State.ctx_unheld, State.part_unheld, State.cptOf_unheld, hok, hnear, hpend, hcrowd,
    hhost, hlost, hwait, beq_false_of_ne hphase, Bool.true_eq_false, Bool.false_eq_true, if_false, Bool.false_and, Bool.and_false,
    State.sendsNear, State.nearHail, State.sendRelease]

end

section

variable (hfar : (s.getW s.cur a.toNat).getLsbD 16 = true)
  (hup : s.root.plUp.getLsbD ((s.getW s.cur a.toNat).toNat / 2 ^ 17 % 16) = true)
  (hpend : s.unheld.pendingAny s.cur 4 = false)
  (hcrowd : s.unheld.crowdedBy (s.cptOf s.cur) (some (16 + (s.getW s.cur a.toNat).toNat / 2 ^ 17 % 16)) 1 = false)
  (hhost : s.unheld.snoopHost (s.unheld.releaseLines (s.cptOf s.cur) 3) = none)
include hfar hup hpend hcrowd hhost

/-- R371: a send to a peer package that finds a store lost. -/
theorem execHailSend_lostFar {s1 : State} {tr : Trap} (hlost : s.unheld.lostReport s.cur 4 = some (s1, tr)) :
    exec (.hailSend t d a) s =
      .next ((s1.unbegun s.wordPc).takeTrap s.cur tr s.wordPc s.wordPc (encode (.hailSend t d a))) := by
  refine show execHailSend t d a s = _ from issue_reports hb ?_
  simp only [State.getW_unheld, State.root_unheld, State.cptOf_unheld, hok, hfar, hup, hpend, hcrowd, hhost, hlost, Bool.true_eq_false,
    Bool.false_eq_true, if_false, if_true, Bool.not_true, Bool.false_and, Bool.and_false]

/-- R207, R321: a send to a peer package. -/
theorem execHailSend_far (hlost : s.unheld.lostReport s.cur 4 = none) (hwait : s.unheld.releaseWait (s.cptOf s.cur) 4 = none) :
    exec (.hailSend t d a) s = .next (s.after ((s.unheld.sendsFar s.cur a).putLater s.cur d.toNat 0)) := by
  refine show execHailSend t d a s = _ from issue_putLater hb rfl ?_ (State.sameSteps_sendsFar _ _ _)
  simp only [State.getW_unheld, State.root_unheld, State.cptOf_unheld, hok, hfar, hup, hpend, hcrowd, hhost, hlost, hwait,
    Bool.true_eq_false, Bool.false_eq_true, if_false, if_true, Bool.not_true, Bool.false_and, Bool.and_false, State.sendsFar,
    State.farHail, State.sendRelease]

end

end

/-! ### `hail.take` and `hail.ret` (R325, R326) -/

section

variable {s : State} {t : Bool} {d a : BitVec 6}

/-- R325: what a `hail.take` finds once its thread's service has ended and the waiting takers have been served. -/
def State.takeServed (s : State) : State := (s.unheld.endService s.cur).serveTakers (s.partOf s.cur) (s.ctxOf s.cur)

theorem State.sameSteps_takeServed (s : State) : s.unheld.SameSteps s.takeServed :=
  (State.sameSteps_endService _ _).trans (State.sameSteps_serveTakers _ _ _)

theorem State.sameHomes_takeServed (s : State) : s.unheld.SameHomes s.takeServed :=
  (State.sameHomes_endService _ _).trans (State.sameHomes_serveTakers _ _ _)

section

variable (hb : s.begins (.hailTake t d a) = true)
include hb

/-- R325: a gang that does not hold every slice of its group. -/
theorem execHailTake_parted {g k : Nat} (hc : s.cur = .gang g k) (hwhole : (s.unheld.group g).whole k = false) :
    exec (.hailTake t d a) s = .next (s.trapped (.hailTake t d a) (Trap.convergence 8)) := by
  refine show execHailTake t d a s = _ from issue_traps hb ?_
  simp only [hc, hwhole, Bool.not_false, if_true]

variable (hwhole : ∀ g k, s.cur = .gang g k → (s.unheld.group g).whole k = true)
include hwhole

/-- R325: what a take of a whole gang, or of a scalar thread, comes to. -/
theorem execHailTake_whole : exec (.hailTake t d a) s = .next (settle (.hailTake t d a) s
    (if s.unheld.hasTake s.cur && !s.takeServed.hasTake s.cur then .goto s.takeServed (s.takeServed.pcOf s.cur)
    else
      match s.takeServed.pickVector (s.partOf s.cur) (s.ctxOf s.cur) (s.takeServed.getW s.cur a.toNat) with
      | some v =>
        let r := s.takeServed.deliverTo s.cur d.toNat v (s.pcOf s.cur) true
        .goto (r.1.clearTake s.cur) r.2
      | none => .wait (s.takeServed.waitTake s.cur d.toNat a.toNat))) := by
  show execHailTake t d a s = _
  unfold execHailTake
  rw [issue_begins hb]
  refine congrArg (fun r => Host.Outcome.next (settle _ s r)) ((if_neg ?_).trans ?_)
  · split
    case h_1 g k hc => simp [hwhole g k hc]
    case h_2 => simp
  · simp only [State.pcOf_unheld, State.partOf_unheld, State.ctxOf_unheld]
    rw [← State.takeServed, s.sameHomes_takeServed.partOf_eq, s.sameHomes_takeServed.ctxOf_eq, State.partOf_unheld, State.ctxOf_unheld]
      <;> rfl

/-- R325: a take that waited for its group's commands and has been served. -/
theorem execHailTake_served (hhad : s.unheld.hasTake s.cur = true) (hgone : s.takeServed.hasTake s.cur = false) :
    exec (.hailTake t d a) s = .next (s.afterJump s.takeServed (s.takeServed.pcOf s.cur)) := by
  rw [execHailTake_whole hb hwhole, hhad, hgone]
  exact congrArg Host.Outcome.next
    (settle_goto hb ((s.sameSteps_takeServed.stepped s.cur).trans (State.unheld_stepped hb)) (.inl rfl))

variable (hstays : s.unheld.hasTake s.cur = false ∨ s.takeServed.hasTake s.cur = true)
include hstays

omit hb hwhole in
theorem execHailTake_stays : (s.unheld.hasTake s.cur && !s.takeServed.hasTake s.cur) = false := by
  rcases hstays with h | h <;> rw [h]
  · rfl
  · exact Bool.and_false _

/-- R325: a take that finds a deliverable vector. -/
theorem execHailTake_delivers {v : Nat}
    (hpick : s.takeServed.pickVector (s.partOf s.cur) (s.ctxOf s.cur) (s.takeServed.getW s.cur a.toNat) = some v) :
    let r := s.takeServed.deliverTo s.cur d.toNat v (s.pcOf s.cur) true
    exec (.hailTake t d a) s = .next (s.afterJump (r.1.clearTake s.cur) r.2) := by
  intro r
  have hsteps : s.unheld.SameSteps (r.1.clearTake s.cur) :=
    (s.sameSteps_takeServed.trans (State.sameSteps_deliverAtOnce _ _ _ _ _)).trans (State.sameSteps_clearTake _ _)
  rw [execHailTake_whole hb hwhole, execHailTake_stays hstays, hpick]
  exact congrArg Host.Outcome.next (settle_goto hb ((hsteps.stepped s.cur).trans (State.unheld_stepped hb)) (.inl rfl))

/-- R325: a take that finds none. -/
theorem execHailTake_waits
    (hpick : s.takeServed.pickVector (s.partOf s.cur) (s.ctxOf s.cur) (s.takeServed.getW s.cur a.toNat) = none) :
    exec (.hailTake t d a) s = .next (s.stay (s.takeServed.waitTake s.cur d.toNat a.toNat)) := by
  rw [execHailTake_whole hb hwhole, execHailTake_stays hstays, hpick]
  rfl

end

section

variable (hb : s.begins (.hailRet t) = true)
include hb

/-- R326: a `hail.ret` of a thread that serves no vector. -/
theorem execHailRet_idle (hserve : s.unheld.servingOf s.cur = none) : exec (.hailRet t) s = .next (s.after s.unheld) := by
  refine show execHailRet t s = _ from issue_command hb rfl ?_ (.refl _)
  simp only [hserve]

theorem execHailRet_returns {v : Nat} (hserve : s.unheld.servingOf s.cur = some v) : exec (.hailRet t) s =
    .next (s.afterJump ((s.unheld.endService s.cur).serveTakers (s.partOf s.cur) (s.ctxOf s.cur)) (s.unheld.retOf s.cur)) := by
  refine show execHailRet t s = _ from issue_transfer hb rfl ?_ s.sameSteps_takeServed
  simp only [hserve, State.partOf_unheld, State.ctxOf_unheld]

end

/-! ### `hail.mask`, `hail.pend` and `hail.perm` (R327 to R329) -/

theorem execHailMask_replaces (hb : s.begins (.hailMask t d a) = true) :
    let old := s.unheld.vecMask (s.partOf s.cur) (s.ctxOf s.cur) (·.mask)
    exec (.hailMask t d a) s = .next (s.after ((s.unheld.setHmask (s.partOf s.cur) (s.ctxOf s.cur)
      ((old ||| (s.getW s.cur a.toNat).setWidth 32) &&& ~~~(s.getW s.cur (a.toNat + 1)).setWidth 32)).putLater s.cur d.toNat
        (old.setWidth 64))) := by
  intro old
  refine show execHailMask t d a s = _ from issue_putLater hb rfl ?_ (State.sameSteps_setHmask _ _ _ _)
  simp only [State.getW_unheld, State.partOf_unheld, State.ctxOf_unheld, old]

theorem execHailPend_reads (hb : s.begins (.hailPend t d a) = true) : let n := (s.getW s.cur a.toNat).toNat % 256
    exec (.hailPend t d a) s = .next (s.after (s.unheld.putLater s.cur d.toNat
      (if n < 32 then (s.unheld.vec (s.partOf s.cur) (s.ctxOf s.cur) n).status
        else if n = 32 then (s.unheld.ctx (s.partOf s.cur) (s.ctxOf s.cur)).drops.setWidth 64 else BitVec.allOnes 64))) := by
  intro n
  refine show execHailPend t d a s = _ from issue_putLater hb rfl ?_ (.refl _)
  simp only [State.getW_unheld, State.partOf_unheld, State.ctxOf_unheld]
  rfl

section

variable (hb : s.begins (.hailPerm t d a) = true)
include hb

/-- R329: a locked context's permissions are not written. -/
theorem execHailPerm_locked (hcode : (s.getW s.cur a.toNat).toNat / 2 ^ 8 % 4 = 1 ∨ (s.getW s.cur a.toNat).toNat / 2 ^ 8 % 4 = 2)
    (hlock : s.unheld.hailLock (s.partOf s.cur) (s.ctxOf s.cur) = true) :
    exec (.hailPerm t d a) s = .next (s.trapped (.hailPerm t d a) Trap.privilege) := by
  refine show execHailPerm t d a s = _ from issue_traps hb ?_
  simp only [State.getW_unheld, State.partOf_unheld, State.ctxOf_unheld]
  exact if_pos ⟨hcode, hlock⟩

theorem execHailPerm_refused (hopen : (s.getW s.cur a.toNat).toNat / 2 ^ 8 % 4 = 0 ∨ (s.getW s.cur a.toNat).toNat / 2 ^ 8 % 4 = 3 ∨
      s.unheld.hailLock (s.partOf s.cur) (s.ctxOf s.cur) = false)
    (hok : hailPermOk (s.getW s.cur a.toNat) (s.getW s.cur (a.toNat + 1)) = false) :
    exec (.hailPerm t d a) s = .next (s.after (s.unheld.putLater s.cur d.toNat (BitVec.allOnes 64))) := by
  have hnot : ¬ (((s.getW s.cur a.toNat).toNat / 2 ^ 8 % 4 = 1 ∨ (s.getW s.cur a.toNat).toNat / 2 ^ 8 % 4 = 2) ∧
      s.unheld.hailLock (s.partOf s.cur) (s.ctxOf s.cur) = true) := fun ⟨hcode, hlock⟩ => by
    rcases hopen with h | h | h
    · omega
    · omega
    · rw [h] at hlock
      cases hlock
  refine show execHailPerm t d a s = _ from issue_putLater hb rfl ?_ (.refl _)
  simp only [State.getW_unheld, State.partOf_unheld, State.ctxOf_unheld, if_neg hnot, hok, if_true]

variable (hok : hailPermOk (s.getW s.cur a.toNat) (s.getW s.cur (a.toNat + 1)) = true)
include hok

theorem execHailPerm_reads (hcode : (s.getW s.cur a.toNat).toNat / 2 ^ 8 % 4 = 0) : exec (.hailPerm t d a) s =
    .next (s.after (s.unheld.putLater s.cur d.toNat
      ((s.unheld.ctx (s.partOf s.cur) (s.ctxOf s.cur)).perm.get 0 ((s.getW s.cur a.toNat).toNat % 64)))) := by
  refine show execHailPerm t d a s = _ from issue_putLater hb rfl ?_ (.refl _)
  simp [State.getW_unheld, State.partOf_unheld, State.ctxOf_unheld, hok, -Nat.reducePow, hcode]

variable (hlock : s.unheld.hailLock (s.partOf s.cur) (s.ctxOf s.cur) = false)
include hlock

theorem execHailPerm_writes (hcode : (s.getW s.cur a.toNat).toNat / 2 ^ 8 % 4 = 1) : exec (.hailPerm t d a) s =
    .next (s.after ((s.unheld.modCtx (s.partOf s.cur) (s.ctxOf s.cur) fun c =>
      { c with perm := c.perm.put 0 ((s.getW s.cur a.toNat).toNat % 64) (s.getW s.cur (a.toNat + 1)) }).putLater s.cur d.toNat
      ((s.unheld.ctx (s.partOf s.cur) (s.ctxOf s.cur)).perm.get 0 ((s.getW s.cur a.toNat).toNat % 64)))) := by
  refine show execHailPerm t d a s = _ from issue_putLater hb rfl ?_ (.of_groups rfl)
  simp [State.getW_unheld, State.partOf_unheld, State.ctxOf_unheld, hok, hlock, -Nat.reducePow, hcode]

theorem execHailPerm_policy (hcode : (s.getW s.cur a.toNat).toNat / 2 ^ 8 % 4 = 2) :
    let i := (s.getW s.cur a.toNat).toNat % 64
    let h := s.unheld.vec (s.partOf s.cur) (s.ctxOf s.cur) i
    exec (.hailPerm t d a) s = .next (s.after ((s.unheld.modVec (s.partOf s.cur) (s.ctxOf s.cur) i fun h =>
      { h with policy := (s.getW s.cur (a.toNat + 1)).setWidth 2, wake := (s.getW s.cur (a.toNat + 1)).getLsbD 2 }).putLater
        s.cur d.toNat (BitVec.ofNat 64 (h.policy.toNat + h.wake.toNat * 4)))) := by
  intro i h
  refine show execHailPerm t d a s = _ from issue_putLater hb rfl ?_ (State.sameSteps_modVec _ _ _ _ _)
  simp [State.getW_unheld, State.partOf_unheld, State.ctxOf_unheld, hok, hlock, -Nat.reducePow, hcode, h, i]

end

end

end Sys2Proof.Machine

end

section
/-! PROOFS. Hails on their way (R317 to R319, R322, R325, R326). -/

namespace Sys2Proof.Machine

/-- R319: a hail that joins a vector with none pending. -/
theorem HVec.coalesce_first {x : HVec} (m : HailMsg) (h : x.pend = false) :
    x.coalesce m = { x with pend := true, count := 1, payload := m.payload, sender := m.sender, sig := m.sig } := if_pos h

/-- R319: a hail that joins a pending one counts, and its payload and sender go by the vector's policy. -/
theorem HVec.coalesce_pending {x : HVec} (m : HailMsg) (h : x.pend = true) : x.coalesce m = { x with
    count := if x.count = 0xFFFF then x.count else x.count + 1
    sat := if x.count = 0xFFFF then true else x.sat
    sig := x.sig ||| m.sig
    payload := if x.policy = 1 then m.payload else if x.policy = 2 then x.payload + m.payload
      else if x.policy = 3 then x.payload ||| m.payload else x.payload
    sender := if x.policy = 0 then x.sender else m.sender } := by
  have hpolicy : ∀ q : BitVec 2, q = 0 ∨ q = 1 ∨ q = 2 ∨ q = 3 := by decide
  obtain ⟨pend, count, sat, payload, sender, policy, wake, isv, mask, sig⟩ := x
  obtain rfl : pend = true := h
  simp only [HVec.coalesce, Bool.true_eq_false, if_false]
  by_cases hc : count = 0xFFFF
  · rw [if_pos (show count = BitVec.allOnes 16 from hc), if_pos hc, if_pos hc]
    rcases hpolicy policy with rfl | rfl | rfl | rfl <;> rfl
  · rw [if_neg (show ¬count = BitVec.allOnes 16 from hc), if_neg hc, if_neg hc]
    rcases hpolicy policy with rfl | rfl | rfl | rfl <;> rfl

theorem State.ctx_modCtx {s : State} {p c : Nat} (f : Ctx → Ctx) (h : (s.ctxs.find? (ctxKey p c)).isSome = true) :
    (s.modCtx p c f).ctx p c = f (s.ctx p c) := by
  obtain ⟨x, hx⟩ := Option.isSome_iff_exists.1 h
  simp only [State.ctx, State.modCtx, Tbl.find?_modify, if_true, hx, Option.map_some, Option.getD_some]

/-- R338: a context that has a phase is there. -/
theorem State.ctx_isSome {s : State} {p c : Nat} (h : (s.ctx p c).phase ≠ .none) : (s.ctxs.find? (ctxKey p c)).isSome = true := by
  cases hx : s.ctxs.find? (ctxKey p c) with
  | none => exact absurd (by simp only [State.ctx, hx]; rfl) h
  | some x => rfl

/-- R317, R319: a hail that is not permitted, or to no vector, is counted as dropped. -/
theorem State.ctx_acceptHail_dropped {s : State} {m : HailMsg} (hphase : (s.ctx m.part m.ctx).phase ≠ .none)
    (hdrop : 31 < m.vec ∨ s.permitted m.part m.ctx m.sender m.vec = false) : (s.acceptHail m).ctx m.part m.ctx =
      { s.ctx m.part m.ctx with drops := if (s.ctx m.part m.ctx).drops = 0xFFFFFFFF then 0xFFFFFFFF else (s.ctx m.part m.ctx).drops + 1 } := by
  have hfull : (BitVec.allOnes 32 : W32) = 0xFFFFFFFF := rfl
  rw [State.acceptHail, if_neg hphase, if_pos hdrop, State.ctx_modCtx _ (State.ctx_isSome hphase), hfull]
  congr 1
  split <;> simp_all

/-- R325: a delivery to a spine thread: its registers and its vector in service. -/
theorem State.scalar_deliverTo_spine (s : State) (c d v : Nat) (ret : Addr) :
    let x := s.vec (s.partOf (.spine c)) (s.ctxOf (.spine c)) v
    (s.deliverTo (.spine c) d v ret).1.scalar (.spine c) = { s.scalar (.spine c) with
      uni := ((s.uni (.spine c)).putW d (x.word v)).putW (d + 1) x.payload, serving := some v, retpc := ret } := by
  intro x
  simp only [State.deliverTo, (State.memStep_foldHail _ _ _).walk.scalar_eq]
  simp [State.setServing, State.putW, State.setUni, State.setScalar, State.scalar, State.uni, State.modVec, State.modCtx, x]

/-- R325: a delivery's vector is empty and in service. -/
theorem State.vec_deliverTo_spine {s : State} {c : Nat} (d v : Nat) (ret : Addr)
    (hctx : (s.ctxs.find? (ctxKey (s.partOf (.spine c)) (s.ctxOf (.spine c)))).isSome = true) :
    (s.deliverTo (.spine c) d v ret).1.vec (s.partOf (.spine c)) (s.ctxOf (.spine c)) v =
      { s.vec (s.partOf (.spine c)) (s.ctxOf (.spine c)) v with
        pend := false, count := 0, sat := false, payload := 0, sender := 0, sig := 0, isv := true } := by
  have hfold : ∀ (u : State) (cpt : Nat) (g : Sig) (p q : Nat), (u.foldHail cpt g).vec p q v = u.vec p q v := fun u cpt g p q => by
    simp only [State.vec, State.ctx, (u.memStep_foldHail cpt g).ctxs_eq]
  have hset : ∀ (u : State) (r : Nat) (w : W64), (u.putW (.spine c) r w).ctxs = u.ctxs := fun _ _ _ => rfl
  have hserve : ∀ (u : State) (x : Option Nat) (a : Addr) (p q : Nat), (u.setServing (.spine c) x a).vec p q v = u.vec p q v :=
    fun _ _ _ _ _ => rfl
  simp only [State.deliverTo, hfold, hserve, Bool.false_eq_true, if_false]
  rw [State.vec, State.modVec, State.ctx_modCtx _ (by rw [hset, hset]; exact hctx), Tbl.get_put_self]
  rfl

/-- R325: the fields of a delivery's first word do not meet. -/
theorem HVec.toNat_word (x : HVec) {v : Nat} (hv : v < 256) :
    (x.word v).toNat = v + x.sat.toNat * 2 ^ 8 + x.count.toNat * 2 ^ 16 + x.sender.toNat * 2 ^ 32 := by
  have hsat : x.sat.toNat ≤ 1 := Bool.toNat_le _
  have hcount : x.count.toNat < 2 ^ 16 := x.count.isLt
  have hsender : x.sender.toNat < 2 ^ 32 := x.sender.isLt
  rw [HVec.word, BitVec.toNat_ofNat]
  exact Nat.mod_eq_of_lt (by omega)

theorem execHailAccept_accepts {s : State} {part ctx : Nat} {m : HailMsg} (hrun : (s.part (realPart part)).halted = false)
    (hm : s.hails.find? (fun m => m.part == part && m.ctx == ctx) = some m) : exec (.hailAccept part ctx) s = .next
      (((({ s with hails := s.hails.erase m } : State).acceptHail m).writeHails part ctx).serveTakers part ctx) := by
  show execHailAccept part ctx s = _
  simp only [execHailAccept, hrun, Bool.false_eq_true, if_false, hm]
  rfl

section

variable {s : State} {func p : Nat} {msg : BitVec 128} (hp : s.homeOfFunc func = some p)
include hp

/-- R322: a message of sixteen bytes whose reserved bits are zero becomes a hail of its function. -/
theorem execHostHailMessage_sends (hvec : msg.toNat / 2 ^ 69 % 8 = 0) (hctx : msg.toNat / 2 ^ 80 = 0) :
    exec (.hostHailMessage func 16 msg) s = .next { s with hails := s.hails ++
      [⟨p, msg.toNat / 2 ^ 72 % 256, msg.toNat / 2 ^ 64 % 32, msg.setWidth 64, BitVec.ofNat 32 (2 ^ 30 + func), Sig.ones⟩] } := by
  show execHostHailMessage func 16 msg s = _
  simp only [execHostHailMessage, hp, hvec, hctx, ne_eq, not_true_eq_false, or_self, if_false]
  rfl

theorem execHostHailMessage_size {size : Nat} (hsize : size ≠ 16) :
    exec (.hostHailMessage func size msg) s = .next (s.countLerr (realPart p)) := by
  show execHostHailMessage func size msg s = _
  simp only [execHostHailMessage, hp, hsize, ne_eq, not_false_eq_true, true_or, if_true]
  rfl

end

end Sys2Proof.Machine

open Sys2Proof Sys2Proof.Machine in
/-- Settles O41: the words case by case, then a vector that takes a hail, a drop, a delivery and a host's message. -/
theorem hails : Obligations.Hails := by
  refine ⟨fun s t d a => ?_, fun s part ctx m => execHailAccept_accepts, fun x m => ⟨fun h => ?_, fun h => ?_⟩,
    fun s m hphase hdrop => ?_, fun s c d v ret hd _ hctx => ?_, fun s func p msg hp =>
      ⟨execHostHailMessage_sends hp, fun size => execHostHailMessage_size hp⟩⟩
  · intro u part own x y ctx port later put
    have hput : ∀ v r, put v r = .next (s.after (v.putLater s.cur d.toNat r)) := fun v r => by
      refine congrArg Host.Outcome.next ?_
      dsimp only [later]
      split
      case h_1 g k hc =>
        rw [hc, State.putLater]
        by_cases hzero : d.toNat = 0
        · rw [if_pos hzero, hzero, if_neg (by simp), State.after_putW_zero hc]
        · rw [if_neg hzero, if_pos (by simp [isGang, hzero])]
          rfl
      case h_2 hne =>
        rw [State.putLater, isGang_of_ne fun g k => hne g k]
        rfl
    simp only [hput]
    refine ⟨fun hb => ?_, execHailMask_replaces, fun g k hb hc => execHailTake_parted hb hc, fun hb hwhole =>
      ⟨execHailTake_served hb hwhole, fun hstays => ⟨fun v => execHailTake_delivers hb hwhole hstays, execHailTake_waits hb hwhole hstays⟩⟩,
      fun hb => ⟨execHailRet_idle hb, fun v => execHailRet_returns hb⟩, execHailPend_reads, fun hb => ?_⟩
    · refine ⟨execHailSend_refused hb, execHailSend_down hb, execHailSend_nobody hb, fun hok hnear hphase hpend hcrowd hhost =>
        ⟨fun s1 tr => execHailSend_lostNear hb hok hnear hphase hpend hcrowd hhost, fun hlost hwait => ?_⟩,
        fun hok hfar hup hpend hcrowd hhost =>
          ⟨fun s1 tr => execHailSend_lostFar hb hok hfar hup hpend hcrowd hhost, fun hlost hwait => ?_⟩⟩
      · have hsend := execHailSend_near hb hok hnear hphase hpend hcrowd hhost hlost hwait
        simp only [State.sendsNear, State.nearHail, State.getW_unheld, State.partOf_unheld, State.cptOf_unheld, State.part_unheld,
          State.senderId_unheld] at hsend
        exact hsend
      · have hsend := execHailSend_far hb hok hfar hup hpend hcrowd hhost hlost hwait
        simp only [State.sendsFar, State.farHail, State.getW_unheld, State.cptOf_unheld, State.senderId_unheld] at hsend
        exact hsend
    · exact ⟨execHailPerm_locked hb, fun hcode hok => execHailPerm_reads hb hok hcode,
        fun hcode hlock hok => execHailPerm_writes hb hok hlock hcode, fun hcode hlock hok => execHailPerm_policy hb hok hlock hcode,
        execHailPerm_refused hb⟩
  · intro y
    rw [show y = _ from HVec.coalesce_first m h]
    exact ⟨rfl, rfl, rfl, rfl⟩
  · intro y
    rw [show y = _ from HVec.coalesce_pending m h]
    exact ⟨h, rfl, fun hc => ⟨if_neg hc, if_neg hc⟩, fun hc => ⟨if_pos hc, if_pos hc⟩, rfl, rfl⟩
  · intro t
    rw [show t.ctx m.part m.ctx = _ from State.ctx_acceptHail_dropped hphase hdrop]
    exact ⟨rfl, rfl⟩
  · intro x t y
    have hth : t.scalar (.spine c) = _ := s.scalar_deliverTo_spine c d v ret
    have huni : t.uni (.spine c) = ((s.uni (.spine c)).putW d (x.word v)).putW (d + 1) x.payload := congrArg Scalar.uni hth
    rw [show y = _ from State.vec_deliverTo_spine d v ret hctx]
    simp only [State.getW, huni, Uni.getW_putW _ _ _ _ (Nat.succ_ne_zero d), Uni.getW_putW _ _ _ _ hd.ne', if_true,
      if_neg (Nat.ne_of_lt (Nat.lt_succ_self d))]
    exact ⟨trivial, x.toNat_word, trivial, trivial, trivial, rfl, rfl, congrArg Scalar.serving hth⟩

end

section
/-! PROOFS. A landing whose done counter has a physical address beyond PA[51:0] (R173, R272): a sector that a cluster holds is written back
by the counting, though coherence point 1023, for which the slices count, holds none. -/

namespace Sys2Proof.Machine

/-! ### A state of sectors and bytes alone -/

/-- No partition, no key and no grid is there: only sectors of the L1s and bytes of memory. -/
def bareState (l : Tbl Sector) (m : List Host.Cell) : State := { l1 := l, mem := m }

section

variable (l : Tbl Sector) (m : List Host.Cell)

theorem bareState_rekey (pa : Nat) : (bareState l m).rekey pa = bareState l m := by
  have hforeign : (bareState l m).foreign pa = none := rfl
  have hkey : (bareState l m).keyOf pa = 0 := by
    simp only [State.keyOf, show (bareState l m).ownerOf pa = none from rfl, Option.map_none, Option.getD_none, ite_self]
  simp only [State.rekey, hforeign, hkey, Tbl.put, if_true]
  rfl

theorem bareState_homeOwner (part pa : Nat) : (bareState l m).homeOwner part pa = none := by
  unfold State.homeOwner
  split <;> rfl

theorem bareState_sliceTouch (part pa tag : Nat) (write : Bool) : (bareState l m).sliceTouch part pa write tag = bareState l m := by
  rw [State.sliceTouch, bareState_homeOwner]

theorem bareState_owns (part pa : Nat) : (bareState l m).owns part pa = true := by
  unfold State.owns
  split <;> rfl

theorem bareState_requestAt (cpt line : Nat) : (bareState l m).requestAt cpt line 0 = bareState l m := by
  rw [State.requestAt, State.homeDie, bareState_homeOwner, Option.map_none]

theorem bareState_signWrite {cpt : Nat} (h : 512 ≤ cpt) (line : Nat) : (bareState l m).signWrite cpt line = bareState l m :=
  if_neg (Nat.not_lt.2 h)

theorem bareState_wroteLine {cpt : Nat} (h : 512 ≤ cpt) (base : Nat) (w : WcLine) : (bareState l m).wroteLine cpt base w = bareState l m := by
  rw [State.wroteLine, State.postAt, State.homeDie, bareState_homeOwner, Option.map_none, bareState_signWrite l m h]

theorem wipeBad_nil (base : Nat) (mask : BitVec 64) : wipeBad [] base mask = [] := by
  simp only [wipeBad, Tbl.get, Tbl.find?, Option.getD_none, BitVec.ofNat_eq_ofNat, BitVec.zero_and]
  rfl

/-- A write changes its bytes of memory and nothing else. -/
theorem bareState_homeWrite (pa n v part tag : Nat) : (bareState l m).homeWrite pa n v part tag = bareState l (memWrite m pa n v) := by
  have hkept : ∀ {α β : Type} (f : β → α → β) (b : β) (k : List α), (∀ x, f b x = b) → k.foldl f b = b := fun f b k hf => by
    induction k with
    | nil => rfl
    | cons x k ih => rw [List.foldl_cons, hf, ih]
  have hstore : (bareState l m).memStore pa n v = bareState l (memWrite m pa n v) := by
    unfold State.memStore
    rw [hkept _ _ _ (bareState_rekey l m)]
    dsimp only
    rw [show (bareState l m).memPoison = [] from rfl, hkept _ _ _ fun x => wipeBad_nil _ _]
    rfl
  rw [State.homeWrite, hstore, hkept _ _ _ fun b => bareState_sliceTouch l _ part b tag true]
  rfl

theorem bareState_homeMask (base part tag : Nat) (mask : BitVec 64) (data : BitVec 512) :
    (bareState l m).homeMask base mask data part tag = bareState l ((List.range 64).foldl
      (fun m i => if mask.getLsbD i then memWrite m (base + i) 1 (data.toNat / 2 ^ (8 * i) % 256) else m) m) := by
  unfold State.homeMask
  rw [bareState_rekey]
  dsimp only
  rw [show (bareState l m).memPoison = [] from rfl, wipeBad_nil]
  exact congrArg (State.noteWrite · base 64) (bareState_sliceTouch _ _ _ _ _ _)

end

theorem memWrite_nil_zero (a n : Nat) : memWrite [] a n 0 = [] := by
  induction n generalizing a with
  | zero => rfl
  | succ n ih => exact ih (a + 1)

/-! ### The counterexample -/

/-- A sector with one byte written. -/
def dirtySector : Sector :=
  { ty := .shared, data := 1, valid := BitVec.allOnes 64, dirty := 1, stamp := 0, since := 0, va := 0 }

/-- A cluster's L1 holds one sector, of the address 2^52. -/
def highSector : Tbl Sector := [(2 ^ 46 * 1024, dirtySector)]

/-- A complete entry of zeros for the virtual address 0, whose done counter is pinned at the physical address 2^52. -/
def highLanding : Landing :=
  { tag := 0, op := 0, cvt := true, cls := 0, parties := 1, dest := 0, done := 4096, frames := [(1, 2 ^ 43)], el := [], poison := false
    arr := 1, sig := 0, place := 0, ran := 0, since := none }

theorem highSector_writeBack : (bareState highSector []).evictSector 1023 (2 ^ 52) = bareState [] [(2 ^ 52, 1)] := by
  have hfind : (bareState highSector []).l1.find? (l1Key 1023 (2 ^ 52)) = some dirtySector := rfl
  have hdata : dirtySector.data.toNat = 1 := BitVec.toNat_one (by decide)
  have hbytes : (List.range 64).foldl (fun m i =>
      if dirtySector.dirty.getLsbD i then memWrite m (2 ^ 52 + i) 1 (1 / 2 ^ (8 * i) % 256) else m) [] = [(2 ^ 52, 1)] := by decide
  have hwrite := bareState_homeMask ((bareState highSector []).l1.insert (l1Key 1023 (2 ^ 52)) { dirtySector with dirty := 0 }) []
    (2 ^ 52) ((bareState highSector []).partOfCpt 1023) dirtySector.tag dirtySector.dirty dirtySector.data
  rw [hdata, hbytes] at hwrite
  simp only [State.evictSector, State.writeBack, hfind, if_neg (show ¬dirtySector.dirty = 0 by decide),
    show 2 ^ 52 / 64 * 64 = 2 ^ 52 from rfl, bareState_owns, if_true]
  refine (congrArg (fun u => (State.wroteLine u 1023 _ _).dropSector 1023 (2 ^ 52)) hwrite).trans ?_
  rw [bareState_wroteLine _ _ (by decide)]
  rfl

/-- R190: the counting writes back the sector first, and then counts from its byte. -/
theorem highSector_homeAtomic (tag : Nat) :
    ((bareState highSector []).homeAtomic 1023 (2 ^ 52) 8 0 1 0 tag).1 = bareState [] (memWrite [(2 ^ 52, 1)] (2 ^ 52) 8 2) := by
  have hclean : (bareState [] [(2 ^ 52, 1)]).evictSector 1023 (2 ^ 52 + 64) = bareState [] [(2 ^ 52, 1)] := rfl
  have hold : (bareState [] [(2 ^ 52, 1)]).homeValue (2 ^ 52) 8 = 1 := by decide
  have hnew : atomicNew 0 (8 * 8) 1 1 0 = some 2 := by decide
  simp only [State.homeAtomic, show 2 ^ 52 / 128 * 128 = 2 ^ 52 from rfl, highSector_writeBack, hclean, hold, hnew, bareState_homeWrite]
  exact bareState_signWrite _ _ (by decide) _

/-- R272: the forward writes zeros, and its count gives 2. -/
theorem homeValue_forward_highLanding : ((bareState highSector []).forward 0 0 highLanding true).homeValue (2 ^ 52) 8 = 2 := by
  have hvalue : (bf16.convert .rne false false (fp32.unpack (0 : W32).toNat)).1 = 0 := by decide
  have hland : ∀ tag pa, (bareState highSector []).landWrite 0 tag pa 2 0 false = bareState highSector [] := fun tag pa => by
    rw [State.landWrite, bareState_owns, if_pos rfl, bareState_homeWrite, memWrite_nil_zero]
    rfl
  have hwrites : ∀ (tag : Nat) (at_ : Nat → Nat) (l : List Nat), l.foldl (fun t j => t.landWrite 0 tag (at_ j) 2
      (bf16.convert .rne false false (fp32.unpack (Tbl.get (0 : W32) highLanding.el j).toNat)).1 false) (bareState highSector []) =
        bareState highSector [] :=
    fun tag at_ l => by
      induction l with
      | nil => rfl
      | cons x l ih => rw [List.foldl_cons, show Tbl.get (0 : W32) highLanding.el x = 0 from rfl, hvalue, hland, ih]
  unfold State.forward
  dsimp only
  rw [show highLanding.cvt = true from rfl, show highLanding.poison = false from rfl]
  simp only [if_true]
  rw [hwrites, show (framePhys highLanding.frames highLanding.done.toNat).pa = 2 ^ 52 from rfl, bareState_owns, if_pos rfl,
    highSector_homeAtomic, bareState_requestAt]
  exact memRead_memWrite _ _ _ _

end Sys2Proof.Machine

open Sys2Proof Sys2Proof.Machine in
/-- Refutes O50: the last clause says by the upper part of a key that coherence point 1023 holds no sector. A counter at the physical
address 2^52 has the key of the next point's first sector: its dirty byte is written back before the counting, which gives 2 and not
0 + 1. -/
theorem not_landingsCombineAndForward : ¬ Obligations.LandingsCombineAndForward := by
  unfold Obligations.LandingsCombineAndForward
  rintro ⟨-, -, -, hforward⟩
  have hdest : ∀ o, o < 2048 * 2 → (framePhys highLanding.frames (highLanding.dest.toNat + o)).pa = 0 + o ∧
      (bareState highSector []).owns 0 (0 + o) = true := fun o ho => by
    have hpage : (highLanding.dest.toNat + o) / 4096 = 0 := by
      show (0 + o) / 4096 = 0
      omega
    refine ⟨?_, bareState_owns _ _ _ _⟩
    show Tbl.get 0 highLanding.frames ((highLanding.dest.toNat + o) / 4096) / 8 * 4096 + (0 + o) % 4096 = 0 + o
    rw [hpage, show Tbl.get 0 highLanding.frames 0 = 0 from rfl]
    omega
  have hcount := (hforward (bareState highSector []) 0 0 0 (2 ^ 52) highLanding true (by decide) (by decide) (by decide) hdest rfl
    (bareState_owns _ _ _ _) (.inr (by decide))).1
  rw [homeValue_forward_highLanding] at hcount
  exact absurd hcount (by decide)

end

section
/-! PROOFS. How a group's end touches the step flags of others (R111, R112, R308). -/

namespace Sys2Proof.Machine

/-- No group that has no step flag in one state has one in the other. -/
def State.NoNewSteps (s t : State) : Prop := ∀ g, (s.group g).step = false → (t.group g).step = false

namespace State.NoNewSteps

theorem refl (s : State) : s.NoNewSteps s := fun _ h => h

theorem trans {s t u : State} (h : s.NoNewSteps t) (k : t.NoNewSteps u) : s.NoNewSteps u := fun g hg => k g (h g hg)

theorem of_sameSteps {s t : State} (h : s.SameSteps t) : s.NoNewSteps t := fun g hg => (h g).trans hg

theorem stepped {s t : State} (h : s.NoNewSteps t) {th : ThreadId} (hs : s.stepped th = false) : t.stepped th = false := by
  cases th with
  | gang g k =>
    rw [State.stepped_gang] at hs ⊢
    exact h g hs
  | _ => rfl

end State.NoNewSteps

section

variable (s : State)

theorem State.sameSteps_takeTrap (t : ThreadId) (tr : Trap) (pc resume : Addr) (word : W32) (recid : Nat) :
    s.SameSteps (s.takeTrap t tr pc resume word recid) := by
  cases t with
  | gang g k =>
    unfold State.takeTrap
    dsimp only
    have hhalted : ∀ bits (m : Mode), s.SameSteps
        (let u := s.writeRecord (.gang g k) bits; u.setGroup g { u.group g with mode := m }) := fun bits m =>
      (State.SameSteps.of_walkStep (s.walkStep_writeRecord _ _)).trans (State.sameSteps_setGroup _ rfl)
    split
    · refine .trans ?_ (State.sameSteps_finishHalt _ _)
      refine .trans ?_ (State.sameSteps_notify _ _ _ _ _)
      exact (hhalted _ _).trans (.of_memStep (State.memStep_releasePart _ _))
    · refine .trans ?_ (State.sameSteps_finishHalt _ _)
      refine .trans ?_ (State.sameSteps_broadcast _ _ _)
      exact (hhalted _ _).trans (State.sameSteps_setTeam _ _ _)
  | spine c =>
    refine .trans ?_ (State.sameSteps_notify _ _ _ _ _)
    refine .trans ?_ (.of_memStep (State.memStep_releasePart _ _))
    exact .trans (.of_walkStep (s.walkStep_writeRecord _ _)) (State.sameSteps_setScalar _ _ _)
  | service p => exact (s.sameSteps_setScalar _ _).trans (.of_groups rfl)
  | monitor => exact (s.sameSteps_setScalar _ _).trans (.of_groups rfl)

theorem State.sameSteps_writeHails (part ctx : Nat) : s.SameSteps (s.writeHails part ctx) := by
  unfold State.writeHails
  split
  · exact .foldl (fun t e => .of_walkStep (t.walkStep_deviceWrite _ _ _ _ _ _)) _ _
  · exact .refl s

theorem State.groups_renameThread (part ctx : Nat) (old new : ThreadId) : (s.renameThread part ctx old new).groups = s.groups := rfl

theorem State.sameSteps_dropSpines (part ctx k : Nat) (clusters : List Nat) : s.SameSteps (s.dropSpines part ctx k clusters) := by
  refine .foldl (fun t c => ?_) _ _
  split
  · exact .of_groups (State.groups_renameThread _ _ _ _ _)
  · exact .refl t

theorem State.sameSteps_abortRecord (part ctx : Nat) (recid : W32) : s.SameSteps (s.abortRecord part ctx recid) := by
  unfold State.abortRecord
  split
  · exact .refl s
  · have hdrop : s.SameSteps (s.dropRecord part ctx recid) := .of_groups rfl
    dsimp only
    split
    · exact hdrop
    · exact hdrop.trans (State.sameSteps_takeTrap _ _ _ _ _ _ _)

theorem State.sameSteps_endGrid (k : Nat) : s.SameSteps (s.endGrid k) := by
  have hrelease : s.SameSteps (s.releasePart (realPart (s.grid k).part)).1 := .of_memStep (s.memStep_releasePart _)
  unfold State.endGrid
  extract_lets g
  split
  rename_i s1 sig heq
  rw [heq] at hrelease
  extract_lets s2 s3 s4
  have h2 : s1.SameSteps s2 := by
    dsimp only [s2]
    split
    · exact .of_memStep (s1.memStep_countJoin _ _ _ _ _)
    · exact .refl s1
  have h3 : s2.SameSteps s3 := by
    refine .trans ?_ (State.sameSteps_dropSpines _ _ _ _ _)
    exact .trans (.of_groups rfl) (State.sameSteps_writeHails _ _ _)
  have h4 : s.SameSteps s4 := ((hrelease.trans h2).trans h3).trans (.of_groups rfl)
  split
  · exact h4.trans (s4.sameSteps_abortRecord _ _ _)
  · exact h4

theorem State.sameSteps_tryEndGrid (k : Nat) : s.SameSteps (s.tryEndGrid k) := by
  unfold State.tryEndGrid
  split
  · exact .refl s
  · split
    · exact s.sameSteps_endGrid k
    · exact .refl s

theorem State.sameSteps_tryRetireTeam (team : Nat) : s.SameSteps (s.tryRetireTeam team) := by
  unfold State.tryRetireTeam
  split
  · exact .refl s
  · split
    · exact .trans (.of_groups rfl) (State.sameSteps_tryEndGrid _ _)
    · exact .refl s

theorem State.sameSteps_settleExchange (team : Nat) : s.SameSteps (s.settleExchange team) := by
  unfold State.settleExchange
  split
  · unfold State.swapBanks
    extract_lets x below phase low last low' stat s1
    have h1 : s.SameSteps s1 := s.sameSteps_setTeam _ _
    split
    · refine h1.trans ?_
      unfold State.raiseOverrun
      split
      · exact .refl s1
      · exact s1.sameSteps_takeTrap _ _ _ _ _ _
    · exact h1
  · exact .refl s

/-- R111: a group that leaves takes its step flag with it, and no other changes. -/
theorem State.noNewSteps_removeGroup (g : Nat) : s.NoNewSteps (s.removeGroup g) := by
  have herase : ∀ t : State, t.groups = s.groups.erase g → s.NoNewSteps t := fun t ht h hs => by
    simp only [State.group, ht, Tbl.find?_erase]
    split
    · rfl
    · exact hs
  unfold State.removeGroup
  extract_lets x t bars gr s1 lost s2 s3
  have h2 : s.NoNewSteps s2 := herase s2 rfl
  refine h2.trans (.of_sameSteps ?_)
  refine .trans ?_ (State.sameSteps_settleExchange _ _)
  exact (s2.sameSteps_setTeam _ _).trans (.foldl (fun a n => a.sameSteps_settleBarrier _ _) _ _)

theorem State.noNewSteps_tryRetireGroup (g : Nat) : s.NoNewSteps (s.tryRetireGroup g) := by
  unfold State.tryRetireGroup
  split
  · exact .refl s
  · split
    · exact (s.noNewSteps_removeGroup g).trans (.of_sameSteps (State.sameSteps_tryRetireTeam _ _))
    · exact .refl s

/-- R111: a group with a live lane does not retire. -/
theorem State.tryRetireGroup_live {g : Nat} (h : ∃ sl ∈ (s.group g).slices, sl.live ≠ 0) : s.tryRetireGroup g = s := by
  obtain ⟨sl, hsl, hlive⟩ := h
  cases hx : s.groups.find? g with
  | none => simp only [State.tryRetireGroup, hx]
  | some x =>
    rw [State.group, hx] at hsl
    rw [State.tryRetireGroup_eq hx, if_neg fun hend => hlive (hend.1 sl hsl)]

end

end Sys2Proof.Machine

end

section
/-! PROOFS. Batches and their status words, and issued commands (R212, R239 to R242). -/

namespace Sys2Proof.Machine

/-! ### Batches (R241) -/

section

variable (s : State) (g : Nat)

theorem State.group_forgetOperands : ∃ vals, (s.forgetOperands g).group g = { s.group g with opVals := vals } := by
  unfold State.forgetOperands
  split
  · exact ⟨(s.group g).opVals, rfl⟩
  · exact ⟨_, State.group_setGroup _ _ _⟩

theorem State.sameSteps_forgetOperands : s.SameSteps (s.forgetOperands g) := by
  unfold State.forgetOperands
  split
  · exact .refl s
  · exact s.sameSteps_setGroup rfl

theorem State.noNewSteps_settleBatch (n : BitVec 16) : s.NoNewSteps (s.settleBatch g n) := by
  unfold State.settleBatch
  extract_lets x
  split
  · exact .refl s
  · rename_i b _
    extract_lets cs y s1
    split
    · have h1 : s.SameSteps s1 :=
        .trans (s.sameSteps_setGroup (g := g) (x := { x with closed := x.closed.erase b }) rfl) (.of_groups rfl)
      refine .trans (.of_sameSteps ?_) (State.noNewSteps_tryRetireGroup _ _)
      refine h1.trans (.trans ?_ (State.sameSteps_forgetOperands _ _))
      split
      · exact .refl s1
      · exact (s1.sameSteps_putW _ _ _).trans (State.sameSteps_setGroup _ rfl)
    · exact .refl s

/-- R241: a batch that has completed leaves the open ones, and fills its register with its status. -/
def State.fillsStatus (b : Batch) : State :=
  let x := s.group g
  let s1 := { s.setGroup g { x with closed := x.closed.erase b } with cmds := s.cmds.filter fun e => !b.cmds.contains e.1 }
  ((s1.putW (.gang g x.lowGang) b.dst (batchStatus b.num (b.cmds.filterMap s.cmds.find?))).holdStatus g b.dst b.num).forgetOperands g

theorem State.group_fillsStatus (b : Batch) : ∃ vals, (s.fillsStatus g b).group g = { s.group g with
    closed := (s.group g).closed.erase b
    uni := (s.group g).uni.putW b.dst (batchStatus b.num (b.cmds.filterMap s.cmds.find?))
    statusOf := (s.group g).statusOf.insert b.dst b.num.toNat, opVals := vals } := by
  unfold State.fillsStatus
  extract_lets x y s1
  have h1 : s1.group g = { x with closed := x.closed.erase b } := s.group_setGroup g _
  obtain ⟨vals, hgroup⟩ := ((s1.putW (.gang g x.lowGang) b.dst (batchStatus b.num (b.cmds.filterMap s.cmds.find?))).holdStatus
    g b.dst b.num).group_forgetOperands g
  refine ⟨vals, hgroup.trans ?_⟩
  simp only [State.holdStatus, State.putW, State.setUni, State.uni, State.group_setGroup, h1]
  rfl

variable {s g} {b : Batch} (hb : (s.group g).closed.find? (fun c => c.num == b.num) = some b)
include hb

theorem State.settleBatch_open (h : ∃ c ∈ b.cmds.filterMap s.cmds.find?, c.done = false) : s.settleBatch g b.num = s := by
  obtain ⟨c, hc, hdone⟩ := h
  have hall : (b.cmds.filterMap s.cmds.find?).all (·.done) = false := by
    rw [List.all_eq_false]
    exact ⟨c, hc, by rw [hdone]; exact Bool.false_ne_true⟩
  simp only [State.settleBatch, hb, hall, Bool.false_eq_true, if_false]

/-- R241: a batch that has completed fills its register, unless its group ends with it. -/
theorem State.settleBatch_done (h : ∀ c ∈ b.cmds.filterMap s.cmds.find?, c.done = true) (hdst : b.dst ≠ 0) :
    s.settleBatch g b.num = (s.fillsStatus g b).tryRetireGroup g := by
  have hall : (b.cmds.filterMap s.cmds.find?).all (·.done) = true := List.all_eq_true.2 h
  simp only [State.settleBatch, hb, hall, if_true, if_neg hdst]
  rfl

end

section

variable {s : State} {t : Bool} {d : BitVec 6} {g k : Nat} (hc : s.cur = .gang g k) (hb : s.begins (.bclose t d) = true)
include hc hb

/-- R241: what a `bclose` leaves before it looks at the batch's commands. -/
theorem execBclose_closes (hroom : (s.unheld.group g).closed.length < 16) :
    let x := s.unheld.group g
    let v := (s.unheld.setGroup g { x with
      batchNo := x.batchNo + 1, openBatch := [], closed := x.closed ++ [⟨x.batchNo, x.openBatch, d.toNat⟩] }).emptyW s.cur d.toNat
    exec (.bclose t d) s = .next (s.after (if x.openBatch.isEmpty then v.settleBatch g x.batchNo else v)) := by
  intro x v
  have hv : s.unheld.NoNewSteps v := by
    refine .of_sameSteps (.trans ?_ (State.sameSteps_emptyW _ _ _))
    exact s.unheld.sameSteps_setGroup rfl
  have hsteps : s.unheld.NoNewSteps (if x.openBatch.isEmpty then v.settleBatch g x.batchNo else v) := by
    split
    · exact hv.trans (v.noNewSteps_settleBatch _ _)
    · exact hv
  show execBclose t d s = _
  unfold execBclose
  rw [issue_begins hb, ← settle_done hb (hsteps.stepped (State.unheld_stepped hb)) (.inl rfl)]
  simp only [hc, if_neg (Nat.not_le.2 hroom), v, x]

/-- R241: 16 batches are open. -/
theorem execBclose_full (hfull : 16 ≤ (s.unheld.group g).closed.length) : exec (.bclose t d) s = .next (s.stay s.unheld) := by
  refine show execBclose t d s = _ from issue_waits hb ?_
  simp only [hc, if_pos hfull]

end

/-! ### The status word (R242) -/

theorem satSum_eq (l : List Nat) : satSum l = min l.sum (2 ^ 32 - 1) := by rw [satSum, ← List.sum_eq_foldl]

/-- R242: the fields of a status word do not meet. -/
theorem toNat_batchStatus (n : BitVec 16) {cs : List Cmd} (h : cs.length ≤ 64) : (batchStatus n cs).toNat =
    n.toNat + cs.length * 2 ^ 16 + (cs.any (·.rowfault)).toNat * 2 ^ 24 + (cs.any (·.poison)).toNat * 2 ^ 25
    + (cs.any (·.badkey)).toNat * 2 ^ 26 + (cs.any (·.overflow)).toNat * 2 ^ 27 + min (cs.map (·.skipped)).sum (2 ^ 32 - 1) * 2 ^ 32 := by
  have hn : n.toNat < 2 ^ 16 := n.isLt
  have hbit : ∀ b : Bool, b.toNat ≤ 1 := Bool.toNat_le
  have h1 := hbit (cs.any (·.rowfault))
  have h2 := hbit (cs.any (·.poison))
  have h3 := hbit (cs.any (·.badkey))
  have h4 := hbit (cs.any (·.overflow))
  have h5 : min (cs.map (·.skipped)).sum (2 ^ 32 - 1) ≤ 2 ^ 32 - 1 := Nat.min_le_right _ _
  rw [batchStatus, satSum_eq, BitVec.toNat_ofNat]
  exact Nat.mod_eq_of_lt (by omega)

theorem batchStatus_fields (n : BitVec 16) (cs : List Cmd) (h : cs.length ≤ 64) :
    let w := batchStatus n cs
    w.setWidth 16 = n ∧ (w.extractLsb' 16 7).toNat = cs.length ∧ w.getLsbD 23 = false ∧
    w.getLsbD 24 = cs.any (·.rowfault) ∧ w.getLsbD 25 = cs.any (·.poison) ∧ w.getLsbD 26 = cs.any (·.badkey) ∧
    w.getLsbD 27 = cs.any (·.overflow) ∧ w.extractLsb' 28 4 = 0 ∧
    (w.extractLsb' 32 32).toNat = min (cs.map (·.skipped)).sum (2 ^ 32 - 1) := by
  intro w
  have hw : w.toNat = _ := toNat_batchStatus n h
  have hn : n.toNat < 2 ^ 16 := n.isLt
  have hsum : min (cs.map (·.skipped)).sum (2 ^ 32 - 1) ≤ 2 ^ 32 - 1 := Nat.min_le_right _ _
  have hbit : ∀ b : Bool, b.toNat ≤ 1 := Bool.toNat_le
  have h1 := hbit (cs.any (·.rowfault))
  have h2 := hbit (cs.any (·.poison))
  have h3 := hbit (cs.any (·.badkey))
  have h4 := hbit (cs.any (·.overflow))
  have hget : ∀ (i : Nat) (b : Bool), w.toNat / 2 ^ i % 2 = b.toNat → w.getLsbD i = b := fun i b hb => by
    rw [BitVec.getLsbD, Nat.testBit_eq_decide_div_mod_eq, hb]
    cases b <;> rfl
  have hfield : ∀ i k, (w.extractLsb' i k).toNat = w.toNat / 2 ^ i % 2 ^ k := fun i k => by
    rw [BitVec.extractLsb'_toNat, Nat.shiftRight_eq_div_pow]
  refine ⟨BitVec.eq_of_toNat_eq ?_, ?_, hget _ _ ?_, hget _ _ ?_, hget _ _ ?_, hget _ _ ?_, hget _ _ ?_, BitVec.eq_of_toNat_eq ?_, ?_⟩
  · rw [BitVec.toNat_setWidth, hw]
    omega
  · rw [hfield, hw]
    omega
  · rw [hw, Bool.toNat_false]
    omega
  · rw [hw]
    omega
  · rw [hw]
    omega
  · rw [hw]
    omega
  · rw [hw]
    omega
  · rw [hfield, hw]
    show _ = 0
    omega
  · rw [hfield, hw]
    omega

/-! ### A word that reads a status (R212) -/

section

variable {s : State} {i : Instr} {g k : Nat}

/-- What a word of a group comes to that completes while no halt has reached it and no `mwld` reads registers: the batches whose statuses
it read precede the group. -/
theorem issue_readStatus {s1 : State} {body : ThreadId → State → Did} (hc : s.cur = .gang g k) (hgate : gate i s = .run)
    (hhalt : s.haltReached s.cur = false) (hops : s.operandRegs g = []) (hops1 : s1.operandRegs g = [])
    (hbody : body s.cur s.unheld = .done s1) (hstep : ((s.after s1).readStatus s s.cur i).stepped s.cur = false) :
    issue i s body = .next ((s.after s1).readStatus s s.cur i) := by
  have hbegun : s.begun i = s.unheld := by
    refine State.touch_free _ _ _ _ fun h j hh => ?_
    rw [State.operandRegs_of_cmds h (s.clearHold_cmds _)]
    cases hc.symm.trans hh
    exact hops
  have hfree : ∀ h j, s.cur = .gang h j → (s.after s1).operandRegs h = [] := fun h j hh => by
    cases hc.symm.trans hh
    rw [State.operandRegs_of_cmds (s := s1) (t := s.after s1) g ((State.setWaiting_cmds _ _ _).trans (State.setPc_cmds _ _ _))]
    exact hops1
  have hfinish : (s1.setPc s.cur (s.pcOf s.cur + 4)).finishWord s s.cur i s.wordPc = (s.after s1).readStatus s s.cur i := by
    unfold State.finishWord
    rw [← State.after, State.noteOperand_free _ _ _ _ _ hfree, State.touch_free _ _ _ _ hfree]
    dsimp only
    rw [hstep, Bool.false_and, if_neg Bool.false_ne_true, hhalt, if_neg Bool.false_ne_true]
  simp only [issue, hgate, hbegun, hbody, settle, hfinish]

theorem State.readStatus_one {n : Nat} (h : (shape i).wsrc.filterMap (s.group g).statusOf.find? = [n]) :
    let x := s.group g
    s.readStatus s (.gang g k) i =
      (s.setTeam x.team ((s.team x.team).mapNoted fun m => mapNotes m fun y =>
        if y.via = some (x.num, n) then { y with seen := setBit y.seen x.num true } else y)).setGroup g
        { x with statusOf := x.statusOf.filter fun e => !((shape i).wdst.contains e.1 && x.statusOf.find? e.1 == some e.2) } := by
  intro x
  have hregs : s.statusRegs (.gang g k) i ≠ [] := by
    obtain ⟨r, hr, hfind⟩ := List.mem_filterMap.1 (h ▸ List.mem_singleton_self n)
    exact List.ne_nil_of_mem (List.mem_filter.2 ⟨List.mem_append_left _ hr, Option.isSome_iff_exists.2 ⟨n, hfind⟩⟩)
  simp only [State.readStatus, if_neg hregs, h, List.foldl_cons, List.foldl_nil, readNotes]
  rfl

theorem State.readStatus_none (h : ∀ r, r ∈ (shape i).wsrc ++ (shape i).wdst → (s.group g).statusOf.find? r = none) :
    s.readStatus s (.gang g k) i = s :=
  State.readStatus_free (List.filter_eq_nil_iff.2 fun r hr => by rw [h r hr]; exact Bool.false_ne_true)

end

/-! ### Ranges and issued commands (R239 to R241) -/

section

variable {s : State} {t : ThreadId} {r : Range}

theorem State.rangeTrap_virtual (h : r.spad = false) : s.rangeTrap t r =
    if 2 ^ 48 < r.addr.toNat + max r.len 1 then some (Trap.addressRange r.addr)
    else if r.addr.toNat % r.align ≠ 0 then some (Trap.misaligned r.addr) else none := by
  simp only [State.rangeTrap, h, Bool.false_eq_true, if_false]

theorem State.rangeTrap_spad {g k : Nat} (h : r.spad = true) : s.rangeTrap (.gang g k) r =
    if (s.descOf (s.group g).team).spaceBytes < r.addr.toNat + r.len then some { kind := 0x10, addr := r.addr }
    else if r.addr.toNat % r.align ≠ 0 then some (Trap.misaligned r.addr) else none := by
  simp only [State.rangeTrap, h, if_true]

end

section

variable (s : State) (g : Nat) (k : CmdKind)

theorem State.group_issueCmd : (s.issueCmd g k).1.group g = { s.group g with openBatch := (s.group g).openBatch ++ [s.nextId] } :=
  State.group_setGroup _ _ _

theorem State.cmds_issueCmd : (s.issueCmd g k).1.cmds =
    s.cmds.insert s.nextId { group := g, team := (s.group g).team, kind := k, batch := (s.group g).batchNo } := rfl

end

end Sys2Proof.Machine

open Sys2Proof Sys2Proof.Machine in
/-- Settles O45: `bclose`, the end of a batch, its status word's fields, the words that read it, the checks of a range, and what an
issued command is. -/
theorem batchesAndCommands : Obligations.BatchesAndCommands := by
  refine ⟨⟨fun s t d g k hc hb => ?_, fun s g n hg => ?_, fun s g b hb => ?_, batchStatus_fields,
    fun s s1 i body g k hc hgate hhalt hops hops1 hbody => issue_readStatus hc hgate hhalt hops hops1 hbody,
    fun s i g k => ⟨State.readStatus_none, fun n => State.readStatus_one⟩⟩, fun s t r hr => ?_, fun s g k r hr => ?_, fun s g k => ?_⟩
  · intro u x b v
    refine ⟨fun hroom hopen => ?_, fun hroom hopen => ?_, execBclose_full hc hb⟩
    · refine (execBclose_closes hc hb hroom).trans ?_
      rw [if_neg fun h => hopen (List.isEmpty_iff.1 h)]
    · refine (execBclose_closes hc hb hroom).trans ?_
      rw [if_pos (List.isEmpty_iff.2 hopen)]
  · show execBatchComplete g n s = _
    rw [execBatchComplete, if_pos hg]
    rfl
  · intro cs
    refine ⟨State.settleBatch_open hb, fun hdone hg hlive hdst hlt => ?_⟩
    obtain ⟨vals, hfilled⟩ := s.group_fillsStatus g b
    have hgroup : (s.settleBatch g b.num).group g = (s.fillsStatus g b).group g := by
      rw [State.settleBatch_done hb hdone hdst, State.tryRetireGroup_live _ (by rw [hfilled]; exact hlive)]
    rw [hfilled] at hgroup
    have huni : ∀ k, (s.settleBatch g b.num).uni (.gang g k) = (s.group g).uni.putW b.dst (batchStatus b.num cs) := fun k =>
      congrArg Group.uni hgroup
    refine ⟨?_, ?_, congrArg Group.closed hgroup⟩
    · rw [State.getW, huni, Uni.getW_putW _ _ _ _ hdst, if_pos rfl]
    · rw [huni, Uni.empty_putW _ _ _ _ hlt, if_pos ⟨rfl, hdst⟩]
  · rw [State.rangeTrap_virtual hr]
    exact ⟨fun h => if_pos h, fun h hal => by rw [if_neg (Nat.not_lt.2 h), if_pos hal],
      fun h hal => by rw [if_neg (Nat.not_lt.2 h), if_neg (not_not.2 hal)]⟩
  · intro size
    rw [State.rangeTrap_spad hr]
    exact ⟨fun h => if_pos h, fun h hal => by rw [if_neg (Nat.not_lt.2 h), if_pos hal],
      fun h hal => by rw [if_neg (Nat.not_lt.2 h), if_neg (not_not.2 hal)]⟩
  · intro v
    have hgroup : v.group g = _ := s.group_issueCmd g k
    refine ⟨rfl, rfl, congrArg Group.openBatch hgroup, ?_, (congrArg Group.uni hgroup :), rfl, fun i hi => ?_⟩
    · rw [show v.cmds = _ from s.cmds_issueCmd g k, Tbl.find?_insert_self]
      rfl
    · rw [show v.cmds = _ from s.cmds_issueCmd g k, Tbl.find?_insert, if_neg hi]

end

section
/-! PROOFS. Context requests, their deadline, the save and the restore (R331, R332, R337, R338), the settings of a partition (R208, R265) and
the words `sys.ctxsw` and `sys.ctxld` (R339). -/

namespace Sys2Proof.Machine

/-! ### Requests against a context (R331, R337) -/

section

variable {s : State} {part ctx : Nat}

theorem State.ctxReq_unnamed (h : ctx = 0 ∨ ctx = 255 ∨ (s.ctx part ctx).phase = .none) (now destroy : Bool) :
    s.ctxReq part ctx now destroy = s.countLerr (realPart part) := by
  unfold State.ctxReq
  split
  · rfl
  · rename_i hctx
    have hphase : (s.ctx part ctx).phase = .none := by tauto
    simp only [hphase]

section

variable (h0 : ctx ≠ 0) (h255 : ctx ≠ 255)
include h0 h255

theorem State.ctxReq_resident (hph : (s.ctx part ctx).phase = .resident) (now destroy : Bool) : s.ctxReq part ctx now destroy =
    if destroy then s.countLerr (realPart part) else s.raiseRequest part ctx 0 now := by
  rw [State.ctxReq, if_neg (by tauto), hph]

theorem State.ctxReq_saving (hph : (s.ctx part ctx).phase = .saving) (now destroy : Bool) : s.ctxReq part ctx now destroy =
    if destroy then s.countLerr (realPart part) else if now then s.raiseRequest part ctx 0 true else s := by
  rw [State.ctxReq, if_neg (by tauto), hph]

theorem State.ctxReq_saved (hph : (s.ctx part ctx).phase = .saved) (now destroy : Bool) : s.ctxReq part ctx now destroy =
    if destroy then s.destroyCtx part ctx else s.countLerr (realPart part) := by
  rw [State.ctxReq, if_neg (by tauto), hph]

end

/-- A change of a context is what it does to the context as it stands. -/
theorem State.modCtx_congr {f g : Ctx → Ctx} (h : f (s.ctx part ctx) = g (s.ctx part ctx)) : s.modCtx part ctx f = s.modCtx part ctx g := by
  unfold State.modCtx Tbl.modify
  unfold State.ctx at h
  cases hx : s.ctxs.find? (ctxKey part ctx) with
  | none => rfl
  | some x =>
    rw [hx] at h
    simp only [show f x = g x from h]

theorem State.raiseRequest_resident (h : (s.ctx part ctx).phase = .resident) (why : BitVec 2) (now : Bool) :
    s.raiseRequest part ctx why now = s.modCtx part ctx fun c =>
      { c with phase := .saving, preq := some why, preqRan := 0, preqAt := s.time, forced := now } :=
  State.modCtx_congr (by simp only [h])

theorem State.raiseRequest_saving (h : (s.ctx part ctx).phase = .saving) (why : BitVec 2) :
    s.raiseRequest part ctx why true = s.modCtx part ctx fun c => { c with forced := true } :=
  State.modCtx_congr (by simp only [h, if_true])

/-- R332: the deadline has passed. -/
theorem execPreemptDeadline_forces (hphase : (s.ctx part ctx).phase = .saving) (hreq : (s.ctx part ctx).preq.isSome = true)
    (hran : 1000 * (s.part part).pdl.toNat ≤ s.requestRan (s.ctx part ctx)) :
    exec (.preemptDeadline part ctx) s = .next (s.modCtx part ctx fun c => { c with forced := true }) := by
  show execPreemptDeadline part ctx s = _
  rw [execPreemptDeadline, if_pos ⟨hphase, hreq, hran⟩]
  rfl

/-- R332, R333: a save that begins once what has issued is done. -/
theorem execContextSave_saves (hphase : (s.ctx part ctx).phase = .saving)
    (hready : (s.ctx part ctx).forced = true ∨ s.quiescent part ctx = true) (hdrained : s.drained part ctx = true)
    (hrun : (s.part part).halted = false) : exec (.contextSave part ctx) s = .next (s.saveCtx part ctx) := by
  have hgo : ((s.ctx part ctx).phase == .saving && ((s.ctx part ctx).forced || s.quiescent part ctx) && s.drained part ctx &&
      !(s.part part).halted) = true := by
    rw [hphase, Bool.or_eq_true_iff.2 hready, hdrained, hrun]
    rfl
  show execContextSave part ctx s = _
  rw [execContextSave, State.trySave]
  exact congrArg Host.Outcome.next (if_pos hgo)

theorem execContextRestore_returns (hphase : (s.ctx part ctx).phase = .resident) (hrun : (s.part part).halted = false) :
    exec (.contextRestore part ctx) s = .next ((s.returnAll part ctx).serveTakers part ctx) := by
  show execContextRestore part ctx s = _
  rw [execContextRestore, if_pos ⟨hphase, hrun⟩]
  rfl

/-! ### The settings of a partition (R208, R265, R331) -/

/-- R208, R265: a partition's settings after a write, of which some wait until no context is resident or saving. -/
theorem State.part_configPart {p : Part} (hp : s.parts.find? part = some p) (lease pdl ntags ovfgen target : Nat) (classen : BitVec 4) :
    (s.configPart part lease pdl ntags ovfgen target classen).part part =
      let free := (s.ctxsOf part fun x => x == .resident || x == .saving).isEmpty
      { p with
        lease := if free ∧ 4 ≤ lease ∧ lease ≤ 1024 then lease else p.lease
        pdl := if 1000 ≤ pdl ∧ pdl ≤ 10000000 then BitVec.ofNat 32 pdl else p.pdl
        ntags := if free ∧ ntags ≤ 65536 then ntags else p.ntags
        ovfgen := if free ∧ ovfgen < 2 ^ 24 then ovfgen else p.ovfgen
        classen := if free then classen else p.classen
        target := target } :=
  State.part_modPart_of_find? hp _

end

/-! ### Switches (R339) -/

section

variable {s : State} {i : Instr} {body : ThreadId → State → Did} {d out inc : Nat} {timed : Bool}

theorem State.part_startSwitch {p : Nat} (h : (s.parts.find? p).isSome = true) :
    ((s.startSwitch p out inc timed).part p).switching = some (out, inc, if timed then some s.time else none) := by
  have hparts : (if out = 0 then s else s.raiseRequest p out 0 true).parts = s.parts := by split <;> rfl
  rw [State.startSwitch, State.part_modPart _ (by rw [hparts]; exact h)]

variable (hb : s.begins i = true) (hth : isGang s.cur = false)
  (hbody : body s.cur s.unheld = s.unheld.switchWord s.cur d out inc timed)
include hb hbody

/-- R339: the word of a switch whose checks fail, or whose save has ended, or has not. -/
theorem issue_switch_waits (hidle : (s.unheld.part (s.partOf s.cur)).switching = none)
    (hok : s.unheld.switchStatus (s.partOf s.cur) out inc = 0)
    (hsave : (s.unheld.startSwitch (s.partOf s.cur) out inc timed).finishSwitch (s.partOf s.cur) out inc = none) :
    issue i s body = .next (s.stay (s.unheld.startSwitch (s.partOf s.cur) out inc timed)) := by
  refine issue_waits hb (hbody.trans ?_)
  simp [State.switchWord, State.partOf_unheld, hidle, hok, hsave]

include hth

theorem issue_switch_refused (hidle : (s.unheld.part (s.partOf s.cur)).switching = none)
    (hbad : s.unheld.switchStatus (s.partOf s.cur) out inc ≠ 0) :
    issue i s body = .next (s.after (s.unheld.putW s.cur d (BitVec.ofNat 64 (s.unheld.switchStatus (s.partOf s.cur) out inc)))) := by
  refine issue_scalar hb hth (hbody.trans ?_)
  simp [State.switchWord, State.partOf_unheld, hidle, hbad]

theorem issue_switch_completes {v : State} (hidle : (s.unheld.part (s.partOf s.cur)).switching = none)
    (hok : s.unheld.switchStatus (s.partOf s.cur) out inc = 0)
    (hsave : (s.unheld.startSwitch (s.partOf s.cur) out inc timed).finishSwitch (s.partOf s.cur) out inc = some v) :
    issue i s body = .next (s.after (v.putW s.cur d 0)) := by
  refine issue_scalar hb hth (hbody.trans ?_)
  simp [State.switchWord, State.partOf_unheld, hidle, hok, hsave]

/-- R338: the word goes on with the switch that it has begun. -/
theorem issue_switch_resumes {v : State} (hbusy : (s.unheld.part (s.partOf s.cur)).switching.isSome = true)
    (hsave : s.unheld.finishSwitch (s.partOf s.cur) out inc = some v) : issue i s body = .next (s.after (v.putW s.cur d 0)) := by
  refine issue_scalar hb hth (hbody.trans ?_)
  simp only [State.switchWord, State.partOf_unheld, hbusy, hsave, if_true]

end

/-- R264, R49: the switch words are the service core's and the root monitor's. -/
theorem State.isGang_of_level {s : State} {i : Instr} (hb : s.begins i = true) (h : 0 < (shape i).level) : isGang s.cur = false := by
  obtain ⟨-, hlevel, -⟩ := (gate_eq_run_iff i s).1 ((s.begins_iff i).1 hb).1
  cases hc : s.cur with
  | gang g k =>
    rw [hc] at hlevel
    exact absurd (h.trans_le hlevel) (Nat.lt_irrefl 0)
  | _ => rfl

end Sys2Proof.Machine

open Sys2Proof Sys2Proof.Machine in
/-- Settles O39: the settings, the requests by the phase of the context, and the switch words by the ends of their checks. -/
theorem contextRequestsAndSwitches : Obligations.ContextRequestsAndSwitches := by
  refine ⟨fun s part lease pdl ntags ovfgen target classen p hp => ?_, fun s part ctx => ?_⟩
  · intro q none_
    rw [show q = _ from State.part_configPart hp lease pdl ntags ovfgen target classen]
    refine ⟨rfl, rfl, fun h => ?_, fun h => ?_⟩
    · have hfree := List.isEmpty_iff.2 h
      simp only [hfree, true_and, if_true, and_self]
    · have hfree := List.isEmpty_eq_false_iff.2 h
      simp only [hfree, Bool.false_eq_true, false_and, if_false, and_self]
  · intro ph err raised forced
    refine ⟨fun h => ?_, fun h0 h255 hctx => ⟨fun hph => ?_, fun hph => ?_, fun hph => ?_, execPreemptDeadline_forces⟩,
      execContextSave_saves, execContextRestore_returns, fun t d a => ⟨fun hb => ?_, fun hb => ?_⟩⟩
    · have herr : ∀ now destroy, Host.Outcome.next (s.ctxReq part ctx now destroy) = err := fun now destroy =>
        congrArg Host.Outcome.next (State.ctxReq_unnamed h now destroy)
      exact ⟨herr _ _, herr _ _, herr _ _⟩
    · refine ⟨congrArg Host.Outcome.next ?_, congrArg Host.Outcome.next ?_, congrArg Host.Outcome.next ?_⟩
      · rw [State.ctxReq_resident h0 h255 hph]
        exact State.raiseRequest_resident hph 0 false
      · rw [State.ctxReq_resident h0 h255 hph]
        exact State.raiseRequest_resident hph 0 true
      · exact State.ctxReq_resident h0 h255 hph _ _
    · refine ⟨congrArg Host.Outcome.next ?_, congrArg Host.Outcome.next ?_, congrArg Host.Outcome.next ?_⟩
      · exact State.ctxReq_saving h0 h255 hph _ _
      · rw [State.ctxReq_saving h0 h255 hph]
        exact State.raiseRequest_saving hph 0
      · exact State.ctxReq_saving h0 h255 hph _ _
    · exact ⟨congrArg Host.Outcome.next (State.ctxReq_saved h0 h255 hph _ _), congrArg Host.Outcome.next (State.ctxReq_saved h0 h255 hph _ _),
        congrArg Host.Outcome.next (State.ctxReq_saved h0 h255 hph _ _)⟩
    · have hth := State.isGang_of_level hb (show 0 < 1 by decide)
      refine ⟨fun h => show execSysCtxsw t d a s = _ from issue_traps hb ?_, fun hx hy => ?_⟩
      · simp only [State.getW_unheld]
        exact if_pos h
      · have hbody : (let out := (s.unheld.getW s.cur a.toNat).toNat
            let inc := (s.unheld.getW s.cur (a.toNat + 1)).toNat
            if 254 < out ∨ 254 < inc then Did.trap (Trap.commandCheck 5) else s.unheld.switchWord s.cur d.toNat out inc true) =
            s.unheld.switchWord s.cur d.toNat (s.getW s.cur a.toNat).toNat (s.getW s.cur (a.toNat + 1)).toNat true := by
          simp only [State.getW_unheld]
          exact if_neg (by omega)
        refine ⟨fun hidle hbad => ?_, fun v hidle hok hsave => ?_, fun hidle hok hsave => ?_, fun hp => s.time_unheld ▸ State.part_startSwitch hp,
          fun v hbusy hsave => ?_⟩
        · exact show execSysCtxsw t d a s = _ from issue_switch_refused hb hth hbody hidle hbad
        · exact show execSysCtxsw t d a s = _ from issue_switch_completes hb hth hbody hidle hok hsave
        · exact show execSysCtxsw t d a s = _ from issue_switch_waits hb hbody hidle hok hsave
        · exact show execSysCtxsw t d a s = _ from issue_switch_resumes hb hth hbody hbusy hsave
    · have hth := State.isGang_of_level hb (show 0 < 1 by decide)
      refine ⟨fun h => show execSysCtxld t d a s = _ from issue_traps hb ?_, fun h => show execSysCtxld t d a s = _ from
        issue_scalar hb hth ?_, fun hpos hx => ?_⟩
      · simp only [State.getW_unheld]
        exact if_pos h
      · simp only [State.getW_unheld]
        exact (if_neg (show ¬254 < (s.getW s.cur a.toNat).toNat by omega)).trans (if_pos h)
      · have hbody : (let inc := (s.unheld.getW s.cur a.toNat).toNat
            if 254 < inc then Did.trap (Trap.commandCheck 5)
            else if inc = 0 then Did.done (s.unheld.putW s.cur d.toNat 1) else s.unheld.switchWord s.cur d.toNat 0 inc false) =
            s.unheld.switchWord s.cur d.toNat 0 (s.getW s.cur a.toNat).toNat false := by
          simp only [State.getW_unheld]
          exact (if_neg (show ¬254 < (s.getW s.cur a.toNat).toNat by omega)).trans (if_neg (show ¬(s.getW s.cur a.toNat).toNat = 0 by omega))
        refine ⟨fun hidle hbad => ?_, fun v hidle hok hsave => ?_, fun hidle hok hsave => ?_, fun hp => State.part_startSwitch hp,
          fun v hbusy hsave => ?_⟩
        · exact show execSysCtxld t d a s = _ from issue_switch_refused hb hth hbody hidle hbad
        · exact show execSysCtxld t d a s = _ from issue_switch_completes hb hth hbody hidle hok hsave
        · exact show execSysCtxld t d a s = _ from issue_switch_waits hb hbody hidle hok hsave
        · exact show execSysCtxld t d a s = _ from issue_switch_resumes hb hth hbody hbusy hsave

end

section
/-! PROOFS. The turns of stream commands (R279, R281 to R291). -/

namespace Sys2Proof.Machine

/-! ### Whose turn it is (R279, R289, R291) -/

section

variable {s : State} {n : Nat} {c : Cmd} (hc : s.cmds.find? n = some c)
include hc

theorem execStrmTurn_saving (hsave : s.saveBegun c.team = true) : exec (.strmTurn n) s = .next s := by
  show execStrmTurn n s = _
  simp only [execStrmTurn, hc, hsave, Bool.or_true, if_true]
  rfl

variable (hdone : c.done = false) (hon : s.engineOn c.team = true) (hsave : s.saveBegun c.team = false)
include hdone hon hsave

theorem execStrmTurn_open {tile len d : Nat} {outer comp zero : Bool} {after : List Nat}
    (hk : c.kind = .strmOpen tile outer comp zero len d after) : exec (.strmTurn n) s =
      .next (if s.openReady c.team (strmTiles tile comp) after then (s.runOpen n c tile outer comp zero len d).tryRetireGroup c.group else s) := by
  show execStrmTurn n s = _
  simp only [execStrmTurn, hc, hdone, hon, hsave, hk, Bool.not_true, Bool.or_self, Bool.false_eq_true, if_false]
  split <;> rfl

section

variable {x : Stream} (hk : ∀ tile outer comp zero len d after, c.kind ≠ .strmOpen tile outer comp zero len d after)
  (hstream : c.kind.isStream = true) (hx : s.streamOf c.team c.kind.strmSlot = some x)
include hk hstream hx

theorem execStrmTurn_queued (hturn : s.strmTurnIs x n = false) : exec (.strmTurn n) s = .next s := by
  show execStrmTurn n s = _
  simp only [execStrmTurn, hc, hdone, hon, hsave, Bool.not_true, Bool.or_self, Bool.false_eq_true, if_false, hx, hstream, hturn, Bool.and_false]
  rfl

variable (hturn : s.strmTurnIs x n = true)
include hturn

theorem execStrmTurn_waits {s1 : State} (hwait : s.recordWait n c = some s1) : exec (.strmTurn n) s = .next s1 := by
  show execStrmTurn n s = _
  simp only [execStrmTurn, hc, hdone, hon, hsave, Bool.not_true, Bool.or_self, Bool.false_eq_true, if_false, hx, hstream, hturn,
    Bool.and_self, if_true, hwait]
  rfl

theorem execStrmTurn_runs (hwait : s.recordWait n c = none) :
    exec (.strmTurn n) s = .next ((s.strmTurn n c c.kind.strmSlot x).tryRetireGroup c.group) := by
  show execStrmTurn n s = _
  simp only [execStrmTurn, hc, hdone, hon, hsave, Bool.not_true, Bool.or_self, Bool.false_eq_true, if_false, hx, hstream, hturn,
    Bool.and_self, if_true, hwait]
  rfl

end

end

/-! ### What the end of a command leaves alone -/

section

variable (s : State)

theorem State.fillW_streams (t : ThreadId) (r : Nat) (v : W64) : (s.fillW t r v).streams = s.streams := by
  unfold State.fillW
  split
  · split
    · exact (State.setUni_streams _ _ _).trans (State.setUni_streams _ _ _)
    · exact State.setUni_streams _ _ _
  · rfl

theorem State.setUni_teams (t : ThreadId) (u : Uni) : (s.setUni t u).teams = s.teams := by
  cases t <;> rfl

theorem State.fillW_teams (t : ThreadId) (r : Nat) (v : W64) : (s.fillW t r v).teams = s.teams := by
  unfold State.fillW
  split
  · split
    · exact (State.setUni_teams _ _ _).trans (State.setUni_teams _ _ _)
    · exact State.setUni_teams _ _ _
  · rfl

theorem State.endStrm_streams (n : Nat) (c : Cmd) (d : Nat) (v : W64) : (s.endStrm n c d v).streams = s.streams := by
  show (if d = 0 then s else _).streams = _
  split
  · rfl
  · exact s.fillW_streams _ _ _

theorem State.endStrm_teams (n : Nat) (c : Cmd) (d : Nat) (v : W64) : (s.endStrm n c d v).teams = s.teams := by
  show (if d = 0 then s else _).teams = _
  split
  · rfl
  · exact s.fillW_teams _ _ _

/-! ### Tiles -/

theorem State.tile_congr {s t : State} (h : t.teams = s.teams) (team m : Nat) : t.tile team m = s.tile team m := by
  simp only [State.tile, State.team, h]

theorem State.tile_setTile (team m : Nat) (x : Tile) (k : Nat) :
    (s.setTile team m x).tile team k = if k = m then x else s.tile team k := by
  simp only [State.tile, State.setTile, State.team_setTeam, Tbl.find?_insert]
  split <;> rfl

end

theorem Tbl.find?_append {α : Type} (m k : Tbl α) (j : Nat) : Tbl.find? (m ++ k) j = (m.find? j).or (k.find? j) := by
  induction m with
  | nil => rfl
  | cons e m ih =>
    obtain ⟨a, x⟩ := e
    by_cases h : a = j <;> simp [Tbl.find?, h, ih]

/-! ### Values listed from a key on -/

section

variable (vs : List W32) (k : Nat)

/-- The values that are not zero, each under its own key, from a first key on. -/
def valuesFrom : Tbl W32 := (vs.zipIdx k).filterMap fun e => if e.1 = 0 then none else some (e.2, e.1)

theorem valuesFrom_cons (v : W32) : valuesFrom (v :: vs) k = (if v = 0 then [] else [(k, v)]) ++ valuesFrom vs (k + 1) := by
  rw [valuesFrom, List.zipIdx_cons, List.filterMap_cons]
  by_cases hv : v = 0
  · simp only [hv, if_true]
    rfl
  · simp only [hv, if_false]
    rfl

theorem find?_valuesFrom_before {j : Nat} (h : j < k) : (valuesFrom vs k).find? j = none := by
  induction vs generalizing k with
  | nil => rfl
  | cons v vs ih =>
    have hhead : Tbl.find? (if v = 0 then [] else [(k, v)] : Tbl W32) j = none := by
      split
      · rfl
      · exact if_neg h.ne'
    rw [valuesFrom_cons, Tbl.find?_append, hhead, ih (k + 1) (Nat.lt_succ_of_lt h)]
    rfl

theorem get_valuesFrom {j : Nat} (h : j < vs.length) : ((valuesFrom vs k).find? (k + j)).getD 0 = vs[j] := by
  induction vs generalizing k j with
  | nil => exact absurd h (Nat.not_lt_zero j)
  | cons v vs ih =>
    rw [valuesFrom_cons, Tbl.find?_append]
    cases j with
    | zero =>
      rw [find?_valuesFrom_before _ _ (show k + 0 < k + 1 by omega)]
      by_cases hv : v = 0
      · simp [hv]
      · rw [if_neg hv]
        simp [Tbl.find?]
    | succ j =>
      have hhead : Tbl.find? (if v = 0 then [] else [(k, v)] : Tbl W32) (k + (j + 1)) = none := by
        split
        · rfl
        · exact if_neg (by omega)
      rw [hhead, Option.none_or, show k + (j + 1) = k + 1 + j by omega, ih (k + 1) (Nat.lt_of_succ_lt_succ h)]
      rfl

end

/-- R281: a refilled tile has the new values in its first elements. -/
theorem Tile.get_refill (o : Tile) (bad : Bool) (vs : List W32) {j : Nat} (h : j < vs.length) :
    (o.refill bad vs).el.get 0 j = vs[j] := by
  have hrest : Tbl.find? (o.el.filter fun e => decide (vs.length ≤ e.1)) j = none :=
    Tbl.find?_filter_eq_none fun x => decide_eq_false (Nat.not_le.2 h)
  have hvalue := get_valuesFrom vs 0 h
  rw [Nat.zero_add] at hvalue
  show (Tbl.find? (valuesFrom vs 0 ++ o.el.filter fun e => decide (vs.length ≤ e.1)) j).getD 0 = _
  rw [Tbl.find?_append, hrest, Option.or_none, hvalue]

theorem Tile.at_div_mod (o : Tile) (j : Nat) : o.at (j / 32) (j % 32) = o.el.get 0 j := by
  rw [Tile.at, Nat.div_add_mod]

/-! ### Steps (R282) -/

section

variable (s : State) (x : Stream) (bad : Bool) (cs : List Cell)

theorem State.tile_putCells : (s.putCells x bad cs).tile x.team x.tile = (s.tile x.team x.tile).refill bad (cs.map (·.h)) := by
  unfold State.putCells
  dsimp only
  split
  · rw [State.tile_setTile, if_neg (Nat.lt_succ_self _).ne, State.tile_setTile, if_pos rfl]
  · rw [State.tile_setTile, if_pos rfl]

theorem State.tile_putCells_comp (h : x.comp = true) :
    (s.putCells x bad cs).tile x.team (x.tile + 1) = (s.tile x.team (x.tile + 1)).refill bad (cs.map (·.c)) := by
  unfold State.putCells
  dsimp only
  rw [if_pos h, State.tile_setTile, if_pos rfl]

theorem State.length_strmCells : (s.strmCells x).length = x.size := by
  rw [State.strmCells, List.length_map, List.length_range]

/-- R282: the element of a state that a stream's tiles hold. -/
def State.strmCell (j : Nat) : Cell :=
  { h := (s.tile x.team x.tile).el.get 0 j, c := if x.comp then (s.tile x.team (x.tile + 1)).el.get 0 j else 0 }

theorem State.getElem_strmCells {j : Nat} (h : j < (s.strmCells x).length) : (s.strmCells x)[j] = s.strmCell x j := by
  simp only [State.strmCells, List.getElem_map, List.getElem_range]
  rfl

theorem length_stepState (outer comp : Bool) (os : Operands) : (stepState outer comp os cs).length = cs.length := by
  rw [stepState, List.length_map, List.length_zipIdx]

/-- R282: an element after a step. -/
theorem getElem_stepState (outer comp : Bool) (os : Operands) {j : Nat} (h : j < cs.length) :
    (stepState outer comp os cs)[j]'(by rwa [length_stepState]) = stepCell comp cs[j] (opAt os 0 (if outer then j / 32 else j))
      (opAt os 1 (if outer then j / 32 else j)) (opAt os 2 (if outer then j % 32 else j)) := by
  simp only [stepState, List.getElem_map, List.getElem_zipIdx, Nat.zero_add]
  cases outer <;> rfl

variable (n : Nat) (c : Cmd) (slot off d : Nat)

theorem State.streamOf_step : ((s.runChunk n c slot x false off 0 1 none 0 d).streamOf c.team slot).map (·.steps) = some (x.steps + 1) := by
  simp only [State.streamOf, State.runChunk, State.endStrm_streams]
  show (Tbl.find? (Tbl.insert _ _ _) _).map _ = _
  rw [Tbl.find?_insert_self]
  rfl

/-- R282: the state that a step leaves in a stream's tiles. -/
theorem State.teams_step : ∃ bad, (s.runChunk n c slot x false off 0 1 none 0 d).teams =
    (s.passDraws.putCells x bad (stepState x.outer x.comp (s.readOperands c.group x off) (s.strmCells x))).teams := by
  have hoff : off + 0 * 0 = off := by omega
  refine ⟨([off].any (s.badOperands x)) || s.strmBad x, ?_⟩
  simp only [State.runChunk, State.endStrm_teams, List.range_one, List.map_cons, List.map_nil, hoff, Bool.false_eq_true, if_false]
  rfl

variable {j : Nat} (hj : j < x.size)
include hj

/-- R282: an element after the step of a command. -/
theorem State.at_step :
    let os := s.readOperands c.group x off
    let y := stepCell x.comp (s.strmCell x j) (opAt os 0 (if x.outer then j / 32 else j)) (opAt os 1 (if x.outer then j / 32 else j))
      (opAt os 2 (if x.outer then j % 32 else j))
    let v := s.runChunk n c slot x false off 0 1 none 0 d
    (v.tile x.team x.tile).at (j / 32) (j % 32) = y.h ∧
    (x.comp = true → (v.tile x.team (x.tile + 1)).at (j / 32) (j % 32) = y.c) := by
  intro os y v
  obtain ⟨bad, hteams⟩ := s.teams_step x n c slot off d
  have hlen : j < (stepState x.outer x.comp os (s.strmCells x)).length := by
    rw [length_stepState, State.length_strmCells]
    exact hj
  have hcell : (stepState x.outer x.comp os (s.strmCells x))[j] = y := by
    rw [getElem_stepState _ _ _ _ (by rw [State.length_strmCells]; exact hj), State.getElem_strmCells]
  refine ⟨?_, fun hcomp => ?_⟩
  · rw [State.tile_congr hteams, State.tile_putCells, Tile.at_div_mod, Tile.get_refill _ _ _ (by rw [List.length_map]; exact hlen),
      List.getElem_map, hcell]
  · rw [State.tile_congr hteams, State.tile_putCells_comp _ _ _ _ hcomp, Tile.at_div_mod,
      Tile.get_refill _ _ _ (by rw [List.length_map]; exact hlen), List.getElem_map, hcell]

end

/-- R282: what a step's rounding leaves out. -/
theorem stepCell_spec (comp : Bool) (o : Cell) (a b x : W32) : let y := stepCell comp o a b x
    let e := ((f32 a).times ((f32 o.h).plus (f32 (if comp then o.c else 0)))).plus ((f32 b).times (f32 x))
    y.h = (roundF32 e).bits ∧ (comp = false → y.c = 0) ∧
    (comp = true → (∃ n m k, f32 y.h = .fin n m k) → y.c = (roundF32 (e.plus (f32 y.h).negate)).bits) ∧
    ((∀ n m k, f32 y.h ≠ .fin n m k) → y.c = 0) ∧ (o.nan = true → y.nan = true) ∧ (o.ovf = true → y.ovf = true) := by
  intro y e
  have hc : y.c = errTerm comp e y.h := rfl
  refine ⟨rfl, fun h => ?_, fun h hfin => ?_, fun hinf => ?_, fun h => ?_, fun h => ?_⟩
  · rw [hc, h]
    rfl
  · obtain ⟨m, k, l, hfin⟩ := hfin
    simp only [hc, h, errTerm, hfin]
  · rw [hc]
    unfold errTerm
    split
    · rename_i heq
      exact absurd heq (hinf _ _ _)
    · rfl
  · show (o.nan || _) = true
    rw [h, Bool.true_or]
  · show (o.ovf || _) = true
    rw [h, Bool.true_or]

/-- R282: y of OUTER. -/
theorem getElem?_stepY_outer (comp : Bool) (os : Operands) (cs : List Cell) {j : Nat} (h : j < 32) :
    let p := fun (i : Nat) => let o := cs.getD (32 * i + j) ⟨0, 0, false, false⟩
      ((f32 o.h).plus (f32 (if comp then o.c else 0))).times (f32 (opAt os 3 i))
    (stepY true comp os cs).1[j]? =
      some (roundF32 (((List.range 63).map (· + 1)).foldl (fun acc i => acc.plus (p i)) (p 0))).bits := by
  intro p
  have hsum : (List.range 64).foldl (fun acc i => if i = 0 then p i else acc.plus (p i)) (.fin false 0 0) =
      ((List.range 63).map (· + 1)).foldl (fun acc i => acc.plus (p i)) (p 0) := by
    rw [List.range_succ_eq_map, List.foldl_cons, if_pos rfl, List.foldl_map, List.foldl_map]
    refine List.foldl_ext _ _ _ fun acc i _ => ?_
    exact if_neg (Nat.succ_ne_zero i)
  show (((List.range 32).map (outerY comp os cs)).map (·.bits))[j]? = _
  rw [List.getElem?_map, List.getElem?_map, List.getElem?_range h, ← hsum]
  rfl

/-- R284: an element of a scan. -/
theorem scanCell_spec (comp : Bool) (steps draw j : Nat) (q : FVal) (o : Cell) : let y := scanCell comp steps draw j q o
    y = o ∨ (scanWithin steps q (f32 y.h) (f32 o.h) = true ∧ ∃ r, y.h = (roundF32 r).bits ∧ y.c = errTerm comp r y.h) := by
  unfold scanCell
  extract_lets hi lo r h y
  by_cases hin : scanWithin steps q (f32 h.bits) (f32 o.h) = true
  · have hy : y = { o with h := h.bits, c := errTerm comp r h.bits, nan := o.nan || h.nan, ovf := o.ovf || h.ovf } := if_pos hin
    rw [hy]
    exact .inr ⟨hin, r, rfl, rfl⟩
  · exact .inl (if_neg hin)

/-! ### Records and closes (R286 to R288) -/

theorem State.recordWait_record {s : State} {n : Nat} {c : Cmd}
    (h : (∃ l g h a f d, c.kind = .strmSave l g h a f d) ∨ (∃ l g a f d, c.kind = .strmLoad l g a f d)) :
    s.recordWait n c = if s.olderPending c.group n then some s else s.snoopHost c.kind.recordLines := by
  rcases h with ⟨l, g, h, a, f, d, hk⟩ | ⟨l, g, a, f, d, hk⟩ <;> simp only [State.recordWait, hk]

theorem State.streamOf_close {s : State} {n : Nat} {c : Cmd} {slot : Nat} {x : Stream} {d : Nat} (hk : c.kind = .strmClose slot x.gen d)
    (hq : x.queue = [n]) : (s.strmTurn n c slot x).streamOf c.team slot = none := by
  simp only [State.strmTurn, hk, State.runClose, hq, List.erase_cons_head, List.filter_nil, List.foldl_nil]
  exact (Tbl.find?_erase ..).trans (if_pos rfl)

/-- R287: a record that does not fit. -/
theorem State.runLoad_unfit {s : State} {n : Nat} {c : Cmd} {slot : Nat} {x : Stream} {addr : Nat} {fr : Frames} {d : Nat}
    (h : recFits x (s.readWords c.group fr addr (16 + x.size * (1 + x.comp.toNat))).2.1 = false) :
    let r := s.readWords c.group fr addr (16 + x.size * (1 + x.comp.toNat))
    s.runLoad n c slot x addr fr d =
      (r.1.modCmd n fun c => { c with poison := c.poison || r.2.2 }).endStrm n c d (strmStatus 4 slot x) := by
  simp only [State.runLoad, h, Bool.false_eq_true, if_false]

section

variable (x : Stream) (data : List Nat)

/-- R286: the fields of the record of a DIAG stream without error terms. -/
theorem recWords_fields :
    let ws := recWords (recHeader false false x.n x.nan x.ovf x.steps x.gen) data
    (ws.getD 1 0 / 2 ^ 24).testBit 1 = x.nan ∧ (ws.getD 1 0 / 2 ^ 24).testBit 2 = x.ovf ∧
    BitVec.ofNat 64 (ws.getD 4 0 + ws.getD 5 0 * 2 ^ 32) = x.steps ∧ BitVec.ofNat 32 (ws.getD 6 0) = x.gen ∧ ws.drop 16 = data := by
  intro ws
  have hflags : ∀ a b : Bool, ((1 + false.toNat * 2 ^ 16 + (false.toNat + a.toNat * 2 + b.toNat * 4) * 2 ^ 24) / 2 ^ 24).testBit 1 = a ∧
      ((1 + false.toNat * 2 ^ 16 + (false.toNat + a.toNat * 2 + b.toNat * 4) * 2 ^ 24) / 2 ^ 24).testBit 2 = b := by decide
  have hsteps : x.steps.toNat % 2 ^ 32 + x.steps.toNat / 2 ^ 32 * 2 ^ 32 = x.steps.toNat := by omega
  obtain ⟨k, hws⟩ : ∃ k, ws = recHeader false false x.n x.nan x.ovf x.steps x.gen ++ [k] ++ data := ⟨_, rfl⟩
  have hget : ws.getD 1 0 = 1 + false.toNat * 2 ^ 16 + (false.toNat + x.nan.toNat * 2 + x.ovf.toNat * 4) * 2 ^ 24 ∧
      ws.getD 4 0 = x.steps.toNat % 2 ^ 32 ∧ ws.getD 5 0 = x.steps.toNat / 2 ^ 32 ∧ ws.getD 6 0 = x.gen.toNat ∧ ws.drop 16 = data := by
    rw [hws]
    simp only [recHeader, List.cons_append, List.nil_append, List.getD_cons_succ, List.getD_cons_zero, List.drop_succ_cons, List.drop_zero,
      and_self]
  obtain ⟨h1, h4, h5, h6, hdata⟩ := hget
  refine ⟨?_, ?_, ?_, ?_, hdata⟩
  · rw [h1]
    exact (hflags x.nan x.ovf).1
  · rw [h1]
    exact (hflags x.nan x.ovf).2
  · rw [h4, h5, hsteps, BitVec.ofNat_toNat, BitVec.setWidth_eq]
  · rw [h6, BitVec.ofNat_toNat, BitVec.setWidth_eq]

variable {x data} (houter : x.outer = false)
include houter

theorem recFits_recWords (hcomp : x.comp = false) : recFits x (recWords (recHeader false false x.n x.nan x.ovf x.steps x.gen) data) = true := by
  obtain ⟨hnan, hovf, hsteps, hgen, hdata⟩ := recWords_fields x data
  simp only [recFits, hnan, hovf, hsteps, hgen, hdata, houter, hcomp, beq_self_eq_true]

theorem recStream_recWords (hheld : x.held = false) (hlen : data.length = x.n) (hlt : ∀ w ∈ data, w < 2 ^ 32) :
    let q := recStream x (recWords (recHeader false false x.n x.nan x.ovf x.steps x.gen) data)
    q.1 = x ∧ q.2.map (fun o => o.h.toNat) = data := by
  obtain ⟨hnan, hovf, hsteps, hgen, hdata⟩ := recWords_fields x data
  intro q
  refine ⟨?_, ?_⟩
  · simp only [q, recStream, hnan, hovf, hsteps, hgen]
    rw [← hheld]
  · simp only [q, recStream, hdata, List.map_map]
    refine List.ext_getElem (by simp [Stream.size, houter, hlen]) fun i h1 h2 => ?_
    simp only [List.getElem_map, List.getElem_range, Function.comp_apply, BitVec.toNat_ofNat, List.getD_eq_getElem _ _ h2]
    exact Nat.mod_eq_of_lt (hlt _ (List.getElem_mem h2))

end

end Sys2Proof.Machine

open Sys2Proof Sys2Proof.Machine in
/-- Settles O52: whose turn it is, a step's elements, y, scans, records and the close, each by its own lemma. -/
theorem streamTurns : Obligations.StreamTurns := by
  refine ⟨fun s n c hc hdone hon => ⟨execStrmTurn_saving hc, fun hsave tile outer comp zero len d after hk => ?_,
      fun x hsave hk hstream hx => ⟨fun hturn => ⟨fun s1 => execStrmTurn_waits hc hdone hon hsave hk hstream hx hturn,
        execStrmTurn_runs hc hdone hon hsave hk hstream hx hturn⟩, execStrmTurn_queued hc hdone hon hsave hk hstream hx⟩⟩,
    fun s n c slot x gen off d hx hk => ?_, fun s n c hk => ?_, fun comp os cs j hj => getElem?_stepY_outer comp os cs hj, stepCell_spec,
    scanCell_spec, fun s n c slot x d => State.streamOf_close, fun s n c slot x addr fr d => State.runLoad_unfit,
    fun x h houter hcomp hlen _ _ hheld hlt => ?_⟩
  · rw [execStrmTurn_open hc hdone hon hsave hk]
    exact ⟨fun h => by rw [if_pos h], fun h => by rw [if_neg (Bool.eq_false_iff.1 h)]⟩
  · intro v
    refine ⟨fun hgen => ?_, fun hgen hteam => ?_⟩
    · simp only [v, State.strmTurn, hk, if_neg hgen]
      rfl
    · have hv : v = (s.dequeue c.team slot n).runChunk n c slot { x with queue := x.queue.erase n } false off 0 1 none 0 d := by
        simp only [v, State.strmTurn, hk, if_pos hgen]
      rw [hv, ← hteam]
      refine ⟨hteam ▸ State.streamOf_step _ _ _ _ _ _ _, fun _ j hj => ?_⟩
      have hstep := (s.dequeue x.team slot n).at_step { x with queue := x.queue.erase n } n c slot off d hj
      intro os old o row y
      have hcell : (s.dequeue x.team slot n).strmCell { x with queue := x.queue.erase n } j = o := by
        simp only [o, old, Tile.at_div_mod]
        rfl
      rw [hcell] at hstep
      exact hstep
  · rw [State.recordWait_record hk]
    exact ⟨fun h => by rw [if_pos h], fun h => by rw [if_neg (Bool.eq_false_iff.1 h)]⟩
  · exact ⟨recFits_recWords houter hcomp, recStream_recWords houter hheld hlen hlt⟩

end

section
/-! PROOFS. The words `cpy`, `gather` and `binscat` (R239, R240, R244 to R246, R367). -/

namespace Sys2Proof.Machine

/-! ### Step flags behind the checks of a copy command (R308) -/

section

variable (s : State)

theorem State.keepsSteps_checkRanges (t : ThreadId) (rs : List Range) : (s.checkRanges t rs).KeepsSteps s := by
  have walked := s.walkStep_pinRanges t rs
  unfold State.checkRanges
  split
  · exact .stop _
  · split
    · exact .stop _
    · rename_i s1 fs heq
      rw [heq] at walked
      split
      · exact .stop _
      · exact s.keepsSteps_pinnedOr (.of_walkStep walked)

theorem State.sameSteps_issueCpy (g : Nat) (a b : Bool) (src dst : W64) (len : Nat) (fs : List Frames) :
    s.SameSteps (s.issueCpy g a b src dst len fs) :=
  (s.sameSteps_issueCmd _ _).trans (State.sameSteps_setGroup _ rfl)

theorem State.sameSteps_readBins (g : Nat) (fr : Frames) (bins n : Nat) : s.SameSteps (s.readBins g fr bins n).1 := by
  induction n with
  | zero => exact .refl s
  | succ n ih =>
    refine ih.trans (.of_memStep ?_)
    refine .trans ?_ (State.memStep_siteTouch _ _ _ _ _ _)
    split
    · exact State.memStep_evictSector _ _ _
    · exact .refl _

end

theorem gatherCause_reserved {stride : Nat} (h : 2 ^ 32 ≤ stride) (width nidx row : Nat) : gatherCause width nidx stride row = 1 :=
  if_pos (by omega)

theorem gatherCause_ok {width nidx stride row : Nat} (hstride : stride < 2 ^ 32) (hnidx : 1 ≤ nidx) (hmax : nidx ≤ 65536)
    (hidx : nidx * width ≤ 2 ^ 21) (halign : stride % 4 = 0) (hrow : row % 4 = 0) (hlow : 4 ≤ row) (hhigh : row ≤ 65536)
    (hout : nidx * row ≤ 2 ^ 21) : gatherCause width nidx stride row = 0 := by
  have hmaxlen : rangeMax = 2 ^ 21 := rfl
  rw [gatherCause, if_neg (by omega), if_neg (by omega)]

section

variable {s : State} {g k : Nat} (hc : s.cur = .gang g k)
include hc

/-- R240: the core's copy engine holds 64 commands. -/
theorem exec_copyFull {i : Instr} (hword : i.hasWord = true) (hi : engineOf i = some .copy) (hfull : s.copyFull g = true) :
    exec i s = .next (s.stay s) := by
  refine exec_targetFull hword ?_
  rw [hc]
  simp only [State.targetFull, hi, hfull]

/-! ### `cpy` (R244) -/

section

variable {t : Bool} {a : BitVec 6} {x y : BitVec 2} (hb : s.begins (.cpy t a y x) = true) (hroom : s.unheld.copyFull g = false)
include hb hroom

theorem execCpy_parted (hwhole : (s.unheld.group g).whole k = false) :
    exec (.cpy t a y x) s = .next (s.trapped (.cpy t a y x) (Trap.convergence 6)) := by
  refine show execCpy t a y x s = _ from issue_traps hb ?_
  simp only [hc, hroom, hwhole, Bool.false_eq_true, if_false, if_true]

variable (hwhole : (s.unheld.group g).whole k = true)
include hwhole

theorem execCpy_batch (hbatch : s.unheld.batchFull g = true) :
    exec (.cpy t a y x) s = .next (s.trapped (.cpy t a y x) (Trap.commandCheck 7)) := by
  refine show execCpy t a y x s = _ from issue_traps hb ?_
  simp only [hc, hroom, hwhole, hbatch, Bool.false_eq_true, Bool.true_eq_false, if_false, if_true]

variable (hbatch : s.unheld.batchFull g = false)
include hbatch

theorem execCpy_reserved (hlen : 2 ^ 22 ≤ (s.unheld.getW s.cur (a.toNat + 2)).toNat) :
    exec (.cpy t a y x) s = .next (s.trapped (.cpy t a y x) (Trap.commandCheck 1)) := by
  have hbits : (s.unheld.getW s.cur (a.toNat + 2)).toNat / 2 ^ 22 ≠ 0 := by omega
  refine show execCpy t a y x s = _ from issue_traps hb ?_
  rw [hc] at hbits ⊢
  simp only [hroom, hwhole, hbatch, Bool.false_eq_true, Bool.true_eq_false, if_false, if_pos hbits]

variable (hlen : (s.unheld.getW s.cur (a.toNat + 2)).toNat < 2 ^ 22)
include hlen

theorem execCpy_length (hbad : (s.unheld.getW s.cur (a.toNat + 2)).toNat % 4 ≠ 0 ∨ 2 ^ 21 < (s.unheld.getW s.cur (a.toNat + 2)).toNat) :
    exec (.cpy t a y x) s = .next (s.trapped (.cpy t a y x) (Trap.commandCheck 5)) := by
  have hbits : ¬(s.unheld.getW s.cur (a.toNat + 2)).toNat / 2 ^ 22 ≠ 0 := by omega
  refine show execCpy t a y x s = _ from issue_traps hb ?_
  rw [hc] at hbits hbad ⊢
  simp only [hroom, hwhole, hbatch, Bool.false_eq_true, Bool.true_eq_false, if_false, if_neg hbits]
  exact if_pos hbad

/-- R244: the group's slice of the next collective. -/
theorem execCpy_issues {s1 : State} {fs : List Frames}
    (hok : ¬((s.unheld.getW s.cur (a.toNat + 2)).toNat % 4 ≠ 0 ∨ 2 ^ 21 < (s.unheld.getW s.cur (a.toNat + 2)).toNat))
    (hcheck : s.unheld.checkRanges s.cur [⟨x == 1, s.unheld.getW s.cur a.toNat, (s.unheld.getW s.cur (a.toNat + 2)).toNat, 4, .copyRead⟩,
      ⟨y == 1, s.unheld.getW s.cur (a.toNat + 1), (s.unheld.getW s.cur (a.toNat + 2)).toNat, 4, .copyWrite⟩] = .ok s1 fs) :
    exec (.cpy t a y x) s = .next (s.after (s1.issueCpy g (x == 1) (y == 1) (s.unheld.getW s.cur a.toNat)
      (s.unheld.getW s.cur (a.toNat + 1)) (s.unheld.getW s.cur (a.toNat + 2)).toNat fs)) := by
  have hbits : ¬(s.unheld.getW s.cur (a.toNat + 2)).toNat / 2 ^ 22 ≠ 0 := by omega
  have hkeeps := s.unheld.keepsSteps_checkRanges s.cur [⟨x == 1, s.unheld.getW s.cur a.toNat, (s.unheld.getW s.cur (a.toNat + 2)).toNat, 4,
    .copyRead⟩, ⟨y == 1, s.unheld.getW s.cur (a.toNat + 1), (s.unheld.getW s.cur (a.toNat + 2)).toNat, 4, .copyWrite⟩]
  rw [hcheck] at hkeeps
  refine show execCpy t a y x s = _ from issue_command hb rfl ?_ (hkeeps.sameSteps.trans (s1.sameSteps_issueCpy _ _ _ _ _ _ _))
  rw [hc] at hbits hok hcheck ⊢
  simp only [hroom, hwhole, hbatch, Bool.false_eq_true, Bool.true_eq_false, if_false, if_neg hbits]
  refine (if_neg hok).trans ?_
  simp only [hcheck]

end

/-! ### `gather` (R245) -/

section

variable {t w : Bool} {a : BitVec 6} {y : BitVec 2} (hb : s.begins (.gather t a y w) = true) (hroom : s.unheld.copyFull g = false)
include hb hroom

theorem execGather_batch (hbatch : s.unheld.batchFull g = true) :
    exec (.gather t a y w) s = .next (s.trapped (.gather t a y w) (Trap.commandCheck 7)) := by
  refine show execGather t a y w s = _ from issue_traps hb ?_
  simp only [hc, hroom, hbatch, Bool.false_eq_true, if_false, if_true]

variable (hbatch : s.unheld.batchFull g = false)
include hbatch

theorem execGather_reserved (h : 2 ^ 32 ≤ (s.unheld.getW s.cur (a.toNat + 3)).toNat) :
    exec (.gather t a y w) s = .next (s.trapped (.gather t a y w) (Trap.commandCheck 1)) := by
  refine show execGather t a y w s = _ from issue_traps hb ?_
  rw [hc] at h ⊢
  simp only [hroom, hbatch, gatherCause_reserved h, Bool.false_eq_true, if_false]
  rfl

theorem execGather_issues {s1 : State} {fs : List Frames} :
    let u := s.unheld
    let r := fun i => u.getW s.cur (a.toNat + i)
    let idx : Range := ⟨false, r 0, (r 1).toNat * (if w then 8 else 4), if w then 8 else 4, .copyRead⟩
    let dst : Range := ⟨y == 1, r 5, (r 1).toNat * (r 4).toNat, 4, .copyWrite⟩
    gatherCause (if w then 8 else 4) (r 1).toNat (r 3).toNat (r 4).toNat = 0 →
    u.rangeTrap s.cur idx = none → u.rangeTrap s.cur ⟨false, r 2, 0, 4, .copyRead⟩ = none → u.rangeTrap s.cur dst = none →
    u.checkRanges s.cur [idx, dst] = .ok s1 fs →
    exec (.gather t a y w) s = .next (s.after (s1.issueCmd g (.gather (y == 1) w (r 0).toNat (r 1).toNat (r 2).toNat (r 3).toNat
      (r 4).toNat (r 5).toNat (fs.getD 0 []) (fs.getD 1 []))).1) := by
  intro u r idx dst hcause hidx htable hdst hcheck
  have hkeeps := u.keepsSteps_checkRanges s.cur [idx, dst]
  rw [hcheck] at hkeeps
  refine show execGather t a y w s = _ from issue_command hb rfl ?_ (hkeeps.sameSteps.trans (s1.sameSteps_issueCmd _ _))
  simp only [u, r, idx, dst, hc] at hcause hidx htable hdst hcheck ⊢
  simp only [hroom, hbatch, hcause, Bool.false_eq_true, if_false, ne_eq, not_true_eq_false, List.findSome?_cons, hidx, htable, hdst,
    List.findSome?_nil, hcheck]

end

/-! ### `binscat` (R246) -/

section

variable {t : Bool} {a : BitVec 6} {x : BitVec 2} (hb : s.begins (.binscat t a x) = true) (hroom : s.unheld.copyFull g = false)
include hb hroom

theorem execBinscat_batch (hbatch : s.unheld.batchFull g = true) :
    exec (.binscat t a x) s = .next (s.trapped (.binscat t a x) (Trap.commandCheck 7)) := by
  refine show execBinscat t a x s = _ from issue_traps hb ?_
  simp only [hc, hroom, hbatch, Bool.false_eq_true, if_false, if_true]

variable (hbatch : s.unheld.batchFull g = false)
include hbatch

/-- R246: after the pages of its ranges, a `binscat` waits for what the host may hold of its table, and then goes by the bins that the
table holds. -/
theorem execBinscat_pinned {s1 s2 : State} {fs bs : List Frames} :
    let u := s.unheld
    let r := fun i => u.getW s.cur (a.toNat + i)
    let ntok := (r 1).toNat
    let tsize := (r 2).toNat
    let nbins := (r 5).toNat
    let named : List Range := [⟨x == 1, r 0, ntok * tsize, 4, .copyRead⟩, ⟨false, r 3, 4 * ntok, 4, .copyRead⟩,
      ⟨false, r 4, 16 * nbins, 16, .atomic⟩]
    let tabLines := engLines false (fs.getD 2 []) (r 4).toNat (4 * nbins)
    let q := s1.readBins g (fs.getD 2 []) (r 4).toNat nbins
    let bins := q.2
    let slots := bins.map fun b => (⟨false, BitVec.ofNat 64 b.2.1, b.2.2 * tsize, 4, .copyWrite⟩ : Range)
    let scatter : CmdKind := .binscat (x == 1) (r 0).toNat ntok tsize (r 3).toNat (r 4).toNat bins (fs.getD 0 [])
      (bs.foldl (fun m f => f.foldl (fun m e => m.insert e.1 e.2) m) (fs.getD 1 []))
    binscatCause ntok tsize nbins = 0 → named.findSome? (u.rangeTrap s.cur) = none → u.pinRanges s.cur named = (s1, .ok fs) →
    (∀ s3, s1.snoopHost tabLines = some s3 → exec (.binscat t a x) s = .next (s.stay s3)) ∧
    (s1.snoopHost tabLines = none →
    ((∃ b ∈ bins, 2 ^ 31 ≤ b.2.2 ∨ 2 ^ 21 < b.2.2 * tsize) →
      exec (.binscat t a x) s = .next (s.trapped (.binscat t a x) (Trap.commandCheck 5))) ∧
    ((∀ b ∈ bins, b.2.2 < 2 ^ 31 ∧ b.2.2 * tsize ≤ 2 ^ 21) → slots.findSome? (q.1.rangeTrap s.cur) = none →
      q.1.pinRanges s.cur slots = (s2, .ok bs) →
      (framesTyped (fs.getD 2 []) [.shared] = false →
        exec (.binscat t a x) s = .next (s.trapped (.binscat t a x) (Trap.commandCheck 3))) ∧
      (framesTyped (fs.getD 2 []) [.shared] = true → s2.watchRanges s.cur (named ++ slots) = none →
        (∀ s3, u.filledHeld s2 = some s3 → exec (.binscat t a x) s = .next (s.stay s3)) ∧
        (u.filledHeld s2 = none → exec (.binscat t a x) s = .next (s.after (s2.issueCmd g scatter).1))))) := by
  intro u r ntok tsize nbins named tabLines q bins slots scatter hcause hnamed hpin
  have hmax : rangeMax = 2 ^ 21 := rfl
  have hwalk := u.walkStep_pinRanges s.cur named
  rw [hpin] at hwalk
  simp only [u, r, ntok, tsize, nbins, named, hc] at hcause hnamed hpin
  refine ⟨fun s3 hsnoop => ?_, fun hsnoop => ⟨?_, fun hsize hslots hpages => ⟨fun htype => ?_, fun htype hwatch => ⟨fun s3 hheld => ?_,
    fun hheld => ?_⟩⟩⟩⟩
  · refine show execBinscat t a x s = _ from issue_waits hb ?_
    simp only [tabLines, u, r, nbins, hc] at hsnoop ⊢
    simp only [hroom, hbatch, hcause, hnamed, hpin, hsnoop, Bool.false_eq_true, if_false, ne_eq, not_true_eq_false]
  · rintro ⟨b, hmem, hbig⟩
    have hany : (bins.any fun b => decide (2 ^ 31 ≤ b.2.2 ∨ rangeMax < b.2.2 * tsize)) = true :=
      List.any_eq_true.2 ⟨b, hmem, decide_eq_true hbig⟩
    refine show execBinscat t a x s = _ from issue_traps hb ?_
    simp only [tabLines, bins, q, tsize, u, r, nbins, hc] at hsnoop hany ⊢
    simp only [hroom, hbatch, hcause, hnamed, hpin, hsnoop, hany, Bool.false_eq_true, if_false, if_true, ne_eq, not_true_eq_false]
  all_goals
    have hany : (bins.any fun b => decide (2 ^ 31 ≤ b.2.2 ∨ rangeMax < b.2.2 * tsize)) = false := by
      refine List.any_eq_false.2 fun b hmem => ?_
      have := hsize b hmem
      rw [decide_eq_true_eq]
      omega
  · refine show execBinscat t a x s = _ from issue_traps hb ?_
    simp only [tabLines, slots, bins, q, tsize, u, r, nbins, hc] at hsnoop hany hslots hpages ⊢
    simp only [hroom, hbatch, hcause, hnamed, hpin, hsnoop, hany, hslots, hpages, htype, Bool.false_eq_true, if_false, if_true, ne_eq,
      not_true_eq_false]
  · refine show execBinscat t a x s = _ from issue_waits hb ?_
    simp only [tabLines, named, slots, bins, q, ntok, tsize, u, r, nbins, hc] at hsnoop hany hslots hpages hwatch hheld ⊢
    simp only [hroom, hbatch, hcause, hnamed, hpin, hsnoop, hany, hslots, hpages, htype, hwatch, hheld, Bool.false_eq_true,
      Bool.true_eq_false, if_false, ne_eq, not_true_eq_false]
  · have hwalk2 := q.1.walkStep_pinRanges s.cur slots
    rw [hpages] at hwalk2
    have hsteps : u.SameSteps s2 :=
      (State.SameSteps.of_walkStep hwalk).trans ((s1.sameSteps_readBins _ _ _ _).trans (.of_walkStep hwalk2))
    refine show execBinscat t a x s = _ from issue_command hb rfl ?_ (hsteps.trans (s2.sameSteps_issueCmd _ _))
    simp only [scatter, tabLines, named, slots, bins, q, ntok, tsize, u, r, nbins, hc] at hsnoop hany hslots hpages hwatch hheld ⊢
    simp only [hroom, hbatch, hcause, hnamed, hpin, hsnoop, hany, hslots, hpages, htype, hwatch, hheld, Bool.false_eq_true,
      Bool.true_eq_false, if_false, ne_eq, not_true_eq_false, Prod.mk.eta, List.map_id']

end

end

end Sys2Proof.Machine

end

section
/-! PROOFS. The copy engine's work: collectives, rows, tokens and the words they move (R211, R240, R244 to R246). -/

namespace Sys2Proof.Machine

/-! ### Collectives of a team (R244) -/

section

variable {s : State} {k : Nat}

theorem execCpyCollectiveStart_off (h : s.engineOff k = true) : exec (.cpyCollectiveStart k) s = .next s :=
  if_pos h

theorem execCpyCollectiveStart_on (h : s.engineOff k = false) :
    let rest := fun (u : State) => (u.runningCpy k).foldl (fun t e => t.copyRest e.1) u
    exec (.cpyCollectiveStart k) s = .next (if (rest s).cpyReady k then rest ((rest s).startCpy k) else rest s) :=
  if_neg (by simp only [h, Bool.false_eq_true, not_false_eq_true])

theorem State.cpyReady_iff : s.cpyReady k = true ↔ s.slicesOfCpy k (s.team k).cpyStarted ≠ [] ∧
    (∀ g, g ∈ s.groupsOf k → (s.team k).cpyStarted < (s.group g).cpys) ∧
    ∀ e, e ∈ s.slicesOfCpy k (s.team k).cpyStarted → s.olderPending e.2.group e.1 = false := by
  simp only [State.cpyReady, Bool.and_eq_true, Bool.not_eq_true', List.isEmpty_eq_false_iff, List.all_eq_true, decide_eq_true_eq,
    List.any_eq_false, Bool.not_eq_true, and_assoc]

/-- R244: the slices of a collective that have bytes to move do not complete at its start. -/
theorem State.startCpy_of_bytes (h : ∀ e, e ∈ s.slicesOfCpy k (s.team k).cpyStarted → e.2.kind.rowWords ≠ 0) :
    s.startCpy k = s.setTeam k { s.team k with cpyStarted := (s.team k).cpyStarted + 1 } := by
  have hid : ∀ (es : List (Nat × Cmd)) (u : State), (∀ e ∈ es, e.2.kind.rowWords ≠ 0) →
      es.foldl (fun t e => if e.2.kind.rowWords = 0 then t.finishCopy e.1 else t) u = u := by
    intro es
    induction es with
    | nil => exact fun _ _ => rfl
    | cons e es ih =>
      intro u hes
      rw [List.foldl_cons, if_neg (hes e List.mem_cons_self)]
      exact ih u fun e' he' => hes e' (List.mem_cons_of_mem _ he')
  exact hid _ _ h

end

/-! ### A command's turns, its end and its last event (R211, R240, R241) -/

/-- R211, R346: only a command that may work does. -/
theorem State.copyMay_eq_false {s : State} {n : Nat} {c : Cmd}
    (h : c.done = true ∨ ¬(s.engineOff c.team = false ∧ s.olderPending c.group n = false))
    (hk : ∀ a b src dst len k sf df, c.kind ≠ .cpy a b src dst len k sf df) : s.copyMay n c = false := by
  unfold State.copyMay
  split
  case h_1 heq => exact absurd heq (hk _ _ _ _ _ _ _ _)
  case h_2 =>
    rw [← Bool.not_eq_true]
    simp only [Bool.and_eq_true, Bool.not_eq_true']
    rintro ⟨⟨hd, hoff⟩, hold⟩
    rcases h with h | h
    · exact absurd (h.symm.trans hd) Bool.noConfusion
    · exact h ⟨hoff, hold⟩

section

variable {s : State} {n : Nat} {c : Cmd} (hc : s.cmds.find? n = some c)
include hc

theorem State.copyRest_of_cmd : s.copyRest n = ((List.range c.kind.rows).foldl (fun t i =>
    ([0, 0] ++ List.range c.kind.rowWords).foldl (fun u j => u.copyWord n i j) t) s).finishCopy n := by
  simp only [State.copyRest, hc, Cmd.turns]

theorem State.finishCopy_of_cmd (h : c.done = false) :
    s.finishCopy n = if c.copied = true then (s.completeCmd n).tryRetireGroup c.group else s := by
  simp only [State.finishCopy, hc, h, Bool.not_false, Bool.true_and]

variable (hdone : c.done = false) (hfree : s.engineOff c.team = false ∧ s.olderPending c.group n = false)

section

include hdone hfree

theorem execGatherRun_works {dSpad x64 : Bool} {idx nidx tbase stride row dst : Nat} {fi fd : Frames}
    (hk : c.kind = .gather dSpad x64 idx nidx tbase stride row dst fi fd) : exec (.gatherRun n) s = .next (s.copyRest n) := by
  refine show execGatherRun n s = _ from ?_
  simp only [execGatherRun, hc, hk, State.copyMay, hdone, hfree, Bool.not_false, Bool.and_self, if_true]
  rfl

theorem execBinscatRun_works {sSpad : Bool} {tok ntok tsize keys tab : Nat} {bin : List (Nat × Nat × Nat)} {ft fk : Frames}
    (hk : c.kind = .binscat sSpad tok ntok tsize keys tab bin ft fk) : exec (.binscatRun n) s = .next (s.copyRest n) := by
  refine show execBinscatRun n s = _ from ?_
  simp only [execBinscatRun, hc, hk, State.copyMay, hdone, hfree, Bool.not_false, Bool.and_self, if_true]
  rfl

end

theorem execGatherRun_idle (h : c.done = true ∨ ¬(s.engineOff c.team = false ∧ s.olderPending c.group n = false)) :
    exec (.gatherRun n) s = .next s := by
  refine show execGatherRun n s = _ from ?_
  simp only [execGatherRun, hc]
  split
  case h_1 hk =>
    rw [State.copyMay_eq_false h fun _ _ _ _ _ _ _ _ h => by rw [hk] at h; exact CmdKind.noConfusion h]
    rfl
  case h_2 => rfl

theorem execBinscatRun_idle (h : c.done = true ∨ ¬(s.engineOff c.team = false ∧ s.olderPending c.group n = false)) :
    exec (.binscatRun n) s = .next s := by
  refine show execBinscatRun n s = _ from ?_
  simp only [execBinscatRun, hc]
  split
  case h_1 hk =>
    rw [State.copyMay_eq_false h fun _ _ _ _ _ _ _ _ h => by rw [hk] at h; exact CmdKind.noConfusion h]
    rfl
  case h_2 => rfl

end

theorem Cmd.copied_iff {c : Cmd} : c.copied = true ↔
    c.kind.rowWords * (c.begun.filter fun e => e.2.isSome).length = c.moved.length ∧
      (c.kind.rowWords = 0 ∨ c.begun.length = c.kind.rows) := by
  simp only [Cmd.copied, Bool.and_eq_true, Bool.or_eq_true, beq_iff_eq]

/-! ### One word of a row or token (R240, R243, R367) -/

section

variable (s : State)

theorem State.markStore_cmds (t : ThreadId) (va : W64) (e : StoreEnd) : (s.markStore t va e).cmds = s.cmds := by
  cases e with
  | stored => rfl
  | dropped => exact (apply_ite State.cmds _ _ _).trans (by cases t <;> exact ite_self _)
  | refused => exact (apply_ite State.cmds _ _ _).trans (by cases t <;> exact ite_self _)

theorem State.poolWrite_cmds (team o n v : Nat) : (s.poolWrite team o n v).cmds = s.cmds := by
  induction n generalizing s o v with
  | zero => rfl
  | succ n ih => exact (ih _ _ _)

variable (g : Nat) (spad : Bool) (fr : Frames) (a : Nat)

theorem State.engRead_cmds : (s.engRead g spad fr a).1.cmds = s.cmds := by
  cases spad with
  | true => rfl
  | false => exact (s.memStep_loadBytes _ _ _ _).cmds_eq

theorem State.engWrite_cmds (v : Nat) (bad : Bool) (batch : Nat) : (s.engWrite g spad fr a v bad batch).cmds = s.cmds := by
  unfold State.engWrite
  dsimp only
  split
  · have hpool := State.poolWrite_cmds (s.noteEngine g a batch) (s.group g).team a 4 v
    split
    · exact hpool
    · exact hpool
  · split
    · exact (s.memStep_streamStore _ _ _ _ _ _ _).cmds_eq
    · have hstore := fun e => (State.markStore_cmds _ (.gang g (s.group g).lowGang) (BitVec.ofNat 64 a) e).trans
        (s.memStep_storeBytes (s.team (s.group g).team).cluster (framePhys fr a) 4 v (BitVec.ofNat 64 a)
          (s.threadTag (.gang g 0))).cmds_eq
      split
      · exact (State.memStep_evictSector _ _ _).cmds_eq.trans (hstore _)
      · exact hstore _

/-- What a change of a command becomes depends on the command as it stands. -/
theorem State.modCmd_congr {s : State} {n : Nat} {c : Cmd} {f f' : Cmd → Cmd} (hc : s.cmds.find? n = some c) (hf : f c = f' c) :
    s.modCmd n f = s.modCmd n f' := by
  simp only [State.modCmd, Tbl.modify, hc, hf]

end

section

variable {s : State} {n : Nat} {c : Cmd} (hc : s.cmds.find? n = some c)
include hc

section

variable {row word : Nat} {w : Work} (hdone : c.done = false) (hrow : row < c.kind.rows) (hword : word < c.kind.rowWords)
include hdone hrow hword

/-- A turn of a row or token that has not begun begins it. -/
theorem State.copyWord_begins (hnone : c.begun.find? row = none) : s.copyWord n row word = s.beginPart n c row := by
  simp only [State.copyWord, hc, hdone, Nat.not_le.2 hrow, Nat.not_le.2 hword, or_self, decide_false, Bool.or_self, Bool.false_eq_true,
    if_false, hnone]

variable (hbegun : c.begun.find? row = some (some w)) (hmoved : c.moved.find? (row * c.kind.rowWords + word) = none)
include hbegun hmoved

theorem State.copyWord_waits {s1 : State} (h : s.snoopHost (engLines c.kind.ends.1 w.fr (w.src + 4 * word) 1 ++
    engLines c.kind.ends.2.1 c.kind.ends.2.2 (w.dst + 4 * word) 1) = some s1) : s.copyWord n row word = s1 := by
  simp only [State.copyWord, hc, hdone, Nat.not_le.2 hrow, Nat.not_le.2 hword, or_self, decide_false, Bool.or_self, Bool.false_eq_true,
    if_false, hbegun, hmoved, Option.isSome_none, h]

theorem State.copyWord_moves (h : s.snoopHost (engLines c.kind.ends.1 w.fr (w.src + 4 * word) 1 ++
    engLines c.kind.ends.2.1 c.kind.ends.2.2 (w.dst + 4 * word) 1) = none) :
    let e := c.kind.ends
    let r := s.engRead c.group e.1 w.fr (w.src + 4 * word)
    s.copyWord n row word = (r.1.engWrite c.group e.2.1 e.2.2 (w.dst + 4 * word) r.2.1 r.2.2 c.batch.toNat).modCmd n fun c =>
      { c with poison := c.poison || r.2.2, moved := c.moved.insert (row * c.kind.rowWords + word) r.2.2 } := by
  intro e r
  have hcmd : (r.1.engWrite c.group e.2.1 e.2.2 (w.dst + 4 * word) r.2.1 r.2.2 c.batch.toNat).cmds.find? n = some c := by
    rw [State.engWrite_cmds, State.engRead_cmds, hc]
  refine Eq.trans ?_ (State.modCmd_congr (f := fun d =>
    { d with poison := d.poison || r.2.2, moved := d.moved.insert (row * c.kind.rowWords + word) r.2.2 }) hcmd rfl)
  simp only [State.copyWord, hc, hdone, Nat.not_le.2 hrow, Nat.not_le.2 hword, or_self, decide_false, Bool.or_self, Bool.false_eq_true,
    if_false, hbegun, hmoved, Option.isSome_none, h, e, r]

end

end

/-! ### A row or token begins (R244 to R246) -/

section

variable {s : State} {n i : Nat} {c : Cmd} (hnone : c.begun.find? i = none)
include hnone

theorem State.beginPart_cpy {a b : Bool} {src dst len k : Nat} {sf df : Frames} (hk : c.kind = .cpy a b src dst len k sf df) :
    s.beginPart n c i = s.beginWork n i (some ⟨src, dst, sf⟩) fun c => c := by
  simp only [State.beginPart, hnone, Option.isSome_none, Bool.false_eq_true, if_false, hk]

theorem State.beginPart_gather {dSpad x64 : Bool} {idx nidx tbase stride row dst : Nat} {fi fd : Frames}
    (hk : c.kind = .gather dSpad x64 idx nidx tbase stride row dst fi fd) :
    s.beginPart n c i = s.beginRow n c.group x64 idx tbase stride row dst fi (c.lows.find? i) i := by
  simp only [State.beginPart, hnone, Option.isSome_none, Bool.false_eq_true, if_false, hk]

theorem State.beginPart_binscat {sSpad : Bool} {tok ntok tsize keys tab : Nat} {bin : List (Nat × Nat × Nat)} {ft fk : Frames}
    (hk : c.kind = .binscat sSpad tok ntok tsize keys tab bin ft fk) :
    s.beginPart n c i = if i = c.begun.length then s.beginToken n c.group tok tsize keys bin ft fk i else s := by
  simp only [State.beginPart, hnone, Option.isSome_none, Bool.false_eq_true, if_false, hk]

end

section

variable {s : State} {n g idx tbase stride row dst i : Nat} {x64 : Bool} {fi : Frames}

/-- R197, R243: the low word of a 64-bit index is a turn of its own. -/
theorem State.beginRow_low (hfree : s.snoopHost (engLines false fi (idx + 8 * i) 1) = none) :
    let lo := s.engRead g false fi (idx + 8 * i)
    s.beginRow n g true idx tbase stride row dst fi none i = lo.1.modCmd n fun c => { c with lows := c.lows.insert i lo.2 } := by
  simp only [State.beginRow, Option.isNone_none, Bool.and_self, if_true, Nat.add_zero, hfree]

/-- R245: a row whose index is read in full is skipped where it does not end below 2^48 or a page of it does not translate. -/
theorem State.beginRow_index {given : Option (Nat × Bool)} {low : Nat × Bool}
    (hlow : (x64 = false ∧ low = (0, false)) ∨ (x64 = true ∧ given = some low)) :
    let last := if x64 then idx + 8 * i + 4 else idx + 4 * i
    let q := s.engRead g false fi last
    let r := (tbase + (if x64 then low.1 + q.2.1 * 2 ^ 32 else q.2.1) * stride) % 2 ^ 64
    let bad := q.2.2 || low.2
    let sp := q.1.spaceOf (.gang g 0)
    let skip := fun (u : State) => u.beginWork n i none fun c =>
      { c with poison := c.poison || bad, rowfault := true, skipped := c.skipped + 1 }
    s.snoopHost (engLines false fi last 1) = none →
    (2 ^ 48 < r + row → s.beginRow n g x64 idx tbase stride row dst fi given i = skip q.1) ∧
    (r + row ≤ 2 ^ 48 → q.1.snoopHost (((List.range ((r + row - 1) / 4096 - r / 4096 + 1)).map fun n =>
        (r / 4096 + n) * 4096).flatMap (q.1.walkLines sp)) = none → ∀ s2,
      (∀ e, q.1.translateRange sp .copyRead true r row = (s2, .error e) →
        s.beginRow n g x64 idx tbase stride row dst fi given i = skip s2) ∧
      (∀ fr, q.1.translateRange sp .copyRead true r row = (s2, .ok fr) →
        s.beginRow n g x64 idx tbase stride row dst fi given i =
          s2.beginWork n i (some ⟨r, dst + i * row, fr⟩) fun c => { c with poison := c.poison || bad })) := by
  intro last q r bad sp skip hfree
  have hbody : s.beginRow n g x64 idx tbase stride row dst fi given i =
      if 2 ^ 48 < r + row then skip q.1
      else
        match q.1.snoopHost (((List.range ((r + row - 1) / 4096 - r / 4096 + 1)).map fun n =>
            (r / 4096 + n) * 4096).flatMap (q.1.walkLines sp)) with
        | some s1 => s1
        | none =>
          match q.1.translateRange sp .copyRead true r row with
          | (s2, .error _) => skip s2
          | (s2, .ok fr) => s2.beginWork n i (some ⟨r, dst + i * row, fr⟩) fun c => { c with poison := c.poison || bad } := by
    rcases hlow with ⟨rfl, rfl⟩ | ⟨rfl, rfl⟩
    · simp only [last, Bool.false_eq_true, if_false] at hfree
      cases given with
      | none => simp only [State.beginRow, Bool.false_and, Bool.false_eq_true, if_false, hfree]; rfl
      | some l => simp only [State.beginRow, Bool.false_and, Bool.false_eq_true, if_false, hfree]; rfl
    · simp only [last, if_true] at hfree
      simp only [State.beginRow, Option.isNone_some, Bool.and_false, Bool.false_eq_true, if_false, if_true, hfree]
      rfl
  rw [hbody]
  refine ⟨fun h => if_pos h, fun hfits hwalk s2 => ⟨fun e hfault => ?_, fun fr hok => ?_⟩⟩
  · rw [if_neg (Nat.not_lt.2 hfits), hwalk, hfault]
  · rw [if_neg (Nat.not_lt.2 hfits), hwalk, hok]

end

section

variable {s : State} {n g tok tsize keys i : Nat} {bin : List (Nat × Nat × Nat)} {ft fk : Frames}
  (hfree : s.snoopHost (engLines false fk (keys + 4 * i) 1) = none)
include hfree

/-- R246: a token whose key names no bin is skipped. -/
theorem State.beginToken_badKey (hbin : bin[(s.engRead g false fk (keys + 4 * i)).2.1]? = none) :
    let k := s.engRead g false fk (keys + 4 * i)
    s.beginToken n g tok tsize keys bin ft fk i = k.1.beginWork n i none fun c =>
      { c with badkey := true, poison := c.poison || k.2.2, skipped := c.skipped + 1 } := by
  simp only [State.beginToken, hfree, hbin]

section

variable {cnt base cap : Nat} (hbin : bin[(s.engRead g false fk (keys + 4 * i)).2.1]? = some (cnt, base, cap))
  (howns : (s.engRead g false fk (keys + 4 * i)).1.owns (s.team (s.group g).team).part cnt = true)
  (hcount : (s.engRead g false fk (keys + 4 * i)).1.snoopHost [cnt / 128] = none)
include hbin howns hcount

theorem State.beginToken_full {s1 : State} :
    let k := s.engRead g false fk (keys + 4 * i)
    k.1.bumpBin (s.team (s.group g).team).cluster cnt cap (k.1.threadTag (.gang g 0)) = (s1, none) →
    s.beginToken n g tok tsize keys bin ft fk i = s1.beginWork n i none fun c =>
      { c with overflow := true, skipped := c.skipped + 1 } := by
  intro k hbump
  simp only [k] at hbump
  simp only [State.beginToken, hfree, hbin, howns, hcount, hbump, Bool.true_eq_false, if_false]

theorem State.beginToken_slot {s1 : State} {j : Nat} :
    let k := s.engRead g false fk (keys + 4 * i)
    k.1.bumpBin (s.team (s.group g).team).cluster cnt cap (k.1.threadTag (.gang g 0)) = (s1, some j) →
    s.beginToken n g tok tsize keys bin ft fk i = s1.beginWork n i (some ⟨tok + i * tsize, base + j * tsize, ft⟩) fun c =>
      { c with poison := c.poison || k.2.2 } := by
  intro k hbump
  simp only [k] at hbump
  simp only [State.beginToken, hfree, hbin, howns, hcount, hbump, Bool.true_eq_false, if_false, k]

end

end

end Sys2Proof.Machine

end

section
/-! PROOFS. The counter of a bin at its home slice (R246, R345). -/

namespace Sys2Proof.Machine

/-! ### Bytes of a sector under its partition's key (R345) -/

theorem Tbl.find?_put_ne {α : Type} [DecidableEq α] (d : α) (m : Tbl α) {k j : Nat} (v : α) (h : j ≠ k) :
    (m.put d k v).find? j = m.find? j := by
  unfold Tbl.put
  split
  · rw [Tbl.find?_erase, if_neg h]
  · rw [Tbl.find?_insert, if_neg h]

theorem memRead_congr {m m' : List Host.Cell} {a n : Nat} (h : ∀ b, a ≤ b → b < a + n → memByte m b = memByte m' b) :
    memRead m a n = memRead m' a n := by
  induction n generalizing a with
  | zero => rfl
  | succ n ih => rw [memRead, memRead, h a (le_refl a) (by omega), ih fun b hab hb => h b (by omega) (by omega)]

theorem memByte_foldl_congr {f f' : List Host.Cell → Nat → List Host.Cell} {b : Nat} {l : List Nat}
    (hf : ∀ i ∈ l, ∀ a a', memByte a b = memByte a' b → memByte (f a i) b = memByte (f' a' i) b) {m m' : List Host.Cell}
    (h : memByte m b = memByte m' b) : memByte (l.foldl f m) b = memByte (l.foldl f' m') b := by
  induction l generalizing m m' with
  | nil => exact h
  | cons i l ih => exact ih (fun j hj => hf j (List.mem_cons_of_mem _ hj)) (hf i List.mem_cons_self _ _ h)

/-- What a sector reads as under another key depends on the bytes of that sector alone. -/
theorem memByte_recipher_congr (new old : BitVec 512) {pa : Nat} {m m' : List Host.Cell}
    (h : ∀ b, b / 64 = pa / 64 → memByte m b = memByte m' b) {b : Nat} (hb : b / 64 = pa / 64) :
    memByte (recipher new old pa m) b = memByte (recipher new old pa m') b := by
  refine memByte_foldl_congr (fun i hi a a' haa => ?_) (h b hb)
  have hi := List.mem_range.1 hi
  have hread : memRead m (pa / 64 * 64 + 16 * i) 16 = memRead m' (pa / 64 * 64 + 16 * i) 16 :=
    memRead_congr fun b hlow hhigh => h b (by omega)
  dsimp only
  rw [hread, memByte_memWrite, memByte_memWrite, haa]

section

variable {s : State}

/-- R345: a byte read at home is the one that stands there once its sector is under its partition's key. -/
theorem State.homeByte_eq_rekey (x : Nat) : s.homeByte x = memByte (s.rekey x).mem x := by
  have hone : ∀ m : List Host.Cell, BitVec.ofNat 8 (memRead m x 1) = memByte m x := fun m =>
    BitVec.eq_of_toNat_eq (by simp [memRead])
  unfold State.homeByte State.homeValue State.rekey
  split
  · exact hone _
  · exact hone _

theorem State.memByte_rekey_congr {a b : Nat} (h : a / 64 = b / 64) (x : Nat) :
    memByte (s.rekey a).mem x = memByte (s.rekey b).mem x := by
  simp only [State.rekey, s.foreign_congr h, s.keyOf_congr h, recipher_congr _ _ _ h]

/-- A byte read at home depends on its sector's bytes and key, and on the partitions. -/
theorem State.homeByte_congr {t : State} {x : Nat} (hparts : t.parts = s.parts)
    (hkey : t.memKey.find? (x / 64) = s.memKey.find? (x / 64)) (hbytes : ∀ b, b / 64 = x / 64 → memByte t.mem b = memByte s.mem b) :
    t.homeByte x = s.homeByte x := by
  have hown : t.keyOf x = s.keyOf x := by simp only [State.keyOf, State.ownerOf, hparts]
  have hforeign : t.foreign x = s.foreign x := by simp only [State.foreign, hkey, hown]
  rw [State.homeByte_eq_rekey, State.homeByte_eq_rekey]
  simp only [State.rekey, hforeign]
  split
  · exact hbytes x rfl
  · rw [hown]
    exact memByte_recipher_congr _ _ hbytes rfl

/-! ### A write inside one sector -/

theorem State.homeByte_kept (x : Nat) : s.kept.homeByte x = s.homeByte x := rfl

theorem State.homeValue_kept (x n : Nat) : s.kept.homeValue x n = s.homeValue x n := rfl

section

variable {pa n v : Nat} (hn : 0 < n) (hfit : pa % 64 + n ≤ 64)
include hn hfit

theorem State.memStore_of_fits : (s.memStore pa n v).mem = memWrite (s.rekey (pa / 64 * 64)).mem pa n v ∧
    (s.memStore pa n v).memKey = (s.rekey (pa / 64 * 64)).memKey ∧ (s.memStore pa n v).parts = s.parts := by
  obtain ⟨m, k, e⟩ := s.rekey_eq (pa / 64 * 64)
  simp only [State.memStore, sectorsFrom_of_fits hn hfit, List.foldl_cons, List.foldl_nil, true_and]
  rw [e]

theorem State.foreign_memStore {a : Nat} (ha : a / 64 = pa / 64) : (s.memStore pa n v).foreign a = none := by
  obtain ⟨-, hkeys, hparts⟩ := s.memStore_of_fits (v := v) hn hfit
  exact State.foreign_of_rekeyed hkeys hparts (by omega)

theorem State.homeValue_memStore : (s.memStore pa n v).homeValue pa n = v % 256 ^ n := by
  obtain ⟨hmem, -, -⟩ := s.memStore_of_fits (v := v) hn hfit
  rw [State.homeValue_of_native n (State.foreign_memStore hn hfit rfl), hmem, memRead_memWrite]

/-- Bytes outside a write read at home as before, those of its sector under the new key too. -/
theorem State.homeByte_memStore_ne {x : Nat} (hx : x < pa ∨ pa + n ≤ x) : (s.memStore pa n v).homeByte x = s.homeByte x := by
  obtain ⟨hmem, hkeys, hparts⟩ := s.memStore_of_fits (v := v) hn hfit
  by_cases hsector : x / 64 = pa / 64
  · rw [State.homeByte_of_native _ (State.foreign_memStore hn hfit hsector), hmem, memByte_memWrite_ne _ _ hx,
      State.homeByte_eq_rekey]
    exact State.memByte_rekey_congr (by omega) x
  · have hbase : pa / 64 * 64 / 64 = pa / 64 := by omega
    refine State.homeByte_congr hparts ?_ fun b hb => ?_
    · rw [hkeys, s.memKey_rekey, hbase, Tbl.find?_put_ne _ _ _ hsector]
    · rw [hmem, memByte_memWrite_ne _ _ (by omega), s.memByte_rekey_ne (by omega)]

end

/-! ### The bump of a counter (R246) -/

theorem State.kept_requestAt (cpt line : Nat) (r : W64) (bad : Bool) : (s.requestAt cpt line r bad).kept = s.kept := by
  unfold State.requestAt
  split <;> rfl

theorem State.kept_carryPending (cpt line : Nat) : (s.carryPending cpt line).kept = s.kept :=
  (State.kept_signWrite _ _ _).trans (s.kept_requestAt _ _ _ _)

/-- What a bump that writes a value leaves at home. -/
theorem State.kept_bump (cpt cnt v part tag : Nat) :
    ((s.homeWrite cnt 4 v part tag).carryPending cpt (cnt / 128)).kept = (s.memStore cnt 4 v).kept :=
  (State.kept_carryPending _ _).trans (s.kept_homeWrite _ _ _ _ _)

end

/-- R246: a counter with room counts one and gives its old count as the slot; a full one keeps its count and sets its overflow bit. -/
theorem State.bumpBin_cases (s : State) (cpt cnt cap tag : Nat) :
    let v := (s.evictSector cpt (cnt / 128 * 128)).evictSector cpt (cnt / 128 * 128 + 64)
    let old := v.homeValue cnt 4
    (old % 2 ^ 31 < cap ∧ (s.bumpBin cpt cnt cap tag).2 = some (old % 2 ^ 31) ∧
      (s.bumpBin cpt cnt cap tag).1.kept = (v.memStore cnt 4 (old + 1)).kept) ∨
    (cap ≤ old % 2 ^ 31 ∧ (s.bumpBin cpt cnt cap tag).2 = none ∧
      (s.bumpBin cpt cnt cap tag).1.kept = (v.memStore cnt 4 (old % 2 ^ 31 + 2 ^ 31)).kept) := by
  intro v old
  by_cases h : old % 2 ^ 31 < cap
  · have hb : s.bumpBin cpt cnt cap tag = ((v.homeWrite cnt 4 (old + 1) (v.partOfCpt cpt) tag).carryPending cpt (cnt / 128),
      some (old % 2 ^ 31)) := if_pos h
    rw [hb]
    exact .inl ⟨h, rfl, State.kept_bump _ _ _ _ _⟩
  · have hb : s.bumpBin cpt cnt cap tag = ((v.homeWrite cnt 4 (old % 2 ^ 31 + 2 ^ 31) (v.partOfCpt cpt) tag).carryPending cpt
      (cnt / 128), none) := if_neg h
    rw [hb]
    exact .inr ⟨Nat.not_lt.1 h, rfl, State.kept_bump _ _ _ _ _⟩

theorem State.bumpBin_spec (s : State) {cpt cnt cap tag : Nat} (halign : cnt % 4 = 0) :
    let v := (s.evictSector cpt (cnt / 128 * 128)).evictSector cpt (cnt / 128 * 128 + 64)
    let old := v.homeValue cnt 4
    let b := s.bumpBin cpt cnt cap tag
    (old % 2 ^ 31 < cap → b.2 = some (old % 2 ^ 31) ∧ b.1.homeValue cnt 4 = (old + 1) % 2 ^ 32) ∧
    (cap ≤ old % 2 ^ 31 → b.2 = none ∧ b.1.homeValue cnt 4 = old % 2 ^ 31 + 2 ^ 31) ∧
    ∀ x, x < cnt ∨ cnt + 4 ≤ x → b.1.homeByte x = v.homeByte x := by
  intro v old b
  have hfit : cnt % 64 + 4 ≤ 64 := by omega
  rcases s.bumpBin_cases cpt cnt cap tag with ⟨hroom, hslot, hkept⟩ | ⟨hfull, hslot, hkept⟩
  · refine ⟨fun _ => ⟨hslot, ?_⟩, fun h => absurd hroom (Nat.not_lt.2 h), fun x hx => ?_⟩
    · rw [← State.homeValue_kept, hkept, State.homeValue_kept, State.homeValue_memStore (by decide) hfit]
      rfl
    · rw [← State.homeByte_kept, hkept, State.homeByte_kept, State.homeByte_memStore_ne (by decide) hfit hx]
  · refine ⟨fun h => absurd h (Nat.not_lt.2 hfull), fun _ => ⟨hslot, ?_⟩, fun x hx => ?_⟩
    · rw [← State.homeValue_kept, hkept, State.homeValue_kept, State.homeValue_memStore (by decide) hfit]
      exact Nat.mod_eq_of_lt (by omega)
    · rw [← State.homeByte_kept, hkept, State.homeByte_kept, State.homeByte_memStore_ne (by decide) hfit hx]

end Sys2Proof.Machine

end

section
/-! PROOFS. The copy engine's commands, from issue to completion. -/

open Sys2Proof Sys2Proof.Machine in
/-- Settles O46: the words by their checks in order; the events and turns by one equation for each case of the engine's work; a
counter's bump by what it writes into the one sector that holds it. -/
theorem copyCommands : Obligations.CopyCommands := by
  unfold Obligations.CopyCommands
  refine ⟨fun s s1 s2 t w a x y g k fs bs hc => ⟨fun hfull => ?_, fun hb => fun hroom => ?_, fun hb => ?_, fun hb => ?_⟩,
    ⟨fun s k => ?_, fun s n c hcmd => ?_, fun s n row word c w hcmd hdone hrow hword hbegun hmoved => ?_, fun s n i c hcmd hnone => ?_,
      fun s cpt cnt cap tag halign => s.bumpBin_spec halign⟩⟩
  · exact ⟨exec_copyFull hc rfl rfl hfull, exec_copyFull hc rfl rfl hfull, exec_copyFull hc rfl rfl hfull⟩
  · refine ⟨execCpy_parted hc hb hroom, execCpy_batch hc hb hroom, fun hwhole hbatch => ⟨execCpy_reserved hc hb hroom hwhole hbatch,
      execCpy_length hc hb hroom hwhole hbatch, fun halign hmax hcheck => ?_⟩⟩
    exact execCpy_issues hc hb hroom hwhole hbatch (Nat.lt_of_le_of_lt hmax (by decide))
      (not_or.2 ⟨not_not.2 halign, Nat.not_lt.2 hmax⟩) hcheck
  · refine ⟨execGather_batch hc hb, fun hroom hbatch => ⟨execGather_reserved hc hb hroom hbatch,
      fun hstride hnidx hmax hidxLen halign hrow hlow hhigh hout hidx htable hdst hcheck => ?_⟩⟩
    exact execGather_issues hc hb hroom hbatch (gatherCause_ok hstride hnidx hmax hidxLen halign hrow hlow hhigh hout) hidx htable hdst
      hcheck
  · exact ⟨execBinscat_batch hc hb, fun hroom hbatch => execBinscat_pinned hc hb hroom hbatch⟩
  · refine ⟨execCpyCollectiveStart_off, fun hon hready => ?_, fun hon hready => ?_, State.cpyReady_iff, State.startCpy_of_bytes⟩
    · exact (execCpyCollectiveStart_on hon).trans (congrArg _ (if_neg (Bool.not_eq_true _ ▸ hready)))
    · exact (execCpyCollectiveStart_on hon).trans (congrArg _ (if_pos hready))
  · have hrest := State.copyRest_of_cmd hcmd
    refine ⟨fun _ _ _ _ _ _ _ _ _ _ hdone hfree hk => ?_, fun _ _ _ _ _ _ _ _ _ hdone hfree hk => ?_,
      fun hidle => ⟨execGatherRun_idle hcmd hidle, execBinscatRun_idle hcmd hidle⟩, State.finishCopy_of_cmd hcmd, Cmd.copied_iff⟩
    · rw [execGatherRun_works hcmd hdone hfree hk, hrest]
    · rw [execBinscatRun_works hcmd hdone hfree hk, hrest]
  · exact ⟨fun s1 => State.copyWord_waits hcmd hdone hrow hword hbegun hmoved, State.copyWord_moves hcmd hdone hrow hword hbegun hmoved⟩
  · refine ⟨fun _ _ _ _ _ _ _ _ hk => State.beginPart_cpy hnone hk,
      fun word hdone hrow hword => State.copyWord_begins hcmd hdone hrow hword hnone,
      fun dSpad x64 idx nidx tbase stride row dst fi fd hk => ⟨fun hwide hlows hfree => ?_, fun low hlow => ?_⟩,
      fun sSpad tok ntok tsize keys tab bin ft fk hk => ⟨fun hlate => ?_, fun hnext hfree => ?_⟩⟩
    · rw [State.beginPart_gather hnone hk, hwide, hlows]
      exact State.beginRow_low hfree
    · rw [State.beginPart_gather hnone hk]
      exact State.beginRow_index hlow
    · rw [State.beginPart_binscat hnone hk, if_neg hlate]
    · rw [State.beginPart_binscat hnone hk, if_pos hnext]
      exact ⟨State.beginToken_badKey hfree, fun cnt base cap s1 hbin howns hcount =>
        ⟨State.beginToken_full hfree hbin howns hcount, fun j => State.beginToken_slot hfree hbin howns hcount⟩⟩

end
